-- ==== Sys2Proof/Word.lean ====
section
/-! DEFINITION. The word types of the block and their plainest arithmetic. -/

namespace Sys2Proof

/-- A byte. -/
abbrev Byte := BitVec 8
/-- A 64-bit register or linear-time value. -/
abbrev Word := BitVec 64
/-- A string of bytes, first byte first. -/
abbrev Bytes := List (BitVec 8)

end Sys2Proof
end

