-- ==== Sys2Proof/Syntax.lean ====
section
/-! DEFINITION. The commands of the block, whole: one constructor per row of the spec's table of operations, with the
row's operands.  Bytes read from outside the block (host memory, the wire, flash, a rail) arrive as operands; bytes the block
sends out leave through State's output list. -/

namespace Sys2Proof

/-- A logical core, 0-255 (R21). -/
abbrev Core := Fin 256
/-- A port, 0-255 (R21). -/
abbrev Port := Fin 256
/-- A SerDes lane, 0-255 (R69). -/
abbrev LaneIx := Fin 256
/-- A table, 0-255 (R21). -/
abbrev Table := Fin 256
/-- A descriptor ring, 0-16,383 (R21). -/
abbrev RingIx := Fin 16384
/-- A thread group, 0-4,095 (R21). -/
abbrev Group := Fin 4096
/-- A contract, 0-65,535 (R21). -/
abbrev ConIx := Fin 65536
/-- A ledger lane, 0-15 (R21). -/
abbrev Lane := Fin 16
/-- A port octet, 0-31 (R21). -/
abbrev Octet := Fin 32
/-- A journal queue, 0-63 (R21). -/
abbrev JQ := Fin 64
/-- A function in block-index numbering: 0 PF0, 1-127 VFs, 128 PF1 (R21). -/
abbrev Fn := Fin 129
/-- A Spur general register number (R167). -/
abbrev GReg := Fin 32

/-- Who a register access comes from (R17, R370, R428). -/
inductive Path where
  /-- PF0 BAR0, the sixteen domain windows. -/
  | pf0
  /-- The BAR0 window of VF `v` (R370). -/
  | vf (v : Fin 128)
  /-- PF1's window on the JOURNAL domain (R311). -/
  | pf1
  /-- Control firmware or a bundle register list: native rules always (R410, R428). -/
  | native
  /-- The configuration space of a function, and the MSI-X table in its BAR4 (R311, R313). -/
  | cfg (f : Fn)
  | bar4 (f : Fn)
  /-- A request to a function that no window answers: I/O, AtomicOp, locked, a vendor-defined message other than SPDM's, memory outside
  every BAR (R324). -/
  | unsupported (f : Fn)
  deriving DecidableEq, Repr

/-- The Spur context an instruction runs in: a thread, a core's background context, or a control core (R132, R161). -/
inductive Ctx where
  | thr (c : Core) (t : Fin 16)
  | bg (c : Core)
  | cc (k : Fin 8)
  deriving DecidableEq, Repr

/-- A domain replica of linear time (R28, R43). -/
inductive Replica where
  | ridge (r : Fin 16)
  | control (k : Fin 8)
  | ppc
  | hic
  | mic (ch : Fin 8)
  | octet (o : Octet)
  deriving DecidableEq, Repr

/-- The context a Zoano packet is sent through: a work queue, the twin context, or a replica context (R270, R288, R381). -/
inductive SendCtx where
  | wq (n : Fin 4096)
  | twin
  | peer (bank p : Fin 2)
  deriving DecidableEq, Repr

/-- The contents of a flash slot, or of an image that is to be written to one: its bytes by offset from the slot's start, an unlisted
byte being 0 (R391). -/
structure FlashImage where
  bytes : List (Nat × BitVec 8)
  deriving DecidableEq, Repr

/-- A page-cache fill: the control core that needs the page, the one its duties pass to should it wait, and the page's address in external
memory (R394). -/
structure PageNeed where
  core : Fin 8
  other : Fin 8
  addr : BitVec 64
  deriving DecidableEq, Repr

/-- A memory word as Scree meets it, by what holds it (R445). -/
inductive MemWord where
  | table (t : Table) (key : Bytes) (plen : Nat)
  | buffer (fid : Nat)
  | scratch (c : Core) (off : Fin 65536)
  | shared (ridge : Fin 16) (off : Fin 2097152)
  | staging (l : Lane)
  | retention (l : Lane) (seq : Nat)
  | dup (key : Nat)
  | ext (addr : Nat)
  /-- An on-die word of no other row, by its number. -/
  | sram (n : Nat)
  deriving DecidableEq, Repr

/-- What the PTP protocol engine settles as it meets a message (R58, R59): whether the device is no clock of a PTP domain, a leader, or
an ordinary or boundary clock that follows a parent of `steps` removed steps and an error bound of `eb` × 0.25 ns. -/
inductive PtpRole where
  | none
  | leader
  | follower (steps eb : Nat)
  | boundary (steps eb : Nat)
  deriving DecidableEq, Repr

/-- What IEEE 1588-2019 makes the engine do with a message: the offset θ it derives, if any, and its new role, if it changes.  The
standard is no part of the spec, so both are operands (assumption 54). -/
structure PtpSeen where
  theta : Option (BitVec 64)
  role : Option PtpRole
  deriving DecidableEq, Repr

/-- What a word's code reports: good, corrected, uncorrectable, or read at another address than it was written for (R442, R443). -/
inductive EccFound where
  | good | corrected | uncorrectable | address
  deriving DecidableEq, Repr

/-- A block that may be put to sleep (R457). -/
inductive SleepBlock where
  | core (c : Core)
  | port (n : Port)
  | memCh (ch : Fin 8)
  deriving DecidableEq, Repr

/-- A reference input that can be lost (R483, R484). -/
inductive ClkInput where
  | pcieRef
  | sysRef
  | sdsRef (k : Fin 4)
  | xtal
  deriving DecidableEq, Repr

/-- A JTAG instruction (R513). -/
inductive JtagIr where
  | bypass | idcode | sample | extest | debugPort
  deriving DecidableEq, Repr

/-- What a port's receiver reports: a local fault, and the lanes whose adaptation is outside limits (R72, R88). -/
structure LaneFault where
  fault : Bool
  adapt : BitVec 8
  deriving DecidableEq, Repr

/-- A debugger's halt: the thread, and whether breakpoints are enabled on its core from then on (R156, R182; assumption 122). -/
structure HaltAt where
  thread : Fin 16
  brk : Bool
  deriving DecidableEq, Repr

/-- An interrupt input of a control core (R136, R185). -/
structure CcInput where
  core : Fin 8
  input : Fin 6
  deriving DecidableEq, Repr

/-- A packet that is sent again: its index in its message, and what host memory then holds at the source (R280, R301). -/
structure Resend where
  ix : Nat
  data : Bytes
  deriving DecidableEq, Repr

/-- THE COMMANDS OF THE BLOCK, one constructor per row of spec/opcode_table.json, in the table's order.  A docstring gives
the row's mnemonic and the rule it stands under. -/
inductive Instr where
  /-- REGISTER_WRITE (R418): A write to a register with no row of its own is accepted or ignored and counted under the write rule, applied as a whole. -/
  | registerWrite (path : Path) (addr : Nat) (size : Nat) (v : BitVec 64)
  /-- SYS_BLK_QUERY (R26): A write of a block reference starts a query whose result appears in SYS_BLK_QUERY_RES within 100 ns, and qseq advances. -/
  | sysBlkQuery (ref : BitVec 64)
  /-- SYS_MODE_WRITE (R428): A write changing kw_regs is accepted only with the update buffer empty and no strobe pending, otherwise counted in SYS_UPD_OVF. -/
  | sysModeWrite (v : BitVec 32)
  /-- SYS_UPD_STROBE (R430): A strobe write adds its groups to the pending mask and fixes the strobe tick T. -/
  | sysUpdStrobe (v : BitVec 32)
  /-- STROBE_TICK (R431): At T, held writes of pending groups are applied, discarded, written to inactive banks with swaps armed, or kept. -/
  | strobeTick
  /-- TMR_SCAN (R434): A background scan votes every TMR field at least every 1 ms and rewrites differing copies. -/
  | tmrScan
  /-- EPOCH_BEGIN (R38): At each LT with bits [35:0] zero, CREST_EPOCH advances, MAP advances, and the epoch TQW of the closed epoch is fixed. -/
  | epochBegin
  /-- CREST_SAMPLE_AT (R48): A write stages the LT measurement instant of the next software sample. -/
  | crestSampleAt (t : BitVec 64)
  /-- CREST_SAMPLE_OFS (R48): A write of θ submits a software offset sample with the staged instant to the servo. -/
  | crestSampleOfs (theta : BitVec 64)
  /-- SERVO_SAMPLE (R51): The servo accepts or discards a sample, applies the loop law, moves among its states and may make a step pending, within 1 µs of submission. -/
  | servoSample
  /-- SERVO_TIMEOUT (R51): No accepted sample for timeout epochs moves ACQUIRE or LOCKED to HOLDOVER with the addend frozen and ref_lost set. -/
  | servoTimeout
  /-- CREST_BANK_SWAP (R53): Writing 1 makes a servo bank swap pending for the next epoch beginning. -/
  | crestBankSwap (v : BitVec 32)
  /-- REPLICA_TRACK (R43): Every 1.024 µs each LT replica is compared with the Crest and its rate corrected; out-of-limit raises a fault. -/
  | replicaTrack (rep : Replica) (clock : BitVec 64)
  /-- REF_TIME_LOST (R61): No REF_TIME edge for 1 µs: the CTC PLL switches to REFCLK_SYS by slewing, ref_lost is set and a Cairn record written. -/
  | refTimeLost
  /-- REF_TIME_REGAINED (R61): After 1,000 good edges the CTC PLL returns to REF_TIME by slewing. -/
  | refTimeRegained
  /-- CAPTURE_EDGE (R62): A configured edge on TCI0–3 or PPS_IN latches LT less the delay into the FIFO, or counts an overflow; PPS_IN may feed the servo. -/
  | captureEdge (i : Fin 5) (rising : Bool)
  /-- CREST_CAP_DATA_READ (R63): A read returns and removes the oldest capture, or all-ones when the FIFO is empty. -/
  | crestCapDataRead (i : Fin 5)
  /-- CREST_CMP_ARM (R64): A write of target LT arms compare unit k if the target lies 1 µs to 2^46 ns ahead, else sets refused. -/
  | crestCmpArm (k : Fin 64) (target : BitVec 64)
  /-- CMP_FIRE (R65): An armed compare unit fires at its target and performs its TTO, swap, event or interrupt action, then disarms or re-arms by its period. -/
  | cmpFire (k : Fin 64)
  /-- CREST_CMP_DIS (R65): Writing 1 disarms the compare unit at the next CTC tick. -/
  | crestCmpDis (k : Fin 64) (v : BitVec 32)
  /-- PPS_OUT_RISE (R67): PPS_OUT rises where FT crosses a whole TAI second plus the phase offset, subject to free_run and steps. -/
  | ppsOutRise
  /-- PPS_OUT_FALL (R67): PPS_OUT falls after its configured width. -/
  | ppsOutFall
  /-- PORT_ENABLE (R95): Setting PORT_CTL.en, if allowed by lane and profile rules, gives the port, its queues and Col list new incarnations and starts link bring-up. -/
  | portEnable (n : Port)
  /-- PORT_DISABLE (R94): Clearing PORT_CTL.en, refused while contracts name the port, discards queued frames and cancels pending TM and Col swaps. -/
  | portDisable (n : Port)
  /-- PORT_LINK_UP (R516): Block, FEC and lane alignment achieved set PORT_STA.link to 1. -/
  | portLinkUp (n : Port) (skewNs : Nat)
  /-- PORT_LINK_FAULT (R82): A local or remote fault is shown and fault ordered sets are sent only between frames, transmission continuing. -/
  | portLinkFault (n : Port) (localFault : LaneFault) (remoteFault : Bool)
  /-- INGRESS_STAMP (R84): The first bit after the start-of-frame delimiter crosses the receive plane and the stamp point latches the calibrated ingress LT and FT. -/
  | ingressStamp (n : Port) (lane : Fin 8) (frame : Bytes)
  /-- CLASSIFY (R101): At the fixed parse time the classifier matches the frame to a contract entry by port, key, presence and interval, and the policer colours it. -/
  | classify (fid : Nat)
  /-- RX_FRAME_END (R104): At the frame's end the FCS result is known, the policer settles its charge, and failed or runt frames are discarded or stomped. -/
  | rxFrameEnd (fid : Nat) (rxError : Bool)
  /-- PAUSE_RX (R234): A good PAUSE or PFC frame is consumed, counted and, if pfc_rx is 1, pauses the named queues. -/
  | pauseRx (n : Port) (frame : Bytes)
  /-- PAUSE_END (R234): The pause quanta of a received PAUSE or PFC frame run out and the queue resumes. -/
  | pauseEnd (n : Port) (q : Fin 16)
  /-- POLICER_WALK (R105): A background walker accrues every policer at least once every 2^36 ns. -/
  | policerWalk
  /-- LEARN (R113): Within 2 µs of a good frame's end the learner inserts, rewrites or refreshes the source entry, or counts a learn drop. -/
  | learn
  /-- AGE_VISIT (R115): The ager visits an entry and deletes it by compare-and-delete if older than max_age or naming a stale port. -/
  | ageVisit (t : Table) (key : Bytes) (plen : Nat)
  /-- LOOKUP_RESULT (R109): A lookup's 64-bit result and status return exactly at the table latency after issue. -/
  | lookupResult (c : Core) (t : Fin 16) (l : Fin 4)
  /-- PARITY_REPAIR (R118): Scree repairs a parity-failed entry from its code within 1 ms, or deletes it if uncorrectable. -/
  | parityRepair (t : Table) (key : Bytes) (plen : Nat)
  /-- TABLE_ENABLE (R108): Setting en draws capacity from the kind's pool, or the write is ignored and counted if the pool lacks room. -/
  | tableEnable (t : Table)
  /-- TABLE_DISABLE (R521): Clearing en discards every entry and returns capacity to the pool at once. -/
  | tableDisable (t : Table)
  /-- SEARCH (R124): Table command returning the entry for a key or NOT_FOUND. -/
  | search (r : RingIx) (e : Bytes)
  /-- NEXT (R126): Table command writing up to the requested count of records to a host buffer and returning a new cursor. -/
  | next (r : RingIx) (e : Bytes)
  /-- INSERT (R124): Table command adding an entry, with relocation and eviction under R117. -/
  | insert (r : RingIx) (e : Bytes)
  /-- DELETE (R124): Table command removing an entry or returning NOT_FOUND. -/
  | delete (r : RingIx) (e : Bytes)
  /-- FLUSH_BY_PORT (R125): Table command starting a background pass that deletes port-typed entries naming a port. -/
  | flushByPort (r : RingIx) (e : Bytes)
  /-- FLUSH_BY_PORT_DONE (R125): The flush pass ends and its completion is posted. -/
  | flushByPortDone (r : RingIx) (idx : BitVec 32)
  /-- MC_SET (R120): Table command atomically replacing a multicast group's port set and queue and giving it a new incarnation. -/
  | mcSet (r : RingIx) (e : Bytes)
  /-- DISPATCH (R144): At the dispatch instant the dispatcher hands the frame to an idle member, queues it, or drops it. -/
  | dispatch (fid : Nat)
  /-- DISPATCH_QUEUED (R146): A queued frame goes in ingress-stamp order to a member that becomes idle, starting its budget timer. -/
  | dispatchQueued (g : Group)
  /-- BUDGET_EXPIRY (R149): The budget timer expires: the frame ends DROP_BUDGET or is forwarded to ovr_q, and the thread returns to idle WAIT. -/
  | budgetExpiry (c : Core) (t : Fin 16)
  /-- TIMER_FIRE (R139): A thread timer's target is reached and its latched event input is set. -/
  | timerFire (x : Ctx) (k : Fin 4)
  /-- SPUR_SLOT_AT (R133): A write of target LT arms a slot-table swap if timing, pending and entry-keeping conditions hold, else sets slot_refused. -/
  | spurSlotAt (c : Core) (target : BitVec 64)
  /-- SLOT_TABLE_SWAP (R133): At the first table-cycle boundary at or after the target, the slot-table banks exchange. -/
  | slotTableSwap (c : Core)
  /-- WAIT_CYCLE (R154): Within 64 ns of a core's wait cycle arising, its threads are PARKED, status set and the supervisor told with a Cairn record. -/
  | waitCycle (c : Core)
  /-- SPUR_CORE_REL (R155): A write raises the named SEV line of the named thread to release a parked core. -/
  | spurCoreRel (c : Core) (v : BitVec 32)
  /-- SPUR_CORE_DB (R136): A write raises a host doorbell event input of the named thread. -/
  | spurCoreDb (c : Core) (v : BitVec 32)
  /-- SPUR_THR_RST (R159): A write resets the named threads not holding a frame to their entry points with state cleared. -/
  | spurThrRst (c : Core) (v : BitVec 32)
  /-- SPUR_CORE_FAIL (R157): A physical core fault stops the logical core, resolves its frames DROP_FAULT and starts sparing, or repair if no spare. -/
  | spurCoreFail (c : Core)
  /-- SPARE_DONE (R157): After the scratch and table copy, threads restart on the spare, the incarnation increments and SPUR_SPARE is recorded. -/
  | spareDone (c : Core) (lost : List Nat)
  /-- SPARE_RETURN (R158): A retired physical core that passes Scree's self test becomes the ridge's new spare. -/
  | spareReturn (r : Fin 16)
  /-- CC_FAIL (R161): A failed control core's duties and ridges pass to another control core. -/
  | ccFail (k : Fin 8) (byCore : Fin 8)
  /-- DEBUG_HALT (R156): A debugger halts a data-profile thread, its slots going to BG while its budget keeps running. -/
  | debugHalt (c : Core) (t : HaltAt)
  /-- DEBUG_RESUME (R156): A halted thread resumes from the halt or restarts at its entry if its frame expired. -/
  | debugResume (c : Core) (t : Fin 16)
  /-- ACTIVATE (R150): Mailbox command loading new images for groups at an instant as a new program epoch, or refused with a status. -/
  | activate (f : Fn) (seq : BitVec 32) (body : Bytes) (images : List Bytes)
  /-- OLD_IMAGES_RETIRE (R152): Once 1 µs has passed after at and no frame stamped before at remains, the old image banks become inactive. -/
  | oldImagesRetire
  /-- GROUP_CREATE (R524): Manager command creating a thread group at the lowest free index of a ridge. -/
  | groupCreate (f : Fn) (seq : BitVec 32) (body : Bytes)
  /-- GROUP_DELETE (R524): Manager command unloading a group's images and freeing its index. -/
  | groupDelete (f : Fn) (seq : BitVec 32) (body : Bytes)
  /-- ALU_ADD (R168): Instruction gd = ga + gb. -/
  | aluAdd (x : Ctx) (gd ga gb : GReg)
  /-- ALU_SUB (R168): Instruction gd = ga − gb. -/
  | aluSub (x : Ctx) (gd ga gb : GReg)
  /-- ALU_AND (R168): Instruction gd = ga AND gb. -/
  | aluAnd (x : Ctx) (gd ga gb : GReg)
  /-- ALU_OR (R168): Instruction gd = ga OR gb. -/
  | aluOr (x : Ctx) (gd ga gb : GReg)
  /-- ALU_XOR (R168): Instruction gd = ga XOR gb. -/
  | aluXor (x : Ctx) (gd ga gb : GReg)
  /-- ALU_ANDN (R168): Instruction gd = ga AND NOT gb. -/
  | aluAndn (x : Ctx) (gd ga gb : GReg)
  /-- ALU_MUL (R168): Instruction gd = low 64 bits of ga × gb. -/
  | aluMul (x : Ctx) (gd ga gb : GReg)
  /-- ALU_MULHU (R168): Instruction gd = high 64 bits of unsigned ga × gb. -/
  | aluMulhu (x : Ctx) (gd ga gb : GReg)
  /-- ALU_MINU (R168): Instruction gd = unsigned minimum. -/
  | aluMinu (x : Ctx) (gd ga gb : GReg)
  /-- ALU_MAXU (R168): Instruction gd = unsigned maximum. -/
  | aluMaxu (x : Ctx) (gd ga gb : GReg)
  /-- ALU_MINS (R168): Instruction gd = signed minimum. -/
  | aluMins (x : Ctx) (gd ga gb : GReg)
  /-- ALU_MAXS (R168): Instruction gd = signed maximum. -/
  | aluMaxs (x : Ctx) (gd ga gb : GReg)
  /-- ALU_POPC (R168): Instruction gd = population count of ga. -/
  | aluPopc (x : Ctx) (gd ga gb : GReg)
  /-- ALU_CLZ (R168): Instruction gd = leading zero count of ga. -/
  | aluClz (x : Ctx) (gd ga gb : GReg)
  /-- ALU_CTZ (R168): Instruction gd = trailing zero count of ga. -/
  | aluCtz (x : Ctx) (gd ga gb : GReg)
  /-- ALU_BSWAP (R168): Instruction gd = byte-reversed ga. -/
  | aluBswap (x : Ctx) (gd ga gb : GReg)
  /-- SHIFT_SLL (R168): Instruction shifting ga left logically by gb[5:0]. -/
  | shiftSll (x : Ctx) (gd ga gb : GReg)
  /-- SHIFT_SRL (R168): Instruction shifting ga right logically by gb[5:0]. -/
  | shiftSrl (x : Ctx) (gd ga gb : GReg)
  /-- SHIFT_SRA (R168): Instruction shifting ga right arithmetically by gb[5:0]. -/
  | shiftSra (x : Ctx) (gd ga gb : GReg)
  /-- SHIFT_ROL (R168): Instruction rotating ga left by gb[5:0]. -/
  | shiftRol (x : Ctx) (gd ga gb : GReg)
  /-- SHIFT_ROR (R168): Instruction rotating ga right by gb[5:0]. -/
  | shiftRor (x : Ctx) (gd ga gb : GReg)
  /-- CMP_EQ (R168): Instruction gd = 1 if ga equals gb. -/
  | cmpEq (x : Ctx) (gd ga gb : GReg)
  /-- CMP_NE (R168): Instruction gd = 1 if ga differs from gb. -/
  | cmpNe (x : Ctx) (gd ga gb : GReg)
  /-- CMP_LTU (R168): Instruction gd = 1 if ga < gb unsigned. -/
  | cmpLtu (x : Ctx) (gd ga gb : GReg)
  /-- CMP_LTS (R168): Instruction gd = 1 if ga < gb signed. -/
  | cmpLts (x : Ctx) (gd ga gb : GReg)
  /-- CMP_LEU (R168): Instruction gd = 1 if ga ≤ gb unsigned. -/
  | cmpLeu (x : Ctx) (gd ga gb : GReg)
  /-- CMP_LES (R168): Instruction gd = 1 if ga ≤ gb signed. -/
  | cmpLes (x : Ctx) (gd ga gb : GReg)
  /-- ADDI (R168): Instruction gd = ga + sign-extended immediate. -/
  | addi (x : Ctx) (gd ga : GReg) (imm : BitVec 16)
  /-- ANDI (R168): Instruction gd = ga AND zero-extended immediate. -/
  | andi (x : Ctx) (gd ga : GReg) (imm : BitVec 16)
  /-- ORI (R168): Instruction gd = ga OR zero-extended immediate. -/
  | ori (x : Ctx) (gd ga : GReg) (imm : BitVec 16)
  /-- XORI (R168): Instruction gd = ga XOR zero-extended immediate. -/
  | xori (x : Ctx) (gd ga : GReg) (imm : BitVec 16)
  /-- SHI (R168): Instruction shifting or rotating ga by an immediate amount of the selected kind. -/
  | shi (x : Ctx) (gd ga : GReg) (k : Fin 8) (n : Fin 64)
  /-- CEQI (R168): Instruction gd = 1 if ga equals the sign-extended immediate. -/
  | ceqi (x : Ctx) (gd ga : GReg) (imm : BitVec 16)
  /-- CLTUI (R168): Instruction gd = 1 if ga is below the zero-extended immediate, unsigned. -/
  | cltui (x : Ctx) (gd ga : GReg) (imm : BitVec 16)
  /-- CLTSI (R168): Instruction gd = 1 if ga is below the sign-extended immediate, signed. -/
  | cltsi (x : Ctx) (gd ga : GReg) (imm : BitVec 16)
  /-- MOVZ (R168): Instruction placing an immediate in a 16-bit field of gd, zeroing the rest. -/
  | movz (x : Ctx) (gd : GReg) (imm : BitVec 16) (k : Fin 4)
  /-- MOVK (R168): Instruction placing an immediate in a 16-bit field of gd, keeping the rest. -/
  | movk (x : Ctx) (gd : GReg) (imm : BitVec 16) (k : Fin 4)
  /-- BFX (R168): Instruction extracting a bit field of ga with zero or sign extension. -/
  | bfx (x : Ctx) (gd ga : GReg) (pos len1 : Fin 64) (s : Bool)
  /-- BFI (R168): Instruction inserting the low bits of ga into a field of gd. -/
  | bfi (x : Ctx) (gd ga : GReg) (pos len1 : Fin 64)
  /-- CRC (R168): Instruction advancing a reflected CRC-32C or IEEE CRC-32 register over the low bytes of gb. -/
  | crc (x : Ctx) (gd ga gb : GReg) (w : Fin 4) (p : Bool)
  /-- LDS (R171): Instruction loading a 64-bit scratch word. -/
  | lds (x : Ctx) (gd ga : GReg) (off : BitVec 16)
  /-- LDSW (R171): Instruction loading a zero-extended 32-bit scratch word. -/
  | ldsw (x : Ctx) (gd ga : GReg) (off : BitVec 16)
  /-- STS (R171): Instruction storing a 64-bit scratch word. -/
  | sts (x : Ctx) (gs ga : GReg) (off : BitVec 16)
  /-- STSW (R171): Instruction storing a 32-bit scratch word. -/
  | stsw (x : Ctx) (gs ga : GReg) (off : BitVec 16)
  /-- LDR (R171): Instruction loading a 64-bit ridge shared word. -/
  | ldr (x : Ctx) (gd ga : GReg) (off : BitVec 16)
  /-- STR (R171): Instruction storing a 64-bit ridge shared word. -/
  | str (x : Ctx) (gs ga : GReg) (off : BitVec 16)
  /-- AMO_FADD (R172): Indivisible fetch-and-add on a shared word. -/
  | amoFadd (x : Ctx) (gd ga gb : GReg)
  /-- AMO_SWAP (R172): Indivisible swap on a shared word. -/
  | amoSwap (x : Ctx) (gd ga gb : GReg)
  /-- AMO_FOR (R172): Indivisible fetch-and-OR on a shared word. -/
  | amoFor (x : Ctx) (gd ga gb : GReg)
  /-- AMO_FAND (R172): Indivisible fetch-and-AND on a shared word. -/
  | amoFand (x : Ctx) (gd ga gb : GReg)
  /-- BEQ (R173): Branch forward by off if ga equals gb. -/
  | beq (x : Ctx) (ga gb : GReg) (off : BitVec 16)
  /-- BNE (R173): Branch forward by off if ga differs from gb. -/
  | bne (x : Ctx) (ga gb : GReg) (off : BitVec 16)
  /-- BR (R173): Unconditional branch by off. -/
  | br (x : Ctx) (off : BitVec 26)
  /-- LOOP (R174): Counted loop running the next len instructions min(ga, max) times. -/
  | loop (x : Ctx) (ga : GReg) (max : Fin 2048) (len : Fin 1024)
  /-- HLD (R176): Instruction loading header-buffer bytes big-endian into gd. -/
  | hld (x : Ctx) (gr ga : GReg) (w : Fin 4) (anchor : Fin 8) (off : BitVec 8)
  /-- HST (R176): Instruction writing bytes into the header buffer of the frame as transmitted. -/
  | hst (x : Ctx) (gr ga : GReg) (w : Fin 4) (anchor : Fin 8) (off : BitVec 8)
  /-- LKP (R177): Instruction issuing a table lookup of a claimed table into a lookup slot. -/
  | lkp (x : Ctx) (claim : Fin 16) (l : Fin 4) (ga gb : GReg)
  /-- LWT (R178): Instruction taking a lookup result and status and freeing the slot. -/
  | lwt (x : Ctx) (gd gs : GReg) (l : Fin 4)
  /-- CHW (R141): Instruction writing a staging-area word. -/
  | chw (x : Ctx) (ga : GReg) (k : Fin 8)
  /-- CHC (R141): Instruction committing the staged message to a channel, or failing if full. -/
  | chc (x : Ctx) (gd : GReg) (ch : Fin 1024) (n1 : Fin 8)
  /-- CHR (R141): Instruction removing the oldest channel message into the receive area. -/
  | chr (x : Ctx) (gd : GReg) (ch : Fin 1024)
  /-- CHG (R141): Instruction reading a receive-area word. -/
  | chg (x : Ctx) (gd : GReg) (k : Fin 8)
  /-- WFE (R137): Instruction waiting for any masked event and returning and clearing the pending bits. -/
  | wfe (x : Ctx) (gd ga : GReg)
  /-- SEV (R138): Instruction raising a SEV line of a context in the same ridge if the sender is its declared source. -/
  | sev (x : Ctx) (core : Fin 16) (cx : Fin 32) (line : Fin 8)
  /-- TNOW_LT (R168): Instruction reading the ridge-replica LT. -/
  | tnowLt (x : Ctx) (gd : GReg)
  /-- TNOW_BUDGET (R168): Instruction reading the budget remaining. -/
  | tnowBudget (x : Ctx) (gd : GReg)
  /-- TCMP_COMPARE (R179): Instruction comparing two LT values by signed difference. -/
  | tcmpCompare (x : Ctx) (gd ga gb : GReg)
  /-- TCMP_ARM (R139): Instruction arming a timer at a target under 2^46 ns ahead. -/
  | tcmpArm (x : Ctx) (gd ga : GReg) (k : Fin 4)
  /-- TCMP_DISARM (R139): Instruction disarming a timer. -/
  | tcmpDisarm (x : Ctx) (gd : GReg) (k : Fin 4)
  /-- EMIT_QUEUE (R180): Instruction ending the frame and sending it to a claimed egress queue, with optional two-step stamp and launch instant. -/
  | emitQueue (x : Ctx) (ga gb : GReg) (ts lt : Bool)
  /-- EMIT_MULTICAST (R180): Instruction ending the frame and sending it to a claimed multicast group. -/
  | emitMulticast (x : Ctx) (ga gb : GReg) (ts lt : Bool)
  /-- EMIT_HOST (R180): Instruction ending the frame and sending it to a claimed host ring. -/
  | emitHost (x : Ctx) (ga gb : GReg) (ts lt : Bool)
  /-- EMIT_FABRIC (R286): Instruction ending the frame and sending it as a Zoano WRITE or SEND through a claimed work queue. -/
  | emitFabric (x : Ctx) (ga gb : GReg) (ts lt : Bool)
  /-- EMIT_CIPHER (R297): Instruction ending the frame and sending it to the cipher engine under a claimed key. -/
  | emitCipher (x : Ctx) (ga gb : GReg) (ts lt : Bool)
  /-- EMIT_DROP (R180): Instruction ending the frame as a drop. -/
  | emitDrop (x : Ctx) (ga gb : GReg) (ts lt : Bool)
  /-- LEAF (R181): Instruction setting the frame annotation bits [55:0]. -/
  | leaf (x : Ctx) (ga : GReg)
  /-- CALL (R172): Control-profile call saving the return address in g31. -/
  | call (x : Ctx) (off : BitVec 26)
  /-- JR (R185): Control-profile jump to a byte address, trapping ALIGN if misaligned. -/
  | jr (x : Ctx) (ga : GReg)
  /-- MFS (R185): Control-profile read of a system register. -/
  | mfs (x : Ctx) (gd : GReg) (sr : BitVec 16)
  /-- MTS (R185): Control-profile write of a system register. -/
  | mts (x : Ctx) (ga : GReg) (sr : BitVec 16)
  /-- TLB_INVALIDATE_VA (R170): MMU invalidation of the translation for a VA. -/
  | tlbInvalidateVa (x : Ctx) (ga : GReg)
  /-- TLB_INVALIDATE_ASID (R170): MMU invalidation of an ASID. -/
  | tlbInvalidateAsid (x : Ctx) (ga : GReg)
  /-- TLB_INVALIDATE_ALL (R170): MMU invalidation of all translations. -/
  | tlbInvalidateAll (x : Ctx) (ga : GReg)
  /-- CACHE_CLEAN (R170): Clean of a data cache line. -/
  | cacheClean (x : Ctx) (ga : GReg)
  /-- CACHE_INVALIDATE (R170): Invalidate of a data cache line. -/
  | cacheInvalidate (x : Ctx) (ga : GReg)
  /-- CACHE_CLEAN_INVALIDATE (R170): Clean and invalidate of a data cache line. -/
  | cacheCleanInvalidate (x : Ctx) (ga : GReg)
  /-- CACHE_INVALIDATE_INSTRUCTION (R170): Invalidate of an instruction cache line. -/
  | cacheInvalidateInstruction (x : Ctx) (ga : GReg)
  /-- ERET (R185): Trap return to TRAP_PC restoring STATUS[0]. -/
  | eret (x : Ctx)
  /-- ENABLE_INTERRUPTS (R185): Control-profile instruction enabling interrupts. -/
  | enableInterrupts (x : Ctx)
  /-- DISABLE_INTERRUPTS (R185): Control-profile instruction disabling interrupts. -/
  | disableInterrupts (x : Ctx)
  /-- SYSCALL (R185): Control-profile instruction trapping with cause SYSCALL. -/
  | syscall (x : Ctx)
  /-- FENCE_MEMORY (R170): Orders all earlier memory accesses before later ones. -/
  | fenceMemory (x : Ctx)
  /-- FENCE_INSTRUCTION (R170): Orders earlier instruction fetches before later ones. -/
  | fenceInstruction (x : Ctx)
  /-- BRK (R182): Halts the thread if debug and breakpoints permit, otherwise no effect; traps in the control profile. -/
  | brk (x : Ctx) (code : BitVec 26)
  /-- INTERRUPT (R185): An interrupt to a control core traps to TRAP_VEC with cause INTERRUPT. -/
  | interrupt (k : CcInput)
  /-- HOST_HANDOVER (R343): 16 ns after an EMIT 2 the frame is handed to its RX ring if enabled, unfrozen and holding enough buffers. -/
  | hostHandover (fid : Nat)
  /-- FABRIC_HANDOVER (R286): 16 ns after an EMIT 3 the frame is handed to the fabric engine as a message, or refused. -/
  | fabricHandover (fid : Nat)
  /-- TM_ENQUEUE (R235): An emitted frame reaches the traffic manager and enters its class queue, or is discarded or resolved DROP_FAULT. -/
  | tmEnqueue (fid : Nat)
  /-- MC_COPY (R232): The replicator presents copies to a port octet and each copy enters its port's queue. -/
  | mcCopy (fid : Nat) (oct : Octet)
  /-- TM_SELECT (R218): When the transmitter will be free at a plane instant, the traffic manager selects a frame by strict, deficit and zero-quantum order and launches it. -/
  | tmSelect (p : Port)
  /-- EGRESS_STAMP (R85): The egress stamp is computed at MAC release and the frame's transmitted disposition is decided from the stamps. -/
  | egressStamp (p : Port)
  /-- TX_FRAME_END (R78): The transmitter ends the frame, with a stomped FCS if its input failed, and one-step fields and FCS are written as it passes. -/
  | txFrameEnd (p : Port)
  /-- REFILL_TICK (R221): At each LT with bits [23:0] zero, every shaper bucket is refilled. -/
  | refillTick
  /-- TM_SWAP_AT (R222): A write of target LT arms a TM bank swap if timing, pending, rate and check-mark conditions hold, else sets swap_refused. -/
  | tmSwapAt (p : Port) (target : BitVec 64)
  /-- COL_ARM (R227): Writing 1 converts the inactive base time to LT S and arms a Col switch if the conditions hold, else sets refused. -/
  | colArm (p : Port) (v : BitVec 32)
  /-- COL_SWITCH (R228): At S the new Col list begins at entry 0 and the old bank becomes inactive. -/
  | colSwitch (p : Port)
  /-- COL_ENTRY_ADVANCE (R225): An entry's duration ends and the next entry's gate bitmap takes effect, a new cycle starting after the last. -/
  | colEntryAdvance (p : Port)
  /-- ADMIT (R208): Contract request judged by the admission checks and, if admitted, written for activation at at. -/
  | admitCon (f : Fn) (seq : BitVec 32) (body : Bytes)
  /-- CHANGE (R209): Contract request judging a new version that replaces the old at at. -/
  | change (f : Fn) (seq : BitVec 32) (body : Bytes)
  /-- RETIRE (R210): Contract request ending the contract's validity at at and moving it to state 3. -/
  | retire (f : Fn) (seq : BitVec 32) (body : Bytes)
  /-- QUERY (R194): Contract request returning the record in force and its computed bounds. -/
  | query (f : Fn) (seq : BitVec 32) (body : Bytes)
  /-- RECHECK (R202): Request judging a port's inactive TM and Col banks and setting its check mark if all bounds hold. -/
  | recheck (f : Fn) (seq : BitVec 32) (body : Bytes)
  /-- CONTRACT_ACTIVATE (R208): At at an admitted contract moves to state 2, takes a new incarnation and fills its policer buckets. -/
  | contractActivate (c : ConIx)
  /-- CONTRACT_CHANGE_AT (R209): At at a changed contract takes a new incarnation, its buckets carried and capped. -/
  | contractChangeAt (c : ConIx)
  /-- CHANGE_RELEASED (R209): The old version's load is released once no earlier frame remains and req_p has passed. -/
  | changeReleased (c : ConIx)
  /-- CONTRACT_RELEASED (R210): A retiring contract with no frames left and req_p passed moves to state 0, freeing its resources. -/
  | contractReleased (c : ConIx)
  /-- LEAF_WRITE (R34): Within 2 µs of a ledgered frame's disposition the lane writes its leaf into staging and export. -/
  | leafWrite (l : Lane)
  /-- LEDGER_START (R242): At the first epoch beginning after the gate opens the ledger starts and lanes take incarnation 1. -/
  | ledgerStart
  /-- EPOCH_ROOT (R248): By the end of the following epoch each lane root and the epoch root are complete. -/
  | epochRoot
  /-- RECEIPT_SIGN (R250): A span's receipt body is built and signed with both signatures and exported, late signing recorded under R35. -/
  | receiptSign
  /-- EXPORT_RESUME (R255): When an export ring has space again the lane resumes from the oldest unexported retained record, posting a gap record if lost. -/
  | exportResume (l : Lane) (r : RingIx)
  /-- LED_RET_SWAP (R257): Writing 1 arms a retention bank swap at the next epoch beginning, refused while an old region is held. -/
  | ledRetSwap (l : Lane) (v : BitVec 32)
  /-- LED_RET_RELEASE (R257): Writing 1 releases the old retention region so its epochs answer GONE. -/
  | ledRetRelease (l : Lane) (v : BitVec 32)
  /-- PROOF (R259): Ledger command writing a proof for one leaf to a host buffer. -/
  | proof (r : RingIx) (e : Bytes)
  /-- RECEIPT (R258): Ledger command writing a retained receipt and appendix to a host buffer. -/
  | receipt (r : RingIx) (e : Bytes)
  /-- HASH_SPARE (R456): A failed hash pipeline is replaced, the lane's incarnation increments and its leaves are rebuilt from staging. -/
  | hashSpare (l : Lane)
  /-- ZOA_WRITE (R272): Work request sending a WRITE message to a remote window. -/
  | zoaWrite (r : RingIx) (e : Bytes) (data : Bytes)
  /-- ZOA_READ (R272): Work request sending a READ of a remote window range. -/
  | zoaRead (r : RingIx) (e : Bytes)
  /-- FETCH_ADD (R272): Work request sending an indivisible remote fetch-and-add. -/
  | fetchAdd (r : RingIx) (e : Bytes)
  /-- COMPARE_SWAP (R272): Work request sending an indivisible remote compare-and-swap. -/
  | compareSwap (r : RingIx) (e : Bytes)
  /-- ZOA_SEND (R272): Work request sending a SEND message to a remote receive queue. -/
  | zoaSend (r : RingIx) (e : Bytes) (data : Bytes)
  /-- ZOA_FLUSH (R274): Work request sent once earlier messages are final, completing OK only if all were OK. -/
  | zoaFlush (r : RingIx) (e : Bytes)
  /-- WIN_OPEN (R267): Fabric command opening a window with the next generation. -/
  | winOpen (r : RingIx) (e : Bytes)
  /-- WIN_SET (R267): Fabric command rewriting a window with the next generation. -/
  | winSet (r : RingIx) (e : Bytes)
  /-- WIN_CLOSE (R267): Fabric command closing a window and advancing its generation. -/
  | winClose (r : RingIx) (e : Bytes)
  /-- ZOA_PACKET_SEND (R275): A work queue sends its next paced packet on the next port of its set. -/
  | zoaPacketSend (q : SendCtx)
  /-- ZOA_REQ_RX (R277): A received REQ is checked for Δ, fitness and age, looked up in the duplicate set, checked against the window and placed or refused. -/
  | zoaReqRx (n : Port) (pkt host : Bytes)
  /-- ZOA_ACK_RX (R274): An ACK marks its range acknowledged and may make the message final OK. -/
  | zoaAckRx (n : Port) (pkt : Bytes)
  /-- ZOA_NAK_RX (R280): A NAK with a fatal status makes the message final at once; BUSY, NO_BUFFER and TIME_UNFIT do not. -/
  | zoaNakRx (n : Port) (pkt : Bytes)
  /-- ZOA_RESP_RX (R272): A RESP is placed at the requester's local address, or discarded if no message matches. -/
  | zoaRespRx (n : Port) (pkt : Bytes)
  /-- ZOA_RETRANSMIT (R280): An unacknowledged packet is retransmitted at its doubling interval, no later than Δ − 64 µs. -/
  | zoaRetransmit (msg : BitVec 48) (pktIx : Resend)
  /-- ZOA_MSG_TIMEOUT (R281): A message not final by 5Δ/4 after first send completes TIMEOUT or its last soft status. -/
  | zoaMsgTimeout (msg : BitVec 48)
  /-- DEDUP_EXPIRE (R277): A duplicate entry expires when its message's age reaches Δ. -/
  | dedupExpire (src : BitVec 32) (msg : BitVec 48)
  /-- QUARANTINE_END (R284): LT reaches ZOA_QUAR_END and the fabric leaves quarantine. -/
  | quarantineEnd
  /-- ZOA_DELTA_SWAP (R285): A write of target LT arms a Δ bank swap, refused if twin-watch miss would break R492. -/
  | zoaDeltaSwap (target : BitVec 64)
  /-- DELTA_SWAP_AT (R285): At t new messages use the new Δ while the old code is still honoured. -/
  | deltaSwapAt
  /-- OLD_DELTA_EXPIRE (R285): 5Δ_old/4 after the swap the receiver stops honouring the old Δ code. -/
  | oldDeltaExpire
  /-- ZOA_ENABLE (R265): Setting ZOA_CFG.en starts a new fabric session with a new source incarnation. -/
  | zoaEnable
  /-- WQ_CREATE (R270): Mailbox command creating a work queue from its context and giving it a new incarnation. -/
  | wqCreate (f : Fn) (seq : BitVec 32) (body : Bytes)
  /-- WQ_DESTROY (R270): Mailbox command taking a work queue out of service. -/
  | wqDestroy (f : Fn) (seq : BitVec 32) (body : Bytes)
  /-- TWIN_WATCH_ENABLE (R288): Setting ZOA_TWIN_CFG.en opens the twin window and starts heartbeats; clearing closes it. -/
  | twinWatchEnable (on : Bool)
  /-- TWIN_LOST (R288): No heartbeat placed for miss epochs sets lost, records TWIN_LOST and signals an interrupt. -/
  | twinLost
  /-- CIPHER_START (R292): The scheduler starts a message on a free core when its class share allows, suspending a less urgent one if needed. -/
  | cipherStart (id : Nat)
  /-- CIPHER_DONE (R295): A message finishes; decryptions release output only if the tag verifies, else it is zeroed and counted. -/
  | cipherDone (id : Nat)
  /-- ENCRYPT (R299): Cipher command encrypting host data under a host key. -/
  | encrypt (r : RingIx) (e : Bytes) (data : Bytes)
  /-- DECRYPT (R299): Cipher command decrypting host data under held release. -/
  | decrypt (r : RingIx) (e : Bytes) (data : Bytes)
  /-- GMAC_GEN (R299): Cipher command generating a GMAC tag. -/
  | gmacGen (r : RingIx) (e : Bytes) (data : Bytes)
  /-- GMAC_VER (R299): Cipher command verifying a GMAC tag. -/
  | gmacVer (r : RingIx) (e : Bytes) (data : Bytes)
  /-- KEY_SET (R305): Cipher command loading a checked key record into a disabled key block, enabling it and zeroing the host copy. -/
  | keySet (r : RingIx) (e : Bytes) (record : Bytes)
  /-- KEY_CLEAR (R305): Cipher command zeroing a key record and disabling it. -/
  | keyClear (r : RingIx) (e : Bytes)
  /-- CIPH_SHARE_SWAP (R293): A write of target LT arms a class-share swap if the admission checks pass, else sets swap_refused. -/
  | ciphShareSwap (target : BitVec 64)
  /-- SHARE_SWAP_AT (R293): At t the cipher share banks exchange. -/
  | shareSwapAt
  /-- CIPH_SECY_AT (R304): A write of target LT arms a transmit SA switch to next_an if it holds an enabled SA. -/
  | ciphSecyAt (n : Port) (target : BitVec 64)
  /-- SA_SWITCH_AT (R304): Frames launched at or after t use the new transmit SA. -/
  | saSwitchAt (n : Port)
  /-- CIPHER_ALARM (R307): A tamper, glitch, mesh or temperature alarm erases keys and engine state within 1 µs and resolves work in the engine. -/
  | cipherAlarm (src : Fin 5)
  /-- ALARM_CLEAR (R308): After every alarm cause has been absent for 1 ms the die key and signing keys are re-derived and KEY_SET accepted again. -/
  | alarmClear
  /-- CIPH_CORE (R290): A failed AES core is replaced by the spare, its message restarted, and the engine takes a new incarnation. -/
  | ciphCore (msg : Option Nat)
  /-- PERST_ASSERT (R318): PERST# resets the host interface with INDEP high, or the whole device with INDEP low. -/
  | perstAssert
  /-- PERST_DEASSERT (R319): Link training starts and configuration requests are answered per INDEP and boot state. -/
  | perstDeassert
  /-- HOT_RESET (R318): A hot reset or link disable resets the host interface as fundamental with INDEP high. -/
  | hotReset
  /-- FLR (R320): Initiate FLR stops a function's DMA, rings and interrupts and begins resetting its host-side state. -/
  | flr (f : Fn)
  /-- FLR_DONE (R320): Within 100 ms the function answers again with new incarnations and bus master enable 0. -/
  | flrDone (f : Fn)
  /-- VF_ENABLE (R309): Setting VF Enable brings VFs up to NumVFs onto the bus and into service. -/
  | vfEnable (numVfs : Fin 128)
  /-- BME_CLEAR (R322): Clearing bus master enable stops new requests, holds unsent writes and marks later completions discarded. -/
  | bmeClear (f : Fn)
  /-- BME_SET (R322): Setting bus master enable sends held writes and replays lost ring fetches from H. -/
  | bmeSet (f : Fn)
  /-- COMPLETION_RX (R322): A read completion arrives and is written, or discarded and counted if its function lost master enable. -/
  | completionRx (tag : Nat) (ok : Bool) (data : Bytes)
  /-- COMPLETION_TIMEOUT (R323): A read times out, is treated as a failed access and enters containment. -/
  | completionTimeout (tag : Nat)
  /-- UNCORRECTABLE_ERROR (R325): An uncorrectable PCIe error enters containment, or is counted if already contained. -/
  | uncorrectableError (f : Fn) (cause : Fin 9)
  /-- HOST_CONTAIN_RELEASE (R327): A 64-bit write of the current seq ends containment, sending held writes, resuming rings and pending MSI-X. -/
  | hostContainRelease (v : BitVec 64)
  /-- HOST_LOSS (R330): Leaving DL_Active without reset freezes functions within 10 µs and applies the host-interface reset. -/
  | hostLoss
  /-- LINK_RETURN (R331): On link return the host re-enumerates and functions re-attach with new incarnations. -/
  | linkReturn (speed : Fin 4) (width : Fin 32) (mps : Fin 3)
  /-- LINK_RETRAIN (R314): A retrain recomputes drain capacity C and sets short with a DRAIN_SHORT record if below admitted drain. -/
  | linkRetrain (speed : Fin 4) (width : Fin 32) (mps : Fin 3)
  /-- ATS_INVALIDATION (R315): An Invalidation Request stops use of matching entries and is completed once prior requests drain. -/
  | atsInvalidation (f : Fn) (page : BitVec 52) (pages : Nat)
  /-- MSIX_SEND (R313): A pending vector's message is sent once its function is unfrozen, ungated and unmasked. -/
  | msixSend (f : Fn) (vec : Fin 2048)
  /-- GET_VERSION (R316): SPDM request answered with version 1.2. -/
  | getVersion (req : Bytes)
  /-- GET_CAPABILITIES (R316): SPDM request answered with the responder capabilities. -/
  | getCapabilities (req : Bytes)
  /-- NEGOTIATE_ALGORITHMS (R316): SPDM request settling RSAPSS-3072 and SHA-384. -/
  | negotiateAlgorithms (req : Bytes)
  /-- GET_DIGESTS (R316): SPDM request returning certificate chain digests. -/
  | getDigests (req : Bytes)
  /-- GET_CERTIFICATE (R316): SPDM request returning part of the identity chain of slot 0. -/
  | getCertificate (req : Bytes)
  /-- CHALLENGE (R316): SPDM request answered with a signed CHALLENGE_AUTH. -/
  | challenge (req : Bytes)
  /-- GET_MEASUREMENTS (R316): SPDM request returning measurement blocks 1–5, signed if asked. -/
  | getMeasurements (req : Bytes)
  /-- SLH_SIG (R317): Vendor request returning the SLH-DSA signature over the immediately preceding signed response, else ERROR. -/
  | slhSig (req : Bytes)
  /-- SLH_CERT (R317): Vendor request returning a part of the SLH-DSA certificate chain. -/
  | slhCert (req : Bytes)
  /-- DOORBELL (R336): A doorbell write posts a new P, or a new C on a notification queue, or puts the ring in ERROR if out of limits. -/
  | doorbell (r : RingIx) (f : Fn) (v : BitVec 32)
  /-- RING_INVALIDATE (R345): A write discards cached entries of a range at or above H and sets inval_h. -/
  | ringInvalidate (r : RingIx) (f : Fn) (v : BitVec 64)
  /-- RING_SERVICE (R339): The Turast fetches and starts ring entries in rounds, stopping with ERROR at a malformed entry. -/
  | ringService (r : RingIx) (e : Bytes) (aux : Bytes)
  /-- TX_SEND (R341): TX command reading a whole frame and placing it in the named queue, completing at its egress stamp. -/
  | txSend (r : RingIx) (e : Bytes) (frame : Bytes)
  /-- RING_ENABLE (R344): Setting en gives the ring a new incarnation, updates host-ring claims and fetches from H. -/
  | ringEnable (r : RingIx) (f : Fn)
  /-- RING_DISABLE (R349): Clearing en puts the ring in DRAINING, discarding its cache and returning unused buffers. -/
  | ringDisable (r : RingIx) (f : Fn)
  /-- RING_DRAINED (R349): Once started entries complete the draining ring enters DISABLED. -/
  | ringDrained (r : RingIx)
  /-- RING_RESET_IDX (R349): A write sets P, H and C to one value while the ring is disabled. -/
  | ringResetIdx (r : RingIx) (f : Fn) (v : BitVec 32)
  /-- NOTIFY_LOST (R352): When a full notification queue has space, one LOST record is posted before new records. -/
  | notifyLost (r : RingIx)
  /-- TENANT_CREATE (R355): Manager command granting blocks exclusively to a new tenant VF. -/
  | tenantCreate (f : Fn) (seq : BitVec 32) (body : Bytes)
  /-- TENANT_QUERY (R359): Manager command returning a tenant's grant and state. -/
  | tenantQuery (f : Fn) (seq : BitVec 32) (body : Bytes)
  /-- TENANT_FREEZE (R362): Manager command freezing a tenant's rings, mailbox, interrupts and new fabric messages. -/
  | tenantFreeze (f : Fn) (seq : BitVec 32) (body : Bytes)
  /-- TENANT_FROZEN (R362): The freezing tenant becomes quiescent, reaches FROZEN and the freeze is answered. -/
  | tenantFrozen (v : Fin 128)
  /-- TENANT_THAW (R363): Manager command resuming a frozen tenant's rings and held interrupts. -/
  | tenantThaw (f : Fn) (seq : BitVec 32) (body : Bytes)
  /-- TENANT_SAVE (R364): Manager command writing a frozen tenant's sealed blob to host memory. -/
  | tenantSave (f : Fn) (seq : BitVec 32) (body : Bytes)
  /-- TENANT_RESTORE (R367): Manager command checking a blob and restoring a tenant on this device for activation at at. -/
  | tenantRestore (f : Fn) (seq : BitVec 32) (body : Bytes) (blob : Bytes)
  /-- TENANT_RESTORED (R361): LT reaches at and a restoring tenant becomes ACTIVE. -/
  | tenantRestored (v : Fin 128)
  /-- TENANT_DESTROY (R368): Manager command retiring a tenant's contracts at at and starting removal. -/
  | tenantDestroy (f : Fn) (seq : BitVec 32) (body : Bytes)
  /-- TENANT_REMOVED (R368): Once all contracts reach state 0 the tenant's blocks are cleared and returned and it becomes ABSENT. -/
  | tenantRemoved (v : Fin 128)
  /-- PTP (R58): Manager command carrying one IEEE 1588 management TLV to the protocol engine. -/
  | ptp (f : Fn) (seq : BitVec 32) (body : Bytes)
  /-- PTP_EVENT_RX (R89): A received PTP event message reaches the protocol engine with its ingress LT. -/
  | ptpEventRx (fid : Nat) (seen : PtpSeen)
  /-- JRN_WRITE (R379): Journal command accepted by doorbell to write blocks to the region and replicas. -/
  | jrnWrite (q : JQ) (v : BitVec 32) (slot : Bytes) (data : Bytes)
  /-- JRN_WRITE_START (R379): A WRITE starts once its data is staged and overlap waits are met, placing its blocks. -/
  | jrnWriteStart (q : JQ) (tag : Fin 32)
  /-- JRN_READ (R379): Journal command reading blocks of the local region to host memory. -/
  | jrnRead (q : JQ) (v : BitVec 32) (slot : Bytes)
  /-- JRN_FLUSH (R382): Journal command completing when covered WRITEs are placed locally and acknowledged by every peer. -/
  | jrnFlush (q : JQ) (v : BitVec 32) (slot : Bytes)
  /-- JRN_ABORT (R385): Journal command removing an unstarted target, completing CAUGHT or MISSED. -/
  | jrnAbort (q : JQ) (v : BitVec 32) (slot : Bytes)
  /-- JRN_REPLICA_SEND (R381): A started WRITE's replica is sent to each peer once no overlapping replica is unfinal. -/
  | jrnReplicaSend (q : JQ) (tag : Fin 32) (p : Fin 2)
  /-- JRN_PEER_SWAP (R374): A write of target LT arms a peer bank swap, refused while inactive-bank messages are unfinal. -/
  | jrnPeerSwap (target : BitVec 64)
  /-- PEER_SWAP_AT (R374): At t the journal peer banks exchange. -/
  | peerSwapAt
  /-- JRN_Q_DISABLE (R389): Clearing a journal queue's en aborts unstarted commands and disables the queue after started ones finish. -/
  | jrnQDisable (q : JQ)
  /-- BOOT_START (R395): From power-good the security processor runs self test, chooses and verifies a slot, copies parts in and applies the bundle. -/
  | bootStart
  /-- MEMORY_TRAINED (R519): An external memory channel's training completes and it enters service. -/
  | memoryTrained (ch : Fin 8) (speed : Fin 4) (ranks : Fin 4) (fastEnough : Bool)
  /-- GATE_OPEN (R397): Once all parts and the bundle are verified and applied the output gate opens. -/
  | gateOpen
  /-- PAGE_FILL (R394): A paged-part cache fill is checked against its page hash and refetched or reloaded on failure. -/
  | pageFill (page : PageNeed) (first second : Bytes)
  /-- IMAGE_STAGE (R405): Security command writing an image or bundle to a flash slot and verifying it. -/
  | imageStage (f : Fn) (seq : BitVec 32) (body : Bytes) (image : FlashImage)
  /-- FW_ACTIVATE (R415): Security command verifying a slot's firmware for live activation at at. -/
  | fwActivate (f : Fn) (seq : BitVec 32) (body : Bytes)
  /-- FW_SWITCH (R415): At at control cores then the SP change firmware one at a time and B2 takes the new digest. -/
  | fwSwitch
  /-- VERSION_RAISE (R398): Security command raising a minimum version through the record and one counter fuse. -/
  | versionRaise (f : Fn) (seq : BitVec 32) (body auth : Bytes)
  /-- KEY_REVOKE (R408): Security command blowing a slot's revoke fuse unless it is the last signer of an installed manifest. -/
  | keyRevoke (f : Fn) (seq : BitVec 32) (body auth : Bytes)
  /-- OWNER_ADD (R402): Security command programming an owner key slot 4–7. -/
  | ownerAdd (f : Fn) (seq : BitVec 32) (body auth : Bytes)
  /-- LIFECYCLE (R416): Security command blowing lifecycle fuses, effective at the next power-on reset. -/
  | lifecycle (f : Fn) (seq : BitVec 32) (body auth : Bytes)
  /-- RECEIPT_ROTATE (R413): Security command generating and certifying a new receipt key pair. -/
  | receiptRotate (f : Fn) (seq : BitVec 32)
  /-- CERT_READ (R402): Security command returning part of an identity or receipt certificate chain. -/
  | certRead (f : Fn) (seq : BitVec 32) (body : Bytes)
  /-- BUNDLE_LOAD (R411): Security command applying a bundle from host memory while the bundle waits, or opening the gate with none. -/
  | bundleLoad (f : Fn) (seq : BitVec 32) (body : Bytes) (bundle : FlashImage)
  /-- RECOV_BEGIN (R407): Recovery command starting reception of an image for a slot. -/
  | recovBegin (v : BitVec 64)
  /-- RECOV_CHUNK (R407): Recovery command taking a chunk from the aperture at the expected offset. -/
  | recovChunk (v : BitVec 64)
  /-- RECOV_COMMIT (R407): Recovery command programming and checking the slot and resuming boot if it passes. -/
  | recovCommit (v : BitVec 64) (image : FlashImage)
  /-- RECOV_ABORT (R407): Recovery command abandoning the reception in progress. -/
  | recovAbort (v : BitVec 64)
  /-- SCRUB_READ (R446): Scree reads a memory word in an unclaimed cycle and corrects, repairs or poisons it. -/
  | scrubRead (w : MemWord) (found : EccFound)
  /-- MAINT_WINDOW (R447): A channel enters a maintenance window of at most 20 µs while its partner is in none. -/
  | maintWindow (ch : Fin 8)
  /-- RANK_RETRAIN (R449): Scree retrains a rank after 10 °C of change or 24 h, in window slices. -/
  | rankRetrain (ch : Fin 8) (rank : Fin 2)
  /-- CHANNEL_FAIL (R449): A memory channel fails and a device fault is raised, its pair's extension copies served by its partner. -/
  | channelFail (ch : Fin 8)
  /-- CAL_MEASURE (R86): Scree measures a lane's stamp die part, the new offset taking effect at the next epoch beginning. -/
  | calMeasure (l : LaneIx) (rxDie txDie : BitVec 32)
  /-- THERMAL_SENSE (R451): Die sensors read every 16 µs set warn at 100 °C and a fault above 105 °C. -/
  | thermalSense (hottest : BitVec 16) (coldest : BitVec 16)
  /-- AGING_READ (R452): Aging monitors are read every 10 ms and header settings raised or an engine predicted to fail. -/
  | agingRead (engine : Nat) (marginMv : Nat)
  /-- TELEMETRY_FRAME (R455): Within 100 µs of an epoch close a telemetry frame is written to SYS_TELEM and optionally signalled. -/
  | telemetryFrame
  /-- BLOCK_SLEEP (R457): A core, port or channel disabled for more than 1 s is power-gated. -/
  | blockSleep (b : SleepBlock)
  /-- LANE_PAIR_FAIL (R456): A failed lane pair takes its ports to link 0 with local_fault and raises a device fault. -/
  | lanePairFail (m : Fin 128)
  /-- CAIRN_ACCEPT (R462): The front end accepts a record into its queue under the per-code rate limit, or discards it if full. -/
  | cairnAccept
  /-- CAIRN_LOST (R462): When the queue has space after discards, a CAIRN_LOST record carrying the count is accepted. -/
  | cairnLost
  /-- CAIRN_DRAIN (R462): A queued record drains into the security processor's mirror. -/
  | cairnDrain
  /-- CAIRN_FLASH_WRITE (R465): A mirrored record is written to both flash areas within 100 ms unless held by warning or wear budget. -/
  | cairnFlashWrite
  /-- CAIRN_LOAD (R466): The mirror fill from flash completes and loaded is set. -/
  | cairnLoad (bad : Nat)
  /-- COUNTER_LOG_APPEND (R467): Every 60 s a counter-log entry is appended. -/
  | counterLogAppend
  /-- OP_SEC_TICK (R467): The operating-seconds counter advances once per always-on second. -/
  | opSecTick
  /-- CAIRN_CURSOR_WRITE (R470): A write sets the cursor and discards the latch. -/
  | cairnCursorWrite (v : BitVec 64)
  /-- CAIRN_WINDOW_LATCH (R470): A read of CAIRN_WINDOW[0] latches the cursor's record and sets sta. -/
  | cairnWindowLatch
  /-- CAIRN_WINDOW_ADVANCE (R470): A read of CAIRN_WINDOW[7] with sta 0 advances the cursor by one record. -/
  | cairnWindowAdvance
  /-- CAIRN_RATE_WRITE (R469): A write to a rate entry takes effect at once, capping the bucket level. -/
  | cairnRateWrite (i : Fin 32) (v : BitVec 64)
  /-- CURSOR_SET (R512): MCTP Cairn command setting the MCTP cursor. -/
  | cursorSet (v : BitVec 64)
  /-- MCTP_READ (R512): MCTP Cairn command latching and returning the cursor's record and advancing on success. -/
  | mctpRead
  /-- PLDM_SENSOR_READ (R511): PLDM request returning a numeric sensor value. -/
  | pldmSensorRead (id : Nat)
  /-- ENTDAA (R510): I3C dynamic address assignment of the management target. -/
  | entdaa (addr : BitVec 7)
  /-- POWER_GOOD (R476): SYS_RST_N released and all rails above clear level for 1 ms mark power-good and start boot. -/
  | powerGood (indep kwmode : Bool)
  /-- SYS_RST_N_ASSERT (R480): SYS_RST_N low for 1 µs asserts the device power-on reset. -/
  | sysRstNAssert (ns : Nat)
  /-- SUPPLY_WARN (R477): A rail below its warning level sets warning status, supply_warn and holds flash, fuse and key work. -/
  | supplyWarn (rail : Fin 8) (mv : BitVec 16)
  /-- SUPPLY_WARN_CLEAR (R477): After 1 ms above the clear level the warning clears and held operations start. -/
  | supplyWarnClear (rail : Fin 8) (mv : BitVec 16)
  /-- VDD_FUSE_WARN (R478): VDD_FUSE below its warning level holds fuse blows only. -/
  | vddFuseWarn (mv : BitVec 16)
  /-- RAIL_GLITCH (R479): A rail below its reset level or above 110 % raises the voltage-glitch alarm. -/
  | railGlitch (rail : Fin 8) (mv : BitVec 16)
  /-- RAIL_RESET (R479): A rail below its reset level for 2 µs asserts the internal power-on reset. -/
  | railReset (rail : Fin 8) (mv : BitVec 16)
  /-- CLK_LOSS (R484): A reference input declared lost switches or holds its PLLs, is counted and recorded. -/
  | clkLoss (input : ClkInput) (pcieFit : Bool)
  /-- CLK_REGAINED (R484): A regained reference is returned to by slewing at 1 ppm per ms. -/
  | clkRegained (input : ClkInput)
  /-- PORT_TSQ_META_READ (R92): A read copies the reading function's oldest stamp-queue entry into its latch. -/
  | portTsqMetaRead (f : Option Fn) (oct : Octet)
  /-- PORT_TSQ_LT_READ (R92): A read returns the latched egress LT and removes the entry. -/
  | portTsqLtRead (f : Option Fn) (oct : Octet)
  /-- JTAG_INSTRUCTION (R513): A TAP instruction is loaded, or loaded as BYPASS where lifecycle or gate forbids it. -/
  | jtagInstruction (ir : JtagIr)
  /-- TAP_RESET (R514): TRST_N low or five TCK cycles with TMS high return the TAP to IDCODE. -/
  | tapReset
  /-- PORT_LINK_DOWN (R516): An enabled port loses block lock, FEC lock or lane alignment and PORT_STA.link returns to 0, keeping its incarnation until the link returns. -/
  | portLinkDown (n : Port)
  /-- PROGRAM_EPOCH_AT (R151): LT reaches an accepted activation's instant at, and the epoch in force, the groups' active image banks and the pending activation status change to the new program epoch. -/
  | programEpochAt
  /-- CONTRACT_RETIRE_AT (R214): LT reaches a retiring contract's instant at, its version leaves force and the contract table digest and ING_ADM_DIGEST change. -/
  | contractRetireAt (c : ConIx)
  /-- MAINT_WINDOW_END (R447): A channel's maintenance window ends within 20 µs, waiting non-lookup accesses proceed and its partner may enter a window. -/
  | maintWindowEnd (ch : Fin 8)
  /-- VDD_FUSE_WARN_CLEAR (R478): VDD_FUSE stays above its clear level for 1 ms, its warning clears and held fuse blows start. -/
  | vddFuseWarnClear (mv : BitVec 16)
  /-- PTP_MESSAGE_SEND (R58): The PTP protocol engine sends a Sync, Delay_Req, Pdelay_Req or other message at its configured interval into Q3 of the PTP port. -/
  | ptpMessageSend (n : Port) (msgType : Fin 16) (frame : Bytes)
  /-- VF_DISABLE (R309): Host software clears VF Enable, and every VF ceases to exist on the bus and leaves service. -/
  | vfDisable
  /-- ATS_DISABLE (R315): ATS Enable of a function is cleared and its cached translation entries are discarded. -/
  | atsDisable (f : Fn)
  deriving DecidableEq, Repr

end Sys2Proof
end

