-- ==== Sys2Proof/Decode.lean ====
section
/-! DEFINITION. The command a word of the table's bits spells.  No row of the spec's table of operations gives bits: the block
decodes no command words, so no word spells one. -/

namespace Sys2Proof

/-- The command spelt by a word whose bits the table numbers: none, since no row of the table has bits. -/
def decodeTableWord (_nbits _w : Nat) : Option Instr := none

end Sys2Proof
end

