-- ==== Sys2Proof/Machine/Codes.lean ====
section
/-! DEFINITION. The codes and hashes the spec fixes by published standard: CRC-32 and CRC-32C (R175, R460), SHA-384 (R246), and the SHA-512, SHA-256 and
HMAC-SHA-512 that SLH-DSA is built from (R250, R391). -/

namespace Sys2Proof.Machine

/-- One bit of a reflected 32-bit CRC. -/
def crcBit (poly : BitVec 32) (c : BitVec 32) : BitVec 32 :=
  if c.getLsbD 0 then (c >>> 1) ^^^ poly else c >>> 1

/-- One byte of a reflected 32-bit CRC. -/
def crcByte (poly : BitVec 32) (c : BitVec 32) (b : BitVec 8) : BitVec 32 :=
  (List.range 8).foldl (fun c _ => crcBit poly c) (c ^^^ b.setWidth 32)

/-- A reflected CRC register advanced over a string of bytes, without inversion. -/
def crcRun (poly c : BitVec 32) (b : Bytes) : BitVec 32 := b.foldl (crcByte poly) c

/-- The reflected polynomial of IEEE 802.3 CRC-32. -/
def polyEth : BitVec 32 := 0xEDB88320
/-- The reflected Castagnoli polynomial. -/
def polyC : BitVec 32 := 0x82F63B78

/-- CRC-32C of R460: reflected, initial value and final inversion all ones. -/
def crc32c (b : Bytes) : BitVec 32 := ~~~(crcRun polyC 0xFFFFFFFF b)

/-- The Ethernet FCS value of a frame's bytes before the FCS. -/
def fcs (b : Bytes) : BitVec 32 := ~~~(crcRun polyEth 0xFFFFFFFF b)

/-- The ones' complement sum of 16-bit big-endian words. -/
def onesSum : Bytes → Nat
  | [] => 0
  | [a] => a.toNat * 256
  | a :: b :: t => a.toNat * 256 + b.toNat + onesSum t

/-- Fold a sum into 16 bits. -/
def fold16 (n : Nat) : Nat := if n = 0 then 0 else (n - 1) % 65535 + 1

/-- The `n` 64-bit words that a number spells, its most significant word first. -/
def wordsOf : Nat → Nat → List (BitVec 64)
  | 0, _ => []
  | n + 1, v => BitVec.ofNat 64 (v >>> (64 * n)) :: wordsOf n v

/-- SHA-512's round constants, eight words to a row. -/
def shaK : List (BitVec 64) :=
  ([0x428a2f98d728ae227137449123ef65cdb5c0fbcfec4d3b2fe9b5dba58189dbbc3956c25bf348b53859f111f1b605d019923f82a4af194f9bab1c5ed5da6d8118,
    0xd807aa98a303024212835b0145706fbe243185be4ee4b28c550c7dc3d5ffb4e272be5d74f27b896f80deb1fe3b1696b19bdc06a725c71235c19bf174cf692694,
    0xe49b69c19ef14ad2efbe4786384f25e30fc19dc68b8cd5b5240ca1cc77ac9c652de92c6f592b02754a7484aa6ea6e4835cb0a9dcbd41fbd476f988da831153b5,
    0x983e5152ee66dfaba831c66d2db43210b00327c898fb213fbf597fc7beef0ee4c6e00bf33da88fc2d5a79147930aa72506ca6351e003826f142929670a0e6e70,
    0x27b70a8546d22ffc2e1b21385c26c9264d2c6dfc5ac42aed53380d139d95b3df650a73548baf63de766a0abb3c77b2a881c2c92e47edaee692722c851482353b,
    0xa2bfe8a14cf10364a81a664bbc423001c24b8b70d0f89791c76c51a30654be30d192e819d6ef5218d69906245565a910f40e35855771202a106aa07032bbd1b8,
    0x19a4c116b8d2d0c81e376c085141ab532748774cdf8eeb9934b0bcb5e19b48a8391c0cb3c5c95a634ed8aa4ae3418acb5b9cca4f7763e373682e6ff3d6b2b8a3,
    0x748f82ee5defb2fc78a5636f43172f6084c87814a1f0ab728cc702081a6439ec90befffa23631e28a4506cebde82bde9bef9a3f7b2c67915c67178f2e372532b,
    0xca273eceea26619cd186b8c721c0c207eada7dd6cde0eb1ef57d4f7fee6ed17806f067aa72176fba0a637dc5a2c898a6113f9804bef90dae1b710b35131c471b,
    0x28db77f523047d8432caab7b40c724933c9ebe0a15c9bebc431d67c49c100d4c4cc5d4becb3e42b6597f299cfc657e2a5fcb6fab3ad6faec6c44198c4a475817] : List Nat).flatMap (wordsOf 8)

/-- SHA-512's initial chaining value; SHA-256's are the upper halves of its words. -/
def sha512Init : List (BitVec 64) := wordsOf 8
  0x6a09e667f3bcc908bb67ae8584caa73b3c6ef372fe94f82ba54ff53a5f1d36f1510e527fade682d19b05688c2b3e6c1f1f83d9abfb41bd6b5be0cd19137e2179

/-- SHA-384's initial chaining value. -/
def shaInit : List (BitVec 64) :=
  [0xcbbb9d5dc1059ed8, 0x629a292a367cd507, 0x9159015a3070dd17, 0x152fecd8f70e5939, 0x67332667ffc00b31, 0x8eb44a8768581511,
   0xdb0c2e0d64f98fa7, 0x47b5481dbefa4fa4]

/-- The big-endian words of a block. -/
def shaWords : Nat → Bytes → List (BitVec 64)
  | 0, _ => []
  | n + 1, b => ((b.take 8).foldl (fun (a : BitVec 64) x => (a <<< 8) ||| x.setWidth 64) 0) :: shaWords n (b.drop 8)

/-- The next message-schedule word from the last sixteen, newest first. -/
def shaNext (w : List (BitVec 64)) : BitVec 64 :=
  let w2 := w.getD 1 0
  let w15 := w.getD 14 0
  ((w2.rotateRight 19) ^^^ (w2.rotateRight 61) ^^^ (w2 >>> 6)) + w.getD 6 0 +
    ((w15.rotateRight 1) ^^^ (w15.rotateRight 8) ^^^ (w15 >>> 7)) + w.getD 15 0

/-- One compression round on the eight working words. -/
def shaRound (h : List (BitVec 64)) (k w : BitVec 64) : List (BitVec 64) :=
  match h with
  | [a, b, c, d, e, f, g, hh] =>
    let t1 := hh + ((e.rotateRight 14) ^^^ (e.rotateRight 18) ^^^ (e.rotateRight 41)) + ((e &&& f) ^^^ (~~~e &&& g)) + k + w
    let t2 := ((a.rotateRight 28) ^^^ (a.rotateRight 34) ^^^ (a.rotateRight 39)) + ((a &&& b) ^^^ (a &&& c) ^^^ (b &&& c))
    [t1 + t2, a, b, c, d + t1, e, f, g]
  | h => h

/-- The rounds over the constants; `w` holds the schedule words seen so far, newest first, `m` those of the block left. -/
def shaRounds : List (BitVec 64) → List (BitVec 64) → List (BitVec 64) → List (BitVec 64) → List (BitVec 64)
  | [], _, _, h => h
  | k :: ks, m, w, h =>
    let x := match m with
      | [] => shaNext w
      | x :: _ => x
    shaRounds ks (m.drop 1) ((x :: w).take 16) (shaRound h k x)

/-- One block. -/
def shaBlock (h : List (BitVec 64)) (b : Bytes) : List (BitVec 64) :=
  (h.zip (shaRounds shaK (shaWords 16 b) [] h)).map (fun p => p.1 + p.2)

/-- All blocks of a padded message. -/
def shaBlocks : Nat → Bytes → List (BitVec 64) → List (BitVec 64)
  | 0, _, h => h
  | n + 1, b, h => shaBlocks n (b.drop 128) (shaBlock h (b.take 128))

/-- The eight big-endian bytes of a word. -/
def wordBytes (w : BitVec 64) : Bytes := (List.range 8).map (fun i => (w >>> (56 - 8 * i)).setWidth 8)

/-- The first `n` words of the hash of a message of 128-byte blocks from an initial value. -/
def shaWide (n : Nat) (init : List (BitVec 64)) (m : Bytes) : Bytes :=
  let p := m ++ [0x80#8] ++ List.replicate ((239 - m.length % 128) % 128) 0#8 ++ wordBytes 0 ++
    wordBytes (BitVec.ofNat 64 (8 * m.length))
  (((shaBlocks (p.length / 128) p init).take n).map wordBytes).flatten

/-- SHA-384 (FIPS 180-4). -/
def sha384 (m : Bytes) : Bytes := shaWide 6 shaInit m

/-- SHA-512. -/
def sha512 (m : Bytes) : Bytes := shaWide 8 sha512Init m

/-- HMAC-SHA-512 under a key of at most 128 bytes (RFC 2104). -/
def hmac512 (key m : Bytes) : Bytes :=
  let k := key ++ List.replicate (128 - key.length) 0#8
  sha512 (k.map (· ^^^ 0x5C#8) ++ sha512 (k.map (· ^^^ 0x36#8) ++ m))

/-! ### SHA-256 -/

/-- The upper half of a 64-bit word. -/
def upperHalf (w : BitVec 64) : BitVec 32 := (w >>> 32).setWidth 32

/-- SHA-256's round constants: the upper halves of the first 64 of SHA-512's. -/
def sha256K : List (BitVec 32) := (shaK.take 64).map upperHalf

/-- The big-endian words of a 64-byte block. -/
def sha256Words : Nat → Bytes → List (BitVec 32)
  | 0, _ => []
  | n + 1, b => ((b.take 4).foldl (fun (a : BitVec 32) x => (a <<< 8) ||| x.setWidth 32) 0) :: sha256Words n (b.drop 4)

/-- The next message-schedule word from the last sixteen, newest first. -/
def sha256Next (w : List (BitVec 32)) : BitVec 32 :=
  let w2 := w.getD 1 0
  let w15 := w.getD 14 0
  ((w2.rotateRight 17) ^^^ (w2.rotateRight 19) ^^^ (w2 >>> 10)) + w.getD 6 0 +
    ((w15.rotateRight 7) ^^^ (w15.rotateRight 18) ^^^ (w15 >>> 3)) + w.getD 15 0

/-- One compression round on the eight working words. -/
def sha256Round (h : List (BitVec 32)) (k w : BitVec 32) : List (BitVec 32) :=
  match h with
  | [a, b, c, d, e, f, g, hh] =>
    let t1 := hh + ((e.rotateRight 6) ^^^ (e.rotateRight 11) ^^^ (e.rotateRight 25)) + ((e &&& f) ^^^ (~~~e &&& g)) + k + w
    let t2 := ((a.rotateRight 2) ^^^ (a.rotateRight 13) ^^^ (a.rotateRight 22)) + ((a &&& b) ^^^ (a &&& c) ^^^ (b &&& c))
    [t1 + t2, a, b, c, d + t1, e, f, g]
  | h => h

/-- The rounds over the constants; `w` holds the schedule words seen so far, newest first, `m` those of the block left. -/
def sha256Rounds : List (BitVec 32) → List (BitVec 32) → List (BitVec 32) → List (BitVec 32) → List (BitVec 32)
  | [], _, _, h => h
  | k :: ks, m, w, h =>
    let x := match m with
      | [] => sha256Next w
      | x :: _ => x
    sha256Rounds ks (m.drop 1) ((x :: w).take 16) (sha256Round h k x)

/-- All blocks of a padded message. -/
def sha256Blocks : Nat → Bytes → List (BitVec 32) → List (BitVec 32)
  | 0, _, h => h
  | n + 1, b, h =>
    sha256Blocks n (b.drop 64) ((h.zip (sha256Rounds sha256K (sha256Words 16 (b.take 64)) [] h)).map (fun p => p.1 + p.2))

/-- SHA-256 (FIPS 180-4). -/
def sha256 (m : Bytes) : Bytes :=
  let p := m ++ [0x80#8] ++ List.replicate ((119 - m.length % 64) % 64) 0#8 ++ wordBytes (BitVec.ofNat 64 (8 * m.length))
  ((sha256Blocks (p.length / 64) p (sha512Init.map upperHalf)).map
    (fun (w : BitVec 32) => (List.range 4).map (fun i => (w >>> (24 - 8 * i)).setWidth 8))).flatten

end Sys2Proof.Machine
end

