-- ==== Sys2Proof/Config.lean ====
section
/-! DEFINITION. What an implementation fixes and the spec leaves open: constants without a body, so that no proof can see their
values and every statement holds for all of them. -/

namespace Sys2Proof.Config

/-- Free values: what the spec leaves undefined, chosen anew for each value of State's counter `freeCtr` (assumption 2). -/
opaque freeWord : Nat → BitVec 64

/-- The package parts of a lane's receive and transmit stamp offsets, by lane, lane mode (0 10 Gb/s, 1
25 Gb/s, 2 50 Gb/s) and FEC (R86): fused per part. -/
opaque fusedRx : Nat → Nat → Nat → BitVec 32
opaque fusedTx : Nat → Nat → Nat → BitVec 32

/-- The two candidate bucket hashes of a table's exact-match key (R108): the spec gives no hash function. -/
opaque bucketHash : Bool → Nat → Bytes → Nat

/-- The channel pair that holds both copies of an extension entry of a table and key (R447): the spec gives no hash function. -/
opaque pairHash : Nat → Bytes → Nat

/-- A control core's translation of a virtual address by PTBR and ASID, for a read or a write, to a byte of external memory, or
none where it faults (R172): the spec gives no page-table format. -/
opaque translate : BitVec 64 → BitVec 64 → BitVec 64 → Bool → Option Nat

/-- Code length, in words, of what control core `k` runs (R174); no command says which code a control core holds. -/
opaque ccCodeLen : Nat → Nat

/-- D_q of a queue to which R200 leaves no rate, as a refusal shows it: the spec gives the quotient no value there. -/
opaque openDelay : Nat → Nat → Nat

/-- The SCI of a port's transmit secure channel (R302): the spec gives no place that holds it. -/
opaque txSci : Nat → BitVec 64

/-- The secrets of the key pair of a receipt generation or, for none, of the identity (R250, R253, R412), made in the device or at the
factory: the two primes of the RSA key, and SK.seed, SK.prf and PK.seed of the SLH-DSA key. -/
opaque rsaPrimes : Option Nat → Nat × Nat
opaque slhSeeds : Option Nat → Bytes × Bytes × Bytes

/-- The MAC address of a port as the source of the device's own frames, and the fields of the IP headers of Zoano packets that the
spec gives no value: hop limit or time to live, traffic class or type of service, flow label, and identification (R262). -/
opaque portMac : Nat → BitVec 48
opaque zoaHop : BitVec 8
opaque zoaClass : BitVec 8
opaque zoaFlow : BitVec 20
opaque zoaIdent : Nat → BitVec 16

/-- The first MiB of firmware area 0 or 1 of external memory, each of 64 MiB, and whether a MiB is part of another reserved area (R256,
R266, R279, R393, R415).  The spec gives these areas no place. -/
opaque fwArea : Nat → BitVec 19
opaque otherReserved : Nat → Bool

/-- Is a MiB of external memory part of a reserved area? -/
def extReserved (m : Nat) : Bool :=
  otherReserved m || (List.range 2).any (fun a => decide ((fwArea a).toNat ≤ m) && decide (m < (fwArea a).toNat + 64))

/-- The channel that holds a word of external memory, modulo 8: the spec gives no interleave. -/
opaque memChannel : Nat → Nat

/-- The data field of a PTP management ID before it is set, and that of a dataset the protocol engine maintains itself, the second
argument making each reading fresh (R58): the spec gives neither. -/
opaque ptpInit : Nat → Bytes
opaque ptpRead : Nat → Nat → Bytes

/-- Does the host's translation of a function's page grant access (R315)?  The last argument makes each Translation Request fresh. -/
opaque atsGrants : Nat → Nat → Nat → Bool

/-- The key hashes Holtoimund programmed into the vendor slots of a part (R400, R408). -/
opaque vendorKey : Nat → Bytes

/-- SHA-384 of the mask ROM as measurement block 1 holds it (R414). -/
opaque romHash : Bytes

/-- The identity key pair's certificate chains in SPDM form, 0 RSA and 1 SLH-DSA (R412). -/
opaque identChain : Nat → Bytes

/-- The certificate chains of the receipt pair of a generation, 0 RSA and 1 SLH-DSA (R253, R413). -/
opaque receiptChain : Nat → Nat → Bytes

/-- What the spec leaves open of the SPDM responder: CTExponent, DataTransferSize and MaxSPDMmsgSize, the DMTF value type of each
measurement block, and Holtoimund's PCI vendor ID (R316, R317). -/
opaque spdmCt : BitVec 8
opaque spdmXfer : BitVec 32
opaque spdmMax : BitVec 32
opaque spdmType : Nat → BitVec 7
opaque pciVendor : BitVec 16

/-- The part's stepping, letter and digit (SYS_DEV_ID): given per part. -/
opaque stepping : BitVec 4 × BitVec 4

end Sys2Proof.Config
end

