-- ==== Sys2Proof/Machine/RegMap.lean ====
section
/-! DEFINITION. The register maps of the block: every register of the spec's maps under its name, with its domain window,
offset, instances, width, reset value and fields (R9, R10, R17).  A register instance holds 64 bits, also where the register is
32 bits wide; instance numbers are the map's indices taken row by row. -/

namespace Sys2Proof.Machine

/-- The field types of R9. -/
inductive FieldTy where
  | ctl | tmr | sta | cnt | slw | cmd | ro
  deriving DecidableEq, Repr

/-- One field of a register map: its bits, its type, whether its map lets it be written at any time, and the encodings its
Meaning column marks reserved, as closed ranges (R11). -/
structure FieldInfo where
  hi : Nat
  lo : Nat
  ty : FieldTy
  anytime : Bool
  rsv : List (Nat × Nat)
  deriving DecidableEq, Repr

/-- One register map: the code of its domain (R17), the offset of instance 0 in the domain's window, the count and stride of
each index, the width in bits, the value after device power-on reset (R10), and the fields. -/
structure RegInfo where
  dom : Nat
  base : Nat
  dims : List (Nat × Nat)
  width : Nat
  reset : Nat
  fields : List FieldInfo
  deriving DecidableEq, Repr

/-- Every register of the spec's register maps. -/
inductive RegName where
  /-- SYS_BLK_QUERY (01_path_of_an_order). -/
  | sysBlkQuery
  /-- SYS_BLK_QUERY_RES (01_path_of_an_order). -/
  | sysBlkQueryRes
  /-- CREST_LT (02_crest_time). -/
  | crestLt
  /-- CREST_EPOCH (02_crest_time). -/
  | crestEpoch
  /-- CREST_MAP_SEC (02_crest_time). -/
  | crestMapSec
  /-- CREST_MAP_SUB (02_crest_time). -/
  | crestMapSub
  /-- CREST_ADDEND (02_crest_time). -/
  | crestAddend
  /-- CREST_TQW (02_crest_time). -/
  | crestTqw
  /-- CREST_EB_FULL (02_crest_time). -/
  | crestEbFull
  /-- CREST_SRV_STA (02_crest_time). -/
  | crestSrvSta
  /-- CREST_SAMPLE_AT (02_crest_time). -/
  | crestSampleAt
  /-- CREST_SAMPLE_OFS (02_crest_time). -/
  | crestSampleOfs
  /-- CREST_STEP_CNT (02_crest_time). -/
  | crestStepCnt
  /-- CREST_SAMPLE_CNT (02_crest_time). -/
  | crestSampleCnt
  /-- CREST_SAMPLE_DISC (02_crest_time). -/
  | crestSampleDisc
  /-- CREST_BANK_SWAP (02_crest_time). -/
  | crestBankSwap
  /-- CREST_SRV_CFG (02_crest_time). -/
  | crestSrvCfg
  /-- CREST_GAIN_ACQ (02_crest_time). -/
  | crestGainAcq
  /-- CREST_GAIN_LCK (02_crest_time). -/
  | crestGainLck
  /-- CREST_SRV_LIM (02_crest_time). -/
  | crestSrvLim
  /-- CREST_SRV_THR (02_crest_time). -/
  | crestSrvThr
  /-- CREST_TQ_CFG (02_crest_time). -/
  | crestTqCfg
  /-- CREST_NOM (02_crest_time). -/
  | crestNom
  /-- CREST_REF_CFG (02_crest_time). -/
  | crestRefCfg
  /-- CREST_REF_STA (02_crest_time). -/
  | crestRefSta
  /-- CREST_PPSO_CFG (02_crest_time). -/
  | crestPpsoCfg
  /-- CREST_TTO_CFG (02_crest_time). -/
  | crestTtoCfg
  /-- CREST_CAP_CFG (02_crest_time). -/
  | crestCapCfg
  /-- CREST_CAP_DATA (02_crest_time). -/
  | crestCapData
  /-- CREST_CAP_STA (02_crest_time). -/
  | crestCapSta
  /-- CREST_CAP_OVF (02_crest_time). -/
  | crestCapOvf
  /-- CREST_CMP_ARM (02_crest_time). -/
  | crestCmpArm
  /-- CREST_CMP_CFG (02_crest_time). -/
  | crestCmpCfg
  /-- CREST_CMP_REF (02_crest_time). -/
  | crestCmpRef
  /-- CREST_CMP_PER (02_crest_time). -/
  | crestCmpPer
  /-- CREST_CMP_STA (02_crest_time). -/
  | crestCmpSta
  /-- CREST_CMP_FIRE (02_crest_time). -/
  | crestCmpFire
  /-- CREST_CMP_DIS (02_crest_time). -/
  | crestCmpDis
  /-- PORT_CTL (03_ports_and_stamping). -/
  | portCtl
  /-- PORT_CFG (03_ports_and_stamping). -/
  | portCfg
  /-- PORT_MAC_CFG (03_ports_and_stamping). -/
  | portMacCfg
  /-- PORT_PTP_CFG (03_ports_and_stamping). -/
  | portPtpCfg
  /-- PORT_STA (03_ports_and_stamping). -/
  | portSta
  /-- PORT_IGN_CNT (03_ports_and_stamping). -/
  | portIgnCnt
  /-- PORT_RX_FRAMES (03_ports_and_stamping). -/
  | portRxFrames
  /-- PORT_RX_BAD (03_ports_and_stamping). -/
  | portRxBad
  /-- PORT_RX_OVERSIZE (03_ports_and_stamping). -/
  | portRxOversize
  /-- PORT_RX_PAUSE (03_ports_and_stamping). -/
  | portRxPause
  /-- PORT_TX_FRAMES (03_ports_and_stamping). -/
  | portTxFrames
  /-- PORT_TX_STOMP (03_ports_and_stamping). -/
  | portTxStomp
  /-- PORT_FEC_CORR (03_ports_and_stamping). -/
  | portFecCorr
  /-- PORT_FEC_UNCORR (03_ports_and_stamping). -/
  | portFecUncorr
  /-- PORT_CAL_RX (03_ports_and_stamping). -/
  | portCalRx
  /-- PORT_CAL_TX (03_ports_and_stamping). -/
  | portCalTx
  /-- PORT_CAL_STA (03_ports_and_stamping). -/
  | portCalSta
  /-- PORT_OCT_CFG (03_ports_and_stamping). -/
  | portOctCfg
  /-- PORT_TSQ_META (03_ports_and_stamping). -/
  | portTsqMeta
  /-- PORT_TSQ_LT (03_ports_and_stamping). -/
  | portTsqLt
  /-- PORT_TSQ_OVF (03_ports_and_stamping). -/
  | portTsqOvf
  /-- ING_IGN_CNT (04_ingress_and_tables). -/
  | ingIgnCnt
  /-- ING_EXC_CFG (04_ingress_and_tables). -/
  | ingExcCfg
  /-- ING_PROF_CFG (04_ingress_and_tables). -/
  | ingProfCfg
  /-- ING_PROF_FLD (04_ingress_and_tables). -/
  | ingProfFld
  /-- ING_PORT_CFG (04_ingress_and_tables). -/
  | ingPortCfg
  /-- ING_PORT_NOMATCH (04_ingress_and_tables). -/
  | ingPortNomatch
  /-- ING_TBL_CTL (04_ingress_and_tables). -/
  | ingTblCtl
  /-- ING_TBL_CFG (04_ingress_and_tables). -/
  | ingTblCfg
  /-- ING_TBL_STA (04_ingress_and_tables). -/
  | ingTblSta
  /-- ING_TBL_EVICT (04_ingress_and_tables). -/
  | ingTblEvict
  /-- ING_TBL_PAR (04_ingress_and_tables). -/
  | ingTblPar
  /-- ING_TBL_LEARN (04_ingress_and_tables). -/
  | ingTblLearn
  /-- ING_TBL_LEARN_DROP (04_ingress_and_tables). -/
  | ingTblLearnDrop
  /-- ING_TBL_AGED (04_ingress_and_tables). -/
  | ingTblAged
  /-- ING_TBL_STALE (04_ingress_and_tables). -/
  | ingTblStale
  /-- ING_CON_STA (04_ingress_and_tables). -/
  | ingConSta
  /-- ING_CON_TOK (04_ingress_and_tables). -/
  | ingConTok
  /-- ING_CON_GREEN (04_ingress_and_tables). -/
  | ingConGreen
  /-- ING_CON_YELLOW (04_ingress_and_tables). -/
  | ingConYellow
  /-- ING_CON_RED (04_ingress_and_tables). -/
  | ingConRed
  /-- ING_CON_OVERLEN (04_ingress_and_tables). -/
  | ingConOverlen
  /-- SPUR_ACT_AT (05_spur_execution). -/
  | spurActAt
  /-- SPUR_ACT_STA (05_spur_execution). -/
  | spurActSta
  /-- SPUR_RIDGE_STA (05_spur_execution). -/
  | spurRidgeSta
  /-- SPUR_RIDGE_SPARE_CNT (05_spur_execution). -/
  | spurRidgeSpareCnt
  /-- SPUR_CC_STA (05_spur_execution). -/
  | spurCcSta
  /-- SPUR_CORE_CTL (05_spur_execution). -/
  | spurCoreCtl
  /-- SPUR_CORE_STA (05_spur_execution). -/
  | spurCoreSta
  /-- SPUR_CORE_IGN (05_spur_execution). -/
  | spurCoreIgn
  /-- SPUR_CORE_SEVREF (05_spur_execution). -/
  | spurCoreSevref
  /-- SPUR_CORE_REL (05_spur_execution). -/
  | spurCoreRel
  /-- SPUR_CORE_DB (05_spur_execution). -/
  | spurCoreDb
  /-- SPUR_SLOT_AT (05_spur_execution). -/
  | spurSlotAt
  /-- SPUR_THR_RST (05_spur_execution). -/
  | spurThrRst
  /-- SPUR_SLOT (05_spur_execution). -/
  | spurSlot
  /-- SPUR_THR_STA (05_spur_execution). -/
  | spurThrSta
  /-- SPUR_THR_EVT (05_spur_execution). -/
  | spurThrEvt
  /-- SPUR_THR_SEVSRC (05_spur_execution). -/
  | spurThrSevsrc
  /-- SPUR_GRP_CFG (05_spur_execution). -/
  | spurGrpCfg
  /-- SPUR_GRP_STA (05_spur_execution). -/
  | spurGrpSta
  /-- SPUR_GRP_IMG (05_spur_execution). -/
  | spurGrpImg
  /-- SPUR_GRP_FRAMES (05_spur_execution). -/
  | spurGrpFrames
  /-- SPUR_GRP_BUDGET (05_spur_execution). -/
  | spurGrpBudget
  /-- SPUR_GRP_DQWAIT (05_spur_execution). -/
  | spurGrpDqwait
  /-- SPUR_GRP_DQDROP (05_spur_execution). -/
  | spurGrpDqdrop
  /-- SPUR_CH_CFG (05_spur_execution). -/
  | spurChCfg
  /-- SPUR_CH_STA (05_spur_execution). -/
  | spurChSta
  /-- SPUR_CORE_FAULT (06_spur_instruction_set). -/
  | spurCoreFault
  /-- SPUR_CORE_FAULT_CNT (06_spur_instruction_set). -/
  | spurCoreFaultCnt
  /-- SPUR_GRP_PROGDROP (06_spur_instruction_set). -/
  | spurGrpProgdrop
  /-- ING_ADM_STA (07_delivery_contracts). -/
  | ingAdmSta
  /-- ING_ADM_REQ (07_delivery_contracts). -/
  | ingAdmReq
  /-- ING_ADM_REFUSED (07_delivery_contracts). -/
  | ingAdmRefused
  /-- ING_ADM_DIGEST_AT (07_delivery_contracts). -/
  | ingAdmDigestAt
  /-- ING_ADM_DIGEST (07_delivery_contracts). -/
  | ingAdmDigest
  /-- ING_CON_BOUND (07_delivery_contracts). -/
  | ingConBound
  /-- ING_CON_LATE (07_delivery_contracts). -/
  | ingConLate
  /-- TM_BUF_STA (08_egress_and_col_gates). -/
  | tmBufSta
  /-- TM_BUF_FAULT (08_egress_and_col_gates). -/
  | tmBufFault
  /-- TM_SWAP_AT (08_egress_and_col_gates). -/
  | tmSwapAt
  /-- TM_PORT_STA (08_egress_and_col_gates). -/
  | tmPortSta
  /-- TM_PORT_IGN (08_egress_and_col_gates). -/
  | tmPortIgn
  /-- TM_PORT_DQLATE (08_egress_and_col_gates). -/
  | tmPortDqlate
  /-- TM_PORT_DISC (08_egress_and_col_gates). -/
  | tmPortDisc
  /-- TM_PORT_MCDIS (08_egress_and_col_gates). -/
  | tmPortMcdis
  /-- TM_PSHP_RATE (08_egress_and_col_gates). -/
  | tmPshpRate
  /-- TM_PSHP_BURST (08_egress_and_col_gates). -/
  | tmPshpBurst
  /-- TM_Q_CFG (08_egress_and_col_gates). -/
  | tmQCfg
  /-- TM_Q_RATE (08_egress_and_col_gates). -/
  | tmQRate
  /-- TM_Q_BURST (08_egress_and_col_gates). -/
  | tmQBurst
  /-- TM_Q_STA (08_egress_and_col_gates). -/
  | tmQSta
  /-- TM_Q_DLY (08_egress_and_col_gates). -/
  | tmQDly
  /-- TM_Q_NCCFG (08_egress_and_col_gates). -/
  | tmQNccfg
  /-- TM_Q_TX (08_egress_and_col_gates). -/
  | tmQTx
  /-- TM_Q_DROP (08_egress_and_col_gates). -/
  | tmQDrop
  /-- TM_Q_LAUNCH_CLAMP (08_egress_and_col_gates). -/
  | tmQLaunchClamp
  /-- TM_Q_LAUNCH_IGN (08_egress_and_col_gates). -/
  | tmQLaunchIgn
  /-- COL_ARM (08_egress_and_col_gates). -/
  | colArm
  /-- COL_STA (08_egress_and_col_gates). -/
  | colSta
  /-- COL_SWITCH_LT (08_egress_and_col_gates). -/
  | colSwitchLt
  /-- COL_CYCLES (08_egress_and_col_gates). -/
  | colCycles
  /-- COL_BANK_SEC (08_egress_and_col_gates). -/
  | colBankSec
  /-- COL_BANK_NS (08_egress_and_col_gates). -/
  | colBankNs
  /-- COL_BANK_CFG (08_egress_and_col_gates). -/
  | colBankCfg
  /-- COL_ENT (08_egress_and_col_gates). -/
  | colEnt
  /-- LED_RCPT_STA (09_stamp_ledger). -/
  | ledRcptSta
  /-- LED_RCPT_SEQ (09_stamp_ledger). -/
  | ledRcptSeq
  /-- LED_RCPT_LATE (09_stamp_ledger). -/
  | ledRcptLate
  /-- LED_START_EPOCH (09_stamp_ledger). -/
  | ledStartEpoch
  /-- LED_PROOF_CNT (09_stamp_ledger). -/
  | ledProofCnt
  /-- LED_LANE_SEQ (09_stamp_ledger). -/
  | ledLaneSeq
  /-- LED_LANE_STA (09_stamp_ledger). -/
  | ledLaneSta
  /-- LED_LANE_LEAVES (09_stamp_ledger). -/
  | ledLaneLeaves
  /-- LED_LANE_POLSUM (09_stamp_ledger). -/
  | ledLanePolsum
  /-- LED_LANE_UNSTAGED (09_stamp_ledger). -/
  | ledLaneUnstaged
  /-- LED_LANE_EXPGAP (09_stamp_ledger). -/
  | ledLaneExpgap
  /-- LED_RET_BASE (09_stamp_ledger). -/
  | ledRetBase
  /-- LED_RET_SIZE (09_stamp_ledger). -/
  | ledRetSize
  /-- LED_RET_SWAP (09_stamp_ledger). -/
  | ledRetSwap
  /-- LED_RET_RELEASE (09_stamp_ledger). -/
  | ledRetRelease
  /-- LED_RET_STA (09_stamp_ledger). -/
  | ledRetSta
  /-- ZOA_CFG (10_zoano_fabric). -/
  | zoaCfg
  /-- ZOA_IP (10_zoano_fabric). -/
  | zoaIp
  /-- ZOA_DELTA (10_zoano_fabric). -/
  | zoaDelta
  /-- ZOA_DELTA_SWAP (10_zoano_fabric). -/
  | zoaDeltaSwap
  /-- ZOA_STA (10_zoano_fabric). -/
  | zoaSta
  /-- ZOA_QUAR_END (10_zoano_fabric). -/
  | zoaQuarEnd
  /-- ZOA_TWIN_CFG (10_zoano_fabric). -/
  | zoaTwinCfg
  /-- ZOA_TWIN_STA (10_zoano_fabric). -/
  | zoaTwinSta
  /-- ZOA_TWIN_WIN (10_zoano_fabric). -/
  | zoaTwinWin
  /-- ZOA_TWIN_CTX (10_zoano_fabric). -/
  | zoaTwinCtx
  /-- ZOA_CNT (10_zoano_fabric). -/
  | zoaCnt
  /-- ZOA_PORT_CFG (10_zoano_fabric). -/
  | zoaPortCfg
  /-- CIPH_STA (11_cipher_engine). -/
  | ciphSta
  /-- CIPH_ALARM_STA (11_cipher_engine). -/
  | ciphAlarmSta
  /-- CIPH_ALARM_CNT (11_cipher_engine). -/
  | ciphAlarmCnt
  /-- CIPH_ERASE_LT (11_cipher_engine). -/
  | ciphEraseLt
  /-- CIPH_TAG_FAIL (11_cipher_engine). -/
  | ciphTagFail
  /-- CIPH_SHARE_SWAP (11_cipher_engine). -/
  | ciphShareSwap
  /-- CIPH_SHARE (11_cipher_engine). -/
  | ciphShare
  /-- CIPH_SECY_CFG (11_cipher_engine). -/
  | ciphSecyCfg
  /-- CIPH_SECY_AT (11_cipher_engine). -/
  | ciphSecyAt
  /-- CIPH_SECY_STA (11_cipher_engine). -/
  | ciphSecySta
  /-- CIPH_SECY_DISC (11_cipher_engine). -/
  | ciphSecyDisc
  /-- HOST_LINK_STA (12_host_endpoint). -/
  | hostLinkSta
  /-- HOST_CONTAIN_STA (12_host_endpoint). -/
  | hostContainSta
  /-- HOST_CONTAIN_RELEASE (12_host_endpoint). -/
  | hostContainRelease
  /-- HOST_CONTAIN_CNT (12_host_endpoint). -/
  | hostContainCnt
  /-- HOST_IGN_CNT (12_host_endpoint). -/
  | hostIgnCnt
  /-- HOST_LOSS_CNT (12_host_endpoint). -/
  | hostLossCnt
  /-- HOST_RESET_CNT (12_host_endpoint). -/
  | hostResetCnt
  /-- HOST_CPL_DISC (12_host_endpoint). -/
  | hostCplDisc
  /-- HOST_FN_STA (12_host_endpoint). -/
  | hostFnSta
  /-- HOST_FN_FLR_CNT (12_host_endpoint). -/
  | hostFnFlrCnt
  /-- HOST_FN_UR_CNT (12_host_endpoint). -/
  | hostFnUrCnt
  /-- HOST_FN_LOST_FETCH (12_host_endpoint). -/
  | hostFnLostFetch
  /-- RING_BASE (13_descriptor_rings). -/
  | ringBase
  /-- RING_CFG (13_descriptor_rings). -/
  | ringCfg
  /-- RING_CTL (13_descriptor_rings). -/
  | ringCtl
  /-- RING_STA (13_descriptor_rings). -/
  | ringSta
  /-- RING_IDX (13_descriptor_rings). -/
  | ringIdx
  /-- RING_CI (13_descriptor_rings). -/
  | ringCi
  /-- RING_RESET_IDX (13_descriptor_rings). -/
  | ringResetIdx
  /-- RING_DONE (13_descriptor_rings). -/
  | ringDone
  /-- RING_LOST (13_descriptor_rings). -/
  | ringLost
  /-- RING_IGN (13_descriptor_rings). -/
  | ringIgn
  /-- HOST_TEN_STA (14_tenants). -/
  | hostTenSta
  /-- HOST_FN_MBX_IGN (14_tenants). -/
  | hostFnMbxIgn
  /-- JRN_CFG (15_journal_function). -/
  | jrnCfg
  /-- JRN_STA (15_journal_function). -/
  | jrnSta
  /-- JRN_IGN (15_journal_function). -/
  | jrnIgn
  /-- JRN_PEER_SWAP (15_journal_function). -/
  | jrnPeerSwap
  /-- JRN_PEER_CFG (15_journal_function). -/
  | jrnPeerCfg
  /-- JRN_PEER_CTX (15_journal_function). -/
  | jrnPeerCtx
  /-- JRN_PEER_STA (15_journal_function). -/
  | jrnPeerSta
  /-- JRN_PEER_FAIL (15_journal_function). -/
  | jrnPeerFail
  /-- JRN_Q_BASE (15_journal_function). -/
  | jrnQBase
  /-- JRN_Q_CTL (15_journal_function). -/
  | jrnQCtl
  /-- JRN_Q_STA (15_journal_function). -/
  | jrnQSta
  /-- JRN_Q_FLR (15_journal_function). -/
  | jrnQFlr
  /-- JRN_Q_DONE (15_journal_function). -/
  | jrnQDone
  /-- JRN_Q_IGN (15_journal_function). -/
  | jrnQIgn
  /-- SEC_BOOT_STA (16_boot_and_keys). -/
  | secBootSta
  /-- SEC_LIFECYCLE (16_boot_and_keys). -/
  | secLifecycle
  /-- SEC_VER (16_boot_and_keys). -/
  | secVer
  /-- SEC_BVER (16_boot_and_keys). -/
  | secBver
  /-- SEC_NONCE (16_boot_and_keys). -/
  | secNonce
  /-- SEC_FW_AT (16_boot_and_keys). -/
  | secFwAt
  /-- SEC_MEAS (16_boot_and_keys). -/
  | secMeas
  /-- SYS_MODE (17_register_behaviour). -/
  | sysMode
  /-- SYS_UPD_STROBE (17_register_behaviour). -/
  | sysUpdStrobe
  /-- SYS_UPD_STA (17_register_behaviour). -/
  | sysUpdSta
  /-- SYS_UPD_AT (17_register_behaviour). -/
  | sysUpdAt
  /-- SYS_UPD_OVF (17_register_behaviour). -/
  | sysUpdOvf
  /-- SYS_TMR_FIX_CNT (17_register_behaviour). -/
  | sysTmrFixCnt
  /-- SYS_TMR_LOST (17_register_behaviour). -/
  | sysTmrLost
  /-- SYS_SLOW_EPOCH (17_register_behaviour). -/
  | sysSlowEpoch
  /-- SYS_IGN_CNT (17_register_behaviour). -/
  | sysIgnCnt
  /-- SYS_SCREE_SRAM (18_background_work). -/
  | sysScreeSram
  /-- SYS_SCREE_EXT (18_background_work). -/
  | sysScreeExt
  /-- SYS_ECC_SRAM (18_background_work). -/
  | sysEccSram
  /-- SYS_ECC_SRAM_UNC (18_background_work). -/
  | sysEccSramUnc
  /-- SYS_THERM_STA (18_background_work). -/
  | sysThermSta
  /-- SYS_AVS_STA (18_background_work). -/
  | sysAvsSta
  /-- SYS_FLASH_WEAR (18_background_work). -/
  | sysFlashWear
  /-- SYS_TELEM_CFG (18_background_work). -/
  | sysTelemCfg
  /-- SYS_TELEM (18_background_work). -/
  | sysTelem
  /-- MEM_CH_STA (18_background_work). -/
  | memChSta
  /-- MEM_CH_CORR (18_background_work). -/
  | memChCorr
  /-- MEM_CH_UNC (18_background_work). -/
  | memChUnc
  /-- MEM_CH_ADDR (18_background_work). -/
  | memChAddr
  /-- MEM_CH_RETRAIN (18_background_work). -/
  | memChRetrain
  /-- CAIRN_STA (19_cairn_recorder). -/
  | cairnSta
  /-- CAIRN_OLDEST (19_cairn_recorder). -/
  | cairnOldest
  /-- CAIRN_CURSOR (19_cairn_recorder). -/
  | cairnCursor
  /-- CAIRN_WINDOW (19_cairn_recorder). -/
  | cairnWindow
  /-- CAIRN_LIFE (19_cairn_recorder). -/
  | cairnLife
  /-- CAIRN_SUPP (19_cairn_recorder). -/
  | cairnSupp
  /-- CAIRN_QLOST (19_cairn_recorder). -/
  | cairnQlost
  /-- CAIRN_RATE (19_cairn_recorder). -/
  | cairnRate
  /-- SYS_DEV_ID (20_power_reset_clocks). -/
  | sysDevId
  /-- SYS_RST_STA (20_power_reset_clocks). -/
  | sysRstSta
  /-- SYS_SUPPLY_STA (20_power_reset_clocks). -/
  | sysSupplySta
  /-- SYS_CLK_STA (20_power_reset_clocks). -/
  | sysClkSta
  /-- SYS_CLK_LOSS (20_power_reset_clocks). -/
  | sysClkLoss
  /-- SYS_RAIL (20_power_reset_clocks). -/
  | sysRail
  /-- SYS_MODE_STA (21_mode_combinations). -/
  | sysModeSta
  deriving DecidableEq, Repr

/-- The map of each register, as its chapter prints it. -/
def RegName.info : RegName → RegInfo
  | .sysBlkQuery => ⟨13, 0x200, [], 64, 0x0,
      [⟨63, 0, .cmd, false, []⟩]⟩
  | .sysBlkQueryRes => ⟨13, 0x208, [], 64, 0x0,
      [⟨63, 32, .sta, false, []⟩, ⟨31, 29, .sta, false, []⟩, ⟨28, 28, .sta, false, []⟩, ⟨27, 16, .cnt, false, []⟩, ⟨15, 0, .sta, false, []⟩]⟩
  | .crestLt => ⟨0, 0x0, [], 64, 0x0,
      [⟨63, 0, .sta, false, []⟩]⟩
  | .crestEpoch => ⟨0, 0x8, [], 64, 0x0,
      [⟨63, 0, .cnt, false, []⟩]⟩
  | .crestMapSec => ⟨0, 0x10, [], 64, 0x0,
      [⟨47, 0, .sta, false, []⟩]⟩
  | .crestMapSub => ⟨0, 0x18, [], 64, 0x0,
      [⟨47, 16, .sta, false, []⟩, ⟨15, 0, .sta, false, []⟩]⟩
  | .crestAddend => ⟨0, 0x20, [], 64, 0x100000000,
      [⟨47, 0, .sta, false, []⟩]⟩
  | .crestTqw => ⟨0, 0x28, [], 64, 0xfffff00,
      [⟨63, 32, .sta, false, []⟩, ⟨31, 0, .sta, false, []⟩]⟩
  | .crestEbFull => ⟨0, 0x30, [], 64, 0xffffffffffffffff,
      [⟨63, 32, .sta, false, []⟩, ⟨31, 0, .sta, false, []⟩]⟩
  | .crestSrvSta => ⟨0, 0x38, [], 64, 0x0,
      [⟨63, 32, .sta, false, []⟩, ⟨7, 7, .sta, false, []⟩, ⟨6, 6, .sta, false, []⟩, ⟨5, 5, .sta, false, []⟩, ⟨3, 0, .sta, false, []⟩]⟩
  | .crestSampleAt => ⟨0, 0x40, [], 64, 0x0,
      [⟨63, 0, .cmd, false, []⟩]⟩
  | .crestSampleOfs => ⟨0, 0x48, [], 64, 0x0,
      [⟨63, 0, .cmd, false, []⟩]⟩
  | .crestStepCnt => ⟨0, 0x50, [], 64, 0x0,
      [⟨63, 0, .cnt, false, []⟩]⟩
  | .crestSampleCnt => ⟨0, 0x58, [], 64, 0x0,
      [⟨63, 0, .cnt, false, []⟩]⟩
  | .crestSampleDisc => ⟨0, 0x60, [], 64, 0x0,
      [⟨63, 0, .cnt, false, []⟩]⟩
  | .crestBankSwap => ⟨0, 0x68, [], 32, 0x0,
      [⟨0, 0, .cmd, false, []⟩]⟩
  | .crestSrvCfg => ⟨0, 0x100, [(2, 64)], 32, 0x4,
      [⟨2, 2, .tmr, false, []⟩, ⟨1, 0, .tmr, false, [(3, 3)]⟩]⟩
  | .crestGainAcq => ⟨0, 0x108, [(2, 64)], 64, 0xb33300004ccd,
      [⟨63, 32, .tmr, false, []⟩, ⟨31, 0, .tmr, false, []⟩]⟩
  | .crestGainLck => ⟨0, 0x110, [(2, 64)], 64, 0x4ccd00000ccd,
      [⟨63, 32, .tmr, false, []⟩, ⟨31, 0, .tmr, false, []⟩]⟩
  | .crestSrvLim => ⟨0, 0x118, [(2, 64)], 64, 0x3ba00030d40,
      [⟨47, 32, .tmr, false, []⟩, ⟨19, 0, .tmr, false, []⟩]⟩
  | .crestSrvThr => ⟨0, 0x120, [(2, 64)], 64, 0x3e81000400010,
      [⟨63, 40, .tmr, false, []⟩, ⟨39, 32, .tmr, false, [(0, 0)]⟩, ⟨31, 16, .tmr, false, []⟩, ⟨15, 0, .tmr, false, []⟩]⟩
  | .crestTqCfg => ⟨0, 0x128, [(2, 64)], 32, 0xf0320000,
      [⟨31, 28, .tmr, false, []⟩, ⟨27, 16, .tmr, false, []⟩, ⟨15, 0, .tmr, false, []⟩]⟩
  | .crestNom => ⟨0, 0x130, [(2, 64)], 64, 0x100000000,
      [⟨47, 0, .tmr, false, []⟩]⟩
  | .crestRefCfg => ⟨0, 0x300, [], 32, 0x0,
      [⟨1, 1, .tmr, false, []⟩, ⟨0, 0, .tmr, false, []⟩]⟩
  | .crestRefSta => ⟨0, 0x308, [], 64, 0x0,
      [⟨63, 32, .cnt, false, []⟩, ⟨1, 1, .sta, false, []⟩, ⟨0, 0, .sta, false, []⟩]⟩
  | .crestPpsoCfg => ⟨0, 0x318, [], 64, 0x186a00,
      [⟨63, 32, .ctl, false, []⟩, ⟨23, 4, .ctl, false, [(0, 0), (1000000, 1048575)]⟩, ⟨1, 1, .ctl, false, []⟩, ⟨0, 0, .ctl, false, []⟩]⟩
  | .crestTtoCfg => ⟨0, 0x320, [(4, 8)], 32, 0x0,
      [⟨1, 1, .ctl, false, []⟩, ⟨0, 0, .ctl, false, []⟩]⟩
  | .crestCapCfg => ⟨0, 0x400, [(5, 32)], 32, 0x0,
      [⟨31, 8, .ctl, false, []⟩, ⟨2, 1, .ctl, false, [(3, 3)]⟩, ⟨0, 0, .ctl, false, []⟩]⟩
  | .crestCapData => ⟨0, 0x408, [(5, 32)], 64, 0xffffffffffffffff,
      [⟨63, 0, .sta, false, []⟩]⟩
  | .crestCapSta => ⟨0, 0x410, [(5, 32)], 32, 0x0,
      [⟨4, 0, .sta, false, []⟩]⟩
  | .crestCapOvf => ⟨0, 0x418, [(5, 32)], 64, 0x0,
      [⟨63, 0, .cnt, false, []⟩]⟩
  | .crestCmpArm => ⟨0, 0x1000, [(64, 64)], 64, 0x0,
      [⟨63, 0, .cmd, false, []⟩]⟩
  | .crestCmpCfg => ⟨0, 0x1008, [(64, 64)], 64, 0x0,
      [⟨27, 16, .ctl, false, [(2048, 4095)]⟩, ⟨5, 4, .ctl, false, []⟩, ⟨3, 0, .ctl, false, [(7, 15)]⟩]⟩
  | .crestCmpRef => ⟨0, 0x1010, [(64, 64)], 64, 0x0,
      [⟨63, 0, .ctl, false, []⟩]⟩
  | .crestCmpPer => ⟨0, 0x1018, [(64, 64)], 64, 0x0,
      [⟨63, 0, .ctl, false, [(1, 65535999), (4611686018427387904, 18446744073709551615)]⟩]⟩
  | .crestCmpSta => ⟨0, 0x1020, [(64, 64)], 32, 0x0,
      [⟨2, 2, .sta, false, []⟩, ⟨1, 1, .sta, false, []⟩, ⟨0, 0, .sta, false, []⟩]⟩
  | .crestCmpFire => ⟨0, 0x1028, [(64, 64)], 64, 0x0,
      [⟨63, 0, .cnt, false, []⟩]⟩
  | .crestCmpDis => ⟨0, 0x1030, [(64, 64)], 32, 0x0,
      [⟨0, 0, .cmd, false, []⟩]⟩
  | .portCtl => ⟨1, 0x10000, [(256, 256)], 32, 0x0,
      [⟨0, 0, .ctl, true, []⟩]⟩
  | .portCfg => ⟨1, 0x10008, [(256, 256)], 32, 0x100,
      [⟨11, 8, .tmr, false, [(7, 15)]⟩, ⟨7, 6, .tmr, false, []⟩, ⟨5, 5, .ctl, false, []⟩]⟩
  | .portMacCfg => ⟨1, 0x10010, [(256, 256)], 32, 0x5f2,
      [⟨17, 17, .ctl, false, []⟩, ⟨13, 0, .ctl, false, [(0, 63), (9217, 16383)]⟩]⟩
  | .portPtpCfg => ⟨1, 0x10018, [(256, 256)], 64, 0x0,
      [⟨63, 32, .ctl, false, []⟩, ⟨1, 1, .ctl, false, []⟩, ⟨0, 0, .ctl, false, []⟩]⟩
  | .portSta => ⟨1, 0x10020, [(256, 256)], 64, 0x20,
      [⟨63, 48, .sta, false, []⟩, ⟨47, 32, .sta, false, []⟩, ⟨7, 7, .sta, false, []⟩, ⟨6, 6, .sta, false, []⟩, ⟨5, 5, .sta, false, []⟩, ⟨4, 4, .sta, false, []⟩, ⟨3, 3, .sta, false, []⟩, ⟨2, 2, .sta, false, []⟩, ⟨1, 1, .sta, false, []⟩, ⟨0, 0, .sta, false, []⟩]⟩
  | .portIgnCnt => ⟨1, 0x10028, [(256, 256)], 64, 0x0,
      [⟨63, 0, .cnt, false, []⟩]⟩
  | .portRxFrames => ⟨1, 0x10040, [(256, 256)], 64, 0x0,
      [⟨63, 0, .cnt, false, []⟩]⟩
  | .portRxBad => ⟨1, 0x10048, [(256, 256)], 64, 0x0,
      [⟨63, 0, .cnt, false, []⟩]⟩
  | .portRxOversize => ⟨1, 0x10050, [(256, 256)], 64, 0x0,
      [⟨63, 0, .cnt, false, []⟩]⟩
  | .portRxPause => ⟨1, 0x10058, [(256, 256)], 64, 0x0,
      [⟨63, 0, .cnt, false, []⟩]⟩
  | .portTxFrames => ⟨1, 0x10060, [(256, 256)], 64, 0x0,
      [⟨63, 0, .cnt, false, []⟩]⟩
  | .portTxStomp => ⟨1, 0x10068, [(256, 256)], 64, 0x0,
      [⟨63, 0, .cnt, false, []⟩]⟩
  | .portFecCorr => ⟨1, 0x10070, [(256, 256)], 64, 0x0,
      [⟨63, 0, .cnt, false, []⟩]⟩
  | .portFecUncorr => ⟨1, 0x10078, [(256, 256)], 64, 0x0,
      [⟨63, 0, .cnt, false, []⟩]⟩
  | .portCalRx => ⟨1, 0x20000, [(256, 32)], 64, 0x0,
      [⟨63, 32, .sta, false, []⟩, ⟨31, 0, .ro, false, []⟩]⟩
  | .portCalTx => ⟨1, 0x20008, [(256, 32)], 64, 0x0,
      [⟨63, 32, .sta, false, []⟩, ⟨31, 0, .ro, false, []⟩]⟩
  | .portCalSta => ⟨1, 0x20010, [(256, 32)], 64, 0x0,
      [⟨63, 32, .sta, false, []⟩, ⟨0, 0, .sta, false, []⟩]⟩
  | .portOctCfg => ⟨1, 0x1000, [(32, 64)], 32, 0x0,
      [⟨0, 0, .ctl, true, []⟩]⟩
  | .portTsqMeta => ⟨1, 0x1008, [(32, 64)], 64, 0x0,
      [⟨63, 48, .sta, false, []⟩, ⟨47, 32, .sta, false, []⟩, ⟨31, 24, .sta, false, []⟩, ⟨7, 7, .sta, false, []⟩, ⟨6, 0, .sta, false, []⟩]⟩
  | .portTsqLt => ⟨1, 0x1010, [(32, 64)], 64, 0xffffffffffffffff,
      [⟨63, 0, .sta, false, []⟩]⟩
  | .portTsqOvf => ⟨1, 0x1018, [(32, 64)], 64, 0x0,
      [⟨63, 0, .cnt, false, []⟩]⟩
  | .ingIgnCnt => ⟨2, 0x0, [], 64, 0x0,
      [⟨63, 0, .cnt, false, []⟩]⟩
  | .ingExcCfg => ⟨2, 0x8, [], 32, 0x0,
      [⟨31, 31, .ctl, true, []⟩, ⟨13, 0, .ctl, true, []⟩]⟩
  | .ingProfCfg => ⟨2, 0x1000, [(16, 64)], 32, 0x40,
      [⟨8, 0, .tmr, false, [(0, 13), (257, 511)]⟩]⟩
  | .ingProfFld => ⟨2, 0x1008, [(16, 64), (8, 4)], 32, 0x0,
      [⟨26, 24, .tmr, false, [(5, 7)]⟩, ⟨23, 16, .tmr, false, []⟩, ⟨12, 8, .tmr, false, [(17, 31)]⟩]⟩
  | .ingPortCfg => ⟨2, 0x10000, [(256, 64)], 32, 0x0,
      [⟨31, 24, .ctl, false, []⟩, ⟨23, 23, .ctl, true, []⟩, ⟨19, 8, .ctl, false, []⟩, ⟨5, 4, .ctl, false, [(2, 3)]⟩, ⟨3, 0, .ctl, false, []⟩]⟩
  | .ingPortNomatch => ⟨2, 0x10008, [(256, 64)], 64, 0x0,
      [⟨63, 0, .cnt, false, []⟩]⟩
  | .ingTblCtl => ⟨2, 0x20000, [(256, 256)], 32, 0x0,
      [⟨0, 0, .ctl, true, []⟩]⟩
  | .ingTblCfg => ⟨2, 0x20008, [(256, 256)], 64, 0x0,
      [⟨63, 48, .tmr, false, [(28611, 65535)]⟩, ⟨36, 26, .tmr, false, [(1025, 2047)]⟩, ⟨25, 14, .tmr, false, [(2049, 4095)]⟩, ⟨10, 10, .tmr, false, []⟩, ⟨9, 9, .tmr, false, []⟩, ⟨8, 8, .tmr, false, []⟩, ⟨3, 0, .tmr, false, [(4, 15)]⟩]⟩
  | .ingTblSta => ⟨2, 0x20010, [(256, 256)], 64, 0x0,
      [⟨63, 48, .sta, false, []⟩, ⟨47, 40, .sta, false, []⟩, ⟨32, 32, .sta, false, []⟩, ⟨31, 0, .sta, false, []⟩]⟩
  | .ingTblEvict => ⟨2, 0x20018, [(256, 256)], 64, 0x0,
      [⟨63, 0, .cnt, false, []⟩]⟩
  | .ingTblPar => ⟨2, 0x20020, [(256, 256)], 64, 0x0,
      [⟨63, 0, .cnt, false, []⟩]⟩
  | .ingTblLearn => ⟨2, 0x20028, [(256, 256)], 64, 0x0,
      [⟨63, 0, .cnt, false, []⟩]⟩
  | .ingTblLearnDrop => ⟨2, 0x20030, [(256, 256)], 64, 0x0,
      [⟨63, 0, .cnt, false, []⟩]⟩
  | .ingTblAged => ⟨2, 0x20038, [(256, 256)], 64, 0x0,
      [⟨63, 0, .cnt, false, []⟩]⟩
  | .ingTblStale => ⟨2, 0x20040, [(256, 256)], 64, 0x0,
      [⟨63, 0, .cnt, false, []⟩]⟩
  | .ingConSta => ⟨2, 0x400000, [(65536, 64)], 64, 0x0,
      [⟨63, 48, .sta, false, []⟩, ⟨1, 0, .sta, false, []⟩]⟩
  | .ingConTok => ⟨2, 0x400008, [(65536, 64)], 64, 0x0,
      [⟨63, 32, .sta, false, []⟩, ⟨31, 0, .sta, false, []⟩]⟩
  | .ingConGreen => ⟨2, 0x400010, [(65536, 64)], 64, 0x0,
      [⟨63, 0, .cnt, false, []⟩]⟩
  | .ingConYellow => ⟨2, 0x400018, [(65536, 64)], 64, 0x0,
      [⟨63, 0, .cnt, false, []⟩]⟩
  | .ingConRed => ⟨2, 0x400020, [(65536, 64)], 64, 0x0,
      [⟨63, 0, .cnt, false, []⟩]⟩
  | .ingConOverlen => ⟨2, 0x400028, [(65536, 64)], 64, 0x0,
      [⟨63, 0, .cnt, false, []⟩]⟩
  | .spurActAt => ⟨3, 0x0, [], 64, 0x0,
      [⟨63, 0, .sta, false, []⟩]⟩
  | .spurActSta => ⟨3, 0x8, [], 64, 0x0,
      [⟨63, 32, .cnt, false, []⟩, ⟨17, 17, .sta, false, []⟩, ⟨16, 16, .sta, false, []⟩, ⟨15, 8, .sta, false, []⟩, ⟨7, 0, .sta, false, []⟩]⟩
  | .spurRidgeSta => ⟨3, 0x1000, [(16, 256)], 64, 0x10000,
      [⟨63, 48, .sta, false, []⟩, ⟨16, 16, .sta, false, []⟩, ⟨15, 0, .sta, false, []⟩]⟩
  | .spurRidgeSpareCnt => ⟨3, 0x1008, [(16, 256)], 64, 0x0,
      [⟨63, 0, .cnt, false, []⟩]⟩
  | .spurCcSta => ⟨3, 0x2000, [(8, 64)], 64, 0x0,
      [⟨63, 48, .sta, false, []⟩, ⟨15, 0, .sta, false, []⟩]⟩
  | .spurCoreCtl => ⟨3, 0x10000, [(256, 1024)], 32, 0x0,
      [⟨0, 0, .ctl, false, []⟩]⟩
  | .spurCoreSta => ⟨3, 0x10008, [(256, 1024)], 64, 0x0,
      [⟨63, 48, .sta, false, []⟩, ⟨47, 32, .sta, false, []⟩, ⟨31, 16, .sta, false, []⟩, ⟨7, 7, .sta, false, []⟩, ⟨6, 6, .sta, false, []⟩, ⟨5, 5, .sta, false, []⟩, ⟨4, 4, .sta, false, []⟩, ⟨3, 3, .sta, false, []⟩, ⟨2, 0, .sta, false, []⟩]⟩
  | .spurCoreIgn => ⟨3, 0x10010, [(256, 1024)], 64, 0x0,
      [⟨63, 0, .cnt, false, []⟩]⟩
  | .spurCoreSevref => ⟨3, 0x10018, [(256, 1024)], 64, 0x0,
      [⟨63, 0, .cnt, false, []⟩]⟩
  | .spurCoreRel => ⟨3, 0x10020, [(256, 1024)], 32, 0x0,
      [⟨7, 4, .cmd, false, []⟩, ⟨2, 0, .cmd, false, []⟩]⟩
  | .spurCoreDb => ⟨3, 0x10028, [(256, 1024)], 32, 0x0,
      [⟨7, 4, .cmd, false, []⟩, ⟨1, 0, .cmd, false, []⟩]⟩
  | .spurSlotAt => ⟨3, 0x10030, [(256, 1024)], 64, 0x0,
      [⟨63, 0, .cmd, false, []⟩]⟩
  | .spurThrRst => ⟨3, 0x10038, [(256, 1024)], 32, 0x0,
      [⟨15, 0, .cmd, false, []⟩]⟩
  | .spurSlot => ⟨3, 0x10100, [(256, 1024), (2, 64), (8, 8)], 64, 0x0,
      [⟨7, 7, .ctl, false, []⟩, ⟨3, 0, .ctl, false, []⟩, ⟨15, 15, .ctl, false, []⟩, ⟨11, 8, .ctl, false, []⟩, ⟨23, 23, .ctl, false, []⟩, ⟨19, 16, .ctl, false, []⟩, ⟨31, 31, .ctl, false, []⟩, ⟨27, 24, .ctl, false, []⟩, ⟨39, 39, .ctl, false, []⟩, ⟨35, 32, .ctl, false, []⟩, ⟨47, 47, .ctl, false, []⟩, ⟨43, 40, .ctl, false, []⟩, ⟨55, 55, .ctl, false, []⟩, ⟨51, 48, .ctl, false, []⟩, ⟨63, 63, .ctl, false, []⟩, ⟨59, 56, .ctl, false, []⟩]⟩
  | .spurThrSta => ⟨3, 0x10200, [(256, 1024), (16, 32)], 64, 0x0,
      [⟨63, 52, .sta, false, []⟩, ⟨48, 48, .sta, false, []⟩, ⟨47, 40, .sta, false, []⟩, ⟨32, 32, .sta, false, []⟩, ⟨2, 0, .sta, false, []⟩]⟩
  | .spurThrEvt => ⟨3, 0x10208, [(256, 1024), (16, 32)], 64, 0x0,
      [⟨63, 32, .sta, false, []⟩, ⟨31, 0, .sta, false, []⟩]⟩
  | .spurThrSevsrc => ⟨3, 0x10210, [(256, 1024), (16, 32), (2, 8)], 64, 0x0,
      [⟨63, 0, .sta, false, []⟩]⟩
  | .spurGrpCfg => ⟨3, 0x100000, [(4096, 128)], 64, 0x0,
      [⟨63, 48, .sta, false, []⟩, ⟨47, 32, .sta, false, []⟩, ⟨0, 0, .sta, false, []⟩]⟩
  | .spurGrpSta => ⟨3, 0x100008, [(4096, 128)], 64, 0x0,
      [⟨63, 48, .sta, false, []⟩, ⟨47, 32, .sta, false, []⟩, ⟨31, 24, .sta, false, []⟩, ⟨23, 19, .sta, false, []⟩, ⟨18, 10, .sta, false, []⟩, ⟨9, 9, .sta, false, []⟩, ⟨8, 8, .sta, false, []⟩]⟩
  | .spurGrpImg => ⟨3, 0x100010, [(4096, 128), (2, 8)], 64, 0x0,
      [⟨63, 56, .sta, false, []⟩, ⟨55, 40, .sta, false, []⟩, ⟨19, 0, .sta, false, []⟩]⟩
  | .spurGrpFrames => ⟨3, 0x100020, [(4096, 128)], 64, 0x0,
      [⟨63, 0, .cnt, false, []⟩]⟩
  | .spurGrpBudget => ⟨3, 0x100028, [(4096, 128)], 64, 0x0,
      [⟨63, 0, .cnt, false, []⟩]⟩
  | .spurGrpDqwait => ⟨3, 0x100030, [(4096, 128)], 64, 0x0,
      [⟨63, 0, .cnt, false, []⟩]⟩
  | .spurGrpDqdrop => ⟨3, 0x100038, [(4096, 128)], 64, 0x0,
      [⟨63, 0, .cnt, false, []⟩]⟩
  | .spurChCfg => ⟨3, 0x200000, [(16, 16384), (1024, 16)], 64, 0x0,
      [⟨47, 32, .sta, false, []⟩, ⟨31, 24, .sta, false, []⟩, ⟨23, 16, .sta, false, []⟩, ⟨15, 8, .sta, false, []⟩, ⟨7, 7, .sta, false, []⟩, ⟨6, 6, .sta, false, []⟩, ⟨5, 5, .sta, false, []⟩, ⟨4, 4, .sta, false, []⟩]⟩
  | .spurChSta => ⟨3, 0x200008, [(16, 16384), (1024, 16)], 64, 0x0,
      [⟨63, 32, .cnt, false, []⟩, ⟨6, 0, .sta, false, []⟩]⟩
  | .spurCoreFault => ⟨3, 0x10040, [(256, 1024)], 64, 0x0,
      [⟨63, 56, .sta, false, []⟩, ⟨55, 32, .sta, false, []⟩, ⟨31, 24, .sta, false, []⟩, ⟨5, 5, .sta, false, []⟩, ⟨3, 0, .sta, false, []⟩]⟩
  | .spurCoreFaultCnt => ⟨3, 0x10048, [(256, 1024)], 64, 0x0,
      [⟨63, 0, .cnt, false, []⟩]⟩
  | .spurGrpProgdrop => ⟨3, 0x100040, [(4096, 128)], 64, 0x0,
      [⟨63, 0, .cnt, false, []⟩]⟩
  | .ingAdmSta => ⟨2, 0x100, [], 64, 0x0,
      [⟨17, 17, .sta, false, []⟩, ⟨16, 0, .sta, false, []⟩]⟩
  | .ingAdmReq => ⟨2, 0x108, [], 64, 0x0,
      [⟨63, 0, .cnt, false, []⟩]⟩
  | .ingAdmRefused => ⟨2, 0x110, [], 64, 0x0,
      [⟨63, 0, .cnt, false, []⟩]⟩
  | .ingAdmDigestAt => ⟨2, 0x118, [], 64, 0x0,
      [⟨63, 0, .sta, false, []⟩]⟩
  | .ingAdmDigest => ⟨2, 0x120, [(6, 8)], 64, 0x0,
      [⟨63, 0, .sta, false, []⟩]⟩
  | .ingConBound => ⟨2, 0x400030, [(65536, 64)], 64, 0x0,
      [⟨63, 32, .sta, false, []⟩, ⟨31, 0, .sta, false, []⟩]⟩
  | .ingConLate => ⟨2, 0x400038, [(65536, 64)], 64, 0x0,
      [⟨63, 0, .cnt, false, []⟩]⟩
  | .tmBufSta => ⟨4, 0x0, [], 64, 0x0,
      [⟨63, 32, .sta, false, []⟩, ⟨31, 0, .sta, false, []⟩]⟩
  | .tmBufFault => ⟨4, 0x8, [], 64, 0x0,
      [⟨63, 0, .cnt, false, []⟩]⟩
  | .tmSwapAt => ⟨4, 0x100000, [(256, 4096)], 64, 0x0,
      [⟨63, 0, .cmd, false, []⟩]⟩
  | .tmPortSta => ⟨4, 0x100008, [(256, 4096)], 64, 0x0,
      [⟨63, 32, .sta, false, []⟩, ⟨7, 7, .sta, false, []⟩, ⟨6, 6, .sta, false, []⟩, ⟨5, 5, .sta, false, []⟩, ⟨4, 4, .sta, false, []⟩, ⟨3, 3, .sta, false, []⟩]⟩
  | .tmPortIgn => ⟨4, 0x100010, [(256, 4096)], 64, 0x0,
      [⟨63, 0, .cnt, false, []⟩]⟩
  | .tmPortDqlate => ⟨4, 0x100018, [(256, 4096)], 64, 0x0,
      [⟨63, 0, .cnt, false, []⟩]⟩
  | .tmPortDisc => ⟨4, 0x100020, [(256, 4096)], 64, 0x0,
      [⟨63, 0, .cnt, false, []⟩]⟩
  | .tmPortMcdis => ⟨4, 0x100028, [(256, 4096)], 64, 0x0,
      [⟨63, 0, .cnt, false, []⟩]⟩
  | .tmPshpRate => ⟨4, 0x100040, [(256, 4096), (2, 16)], 64, 0x0,
      [⟨63, 32, .tmr, false, []⟩, ⟨31, 0, .tmr, false, []⟩]⟩
  | .tmPshpBurst => ⟨4, 0x100048, [(256, 4096), (2, 16)], 64, 0x0,
      [⟨63, 63, .tmr, false, []⟩, ⟨55, 32, .tmr, false, []⟩, ⟨23, 0, .tmr, false, []⟩]⟩
  | .tmQCfg => ⟨4, 0x100100, [(256, 4096), (16, 64), (2, 32)], 32, 0x0,
      [⟨16, 16, .tmr, false, []⟩, ⟨15, 0, .tmr, false, []⟩]⟩
  | .tmQRate => ⟨4, 0x100108, [(256, 4096), (16, 64), (2, 32)], 64, 0x0,
      [⟨63, 32, .tmr, false, []⟩, ⟨31, 0, .tmr, false, []⟩]⟩
  | .tmQBurst => ⟨4, 0x100110, [(256, 4096), (16, 64), (2, 32)], 64, 0x0,
      [⟨63, 63, .tmr, false, []⟩, ⟨55, 32, .tmr, false, []⟩, ⟨23, 0, .tmr, false, []⟩]⟩
  | .tmQSta => ⟨4, 0x100800, [(256, 4096), (16, 64)], 64, 0x0,
      [⟨63, 48, .sta, false, []⟩, ⟨47, 32, .sta, false, []⟩, ⟨31, 0, .sta, false, []⟩]⟩
  | .tmQDly => ⟨4, 0x100808, [(256, 4096), (16, 64)], 64, 0x0,
      [⟨31, 0, .sta, false, []⟩]⟩
  | .tmQNccfg => ⟨4, 0x100810, [(256, 4096), (16, 64)], 32, 0x40000,
      [⟨27, 27, .ctl, true, []⟩, ⟨26, 24, .ctl, true, []⟩, ⟨23, 0, .ctl, true, []⟩]⟩
  | .tmQTx => ⟨4, 0x100818, [(256, 4096), (16, 64)], 64, 0x0,
      [⟨63, 0, .cnt, false, []⟩]⟩
  | .tmQDrop => ⟨4, 0x100820, [(256, 4096), (16, 64)], 64, 0x0,
      [⟨63, 0, .cnt, false, []⟩]⟩
  | .tmQLaunchClamp => ⟨4, 0x100828, [(256, 4096), (16, 64)], 64, 0x0,
      [⟨63, 0, .cnt, false, []⟩]⟩
  | .tmQLaunchIgn => ⟨4, 0x100830, [(256, 4096), (16, 64)], 64, 0x0,
      [⟨63, 0, .cnt, false, []⟩]⟩
  | .colArm => ⟨4, 0x300000, [(256, 128)], 32, 0x0,
      [⟨0, 0, .cmd, false, []⟩]⟩
  | .colSta => ⟨4, 0x300008, [(256, 128)], 64, 0x0,
      [⟨63, 48, .sta, false, []⟩, ⟨25, 16, .sta, false, []⟩, ⟨7, 7, .sta, false, []⟩, ⟨4, 4, .sta, false, []⟩, ⟨3, 3, .sta, false, []⟩, ⟨2, 2, .sta, false, []⟩, ⟨1, 1, .sta, false, []⟩, ⟨0, 0, .sta, false, []⟩]⟩
  | .colSwitchLt => ⟨4, 0x300010, [(256, 128)], 64, 0x0,
      [⟨63, 0, .sta, false, []⟩]⟩
  | .colCycles => ⟨4, 0x300018, [(256, 128)], 64, 0x0,
      [⟨63, 0, .cnt, false, []⟩]⟩
  | .colBankSec => ⟨4, 0x300020, [(256, 128), (2, 32)], 64, 0x0,
      [⟨47, 0, .tmr, false, []⟩]⟩
  | .colBankNs => ⟨4, 0x300028, [(256, 128), (2, 32)], 64, 0x0,
      [⟨31, 0, .tmr, false, []⟩]⟩
  | .colBankCfg => ⟨4, 0x300030, [(256, 128), (2, 32)], 64, 0x0,
      [⟨47, 32, .tmr, false, []⟩, ⟨10, 0, .tmr, false, [(1025, 2047)]⟩]⟩
  | .colEnt => ⟨4, 0x400000, [(256, 16384), (2, 8192), (1024, 8)], 64, 0x0,
      [⟨47, 32, .tmr, false, []⟩, ⟨31, 0, .tmr, false, []⟩]⟩
  | .ledRcptSta => ⟨5, 0x0, [], 64, 0x0,
      [⟨63, 32, .sta, false, []⟩, ⟨1, 1, .sta, false, []⟩, ⟨0, 0, .sta, false, []⟩]⟩
  | .ledRcptSeq => ⟨5, 0x8, [], 64, 0x0,
      [⟨63, 0, .sta, false, []⟩]⟩
  | .ledRcptLate => ⟨5, 0x10, [], 64, 0x0,
      [⟨63, 0, .cnt, false, []⟩]⟩
  | .ledStartEpoch => ⟨5, 0x18, [], 64, 0x0,
      [⟨63, 0, .sta, false, []⟩]⟩
  | .ledProofCnt => ⟨5, 0x20, [], 64, 0x0,
      [⟨63, 0, .cnt, false, []⟩]⟩
  | .ledLaneSeq => ⟨5, 0x10000, [(16, 256)], 64, 0x0,
      [⟨63, 0, .sta, false, []⟩]⟩
  | .ledLaneSta => ⟨5, 0x10008, [(16, 256)], 64, 0x0,
      [⟨63, 48, .sta, false, []⟩, ⟨44, 32, .sta, false, []⟩, ⟨31, 0, .sta, false, []⟩]⟩
  | .ledLaneLeaves => ⟨5, 0x10010, [(16, 256)], 64, 0x0,
      [⟨63, 0, .cnt, false, []⟩]⟩
  | .ledLanePolsum => ⟨5, 0x10018, [(16, 256)], 64, 0x0,
      [⟨63, 0, .cnt, false, []⟩]⟩
  | .ledLaneUnstaged => ⟨5, 0x10020, [(16, 256)], 64, 0x0,
      [⟨63, 0, .cnt, false, []⟩]⟩
  | .ledLaneExpgap => ⟨5, 0x10028, [(16, 256)], 64, 0x0,
      [⟨63, 0, .cnt, false, []⟩]⟩
  | .ledRetBase => ⟨5, 0x10040, [(16, 256), (2, 16)], 64, 0x0,
      [⟨39, 20, .tmr, false, []⟩]⟩
  | .ledRetSize => ⟨5, 0x10048, [(16, 256), (2, 16)], 64, 0x0,
      [⟨19, 0, .tmr, false, [(524289, 1048575)]⟩]⟩
  | .ledRetSwap => ⟨5, 0x10060, [(16, 256)], 32, 0x0,
      [⟨0, 0, .cmd, false, []⟩]⟩
  | .ledRetRelease => ⟨5, 0x10068, [(16, 256)], 32, 0x0,
      [⟨0, 0, .cmd, false, []⟩]⟩
  | .ledRetSta => ⟨5, 0x10070, [(16, 256)], 64, 0x0,
      [⟨63, 32, .sta, false, []⟩, ⟨3, 3, .sta, false, []⟩, ⟨2, 2, .sta, false, []⟩, ⟨1, 1, .sta, false, []⟩, ⟨0, 0, .sta, false, []⟩]⟩
  | .zoaCfg => ⟨6, 0x0, [], 64, 0x0,
      [⟨63, 48, .tmr, false, [(0, 0)]⟩, ⟨47, 30, .tmr, false, []⟩, ⟨1, 1, .tmr, false, []⟩, ⟨0, 0, .ctl, true, []⟩]⟩
  | .zoaIp => ⟨6, 0x10, [(2, 8)], 64, 0x0,
      [⟨63, 0, .tmr, false, []⟩]⟩
  | .zoaDelta => ⟨6, 0x20, [(2, 8)], 32, 0x7d,
      [⟨11, 0, .tmr, false, [(0, 15), (4001, 4095)]⟩]⟩
  | .zoaDeltaSwap => ⟨6, 0x30, [], 64, 0x0,
      [⟨63, 0, .cmd, false, []⟩]⟩
  | .zoaSta => ⟨6, 0x40, [], 64, 0x40000000000,
      [⟨63, 50, .sta, false, []⟩, ⟨46, 46, .sta, false, []⟩, ⟨45, 45, .sta, false, []⟩, ⟨44, 44, .sta, false, []⟩, ⟨43, 43, .sta, false, []⟩, ⟨42, 42, .sta, false, []⟩, ⟨41, 21, .sta, false, []⟩, ⟨20, 4, .sta, false, []⟩]⟩
  | .zoaQuarEnd => ⟨6, 0x48, [], 64, 0x0,
      [⟨63, 0, .sta, false, []⟩]⟩
  | .zoaTwinCfg => ⟨6, 0x50, [], 64, 0x200,
      [⟨63, 32, .ctl, false, []⟩, ⟨13, 6, .ctl, false, [(0, 0)]⟩, ⟨0, 0, .ctl, true, []⟩]⟩
  | .zoaTwinSta => ⟨6, 0x58, [], 64, 0x0,
      [⟨63, 32, .sta, false, []⟩, ⟨0, 0, .sta, false, []⟩]⟩
  | .zoaTwinWin => ⟨6, 0x60, [], 64, 0x0,
      [⟨43, 24, .ctl, false, []⟩, ⟨11, 0, .ctl, true, [(2048, 4095)]⟩]⟩
  | .zoaTwinCtx => ⟨6, 0x200, [(24, 8)], 64, 0x0,
      [⟨63, 0, .ctl, false, []⟩]⟩
  | .zoaCnt => ⟨6, 0x100, [(10, 8)], 64, 0x0,
      [⟨63, 0, .cnt, false, []⟩]⟩
  | .zoaPortCfg => ⟨6, 0x10000, [(256, 8)], 32, 0x0,
      [⟨0, 0, .ctl, true, []⟩]⟩
  | .ciphSta => ⟨7, 0x0, [], 64, 0x8000000001,
      [⟨63, 48, .sta, false, []⟩, ⟨47, 40, .sta, false, []⟩, ⟨39, 35, .sta, false, []⟩, ⟨4, 4, .sta, false, []⟩, ⟨3, 3, .sta, false, []⟩, ⟨2, 2, .sta, false, []⟩, ⟨1, 1, .sta, false, []⟩, ⟨0, 0, .sta, false, []⟩]⟩
  | .ciphAlarmSta => ⟨7, 0x8, [], 32, 0x0,
      [⟨4, 0, .sta, false, []⟩]⟩
  | .ciphAlarmCnt => ⟨7, 0x10, [], 64, 0x0,
      [⟨63, 0, .cnt, false, []⟩]⟩
  | .ciphEraseLt => ⟨7, 0x18, [], 64, 0x0,
      [⟨63, 0, .sta, false, []⟩]⟩
  | .ciphTagFail => ⟨7, 0x20, [], 64, 0x0,
      [⟨63, 0, .cnt, false, []⟩]⟩
  | .ciphShareSwap => ⟨7, 0x30, [], 64, 0x0,
      [⟨63, 0, .cmd, false, []⟩]⟩
  | .ciphShare => ⟨7, 0x100, [(2, 64), (4, 8)], 64, 0x0,
      [⟨63, 32, .tmr, false, []⟩, ⟨11, 0, .tmr, false, [(3073, 4095)]⟩]⟩
  | .ciphSecyCfg => ⟨7, 0x10000, [(256, 64)], 64, 0x0,
      [⟨63, 32, .ctl, false, []⟩, ⟨3, 2, .ctl, true, []⟩, ⟨0, 0, .ctl, false, []⟩]⟩
  | .ciphSecyAt => ⟨7, 0x10008, [(256, 64)], 64, 0x0,
      [⟨63, 0, .cmd, false, []⟩]⟩
  | .ciphSecySta => ⟨7, 0x10010, [(256, 64)], 32, 0x0,
      [⟨4, 4, .sta, false, []⟩, ⟨3, 3, .sta, false, []⟩, ⟨2, 2, .sta, false, []⟩, ⟨1, 0, .sta, false, []⟩]⟩
  | .ciphSecyDisc => ⟨7, 0x10018, [(256, 64)], 64, 0x0,
      [⟨63, 0, .cnt, false, []⟩]⟩
  | .hostLinkSta => ⟨9, 0x0, [], 64, 0x0,
      [⟨63, 48, .sta, false, []⟩, ⟨31, 29, .sta, false, []⟩, ⟨28, 24, .sta, false, []⟩, ⟨23, 22, .sta, false, []⟩, ⟨1, 1, .sta, false, []⟩, ⟨0, 0, .sta, false, []⟩]⟩
  | .hostContainSta => ⟨9, 0x8, [], 64, 0x0,
      [⟨63, 32, .sta, false, []⟩, ⟨31, 16, .cnt, false, []⟩, ⟨15, 8, .sta, false, []⟩, ⟨0, 0, .sta, false, []⟩]⟩
  | .hostContainRelease => ⟨9, 0x10, [], 64, 0x0,
      [⟨63, 32, .cmd, false, []⟩]⟩
  | .hostContainCnt => ⟨9, 0x18, [], 64, 0x0,
      [⟨63, 0, .cnt, false, []⟩]⟩
  | .hostIgnCnt => ⟨9, 0x20, [], 64, 0x0,
      [⟨63, 0, .cnt, false, []⟩]⟩
  | .hostLossCnt => ⟨9, 0x28, [], 64, 0x0,
      [⟨63, 0, .cnt, false, []⟩]⟩
  | .hostResetCnt => ⟨9, 0x30, [], 64, 0x0,
      [⟨63, 32, .cnt, false, []⟩, ⟨31, 0, .cnt, false, []⟩]⟩
  | .hostCplDisc => ⟨9, 0x38, [], 64, 0x0,
      [⟨63, 0, .cnt, false, []⟩]⟩
  | .hostFnSta => ⟨9, 0x10000, [(129, 64)], 64, 0x0,
      [⟨63, 48, .sta, false, []⟩, ⟨10, 10, .sta, false, []⟩, ⟨9, 9, .sta, false, []⟩, ⟨8, 8, .sta, false, []⟩, ⟨2, 0, .sta, false, []⟩]⟩
  | .hostFnFlrCnt => ⟨9, 0x10008, [(129, 64)], 64, 0x0,
      [⟨63, 0, .cnt, false, []⟩]⟩
  | .hostFnUrCnt => ⟨9, 0x10010, [(129, 64)], 64, 0x0,
      [⟨63, 0, .cnt, false, []⟩]⟩
  | .hostFnLostFetch => ⟨9, 0x10018, [(129, 64)], 64, 0x0,
      [⟨63, 0, .cnt, false, []⟩]⟩
  | .ringBase => ⟨9, 0x100000, [(16384, 128)], 64, 0x0,
      [⟨63, 6, .ctl, false, []⟩]⟩
  | .ringCfg => ⟨9, 0x100008, [(16384, 128)], 64, 0x10100000600,
      [⟨63, 52, .ctl, false, []⟩, ⟨51, 51, .ctl, false, []⟩, ⟨50, 48, .ctl, false, []⟩, ⟨47, 40, .ctl, false, [(0, 0)]⟩, ⟨37, 32, .ctl, false, [(0, 0), (33, 63)]⟩, ⟨31, 31, .ctl, false, []⟩, ⟨29, 16, .ctl, false, []⟩, ⟨12, 8, .ctl, false, [(0, 5), (17, 31)]⟩, ⟨3, 0, .ctl, false, [(0, 0), (11, 15)]⟩]⟩
  | .ringCtl => ⟨9, 0x100010, [(16384, 128)], 32, 0x0,
      [⟨0, 0, .ctl, true, []⟩]⟩
  | .ringSta => ⟨9, 0x100018, [(16384, 128)], 64, 0x0,
      [⟨63, 48, .sta, false, []⟩, ⟨47, 40, .sta, false, []⟩, ⟨39, 32, .sta, false, []⟩, ⟨7, 7, .sta, false, []⟩, ⟨2, 0, .sta, false, []⟩]⟩
  | .ringIdx => ⟨9, 0x100020, [(16384, 128)], 64, 0x0,
      [⟨63, 32, .sta, false, []⟩, ⟨31, 0, .sta, false, []⟩]⟩
  | .ringCi => ⟨9, 0x100028, [(16384, 128)], 64, 0x0,
      [⟨63, 32, .sta, false, []⟩, ⟨31, 0, .sta, false, []⟩]⟩
  | .ringResetIdx => ⟨9, 0x100030, [(16384, 128)], 32, 0x0,
      [⟨31, 0, .cmd, false, []⟩]⟩
  | .ringDone => ⟨9, 0x100038, [(16384, 128)], 64, 0x0,
      [⟨63, 0, .cnt, false, []⟩]⟩
  | .ringLost => ⟨9, 0x100040, [(16384, 128)], 64, 0x0,
      [⟨63, 0, .cnt, false, []⟩]⟩
  | .ringIgn => ⟨9, 0x100048, [(16384, 128)], 64, 0x0,
      [⟨63, 0, .cnt, false, []⟩]⟩
  | .hostTenSta => ⟨9, 0x20000, [(128, 32)], 64, 0x0,
      [⟨63, 48, .sta, false, []⟩, ⟨7, 7, .sta, false, []⟩, ⟨2, 0, .sta, false, []⟩]⟩
  | .hostFnMbxIgn => ⟨9, 0x10020, [(129, 64)], 64, 0x0,
      [⟨63, 0, .cnt, false, []⟩]⟩
  | .jrnCfg => ⟨10, 0x0, [], 64, 0x0,
      [⟨48, 40, .tmr, false, []⟩, ⟨39, 32, .tmr, false, [(0, 0), (129, 255)]⟩, ⟨0, 0, .ctl, false, []⟩]⟩
  | .jrnSta => ⟨10, 0x8, [], 64, 0x0,
      [⟨63, 48, .sta, false, []⟩, ⟨7, 7, .sta, false, []⟩, ⟨6, 6, .sta, false, []⟩, ⟨5, 5, .sta, false, []⟩, ⟨4, 4, .sta, false, []⟩]⟩
  | .jrnIgn => ⟨10, 0x10, [], 64, 0x0,
      [⟨63, 0, .cnt, false, []⟩]⟩
  | .jrnPeerSwap => ⟨10, 0x18, [], 64, 0x0,
      [⟨63, 0, .cmd, false, []⟩]⟩
  | .jrnPeerCfg => ⟨10, 0x20, [(2, 8)], 32, 0x6000,
      [⟨15, 8, .tmr, false, [(0, 0)]⟩, ⟨1, 0, .tmr, false, [(3, 3)]⟩]⟩
  | .jrnPeerCtx => ⟨10, 0x1000, [(2, 512), (2, 256), (24, 8)], 64, 0x0,
      [⟨63, 0, .tmr, false, []⟩]⟩
  | .jrnPeerSta => ⟨10, 0x800, [(2, 64)], 64, 0x0,
      [⟨63, 32, .sta, false, []⟩, ⟨1, 1, .sta, false, []⟩, ⟨0, 0, .sta, false, []⟩]⟩
  | .jrnPeerFail => ⟨10, 0x808, [(2, 64)], 64, 0x0,
      [⟨63, 0, .cnt, false, []⟩]⟩
  | .jrnQBase => ⟨10, 0x10000, [(64, 64)], 64, 0x0,
      [⟨63, 11, .ctl, false, []⟩]⟩
  | .jrnQCtl => ⟨10, 0x10008, [(64, 64)], 32, 0x0,
      [⟨14, 8, .ctl, false, []⟩, ⟨0, 0, .ctl, true, []⟩]⟩
  | .jrnQSta => ⟨10, 0x10010, [(64, 64)], 64, 0x0,
      [⟨63, 48, .sta, false, []⟩, ⟨34, 32, .sta, false, []⟩, ⟨31, 0, .sta, false, []⟩]⟩
  | .jrnQFlr => ⟨10, 0x10018, [(64, 64)], 64, 0x0,
      [⟨31, 0, .sta, false, []⟩]⟩
  | .jrnQDone => ⟨10, 0x10020, [(64, 64)], 64, 0x0,
      [⟨63, 0, .cnt, false, []⟩]⟩
  | .jrnQIgn => ⟨10, 0x10028, [(64, 64)], 64, 0x0,
      [⟨63, 0, .cnt, false, []⟩]⟩
  | .secBootSta => ⟨12, 0x0, [], 64, 0x0,
      [⟨63, 48, .sta, false, []⟩, ⟨47, 40, .sta, false, []⟩, ⟨39, 38, .sta, false, []⟩, ⟨8, 8, .sta, false, []⟩, ⟨7, 7, .sta, false, []⟩, ⟨6, 6, .sta, false, []⟩, ⟨5, 5, .sta, false, []⟩, ⟨4, 4, .sta, false, []⟩, ⟨3, 0, .sta, false, []⟩]⟩
  | .secLifecycle => ⟨12, 0x8, [], 64, 0x0,
      [⟨63, 56, .ro, false, []⟩, ⟨55, 48, .ro, false, []⟩, ⟨47, 40, .ro, false, []⟩, ⟨4, 4, .ro, false, []⟩, ⟨3, 3, .sta, false, []⟩, ⟨2, 0, .ro, false, []⟩]⟩
  | .secVer => ⟨12, 0x10, [], 64, 0x0,
      [⟨63, 32, .sta, false, []⟩, ⟨31, 0, .sta, false, []⟩]⟩
  | .secBver => ⟨12, 0x18, [], 64, 0x0,
      [⟨63, 32, .sta, false, []⟩, ⟨31, 0, .sta, false, []⟩]⟩
  | .secNonce => ⟨12, 0x20, [], 64, 0x0,
      [⟨63, 0, .sta, false, []⟩]⟩
  | .secFwAt => ⟨12, 0x28, [], 64, 0x0,
      [⟨63, 0, .sta, false, []⟩]⟩
  | .secMeas => ⟨12, 0x40, [(6, 8)], 64, 0x0,
      [⟨63, 0, .sta, false, []⟩]⟩
  | .sysMode => ⟨13, 0x400, [], 32, 0x0,
      [⟨1, 1, .ro, false, []⟩, ⟨0, 0, .ctl, false, []⟩]⟩
  | .sysUpdStrobe => ⟨13, 0x408, [], 32, 0x0,
      [⟨15, 0, .cmd, false, []⟩]⟩
  | .sysUpdSta => ⟨13, 0x410, [], 64, 0x0,
      [⟨63, 48, .sta, false, []⟩, ⟨47, 32, .sta, false, []⟩, ⟨12, 0, .sta, false, []⟩]⟩
  | .sysUpdAt => ⟨13, 0x418, [], 64, 0x0,
      [⟨63, 0, .sta, false, []⟩]⟩
  | .sysUpdOvf => ⟨13, 0x420, [], 64, 0x0,
      [⟨63, 0, .cnt, false, []⟩]⟩
  | .sysTmrFixCnt => ⟨13, 0x430, [], 64, 0x0,
      [⟨63, 0, .cnt, false, []⟩]⟩
  | .sysTmrLost => ⟨13, 0x438, [], 64, 0x0,
      [⟨63, 0, .cnt, false, []⟩]⟩
  | .sysSlowEpoch => ⟨13, 0x440, [], 64, 0x0,
      [⟨63, 0, .cnt, false, []⟩]⟩
  | .sysIgnCnt => ⟨13, 0x480, [(16, 8)], 64, 0x0,
      [⟨63, 0, .cnt, false, []⟩]⟩
  | .sysScreeSram => ⟨13, 0x600, [], 64, 0x0,
      [⟨63, 32, .cnt, false, []⟩, ⟨31, 0, .sta, false, []⟩]⟩
  | .sysScreeExt => ⟨13, 0x608, [], 64, 0x0,
      [⟨63, 32, .cnt, false, []⟩, ⟨31, 0, .sta, false, []⟩]⟩
  | .sysEccSram => ⟨13, 0x610, [], 64, 0x0,
      [⟨63, 0, .cnt, false, []⟩]⟩
  | .sysEccSramUnc => ⟨13, 0x618, [], 64, 0x0,
      [⟨63, 0, .cnt, false, []⟩]⟩
  | .sysThermSta => ⟨13, 0x620, [], 64, 0x0,
      [⟨63, 48, .sta, false, []⟩, ⟨1, 1, .sta, false, []⟩, ⟨0, 0, .sta, false, []⟩]⟩
  | .sysAvsSta => ⟨13, 0x628, [], 64, 0x2bc00000000,
      [⟨63, 48, .sta, false, []⟩, ⟨47, 32, .sta, false, []⟩, ⟨31, 0, .cnt, false, []⟩]⟩
  | .sysFlashWear => ⟨13, 0x640, [(2, 8)], 64, 0x0,
      [⟨63, 32, .cnt, false, []⟩, ⟨16, 0, .sta, false, []⟩]⟩
  | .sysTelemCfg => ⟨13, 0x660, [], 32, 0x0,
      [⟨12, 12, .ctl, true, []⟩, ⟨11, 0, .ctl, true, [(2048, 4095)]⟩]⟩
  | .sysTelem => ⟨13, 0x10000, [(8, 128), (16, 8)], 64, 0x0,
      [⟨63, 0, .sta, false, []⟩]⟩
  | .memChSta => ⟨11, 0x10000, [(8, 256)], 64, 0x0,
      [⟨63, 48, .sta, false, []⟩, ⟨9, 8, .sta, false, []⟩, ⟨7, 7, .sta, false, []⟩, ⟨6, 6, .sta, false, []⟩, ⟨5, 4, .sta, false, []⟩, ⟨2, 0, .sta, false, []⟩]⟩
  | .memChCorr => ⟨11, 0x10008, [(8, 256)], 64, 0x0,
      [⟨63, 0, .cnt, false, []⟩]⟩
  | .memChUnc => ⟨11, 0x10010, [(8, 256)], 64, 0x0,
      [⟨63, 0, .cnt, false, []⟩]⟩
  | .memChAddr => ⟨11, 0x10018, [(8, 256)], 64, 0x0,
      [⟨63, 0, .cnt, false, []⟩]⟩
  | .memChRetrain => ⟨11, 0x10020, [(8, 256)], 64, 0x0,
      [⟨63, 0, .cnt, false, []⟩]⟩
  | .cairnSta => ⟨13, 0x800, [], 64, 0x0,
      [⟨63, 16, .sta, false, []⟩, ⟨15, 15, .sta, false, []⟩, ⟨13, 0, .sta, false, []⟩]⟩
  | .cairnOldest => ⟨13, 0x808, [], 64, 0x0,
      [⟨47, 0, .sta, false, []⟩]⟩
  | .cairnCursor => ⟨13, 0x810, [], 64, 0x0,
      [⟨63, 63, .ctl, true, []⟩, ⟨62, 60, .sta, false, []⟩, ⟨47, 0, .ctl, true, []⟩]⟩
  | .cairnWindow => ⟨13, 0x840, [(8, 8)], 64, 0x0,
      [⟨63, 0, .sta, false, []⟩]⟩
  | .cairnLife => ⟨13, 0x880, [], 64, 0x0,
      [⟨63, 32, .cnt, false, []⟩, ⟨31, 0, .cnt, false, []⟩]⟩
  | .cairnSupp => ⟨13, 0x888, [], 64, 0x0,
      [⟨63, 0, .cnt, false, []⟩]⟩
  | .cairnQlost => ⟨13, 0x890, [], 64, 0x0,
      [⟨63, 0, .cnt, false, []⟩]⟩
  | .cairnRate => ⟨13, 0x900, [(32, 8)], 64, 0x4000000010,
      [⟨63, 48, .ctl, true, []⟩, ⟨47, 32, .ctl, true, [(0, 0)]⟩, ⟨15, 0, .ctl, true, [(0, 0)]⟩]⟩
  | .sysDevId => ⟨13, 0x0, [], 64, 0x2560000000000000,
      [⟨63, 48, .ro, false, []⟩, ⟨47, 44, .ro, false, []⟩, ⟨43, 40, .ro, false, []⟩]⟩
  | .sysRstSta => ⟨13, 0x10, [], 64, 0xff010001,
      [⟨31, 24, .sta, false, []⟩, ⟨16, 16, .ro, false, []⟩, ⟨1, 0, .sta, false, []⟩]⟩
  | .sysSupplySta => ⟨13, 0xa00, [], 64, 0x0,
      [⟨24, 16, .sta, false, []⟩, ⟨8, 0, .sta, false, []⟩]⟩
  | .sysClkSta => ⟨13, 0xa10, [], 64, 0x0,
      [⟨9, 9, .sta, false, []⟩, ⟨8, 8, .sta, false, []⟩, ⟨7, 7, .sta, false, []⟩, ⟨6, 6, .sta, false, []⟩, ⟨5, 2, .sta, false, []⟩, ⟨1, 1, .sta, false, []⟩, ⟨0, 0, .sta, false, []⟩]⟩
  | .sysClkLoss => ⟨13, 0xa18, [], 64, 0x0,
      [⟨63, 0, .cnt, false, []⟩]⟩
  | .sysRail => ⟨13, 0xa40, [(9, 8)], 64, 0xffff00000000,
      [⟨63, 48, .sta, false, []⟩, ⟨47, 32, .sta, false, []⟩, ⟨31, 0, .cnt, false, []⟩]⟩
  | .sysModeSta => ⟨13, 0xc00, [], 64, 0x0,
      [⟨63, 56, .sta, false, []⟩, ⟨51, 48, .sta, false, []⟩, ⟨47, 46, .sta, false, []⟩, ⟨45, 44, .sta, false, []⟩, ⟨42, 42, .ro, false, []⟩, ⟨41, 41, .sta, false, []⟩, ⟨40, 40, .sta, false, []⟩, ⟨9, 8, .sta, false, []⟩, ⟨7, 4, .sta, false, []⟩, ⟨3, 3, .sta, false, []⟩, ⟨2, 0, .ro, false, []⟩]⟩

/-- A field of a register, by its bits. -/
structure Fld where
  reg : RegName
  hi : Nat
  lo : Nat
  deriving DecidableEq, Repr

/-- SYS_BLK_QUERY.ref, bits [63:0] (CMD). -/
abbrev Fld.sysBlkQueryRef : Fld := ⟨.sysBlkQuery, 63, 0⟩
/-- SYS_BLK_QUERY_RES.blk, bits [63:32] (STA). -/
abbrev Fld.sysBlkQueryResBlk : Fld := ⟨.sysBlkQueryRes, 63, 32⟩
/-- SYS_BLK_QUERY_RES.state, bits [31:29] (STA). -/
abbrev Fld.sysBlkQueryResState : Fld := ⟨.sysBlkQueryRes, 31, 29⟩
/-- SYS_BLK_QUERY_RES.stale, bits [28:28] (STA). -/
abbrev Fld.sysBlkQueryResStale : Fld := ⟨.sysBlkQueryRes, 28, 28⟩
/-- SYS_BLK_QUERY_RES.qseq, bits [27:16] (CNT). -/
abbrev Fld.sysBlkQueryResQseq : Fld := ⟨.sysBlkQueryRes, 27, 16⟩
/-- SYS_BLK_QUERY_RES.inc, bits [15:0] (STA). -/
abbrev Fld.sysBlkQueryResInc : Fld := ⟨.sysBlkQueryRes, 15, 0⟩
/-- CREST_LT.lt, bits [63:0] (STA). -/
abbrev Fld.crestLtLt : Fld := ⟨.crestLt, 63, 0⟩
/-- CREST_EPOCH.epoch, bits [63:0] (CNT). -/
abbrev Fld.crestEpochEpoch : Fld := ⟨.crestEpoch, 63, 0⟩
/-- CREST_MAP_SEC.sec, bits [47:0] (STA). -/
abbrev Fld.crestMapSecSec : Fld := ⟨.crestMapSec, 47, 0⟩
/-- CREST_MAP_SUB.ns, bits [47:16] (STA). -/
abbrev Fld.crestMapSubNs : Fld := ⟨.crestMapSub, 47, 16⟩
/-- CREST_MAP_SUB.frac, bits [15:0] (STA). -/
abbrev Fld.crestMapSubFrac : Fld := ⟨.crestMapSub, 15, 0⟩
/-- CREST_ADDEND.addend, bits [47:0] (STA). -/
abbrev Fld.crestAddendAddend : Fld := ⟨.crestAddend, 47, 0⟩
/-- CREST_TQW.tqw_epoch, bits [63:32] (STA). -/
abbrev Fld.crestTqwTqwEpoch : Fld := ⟨.crestTqw, 63, 32⟩
/-- CREST_TQW.tqw_live, bits [31:0] (STA). -/
abbrev Fld.crestTqwTqwLive : Fld := ⟨.crestTqw, 31, 0⟩
/-- CREST_EB_FULL.eb_epoch, bits [63:32] (STA). -/
abbrev Fld.crestEbFullEbEpoch : Fld := ⟨.crestEbFull, 63, 32⟩
/-- CREST_EB_FULL.eb_live, bits [31:0] (STA). -/
abbrev Fld.crestEbFullEbLive : Fld := ⟨.crestEbFull, 31, 0⟩
/-- CREST_SRV_STA.last_theta, bits [63:32] (STA). -/
abbrev Fld.crestSrvStaLastTheta : Fld := ⟨.crestSrvSta, 63, 32⟩
/-- CREST_SRV_STA.swap_pending, bits [7:7] (STA). -/
abbrev Fld.crestSrvStaSwapPending : Fld := ⟨.crestSrvSta, 7, 7⟩
/-- CREST_SRV_STA.active_bank, bits [6:6] (STA). -/
abbrev Fld.crestSrvStaActiveBank : Fld := ⟨.crestSrvSta, 6, 6⟩
/-- CREST_SRV_STA.step_pending, bits [5:5] (STA). -/
abbrev Fld.crestSrvStaStepPending : Fld := ⟨.crestSrvSta, 5, 5⟩
/-- CREST_SRV_STA.state, bits [3:0] (STA). -/
abbrev Fld.crestSrvStaState : Fld := ⟨.crestSrvSta, 3, 0⟩
/-- CREST_SAMPLE_AT.at, bits [63:0] (CMD). -/
abbrev Fld.crestSampleAtAt : Fld := ⟨.crestSampleAt, 63, 0⟩
/-- CREST_SAMPLE_OFS.theta, bits [63:0] (CMD). -/
abbrev Fld.crestSampleOfsTheta : Fld := ⟨.crestSampleOfs, 63, 0⟩
/-- CREST_STEP_CNT.steps, bits [63:0] (CNT). -/
abbrev Fld.crestStepCntSteps : Fld := ⟨.crestStepCnt, 63, 0⟩
/-- CREST_SAMPLE_CNT.accepted, bits [63:0] (CNT). -/
abbrev Fld.crestSampleCntAccepted : Fld := ⟨.crestSampleCnt, 63, 0⟩
/-- CREST_SAMPLE_DISC.discarded, bits [63:0] (CNT). -/
abbrev Fld.crestSampleDiscDiscarded : Fld := ⟨.crestSampleDisc, 63, 0⟩
/-- CREST_BANK_SWAP.swap, bits [0:0] (CMD). -/
abbrev Fld.crestBankSwapSwap : Fld := ⟨.crestBankSwap, 0, 0⟩
/-- CREST_SRV_CFG.step_en, bits [2:2] (TMR). -/
abbrev Fld.crestSrvCfgStepEn : Fld := ⟨.crestSrvCfg, 2, 2⟩
/-- CREST_SRV_CFG.src, bits [1:0] (TMR). -/
abbrev Fld.crestSrvCfgSrc : Fld := ⟨.crestSrvCfg, 1, 0⟩
/-- CREST_GAIN_ACQ.kp, bits [63:32] (TMR). -/
abbrev Fld.crestGainAcqKp : Fld := ⟨.crestGainAcq, 63, 32⟩
/-- CREST_GAIN_ACQ.ki, bits [31:0] (TMR). -/
abbrev Fld.crestGainAcqKi : Fld := ⟨.crestGainAcq, 31, 0⟩
/-- CREST_GAIN_LCK.kp, bits [63:32] (TMR). -/
abbrev Fld.crestGainLckKp : Fld := ⟨.crestGainLck, 63, 32⟩
/-- CREST_GAIN_LCK.ki, bits [31:0] (TMR). -/
abbrev Fld.crestGainLckKi : Fld := ⟨.crestGainLck, 31, 0⟩
/-- CREST_SRV_LIM.timeout, bits [47:32] (TMR). -/
abbrev Fld.crestSrvLimTimeout : Fld := ⟨.crestSrvLim, 47, 32⟩
/-- CREST_SRV_LIM.fclamp, bits [19:0] (TMR). -/
abbrev Fld.crestSrvLimFclamp : Fld := ⟨.crestSrvLim, 19, 0⟩
/-- CREST_SRV_THR.step_thr, bits [63:40] (TMR). -/
abbrev Fld.crestSrvThrStepThr : Fld := ⟨.crestSrvThr, 63, 40⟩
/-- CREST_SRV_THR.lock_cnt, bits [39:32] (TMR). -/
abbrev Fld.crestSrvThrLockCnt : Fld := ⟨.crestSrvThr, 39, 32⟩
/-- CREST_SRV_THR.unlock_thr, bits [31:16] (TMR). -/
abbrev Fld.crestSrvThrUnlockThr : Fld := ⟨.crestSrvThr, 31, 16⟩
/-- CREST_SRV_THR.lock_thr, bits [15:0] (TMR). -/
abbrev Fld.crestSrvThrLockThr : Fld := ⟨.crestSrvThr, 15, 0⟩
/-- CREST_TQ_CFG.hops, bits [31:28] (TMR). -/
abbrev Fld.crestTqCfgHops : Fld := ⟨.crestTqCfg, 31, 28⟩
/-- CREST_TQ_CFG.hold_drift, bits [27:16] (TMR). -/
abbrev Fld.crestTqCfgHoldDrift : Fld := ⟨.crestTqCfg, 27, 16⟩
/-- CREST_TQ_CFG.eb_base, bits [15:0] (TMR). -/
abbrev Fld.crestTqCfgEbBase : Fld := ⟨.crestTqCfg, 15, 0⟩
/-- CREST_NOM.nom, bits [47:0] (TMR). -/
abbrev Fld.crestNomNom : Fld := ⟨.crestNom, 47, 0⟩
/-- CREST_REF_CFG.freq, bits [1:1] (TMR). -/
abbrev Fld.crestRefCfgFreq : Fld := ⟨.crestRefCfg, 1, 1⟩
/-- CREST_REF_CFG.en, bits [0:0] (TMR). -/
abbrev Fld.crestRefCfgEn : Fld := ⟨.crestRefCfg, 0, 0⟩
/-- CREST_REF_STA.losses, bits [63:32] (CNT). -/
abbrev Fld.crestRefStaLosses : Fld := ⟨.crestRefSta, 63, 32⟩
/-- CREST_REF_STA.on_ref, bits [1:1] (STA). -/
abbrev Fld.crestRefStaOnRef : Fld := ⟨.crestRefSta, 1, 1⟩
/-- CREST_REF_STA.pll_lock, bits [0:0] (STA). -/
abbrev Fld.crestRefStaPllLock : Fld := ⟨.crestRefSta, 0, 0⟩
/-- CREST_PPSO_CFG.phase, bits [63:32] (CTL). -/
abbrev Fld.crestPpsoCfgPhase : Fld := ⟨.crestPpsoCfg, 63, 32⟩
/-- CREST_PPSO_CFG.width, bits [23:4] (CTL). -/
abbrev Fld.crestPpsoCfgWidth : Fld := ⟨.crestPpsoCfg, 23, 4⟩
/-- CREST_PPSO_CFG.free_run, bits [1:1] (CTL). -/
abbrev Fld.crestPpsoCfgFreeRun : Fld := ⟨.crestPpsoCfg, 1, 1⟩
/-- CREST_PPSO_CFG.en, bits [0:0] (CTL). -/
abbrev Fld.crestPpsoCfgEn : Fld := ⟨.crestPpsoCfg, 0, 0⟩
/-- CREST_TTO_CFG.idle, bits [1:1] (CTL). -/
abbrev Fld.crestTtoCfgIdle : Fld := ⟨.crestTtoCfg, 1, 1⟩
/-- CREST_TTO_CFG.en, bits [0:0] (CTL). -/
abbrev Fld.crestTtoCfgEn : Fld := ⟨.crestTtoCfg, 0, 0⟩
/-- CREST_CAP_CFG.delay, bits [31:8] (CTL). -/
abbrev Fld.crestCapCfgDelay : Fld := ⟨.crestCapCfg, 31, 8⟩
/-- CREST_CAP_CFG.edge, bits [2:1] (CTL). -/
abbrev Fld.crestCapCfgEdge : Fld := ⟨.crestCapCfg, 2, 1⟩
/-- CREST_CAP_CFG.en, bits [0:0] (CTL). -/
abbrev Fld.crestCapCfgEn : Fld := ⟨.crestCapCfg, 0, 0⟩
/-- CREST_CAP_DATA.lt, bits [63:0] (STA). -/
abbrev Fld.crestCapDataLt : Fld := ⟨.crestCapData, 63, 0⟩
/-- CREST_CAP_STA.fill, bits [4:0] (STA). -/
abbrev Fld.crestCapStaFill : Fld := ⟨.crestCapSta, 4, 0⟩
/-- CREST_CAP_OVF.ovf, bits [63:0] (CNT). -/
abbrev Fld.crestCapOvfOvf : Fld := ⟨.crestCapOvf, 63, 0⟩
/-- CREST_CMP_ARM.target, bits [63:0] (CMD). -/
abbrev Fld.crestCmpArmTarget : Fld := ⟨.crestCmpArm, 63, 0⟩
/-- CREST_CMP_CFG.vec, bits [27:16] (CTL). -/
abbrev Fld.crestCmpCfgVec : Fld := ⟨.crestCmpCfg, 27, 16⟩
/-- CREST_CMP_CFG.tto, bits [5:4] (CTL). -/
abbrev Fld.crestCmpCfgTto : Fld := ⟨.crestCmpCfg, 5, 4⟩
/-- CREST_CMP_CFG.action, bits [3:0] (CTL). -/
abbrev Fld.crestCmpCfgAction : Fld := ⟨.crestCmpCfg, 3, 0⟩
/-- CREST_CMP_REF.ref, bits [63:0] (CTL). -/
abbrev Fld.crestCmpRefRef : Fld := ⟨.crestCmpRef, 63, 0⟩
/-- CREST_CMP_PER.period, bits [63:0] (CTL). -/
abbrev Fld.crestCmpPerPeriod : Fld := ⟨.crestCmpPer, 63, 0⟩
/-- CREST_CMP_STA.stale, bits [2:2] (STA). -/
abbrev Fld.crestCmpStaStale : Fld := ⟨.crestCmpSta, 2, 2⟩
/-- CREST_CMP_STA.refused, bits [1:1] (STA). -/
abbrev Fld.crestCmpStaRefused : Fld := ⟨.crestCmpSta, 1, 1⟩
/-- CREST_CMP_STA.armed, bits [0:0] (STA). -/
abbrev Fld.crestCmpStaArmed : Fld := ⟨.crestCmpSta, 0, 0⟩
/-- CREST_CMP_FIRE.fires, bits [63:0] (CNT). -/
abbrev Fld.crestCmpFireFires : Fld := ⟨.crestCmpFire, 63, 0⟩
/-- CREST_CMP_DIS.disarm, bits [0:0] (CMD). -/
abbrev Fld.crestCmpDisDisarm : Fld := ⟨.crestCmpDis, 0, 0⟩
/-- PORT_CTL.en, bits [0:0] (CTL). -/
abbrev Fld.portCtlEn : Fld := ⟨.portCtl, 0, 0⟩
/-- PORT_CFG.mode, bits [11:8] (TMR). -/
abbrev Fld.portCfgMode : Fld := ⟨.portCfg, 11, 8⟩
/-- PORT_CFG.fec, bits [7:6] (TMR). -/
abbrev Fld.portCfgFec : Fld := ⟨.portCfg, 7, 6⟩
/-- PORT_CFG.an, bits [5:5] (CTL). -/
abbrev Fld.portCfgAn : Fld := ⟨.portCfg, 5, 5⟩
/-- PORT_MAC_CFG.pfc_rx, bits [17:17] (CTL). -/
abbrev Fld.portMacCfgPfcRx : Fld := ⟨.portMacCfg, 17, 17⟩
/-- PORT_MAC_CFG.max_frame, bits [13:0] (CTL). -/
abbrev Fld.portMacCfgMaxFrame : Fld := ⟨.portMacCfg, 13, 0⟩
/-- PORT_PTP_CFG.ptp_ofs, bits [63:32] (CTL). -/
abbrev Fld.portPtpCfgPtpOfs : Fld := ⟨.portPtpCfg, 63, 32⟩
/-- PORT_PTP_CFG.onestep, bits [1:1] (CTL). -/
abbrev Fld.portPtpCfgOnestep : Fld := ⟨.portPtpCfg, 1, 1⟩
/-- PORT_PTP_CFG.ptp_en, bits [0:0] (CTL). -/
abbrev Fld.portPtpCfgPtpEn : Fld := ⟨.portPtpCfg, 0, 0⟩
/-- PORT_STA.inc, bits [63:48] (STA). -/
abbrev Fld.portStaInc : Fld := ⟨.portSta, 63, 48⟩
/-- PORT_STA.contracts, bits [47:32] (STA). -/
abbrev Fld.portStaContracts : Fld := ⟨.portSta, 47, 32⟩
/-- PORT_STA.ign, bits [7:7] (STA). -/
abbrev Fld.portStaIgn : Fld := ⟨.portSta, 7, 7⟩
/-- PORT_STA.gated, bits [6:6] (STA). -/
abbrev Fld.portStaGated : Fld := ⟨.portSta, 6, 6⟩
/-- PORT_STA.txdis, bits [5:5] (STA). -/
abbrev Fld.portStaTxdis : Fld := ⟨.portSta, 5, 5⟩
/-- PORT_STA.skew_fail, bits [4:4] (STA). -/
abbrev Fld.portStaSkewFail : Fld := ⟨.portSta, 4, 4⟩
/-- PORT_STA.remote_fault, bits [3:3] (STA). -/
abbrev Fld.portStaRemoteFault : Fld := ⟨.portSta, 3, 3⟩
/-- PORT_STA.local_fault, bits [2:2] (STA). -/
abbrev Fld.portStaLocalFault : Fld := ⟨.portSta, 2, 2⟩
/-- PORT_STA.align, bits [1:1] (STA). -/
abbrev Fld.portStaAlign : Fld := ⟨.portSta, 1, 1⟩
/-- PORT_STA.link, bits [0:0] (STA). -/
abbrev Fld.portStaLink : Fld := ⟨.portSta, 0, 0⟩
/-- PORT_IGN_CNT.ignored, bits [63:0] (CNT). -/
abbrev Fld.portIgnCntIgnored : Fld := ⟨.portIgnCnt, 63, 0⟩
/-- PORT_RX_FRAMES.frames, bits [63:0] (CNT). -/
abbrev Fld.portRxFramesFrames : Fld := ⟨.portRxFrames, 63, 0⟩
/-- PORT_RX_BAD.frames, bits [63:0] (CNT). -/
abbrev Fld.portRxBadFrames : Fld := ⟨.portRxBad, 63, 0⟩
/-- PORT_RX_OVERSIZE.frames, bits [63:0] (CNT). -/
abbrev Fld.portRxOversizeFrames : Fld := ⟨.portRxOversize, 63, 0⟩
/-- PORT_RX_PAUSE.frames, bits [63:0] (CNT). -/
abbrev Fld.portRxPauseFrames : Fld := ⟨.portRxPause, 63, 0⟩
/-- PORT_TX_FRAMES.frames, bits [63:0] (CNT). -/
abbrev Fld.portTxFramesFrames : Fld := ⟨.portTxFrames, 63, 0⟩
/-- PORT_TX_STOMP.frames, bits [63:0] (CNT). -/
abbrev Fld.portTxStompFrames : Fld := ⟨.portTxStomp, 63, 0⟩
/-- PORT_FEC_CORR.codewords, bits [63:0] (CNT). -/
abbrev Fld.portFecCorrCodewords : Fld := ⟨.portFecCorr, 63, 0⟩
/-- PORT_FEC_UNCORR.codewords, bits [63:0] (CNT). -/
abbrev Fld.portFecUncorrCodewords : Fld := ⟨.portFecUncorr, 63, 0⟩
/-- PORT_CAL_RX.in_force, bits [63:32] (STA). -/
abbrev Fld.portCalRxInForce : Fld := ⟨.portCalRx, 63, 32⟩
/-- PORT_CAL_RX.fused, bits [31:0] (RO). -/
abbrev Fld.portCalRxFused : Fld := ⟨.portCalRx, 31, 0⟩
/-- PORT_CAL_TX.in_force, bits [63:32] (STA). -/
abbrev Fld.portCalTxInForce : Fld := ⟨.portCalTx, 63, 32⟩
/-- PORT_CAL_TX.fused, bits [31:0] (RO). -/
abbrev Fld.portCalTxFused : Fld := ⟨.portCalTx, 31, 0⟩
/-- PORT_CAL_STA.last_epoch, bits [63:32] (STA). -/
abbrev Fld.portCalStaLastEpoch : Fld := ⟨.portCalSta, 63, 32⟩
/-- PORT_CAL_STA.stale, bits [0:0] (STA). -/
abbrev Fld.portCalStaStale : Fld := ⟨.portCalSta, 0, 0⟩
/-- PORT_OCT_CFG.mod_tx_en, bits [0:0] (CTL). -/
abbrev Fld.portOctCfgModTxEn : Fld := ⟨.portOctCfg, 0, 0⟩
/-- PORT_TSQ_META.sw_id, bits [63:48] (STA). -/
abbrev Fld.portTsqMetaSwId : Fld := ⟨.portTsqMeta, 63, 48⟩
/-- PORT_TSQ_META.port_inc, bits [47:32] (STA). -/
abbrev Fld.portTsqMetaPortInc : Fld := ⟨.portTsqMeta, 47, 32⟩
/-- PORT_TSQ_META.port, bits [31:24] (STA). -/
abbrev Fld.portTsqMetaPort : Fld := ⟨.portTsqMeta, 31, 24⟩
/-- PORT_TSQ_META.valid, bits [7:7] (STA). -/
abbrev Fld.portTsqMetaValid : Fld := ⟨.portTsqMeta, 7, 7⟩
/-- PORT_TSQ_META.fill, bits [6:0] (STA). -/
abbrev Fld.portTsqMetaFill : Fld := ⟨.portTsqMeta, 6, 0⟩
/-- PORT_TSQ_LT.lt, bits [63:0] (STA). -/
abbrev Fld.portTsqLtLt : Fld := ⟨.portTsqLt, 63, 0⟩
/-- PORT_TSQ_OVF.lost, bits [63:0] (CNT). -/
abbrev Fld.portTsqOvfLost : Fld := ⟨.portTsqOvf, 63, 0⟩
/-- ING_IGN_CNT.ignored, bits [63:0] (CNT). -/
abbrev Fld.ingIgnCntIgnored : Fld := ⟨.ingIgnCnt, 63, 0⟩
/-- ING_EXC_CFG.en, bits [31:31] (CTL). -/
abbrev Fld.ingExcCfgEn : Fld := ⟨.ingExcCfg, 31, 31⟩
/-- ING_EXC_CFG.ring, bits [13:0] (CTL). -/
abbrev Fld.ingExcCfgRing : Fld := ⟨.ingExcCfg, 13, 0⟩
/-- ING_PROF_CFG.depth, bits [8:0] (TMR). -/
abbrev Fld.ingProfCfgDepth : Fld := ⟨.ingProfCfg, 8, 0⟩
/-- ING_PROF_FLD.anchor, bits [26:24] (TMR). -/
abbrev Fld.ingProfFldAnchor : Fld := ⟨.ingProfFld, 26, 24⟩
/-- ING_PROF_FLD.offset, bits [23:16] (TMR). -/
abbrev Fld.ingProfFldOffset : Fld := ⟨.ingProfFld, 23, 16⟩
/-- ING_PROF_FLD.len, bits [12:8] (TMR). -/
abbrev Fld.ingProfFldLen : Fld := ⟨.ingProfFld, 12, 8⟩
/-- ING_PORT_CFG.learn_tbl, bits [31:24] (CTL). -/
abbrev Fld.ingPortCfgLearnTbl : Fld := ⟨.ingPortCfg, 31, 24⟩
/-- ING_PORT_CFG.learn_en, bits [23:23] (CTL). -/
abbrev Fld.ingPortCfgLearnEn : Fld := ⟨.ingPortCfg, 23, 23⟩
/-- ING_PORT_CFG.def_vlan, bits [19:8] (CTL). -/
abbrev Fld.ingPortCfgDefVlan : Fld := ⟨.ingPortCfg, 19, 8⟩
/-- ING_PORT_CFG.nomatch, bits [5:4] (CTL). -/
abbrev Fld.ingPortCfgNomatch : Fld := ⟨.ingPortCfg, 5, 4⟩
/-- ING_PORT_CFG.prof, bits [3:0] (CTL). -/
abbrev Fld.ingPortCfgProf : Fld := ⟨.ingPortCfg, 3, 0⟩
/-- ING_PORT_NOMATCH.frames, bits [63:0] (CNT). -/
abbrev Fld.ingPortNomatchFrames : Fld := ⟨.ingPortNomatch, 63, 0⟩
/-- ING_TBL_CTL.en, bits [0:0] (CTL). -/
abbrev Fld.ingTblCtlEn : Fld := ⟨.ingTblCtl, 0, 0⟩
/-- ING_TBL_CFG.max_age, bits [63:48] (TMR). -/
abbrev Fld.ingTblCfgMaxAge : Fld := ⟨.ingTblCfg, 63, 48⟩
/-- ING_TBL_CFG.ext_cap, bits [36:26] (TMR). -/
abbrev Fld.ingTblCfgExtCap : Fld := ⟨.ingTblCfg, 36, 26⟩
/-- ING_TBL_CFG.cap, bits [25:14] (TMR). -/
abbrev Fld.ingTblCfgCap : Fld := ⟨.ingTblCfg, 25, 14⟩
/-- ING_TBL_CFG.refresh, bits [10:10] (TMR). -/
abbrev Fld.ingTblCfgRefresh : Fld := ⟨.ingTblCfg, 10, 10⟩
/-- ING_TBL_CFG.evict, bits [9:9] (TMR). -/
abbrev Fld.ingTblCfgEvict : Fld := ⟨.ingTblCfg, 9, 9⟩
/-- ING_TBL_CFG.kw, bits [8:8] (TMR). -/
abbrev Fld.ingTblCfgKw : Fld := ⟨.ingTblCfg, 8, 8⟩
/-- ING_TBL_CFG.kind, bits [3:0] (TMR). -/
abbrev Fld.ingTblCfgKind : Fld := ⟨.ingTblCfg, 3, 0⟩
/-- ING_TBL_STA.inc, bits [63:48] (STA). -/
abbrev Fld.ingTblStaInc : Fld := ⟨.ingTblSta, 63, 48⟩
/-- ING_TBL_STA.owner, bits [47:40] (STA). -/
abbrev Fld.ingTblStaOwner : Fld := ⟨.ingTblSta, 47, 40⟩
/-- ING_TBL_STA.ign, bits [32:32] (STA). -/
abbrev Fld.ingTblStaIgn : Fld := ⟨.ingTblSta, 32, 32⟩
/-- ING_TBL_STA.entries, bits [31:0] (STA). -/
abbrev Fld.ingTblStaEntries : Fld := ⟨.ingTblSta, 31, 0⟩
/-- ING_TBL_EVICT.evicted, bits [63:0] (CNT). -/
abbrev Fld.ingTblEvictEvicted : Fld := ⟨.ingTblEvict, 63, 0⟩
/-- ING_TBL_PAR.mismatches, bits [63:0] (CNT). -/
abbrev Fld.ingTblParMismatches : Fld := ⟨.ingTblPar, 63, 0⟩
/-- ING_TBL_LEARN.learns, bits [63:0] (CNT). -/
abbrev Fld.ingTblLearnLearns : Fld := ⟨.ingTblLearn, 63, 0⟩
/-- ING_TBL_LEARN_DROP.dropped, bits [63:0] (CNT). -/
abbrev Fld.ingTblLearnDropDropped : Fld := ⟨.ingTblLearnDrop, 63, 0⟩
/-- ING_TBL_AGED.aged, bits [63:0] (CNT). -/
abbrev Fld.ingTblAgedAged : Fld := ⟨.ingTblAged, 63, 0⟩
/-- ING_TBL_STALE.stale, bits [63:0] (CNT). -/
abbrev Fld.ingTblStaleStale : Fld := ⟨.ingTblStale, 63, 0⟩
/-- ING_CON_STA.inc, bits [63:48] (STA). -/
abbrev Fld.ingConStaInc : Fld := ⟨.ingConSta, 63, 48⟩
/-- ING_CON_STA.state, bits [1:0] (STA). -/
abbrev Fld.ingConStaState : Fld := ⟨.ingConSta, 1, 0⟩
/-- ING_CON_TOK.tp, bits [63:32] (STA). -/
abbrev Fld.ingConTokTp : Fld := ⟨.ingConTok, 63, 32⟩
/-- ING_CON_TOK.tc, bits [31:0] (STA). -/
abbrev Fld.ingConTokTc : Fld := ⟨.ingConTok, 31, 0⟩
/-- ING_CON_GREEN.frames, bits [63:0] (CNT). -/
abbrev Fld.ingConGreenFrames : Fld := ⟨.ingConGreen, 63, 0⟩
/-- ING_CON_YELLOW.frames, bits [63:0] (CNT). -/
abbrev Fld.ingConYellowFrames : Fld := ⟨.ingConYellow, 63, 0⟩
/-- ING_CON_RED.frames, bits [63:0] (CNT). -/
abbrev Fld.ingConRedFrames : Fld := ⟨.ingConRed, 63, 0⟩
/-- ING_CON_OVERLEN.frames, bits [63:0] (CNT). -/
abbrev Fld.ingConOverlenFrames : Fld := ⟨.ingConOverlen, 63, 0⟩
/-- SPUR_ACT_AT.at, bits [63:0] (STA). -/
abbrev Fld.spurActAtAt : Fld := ⟨.spurActAt, 63, 0⟩
/-- SPUR_ACT_STA.acts, bits [63:32] (CNT). -/
abbrev Fld.spurActStaActs : Fld := ⟨.spurActSta, 63, 32⟩
/-- SPUR_ACT_STA.old_live, bits [17:17] (STA). -/
abbrev Fld.spurActStaOldLive : Fld := ⟨.spurActSta, 17, 17⟩
/-- SPUR_ACT_STA.pending, bits [16:16] (STA). -/
abbrev Fld.spurActStaPending : Fld := ⟨.spurActSta, 16, 16⟩
/-- SPUR_ACT_STA.next_epoch, bits [15:8] (STA). -/
abbrev Fld.spurActStaNextEpoch : Fld := ⟨.spurActSta, 15, 8⟩
/-- SPUR_ACT_STA.epoch, bits [7:0] (STA). -/
abbrev Fld.spurActStaEpoch : Fld := ⟨.spurActSta, 7, 0⟩
/-- SPUR_RIDGE_STA.inc, bits [63:48] (STA). -/
abbrev Fld.spurRidgeStaInc : Fld := ⟨.spurRidgeSta, 63, 48⟩
/-- SPUR_RIDGE_STA.spare_avail, bits [16:16] (STA). -/
abbrev Fld.spurRidgeStaSpareAvail : Fld := ⟨.spurRidgeSta, 16, 16⟩
/-- SPUR_RIDGE_STA.wait_cycle, bits [15:0] (STA). -/
abbrev Fld.spurRidgeStaWaitCycle : Fld := ⟨.spurRidgeSta, 15, 0⟩
/-- SPUR_RIDGE_SPARE_CNT.spares, bits [63:0] (CNT). -/
abbrev Fld.spurRidgeSpareCntSpares : Fld := ⟨.spurRidgeSpareCnt, 63, 0⟩
/-- SPUR_CC_STA.inc, bits [63:48] (STA). -/
abbrev Fld.spurCcStaInc : Fld := ⟨.spurCcSta, 63, 48⟩
/-- SPUR_CC_STA.ridges, bits [15:0] (STA). -/
abbrev Fld.spurCcStaRidges : Fld := ⟨.spurCcSta, 15, 0⟩
/-- SPUR_CORE_CTL.en, bits [0:0] (CTL). -/
abbrev Fld.spurCoreCtlEn : Fld := ⟨.spurCoreCtl, 0, 0⟩
/-- SPUR_CORE_STA.inc, bits [63:48] (STA). -/
abbrev Fld.spurCoreStaInc : Fld := ⟨.spurCoreSta, 63, 48⟩
/-- SPUR_CORE_STA.parked, bits [47:32] (STA). -/
abbrev Fld.spurCoreStaParked : Fld := ⟨.spurCoreSta, 47, 32⟩
/-- SPUR_CORE_STA.halted, bits [31:16] (STA). -/
abbrev Fld.spurCoreStaHalted : Fld := ⟨.spurCoreSta, 31, 16⟩
/-- SPUR_CORE_STA.ign, bits [7:7] (STA). -/
abbrev Fld.spurCoreStaIgn : Fld := ⟨.spurCoreSta, 7, 7⟩
/-- SPUR_CORE_STA.slot_refused, bits [6:6] (STA). -/
abbrev Fld.spurCoreStaSlotRefused : Fld := ⟨.spurCoreSta, 6, 6⟩
/-- SPUR_CORE_STA.slot_pending, bits [5:5] (STA). -/
abbrev Fld.spurCoreStaSlotPending : Fld := ⟨.spurCoreSta, 5, 5⟩
/-- SPUR_CORE_STA.slot_bank, bits [4:4] (STA). -/
abbrev Fld.spurCoreStaSlotBank : Fld := ⟨.spurCoreSta, 4, 4⟩
/-- SPUR_CORE_STA.wait_cycle, bits [3:3] (STA). -/
abbrev Fld.spurCoreStaWaitCycle : Fld := ⟨.spurCoreSta, 3, 3⟩
/-- SPUR_CORE_STA.state, bits [2:0] (STA). -/
abbrev Fld.spurCoreStaState : Fld := ⟨.spurCoreSta, 2, 0⟩
/-- SPUR_CORE_IGN.ignored, bits [63:0] (CNT). -/
abbrev Fld.spurCoreIgnIgnored : Fld := ⟨.spurCoreIgn, 63, 0⟩
/-- SPUR_CORE_SEVREF.refused, bits [63:0] (CNT). -/
abbrev Fld.spurCoreSevrefRefused : Fld := ⟨.spurCoreSevref, 63, 0⟩
/-- SPUR_CORE_REL.thread, bits [7:4] (CMD). -/
abbrev Fld.spurCoreRelThread : Fld := ⟨.spurCoreRel, 7, 4⟩
/-- SPUR_CORE_REL.line, bits [2:0] (CMD). -/
abbrev Fld.spurCoreRelLine : Fld := ⟨.spurCoreRel, 2, 0⟩
/-- SPUR_CORE_DB.thread, bits [7:4] (CMD). -/
abbrev Fld.spurCoreDbThread : Fld := ⟨.spurCoreDb, 7, 4⟩
/-- SPUR_CORE_DB.db, bits [1:0] (CMD). -/
abbrev Fld.spurCoreDbDb : Fld := ⟨.spurCoreDb, 1, 0⟩
/-- SPUR_SLOT_AT.target, bits [63:0] (CMD). -/
abbrev Fld.spurSlotAtTarget : Fld := ⟨.spurSlotAt, 63, 0⟩
/-- SPUR_THR_RST.threads, bits [15:0] (CMD). -/
abbrev Fld.spurThrRstThreads : Fld := ⟨.spurThrRst, 15, 0⟩
/-- SPUR_THR_STA.group, bits [63:52] (STA). -/
abbrev Fld.spurThrStaGroup : Fld := ⟨.spurThrSta, 63, 52⟩
/-- SPUR_THR_STA.bank, bits [48:48] (STA). -/
abbrev Fld.spurThrStaBank : Fld := ⟨.spurThrSta, 48, 48⟩
/-- SPUR_THR_STA.epoch, bits [47:40] (STA). -/
abbrev Fld.spurThrStaEpoch : Fld := ⟨.spurThrSta, 47, 40⟩
/-- SPUR_THR_STA.frame, bits [32:32] (STA). -/
abbrev Fld.spurThrStaFrame : Fld := ⟨.spurThrSta, 32, 32⟩
/-- SPUR_THR_STA.state, bits [2:0] (STA). -/
abbrev Fld.spurThrStaState : Fld := ⟨.spurThrSta, 2, 0⟩
/-- SPUR_THR_EVT.mask, bits [63:32] (STA). -/
abbrev Fld.spurThrEvtMask : Fld := ⟨.spurThrEvt, 63, 32⟩
/-- SPUR_THR_EVT.pending, bits [31:0] (STA). -/
abbrev Fld.spurThrEvtPending : Fld := ⟨.spurThrEvt, 31, 0⟩
/-- SPUR_GRP_CFG.cores, bits [63:48] (STA). -/
abbrev Fld.spurGrpCfgCores : Fld := ⟨.spurGrpCfg, 63, 48⟩
/-- SPUR_GRP_CFG.threads, bits [47:32] (STA). -/
abbrev Fld.spurGrpCfgThreads : Fld := ⟨.spurGrpCfg, 47, 32⟩
/-- SPUR_GRP_CFG.en, bits [0:0] (STA). -/
abbrev Fld.spurGrpCfgEn : Fld := ⟨.spurGrpCfg, 0, 0⟩
/-- SPUR_GRP_STA.inc, bits [63:48] (STA). -/
abbrev Fld.spurGrpStaInc : Fld := ⟨.spurGrpSta, 63, 48⟩
/-- SPUR_GRP_STA.contracts, bits [47:32] (STA). -/
abbrev Fld.spurGrpStaContracts : Fld := ⟨.spurGrpSta, 47, 32⟩
/-- SPUR_GRP_STA.owner, bits [31:24] (STA). -/
abbrev Fld.spurGrpStaOwner : Fld := ⟨.spurGrpSta, 31, 24⟩
/-- SPUR_GRP_STA.dq_fill, bits [23:19] (STA). -/
abbrev Fld.spurGrpStaDqFill : Fld := ⟨.spurGrpSta, 23, 19⟩
/-- SPUR_GRP_STA.idle, bits [18:10] (STA). -/
abbrev Fld.spurGrpStaIdle : Fld := ⟨.spurGrpSta, 18, 10⟩
/-- SPUR_GRP_STA.old_live, bits [9:9] (STA). -/
abbrev Fld.spurGrpStaOldLive : Fld := ⟨.spurGrpSta, 9, 9⟩
/-- SPUR_GRP_STA.active_bank, bits [8:8] (STA). -/
abbrev Fld.spurGrpStaActiveBank : Fld := ⟨.spurGrpSta, 8, 8⟩
/-- SPUR_GRP_IMG.epoch, bits [63:56] (STA). -/
abbrev Fld.spurGrpImgEpoch : Fld := ⟨.spurGrpImg, 63, 56⟩
/-- SPUR_GRP_IMG.budget, bits [55:40] (STA). -/
abbrev Fld.spurGrpImgBudget : Fld := ⟨.spurGrpImg, 55, 40⟩
/-- SPUR_GRP_IMG.addr, bits [19:0] (STA). -/
abbrev Fld.spurGrpImgAddr : Fld := ⟨.spurGrpImg, 19, 0⟩
/-- SPUR_GRP_FRAMES.frames, bits [63:0] (CNT). -/
abbrev Fld.spurGrpFramesFrames : Fld := ⟨.spurGrpFrames, 63, 0⟩
/-- SPUR_GRP_BUDGET.overruns, bits [63:0] (CNT). -/
abbrev Fld.spurGrpBudgetOverruns : Fld := ⟨.spurGrpBudget, 63, 0⟩
/-- SPUR_GRP_DQWAIT.waits, bits [63:0] (CNT). -/
abbrev Fld.spurGrpDqwaitWaits : Fld := ⟨.spurGrpDqwait, 63, 0⟩
/-- SPUR_GRP_DQDROP.drops, bits [63:0] (CNT). -/
abbrev Fld.spurGrpDqdropDrops : Fld := ⟨.spurGrpDqdrop, 63, 0⟩
/-- SPUR_CH_CFG.base, bits [47:32] (STA). -/
abbrev Fld.spurChCfgBase : Fld := ⟨.spurChCfg, 47, 32⟩
/-- SPUR_CH_CFG.depth, bits [31:24] (STA). -/
abbrev Fld.spurChCfgDepth : Fld := ⟨.spurChCfg, 31, 24⟩
/-- SPUR_CH_CFG.writer, bits [23:16] (STA). -/
abbrev Fld.spurChCfgWriter : Fld := ⟨.spurChCfg, 23, 16⟩
/-- SPUR_CH_CFG.reader, bits [15:8] (STA). -/
abbrev Fld.spurChCfgReader : Fld := ⟨.spurChCfg, 15, 8⟩
/-- SPUR_CH_CFG.writer_cc, bits [7:7] (STA). -/
abbrev Fld.spurChCfgWriterCc : Fld := ⟨.spurChCfg, 7, 7⟩
/-- SPUR_CH_CFG.writer_bg, bits [6:6] (STA). -/
abbrev Fld.spurChCfgWriterBg : Fld := ⟨.spurChCfg, 6, 6⟩
/-- SPUR_CH_CFG.reader_cc, bits [5:5] (STA). -/
abbrev Fld.spurChCfgReaderCc : Fld := ⟨.spurChCfg, 5, 5⟩
/-- SPUR_CH_CFG.reader_bg, bits [4:4] (STA). -/
abbrev Fld.spurChCfgReaderBg : Fld := ⟨.spurChCfg, 4, 4⟩
/-- SPUR_CH_STA.full, bits [63:32] (CNT). -/
abbrev Fld.spurChStaFull : Fld := ⟨.spurChSta, 63, 32⟩
/-- SPUR_CH_STA.fill, bits [6:0] (STA). -/
abbrev Fld.spurChStaFill : Fld := ⟨.spurChSta, 6, 0⟩
/-- SPUR_CORE_FAULT.cause, bits [63:56] (STA). -/
abbrev Fld.spurCoreFaultCause : Fld := ⟨.spurCoreFault, 63, 56⟩
/-- SPUR_CORE_FAULT.index, bits [55:32] (STA). -/
abbrev Fld.spurCoreFaultIndex : Fld := ⟨.spurCoreFault, 55, 32⟩
/-- SPUR_CORE_FAULT.epoch, bits [31:24] (STA). -/
abbrev Fld.spurCoreFaultEpoch : Fld := ⟨.spurCoreFault, 31, 24⟩
/-- SPUR_CORE_FAULT.bg, bits [5:5] (STA). -/
abbrev Fld.spurCoreFaultBg : Fld := ⟨.spurCoreFault, 5, 5⟩
/-- SPUR_CORE_FAULT.thread, bits [3:0] (STA). -/
abbrev Fld.spurCoreFaultThread : Fld := ⟨.spurCoreFault, 3, 0⟩
/-- SPUR_CORE_FAULT_CNT.faults, bits [63:0] (CNT). -/
abbrev Fld.spurCoreFaultCntFaults : Fld := ⟨.spurCoreFaultCnt, 63, 0⟩
/-- SPUR_GRP_PROGDROP.frames, bits [63:0] (CNT). -/
abbrev Fld.spurGrpProgdropFrames : Fld := ⟨.spurGrpProgdrop, 63, 0⟩
/-- ING_ADM_STA.busy, bits [17:17] (STA). -/
abbrev Fld.ingAdmStaBusy : Fld := ⟨.ingAdmSta, 17, 17⟩
/-- ING_ADM_STA.contracts, bits [16:0] (STA). -/
abbrev Fld.ingAdmStaContracts : Fld := ⟨.ingAdmSta, 16, 0⟩
/-- ING_ADM_REQ.answered, bits [63:0] (CNT). -/
abbrev Fld.ingAdmReqAnswered : Fld := ⟨.ingAdmReq, 63, 0⟩
/-- ING_ADM_REFUSED.refused, bits [63:0] (CNT). -/
abbrev Fld.ingAdmRefusedRefused : Fld := ⟨.ingAdmRefused, 63, 0⟩
/-- ING_ADM_DIGEST_AT.at, bits [63:0] (STA). -/
abbrev Fld.ingAdmDigestAtAt : Fld := ⟨.ingAdmDigestAt, 63, 0⟩
/-- ING_ADM_DIGEST.digest, bits [63:0] (STA). -/
abbrev Fld.ingAdmDigestDigest : Fld := ⟨.ingAdmDigest, 63, 0⟩
/-- ING_CON_BOUND.peak, bits [63:32] (STA). -/
abbrev Fld.ingConBoundPeak : Fld := ⟨.ingConBound, 63, 32⟩
/-- ING_CON_BOUND.committed, bits [31:0] (STA). -/
abbrev Fld.ingConBoundCommitted : Fld := ⟨.ingConBound, 31, 0⟩
/-- ING_CON_LATE.frames, bits [63:0] (CNT). -/
abbrev Fld.ingConLateFrames : Fld := ⟨.ingConLate, 63, 0⟩
/-- TM_BUF_STA.contract, bits [63:32] (STA). -/
abbrev Fld.tmBufStaContract : Fld := ⟨.tmBufSta, 63, 32⟩
/-- TM_BUF_STA.other, bits [31:0] (STA). -/
abbrev Fld.tmBufStaOther : Fld := ⟨.tmBufSta, 31, 0⟩
/-- TM_BUF_FAULT.frames, bits [63:0] (CNT). -/
abbrev Fld.tmBufFaultFrames : Fld := ⟨.tmBufFault, 63, 0⟩
/-- TM_SWAP_AT.target, bits [63:0] (CMD). -/
abbrev Fld.tmSwapAtTarget : Fld := ⟨.tmSwapAt, 63, 0⟩
/-- TM_PORT_STA.queued, bits [63:32] (STA). -/
abbrev Fld.tmPortStaQueued : Fld := ⟨.tmPortSta, 63, 32⟩
/-- TM_PORT_STA.ign, bits [7:7] (STA). -/
abbrev Fld.tmPortStaIgn : Fld := ⟨.tmPortSta, 7, 7⟩
/-- TM_PORT_STA.swap_refused, bits [6:6] (STA). -/
abbrev Fld.tmPortStaSwapRefused : Fld := ⟨.tmPortSta, 6, 6⟩
/-- TM_PORT_STA.swap_pending, bits [5:5] (STA). -/
abbrev Fld.tmPortStaSwapPending : Fld := ⟨.tmPortSta, 5, 5⟩
/-- TM_PORT_STA.bank, bits [4:4] (STA). -/
abbrev Fld.tmPortStaBank : Fld := ⟨.tmPortSta, 4, 4⟩
/-- TM_PORT_STA.checked, bits [3:3] (STA). -/
abbrev Fld.tmPortStaChecked : Fld := ⟨.tmPortSta, 3, 3⟩
/-- TM_PORT_IGN.ignored, bits [63:0] (CNT). -/
abbrev Fld.tmPortIgnIgnored : Fld := ⟨.tmPortIgn, 63, 0⟩
/-- TM_PORT_DQLATE.frames, bits [63:0] (CNT). -/
abbrev Fld.tmPortDqlateFrames : Fld := ⟨.tmPortDqlate, 63, 0⟩
/-- TM_PORT_DISC.frames, bits [63:0] (CNT). -/
abbrev Fld.tmPortDiscFrames : Fld := ⟨.tmPortDisc, 63, 0⟩
/-- TM_PORT_MCDIS.copies, bits [63:0] (CNT). -/
abbrev Fld.tmPortMcdisCopies : Fld := ⟨.tmPortMcdis, 63, 0⟩
/-- TM_PSHP_RATE.pir, bits [63:32] (TMR). -/
abbrev Fld.tmPshpRatePir : Fld := ⟨.tmPshpRate, 63, 32⟩
/-- TM_PSHP_RATE.cir, bits [31:0] (TMR). -/
abbrev Fld.tmPshpRateCir : Fld := ⟨.tmPshpRate, 31, 0⟩
/-- TM_PSHP_BURST.en, bits [63:63] (TMR). -/
abbrev Fld.tmPshpBurstEn : Fld := ⟨.tmPshpBurst, 63, 63⟩
/-- TM_PSHP_BURST.pbs, bits [55:32] (TMR). -/
abbrev Fld.tmPshpBurstPbs : Fld := ⟨.tmPshpBurst, 55, 32⟩
/-- TM_PSHP_BURST.cbs, bits [23:0] (TMR). -/
abbrev Fld.tmPshpBurstCbs : Fld := ⟨.tmPshpBurst, 23, 0⟩
/-- TM_Q_CFG.launch_en, bits [16:16] (TMR). -/
abbrev Fld.tmQCfgLaunchEn : Fld := ⟨.tmQCfg, 16, 16⟩
/-- TM_Q_CFG.quantum, bits [15:0] (TMR). -/
abbrev Fld.tmQCfgQuantum : Fld := ⟨.tmQCfg, 15, 0⟩
/-- TM_Q_RATE.pir, bits [63:32] (TMR). -/
abbrev Fld.tmQRatePir : Fld := ⟨.tmQRate, 63, 32⟩
/-- TM_Q_RATE.cir, bits [31:0] (TMR). -/
abbrev Fld.tmQRateCir : Fld := ⟨.tmQRate, 31, 0⟩
/-- TM_Q_BURST.en, bits [63:63] (TMR). -/
abbrev Fld.tmQBurstEn : Fld := ⟨.tmQBurst, 63, 63⟩
/-- TM_Q_BURST.pbs, bits [55:32] (TMR). -/
abbrev Fld.tmQBurstPbs : Fld := ⟨.tmQBurst, 55, 32⟩
/-- TM_Q_BURST.cbs, bits [23:0] (TMR). -/
abbrev Fld.tmQBurstCbs : Fld := ⟨.tmQBurst, 23, 0⟩
/-- TM_Q_STA.inc, bits [63:48] (STA). -/
abbrev Fld.tmQStaInc : Fld := ⟨.tmQSta, 63, 48⟩
/-- TM_Q_STA.frames, bits [47:32] (STA). -/
abbrev Fld.tmQStaFrames : Fld := ⟨.tmQSta, 47, 32⟩
/-- TM_Q_STA.bytes, bits [31:0] (STA). -/
abbrev Fld.tmQStaBytes : Fld := ⟨.tmQSta, 31, 0⟩
/-- TM_Q_DLY.dly, bits [31:0] (STA). -/
abbrev Fld.tmQDlyDly : Fld := ⟨.tmQDly, 31, 0⟩
/-- TM_Q_NCCFG.pfc_en, bits [27:27] (CTL). -/
abbrev Fld.tmQNccfgPfcEn : Fld := ⟨.tmQNccfg, 27, 27⟩
/-- TM_Q_NCCFG.pfc_pri, bits [26:24] (CTL). -/
abbrev Fld.tmQNccfgPfcPri : Fld := ⟨.tmQNccfg, 26, 24⟩
/-- TM_Q_NCCFG.nc_cap, bits [23:0] (CTL). -/
abbrev Fld.tmQNccfgNcCap : Fld := ⟨.tmQNccfg, 23, 0⟩
/-- TM_Q_TX.frames, bits [63:0] (CNT). -/
abbrev Fld.tmQTxFrames : Fld := ⟨.tmQTx, 63, 0⟩
/-- TM_Q_DROP.frames, bits [63:0] (CNT). -/
abbrev Fld.tmQDropFrames : Fld := ⟨.tmQDrop, 63, 0⟩
/-- TM_Q_LAUNCH_CLAMP.frames, bits [63:0] (CNT). -/
abbrev Fld.tmQLaunchClampFrames : Fld := ⟨.tmQLaunchClamp, 63, 0⟩
/-- TM_Q_LAUNCH_IGN.frames, bits [63:0] (CNT). -/
abbrev Fld.tmQLaunchIgnFrames : Fld := ⟨.tmQLaunchIgn, 63, 0⟩
/-- COL_ARM.arm, bits [0:0] (CMD). -/
abbrev Fld.colArmArm : Fld := ⟨.colArm, 0, 0⟩
/-- COL_STA.inc, bits [63:48] (STA). -/
abbrev Fld.colStaInc : Fld := ⟨.colSta, 63, 48⟩
/-- COL_STA.entry, bits [25:16] (STA). -/
abbrev Fld.colStaEntry : Fld := ⟨.colSta, 25, 16⟩
/-- COL_STA.ign, bits [7:7] (STA). -/
abbrev Fld.colStaIgn : Fld := ⟨.colSta, 7, 7⟩
/-- COL_STA.stepped, bits [4:4] (STA). -/
abbrev Fld.colStaStepped : Fld := ⟨.colSta, 4, 4⟩
/-- COL_STA.refused, bits [3:3] (STA). -/
abbrev Fld.colStaRefused : Fld := ⟨.colSta, 3, 3⟩
/-- COL_STA.pending, bits [2:2] (STA). -/
abbrev Fld.colStaPending : Fld := ⟨.colSta, 2, 2⟩
/-- COL_STA.listed, bits [1:1] (STA). -/
abbrev Fld.colStaListed : Fld := ⟨.colSta, 1, 1⟩
/-- COL_STA.bank, bits [0:0] (STA). -/
abbrev Fld.colStaBank : Fld := ⟨.colSta, 0, 0⟩
/-- COL_SWITCH_LT.s, bits [63:0] (STA). -/
abbrev Fld.colSwitchLtS : Fld := ⟨.colSwitchLt, 63, 0⟩
/-- COL_CYCLES.cycles, bits [63:0] (CNT). -/
abbrev Fld.colCyclesCycles : Fld := ⟨.colCycles, 63, 0⟩
/-- COL_BANK_SEC.sec, bits [47:0] (TMR). -/
abbrev Fld.colBankSecSec : Fld := ⟨.colBankSec, 47, 0⟩
/-- COL_BANK_NS.ns, bits [31:0] (TMR). -/
abbrev Fld.colBankNsNs : Fld := ⟨.colBankNs, 31, 0⟩
/-- COL_BANK_CFG.guard_min, bits [47:32] (TMR). -/
abbrev Fld.colBankCfgGuardMin : Fld := ⟨.colBankCfg, 47, 32⟩
/-- COL_BANK_CFG.count, bits [10:0] (TMR). -/
abbrev Fld.colBankCfgCount : Fld := ⟨.colBankCfg, 10, 0⟩
/-- COL_ENT.gates, bits [47:32] (TMR). -/
abbrev Fld.colEntGates : Fld := ⟨.colEnt, 47, 32⟩
/-- COL_ENT.dur, bits [31:0] (TMR). -/
abbrev Fld.colEntDur : Fld := ⟨.colEnt, 31, 0⟩
/-- LED_RCPT_STA.session, bits [63:32] (STA). -/
abbrev Fld.ledRcptStaSession : Fld := ⟨.ledRcptSta, 63, 32⟩
/-- LED_RCPT_STA.sign_pending, bits [1:1] (STA). -/
abbrev Fld.ledRcptStaSignPending : Fld := ⟨.ledRcptSta, 1, 1⟩
/-- LED_RCPT_STA.started, bits [0:0] (STA). -/
abbrev Fld.ledRcptStaStarted : Fld := ⟨.ledRcptSta, 0, 0⟩
/-- LED_RCPT_SEQ.next, bits [63:0] (STA). -/
abbrev Fld.ledRcptSeqNext : Fld := ⟨.ledRcptSeq, 63, 0⟩
/-- LED_RCPT_LATE.late, bits [63:0] (CNT). -/
abbrev Fld.ledRcptLateLate : Fld := ⟨.ledRcptLate, 63, 0⟩
/-- LED_START_EPOCH.epoch, bits [63:0] (STA). -/
abbrev Fld.ledStartEpochEpoch : Fld := ⟨.ledStartEpoch, 63, 0⟩
/-- LED_PROOF_CNT.proofs, bits [63:0] (CNT). -/
abbrev Fld.ledProofCntProofs : Fld := ⟨.ledProofCnt, 63, 0⟩
/-- LED_LANE_SEQ.next, bits [63:0] (STA). -/
abbrev Fld.ledLaneSeqNext : Fld := ⟨.ledLaneSeq, 63, 0⟩
/-- LED_LANE_STA.inc, bits [63:48] (STA). -/
abbrev Fld.ledLaneStaInc : Fld := ⟨.ledLaneSta, 63, 48⟩
/-- LED_LANE_STA.staged, bits [44:32] (STA). -/
abbrev Fld.ledLaneStaStaged : Fld := ⟨.ledLaneSta, 44, 32⟩
/-- LED_LANE_STA.n_now, bits [31:0] (STA). -/
abbrev Fld.ledLaneStaNNow : Fld := ⟨.ledLaneSta, 31, 0⟩
/-- LED_LANE_LEAVES.leaves, bits [63:0] (CNT). -/
abbrev Fld.ledLaneLeavesLeaves : Fld := ⟨.ledLaneLeaves, 63, 0⟩
/-- LED_LANE_POLSUM.frames, bits [63:0] (CNT). -/
abbrev Fld.ledLanePolsumFrames : Fld := ⟨.ledLanePolsum, 63, 0⟩
/-- LED_LANE_UNSTAGED.frames, bits [63:0] (CNT). -/
abbrev Fld.ledLaneUnstagedFrames : Fld := ⟨.ledLaneUnstaged, 63, 0⟩
/-- LED_LANE_EXPGAP.gaps, bits [63:0] (CNT). -/
abbrev Fld.ledLaneExpgapGaps : Fld := ⟨.ledLaneExpgap, 63, 0⟩
/-- LED_RET_BASE.base, bits [39:20] (TMR). -/
abbrev Fld.ledRetBaseBase : Fld := ⟨.ledRetBase, 39, 20⟩
/-- LED_RET_SIZE.size, bits [19:0] (TMR). -/
abbrev Fld.ledRetSizeSize : Fld := ⟨.ledRetSize, 19, 0⟩
/-- LED_RET_SWAP.swap, bits [0:0] (CMD). -/
abbrev Fld.ledRetSwapSwap : Fld := ⟨.ledRetSwap, 0, 0⟩
/-- LED_RET_RELEASE.release, bits [0:0] (CMD). -/
abbrev Fld.ledRetReleaseRelease : Fld := ⟨.ledRetRelease, 0, 0⟩
/-- LED_RET_STA.oldest, bits [63:32] (STA). -/
abbrev Fld.ledRetStaOldest : Fld := ⟨.ledRetSta, 63, 32⟩
/-- LED_RET_STA.refused, bits [3:3] (STA). -/
abbrev Fld.ledRetStaRefused : Fld := ⟨.ledRetSta, 3, 3⟩
/-- LED_RET_STA.old_held, bits [2:2] (STA). -/
abbrev Fld.ledRetStaOldHeld : Fld := ⟨.ledRetSta, 2, 2⟩
/-- LED_RET_STA.pending, bits [1:1] (STA). -/
abbrev Fld.ledRetStaPending : Fld := ⟨.ledRetSta, 1, 1⟩
/-- LED_RET_STA.bank, bits [0:0] (STA). -/
abbrev Fld.ledRetStaBank : Fld := ⟨.ledRetSta, 0, 0⟩
/-- ZOA_CFG.udp_port, bits [63:48] (TMR). -/
abbrev Fld.zoaCfgUdpPort : Fld := ⟨.zoaCfg, 63, 48⟩
/-- ZOA_CFG.node, bits [47:30] (TMR). -/
abbrev Fld.zoaCfgNode : Fld := ⟨.zoaCfg, 47, 30⟩
/-- ZOA_CFG.ipv6, bits [1:1] (TMR). -/
abbrev Fld.zoaCfgIpv6 : Fld := ⟨.zoaCfg, 1, 1⟩
/-- ZOA_CFG.en, bits [0:0] (CTL). -/
abbrev Fld.zoaCfgEn : Fld := ⟨.zoaCfg, 0, 0⟩
/-- ZOA_IP.addr, bits [63:0] (TMR). -/
abbrev Fld.zoaIpAddr : Fld := ⟨.zoaIp, 63, 0⟩
/-- ZOA_DELTA.delta, bits [11:0] (TMR). -/
abbrev Fld.zoaDeltaDelta : Fld := ⟨.zoaDelta, 11, 0⟩
/-- ZOA_DELTA_SWAP.target, bits [63:0] (CMD). -/
abbrev Fld.zoaDeltaSwapTarget : Fld := ⟨.zoaDeltaSwap, 63, 0⟩
/-- ZOA_STA.session, bits [63:50] (STA). -/
abbrev Fld.zoaStaSession : Fld := ⟨.zoaSta, 63, 50⟩
/-- ZOA_STA.swap_refused, bits [46:46] (STA). -/
abbrev Fld.zoaStaSwapRefused : Fld := ⟨.zoaSta, 46, 46⟩
/-- ZOA_STA.swap_pending, bits [45:45] (STA). -/
abbrev Fld.zoaStaSwapPending : Fld := ⟨.zoaSta, 45, 45⟩
/-- ZOA_STA.bank, bits [44:44] (STA). -/
abbrev Fld.zoaStaBank : Fld := ⟨.zoaSta, 44, 44⟩
/-- ZOA_STA.quarantine, bits [43:43] (STA). -/
abbrev Fld.zoaStaQuarantine : Fld := ⟨.zoaSta, 43, 43⟩
/-- ZOA_STA.unfit, bits [42:42] (STA). -/
abbrev Fld.zoaStaUnfit : Fld := ⟨.zoaSta, 42, 42⟩
/-- ZOA_STA.dedup, bits [41:21] (STA). -/
abbrev Fld.zoaStaDedup : Fld := ⟨.zoaSta, 41, 21⟩
/-- ZOA_STA.assembly, bits [20:4] (STA). -/
abbrev Fld.zoaStaAssembly : Fld := ⟨.zoaSta, 20, 4⟩
/-- ZOA_QUAR_END.lt, bits [63:0] (STA). -/
abbrev Fld.zoaQuarEndLt : Fld := ⟨.zoaQuarEnd, 63, 0⟩
/-- ZOA_TWIN_CFG.twin_key, bits [63:32] (CTL). -/
abbrev Fld.zoaTwinCfgTwinKey : Fld := ⟨.zoaTwinCfg, 63, 32⟩
/-- ZOA_TWIN_CFG.miss, bits [13:6] (CTL). -/
abbrev Fld.zoaTwinCfgMiss : Fld := ⟨.zoaTwinCfg, 13, 6⟩
/-- ZOA_TWIN_CFG.en, bits [0:0] (CTL). -/
abbrev Fld.zoaTwinCfgEn : Fld := ⟨.zoaTwinCfg, 0, 0⟩
/-- ZOA_TWIN_STA.key, bits [63:32] (STA). -/
abbrev Fld.zoaTwinStaKey : Fld := ⟨.zoaTwinSta, 63, 32⟩
/-- ZOA_TWIN_STA.lost, bits [0:0] (STA). -/
abbrev Fld.zoaTwinStaLost : Fld := ⟨.zoaTwinSta, 0, 0⟩
/-- ZOA_TWIN_WIN.win, bits [43:24] (CTL). -/
abbrev Fld.zoaTwinWinWin : Fld := ⟨.zoaTwinWin, 43, 24⟩
/-- ZOA_TWIN_WIN.vec, bits [11:0] (CTL). -/
abbrev Fld.zoaTwinWinVec : Fld := ⟨.zoaTwinWin, 11, 0⟩
/-- ZOA_TWIN_CTX.ctx, bits [63:0] (CTL). -/
abbrev Fld.zoaTwinCtxCtx : Fld := ⟨.zoaTwinCtx, 63, 0⟩
/-- ZOA_CNT.count, bits [63:0] (CNT). -/
abbrev Fld.zoaCntCount : Fld := ⟨.zoaCnt, 63, 0⟩
/-- ZOA_PORT_CFG.rx_en, bits [0:0] (CTL). -/
abbrev Fld.zoaPortCfgRxEn : Fld := ⟨.zoaPortCfg, 0, 0⟩
/-- CIPH_STA.inc, bits [63:48] (STA). -/
abbrev Fld.ciphStaInc : Fld := ⟨.ciphSta, 63, 48⟩
/-- CIPH_STA.susp, bits [47:40] (STA). -/
abbrev Fld.ciphStaSusp : Fld := ⟨.ciphSta, 47, 40⟩
/-- CIPH_STA.cores, bits [39:35] (STA). -/
abbrev Fld.ciphStaCores : Fld := ⟨.ciphSta, 39, 35⟩
/-- CIPH_STA.erased, bits [4:4] (STA). -/
abbrev Fld.ciphStaErased : Fld := ⟨.ciphSta, 4, 4⟩
/-- CIPH_STA.swap_refused, bits [3:3] (STA). -/
abbrev Fld.ciphStaSwapRefused : Fld := ⟨.ciphSta, 3, 3⟩
/-- CIPH_STA.swap_pending, bits [2:2] (STA). -/
abbrev Fld.ciphStaSwapPending : Fld := ⟨.ciphSta, 2, 2⟩
/-- CIPH_STA.bank, bits [1:1] (STA). -/
abbrev Fld.ciphStaBank : Fld := ⟨.ciphSta, 1, 1⟩
/-- CIPH_STA.spare_avail, bits [0:0] (STA). -/
abbrev Fld.ciphStaSpareAvail : Fld := ⟨.ciphSta, 0, 0⟩
/-- CIPH_ALARM_STA.cause, bits [4:0] (STA). -/
abbrev Fld.ciphAlarmStaCause : Fld := ⟨.ciphAlarmSta, 4, 0⟩
/-- CIPH_ALARM_CNT.alarms, bits [63:0] (CNT). -/
abbrev Fld.ciphAlarmCntAlarms : Fld := ⟨.ciphAlarmCnt, 63, 0⟩
/-- CIPH_ERASE_LT.lt, bits [63:0] (STA). -/
abbrev Fld.ciphEraseLtLt : Fld := ⟨.ciphEraseLt, 63, 0⟩
/-- CIPH_TAG_FAIL.fails, bits [63:0] (CNT). -/
abbrev Fld.ciphTagFailFails : Fld := ⟨.ciphTagFail, 63, 0⟩
/-- CIPH_SHARE_SWAP.target, bits [63:0] (CMD). -/
abbrev Fld.ciphShareSwapTarget : Fld := ⟨.ciphShareSwap, 63, 0⟩
/-- CIPH_SHARE.burst, bits [63:32] (TMR). -/
abbrev Fld.ciphShareBurst : Fld := ⟨.ciphShare, 63, 32⟩
/-- CIPH_SHARE.rate, bits [11:0] (TMR). -/
abbrev Fld.ciphShareRate : Fld := ⟨.ciphShare, 11, 0⟩
/-- CIPH_SECY_CFG.replay_win, bits [63:32] (CTL). -/
abbrev Fld.ciphSecyCfgReplayWin : Fld := ⟨.ciphSecyCfg, 63, 32⟩
/-- CIPH_SECY_CFG.next_an, bits [3:2] (CTL). -/
abbrev Fld.ciphSecyCfgNextAn : Fld := ⟨.ciphSecyCfg, 3, 2⟩
/-- CIPH_SECY_CFG.en, bits [0:0] (CTL). -/
abbrev Fld.ciphSecyCfgEn : Fld := ⟨.ciphSecyCfg, 0, 0⟩
/-- CIPH_SECY_AT.target, bits [63:0] (CMD). -/
abbrev Fld.ciphSecyAtTarget : Fld := ⟨.ciphSecyAt, 63, 0⟩
/-- CIPH_SECY_STA.pn_high, bits [4:4] (STA). -/
abbrev Fld.ciphSecyStaPnHigh : Fld := ⟨.ciphSecySta, 4, 4⟩
/-- CIPH_SECY_STA.refused, bits [3:3] (STA). -/
abbrev Fld.ciphSecyStaRefused : Fld := ⟨.ciphSecySta, 3, 3⟩
/-- CIPH_SECY_STA.pending, bits [2:2] (STA). -/
abbrev Fld.ciphSecyStaPending : Fld := ⟨.ciphSecySta, 2, 2⟩
/-- CIPH_SECY_STA.tx_an, bits [1:0] (STA). -/
abbrev Fld.ciphSecyStaTxAn : Fld := ⟨.ciphSecySta, 1, 0⟩
/-- CIPH_SECY_DISC.frames, bits [63:0] (CNT). -/
abbrev Fld.ciphSecyDiscFrames : Fld := ⟨.ciphSecyDisc, 63, 0⟩
/-- HOST_LINK_STA.drain, bits [63:48] (STA). -/
abbrev Fld.hostLinkStaDrain : Fld := ⟨.hostLinkSta, 63, 48⟩
/-- HOST_LINK_STA.speed, bits [31:29] (STA). -/
abbrev Fld.hostLinkStaSpeed : Fld := ⟨.hostLinkSta, 31, 29⟩
/-- HOST_LINK_STA.width, bits [28:24] (STA). -/
abbrev Fld.hostLinkStaWidth : Fld := ⟨.hostLinkSta, 28, 24⟩
/-- HOST_LINK_STA.mps, bits [23:22] (STA). -/
abbrev Fld.hostLinkStaMps : Fld := ⟨.hostLinkSta, 23, 22⟩
/-- HOST_LINK_STA.short, bits [1:1] (STA). -/
abbrev Fld.hostLinkStaShort : Fld := ⟨.hostLinkSta, 1, 1⟩
/-- HOST_LINK_STA.up, bits [0:0] (STA). -/
abbrev Fld.hostLinkStaUp : Fld := ⟨.hostLinkSta, 0, 0⟩
/-- HOST_CONTAIN_STA.seq, bits [63:32] (STA). -/
abbrev Fld.hostContainStaSeq : Fld := ⟨.hostContainSta, 63, 32⟩
/-- HOST_CONTAIN_STA.errs, bits [31:16] (CNT). -/
abbrev Fld.hostContainStaErrs : Fld := ⟨.hostContainSta, 31, 16⟩
/-- HOST_CONTAIN_STA.cause, bits [15:8] (STA). -/
abbrev Fld.hostContainStaCause : Fld := ⟨.hostContainSta, 15, 8⟩
/-- HOST_CONTAIN_STA.contained, bits [0:0] (STA). -/
abbrev Fld.hostContainStaContained : Fld := ⟨.hostContainSta, 0, 0⟩
/-- HOST_CONTAIN_RELEASE.seq, bits [63:32] (CMD). -/
abbrev Fld.hostContainReleaseSeq : Fld := ⟨.hostContainRelease, 63, 32⟩
/-- HOST_CONTAIN_CNT.entries, bits [63:0] (CNT). -/
abbrev Fld.hostContainCntEntries : Fld := ⟨.hostContainCnt, 63, 0⟩
/-- HOST_IGN_CNT.ignored, bits [63:0] (CNT). -/
abbrev Fld.hostIgnCntIgnored : Fld := ⟨.hostIgnCnt, 63, 0⟩
/-- HOST_LOSS_CNT.losses, bits [63:0] (CNT). -/
abbrev Fld.hostLossCntLosses : Fld := ⟨.hostLossCnt, 63, 0⟩
/-- HOST_RESET_CNT.perst, bits [63:32] (CNT). -/
abbrev Fld.hostResetCntPerst : Fld := ⟨.hostResetCnt, 63, 32⟩
/-- HOST_RESET_CNT.hot, bits [31:0] (CNT). -/
abbrev Fld.hostResetCntHot : Fld := ⟨.hostResetCnt, 31, 0⟩
/-- HOST_CPL_DISC.completions, bits [63:0] (CNT). -/
abbrev Fld.hostCplDiscCompletions : Fld := ⟨.hostCplDisc, 63, 0⟩
/-- HOST_FN_STA.inc, bits [63:48] (STA). -/
abbrev Fld.hostFnStaInc : Fld := ⟨.hostFnSta, 63, 48⟩
/-- HOST_FN_STA.ats, bits [10:10] (STA). -/
abbrev Fld.hostFnStaAts : Fld := ⟨.hostFnSta, 10, 10⟩
/-- HOST_FN_STA.msix, bits [9:9] (STA). -/
abbrev Fld.hostFnStaMsix : Fld := ⟨.hostFnSta, 9, 9⟩
/-- HOST_FN_STA.bme, bits [8:8] (STA). -/
abbrev Fld.hostFnStaBme : Fld := ⟨.hostFnSta, 8, 8⟩
/-- HOST_FN_STA.state, bits [2:0] (STA). -/
abbrev Fld.hostFnStaState : Fld := ⟨.hostFnSta, 2, 0⟩
/-- HOST_FN_FLR_CNT.flrs, bits [63:0] (CNT). -/
abbrev Fld.hostFnFlrCntFlrs : Fld := ⟨.hostFnFlrCnt, 63, 0⟩
/-- HOST_FN_UR_CNT.requests, bits [63:0] (CNT). -/
abbrev Fld.hostFnUrCntRequests : Fld := ⟨.hostFnUrCnt, 63, 0⟩
/-- HOST_FN_LOST_FETCH.fetches, bits [63:0] (CNT). -/
abbrev Fld.hostFnLostFetchFetches : Fld := ⟨.hostFnLostFetch, 63, 0⟩
/-- RING_BASE.base, bits [63:6] (CTL). -/
abbrev Fld.ringBaseBase : Fld := ⟨.ringBase, 63, 6⟩
/-- RING_CFG.vec, bits [63:52] (CTL). -/
abbrev Fld.ringCfgVec : Fld := ⟨.ringCfg, 63, 52⟩
/-- RING_CFG.irq_en, bits [51:51] (CTL). -/
abbrev Fld.ringCfgIrqEn : Fld := ⟨.ringCfg, 51, 51⟩
/-- RING_CFG.mod, bits [50:48] (CTL). -/
abbrev Fld.ringCfgMod : Fld := ⟨.ringCfg, 50, 48⟩
/-- RING_CFG.weight, bits [47:40] (CTL). -/
abbrev Fld.ringCfgWeight : Fld := ⟨.ringCfg, 47, 40⟩
/-- RING_CFG.burst, bits [37:32] (CTL). -/
abbrev Fld.ringCfgBurst : Fld := ⟨.ringCfg, 37, 32⟩
/-- RING_CFG.nq_en, bits [31:31] (CTL). -/
abbrev Fld.ringCfgNqEn : Fld := ⟨.ringCfg, 31, 31⟩
/-- RING_CFG.nq, bits [29:16] (CTL). -/
abbrev Fld.ringCfgNq : Fld := ⟨.ringCfg, 29, 16⟩
/-- RING_CFG.k, bits [12:8] (CTL). -/
abbrev Fld.ringCfgK : Fld := ⟨.ringCfg, 12, 8⟩
/-- RING_CFG.kind, bits [3:0] (CTL). -/
abbrev Fld.ringCfgKind : Fld := ⟨.ringCfg, 3, 0⟩
/-- RING_CTL.en, bits [0:0] (CTL). -/
abbrev Fld.ringCtlEn : Fld := ⟨.ringCtl, 0, 0⟩
/-- RING_STA.inc, bits [63:48] (STA). -/
abbrev Fld.ringStaInc : Fld := ⟨.ringSta, 63, 48⟩
/-- RING_STA.owner, bits [47:40] (STA). -/
abbrev Fld.ringStaOwner : Fld := ⟨.ringSta, 47, 40⟩
/-- RING_STA.cause, bits [39:32] (STA). -/
abbrev Fld.ringStaCause : Fld := ⟨.ringSta, 39, 32⟩
/-- RING_STA.ign, bits [7:7] (STA). -/
abbrev Fld.ringStaIgn : Fld := ⟨.ringSta, 7, 7⟩
/-- RING_STA.state, bits [2:0] (STA). -/
abbrev Fld.ringStaState : Fld := ⟨.ringSta, 2, 0⟩
/-- RING_IDX.p, bits [63:32] (STA). -/
abbrev Fld.ringIdxP : Fld := ⟨.ringIdx, 63, 32⟩
/-- RING_IDX.h, bits [31:0] (STA). -/
abbrev Fld.ringIdxH : Fld := ⟨.ringIdx, 31, 0⟩
/-- RING_CI.err_idx, bits [63:32] (STA). -/
abbrev Fld.ringCiErrIdx : Fld := ⟨.ringCi, 63, 32⟩
/-- RING_CI.c, bits [31:0] (STA). -/
abbrev Fld.ringCiC : Fld := ⟨.ringCi, 31, 0⟩
/-- RING_RESET_IDX.idx, bits [31:0] (CMD). -/
abbrev Fld.ringResetIdxIdx : Fld := ⟨.ringResetIdx, 31, 0⟩
/-- RING_DONE.done, bits [63:0] (CNT). -/
abbrev Fld.ringDoneDone : Fld := ⟨.ringDone, 63, 0⟩
/-- RING_LOST.lost, bits [63:0] (CNT). -/
abbrev Fld.ringLostLost : Fld := ⟨.ringLost, 63, 0⟩
/-- RING_IGN.ignored, bits [63:0] (CNT). -/
abbrev Fld.ringIgnIgnored : Fld := ⟨.ringIgn, 63, 0⟩
/-- HOST_TEN_STA.inc, bits [63:48] (STA). -/
abbrev Fld.hostTenStaInc : Fld := ⟨.hostTenSta, 63, 48⟩
/-- HOST_TEN_STA.saved, bits [7:7] (STA). -/
abbrev Fld.hostTenStaSaved : Fld := ⟨.hostTenSta, 7, 7⟩
/-- HOST_TEN_STA.state, bits [2:0] (STA). -/
abbrev Fld.hostTenStaState : Fld := ⟨.hostTenSta, 2, 0⟩
/-- HOST_FN_MBX_IGN.ignored, bits [63:0] (CNT). -/
abbrev Fld.hostFnMbxIgnIgnored : Fld := ⟨.hostFnMbxIgn, 63, 0⟩
/-- JRN_CFG.base, bits [48:40] (TMR). -/
abbrev Fld.jrnCfgBase : Fld := ⟨.jrnCfg, 48, 40⟩
/-- JRN_CFG.size, bits [39:32] (TMR). -/
abbrev Fld.jrnCfgSize : Fld := ⟨.jrnCfg, 39, 32⟩
/-- JRN_CFG.en, bits [0:0] (CTL). -/
abbrev Fld.jrnCfgEn : Fld := ⟨.jrnCfg, 0, 0⟩
/-- JRN_STA.inc, bits [63:48] (STA). -/
abbrev Fld.jrnStaInc : Fld := ⟨.jrnSta, 63, 48⟩
/-- JRN_STA.ign, bits [7:7] (STA). -/
abbrev Fld.jrnStaIgn : Fld := ⟨.jrnSta, 7, 7⟩
/-- JRN_STA.swap_refused, bits [6:6] (STA). -/
abbrev Fld.jrnStaSwapRefused : Fld := ⟨.jrnSta, 6, 6⟩
/-- JRN_STA.swap_pending, bits [5:5] (STA). -/
abbrev Fld.jrnStaSwapPending : Fld := ⟨.jrnSta, 5, 5⟩
/-- JRN_STA.bank, bits [4:4] (STA). -/
abbrev Fld.jrnStaBank : Fld := ⟨.jrnSta, 4, 4⟩
/-- JRN_IGN.ignored, bits [63:0] (CNT). -/
abbrev Fld.jrnIgnIgnored : Fld := ⟨.jrnIgn, 63, 0⟩
/-- JRN_PEER_SWAP.target, bits [63:0] (CMD). -/
abbrev Fld.jrnPeerSwapTarget : Fld := ⟨.jrnPeerSwap, 63, 0⟩
/-- JRN_PEER_CFG.hold, bits [15:8] (TMR). -/
abbrev Fld.jrnPeerCfgHold : Fld := ⟨.jrnPeerCfg, 15, 8⟩
/-- JRN_PEER_CFG.count, bits [1:0] (TMR). -/
abbrev Fld.jrnPeerCfgCount : Fld := ⟨.jrnPeerCfg, 1, 0⟩
/-- JRN_PEER_CTX.ctx, bits [63:0] (TMR). -/
abbrev Fld.jrnPeerCtxCtx : Fld := ⟨.jrnPeerCtx, 63, 0⟩
/-- JRN_PEER_STA.pending, bits [63:32] (STA). -/
abbrev Fld.jrnPeerStaPending : Fld := ⟨.jrnPeerSta, 63, 32⟩
/-- JRN_PEER_STA.lost, bits [1:1] (STA). -/
abbrev Fld.jrnPeerStaLost : Fld := ⟨.jrnPeerSta, 1, 1⟩
/-- JRN_PEER_STA.in_use, bits [0:0] (STA). -/
abbrev Fld.jrnPeerStaInUse : Fld := ⟨.jrnPeerSta, 0, 0⟩
/-- JRN_PEER_FAIL.fails, bits [63:0] (CNT). -/
abbrev Fld.jrnPeerFailFails : Fld := ⟨.jrnPeerFail, 63, 0⟩
/-- JRN_Q_BASE.base, bits [63:11] (CTL). -/
abbrev Fld.jrnQBaseBase : Fld := ⟨.jrnQBase, 63, 11⟩
/-- JRN_Q_CTL.vec, bits [14:8] (CTL). -/
abbrev Fld.jrnQCtlVec : Fld := ⟨.jrnQCtl, 14, 8⟩
/-- JRN_Q_CTL.en, bits [0:0] (CTL). -/
abbrev Fld.jrnQCtlEn : Fld := ⟨.jrnQCtl, 0, 0⟩
/-- JRN_Q_STA.inc, bits [63:48] (STA). -/
abbrev Fld.jrnQStaInc : Fld := ⟨.jrnQSta, 63, 48⟩
/-- JRN_Q_STA.state, bits [34:32] (STA). -/
abbrev Fld.jrnQStaState : Fld := ⟨.jrnQSta, 34, 32⟩
/-- JRN_Q_STA.outstanding, bits [31:0] (STA). -/
abbrev Fld.jrnQStaOutstanding : Fld := ⟨.jrnQSta, 31, 0⟩
/-- JRN_Q_FLR.finished, bits [31:0] (STA). -/
abbrev Fld.jrnQFlrFinished : Fld := ⟨.jrnQFlr, 31, 0⟩
/-- JRN_Q_DONE.done, bits [63:0] (CNT). -/
abbrev Fld.jrnQDoneDone : Fld := ⟨.jrnQDone, 63, 0⟩
/-- JRN_Q_IGN.ignored, bits [63:0] (CNT). -/
abbrev Fld.jrnQIgnIgnored : Fld := ⟨.jrnQIgn, 63, 0⟩
/-- SEC_BOOT_STA.boot_ms, bits [63:48] (STA). -/
abbrev Fld.secBootStaBootMs : Fld := ⟨.secBootSta, 63, 48⟩
/-- SEC_BOOT_STA.hold, bits [47:40] (STA). -/
abbrev Fld.secBootStaHold : Fld := ⟨.secBootSta, 47, 40⟩
/-- SEC_BOOT_STA.bundle, bits [39:38] (STA). -/
abbrev Fld.secBootStaBundle : Fld := ⟨.secBootSta, 39, 38⟩
/-- SEC_BOOT_STA.act_pending, bits [8:8] (STA). -/
abbrev Fld.secBootStaActPending : Fld := ⟨.secBootSta, 8, 8⟩
/-- SEC_BOOT_STA.fallback, bits [7:7] (STA). -/
abbrev Fld.secBootStaFallback : Fld := ⟨.secBootSta, 7, 7⟩
/-- SEC_BOOT_STA.slot, bits [6:6] (STA). -/
abbrev Fld.secBootStaSlot : Fld := ⟨.secBootSta, 6, 6⟩
/-- SEC_BOOT_STA.gate, bits [5:5] (STA). -/
abbrev Fld.secBootStaGate : Fld := ⟨.secBootSta, 5, 5⟩
/-- SEC_BOOT_STA.locked, bits [4:4] (STA). -/
abbrev Fld.secBootStaLocked : Fld := ⟨.secBootSta, 4, 4⟩
/-- SEC_BOOT_STA.stage, bits [3:0] (STA). -/
abbrev Fld.secBootStaStage : Fld := ⟨.secBootSta, 3, 0⟩
/-- SEC_LIFECYCLE.ver_cnt, bits [63:56] (RO). -/
abbrev Fld.secLifecycleVerCnt : Fld := ⟨.secLifecycle, 63, 56⟩
/-- SEC_LIFECYCLE.revoke, bits [55:48] (RO). -/
abbrev Fld.secLifecycleRevoke : Fld := ⟨.secLifecycle, 55, 48⟩
/-- SEC_LIFECYCLE.programmed, bits [47:40] (RO). -/
abbrev Fld.secLifecycleProgrammed : Fld := ⟨.secLifecycle, 47, 40⟩
/-- SEC_LIFECYCLE.debug_lock, bits [4:4] (RO). -/
abbrev Fld.secLifecycleDebugLock : Fld := ⟨.secLifecycle, 4, 4⟩
/-- SEC_LIFECYCLE.debug, bits [3:3] (STA). -/
abbrev Fld.secLifecycleDebug : Fld := ⟨.secLifecycle, 3, 3⟩
/-- SEC_LIFECYCLE.state, bits [2:0] (RO). -/
abbrev Fld.secLifecycleState : Fld := ⟨.secLifecycle, 2, 0⟩
/-- SEC_VER.fw, bits [63:32] (STA). -/
abbrev Fld.secVerFw : Fld := ⟨.secVer, 63, 32⟩
/-- SEC_VER.min_fw, bits [31:0] (STA). -/
abbrev Fld.secVerMinFw : Fld := ⟨.secVer, 31, 0⟩
/-- SEC_BVER.bundle, bits [63:32] (STA). -/
abbrev Fld.secBverBundle : Fld := ⟨.secBver, 63, 32⟩
/-- SEC_BVER.min_bundle, bits [31:0] (STA). -/
abbrev Fld.secBverMinBundle : Fld := ⟨.secBver, 31, 0⟩
/-- SEC_NONCE.nonce, bits [63:0] (STA). -/
abbrev Fld.secNonceNonce : Fld := ⟨.secNonce, 63, 0⟩
/-- SEC_FW_AT.at, bits [63:0] (STA). -/
abbrev Fld.secFwAtAt : Fld := ⟨.secFwAt, 63, 0⟩
/-- SEC_MEAS.digest, bits [63:0] (STA). -/
abbrev Fld.secMeasDigest : Fld := ⟨.secMeas, 63, 0⟩
/-- SYS_MODE.kw_strap, bits [1:1] (RO). -/
abbrev Fld.sysModeKwStrap : Fld := ⟨.sysMode, 1, 1⟩
/-- SYS_MODE.kw_regs, bits [0:0] (CTL). -/
abbrev Fld.sysModeKwRegs : Fld := ⟨.sysMode, 0, 0⟩
/-- SYS_UPD_STROBE.groups, bits [15:0] (CMD). -/
abbrev Fld.sysUpdStrobeGroups : Fld := ⟨.sysUpdStrobe, 15, 0⟩
/-- SYS_UPD_STA.pending, bits [63:48] (STA). -/
abbrev Fld.sysUpdStaPending : Fld := ⟨.sysUpdSta, 63, 48⟩
/-- SYS_UPD_STA.held, bits [47:32] (STA). -/
abbrev Fld.sysUpdStaHeld : Fld := ⟨.sysUpdSta, 47, 32⟩
/-- SYS_UPD_STA.fill, bits [12:0] (STA). -/
abbrev Fld.sysUpdStaFill : Fld := ⟨.sysUpdSta, 12, 0⟩
/-- SYS_UPD_AT.t, bits [63:0] (STA). -/
abbrev Fld.sysUpdAtT : Fld := ⟨.sysUpdAt, 63, 0⟩
/-- SYS_UPD_OVF.writes, bits [63:0] (CNT). -/
abbrev Fld.sysUpdOvfWrites : Fld := ⟨.sysUpdOvf, 63, 0⟩
/-- SYS_TMR_FIX_CNT.fixes, bits [63:0] (CNT). -/
abbrev Fld.sysTmrFixCntFixes : Fld := ⟨.sysTmrFixCnt, 63, 0⟩
/-- SYS_TMR_LOST.lost, bits [63:0] (CNT). -/
abbrev Fld.sysTmrLostLost : Fld := ⟨.sysTmrLost, 63, 0⟩
/-- SYS_SLOW_EPOCH.edges, bits [63:0] (CNT). -/
abbrev Fld.sysSlowEpochEdges : Fld := ⟨.sysSlowEpoch, 63, 0⟩
/-- SYS_IGN_CNT.ignored, bits [63:0] (CNT). -/
abbrev Fld.sysIgnCntIgnored : Fld := ⟨.sysIgnCnt, 63, 0⟩
/-- SYS_SCREE_SRAM.passes, bits [63:32] (CNT). -/
abbrev Fld.sysScreeSramPasses : Fld := ⟨.sysScreeSram, 63, 32⟩
/-- SYS_SCREE_SRAM.last_ms, bits [31:0] (STA). -/
abbrev Fld.sysScreeSramLastMs : Fld := ⟨.sysScreeSram, 31, 0⟩
/-- SYS_SCREE_EXT.passes, bits [63:32] (CNT). -/
abbrev Fld.sysScreeExtPasses : Fld := ⟨.sysScreeExt, 63, 32⟩
/-- SYS_SCREE_EXT.last_s, bits [31:0] (STA). -/
abbrev Fld.sysScreeExtLastS : Fld := ⟨.sysScreeExt, 31, 0⟩
/-- SYS_ECC_SRAM.corrected, bits [63:0] (CNT). -/
abbrev Fld.sysEccSramCorrected : Fld := ⟨.sysEccSram, 63, 0⟩
/-- SYS_ECC_SRAM_UNC.uncorrectable, bits [63:0] (CNT). -/
abbrev Fld.sysEccSramUncUncorrectable : Fld := ⟨.sysEccSramUnc, 63, 0⟩
/-- SYS_THERM_STA.hottest, bits [63:48] (STA). -/
abbrev Fld.sysThermStaHottest : Fld := ⟨.sysThermSta, 63, 48⟩
/-- SYS_THERM_STA.over, bits [1:1] (STA). -/
abbrev Fld.sysThermStaOver : Fld := ⟨.sysThermSta, 1, 1⟩
/-- SYS_THERM_STA.warn, bits [0:0] (STA). -/
abbrev Fld.sysThermStaWarn : Fld := ⟨.sysThermSta, 0, 0⟩
/-- SYS_AVS_STA.margin, bits [63:48] (STA). -/
abbrev Fld.sysAvsStaMargin : Fld := ⟨.sysAvsSta, 63, 48⟩
/-- SYS_AVS_STA.max_mv, bits [47:32] (STA). -/
abbrev Fld.sysAvsStaMaxMv : Fld := ⟨.sysAvsSta, 47, 32⟩
/-- SYS_AVS_STA.predicted, bits [31:0] (CNT). -/
abbrev Fld.sysAvsStaPredicted : Fld := ⟨.sysAvsSta, 31, 0⟩
/-- SYS_FLASH_WEAR.over, bits [63:32] (CNT). -/
abbrev Fld.sysFlashWearOver : Fld := ⟨.sysFlashWear, 63, 32⟩
/-- SYS_FLASH_WEAR.max_erase, bits [16:0] (STA). -/
abbrev Fld.sysFlashWearMaxErase : Fld := ⟨.sysFlashWear, 16, 0⟩
/-- SYS_TELEM_CFG.irq, bits [12:12] (CTL). -/
abbrev Fld.sysTelemCfgIrq : Fld := ⟨.sysTelemCfg, 12, 12⟩
/-- SYS_TELEM_CFG.vec, bits [11:0] (CTL). -/
abbrev Fld.sysTelemCfgVec : Fld := ⟨.sysTelemCfg, 11, 0⟩
/-- SYS_TELEM.frame, bits [63:0] (STA). -/
abbrev Fld.sysTelemFrame : Fld := ⟨.sysTelem, 63, 0⟩
/-- MEM_CH_STA.inc, bits [63:48] (STA). -/
abbrev Fld.memChStaInc : Fld := ⟨.memChSta, 63, 48⟩
/-- MEM_CH_STA.speed, bits [9:8] (STA). -/
abbrev Fld.memChStaSpeed : Fld := ⟨.memChSta, 9, 8⟩
/-- MEM_CH_STA.ext_host, bits [7:7] (STA). -/
abbrev Fld.memChStaExtHost : Fld := ⟨.memChSta, 7, 7⟩
/-- MEM_CH_STA.window, bits [6:6] (STA). -/
abbrev Fld.memChStaWindow : Fld := ⟨.memChSta, 6, 6⟩
/-- MEM_CH_STA.ranks, bits [5:4] (STA). -/
abbrev Fld.memChStaRanks : Fld := ⟨.memChSta, 5, 4⟩
/-- MEM_CH_STA.state, bits [2:0] (STA). -/
abbrev Fld.memChStaState : Fld := ⟨.memChSta, 2, 0⟩
/-- MEM_CH_CORR.corrected, bits [63:0] (CNT). -/
abbrev Fld.memChCorrCorrected : Fld := ⟨.memChCorr, 63, 0⟩
/-- MEM_CH_UNC.uncorrectable, bits [63:0] (CNT). -/
abbrev Fld.memChUncUncorrectable : Fld := ⟨.memChUnc, 63, 0⟩
/-- MEM_CH_ADDR.misdirected, bits [63:0] (CNT). -/
abbrev Fld.memChAddrMisdirected : Fld := ⟨.memChAddr, 63, 0⟩
/-- MEM_CH_RETRAIN.retrains, bits [63:0] (CNT). -/
abbrev Fld.memChRetrainRetrains : Fld := ⟨.memChRetrain, 63, 0⟩
/-- CAIRN_STA.next, bits [63:16] (STA). -/
abbrev Fld.cairnStaNext : Fld := ⟨.cairnSta, 63, 16⟩
/-- CAIRN_STA.loaded, bits [15:15] (STA). -/
abbrev Fld.cairnStaLoaded : Fld := ⟨.cairnSta, 15, 15⟩
/-- CAIRN_STA.birth, bits [13:0] (STA). -/
abbrev Fld.cairnStaBirth : Fld := ⟨.cairnSta, 13, 0⟩
/-- CAIRN_OLDEST.oldest, bits [47:0] (STA). -/
abbrev Fld.cairnOldestOldest : Fld := ⟨.cairnOldest, 47, 0⟩
/-- CAIRN_CURSOR.area, bits [63:63] (CTL). -/
abbrev Fld.cairnCursorArea : Fld := ⟨.cairnCursor, 63, 63⟩
/-- CAIRN_CURSOR.sta, bits [62:60] (STA). -/
abbrev Fld.cairnCursorSta : Fld := ⟨.cairnCursor, 62, 60⟩
/-- CAIRN_CURSOR.rec, bits [47:0] (CTL). -/
abbrev Fld.cairnCursorRec : Fld := ⟨.cairnCursor, 47, 0⟩
/-- CAIRN_WINDOW.bytes, bits [63:0] (STA). -/
abbrev Fld.cairnWindowBytes : Fld := ⟨.cairnWindow, 63, 0⟩
/-- CAIRN_LIFE.pwr_cyc, bits [63:32] (CNT). -/
abbrev Fld.cairnLifePwrCyc : Fld := ⟨.cairnLife, 63, 32⟩
/-- CAIRN_LIFE.op_sec, bits [31:0] (CNT). -/
abbrev Fld.cairnLifeOpSec : Fld := ⟨.cairnLife, 31, 0⟩
/-- CAIRN_SUPP.suppressed, bits [63:0] (CNT). -/
abbrev Fld.cairnSuppSuppressed : Fld := ⟨.cairnSupp, 63, 0⟩
/-- CAIRN_QLOST.lost, bits [63:0] (CNT). -/
abbrev Fld.cairnQlostLost : Fld := ⟨.cairnQlost, 63, 0⟩
/-- CAIRN_RATE.code, bits [63:48] (CTL). -/
abbrev Fld.cairnRateCode : Fld := ⟨.cairnRate, 63, 48⟩
/-- CAIRN_RATE.burst, bits [47:32] (CTL). -/
abbrev Fld.cairnRateBurst : Fld := ⟨.cairnRate, 47, 32⟩
/-- CAIRN_RATE.rate, bits [15:0] (CTL). -/
abbrev Fld.cairnRateRate : Fld := ⟨.cairnRate, 15, 0⟩
/-- SYS_DEV_ID.part, bits [63:48] (RO). -/
abbrev Fld.sysDevIdPart : Fld := ⟨.sysDevId, 63, 48⟩
/-- SYS_DEV_ID.step_major, bits [47:44] (RO). -/
abbrev Fld.sysDevIdStepMajor : Fld := ⟨.sysDevId, 47, 44⟩
/-- SYS_DEV_ID.step_minor, bits [43:40] (RO). -/
abbrev Fld.sysDevIdStepMinor : Fld := ⟨.sysDevId, 43, 40⟩
/-- SYS_RST_STA.rail, bits [31:24] (STA). -/
abbrev Fld.sysRstStaRail : Fld := ⟨.sysRstSta, 31, 24⟩
/-- SYS_RST_STA.indep, bits [16:16] (RO). -/
abbrev Fld.sysRstStaIndep : Fld := ⟨.sysRstSta, 16, 16⟩
/-- SYS_RST_STA.cause, bits [1:0] (STA). -/
abbrev Fld.sysRstStaCause : Fld := ⟨.sysRstSta, 1, 0⟩
/-- SYS_SUPPLY_STA.below, bits [24:16] (STA). -/
abbrev Fld.sysSupplyStaBelow : Fld := ⟨.sysSupplySta, 24, 16⟩
/-- SYS_SUPPLY_STA.warn, bits [8:0] (STA). -/
abbrev Fld.sysSupplyStaWarn : Fld := ⟨.sysSupplySta, 8, 0⟩
/-- SYS_CLK_STA.aon_rc, bits [9:9] (STA). -/
abbrev Fld.sysClkStaAonRc : Fld := ⟨.sysClkSta, 9, 9⟩
/-- SYS_CLK_STA.core_hold, bits [8:8] (STA). -/
abbrev Fld.sysClkStaCoreHold : Fld := ⟨.sysClkSta, 8, 8⟩
/-- SYS_CLK_STA.core_alt, bits [7:7] (STA). -/
abbrev Fld.sysClkStaCoreAlt : Fld := ⟨.sysClkSta, 7, 7⟩
/-- SYS_CLK_STA.xtal, bits [6:6] (STA). -/
abbrev Fld.sysClkStaXtal : Fld := ⟨.sysClkSta, 6, 6⟩
/-- SYS_CLK_STA.sds_ref, bits [5:2] (STA). -/
abbrev Fld.sysClkStaSdsRef : Fld := ⟨.sysClkSta, 5, 2⟩
/-- SYS_CLK_STA.pcie_ref, bits [1:1] (STA). -/
abbrev Fld.sysClkStaPcieRef : Fld := ⟨.sysClkSta, 1, 1⟩
/-- SYS_CLK_STA.sys_ref, bits [0:0] (STA). -/
abbrev Fld.sysClkStaSysRef : Fld := ⟨.sysClkSta, 0, 0⟩
/-- SYS_CLK_LOSS.losses, bits [63:0] (CNT). -/
abbrev Fld.sysClkLossLosses : Fld := ⟨.sysClkLoss, 63, 0⟩
/-- SYS_RAIL.mv, bits [63:48] (STA). -/
abbrev Fld.sysRailMv : Fld := ⟨.sysRail, 63, 48⟩
/-- SYS_RAIL.min_mv, bits [47:32] (STA). -/
abbrev Fld.sysRailMinMv : Fld := ⟨.sysRail, 47, 32⟩
/-- SYS_RAIL.warns, bits [31:0] (CNT). -/
abbrev Fld.sysRailWarns : Fld := ⟨.sysRail, 31, 0⟩
/-- SYS_MODE_STA.tenants, bits [63:56] (STA). -/
abbrev Fld.sysModeStaTenants : Fld := ⟨.sysModeSta, 63, 56⟩
/-- SYS_MODE_STA.time_role, bits [51:48] (STA). -/
abbrev Fld.sysModeStaTimeRole : Fld := ⟨.sysModeSta, 51, 48⟩
/-- SYS_MODE_STA.twin, bits [47:46] (STA). -/
abbrev Fld.sysModeStaTwin : Fld := ⟨.sysModeSta, 47, 46⟩
/-- SYS_MODE_STA.host, bits [45:44] (STA). -/
abbrev Fld.sysModeStaHost : Fld := ⟨.sysModeSta, 45, 44⟩
/-- SYS_MODE_STA.indep, bits [42:42] (RO). -/
abbrev Fld.sysModeStaIndep : Fld := ⟨.sysModeSta, 42, 42⟩
/-- SYS_MODE_STA.kw_regs, bits [41:41] (STA). -/
abbrev Fld.sysModeStaKwRegs : Fld := ⟨.sysModeSta, 41, 41⟩
/-- SYS_MODE_STA.debug, bits [40:40] (STA). -/
abbrev Fld.sysModeStaDebug : Fld := ⟨.sysModeSta, 40, 40⟩
/-- SYS_MODE_STA.bundle, bits [9:8] (STA). -/
abbrev Fld.sysModeStaBundle : Fld := ⟨.sysModeSta, 9, 8⟩
/-- SYS_MODE_STA.stage, bits [7:4] (STA). -/
abbrev Fld.sysModeStaStage : Fld := ⟨.sysModeSta, 7, 4⟩
/-- SYS_MODE_STA.gate, bits [3:3] (STA). -/
abbrev Fld.sysModeStaGate : Fld := ⟨.sysModeSta, 3, 3⟩
/-- SYS_MODE_STA.lifecycle, bits [2:0] (RO). -/
abbrev Fld.sysModeStaLifecycle : Fld := ⟨.sysModeSta, 2, 0⟩

/-- The registers of each domain window (R17). -/
def regsOfDomain : Nat → List RegName
  | 0 => [.crestLt, .crestEpoch, .crestMapSec, .crestMapSub, .crestAddend, .crestTqw, .crestEbFull, .crestSrvSta, .crestSampleAt, .crestSampleOfs, .crestStepCnt, .crestSampleCnt, .crestSampleDisc, .crestBankSwap, .crestSrvCfg, .crestGainAcq, .crestGainLck, .crestSrvLim, .crestSrvThr, .crestTqCfg, .crestNom, .crestRefCfg, .crestRefSta, .crestPpsoCfg, .crestTtoCfg, .crestCapCfg, .crestCapData, .crestCapSta, .crestCapOvf, .crestCmpArm, .crestCmpCfg, .crestCmpRef, .crestCmpPer, .crestCmpSta, .crestCmpFire, .crestCmpDis]
  | 1 => [.portCtl, .portCfg, .portMacCfg, .portPtpCfg, .portSta, .portIgnCnt, .portRxFrames, .portRxBad, .portRxOversize, .portRxPause, .portTxFrames, .portTxStomp, .portFecCorr, .portFecUncorr, .portCalRx, .portCalTx, .portCalSta, .portOctCfg, .portTsqMeta, .portTsqLt, .portTsqOvf]
  | 2 => [.ingIgnCnt, .ingExcCfg, .ingProfCfg, .ingProfFld, .ingPortCfg, .ingPortNomatch, .ingTblCtl, .ingTblCfg, .ingTblSta, .ingTblEvict, .ingTblPar, .ingTblLearn, .ingTblLearnDrop, .ingTblAged, .ingTblStale, .ingConSta, .ingConTok, .ingConGreen, .ingConYellow, .ingConRed, .ingConOverlen, .ingAdmSta, .ingAdmReq, .ingAdmRefused, .ingAdmDigestAt, .ingAdmDigest, .ingConBound, .ingConLate]
  | 3 => [.spurActAt, .spurActSta, .spurRidgeSta, .spurRidgeSpareCnt, .spurCcSta, .spurCoreCtl, .spurCoreSta, .spurCoreIgn, .spurCoreSevref, .spurCoreRel, .spurCoreDb, .spurSlotAt, .spurThrRst, .spurSlot, .spurThrSta, .spurThrEvt, .spurThrSevsrc, .spurGrpCfg, .spurGrpSta, .spurGrpImg, .spurGrpFrames, .spurGrpBudget, .spurGrpDqwait, .spurGrpDqdrop, .spurChCfg, .spurChSta, .spurCoreFault, .spurCoreFaultCnt, .spurGrpProgdrop]
  | 4 => [.tmBufSta, .tmBufFault, .tmSwapAt, .tmPortSta, .tmPortIgn, .tmPortDqlate, .tmPortDisc, .tmPortMcdis, .tmPshpRate, .tmPshpBurst, .tmQCfg, .tmQRate, .tmQBurst, .tmQSta, .tmQDly, .tmQNccfg, .tmQTx, .tmQDrop, .tmQLaunchClamp, .tmQLaunchIgn, .colArm, .colSta, .colSwitchLt, .colCycles, .colBankSec, .colBankNs, .colBankCfg, .colEnt]
  | 5 => [.ledRcptSta, .ledRcptSeq, .ledRcptLate, .ledStartEpoch, .ledProofCnt, .ledLaneSeq, .ledLaneSta, .ledLaneLeaves, .ledLanePolsum, .ledLaneUnstaged, .ledLaneExpgap, .ledRetBase, .ledRetSize, .ledRetSwap, .ledRetRelease, .ledRetSta]
  | 6 => [.zoaCfg, .zoaIp, .zoaDelta, .zoaDeltaSwap, .zoaSta, .zoaQuarEnd, .zoaTwinCfg, .zoaTwinSta, .zoaTwinWin, .zoaTwinCtx, .zoaCnt, .zoaPortCfg]
  | 7 => [.ciphSta, .ciphAlarmSta, .ciphAlarmCnt, .ciphEraseLt, .ciphTagFail, .ciphShareSwap, .ciphShare, .ciphSecyCfg, .ciphSecyAt, .ciphSecySta, .ciphSecyDisc]
  | 9 => [.hostLinkSta, .hostContainSta, .hostContainRelease, .hostContainCnt, .hostIgnCnt, .hostLossCnt, .hostResetCnt, .hostCplDisc, .hostFnSta, .hostFnFlrCnt, .hostFnUrCnt, .hostFnLostFetch, .ringBase, .ringCfg, .ringCtl, .ringSta, .ringIdx, .ringCi, .ringResetIdx, .ringDone, .ringLost, .ringIgn, .hostTenSta, .hostFnMbxIgn]
  | 10 => [.jrnCfg, .jrnSta, .jrnIgn, .jrnPeerSwap, .jrnPeerCfg, .jrnPeerCtx, .jrnPeerSta, .jrnPeerFail, .jrnQBase, .jrnQCtl, .jrnQSta, .jrnQFlr, .jrnQDone, .jrnQIgn]
  | 11 => [.memChSta, .memChCorr, .memChUnc, .memChAddr, .memChRetrain]
  | 12 => [.secBootSta, .secLifecycle, .secVer, .secBver, .secNonce, .secFwAt, .secMeas]
  | 13 => [.sysBlkQuery, .sysBlkQueryRes, .sysMode, .sysUpdStrobe, .sysUpdSta, .sysUpdAt, .sysUpdOvf, .sysTmrFixCnt, .sysTmrLost, .sysSlowEpoch, .sysIgnCnt, .sysScreeSram, .sysScreeExt, .sysEccSram, .sysEccSramUnc, .sysThermSta, .sysAvsSta, .sysFlashWear, .sysTelemCfg, .sysTelem, .cairnSta, .cairnOldest, .cairnCursor, .cairnWindow, .cairnLife, .cairnSupp, .cairnQlost, .cairnRate, .sysDevId, .sysRstSta, .sysSupplySta, .sysClkSta, .sysClkLoss, .sysRail, .sysModeSta]
  | _ => []

end Sys2Proof.Machine
end

