-- ==== Sys2Proof/Machine/SMap.lean ====
section
/-! DEFINITION. Sparse maps with Nat keys, held as lists of key and value pairs: registers, memories, queues and tables are all
kept in this one form.  Memory of bytes is a sparse map of bytes with its unlisted value. -/

namespace Sys2Proof.Machine

/-- A sparse map: pairs of key and value, keys rising (see `SMap.Sorted`). -/
abbrev SMap (α : Type) := List (Nat × α)

/-- The value held at key `k`. -/
def SMap.find {α : Type} : SMap α → Nat → Option α
  | [], _ => none
  | (j, a) :: t, k => if j = k then some a else SMap.find t k

/-- The map with every pair of key `k` removed. -/
def SMap.del {α : Type} (m : SMap α) (k : Nat) : SMap α := m.filter (fun e => !(e.1 == k))

/-- Insert before the first greater key. -/
def SMap.ins {α : Type} (k : Nat) (a : α) : SMap α → SMap α
  | [] => [(k, a)]
  | (j, b) :: t => if k < j then (k, a) :: (j, b) :: t else (j, b) :: SMap.ins k a t

/-- The map with key `k` holding `o` (`none`: holding nothing). -/
def SMap.put {α : Type} (m : SMap α) (k : Nat) (o : Option α) : SMap α :=
  match o with
  | none => m.del k
  | some a => SMap.ins k a (m.del k)

/-- The value at `k`, an unlisted key reading as `d`. -/
def SMap.getD {α : Type} (m : SMap α) (k : Nat) (d : α) : α := (SMap.find m k).getD d

/-- Write `a` at `k` where an unlisted key reads as `d`: writing `d` removes the pair, so equal maps are equal data. -/
def SMap.setD {α : Type} [DecidableEq α] (m : SMap α) (k : Nat) (a d : α) : SMap α :=
  SMap.put m k (if a = d then none else some a)

/-- The canonical form: keys strictly rising. -/
abbrev SMap.Sorted {α : Type} (m : SMap α) : Prop := m.Pairwise (fun a b => a.1 < b.1)

/-- No pair holds the value an unlisted key reads as. -/
abbrev SMap.NoDefault {α : Type} (m : SMap α) (d : α) : Prop := ∀ e ∈ m, e.2 ≠ d

/-- A memory of bytes; an unlisted address reads as 0 (DESIGN CHOICE, assumption 3). -/
abbrev Mem := SMap (BitVec 8)

/-- The canonical form of a memory: addresses strictly rising and no byte equal to the unlisted value. -/
abbrev Mem.wf (m : Mem) : Prop := SMap.Sorted m ∧ SMap.NoDefault m 0

/-- One byte of memory. -/
def Mem.byte (m : Mem) (a : Nat) : BitVec 8 := SMap.getD m a 0

/-- Write one byte. -/
def Mem.setByte (m : Mem) (a : Nat) (b : BitVec 8) : Mem := SMap.setD m a b 0

/-- `n` bytes from address `a`, first byte first. -/
def Mem.bytes (m : Mem) (a : Nat) : Nat → Bytes
  | 0 => []
  | n + 1 => Mem.byte m a :: Mem.bytes m (a + 1) n

/-- Write a string of bytes from address `a` on. -/
def Mem.setBytes (m : Mem) (a : Nat) : Bytes → Mem
  | [] => m
  | b :: t => Mem.setBytes (Mem.setByte m a b) (a + 1) t

end Sys2Proof.Machine
end

