-- ==== Sys2Proof/Machine/State.lean ====
section
/-! DEFINITION. The state of the block as plain data: every register, FIFO, buffer, counter, mode and pin the spec gives it, the
queue of waiting commands, and what the block has sent out; the reasons a step can stop; and the state right after reset.
Register fields live once, in `regs`; the other fields hold what no register shows. -/

namespace Sys2Proof.Machine

/-! ### Blocks -/

/-- The kinds of L3 block (R21). -/
inductive BlkKind where
  | timeBase | capture | trigger | port | octet | table | mcGroup | contract | core | group | ridge | control
  | queue | colList | lane | window | workQueue | cipher | key | hash | function | ring | jq | memCh
  deriving DecidableEq, Repr

/-- An L3 block: its kind and its index within the kind. -/
structure Blk where
  kind : BlkKind
  ix : Nat
  deriving DecidableEq, Repr

/-! ### Crest time base -/

/-- The servo's states, in the code order of R51. -/
inductive ServoState where
  | free | acquire | locked | holdover
  deriving DecidableEq, Repr

/-- A submitted offset sample: measurement instant, θ in LT units, and its source (R48). -/
structure Sample where
  at_ : BitVec 64
  theta : Int
  pps : Bool
  deriving DecidableEq, Repr

/-- A domain's replica of linear time (R43): its tracking error as last compared, replica less Crest in LT units, and the elapsed time
of that comparison; since then, how far its own clock's rate lies above the Crest's, in ppb, and the correction of its rate that the
tracking loop applies, in ppm of its clock. -/
structure RepSt where
  err : Int := 0
  at_ : Nat := 0
  clock : Int := 0
  rate : Int := 0
  deriving DecidableEq, Repr

/-- The Crest beyond what its registers hold. -/
structure Crest where
  /-- The CTC domain has left reset and the counter runs (R36, R54). -/
  running : Bool := false
  /-- The 112-bit accumulator; LT is bits [79:16] (R41). -/
  acc : BitVec 112 := 0
  /-- The addend in use (R41). -/
  addend : BitVec 48 := 0x100000000#48
  state : ServoState := .free
  /-- The integrator, in units of 2⁻³² ppb. -/
  integ : Int := 0
  /-- θ of the sample whose step is pending (R52). -/
  step : Option Int := none
  /-- The elapsed time at which the last step took effect (R49): elapsed, since it is kept for ever and R37 bounds what two LT may
  lie apart. -/
  stepAt : Option Nat := none
  /-- The run of consecutive samples the state counts: within lock_thr in ACQUIRE, above unlock_thr in LOCKED (R515). -/
  run : Nat := 0
  /-- |θ| of the last 16 accepted samples, newest first (R57). -/
  thetas : List Nat := []
  /-- The time of the last accepted sample, in elapsed LT units since the counter started (R51, timeout). -/
  lastSample : Nat := 0
  /-- The servo's sample source timed out and HOLDOVER has not been left (R55). -/
  srvLost : Bool := false
  /-- REF_TIME was enabled and lost (R61). -/
  refLost : Bool := false
  /-- Full error bound on entry to HOLDOVER and the time of that entry (R57). -/
  holdEb : Nat := 0
  holdAt : Nat := 0
  /-- MAP of the current and of the previous epoch, FT counts (R45, R47). -/
  map : Nat := 0
  mapPrev : Nat := 0
  /-- What the epoch so far adds to its time-quality word (R56): largest full bound and the OR of each flag. -/
  ebMax : Nat := 0
  orStepped : Bool := false
  orHoldover : Bool := false
  orSupply : Bool := false
  orCal : Bool := false
  orRef : Bool := false
  /-- The instant staged by CREST_SAMPLE_AT. -/
  staged : BitVec 64 := 0
  /-- Submitted samples the servo has not processed, oldest first (R49). -/
  samples : List Sample := []
  /-- The accumulator at the last CTC tick (R41): instants between two ticks are those of the stamp replicas. -/
  tick : Nat := 0
  /-- The replicas, by `Replica.key`; each was loaded with the Crest's LT as its domain left reset (R43). -/
  reps : SMap RepSt := []
  /-- Octets whose stamp replica is out of limit (R44). -/
  replicaOut : SMap Unit := []
  /-- The capture FIFOs of blocks 0-4, oldest first (R62). -/
  caps : SMap (List (BitVec 64)) := []
  /-- The target of each armed compare unit (R64). -/
  cmpTarget : SMap (BitVec 64) := []
  /-- The levels compare units have driven on TTO0-TTO3 while enabled (R65, R68). -/
  tto : SMap Bool := []
  /-- PPS_OUT is inside a pulse, and the elapsed time at which it rose last (R67). -/
  pps : Bool := false
  ppsRise : Option Nat := none
  deriving DecidableEq, Repr

/-- The PTP protocol engine (R58): the data of each management ID set through PF0, its role, and by port the sequence identifier, the
sender's port identity and the ingress stamp of each Pdelay_Req not yet answered, newest first (R90). -/
structure Ptp where
  data : SMap Bytes := []
  role : PtpRole := .none
  pdelay : SMap (List (Nat × Nat × BitVec 64)) := []
  /-- Hops and error bound that the engine will set once the pending bank swap has taken effect (R53, R59). -/
  want : Option (Nat × Option Nat) := none
  deriving DecidableEq, Repr

/-! ### Ports, lanes and stamps -/

/-- One lane's stamp calibration (R86, R88): the die parts in force, the measured die parts not yet wholly applied, and the
conditions that make it stale. -/
structure LaneCal where
  dieRx : Int := 0
  dieTx : Int := 0
  newRx : Option Int := none
  newTx : Option Int := none
  /-- A die-part measurement has completed in the present lane mode and FEC and since the last training. -/
  measured : Bool := false
  /-- The lane is in link training; its adaptation is outside limits. -/
  training : Bool := false
  adapt : Bool := false
  /-- The die parts in force before the present epoch's beginning: a stamp latched before it takes them. -/
  prevRx : Int := 0
  prevTx : Int := 0
  deriving DecidableEq, Repr

/-- An entry of an octet's two-step stamp queue (R91): software identifier, port, incarnation, egress LT and owner (the function
index, or none for the protocol engine). -/
structure TsqEntry where
  swId : Nat
  port : Nat
  portInc : Nat
  lt : BitVec 64
  owner : Option Nat
  deriving DecidableEq, Repr

/-- Where a frame is on its way (R32). -/
inductive FStage where
  /-- Arriving, not yet judged by the classifier. -/
  | rx
  /-- Matched and coloured, awaiting its dispatch instant. -/
  | matched
  /-- In a group's dispatch queue. -/
  | dqueue (g : Nat)
  /-- Held by a thread. -/
  | held (c t : Nat)
  /-- Emitted and not yet taken by its destination. -/
  | emitted
  /-- In the cipher engine. -/
  | cipher
  /-- On its way to the PTP protocol engine (R89, R102). -/
  | ptp
  /-- In egress queues or on the wire. -/
  | egress
  /-- Its disposition is decided, or it was discarded. -/
  | done
  deriving DecidableEq, Repr

/-- Where an emit sends a frame (R180). -/
inductive EmitDest where
  | none
  | queue (port : Nat)
  /-- The group; once it has been read, the octets still to be presented to and the port set. -/
  | mcast (grp : Nat) (left : Option (List Nat × Nat))
  | host (ring : Nat)
  | fabric (wq : Nat) (gb : BitVec 64)
  | cipher (key : Nat)
  deriving DecidableEq, Repr

/-- A Zoano request packet on its way to the MAC: its message's submission number, its index, whether it is a retransmission, the entry of
its port in the context's set, and the fabric key it is sealed under (R265, R275, R300). -/
structure ZBuild where
  msg : Nat
  pkt : Nat
  again : Bool
  entry : Nat
  key : Option Bytes := none
  deriving DecidableEq, Repr

/-- A frame in the device. -/
structure Frame where
  /-- The ingress port; frames that originate in the Turast have none (R77). -/
  port : Option Nat := none
  portInc : Nat := 0
  /-- The frame's bytes as received, destination address first, FCS included. -/
  bytes : Bytes := []
  /-- The header buffer, 256 bytes, as programs have rewritten it (R98, R176). -/
  hdr : Bytes := []
  /-- Ingress stamp and its full time (R84, R47). -/
  lt : BitVec 64 := 0
  ft : Nat := 0
  stage : FStage := .rx
  /-- Its end has been received; it failed; its failure is a cut at L_max. -/
  ended : Bool := false
  failed : Bool := false
  /-- Contract and incarnation of the version it matched (R101, R209). -/
  con : Option (Nat × Nat) := none
  /-- 0 none, 1 green, 2 yellow, 3 red. -/
  colour : Nat := 0
  deadline : Option (BitVec 64) := none
  /-- Key depth and the anchors of R98. -/
  depth : Nat := 0
  anchors : List (Option Nat) := []
  progEpoch : Nat := 0
  annot : BitVec 64 := 0
  dest : EmitDest := .none
  /-- The elapsed time of its emit. -/
  emitAt : Nat := 0
  /-- Queue number at the egress port (R195). -/
  queue : Nat := 0
  /-- Two-step stamp request: software identifier and owner (R91). -/
  ts : Option (Nat × Option Nat) := none
  launch : Option (BitVec 64) := none
  /-- Multicast: copies not yet stamped, and the worst outcome so far: disposition, egress LT and port of the latest (R238). -/
  copies : Nat := 0
  /-- Entries in egress queues and on the wire, not yet sent to their end. -/
  onWire : Nat := 0
  worst : Option (Nat × BitVec 64 × Nat) := none
  /-- Its disposition has been decided while copies of it are still to be sent (R32, R235, R304). -/
  judged : Bool := false
  /-- PTP one-step data: message type and the matching ingress LT (R90). -/
  ptp : Option (Nat × BitVec 64) := none
  /-- 0 for a frame received on a port or a copy of one, 1 for a frame that originates in the Turast (R77). -/
  owner : Nat := 0
  /-- It left the cipher engine or originates in the Turast, and is wholly buffered (R77, R294); its bytes before the engine changed
  them, which the ledger's digest covers. -/
  whole : Bool := false
  orig : Option Bytes := none
  /-- A frame sent by a TX ring: ring, index and descriptor (R341). -/
  tx : Option (Nat × Nat × Bytes) := none
  /-- A Zoano packet that is the last of its message: the message's submission number (R274). -/
  zoa : Option Nat := none
  /-- What a Zoano request packet is built from as it is handed to the MAC (R265). -/
  build : Option ZBuild := none
  /-- Its port's SecY has passed it (R303). -/
  plain : Bool := false
  /-- It has been ended at its contract's L_max, and the MAC still receives the rest of it (R107). -/
  hearing : Bool := false
  /-- RX buffers taken at the handover: ring, first index, the buffers, and the source code (R342, R343). -/
  rx : Option (Nat × Nat × List Bytes × Nat) := none
  deriving DecidableEq, Repr

/-- Ports. -/
structure Ports where
  frames : SMap Frame := []
  nextFrame : Nat := 0
  lanes : SMap LaneCal := []
  tsq : SMap (List TsqEntry) := []
  /-- Read latches: key = function × 32 + octet (R92). -/
  tsqLatch : SMap TsqEntry := []
  deriving DecidableEq, Repr

/-! ### Ingress and tables -/

/-- A table entry (R108, R111, R115, R118): its key bytes, prefix length, result, kinds, stamp, bucket and the condition of
its stored word (0 good, 1 parity error its code corrects, 2 uncorrectable). -/
structure TEntry where
  key : Bytes
  plen : Nat := 0
  result : BitVec 64
  static : Bool := false
  portTyped : Bool := false
  learned : Bool := false
  stamp : BitVec 16 := 0
  ext : Bool := false
  bucket : Nat := 0
  parity : Nat := 0
  deriving DecidableEq, Repr

/-- A pending learn (R113, R114): table, key, port and its incarnation. -/
structure LearnReq where
  table : Nat
  key : Bytes
  port : Nat
  deriving DecidableEq, Repr

/-- A FLUSH_BY_PORT pass in progress (R125): its table and incarnation, the port, whether static entries go too. -/
structure FlushPass where
  table : Nat
  port : Nat
  flushStatic : Bool
  desc : Bytes
  /-- The elapsed time at which the pass began, and up to which its visits have been made; the prefixes visited, and the key number up to
  which they were. -/
  began : Nat
  upto : Nat
  seen : Nat := 0
  after : Nat := 0
  /-- The elapsed time at which the last stored prefix was visited. -/
  doneAt : Option Nat := none
  deriving DecidableEq, Repr

/-- A cursor a table issued (R126): table, incarnation, and the key number iterated to. -/
structure TCursor where
  table : Nat
  inc : Nat
  after : Nat
  deriving DecidableEq, Repr

/-- A multicast group (R120). -/
structure McGroup where
  ports : Nat := 0
  queue : Nat := 0
  deriving DecidableEq, Repr

/-- A policer (R104, R105): buckets in bytes with 32 fraction bits, and the LT they are accrued to. -/
structure Policer where
  tc : Nat := 0
  tp : Nat := 0
  last : BitVec 64 := 0
  deriving DecidableEq, Repr

/-- Ingress. -/
structure Ingress where
  /-- Entries of each table, by the number their key and prefix length spell. -/
  tables : SMap (SMap TEntry) := []
  learns : List LearnReq := []
  /-- Flush passes by ring × 2³² + index of their descriptor. -/
  flushes : SMap FlushPass := []
  cursors : SMap TCursor := []
  mc : SMap McGroup := []
  policers : SMap Policer := []
  deriving DecidableEq, Repr

/-! ### Spur -/

/-- A claim record of an image header (R187). -/
structure Claim where
  ty : Nat
  num : Nat
  flags : Nat
  data : BitVec 64
  deriving DecidableEq, Repr

/-- A loaded image: the header fields of R186 the device uses, its claims under their loaded incarnations, its place in the
ridge's code area, and its SHA-384 (R251). -/
structure Image where
  profile : Nat := 0
  overrun : Bool := false
  codeLen : Nat := 0
  hdrLen : Nat := 0
  budget : Nat := 0
  waitNs : Nat := 0
  waits : Nat := 0
  segN : List Nat := []
  lkNs : Nat := 0
  entry : Nat := 0
  hdrNeed : Nat := 0
  ovrQ : Nat := 0
  scrBase : Nat := 0
  scrSize : Nat := 0
  shBase : Nat := 0
  shSize : Nat := 0
  timers : Nat := 0
  claims : List Claim := []
  proof : Bytes := []
  sha : Bytes := []
  epoch : Nat := 0
  addr : Nat := 0
  /-- The whole image as it lies in the code area. -/
  raw : Bytes := []
  deriving DecidableEq, Repr

/-- A lookup slot holding a lookup not waited for (R177, R178): its table, key, the incarnation it carries, issue time and
latency in LT units, and its result once returned. -/
structure LkSlot where
  table : Nat
  key : Bytes
  inc : Nat
  issued : Nat
  latency : Nat
  /-- What the lookup found as it was issued (R111): value and status of R109. -/
  ans : BitVec 64 × Nat
  /-- The result has returned. -/
  back : Bool := false
  deriving DecidableEq, Repr

/-- An active counted loop (R174): first index of the body, index just after it, iterations left. -/
structure Loop where
  first : Nat
  stop : Nat
  left : Nat
  deriving DecidableEq, Repr

/-- A context: a foreground thread, a background context or a control core (R134, R135, R161, R162). -/
structure Thread where
  group : Option Nat := none
  /-- State code of R134. -/
  st : Nat := 0
  bank : Nat := 0
  epoch : Nat := 0
  frame : Option Nat := none
  gprs : SMap (BitVec 64) := []
  index : Nat := 0
  slots : SMap LkSlot := []
  staging : SMap (BitVec 64) := []
  receive : SMap (BitVec 64) := []
  timers : SMap (BitVec 64) := []
  /-- Latched pending bits (R137). -/
  pending : BitVec 32 := 0
  mask : BitVec 32 := 0
  /-- The lookup slot a context in LOOKUP waits for. -/
  waitSlot : Nat := 0
  loops : List Loop := []
  /-- Budget timer in LT units: limit, used while stopped, and the time it started running (R148). -/
  budLimit : Nat := 0
  budUsed : Nat := 0
  budSince : Option Nat := none
  waitsLeft : Nat := 0
  /-- The lookup wait a context is in stops its timer (R148). -/
  paused : Bool := false
  /-- Elapsed time at which the slot of its last instruction ends (R132). -/
  slotEnd : Nat := 0
  /-- The frame's budget expired while the thread was halted or parked (R149). -/
  expired : Bool := false
  /-- State to return to on resume or release (R155, R156). -/
  back : Nat := 0
  lastEnd : Nat := 0
  /-- Declared sources of SEV lines, as SPUR_THR_SEVSRC encodes one line (R138). -/
  sevSrc : SMap Nat := []
  /-- Control cores: system registers by number (R185); a control core runs at byte address 4 × index. -/
  sys : SMap (BitVec 64) := []
  deriving DecidableEq, Repr

/-- A pending or just completed activation: its targets (group number, or 0x8000 + core), instant and epoch number. -/
structure Activation where
  at_ : BitVec 64
  epoch : Nat
  targets : List Nat
  /-- The dispatcher has begun to number frames by it (R151). -/
  begun : Bool := false
  /-- The epoch number in force before it. -/
  prev : Nat := 0
  deriving DecidableEq, Repr

/-- The history of program epochs: number, instant and the elapsed time of the instant (R150, R251). -/
structure EpochRec where
  num : Nat
  at_ : BitVec 64
  elapsed : Nat
  imageSet : Bytes
  deriving DecidableEq, Repr

/-- Spur. -/
structure Spur where
  /-- Contexts: core × 32 + thread, core × 32 + 16 for BG, 8192 + k for control core k. -/
  threads : SMap Thread := []
  /-- Images of groups (group × 2 + bank) and of BG (16384 + core × 2 + bank), of control cores (32768 + k), and those BG runs
  (40960 + core). -/
  images : SMap Image := []
  /-- Dispatch queues by group, ingress-stamp order (R146). -/
  dq : SMap (List Nat) := []
  /-- Channels (ridge × 1024 + channel): messages held, oldest first (R141). -/
  chans : SMap (List (List (BitVec 64))) := []
  act : Option Activation := none
  epochs : List EpochRec := []
  /-- Cores on which a debugger has enabled breakpoints (R182). -/
  brkCores : SMap Unit := []
  /-- Slot-table swap targets (R133). -/
  slotTarget : SMap (BitVec 64) := []
  /-- Elapsed time at which the last slot a core has issued in ends (R131). -/
  slotUsed : SMap Nat := []
  /-- Elapsed time of the last commit to a channel by a context that issues in slots (R141). -/
  chanAt : SMap Nat := []
  /-- Elapsed time and turn of the last access to a ridge's shared data area (R172). -/
  sharedAt : SMap (Nat × Nat) := []
  /-- Bumped code of a BG context that changes image at its next restart (R151): active bank by core. -/
  bgBank : SMap Nat := []
  deriving DecidableEq, Repr

/-! ### Contracts -/

/-- A contract record (R190). -/
structure ConRec where
  contract : Nat
  inc : Nat
  ledgered : Bool
  dryRun : Bool
  gClass : Nat
  yClass : Nat
  cir : Nat
  pir : Nat
  cbs : Nat
  pbs : Nat
  lMax : Nat
  lMin : Nat
  group : Nat
  tenant : Nat
  presence : Nat
  key : Bytes
  inPorts : Nat
  mcPorts : Nat
  reqC : Nat
  reqP : Nat
  at_ : BitVec 64
  deriving DecidableEq, Repr

/-- The image terms a version was judged on (R518). -/
structure ConTerms where
  budget : Nat := 0
  lkNs : Nat := 0
  waits : Nat := 0
  kind1 : Nat := 0
  tables : List Nat := []
  deriving DecidableEq, Repr

/-- A version of a contract: its record, incarnation once in force, interval and recorded terms (R208, R209, R518). -/
structure ConVer where
  body : ConRec
  inc : Nat
  from_ : BitVec 64
  until_ : Option (BitVec 64) := none
  terms : ConTerms := {}
  /-- The interval in elapsed time, since a version may be in force for longer than R37 lets two LT lie apart. -/
  began : Nat := 0
  till : Option Nat := none
  /-- The version's instant has been passed; its contract's retirement instant has been passed. -/
  active : Bool := false
  ended : Bool := false
  deriving DecidableEq, Repr

/-- Contracts: the versions of each contract number, oldest first; the history of table digests (R214, R252). -/
structure Contracts where
  versions : SMap (List ConVer) := []
  history : List (BitVec 64 × Nat × Bytes) := []
  deriving DecidableEq, Repr

/-! ### Egress -/

/-- A frame in an egress queue. -/
structure QEnt where
  fid : Nat
  /-- Its length in the buffer. -/
  len : Nat
  /-- Wire length (R215). -/
  wire : Nat
  /-- Its launch instant where its queue honours one, the latest instant R230 lets a frame without a deadline be held to, and whether it
  has been counted as clamped. -/
  launch : Option (BitVec 64) := none
  limit : Option (BitVec 64) := none
  clamped : Bool := false
  deadline : Option (BitVec 64) := none
  con : Bool := false
  /-- Elapsed time at which its rate-match hold ends, counted from its entry into the queue (R76, R216). -/
  ready : Nat := 0
  deriving DecidableEq, Repr

/-- A key record of the store (R305, R306). -/
structure KeyRec where
  use : Nat
  flags : Nat
  mode : Nat
  an : Nat
  /-- Program use: IV offset; MACsec: port. -/
  ivOff : Nat
  /-- Program use: encryption offset; MACsec receive SA: receive SC. -/
  encOff : Nat
  queue : Nat
  ssci : Bytes
  salt : Bytes
  key : Bytes
  /-- Transmit SA: next PN; receive SA: lowest acceptable PN; program use: key counter. -/
  pn : Nat
  sci : Bytes
  /-- Receive SA: one more than the highest PN received. -/
  nextPn : Nat := 0
  deriving DecidableEq, Repr

/-- The frame a port's transmitter has selected (R216, R218): its queue and entry, and the planned plane
instant. -/
structure TxFrame where
  queue : Nat
  ent : QEnt
  plane : BitVec 64
  /-- The TM bank it was selected under (R223). -/
  bank : Nat := 0
  /-- Its egress stamp, once latched (R85). -/
  stamp : Option (BitVec 64) := none
  /-- Have the shapers that govern it been charged (R221)? -/
  charged : Bool := false
  /-- It was launched through a SecY; it has passed the engine; the SA record it was given, its PN included; an alarm has ended it (R303,
  R304, R307). -/
  secy : Bool := false
  sealed : Bool := true
  sa : Option KeyRec := none
  stomp : Bool := false
  deriving DecidableEq, Repr

/-- The weighted round of a port (R219): the queue whose turn it is, or the last whose turn ended. -/
structure Round where
  cur : Nat := 15
  inTurn : Bool := false
  deriving DecidableEq, Repr

/-- Egress. -/
structure Egress where
  queues : SMap (List QEnt) := []
  deficit : SMap Nat := []
  rounds : SMap Round := []
  /-- Shaper buckets with 16 fraction bits: key = port × 17 + queue, 16 for the port's own; committed and peak. -/
  buckets : SMap (Int × Int) := []
  /-- Elapsed time until which a queue is paused (R234). -/
  pauses : SMap Nat := []
  /-- The frames a port's transmitter has been given, oldest first: selected, starting or being sent. -/
  tx : SMap (List TxFrame) := []
  /-- The elapsed time at which a transmitter last ended a frame (R218). -/
  freeAt : SMap Nat := []
  /-- Target of a pending TM swap (R222). -/
  tmTarget : SMap (BitVec 64) := []
  /-- S of the list in force, in elapsed time since a list may run for longer than R37 lets two LT lie apart, and the step count when S
  was fixed (R225, R228). -/
  colS : SMap (Nat × Nat) := []
  /-- The elapsed time at which the entry in force ends (R225). -/
  colEnd : SMap Nat := []
  /-- Step count when the pending switch's S was fixed. -/
  colPend : SMap Nat := []
  /-- The last refill tick acted on, as elapsed time / 2²⁴. -/
  lastTick : Nat := 0
  deriving DecidableEq, Repr

/-! ### Stamp ledger -/

/-- A ledgered frame whose disposition is decided and whose leaf is not yet written (R32, R34). -/
structure LeafDue where
  port : Nat
  con : Nat
  conInc : Nat
  tenant : Nat
  dispo : Nat
  ft : Nat
  lt : BitVec 64
  residence : Nat
  outPort : Nat
  progEpoch : Nat
  annot : BitVec 64
  /-- The bytes the digest covers, at most 256 (R240). -/
  digestIn : Bytes
  /-- The elapsed time at which the disposition was decided. -/
  at_ : Nat
  /-- Police leaves the contract version may have on this port in one epoch (R244). -/
  allowance : Nat
  deriving DecidableEq, Repr

/-- A leaf record: leaf, annotation, its epoch, sequence number and the tenant whose contract it is of (R255). -/
structure LeafRec where
  leaf : Bytes
  annot : BitVec 64
  epoch : Nat
  seq : Nat
  con : Nat
  tenant : Nat
  deriving DecidableEq, Repr

/-- A summary leaf being counted (R243). -/
structure Summary where
  con : Nat
  port : Nat
  dispo : Nat
  reason : Nat
  tenant : Nat
  count : Nat
  firstFt : Nat
  lastFt : Nat
  progEpoch : Nat
  epoch : Nat
  deriving DecidableEq, Repr

/-- A ledger lane. -/
structure LedLane where
  due : List LeafDue := []
  /-- Leaves of epochs whose root is not computed, in sequence order. -/
  staged : List LeafRec := []
  /-- The elapsed time at which the hash pipeline will have taken all it was given; and, once it has failed without a spare, the
  records that stay in staging (R239, R456). -/
  busy : Nat := 0
  stuck : Option Nat := none
  sums : List Summary := []
  /-- Individual police leaves by epoch × 2²⁴ + contract × 256 + port (R244). -/
  police : SMap Nat := []
  /-- Epochs with leaves, each with the sequence number of its first leaf, oldest first. -/
  firsts : List (Nat × Nat) := []
  /-- Records written to the active region since it became active, and to the old region while it was. -/
  puts : Nat := 0
  oldPuts : Nat := 0
  /-- Retained records, oldest first: of the active region, and of the old region held after a swap, which keeps the epochs before
  `oldUpTo` where it stands, whatever its bank's registers are given since (R255, R257). -/
  retained : List LeafRec := []
  oldRetained : List LeafRec := []
  oldUpTo : Nat := 0
  oldBase : Nat := 0
  oldCap : Nat := 0
  deriving DecidableEq, Repr

/-- An epoch's entry in the root area (R256): lane roots, n and first sequence by lane, time-quality word, root, bound. -/
structure EpochEntry where
  epoch : Nat
  lanes : List (Bytes × Nat × Nat)
  tqw : Nat
  root : Bytes
  eb : Nat
  deriving DecidableEq, Repr

/-- A signed receipt (R250): sequence, epochs covered, body, the two signatures and the appendix. -/
structure Receipt where
  seq : Nat
  first : Nat
  last : Nat
  body : Bytes
  rsa : Bytes
  slh : Bytes
  appendix : Bytes
  deriving DecidableEq, Repr

/-- The stamp ledger. -/
structure Ledger where
  lanes : SMap LedLane := []
  /-- Closed epochs whose root is not computed: epoch, its time-quality word and bound. -/
  closed : List (Nat × Nat × Nat) := []
  /-- Epoch entries, oldest first: those of the root area, which holds the last 65,536, and older ones of spans that are not signed or
  of which the root area still holds an epoch (R256, R249; DEDUCED, assumption 124). -/
  epochs : List EpochEntry := []
  receipts : List Receipt := []
  /-- Boot measurement, contract table digest and signing pair at the end of each span not yet signed: last epoch of the span, digests
  and pair. -/
  spanEnds : List (Nat × Bytes × Bytes × Nat) := []
  /-- First epoch of the next receipt. -/
  spanFirst : Nat := 0
  prev : Bytes := []
  /-- Spans in which a reason-0 or a reason-1 summary leaf exists (R250 led_flags). -/
  sums0 : List Nat := []
  sums1 : List Nat := []
  /-- Hash pipelines spared, of the spares present (R242). -/
  spareUsed : Bool := false
  /-- Next sequence, and next epoch whose close is to be posted, of an export ring that has stopped: key = lane × 16384 + ring (R255). -/
  exports : SMap (Nat × Nat) := []
  /-- The receipt key pair in use, counted from the first (R253). -/
  keyGen : Nat := 0
  deriving DecidableEq, Repr

/-! ### Zoano -/

/-- A Zoano header (R264) with the packet's payload. -/
structure ZPkt where
  kind : Nat
  op : Nat
  flags : Nat
  status : Nat
  src : Nat
  dst : Nat
  id : Nat
  plen : Nat
  first : BitVec 64
  off : Nat
  total : Nat
  wkey : Nat
  woff : Nat
  keyIx : Nat
  wq : Nat
  psize : Nat
  payload : Bytes
  deriving DecidableEq, Repr

/-- Where a received packet came from: the source MAC and IP addresses. -/
structure ZFrom where
  port : Nat
  mac : Bytes
  ip : Bytes
  deriving DecidableEq, Repr

/-- A work queue's context (R270). -/
structure Wq where
  owner : Nat
  en : Bool
  prot : Bool
  node : Nat
  ip : Bytes
  rate : Nat
  psize : Nat
  queue : Nat
  defKey : Nat
  keyIx : Nat
  /-- Block reference of the notification queue. -/
  nq : BitVec 64
  /-- Egress ports with their next-hop MAC addresses. -/
  ports : List (Nat × Bytes)
  deriving DecidableEq, Repr

/-- A window record (R266, R346): open or closed, its target (0 the twin window's own area), rights, base or ring reference,
length, current generation, and the FABRIC ring it was last opened through. -/
structure Window where
  opened : Bool := false
  owner : Nat := 0
  target : Nat := 0
  rights : Nat := 0
  base : Nat := 0
  len : Nat := 0
  gen : Nat := 0
  ring : Option Nat := none
  deriving DecidableEq, Repr

/-- Who a message is sent for (R271, R286, R288, R381). -/
inductive ZUser where
  | ring (r i : Nat) (desc : Bytes)
  | prog
  | twin
  | jrn (tok : Nat)
  deriving DecidableEq, Repr

/-- A message at its sender, from submission until it is final (R274). -/
structure ZMsg where
  id : Nat
  session : Nat
  user : ZUser
  /-- Context: a work queue's number, 4096 the twin context, 4097 + 2 × bank + peer a replica context. -/
  ctx : Nat
  op : Nat
  total : Nat
  wkey : Nat
  woff : Nat
  /-- psize and Δ codes of its packets. -/
  psize : Nat
  dcode : Nat
  /-- The bytes it sends, or where they lie in external memory. -/
  data : Bytes := []
  src : Option Nat := none
  /-- Local destination of a READ or an atomic: address, whether in external memory, and the function it belongs to. -/
  laddr : Nat := 0
  lext : Bool := false
  owner : Nat := 0
  /-- It waits until every earlier message of its context is final. -/
  fence : Bool := false
  /-- The frame it carries, until that frame's end has been received (R77, R80). -/
  wait : Option Nat := none
  sentNote : Bool := false
  /-- The elapsed time at which its first packet was sent on its way, and its first send: domain time and elapsed time. -/
  sent : Option Nat := none
  first : Option (BitVec 64 × Nat) := none
  /-- Packets sent for the first time, packets acknowledged or received by bit, and retransmissions of each packet. -/
  next : Nat := 0
  acked : Nat := 0
  tries : SMap Nat := []
  /-- Last soft status received (R281). -/
  soft : Nat := 0
  /-- The old value an atomic returned. -/
  old : BitVec 64 := 0
  deriving DecidableEq, Repr

/-- A duplicate entry (R277, R279): its message, first send, the elapsed time of its expiry, the failing status (0 none), total,
psize, window key, packets and bytes placed, the assembly records it holds, an atomic's old value, and the buffer a SEND took. -/
structure ZEntry where
  first : BitVec 64
  expire : Nat
  failed : Nat := 0
  total : Nat
  psize : Nat
  wkey : Nat
  placed : Nat := 0
  bytes : Nat := 0
  asm : Nat := 0
  old : BitVec 64 := 0
  buf : Option (Nat × Nat × Bytes) := none
  deriving DecidableEq, Repr

/-- An acknowledgement held back: the function whose writes are held, the packet and where it came from, and the address a FLUSH is to read
first (R272, R273). -/
structure Owed where
  fn : Nat
  via : ZFrom
  pkt : ZPkt
  flush : Option Nat := none
  deriving DecidableEq, Repr

/-- Zoano beyond its registers. -/
structure Zoano where
  wqs : SMap Wq := []
  wins : SMap Window := []
  /-- Elapsed time at which a window's generation was last issued, key = index × 256 + generation (R267). -/
  issued : SMap Nat := []
  /-- Messages not final, by submission number; the next submission number and message ID. -/
  msgs : SMap ZMsg := []
  nextSeq : Nat := 0
  nextId : Nat := 0
  /-- Per context: the port used last, the elapsed time at which the next packet may go, the first failing status (R270, R274,
  R275). -/
  cursor : SMap Nat := []
  pace : SMap Nat := []
  fails : SMap Nat := []
  /-- Duplicate entries by source × 2⁴⁸ + message ID. -/
  dups : SMap ZEntry := []
  /-- Target of a pending Δ swap; the old codes still honoured, each with the elapsed time until which it is (R285). -/
  deltaTarget : Option (BitVec 64) := none
  oldDelta : List (Nat × Nat) := []
  /-- Acknowledgements of packets whose host writes are held (R273, R322). -/
  owed : List Owed := []
  /-- The twin window's 64 bytes, and the epoch of the last heartbeat placed (R288). -/
  twin : Bytes := []
  twinSeen : Nat := 0
  /-- The count whose low 14 bits are the session (R265). -/
  sessions : Nat := 0
  /-- Journal messages that have become final and that the journal has not acted on: token and status. -/
  done : List (Nat × Nat) := []
  deriving DecidableEq, Repr


/-! ### Cipher engine -/

/-- Who asked for a message (R291): a frame that a SecY holds on receive or that a port is to send, a program's frame, a request packet, a
reply or a received packet of the fabric, or a host request at an index of a ring. -/
inductive CipherUser where
  | secyRx (fid : Nat)
  | secyTx (port fid : Nat)
  | frame (fid : Nat)
  | zoaOut (z : ZBuild)
  | zoaBack (r : ZFrom) (p : ZPkt)
  | zoaIn (r : ZFrom) (p : ZPkt) (tag host : Bytes)
  | host (ring idx : Nat) (desc data : Bytes)
  deriving DecidableEq, Repr

/-- Where a message is in the engine (R292). -/
inductive CipherStage where
  | waiting | running | suspended | sliced
  deriving DecidableEq, Repr

/-- A message in the engine. -/
structure CipherJob where
  id : Nat
  cls : Nat
  user : CipherUser
  /-- Key index and the incarnation it was named under. -/
  keyIx : Nat
  keyInc : Nat
  len : Nat
  stage : CipherStage := .waiting
  /-- The record it fetched as it started (R305). -/
  rec_ : Option KeyRec := none
  /-- The elapsed time since which it runs (R292). -/
  since : Nat := 0
  deriving DecidableEq, Repr

/-- The cipher engine beyond its registers. -/
structure Cipher where
  keys : SMap KeyRec := []
  jobs : List CipherJob := []
  nextJob : Nat := 0
  /-- Class buckets (R293) in units of 2⁻¹⁹ bytes, and the elapsed time they were last refilled at. -/
  buckets : SMap (Int × Nat) := []
  shareTarget : Option (BitVec 64) := none
  /-- The SCI of each receive SC, by port × 8 + SC: that of the latest receive SA set for it (R302; DESIGN CHOICE, assumption 126). -/
  scs : SMap Bytes := []
  /-- The elapsed time at which an alarm cause was last known to be present (R308). -/
  lastCause : Nat := 0
  /-- Pending transmit SA switches by port: the instant and the AN (R304). -/
  secyTarget : SMap (BitVec 64 × Nat) := []
  deriving DecidableEq, Repr


/-! ### Host endpoint and rings -/

/-- An outstanding read of ring entries (R322): its tag, function and ring, the first index and the number of entries, the elapsed LT of its
issue, whether its completion is to be discarded and counted, and whether its entries were invalidated or its ring stopped (R345, R349). -/
structure HostRead where
  tag : Nat
  fn : Nat
  ring : Nat
  first : Nat
  count : Nat
  at_ : Nat := 0
  dead : Bool := false
  void : Bool := false
  deriving DecidableEq, Repr

/-- A posted write to host memory that the endpoint holds (R322, R326), and the ring and entry that it comes from, if any. -/
structure HostWr where
  fn : Nat
  addr : Nat
  data : Bytes
  ring : Option (Nat × Nat) := none
  deriving DecidableEq, Repr

/-- What a function's configuration space holds beside the registers (R310, R323-R325): the codes of Max Read Request Size (2 is 512 B) and
of the completion timeout value, ECRC generation and checking, whether the function is in D3hot, and the uncorrectable and correctable
errors that AER has logged, by the bits of its two status registers. -/
structure PciFn where
  mrrs : Nat := 2
  timeout : Nat := 0
  ecrcGen : Bool := false
  ecrcChk : Bool := false
  d3 : Bool := false
  uncor : Nat := 0
  cor : Nat := 0
  deriving DecidableEq, Repr

/-- The SPDM responder: version, capabilities and algorithms settled, the running hash of the exchange so far, and the data the
signature of the immediately preceding response covered (R316, R317). -/
structure Spdm where
  version : Bool := false
  caps : Bool := false
  algs : Bool := false
  vca : Bytes := []
  digests : Bytes := []
  meas : Bytes := []
  signed : Option Bytes := none
  deriving DecidableEq, Repr

/-- The host endpoint beyond its registers. -/
structure HostIf where
  /-- PERST# is asserted. -/
  perst : Bool := false
  /-- VF Enable and NumVFs of PF0 (R309). -/
  vfEn : Bool := false
  numVfs : Nat := 0
  /-- Base addresses of the BARs that have been set: key = function × 3 + half the BAR's number (R311). -/
  bars : SMap Nat := []
  /-- The configuration space of functions, by number. -/
  pci : SMap PciFn := []
  /-- Address and data dwords of MSI-X tables: key = vector's key × 4 + dword (R313). -/
  msix : SMap (BitVec 32) := []
  /-- Functions whose FLR runs, by number (R320). -/
  flr : SMap Unit := []
  /-- The ring the rounds of R339 visit or visited last, and the entries its visit may still start. -/
  svc : Option Nat := none
  svcLeft : Nat := 0
  reads : List HostRead := []
  nextTag : Nat := 0
  /-- Rings with a lost fetch (R322). -/
  lost : SMap Unit := []
  held : List HostWr := []
  /-- Pending bits of MSI-X vectors, key = function × 4096 + vector (R313). -/
  pba : SMap Unit := []
  /-- Vectors whose mask bit software has cleared, same keys; all are masked after reset. -/
  unmasked : SMap Unit := []
  /-- Functions whose MSI-X Function Mask is 1. -/
  fnMask : SMap Unit := []
  /-- Rings whose message waits for the end of their moderation interval, and that instant in elapsed LT (R340). -/
  due : SMap Nat := []
  /-- Translations held, oldest first: function and 4 KiB page (R315). -/
  ats : List (Nat × Nat) := []
  /-- Invalidation Requests not yet completed: function, page and number of pages. -/
  inval : List (Nat × Nat × Nat) := []
  spdm : Spdm := {}
  deriving DecidableEq, Repr

/-- The buffer an export ring is filling (R342): its index, descriptor, bytes written, and the epoch of the last record. -/
structure ExpBuf where
  idx : Nat
  desc : Bytes
  used : Nat := 0
  epoch : Nat := 0
  deriving DecidableEq, Repr

/-- A descriptor ring beyond its registers. -/
structure RingSt where
  /-- Fetched entries not started, the first at index H (R339). -/
  cache : List Bytes := []
  /-- Fetched entries beyond a gap that an invalidation left: index and entry (R345). -/
  kept : List (Nat × Bytes) := []
  /-- Started entries not completed. -/
  running : List Nat := []
  /-- Completions of a buffer ring that wait for those of lower index: index, content and status (R340). -/
  ready : List (Nat × Bytes × Nat) := []
  /-- Last accepted doorbell value and inval_h (R338, R345). -/
  bell : Nat := 0
  invalH : Nat := 0
  /-- Records lost since the queue became full, LT of the first and last (R352). -/
  lost : Nat := 0
  lostFirst : BitVec 64 := 0
  lostLast : BitVec 64 := 0
  /-- Elapsed time of the last message (R340). -/
  lastMsg : Option Nat := none
  /-- The buffer an export ring is filling. -/
  buf : Option ExpBuf := none
  /-- Entries started in the present round and whether the ring has been visited in it (R339). -/
  round : Nat := 0
  deriving DecidableEq, Repr

/-! ### Tenants and mailboxes -/

/-- A tenant's grant (R354). -/
structure Grant where
  vf : Nat
  export_ : Bool
  ringCount : Nat
  ringFirst : Nat
  quota : Nat
  groupFirst : Nat
  groupCount : Nat
  tableFirst : Nat
  tableCount : Nat
  mcFirst : Nat
  mcCount : Nat
  winFirst : Nat
  winCount : Nat
  wqFirst : Nat
  wqCount : Nat
  keyFirst : Nat
  keyCount : Nat
  hostDrain : Nat
  fabRate : Nat
  memBase : Nat
  memSize : Nat
  classes : Nat
  ports : Nat
  deriving DecidableEq, Repr

/-- A tenant: its grant, and the instant a restore awaits or a removal was given. -/
structure Tenant where
  grant : Grant
  at_ : BitVec 64 := 0
  /-- The mailbox sequence a freeze or removal is still to answer. -/
  awaits : Bool := false
  /-- It was FROZEN when its removal began, and its work stays stopped (R362). -/
  frozen : Bool := false
  deriving DecidableEq, Repr

/-- A mailbox: sequences of the last accepted request and last reply, whether a request is pending, and the reply area. -/
structure Mailbox where
  accepted : BitVec 32 := 0
  replied : BitVec 32 := 0
  pending : Bool := false
  cmd : Nat := 0
  /-- The request area as register writes left it; the area is zero beyond. -/
  req : Bytes := []
  reply : Bytes := []
  deriving DecidableEq, Repr

/-- Tenants and mailboxes; PTP datasets are held by the protocol engine (R58). -/
structure Tenants where
  tenants : SMap Tenant := []
  boxes : SMap Mailbox := []
  deriving DecidableEq, Repr

/-! ### Journal -/

/-- A journal command that is outstanding, or a WRITE whose replicas are not all final. -/
structure JCmd where
  q : Nat
  tag : Nat
  /-- The opcode; 0 while the slot of an accepted doorbell is still to be fetched (R375, R387). -/
  op : Nat
  flags : Nat
  first : Nat
  count : Nat
  slot : Bytes
  /-- A WRITE's staged data (R379). -/
  data : Bytes := []
  started : Bool := false
  /-- A WRITE: its data has been fetched into the staging buffer (R379, R387). -/
  got : Bool := false
  /-- A WRITE: how many WRITEs had started before it (R381). -/
  began : Nat := 0
  /-- Its queue has been enabled again since, so it precedes nothing of that queue (R382, R386). -/
  past : Bool := false
  /-- A completion is still owed. -/
  live : Bool := true
  /-- The peer bank it started under and the epoch it started in; a FLUSH: the epoch it was accepted in. -/
  bank : Nat := 0
  epoch : Nat := 0
  /-- A WRITE's replica to each peer (R381): 0 none, 1 to be sent, 2 sent, 3 acknowledged, 4 failed, 5 refused and offered again. -/
  reps : List Nat := [0, 0]
  /-- A FLUSH: the WRITEs it covers that were not settled when it was accepted, and its Zoano FLUSH on each replica context (2 × bank
  + peer) concerned, in the same codes (R382). -/
  cover : List Nat := []
  ctxs : SMap Nat := []
  deriving DecidableEq, Repr

/-- The journal beyond its registers. -/
structure Journal where
  /-- Commands in the order of acceptance. -/
  cmds : SMap JCmd := []
  nextSeq : Nat := 0
  /-- How many WRITEs have started (R381). -/
  starts : Nat := 0
  /-- Use counts of tags: key = queue × 32 + tag (R376). -/
  uses : SMap Nat := []
  /-- Replica contexts of the settled WRITEs of a queue since it was enabled, and, as those of queue 64, of all settled so far:
  key = queue × 4 + 2 × bank + peer; 2 where a replica to it failed, otherwise 1 (R382, R384). -/
  wrote : SMap Nat := []
  /-- Peer `p` of bank `b` is lost: key = 2 × bank + peer (R384). -/
  lost : SMap Unit := []
  peerTarget : Option (BitVec 64) := none
  deriving DecidableEq, Repr


/-! ### Security processor, flash and fuses -/

/-- The fuse map (R400): lifecycle code 0 BLANK to 4 RETIRED, programmed key hashes by slot, revoke bits, debug lock and counter
steps.  A part as shipped is in VENDOR with its vendor slots programmed (R401, R408). -/
structure Fuses where
  lifecycle : Nat := 1
  slots : SMap Bytes := [(0, Config.vendorKey 0), (1, Config.vendorKey 1), (2, Config.vendorKey 2), (3, Config.vendorKey 3)]
  revoke : Nat := 0
  debugLock : Bool := false
  verCnt : Nat := 0
  deriving DecidableEq, Repr

/-- A version record the SP has written (R398): counter, preferred slot and the two minima. -/
structure VerRec where
  n : Nat
  preferred : Nat
  minFw : Nat
  minBundle : Nat
  deriving DecidableEq, Repr

/-- What the flash devices hold outside the Cairn partition: the contents of image slots (key = device) and bundle slots (key =
2 + device), an erased slot being unlisted, the two version sectors with their erase counts, which was written last, and the generation of the wrapped receipt
pair (R390, R398, R413, R454). -/
structure Flash where
  slots : SMap FlashImage := []
  sectors : SMap VerRec := []
  erases : SMap Nat := []
  last : Nat := 0
  keyGen : Nat := 0
  deriving DecidableEq, Repr

/-- A reception through the recovery window (R407): state 0 idle, 1 receiving, 2 verifying, 3 refused; the slot, the total length, the
next expected offset, the last status. -/
structure Recov where
  st : Nat := 0
  slot : Nat := 0
  total : Nat := 0
  next : Nat := 0
  status : Nat := 0
  deriving DecidableEq, Repr

/-- A part of a manifest. -/
structure Part where
  off : Nat
  len : Nat
  ty : Nat
  sect : Nat
  hash : Bytes
  deriving DecidableEq, Repr

/-- A manifest's fields; `digest` is SHA-384 over M. -/
structure Manifest where
  kind : Nat
  signer : Nat
  version : Nat
  length : Nat
  parts : List Part
  key : Bytes
  digest : Bytes
  deriving DecidableEq, Repr

/-- Firmware as copied in (R393): its slot and manifest, the firmware area of external memory for it, the parts that stay in SRAM and the
paged ones staged and not yet written to the area (key = part entry), and the held SHA-384 of each page of a paged part (key = its offset
in the slot, of its first byte). -/
structure FwCopy where
  slot : Nat
  man : Manifest
  area : Nat := 0
  sram : SMap Bytes := []
  staged : SMap Bytes := []
  pages : SMap Bytes := []
  deriving DecidableEq, Repr

/-- A control core that waits for a page of a part to be reloaded, and the ridges that passed to another meanwhile, as a mask (R394). -/
structure PageWait where
  part : Nat
  ridges : Nat
  deriving DecidableEq, Repr

/-- A firmware activation that is pending (R415): slot, manifest digest and version of the verified copy, and the copy. -/
structure FwAct where
  slot : Nat
  digest : Bytes
  version : Nat
  copy : FwCopy
  deriving DecidableEq, Repr

/-- Flash and fuse work that a supply warning holds until it clears: a counter-log entry, the work of a security command already
accepted with its body, a recovery COMMIT, and the rewrite of the preferred slot (R416, R477, R478). -/
inductive HeldWork where
  | counterLog
  | imageStage (f : Fn) (body : Bytes) (image : FlashImage)
  | versionRaise (f : Fn) (body : Bytes)
  | keyRevoke (f : Fn) (body : Bytes)
  | ownerAdd (f : Fn) (body : Bytes)
  | lifecycle (f : Fn) (body : Bytes)
  | receiptRotate (f : Fn)
  | recovCommit (image : FlashImage)
  | prefer (slot : Nat)
  deriving DecidableEq, Repr

/-- The security processor. -/
structure Sec where
  fuses : Fuses := {}
  flash : Flash := {}
  /-- Power-good has occurred since the last power-on reset (R476). -/
  good : Bool := false
  /-- The lifecycle whose rules apply in this boot (R416). -/
  lifecycle : Nat := 0
  /-- Manifest digests of the running firmware and of the applied bundle (B2 and B3 of R414). -/
  fw : Bytes := []
  bundle : Bytes := []
  act : Option FwAct := none
  /-- The slots still to be tried in this boot, the one being copied in first, with their manifests as read (R396). -/
  cands : List (Nat × Manifest) := []
  /-- The running firmware as copied in, and the control cores that wait for a page of it (R393, R394). -/
  copy : Option FwCopy := none
  waits : SMap PageWait := []
  recov : Recov := {}
  /-- A receipt pair certified and written, awaiting the next span (R413). -/
  newPair : Bool := false
  /-- Work held by a supply warning, in the order requested (R477, R478). -/
  held : List HeldWork := []
  deriving DecidableEq, Repr

/-! ### Background work and board management -/

/-- Scree and its monitors. -/
structure Back where
  /-- Elapsed times of the last corrections of a memory word, newest first, and the words repaired at L1 (R444): key = kind × 2⁴⁸ +
  address / 8. -/
  fixes : SMap (List Nat) := []
  repaired : SMap Unit := []
  /-- Words read in the present SRAM and external-memory passes, and the elapsed time each began (R446). -/
  sramWords : Nat := 0
  sramFrom : Nat := 0
  extWords : Nat := 0
  extFrom : Nat := 0
  /-- Last aging margin, header setting and elapsed time of its last step, by engine (R452). -/
  margins : SMap Nat := []
  headers : SMap (Nat × Nat) := []
  predicted : SMap Unit := []
  /-- SRAM corrections, external corrections, uncorrectable words and late frames counted up to the last two epoch beginnings; the
  count of frames recorded DELIVERED_LATE; and that of the last telemetry frame's epoch (R455, R511). -/
  base : List Nat := []
  basePrev : List Nat := []
  lateFrames : Nat := 0
  late : Option Nat := none
  /-- A memory channel has failed since power-on reset (R449, R455). -/
  chFailed : Bool := false
  /-- The write budget of each flash device's Cairn partition: level in records × 65536 × 10⁹, and elapsed time of its refill (R453). -/
  wear : SMap (Nat × Nat) := []
  /-- The JTAG instruction and the I3C dynamic address (R510, R513). -/
  tap : JtagIr := .idcode
  i3c : Option (BitVec 7) := none
  deriving DecidableEq, Repr


/-! ### Register behaviour -/

/-- A register write held for a strobe (R429): the register, its instance (of bank 0 for a twin-banked register), the value, whether
a strobe whose tick is fixed names it, and whether it may outlive that tick (R496). -/
structure HeldWr where
  reg : RegName
  ix : Nat
  v : BitVec 64
  named : Bool := false
  last : Bool := false
  deriving DecidableEq, Repr

/-- A TMR field of which not every copy agrees with good parity (R434): register, instance, bits, and the three copies, each with
whether its parity is good. -/
structure TmrHurt where
  reg : RegName
  ix : Nat
  hi : Nat
  lo : Nat
  copies : List (Nat × Bool)
  deriving DecidableEq, Repr


/-! ### Cairn -/

/-- The event codes of R472. -/
inductive CairnCode where
  | crestStep | replicaLimit | refLost | cmpStale | calStale | lanePairFail | tblParity | conLate | waitCycle | dispatchWait
  | spurSpare | scratchLost | ccFail | bufFault | rcptLate | leafUnstaged | twinLost | wqFull | ciphAlarm | pnHigh | ciphCore
  | noTxSa | hashSpare | contain | hostLoss | drainShort | peerLost | memUncorr | pageHash | channelFail | version | incWrap
  | tmrFix | tmrLost | counterStuck | supplyWarn | thermal | scrubOverrun | swapCancel | powerOn | cairnLost | cairnBadLoad
  | clkLoss
  deriving DecidableEq, Repr

/-- A record handed to the Cairn front end and not yet accepted: code, the block reference it names if any, the LT of the
event (none before the Crest runs, R463), the arrival time and the data bytes. -/
structure CairnEvt where
  code : CairnCode
  blk : Option (BitVec 64)
  lt : Option (BitVec 64)
  data : Bytes
  deriving DecidableEq, Repr

/-- A rate bucket of one code: its level in tokens times 2¹⁶·10⁹ and the elapsed time it was last refilled at (R468). -/
structure CairnBucket where
  level : Nat
  last : Nat
  deriving DecidableEq, Repr

/-- A cursor and its latched record (R470). -/
structure CairnCursor where
  circ : Bool := false
  recNo : Nat := 0
  sta : Nat := 0
  latch : Option Bytes := none
  deriving DecidableEq, Repr

/-- Cairn. -/
structure Cairn where
  /-- Records raised and not yet accepted, oldest first. -/
  raised : List CairnEvt := []
  /-- The front end's queue: record numbers with their 64 bytes, oldest first (R462). -/
  queue : List (Nat × Bytes) := []
  /-- Records discarded since the last CAIRN_LOST record (R462). -/
  lostSince : Nat := 0
  buckets : SMap CairnBucket := []
  /-- Records of each code suppressed since the last accepted one, by code (R459). -/
  suppressed : SMap Nat := []
  /-- Number of the next record (R465). -/
  next : Nat := 0
  /-- The security processor's mirror: record number to 64 bytes (R466). -/
  mirror : SMap Bytes := []
  loaded : Bool := false
  /-- The background fill of the mirror has started (R466). -/
  loading : Bool := false
  /-- The two flash devices are present with a density the device knows, and whether that is 1 Gib, else 512 Mib (R390, R464). -/
  flashPresent : List Bool := [true, true]
  flashBig : List Bool := [true, true]
  /-- Records written to the circulating area and counter-log entries written, over the device's life (R453). -/
  circWrites : Nat := 0
  logWrites : Nat := 0
  /-- What the flash partitions hold: birth and circulating records by number, and the counter log, newest last. -/
  flashBirth : SMap Bytes := []
  flashCirc : SMap Bytes := []
  counterLog : List (BitVec 32 × BitVec 32) := []
  /-- First record number not yet written to flash (R465). -/
  flashed : Nat := 0
  /-- Operating seconds and power cycles in the always-on domain (R467). -/
  opSec : BitVec 32 := 0
  pwrCyc : BitVec 32 := 0
  /-- The second cursor, on the MCTP path (R470, R512). -/
  mctp : CairnCursor := {}
  /-- The latch of PF0's window, whose cursor is CAIRN_CURSOR. -/
  latch : Option Bytes := none
  deriving DecidableEq, Repr

/-! ### Memories -/

/-- The memories software and programs see: external memory by byte address, scratch by core × 65536 + offset, ridge shared
memory by ridge × 2²¹ + offset; and the 8-byte words marked uncorrectable (0 external, 1 scratch, 2 shared), key = kind × 2⁴⁸ +
address / 8 (R445). -/
structure Mems where
  ext : Mem := []
  scratch : Mem := []
  shared : Mem := []
  bad : SMap Unit := []
  /-- Channels whose trained timing lets their pair host extension copies (R448). -/
  fast : SMap Unit := []
  /-- Channels in a maintenance window, and the elapsed time at which it ends at the latest (R447). -/
  window : SMap Nat := []
  deriving DecidableEq, Repr

/-! ### The machine -/

/-- What the block sends out of itself, one entry for each thing sent, oldest first in `State.out`. -/
inductive Output where
  /-- The message of MSI-X vector `vec` of function `f`, with its address and data (R313). -/
  | msix (f : Nat) (vec : Nat) (addr : Nat) (data : BitVec 32)
  /-- A mailbox reply of function `f`: sequence, command, status, detail and body (R357). -/
  | mbx (f : Nat) (seq : BitVec 32) (cmd status detail : Nat) (body : Bytes)
  /-- A frame on the wire of port `p`, as transmitted, FCS included (R78). -/
  | wire (p : Nat) (lt : BitVec 64) (frame : Bytes)
  /-- A posted write to memory of function `f` (R312). -/
  | hostWrite (f addr : Nat) (data : Bytes)
  /-- A read request to memory of function `f`, under a 14-bit tag (R310, R339). -/
  | hostRead (tag f addr len : Nat)
  /-- An ATS Translation Request of function `f` for a page (R315). -/
  | atsReq (f page : Nat)
  /-- An ATS Invalidation Completion (R315). -/
  | atsDone (f page pages : Nat)
  /-- An SPDM response through PF0's DOE instance (R316). -/
  | spdm (resp : Bytes)
  /-- A PLDM completion code and sensor value (R511). -/
  | pldm (code : Nat) (value : Nat)
  /-- A Cairn answer over MCTP: the cursor word and, for a read, the window (R512). -/
  | mctp (data : Bytes)
  deriving DecidableEq, Repr

/-- The whole state of the block. -/
structure State where
  /-- Commands waiting, first in first out. -/
  pending : List Instr := []
  /-- Every register: key = instance × 512 + register number; an unlisted register holds its reset value (R10). -/
  regs : SMap (BitVec 64) := []
  /-- Incarnations of blocks whose maps show none: key = index × 32 + kind number (R22). -/
  incs : SMap (BitVec 16) := []
  /-- States of R26's query, where not 1 (disabled): same keys. -/
  blkSt : SMap Nat := []
  /-- The forerunner update buffer, key as `regs` (R429). -/
  upd : SMap HeldWr := []
  /-- TMR fields whose copies differ (R434). -/
  tmr : List TmrHurt := []
  crest : Crest := {}
  ptp : Ptp := {}
  ports : Ports := {}
  ing : Ingress := {}
  spur : Spur := {}
  con : Contracts := {}
  tm : Egress := {}
  led : Ledger := {}
  ten : Tenants := {}
  zoa : Zoano := {}
  jrn : Journal := {}
  ciph : Cipher := {}
  host : HostIf := {}
  /-- Rings by index. -/
  rings : SMap RingSt := []
  mem : Mems := {}
  cairn : Cairn := {}
  sec : Sec := {}
  back : Back := {}
  /-- The elapsed time at which a disabled block left service: keys as `incs` (R457). -/
  offAt : SMap Nat := []
  /-- What the block sent out, oldest first. -/
  out : List Output := []
  /-- The value the last read-type command returned. -/
  readData : BitVec 64 := 0
  /-- The model's own counter that makes free values fresh; it is no state of the spec's. -/
  freeCtr : Nat := 0
  deriving DecidableEq, Repr

/-- Why a step stops with a fault: no command of this block does, since the spec gives every one an effect. -/
inductive Fault where
  deriving DecidableEq, Repr

/-- Why a step has no meaning. -/
inductive Refusal where
  /-- The command's meaning is not written yet (safe: nothing is claimed of it). Raised by Dispatch alone. -/
  | notModelled (mnemonic : String)
  deriving DecidableEq, Repr

/-- The state right after device power-on reset. -/
def State.reset : State := {}

end Sys2Proof.Machine
end

