-- ==== Sys2Proof/Machine/Ops.lean ====
section
/-! DEFINITION. The named operations every family's meanings are written over: register fields, counters, linear time, block
references and incarnations, Cairn records, and what the block sends out. -/

namespace Sys2Proof.Machine

/-- The outcome type of every meaning. -/
abbrev Out := Host.Outcome State Fault Refusal

/-! ### Register fields -/

/-- Key of instance `i` of register `r` in `State.regs`. -/
def regKey (r : RegName) (i : Nat) : Nat := i * 512 + r.ctorIdx

/-- The word an instance holds after device power-on reset (R10): its map's value; ING_ADM_DIGEST holds SHA-384 of the empty string,
its byte 8i + k in bits [8k+7:8k] of word i. -/
def RegName.resetWord (r : RegName) (i : Nat) : BitVec 64 :=
  match r with
  | .ingAdmDigest => [0x3896ac51a760b038#64, 0x6ae3b1b17e32d94c#64, 0x4307be1411b7fd21#64, 0xdae1f663bfc70c4c#64,
      0xfb656fe7bfde4e27#64, 0x5bb99848f1d21ad5#64].getD i 0
  | r => BitVec.ofNat 64 r.info.reset

/-- The stored 64 bits of an instance. -/
def State.reg (s : State) (r : RegName) (i : Nat) : BitVec 64 := SMap.getD s.regs (regKey r i) (r.resetWord i)

/-- Store the 64 bits of an instance. -/
def State.setReg (s : State) (r : RegName) (i : Nat) (v : BitVec 64) : State :=
  { s with regs := SMap.setD s.regs (regKey r i) v (r.resetWord i) }

/-- The width of a field in bits. -/
def Fld.width (f : Fld) : Nat := f.hi + 1 - f.lo

/-- The value of a field in a register's 64 bits. -/
def Fld.of (f : Fld) (w : BitVec 64) : Nat := (w.toNat >>> f.lo) % 2 ^ f.width

/-- The register's 64 bits with a field replaced by `v` modulo its width. -/
def Fld.into (f : Fld) (w : BitVec 64) (v : Nat) : BitVec 64 :=
  (w &&& ~~~(BitVec.ofNat 64 ((2 ^ f.width - 1) <<< f.lo))) ||| BitVec.ofNat 64 ((v % 2 ^ f.width) <<< f.lo)

/-- Read a register field. -/
def State.get (s : State) (f : Fld) (i : Nat := 0) : Nat := f.of (s.reg f.reg i)

/-- Write a register field. -/
def State.set (s : State) (f : Fld) (i : Nat := 0) (v : Nat) : State := s.setReg f.reg i (f.into (s.reg f.reg i) v)

/-- Add to a counter field, which wraps at its width (R440). -/
def State.bump (s : State) (f : Fld) (i : Nat := 0) (n : Nat := 1) : State := s.set f i (s.get f i + n)

/-- Subtract from a status field that counts things held; it does not go below 0. -/
def State.drop (s : State) (f : Fld) (i : Nat := 0) (n : Nat := 1) : State := s.set f i (s.get f i - n)

/-- Add to a saturating count (R440). -/
def State.bumpSat (s : State) (f : Fld) (i : Nat := 0) (n : Nat := 1) : State :=
  s.set f i (min (s.get f i + n) (2 ^ f.width - 1))

/-- A truth value as a field value. -/
def bit (b : Bool) : Nat := if b then 1 else 0

/-- Is a one-bit field 1? -/
def State.is (s : State) (f : Fld) (i : Nat := 0) : Bool := s.get f i == 1

/-! ### Numbers -/

/-- The signed reading of a difference of linear times (R37). -/
def ltDiff (a b : BitVec 64) : Int := (a - b).toInt

/-- Is `a` later than `b` (R37)? -/
def ltAfter (a b : BitVec 64) : Bool := decide (0 < ltDiff a b)

/-- Is `a` at or after `b` (R37)? -/
def ltReached (a b : BitVec 64) : Bool := decide (0 ≤ ltDiff a b)

/-- LT units in one nanosecond (R36). -/
def unitsPerNs : Nat := 65536

/-- The LT units of a slot of a Spur core, 0.5 ns (R130). -/
def slotUnits : Nat := 32768

/-- LT units in one epoch (R38). -/
def epochUnits : Nat := 2 ^ 36

/-- Units of one second. -/
def unitsPerSec : Nat := 65536000000000

/-- `a` bounded to `[-b, b]`. -/
def clampInt (a b : Int) : Int := if a < -b then -b else if b < a then b else a

/-- Division rounded to the nearest integer, halves away from zero (DESIGN CHOICE, assumption 107: R50's `round` leaves a tie open). -/
def roundDiv (a : Int) (n : Nat) : Int :=
  if 0 ≤ a then ((a * 2 + n) / (2 * n) : Int) else -(((-a) * 2 + n) / (2 * n) : Int)

/-- Division of naturals rounded up. -/
def ceilDiv (a n : Nat) : Nat := (a + n - 1) / n

/-- `n` bytes of a number, least significant first (R8, structures shared with software). -/
def leBytes (v : Nat) : Nat → Bytes
  | 0 => []
  | n + 1 => BitVec.ofNat 8 v :: leBytes (v / 256) n

/-- `n` bytes of a number, most significant first (R8, wire and hashed formats). -/
def beBytes (v n : Nat) : Bytes := (leBytes v n).reverse

/-- The number a little-endian string of bytes spells. -/
def leNat : Bytes → Nat
  | [] => 0
  | b :: t => b.toNat + 256 * leNat t

/-- The number a big-endian string of bytes spells. -/
def beNat (b : Bytes) : Nat := leNat b.reverse

/-- Bytes `i` to `i + n - 1` of a string, bytes beyond its end reading as zero. -/
def sliceB (b : Bytes) (i n : Nat) : Bytes := ((b.drop i).take n) ++ List.replicate (n - ((b.drop i).take n).length) 0

/-- The little-endian number in bytes `i` to `i + n - 1`. -/
def leAt (b : Bytes) (i n : Nat) : Nat := leNat (sliceB b i n)

/-- The big-endian number in bytes `i` to `i + n - 1`. -/
def beAt (b : Bytes) (i n : Nat) : Nat := beNat (sliceB b i n)

/-- Replace bytes from `i` on by `v`, the string keeping its length. -/
def pasteB (b : Bytes) (i : Nat) (v : Bytes) : Bytes := (b.take i ++ v ++ b.drop (i + v.length)).take b.length

/-- Bit `i` of a number. -/
def bitOf (v i : Nat) : Bool := (v >>> i) % 2 == 1

/-- Bits `[hi:lo]` of a number. -/
def bitsOf (v hi lo : Nat) : Nat := (v >>> lo) % 2 ^ (hi + 1 - lo)

/-! ### Linear time -/

/-- The Crest's linear time (R36, R41). -/
def State.lt (s : State) : BitVec 64 := BitVec.ofNat 64 (s.crest.acc.toNat >>> 16)

/-- Elapsed time since the counter started, in LT units. -/
def State.elapsed (s : State) : Nat := s.crest.acc.toNat >>> 16

/-- The number of a replica in `Crest.reps`. -/
def replicaKey : Replica → Nat
  | .ridge r => r.val
  | .control k => 16 + k.val
  | .ppc => 24
  | .hic => 25
  | .mic ch => 32 + ch.val
  | .octet o => 64 + o.val

/-- A replica's departure from the Crest: what its own clock and the loop's correction have added since the last comparison, so that it
moves by rate only (R28, R43). -/
def State.repErr (s : State) (r : Replica) : Int :=
  let p := SMap.getD s.crest.reps (replicaKey r) {}
  p.err + (p.clock + 1000 * p.rate) * ((s.elapsed - p.at_ : Nat) : Int) / 1000000000

/-- The linear time a replica holds (R43). -/
def State.repLt (s : State) (r : Replica) : BitVec 64 := s.lt + BitVec.ofInt 64 (s.repErr r)

/-- The elapsed count of an LT, which lies less than 2⁴⁷ ns from now (R37). -/
def State.instantOf (s : State) (t : BitVec 64) : Int := (s.elapsed : Int) + ltDiff t s.lt

/-- The index of the current epoch: epoch beginnings since the counter started (R38). -/
def State.epoch (s : State) : Nat := s.crest.acc.toNat >>> 52

/-- Does an arm's target meet the instant condition of R222: at least 1 µs (none with the lead waived, R224, R431) and less than 2⁴⁶ ns
ahead? -/
def State.armTime (s : State) (t : BitVec 64) (lead : Bool) : Bool :=
  decide ((if lead then 65536000 else 0) ≤ ltDiff t s.lt) && decide (ltDiff t s.lt < 2 ^ 62)

/-- The LT at which the current epoch began. -/
def State.epochStart (s : State) : BitVec 64 := BitVec.ofNat 64 ((s.epoch) <<< 36)

/-- Short time (R39). -/
def State.shortTime (s : State) : BitVec 16 := BitVec.ofNat 16 s.epoch

/-- The size of the FT range in LT units (R45). -/
def ftRange : Nat := 2 ^ 48 * unitsPerSec

/-- The FT count of an LT of the current or the previous epoch, by the mapping of its epoch (R45, R47). -/
def State.ftOf (s : State) (t : BitVec 64) : Nat :=
  let d := ltDiff t s.epochStart
  if 0 ≤ d then (s.crest.map + d.toNat) % ftRange
  else (s.crest.mapPrev + (d + epochUnits).toNat) % ftRange

/-- Serialised full time: seconds, nanoseconds and fraction, big-endian, 12 bytes (R40). -/
def ftBytes (ft : Nat) : Bytes :=
  beBytes (ft / unitsPerSec) 6 ++ beBytes (ft / 65536 % 1000000000) 4 ++ beBytes (ft % 65536) 2

/-! ### Blocks, references and incarnations -/

/-- The domain code of each kind of block (R21). -/
def BlkKind.dom : BlkKind → Nat
  | .timeBase | .capture | .trigger => 0
  | .port | .octet => 1
  | .table | .mcGroup | .contract => 2
  | .core | .group | .ridge | .control => 3
  | .queue | .colList => 4
  | .lane => 5
  | .window | .workQueue => 6
  | .cipher | .key => 7
  | .hash => 8
  | .function | .ring => 9
  | .jq => 10
  | .memCh => 11

/-- The kind code within the domain (R21). -/
def BlkKind.code : BlkKind → Nat
  | .timeBase | .port | .table | .core | .queue | .lane | .window | .cipher | .hash | .function | .jq | .memCh => 1
  | .capture | .octet | .mcGroup | .group | .colList | .workQueue | .key | .ring => 2
  | .trigger | .contract | .ridge => 3
  | .control => 4

/-- How many blocks a kind has (R21). -/
def BlkKind.count : BlkKind → Nat
  | .timeBase | .cipher | .hash => 1
  | .capture | .trigger => 5
  | .port | .table | .core | .colList => 256
  | .octet => 32
  | .mcGroup | .contract | .key => 65536
  | .group | .queue | .workQueue => 4096
  | .ridge | .lane => 16
  | .control | .memCh => 8
  | .window => 1048576
  | .function => 129
  | .ring => 16384
  | .jq => 64

/-- The kind that a domain code and a kind code name (R21). -/
def blkKindOf (dom code : Nat) : Option BlkKind :=
  [BlkKind.timeBase, .capture, .trigger, .port, .octet, .table, .mcGroup, .contract, .core, .group, .ridge, .control, .queue,
   .colList, .lane, .window, .workQueue, .cipher, .key, .hash, .function, .ring, .jq, .memCh].find?
    (fun k => k.dom == dom && k.code == code)

/-- The block a reference names, if any (R20, R21); bits [31:16] of the reference are not looked at (DESIGN CHOICE, assumption 108). -/
def refBlk (ref : BitVec 64) : Option Blk :=
  match blkKindOf (bitsOf ref.toNat 63 60) (bitsOf ref.toNat 59 52) with
  | none => none
  | some k => if bitsOf ref.toNat 51 32 < k.count then some ⟨k, bitsOf ref.toNat 51 32⟩ else none

/-- The incarnation a reference carries (R20). -/
def refInc (ref : BitVec 64) : Nat := bitsOf ref.toNat 15 0

/-- The register field that shows a block's incarnation, where one does. -/
def BlkKind.incFld : BlkKind → Option Fld
  | .port => some .portStaInc
  | .table => some .ingTblStaInc
  | .contract => some .ingConStaInc
  | .core => some .spurCoreStaInc
  | .group => some .spurGrpStaInc
  | .ridge => some .spurRidgeStaInc
  | .control => some .spurCcStaInc
  | .queue => some .tmQStaInc
  | .colList => some .colStaInc
  | .lane => some .ledLaneStaInc
  | .cipher => some .ciphStaInc
  | .function => some .hostFnStaInc
  | .ring => some .ringStaInc
  | .jq => some .jrnQStaInc
  | .memCh => some .memChStaInc
  | _ => none

/-- Key of a block in `State.incs` and `State.blkSt`. -/
def Blk.key (b : Blk) : Nat := b.ix * 32 + b.kind.ctorIdx

/-- A block's current incarnation (R22). -/
def State.blkInc (s : State) (b : Blk) : Nat :=
  match b.kind.incFld with
  | some f => s.get f b.ix
  | none => (SMap.getD s.incs b.key 0).toNat

/-- Store a block's incarnation. -/
def State.setBlkInc (s : State) (b : Blk) (v : Nat) : State :=
  match b.kind.incFld with
  | some f => s.set f b.ix v
  | none => { s with incs := SMap.setD s.incs b.key (BitVec.ofNat 16 v) 0 }

/-- A block's state as SYS_BLK_QUERY_RES codes it: 1 disabled, 2 enabled, 3 asleep, 4 in repair or sparing (R26). -/
def State.blkState (s : State) (b : Blk) : Nat := SMap.getD s.blkSt b.key 1

/-- Put a block into a state. -/
def State.setBlkState (s : State) (b : Blk) (v : Nat) : State := { s with blkSt := SMap.setD s.blkSt b.key v 1 }

/-- The reference of a block under its current incarnation (R20). -/
def State.refOf (s : State) (b : Blk) : BitVec 64 :=
  BitVec.ofNat 64 (b.kind.dom <<< 60 ||| b.kind.code <<< 52 ||| b.ix <<< 32 ||| s.blkInc b)

/-- Is a reference current: it names a block and carries its incarnation, which is not 0 (R23)? -/
def State.refCurrent (s : State) (ref : BitVec 64) : Bool :=
  match refBlk ref with
  | none => false
  | some b => refInc ref == s.blkInc b && refInc ref != 0

/-- The incarnation that follows (R22). -/
def incNext (i : Nat) : Nat := if i = 0xFFFF then 1 else i + 1

/-! ### What leaves the block -/

/-- Send something out. -/
def State.emit (s : State) (o : Output) : State := { s with out := s.out ++ [o] }

/-- The k-th free value from now (assumption 2). -/
def State.free (s : State) (k : Nat := 0) : BitVec 64 := Config.freeWord (s.freeCtr + k)

/-- Mark `n` free values as used. -/
def State.useFree (s : State) (n : Nat := 1) : State := { s with freeCtr := s.freeCtr + n }

/-! ### Cairn records -/

/-- Hand a Cairn record to the front end: its code, the block it names, and its data bytes (R459, R463). -/
def State.cairnRec (s : State) (code : CairnCode) (b : Option Blk) (data : Bytes) : State :=
  { s with cairn := { s.cairn with raised := s.cairn.raised ++
      [{ code := code, blk := b.map s.refOf, lt := if s.crest.running then some s.lt else none, data := sliceB data 0 32 }] } }

/-! ### Grants (R354-R356) -/

/-- Is `i` in a range of `n` from `f` on? -/
def inRange (i f n : Nat) : Bool := decide (f ≤ i) && decide (i < f + n)

/-- Does a grant hold a block? -/
def Grant.holds (g : Grant) (b : Blk) : Bool :=
  match b.kind with
  | .ring => inRange b.ix g.ringFirst g.ringCount
  | .group => inRange b.ix g.groupFirst g.groupCount
  | .table => inRange b.ix g.tableFirst g.tableCount
  | .mcGroup => inRange b.ix g.mcFirst g.mcCount
  | .window => inRange b.ix g.winFirst g.winCount
  | .workQueue => inRange b.ix g.wqFirst g.wqCount
  | .key => inRange b.ix g.keyFirst g.keyCount
  | _ => false

/-- The function that owns a block: the tenant whose grant holds it, else PF0 (R355). -/
def State.ownerOf (s : State) (b : Blk) : Nat :=
  match s.ten.tenants.find? (fun t => t.2.grant.holds b) with
  | some t => t.1
  | none => 0

/-! ### Interrupts and mailboxes -/

/-- Is the boot output gate open (R397)? -/
def State.gateOpen (s : State) : Bool := s.is .secBootStaGate

/-- A function's configuration space beyond its registers. -/
def State.pciFn (s : State) (f : Nat) : PciFn := SMap.getD s.host.pci f {}

/-- Store a function's configuration space. -/
def State.setPci (s : State) (f : Nat) (p : PciFn) : State := { s with host := { s.host with pci := SMap.setD s.host.pci f p {} } }

/-- May function `f` send to the host: attached, in D0, its bus master enable set, no containment, the output gate open (R310, R322, R326,
R328)? -/
def State.fnSends (s : State) (f : Nat) : Bool :=
  s.get .hostFnStaState f == 1 && s.is .hostFnStaBme f && !s.is .hostContainStaContained && s.gateOpen && !(s.pciFn f).d3

/-- May function `f` answer requests to its memory: attached, in D0, no containment, and the gate open but for PF0 while the boot waits
for a bundle (R310, R326, R328, R397)? -/
def State.memReach (s : State) (f : Nat) : Bool :=
  s.get .hostFnStaState f == 1 && !s.is .hostContainStaContained && (s.gateOpen || (f == 0 && s.get .secBootStaBundle == 2)) &&
  !(s.pciFn f).d3

/-- Does the containment page answer: PF0 attached, in D0, and containment (R326)? -/
def State.containReach (s : State) : Bool :=
  s.get .hostFnStaState 0 == 1 && s.is .hostContainStaContained && !(s.pciFn 0).d3

/-- May software reach the recovery window: Recovery Hold, with PF0 attached, in D0, and no containment (R328, R407)? -/
def State.recovOpen (s : State) : Bool :=
  s.get .secBootStaStage == 6 && s.get .hostFnStaState == 1 && !s.is .hostContainStaContained && !(s.pciFn 0).d3

/-- Are configuration requests answered without Retry Status: at once with INDEP high, else from the first of the gate's opening, a bundle's
wait, Recovery Hold and 900 ms from power-good (R319)? -/
def State.cfgReady (s : State) : Bool :=
  s.is .sysRstStaIndep || s.gateOpen || s.get .secBootStaBundle == 2 || s.get .secBootStaStage == 6 ||
  (s.crest.running && decide (869000000 * unitsPerNs ≤ s.elapsed))

/-- An attached function's AER logs errors by their bits: uncorrectable ones, and correctable ones (R324, R325; the bits are PRESUMED,
assumption 55). -/
def State.aerLog (s : State) (f uncor cor : Nat) : State :=
  if s.get .hostFnStaState f = 0 then s
  else s.setPci f { s.pciFn f with uncor := (s.pciFn f).uncor ||| uncor, cor := (s.pciFn f).cor ||| cor }

/-- A request to function `f` completes as Unsupported Request, or is discarded: counted, and logged as an advisory non-fatal error
(R324). -/
def State.ur (s : State) (f : Nat) : State := (s.bump .hostFnUrCntRequests f).aerLog f (2 ^ 20) (2 ^ 13)

/-- A tenant's state code (R361). -/
def State.tenState (s : State) (v : Nat) : Nat := s.get .hostTenStaState v

/-- Is the owner function's work stopped: a tenant FREEZING or FROZEN, or being removed after that (R362)? -/
def State.frozenFn (s : State) (f : Nat) : Bool :=
  1 ≤ f && f ≤ 127 && (s.tenState f == 2 || s.tenState f == 3 ||
    (s.tenState f == 5 && (SMap.find s.ten.tenants f).any (fun t => t.frozen)))

/-- Is a tenant's mailbox answered BUSY: its work is stopped, or it is being removed (R362, R368)? -/
def State.boxBusy (s : State) (f : Nat) : Bool := s.frozenFn f || (1 ≤ f && f ≤ 127 && s.tenState f == 5)

/-- Key of an MSI-X vector. -/
def vecKey (f vec : Nat) : Nat := f * 4096 + vec

/-- May a vector's message be sent now (R313, R362)? -/
def State.vecOpen (s : State) (f vec : Nat) : Bool :=
  s.fnSends f && s.is .hostFnStaMsix f && !s.frozenFn f && (SMap.find s.host.fnMask f).isNone &&
  (SMap.find s.host.unmasked (vecKey f vec)).isSome

/-- A dword of an MSI-X table entry: 0 and 1 its message address, 2 its message data. -/
def State.msixDword (s : State) (f vec d : Nat) : BitVec 32 := SMap.getD s.host.msix (vecKey f vec * 4 + d) 0

/-- The message of an MSI-X vector, as its table entry has it (R313). -/
def State.msixMsg (s : State) (f vec : Nat) : Output :=
  .msix f vec ((s.msixDword f vec 1).toNat * 2 ^ 32 + (s.msixDword f vec 0).toNat) (s.msixDword f vec 2)

/-- Send the message of an MSI-X vector: one message for its pending bit. -/
def State.sendVec (s : State) (f vec : Nat) : State :=
  { s with host := { s.host with pba := SMap.put s.host.pba (vecKey f vec) none } }.emit (s.msixMsg f vec)

/-- Signal MSI-X vector `vec` of function `f`: its message is sent, or its pending bit set (R313). -/
def State.signal (s : State) (f vec : Nat) : State :=
  if s.vecOpen f vec then s.sendVec f vec
  else { s with host := { s.host with pba := SMap.put s.host.pba (vecKey f vec) (some ()) } }

/-- A function's mailbox. -/
def State.box (s : State) (f : Nat) : Mailbox := SMap.getD s.ten.boxes f {}

/-- Store a mailbox. -/
def State.setBox (s : State) (f : Nat) (b : Mailbox) : State :=
  { s with ten := { s.ten with boxes := SMap.setD s.ten.boxes f b {} } }

/-- Answer the pending request of a mailbox, if it still has one: the reply area, then the reply sequence, then vector 0 (R358). -/
def State.reply (s : State) (f cmd status detail : Nat) (body : Bytes) : State :=
  let b := s.box f
  if !b.pending then s else
  let area := leBytes cmd 2 ++ leBytes status 1 ++ leBytes detail 1 ++ leBytes body.length 4 ++ body
  let s := s.setBox f { b with replied := b.accepted, pending := false, reply := area }
  (s.emit (.mbx f b.accepted cmd status detail body)).signal f 0

/-- A mailbox submission (R358): unanswered where `f` answers no memory request; accepted only in sequence with none pending, else counted; a frozen tenant's request, or one's that is being removed, is
answered BUSY (R362, R368), a manager-only command of another function DENIED (R359); otherwise `h` handles it. -/
def State.submit (s : State) (f : Nat) (seq : BitVec 32) (cmd : Nat) (mgr : Bool) (h : State → State) : State :=
  let b := s.box f
  if !s.memReach f then s.ur f
  else if f = 128 || b.pending || seq != b.replied + 1 then s.bump .hostFnMbxIgnIgnored f
  else
    let s := s.setBox f { b with accepted := seq, pending := true, cmd := cmd }
    if s.boxBusy f then s.reply f cmd 3 0 []
    else if mgr && f != 0 then s.reply f cmd 2 0 []
    else h s

/-! ### Service of blocks -/

/-- Write the incarnation 1 of a block's first enable into every loaded claim that carries 0 for it (R187). -/
def State.patchClaims (s : State) (b : Blk) : State :=
  { s with spur := { s.spur with images := s.spur.images.map (fun e =>
      (e.1, { e.2 with claims := e.2.claims.map (fun c =>
        if c.ty ≤ 6 && decide (refBlk c.data = some b) && refInc c.data == 0 then { c with data := c.data ||| 1#64 } else c) })) } }

/-- The 8 bytes at `i` of a fetched entry with the incarnation of a reference to `b` taken out, which makes it stale for good (R23). -/
def dropRef (b : Blk) (e : Bytes) (i : Nat) : Bytes :=
  if decide (refBlk (BitVec.ofNat 64 (leAt e i 8)) = some b) then pasteB e i [0, 0] else e

/-- A fetched entry of a ring of kind `k` without its references to a block: a table command's target and port, and the ring of a window
record of target 3 (R122, R267). -/
def dropEntryRefs (b : Blk) (k : Nat) (e : Bytes) : Bytes :=
  if k = 4 then
    let e := dropRef b e 8
    if leAt e 0 2 = 5 then dropRef b e 32 else e
  else if k = 5 ∧ 0x10 ≤ leAt e 0 2 ∧ leAt e 40 1 = 3 then dropRef b e 24
  else e

/-- Remove every reference to a block held in device state before it returns under a wrapped incarnation (R24): port-typed table
entries and learns of a port, cursors of a table and lookups under way in it, windows and work queues that name a ring, cipher messages
that name a key, fetched ring entries, claims of loaded images, and compare units' references. -/
def State.purgeRefs (s : State) (b : Blk) : State :=
  let s : State := { s with spur := { s.spur with images := s.spur.images.map (fun e =>
      (e.1, { e.2 with claims := e.2.claims.map (fun c =>
        if c.ty ≤ 6 && decide (refBlk c.data = some b) then { c with data := c.data &&& ~~~0xFFFF#64 } else c) })) } }
  let s := (List.range 64).foldl (fun s k =>
      if decide (refBlk (s.reg .crestCmpRef k) = some b) then s.setReg .crestCmpRef k 0 else s) s
  let s : State := { s with rings := s.rings.map (fun r =>
      (r.1, { r.2 with cache := r.2.cache.map (dropEntryRefs b (s.get .ringCfgKind r.1)) })) }
  if b.kind = .port then
    let tables := s.ing.tables.map (fun t =>
      (t.1, t.2.filter (fun e => !(e.2.portTyped && bitsOf e.2.result.toNat 8 0 == b.ix))))
    { s with ing := { s.ing with tables := tables, learns := s.ing.learns.filter (fun l => l.port != b.ix) } }
  else if b.kind = .table then
    let threads := s.spur.threads.map (fun t =>
      (t.1, { t.2 with slots := t.2.slots.map (fun l => (l.1, if l.2.table = b.ix then { l.2 with inc := 0 } else l.2)) }))
    { s with ing := { s.ing with cursors := s.ing.cursors.filter (fun c => c.2.table != b.ix) },
             spur := { s.spur with threads := threads } }
  else if b.kind = .key then
    { s with ciph := { s.ciph with jobs := s.ciph.jobs.map (fun j => if j.keyIx = b.ix then { j with keyInc := 0 } else j) } }
  else if b.kind = .ring then
    let wins := s.zoa.wins.map (fun w =>
      (w.1, if w.2.target = 3 && decide (refBlk (BitVec.ofNat 64 w.2.base) = some b) then { w.2 with base := 0 } else w.2))
    let wqs := s.zoa.wqs.map (fun q => (q.1, if decide (refBlk q.2.nq = some b) then { q.2 with nq := 0 } else q.2))
    { s with zoa := { s.zoa with wins := wins, wqs := wqs } }
  else s

/-- A block takes the next incarnation (R22); on a wrap every reference to it is removed first and a record written (R24). -/
def State.renewInc (s : State) (b : Blk) : State :=
  let i := s.blkInc b
  (if i = 0xFFFF then (s.purgeRefs b).cairnRec .incWrap (some b) [] else s).setBlkInc b (incNext i)

/-- A block enters or returns to service: its incarnation advances (R22), on a wrap its references are removed and a record
written (R24), and at its first enable the loaded claims take incarnation 1 (R187, R519). -/
def State.enterService (s : State) (b : Blk) : State :=
  let i := s.blkInc b
  let s := (s.renewInc b).setBlkState b 2
  if i = 0 then s.patchClaims b else s

/-- A block leaves service by disable (R457). -/
def State.leaveService (s : State) (b : Blk) : State :=
  { s.setBlkState b 1 with offAt := SMap.setD s.offAt b.key s.elapsed 0 }

/-! ### Ignored writes -/

/-- Count an ignored write in a domain's own counter (R418). -/
def State.ignDomain (s : State) (d : Nat) : State :=
  if d = 2 then s.bump .ingIgnCntIgnored
  else if d = 9 then s.bump .hostIgnCntIgnored
  else if d = 10 then s.bump .jrnIgnIgnored
  else s.bump .sysIgnCntIgnored d

end Sys2Proof.Machine
end

