-- ==== Sys2Proof/Machine/CrestOps.lean ====
section
/-! DEFINITION. The Crest's shared operations: the error bound and the time-quality word, the mapping and its step, the bank
swap, and the Crest's part of an epoch beginning. -/

namespace Sys2Proof.Machine

/-- The active servo bank (R53). -/
def State.srvBank (s : State) : Nat := s.get .crestSrvStaActiveBank

/-- The code of a servo state (R51). -/
def ServoState.code : ServoState → Nat
  | .free => 0
  | .acquire => 1
  | .locked => 2
  | .holdover => 3

/-- The full error bound now, in 0.25 ns (R57). -/
def State.ebLive (s : State) : Nat :=
  match s.crest.state with
  | .free => 0xFFFFFFFF
  | .acquire | .locked =>
    min 0xFFFFFFFE (s.get .crestTqCfgEbBase s.srvBank + ceilDiv (s.crest.thetas.foldl max 0) 16384)
  | .holdover =>
    min 0xFFFFFFFE (s.crest.holdEb +
      ceilDiv (s.get .crestTqCfgHoldDrift s.srvBank * (s.elapsed - s.crest.holdAt)) (1000000000 * 16384))

/-- Is a stamp calibration stale or a stamp replica out of limit (R55, R44, R88)? -/
def State.calStale (s : State) : Bool :=
  !s.crest.replicaOut.isEmpty || (List.range 256).any (fun l => s.is .portCalStaStale l)

/-- Is the warning status of a rail of groups 1 to 3 set (R477, R478)? -/
def State.supplyWarn (s : State) : Bool := s.get .sysSupplyStaWarn % 256 != 0

/-- The ref_lost flag (R55). -/
def State.refLost (s : State) : Bool := s.crest.srvLost || s.crest.refLost

/-- The live time-quality word (R55). -/
def State.tqwLive (s : State) : Nat :=
  s.crest.state.code <<< 28 ||| s.get .crestTqCfgHops s.srvBank <<< 24 ||| min 0xFFFF s.ebLive <<< 8 |||
  bit s.crest.orStepped ||| bit (s.crest.state == .holdover) <<< 1 ||| bit s.supplyWarn <<< 2 |||
  bit s.calStale <<< 3 ||| bit s.refLost <<< 4

/-- Fold the live bound and flags into what the current epoch reports (R56). -/
def State.noteTqw (s : State) : State :=
  { s with crest := { s.crest with
      ebMax := max s.crest.ebMax s.ebLive,
      orHoldover := s.crest.orHoldover || s.crest.state == .holdover,
      orSupply := s.crest.orSupply || s.supplyWarn,
      orCal := s.crest.orCal || s.calStale,
      orRef := s.crest.orRef || s.refLost } }

/-- The time-quality word of an epoch as it closes (R56). -/
def State.tqwClose (s : State) : Nat :=
  s.crest.state.code <<< 28 ||| s.get .crestTqCfgHops s.srvBank <<< 24 ||| min 0xFFFF s.crest.ebMax <<< 8 |||
  bit s.crest.orStepped ||| bit s.crest.orHoldover <<< 1 ||| bit s.crest.orSupply <<< 2 |||
  bit s.crest.orCal <<< 3 ||| bit s.crest.orRef <<< 4

/-- Move a state of the servo, its addend in FREE and HOLDOVER following R50. -/
def State.holdAddend (s : State) : State :=
  match s.crest.state with
  | .free => { s with crest := { s.crest with addend := BitVec.ofNat 48 (s.get .crestNomNom s.srvBank) } }
  | .holdover =>
    let a := BitVec.ofInt 48 (s.get .crestNomNom s.srvBank - roundDiv s.crest.integ 1000000000)
    { s with crest := { s.crest with addend := a } }
  | _ => s

/-- The seven registers of a servo bank (R53). -/
def crestBankRegs : List RegName :=
  [.crestSrvCfg, .crestGainAcq, .crestGainLck, .crestSrvLim, .crestSrvThr, .crestTqCfg, .crestNom]

/-- Copy instance `a` of some registers over instance `b` (R432). -/
def State.copyRegs (s : State) (rs : List RegName) (a b : Nat) : State :=
  rs.foldl (fun s r => s.setReg r b (s.reg r a)) s

/-- Is forerunner register behaviour in force (R428)? -/
def State.forerunner (s : State) : Bool := s.is .sysModeKwRegs

/-- A write to CREST_BANK_SWAP: a swap becomes pending for the next epoch beginning (R53). -/
def State.armBankSwap (s : State) : State := s.set .crestSrvStaSwapPending 0 1

/-- A pending servo bank swap takes effect (R53, R51 last row, R432). -/
def State.bankSwapEffect (s : State) : State :=
  if s.is .crestSrvStaSwapPending then
    let old := s.srvBank
    let s := (s.set .crestSrvStaActiveBank 0 (1 - old)).set .crestSrvStaSwapPending 0 0
    let s := if s.forerunner then s.copyRegs crestBankRegs s.srvBank old else s
    let s := if s.get .crestSrvCfgSrc s.srvBank = 0 then
        { s with crest := { s.crest with state := .free, integ := 0, srvLost := false, run := 0 } } else s
    s.holdAddend
  else s

/-- The PTP engine sets hops and eb_base by a swap of the servo banks (R59).  Every other register of the inactive bank takes the
active bank's value, so that the swap changes those two fields alone (DESIGN CHOICE, assumption 111).  While a swap is pending the
inactive bank takes no write (R425), and the engine waits for its effect. -/
def State.ptpBank (s : State) (hops : Nat) (eb : Option Nat) : State :=
  if s.is .crestSrvStaSwapPending then { s with ptp := { s.ptp with want := some (hops, eb) } }
  else
    let b := s.srvBank
    let s := { s with ptp := { s.ptp with want := none } }.copyRegs crestBankRegs b (1 - b)
    let s := s.set .crestTqCfgHops (1 - b) (min 15 hops)
    let s := match eb with
      | some e => s.set .crestTqCfgEbBase (1 - b) (min 65535 (e + 2))
      | none => s
    s.armBankSwap

/-- What the PTP engine waited to set is set once the pending swap has taken effect. -/
def State.ptpWish (s : State) : State :=
  match s.ptp.want with
  | some w => s.ptpBank w.1 w.2
  | none => s

/-- The mapping advances at an epoch beginning; a pending step moves it by −θ (R45, R52). -/
def State.mapEpoch (s : State) : State :=
  let prev := s.crest.map
  match s.crest.step with
  | none => { s with crest := { s.crest with mapPrev := prev, map := (prev + epochUnits) % ftRange, orStepped := false } }
  | some th =>
    let m := (((prev + epochUnits : Nat) : Int) - th) % (ftRange : Int)
    let s := { s with crest := { s.crest with mapPrev := prev, map := m.toNat, orStepped := true, step := none,
                                              stepAt := some (s.epoch * epochUnits) } }
    let s := (s.bump .crestStepCntSteps).set .crestSrvStaStepPending 0 0
    s.cairnRec .crestStep (some ⟨.timeBase, 0⟩) (leBytes (BitVec.ofInt 64 th).toNat 8 ++ leBytes s.epoch 8)

/-- The Crest's part of an epoch beginning: the closed epoch's word and bound are fixed (R56, R57), the mapping advances, a
pending step and a pending bank swap take effect (R45, R52, R53), and the new epoch's word starts. -/
def State.crestEpoch (s : State) : State :=
  let s := ((s.set .crestTqwTqwEpoch 0 s.tqwClose).set .crestEbFullEbEpoch 0 s.crest.ebMax).mapEpoch
  let s := s.bankSwapEffect
  let s := s.ptpWish
  let s := { s with crest := { s.crest with ebMax := 0, orHoldover := false, orSupply := false, orCal := false, orRef := false } }
  s.noteTqw

end Sys2Proof.Machine
end

