-- ==== Sys2Proof/Machine/Parser.lean ====
section
/-! DEFINITION. The parser of the receive path: VLAN tags, L3 and L4 headers, and the five anchors (R98). -/

namespace Sys2Proof.Machine

/-- The EtherType's offset after up to `n` VLAN tags. -/
def typeOffset (b : Bytes) : Nat → Nat → Nat
  | 0, o => o
  | n + 1, o => if beAt b o 2 = 0x8100 ∨ beAt b o 2 = 0x88A8 then typeOffset b n (o + 4) else o

/-- The L4 protocol and offset after up to `n` IPv6 extension headers: hop-by-hop, routing, fragment and destination options
(PRESUMED, assumption 24). -/
def afterExt (b : Bytes) : Nat → Nat → Nat → Nat × Nat
  | 0, p, o => (p, o)
  | n + 1, p, o =>
    if p = 44 then afterExt b n (beAt b o 1) (o + 8)
    else if p = 0 ∨ p = 43 ∨ p = 60 then afterExt b n (beAt b o 1) (o + 8 + 8 * beAt b (o + 1) 1)
    else (p, o)

/-- The L4 protocol and offset of an L3 header at `o`, if one is recognised within `lim` bytes. -/
def l3Next (b : Bytes) (lim et o : Nat) : Option (Nat × Nat) :=
  if et = 0x0800 then
    let h := 4 * (beAt b o 1 % 16)
    if beAt b o 1 / 16 = 4 ∧ 20 ≤ h ∧ o + h ≤ lim then some (beAt b (o + 9) 1, o + h) else none
  else if et = 0x86DD then
    if beAt b o 1 / 16 = 6 ∧ o + 40 ≤ lim then some (afterExt b 2 (beAt b (o + 6) 1) (o + 40)) else none
  else none

/-- The five anchors: frame start, EtherType, L3, L4, L4 payload (R98). -/
def anchorsOf (b : Bytes) : List (Option Nat) :=
  let lim := min 256 b.length
  let o := typeOffset b 2 12
  if lim < o + 2 then [some 0, none, none, none, none]
  else
    let et := beAt b o 2
    if et = 0x88F7 then [some 0, some o, none, none, if o + 2 < lim then some (o + 2) else none]
    else match l3Next b lim et (o + 2) with
      | none => [some 0, some o, none, none, none]
      | some (p, l4) =>
        let hl := if p = 17 then 8 else if p = 6 then 4 * (beAt b (l4 + 12) 1 / 16) else 0
        if (p = 17 ∨ (p = 6 ∧ 20 ≤ hl)) ∧ l4 + hl ≤ lim then
          [some 0, some o, some (o + 2), some l4, if l4 + hl < lim then some (l4 + hl) else none]
        else [some 0, some o, some (o + 2), none, none]

end Sys2Proof.Machine
end

