-- ==== Sys2Proof/Machine/PortOps.lean ====
section
/-! DEFINITION. Shared operations of ports and frames: port modes and their fixed terms, lane calibration, frames in the device,
their dispositions, and the two-step stamp queues. -/

namespace Sys2Proof.Machine

/-! ### Port modes (R69, R73) -/

/-- Lanes of a port mode. -/
def modeLanes (m : Nat) : Nat := [1, 1, 1, 2, 4, 4, 8].getD m 1

/-- Data rate of a port mode in Gb/s. -/
def modeRate (m : Nat) : Nat := [10, 25, 50, 100, 100, 200, 400].getD m 25

/-- The lane rate class of a port mode: 0 for 10.3125, 1 for 25.78125, 2 for 53.125 Gb/s. -/
def modeClass (m : Nat) : Nat := [0, 1, 2, 2, 1, 2, 2].getD m 1

/-- The combinations of mode and FEC code that R69 lists, with their port ingress and egress terms in ns (R73). -/
def modeTerms : List (Nat × Nat × Nat × Nat) :=
  [(0, 0, 24, 20), (0, 1, 237, 24), (1, 0, 16, 16), (1, 1, 106, 20), (1, 2, 241, 28), (2, 3, 143, 30), (3, 3, 156, 34),
   (4, 0, 80, 20), (4, 2, 152, 32), (5, 3, 156, 34), (6, 3, 130, 34)]

/-- Does R69 list this combination (R71)? -/
def modeFecListed (m f : Nat) : Bool := modeTerms.any (fun t => t.1 == m && t.2.1 == f)

/-- The terms of a combination. -/
def modeFecTerms (m f : Nat) : Nat × Nat :=
  match modeTerms.find? (fun t => t.1 == m && t.2.1 == f) with
  | some t => t.2.2
  | none => (0, 0)

/-- A port's mode code. -/
def State.portMode (s : State) (n : Nat) : Nat := s.get .portCfgMode n
/-- A port's data rate in Gb/s. -/
def State.portRate (s : State) (n : Nat) : Nat := modeRate (s.portMode n)
/-- The port ingress term in ns (R73). -/
def State.portIn (s : State) (n : Nat) : Nat := (modeFecTerms (s.portMode n) (s.get .portCfgFec n)).1
/-- The port egress term in ns (R73). -/
def State.portOut (s : State) (n : Nat) : Nat := (modeFecTerms (s.portMode n) (s.get .portCfgFec n)).2
/-- Is a port enabled? -/
def State.portOn (s : State) (n : Nat) : Bool := s.is .portCtlEn n
/-- The number of lanes of a port. -/
def State.portLanes (s : State) (n : Nat) : Nat := modeLanes (s.portMode n)
/-- The depth of the key profile a port selects (R96). -/
def State.portDepth (s : State) (n : Nat) : Nat := s.get .ingProfCfgDepth (s.get .ingPortCfgProf n)
/-- The parse term of a port in ns (R96). -/
def State.portParse (s : State) (n : Nat) : Nat := ceilDiv (8 * s.portDepth n) (s.portRate n) + 16
/-- Transmission time of wire length `w` on a port, ns (R216). -/
def State.txTime (s : State) (n w : Nat) : Nat :=
  ceilDiv (8 * w) (s.portRate n) + [0, 2, 6, 6].getD (s.get .portCfgFec n) 0
/-- The rate-match hold in ns for a largest frame `l` from port `i` to port `o` (R76). -/
def State.holdNs (s : State) (i o l : Nat) : Nat :=
  let ri := s.portRate i
  let ro := s.portRate o
  if ro ≤ ri then 0 else ceilDiv (8 * l * (ro - ri)) (ri * ro)

/-- May port `n` be enabled: its lanes start at a multiple of their number, overlap no enabled port, and keep the lane-pair rule
(R70); its key profile is deep enough (R97)? -/
def State.portEnableOk (s : State) (n : Nat) : Bool :=
  let k := s.portLanes n
  let cls := modeClass (s.portMode n)
  n % k == 0 &&
  (List.range 256).all (fun m => m == n || !s.portOn m ||
    ((m + s.portLanes m ≤ n || n + k ≤ m) &&
     ((modeClass (s.portMode m) == cls) || (m + s.portLanes m - 1) / 2 < n / 2 || (n + k - 1) / 2 < m / 2))) &&
  (8 * 63 ≤ (ceilDiv (8 * s.portDepth n) (s.portRate n) + 10) * s.portRate n)

/-! ### Lane calibration (R86, R88) -/

/-- A lane's calibration. -/
def State.lane (s : State) (l : Nat) : LaneCal := SMap.getD s.ports.lanes l {}

/-- Store a lane's calibration. -/
def State.setLane (s : State) (l : Nat) (c : LaneCal) : State :=
  { s with ports := { s.ports with lanes := SMap.setD s.ports.lanes l c {} } }

/-- The package parts of a lane of port `n`, for the port's lane mode and FEC (R86). -/
def State.packRx (s : State) (n l : Nat) : BitVec 32 := Config.fusedRx l (modeClass (s.portMode n)) (s.get .portCfgFec n)
def State.packTx (s : State) (n l : Nat) : BitVec 32 := Config.fusedTx l (modeClass (s.portMode n)) (s.get .portCfgFec n)

/-- Show a lane's offsets in force: package part plus die part (R86). -/
def State.showLane (s : State) (n l : Nat) : State :=
  let c := s.lane l
  (s.set .portCalRxInForce l (s.packRx n l + BitVec.ofInt 32 c.dieRx).toNat).set .portCalTxInForce l
    (s.packTx n l + BitVec.ofInt 32 c.dieTx).toNat

/-- A stamp of a bit that crosses the plane at `t`: the latch, which lies the lane's true offset before the crossing, plus the offset in
force at the latch; a latch before the present epoch's beginning takes the offset of the epoch before (R84, R85, R86).  The true offset is
the package part and the die part last measured; what R87 leaves uncertain of both is left out (assumption 115). -/
def State.calStamp (s : State) (t : BitVec 64) (pack : BitVec 32) (old cur measured : Int) : BitVec 64 :=
  let latch := t - pack.signExtend 64 - BitVec.ofInt 64 measured
  t + BitVec.ofInt 64 ((if ltAfter s.epochStart latch then old else cur) - measured)

/-- The ingress stamp of a bit that crosses lane `l` of port `n` now. -/
def State.rxStamp (s : State) (n l : Nat) (t : BitVec 64) : BitVec 64 :=
  let c := s.lane l
  s.calStamp t (s.packRx n l) c.prevRx c.dieRx (c.newRx.getD c.dieRx)

/-- The egress stamp of a bit that crosses lane `l` of port `n`. -/
def State.txStamp (s : State) (n l : Nat) (t : BitVec 64) : BitVec 64 :=
  let c := s.lane l
  s.calStamp t (s.packTx n l) c.prevTx c.dieTx (c.newTx.getD c.dieTx)

/-- The enabled port a lane belongs to. -/
def State.lanePort (s : State) (l : Nat) : Option Nat :=
  (List.range 256).find? (fun n => s.portOn n && n ≤ l && l < n + s.portLanes n)

/-- Is a lane of an enabled port stale (R88)? -/
def State.laneStale (s : State) (l : Nat) : Bool :=
  let c := s.lane l
  !c.measured || c.training || c.adapt || 16 < (s.epoch % 4294967296 + 4294967296 - s.get .portCalStaLastEpoch l) % 4294967296

/-- Bring a lane's stale bit up to date; a record is written when it becomes 1 (R88). -/
def State.judgeLane (s : State) (l : Nat) : State :=
  match s.lanePort l with
  | none => s.set .portCalStaStale l 0
  | some n =>
    if s.laneStale l then
      if s.is .portCalStaStale l then s
      else (s.set .portCalStaStale l 1).cairnRec .calStale (some ⟨.port, n⟩) [BitVec.ofNat 8 l]
    else s.set .portCalStaStale l 0

/-- One update of a die part: at most 4,096 units toward the measured value (R86). -/
def stepDie (cur : Int) (new : Option Int) : Int × Option Int :=
  match new with
  | none => (cur, none)
  | some v => if (v - cur).natAbs ≤ 4096 then (v, none) else (cur + clampInt (v - cur) 4096, some v)

/-- A lane at an epoch beginning: measured die parts take effect, and age may make it stale (R86, R88). -/
def State.laneEpoch (s : State) (l : Nat) : State :=
  let c := { s.lane l with prevRx := (s.lane l).dieRx, prevTx := (s.lane l).dieTx }
  let s := s.setLane l c
  let s := if c.newRx.isSome || c.newTx.isSome then
      let r := stepDie c.dieRx c.newRx
      let t := stepDie c.dieTx c.newTx
      (s.setLane l { c with dieRx := r.1, newRx := r.2, dieTx := t.1, newTx := t.2 }).showLane ((s.lanePort l).getD l) l
    else s
  if (s.lanePort l).isSome then s.judgeLane l else s

/-- Every lane at an epoch beginning. -/
def State.lanesEpoch (s : State) : State :=
  if s.ports.lanes.isEmpty then s else (List.range 256).foldl (fun s l => s.laneEpoch l) s

/-! ### MOD_TXDIS (R93) -/

/-- Does the Turast drive MOD_TXDISo low, enabling the modules of octet `o` (R93)? -/
def State.modTxOn (s : State) (o : Nat) : Bool :=
  s.is .portOctCfgModTxEn o && s.gateOpen && (List.range 8).any (fun i => s.portOn (8 * o + i))

/-- Show the octet's line level in its ports' txdis bits, and the gate in their gated bits. -/
def State.showTxdis (s : State) (o : Nat) : State :=
  (List.range 8).foldl (fun s i =>
    s.set .portStaTxdis (8 * o + i) (bit (!s.modTxOn o))) s

/-! ### Frames -/

/-- A frame in the device. -/
def State.frame? (s : State) (fid : Nat) : Option Frame := SMap.find s.ports.frames fid

/-- Store a frame; one that is done, wholly received and in no buffers still to be completed is forgotten. -/
def State.putFrame (s : State) (fid : Nat) (f : Frame) : State :=
  let keep := if f.stage = .done ∧ f.ended ∧ f.rx.isNone ∧ !f.hearing then none else some f
  { s with ports := { s.ports with frames := SMap.put s.ports.frames fid keep } }

/-- A new frame takes the next number. -/
def State.newFrame (s : State) (f : Frame) : State × Nat :=
  let i := s.ports.nextFrame
  ({ s with ports := { s.ports with frames := SMap.put s.ports.frames i (some f), nextFrame := i + 1 } }, i)

/-- The contract version a frame matched (R209). -/
def State.conVer? (s : State) (c inc : Nat) : Option ConVer :=
  (SMap.getD s.con.versions c []).find? (fun v => v.inc == inc)

/-- The version of a frame. -/
def State.frameVer (s : State) (f : Frame) : Option ConVer := f.con.bind (fun p => s.conVer? p.1 p.2)

/-- The number of bytes of a frame the device keeps: it ends it at max_frame and at its contract's L_max (R81, R107). -/
def State.frameLen (s : State) (f : Frame) : Nat :=
  if f.whole then f.bytes.length else
  let a := match f.port with
    | some n => min f.bytes.length (s.get .portMacCfgMaxFrame n)
    | none => f.bytes.length
  match s.frameVer f with
  | some v => min a v.body.lMax
  | none => a

/-- The first bytes of the header buffer over a frame's bytes: the frame as transmitted, cut at the length kept (R98, R176). -/
def State.content (s : State) (f : Frame) : Bytes :=
  (f.hdr.take (min 256 f.bytes.length) ++ f.bytes.drop 256).take (s.frameLen f)

/-- A frame with its FCS, complemented where the frame failed (R78). -/
def sealFrame (body : Bytes) (stomp : Bool) : Bytes :=
  let c := fcs body
  body ++ leBytes (if stomp then ~~~c else c).toNat 4

/-- The frame as it leaves: its content without the last 4 bytes, and an FCS over it. -/
def State.frameOut (s : State) (f : Frame) : Bytes :=
  let c := s.content f
  sealFrame (c.take (c.length - 4)) f.failed

/-- A ledger lane (R239). -/
def State.led? (s : State) (l : Nat) : LedLane := SMap.getD s.led.lanes l {}

/-- Store a ledger lane. -/
def State.setLed (s : State) (l : Nat) (v : LedLane) : State :=
  { s with led := { s.led with lanes := SMap.setD s.led.lanes l v {} } }

/-- Individual police leaves of a version on a port in one epoch (R244). -/
def State.policeAllowance (s : State) (v : ConVer) (n : Nat) : Nat :=
  min (v.body.pir * 1048576 / (8 * v.body.lMin * 1000)) (s.portRate n * 1048576 / 672)

/-- Residence in 1/16 ns units (R240). -/
def residenceOf (inLt outLt : BitVec 64) : Nat :=
  let d := ltDiff outLt inLt
  if d < 0 then 0 else min (d.toNat / 4096) 0xFFFFFFFE

/-- The program epoch an ingress stamp falls under (R151). -/
def State.epochFor (s : State) (stamp : BitVec 64) : Nat :=
  match s.spur.act with
  | some a => if ltReached stamp a.at_ then a.epoch else a.prev
  | none => s.get .spurActStaEpoch

/-- Was a frame given to a thread? -/
def Frame.dispatched (f : Frame) : Bool :=
  match f.stage with
  | .rx | .matched | .dqueue _ => false
  | _ => true

/-- A contract frame ends with a disposition decided at the elapsed time `at_`; DELIVERED_LATE is counted (R455), and a ledgered
frame's leaf falls due with its residence and egress port (R32, R238, R241). -/
def State.leafDueAt (s : State) (at_ : Nat) (f : Frame) (dispo residence outPort : Nat) : State :=
  match f.con, f.port, s.frameVer f with
  | some (c, inc), some n, some v =>
    let s := if dispo = 0x01 then { s with back := { s.back with lateFrames := s.back.lateFrames + 1 } } else s
    if v.body.ledgered then
      let l := n / 16
      let d : LeafDue :=
        { port := n, con := c, conInc := inc, tenant := v.body.tenant, dispo := dispo, ft := f.ft, lt := f.lt,
          residence := residence, outPort := outPort,
          progEpoch := if f.dispatched then f.progEpoch else s.epochFor f.lt, annot := f.annot,
          digestIn := (f.orig.getD (f.bytes.take (s.frameLen f))).take 256, at_ := at_, allowance := s.policeAllowance v n }
      s.setLed l { s.led? l with due := (s.led? l).due ++ [d] }
    else s
  | _, _, _ => s

/-- A leaf whose disposition is decided now. -/
def State.leafDue (s : State) (f : Frame) (dispo residence outPort : Nat) : State :=
  s.leafDueAt s.elapsed f dispo residence outPort

/-- A contract frame reaches its egress stamp or its handover at `t`, after its deadline: it is counted and recorded (R33, R207). -/
def State.noteLate (s : State) (f : Frame) (t : BitVec 64) : State :=
  match f.con, f.deadline with
  | some c, some d =>
    if ltAfter t d then (s.bump .ingConLateFrames c.1).cairnRec .conLate (some ⟨.contract, c.1⟩)
      (leBytes (min ((ltDiff t d).toNat / unitsPerNs) 0xFFFFFFFF) 4)
    else s
  | _, _ => s

/-- Disposition codes of R241. -/
def dDelivered : Nat := 0x00
def dLate : Nat := 0x01
def dStomped : Nat := 0x02
def dToHost : Nat := 0x03
def dToFabric : Nat := 0x04
def dPolice : Nat := 0x10
def dProgram : Nat := 0x11
def dBudget : Nat := 0x12
def dHostFull : Nat := 0x13
def dFault : Nat := 0x14
def dUnfit : Nat := 0x15

/-- Are all copies of a frame stamped? -/
def Frame.allStamped (f : Frame) : Bool :=
  f.copies == 0 && (match f.dest with
    | .mcast _ (some ([], _)) => true
    | .mcast _ _ => false
    | _ => true)

/-- The leaf of a frame whose last copy is stamped, decided at the latest stamp; a cut-through frame whose end has not been received
yet waits for it, since only then is it known whether the transmitter stomps it (R79, R238). -/
def State.sentLeaf (s : State) (fid : Nat) : State :=
  match s.frame? fid with
  | none => s
  | some f => match f.worst with
    | some (d, t, p) =>
      if f.allStamped && f.ended && !f.judged then
        let d := if f.failed ∧ d ≠ dLate then dStomped else d
        (s.leafDueAt (s.instantOf t).toNat f d (residenceOf f.lt t) p).putFrame fid { f with worst := none }
      else s
    | none => s

/-- The elapsed time of the disposition of a frame that is stamped but whose end, and so whose leaf, is still to come. -/
def State.awaited (s : State) (f : Frame) : Option Nat :=
  match f.worst with
  | some (_, t, _) => if f.allStamped && !f.ended && !f.judged then some (s.instantOf t).toNat else none
  | none => none

/-- Does a frame of lane `l` decided before `t` still await its end? -/
def State.leafAwaited (s : State) (l t : Nat) : Bool :=
  s.ports.frames.any (fun x => (x.2.port.map (· / 16)) == some l &&
    (match s.awaited x.2 with
     | some u => decide (u < t)
     | none => false))

/-- A frame leaves the path untransmitted with a disposition (R32). -/
def State.disposeAt (s : State) (at_ fid dispo : Nat) : State :=
  match s.frame? fid with
  | none => s
  | some f => (s.leafDueAt at_ f dispo 0xFFFFFFFF 0x1FF).putFrame fid { f with stage := .done }

/-- A frame ends with a disposition now. -/
def State.dispose (s : State) (fid dispo : Nat) : State := s.disposeAt s.elapsed fid dispo

/-- A frame without a contract is discarded. -/
def State.discard (s : State) (fid : Nat) : State :=
  match s.frame? fid with
  | none => s
  | some f => s.putFrame fid { f with stage := .done }

/-- A multicast frame is finished once no octet is left, no copy is queued and none is on the wire. -/
def State.copyDone (s : State) (fid : Nat) : State :=
  match s.frame? fid with
  | none => s
  | some f => match f.dest with
    | .mcast _ (some (_ :: _, _)) => s
    | _ => if f.stage = .egress ∧ f.copies = 0 ∧ f.onWire = 0 then s.putFrame fid { f with stage := .done } else s

/-- Does any frame of a contract version remain (R209, R210)? -/
def State.framesOf (s : State) (c inc : Nat) : Bool :=
  s.ports.frames.any (fun e => e.2.con == some (c, inc) && e.2.stage != .done)

/-! ### Key profiles (R99) -/

/-- One field of a key: its bytes and its presence bit. -/
def State.keyField (s : State) (p f : Nat) (b : Bytes) (anchors : List (Option Nat)) : Bytes × Bool :=
  let i := p * 8 + f
  let n := s.get .ingProfFldLen i
  match anchors.getD (s.get .ingProfFldAnchor i) none with
  | none => (List.replicate n 0, false)
  | some a =>
    let o := a + s.get .ingProfFldOffset i
    if n ≠ 0 ∧ o + n ≤ s.get .ingProfCfgDepth p ∧ o + n ≤ b.length then (sliceB b o n, true) else (List.replicate n 0, false)

/-- The classifier key and presence vector of a frame under profile `p` (R99). -/
def State.keyOf (s : State) (p : Nat) (b : Bytes) : Bytes × Nat :=
  let a := anchorsOf b
  let fs := (List.range 8).map (fun f => s.keyField p f b a)
  (sliceB (fs.map (·.1)).flatten 0 32, (fs.zip (List.range 8)).foldl (fun v x => v + bit x.1.2 * 2 ^ x.2) 0)

/-! ### Classifier (R101) -/

/-- Does a version's interval contain an LT near the current one: valid-from inclusive, valid-until exclusive (R101)? -/
def State.spans (s : State) (v : ConVer) (t : BitVec 64) : Bool :=
  decide ((v.began : Int) ≤ s.instantOf t) &&
  (match v.till with
   | some u => decide (s.instantOf t < u)
   | none => true)

/-- Does a version's classifier entry match port, key, presence and stamp (R101)? -/
def State.verMatches (s : State) (v : ConVer) (port : Nat) (key : Bytes) (pres : Nat) (t : BitVec 64) : Bool :=
  bitOf v.body.inPorts port && decide (v.body.key = key) && v.body.presence == pres && s.spans v t

/-- The classifier's entry for a frame, if any: contract and version.  A contract that has not come into force has none (R208, R242). -/
def State.classifierHit (s : State) (port : Nat) (key : Bytes) (pres : Nat) (t : BitVec 64) : Option (Nat × ConVer) :=
  s.con.versions.findSome? (fun e =>
    if e.2.any (·.active) then (e.2.find? (fun v => s.verMatches v port key pres t)).map (fun v => (e.1, v)) else none)

/-! ### What a frame is (R83, R89, R102) -/

/-- Is a frame consumed by the MAC (R83)? -/
def isMacCtl (b : Bytes) : Bool := beAt b 12 2 == 0x8808

/-- The offset of a frame's PTP message, if it is one, event or general (R89, R102). -/
def ptpOffset (b : Bytes) : Option Nat :=
  let a := anchorsOf b
  match (a.getD 1 none), (a.getD 3 none), (a.getD 4 none) with
  | some e, l4, some p =>
    if beAt b e 2 = 0x88F7 then some p
    else match l4 with
      | some l => if (p = l + 8) ∧ (beAt b (l + 2) 2 = 319 ∨ beAt b (l + 2) 2 = 320) then some p else none
      | none => none
  | _, _, _ => none

/-- Is a frame a PTP event message: Sync, Delay_Req, Pdelay_Req or Pdelay_Resp over port 319 or EtherType 0x88F7 (R89)? -/
def isPtpEvent (b : Bytes) : Bool :=
  match ptpOffset b with
  | none => false
  | some p =>
    decide (beAt b p 1 % 16 ≤ 3) &&
    (match (anchorsOf b).getD 3 none with
     | some l => beAt b (l + 2) 2 == 319
     | none => true)

/-- A frame's stamp at port `p` as it is reported: event messages on a port with ptp_en have ptp_ofs added (R89); leaf stamps never do. -/
def State.evtStamp (s : State) (p : Nat) (b : Bytes) (t : BitVec 64) : BitVec 64 :=
  if s.is .portPtpCfgPtpEn p && isPtpEvent b then t + (BitVec.ofNat 32 (s.get .portPtpCfgPtpOfs p)).signExtend 64 else t

/-! ### Two-step stamp queues (R91) -/

/-- Is an owner a VF? -/
def ownerVf (o : Option Nat) : Bool :=
  match o with
  | some f => 1 ≤ f && f ≤ 127
  | none => false

/-- Post an entry to an octet's stamp queue, or count it lost (R91). -/
def State.postTsq (s : State) (o : Nat) (e : TsqEntry) : State :=
  let q := SMap.getD s.ports.tsq o []
  let mine := (q.filter (fun x => x.owner == e.owner)).length
  let vfs := (q.filter (fun x => ownerVf x.owner)).length
  if 64 ≤ q.length || (ownerVf e.owner && (8 ≤ mine || 32 ≤ vfs)) then s.bump .portTsqOvfLost o
  else { s with ports := { s.ports with tsq := SMap.setD s.ports.tsq o (q ++ [e]) [] } }

end Sys2Proof.Machine
end

