-- ==== Sys2Proof/Machine/SpurOps.lean ====
section
/-! DEFINITION. Shared operations of Spur: contexts and their registers, images and claims, events, dispatch, the end of a frame,
program faults and traps, and the movement of the instruction index. -/

namespace Sys2Proof.Machine

/-! ### Contexts -/

/-- Key of a foreground thread. -/
def thrKey (c t : Nat) : Nat := c * 32 + t
/-- Key of a core's background context. -/
def bgKey (c : Nat) : Nat := c * 32 + 16
/-- Key of a control core. -/
def ccKey (k : Nat) : Nat := 8192 + k

/-- Key of a context. -/
def ctxKey : Ctx → Nat
  | .thr c t => thrKey c.val t.val
  | .bg c => bgKey c.val
  | .cc k => ccKey k.val

/-- Is a context key a control core's? -/
def isCc (k : Nat) : Bool := decide (8192 ≤ k)
/-- Is it a background context's? -/
def isBg (k : Nat) : Bool := decide (k < 8192) && k % 32 == 16
/-- Is it a foreground thread's? -/
def isThr (k : Nat) : Bool := decide (k < 8192) && decide (k % 32 < 16)
/-- The core of a thread or background context. -/
def keyCore (k : Nat) : Nat := k / 32
/-- The ridge of a thread or background context. -/
def keyRidge (k : Nat) : Nat := keyCore k / 16

/-- A context. -/
def State.thr (s : State) (k : Nat) : Thread := SMap.getD s.spur.threads k {}

/-- Store a context. -/
def State.setThr (s : State) (k : Nat) (t : Thread) : State :=
  { s with spur := { s.spur with threads := SMap.setD s.spur.threads k t {} } }

/-- Change a context. -/
def State.modThr (s : State) (k : Nat) (f : Thread → Thread) : State := s.setThr k (f (s.thr k))

/-- A general register; g0 reads as zero (R162). -/
def Thread.g (t : Thread) (r : Nat) : BitVec 64 := if r = 0 then 0 else SMap.getD t.gprs r 0

/-- Write a general register; a write to g0 is discarded (R162). -/
def Thread.setG (t : Thread) (r : Nat) (v : BitVec 64) : Thread :=
  if r = 0 then t else { t with gprs := SMap.setD t.gprs r v 0 }

/-- A context's general register. -/
def State.gpr (s : State) (x : Ctx) (r : GReg) : BitVec 64 := (s.thr (ctxKey x)).g r.val

/-- Write a context's general register. -/
def State.setGpr (s : State) (x : Ctx) (r : GReg) (v : BitVec 64) : State := s.modThr (ctxKey x) (fun t => t.setG r.val v)

/-! ### Images and claims -/

/-- Key of a group's image in a bank. -/
def grpImg (g b : Nat) : Nat := g * 2 + b
/-- Key of a core's background image in a bank. -/
def bgImg (c b : Nat) : Nat := 16384 + c * 2 + b
/-- Key of a control core's image. -/
def ccImg (k : Nat) : Nat := 32768 + k
/-- Key of the image a core's background context runs: BG changes to its bank's image only when it restarts (R135, R151). -/
def bgRun (c : Nat) : Nat := 40960 + c

/-- The image a context runs. -/
def State.imageOf (s : State) (k : Nat) : Option Image :=
  let t := s.thr k
  if isCc k then SMap.find s.spur.images (ccImg (k - 8192))
  else if isBg k then SMap.find s.spur.images (bgRun (keyCore k))
  else t.group.bind (fun g => SMap.find s.spur.images (grpImg g t.bank))

/-- The code words of an image. -/
def Image.word (i : Image) (j : Nat) : Nat := leAt i.raw (i.hdrLen + 4 * j) 4

/-- The bank whose image a thread of group `g` is restarted under: the active one, or the other where only that holds an image
(R134, R159). -/
def State.restBank (s : State) (g : Nat) : Nat :=
  let b := s.get .spurGrpStaActiveBank g
  if (SMap.find s.spur.images (grpImg g b)).isNone && (SMap.find s.spur.images (grpImg g (1 - b))).isSome then 1 - b else b

/-- A claim of a type and number in an image. -/
def Image.claim? (i : Image) (ty num : Nat) : Option Claim := i.claims.find? (fun c => c.ty == ty && c.num == num)

/-- A claim of a type whose reference names the block with this index. -/
def Image.claimIx? (i : Image) (ty ix : Nat) : Option Claim :=
  i.claims.find? (fun c => c.ty == ty && bitsOf c.data.toNat 51 32 == ix)

/-- The bank of group `g` that holds the image for an ingress stamp (R151). -/
def State.bankFor (s : State) (g : Nat) (stamp : BitVec 64) : Nat :=
  let act := s.get .spurGrpStaActiveBank g
  match s.spur.act with
  | none => act
  | some a =>
    if a.targets.contains g then
      if ltReached stamp a.at_ then (if a.begun then act else 1 - act) else (if a.begun then 1 - act else act)
    else act

/-! ### Groups -/

/-- Is a group held (R143)? -/
def State.grpOn (s : State) (g : Nat) : Bool := s.is .spurGrpCfgEn g

/-- The members of a group, as context keys in ascending core and thread (R143). -/
def State.members (s : State) (g : Nat) : List Nat :=
  let cs := s.get .spurGrpCfgCores g
  let ts := s.get .spurGrpCfgThreads g
  ((List.range 16).filter (fun i => bitOf cs i)).flatMap (fun i =>
    ((List.range 16).filter (fun t => bitOf ts t)).map (fun t => thrKey (16 * (g / 256) + i) t))

/-- Is the dispatcher willing to use a core: enabled and not in sparing or repair (R157, R158)? -/
def State.coreUp (s : State) (c : Nat) : Bool := s.get .spurCoreStaState c == 1

/-- Does a member hold no frame and wait for one, its last instruction perhaps still in its slot? -/
def State.freeThr (s : State) (k : Nat) : Bool :=
  let t := s.thr k
  t.st == 2 && t.mask.getLsbD 0 && t.frame.isNone && s.coreUp (keyCore k)

/-- Is a member idle (R144)?  The instruction that ended its last frame has retired, at the end of its slot (R132). -/
def State.idleThr (s : State) (k : Nat) : Bool := s.freeThr k && decide ((s.thr k).lastEnd ≤ s.elapsed)

/-- The idle member the dispatcher chooses: the one whose last frame ended earliest, then the lowest core, then the lowest thread
(R144). -/
def State.chooseIdle (s : State) (g : Nat) : Option Nat :=
  ((s.members g).filter s.idleThr).foldl (fun best k => match best with
    | none => some k
    | some b => if (s.thr k).lastEnd < (s.thr b).lastEnd then some k else some b) none

/-- The members that remain: on cores enabled, or enabled and being spared (R157, R158, R160). -/
def State.membersUp (s : State) (g : Nat) : List Nat :=
  (s.members g).filter (fun k => s.coreUp (keyCore k) ||
    (s.get .spurCoreStaState (keyCore k) == 2 && s.is .spurCoreCtlEn (keyCore k)))

/-! ### Channels and events -/

/-- Index of a channel's registers. -/
def chanIx (r ch : Nat) : Nat := r * 1024 + ch

/-- The messages a channel holds, oldest first. -/
def State.chan (s : State) (i : Nat) : List (List (BitVec 64)) := SMap.getD s.spur.chans i []

/-- The context key of a channel's declared reader, if it has one (R140). -/
def State.readerKey (s : State) (r ch : Nat) : Option Nat :=
  let i := chanIx r ch
  let b := s.get .spurChCfgReader i
  if s.get .spurChCfgDepth i = 0 then none
  else if s.is .spurChCfgReaderCc i then
    ((List.range 8).find? (fun k => bitOf (s.get .spurCcStaRidges k) r)).map ccKey
  else if s.is .spurChCfgReaderBg i then some (bgKey (16 * r + b / 16))
  else some (thrKey (16 * r + b / 16) (b % 16))

/-- Store a channel and show its fill (SPUR_CH_STA.fill). -/
def State.setChan (s : State) (i : Nat) (l : List (List (BitVec 64))) : State :=
  ({ s with spur := { s.spur with chans := SMap.setD s.spur.chans i l [] } }).set .spurChStaFill i l.length

/-- Is context `k` the party that the cc bit, bg bit and core and thread byte of a channel's configuration or of a SEV source
name within ridge `r` (R138, R140)? -/
def State.partyIs (s : State) (k r : Nat) (cc bg : Bool) (b : Nat) : Bool :=
  if cc then isCc k && bitOf (s.get .spurCcStaRidges (k - 8192)) r
  else if bg then k == bgKey (16 * r + b / 16)
  else k == thrKey (16 * r + b / 16) (b % 16)

/-- Is `k` the declared writer of a channel (R140)? -/
def State.isWriter (s : State) (k r ch : Nat) : Bool :=
  let i := chanIx r ch
  s.get .spurChCfgDepth i != 0 && s.partyIs k r (s.is .spurChCfgWriterCc i) (s.is .spurChCfgWriterBg i) (s.get .spurChCfgWriter i)

/-- Is `k` the declared reader of a channel (R140)? -/
def State.isReader (s : State) (k r ch : Nat) : Bool :=
  let i := chanIx r ch
  s.get .spurChCfgDepth i != 0 && s.partyIs k r (s.is .spurChCfgReaderCc i) (s.is .spurChCfgReaderBg i) (s.get .spurChCfgReader i)

/-- The ridges a context may reach: its own, or those a control core now supervises (R161). -/
def State.ridgesOf (s : State) (k : Nat) : List Nat :=
  if isCc k then (List.range 16).filter (fun r => bitOf (s.get .spurCcStaRidges (k - 8192)) r) else [keyRidge k]

/-! ### Images' channels and SEV lines of a ridge (R138, R140, R187) -/

/-- Is a target a core's background context (ACTIVATE's 0x8000 + core, R359)? -/
def isBgTarget (t : Nat) : Bool := inRange t 0x8000 256

/-- The ridge of a target. -/
def targetRidge (t : Nat) : Nat := if isBgTarget t then (t - 0x8000) / 16 else t / 256

/-- A party of a channel: the byte of core and thread, and whether it is the supervisor or a BG. -/
structure Party where
  byte : Nat
  cc : Bool
  bg : Bool
  deriving DecidableEq, Repr

/-- What an image says of a channel. -/
structure ChDecl where
  ch : Nat
  depth : Nat
  writer : Option Party
  reader : Option Party
  deriving DecidableEq, Repr

/-- The party that a target's only context is. -/
def State.partyOf (s : State) (t : Nat) : Party :=
  if isBgTarget t then ⟨t % 16 * 16, false, true⟩
  else
    let k := ((s.members t).head?).getD 0
    ⟨keyCore k % 16 * 16 + k % 32, false, false⟩

/-- The declarations of a target's image.  A peer's byte lies in bits [47:40] of the claim, its cc and bg marks where the low byte
of SPUR_CH_CFG has them (DEDUCED, assumption 35). -/
def State.chDecls (s : State) (t : Nat) (i : Image) : List ChDecl :=
  (i.claims.filter (fun c => c.ty == 7)).map (fun c =>
    let d := c.data.toNat
    let me := s.partyOf t
    let wr := bitOf c.flags 0
    let rd := bitOf c.flags 1
    { ch := bitsOf d 9 0, depth := bitsOf d 23 16,
      writer := some (if wr then me else ⟨bitsOf d 47 40, bitOf d 39, bitOf d 38⟩),
      reader := some (if rd then me else ⟨bitsOf d 47 40, bitOf d 37, bitOf d 36⟩) })

/-- The targets of a ridge with the images they hold, those that BG still runs among them. -/
def State.ridgeImages (s : State) (r : Nat) : List (Nat × Image) :=
  s.spur.images.filterMap (fun e =>
    if e.1 < 8192 then (if e.1 / 512 = r then some (e.1 / 2, e.2) else none)
    else if e.1 < 32768 then (if (e.1 - 16384) / 32 = r then some (0x8000 + (e.1 - 16384) / 2, e.2) else none)
    else if e.1 < 40960 then none
    else if (e.1 - 40960) / 16 = r then some (0x8000 + (e.1 - 40960), e.2) else none)

/-- Two declarations of one channel agree. -/
def declsAgree (l : List ChDecl) : Bool := l.all (fun a => l.all (fun b => a.ch != b.ch || decide (a = b)))

/-- The SEV lines of a target's image: line and source. -/
def sevLines (i : Image) : List (Nat × Nat) :=
  (i.claims.filter (fun c => c.ty == 8)).map (fun c => (c.flags, c.data.toNat % 65536))

/-- The lowest place for `n` units that keeps clear of the intervals in use and below `lim`. -/
def firstFit (used : List (Nat × Nat)) (n lim : Nat) : Option Nat :=
  ((0 :: used.map (fun u => u.1 + u.2)).filter (fun a =>
      decide (a + n ≤ lim) && used.all (fun u => decide (u.1 + u.2 ≤ a) || decide (a + n ≤ u.1)))).foldl
    (fun b a => match b with
      | none => some a
      | some x => some (min x a)) none

/-- The channels a ridge's images declare, one declaration each. -/
def State.ridgeDecls (s : State) (r : Nat) : List ChDecl :=
  ((s.ridgeImages r).flatMap (fun e => s.chDecls e.1 e.2)).eraseDups

/-- The low half of SPUR_CH_CFG that a declaration sets. -/
def chWord (base : Nat) (d : ChDecl) : BitVec 64 :=
  let w := d.writer.getD ⟨0, false, false⟩
  let r := d.reader.getD ⟨0, false, false⟩
  BitVec.ofNat 64 (base <<< 32 ||| d.depth <<< 24 ||| w.byte <<< 16 ||| r.byte <<< 8 ||| bit w.cc <<< 7 ||| bit w.bg <<< 6 |||
    bit r.cc <<< 5 ||| bit r.bg <<< 4)

/-- The places of the channel area that the channels of a ridge in use hold, in units of 64 B. -/
def State.chUsed (s : State) (r : Nat) : List (Nat × Nat) :=
  (List.range 1024).filterMap (fun ch =>
    let d := s.get .spurChCfgDepth (chanIx r ch)
    if d = 0 then none else some (s.get .spurChCfgBase (chanIx r ch), d))

/-- Configure a ridge's declared channels that are not configured yet; `none` where the channel area has no room. -/
def State.addChans (s : State) (r : Nat) : List ChDecl → Option State
  | [] => some s
  | d :: t =>
    let i := chanIx r d.ch
    if s.get .spurChCfgDepth i ≠ 0 then s.addChans r t
    else match firstFit (s.chUsed r) d.depth 8192 with
      | none => none
      | some b => (s.setReg .spurChCfg i (chWord b d)).addChans r t

/-- Channels that no image declares any more are unused and empty. -/
def State.dropChans (s : State) (r : Nat) : State :=
  let ds := (s.ridgeDecls r).map (·.ch)
  (List.range 1024).foldl (fun s ch =>
    if s.get .spurChCfgDepth (chanIx r ch) ≠ 0 ∧ !ds.contains ch then
      (s.setReg .spurChCfg (chanIx r ch) 0).setChan (chanIx r ch) []
    else s) s

/-- The contexts of a target. -/
def State.targetCtxs (s : State) (t : Nat) : List Nat := if isBgTarget t then [bgKey (t - 0x8000)] else s.members t

/-- The SEV sources of a target's contexts follow from the images it holds (R138, R187). -/
def State.setSev (s : State) (t : Nat) : State :=
  let ls := ((s.ridgeImages (targetRidge t)).filter (fun e => e.1 == t)).flatMap (fun e => sevLines e.2)
  (s.targetCtxs t).foldl (fun s k => s.modThr k (fun th =>
    { th with sevSrc := ls.foldl (fun m x => SMap.setD m x.1 x.2 0) [] })) s

/-- The channels a control core reads for the ridges it supervises, as their images declare them (R140). -/
def State.ccReads (s : State) (k : Nat) : List Nat :=
  (s.ridgesOf k).flatMap (fun r => ((s.ridgeDecls r).filter (fun d => d.reader.any (·.cc))).map (fun d => chanIx r d.ch))

/-- The channel that watch `w` of a context follows: the channel claim it reads whose claim number is `w` (assumption 21); for a
control core, which has no image header, the `w`-th channel it reads (DESIGN CHOICE, assumption 147). -/
def State.watchChan (s : State) (k w : Nat) : Option Nat :=
  if isCc k then (s.ccReads k)[w]?
  else (s.imageOf k).bind (fun i =>
    (i.claims.find? (fun c => c.ty == 7 && bitOf c.flags 1 && c.num == w)).bind (fun c =>
      ((s.ridgesOf k).head?).map (fun r => chanIx r (bitsOf c.data.toNat 9 0))))

/-- All pending inputs of a context: latched bits, packet available, and channel not-empty watches (R136). -/
def State.pendingOf (s : State) (k : Nat) : BitVec 32 :=
  let t := s.thr k
  let pkt : BitVec 32 := if t.frame.isSome then 1 else 0
  let ch : BitVec 32 := (List.range 8).foldl (fun a w =>
    match s.watchChan k w with
    | some i => if (s.chan i).isEmpty then a else a ||| (1#32 <<< (5 + w))
    | none => a) 0
  t.pending ||| pkt ||| ch

/-- A waiting context becomes READY once a masked input is pending (R137). -/
def State.wake (s : State) (k : Nat) : State :=
  if (s.thr k).st = 2 && (s.pendingOf k &&& (s.thr k).mask) != 0 then s.modThr k (fun t => { t with st := 1 }) else s

/-- A latched input occurs (R137). -/
def State.raiseEvt (s : State) (k i : Nat) : State :=
  (s.modThr k (fun t => { t with pending := t.pending ||| (1#32 <<< i) })).wake k

/-- Raise an input of every member of a group (R65, R136). -/
def State.raiseGroup (s : State) (g i : Nat) : State := (s.members g).foldl (fun s k => s.raiseEvt k i) s

/-- The declared source of SEV line `l` of a context, as SPUR_THR_SEVSRC codes one line (R138). -/
def State.sevSource (s : State) (k l : Nat) : Nat := SMap.getD (s.thr k).sevSrc l 0

/-- Is `k` the declared source of line `l` of target `tgt` in ridge `r` (R138)? -/
def State.sevOk (s : State) (k r tgt l : Nat) : Bool :=
  let v := s.sevSource tgt l
  bitOf v 15 && s.partyIs k r (bitOf v 14) (bitOf v 13) (bitsOf v 7 0)

/-! ### Dispatch -/

/-- The registers a frame program begins with (R163). -/
def State.frameRegs (s : State) (f : Frame) (lMax : Nat) : SMap (BitVec 64) :=
  let anch := (f.anchors.zip (List.range 5)).foldl (fun a p => a ||| (p.1.getD 0x1FF) <<< (9 * p.2)) 0
  let rs : List (Nat × BitVec 64) :=
    [(1, s.evtStamp (f.port.getD 256) f.bytes f.lt), (2, f.deadline.getD 0),
     (3, BitVec.ofNat 64 (((f.con.map (·.2)).getD 0) <<< 16 ||| (f.con.map (·.1)).getD 0)),
     (4, BitVec.ofNat 64 (f.portInc <<< 16 ||| f.port.getD 0)), (5, BitVec.ofNat 64 anch),
     (6, BitVec.ofNat 64 (f.progEpoch <<< 8 ||| f.colour)), (7, BitVec.ofNat 64 (f.depth <<< 16 ||| lMax))]
  rs.foldl (fun m r => SMap.setD m r.1 r.2 0) []

/-- A frame is handed to a thread at the dispatch instant: it holds the frame, its packet input rises, its registers are loaded
and its budget timer starts (R144, R148, R151, R163, R164). -/
def State.handTo (s : State) (fid k : Nat) : State :=
  match s.frame? fid, (s.thr k).group with
  | some f, some g =>
    let b := s.bankFor g f.lt
    match SMap.find s.spur.images (grpImg g b) with
    | none => s
    | some im =>
      let f := { f with stage := .held (keyCore k) (k % 32), progEpoch := s.epochFor f.lt, annot := 0 }
      let lMax := ((s.frameVer f).map (·.body.lMax)).getD 0
      let regs := s.frameRegs f lMax
      let s := s.putFrame fid f
      let s := s.modThr k (fun t => { t with
        frame := some fid, gprs := regs, slots := [], index := im.entry, st := 1, bank := b, epoch := f.progEpoch, loops := [],
        budLimit := im.budget * unitsPerNs, budUsed := 0, budSince := some s.elapsed, waitsLeft := im.waits, expired := false })
      s.bump .spurGrpFramesFrames g
  | _, _ => s

/-- A group's dispatch queue. -/
def State.dqueue (s : State) (g : Nat) : List Nat := SMap.getD s.spur.dq g []

/-- Store a dispatch queue and show its fill. -/
def State.setDq (s : State) (g : Nat) (l : List Nat) : State :=
  ({ s with spur := { s.spur with dq := SMap.setD s.spur.dq g l [] } }).set .spurGrpStaDqFill g l.length

/-! ### The end of a frame, faults and traps -/

/-- Elapsed time at which the slot of a context's last instruction ends; now where that has passed (R132). -/
def State.slotOver (s : State) (k : Nat) : Nat := max s.elapsed (s.thr k).slotEnd

/-- A thread whose frame has ended enters the idle WAIT at its frame entry point (R145, R164, R165). -/
def State.idleWait (s : State) (k : Nat) : State :=
  let entry := ((s.imageOf k).map (·.entry)).getD 0
  s.modThr k (fun t => { t with frame := none, slots := [], st := 2, mask := 1, index := entry, loops := [], budSince := none,
                                lastEnd := if t.frame.isSome then s.elapsed else t.lastEnd, expired := false })

/-- A frame ends with the instruction its thread has issued, and the thread is idle from the end of that slot on (R132, R164). -/
def State.idleAfter (s : State) (k : Nat) : State :=
  let e := s.slotOver k
  if (s.thr k).frame.isSome then (s.idleWait k).modThr k (fun t => { t with lastEnd := e }) else s.idleWait k

/-- BG runs the image of its bank from now on; what only the image it ran before declared is released (R138, R140, R151). -/
def State.bgTake (s : State) (c : Nat) (im : Option Image) : State :=
  if SMap.find s.spur.images (bgRun c) = im then s
  else
    let s := { s with spur := { s.spur with images := SMap.put s.spur.images (bgRun c) im } }
    (s.setSev (0x8000 + c)).dropChans (c / 16)

/-- The background context restarts at its image's entry, under the image in force now (R135, R151). -/
def State.bgRestart (s : State) (k : Nat) (clear : Bool) : State :=
  let c := keyCore k
  let b := SMap.getD s.spur.bgBank c 0
  let im := SMap.find s.spur.images (bgImg c b)
  let s := s.bgTake c im
  s.modThr k (fun t => { t with bank := b, index := (im.map (·.entry)).getD 0, loops := [], gprs := if clear then [] else t.gprs,
                                epoch := (im.map (·.epoch)).getD 0 })

/-- A control-profile trap: cause, value, saved status, interrupts disabled, jump to the vector (R185).  `pc` is the byte address
TRAP_PC takes. -/
def State.trap (s : State) (k cause : Nat) (pc val : BitVec 64) : State :=
  s.modThr k (fun t =>
    let st := SMap.getD t.sys 4 0
    let st' := (st &&& ~~~3#64) ||| ((st &&& 1) <<< 1)
    let sys := SMap.setD (SMap.setD (SMap.setD (SMap.setD t.sys 0 (BitVec.ofNat 64 cause) 0) 1 pc 0) 2 val 0) 4 st' 0
    { t with sys := sys, index := ((SMap.getD t.sys 3 0).toNat + cause * 0x40) / 4, loops := [] })

/-- The byte address a control core is at. -/
def Thread.pcOf (t : Thread) : BitVec 64 := BitVec.ofNat 64 (4 * t.index)

/-- Interrupt `n` of control core `k`: its latched input becomes pending, and the core traps with cause INTERRUPT if interrupts are
enabled (R136, R137, R185).  TRAP_VAL is a free value: the spec gives an interrupt no faulting address or word. -/
def State.interrupt (s : State) (k n : Nat) : State :=
  let x := ccKey k
  if s.blkState ⟨.control, k⟩ != 2 then s
  else
    let s := s.raiseEvt x (26 + n)
    if (SMap.getD (s.thr x).sys 4 0).getLsbD 0 then
      let s := s.modThr x (fun t => { t with st := 1 })
      (s.trap x 7 (s.thr x).pcOf s.free).useFree
    else s

/-- The control core that supervises a ridge now (R161). -/
def State.supervisor (s : State) (r : Nat) : Option Nat :=
  (List.range 8).find? (fun k => bitOf (s.get .spurCcStaRidges k) r)

/-- An event to a ridge's supervisor, as an interrupt of its control core (R161; DESIGN CHOICE, assumption 37: interrupt 0 for a
WAIT_CYCLE, 1 for sparing, 2 for a dispatch fault). -/
def State.tellSupervisor (s : State) (r n : Nat) : State :=
  match s.supervisor r with
  | some k => s.interrupt k n
  | none => s

/-- The causes of R184. -/
def cIllegal : Nat := 1
def cChannel : Nat := 2
def cHdr : Nat := 3
def cMem : Nat := 4
def cLookup : Nat := 5
def cEmit : Nat := 6
def cStale : Nat := 7
def cEnd : Nat := 8
def cBudget : Nat := 9
def cTag : Nat := 10

/-- The annotation of a frame ended by a cause at an index, bits [31:0] kept (R184). -/
def faultAnnot (a : BitVec 64) (cause ix : Nat) : BitVec 64 :=
  BitVec.ofNat 64 (cause <<< 56 ||| (ix % 2 ^ 24) <<< 32 ||| a.toNat % 2 ^ 32)

/-- Set a frame's annotation. -/
def State.setAnnot (s : State) (fid : Nat) (a : BitVec 64) : State :=
  match s.frame? fid with
  | none => s
  | some f => s.putFrame fid { f with annot := a }

/-- A fault of R184 in the data profile, or the trap of R185 in the control profile (`tc` its trap cause, `val` its value). -/
def State.progFault (s : State) (k cause tc : Nat) (val : BitVec 64) : State :=
  let t := s.thr k
  if isCc k then s.trap k tc t.pcOf val
  else
    let c := keyCore k
    let bg := isBg k
    let e := ((s.imageOf k).map (·.epoch)).getD 0
    let w := cause <<< 56 ||| (t.index % 2 ^ 24) <<< 32 ||| e <<< 24 ||| bit bg <<< 5 ||| (if bg then 0 else k % 32)
    let s := (s.setReg .spurCoreFault c (BitVec.ofNat 64 w)).bump .spurCoreFaultCntFaults c
    if bg then s.bgRestart k true
    else match t.frame, t.group with
      | some fid, some g =>
        let a := ((s.frame? fid).map (·.annot)).getD 0
        let s := (s.setAnnot fid (faultAnnot a cause t.index)).bump .spurGrpProgdropFrames g
        (s.disposeAt (s.slotOver k) fid dProgram).idleAfter k
      | _, _ => s.idleWait k

/-! ### The instruction index (R173, R174) -/

/-- The time left on a thread's budget in LT units; none without a frame (R148). -/
def State.budgetLeft (s : State) (k : Nat) : Option Nat :=
  let t := s.thr k
  if t.frame.isNone then none
  else some (t.budLimit - t.budUsed - (match t.budSince with
    | some u => s.elapsed - u
    | none => 0))

/-! ### The slot grid (R130-R132) -/

/-- The replica of linear time a context reads (R43, R130). -/
def ctxReplica : Ctx → Replica
  | .thr c _ | .bg c => .ridge (Fin.ofNat 16 (c.val / 16))
  | .cc k => .control k

/-- Linear time as a context's replica holds it. -/
def State.ctxLt (s : State) (x : Ctx) : BitVec 64 := s.repLt (ctxReplica x)

/-- Entry `i` of a core's slot table bank: the thread it names, if any (R131). -/
def State.slotEntry (s : State) (c b i : Nat) : Option Nat :=
  let w := (s.reg .spurSlot ((c * 2 + b) * 8 + i / 8)).toNat
  let j := i % 8
  if bitOf w (8 * j + 7) then some (bitsOf w (8 * j + 3) (8 * j)) else none

/-- Does a thread own an entry of its core's active slot table (R131)? -/
def State.ownsSlot (s : State) (c t : Nat) : Bool :=
  (List.range 64).any (fun i => s.slotEntry c (s.get .spurCoreStaSlotBank c) i == some t)

/-- Does slot `i` go to a context: a thread's own slot to it; an empty one, and one whose thread is not READY, to BG (R131, R134)? -/
def State.slotGoes (s : State) (k i : Nat) : Bool :=
  let c := keyCore k
  match s.slotEntry c (s.get .spurCoreStaSlotBank c) i with
  | some t => if isBg k then (s.thr (thrKey c t)).st != 1 else t == k % 32
  | none => isBg k

/-- LT units to the beginning of the next slot a context may issue in: slot `i` begins where its ridge's replica of LT modulo 2²¹ is
i × 32,768, and a slot carries one instruction (R130-R132). -/
def State.nextSlot (s : State) (x : Ctx) : Option Nat :=
  let k := ctxKey x
  let r := (s.ctxLt x).toNat % 2097152
  let d := (slotUnits - r % slotUnits) % slotUnits
  ((List.range 66).map (fun j => d + j * slotUnits)).find? (fun d =>
    s.slotGoes k ((r + d) / slotUnits % 64) && decide (SMap.getD s.spur.slotUsed (keyCore k) 0 ≤ s.elapsed + d))

/-- Does a context run: a READY thread that holds a frame whose budget has not expired; a READY background context with an image; a
control core in service that waits for no page of its firmware (R134, R135, R149, R161, R394)? -/
def State.runs (s : State) (x : Ctx) : Bool :=
  match x with
  | .thr c _ => s.coreUp c.val && (s.thr (ctxKey x)).st == 1 && (s.budgetLeft (ctxKey x)).any (fun n => decide (0 < n))
  | .bg c => s.coreUp c.val && (s.thr (ctxKey x)).st == 1 && (s.imageOf (ctxKey x)).isSome
  | .cc k => s.blkState ⟨.control, k.val⟩ == 2 && (s.thr (ctxKey x)).st ≤ 1 && (SMap.find s.sec.waits k.val).isNone

/-- May a context issue an instruction: it runs and has a slot, which for a thread begins before its budget expires (R131, R149)? -/
def State.canIssue (s : State) (x : Ctx) : Bool :=
  s.runs x &&
  (match x with
   | .thr _ _ => (s.nextSlot x).any (fun d => (s.budgetLeft (ctxKey x)).any (fun n => decide (d < n)))
   | .bg _ => (s.nextSlot x).isSome
   | .cc _ => true)

/-- A word with the fields that its instruction does not use as 0: TCMP's mode 0 uses no timer, mode 1 no gb, mode 2 neither ga nor gb
(R179). -/
def plainWord (w : Nat) : Nat :=
  if w / 67108864 = 0x2B then
    if bitsOf w 1 0 = 0 then w - 4 * bitsOf w 3 2
    else if bitsOf w 1 0 = 1 then w - 2048 * bitsOf w 15 11
    else if bitsOf w 1 0 = 2 then w - 2048 * bitsOf w 20 11
    else w
  else w

/-- Is `w` the word a context has next: the one its image holds at its index (R166)?  A control core fetches through its MMU and its
caches from memory the model does not follow, so the command itself gives its word (DESIGN CHOICE, assumption 100). -/
def State.fetches (s : State) (x : Ctx) (w : BitVec 32) : Bool :=
  match x with
  | .cc _ => true
  | _ => (s.imageOf (ctxKey x)).any (fun i => plainWord (i.word (s.thr (ctxKey x)).index) == w.toNat)

/-- Does the profile of a context permit an opcode (R183)? -/
def permits (x : Ctx) (op : Nat) : Bool :=
  match x with
  | .thr _ _ => op ≤ 0x2D || op == 0x3F
  | .bg _ => op ≤ 0x1B || (0x24 ≤ op && op ≤ 0x2B) || op == 0x3F
  | .cc _ => op ≤ 0x1B || (0x24 ≤ op && op ≤ 0x2B) || (0x30 ≤ op && op ≤ 0x37) || op == 0x3F

/-- The code length of the context's image. -/
def State.codeLen (s : State) (k : Nat) : Nat := ((s.imageOf k).map (·.codeLen)).getD 0

/-- Settle loops whose body ends just before `j`, innermost first (R174): the loops left active and the next index. -/
def settleLoops : List Loop → Nat → List Loop × Nat
  | [], j => ([], j)
  | l :: t, j =>
    if l.stop = j then (if 0 < l.left then ({ l with left := l.left - 1 } :: t, l.first) else settleLoops t j) else (l :: t, j)

/-- Execution moves to index `j` under loops `ls`; past the code it ends with END, or BG restarts (R135, R173). -/
def State.goto (s : State) (k : Nat) (ls : List Loop) (j : Nat) : State :=
  if isCc k then s.modThr k (fun t => { t with index := j, loops := ls })
  else if j < s.codeLen k then s.modThr k (fun t => { t with index := j, loops := ls })
  else if isBg k then s.bgRestart k false
  else s.progFault k cEnd 0 0

/-- The instruction retires and execution falls through, loops being settled (R168, R174). -/
def State.retire (s : State) (x : Ctx) : State :=
  let t := s.thr (ctxKey x)
  let r := settleLoops t.loops (t.index + 1)
  s.goto (ctxKey x) r.1 r.2

/-- A taken branch to index `j` leaves every loop whose body does not contain `j` (R174). -/
def State.branchTo (s : State) (x : Ctx) (j : Nat) : State :=
  let t := s.thr (ctxKey x)
  s.goto (ctxKey x) (t.loops.filter (fun l => decide (l.first ≤ j) && decide (j < l.stop))) j

/-- A fault of the instruction being issued. -/
def State.faultAt (s : State) (x : Ctx) (cause tc : Nat) (val : BitVec 64) : State := s.progFault (ctxKey x) cause tc val

end Sys2Proof.Machine
end

