-- ==== Sys2Proof/Machine/HostOps.lean ====
section
/-! DEFINITION. Shared operations of the host endpoint and of descriptor rings: writes to host memory, ring indices, fetches,
malformed entries, completions, notification queues, and the buffers of receive and export rings. -/

namespace Sys2Proof.Machine

/-! ### The device's own BARs (R311, R312) -/

/-- Bytes of a function's BAR 0, 2 or 4. -/
def barBytes (f bar : Nat) : Nat :=
  let mib := 1048576
  if f = 0 then (if bar = 0 then 128 * mib else if bar = 2 then 64 * mib else mib)
  else if f = 128 then (if bar = 0 then mib else if bar = 2 then 256 * 1024 else 64 * 1024)
  else if bar = 0 then mib else if bar = 2 then 4 * mib else 64 * 1024

/-- Do `n` bytes from address `a` on meet a BAR of a function on the bus?  No request is issued there (R312). -/
def State.ownBar (s : State) (a n : Nat) : Bool :=
  s.host.bars.any (fun e => s.get .hostFnStaState (e.1 / 3) != 0 && decide (a < e.2 + barBytes (e.1 / 3) (e.1 % 3 * 2)) && decide (e.2 < a + n))

/-! ### Access to host memory (R312, R315) -/

/-- The 4 KiB pages of a range. -/
def pagesOf (a n : Nat) : List Nat := if n = 0 then [] else (List.range ((a + n - 1) / 4096 - a / 4096 + 1)).map (· + a / 4096)

/-- May function `f` use a page: its ATS is off, its translation is held, or a Translation Request of now grants it (R315)? -/
def State.pageOk (s : State) (f p : Nat) : Bool := !s.is .hostFnStaAts f || s.host.ats.contains (f, p) || Config.atsGrants f p s.freeCtr

/-- Does an access of `n` bytes at `a` succeed as far as the device can tell: not at its own BARs, and with every page granted? -/
def State.canReach (s : State) (f a n : Nat) : Bool := !s.ownBar a n && (pagesOf a n).all (s.pageOk f)

/-- One Translation Request of function `f`; a translation it grants is held.  A full cache gives up its oldest entry (DESIGN CHOICE,
assumption 23). -/
def State.askAts (s : State) (k f p : Nat) : State :=
  let s := s.emit (.atsReq f p)
  if Config.atsGrants f p k then
    { s with host := { s.host with ats := (if 8192 ≤ s.host.ats.length then s.host.ats.drop 1 else s.host.ats) ++ [(f, p)] } }
  else s

/-- A function's access uses the translations of its pages, if its ATS is enabled; those the cache does not hold are requested (R315). -/
def State.useAts (s : State) (f a n : Nat) : State :=
  let miss := (pagesOf a n).filter (fun p => !s.host.ats.contains (f, p))
  if s.is .hostFnStaAts f && !miss.isEmpty then (miss.foldl (fun t p => t.askAts s.freeCtr f p) s).useFree else s

/-! ### Writes to host memory (R312, R315, R320, R322, R326) -/

/-- What an access asks of the host's translation agent before it is issued; nothing at the device's own addresses. -/
def State.tryAts (s : State) (f a n : Nat) : State := if s.ownBar a n then s else s.useAts f a n

/-- Send a posted write, or drop it where the access fails. -/
def State.sendWr (s : State) (f a : Nat) (d : Bytes) : State :=
  if s.canReach f a d.length then (s.useAts f a d.length).emit (.hostWrite f a d) else s.tryAts f a d.length

/-- A posted write for function `f`, from an entry of a ring or from none: sent, held while the function may not send, or dropped while it
is absent or in FLR. -/
def State.hostWriteFor (s : State) (src : Option (Nat × Nat)) (f addr : Nat) (data : Bytes) : State :=
  if s.get .hostFnStaState f = 0 || s.get .hostFnStaState f = 2 then s
  else if s.fnSends f then s.sendWr f addr data
  else { s with host := { s.host with held := s.host.held ++ [{ fn := f, addr := addr, data := data, ring := src }] } }

/-- A posted write for function `f` that no ring entry asked for. -/
def State.hostWrite (s : State) (f addr : Nat) (data : Bytes) : State := s.hostWriteFor none f addr data

/-- Would a write now be a failed access (R312)?  That of a write held shows when it is sent. -/
def State.wrFails (s : State) (f a n : Nat) : Bool := s.fnSends f && !s.canReach f a n

/-! ### Reads of host memory (R310, R312) -/

/-- The first tag from `t` on that no outstanding read holds, of 2^14 (R310). -/
def freeTag (rs : List HostRead) : Nat → Nat → Nat
  | 0, t => t
  | n + 1, t => if rs.any (fun x => x.tag == t) then freeTag rs n ((t + 1) % 16384) else t

/-- The tag of the next read. -/
def State.newTag (s : State) : Nat := freeTag s.host.reads 2049 s.host.nextTag

/-- Bytes of a code of Max Read Request Size. -/
def State.maxRead (s : State) (f : Nat) : Nat := 128 * 2 ^ (s.pciFn f).mrrs

/-- Issue the requests of a read of `n` bytes at `a`, none longer than the function's Max Read Request Size or across a 4 KiB boundary. -/
def State.readParts (s : State) (f : Nat) : Nat → Nat → Nat → State
  | 0, _, _ => s
  | k + 1, a, n =>
    if n = 0 then s
    else
      let m := min n (s.maxRead f - a % s.maxRead f)
      let t := s.newTag
      ({ s.emit (.hostRead t f a m) with host := { s.host with nextTag := (t + 1) % 16384 } }).readParts f k (a + m) (n - m)

/-- A read of `n` bytes of function `f`'s host memory at `a` is issued, unless it fails first; what it returns comes with the command that
asked for it. -/
def State.readHost (s : State) (f a n : Nat) : State :=
  if s.canReach f a n then (s.useAts f a n).readParts f (n / 128 + 2) a n else s.tryAts f a n

/-! ### Rings -/

/-- A ring. -/
def State.ring (s : State) (r : Nat) : RingSt := SMap.getD s.rings r {}

/-- Store a ring. -/
def State.setRing (s : State) (r : Nat) (v : RingSt) : State := { s with rings := SMap.setD s.rings r v {} }

/-- Modular differences and sums of 32-bit ring indices (R335). -/
def idxSub (a b : Nat) : Nat := (a + 4294967296 - b % 4294967296) % 4294967296
def idxAdd (a b : Nat) : Nat := (a + b) % 4294967296

/-- A ring's registers by name. -/
def State.ringP (s : State) (r : Nat) : Nat := s.get .ringIdxP r
def State.ringH (s : State) (r : Nat) : Nat := s.get .ringIdxH r
def State.ringC (s : State) (r : Nat) : Nat := s.get .ringCiC r
def State.ringK (s : State) (r : Nat) : Nat := s.get .ringCfgK r
def State.ringKind (s : State) (r : Nat) : Nat := s.get .ringCfgKind r
def State.ringOwner (s : State) (r : Nat) : Nat := s.get .ringStaOwner r

/-- The codes of RING_STA.state that are stored; FROZEN is read while the owner may not start work (R350). -/
def rsDisabled : Nat := 0
def rsEnabled : Nat := 1
def rsDraining : Nat := 2
def rsError : Nat := 3

/-- Is a function's ring work frozen: not attached, contained, without master enable, or a tenant freezing (R326, R350, R362)? -/
def State.ownerFrozen (s : State) (f : Nat) : Bool := !s.fnSends f || s.frozenFn f

/-- A ring's state as software reads it. -/
def State.ringState (s : State) (r : Nat) : Nat :=
  if s.get .ringStaState r = rsEnabled ∧ s.ownerFrozen (s.ringOwner r) then 4 else s.get .ringStaState r

/-- May a ring start entries? -/
def State.ringLive (s : State) (r : Nat) : Bool := s.ringState r == rsEnabled

/-- Is a kind a command ring, a buffer ring (R333)? -/
def kindCmd (k : Nat) : Bool := k == 1 || (4 ≤ k && k ≤ 7)
def kindBuf (k : Nat) : Bool := k == 2 || k == 3 || k == 8 || k == 9

/-- Address of an entry (R335). -/
def State.entryAddr (s : State) (r i : Nat) : Nat := s.get .ringBaseBase r * 64 + 64 * (i % 2 ^ s.ringK r)

/-- The lap parity of an index (R337). -/
def State.lapParity (s : State) (r i : Nat) : Bool := bitOf i (s.ringK r)

/-- Is the pass field of a posted entry the complement of its lap parity (R337)? -/
def State.passOk (s : State) (r i : Nat) (e : Bytes) : Bool := bitOf (leAt e 63 1) 0 == !s.lapParity r i

/-- Are bytes `i` to `i + n - 1` of an entry zero? -/
def zeroAt (e : Bytes) (i n : Nat) : Bool := (sliceB e i n).all (· == 0)

/-- Error causes of RING_STA.cause. -/
def ecOpcode : Nat := 1
def ecReserved : Nat := 2
def ecPass : Nat := 3
def ecRange : Nat := 4
def ecDoorbell : Nat := 5
def ecAccess : Nat := 6

/-- Signal a ring's vector, keeping its interval (R340). -/
def State.signalRing (s : State) (r : Nat) : State :=
  if s.is .ringCfgIrqEn r then
    let f := s.ringOwner r
    let v := s.get .ringCfgVec r
    let m := s.get .ringCfgMod r
    let gap := if m = 0 then 0 else 2 ^ (m - 1) * 65536000
    match (s.ring r).lastMsg with
    | some t =>
      if t + gap ≤ s.elapsed then (s.setRing r { s.ring r with lastMsg := some s.elapsed }).signal f v
      else { s with host := { s.host with due := SMap.put s.host.due r (some (t + gap)) } }
    | none => (s.setRing r { s.ring r with lastMsg := some s.elapsed }).signal f v
  else s

/-- Write entry `i` of a ring back: bytes 0-61, then 62-63 with the status and the pass field (R337). -/
def State.writeEntry (s : State) (r i : Nat) (e : Bytes) (status : Nat) : State :=
  let a := s.entryAddr r i
  let f := s.ringOwner r
  (s.hostWriteFor (some (r, i)) f a (sliceB e 0 62)).hostWriteFor (some (r, i)) f (a + 62) [BitVec.ofNat 8 status, BitVec.ofNat 8 (bit (s.lapParity r i))]

/-- The least index among started entries, by distance from C. -/
def leastIdx (c : Nat) : List Nat → Option Nat
  | [] => none
  | i :: t => match leastIdx c t with
    | none => some i
    | some j => if idxSub j c < idxSub i c then some j else some i

/-- A started entry has completed: C moves to the lowest entry that has not (R340). -/
def State.retireEntry (s : State) (r i : Nat) : State :=
  let l := (s.ring r).running.erase i
  let s := s.setRing r { s.ring r with running := l }
  s.set .ringCiC r ((leastIdx (s.ringC r) l).getD (s.ringH r))

/-! ### Notification queues (R351, R352) -/

/-- A ring is in ERROR with a cause and an index (R347). -/
def State.ringFail (s : State) (r cause i : Nat) : State :=
  ((s.set .ringStaState r rsError).set .ringStaCause r cause).set .ringCiErrIdx r i

/-- Would the write of entry `i` of a ring be a failed access (R347)? -/
def State.entryFails (s : State) (r i : Nat) : Bool := s.wrFails (s.ringOwner r) (s.entryAddr r i) 64

/-- Write one record at P of a notification queue; a write that fails stops the queue, with no record of it (R347; DESIGN CHOICE,
assumption 155). -/
def State.postRecord (s : State) (q typ : Nat) (t : BitVec 64) (body : Bytes) : State :=
  let p := s.ringP q
  let e := leBytes typ 2 ++ List.replicate 6 0 ++ leBytes t.toNat 8 ++ sliceB body 0 46 ++ [0, 0]
  if s.entryFails q p then (s.tryAts (s.ringOwner q) (s.entryAddr q p) 64).ringFail q ecAccess p
  else (((s.writeEntry q p e 0).set .ringIdxP q (idxAdd p 1)).bump .ringDoneDone q).signalRing q

/-- Is a notification queue full? -/
def State.nqFull (s : State) (q : Nat) : Bool := 2 ^ s.ringK q ≤ idxSub (s.ringP q) (s.ringC q)

/-- A record that cannot be posted is counted, with the LT of the first and last (R352). -/
def State.loseRecord (s : State) (q : Nat) (t : BitVec 64) : State :=
  let v := s.ring q
  (s.setRing q { v with lost := v.lost + 1, lostFirst := if v.lost = 0 then t else v.lostFirst, lostLast := t }).bump .ringLostLost q

/-- Post the LOST record if records were lost and there is space (R352). -/
def State.postLost (s : State) (q : Nat) : State :=
  let v := s.ring q
  if v.lost ≠ 0 ∧ !s.nqFull q then
    (s.setRing q { v with lost := 0, lostFirst := 0, lostLast := 0 }).postRecord q 1 s.lt
      (leBytes v.lost 8 ++ leBytes v.lostFirst.toNat 8 ++ leBytes v.lostLast.toNat 8)
  else s

/-- A record arises for queue `q`, its event at LT `t` (R351, R352, R349). -/
def State.notify (s : State) (q typ : Nat) (t : BitVec 64) (body : Bytes) : State :=
  if s.ringKind q = 10 ∧ s.get .ringStaState q = rsEnabled then
    let s := s.postLost q
    if s.nqFull q then s.loseRecord q t else s.postRecord q typ t body
  else s.bump .ringLostLost q

/-- A record for the notification queue that ring `r` names, if it names one. -/
def State.notifyOf (s : State) (r typ : Nat) (body : Bytes) : State :=
  if s.is .ringCfgNqEn r then s.notify (s.get .ringCfgNq r) typ s.lt body else s

/-! ### Errors, fetches and starts (R336, R339, R347) -/

/-- A ring becomes DISABLED and leaves service. -/
def State.ringOff (s : State) (r : Nat) : State :=
  (s.set .ringStaState r rsDisabled).leaveService ⟨.ring, r⟩

/-- A ring enters ERROR at an index with a cause and its record (R347): an enabled one, or for a doorbell's value a disabled one (R336).  A
draining ring does not, and is DISABLED once nothing runs (R353). -/
def State.ringError (s : State) (r cause i : Nat) : State :=
  let st := s.get .ringStaState r
  if st = rsDraining then (if (s.ring r).running.isEmpty then s.ringOff r else s)
  else if st = rsEnabled ∨ (st = rsDisabled ∧ cause = ecDoorbell) then
    (s.ringFail r cause i).notifyOf r 5 (leBytes r 2 ++ leBytes cause 1 ++ [0] ++ leBytes i 4)
  else s

/-- Write the completion of a started entry; a write that fails puts the ring in ERROR and leaves the entry without a completion (R340,
R347). -/
def State.finishEntry (s : State) (r i : Nat) (e : Bytes) (status : Nat) : State :=
  if s.entryFails r i then ((s.tryAts (s.ringOwner r) (s.entryAddr r i) 64).ringError r ecAccess i).retireEntry r i
  else (((s.writeEntry r i e status).bump .ringDoneDone r).retireEntry r i).signalRing r

/-- Write the completions of a buffer ring that wait, as long as that of the lowest started entry is among them (R340). -/
def State.drainReady (s : State) (r : Nat) : Nat → State
  | 0 => s
  | n + 1 =>
    let v := s.ring r
    match (leastIdx (s.ringC r) v.running).bind (fun i => v.ready.find? (fun x => x.1 == i)) with
    | some (i, e, st) => ((s.setRing r { v with ready := v.ready.filter (fun x => x.1 != i) }).finishEntry r i e st).drainReady r n
    | none => s

/-- A started entry ends without a completion (DESIGN CHOICE, assumption 155). -/
def State.abandon (s : State) (r i : Nat) : State := (s.retireEntry r i).drainReady r (s.ring r).ready.length

/-- A started entry completes in place with content `e` and a status, in a buffer ring in its turn (R340); one whose ring was reset since
completes without a write (R353). -/
def State.complete (s : State) (r i : Nat) (e : Bytes) (status : Nat) : State :=
  if !(s.ring r).running.contains i then s
  else if kindBuf (s.ringKind r) then
    let v := s.ring r
    (s.setRing r { v with ready := v.ready ++ [(i, e, status)] }).drainReady r (v.ready.length + 1)
  else s.finishEntry r i e status

/-- Started entry `i` writes data to its owner's memory and goes on by `h`; a failed access puts the ring in ERROR and ends the entry
(R347). -/
def State.putThen (s : State) (r i a : Nat) (d : Bytes) (h : State → State) : State :=
  let f := s.ringOwner r
  if s.wrFails f a d.length then ((s.tryAts f a d.length).ringError r ecAccess i).abandon r i
  else h (s.hostWriteFor (some (r, i)) f a d)

/-- Send the held writes of functions that may send again (R322, R327); one that fails puts its ring in ERROR. -/
def State.sendHeld (s : State) : State :=
  let go := s.host.held.filter (fun w => s.fnSends w.fn)
  let stay := s.host.held.filter (fun w => !s.fnSends w.fn)
  go.foldl (fun s w =>
    let t := s.sendWr w.fn w.addr w.data
    match w.ring with
    | some (r, i) => if s.canReach w.fn w.addr w.data.length then t else t.ringError r ecAccess i
    | none => t) { s with host := { s.host with held := stay } }

/-! ### The cache (R339, R345) -/

/-- How many posted entries are not fetched. -/
def State.unfetched (s : State) (r : Nat) : Nat := idxSub (s.ringP r) (s.ringH r) - (s.ring r).cache.length

/-- Fetched entries that follow the cache join it. -/
def joinKept (h : Nat) : List Bytes → List (Nat × Bytes) → List Bytes × List (Nat × Bytes)
  | c, [] => (c, [])
  | c, x :: t => if x.1 = idxAdd h c.length then joinKept h (c ++ [x.2]) t else (c, x :: t)

/-- Entries below a first kept one from index `i` on. -/
def keptGap (i : Nat) : List (Nat × Bytes) → Nat
  | [] => 32
  | x :: _ => idxSub x.1 i

/-- Issue a read of further entries up to the cache's 32 and the ring's end, one at a time, within Max Read Request Size and 4 KiB, no more
than 2,048 outstanding (R339, R310); a failed access puts the ring in ERROR (R312, R347). -/
def State.fetch (s : State) (r : Nat) : State :=
  let v := s.ring r
  let f := s.ringOwner r
  let i := idxAdd (s.ringH r) v.cache.length
  let a := s.entryAddr r i
  let n0 := min (min (s.unfetched r) (32 - v.cache.length - v.kept.length)) (keptGap i v.kept)
  let n := min (min n0 (2 ^ s.ringK r - i % 2 ^ s.ringK r)) ((s.maxRead f - a % s.maxRead f) / 64)
  if s.ringLive r && n != 0 && !s.host.reads.any (fun x => x.ring == r) && decide (s.host.reads.length < 2048) then
    if !s.canReach f a (64 * n) then (s.tryAts f a (64 * n)).ringError r ecAccess i
    else
      let t := s.newTag
      let s := (s.useAts f a (64 * n)).emit (.hostRead t f a (64 * n))
      { s with host := { s.host with reads := s.host.reads ++ [{ tag := t, fn := f, ring := r, first := i, count := n, at_ := s.elapsed }],
                                     nextTag := (t + 1) % 16384 } }
  else s

/-- What is being fetched for a ring is not taken, and its cache is empty. -/
def State.dropCache (s : State) (r : Nat) : State :=
  let s := s.setRing r { s.ring r with cache := [], kept := [] }
  { s with host := { s.host with lost := SMap.put s.host.lost r none,
                                 reads := s.host.reads.map (fun (x : HostRead) => if x.ring == r then { x with void := true } else x) } }

/-! ### Service in rounds (R339) -/

/-- The rings whose enable bit is set, ascending. -/
def State.ringsOn (s : State) : List Nat :=
  (s.regs.filter (fun e => e.1 % 512 == RegName.ringCtl.ctorIdx)).map (fun e => e.1 / 512)

/-- Does a command ring hold work it may start? -/
def State.hasWork (s : State) (r : Nat) : Bool := s.ringLive r && kindCmd (s.ringKind r) && s.ringP r != s.ringH r

/-- May a ring with work start an entry in the present round? -/
def State.turnLeft (s : State) (r : Nat) : Bool := s.hasWork r && decide ((s.ring r).round < s.get .ringCfgWeight r)

/-- A visit to ring `r` begins. -/
def State.visit (s : State) (r : Nat) : State :=
  { s with host := { s.host with svc := some r, svcLeft := s.get .ringCfgBurst r } }

/-- A new round begins. -/
def State.newRound (s : State) : State := { s with rings := s.rings.map (fun e => (e.1, { e.2 with round := 0 })) }

/-- The ring that is served next: the one being visited while its visit lasts, else the next in ascending order with entries left in
the round, starting over until the round is used up. -/
def State.serve (s : State) : Option (State × Nat) :=
  let l := s.ringsOn.filter s.turnLeft
  let fresh := (s.ringsOn.find? s.hasWork).map (fun r => ((s.newRound).visit r, r))
  match s.host.svc with
  | some c =>
    if s.host.svcLeft ≠ 0 ∧ l.contains c then some (s, c)
    else match l.find? (fun r => decide (c < r)), l with
      | some r, _ => some (s.visit r, r)
      | none, r :: _ => some (s.visit r, r)
      | none, [] => fresh
  | none => match l with
    | r :: _ => some (s.visit r, r)
    | [] => fresh

/-- Is ring `r` the one that the round serves? -/
def State.served (s : State) (r : Nat) : Bool := s.serve.any (fun x => x.2 == r)

/-- The served ring uses one of the entries that its visit and the round leave it. -/
def State.turn (s : State) (r : Nat) : State :=
  match s.serve with
  | some (t, _) =>
    let t := t.setRing r { t.ring r with round := (t.ring r).round + 1 }
    { t with host := { t.host with svcLeft := t.host.svcLeft - 1 } }
  | none => s

/-- The served ring has work it cannot start now: its visit ends, and its part of the round (DESIGN CHOICE, assumption 167). -/
def State.passTurn (s : State) (r : Nat) : State :=
  match s.serve with
  | some (t, _) =>
    let t := t.setRing r { t.ring r with round := t.get .ringCfgWeight r }
    { t with host := { t.host with svcLeft := 0 } }
  | none => s

/-! ### Starts (R335, R339, R347) -/

/-- Entry H of a ring is started: it leaves the cache and H advances (R335, R339). -/
def State.startEntry (s : State) (r : Nat) : State :=
  let i := s.ringH r
  let v := s.ring r
  let c := joinKept (idxAdd i 1) (v.cache.drop 1) (v.kept.filter (fun x => x.1 != i))
  (s.setRing r { v with cache := c.1, kept := c.2, running := v.running ++ [i] }).set .ringIdxH r (idxAdd i 1)

/-- Entry H of the command ring that is served is started. -/
def State.beginEntry (s : State) (r : Nat) : State := (s.turn r).startEntry r

/-- Is there a posted entry to start on a live ring of this kind, and is it that ring's turn? -/
def State.canStart (s : State) (r kind : Nat) : Bool :=
  s.ringLive r && s.ringKind r == kind && s.ringP r != s.ringH r && s.served r

/-- Does a command ring reach the entry `e` at H?  Bytes that differ from the entry fetched into the cache are no entry of the ring. -/
def State.reaches (s : State) (r kind : Nat) (e : Bytes) : Bool := s.canStart r kind && (s.ring r).cache.head?.all (· == e)

/-- A command ring whose entry at H must wait passes its turn on. -/
def State.passIf (s : State) (r kind : Nat) (e : Bytes) : State := if s.reaches r kind e then s.passTurn r else s

/-- A command ring reaches the entry at H, whose bytes are `e`: `bad` names what makes it malformed under its own table; otherwise
it is started and `h` acts on its index (R339, R347). -/
def State.takeEntry (s : State) (r kind : Nat) (e : Bytes) (bad : Option Nat) (h : State → Nat → State) : State :=
  if s.reaches r kind e then
    let i := s.ringH r
    match bad with
    | some c =>
      if c = ecOpcode ∨ c = ecReserved then s.ringError r c i
      else if s.passOk r i e then s.ringError r c i else s.ringError r ecPass i
    | none => if s.passOk r i e then h (s.beginEntry r) i else s.ringError r ecPass i
  else s

/-- As `takeEntry`, for an entry that begins with a read of `n` bytes of its owner's memory at `a`, of which `got` bytes came: a failed
access leaves it unstarted, the ring in ERROR at it (R347, R348). -/
def State.takeRead (s : State) (r kind : Nat) (e : Bytes) (bad : Option Nat) (a n got : Nat) (h : State → Nat → State) : State :=
  if s.reaches r kind e && bad.isNone && s.passOk r (s.ringH r) e && n != 0 then
    let f := s.ringOwner r
    (s.readHost f a n).takeEntry r kind e (if s.canReach f a n && got == n then none else some ecAccess) h
  else s.takeEntry r kind e bad h

/-! ### Buffers (R342, R343) -/

/-- Is a buffer entry malformed for a ring of this kind (R342, R347)? -/
def bufBad (kind : Nat) (e : Bytes) : Option Nat :=
  let n := leAt e 4 4
  if leAt e 0 2 ≠ 1 then some ecOpcode
  else if !(zeroAt e 2 2 && zeroAt e 16 46 && decide (leAt e 63 1 < 2)) then some ecReserved
  else if (if kind = 8 then n % 128 == 0 && 128 ≤ n && n ≤ 65536 else 64 ≤ n && n ≤ 16777216) then none else some ecRange

/-- A buffer's length and address. -/
def bufLen (e : Bytes) : Nat := leAt e 4 4
def bufAddr (e : Bytes) : Nat := leAt e 8 8

/-- The cause that makes the cached entry `e` at index `i` of ring `r` malformed, if any. -/
def State.bufFault (s : State) (r i : Nat) (e : Bytes) : Option Nat :=
  match bufBad (s.ringKind r) e with
  | some c => if c = ecRange ∧ !s.passOk r i e then some ecPass else some c
  | none => if s.passOk r i e then none else some ecPass

/-- The entry at H is reached: if it is malformed the ring stops (R347). -/
def State.reachBuf (s : State) (r : Nat) : State :=
  match (s.ring r).cache with
  | [] => s
  | e :: _ => match s.bufFault r (s.ringH r) e with
    | none => s
    | some c => s.ringError r c (s.ringH r)

/-- Fetched entries from index `i` on enter the cache, but for those that have been started; a buffer ring then reaches its head. -/
def State.cacheAdd (s : State) (r i : Nat) (es : List Bytes) : State :=
  let v := s.ring r
  let new := (es.zipIdx.map (fun x => (idxAdd i x.2, x.1))).filter (fun x => decide (idxSub x.1 (s.ringH r) < 32))
  let below := fun (x : Nat × Bytes) => decide (idxSub x.1 (s.ringH r) < idxSub i (s.ringH r))
  let c := joinKept (s.ringH r) v.cache (v.kept.takeWhile below ++ new ++ v.kept.dropWhile below)
  let s := s.setRing r { v with cache := c.1, kept := c.2 }
  if kindBuf (s.ringKind r) && s.get .ringStaState r == rsEnabled then s.reachBuf r else s

/-- The well-formed buffers at the front of the cache, entry `i` being the first. -/
def State.goodBufs (s : State) (r : Nat) : Nat → List Bytes → List Bytes
  | _, [] => []
  | i, e :: t => if (s.bufFault r i e).isNone then e :: s.goodBufs r (idxAdd i 1) t else []

/-- The buffers a ring can offer now. -/
def State.bufsOf (s : State) (r : Nat) : List Bytes := s.goodBufs r (s.ringH r) (s.ring r).cache

/-- The fewest buffers from the front whose lengths reach `n`. -/
def bufsFor : Nat → List Bytes → List Bytes
  | _, [] => []
  | n, e :: t => if n ≤ bufLen e then [e] else e :: bufsFor (n - bufLen e) t

/-- Total length of buffers. -/
def bufTotal (l : List Bytes) : Nat := (l.map bufLen).foldl (· + ·) 0

/-- Start `n` entries and refill the cache. -/
def State.startBufs (s : State) (r : Nat) : Nat → State
  | 0 => (s.reachBuf r).fetch r
  | n + 1 => (s.startEntry r).startBufs r n

/-- May a ring take a frame that needs `need` bytes (R343)? -/
def State.rxOk (s : State) (r need : Nat) : Bool :=
  s.get .ringStaState r == rsEnabled && s.ringKind r == 2 && !s.ownerFrozen (s.ringOwner r) && need ≤ bufTotal (s.bufsOf r)

/-- Write a string into buffers from the front, entry `i` of ring `r` being the first: each takes its length. -/
def State.fillBufs (s : State) (r i : Nat) : List Bytes → Bytes → State
  | [], _ => s
  | e :: t, d =>
    (s.hostWriteFor (some (r, i)) (s.ringOwner r) (bufAddr e) (d.take (bufLen e))).fillBufs r (idxAdd i 1) t (d.drop (bufLen e))

/-- The first buffer, if any, at which writing `n` bytes into buffers from the front is a failed access. -/
def State.fillFails (s : State) (f : Nat) : List Bytes → Nat → Option Nat
  | [], _ => none
  | e :: t, n => if s.wrFails f (bufAddr e) (min n (bufLen e)) then some 0 else (s.fillFails f t (n - bufLen e)).map (· + 1)

/-- Writing `n` bytes into the buffers from entry `i` on fails at the `j`-th: the ring is in ERROR there, and the `m` that were started end
without completion (R347). -/
def State.fillStop (s : State) (r i m j : Nat) : State :=
  let s := (List.range m).foldl (fun s k => s.retireEntry r (idxAdd i k)) (s.ringError r ecAccess (idxAdd i j))
  s.drainReady r (s.ring r).ready.length

/-- Complete the buffers of one frame in order: flags, bytes written, and in the first the frame's data (R342). -/
def State.completeBufs (s : State) (r i : Nat) (stomp : Bool) (info : Bytes) : List Bytes → Nat → State
  | [], _ => s
  | e :: t, left =>
    let w := min left (bufLen e)
    let flags := bit t.isEmpty + 2 * bit stomp
    let c := sliceB e 0 2 ++ leBytes flags 2 ++ leBytes w 4 ++ sliceB e 8 8 ++ sliceB info 0 46
    (s.complete r i c 0).completeBufs r (idxAdd i 1) stomp [] t (left - w)

/-! ### Export rings (R255, R256, R342) -/

/-- Complete the buffer an export ring is filling. -/
def State.closeExp (s : State) (r status : Nat) : State :=
  match (s.ring r).buf with
  | none => s
  | some b =>
    let s := s.setRing r { s.ring r with buf := none }
    s.complete r b.idx (sliceB b.desc 0 2 ++ [0, 0] ++ leBytes b.used 4 ++ sliceB b.desc 8 8 ++ leBytes b.epoch 8 ++
      List.replicate 38 0) status

/-- Begin filling the next cached buffer of an export ring. -/
def State.openExp (s : State) (r : Nat) : State :=
  match s.bufsOf r with
  | [] => s
  | e :: _ =>
    let i := s.ringH r
    let s := s.startEntry r
    let s := s.setRing r { s.ring r with buf := some { idx := i, desc := e } }
    (s.reachBuf r).fetch r

/-- May an export ring take a record of `n` bytes now? -/
def State.expRoom (s : State) (r n : Nat) : Bool :=
  s.ringLive r &&
  ((match (s.ring r).buf with
    | some b => decide (b.used + n ≤ bufLen b.desc)
    | none => false) ||
   (match s.bufsOf r with
    | e :: _ => decide (n ≤ bufLen e)
    | [] => false))

/-- Append one record to the buffer of an export ring, completing a buffer that cannot take it and opening the next; `close`
completes the buffer just after the record (R342). -/
def State.expPut (s : State) (r : Nat) (d : Bytes) (epoch : Nat) (close : Bool) : State :=
  let fits := match (s.ring r).buf with
    | some b => decide (b.used + d.length ≤ bufLen b.desc)
    | none => false
  let s := if fits then s else (s.closeExp r 0).openExp r
  match (s.ring r).buf with
  | none => s
  | some b =>
    if s.wrFails (s.ringOwner r) (bufAddr b.desc + b.used) d.length then
      (s.setRing r { s.ring r with buf := none }).putThen r b.idx (bufAddr b.desc + b.used) d id
    else
      let s := s.hostWriteFor (some (r, b.idx)) (s.ringOwner r) (bufAddr b.desc + b.used) d
      let s := s.setRing r { s.ring r with buf := some { b with used := b.used + d.length, epoch := epoch } }
      if close then s.closeExp r 0 else s

/-- An export ring that has no room for the next record of `n` bytes completes a buffer that cannot take it (R342). -/
def State.closeFull (s : State) (r n : Nat) : State :=
  match (s.ring r).buf with
  | some b => if s.ringLive r && decide (bufLen b.desc < b.used + n) then s.closeExp r 0 else s
  | none => s

end Sys2Proof.Machine
end

