-- ==== Sys2Proof/Machine/Aes.lean ====
section
/-! DEFINITION. The block cipher and the mode the cipher engine performs: AES-128 and AES-256 (FIPS 197) in GCM and GMAC
(NIST SP 800-38D), with 96-bit IVs and 16-byte tags (R290). -/

namespace Sys2Proof.Machine

/-! ### AES -/

/-- Multiplication by x in GF(2⁸). -/
def xtime (b : BitVec 8) : BitVec 8 := (b <<< 1) ^^^ (if b.getLsbD 7 then 0x1B#8 else 0#8)

/-- Multiplication in GF(2⁸), over the `n` low bits of `b`. -/
def gmulN : Nat → BitVec 8 → BitVec 8 → BitVec 8
  | 0, _, _ => 0
  | n + 1, a, b => (if b.getLsbD 0 then a else 0) ^^^ gmulN n (xtime a) (b >>> 1)

/-- Multiplication in GF(2⁸). -/
def gmul (a b : BitVec 8) : BitVec 8 := gmulN 8 a b

/-- The inverse, a²⁵⁴, with 0 mapped to 0. -/
def ginv (a : BitVec 8) : BitVec 8 :=
  let a2 := gmul a a
  let a4 := gmul a2 a2
  let a8 := gmul a4 a4
  let a16 := gmul a8 a8
  let a32 := gmul a16 a16
  let a64 := gmul a32 a32
  let a128 := gmul a64 a64
  gmul a128 (gmul a64 (gmul a32 (gmul a16 (gmul a8 (gmul a4 a2)))))

/-- The S-box. -/
def sbox (a : BitVec 8) : BitVec 8 :=
  let b := ginv a
  b ^^^ b.rotateLeft 1 ^^^ b.rotateLeft 2 ^^^ b.rotateLeft 3 ^^^ b.rotateLeft 4 ^^^ 0x63

/-- Bytewise exclusive or. -/
def xorBytes (a b : Bytes) : Bytes := List.zipWith (· ^^^ ·) a b

/-- The next key-schedule word from the words so far, newest first; `nk` words of key, `i` the new word's number. -/
def nextKeyWord (nk i : Nat) (rcon : BitVec 8) (w : List Bytes) : Bytes :=
  let p := w.getD 0 []
  let t :=
    if i % nk = 0 then xorBytes ((p.drop 1 ++ p.take 1).map sbox) [rcon, 0, 0, 0]
    else if nk = 8 ∧ i % nk = 4 then p.map sbox
    else p
  xorBytes (w.getD (nk - 1) []) t

/-- Key-schedule words, newest first. -/
def keyWords (nk : Nat) : Nat → Nat → BitVec 8 → List Bytes → List Bytes
  | 0, _, _, w => w
  | n + 1, i, rcon, w => keyWords nk n (i + 1) (if i % nk = 0 then xtime rcon else rcon) (nextKeyWord nk i rcon w :: w)

/-- A byte string in pieces of `n`. -/
def chunks (n : Nat) : Nat → Bytes → List Bytes
  | 0, _ => []
  | k + 1, b => if b.isEmpty then [] else b.take n :: chunks n k (b.drop n)

/-- The round keys of a key of 16 or 32 bytes, in order. -/
def roundKeys (key : Bytes) : List Bytes :=
  let nk := key.length / 4
  let ws := (keyWords nk (4 * (nk + 7) - nk) nk 1 (chunks 4 nk key).reverse).reverse
  (chunks 16 (nk + 7) ws.flatten)

/-- ShiftRows on a column-major state. -/
def shiftRows (s : Bytes) : Bytes := (List.range 16).map (fun i => s.getD ((i + 4 * (i % 4)) % 16) 0)

/-- MixColumns on one column. -/
def mixColumn (c : Bytes) : Bytes :=
  (List.range 4).map (fun i =>
    xtime (c.getD i 0) ^^^ (xtime (c.getD ((i + 1) % 4) 0) ^^^ c.getD ((i + 1) % 4) 0) ^^^ c.getD ((i + 2) % 4) 0 ^^^
    c.getD ((i + 3) % 4) 0)

/-- The rounds after the first key addition. -/
def aesRounds : List Bytes → Bytes → Bytes
  | [], s => s
  | [k], s => xorBytes (shiftRows (s.map sbox)) k
  | k :: ks, s => aesRounds ks (xorBytes ((chunks 4 4 (shiftRows (s.map sbox))).map mixColumn).flatten k)

/-- AES encryption of one 16-byte block under expanded keys. -/
def aesWith (ks : List Bytes) (b : Bytes) : Bytes :=
  match ks with
  | [] => b
  | k :: t => aesRounds t (xorBytes b k)

/-- AES encryption of one 16-byte block. -/
def aes (key b : Bytes) : Bytes := aesWith (roundKeys key) b

/-! ### GCM -/

/-- A 16-byte block as a number, first byte most significant. -/
def blockVal (b : Bytes) : BitVec 128 :=
  BitVec.ofNat 128 ((b ++ List.replicate (16 - b.length) 0#8).foldl (fun n x => n * 256 + x.toNat) 0)

/-- A number as a 16-byte block. -/
def blockBytes (v : BitVec 128) : Bytes := (List.range 16).map (fun i => (v >>> (120 - 8 * i)).setWidth 8)

/-- Multiplication in GF(2¹²⁸) over the `n` bits of `x` from bit `n - 1` downwards. -/
def ghMulN (x : BitVec 128) : Nat → BitVec 128 → BitVec 128 → BitVec 128
  | 0, _, z => z
  | n + 1, v, z =>
    ghMulN x n (if v.getLsbD 0 then (v >>> 1) ^^^ 0xE1000000000000000000000000000000#128 else v >>> 1)
      (if x.getLsbD n then z ^^^ v else z)

/-- GHASH over whole blocks. -/
def ghash (h : BitVec 128) (bs : List Bytes) : BitVec 128 := bs.foldl (fun y b => ghMulN (y ^^^ blockVal b) 128 h 0) 0

/-- The key stream of `n` blocks from counter `c` on. -/
def ctrBlocks (ks : List Bytes) (iv : Bytes) : Nat → BitVec 32 → Bytes
  | 0, _ => []
  | n + 1, c =>
    aesWith ks (iv ++ [(c >>> 24).setWidth 8, (c >>> 16).setWidth 8, (c >>> 8).setWidth 8, c.setWidth 8]) ++ ctrBlocks ks iv n (c + 1)

/-- A string in blocks of 16, the last padded with zero. -/
def blocks16 (b : Bytes) : List Bytes := chunks 16 (b.length / 16 + 1) b

/-- GCM's counter mode, which encrypts and decrypts alike. -/
def gcmCrypt (key iv d : Bytes) : Bytes := xorBytes d (ctrBlocks (roundKeys key) iv ((d.length + 15) / 16) 2)

/-- GCM's tag over associated data and ciphertext. -/
def gcmTag (key iv aad ct : Bytes) : Bytes :=
  let ks := roundKeys key
  let h := blockVal (aesWith ks (List.replicate 16 0))
  let lens := wordBytes (BitVec.ofNat 64 (8 * aad.length)) ++ wordBytes (BitVec.ofNat 64 (8 * ct.length))
  xorBytes (blockBytes (ghash h (blocks16 aad ++ blocks16 ct ++ [lens]))) (aesWith ks (iv ++ [0, 0, 0, 1]))

/-- GCM encryption: ciphertext and tag. -/
def gcmSeal (key iv aad pt : Bytes) : Bytes × Bytes :=
  let ct := gcmCrypt key iv pt
  (ct, gcmTag key iv aad ct)

/-- GCM decryption: the plaintext if the tag is right (R295). -/
def gcmOpen (key iv aad ct tag : Bytes) : Option Bytes :=
  if gcmTag key iv aad ct = tag then some (gcmCrypt key iv ct) else none

end Sys2Proof.Machine
end

