-- ==== Sys2Proof/Machine/CipherOps.lean ====
section
/-! DEFINITION. Shared operations of the cipher engine: the key store, class shares, messages in the engine, and the SecY of a port
(chapter 11). -/

namespace Sys2Proof.Machine

/-! ### Key store (R305) -/

/-- A key block. -/
def keyBlk (i : Nat) : Blk := ⟨.key, i⟩
/-- Is a key enabled? -/
def State.keyOn (s : State) (i : Nat) : Bool := s.blkState (keyBlk i) == 2
/-- The record of an enabled key. -/
def State.keyRec? (s : State) (i : Nat) : Option KeyRec := if s.keyOn i then SMap.find s.ciph.keys i else none

/-- Store or zero a key record. -/
def State.putKey (s : State) (i : Nat) (k : Option KeyRec) : State :=
  { s with ciph := { s.ciph with keys := SMap.put s.ciph.keys i k } }

/-- Bytes of a record's key that its length selects. -/
def KeyRec.bytes (k : KeyRec) : Bytes := if bitOf k.flags 0 then k.key else k.key.take 16

/-- The largest value of a 64-bit counter (R441). -/
def top64 : Nat := 2 ^ 64 - 1

/-! ### Shares (R293) -/

/-- The active share bank. -/
def State.shareBank (s : State) : Nat := s.get .ciphStaBank
/-- Rate in Gb/s and burst in bytes of a class under bank `b`. -/
def State.shareRate (s : State) (b c : Nat) : Nat := s.get .ciphShareRate (b * 4 + c)
def State.shareBurst (s : State) (b c : Nat) : Nat := s.get .ciphShareBurst (b * 4 + c)

/-- One byte in the units of a class bucket. -/
def shareByte : Nat := 8 * unitsPerNs

/-- The level of a class's bucket now; a bucket starts full (DESIGN CHOICE, assumption 31). -/
def State.shareLevel (s : State) (c : Nat) : Int :=
  let full : Int := (s.shareBurst s.shareBank c * shareByte : Nat)
  match SMap.find s.ciph.buckets c with
  | none => full
  | some (v, t) => min (v + (s.shareRate s.shareBank c * (s.elapsed - t) : Nat)) full

/-- A message of `n` bytes of a class starts: its bucket pays. -/
def State.payShare (s : State) (c n : Nat) : State :=
  let v := s.shareLevel c - (n * shareByte : Nat)
  { s with ciph := { s.ciph with buckets := SMap.put s.ciph.buckets c (some (v, s.elapsed)) } }

/-! ### Terms of a port with a SecY (R303) -/

/-- Is a port's SecY enabled? -/
def State.secyOn (s : State) (n : Nat) : Bool := s.is .ciphSecyCfgEn n

/-- The part of both terms that the engine adds. -/
def State.secyBase (s : State) (n : Nat) : Nat :=
  ceilDiv (s.get .portMacCfgMaxFrame n + 32) 24 + 40 + ceilDiv (8 * s.shareBurst s.shareBank 0) 3072

/-- The receive term, ns; 0 without a SecY. -/
def State.secyRx (s : State) (n : Nat) : Nat :=
  if s.secyOn n then ceilDiv (8 * (s.get .portMacCfgMaxFrame n + 32)) (s.portRate n) + s.secyBase n else 0

/-- The transmit term, ns. -/
def State.secyTx (s : State) (n : Nat) : Nat := if s.secyOn n then s.secyBase n else 0

/-- Bytes a SecY adds to a frame on the wire. -/
def State.secyGrow (s : State) (n : Nat) : Nat := if s.secyOn n then 32 else 0

/-- The longest frame the MAC of a port takes: max_frame, and what MACsec adds to it (R81, R303). -/
def State.maxRx (s : State) (p : Nat) : Nat := s.get .portMacCfgMaxFrame p + s.secyGrow p

/-- The held-release reserve of a port with a SecY (R296). -/
def State.secyReserve (s : State) (n : Nat) : Nat :=
  if s.secyOn n then s.get .portMacCfgMaxFrame n + 32 + ceilDiv (24 * s.portRate n) 8 else 0

/-! ### Protection and verification (R302, R304) -/

/-- The enabled transmit SA of a port with association number `an`: key index and record. -/
def State.txSa (s : State) (n an : Nat) : Option (Nat × KeyRec) :=
  s.ciph.keys.find? (fun e => s.keyOn e.1 && e.2.use == 4 && e.2.mode == 0 && e.2.ivOff == n && e.2.an == an)

/-- The enabled receive SA of a port for an SCI and association number: it is of the receive SC that has that SCI (R302). -/
def State.rxSa (s : State) (n : Nat) (sci : Bytes) (an : Nat) : Option (Nat × KeyRec) :=
  s.ciph.keys.find? (fun e => s.keyOn e.1 && e.2.use == 4 && e.2.mode == 1 && e.2.ivOff == n && e.2.an == an &&
    SMap.find s.ciph.scs (n * 8 + e.2.encOff) == some sci)

/-- The IV of GCM-AES-XPN: the SSCI and PN under the salt. -/
def xpnIv (k : KeyRec) (pn : Nat) : Bytes := xorBytes (k.ssci ++ beBytes pn 8) k.salt

/-- The SecTAG, 16 bytes: SC and encryption bits with the AN, the short length, the low PN and the SCI. -/
def secTag (an len pn : Nat) (sci : Bytes) : Bytes :=
  [0x88, 0xE5, BitVec.ofNat 8 (0x2C + an % 4), BitVec.ofNat 8 (if len < 48 then len else 0)] ++ beBytes (pn % 2 ^ 32) 4 ++ sci

/-- Protect a frame without its FCS under an SA. -/
def protect (k : KeyRec) (an : Nat) (sci b : Bytes) : Bytes :=
  let d := b.drop 12
  let head := b.take 12 ++ secTag an d.length k.pn sci
  let r := gcmSeal k.bytes (xpnIv k k.pn) head d
  head ++ r.1 ++ r.2

/-- A transmit SA's PN advances; reaching 2⁶³ is shown for its port and recorded (R304). -/
def State.advancePn (s : State) (i : Nat) (k : KeyRec) : State :=
  let s := s.putKey i (some { k with pn := k.pn + 1 })
  if 2 ^ 63 ≤ k.pn + 1 ∧ !s.is .ciphSecyStaPnHigh k.ivOff ∧ s.get .ciphSecyStaTxAn k.ivOff = k.an then
    (s.set .ciphSecyStaPnHigh k.ivOff 1).cairnRec .pnHigh (some ⟨.cipher, 0⟩) [BitVec.ofNat 8 k.ivOff, BitVec.ofNat 8 k.an]
  else s

/-- The PN of a received frame: its low half under the upper half the lowest acceptable PN gives (PRESUMED, assumption 32: the
recovery of IEEE 802.1AEbw). -/
def recoverPn (lowest low : Nat) : Nat :=
  let up := lowest / 2 ^ 32
  if lowest % 2 ^ 32 ≥ 2 ^ 31 ∧ low < 2 ^ 31 then (up + 1) * 2 ^ 32 + low else up * 2 ^ 32 + low

/-- Does a frame's SecTAG say that its user data is encrypted, and not only protected (IEEE 802.1AE: the E and C bits)? -/
def secEncrypted (b : Bytes) : Bool := beAt b 14 1 / 4 == 0x0B

/-- The length of the secure data of a frame without its FCS, where its SecTAG is one with an SCI that IEEE 802.1AE-2018 lets pass: its
version, end station and broadcast bits 0, encrypted or only protected, and the ICV within the frame, behind the data where the short
length counts them, at the frame's end where it is 0 (R302; PRESUMED, assumption 154). -/
def secLen (b : Bytes) : Option Nat :=
  let tci := beAt b 14 1
  let sl := beAt b 15 1
  if beAt b 12 2 ≠ 0x88E5 ∨ (tci / 4 ≠ 0x0B ∧ tci / 4 ≠ 0x08) ∨ 64 ≤ sl then none
  else if sl = 0 then (if b.length < 92 then none else some (b.length - 44))
  else if b.length < 44 + sl then none else some sl

/-- The SA that a received frame without its FCS names; none where it carries no SecTAG as it should or names none (R302, R303). -/
def State.rxSaOf (s : State) (n : Nat) (b : Bytes) : Option (Nat × KeyRec) :=
  if (secLen b).isNone then none else s.rxSa n (sliceB b 20 8) (beAt b 14 1 % 4)

/-- A frame's user data under a key and IV, its tag being right; what is only protected is all authenticated (R302). -/
def secData (k : KeyRec) (iv b : Bytes) : Option Bytes :=
  match secLen b with
  | none => none
  | some n =>
    let d := (b.drop 28).take n
    let tag := (b.drop (28 + n)).take 16
    if secEncrypted b then gcmOpen k.bytes iv (b.take 28) d tag
    else (gcmOpen k.bytes iv (b.take (28 + n)) [] tag).map (fun _ => d)

/-- A frame that its port's SecY does not pass is discarded and counted, without a leaf (R303). -/
def State.secyDrop (s : State) (fid : Nat) : State :=
  match s.frame? fid with
  | none => s
  | some f => (s.bump .ciphSecyDiscFrames (f.port.getD 0)).putFrame fid { f with stage := .done }

/-- A port's SecY verifies a received frame without its FCS under SA `i`, whose record was fetched as `k` under incarnation `inc`: the plain
frame, or none where replay or the tag fails (R302, R303).  Once the key has another incarnation its record is not this SA's (R305). -/
def State.secyOpen (s : State) (n i inc : Nat) (k : KeyRec) (b : Bytes) : State × Option Bytes :=
  let own := s.keyOn i && s.blkInc (keyBlk i) == inc
  let sa := if own then (s.keyRec? i).getD k else k
  let pn := recoverPn sa.pn (beAt b 16 4)
  if pn < sa.pn ∨ 2 ^ 64 ≤ pn then (s, none)
  else match secData k (xpnIv k pn) b with
    | none => (s.bump .ciphTagFailFails, none)
    | some d =>
      let nx := max sa.nextPn (pn + 1)
      let lo := max sa.pn (nx - s.get .ciphSecyCfgReplayWin n)
      (if own then s.putKey i (some { sa with nextPn := nx, pn := lo }) else s, some (b.take 12 ++ d))

/-- A frame that its port's SecY holds is passed, plain, or discarded (R303). -/
def State.secyPass (s : State) (fid i inc : Nat) (k : KeyRec) : State :=
  match s.frame? fid with
  | none => s
  | some f =>
    let r := s.secyOpen (f.port.getD 0) i inc k (f.bytes.take (f.bytes.length - 4))
    match r.2 with
    | none => r.1.secyDrop fid
    | some b =>
      let b := sealFrame b false
      r.1.putFrame fid { f with bytes := b, hdr := sliceB b 0 256, plain := true }

/-! ### Messages of programs and of host software (R291) -/

/-- A message enters the engine. -/
def State.addJob (s : State) (cls : Nat) (u : CipherUser) (key len : Nat) : State :=
  let j : CipherJob := { id := s.ciph.nextJob, cls := cls, user := u, keyIx := key, keyInc := s.blkInc (keyBlk key), len := len }
  { s with ciph := { s.ciph with jobs := s.ciph.jobs ++ [j], nextJob := s.ciph.nextJob + 1 } }

/-- A frame just emitted to the engine becomes a message of class 1 (R291, R297). -/
def State.addFrameJob (s : State) (fid : Nat) : State :=
  match s.frame? fid with
  | none => s
  | some f => match f.dest with
    | .cipher key =>
      if f.stage = .emitted then (s.putFrame fid { f with stage := .cipher }).addJob 1 (.frame fid) key (s.frameLen f) else s
    | _ => s

end Sys2Proof.Machine
end

