-- ==== Sys2Proof/Machine/ZoanoOps.lean ====
section
/-! DEFINITION. Shared operations of the Zoano fabric at the sender and of its windows: Δ and fitness, contexts, submission and
completion of messages, windows and their generations, the twin's heartbeat, and quarantine (chapter 10). -/

namespace Sys2Proof.Machine

/-! ### External memory (R445) -/

/-- Does a range of external memory hold a word marked uncorrectable? -/
def State.extBad (s : State) (a n : Nat) : Bool :=
  s.mem.bad.any (fun e => decide (a / 8 ≤ e.1) && decide (e.1 < (a + n + 7) / 8))

/-- The record of an access that meets such a word: the address and the holder's code, the row of R445's table. -/
def State.extNote (s : State) (a n holder : Nat) : State :=
  if s.extBad a n then s.cairnRec .memUncorr none (leBytes a 8 ++ [BitVec.ofNat 8 holder, 0]) else s

/-- Write a string to external memory; words written whole are no longer marked. -/
def State.extWrite (s : State) (a : Nat) (d : Bytes) : State :=
  { s with mem := { s.mem with ext := Mem.setBytes s.mem.ext a d,
                               bad := s.mem.bad.filter (fun e => !(decide (a ≤ 8 * e.1) && decide (8 * e.1 + 8 ≤ a + d.length))) } }

/-! ### Δ and fitness (R276, R282-R285) -/

/-- LT units in one unit of a Δ code, 16 µs. -/
def deltaUnit : Nat := 1048576000

/-- 5Δ/4 of a code, in LT units. -/
def fiveQuarters (code : Nat) : Nat := code * deltaUnit * 5 / 4

/-- The active Δ code. -/
def State.deltaCode (s : State) : Nat := s.get .zoaDeltaDelta (s.get .zoaStaBank)

/-- Does a receiver honour a Δ code (R285)? -/
def State.deltaHonoured (s : State) (c : Nat) : Bool :=
  c == s.deltaCode || s.zoa.oldDelta.any (fun o => c == o.1 && decide (s.elapsed < o.2))

/-- Does the full error bound exceed Δ/8 of a code, or is the fabric in quarantine (R282, R283)?  Δ/8 is 8,000 quarter
nanoseconds a unit. -/
def State.zoaUnfit (s : State) (code : Nat) : Bool := s.is .zoaStaQuarantine || decide (code * 8000 < s.ebLive)

/-- Domain time now (R265). -/
def State.domainTime (s : State) : BitVec 64 := BitVec.ofNat 64 (s.ftOf s.lt)

/-- The domain time of an elapsed instant of this or the last epoch. -/
def State.domainAt (s : State) (t : Nat) : BitVec 64 := BitVec.ofNat 64 (s.ftOf (BitVec.ofNat 64 t))

/-! ### Frames the fabric takes (R262, R263) -/

/-- The device's own IP address: 16 or 4 bytes. -/
def State.ownIp (s : State) : Bytes :=
  if s.is .zoaCfgIpv6 then beBytes (s.reg .zoaIp 1).toNat 8 ++ beBytes (s.reg .zoaIp 0).toNat 8
  else beBytes ((s.reg .zoaIp 0).toNat % 2 ^ 32) 4

/-- The offset of the IP header, after the VLAN tags. -/
def ipOffset (b : Bytes) : Nat := typeOffset b 2 12 + 2

/-- The offset of the UDP header of a frame to the device's IP address and Zoano UDP port, as the parser finds it: after VLAN tags, IPv4
options and IPv6 extension headers (R98, R263). -/
def State.zoaUdp (s : State) (b : Bytes) : Option Nat :=
  let o := ipOffset b
  let et := beAt b (o - 2) 2
  let dst := if s.is .zoaCfgIpv6 then sliceB b (o + 24) 16 else sliceB b (o + 16) 4
  match l3Next b (min 256 b.length) et o with
  | some (p, u) =>
    if p = 17 ∧ et = (if s.is .zoaCfgIpv6 then 0x86DD else 0x0800) ∧ dst = s.ownIp ∧ beAt b (u + 2) 2 = s.get .zoaCfgUdpPort ∧
        s.get .zoaCfgUdpPort ≠ 0 ∧ u + 8 ≤ b.length then some u else none
  | none => none

/-- Does the fabric take a frame on a port (R263)? -/
def State.isZoano (s : State) (n : Nat) (b : Bytes) : Bool := s.is .zoaPortCfgRxEn n && (s.zoaUdp b).isSome

/-! ### Contexts (R270, R288, R373) -/

/-- Bytes of a payload size code. -/
def psizeBytes (c : Nat) : Nat := 256 * 2 ^ c

/-- The code of a payload size, if it is one of the five. -/
def psizeCode (n : Nat) : Option Nat := (List.range 5).find? (fun c => psizeBytes c == n)

/-- The frame length that a payload size requires (R264, R270), a VLAN tag included. -/
def zoaFrameLen (ipv6 prot : Bool) (psize : Nat) : Nat :=
  14 + 4 + (if ipv6 then 40 else 20) + 8 + 56 + psize + (if prot then 16 else 0) + 4

/-- Does a 192-byte context break the layout of R270, its first four bytes aside? -/
def wqShapeBad (b : Bytes) : Bool :=
  b.length != 192 || decide (2 ^ 18 ≤ leAt b 4 4) || (psizeCode (leAt b 28 2)).isNone || leAt b 30 1 == 0 ||
  decide (16 < leAt b 30 1) || decide (15 < leAt b 31 1) || !zeroAt b 38 2 || !zeroAt b 48 16 ||
  (List.range 16).any (fun i => decide (i < leAt b 30 1) && !zeroAt b (65 + 8 * i) 1)

/-- Read a context. -/
def wqOf (b : Bytes) : Wq :=
  { owner := leAt b 2 1, en := bitOf (leAt b 3 1) 0, prot := bitOf (leAt b 3 1) 1, node := leAt b 4 4, ip := sliceB b 8 16,
    rate := leAt b 24 4, psize := leAt b 28 2, queue := leAt b 31 1, defKey := leAt b 32 4, keyIx := leAt b 36 2,
    nq := BitVec.ofNat 64 (leAt b 40 8),
    ports := (List.range (leAt b 30 1)).map (fun i => (leAt b (64 + 8 * i) 1, sliceB b (66 + 8 * i) 6)) }

/-- Is the max_frame of every port of a context large enough (R270)? -/
def State.wqFits (s : State) (w : Wq) : Bool :=
  w.ports.all (fun p => decide (zoaFrameLen (s.is .zoaCfgIpv6) w.prot w.psize ≤ s.get .portMacCfgMaxFrame p.1))

/-- The 192 bytes of a context held in 24 registers. -/
def State.ctxBytes (s : State) (r : RegName) (base : Nat) : Bytes :=
  ((List.range 24).map (fun w => leBytes (s.reg r (base + w)).toNat 8)).flatten

/-- Context number of the twin, and of replica context `p` of bank `b`. -/
def ctxTwin : Nat := 4096
def ctxPeer (b p : Nat) : Nat := 4097 + 2 * b + p

/-- The context that registers hold: its bytes 0-3 are ignored, its protection bit among them (R288, R373). -/
def State.regCtx (s : State) (r : RegName) (base : Nat) : Wq := wqOf (pasteB (s.ctxBytes r base) 0 [0, 0, 0, 0])

/-- The context of a number, if it may be used. -/
def State.ctx? (s : State) (c : Nat) : Option Wq :=
  if c < 4096 then (SMap.find s.zoa.wqs c).filter (fun w => w.en)
  else if c = ctxTwin then some (s.regCtx .zoaTwinCtx 0)
  else some (s.regCtx .jrnPeerCtx ((c - 4097) * 24))

/-! ### Submission (R265, R274, R282, R301) -/

/-- Store or remove a message. -/
def State.putMsg (s : State) (q : Nat) (m : Option ZMsg) : State := { s with zoa := { s.zoa with msgs := SMap.put s.zoa.msgs q m } }

/-- Messages of a context that are not final. -/
def State.msgsOf (s : State) (c : Nat) : SMap ZMsg := s.zoa.msgs.filter (fun e => e.2.ctx == c)

/-- Is the send queue of a context full (R286)? -/
def State.sendFull (s : State) (c : Nat) : Bool := decide (4096 ≤ (s.msgsOf c).length)

/-- The status that refuses a new message through a context, or 0: DENIED while the fabric is off, the context absent or its key
disabled (R270, R301), TIME_UNFIT under R282. -/
def State.refuseMsg (s : State) (c : Nat) : Nat :=
  match s.ctx? c with
  | none => 0x0B
  | some w =>
    if !s.is .zoaCfgEn || (w.prot && !((s.keyRec? w.keyIx).any (fun k => k.use == 3))) then 0x0B
    else if s.zoaUnfit s.deltaCode then 0x03
    else 0

/-- Submit a message: it takes the next ID and the active Δ code (R265, R285). -/
def State.sendMsg (s : State) (w : Wq) (m : ZMsg) : State :=
  let m := { m with id := s.zoa.nextId, session := s.get .zoaStaSession, dcode := s.deltaCode,
                    psize := (psizeCode w.psize).getD 0 }
  let s := s.putMsg s.zoa.nextSeq (some m)
  { s with zoa := { s.zoa with nextSeq := s.zoa.nextSeq + 1, nextId := (s.zoa.nextId + 1) % 2 ^ 48 } }

/-- The message outstanding under a message ID, the latest submitted. -/
def State.msgById (s : State) (id : Nat) : Option (Nat × ZMsg) := (s.zoa.msgs.filter (fun e => e.2.id == id)).getLast?

/-! ### Completion (R274, R280, R281, R286) -/

/-- A work queue's notification record. -/
def State.wqNotify (s : State) (c typ : Nat) (body : Bytes) : State :=
  match SMap.find s.zoa.wqs c with
  | none => s
  | some w => match refBlk w.nq with
    | some b => if b.kind = .ring ∧ s.refCurrent w.nq then s.notify b.ix typ s.lt body else s
    | none => s

/-- The completion entry of a work request: bytes 48-55 and the message ID (R271). -/
def zoaEntry (e : Bytes) (v id : Nat) : Bytes := sliceB e 0 48 ++ leBytes v 8 ++ leBytes id 6

/-- A message of a context did not complete OK: the first such status is kept (R274). -/
def State.noteFail (s : State) (c st : Nat) : State :=
  if SMap.getD s.zoa.fails c 0 = 0 then { s with zoa := { s.zoa with fails := SMap.setD s.zoa.fails c st 0 } } else s

/-- Bytes of a message that its target has acknowledged (R286, R351). -/
def ZMsg.placed (m : ZMsg) : Nat :=
  let ps := psizeBytes m.psize
  (List.range ((m.total + ps - 1) / ps)).foldl (fun n i => if bitOf m.acked i then n + min ps (m.total - i * ps) else n) 0

/-- A message is final with a status: its completion is written, exactly once (R274).  A FLUSH that would be OK takes the first
failing status of its context's earlier messages. -/
def State.finalMsg (s : State) (q status : Nat) : State :=
  match SMap.find s.zoa.msgs q with
  | none => s
  | some m =>
    let was := SMap.getD s.zoa.fails m.ctx 0
    let st := if m.op = 6 ∧ was ≠ 0 then was else status
    let s := (s.putMsg q none).noteFail m.ctx st
    let v := if m.op = 3 ∨ m.op = 4 then m.old.toNat else if st = 0 then m.total else 0
    match m.user with
    | .ring r i e => s.complete r i (zoaEntry e v m.id) st
    | .prog => s.wqNotify m.ctx 3 (leBytes m.ctx 2 ++ leBytes m.id 6 ++ leBytes st 1 ++ List.replicate 7 0 ++
        leBytes m.placed 8)
    | .twin => s
    | .jrn t => { s with zoa := { s.zoa with done := s.zoa.done ++ [(t, st)] } }

/-- The last packet of a message has passed the egress stamp (R274). -/
def State.sentMsg (s : State) (q : Nat) : State :=
  match SMap.find s.zoa.msgs q with
  | none => s
  | some m =>
    if m.sentNote then (s.putMsg q (some { m with sentNote := false })).wqNotify m.ctx 2 (leBytes m.ctx 2 ++ leBytes m.id 6) else s

/-! ### Windows (R266, R267, R287) -/

/-- A window. -/
def State.win (s : State) (i : Nat) : Window := SMap.getD s.zoa.wins i {}

/-- Store a window. -/
def State.setWin (s : State) (i : Nat) (w : Window) : State := { s with zoa := { s.zoa with wins := SMap.setD s.zoa.wins i w {} } }

/-- The generation after `g` (R267). -/
def genNext (g : Nat) : Nat := if g = 255 then 1 else g + 1

/-- Is the generation a window would issue next too young to be issued again (R267)? -/
def State.genBusy (s : State) (i : Nat) : Bool :=
  match SMap.find s.zoa.issued (i * 256 + genNext (s.win i).gen) with
  | some t => decide (s.elapsed < t + fiveQuarters s.deltaCode)
  | none => false

/-- A window takes a new record under its next generation (R267); its first opening puts the block into service (R519). -/
def State.renewWin (s : State) (i : Nat) (w : Window) : State :=
  let g := genNext (s.win i).gen
  let s := s.setWin i { w with gen := g }
  let s := { s with zoa := { s.zoa with issued := SMap.put s.zoa.issued (i * 256 + g) (some s.elapsed) } }
  if w.opened ∧ s.blkInc ⟨.window, i⟩ = 0 then s.enterService ⟨.window, i⟩ else s

/-- A window closes under its next generation; what names its owner's notification queue stays (R267, R269).  Its block stays in service
(DESIGN CHOICE, assumption 127: R519 gives a window's first opening alone as its enable), so opening it again gives no new incarnation. -/
def State.closeWin (s : State) (i : Nat) : State := s.renewWin i { owner := (s.win i).owner, ring := (s.win i).ring }

/-- The twin window is the Turast's own while twin watch is on (R288). -/
def State.twinWin (s : State) (i : Nat) : Bool := s.is .zoaTwinCfgEn && i == s.get .zoaTwinWinWin

/-- A function's work queues are disabled, its messages end without completions, and its windows close (R287). -/
def State.dropFabric (s : State) (f : Nat) : State :=
  let qs := s.zoa.wqs.filter (fun e => e.2.owner == f)
  let s := qs.foldl (fun s e =>
      ({ s with zoa := { s.zoa with wqs := SMap.put s.zoa.wqs e.1 (some { e.2 with en := false }) } }).leaveService ⟨.workQueue, e.1⟩) s
  let s := { s with zoa := { s.zoa with msgs := s.zoa.msgs.filter (fun e => !qs.any (fun q => q.1 == e.2.ctx)),
                                        owed := s.zoa.owed.filter (fun o => o.fn != f) } }
  (s.zoa.wins.filter (fun e => e.2.opened && e.2.owner == f && !s.twinWin e.1)).foldl (fun s e => s.closeWin e.1) s

/-! ### An epoch beginning (R284, R288) -/

/-- A step of size `th` took effect: the fabric is in quarantine for 5Δ/4 + |S|, or until an earlier quarantine ends if that is
later (R284). -/
def State.quarantine (s : State) (th : Int) : State :=
  let e := s.lt + BitVec.ofNat 64 (fiveQuarters s.deltaCode + th.natAbs)
  let old := s.reg .zoaQuarEnd 0
  let s := if s.is .zoaStaQuarantine && ltAfter old e then s else s.setReg .zoaQuarEnd 0 e
  s.set .zoaStaQuarantine 0 1

/-- The 64 bytes of a heartbeat (R288). -/
def State.heartbeat (s : State) : Bytes :=
  beBytes s.epoch 8 ++ beBytes s.tqwLive 4 ++ beBytes (s.reg .ledRcptSeq 0).toNat 8 ++ beBytes (s.get .zoaStaSession) 2 ++
  List.replicate 42 0

/-- A heartbeat is submitted at each epoch beginning while twin watch is on and the message is not refused (R288). -/
def State.beat (s : State) : State :=
  if s.is .zoaTwinCfgEn && s.gateOpen && s.refuseMsg ctxTwin == 0 then
    match s.ctx? ctxTwin with
    | some w =>
      let m : ZMsg := { id := 0, session := 0, user := .twin, ctx := ctxTwin, op := 1, total := 64,
                        wkey := s.get .zoaTwinCfgTwinKey, woff := 0, psize := 0, dcode := 0, data := s.heartbeat }
      s.sendMsg w m
    | none => s
  else s

/-- The fabric at an epoch beginning, at which a step of `th` may have taken effect. -/
def State.zoaEpoch (s : State) (th : Option Int) : State :=
  (match th with
   | some v => s.quarantine v
   | none => s).beat

end Sys2Proof.Machine
end

