-- ==== Sys2Proof/Machine/TmOps.lean ====
section
/-! DEFINITION. Shared operations of the traffic manager: queues, shapers, bank swaps, Col gate lists, eligibility and the order
of service. -/

namespace Sys2Proof.Machine

/-! ### Addresses of banked registers -/

/-- The active TM bank of a port. -/
def State.tmBank (s : State) (p : Nat) : Nat := s.get .tmPortStaBank p
/-- Instance of a queue's bank registers. -/
def qbIx (p q b : Nat) : Nat := (p * 16 + q) * 2 + b
/-- The active Col bank of a port. -/
def State.colBank (s : State) (p : Nat) : Nat := s.get .colStaBank p
/-- Instance of a Col entry register. -/
def colEntIx (p b e : Nat) : Nat := (p * 2 + b) * 1024 + e
/-- Does a port carry admitted contracts? -/
def State.portCarries (s : State) (p : Nat) : Bool := s.get .portStaContracts p != 0

/-! ### Queues -/

/-- The entries of a queue, head first. -/
def State.queue (s : State) (p q : Nat) : List QEnt := SMap.getD s.tm.queues (p * 16 + q) []

/-- Store a queue and show its length and bytes (TM_Q_STA, TM_PORT_STA.queued). -/
def State.setQueue (s : State) (p q : Nat) (l : List QEnt) : State :=
  let old := ((s.queue p q).map (fun e => e.len)).foldl (· + ·) 0
  let new := (l.map (fun e => e.len)).foldl (· + ·) 0
  let s := { s with tm := { s.tm with queues := SMap.setD s.tm.queues (p * 16 + q) l [] } }
  let s := ((s.set .tmQStaFrames (p * 16 + q) (min l.length 0xFFFF)).set .tmQStaBytes (p * 16 + q) new)
  s.set .tmPortStaQueued p (min (s.get .tmPortStaQueued p - old + new) 0xFFFFFFFF)

/-- The longest wire frame of a port (R200, R220). -/
def State.maxWire (s : State) (p : Nat) : Nat := s.get .portMacCfgMaxFrame p + 20

/-- The effective quantum of a weighted queue under bank `b` (R220). -/
def State.quantum (s : State) (p q b : Nat) : Nat :=
  let v := s.get .tmQCfgQuantum (qbIx p q b)
  if v = 0 then 0 else max v (s.maxWire p)

/-! ### Shapers (R221) -/

/-- A shaper's settings under a bank: enabled, cir, pir, cbs, pbs; queue 16 is the port's own shaper. -/
structure Shaper where
  en : Bool
  cir : Nat
  pir : Nat
  cbs : Nat
  pbs : Nat
  deriving DecidableEq, Repr

/-- Read a shaper's settings. -/
def State.shaper (s : State) (p q b : Nat) : Shaper :=
  if q = 16 then
    let i := p * 2 + b
    ⟨s.is .tmPshpBurstEn i, s.get .tmPshpRateCir i, s.get .tmPshpRatePir i, s.get .tmPshpBurstCbs i, s.get .tmPshpBurstPbs i⟩
  else
    let i := qbIx p q b
    ⟨s.is .tmQBurstEn i, s.get .tmQRateCir i, s.get .tmQRatePir i, s.get .tmQBurstCbs i, s.get .tmQBurstPbs i⟩

/-- A shaper's buckets, committed and peak, with 16 fraction bits. -/
def State.bucket (s : State) (p q : Nat) : Int × Int := SMap.getD s.tm.buckets (p * 17 + q) (0, 0)

/-- Store a shaper's buckets. -/
def State.setBucket (s : State) (p q : Nat) (v : Int × Int) : State :=
  { s with tm := { s.tm with buckets := SMap.setD s.tm.buckets (p * 17 + q) v (0, 0) } }

/-- Take a frame's wire length from a shaper's buckets when the frame starts (R221). -/
def State.takeShaper (s : State) (p q wire : Nat) : State :=
  if (s.shaper p q (s.tmBank p)).en then
    let v := s.bucket p q
    s.setBucket p q (v.1 - wire * 65536, v.2 - wire * 65536)
  else s

/-- Is a shaper's governed queue or port eligible: both buckets hold 0 or more (R217)? -/
def State.shaperOk (s : State) (p q : Nat) : Bool :=
  !(s.shaper p q (s.tmBank p)).en || (decide (0 ≤ (s.bucket p q).1) && decide (0 ≤ (s.bucket p q).2))

/-- A queue's deficit. -/
def State.deficit (s : State) (p q : Nat) : Nat := SMap.getD s.tm.deficit (p * 16 + q) 0

/-- Store a queue's deficit. -/
def State.setDeficit (s : State) (p q v : Nat) : State :=
  { s with tm := { s.tm with deficit := SMap.setD s.tm.deficit (p * 16 + q) v 0 } }

/-! ### Clamped launch instants (R230) -/

/-- The clamped instant λ′ of an entry of queue `q`: the earliest of λ, D_q before the earliest deadline in the queue, and for a frame
without a deadline 2³⁰ ns after its enqueue (R230). -/
def State.clampLaunch (s : State) (p q : Nat) (e : QEnt) (l : BitVec 64) : BitVec 64 :=
  let dq := BitVec.ofNat 64 (s.get .tmQDlyDly (p * 16 + q) * unitsPerNs)
  ((s.queue p q).filterMap (fun x => x.deadline.map (· - dq)) ++ e.limit.toList).foldl (fun l m => if ltAfter l m then m else l) l

/-- Count the frames of a launch-enabled queue whose λ′ differs from λ, each once (R230). -/
def State.countClamped (s : State) (p q : Nat) : State :=
  if s.is .tmQCfgLaunchEn (qbIx p q (s.tmBank p)) then
    let due := fun (e : QEnt) => !e.clamped && e.launch.any (fun l => s.clampLaunch p q e l != l)
    ((s.queue p q).foldl (fun s e => if due e then s.bump .tmQLaunchClampFrames (p * 16 + q) else s) s).setQueue p q
      ((s.queue p q).map (fun e => if due e then { e with clamped := true } else e))
  else s

/-! ### TM bank swap (R222, R223, R202) -/

/-- Clear a port's check mark (R202). -/
def State.clearMark (s : State) (p : Nat) : State := s.set .tmPortStaChecked p 0

/-- May a port's TM swap be armed at `t`? `lead`: the 1 µs condition applies (R222, R224). -/
def State.tmArmOk (s : State) (p : Nat) (t : BitVec 64) (lead : Bool) : Bool :=
  s.armTime t lead && !s.is .tmPortStaSwapPending p &&
  (!s.portCarries p || s.is .tmPortStaChecked p) &&
  (List.range 17).all (fun q => let h := s.shaper p q (1 - s.tmBank p); !h.en || decide (h.cir ≤ h.pir))

/-- Arm a port's TM swap, or refuse it (R222). -/
def State.armTm (s : State) (p : Nat) (t : BitVec 64) (lead : Bool) : State :=
  if s.tmArmOk p t lead then
    let s := (s.set .tmPortStaSwapPending p 1).set .tmPortStaSwapRefused p 0
    { s with tm := { s.tm with tmTarget := SMap.put s.tm.tmTarget p (some t) } }
  else s.set .tmPortStaSwapRefused p 1

/-- The TM bank registers of port `p`: pairs of register and instance under bank `b`. -/
def tmBankRegs (p b : Nat) : List (RegName × Nat) :=
  [(.tmPshpRate, p * 2 + b), (.tmPshpBurst, p * 2 + b)] ++
  ((List.range 16).map (fun q => [(RegName.tmQCfg, qbIx p q b), (.tmQRate, qbIx p q b), (.tmQBurst, qbIx p q b)])).flatten

/-- Copy the registers of one list over those of another, pairwise (R432). -/
def State.copyPairs (s : State) (src dst : List (RegName × Nat)) : State :=
  (src.zip dst).foldl (fun s x => s.setReg x.2.1 x.2.2 (s.reg x.1.1 x.1.2)) s

/-- The frames a port's transmitter has been given, oldest first. -/
def State.inTx (s : State) (p : Nat) : List TxFrame := SMap.getD s.tm.tx p []
/-- Store them. -/
def State.setTx (s : State) (p : Nat) (l : List TxFrame) : State := { s with tm := { s.tm with tx := SMap.setD s.tm.tx p l [] } }

/-- The elapsed time of an LT near the current one. -/
def State.elapsedOf (s : State) (t : BitVec 64) : Nat := (s.instantOf t).toNat

/-- A port's TM banks exchange at the swap tick, elapsed time `e` (R223), and frames whose clamped launch instant now differs are counted
(R230).  A frame already selected under the new bank, for that instant or a later one, was selected with the deficits as the swap leaves
them (R228), so they are not capped again. -/
def State.tmSwap (s : State) (p e : Nat) : State :=
  let old := s.tmBank p
  let new := 1 - old
  let was := (List.range 17).map (fun q => (s.shaper p q old).en)
  let s := ((s.set .tmPortStaBank p new).set .tmPortStaSwapPending p 0).clearMark p
  let s := { s with tm := { s.tm with tmTarget := SMap.put s.tm.tmTarget p none } }
  let s := if s.forerunner then s.copyPairs (tmBankRegs p new) (tmBankRegs p old) else s
  let s := (List.range 16).foldl (fun s q => s.countClamped p q) s
  let s := (List.range 17).foldl (fun s q =>
    let h := s.shaper p q new
    if h.en then
      let v := s.bucket p q
      let c : Int := (h.cbs * 65536 : Nat)
      let k : Int := (h.pbs * 65536 : Nat)
      if was.getD q false then s.setBucket p q (min v.1 c, min v.2 k) else s.setBucket p q (c, k)
    else s) s
  if (s.inTx p).any (fun x => x.bank == new && decide (e ≤ s.elapsedOf x.plane)) then s else
  (List.range 12).foldl (fun s i =>
    let v := min (s.deficit p (i + 4)) (s.quantum p (i + 4) new)
    s.setDeficit p (i + 4) v) s

/-! ### Refill ticks, and the charge of a frame that starts (R221, R223) -/

/-- `n` refill ticks of one bucket: rate × 0.032 B each, truncated to 16 fraction bits, capped at the burst (R221). -/
def refillN (level : Int) (rate burst n : Nat) : Int :=
  if n = 0 then level else min (level + (n * (rate * 32 * 65536 / 1000) : Nat)) (burst * 65536 : Nat)

/-- `n` refill ticks of every shaper of a port. -/
def State.refillPort (s : State) (p n : Nat) : State :=
  (List.range 17).foldl (fun s q =>
    let h := s.shaper p q (s.tmBank p)
    if h.en then
      let v := s.bucket p q
      s.setBucket p q (refillN v.1 h.cir h.cbs n, refillN v.2 h.pir h.pbs n)
    else s) s

/-- The LT units between refill ticks. -/
def tickUnits : Nat := 16777216

/-- The elapsed-time tick number at which a port's pending swap falls: the first refill tick at or after its target (R222). -/
def State.swapTick (s : State) (p : Nat) : Option Nat :=
  (SMap.find s.tm.tmTarget p).map (fun t => (((s.elapsed : Int) + ltDiff t s.lt + 16777215) / 16777216).toNat)

/-- A port passes the ticks after `k` up to `n`; its pending swap takes effect at its own tick, whose refill has the new rates
(R221, R223). -/
def State.portTicks (s : State) (k n p : Nat) : State :=
  if n ≤ k then s
  else match s.swapTick p with
  | some w =>
    if w ≤ n then
      let w := max w (k + 1)
      ((s.refillPort p (w - 1 - k)).tmSwap p (w * tickUnits)).refillPort p (n - (w - 1))
    else s.refillPort p (n - k)
  | none => s.refillPort p (n - k)

/-- A frame starts: its wire length leaves the buckets of its queue and of its port (R221). -/
def State.chargeFor (s : State) (p : Nat) (x : TxFrame) : State := (s.takeShaper p x.queue x.ent.wire).takeShaper p 16 x.ent.wire

/-- A port goes from tick `k` on to elapsed time `e`: the ticks up to it, and between them the charges of frames that start. -/
def State.portUntil (s : State) (k e p : Nat) : State :=
  let due := fun (x : TxFrame) => !x.charged && decide (s.elapsedOf x.plane ≤ e)
  let r := ((s.inTx p).filter due).foldl (fun (r : State × Nat) x =>
    let n := max r.2 (s.elapsedOf x.plane / tickUnits)
    ((r.1.portTicks r.2 n p).chargeFor p x, n)) (s, k)
  (r.1.portTicks r.2 (e / tickUnits) p).setTx p ((s.inTx p).map (fun x => if due x then { x with charged := true } else x))

/-- All refill ticks that linear time has passed have acted. -/
def State.catchTicks (s : State) : State :=
  let k := s.tm.lastTick
  if s.elapsed / tickUnits ≤ k then s
  else
    let s := (List.range 256).foldl (fun s p => s.portUntil k s.elapsed p) s
    { s with tm := { s.tm with lastTick := s.elapsed / tickUnits } }

/-! ### Col gate lists (R225-R228, R523) -/

/-- The number of entries of a bank. -/
def State.colCount (s : State) (p b : Nat) : Nat := s.get .colBankCfgCount (p * 2 + b)
/-- The duration of an entry in ns. -/
def State.colDur (s : State) (p b e : Nat) : Nat := s.get .colEntDur (colEntIx p b e)
/-- The cycle of a bank's list in ns. -/
def State.colCycle (s : State) (p b : Nat) : Nat := ((List.range (s.colCount p b)).map (s.colDur p b)).foldl (· + ·) 0
/-- The FT count of a bank's base time. -/
def State.colBase (s : State) (p b : Nat) : Nat :=
  (s.get .colBankSecSec (p * 2 + b) * 1000000000 + s.get .colBankNsNs (p * 2 + b)) * unitsPerNs
/-- A bank's base time as LT under the mapping in force (R45, R227). -/
def State.colS (s : State) (p b : Nat) : BitVec 64 :=
  s.epochStart + BitVec.ofInt 64 ((s.colBase p b : Int) - s.crest.map)

/-- Does a bank hold a list that meets R225 and a valid base time? -/
def State.colBankOk (s : State) (p b : Nat) : Bool :=
  decide (s.colCount p b ≤ 1024) && (List.range (s.colCount p b)).all (fun e => decide (64 ≤ s.colDur p b e)) &&
  decide (s.colCycle p b ≤ 1000000000) && decide (s.get .colBankNsNs (p * 2 + b) < 1000000000)

/-- May a Col switch of port `p` be armed (R227)? `lead` as in `tmArmOk`. -/
def State.colArmOk (s : State) (p : Nat) (lead : Bool) : Bool :=
  let b := 1 - s.colBank p
  s.armTime (s.colS p b) lead && !s.is .colStaPending p && s.colBankOk p b &&
  (!s.portCarries p || s.is .tmPortStaChecked p)

/-- Arm a Col switch to the inactive bank at its base time, or refuse it (R227). -/
def State.armCol (s : State) (p : Nat) (lead : Bool := true) : State :=
  if s.colArmOk p lead then
    let s := ((s.set .colStaPending p 1).set .colStaRefused p 0).setReg .colSwitchLt p (s.colS p (1 - s.colBank p))
    { s with tm := { s.tm with colPend := SMap.put s.tm.colPend p (some (s.reg .crestStepCnt 0).toNat) } }
  else s.set .colStaRefused p 1

/-- The Col bank registers of port `p` under bank `b`. -/
def colBankRegs (p b : Nat) : List (RegName × Nat) :=
  [(.colBankSec, p * 2 + b), (.colBankNs, p * 2 + b), (.colBankCfg, p * 2 + b)] ++
  (List.range 1024).map (fun e => (RegName.colEnt, colEntIx p b e))

/-- A pending Col switch takes effect (R228). -/
def State.colSwitch (s : State) (p : Nat) : State :=
  let old := s.colBank p
  let new := 1 - old
  let sw := s.reg .colSwitchLt p
  let steps := SMap.getD s.tm.colPend p 0
  let n := s.colCount p new
  let start := s.elapsedOf sw
  let s := ((((s.set .colStaBank p new).set .colStaPending p 0).set .colStaEntry p 0).set .colStaListed p (bit (n != 0))).clearMark p
  let s := s.set .colStaStepped p (bit (n != 0 && (s.reg .crestStepCnt 0).toNat != steps))
  let s := if n = 0 then s else s.bump .colCyclesCycles p
  let s := { s with tm := { s.tm with
    colPend := SMap.put s.tm.colPend p none,
    colS := SMap.put s.tm.colS p (if n = 0 then none else some (start, steps)),
    colEnd := SMap.put s.tm.colEnd p
      (if n = 0 then none else some (start + s.colDur p new 0 * unitsPerNs)) } }
  if s.forerunner then s.copyPairs (colBankRegs p new) (colBankRegs p old) else s

/-- The list that governs port `p` at plane instant `t`: its start S in elapsed time and its bank; none where every gate is open. -/
def State.colAt (s : State) (p : Nat) (t : BitVec 64) : Option (Nat × Nat) :=
  if s.is .colStaPending p && ltReached t (s.reg .colSwitchLt p) then
    if s.colCount p (1 - s.colBank p) = 0 then none else some (s.elapsedOf (s.reg .colSwitchLt p), 1 - s.colBank p)
  else (SMap.find s.tm.colS p).map (fun x => (x.1, s.colBank p))

/-- Walk entries from `e` on, the end of entry `e` being `fin` units after the list's start of cycle: the time at which queue
`q` closes, none if it stays open through `k` entries. -/
def State.colClose (s : State) (p b q n : Nat) : Nat → Nat → Nat → Option Nat
  | 0, _, _ => none
  | k + 1, e, fin =>
    let e' := if e + 1 < n then e + 1 else 0
    if bitOf (s.get .colEntGates (colEntIx p b e')) q then
      s.colClose p b q n k e' (fin + s.colDur p b e' * unitsPerNs)
    else some fin

/-- Find the entry that contains offset `o` (LT units into the cycle): the entry and its end offset. -/
def State.colFind (s : State) (p b : Nat) (o : Nat) : Nat → Nat → Nat → Nat × Nat
  | 0, e, fin => (e, fin)
  | k + 1, e, fin => if o < fin then (e, fin) else s.colFind p b o k (e + 1) (fin + s.colDur p b (e + 1) * unitsPerNs)

/-- May a frame of wire length `w` of queue `q` start at plane instant `t` under the gates (R226)? -/
def State.gateOk (s : State) (p q w : Nat) (t : BitVec 64) : Bool :=
  let need := s.txTime p w
  let forced := if s.is .colStaPending p && s.is .colStaListed p && !ltReached t (s.reg .colSwitchLt p) then
      some (ltDiff (s.reg .colSwitchLt p) t).toNat else none
  match s.colAt p t with
  | none => true
  | some (start, b) =>
    let n := s.colCount p b
    let cyc := s.colCycle p b * unitsPerNs
    if cyc = 0 then true
    else
      let o := (s.elapsedOf t - start) % cyc
      let ef := s.colFind p b o n 0 (s.colDur p b 0 * unitsPerNs)
      bitOf (s.get .colEntGates (colEntIx p b ef.1)) q &&
      (let g := max need (s.get .colBankCfgGuardMin (p * 2 + b)) * unitsPerNs
       (match s.colClose p b q n n ef.1 ef.2 with
        | none => true
        | some c => decide (o + g ≤ c)) &&
       (match forced with
        | none => true
        | some c => decide (g ≤ c)))

/-! ### Order of service (R217-R220) -/

/-- The lead of a port's launches without the rate-match hold, ns (R216): a frame's hold has ended before it is selected (R76; DEDUCED,
assumption 11). -/
def State.leadNs (s : State) (p : Nat) : Nat := 8 + s.portOut p + s.secyTx p

/-- The planned plane instant of a launch now (R216). -/
def State.planeOf (s : State) (p : Nat) : BitVec 64 := s.lt + BitVec.ofNat 64 (s.leadNs p * unitsPerNs)

/-- A port as it will be at plane instant `t`: the refills, charges and bank swap up to `t` have acted (R217, R228). -/
def State.portAt (s : State) (p : Nat) (t : BitVec 64) : State := s.portUntil s.tm.lastTick (s.elapsedOf t) p

/-- May a frame still enter a queue of port `p`: does it await its dispatch, its program's end, its enqueue or the cipher engine? -/
def Frame.comingTo (f : Frame) (p : Nat) : Bool :=
  match f.stage, f.dest with
  | .matched, _ | .dqueue _, _ | .held _ _, _ | .cipher, _ => true
  | .emitted, .queue o => o == p
  | .emitted, .mcast _ _ | .emitted, .cipher _ => true
  | .egress, .mcast _ (some (_ :: _, _)) => true
  | _, _ => false

/-- Does a frame stand in some queue of port `p`? -/
def State.queuedAt (s : State) (p fid : Nat) : Bool := (List.range 16).any (fun q => (s.queue p q).any (fun e => e.fid == fid))

/-- May a frame still on its way to the classifier match contract `c` (R101)?  What a frame that its port's SecY has not opened yet will
match is not known, so any may that comes in by a port of the contract (R303). -/
def State.mayMatch (s : State) (f : Frame) (c : Nat) : Bool :=
  match f.port with
  | none => false
  | some n =>
    f.stage == .rx && !isMacCtl f.bytes &&
    (if s.secyOn n && !f.plain then (SMap.getD s.con.versions c []).any (fun v => bitOf v.body.inPorts n)
     else !s.isZoano n f.bytes && (let k := s.keyOf (s.get .ingPortCfgProf n) f.bytes
                                   (s.classifierHit n k.1 k.2 f.lt).any (fun x => x.1 == c)))

/-- Must an entry of port `p` let another frame go first: a frame of its contract and colour with an earlier ingress stamp that stands in
another queue of the port or may still enter one, or one that may still match its contract (R195)?  A frame that is already late holds
up no other (R33; assumption 117). -/
def State.letsPass (s : State) (p : Nat) (e : QEnt) : Bool :=
  match s.frame? e.fid with
  | none => false
  | some f => s.ports.frames.any (fun x =>
      ltAfter f.lt x.2.lt &&
      (match f.con with
       | none => false
       | some (c, _) => s.mayMatch x.2 c || (x.2.con.map (·.1) == some c && x.2.colour == f.colour &&
           (x.2.comingTo p || s.queuedAt p x.1))) &&
      (match x.2.deadline with
       | some d => !ltAfter s.lt d
       | none => true))

/-- The head frame of a queue: the first that may leave it. -/
def State.headOf (s : State) (p q : Nat) : Option QEnt := (s.queue p q).find? (fun e => !s.letsPass p e)

/-- Has the launch instant of queue `q`'s head come at plane instant `t`, under bank `b` (R229, R230)? -/
def State.launchOk (s : State) (p q b : Nat) (e : QEnt) (t : BitVec 64) : Bool :=
  match e.launch with
  | some l => !s.is .tmQCfgLaunchEn (qbIx p q b) || ltReached t (s.clampLaunch p q e l)
  | none => true

/-- The queues of a port that are eligible for plane instant `t`, the holds of their heads having ended; `w` is the port as it will be at
`t` (R76, R217). -/
def State.eligible (s w : State) (p : Nat) (t : BitVec 64) : List Nat :=
  (List.range 16).filter (fun q => match s.headOf p q with
    | none => false
    | some e =>
      decide (e.ready ≤ s.elapsed) && s.launchOk p q (w.tmBank p) e t && s.gateOk p q e.wire t && w.shaperOk p q && w.shaperOk p 16 &&
      decide (SMap.getD s.tm.pauses (p * 16 + q) 0 ≤ s.elapsedOf t))

/-- A port's round. -/
def State.round (s : State) (p : Nat) : Round := SMap.getD s.tm.rounds p {}

/-- Store a port's round. -/
def State.setRound (s : State) (p : Nat) (r : Round) : State :=
  { s with tm := { s.tm with rounds := SMap.setD s.tm.rounds p r {} } }

/-- A turn ends under bank `b`: an empty queue's deficit becomes 0, any other's is kept up to the effective quantum (R219). -/
def State.endTurn (s : State) (p q b : Nat) : State :=
  let s := s.setDeficit p q (if (s.queue p q).isEmpty then 0 else min (s.deficit p q) (s.quantum p q b))
  s.setRound p ⟨q, false⟩

/-- The deficit round among eligible queues `el` under bank `b`: go on with the queue in turn, or begin turns in ascending order until
one sends (R219). -/
def State.drr (s : State) (p b : Nat) (el : List Nat) : Nat → State × Option Nat
  | 0 => (s, none)
  | k + 1 =>
    let r := s.round p
    if r.inTurn then
      match s.headOf p r.cur with
      | some e =>
        if el.contains r.cur && decide (e.wire ≤ s.deficit p r.cur) then (s, some r.cur) else (s.endTurn p r.cur b).drr p b el k
      | none => (s.endTurn p r.cur b).drr p b el k
    else
      let q := if r.cur < 15 then max (r.cur + 1) 4 else 4
      if el.contains q && s.quantum p q b != 0 then
        ((s.setDeficit p q (s.deficit p q + s.quantum p q b)).setRound p ⟨q, true⟩).drr p b el k
      else (s.setRound p ⟨q, false⟩).drr p b el k

/-- The queue that is served next among the eligible queues `el` under bank `b`, and the state with the round moved on (R218). -/
def State.pickQueue (s : State) (p b : Nat) (el : List Nat) : State × Option Nat :=
  let zero := el.find? (fun q => 4 ≤ q && s.quantum p q b == 0)
  match el.find? (fun q => q < 4) with
  | some q => (s, some q)
  | none =>
    if el.any (fun q => 4 ≤ q && s.quantum p q b != 0) then
      let r := s.drr p b el 40
      match r.2 with
      | some q => (r.1, some q)
      | none => (r.1, zero)
    else (s, zero)

/-! ### Enqueue (R195, R197, R229, R230, R235) -/

/-- The contract reserve and the rest of the packet buffer in bytes (R235). -/
def contractReserve : Nat := 50331648
def otherBuffer : Nat := 16777216

/-- Is queue `q` the class of a contract on port `p` (R197)? Contracts in any of states 1-3 count. -/
def State.classQueue (s : State) (p q : Nat) (egress : ConVer → List Nat) : Bool :=
  s.con.versions.any (fun e => e.2.any (fun v =>
    (egress v).contains p && (v.body.gClass == q || v.body.yClass == q)))

/-- Insert an entry so that frames of one contract and colour stay in ingress-stamp order (R195). -/
def insertStamp (before : QEnt → Bool) (e : QEnt) : List QEnt → List QEnt
  | [] => [e]
  | x :: t => if before x then e :: x :: t else x :: insertStamp before e t

/-- The rate-match hold of a frame at egress port `p`: none for a frame without a contract, for one that originates in the Turast or is
wholly buffered by it, and for a multicast copy of a frame whose end has been received (R76, R77, R233, R303). -/
def State.holdOf (s : State) (p : Nat) (f : Frame) : Nat :=
  let copyOfWhole : Bool := match f.dest with
    | .mcast _ _ => f.ended
    | _ => false
  match f.port, s.frameVer f with
  | some i, some v => if f.owner = 0 && !s.secyOn i && !s.secyOn p && !f.whole && !copyOfWhole then s.holdNs i p v.body.lMax else 0
  | _, _ => 0

/-- Put a frame (or a copy of it) into queue `q` of port `p`. -/
def State.enqueue (s : State) (fid p q : Nat) (f : Frame) : State :=
  let len := s.frameLen f
  let limit := if f.launch.isSome && f.deadline.isNone then some (s.lt + BitVec.ofNat 64 (2 ^ 30 * unitsPerNs)) else none
  let e : QEnt := { fid := fid, len := len, wire := len + 20 + s.secyGrow p, deadline := f.deadline, con := f.con.isSome,
                    ready := s.elapsed + s.holdOf p f * unitsPerNs, launch := f.launch, limit := limit }
  let s := if f.launch.isSome && !s.is .tmQCfgLaunchEn (qbIx p q (s.tmBank p)) then s.bump .tmQLaunchIgnFrames (p * 16 + q) else s
  let s := (s.setQueue p q (insertStamp (fun x =>
      match s.frame? x.fid with
      | some g => g.con.map (·.1) == f.con.map (·.1) && f.con.isSome && g.colour == f.colour && ltAfter g.lt f.lt
      | none => false) e (s.queue p q))).countClamped p q
  if f.con.isSome then s.bump .tmBufStaContract 0 len else s.bump .tmBufStaOther 0 len

/-- Bytes of frames without a contract in a queue (R235). -/
def State.ncBytes (s : State) (p q : Nat) : Nat :=
  ((s.queue p q).map (fun e => if e.con then 0 else e.len)).foldl (· + ·) 0

/-- Free the buffer an entry held. -/
def State.freeBuf (s : State) (e : QEnt) : State :=
  if e.con then s.drop .tmBufStaContract 0 e.len else s.drop .tmBufStaOther 0 e.len

end Sys2Proof.Machine
end

