-- ==== Sys2Proof/Machine/CmpOps.lean ====
section
/-! DEFINITION. Compare units: what a firing does, and which firing comes next (R64-R66). -/

namespace Sys2Proof.Machine

/-- The TTO level a unit's action gives (R65). -/
def ttoLevel (action : Nat) (old : Bool) : Bool := if action = 1 then true else if action = 2 then false else !old

/-- The level trigger block `j` drives: its idle level while disabled (R68). -/
def State.ttoDrive (s : State) (j : Nat) : Bool :=
  if s.is .crestTtoCfgEn j then SMap.getD s.crest.tto j (s.is .crestTtoCfgIdle j) else s.is .crestTtoCfgIdle j

/-- The level on ball TTOj: low until boot verification has completed (R68). -/
def State.ttoPin (s : State) (j : Nat) : Bool := s.gateOpen && s.ttoDrive j

/-- A firing that performs no action (R66). -/
def State.cmpStale (s : State) (k : Nat) : State :=
  (s.set .crestCmpStaStale k 1).cairnRec .cmpStale (some ⟨.timeBase, 0⟩)
    (BitVec.ofNat 8 k :: List.replicate 7 0 ++ leBytes (s.reg .crestCmpRef k).toNat 8)

/-- The action of unit `k` at its firing instant (R65, R66). -/
def State.cmpAction (s : State) (k : Nat) : State :=
  let a := s.get .crestCmpCfgAction k
  let j := s.get .crestCmpCfgTto k
  let ref := s.reg .crestCmpRef k
  if a = 1 || a = 2 || a = 3 then
    if s.is .crestTtoCfgEn j then
      { s with crest := { s.crest with tto := SMap.put s.crest.tto j (some (ttoLevel a (s.ttoDrive j))) } }
    else s
  else if a = 4 then
    match refBlk ref with
    | some ⟨.timeBase, _⟩ => if s.refCurrent ref then s.armBankSwap else s.cmpStale k
    | some ⟨.queue, q⟩ => if s.refCurrent ref then s.armTm (q / 16) s.lt false else s.cmpStale k
    | some ⟨.colList, p⟩ => if s.refCurrent ref then s.armCol p else s.cmpStale k
    | _ => s.cmpStale k
  else if a = 5 then
    match refBlk ref with
    | some ⟨.group, g⟩ => if s.refCurrent ref then s.raiseGroup g 25 else s.cmpStale k
    | _ => s.cmpStale k
  else if a = 6 then s.signal 0 (s.get .crestCmpCfgVec k)
  else s

/-- Unit `k` fires: it is counted, acts, and disarms or re-arms at its target plus the period (R65). -/
def State.fireUnit (s : State) (k : Nat) : State :=
  match SMap.find s.crest.cmpTarget k with
  | none => s
  | some t =>
    let s := (s.bump .crestCmpFireFires k).cmpAction k
    let per := s.reg .crestCmpPer k
    if per = 0 then
      { s with crest := { s.crest with cmpTarget := SMap.put s.crest.cmpTarget k none } }.set .crestCmpStaArmed k 0
    else { s with crest := { s.crest with cmpTarget := SMap.put s.crest.cmpTarget k (some (t + per)) } }

/-- Has the target of unit `k` been reached? -/
def State.cmpDue (s : State) (k : Nat) : Bool :=
  match SMap.find s.crest.cmpTarget k with
  | some t => ltReached s.lt t
  | none => false

/-- Every due unit fires, in ascending number (R66). -/
def State.fireDue (s : State) : State :=
  if s.crest.cmpTarget.isEmpty then s else (List.range 64).foldl (fun s j => if s.cmpDue j then s.fireUnit j else s) s

/-- The accumulator at the first CTC tick at or after an elapsed count (R41, R65). -/
def State.tickAcc (s : State) (t : Nat) : Nat :=
  s.crest.tick + ceilDiv (t <<< 16 - s.crest.tick) (max 1 s.crest.addend.toNat) * s.crest.addend.toNat

/-- The accumulator at the CTC tick at which the next armed unit fires, by the addend in use (R65). -/
def State.cmpNext (s : State) : Option Nat :=
  s.crest.cmpTarget.foldl (fun m e =>
    let a := max s.crest.acc.toNat (s.tickAcc (s.instantOf e.2).toNat)
    some (m.elim a (min a))) none

end Sys2Proof.Machine
end

