-- ==== Sys2Proof/Machine/JournalOps.lean ====
section
/-! DEFINITION. Shared operations of the journal function: queues and completions, overlap, replicas and lost peers, FLUSH, and what
resets and disables do (chapter 15). -/

namespace Sys2Proof.Machine

/-- PF1's function number. -/
def pf1 : Nat := 128

/-- Statuses of R378. -/
def jsOk : Nat := 0
def jsCaught : Nat := 1
def jsMissed : Nat := 2
def jsAborted : Nat := 3
def jsMalformed : Nat := 4
def jsRange : Nat := 5
def jsAccess : Nat := 6
def jsMedia : Nat := 7
def jsPeer : Nat := 8

/-! ### Commands -/

/-- Store or remove a command. -/
def State.putJ (s : State) (k : Nat) (c : Option JCmd) : State := { s with jrn := { s.jrn with cmds := SMap.put s.jrn.cmds k c } }

/-- A command. -/
def State.jcmd? (s : State) (k : Nat) : Option JCmd := SMap.find s.jrn.cmds k

/-- The outstanding command of a queue's tag. -/
def State.jTag? (s : State) (q tag : Nat) : Option (Nat × JCmd) :=
  s.jrn.cmds.find? (fun e => e.2.live && e.2.q == q && e.2.tag == tag)

/-- A tag's use count (R376). -/
def State.jUse (s : State) (q tag : Nat) : Nat := SMap.getD s.jrn.uses (q * 32 + tag) 0

/-- The active peer bank. -/
def State.jBank (s : State) : Nat := s.get .jrnStaBank

/-- Peers a bank names. -/
def State.jPeers (s : State) (b : Nat) : Nat := s.get .jrnPeerCfgCount b

/-- Blocks in the region (R372); none while the journal is off. -/
def State.jBlocks (s : State) : Nat := if s.is .jrnCfgEn then s.get .jrnCfgSize * 262144 else 0

/-- The external-memory address of a block. -/
def State.jAddr (s : State) (b : Nat) : Nat := s.get .jrnCfgBase * 2 ^ 30 + 4096 * b

/-- The host address of a tag's slot (R375). -/
def State.jSlot (s : State) (q tag : Nat) : Nat := s.get .jrnQBaseBase q * 2048 + 64 * tag

/-- Do two commands overlap (R380)? -/
def jOverlap (a b : JCmd) : Bool := decide (a.first < b.first + b.count) && decide (b.first < a.first + a.count)

/-- Is a command a WRITE or a READ? -/
def JCmd.moves (c : JCmd) : Bool := c.op == 1 || c.op == 2

/-- Does an earlier command of the queue keep this one from starting (R380)? -/
def State.jWaits (s : State) (k : Nat) (c : JCmd) : Bool :=
  s.jrn.cmds.any (fun e => decide (e.1 < k) && e.2.q == c.q && e.2.live && e.2.moves && !e.2.started && jOverlap e.2 c &&
    (e.2.op == 1 || c.op == 1))

/-- May PF1's journal fetch now (R387)? -/
def State.jFetches (s : State) : Bool := s.fnSends pf1

/-! ### Completions (R376-R378) -/

/-- A tag is no longer outstanding; a draining queue without one is disabled (R389). -/
def State.jFree (s : State) (q tag : Nat) : State :=
  let m := s.get .jrnQStaOutstanding q
  let s := s.set .jrnQStaOutstanding q (if bitOf m tag then m - 2 ^ tag else m)
  if s.get .jrnQStaState q = 2 ∧ s.get .jrnQStaOutstanding q = 0 then (s.set .jrnQStaState q 0).leaveService ⟨.jq, q⟩ else s

/-- A command completes: its slot is written in place, from byte 32 where it was never fetched, the pass bit with the status last (R376, R377), and its tag is free. -/
def State.jComplete (s : State) (c : JCmd) (status detail blocks : Nat) : State :=
  let a := s.jSlot c.q c.tag
  let u := s.jUse c.q c.tag
  let tail := leBytes s.lt.toNat 8 ++ leBytes blocks 4 ++ leBytes detail 1 ++ List.replicate 17 0
  let s := if c.op = 0 then s.hostWrite pf1 (a + 32) tail else s.hostWrite pf1 a (sliceB c.slot 0 32 ++ tail)
  let s := s.hostWrite pf1 (a + 62) [BitVec.ofNat 8 status, BitVec.ofNat 8 (u % 2)]
  let s := { s with jrn := { s.jrn with uses := SMap.setD s.jrn.uses (c.q * 32 + c.tag) (u + 1) 0 } }
  ((s.bump .jrnQDoneDone c.q).signal pf1 (s.get .jrnQCtlVec c.q)).jFree c.q c.tag

/-- The completion a command still owes. -/
def State.jEnd (s : State) (k status detail blocks : Nat) : State :=
  match s.jcmd? k with
  | none => s
  | some c => if c.live then (s.putJ k (some { c with live := false })).jComplete c status detail blocks else s

/-! ### Replicas and peers (R381, R384) -/

/-- A replica's code. -/
def JCmd.rep (c : JCmd) (p : Nat) : Nat := c.reps.getD p 0

/-- Set a replica's code. -/
def JCmd.setRep (c : JCmd) (p v : Nat) : JCmd := { c with reps := c.reps.set p v }

/-- Is peer `p` of bank `b` lost (R384)? -/
def State.peerLost (s : State) (b p : Nat) : Bool := (SMap.find s.jrn.lost (2 * b + p)).isSome

/-- Is a replica to peer `p` not final? -/
def JCmd.repOpen (c : JCmd) (p : Nat) : Bool := c.rep p == 1 || c.rep p == 2 || c.rep p == 5

/-- Detail bits of the peers that a WRITE waits on and whose replica has failed, or that are lost (R384). -/
def State.fuaBits (s : State) (c : JCmd) : Nat :=
  let bad := fun (p : Nat) => c.rep p == 4 || (c.repOpen p && s.peerLost c.bank p)
  bit (bad 0) + 2 * bit (bad 1)

/-- Is every replica acknowledged, or was there none? -/
def JCmd.acked (c : JCmd) : Bool := c.reps.all (fun r => r == 0 || r == 3)

/-- Is every replica final? -/
def JCmd.settled (c : JCmd) : Bool := c.reps.all (fun r => r == 0 || r == 3 || r == 4)

/-- The replica of a WRITE to peer `p` of bank `b` is final with a status other than OK: the peer becomes lost, which is recorded, and shown
in JRN_PEER_STA if the bank is the active one, and no replica is sent to it any more (R384). -/
def State.jLose (s : State) (b p status : Nat) : State :=
  let s := s.bump .jrnPeerFailFails p
  let was := s.peerLost b p
  let s := { s with jrn := { s.jrn with lost := SMap.put s.jrn.lost (2 * b + p) (some ()) } }
  let s := { s with jrn := { s.jrn with cmds := s.jrn.cmds.map (fun e =>
      (e.1, if e.2.bank == b && (e.2.rep p == 1 || e.2.rep p == 5) then e.2.setRep p 4 else e.2)) } }
  let s := if b = s.jBank then s.set .jrnPeerStaLost p 1 else s
  if was then s else s.cairnRec .peerLost (some ⟨.function, pf1⟩) [BitVec.ofNat 8 p, BitVec.ofNat 8 status]

/-- Is a replica kept back by an overlapping one to the same peer, of a WRITE that started earlier, that is not final (R381)? -/
def State.repWaits (s : State) (c : JCmd) (p : Nat) : Bool :=
  s.jrn.cmds.any (fun e => decide (e.2.began < c.began) && e.2.op == 1 && e.2.started && jOverlap e.2 c && e.2.repOpen p)

/-- Offer the replica of WRITE `k` to peer `p`: sent, refused for now, or failed (R381). -/
def State.offerRep (s : State) (k p : Nat) : State :=
  match s.jcmd? k with
  | none => s
  | some c =>
    if c.started && (c.rep p == 1 || c.rep p == 5) && !s.repWaits c p then
      let x := ctxPeer c.bank p
      let st := s.refuseMsg x
      match st, s.ctx? x with
      | 0, some w =>
        let m : ZMsg := { id := 0, session := 0, user := .jrn (k * 8 + p), ctx := x, op := 1, total := 4096 * c.count,
                          wkey := w.defKey, woff := 4096 * c.first, psize := 0, dcode := 0, data := c.data }
        (s.putJ k (some (c.setRep p 2))).sendMsg w m
      | _, _ =>
        if st = 3 ∧ s.epoch < c.epoch + s.get .jrnPeerCfgHold c.bank then s.putJ k (some (c.setRep p 5))
        else (s.putJ k (some (c.setRep p 4))).jLose c.bank p st
    else s

/-! ### FLUSH (R382) -/

/-- Offer a FLUSH's Zoano FLUSH on a replica context. -/
def State.offerFlush (s : State) (k b p : Nat) : State :=
  match s.jcmd? k with
  | none => s
  | some c =>
    let v := SMap.getD c.ctxs (2 * b + p) 0
    if v = 1 ∨ v = 5 then
      let x := ctxPeer b p
      let st := s.refuseMsg x
      match st, s.ctx? x with
      | 0, some w =>
        let m : ZMsg := { id := 0, session := 0, user := .jrn (k * 8 + 4 + 2 * b + p), ctx := x, op := 6, total := 0,
                          wkey := w.defKey, woff := 0, psize := 0, dcode := 0, fence := true }
        (s.putJ k (some { c with ctxs := SMap.put c.ctxs (2 * b + p) (some 2) })).sendMsg w m
      | _, _ =>
        let n := if st = 3 ∧ s.epoch < c.epoch + s.get .jrnPeerCfgHold b then 5 else 4
        s.putJ k (some { c with ctxs := SMap.put c.ctxs (2 * b + p) (some n) })
    else s

/-- The WRITEs a FLUSH covers that are still to start or whose replicas are of interest; one that was removed counts no more (R385). -/
def State.covered (s : State) (c : JCmd) : List JCmd := (c.cover.filterMap s.jcmd?).filter (fun w => w.live || w.started)

/-- Does a FLUSH wait on replica context `x`: for its Zoano FLUSH, or for the replica of a WRITE it covers? -/
def State.flushWaits (s : State) (c : JCmd) (x : Nat) : Bool :=
  (SMap.find c.ctxs x).any (fun v => v != 3) || (s.covered c).any (fun w => w.started && w.bank == x / 2 && w.repOpen (x % 2))

/-- Detail bits of the peers that a FLUSH waits on and that have failed or are lost (R384). -/
def State.flushBits (s : State) (c : JCmd) : Nat :=
  (List.range 2).foldl (fun d p =>
    d + 2 ^ p * bit ((s.covered c).any (fun w => w.started && w.rep p == 4) ||
      (List.range 2).any (fun b => SMap.getD c.ctxs (2 * b + p) 0 == 4 || (s.flushWaits c (2 * b + p) && s.peerLost b p)))) 0

/-- A FLUSH goes on: PEER as soon as a peer it waits on has failed, OK once everything it covers is placed and acknowledged and
every Zoano FLUSH has succeeded; a Zoano FLUSH is sent on a context after its last covered replica (R382, R384). -/
def State.runFlush (s : State) (k : Nat) : State :=
  match s.jcmd? k with
  | none => s
  | some c =>
    if !c.live || c.op != 3 then s
    else
      let d := s.flushBits c
      let ws := s.covered c
      if d ≠ 0 then s.jEnd k jsPeer d 0
      else if !ws.all (fun w => w.started) then s
      else if ws.all (fun w => w.acked) && c.ctxs.all (fun e => e.2 == 3) then s.jEnd k jsOk 0 0
      else c.ctxs.foldl (fun s e =>
        if e.2 = 1 ∧ !ws.any (fun w => 2 * w.bank + e.1 % 2 == e.1 && (w.rep (e.1 % 2) == 1 || w.rep (e.1 % 2) == 5)) then
          s.offerFlush k (e.1 / 2) (e.1 % 2)
        else s) s

/-- Note replica context `x` for a queue's WRITEs, `v` being 1, or 2 where a replica to it failed (R382). -/
def State.noteCtx (s : State) (q x v : Nat) : State :=
  { s with jrn := { s.jrn with wrote := SMap.put s.jrn.wrote (q * 4 + x) (some (max v (SMap.getD s.jrn.wrote (q * 4 + x) 0))) } }

/-- Note the replica contexts of a WRITE for `q`; those that failed as such. -/
def State.noteReps (s : State) (q : Nat) (c : JCmd) : State :=
  ((List.range 2).filter (fun p => c.rep p != 0)).foldl (fun s p => s.noteCtx q (2 * c.bank + p) (if c.rep p = 4 then 2 else 1)) s

/-- A WRITE whose completion waits on its replicas goes on (R379, R384). -/
def State.runFua (s : State) (k : Nat) : State :=
  match s.jcmd? k with
  | none => s
  | some c =>
    if c.live && c.op == 1 && c.started then
      if s.fuaBits c ≠ 0 then s.jEnd k jsPeer (s.fuaBits c) c.count
      else if c.acked then s.jEnd k jsOk 0 c.count
      else s
    else s

/-! ### Starts (R379, R380) -/

/-- Blocks of a READ are delivered, up to one that meets an uncorrectable word or whose host write fails: the state, how many, and the
status (R378). -/
def State.deliver (s : State) (c : JCmd) (haddr : Nat) : Nat → Nat → State × Nat × Nat
  | 0, i => (s, i, jsOk)
  | n + 1, i =>
    let a := s.jAddr (c.first + i)
    let h := haddr + 4096 * i
    if s.extBad a 4096 then (s.extNote a 4096 7, i, jsMedia)
    else if s.wrFails pf1 h 4096 then (s.tryAts pf1 h 4096, i, jsAccess)
    else (s.hostWrite pf1 h (Mem.bytes s.mem.ext a 4096)).deliver c haddr n (i + 1)

/-- A READ that nothing keeps back reads its blocks and completes (R379). -/
def State.runRead (s : State) (k : Nat) : State :=
  match s.jcmd? k with
  | none => s
  | some c =>
    if c.live && c.op == 2 && s.jFetches && !s.jWaits k c then
      let r := (s.putJ k (some { c with started := true })).deliver c (leAt c.slot 16 8) c.count 0
      r.1.jEnd k r.2.2 0 r.2.1
    else s

/-- Bytes of staged data up to a WRITE (R379). -/
def State.jStaged (s : State) (k : Nat) : Nat :=
  ((s.jrn.cmds.filter (fun e => decide (e.1 ≤ k) && e.2.op == 1 && e.2.live && !e.2.started)).map
    (fun e => 4096 * e.2.count)).foldl (· + ·) 0

/-- The data of a WRITE is fetched, once the journal may fetch and the staging buffer has room for it (R379, R387); a fetch that fails or
falls short ends the WRITE (R378). -/
def State.stageWrite (s : State) (k : Nat) : State :=
  match s.jcmd? k with
  | none => s
  | some c =>
    if c.live && c.op == 1 && !c.started && !c.got && s.jFetches && decide (s.jStaged k ≤ 16777216) then
      let a := leAt c.slot 16 8
      let n := 4096 * c.count
      let t := s.readHost pf1 a n
      if s.canReach pf1 a n && decide (n ≤ c.data.length) then t.putJ k (some { c with got := true }) else t.jEnd k jsAccess 0 0
    else s

/-- Is a command over, and of no more interest but for what FLUSHes must know of its replicas? -/
def JCmd.over (c : JCmd) : Bool := !c.live && !(c.op == 1 && c.started && !c.settled)

/-- What is settled is forgotten, but for the contexts whose replicas failed (R382, R384). -/
def State.jForget (s : State) : State :=
  let t := s.jrn.cmds.foldl (fun s e =>
    if e.2.over && e.2.op == 1 && e.2.started then (if e.2.past then s else s.noteReps e.2.q e.2).noteReps 64 e.2 else s) s
  { t with jrn := { t.jrn with cmds := t.jrn.cmds.filter (fun e => !e.2.over) } }

/-- Everything that has been waiting is looked at again, in the order of acceptance: WRITEs' data is fetched as space allows, and what is
settled is forgotten. -/
def State.jSettle (s : State) : State :=
  (s.jrn.cmds.foldl (fun s e =>
    match e.2.op with
    | 1 => (s.runFua e.1).stageWrite e.1
    | 2 => s.runRead e.1
    | 3 => s.runFlush e.1
    | _ => s) s).jForget

/-- The codes a WRITE's replicas start with: to be sent to every peer of the bank, failed where the peer is lost (R381, R384). -/
def State.newReps (s : State) : List Nat :=
  (List.range 2).map (fun p =>
    if p < s.jPeers s.jBank then (if s.peerLost s.jBank p then 4 else 1) else 0)

/-- A WRITE starts: its blocks are placed, its replicas fall due, and FLUSHes that cover it concern their contexts (R379, R381,
R382). -/
def State.startWrite (s : State) (k : Nat) (c : JCmd) : State :=
  let b := s.jBank
  let c := { c with started := true, bank := b, epoch := s.epoch, reps := s.newReps, began := s.jrn.starts }
  let s := ({ s with jrn := { s.jrn with starts := s.jrn.starts + 1 } }.putJ k (some c)).extWrite (s.jAddr c.first) c.data
  let xs := (List.range 2).filter (fun p => c.rep p != 0)
  let s := xs.foldl (fun s p =>
    { s with jrn := { s.jrn with
        cmds := s.jrn.cmds.map (fun e =>
          (e.1, if e.2.op == 3 && e.2.cover.contains k && (SMap.find e.2.ctxs (2 * b + p)).isNone then
              { e.2 with ctxs := SMap.put e.2.ctxs (2 * b + p) (some 1) } else e.2)) } }) s
  if bitOf c.flags 0 then s else s.jEnd k jsOk 0 c.count

/-! ### What the fabric reports -/

/-- A journal message is final (R382, R384): a replica's, or a FLUSH's. -/
def State.jFinal (s : State) (tok status : Nat) : State :=
  let k := tok / 8
  let v := tok % 8
  match s.jcmd? k with
  | none => s
  | some c =>
    if v < 4 then
      if status = 0 then s.putJ k (some (c.setRep v 3))
      else (s.putJ k (some (c.setRep v 4))).jLose c.bank v status
    else if c.live ∧ c.op = 3 then
      s.putJ k (some { c with ctxs := SMap.put c.ctxs (v - 4) (some (if status = 0 then 3 else 4)) })
    else s

/-- The journal acts on messages that have become final. -/
def State.jrnSettle (s : State) : State :=
  if s.zoa.done.isEmpty then s
  else
    let l := s.zoa.done
    let s := { s with zoa := { s.zoa with done := [] } }
    (l.foldl (fun s e => s.jFinal e.1 e.2) s).jSettle

/-- At an epoch beginning refused replicas and FLUSHes are offered again (R381). -/
def State.jrnEpoch (s : State) : State :=
  if s.jrn.cmds.isEmpty then s
  else
    let s := s.jrn.cmds.foldl (fun s e =>
      if e.2.op = 1 then (List.range 2).foldl (fun s p => if e.2.rep p = 5 then s.offerRep e.1 p else s) s
      else if e.2.op = 3 then
        e.2.ctxs.foldl (fun s x => if x.2 = 5 then s.offerFlush e.1 (x.1 / 2) (x.1 % 2) else s) s
      else s) s
    s.jSettle

/-! ### Resets and disables (R386, R389) -/

/-- A host-side reset of PF1: started WRITEs finish internally, everything else is dropped without completion, and every queue is
disabled (R386). -/
def State.jrnReset (s : State) : State :=
  let started := fun (q : Nat) => s.jrn.cmds.foldl (fun m e =>
      if e.2.q == q && e.2.op == 1 && e.2.started && e.2.live then m ||| 2 ^ e.2.tag else m) 0
  let s := (List.range 64).foldl (fun s q =>
    let s := s.set .jrnQFlrFinished q (started q)
    if s.get .jrnQStaState q = 0 then s
    else (((s.set .jrnQStaOutstanding q 0).set .jrnQStaState q 0).set .jrnQCtlEn q 0).leaveService
      ⟨.jq, q⟩) s
  State.jForget { s with jrn := { s.jrn with
      cmds := ((s.jrn.cmds.filter (fun e => e.2.op == 1 && e.2.started)).map (fun e => (e.1, { e.2 with live := false }))),
      uses := [] } }

/-- A queue is enabled: a new incarnation, use counts of 0 (R376, R386). -/
def State.jqEnable (s : State) (q : Nat) : State :=
  let s := ((s.set .jrnQCtlEn q 1).set .jrnQStaState q 1).enterService ⟨.jq, q⟩
  { s with jrn := { s.jrn with
      uses := s.jrn.uses.filter (fun e => e.1 / 32 != q), wrote := s.jrn.wrote.filter (fun e => e.1 / 4 != q),
      cmds := s.jrn.cmds.map (fun e => (e.1, if e.2.q = q then { e.2 with past := true } else e.2)) } }

/-- A queue's en is cleared: commands not started complete ABORTED, and it is disabled once none is outstanding (R389). -/
def State.jqDisable (s : State) (q : Nat) : State :=
  if s.get .jrnQStaState q = 1 then
    let s := (s.set .jrnQCtlEn q 0).set .jrnQStaState q 2
    let s := (s.jrn.cmds.filter (fun e => e.2.q == q && e.2.live && (e.2.moves || e.2.op == 0) && !e.2.started)).foldl
      (fun s e => s.jEnd e.1 jsAborted 0 0) s
    let s := s.jSettle
    if s.get .jrnQStaState q = 2 ∧ s.get .jrnQStaOutstanding q = 0 then (s.set .jrnQStaState q 0).leaveService ⟨.jq, q⟩ else s
  else s

/-- Is any replica not final (R374, R389)? -/
def State.repsOpen (s : State) : Bool := s.jrn.cmds.any (fun e => e.2.op == 1 && e.2.started && !e.2.settled)

/-- Replicas to peer `p` of the active bank that are not final (JRN_PEER_STA.pending). -/
def State.repsPending (s : State) (p : Nat) : Nat :=
  (s.jrn.cmds.filter (fun e => e.2.op == 1 && e.2.started && e.2.bank == s.jBank && e.2.repOpen p)).length

/-- May a swap of the peer banks be armed at `t` (R374)? -/
def State.peerSwapOk (s : State) (t : BitVec 64) (lead : Bool) : Bool :=
  let b := 1 - s.jBank
  s.armTime t lead && !s.is .jrnStaSwapPending &&
  !s.zoa.msgs.any (fun e => e.2.ctx == ctxPeer b 0 || e.2.ctx == ctxPeer b 1) &&
  !s.jrn.cmds.any (fun e => e.2.op == 1 && e.2.started && e.2.bank == b && !e.2.settled)

/-- Arm a swap of the peer banks, or refuse it (R374). -/
def State.armPeer (s : State) (t : BitVec 64) (lead : Bool := true) : State :=
  if s.peerSwapOk t lead then
    let s := (s.set .jrnStaSwapPending 0 1).set .jrnStaSwapRefused 0 0
    { s with jrn := { s.jrn with peerTarget := some t } }
  else s.set .jrnStaSwapRefused 0 1

/-- The peer banks exchange: no peer of the new bank is lost, and what its contexts' earlier messages came to no longer counts
(R374, R384; DEDUCED, assumption 43). -/
def State.peerSwap (s : State) : State :=
  let old := s.jBank
  let b := 1 - old
  let s := (s.set .jrnStaBank 0 b).set .jrnStaSwapPending 0 0
  let s := if s.forerunner then
      (List.range 48).foldl (fun s w => s.setReg .jrnPeerCtx (old * 48 + w) (s.reg .jrnPeerCtx (b * 48 + w)))
        (s.copyRegs [.jrnPeerCfg] b old)
    else s
  let s := { s with jrn := { s.jrn with peerTarget := none, lost := s.jrn.lost.filter (fun e => e.1 / 2 != b) },
                    zoa := { s.zoa with fails := s.zoa.fails.filter (fun e => e.1 != ctxPeer b 0 && e.1 != ctxPeer b 1) } }
  (s.set .jrnPeerStaLost 0 0).set .jrnPeerStaLost 1 0

end Sys2Proof.Machine
end

