-- ==== Sys2Proof/Machine/Slh.lean ====
section
/-! DEFINITION. SLH-DSA of FIPS 205 with SHA-2 at security category 3 (n = 24), which R250 and R391 name: its addresses, its one-time
signatures, its trees, and signing and verifying (assumption 125). -/

namespace Sys2Proof.Machine

/-- A parameter set: layers and height of the hypertree's trees, height and number of the FORS trees. -/
structure SlhPar where
  d : Nat
  hp : Nat
  a : Nat
  k : Nat
  deriving DecidableEq, Repr

/-- SLH-DSA-SHA2-192s and SLH-DSA-SHA2-192f. -/
def slh192s : SlhPar := { d := 7, hp := 9, a := 14, k := 17 }
def slh192f : SlhPar := { d := 22, hp := 3, a := 8, k := 33 }

/-- An address of FIPS 205 as SHA-2 compresses it: layer, tree, type, and the three words of the type. -/
structure SlhAdr where
  layer : Nat
  tree : Nat
  ty : Nat
  w1 : Nat
  w2 : Nat
  w3 : Nat
  deriving DecidableEq, Repr

/-- The 22 bytes of a compressed address. -/
def SlhAdr.bytes (x : SlhAdr) : Bytes :=
  beBytes x.layer 1 ++ beBytes x.tree 8 ++ beBytes x.ty 1 ++ beBytes x.w1 4 ++ beBytes x.w2 4 ++ beBytes x.w3 4

/-- An address of a type in the same tree. -/
def SlhAdr.to (x : SlhAdr) (ty w1 w2 w3 : Nat) : SlhAdr := { x with ty := ty, w1 := w1, w2 := w2, w3 := w3 }

/-- PRF and F: SHA-256 over the public seed, its padding, the address and 24 bytes. -/
def slhF (seed : Bytes) (x : SlhAdr) (m : Bytes) : Bytes := (sha256 (seed ++ List.replicate 40 0#8 ++ x.bytes ++ m)).take 24

/-- H and T: SHA-512 over more than 24 bytes. -/
def slhT (seed : Bytes) (x : SlhAdr) (m : Bytes) : Bytes := (sha512 (seed ++ List.replicate 104 0#8 ++ x.bytes ++ m)).take 24

/-- The 24-byte piece `i` of a string. -/
def slhPiece (b : Bytes) (i : Nat) : Bytes := sliceB b (24 * i) 24

/-- `n` digits of `w` bits of a string, the most significant first. -/
def slhDigits (b : Bytes) (w n : Nat) : List Nat := (List.range n).map (fun i => beNat b / 2 ^ (8 * b.length - w * (i + 1)) % 2 ^ w)

/-! ### One-time signatures -/

/-- `n` steps of chain `c` of a key pair's one-time keys, from step `i` on. -/
def slhChain (seed : Bytes) (x : SlhAdr) (kp c i : Nat) (m : Bytes) : Nat → Bytes
  | 0 => m
  | n + 1 => slhChain seed x kp c (i + 1) (slhF seed (x.to 0 kp c i) m) n

/-- The 51 steps a message signs: its 48 digits and the three of their checksum. -/
def slhSteps (m : Bytes) : List Nat :=
  let l := slhDigits m 4 48
  let c := (l.map (fun v => 15 - v)).sum
  l ++ [c / 256 % 16, c / 16 % 16, c % 16]

/-- A one-time secret. -/
def slhSecret (seed sk : Bytes) (x : SlhAdr) (kp c : Nat) : Bytes := slhF seed (x.to 5 kp c 0) sk

/-- A one-time public key. -/
def wotsPub (seed sk : Bytes) (x : SlhAdr) (kp : Nat) : Bytes :=
  slhT seed (x.to 1 kp 0 0) ((List.range 51).flatMap (fun c => slhChain seed x kp c 0 (slhSecret seed sk x kp c) 15))

/-- A one-time signature. -/
def wotsSign (seed sk : Bytes) (x : SlhAdr) (kp : Nat) (m : Bytes) : Bytes :=
  ((List.range 51).zip (slhSteps m)).flatMap (fun p => slhChain seed x kp p.1 0 (slhSecret seed sk x kp p.1) p.2)

/-- The public key that a signature answers for. -/
def wotsFromSig (seed : Bytes) (x : SlhAdr) (kp : Nat) (sig m : Bytes) : Bytes :=
  slhT seed (x.to 1 kp 0 0)
    (((List.range 51).zip (slhSteps m)).flatMap (fun p => slhChain seed x kp p.1 p.2 (slhPiece sig p.1) (15 - p.2)))

/-! ### Trees -/

/-- Climb a tree from the leaf of index `i` by its authentication path; `adr` is the address of a node by height and index. -/
def slhClimb (seed : Bytes) (adr : Nat → Nat → SlhAdr) (i h : Nat) (node : Bytes) : List Bytes → Bytes
  | [] => node
  | p :: ps =>
    slhClimb seed adr (i / 2) (h + 1) (slhT seed (adr (h + 1) (i / 2)) (if i % 2 = 0 then node ++ p else p ++ node)) ps

/-- Node `i` at height `z` of a tree of the hypertree. -/
def xmssNode (seed sk : Bytes) (x : SlhAdr) (i : Nat) : Nat → Bytes
  | 0 => wotsPub seed sk x i
  | z + 1 => slhT seed (x.to 2 0 (z + 1) i) (xmssNode seed sk x (2 * i) z ++ xmssNode seed sk x (2 * i + 1) z)

/-- A tree's signature by its leaf `i`: one-time signature and path. -/
def xmssSign (par : SlhPar) (seed sk : Bytes) (x : SlhAdr) (i : Nat) (m : Bytes) : Bytes :=
  wotsSign seed sk x i m ++ (List.range par.hp).flatMap (fun j => xmssNode seed sk x (Nat.xor (i / 2 ^ j) 1) j)

/-- The root that a tree's signature answers for. -/
def xmssFromSig (par : SlhPar) (seed : Bytes) (x : SlhAdr) (i : Nat) (sig m : Bytes) : Bytes :=
  slhClimb seed (fun z n => x.to 2 0 z n) i 0 (wotsFromSig seed x i sig m) ((List.range par.hp).map (fun j => slhPiece sig (51 + j)))

/-- The hypertree's signature from layer `l` on, `n` layers. -/
def htSign (par : SlhPar) (seed sk : Bytes) (l tree leaf : Nat) (m : Bytes) : Nat → Bytes
  | 0 => []
  | n + 1 =>
    let x : SlhAdr := ⟨l, tree, 0, 0, 0, 0⟩
    let sig := xmssSign par seed sk x leaf m
    sig ++ htSign par seed sk (l + 1) (tree / 2 ^ par.hp) (tree % 2 ^ par.hp) (xmssFromSig par seed x leaf sig m) n

/-- The root that the hypertree's signature answers for. -/
def htFromSig (par : SlhPar) (seed : Bytes) (l tree leaf : Nat) (sig m : Bytes) : Nat → Bytes
  | 0 => m
  | n + 1 =>
    htFromSig par seed (l + 1) (tree / 2 ^ par.hp) (tree % 2 ^ par.hp) (sig.drop (24 * (51 + par.hp)))
      (xmssFromSig par seed ⟨l, tree, 0, 0, 0, 0⟩ leaf sig m) n

/-! ### FORS -/

/-- A FORS secret. -/
def forsSecret (seed sk : Bytes) (x : SlhAdr) (kp i : Nat) : Bytes := slhF seed (x.to 6 kp 0 i) sk

/-- Node `i` at height `z` of the FORS trees of a key pair. -/
def forsNode (seed sk : Bytes) (x : SlhAdr) (kp i : Nat) : Nat → Bytes
  | 0 => slhF seed (x.to 3 kp 0 i) (forsSecret seed sk x kp i)
  | z + 1 => slhT seed (x.to 3 kp (z + 1) i) (forsNode seed sk x kp (2 * i) z ++ forsNode seed sk x kp (2 * i + 1) z)

/-- A FORS signature. -/
def forsSign (par : SlhPar) (seed sk : Bytes) (x : SlhAdr) (kp : Nat) (md : Bytes) : Bytes :=
  ((List.range par.k).zip (slhDigits md par.a par.k)).flatMap (fun p =>
    forsSecret seed sk x kp (p.1 * 2 ^ par.a + p.2) ++
      (List.range par.a).flatMap (fun j => forsNode seed sk x kp (p.1 * 2 ^ (par.a - j) + Nat.xor (p.2 / 2 ^ j) 1) j))

/-- The FORS public key that a signature answers for. -/
def forsFromSig (par : SlhPar) (seed : Bytes) (x : SlhAdr) (kp : Nat) (sig md : Bytes) : Bytes :=
  slhT seed (x.to 4 kp 0 0) (((List.range par.k).zip (slhDigits md par.a par.k)).flatMap (fun p =>
    let i := p.1 * 2 ^ par.a + p.2
    slhClimb seed (fun z n => x.to 3 kp z n) i 0 (slhF seed (x.to 3 kp 0 i) (slhPiece sig (p.1 * (par.a + 1))))
      ((List.range par.a).map (fun j => slhPiece sig (p.1 * (par.a + 1) + 1 + j)))))

/-! ### Keys, signing and verifying -/

/-- `n` bytes of MGF1 with SHA-512. -/
def mgf512 (seed : Bytes) (n : Nat) : Bytes := ((List.range (n / 64 + 1)).flatMap (fun i => sha512 (seed ++ beBytes i 4))).take n

/-- What the message digest names: the FORS message, the tree and its leaf. -/
def slhDigest (par : SlhPar) (r seed root m : Bytes) : Bytes × Nat × Nat :=
  let th := par.d * par.hp - par.hp
  let a := (par.k * par.a + 7) / 8
  let b := (th + 7) / 8
  let c := (par.hp + 7) / 8
  let g := mgf512 (r ++ seed ++ sha512 (r ++ seed ++ root ++ m)) (a + b + c)
  (g.take a, beAt g a b % 2 ^ th, beAt g (a + b) c % 2 ^ par.hp)

/-- The public key of the seeds SK.seed, SK.prf and PK.seed: PK.seed and the root of the top tree. -/
def slhPub (par : SlhPar) (k : Bytes × Bytes × Bytes) : Bytes :=
  let seed := sliceB k.2.2 0 24
  seed ++ xmssNode seed (sliceB k.1 0 24) ⟨par.d - 1, 0, 0, 0, 0, 0⟩ 0 par.hp

/-- The signature of a message with 24 bytes of randomness. -/
def slhSign (par : SlhPar) (k : Bytes × Bytes × Bytes) (fresh m : Bytes) : Bytes :=
  let sk := sliceB k.1 0 24
  let seed := sliceB k.2.2 0 24
  let r := (hmac512 (sliceB k.2.1 0 24) (fresh ++ m)).take 24
  let (md, tree, leaf) := slhDigest par r seed ((slhPub par k).drop 24) m
  let x : SlhAdr := ⟨0, tree, 0, 0, 0, 0⟩
  let sig := forsSign par seed sk x leaf md
  r ++ sig ++ htSign par seed sk 0 tree leaf (forsFromSig par seed x leaf sig md) par.d

/-- Does a signature verify over a message under a 48-byte public key? -/
def slhVerify (par : SlhPar) (pub m sig : Bytes) : Bool :=
  let seed := sliceB pub 0 24
  let root := sliceB pub 24 24
  let r := sliceB sig 0 24
  let (md, tree, leaf) := slhDigest par r seed root m
  let fors := 24 * par.k * (par.a + 1)
  let pk := forsFromSig par seed ⟨0, tree, 0, 0, 0, 0⟩ leaf (sig.drop 24) md
  decide (sig.length = 24 + fors + 24 * par.d * (51 + par.hp)) &&
    decide (htFromSig par seed 0 tree leaf (sig.drop (24 + fors)) pk par.d = root)

end Sys2Proof.Machine
end

