-- ==== Sys2Proof/Machine/Sign.lean ====
section
/-! DEFINITION. The device's signatures (R250, R316, R317) and those it checks (R391, R403): RSASSA-PSS with SHA-384, MGF1 with SHA-384
and a 48-byte salt over a 3,072-bit modulus, and pure SLH-DSA with an empty context, SHA2-192f to sign and SHA2-192s to verify.  The
scope file names the standards they come from (PKCS#1 v2.2 and FIPS 205; assumption 125). -/

namespace Sys2Proof.Machine

/-! ### RSASSA-PSS -/

/-- MGF1 with SHA-384: `n` blocks of the mask that a seed gives, from counter `i` on. -/
def mgfBlocks (seed : Bytes) (i : Nat) : Nat → Bytes
  | 0 => []
  | n + 1 => sha384 (seed ++ beBytes i 4) ++ mgfBlocks seed (i + 1) n

/-- The salted hash of a message. -/
def pssHash (salt m : Bytes) : Bytes := sha384 (List.replicate 8 0#8 ++ sha384 m ++ salt)

/-- The 384-byte encoded message of a 48-byte salt: masked padding and salt, the salted hash, and 0xBC; the first bit is cleared, as the
modulus has one bit more than the encoding. -/
def pssEncode (salt m : Bytes) : Bytes :=
  let h := pssHash salt m
  let block := List.replicate 286 0#8 ++ [0x01#8] ++ salt
  match xorBytes block (mgfBlocks h 0 7) with
  | [] => []
  | b :: t => (b &&& 0x7F) :: t ++ h ++ [0xBC#8]

/-- `b` to the power `e`, of at most `k` bits, modulo `n`. -/
def powMod (n b : Nat) : Nat → Nat → Nat
  | 0, _ => 1 % n
  | k + 1, e =>
    let r := powMod n b k (e / 2)
    if e % 2 = 1 then r * r % n * b % n else r * r % n

/-- An RSASSA-PSS signature of 384 bytes under a modulus and private exponent. -/
def rsaPss (key : Nat × Nat) (salt m : Bytes) : Bytes := beBytes (powMod key.1 (beNat (pssEncode salt m)) 3072 key.2) 384

/-- Is a 384-byte encoded message one of the message, with any 48-byte salt? -/
def pssOk (em m : Bytes) : Bool :=
  match xorBytes (em.take 335) (mgfBlocks (sliceB em 335 48) 0 7) with
  | [] => false
  | b :: t =>
    let block := (b &&& 0x7F) :: t
    decide (em.length = 384) && decide ((em.getD 0 0) &&& 0x80 = 0) && em.getLast? == some 0xBC#8 &&
      decide (block.take 287 = List.replicate 286 0#8 ++ [0x01#8]) && decide (pssHash (block.drop 287) m = sliceB em 335 48)

/-- Does a 384-byte signature verify over a message under a 3,072-bit modulus and a public exponent? -/
def rsaVerify (key : Nat × Nat) (m sig : Bytes) : Bool :=
  decide (2 ^ 3071 ≤ key.1) && decide (key.1 < 2 ^ 3072) && decide (beNat sig < key.1) &&
    pssOk (beBytes (powMod key.1 (beNat sig) 3072 key.2) 384) m

/-! ### RSA public keys in DER -/

/-- The length field of DER. -/
def derLen (n : Nat) : Bytes :=
  if n < 128 then beBytes n 1 else if n < 256 then 0x81#8 :: beBytes n 1 else 0x82#8 :: beBytes n 2

/-- An INTEGER, at least 0. -/
def derInt (v : Nat) : Bytes :=
  let n := v.log2 / 8 + 1
  let b := (if bitOf v (8 * n - 1) then [0#8] else []) ++ beBytes v n
  0x02#8 :: derLen b.length ++ b

/-- An RSAPublicKey of PKCS#1. -/
def derRsa (key : Nat × Nat) : Bytes :=
  let b := derInt key.1 ++ derInt key.2
  0x30#8 :: derLen b.length ++ b

/-- The contents of an element of a tag, and the bytes after it. -/
def derTake (tag : BitVec 8) (b : Bytes) : Option (Bytes × Bytes) :=
  let n := (b.getD 1 0).toNat
  let cut := fun (len head : Nat) => if head + len ≤ b.length then some ((b.drop head).take len, b.drop (head + len)) else none
  if b.head? ≠ some tag then none
  else if n < 128 then cut n 2
  else if n = 0x81 then cut (beAt b 2 1) 3
  else if n = 0x82 then cut (beAt b 2 2) 4
  else none

/-- Modulus and exponent of an RSAPublicKey. -/
def derRsaKey (b : Bytes) : Option (Nat × Nat) :=
  match derTake 0x30 b with
  | none => none
  | some (c, _) => match derTake 0x02 c with
    | none => none
    | some (n, d) => (derTake 0x02 d).map (fun e => (beNat n, beNat e.1))

/-- Modulus and exponent of the RSA public key that DER gives, zero-padded: an RSAPublicKey, or a SubjectPublicKeyInfo around one
(PRESUMED, assumption 152). -/
def rsaKeyOf (b : Bytes) : Option (Nat × Nat) :=
  match derRsaKey b with
  | some k => some k
  | none => match derTake 0x30 b with
    | none => none
    | some (c, _) => match derTake 0x30 c with
      | none => none
      | some (_, d) => match derTake 0x03 d with
        | none => none
        | some (k, _) => derRsaKey (k.drop 1)

/-- Do both signatures verify over a message under the two public keys of a signer: 512 bytes of RSA in DER and 48 of
SLH-DSA-SHA2-192s (R14, R391)? -/
def pairVerify (rsaPub slhPub m rsaSig slhSig : Bytes) : Bool :=
  (match rsaKeyOf rsaPub with
   | none => false
   | some k => rsaVerify k m rsaSig) && slhVerify slh192s slhPub ([0x00#8, 0x00#8] ++ m) slhSig

/-! ### The device's own key pairs (R250, R412) -/

/-- The inverse of the number `r1` of fewer than 32 division steps modulo `n`, by Euclid's steps from `r0` and `r1`. -/
def invSteps (n : Nat) : Nat → Nat → Nat → Int → Int → Nat
  | 0, _, _, t0, _ => (t0 % n).toNat
  | k + 1, r0, r1, t0, t1 => if r1 = 0 then (t0 % n).toNat else invSteps n k r1 (r0 % r1) t1 (t0 - (r0 / r1 : Nat) * t1)

/-- The public exponent (PRESUMED: the customary one; the spec names none). -/
def rsaExp : Nat := 65537

/-- Modulus and private exponent that two primes give. -/
def rsaPrivate (pq : Nat × Nat) : Nat × Nat :=
  let n := Nat.lcm (pq.1 - 1) (pq.2 - 1)
  (pq.1 * pq.2, invSteps n 32 n rsaExp 0 1)

/-- The RSA public key of a key pair in DER: of a receipt generation, or for none the identity. -/
def rsaPublic (key : Option Nat) : Bytes := derRsa ((Config.rsaPrimes key).1 * (Config.rsaPrimes key).2, rsaExp)

/-- The SLH-DSA-SHA2-192f public key of a key pair. -/
def slhPublic (key : Option Nat) : Bytes := slhPub slh192f (Config.slhSeeds key)

/-- A pair's digest: SHA-384 over the RSA public key in DER and the SLH-DSA public key (R250, R412). -/
def pairDigest (key : Option Nat) : Bytes := sha384 (rsaPublic key ++ slhPublic key)

/-- The RSA signature of a key pair with a salt. -/
def rsaSignBy (key : Option Nat) (salt m : Bytes) : Bytes := rsaPss (rsaPrivate (Config.rsaPrimes key)) salt m

/-- The pure SLH-DSA-SHA2-192f signature of a key pair, 35,664 bytes: the message is preceded by 0 for a pure signature and the length 0
of its empty context. -/
def slhSignBy (key : Option Nat) (fresh m : Bytes) : Bytes := slhSign slh192f (Config.slhSeeds key) fresh ([0x00#8, 0x00#8] ++ m)

/-- Free words as bytes: `n` of them from `k` on. -/
def State.freeBytes (s : State) (k n : Nat) : Bytes := (List.range n).flatMap (fun i => leBytes (s.free (k + i)).toNat 8)

end Sys2Proof.Machine
end

