-- ==== Sys2Proof/Machine/SecOps.lean ====
section
/-! DEFINITION. Shared operations of the security processor: the version record in force, the lifecycle's rules, the measurement
blocks, and the receipt pair (chapter 16). -/

namespace Sys2Proof.Machine

/-! ### Fuses and lifecycle (R398, R400, R401) -/

/-- Lifecycle codes of SEC_LIFECYCLE.state. -/
def lcBlank : Nat := 0
def lcVendor : Nat := 1
def lcOwned : Nat := 2
def lcRma : Nat := 3
def lcRetired : Nat := 4

/-- A slot's programmed key hash, if it is programmed and not revoked. -/
def Fuses.live (f : Fuses) (k : Nat) : Option Bytes := if bitOf f.revoke k then none else SMap.find f.slots k

/-- The programmed bits (SEC_LIFECYCLE). -/
def Fuses.programmed (f : Fuses) : Nat := (f.slots.map (fun e => 2 ^ e.1)).foldl (· + ·) 0

/-- Is debug permitted in the lifecycle in force (R401)? -/
def Sec.debugOk (c : Sec) : Bool :=
  c.lifecycle == lcBlank || c.lifecycle == lcRma || (c.lifecycle == lcVendor && !c.fuses.debugLock)

/-- May a slot sign firmware images (kind 1) or bundles (kind 2) in a lifecycle (R401)? -/
def maySign (lc kind slot : Nat) : Bool :=
  if lc = lcVendor ∨ lc = lcRma then slot < 4
  else if lc = lcOwned then (if kind = 1 then slot < 4 else decide (4 ≤ slot) && decide (slot < 8))
  else false

/-- The version record in force: a valid one, and of two the one written later (R398). -/
def Sec.verRec (c : Sec) : Option VerRec :=
  let ok := fun (k : Nat) => (SMap.find c.flash.sectors k).filter (fun v => v.n == c.fuses.verCnt)
  match ok c.flash.last with
  | some v => some v
  | none => ok (1 - c.flash.last)

/-- The minimum version in force for a kind (R398). -/
def Sec.minVer (c : Sec) (kind : Nat) : Nat :=
  match c.verRec with
  | some v => if kind = 1 then v.minFw else v.minBundle
  | none => 0

/-- Update the security processor. -/
def State.setSec (s : State) (c : Sec) : State := { s with sec := c }

/-- Does the device sign: the output gate is open and the engine's keys are there (R397, R416)? -/
def State.signs (s : State) : Bool := s.gateOpen && s.get .ciphStaErased == 0

/-! ### Measurement (R414) -/

/-- The digest of the receipt keys of a generation. -/
def keyDigest (g : Nat) : Bytes := pairDigest (some g)

/-- A manifest digest, 48 zero bytes where there is none. -/
def digestOr0 (d : Bytes) : Bytes := sliceB d 0 48

/-- Measurement block `i`, 1 to 5. -/
def State.measBlock (s : State) (i : Nat) : Bytes :=
  match i with
  | 1 => Config.romHash
  | 2 => digestOr0 s.sec.fw
  | 3 => digestOr0 s.sec.bundle
  | 4 => beBytes s.sec.lifecycle 1 ++ beBytes (bit s.sec.debugOk) 1 ++ beBytes (s.get .secBootStaHold) 1 ++
      beBytes s.sec.fuses.revoke 1 ++ beBytes s.sec.fuses.verCnt 1 ++ [0, 0, 0] ++ beBytes (s.sec.minVer 1) 4 ++
      beBytes (s.sec.minVer 2) 4
  | 5 => keyDigest s.led.keyGen
  | _ => []

/-- The boot measurement digest as it stands now. -/
def State.measNow (s : State) : Bytes :=
  sha384 (0x08#8 :: (s.measBlock 1 ++ s.measBlock 2 ++ s.measBlock 3 ++ s.measBlock 4 ++ s.measBlock 5))

/-- The boot measurement digest that SEC_MEAS presents. -/
def State.bootMeas (s : State) : Bytes := (List.range 6).flatMap (fun i => leBytes (s.reg .secMeas i).toNat 8)

/-- Show whether debug is permitted, the minima and the measurement digest (SEC_LIFECYCLE.debug, SEC_VER, SEC_BVER, SEC_MEAS); the
fuses themselves are read where SEC_LIFECYCLE is. -/
def State.showSec (s : State) : State :=
  let s := s.set .secLifecycleDebug 0 (bit s.sec.debugOk)
  let s := (s.set .secVerMinFw 0 (s.sec.minVer 1)).set .secBverMinBundle 0 (s.sec.minVer 2)
  let d := s.measNow
  (List.range 6).foldl (fun s i => s.setReg .secMeas i (BitVec.ofNat 64 (leAt d (8 * i) 8))) s

/-! ### The receipt pair (R413) -/

/-- A certified new receipt pair takes over as a span begins: it signs that span and every later one. -/
def State.takePair (s : State) : State :=
  if s.sec.newPair then
    let s := s.setSec { s.sec with newPair := false }
    { s with led := { s.led with keyGen := s.sec.flash.keyGen } }.showSec
  else s

end Sys2Proof.Machine
end

