-- ==== Sys2Proof/Machine/LedgerOps.lean ====
section
/-! DEFINITION. Shared operations of the stamp ledger: leaves and their records, tree hashes and paths, retention, export, and the
closing of epochs (chapter 09). -/

namespace Sys2Proof.Machine

/-! ### Tree hashes (R246, R247) -/

/-- The largest power of two below `k`, for `k` above 1. -/
def splitOf (k : Nat) : Nat := 2 ^ Nat.log2 (k - 1)

/-- MTH of a list of hashes under a node byte; the first argument bounds the depth. -/
def mthN (x : BitVec 8) : Nat → List Bytes → Bytes
  | 0, _ => []
  | _ + 1, [] => []
  | _ + 1, [h] => h
  | n + 1, l => let j := splitOf l.length
                sha384 (x :: (mthN x n (l.take j) ++ mthN x n (l.drop j)))

/-- MTH of a list of hashes under a node byte. -/
def mth (x : BitVec 8) (l : List Bytes) : Bytes := mthN x (l.length + 1) l

/-- The path of leaf `i`, leaf level first. -/
def pathN (x : BitVec 8) : Nat → Nat → List Bytes → List Bytes
  | 0, _, _ => []
  | n + 1, i, l =>
    if l.length ≤ 1 then []
    else
      let j := splitOf l.length
      if i < j then pathN x n i (l.take j) ++ [mth x (l.drop j)]
      else pathN x n (i - j) (l.drop j) ++ [mth x (l.take j)]

/-- The path of leaf `i` of a list of hashes. -/
def treePath (x : BitVec 8) (i : Nat) (l : List Bytes) : List Bytes := pathN x (l.length + 1) i l

/-- 48 zero bytes. -/
def zero48 : Bytes := List.replicate 48 0

/-- A leaf hash. -/
def leafHash (r : LeafRec) : Bytes := sha384 (0x00 :: (r.leaf ++ beBytes r.annot.toNat 8))

/-- A lane root over its leaf hashes. -/
def laneRoot (lane : Nat) (hs : List Bytes) : Bytes :=
  sha384 (0x02 :: (beBytes lane 1 ++ beBytes hs.length 8 ++ (if hs.isEmpty then zero48 else mth 0x01 hs)))

/-- An epoch root over its lane roots. -/
def epochRootOf (e tqw : Nat) (roots : List Bytes) : Bytes :=
  sha384 (0x03 :: (beBytes e 8 ++ beBytes tqw 4 ++ roots.flatten))

/-! ### Leaves (R240, R243) -/

/-- A frame leaf under a sequence number. -/
def leafOf (d : LeafDue) (seq : Nat) : Bytes :=
  ftBytes d.ft ++ beBytes d.residence 4 ++ beBytes d.port 2 ++ beBytes d.outPort 2 ++ beBytes d.con 2 ++ beBytes d.dispo 1 ++
  beBytes d.progEpoch 1 ++ beBytes seq 8 ++ (sha384 d.digestIn).take 32

/-- A summary leaf under a sequence number. -/
def sumLeafOf (m : Summary) (seq : Nat) : Bytes :=
  ftBytes m.firstFt ++ beBytes (min m.count 0xFFFFFFFE) 4 ++ beBytes (0x8000 + m.reason * 0x4000 + m.port) 2 ++ beBytes 0x1FF 2 ++
  beBytes m.con 2 ++ beBytes m.dispo 1 ++ beBytes m.progEpoch 1 ++ beBytes seq 8 ++ ftBytes m.lastFt ++ List.replicate 20 0

/-- The epoch an elapsed time lies in. -/
def epochOf (t : Nat) : Nat := t / epochUnits

/-- Is a due leaf before another: by disposition, then ingress stamp, then ingress port (R242)? -/
def dueBefore (a b : LeafDue) : Bool :=
  decide (a.at_ < b.at_) ||
  (a.at_ == b.at_ && (ltAfter b.lt a.lt || (decide (a.lt = b.lt) && decide (a.port < b.port))))

/-- The first of the due leaves, and the others. -/
def firstDue : List LeafDue → Option (LeafDue × List LeafDue)
  | [] => none
  | d :: t => match firstDue t with
    | none => some (d, [])
    | some (m, r) => if dueBefore m d then some (m, d :: r) else some (d, m :: r)

/-- Is a summary before another (R242)? -/
def sumBefore (a b : Summary) : Bool :=
  decide (((a.con * 256 + a.port) * 256 + a.dispo) * 2 + a.reason < ((b.con * 256 + b.port) * 256 + b.dispo) * 2 + b.reason)

/-- Summaries in the order of their sequence numbers. -/
def sortSums (l : List Summary) : List Summary :=
  l.foldl (fun acc m => (acc.takeWhile (fun x => sumBefore x m)) ++ [m] ++ acc.dropWhile (fun x => sumBefore x m)) []

/-! ### Retention (R255, R257) -/

/-- Where the region of a bank begins. -/
def State.retBase (s : State) (l b : Nat) : Nat := s.get .ledRetBaseBase (l * 2 + b) * 1048576

/-- How many records the region of a bank holds. -/
def State.retCap (s : State) (l b : Nat) : Nat := s.get .ledRetSizeSize (l * 2 + b) * 1048576 / 72

/-- The newest `n` of a list. -/
def lastN {α : Type} (n : Nat) (l : List α) : List α := l.drop (l.length - n)

/-- An epoch's entry, kept while its span needs it. -/
def State.spanEntry (s : State) (e : Nat) : Option EpochEntry := s.led.epochs.find? (fun x => x.epoch == e)

/-- Does the root area hold epoch `e`: one of the last 65,536 (R256)? -/
def State.inRootArea (s : State) (e : Nat) : Bool := s.led.epochs.getLast?.any (fun x => decide (x.epoch < e + 65536))

/-- An epoch's entry in the root area. -/
def State.epochEntry (s : State) (e : Nat) : Option EpochEntry := if s.inRootArea e then s.spanEntry e else none

/-- The entries once epoch `x` has its root: those of the root area, of spans with an epoch in it, and of spans not signed. -/
def State.addEpoch (s : State) (x : EpochEntry) : List EpochEntry :=
  (s.led.epochs ++ [x]).filter (fun y =>
    decide (x.epoch < y.epoch / 1024 * 1024 + 1023 + 65536) || decide (s.led.spanFirst ≤ y.epoch))

/-- The oldest epoch whose root is not yet computed. -/
def State.nextRoot (s : State) : Nat :=
  match s.led.epochs.getLast? with
  | some e => e.epoch + 1
  | none => (s.reg .ledStartEpoch 0).toNat

/-- Every record of lane `l` still retained, oldest first. -/
def State.allRetained (s : State) (l : Nat) : List LeafRec := (s.led? l).oldRetained ++ (s.led? l).retained

/-- The oldest epoch of the session from which on every record of a lane is retained; an epoch without records counts as retained
(LED_RET_STA.oldest; DEDUCED, assumption 62). -/
def State.oldestWhole (s : State) (l : Nat) : Nat :=
  let lo := match s.allRetained l with
    | r :: _ => r.seq
    | [] => (s.reg .ledLaneSeq l).toNat
  match s.led.epochs.find? (fun e => decide (lo ≤ (e.lanes.getD l ([], 0, 0)).2.2)) with
  | some e => e.epoch
  | none =>
    let open_ := s.nextRoot
    match ((s.led? l).staged.filter (fun x => decide (x.seq < lo))).getLast? with
    | some x => max open_ (x.epoch + 1)
    | none => open_

/-- Show the oldest epoch whose records are all retained (LED_RET_STA.oldest). -/
def State.showOldest (s : State) (l : Nat) : State :=
  s.set .ledRetStaOldest l (if s.is .ledRcptStaStarted then s.oldestWhole l % 2 ^ 32 else 0)

/-- The 72 bytes of record `n` of the region of `cap` records at `base` go to external memory, round the ring (R255); whole words are
written, so their poison ends (R445). -/
def State.retWrite (s : State) (base cap n : Nat) (r : LeafRec) : State :=
  if cap = 0 then s
  else
    let a := base + n % cap * 72
    let bad := (List.range 9).foldl (fun m i => SMap.put m (a / 8 + i) none) s.mem.bad
    { s with mem := { s.mem with ext := Mem.setBytes s.mem.ext a (r.leaf ++ beBytes r.annot.toNat 8), bad := bad } }

/-- A record goes to retention, overwriting the oldest when its region is full; one of an epoch closed before a swap goes to the region
that was in use then (R257). -/
def State.retain (s : State) (l : Nat) (r : LeafRec) : State :=
  let v := s.led? l
  let b := s.get .ledRetStaBank l
  let s := if s.is .ledRetStaOldHeld l && decide (r.epoch < v.oldUpTo) then
      (s.retWrite v.oldBase v.oldCap v.oldPuts r).setLed l
        { v with oldRetained := lastN v.oldCap (v.oldRetained ++ [r]), oldPuts := v.oldPuts + 1 }
    else (s.retWrite (s.retBase l b) (s.retCap l b) v.puts r).setLed l
      { v with retained := lastN (s.retCap l b) (v.retained ++ [r]), puts := v.puts + 1 }
  s.showOldest l

/-! ### Export (R254, R255) -/

/-- The 128-byte record of a leaf. -/
def leafRecord (l : Nat) (r : LeafRec) : Bytes :=
  sliceB (r.leaf ++ beBytes r.annot.toNat 8 ++ leBytes r.epoch 8 ++ leBytes l 1 ++ [1]) 0 128

/-- The epoch-close record of a lane. -/
def closeRecord (l : Nat) (e : EpochEntry) : Bytes :=
  let x := e.lanes.getD l ([], 0, 0)
  sliceB (sliceB x.1 0 72 ++ leBytes e.epoch 8 ++ leBytes l 1 ++ [2] ++ List.replicate 6 0 ++ leBytes x.2.1 8 ++ leBytes x.2.2 8 ++
    leBytes e.tqw 4) 0 128

/-- The gap record of a lane. -/
def gapRecord (l epoch first last : Nat) : Bytes :=
  sliceB (List.replicate 72 0 ++ leBytes epoch 8 ++ leBytes l 1 ++ [3] ++ List.replicate 6 0 ++ leBytes first 8 ++ leBytes last 8)
    0 128

/-- The enabled rings of an export kind; a ring whose RING_STA is not stored is disabled. -/
def State.exportRings (s : State) (kind : Nat) : List Nat :=
  (s.regs.filterMap (fun e => if e.1 % 512 = RegName.ringSta.ctorIdx then some (e.1 / 512) else none)).filter
    (fun r => s.ringKind r == kind && s.get .ringStaState r == rsEnabled)

/-- Does ring `r` carry a tenant's leaf (R254)? -/
def State.ringCarries (s : State) (r : Nat) (x : LeafRec) : Bool := s.ringOwner r == 0 || s.ringOwner r == x.tenant

/-- Key of a lane and ring in `Ledger.exports`. -/
def expKey (l r : Nat) : Nat := l * 16384 + r

/-- A stopped ring's next sequence and next close, or going on. -/
def State.setExp (s : State) (l r : Nat) (v : Option (Nat × Nat)) : State :=
  { s with led := { s.led with exports := SMap.put s.led.exports (expKey l r) v } }

/-- A lane posts a record to a ring that goes on, or stops posting to it: `seq` and `next` are the sequence and the close it has next. -/
def State.post (s : State) (l r : Nat) (d : Bytes) (epoch seq next : Nat) (close : Bool) : State :=
  if (SMap.find s.led.exports (expKey l r)).isSome then s
  else if s.expRoom r 128 then s.expPut r d epoch close
  else (s.closeFull r 128).setExp l r (some (seq, next))

/-- A lane posts a leaf to its export rings. -/
def State.postLeaf (s : State) (l : Nat) (x : LeafRec) : State :=
  ((s.exportRings 8).filter (fun r => s.ringCarries r x)).foldl (fun s r => s.post l r (leafRecord l x) x.epoch x.seq s.nextRoot false) s

/-- A lane posts an epoch's close to its export rings. -/
def State.postClose (s : State) (l : Nat) (e : EpochEntry) : State :=
  (s.exportRings 8).foldl (fun s r => s.post l r (closeRecord l e) e.epoch (s.reg .ledLaneSeq l).toNat e.epoch true) s

/-! ### Writing leaves (R239, R242-R245) -/

/-- LT units a hash pipeline takes for one leaf at 40,000,000 leaves/s. -/
def leafUnits : Nat := 1638400

/-- The records in a lane's staging area now. -/
def State.stagedNow (s : State) (l : Nat) : Nat :=
  match (s.led? l).stuck with
  | some n => n
  | none => ceilDiv ((s.led? l).busy - s.elapsed) leafUnits

/-- A record enters staging. -/
def State.stage (s : State) (l : Nat) : State :=
  let v := s.led? l
  let s := match v.stuck with
    | some n => s.setLed l { v with stuck := some (n + 1) }
    | none => s.setLed l { v with busy := max v.busy s.elapsed + leafUnits }
  s.set .ledLaneStaStaged l (min (s.stagedNow l) 7168)

/-- A leaf is written: sequence, staging, retention and export. -/
def State.putLeaf (s : State) (l : Nat) (mk : Nat → LeafRec) : State :=
  let seq := (s.reg .ledLaneSeq l).toNat
  let r := mk seq
  let s := (s.setReg .ledLaneSeq l (BitVec.ofNat 64 (seq + 1))).bump .ledLaneLeavesLeaves l
  let v := s.led? l
  let firsts := if v.firsts.getLast?.any (fun x => x.1 == r.epoch) then v.firsts else v.firsts ++ [(r.epoch, seq)]
  let s := s.setLed l { v with staged := v.staged ++ [r], firsts := firsts }
  let s := (s.stage l).set .ledLaneStaNNow l (((s.led? l).staged.filter (fun x => x.epoch == s.epoch)).length)
  (s.retain l r).postLeaf l r

/-- A frame is counted into its summary leaf. -/
def State.addSum (s : State) (l : Nat) (d : LeafDue) (reason : Nat) : State :=
  let e := epochOf d.at_
  let v := s.led? l
  let hit := fun (m : Summary) => m.con == d.con && m.port == d.port && m.dispo == d.dispo && m.reason == reason && m.epoch == e
  let sums := if v.sums.any hit then
      v.sums.map (fun m => if hit m then { m with count := m.count + 1, lastFt := d.ft } else m)
    else v.sums ++ [{ con := d.con, port := d.port, dispo := d.dispo, reason := reason, tenant := d.tenant, count := 1,
                      firstFt := d.ft, lastFt := d.ft, progEpoch := d.progEpoch, epoch := e }]
  s.setLed l { v with sums := sums }

/-- The summary leaves of epochs up to `e` are written (R242). -/
def State.flushSums (s : State) (l e : Nat) : State :=
  let v := s.led? l
  let go := sortSums (v.sums.filter (fun m => decide (m.epoch ≤ e)))
  let s := s.setLed l { v with sums := v.sums.filter (fun m => decide (e < m.epoch)) }
  go.foldl (fun s m =>
    let s := if m.reason = 0 then { s with led := { s.led with sums0 := (s.led.sums0 ++ [m.epoch / 1024]).eraseDups } }
      else { s with led := { s.led with sums1 := (s.led.sums1 ++ [m.epoch / 1024]).eraseDups } }
    s.putLeaf l (fun q => { leaf := sumLeafOf m q, annot := 0, epoch := m.epoch, seq := q, con := m.con, tenant := m.tenant })) s

/-- Key of the individual police leaves of an epoch, contract and port. -/
def polKey (e con port : Nat) : Nat := e * 16777216 + con * 256 + port

/-- The leaf of a frame is written, or the frame counted into a summary leaf (R244, R245). -/
def State.writeDue (s : State) (l : Nat) (d : LeafDue) : State :=
  let e := epochOf d.at_
  let s := if e = 0 then s else s.flushSums l (e - 1)
  let k := polKey e d.con d.port
  let used := SMap.getD (s.led? l).police k 0
  if d.dispo = dPolice ∧ d.allowance ≤ used then (s.addSum l d 0).bump .ledLanePolsumFrames l
  else if 7168 ≤ s.stagedNow l then
    ((s.addSum l d 1).bump .ledLaneUnstagedFrames l).cairnRec .leafUnstaged (some ⟨.lane, l⟩)
      (leBytes l 1 ++ List.replicate 7 0 ++ leBytes e 8)
  else
    let s := if d.dispo = dPolice then
        s.setLed l { s.led? l with police := SMap.setD ((s.led? l).police.filter (fun x => decide (polKey e 0 0 ≤ x.1))) k (used + 1) 0 }
      else s
    s.putLeaf l (fun q => { leaf := leafOf d q, annot := d.annot, epoch := e, seq := q, con := d.con, tenant := d.tenant })

/-- The lane writes the first leaf due, once no leaf of an earlier disposition is still to come (R242). -/
def State.writeNext (s : State) (l : Nat) : State :=
  match firstDue (s.led? l).due with
  | none => s
  | some (d, r) => if s.leafAwaited l d.at_ then s else (s.setLed l { s.led? l with due := r }).writeDue l d

/-- Every leaf due whose disposition lies in epochs up to `e` is written; `n` bounds their number. -/
def State.writeAll (s : State) (l e : Nat) : Nat → State
  | 0 => s
  | n + 1 => match firstDue (s.led? l).due with
    | none => s
    | some (d, _) => if epochOf d.at_ ≤ e then (s.writeNext l).writeAll l e n else s

/-! ### Epochs (R242, R248, R257) -/


/-- The contract table digest in force (R214). -/
def State.ctdNow (s : State) : Bytes := (List.range 6).flatMap (fun i => leBytes (s.reg .ingAdmDigest i).toNat 8)

/-- A pending swap of a lane's retention banks takes effect (R257). -/
def State.retSwap (s : State) (l : Nat) : State :=
  if s.is .ledRetStaPending l then
    let v := s.led? l
    let b := s.get .ledRetStaBank l
    let s := ((s.set .ledRetStaBank l (1 - b)).set .ledRetStaPending l 0).set .ledRetStaOldHeld l 1
    let s := s.setLed l { v with
      oldRetained := v.retained, oldPuts := v.puts, oldBase := s.retBase l b, oldCap := s.retCap l b
      retained := [], puts := 0, oldUpTo := s.epoch }
    let s := if s.is .sysModeKwRegs then
        (s.setReg .ledRetBase (l * 2 + b) (s.reg .ledRetBase (l * 2 + (1 - b)))).setReg .ledRetSize (l * 2 + b)
          (s.reg .ledRetSize (l * 2 + (1 - b)))
      else s
    s.showOldest l
  else s

/-- The ledger at an epoch beginning, after the Crest has closed the epoch: the closed epoch awaits its root, a closed span its
receipt (R249), and pending retention swaps take effect (R257). -/
def State.ledEpoch (s : State) : State :=
  let s := (List.range 16).foldl (fun s l => s.retSwap l) s
  if s.is .ledRcptStaStarted then
    let e := s.epoch - 1
    let s := { s with led := { s.led with
      closed := s.led.closed ++ [(e, s.get .crestTqwTqwEpoch, s.get .crestEbFullEbEpoch)],
      spanEnds := if e % 1024 = 1023 then s.led.spanEnds ++ [(e, s.bootMeas, s.ctdNow, s.led.keyGen)] else s.led.spanEnds } }
    let s := (List.range 16).foldl (fun s l => s.set .ledLaneStaNNow l 0) s
    if e % 1024 = 1023 then (s.set .ledRcptStaSignPending 0 1).takePair else s
  else s

end Sys2Proof.Machine
end

