-- ==== Sys2Proof/Machine/Time.lean ====
section
/-! DEFINITION. The passage of linear time: what an epoch beginning does to every part of the block, and how time moves on to the
instant of an event. -/

namespace Sys2Proof.Machine

/-- A step that took effect at this epoch beginning marks every running Col list as stepped (R228). -/
def State.colEpoch (s : State) : State :=
  s.tm.colS.foldl (fun s e => s.set .colStaStepped e.1 (bit ((s.reg .crestStepCnt 0).toNat != e.2.2))) s

/-- Counts the telemetry frame reports the growth of over an epoch (R455): SRAM corrections, external corrections, uncorrectable words
and frames recorded DELIVERED_LATE. -/
def State.backCounts (s : State) : List Nat :=
  let ch := fun (f : Fld) => (List.range 8).foldl (fun n c => n + s.get f c) 0
  [s.get .sysEccSramCorrected, ch .memChCorrCorrected, s.get .sysEccSramUncUncorrectable + ch .memChUncUncorrectable,
   s.back.lateFrames]

/-- Background work notes its counts at an epoch beginning. -/
def State.backEpoch (s : State) : State :=
  { s with back := { s.back with basePrev := s.back.base, base := s.backCounts } }

/-- An epoch begins: LT has just reached a value whose bits [35:0] are zero (R38). -/
def State.epochBegin (s : State) : State :=
  ((((s.noteTqw.crestEpoch.lanesEpoch.noteTqw).colEpoch).ledEpoch).zoaEpoch s.crest.step).jrnEpoch.backEpoch

/-- The accumulator reaches a value; the CTC ticks on the way pass (R41). -/
def State.setAcc (s : State) (a : BitVec 112) : State :=
  let n := (a.toNat - s.crest.tick) / s.crest.addend.toNat
  { s with crest := { s.crest with acc := a, tick := s.crest.tick + n * s.crest.addend.toNat } }

/-- The compare units whose CTC tick the accumulator reaches below `lim` fire, each at its tick (R65); the first argument bounds how
many such ticks there are. -/
def State.fireUntil : Nat → Nat → State → State
  | 0, _, s => s
  | n + 1, lim, s =>
    match s.cmpNext with
    | some a => if a < lim then State.fireUntil n lim (s.setAcc (BitVec.ofNat 112 a)).fireDue else s
    | none => s

/-- How many ticks of an epoch a compare unit can fire at: a unit fires once a microsecond at most (CREST_CMP_PER). -/
def epochFirings : Nat := 64 * (epochUnits / 65536000 + 2)

/-- Time moves on to the next epoch beginning, which takes effect, compare units firing on the way. -/
def State.nextEpoch (s : State) : State :=
  let a := (s.epoch + 1) <<< 52
  ((s.fireUntil epochFirings a).setAcc (BitVec.ofNat 112 a)).epochBegin

/-- Time moves on over `n` epoch beginnings. -/
def State.passEpochs : Nat → State → State
  | 0, s => s
  | n + 1, s => State.passEpochs n s.nextEpoch

/-- Time moves on by `d` LT units, every epoch beginning and every firing of a compare unit on the way taking effect (R38, R65).  A
counter that has not started stands still (R36). -/
def State.advance (s : State) (d : Nat) : State :=
  if d = 0 ∨ s.crest.running = false then s
  else
    let acc := s.crest.acc + BitVec.ofNat 112 (d <<< 16)
    ((s.passEpochs (acc.toNat >>> 52 - s.epoch)).fireUntil epochFirings (acc.toNat + 1)).setAcc acc

/-- Time moves on to LT `t` if that lies ahead (R37). -/
def State.advanceTo (s : State) (t : BitVec 64) : State := s.advance (ltDiff t s.lt).toNat

/-- Time moves on to an elapsed count of LT units if that lies ahead. -/
def State.advanceAt (s : State) (t : Nat) : State := s.advance (t - s.elapsed)

/-- One CTC tick: the accumulator takes the addend, and the units whose target it reaches fire (R41, R65). -/
def State.tick (s : State) : State :=
  if s.crest.running then
    let e := s.epoch
    let n := (s.crest.acc.toNat - s.crest.tick) / s.crest.addend.toNat + 1
    let s := s.setAcc (BitVec.ofNat 112 (max s.crest.acc.toNat (s.crest.tick + n * s.crest.addend.toNat)))
    (if s.epoch = e then s else s.epochBegin).fireDue
  else s

/-- Elapsed LT units of the first CTC tick at or after an elapsed count. -/
def State.tickAt (s : State) (t : Nat) : Nat := s.tickAcc t >>> 16

/-- Time moves on to the first CTC tick at or after LT `t`, if that lies ahead (R65). -/
def State.advanceTick (s : State) (t : BitVec 64) : State := s.advanceAt (s.tickAt (s.instantOf t).toNat)

end Sys2Proof.Machine
end

