-- ==== Sys2Proof/Machine/IngressOps.lean ====
section
/-! DEFINITION. Shared operations of the ingress pipeline: the parser's anchors, key profiles, the classifier, the policer, the
learner's queue, the handover of frames to receive rings, and the completion of transmit entries. -/

namespace Sys2Proof.Machine

/-! ### Policer (R104, R105) -/

/-- A contract's policer. -/
def State.pol (s : State) (c : Nat) : Policer := SMap.getD s.ing.policers c {}

/-- One byte of tokens (R105: 32 fraction bits). -/
def tokUnit : Nat := 4294967296

/-- Store a policer and show its buckets in whole bytes (ING_CON_TOK). -/
def State.setPol (s : State) (c : Nat) (p : Policer) : State :=
  let s := { s with ing := { s.ing with policers := SMap.setD s.ing.policers c p {} } }
  (s.set .ingConTokTp c (p.tp / tokUnit)).set .ingConTokTc c (p.tc / tokUnit)

/-- Tokens accrued at `rate` Mb/s over `d` LT units, truncated to 32 fraction bits. -/
def accrued (rate d : Nat) : Nat := rate * d * tokUnit / (8000 * unitsPerNs)

/-- accrue(now) of R105 under a contract record. -/
def Policer.accrue (p : Policer) (r : ConRec) (now : BitVec 64) : Policer :=
  let d := ltDiff now p.last
  if d ≤ 0 then p
  else { tc := min (p.tc + accrued r.cir d.toNat) (r.cbs * tokUnit), tp := min (p.tp + accrued r.pir d.toNat) (r.pbs * tokUnit),
         last := now }

/-- The marker's decision: colour 1 green, 2 yellow, 3 red, and the policer charged (R104). -/
def Policer.charge (p : Policer) (b : Nat) : Nat × Policer :=
  let n := b * tokUnit
  if p.tp < n then (3, p)
  else if p.tc < n then (2, { p with tp := p.tp - n })
  else (1, { p with tp := p.tp - n, tc := p.tc - n })

/-- The marker's settlement at a frame's end: L_max − L bytes go back to the buckets that were charged, capped at their sizes under the
record in force (R104, R209). -/
def Policer.settle (p : Policer) (r : ConRec) (colour back : Nat) : Policer :=
  let n := back * tokUnit
  let tp := if colour = 1 ∨ colour = 2 then min (p.tp + n) (r.pbs * tokUnit) else p.tp
  let tc := if colour = 1 then min (p.tc + n) (r.cbs * tokUnit) else p.tc
  { p with tp := tp, tc := tc }

/-- The version of a contract in force: the latest that has been activated. -/
def State.inForce (s : State) (c : Nat) : Option ConVer :=
  ((SMap.getD s.con.versions c []).filter (fun v => v.active)).getLast?

/-! ### Receive rings (R103, R343) -/

/-- Bytes 16-61 of the first buffer of a frame (R342). -/
def rxInfo (f : Frame) (src len : Nat) : Bytes :=
  let con := if src = 1 then 0 else (f.con.map (·.1)).getD 0
  leBytes f.lt.toNat 8 ++ leBytes con 2 ++ leBytes (f.port.getD 0) 1 ++ leBytes (if src = 1 then 0 else f.colour) 1 ++
  leBytes (if src = 1 then 0 else f.progEpoch) 1 ++ leBytes src 1 ++ leBytes len 2 ++
  leBytes (if src = 1 then 0 else f.annot.toNat) 8

/-- The frame's last byte is written to its buffers, which complete, or a buffer that cannot be written stops the ring (R342, R347). -/
def State.finishRx (s : State) (fid : Nat) : State :=
  match s.frame? fid with
  | none => s
  | some f => match f.rx with
    | none => s
    | some (r, i, bufs, src) =>
      let d := s.frameOut f
      let s := s.putFrame fid { f with rx := none }
      match s.fillFails (s.ringOwner r) bufs d.length with
      | some j => s.fillStop r i bufs.length j
      | none =>
      (s.fillBufs r i bufs d).completeBufs r i f.failed (rxInfo { f with lt := s.evtStamp (f.port.getD 256) f.bytes f.lt } src d.length) bufs d.length

/-- A frame is handed to an RX ring: it takes the buffers its length needs, which complete at its last byte (R343).  A buffer that cannot be
written stops the ring unstarted, and the frame stays delivered (R347, R348). -/
def State.handRx (s : State) (fid r src : Nat) : State :=
  match s.frame? fid with
  | none => s
  | some f =>
    let bufs := bufsFor (s.frameLen f) (s.bufsOf r)
    match s.fillFails (s.ringOwner r) bufs (s.frameLen f) with
    | some j =>
      let i := s.ringH r
      let s := (List.range j).foldl (fun s _ => s.startEntry r) (s.putFrame fid { f with stage := .done })
      s.fillStop r i j j
    | none =>
      let s := (s.putFrame fid { f with stage := .done, rx := some (r, s.ringH r, bufs, src) }).startBufs r bufs.length
      if f.ended then s.finishRx fid else s

/-- A TX ring's entry completes with a status and, if sent, its egress LT (R341). -/
def State.finishTx (s : State) (f : Frame) (status : Nat) (t : BitVec 64) : State :=
  match f.tx with
  | none => s
  | some (r, i, e) => s.complete r i (sliceB e 0 32 ++ leBytes (if status = 0 then t.toNat else 0) 8 ++ List.replicate 22 0) status

end Sys2Proof.Machine
end

