-- ==== Sys2Proof/Machine/TableOps.lean ====
section
/-! DEFINITION. Shared operations of the forwarding tables: keys, buckets, lookups, inserts with relocation and eviction, deletion,
and multicast groups. -/

namespace Sys2Proof.Machine

/-! ### Table settings -/

def State.tblKind (s : State) (t : Nat) : Nat := s.get .ingTblCfgKind t
/-- Is a table enabled? -/
def State.tblOn (s : State) (t : Nat) : Bool := s.is .ingTblCtlEn t
/-- Bytes of a table's key (R108). -/
def State.keyLen (s : State) (t : Nat) : Nat :=
  match s.tblKind t with
  | 2 => 4
  | 3 => 16
  | _ => if s.is .ingTblCfgKw t then 16 else 8
/-- Is a table a prefix table? -/
def State.isPrefix (s : State) (t : Nat) : Bool := s.tblKind t == 2 || s.tblKind t == 3

/-- The bits of an address beyond a prefix length set to 0 (R522). -/
def maskKey (k : Bytes) (plen : Nat) : Bytes :=
  let n := 8 * k.length
  beBytes (beNat k / 2 ^ (n - plen) * 2 ^ (n - plen)) k.length

/-- The stored form of a 16-byte key field: cut to the table's key, masked to the prefix. -/
def State.normKey (s : State) (t : Nat) (k : Bytes) (plen : Nat) : Bytes :=
  let b := sliceB k 0 (s.keyLen t)
  if s.isPrefix t then maskKey b plen else b

/-- The number a stored key and its prefix length spell: the place of an entry in its table. -/
def keyNum (k : Bytes) (plen : Nat) : Nat := beNat k * 256 + plen

/-- The entries of a table. -/
def State.tbl (s : State) (t : Nat) : SMap TEntry := SMap.getD s.ing.tables t []

/-- Store a table's entries and show their number. -/
def State.setTbl (s : State) (t : Nat) (m : SMap TEntry) : State :=
  { s with ing := { s.ing with tables := SMap.setD s.ing.tables t m [] } }.set .ingTblStaEntries t m.length

/-- The entry of a stored key. -/
def State.entry (s : State) (t : Nat) (k : Bytes) (plen : Nat) : Option TEntry := SMap.find (s.tbl t) (keyNum k plen)

/-- Store or remove an entry. -/
def State.putEntry (s : State) (t : Nat) (k : Bytes) (plen : Nat) (e : Option TEntry) : State :=
  s.setTbl t (SMap.put (s.tbl t) (keyNum k plen) e)

/-! ### Lookups (R109, R111, R112, R115, R118, R119) -/

/-- Is a port-typed entry's port under another incarnation than the entry names (R119)?  A result of 256 to 511 names no port and counts
as stale (DESIGN CHOICE, assumption 143). -/
def State.stalePort (s : State) (e : TEntry) : Bool :=
  let n := bitsOf e.result.toNat 8 0
  e.portTyped && (256 ≤ n || bitsOf e.result.toNat 31 16 != s.get .portStaInc n)

/-- A parity mismatch is counted and recorded (R118). -/
def State.parityMet (s : State) (t : Nat) (key : Bytes) (deleted : Bool) : State :=
  (s.bump .ingTblParMismatches t).cairnRec .tblParity (some ⟨.table, t⟩) (sliceB key 0 16 ++ [BitVec.ofNat 8 (bit deleted)])

/-- The longest stored prefix that covers a key, else the entry of the key itself. -/
def State.findEntry (s : State) (t : Nat) (k : Bytes) : Option TEntry :=
  if s.isPrefix t then
    (s.tbl t).foldl (fun best e =>
      if maskKey k e.2.plen = e.2.key then
        match best with
        | some b => if b.plen < e.2.plen then some e.2 else some b
        | none => some e.2
      else best) none
  else s.entry t k 0

/-- Is a channel in a maintenance window (R447)? -/
def State.inWindow (s : State) (ch : Nat) : Bool := decide (s.elapsed < SMap.getD s.mem.window ch 0)

/-- May a channel serve an extension lookup now: in service and in no maintenance window (R447, R449)? -/
def State.chServes (s : State) (ch : Nat) : Bool := s.blkState ⟨.memCh, ch⟩ == 2 && !s.inWindow ch

/-- Does either channel of the pair of a key serve its extension copy (R447, R449)? -/
def State.pairServes (s : State) (t : Nat) (k : Bytes) : Bool :=
  let p := Config.pairHash t k % 4
  s.chServes (2 * p) || s.chServes (2 * p + 1)

/-- The latency of a table's lookups in ns (R108). -/
def State.lkLatency (s : State) (t : Nat) : Nat := if s.tblKind t = 1 then 220 else 40

/-! ### Buckets (R108, R117) -/

/-- The number of buckets of a part of an exact-match table. -/
def State.buckets (s : State) (t : Nat) (ext : Bool) : Nat :=
  if ext then s.get .ingTblCfgExtCap t * 16384 else s.get .ingTblCfgCap t * 256

/-- A key's two candidate buckets in a part. -/
def State.cands (s : State) (t : Nat) (ext : Bool) (k : Bytes) : Nat × Nat :=
  let n := s.buckets t ext
  (Config.bucketHash false (2 * t + bit ext) k % n, Config.bucketHash true (2 * t + bit ext) k % n)

/-- What a bucket holds. -/
def State.inBucket (s : State) (t : Nat) (ext : Bool) (b : Nat) : List TEntry :=
  ((s.tbl t).map (·.2)).filter (fun e => e.ext == ext && e.bucket == b)

/-- Has a bucket room? -/
def State.bucketRoom (s : State) (t : Nat) (ext : Bool) (b : Nat) : Bool := (s.inBucket t ext b).length < 4

/-- An entry's other candidate bucket. -/
def State.otherBucket (s : State) (t : Nat) (e : TEntry) : Nat :=
  let c := s.cands t e.ext e.key
  if c.1 = e.bucket then c.2 else c.1

/-- The entries that a lookup of key `k` compares with it: what its candidate buckets hold, or the stored prefixes that cover it (R108,
R109). -/
def State.compared (s : State) (t : Nat) (k : Bytes) : List TEntry :=
  ((s.tbl t).map (·.2)).filter (fun e =>
    if s.isPrefix t then maskKey k e.plen == e.key
    else
      let c := s.cands t e.ext k
      e.bucket == c.1 || e.bucket == c.2)

/-- Those of them whose parity does not match; an extension word that its code corrects is read as corrected (R118, R443). -/
def State.damaged (s : State) (t : Nat) (k : Bytes) : List TEntry :=
  (s.compared t k).filter (fun e => if e.ext then e.parity == 2 else e.parity != 0)

/-- Each mismatch a lookup meets is counted and recorded (R118). -/
def State.mismatches (s : State) (t : Nat) (k : Bytes) : State :=
  (s.damaged t k).foldl (fun s e => s.parityMet t e.key false) s

/-! ### Parity met by commands (R517) -/

/-- A command reads entry `e`: a parity mismatch is corrected at once, or the entry is deleted (R517). -/
def State.readOne (s : State) (t : Nat) (e : TEntry) : State :=
  if e.parity = 0 then s
  else if e.parity = 1 then ((s.parityMet t e.key false).bump .sysEccSramCorrected).putEntry t e.key e.plen (some { e with parity := 0 })
  else (s.parityMet t e.key true).putEntry t e.key e.plen none

/-- A command reads the entries of a list. -/
def State.readAll (s : State) (t : Nat) (l : List TEntry) : State := l.foldl (fun s x => s.readOne t x) s

/-- A command reads what its key's candidate buckets hold, or the entry of its prefix, and finds the key's entry (R108, R517). -/
def State.readEntry (s : State) (t : Nat) (k : Bytes) (plen : Nat) : State × Option TEntry :=
  let s := s.readAll t (if s.isPrefix t then (s.entry t k plen).toList else s.compared t k)
  (s, s.entry t k plen)

/-! ### Flush passes (R124, R125) -/

/-- Does a flush pass delete an entry (R124)? -/
def FlushPass.takes (p : FlushPass) (x : TEntry) : Bool :=
  x.portTyped && bitsOf x.result.toNat 8 0 == p.port && (p.flushStatic || !x.static)

/-- LT units in a microsecond. -/
def unitsPerUs : Nat := 1000 * unitsPerNs

/-- The elapsed time at which a pass has visited `n` buckets or prefixes at `rate` of them per µs. -/
def FlushPass.visitAt (p : FlushPass) (n rate : Nat) : Nat := p.began + ceilDiv (n * unitsPerUs) rate

/-- The entries a pass visits up to now: those of the buckets whose instant has come since it last acted, or the stored prefixes next in
order (R125; the lowest rates the rule allows, assumption 25).  A pass goes on over what its table holds when the table has meanwhile been
disabled or enabled again (DESIGN CHOICE, assumption 25). -/
def State.visitsNow (s : State) (p : FlushPass) : List TEntry :=
  if p.doneAt.isSome then []
  else if s.isPrefix p.table then
    (((s.tbl p.table).filter (fun x => decide (p.after ≤ x.1))).take ((s.elapsed - p.began) * 4096 / unitsPerUs - p.seen)).map (·.2)
  else
    ((s.tbl p.table).map (·.2)).filter (fun x =>
      let a := p.visitAt (x.bucket + 1) (if x.ext then 64 else 1024)
      decide (p.upto < a) && decide (a ≤ s.elapsed))

/-- A pass makes its visits up to now: each entry is read, and deleted if the pass takes it (R125, R517). -/
def State.flushPass (s : State) (key : Nat) (p : FlushPass) : State :=
  let l := s.visitsNow p
  let s := (s.readAll p.table l)
  let s := l.foldl (fun s x => match s.entry p.table x.key x.plen with
    | some e => if p.takes e then s.putEntry p.table x.key x.plen none else s
    | none => s) s
  let after := match l.getLast? with
    | some x => if s.isPrefix p.table then keyNum x.key x.plen + 1 else p.after
    | none => p.after
  let seen := p.seen + l.length
  let doneAt := if p.doneAt.isNone && s.isPrefix p.table && !(s.tbl p.table).any (fun x => decide (after ≤ x.1)) then
    some (p.visitAt seen 4096) else p.doneAt
  let q := { p with upto := s.elapsed, seen := seen, after := after, doneAt := doneAt }
  { s with ing := { s.ing with flushes := SMap.put s.ing.flushes key (some q) } }

/-- Every pass over a table makes its visits up to now. -/
def State.flushVisits (s : State) (t : Nat) : State :=
  s.ing.flushes.foldl (fun s x => if x.2.table = t then s.flushPass x.1 x.2 else s) s

/-- Every pass makes its visits up to now. -/
def State.flushAll (s : State) : State := s.ing.flushes.foldl (fun s x => s.flushPass x.1 x.2) s

/-- The elapsed time at which a pass ends: the table's last bucket, or its last stored prefix, has been visited. -/
def State.passEnd (s : State) (p : FlushPass) : Nat :=
  if s.isPrefix p.table then
    p.doneAt.getD (p.visitAt (p.seen + ((s.tbl p.table).filter (fun x => decide (p.after ≤ x.1))).length) 4096)
  else max (p.visitAt (s.buckets p.table false) 1024)
    (if s.tblKind p.table = 1 then p.visitAt (s.buckets p.table true) 64 else 0)

/-! ### Lookups -/

/-- A lookup of key field `key` in table `t` under incarnation `inc`: the state with its counts and refresh, the value and the
status. -/
def State.lookup (s : State) (t : Nat) (key : Bytes) (inc : Nat) : State × BitVec 64 × Nat :=
  let s := s.flushVisits t
  if !s.tblOn t || inc = 0 || inc != s.get .ingTblStaInc t then (s.bump .ingTblStaleStale t, 0, 8)
  else
    let k := sliceB key 0 (s.keyLen t)
    let found := s.findEntry t k
    let ext : Bool := match found with
      | some e => e.ext
      | none => true
    if s.tblKind t == 1 && ext && !s.pairServes t k then (s.parityMet t k false, 0, 2)
    else if (s.damaged t k).length ≠ 0 then (s.mismatches t k, 0, 2)
    else match found with
      | none => (s, 0, 0)
      | some e =>
        if s.stalePort e then (s.bump .ingTblStaleStale t, 0, 4)
        else
          let s := if !e.static && s.get .ingTblCfgMaxAge t != 0 && !s.is .ingTblCfgRefresh t then
              s.putEntry t e.key e.plen (some { e with stamp := s.shortTime }) else s
          (s, e.result, 1)

/-! ### Relocation and eviction (R117) -/

/-- The element of a list that a free value picks (assumption 2). -/
def pick {α : Type} (w : BitVec 64) (l : List α) : Option α := l[w.toNat % l.length]?

/-- A chain of at most `n` relocations that makes room in bucket `b`: which entries move is a free choice (R117).  `used` are the
keys already in the chain.  The entries of the buckets on the way are read (R517). -/
def State.moves (t : Nat) (ext : Bool) : Nat → Nat → Nat → List Bytes → State → State × Option (List TEntry)
  | 0, _, _, _, s => (s, none)
  | n + 1, j, b, used, s =>
    match pick (s.free j) ((s.inBucket t ext b).filter (fun e => !used.contains e.key)) with
    | none => (s, none)
    | some v =>
      let o := s.otherBucket t v
      let s := s.readAll t (s.inBucket t ext o)
      if s.bucketRoom t ext o then (s, some [v])
      else
        let r := State.moves t ext n (j + 1) o (v.key :: used) s
        (r.1, r.2.map (fun l => v :: l))

/-- The first of a key's candidate buckets that has room, or that relocations give room, and the state after them. -/
def State.makeRoom (s : State) (t : Nat) (ext : Bool) (k : Bytes) : State × Option Nat :=
  if s.buckets t ext = 0 then (s, none)
  else
    let c := s.cands t ext k
    let s := s.readAll t (s.inBucket t ext c.1 ++ (if c.1 = c.2 then [] else s.inBucket t ext c.2))
    if s.bucketRoom t ext c.1 then (s, some c.1)
    else if s.bucketRoom t ext c.2 then (s, some c.2)
    else
      let b := if (s.free).getLsbD 0 then c.2 else c.1
      let r := State.moves t ext 8 1 b [] s
      let s := r.1.useFree 9
      match r.2 with
      | none => (s, none)
      | some l => (l.foldr (fun v s => s.putEntry t v.key v.plen (some { v with bucket := s.otherBucket t v })) s, some b)

/-- Age of an entry, signed short-time difference (R39, R115). -/
def State.ageOf (s : State) (e : TEntry) : Int := (s.shortTime - e.stamp).toInt

/-- The entry that eviction takes among a key's candidates: the oldest, or one at random; none if all are static (R117). -/
def State.victim (s : State) (t : Nat) (k : Bytes) : Option TEntry :=
  let ext := s.tblKind t == 1
  let c := s.cands t ext k
  let l := ((s.inBucket t ext c.1) ++ (if c.1 = c.2 then [] else s.inBucket t ext c.2)).filter (fun e => !e.static)
  if s.is .ingTblCfgEvict t then pick (s.free) l
  else
    let m := l.foldl (fun m e => max m (s.ageOf e)) (-32768)
    pick (s.free) (l.filter (fun e => s.ageOf e == m))

/-- How an insert ended. -/
inductive Inserted where
  | ok
  | evicted (e : TEntry)
  | full
  deriving DecidableEq, Repr

/-- Add a new entry: on die first, then in a kind-1 table's extension, then by eviction (R108, R117, R520). -/
def State.addEntry (s : State) (t : Nat) (e : TEntry) (noEvict : Bool) : State × Inserted :=
  if s.isPrefix t then
    if s.tblOn t && decide ((s.tbl t).length < s.get .ingTblCfgCap t * 1024) then (s.putEntry t e.key e.plen (some e), .ok)
    else (s, .full)
  else if !s.tblOn t then (s, .full)
  else
    let r := s.makeRoom t false e.key
    match r.2 with
    | some b => (r.1.putEntry t e.key 0 (some { e with ext := false, bucket := b }), .ok)
    | none =>
      let k1 := s.tblKind t == 1
      let r := if k1 then r.1.makeRoom t true e.key else (r.1, none)
      match r.2 with
      | some b => (r.1.putEntry t e.key 0 (some { e with ext := true, bucket := b }), .ok)
      | none =>
        if noEvict || s.buckets t k1 = 0 then (r.1, .full)
        else match r.1.victim t e.key with
          | none => (r.1, .full)
          | some v =>
            let s := (r.1.useFree.bump .ingTblEvictEvicted t).putEntry t v.key v.plen none
            (s.putEntry t e.key 0 (some { e with ext := k1, bucket := v.bucket }), .evicted v)

/-! ### Multicast groups (R120) -/

/-- A multicast group. -/
def State.mcg (s : State) (g : Nat) : McGroup := SMap.getD s.ing.mc g {}

/-- Store a multicast group. -/
def State.setMcg (s : State) (g : Nat) (v : McGroup) : State := { s with ing := { s.ing with mc := SMap.setD s.ing.mc g v {} } }

/-- Replace a multicast group's port set and queue under a new incarnation; an empty set disables it (R120, R519). -/
def State.mcReplace (s : State) (g ports q : Nat) : State :=
  let b : Blk := ⟨.mcGroup, g⟩
  let s := s.setMcg g { s.mcg g with ports := ports, queue := q }
  if ports = 0 then
    if s.blkInc b = 0 then s else (s.enterService b).leaveService b
  else s.enterService b

end Sys2Proof.Machine
end

