-- ==== Sys2Proof/Machine/ConOps.lean ====
section
/-! DEFINITION. The admission engine's judgment (chapter 07): contract records, arrival curves, queueing and gate terms, bounds, and
the checks of R206 in their order. -/

namespace Sys2Proof.Machine

/-! ### Fractions -/

/-- A fraction with a positive denominator, not reduced. -/
structure Frac where
  num : Int
  den : Nat
  deriving DecidableEq, Repr

/-- A whole number. -/
def Frac.ofNat (n : Nat) : Frac := ⟨n, 1⟩
/-- A quotient of naturals; over 0 it counts as over 1. -/
def Frac.mk' (n d : Nat) : Frac := ⟨n, if d = 0 then 1 else d⟩
def Frac.add (a b : Frac) : Frac := ⟨a.num * b.den + b.num * a.den, a.den * b.den⟩
def Frac.sub (a b : Frac) : Frac := ⟨a.num * b.den - b.num * a.den, a.den * b.den⟩
def Frac.mul (a b : Frac) : Frac := ⟨a.num * b.num, a.den * b.den⟩
/-- Division by a positive fraction. -/
def Frac.div (a b : Frac) : Frac := ⟨a.num * b.den, a.den * b.num.toNat⟩
def Frac.lt (a b : Frac) : Bool := decide (a.num * b.den < b.num * a.den)
def Frac.min (a b : Frac) : Frac := if b.lt a then b else a
def Frac.pos (a : Frac) : Bool := decide (0 < a.num)
/-- The least natural at or above. -/
def Frac.ceil (a : Frac) : Nat := if a.den = 0 then 0 else ((a.num + a.den - 1) / a.den).toNat

/-- The sum of a list of naturals. -/
def sumN (l : List Nat) : Nat := l.foldl (· + ·) 0
/-- The largest of a list of naturals, 0 for none. -/
def maxN (l : List Nat) : Nat := l.foldl max 0

/-! ### Records (R190, R191) -/

/-- The record that 160 bytes spell. -/
def parseCon (b : Bytes) : ConRec :=
  { contract := leAt b 0 2, inc := leAt b 2 2, ledgered := bitOf (leAt b 4 1) 0, dryRun := bitOf (leAt b 4 1) 1,
    gClass := leAt b 5 1, yClass := leAt b 6 1, cir := leAt b 8 4, pir := leAt b 12 4, cbs := leAt b 16 4, pbs := leAt b 20 4,
    lMax := leAt b 24 2, lMin := leAt b 26 2, group := leAt b 28 2, tenant := leAt b 30 1, presence := leAt b 31 1,
    key := sliceB b 32 32, inPorts := leAt b 64 32, mcPorts := leAt b 96 32, reqC := leAt b 128 4, reqP := leAt b 132 4,
    at_ := BitVec.ofNat 64 (leAt b 136 8) }

/-- Is a reserved byte or flag bit of a record not 0?  This alone makes a RETIRE, QUERY or RECHECK malformed: they use no other field that
R191 limits (R191, R192; DEDUCED, assumption 119). -/
def conReserved (b : Bytes) : Bool := !(zeroAt b 7 1 && zeroAt b 144 16 && decide (leAt b 4 1 < 4))

/-- Is a record malformed (R191)? A class above 15 is no queue number. -/
def conMalformed (b : Bytes) : Bool :=
  let r := parseCon b
  conReserved b || !(decide (r.gClass ≤ 15) && decide (r.yClass ≤ 15) &&
    decide (0 < r.cir) && decide (r.cir ≤ r.pir) && decide (r.lMax ≤ r.cbs) && decide (r.cbs ≤ r.pbs) &&
    decide (64 ≤ r.lMin) && decide (r.lMin ≤ r.lMax) && decide (r.lMax ≤ 9216) && r.inPorts != 0 &&
    decide (1 ≤ r.reqC) && decide (r.reqC ≤ r.reqP) && decide (r.reqP ≤ 999999999))

/-- A record's 160 bytes, its integers by `le` with their width; the table of R190 places the bits of the port sets by byte, so these
keep their bytes (DEDUCED, assumption 61). -/
def conBytesBy (le : Nat → Nat → Bytes) (r : ConRec) : Bytes :=
  le r.contract 2 ++ le r.inc 2 ++ le (bit r.ledgered + 2 * bit r.dryRun) 1 ++ le r.gClass 1 ++ le r.yClass 1 ++ [0] ++
  le r.cir 4 ++ le r.pir 4 ++ le r.cbs 4 ++ le r.pbs 4 ++ le r.lMax 2 ++ le r.lMin 2 ++ le r.group 2 ++ le r.tenant 1 ++
  le r.presence 1 ++ r.key ++ leBytes r.inPorts 32 ++ leBytes r.mcPorts 32 ++ le r.reqC 4 ++ le r.reqP 4 ++
  le r.at_.toNat 8 ++ List.replicate 16 0

/-- As carried in mailbox commands and replies. -/
def conBytes (r : ConRec) : Bytes := conBytesBy leBytes r
/-- As serialised for the contract table digest (R214). -/
def conBytesBE (r : ConRec) : Bytes := conBytesBy beBytes r

/-! ### The versions and images a judgment sees (R193, R198, R518) -/

/-- What a judgment is made on: the block, the versions counted, and the images of each group. -/
structure Env where
  s : State
  vers : List ConVer
  imgs : Nat → List Image

/-- Every contract version in states 1 to 3. -/
def State.allVers (s : State) : List ConVer := s.con.versions.flatMap (·.2)

/-- The live frame images of a group. -/
def State.liveImgs (s : State) (g : Nat) : List Image :=
  [0, 1].filterMap (fun b => SMap.find s.spur.images (grpImg g b))

/-- The judgment on what is admitted now. -/
def State.env (s : State) : Env := ⟨s, s.allVers, s.liveImgs⟩

/-- Indices of the blocks that images claim with a type. -/
def claimed (imgs : List Image) (ty : Nat) : List Nat :=
  (imgs.flatMap (fun i => (i.claims.filter (fun c => c.ty == ty)).map (fun c => bitsOf c.data.toNat 51 32))).eraseDups

/-- The egress port set of a contract (R196). -/
def Env.egress (e : Env) (r : ConRec) : List Nat :=
  let im := e.imgs r.group
  ((claimed im 2).map (· / 16) ++
   (if (claimed im 3).isEmpty then [] else (List.range 256).filter (fun n => bitOf r.mcPorts n))).eraseDups

/-- The ports of a record's ingress set. -/
def ConRec.ins (r : ConRec) : List Nat := (List.range 256).filter (fun n => bitOf r.inPorts n)

/-- Does a contract name a port, as ingress or egress? -/
def Env.names (e : Env) (r : ConRec) (n : Nat) : Bool := bitOf r.inPorts n || (e.egress r).contains n

/-- The image terms a judgment records (R518). -/
def Env.termsOf (e : Env) (g : Nat) : ConTerms :=
  let im := e.imgs g
  let tabs := claimed im 1
  { budget := maxN (im.map (·.budget)), lkNs := maxN (im.map (·.lkNs)), waits := maxN (im.map (·.waits)),
    kind1 := maxN ((im.filter (fun i => (claimed [i] 1).any (fun t => e.s.tblKind t == 1))).map (fun i => min i.waits 4)),
    tables := tabs }

/-! ### Arrival curves and the queueing term (R199, R200) -/

/-- Bytes added to a frame on the wire of a port (R215, R303). -/
def State.wireAdd (s : State) (p : Nat) : Nat := 20 + s.secyGrow p

/-- A curve: burst in bytes and rate in Gb/s. -/
def curve (r : ConRec) (t : ConTerms) (add rate burst : Nat) : Nat × Frac :=
  (ceilDiv ((r.lMin + add) * (burst * 8000 + rate * (t.budget + t.lkNs))) (r.lMin * 8000),
   Frac.mk' ((r.lMin + add) * rate) (r.lMin * 1000))

/-- The curves that a version offers queue `q` of port `p`. -/
def State.curveOf (s : State) (v : ConVer) (p q : Nat) : Option (Nat × Frac) :=
  if v.body.yClass = q then some (curve v.body v.terms (s.wireAdd p) v.body.pir v.body.pbs)
  else if v.body.gClass = q then some (curve v.body v.terms (s.wireAdd p) v.body.cir v.body.cbs)
  else none

/-- The versions whose frames leave by a port. -/
def Env.on (e : Env) (p : Nat) : List ConVer := e.vers.filter (fun v => (e.egress v.body).contains p)

/-- A queue's aggregate curve, the PTP reserve counted in Q3 (R197, R199). -/
def Env.agg (e : Env) (p q : Nat) : Nat × Frac :=
  let ptp := if q = 3 && e.s.is .portPtpCfgPtpEn p then [((512, Frac.mk' 1 100) : Nat × Frac)] else []
  ((e.on p).filterMap (fun v => e.s.curveOf v p q) ++ ptp).foldl (fun a c => (a.1 + c.1, a.2.add c.2)) (0, Frac.ofNat 0)

/-- Does a queue of a port carry contracts? -/
def Env.carries (e : Env) (p q : Nat) : Bool := (e.on p).any (fun v => v.body.gClass == q || v.body.yClass == q)

/-- The sum of the aggregates of the queues below `q`. -/
def Env.below (e : Env) (p q : Nat) : Nat × Frac :=
  ((List.range q).map (e.agg p)).foldl (fun a c => (a.1 + c.1, a.2.add c.2)) (0, Frac.ofNat 0)

/-! ### The gate wait term (R201, R202, R228) -/

/-- The open runs of queue `q` over the entries from `e` on, the present one having begun at `a` if any; `t` is the start of entry
`e`. -/
def State.gateRuns (s : State) (p b q : Nat) : Nat → Nat → Nat → Option Nat → List (Nat × Nat)
  | 0, _, t, some a => [(a, t)]
  | 0, _, _, none => []
  | k + 1, e, t, cur =>
    let open_ := bitOf (s.get .colEntGates (colEntIx p b e)) q
    let t' := t + s.colDur p b e
    match open_, cur with
    | true, some a => s.gateRuns p b q k (e + 1) t' (some a)
    | true, none => s.gateRuns p b q k (e + 1) t' (some t)
    | false, some a => (a, t) :: s.gateRuns p b q k (e + 1) t' none
    | false, none => s.gateRuns p b q k (e + 1) t' none

/-- The runs of one cycle, cut at its start and end. -/
def State.runsOf (s : State) (p b q : Nat) : List (Nat × Nat) := s.gateRuns p b q (s.colCount p b) 0 0 none

/-- The runs as they repeat: a last run that reaches the end of the cycle goes on into a first run that begins at its start. -/
def cyclicRuns (cyc : Nat) (l : List (Nat × Nat)) : List (Nat × Nat) :=
  match l, l.getLast? with
  | (0, c) :: t, some (a, z) => if z = cyc ∧ t ≠ [] then (t.dropLast) ++ [(a, c + cyc)] else l
  | _, _ => l

/-- The intervals of possible starts under a guard of `g` ns. -/
def startsOf (g : Nat) (l : List (Nat × Nat)) : List (Nat × Nat) :=
  (l.filter (fun r => decide (r.1 + g ≤ r.2))).map (fun r => (r.1, r.2 - g))

/-- The longest gap between intervals in order, the first coming round again after a cycle. -/
def longestGap (cyc : Nat) (l : List (Nat × Nat)) : Nat :=
  match l with
  | [] => cyc
  | x :: _ => maxN ((l.zip (l.drop 1 ++ [(x.1 + cyc, x.2 + cyc)])).map (fun p => p.2.1 - p.1.2))

/-- The guard of a frame of `x` wire bytes under a bank (R226). -/
def State.guardNs (s : State) (p b x : Nat) : Nat := max (s.txTime p x) (s.get .colBankCfgGuardMin (p * 2 + b))

/-- G_q and f_q of one list for frames of `x` wire bytes (R201). -/
def State.gateOf (s : State) (p b q x : Nat) : Nat × Frac :=
  let cyc := s.colCycle p b
  let runs := s.runsOf p b q
  if s.colCount p b = 0 ∨ runs = [(0, cyc)] then (0, Frac.ofNat 1)
  else
    let st := startsOf (s.guardNs p b x) (cyclicRuns cyc runs)
    (longestGap cyc st, Frac.mk' (sumN (st.map (fun r => r.2 - r.1))) cyc)

/-- Runs in order, with a run that begins where the one before it ends joined to it. -/
def joinRuns : List (Nat × Nat) → List (Nat × Nat)
  | [] => []
  | r :: t => match joinRuns t with
    | [] => [r]
    | x :: l => if r.2 = x.1 then (r.1, x.2) :: l else r :: x :: l

/-- The runs of a list's first three cycles, one that reaches the end of a cycle going on into the next. -/
def State.firstRuns (s : State) (p b q : Nat) : List (Nat × Nat) :=
  let cyc := s.colCycle p b
  joinRuns ((List.range 3).flatMap (fun k => (s.runsOf p b q).map (fun r => (r.1 + k * cyc, r.2 + k * cyc))))

/-- The last possible start under a list before a forced closing `o` ns into its cycle, as ns before it (R228).  A gate that never closes
leaves the guard; any other run is shorter than a cycle, so the two cycles before the closing hold the last start. -/
def State.gapBefore (s : State) (p b q x o : Nat) : Nat :=
  let cyc := s.colCycle p b
  let g := s.guardNs p b x
  let lim := o + 2 * cyc
  let runs := s.runsOf p b q
  if runs = [(0, cyc)] then g
  else
    let ends := (s.firstRuns p b q).filterMap (fun r =>
      let c := min r.2 lim
      if r.1 + g ≤ c then some (c - g) else none)
    if ends.isEmpty then cyc else lim - maxN ends

/-- The first possible start of a list that begins at its entry 0, as ns after its beginning.  A gate that never closes has no guard; a
run that ends is shorter than a cycle, so the first start lies in the first two. -/
def State.gapAfter (s : State) (p b q x : Nat) : Nat :=
  let cyc := s.colCycle p b
  if s.colCount p b = 0 ∨ s.runsOf p b q = [(0, cyc)] then 0
  else match startsOf (s.guardNs p b x) (s.firstRuns p b q) with
    | [] => cyc
    | r :: _ => r.1

/-- A Col configuration a port is judged under: the list in force; the inactive bank's list; or that list with the switch to it. -/
inductive ColCfg where
  | active | inactive | across
  deriving DecidableEq, Repr

/-- G_q and f_q under a configuration.  While no list is in force every gate is open up to S (R228, R523). -/
def State.gateTerm (s : State) (p q x : Nat) (c : ColCfg) : Nat × Frac :=
  let b := s.colBank p
  let now := if s.is .colStaListed p then s.gateOf p b q x else (0, Frac.ofNat 1)
  let new := s.gateOf p (1 - b) q x
  match c with
  | .active => now
  | .inactive => new
  | .across =>
    let at_ := if s.is .colStaPending p then s.reg .colSwitchLt p else s.colS p (1 - b)
    let pre := match SMap.find s.tm.colS p with
      | some st => s.gapBefore p b q x (((s.instantOf at_ - st.1) % ((s.colCycle p b * unitsPerNs : Nat) : Int)).toNat / unitsPerNs)
      | none => 0
    (max (max now.1 new.1) (pre + s.gapAfter p (1 - b) q x), new.2)

/-- The largest wire frame of the contracts on a queue (R201, R297). -/
def Env.widest (e : Env) (p q : Nat) : Nat :=
  maxN (((e.on p).filter (fun v => v.body.gClass == q || v.body.yClass == q)).map (fun v =>
    v.body.lMax + e.s.wireAdd p +
    (if (claimed (e.imgs v.body.group) 6).any (fun k =>
        match SMap.find e.s.ciph.keys k with
        | some r => r.mode == 1 || r.mode == 3
        | none => false) then 16 else 0)))

/-- Codes of R206. -/
def rcTiming : Nat := 0x01
def rcQuota : Nat := 0x02
def rcPort : Nat := 0x03
def rcProgram : Nat := 0x04
def rcClassifier : Nat := 0x05
def rcIngress : Nat := 0x06
def rcMembers : Nat := 0x07
def rcLedger : Nat := 0x08
def rcHost : Nat := 0x09
def rcFabric : Nat := 0x0A
def rcCipher : Nat := 0x0B
def rcQueue : Nat := 0x0C
def rcGate : Nat := 0x0D
def rcBuffer : Nat := 0x0E
def rcBound : Nat := 0x0F
def rcImpact : Nat := 0x10
def rcKind1 : Nat := 0x11

/-- The banks a port is judged under. -/
structure Banks where
  tm : Nat
  col : ColCfg

/-- What a queue's terms come to: the code that fails, if one does, D_q where R200 defines it, and G_q. -/
structure QTerm where
  code : Option Nat
  d : Option Nat
  g : Nat
  deriving DecidableEq, Repr

/-- D_q and G_q of a queue under a bank and a Col configuration, and the code that fails (R200, R201).  Where no rate is left to the
queue, R200's quotient has no value. -/
def Env.queueTerm (e : Env) (p q : Nat) (c : Banks) : QTerm :=
  let s := e.s
  let tb := c.tm
  let ps := s.shaper p 16 tb
  let line := Frac.ofNat (s.portRate p)
  let r := if ps.en then line.min (Frac.mk' ps.cir 1000) else line
  let sig := if ps.en then 256 else 0
  let m := s.get .portMacCfgMaxFrame p + s.wireAdd p
  let me := e.agg p q
  let qs := s.shaper p q tb
  let g := s.gateTerm p q (e.widest p q) c.col
  let fit := fun (x : Frac) => (if qs.en then x.min (Frac.mk' qs.cir 1000) else x).mul g.2
  let extra := sig + (if qs.en then 256 else 0)
  let term := fun (reff : Frac) (d : Frac) =>
    let code := if !(e.below p 4).2.lt r then some rcQueue
      else if !g.2.pos then some rcGate
      else if !(me.2.lt reff) then some rcQueue
      else none
    ({ code := code, d := if reff.pos then some ((Frac.ofNat extra).add d).ceil else none, g := g.1 } : QTerm)
  if q < 4 then
    let lo := e.below p q
    let reff := fit (r.sub lo.2)
    term reff ((Frac.ofNat (8 * (lo.1 + m + me.1))).div reff)
  else
    let lo := e.below p 4
    let rw := r.sub lo.2
    let w := ((List.range 12).map (· + 4)).filter (fun j => s.quantum p j tb != 0)
    let tot := sumN (w.map (fun j => s.quantum p j tb))
    let mine := s.quantum p q tb
    if mine = 0 then { code := some rcQueue, d := none, g := g.1 }
    else
      let reff := fit ((rw.mul (Frac.ofNat mine)).div (Frac.ofNat tot))
      let others := sumN ((w.filter (· != q)).map (fun j => s.quantum p j tb + m))
      term reff (((Frac.ofNat (8 * (lo.1 + others))).div rw).add ((Frac.ofNat (8 * me.1)).div reff))

/-- The banks a request on a port is judged under (R202). -/
def State.banksFor (s : State) (p : Nat) : List Banks :=
  let tms := s.tmBank p :: (if s.is .tmPortStaSwapPending p then [1 - s.tmBank p] else [])
  let cols := ColCfg.active :: (if s.is .colStaPending p then [ColCfg.across] else [])
  tms.flatMap (fun t => cols.map (fun c => ⟨t, c⟩))

/-- The queues of a port that carry contracts. -/
def Env.conQueues (e : Env) (p : Nat) : List Nat := (List.range 16).filter (fun q => e.carries p q)

/-- The queues of a port with an arrival curve: those, and Q3 where the PTP reserve stands in it (R197, R203). -/
def Env.queues (e : Env) (p : Nat) : List Nat :=
  (List.range 16).filter (fun q => e.carries p q || (q == 3 && e.s.is .portPtpCfgPtpEn p))

/-- The first code that a port's queues fail with under some banks, QUEUE before GATE. -/
def Env.portFails (e : Env) (p : Nat) (bs : List Banks) : Option Nat :=
  let l := bs.flatMap (fun b => (e.conQueues p).filterMap (fun q => (e.queueTerm p q b).code))
  if l.contains rcQueue then some rcQueue else l.head?

/-- D_q of a queue under some banks: the largest; a free value where R200 gives none. -/
def Env.delay (e : Env) (p q : Nat) (bs : List Banks) : Nat :=
  maxN (bs.map (fun b => (e.queueTerm p q b).d.getD (Config.openDelay p q)))

/-- D_q plus G_q of a queue under some banks: the largest. -/
def Env.delayGate (e : Env) (p q : Nat) (bs : List Banks) : Nat :=
  maxN (bs.map (fun b => let t := e.queueTerm p q b
                         t.d.getD (Config.openDelay p q) + t.g))

/-! ### The bound (R198, R233, R294) -/

/-- The replication term for a port set, ns (R233). -/
def replNs (ports : Nat) : Nat :=
  let k := ((List.range 32).filter (fun o => bitsOf ports (8 * o + 7) (8 * o) != 0)).length
  if k = 0 then 0 else 8 + 2 * (k - 1)

/-- T_1 of R294. -/
def State.cipherTerm (s : State) (len : Nat) : Nat :=
  let b := s.shareBank
  ceilDiv (8 * (s.shareBurst b 0 + s.shareBurst b 1)) (3072 - s.shareRate b 0) + ceilDiv len 24 + 40

/-- The computed bound of a version whose frames use queue `q`; `bs` gives the banks each port is judged under. -/
def Env.bound (e : Env) (v : ConVer) (q : Nat) (bs : Nat → List Banks) : Nat :=
  let s := e.s
  let r := v.body
  let im := e.imgs r.group
  let base := maxN (r.ins.map (fun n => s.portIn n + s.secyRx n)) + maxN (r.ins.map s.portParse) + v.terms.lkNs + v.terms.budget
  let out := fun (hold : Bool) (p : Nat) =>
    24 + s.portOut p + s.secyTx p +
    (if hold then maxN (r.ins.map (fun n => if s.secyOn n || s.secyOn p then 0 else s.holdNs n p r.lMax)) else 0)
  let eg := e.egress r
  let wait := maxN (eg.map (fun p => e.delayGate p q (bs p)))
  let fixed := maxN (eg.map (out true))
  let direct := if (claimed im 2).isEmpty then 0 else base + wait + fixed
  let multi := if (claimed im 3).isEmpty then 0 else base + wait + replNs r.mcPorts + fixed
  let rin := (r.ins.map s.portRate).foldl min 400
  let ciph := if (claimed im 6).isEmpty then 0
    else base + ceilDiv (8 * r.lMax) rin + s.cipherTerm r.lMax + wait + maxN (eg.map (out false))
  let host := if (claimed im 4).isEmpty && (claimed im 5).isEmpty then 0 else base + 16
  maxN [direct, multi, ciph, host]

/-- Committed and peak bound of a version. -/
def Env.bounds (e : Env) (v : ConVer) (bs : Nat → List Banks) : Nat × Nat :=
  (e.bound v v.body.gClass bs, e.bound v v.body.yClass bs)

/-! ### Shared resources (R203-R205, R110) -/

/-- A group's member count in service. -/
def State.memberCount (s : State) (g : Nat) : Nat := (s.membersUp g).length

/-- The member need of a group (R204). -/
def Env.memberNeed (e : Env) (g : Nat) : Nat :=
  let vs := e.vers.filter (fun v => v.body.group == g)
  let h := maxN (vs.map (fun v => v.terms.budget + v.terms.lkNs))
  sumN ((List.range 256).map (fun p =>
    let on := vs.filter (fun v => bitOf v.body.inPorts p)
    if on.isEmpty then 0
    else
      let n := sumN (on.map (fun v => (v.body.pbs * 8000 + v.body.pir * h) / (8000 * v.body.lMin) + 1))
      min n (h * e.s.portRate p / 672 + 1)))

/-- A lane's charge in leaves/s (R205). -/
def Env.laneCharge (e : Env) (l : Nat) : Frac :=
  ((e.vers.filter (fun v => v.body.ledgered)).flatMap (fun v =>
    (v.body.ins.filter (fun p => p / 16 == l)).map (fun p =>
      (Frac.mk' (2 * v.body.pir * 1000000) (8 * v.body.lMin)).min (Frac.mk' (e.s.portRate p * 1000000000) 672)))).foldl Frac.add (Frac.ofNat 0)

/-- The contract drain capacity C of the trained link, Gb/s (R314). -/
def State.drainCap (s : State) : Nat := s.get .hostLinkStaDrain

/-- The functions a group's host-ring claims drain to. -/
def Env.drains (e : Env) (g : Nat) : List Nat := ((claimed (e.imgs g) 4).map (fun r => e.s.get .ringStaOwner r)).eraseDups

/-- The summed pir of the versions that drain to host rings, Mb/s (R203, R314). -/
def Env.drainSum (e : Env) : Nat :=
  sumN ((e.vers.filter (fun v => !(e.drains v.body.group).isEmpty)).map (fun v => v.body.pir))

/-- HOST_LINK_STA.short: C below the admitted host drain (R314). -/
def State.showShort (s : State) : State := s.set .hostLinkStaShort 0 (bit (decide (1000 * s.drainCap < s.env.drainSum)))

/-- Is the HOST check met (R203, R314)? -/
def Env.hostOk (e : Env) : Bool :=
  let vs := e.vers.filter (fun v => !(e.drains v.body.group).isEmpty)
  decide (e.drainSum ≤ 1000 * min 800 e.s.drainCap) &&
  e.s.ten.tenants.all (fun t =>
    decide (sumN ((vs.filter (fun v => (e.drains v.body.group).contains t.1)).map (fun v => v.body.pir)) ≤ t.2.grant.hostDrain)
    || !vs.any (fun v => (e.drains v.body.group).contains t.1))

/-- Is the FABRIC check met? -/
def Env.fabricOk (e : Env) : Bool :=
  let used := (e.vers.flatMap (fun v => claimed (e.imgs v.body.group) 5)).eraseDups
  used.all (fun w =>
    let sum := sumN ((e.vers.filter (fun v => (claimed (e.imgs v.body.group) 5).contains w)).map (fun v => v.body.pir))
    match SMap.find e.s.zoa.wqs w with
    | some q => decide (sum ≤ q.rate)
    | none => false)

/-- Bytes of held release left for classes 1 to 3 (R296). -/
def State.heldLeft (s : State) : Nat := 4194304 - sumN ((List.range 256).map s.secyReserve)

/-- Is the CIPHER check met under the shares of bank `b` (R294, R296)? -/
def Env.cipherOk (e : Env) (b : Nat) : Bool :=
  let vs := e.vers.filter (fun v => !(claimed (e.imgs v.body.group) 6).isEmpty)
  let pir := sumN (vs.map (fun v => v.body.pir))
  let pbs := sumN (vs.map (fun v => v.body.pbs))
  vs.isEmpty ||
  (decide (pir ≤ 1000 * e.s.shareRate b 1) && decide (pbs ≤ e.s.shareBurst b 1) && decide (pir ≤ 3072000) &&
   decide (pbs ≤ e.s.heldLeft))

/-- The packet-buffer need of every queue (R203 BUFFER). -/
def Env.bufferNeed (e : Env) : Nat :=
  sumN ((List.range 256).map (fun p => sumN ((e.queues p).map (fun q =>
    let a := e.agg p q
    ((Frac.ofNat a.1).add ((a.2.mul (Frac.ofNat (e.delay p q (e.s.banksFor p)))).div (Frac.ofNat 8))).ceil))))

/-- The kind-1 lookup load (R110, R518). -/
def Env.kind1Load (e : Env) : Nat :=
  let gs := (e.vers.map (fun v => v.body.group)).eraseDups
  sumN (gs.map (fun g => (e.s.members g).length *
    maxN ((e.vers.filter (fun v => v.body.group == g)).map (fun v => v.terms.kind1))))

/-- Do two versions' intervals overlap in time? -/
def overlaps (a b : ConVer) : Bool :=
  (match b.till with
   | some u => decide (a.began < u)
   | none => true) &&
  (match a.till with
   | some u => decide (b.began < u)
   | none => true)

/-- Does another contract's entry match the same frame at the same instant? -/
def Env.clashes (e : Env) (v : ConVer) : Bool :=
  e.vers.any (fun o => o.body.contract != v.body.contract && decide (o.body.key = v.body.key) &&
    o.body.presence == v.body.presence && (o.body.inPorts &&& v.body.inPorts) != 0 && overlaps v o)

/-- Classifier entries in use. -/
def Env.entries (e : Env) : Nat := sumN (e.vers.map (fun v => v.body.ins.length))

/-- Does an image hold an EMIT of kind 0 with lt = 1 (R166, R180)? -/
def Image.emitsLt (i : Image) : Bool :=
  (List.range i.codeLen).any (fun j =>
    let w := leAt i.raw (i.hdrLen + 4 * j) 4
    bitsOf w 31 26 == 0x2C && bitsOf w 25 23 == 0 && bitOf w 11)

/-- Is a queue of a port launch-enabled in one of some banks (R230)? -/
def State.launchIn (s : State) (p q : Nat) (bs : List Banks) : Bool :=
  decide (4 ≤ q) && bs.any (fun b => s.is .tmQCfgLaunchEn (qbIx p q b.tm))

/-- Does a contract other than `c` use queue `q` of a port? -/
def Env.sharesQueue (e : Env) (p q c : Nat) : Bool :=
  (e.on p).any (fun o => o.body.contract != c && (o.body.gClass == q || o.body.yClass == q))

/-- Does a launch-enabled queue of a port serve two contracts, or a strict class serve frames emitted with a launch instant, under the
banks the port is judged under (R202, R231)? -/
def Env.launchClash (e : Env) (v : ConVer) : Bool :=
  ((e.imgs v.body.group).any Image.emitsLt && !(claimed (e.imgs v.body.group) 2).isEmpty &&
    (decide (v.body.gClass < 4) || decide (v.body.yClass < 4))) ||
  (e.egress v.body).any (fun p => [v.body.gClass, v.body.yClass].any (fun q =>
    e.s.launchIn p q (e.s.banksFor p) && e.sharesQueue p q v.body.contract))

/-- Does some launch-enabled queue of a port serve two contracts under some banks (R231)? -/
def Env.portClash (e : Env) (p : Nat) (bs : List Banks) : Bool :=
  (e.on p).any (fun v => [v.body.gClass, v.body.yClass].any (fun q =>
    e.s.launchIn p q bs && e.sharesQueue p q v.body.contract))

/-! ### The checks in order (R206) -/

/-- The result of a judgment: refused with a code, an impacted contract and bounds, or accepted with bounds. -/
structure Verdict where
  code : Nat
  impact : Nat
  bc : Nat
  bp : Nat
  deriving DecidableEq, Repr

/-- May a tenant name this instant: at least 20 ms and less than 2⁴⁶ ns ahead? -/
def State.timingOk (s : State) (t : BitVec 64) : Bool :=
  let d := ltDiff t s.lt
  decide (1310720000000 ≤ d) && decide (d < 2 ^ 62)

/-- The contract quota of a function (R354); PF0 and PF1 have none of their own. -/
def State.quotaOk (s : State) (f n : Nat) : Bool :=
  decide (s.con.versions.length < 65536) &&
  (match SMap.find s.ten.tenants f with
   | some t => decide (n < t.grant.quota)
   | none => true)

/-- Is the group a frame group with an image in force at the instant (R206 PROGRAM)?  While no activation is pending, the images judged
with are those in force and those of an activation sent with the request (R211). -/
def Env.programOk (e : Env) (r : ConRec) : Bool :=
  let s := e.s
  let g := r.group
  let im := e.imgs g
  let bank := s.get .spurGrpStaActiveBank g
  let now := (SMap.find s.spur.images (grpImg g bank)).isSome
  let soon := match s.spur.act with
    | some a => a.targets.contains g && ltReached r.at_ a.at_
    | none => !im.isEmpty
  s.grpOn g && (now || soon) &&
  r.ins.all (fun n => im.all (fun i => decide (i.hdrNeed ≤ s.portDepth n)))

/-- The lowest other contract whose computed bound exceeds its requested one, with its bounds. -/
def Env.impacted (e : Env) (c : Nat) (bs : Nat → List Banks) : Option (Nat × Nat × Nat) :=
  (e.vers.filter (fun v => v.body.contract != c)).foldl (fun best v =>
    let b := e.bounds v bs
    if v.body.reqC < b.1 ∨ v.body.reqP < b.2 then
      match best with
      | some x => if v.body.contract < x.1 then some (v.body.contract, b.1, b.2) else best
      | none => some (v.body.contract, b.1, b.2)
    else best) none

/-- The first of a list of checks that fails. -/
def firstFail : List (Nat × Bool) → Option Nat
  | [] => none
  | (c, bad) :: t => if bad then some c else firstFail t

/-- The judgment of a new version `v`, already counted in `e.vers`; `old` contracts are a CHANGE's (no quota is drawn), `exempt` is
a bundle contract with at = 0. -/
def Env.judge (e : Env) (v : ConVer) (change exempt : Bool) : Verdict :=
  let s := e.s
  let r := v.body
  let bs := s.banksFor
  let b := e.bounds v bs
  let eg := e.egress r
  let mine := (s.con.versions.filter (fun x => x.2.any (fun w => w.body.tenant == r.tenant))).length
  let pre := firstFail
    [(rcTiming, !(exempt || s.timingOk r.at_)),
     (rcQuota, !(change || s.quotaOk r.tenant mine)),
     (rcPort, (r.ins ++ eg).any (fun n =>
        !s.portOn n || s.is .portMacCfgPfcRx n || decide (s.get .portMacCfgMaxFrame n < r.lMax))),
     (rcProgram, !(e.programOk r && s.get .spurGrpStaOwner r.group == r.tenant)),
     (rcClassifier, decide (262144 < e.entries) || e.clashes v),
     (rcIngress, r.ins.any (fun n => decide (1000 * s.portRate n <
        sumN ((e.vers.filter (fun w => bitOf w.body.inPorts n)).map (fun w => w.body.pir))))),
     (rcMembers, decide (s.memberCount r.group < e.memberNeed r.group)),
     (rcLedger, r.ledgered && (List.range 16).any (fun l => (Frac.ofNat 37500000).lt (e.laneCharge l))),
     (rcHost, !e.hostOk), (rcFabric, !e.fabricOk), (rcCipher, !e.cipherOk s.shareBank)]
  let queue := (eg.filterMap (fun p => e.portFails p (bs p)))
  let code := match pre with
    | some c => some c
    | none =>
      if queue.contains rcQueue || e.launchClash v then some rcQueue
      else if queue.contains rcGate then some rcGate
      else firstFail
        [(rcBuffer, decide (contractReserve < e.bufferNeed)), (rcKind1, decide (16 < e.kind1Load)),
         (rcBound, decide (r.reqC < b.1) || decide (r.reqP < b.2))]
  match code with
  | some c => ⟨c, 0, b.1, b.2⟩
  | none => match e.impacted r.contract bs with
    | some x => ⟨rcImpact, x.1, x.2.1, x.2.2⟩
    | none => ⟨0, 0, b.1, b.2⟩

end Sys2Proof.Machine
end

