-- ==== Sys2Proof/Machine/ZoanoPkt.lean ====
section
/-! DEFINITION. Zoano packets: the header, encapsulation and protection, how a request packet is built, and what a received packet says
(R262-R265, R275, R300). -/

namespace Sys2Proof.Machine

/-! ### Building (R262, R264, R300) -/

/-- The 56 header bytes. -/
def ZPkt.header (p : ZPkt) : Bytes :=
  [BitVec.ofNat 8 (0x10 + p.kind), BitVec.ofNat 8 p.op, BitVec.ofNat 8 p.flags, BitVec.ofNat 8 p.status] ++ beBytes p.src 4 ++
  beBytes p.dst 4 ++ beBytes p.id 6 ++ beBytes p.plen 2 ++ beBytes p.first.toNat 8 ++ beBytes p.off 4 ++ beBytes p.total 4 ++
  beBytes p.wkey 4 ++ beBytes p.woff 8 ++ beBytes p.keyIx 2 ++ beBytes p.wq 2 ++ [BitVec.ofNat 8 p.psize, 0, 0, 0]

/-- The per-message key of R300 under fabric key `k`. -/
def msgKey (k : Bytes) (p : ZPkt) : Bytes :=
  let n := if p.kind = 1 then p.src / 2 ^ 14 else p.dst / 2 ^ 14
  let blk := beBytes n 3 ++ beBytes p.id 6 ++ beBytes (p.first.toNat / 2 ^ 16) 6
  aes k (1 :: blk) ++ aes k (2 :: blk)

/-- The nonce of R300. -/
def pktNonce (p : ZPkt) : Bytes := [BitVec.ofNat 8 p.kind, BitVec.ofNat 8 p.status, 0, 0] ++ beBytes p.off 4 ++ beBytes p.total 4

/-- The associated data: the header with the retransmission flag taken as 0. -/
def pktAad (p : ZPkt) : Bytes := { p with flags := p.flags % 2 }.header

/-- The enabled fabric key of an index. -/
def State.fabKey (s : State) (i : Nat) : Option KeyRec := (s.keyRec? i).filter (fun k => k.use == 3)

/-- The Zoano bytes of a packet, sealed under the fabric key it is given if it is protected. -/
def sealPkt (key : Option Bytes) (p : ZPkt) : Bytes :=
  match key with
  | some k =>
    let r := gcmSeal (msgKey k p) (pktNonce p) (pktAad p) p.payload
    p.header ++ r.1 ++ r.2
  | none => p.header ++ p.payload

/-- The checksum a sum of 16-bit words calls for; 0 is sent as all ones. -/
def csum (n : Nat) (udp : Bool) : Nat :=
  let v := 65535 - fold16 n
  if udp ∧ v = 0 then 65535 else v

/-- The UDP datagram with its checksum over the pseudo header. -/
def udpBytes (src dst : Bytes) (sport dport : Nat) (d : Bytes) : Bytes :=
  let n := d.length + 8
  let sum := onesSum (src ++ dst) + 17 + n + sport + dport + n + onesSum d
  beBytes sport 2 ++ beBytes dport 2 ++ beBytes n 2 ++ beBytes (csum sum true) 2 ++ d

/-- A Zoano packet as an Ethernet frame with its FCS (R262). -/
def State.zoaFrame (s : State) (port : Nat) (mac ip : Bytes) (sport : Nat) (d : Bytes) : Bytes :=
  let own := s.ownIp
  let u := udpBytes own ip sport (s.get .zoaCfgUdpPort) d
  let eth := sliceB mac 0 6 ++ beBytes (Config.portMac port).toNat 6
  let l3 :=
    if s.is .zoaCfgIpv6 then
      [0x86, 0xDD] ++ beBytes (6 * 2 ^ 28 + Config.zoaClass.toNat * 2 ^ 20 + Config.zoaFlow.toNat) 4 ++ beBytes u.length 2 ++
        [17, Config.zoaHop] ++ own ++ ip
    else
      let h := fun (c : Nat) => [0x45, Config.zoaClass] ++ beBytes (20 + u.length) 2 ++ beBytes (Config.zoaIdent s.freeCtr).toNat 2 ++
        [0x40, 0, Config.zoaHop, 17] ++ beBytes c 2 ++ own ++ ip
      [0x08, 0x00] ++ h (csum (onesSum (h 0)) false)
  sealFrame (eth ++ l3 ++ u) false

/-! ### Reading (R262-R264, R275, R279) -/

/-- The source IP address of a frame, and both its addresses. -/
def State.srcIp (s : State) (b : Bytes) : Bytes :=
  if s.is .zoaCfgIpv6 then sliceB b (ipOffset b + 8) 16 else sliceB b (ipOffset b + 12) 4
def State.bothIps (s : State) (b : Bytes) : Bytes :=
  if s.is .zoaCfgIpv6 then sliceB b (ipOffset b + 8) 32 else sliceB b (ipOffset b + 12) 8

/-- Is the UDP checksum of a frame right? -/
def State.udpOk (s : State) (b : Bytes) (u : Nat) : Bool :=
  let n := beAt b (u + 4) 2
  let ips := s.bothIps b
  fold16 (onesSum ips + 17 + n + onesSum (sliceB b u n)) == 65535

/-- Read a header. -/
def readZoa (d : Bytes) : ZPkt :=
  { kind := beAt d 0 1 % 16, op := beAt d 1 1, flags := beAt d 2 1, status := beAt d 3 1, src := beAt d 4 4, dst := beAt d 8 4,
    id := beAt d 12 6, plen := beAt d 18 2, first := BitVec.ofNat 64 (beAt d 20 8), off := beAt d 28 4, total := beAt d 32 4,
    wkey := beAt d 36 4, woff := beAt d 40 8, keyIx := beAt d 48 2, wq := beAt d 50 2, psize := beAt d 52 1,
    payload := sliceB d 56 (beAt d 18 2) }

/-- The payload lengths R272, R275 and R279 allow a REQ. -/
def reqLens (p : ZPkt) : Bool :=
  let ps := psizeBytes p.psize
  if p.op = 1 ∨ p.op = 5 then
    p.off % ps == 0 && decide (p.plen ≤ ps) && decide (p.off + p.plen ≤ p.total) && p.plen != 0 && decide (p.total ≤ 16777216) &&
    (p.plen == ps || p.off + p.plen == p.total)
  else if p.op = 2 then p.off % ps == 0 && p.plen == 0 && p.total != 0 && decide (p.total ≤ 16777216)
  else if p.op = 3 then p.plen == 8 && p.off == 0 && p.total == 8
  else if p.op = 4 then p.plen == 16 && p.off == 0 && p.total == 8
  else p.plen == 0 && p.off == 0 && p.total == 0

/-- Does a packet keep the table of R264 and R279, its header `p` read from `d`? -/
def State.zoaOk (s : State) (d : Bytes) (p : ZPkt) : Bool :=
  decide (56 ≤ d.length) && beAt d 0 1 / 16 == 1 && decide (1 ≤ p.kind) && decide (p.kind ≤ 4) && decide (1 ≤ p.op) &&
  decide (p.op ≤ 6) && decide (p.flags < 4) && (if p.kind = 3 then 1 ≤ p.status && p.status ≤ 9 else p.status == 0) &&
  bitsOf p.dst 13 12 == 0 && decide (p.plen ≤ 4096) && (p.flags % 2 == 1 || p.keyIx == 0) && decide (p.psize ≤ 4) &&
  zeroAt d 53 3 && d.length == 56 + p.plen + (if p.flags % 2 = 1 then 16 else 0) &&
  p.dst / 2 ^ 14 == s.get .zoaCfgNode && (p.kind != 1 || reqLens p) &&
  (p.kind != 4 || decide (p.off + p.plen ≤ p.total)) && ((p.kind != 2 && p.kind != 3) || p.plen == 0)

/-- What a frame on a port brings the fabric: nothing of its own, a packet to count as malformed, a protected one whose key is not there, a
protected one for the engine, or a good packet in plain. -/
inductive ZIn where
  | none
  | malformed
  | badTag
  | sealed (p : ZPkt) (r : ZFrom) (tag : Bytes)
  | good (p : ZPkt) (r : ZFrom)
  deriving DecidableEq, Repr

/-- Read a frame (R262-R264, R289, R301). -/
def State.zoaIn (s : State) (n : Nat) (b : Bytes) : ZIn :=
  if !s.isZoano n b || !s.is .zoaCfgEn || !s.gateOpen then .none
  else match s.zoaUdp b with
    | Option.none => .none
    | some u =>
      let d := sliceB b (u + 8) (beAt b (u + 4) 2 - 8)
      let p := readZoa d
      if !decide (8 ≤ beAt b (u + 4) 2) || decide (b.length < u + beAt b (u + 4) 2 + 4) || !s.udpOk b u || !s.zoaOk d p then .malformed
      else
        let r : ZFrom := { port := n, mac := sliceB b 6 6, ip := s.srcIp b }
        if p.flags % 2 = 0 then .good p r
        else if (s.fabKey p.keyIx).isNone then .badTag
        else .sealed p r (sliceB d (56 + p.plen) 16)

/-- The plain packet of a protected one; none where its tag fails (R289, R300). -/
def openPkt (key : Bytes) (p : ZPkt) (tag : Bytes) : Option ZPkt :=
  (gcmOpen (msgKey key p) (pktNonce p) (pktAad p) p.payload tag).map (fun d => { p with payload := d })

/-! ### A sender's packets (R265, R270, R272, R275, R280) -/

/-- Packets of a message that carry its request. -/
def ZMsg.reqs (m : ZMsg) : Nat := if m.op = 1 ∨ m.op = 5 then max 1 (ceilDiv m.total (psizeBytes m.psize)) else 1

/-- Packets whose acknowledgement or reply makes it final. -/
def ZMsg.parts (m : ZMsg) : Nat := if m.op = 2 then max 1 (ceilDiv m.total (psizeBytes m.psize)) else m.reqs

/-- The payload of request packet `i`. -/
def State.msgPayload (s : State) (m : ZMsg) (i : Nat) : Bytes :=
  if m.op = 1 ∨ m.op = 5 then
    let ps := psizeBytes m.psize
    let n := min ps (m.total - i * ps)
    match m.src with
    | some a => Mem.bytes s.mem.ext (a + i * ps) n
    | none => sliceB m.data (i * ps) n
  else m.data

/-- The header number of a context's work queue: the twin's and the replica contexts' own bytes 0-1 are ignored (R288). -/
def wqField (c : Nat) : Nat := if c < 4096 then c else 0

/-- Request packet `i` of a message through context `w`. -/
def State.reqPkt (s : State) (w : Wq) (m : ZMsg) (i : Nat) (first : BitVec 64) (again : Bool) : ZPkt :=
  let d := s.msgPayload m i
  { kind := 1, op := m.op, flags := bit w.prot + 2 * bit again, status := 0, src := s.get .zoaCfgNode * 2 ^ 14 + m.session,
    dst := w.node * 2 ^ 14 + m.dcode, id := m.id, plen := d.length, first := first,
    off := if m.op = 1 ∨ m.op = 5 then i * psizeBytes m.psize else 0, total := m.total, wkey := m.wkey, woff := m.woff,
    keyIx := if w.prot then w.keyIx else 0, wq := wqField m.ctx, psize := m.psize, payload := d }

/-- LT units a packet of wire length `n` takes at a work queue's granted rate in Mb/s (R270). -/
def paceUnits (rate n : Nat) : Nat := ceilDiv (8000 * n * unitsPerNs) (max rate 1)

/-- The frame of a message's request packet with a first_send. -/
def State.reqFrame (s : State) (w : Wq) (m : ZMsg) (z : ZBuild) (first : BitVec 64) : Bytes :=
  let x := w.ports.getD z.entry (0, [])
  let ip := if s.is .zoaCfgIpv6 then w.ip else sliceB w.ip 12 4
  s.zoaFrame x.1 x.2 ip (s.get .zoaCfgUdpPort ^^^ z.entry) (sealPkt z.key (s.reqPkt w m z.pkt first z.again))

/-- A request packet is handed to the MAC: its message's first packet fixes first_send, and every packet carries it (R265). -/
def State.buildZoa (s : State) (fid : Nat) : State :=
  match s.frame? fid with
  | none => s
  | some f => match f.build with
    | none => s
    | some z => match SMap.find s.zoa.msgs z.msg with
      | none => s
      | some m => match s.ctx? m.ctx with
        | none => s
        | some w =>
          let first := m.first.getD (s.domainTime, s.elapsed)
          let b := s.reqFrame w m z first.1
          ((s.putMsg z.msg (some { m with first := some first })).useFree).putFrame fid { f with bytes := b, hdr := sliceB b 0 256 }

/-- The number of a context. -/
def ctxNum : SendCtx → Nat
  | .wq n => n.val
  | .twin => ctxTwin
  | .peer b p => ctxPeer b.val p.val

/-- May message `q` begin: the frame it carries has ended (R77), an earlier fenced wait holds (R274), and a freezing tenant starts nothing
new (R362)? -/
def State.msgMay (s : State) (q : Nat) (m : ZMsg) (w : Wq) : Bool :=
  m.wait.isNone && (!m.fence || !(s.msgsOf m.ctx).any (fun e => decide (e.1 < q))) &&
  (m.next != 0 || !decide (m.ctx < 4096) || !s.frozenFn w.owner)

/-- The latest time at which packets of a message first sent at `t` may still be sent, elapsed (R280): Δ − 64 µs after it. -/
def ZMsg.lastOf (m : ZMsg) (t : Nat) : Nat := t + m.dcode * deltaUnit - 4 * deltaUnit

/-- Is a packet of message `q` on its way to the MAC: in the engine or an egress queue? -/
def State.pktOnWay (s : State) (q : Nat) : Bool :=
  s.ports.frames.any (fun e => e.2.stage == .egress && e.2.build.any (fun z => z.msg == q)) ||
  s.ciph.jobs.any (fun j => match j.user with
    | .zoaOut z => z.msg == q
    | _ => false)

/-- The elapsed time that counts as a message's first send: when its first packet was handed to the MAC, or where all it sent were lost on
the way, at an enqueue, in a flushed queue or in the engine, when the first of them was sent (R270, R280, R281; DESIGN CHOICE,
assumption 153). -/
def State.msgBegan (s : State) (q : Nat) (m : ZMsg) : Option Nat :=
  match m.first with
  | some f => some f.2
  | none => if s.pktOnWay q then none else m.sent

/-- The instants of R280's schedule after first send in µs, the interval doubling from 20 µs up to `cap`. -/
def schedule (cap : Nat) : Nat → Nat → Nat → Nat
  | 0, t, _ => t
  | n + 1, t, iv => schedule cap n (t + iv) (min (2 * iv) cap)

/-- The LT units after first send at which a packet's retransmission number `n` (from 0) falls (R280). -/
def retransAt (dcode n : Nat) : Nat := schedule (dcode * deltaUnit / 4) n (20 * 65536000) (min (40 * 65536000) (dcode * deltaUnit / 4))

end Sys2Proof.Machine
end

