-- ==== Sys2Proof/Machine/Egress.lean ====
section
/-! DEFINITION. From the emit to the wire: handovers, enqueue, replication, selection, the egress stamp and the frame's end, and the
instants of shapers and gate lists (chapter 08). -/

namespace Sys2Proof.Machine

/-! ### Handover to a host ring (R198, R343) -/

/-- HOST_HANDOVER: 16 ns after an EMIT 2 the frame is handed to its RX ring, or is DROP_HOST_FULL (R32, R343). -/
def execHostHandover (fid : Nat) (s : State) : Out :=
  match s.frame? fid with
  | none => .next s
  | some f => match f.dest with
    | .host r =>
      if f.stage = .emitted then
        let s := s.advanceAt (f.emitAt + 16 * unitsPerNs)
        let need := ((s.frameVer f).map (·.body.lMax)).getD (s.get .portMacCfgMaxFrame (f.port.getD 0))
        if s.rxOk r need then .next (((s.noteLate f s.lt).leafDue f dToHost 0xFFFFFFFF 0x1FF).handRx fid r 0)
        else .next ((s.bump .ringLostLost r).dispose fid dHostFull)
      else .next s
    | _ => .next s

/-! ### Enqueue (R195, R197, R235) -/

/-- The queue a frame takes on a port: its contract's class by colour, or its own number (R195). -/
def State.queueFor (s : State) (f : Frame) : Nat :=
  match s.frameVer f with
  | some v => if f.colour = 2 then v.body.yClass else v.body.gClass
  | none => f.queue

/-- Does R197 keep a frame without a contract out of queue `q` of port `p`?  The protocol engine's messages enter Q3. -/
def State.classShut (s : State) (f : Frame) (p q : Nat) : Bool :=
  f.con.isNone && s.classQueue p q (fun v => s.env.egress v.body) &&
  !(q == 3 && f.ptp.isSome && s.is .portPtpCfgPtpEn p)

/-- A BUF_FAULT record of a contract frame that finds no reserve at a port (R235). -/
def State.bufFull (s : State) (f : Frame) (p q : Nat) : State :=
  (s.bump .tmBufFaultFrames).cairnRec .bufFault (some ⟨.queue, p * 16 + q⟩)
    (leBytes ((f.con.map (·.1)).getD 0) 2 ++ [BitVec.ofNat 8 p])

/-- A frame, or a copy of it, reaches queue `q` of port `p`: the state, and whether it entered. -/
def State.enterQueue (s : State) (fid p q : Nat) (f : Frame) : State × Bool :=
  let len := s.frameLen f
  if f.con.isSome then
    if contractReserve < s.get .tmBufStaContract + len then (s.bufFull f p q, false) else (s.enqueue fid p q f, true)
  else if !s.portOn p then (s.bump .tmPortDiscFrames p, false)
  else if s.classShut f p q || decide (s.get .tmQNccfgNcCap (p * 16 + q) < s.ncBytes p q + len) ||
      decide (otherBuffer < s.get .tmBufStaOther + len) then (s.bump .tmQDropFrames (p * 16 + q), false)
  else (s.enqueue fid p q f, true)

/-- TM_ENQUEUE: an emitted frame enters its queue 16 ns after the emit, or is discarded or DROP_FAULT (R195, R197, R198, R235). -/
def execTmEnqueue (fid : Nat) (s : State) : Out :=
  match s.frame? fid with
  | none => .next s
  | some f => match f.dest with
    | .queue p =>
      if f.stage = .emitted then
        let s := s.advanceAt (f.emitAt + 16 * unitsPerNs)
        let f := { f with stage := .egress, copies := 1, onWire := 1 }
        let r := (s.putFrame fid f).enterQueue fid p (s.queueFor f) f
        .next (if r.2 then r.1 else if f.con.isSome then r.1.dispose fid dFault else (r.1.finishTx f (if s.portOn p then 3 else 4) 0).discard fid)
      else .next s
    | _ => .next s

/-! ### Replication (R120, R196, R232, R233) -/

/-- The octets that hold a port of a set, ascending. -/
def octetsOf (ports : Nat) : List Nat := (List.range 32).filter (fun o => bitsOf ports (8 * o + 7) (8 * o) != 0)

/-- Nothing more of a frame is to be stamped: if it is late that is noted once, and its leaf is decided at its latest stamp.  A contract
frame of which no copy was stamped is DROP_FAULT (R32, R207, R235, R238; assumption 85). -/
def State.lastCopy (s : State) (fid : Nat) : State :=
  match s.frame? fid with
  | none => s
  | some f =>
    if !f.allStamped then s
    else if f.judged then s.copyDone fid
    else match f.worst with
      | some (_, t, _) => ((s.noteLate f t).sentLeaf fid).copyDone fid
      | none => if f.con.isSome then s.dispose fid dFault else s.copyDone fid

/-- The replicator reads the group: the octets and ports of the copy set; ports outside the contract's mc_ports get no copy and are
counted (R120, R196, R232). -/
def State.readGroup (s : State) (fid g : Nat) (f : Frame) : State :=
  let set := (SMap.getD s.ing.mc g {}).ports
  let may := match s.frameVer f with
    | some v => v.body.mcPorts
    | none => set
  let s := ((List.range 256).filter (fun p => bitOf set p && !bitOf may p)).foldl (fun s p => s.bump .tmPortMcdisCopies p) s
  s.putFrame fid { f with stage := .egress, dest := .mcast g (some (octetsOf (set &&& may), set &&& may)) }

/-- A contract frame of which one copy finds the contract reserve full or no transmit SA is judged DROP_FAULT there, and no further copy
of it is made (R32, R235, R304); copies queued before are sent (DESIGN CHOICE, assumption 85). -/
def State.failCopies (s : State) (fid : Nat) : State :=
  match s.frame? fid with
  | none => s
  | some f =>
    let dest := match f.dest with
      | .mcast g (some (_, ports)) => .mcast g (some ([], ports))
      | d => d
    (s.leafDue f dFault 0xFFFFFFFF 0x1FF).putFrame fid { f with judged := true, worst := none, dest := dest }

/-- Copies are presented to the ports of one octet (R232). -/
def State.presentOctet (s : State) (fid o ports : Nat) : State :=
  ((List.range 8).filter (fun i => bitOf ports (8 * o + i))).foldl (fun s i =>
    let p := 8 * o + i
    match s.frame? fid with
    | none => s
    | some f =>
      if !s.portOn p then s.bump .tmPortMcdisCopies p
      else if f.judged then s
      else
        let r := s.enterQueue fid p (s.queueFor f) f
        if r.2 then r.1.putFrame fid { f with copies := f.copies + 1, onWire := f.onWire + 1 }
        else if f.con.isSome then r.1.failCopies fid else r.1) s

/-- MC_COPY: the replicator presents copies to the next octet of the copy set, 8 ns after the emit for the first and 2 ns later for
each further one (R232); each copy enters its queue after the 16 ns of crossing and enqueue (R198). -/
def execMcCopy (fid : Nat) (oct : Octet) (s : State) : Out :=
  match s.frame? fid with
  | none => .next s
  | some f => match f.dest with
    | .mcast g left =>
      let fresh := left.isNone
      if fresh && f.stage != .emitted then .next s
      else
        let s := if fresh then (s.advanceAt (f.emitAt + 8 * unitsPerNs)).readGroup fid g f else s
        match (s.frame? fid).map Frame.dest with
        | some (EmitDest.mcast _ (some (o :: l, ports))) =>
          if o = oct.val then
            let k := (octetsOf ports).length - l.length - 1
            let s := s.advanceAt (f.emitAt + (24 + 2 * k) * unitsPerNs)
            let s := s.presentOctet fid o ports
            .next (match s.frame? fid with
              | some f => (s.putFrame fid { f with dest := .mcast g (some (if f.judged then [] else l, ports)) }).lastCopy fid
              | none => s)
          else .next s
        | _ => .next (if fresh then s.lastCopy fid else s)
    | _ => .next s

/-! ### Refill ticks and swaps (R221, R222) -/

/-- REFILL_TICK: linear time reaches the next refill tick, and every shaper is refilled (R221). -/
def execRefillTick (s : State) : Out :=
  let s := s.catchTicks
  .next ((s.advanceAt ((s.tm.lastTick + 1) * 16777216)).catchTicks)

/-- TM_SWAP_AT: arms a swap of a port's TM banks, or sets swap_refused (R222). -/
def execTmSwapAt (p : Port) (target : BitVec 64) (s : State) : Out := .next (s.armTm p.val target true)

/-! ### Col gate lists (R227, R228) -/

/-- COL_ARM: writing 1 arms a switch to the inactive bank's list, or sets refused (R227). -/
def execColArm (p : Port) (v : BitVec 32) (s : State) : Out :=
  .next (if v.getLsbD 0 then s.armCol p.val else s)

/-- COL_SWITCH: at S the pending switch takes effect (R228). -/
def execColSwitch (p : Port) (s : State) : Out :=
  if s.is .colStaPending p.val then .next ((s.advanceTo (s.reg .colSwitchLt p.val)).colSwitch p.val) else .next s

/-- COL_ENTRY_ADVANCE: the entry in force gives way to the next, a new cycle starting at entry 0 (R225). -/
def execColEntryAdvance (p : Port) (s : State) : Out :=
  let n := p.val
  match SMap.find s.tm.colEnd n with
  | none => .next s
  | some t =>
    let s := s.advanceAt t
    let b := s.colBank n
    let e := s.get .colStaEntry n + 1
    let e := if e < s.colCount n b then e else 0
    let s := s.set .colStaEntry n e
    let s := if e = 0 then s.bump .colCyclesCycles n else s
    .next { s with tm := { s.tm with colEnd := SMap.put s.tm.colEnd n (some (t + s.colDur n b e * unitsPerNs)) } }

/-! ### Selection (R216-R219, R236, R304) -/

/-- A queue entry goes no further: a contract frame without copies left is decided, any other is discarded. -/
def State.dropEntry (s : State) (fid : Nat) : State :=
  match s.frame? fid with
  | none => s
  | some f =>
    let f := { f with copies := f.copies - 1, onWire := f.onWire - 1 }
    let s := s.putFrame fid f
    if f.con.isSome then (if f.judged then s else s.failCopies fid).lastCopy fid else (s.finishTx f 4 0).copyDone fid

/-- The transmit SA that a frame launched now on a port with a SecY is given (R304). -/
def State.saNow (s : State) (p : Nat) : Option (Nat × KeyRec) :=
  (s.txSa p (s.get .ciphSecyStaTxAn p)).filter (fun e => decide (e.2.pn < 2 ^ 64))

/-- The transmitter of a port is given an entry for plane instant `t`; on a port with a SecY the frame enters the engine under the SA now in
use, and without one goes no further (R291, R303, R304). -/
def State.toTx (s : State) (p q b : Nat) (e : QEnt) (t : BitVec 64) : State :=
  let x : TxFrame := { queue := q, ent := e, plane := t, bank := b }
  if s.secyOn p then
    match s.saNow p with
    | some (i, _) => (s.setTx p (s.inTx p ++ [{ x with secy := true, sealed := false }])).addJob 0 (.secyTx p e.fid) i (e.len + 32)
    | none =>
      let s := match (s.frame? e.fid).bind (·.con) with
        | some c => s.cairnRec .noTxSa (some ⟨.cipher, 0⟩) ([BitVec.ofNat 8 p, 0] ++ leBytes c.1 2)
        | none => s
      s.dropEntry e.fid
  else s.setTx p (s.inTx p ++ [x])

/-- Entry `e`, the head of queue `q`, leaves it and is to start on port `p` at plane instant `t`, under bank `b`. -/
def State.launch (s : State) (p q b : Nat) (e : QEnt) (t : BitVec 64) : State :=
    let l := (s.queue p q).erase e
    let s := ((s.setQueue p q l).freeBuf e).bump .tmQTxFrames (p * 16 + q)
    let s := match e.deadline with
      | some d => if ltAfter t d then s.bump .tmPortDqlateFrames p else s
      | none => s
    let s := if 4 ≤ q ∧ s.quantum p q b ≠ 0 then
        let s := s.setDeficit p q (s.deficit p q - e.wire)
        if l.isEmpty then s.endTurn p q b else s
      else s
    (s.buildZoa e.fid).toTx p q b e t

/-- The elapsed time at which a port's transmitter ends, or ended, the last frame it was given. -/
def State.txEnds (s : State) (p : Nat) : Nat :=
  match (s.inTx p).getLast? with
  | none => SMap.getD s.tm.freeAt p 0
  | some x => s.elapsedOf (x.stamp.getD x.plane) + s.txTime p x.ent.wire * unitsPerNs

/-- A selection for plane instant `t` begins: the turn of a weighted queue ends where it is not eligible for `t`, and where the transmitter
has idled, which it does only while no queue is eligible (R218, R219). -/
def State.turnOver (s : State) (p : Nat) (t : BitVec 64) : State :=
  let r := s.round p
  if r.inTurn then
    let w := s.portAt p t
    if (s.eligible w p t).contains r.cur && decide (s.elapsedOf t < s.txEnds p + unitsPerNs) then s
    else s.endTurn p r.cur (w.tmBank p)
  else s

/-- Selection for plane instant `t`: the frame that R218's order yields among the queues eligible for `t`, under the bank in force then, is
launched. -/
def State.selectAt (s : State) (p : Nat) (t : BitVec 64) : State :=
  let s := s.turnOver p t
  let w := s.portAt p t
  let v := { s with tm := { s.tm with deficit := w.tm.deficit, rounds := w.tm.rounds } }
  let r := v.pickQueue p (w.tmBank p) (s.eligible w p t)
  match r.2.bind (fun q => (s.headOf p q).map (fun e => (q, e))) with
  | some (q, e) => r.1.launch p q (w.tmBank p) e t
  | none => s

/-- TM_SELECT: the traffic manager of an enabled port selects for the plane instant of a launch now, if the transmitter is free by then
(R216-R219, R228). -/
def execTmSelect (p : Port) (s : State) : Out :=
  if s.portOn p.val then
    let s := s.catchTicks
    let t := s.planeOf p.val
    .next (if s.elapsedOf t < s.txEnds p.val then s else s.selectAt p.val t)
  else .next s

/-! ### The egress stamp (R29, R79, R85, R91, R207, R238) -/

/-- The worse of two transmitted dispositions: late before stomped before delivered (R238). -/
def worseDispo (a b : Nat) : Nat :=
  if a = dLate ∨ b = dLate then dLate else if a = dStomped ∨ b = dStomped then dStomped else dDelivered

/-- The outcome of one more copy: the worst disposition, and the latest stamp with its port (R238). -/
def addCopy (w : Option (Nat × BitVec 64 × Nat)) (d : Nat) (t : BitVec 64) (p : Nat) : Option (Nat × BitVec 64 × Nat) :=
  match w with
  | none => some (d, t, p)
  | some (e, u, q) => if ltReached t u then some (worseDispo d e, t, p) else some (worseDispo d e, u, q)

/-- Replace the first frame in transmission that a condition picks. -/
def setFirst (pick : TxFrame → Bool) (v : TxFrame) : List TxFrame → List TxFrame
  | [] => []
  | x :: t => if pick x then v :: t else x :: setFirst pick v t

/-- EGRESS_STAMP: the next frame in transmission is stamped at or after its planned instant and less than 1 ns after it, the part of a
nanosecond being free, as is the lane of the port that its first bit crosses (R84-R86, R216), and once the engine has protected it where its
port has a SecY (R303); its two-step entry is posted and its disposition decided (R29, R91, R238). -/
def execEgressStamp (p : Port) (s : State) : Out :=
  let n := p.val
  match (s.inTx n).find? (fun x => x.stamp.isNone) with
  | none => .next s
  | some x => match s.frame? x.ent.fid with
      | none => .next s
      | some f =>
        if !x.sealed then .next s else
        let c := x.plane + BitVec.ofNat 64 (s.free.toNat % unitsPerNs)
        let lane := n + s.free.toNat / unitsPerNs % s.portLanes n
        let s := s.useFree.advanceTo c
        let t := s.txStamp n lane c
        let s := s.setTx n (setFirst (fun x => x.stamp.isNone) { x with stamp := some t } (s.inTx n))
        let s := match f.ts with
          | some (sw, o) => s.postTsq (n / 8) { swId := sw, port := n, portInc := s.get .portStaInc n, lt := s.evtStamp n f.bytes t, owner := o }
          | none => s
        let s := match f.zoa with
          | some k => s.sentMsg k
          | none => s
        let late : Bool := match f.deadline with
          | some d => ltAfter t d
          | none => false
        let d := if late then dLate else if f.failed || x.stomp then dStomped else dDelivered
        .next (((s.finishTx f 0 (s.evtStamp n f.bytes t)).putFrame x.ent.fid
          { f with copies := f.copies - 1, worst := addCopy f.worst d t n, tx := none }).lastCopy x.ent.fid)

/-! ### The end of transmission (R78, R90) -/

/-- One-step fields of an event message at offset `o` of a frame, for egress FT `ft` and egress stamp `t` (R90). -/
def oneStep (typ : Nat) (ingress t : BitVec 64) (ft o : Nat) (b : Bytes) : Bytes :=
  let corr := beAt b (o + 8) 8
  if typ = 0 then
    let b := pasteB b (o + 8) (beBytes ((corr + ft % 65536) % 2 ^ 64) 8)
    pasteB b (o + 34) ((ftBytes ft).take 10)
  else if typ = 3 then pasteB b (o + 8) (beBytes ((corr + (t - ingress).toNat) % 2 ^ 64) 8)
  else b

/-- The UDP checksum of a one-step message: zero over IPv4; over IPv6 the message's last two bytes make up for the change (R90). -/
def udpFix (o : Nat) (old new : Bytes) : Bytes :=
  let et := beAt new (typeOffset new 2 12) 2
  if et = 0x0800 ∧ 8 ≤ o then pasteB new (o - 2) [0, 0]
  else if et = 0x86DD then
    let i := new.length - 2
    let d := fold16 (beAt new i 2 + fold16 (onesSum (old.drop o)) + (65535 - fold16 (onesSum (new.drop o))))
    pasteB new i (beBytes d 2)
  else new

/-- The bytes before the FCS as the MAC sends them, one-step fields written (R90). -/
def State.macBytes (s : State) (p : Nat) (f : Frame) (t : BitVec 64) : Bytes :=
  let b := (s.content f)
  let b := b.take (b.length - 4)
  match f.ptp, ptpOffset f.bytes with
  | some (typ, lt), some o =>
    let t := s.evtStamp p f.bytes t
    if s.is .portPtpCfgOnestep p && f.ts.isNone && (typ == 0 || typ == 3) then udpFix o b (oneStep typ lt t (s.ftOf t) o b) else b
  | _, _ => b

/-- The bytes before the FCS of a frame in transmission: as the MAC has them, and under its SA on a port with a SecY.  What the wire carries
of one that an alarm or a cleared key ended before the engine had protected it, the spec leaves open: free bytes (R302, R307). -/
def State.wireBytes (s : State) (p : Nat) (x : TxFrame) (f : Frame) (t : BitVec 64) : Bytes :=
  let b := s.macBytes p f t
  if !x.secy then b
  else match x.sa with
    | some k => protect k k.an (beBytes (Config.txSci p).toNat 8) b
    | none => (List.range (b.length + 32)).map (fun i => (s.free i).truncate 8)

/-- TX_FRAME_END: the transmitter ends the frame, stomped if its input failed or an alarm ended it (R78, R307). -/
def execTxFrameEnd (p : Port) (s : State) : Out :=
  let n := p.val
  match (s.inTx n).head? with
  | none => .next s
  | some x => match x.stamp, s.frame? x.ent.fid with
    | some t, some f =>
      if !f.ended then .next s
      else
        let s := (s.advanceTo (t + BitVec.ofNat 64 (s.txTime n x.ent.wire * unitsPerNs))).catchTicks
        let s := match (s.inTx n).head? with
          | some y => if y.charged then s else s.chargeFor n y
          | none => s
        let bad := f.failed || x.stomp
        let b := s.wireBytes n x f t
        let s := if x.secy && x.sa.isNone then s.useFree b.length else s
        let s := (s.emit (.wire n t (sealFrame b bad))).bump .portTxFramesFrames n
        let s := if bad then s.bump .portTxStompFrames n else s
        let s := s.setTx n (s.inTx n).tail
        let s := { s with tm := { s.tm with freeAt := SMap.put s.tm.freeAt n (some s.elapsed) } }
        let s := s.sentLeaf x.ent.fid
        match s.frame? x.ent.fid with
        | none => .next s
        | some f =>
          .next ((s.putFrame x.ent.fid { f with onWire := f.onWire - 1 }).copyDone x.ent.fid)
    | _, _ => .next s

end Sys2Proof.Machine
end

