-- ==== Sys2Proof/Machine/ZoanoRx.lean ====
section
/-! DEFINITION. Zoano packets into egress queues, and the receiver: duplicate entries, window checks, placement, and the replies (R268-R273, R276-R279, R283). -/

namespace Sys2Proof.Machine

/-! ### Replies (R272, R273, R276) -/

/-- The egress queue of replies (DESIGN CHOICE, assumption 41). -/
def replyQueue : Nat := 15

/-- A frame of the fabric's own enters queue `q` of port `p` as a frame without a contract (R77, R270); `last` is the message whose
last packet it is, `z` what a request packet is built from. -/
def State.sendFrame (s : State) (p q : Nat) (b : Bytes) (last : Option Nat) (z : Option ZBuild) : State :=
  let f : Frame := { bytes := b, hdr := sliceB b 0 256, owner := 1, stage := .egress, ended := true, whole := true, lt := s.lt,
                     dest := .queue p, queue := q, copies := 1, onWire := 1, zoa := last, build := z }
  let r := s.newFrame f
  let e := r.1.enterQueue r.2 p q f
  (if e.2 then e.1 else e.1.discard r.2).bump .zoaCntCount 0

/-- A request packet that the engine has passed, or that needs none, enters its context's egress queue (R270, R275, R287); one whose message
is final by then is not sent. -/
def State.queuePkt (s : State) (z : ZBuild) : State :=
  match SMap.find s.zoa.msgs z.msg with
  | none => s
  | some m => match s.ctx? m.ctx with
    | none => s
    | some w =>
      let b := s.reqFrame w m z (m.first.getD (s.domainTime, s.elapsed)).1
      s.useFree.sendFrame (w.ports.getD z.entry (0, [])).1 w.queue b (if z.pkt + 1 = m.reqs then some z.msg else none) (some z)

/-- Send request packet `i` of message `q` on the next port of its context's set (R275), through the engine if it is protected (R291); the
next packet may go once the granted rate allows (R270). -/
def State.sendPkt (s : State) (q : Nat) (m : ZMsg) (w : Wq) (i : Nat) (again : Bool) : State :=
  let k := (SMap.getD s.zoa.cursor m.ctx (w.ports.length - 1) + 1) % max 1 w.ports.length
  let z : ZBuild := { msg := q, pkt := i, again := again, entry := k }
  let n := (s.reqFrame w m z 0).length + 20 + (if w.prot then 16 else 0)
  let t := max (SMap.getD s.zoa.pace m.ctx 0) s.elapsed + paceUnits w.rate n
  let s := s.putMsg q (some { m with next := max m.next (i + 1), sent := m.sent <|> some s.elapsed })
  let s := { s with zoa := { s.zoa with cursor := SMap.put s.zoa.cursor m.ctx (some k), pace := SMap.put s.zoa.pace m.ctx (some t) } }
  if w.prot then s.addJob 2 (.zoaOut z) w.keyIx n else s.queuePkt z

/-- Send a reply, sealed under a fabric key if it is protected. -/
def State.sendBack (s : State) (r : ZFrom) (a : ZPkt) (key : Option Bytes) : State :=
  s.useFree.sendFrame r.port replyQueue (s.zoaFrame r.port r.mac r.ip (s.get .zoaCfgUdpPort) (sealPkt key a)) none none

/-- Send a reply to a REQ back where it came from, through the engine if it is protected (R291). -/
def State.zoaReply (s : State) (r : ZFrom) (p : ZPkt) (kind status off total : Nat) (payload : Bytes) : State :=
  let a := { p with kind := kind, flags := p.flags % 2, status := status,
                    src := s.get .zoaCfgNode * 2 ^ 14 + s.get .zoaStaSession,
                    dst := p.src / 2 ^ 14 * 2 ^ 14 + p.dst % 2 ^ 12, plen := payload.length, off := off, total := total,
                    payload := payload }
  if a.flags % 2 = 1 then s.addJob 2 (.zoaBack r a) a.keyIx (56 + payload.length) else s.sendBack r a none

/-- The length of the range a packet's answer names (R264). -/
def ZPkt.span (p : ZPkt) : Nat := if p.op = 1 ∨ p.op = 5 then p.plen else p.total

/-- Refuse a REQ by NAK. -/
def State.nak (s : State) (r : ZFrom) (p : ZPkt) (status : Nat) : State := s.zoaReply r p 3 status p.off p.span []

/-- Acknowledge a REQ's range. -/
def State.ack (s : State) (r : ZFrom) (p : ZPkt) : State := s.zoaReply r p 2 0 p.off p.span []

/-- Answer what a REQ asked of function `f`'s host memory: the flushing read of a FLUSH, from `flush`, then the acknowledgement. -/
def State.payHost (s : State) (f : Nat) (r : ZFrom) (p : ZPkt) (flush : Option Nat) : State :=
  (match flush with
   | some a => s.readHost f a 4
   | none => s).ack r p

/-- Acknowledge a REQ placed in function `f`'s host memory: only once its writes can be sent, and a FLUSH's read behind them (R272, R273,
R322). -/
def State.ackHost (s : State) (f : Nat) (r : ZFrom) (p : ZPkt) (flush : Option Nat) : State :=
  if s.fnSends f then s.payHost f r p flush
  else { s with zoa := { s.zoa with owed := s.zoa.owed ++ [{ fn := f, via := r, pkt := p, flush := flush }] } }

/-- Functions that may send again: the acknowledgements of what was held for them go. -/
def State.payOwed (s : State) : State :=
  let go := s.zoa.owed.filter (fun o => s.fnSends o.fn)
  let stay := s.zoa.owed.filter (fun o => !s.fnSends o.fn)
  go.foldl (fun s o => s.payHost o.fn o.via o.pkt o.flush) { s with zoa := { s.zoa with owed := stay } }

/-- Answer an atomic with its old value. -/
def State.respOld (s : State) (r : ZFrom) (p : ZPkt) (v : BitVec 64) : State := s.zoaReply r p 4 0 0 8 (beBytes v.toNat 8)

/-- The ports that a READ's replies are sprayed over: the fabric's, in turn from the one the REQ came by (DESIGN CHOICE, assumption 41). -/
def State.sprayPorts (s : State) (p : Nat) : List Nat :=
  let l := (List.range 256).filter (fun n => s.is .zoaPortCfgRxEn n && s.portOn n)
  l.dropWhile (· < p) ++ l.takeWhile (· < p)

/-- Answer a READ with packets of the payload size over the range from `off` on, sprayed over ports; `i` counts them (R272). -/
def State.respRead (s : State) (r : ZFrom) (p : ZPkt) (ports : List Nat) (off i : Nat) : Nat → Bytes → State
  | 0, _ => s
  | n + 1, d =>
    if d.isEmpty then s
    else
      let k := psizeBytes p.psize
      let r' := { r with port := ports.getD (i % max 1 ports.length) r.port }
      (s.zoaReply r' p 4 0 off p.total (d.take k)).respRead r p ports (off + (d.take k).length) (i + 1) n (d.drop k)

/-! ### Duplicate entries (R277, R279) -/

/-- Key of a message's entry: node and incarnation of its source, and its ID (R265). -/
def ZPkt.dupKey (p : ZPkt) : Nat := p.src * 2 ^ 48 + p.id

/-- Store or remove an entry. -/
def State.putDup (s : State) (k : Nat) (e : Option ZEntry) : State := { s with zoa := { s.zoa with dups := SMap.put s.zoa.dups k e } }

/-- Packets of a REQ's message (R279). -/
def ZPkt.packets (p : ZPkt) : Nat := ceilDiv p.total (psizeBytes p.psize)

/-- Assembly records a message takes (R279). -/
def ZPkt.records (p : ZPkt) : Nat := if 64 < p.packets then ceilDiv p.packets 4096 else 0

/-- A packet's index in its message's bitmap. -/
def ZPkt.index (p : ZPkt) : Nat := p.off / psizeBytes p.psize

/-- Is the acknowledgement of a packet still owed: what it placed cannot be sent to the host yet? -/
def State.owes (s : State) (p : ZPkt) : Bool := s.zoa.owed.any (fun o => o.pkt.dupKey == p.dupKey && o.pkt.index == p.index)

/-- A new entry, and the places it takes. -/
def State.newDup (s : State) (p : ZPkt) (age : Int) (e : ZEntry) : State :=
  let life := ((p.dst % 2 ^ 12 * deltaUnit : Nat) : Int) - age
  let s := s.putDup p.dupKey (some { e with expire := s.elapsed + life.toNat })
  (s.bump .zoaStaDedup).bump .zoaStaAssembly 0 e.asm

/-- An entry ends: it and its records are free. -/
def State.dropDup (s : State) (k : Nat) (e : ZEntry) : State :=
  ((s.putDup k none).drop .zoaStaDedup).drop .zoaStaAssembly 0 e.asm

/-! ### Receive buffers of SEND (R272, R342) -/

/-- The RX_FABRIC ring a target-3 window names, if its reference is current and it can give a buffer. -/
def State.sendRing (s : State) (w : Window) : Option Nat :=
  let ref := BitVec.ofNat 64 w.base
  match refBlk ref with
  | none => none
  | some b =>
    if b.kind = .ring ∧ s.refCurrent ref ∧ s.ringKind b.ix = 3 ∧ s.ringLive b.ix then some b.ix else none

/-- A SEND's buffer completes with a status (R342). -/
def State.endBuf (s : State) (k : Nat) (e : ZEntry) (status : Nat) : State :=
  match e.buf with
  | none => s
  | some (r, i, d) =>
    let flags := bit (status == 0)
    let c := sliceB d 0 2 ++ leBytes flags 2 ++ leBytes e.bytes 4 ++ sliceB d 8 8 ++ leBytes (k / 2 ^ 48) 4 ++ leBytes k 6 ++
      List.replicate 6 0 ++ leBytes e.total 4 ++ leBytes e.wkey 4 ++ List.replicate 22 0
    s.complete r i c status

/-! ### Failure (R269) -/

/-- The ring whose notification queue is that of a window's owner: the FABRIC ring it was last opened through, or where that is not its
present owner's the lowest enabled one of the function it is granted to (DESIGN CHOICE, assumption 128).  The twin window has no owner
(R288). -/
def State.winRing (s : State) (i : Nat) : Option Nat :=
  if 1048576 ≤ i ∨ (s.win i).owner = 255 then none
  else match (s.win i).ring.filter (fun r => s.ringOwner r == s.ownerOf ⟨.window, i⟩) with
    | some r => some r
    | none =>
      ((s.regs.filterMap (fun e => if e.1 % 512 = RegName.ringSta.ctorIdx then some (e.1 / 512) else none)).filter
        (fun r => s.ringKind r == 5 && s.get .ringStaState r == rsEnabled && s.ringOwner r == s.ownerOf ⟨.window, i⟩)).head?

/-- A message fails at its receiver: its entry is marked, its buffer completes, the sender is told, and the violation is posted and
counted (R269). -/
def State.violate (s : State) (r : ZFrom) (p : ZPkt) (e : ZEntry) (status : Nat) : State :=
  let s := (s.putDup p.dupKey (some { e with failed := status, buf := none })).endBuf p.dupKey e status
  let s := s.bump .zoaCntCount 6
  let s := match s.winRing (p.wkey / 256) with
    | some q => s.notifyOf q 4 (leBytes p.src 4 ++ leBytes p.id 6 ++ leBytes status 1 ++ [0] ++ leBytes p.wkey 4)
    | none => s
  s.nak r p status

/-! ### Window checks (R268, R288) -/

/-- The right an operation needs. -/
def rightOf (op : Nat) : Nat := if op = 1 then 0 else if op = 2 then 1 else if op = 3 ∨ op = 4 then 2 else if op = 5 then 3 else 4

/-- The status that refuses a packet at its window, 0 if it may be placed (R268): a FLUSH needs no right of its own. -/
def State.winRefuse (s : State) (p : ZPkt) : Nat :=
  let i := p.wkey / 256
  let w := s.win i
  let twinNode := match s.ctx? ctxTwin with
    | some t => t.node
    | none => 0
  if 1048576 ≤ i ∨ !w.opened ∨ w.gen ≠ p.wkey % 256 then 4
  else if (p.op ≠ 6 && !bitOf w.rights (rightOf p.op)) || (s.twinWin i && p.src / 2 ^ 14 != twinNode) then 6
  else if w.target ≠ 3 ∧ w.len < p.woff + (if p.op = 2 then p.off + p.total else p.off + p.plen) then 5
  else if (p.op = 3 ∨ p.op = 4) ∧ (w.base + p.woff) % 8 ≠ 0 then 5
  else 0

/-! ### Placement (R272, R273) -/

/-- Bytes `n` at byte `o` of a window; host memory is what the host returned (`host`), from the range's first byte. -/
def State.winRead (s : State) (w : Window) (o n : Nat) (host : Bytes) : Bytes :=
  if w.target = 0 then sliceB s.zoa.twin o n
  else if w.target = 1 then Mem.bytes s.mem.ext (w.base + o) n
  else sliceB host 0 n

/-- Write bytes at byte `o` of a window. -/
def State.winWrite (s : State) (w : Window) (o : Nat) (d : Bytes) : State :=
  if w.target = 0 then
    let s := { s with zoa := { s.zoa with twin := pasteB (sliceB s.zoa.twin 0 64) o d, twinSeen := s.epoch } }
    s.set .zoaTwinStaLost 0 0
  else if w.target = 1 then s.extWrite (w.base + o) d
  else s.hostWrite w.owner (w.base + o) d

/-- A packet's entry with the packet and its bytes counted. -/
def ZEntry.count (e : ZEntry) (p : ZPkt) : ZEntry :=
  { e with placed := e.placed ||| 2 ^ p.index, bytes := e.bytes + p.plen }

/-- A read of `n` bytes at byte `o` of a window is issued where they lie in host memory. -/
def State.winFetch (s : State) (w : Window) (o n : Nat) : State := if w.target = 2 then s.readHost w.owner (w.base + o) n else s

/-- Is a packet to host memory left unanswered, so that its sender sends it again: one that reads, while its window's owner may issue no
request (R322), or one whose access fails (R312; DESIGN CHOICE, assumption 155)? -/
def State.noAnswer (s : State) (w : Window) (p : ZPkt) : Bool :=
  w.target == 2 && (((p.op == 2 || p.op == 3 || p.op == 4) && !s.fnSends w.owner) ||
    (p.op != 6 && s.wrFails w.owner (w.base + p.woff + p.off) (if p.op = 1 then p.plen else p.total)))

/-- Acknowledge a packet placed in a window, or a FLUSH of it. -/
def State.ackWin (s : State) (w : Window) (r : ZFrom) (p : ZPkt) : State :=
  if w.target = 2 then s.ackHost w.owner r p (if p.op = 6 then some w.base else none) else s.ack r p

/-- Place a packet that passed every check, and answer it. -/
def State.place (s : State) (r : ZFrom) (p : ZPkt) (e : ZEntry) (host : Bytes) : State :=
  let w := s.win (p.wkey / 256)
  let k := p.dupKey
  if s.noAnswer w p then s
  else match p.op with
  | 1 => ((s.winWrite w (p.woff + p.off) p.payload).putDup k (some (e.count p))).ackWin w r p
  | 2 =>
    let s := if w.target = 1 then s.extNote (w.base + p.woff + p.off) p.total 9 else s.winFetch w (p.woff + p.off) p.total
    let d := s.winRead w (p.woff + p.off) p.total host
    (s.putDup k (some (e.count p))).respRead r p (s.sprayPorts r.port) p.off 0 (d.length + 1) d
  | 3 =>
    let s := s.winFetch w p.woff 8
    let old := BitVec.ofNat 64 (leNat (s.winRead w p.woff 8 host))
    let new := old + BitVec.ofNat 64 (beAt p.payload 0 8)
    ((s.winWrite w p.woff (leBytes new.toNat 8)).putDup k (some { e.count p with old := old })).respOld r p old
  | 4 =>
    let s := s.winFetch w p.woff 8
    let old := BitVec.ofNat 64 (leNat (s.winRead w p.woff 8 host))
    let s := if old = BitVec.ofNat 64 (beAt p.payload 0 8) then s.winWrite w p.woff (leBytes (beAt p.payload 8 8) 8) else s
    (s.putDup k (some { e.count p with old := old })).respOld r p old
  | 5 =>
    match e.buf with
    | none => s
    | some (q, i, d) =>
      let f := s.ringOwner q
      let a := bufAddr d + p.off
      if s.wrFails f a p.payload.length then (s.tryAts f a p.payload.length).ringError q ecAccess i
      else
      let s := s.hostWriteFor (some (q, i)) f a p.payload
      let e := e.count p
      let s := if e.total ≤ e.bytes then (s.putDup k (some { e with buf := none })).endBuf k e 0 else s.putDup k (some e)
      s.ackHost (s.ringOwner q) r p none
  | _ => (s.putDup k (some (e.count p))).ackWin w r p

/-- The first packet of a SEND takes a buffer: the state and the entry with it; NO_BUFFER (7) or LENGTH (8) where it cannot. -/
def State.takeBuf (s : State) (p : ZPkt) (e : ZEntry) : State × ZEntry × Nat :=
  match s.sendRing (s.win (p.wkey / 256)) with
  | none => (s, e, 7)
  | some q => match s.bufsOf q with
    | [] => (s, e, 7)
    | d :: _ =>
      if bufLen d < p.total then (s, e, 8)
      else
        let i := s.ringH q
        (s.startBufs q 1, { e with buf := some (q, i, d) }, 0)

/-- A packet whose message has an entry that is not failed, or is to get one, is checked and placed (R268, R277). -/
def State.checkPlace (s : State) (r : ZFrom) (p : ZPkt) (e : ZEntry) (host : Bytes) : State :=
  let bad := s.winRefuse p
  if bad ≠ 0 then s.violate r p e bad else s.place r p e host

/-- A packet of a message without an entry (R277, R279): BUSY where the set or the assembly area is full, NO_BUFFER without an entry
made; otherwise the entry is created and the packet checked. -/
def State.newMsg (s : State) (r : ZFrom) (p : ZPkt) (age : Int) (host : Bytes) : State :=
  if 1048576 ≤ s.get .zoaStaDedup ∨ 65536 < s.get .zoaStaAssembly + p.records then
    (s.bump .zoaCntCount 5).nak r p 2
  else
    let e : ZEntry := { first := p.first, expire := 0, total := p.total, psize := p.psize, wkey := p.wkey, asm := p.records }
    let bad := s.winRefuse p
    if bad ≠ 0 then (s.newDup p age e).checkPlace r p ((SMap.find (s.newDup p age e).zoa.dups p.dupKey).getD e) host
    else
      let t := if p.op = 5 then s.takeBuf p e else (s, e, 0)
      if t.2.2 = 7 then t.1.nak r p 7
      else
        let s := t.1.newDup p age t.2.1
        let e := (SMap.find s.zoa.dups p.dupKey).getD t.2.1
        if t.2.2 = 8 then s.violate r p e 8 else s.place r p e host

/-- A REQ that is well formed and whose tag is right (R276, R277). -/
def State.recvReq (s : State) (r : ZFrom) (p : ZPkt) (host : Bytes) : State :=
  let c := p.dst % 2 ^ 12
  let age := ltDiff s.domainTime p.first
  let d : Int := (c * deltaUnit : Nat)
  let e := SMap.find s.zoa.dups p.dupKey
  let again : Bool := match e with
    | some e => bitOf e.placed p.index
    | none => false
  if !s.deltaHonoured c then (s.bump .zoaCntCount 8).nak r p 9
  else if s.zoaUnfit c ∧ !again then (s.bump .zoaCntCount 8).nak r p 3
  else if d ≤ age then (s.bump .zoaCntCount 4).nak r p 1
  else if age < -(d / 4) then (s.bump .zoaCntCount 8).nak r p 3
  else match e with
    | none => s.newMsg r p age host
    | some e =>
      if e.failed ≠ 0 then s.nak r p e.failed
      else if again then
        let s := s.bump .zoaCntCount 2
        if p.op = 3 ∨ p.op = 4 then s.respOld r p e.old
        else if p.op = 2 then
          let w := s.win (p.wkey / 256)
          if s.winRefuse p = 0 then
            if s.noAnswer w p then s
            else
              let s := s.winFetch w (p.woff + p.off) p.total
              let b := s.winRead w (p.woff + p.off) p.total host
              s.respRead r p (s.sprayPorts r.port) p.off 0 (b.length + 1) b
          else s.violate r p e (s.winRefuse p)
        else if s.owes p then s else s.ack r p
      else s.checkPlace r p e host

end Sys2Proof.Machine
end

