-- ==== Sys2Proof/Machine/Zoano.lean ====
section
/-! DEFINITION. The fabric's commands and events: work requests, windows, packets sent and received, retransmission and time-outs, Δ
swaps, sessions, work queues and the twin (chapter 10). -/

namespace Sys2Proof.Machine

/-! ### Work requests (R271) -/

/-- What makes a window record malformed (R346). -/
def winBad (e : Bytes) : Option Nat :=
  let t := leAt e 40 1
  let rt := leAt e 41 1
  let n := leAt e 32 8
  if !zeroAt e 42 6 ∨ 16 ≤ rt then some ecReserved
  else if t = 0 ∨ 3 < t then some ecRange
  else if t = 3 then (if n ≠ 0 ∨ rt % 8 ≠ 0 then some ecRange else none)
  else if n = 0 ∨ 2 ^ 40 < n ∨ 8 ≤ rt then some ecRange
  else none

/-- What makes a work request malformed, other than its pass field (R271, R346, R347). -/
def zoaBad (e : Bytes) : Option Nat :=
  let op := leAt e 0 1
  let n := leAt e 4 4
  if op = 0 ∨ (6 < op ∧ op < 0x10) ∨ 0x12 < op then some ecOpcode
  else if 8 ≤ leAt e 1 1 ∨ !zeroAt e 20 4 ∨ !zeroAt e 48 15 ∨ 2 ≤ leAt e 63 1 then some ecReserved
  else if op = 0x12 then (if zeroAt e 24 24 then none else some ecReserved)
  else if 0x10 ≤ op then winBad e
  else if op = 6 then (if n = 0 then none else some ecRange)
  else if op = 3 ∨ op = 4 then (if n = 8 then none else some ecRange)
  else if n = 0 ∨ 16777216 < n then some ecRange
  else none

/-- May function `f` name external memory `[a, a + n)`: PF0 any, a tenant its granted region (R354, R356)? -/
def State.extOf (s : State) (f a n : Nat) : Bool :=
  (f == 0 && !s.ten.tenants.any (fun t => decide (t.2.grant.memSize ≠ 0) && decide (a < (t.2.grant.memBase + t.2.grant.memSize) * 1048576) &&
    decide (t.2.grant.memBase * 1048576 < a + n))) || (match SMap.find s.ten.tenants f with
    | some t => decide (t.grant.memBase * 1048576 ≤ a) && decide (a + n ≤ (t.grant.memBase + t.grant.memSize) * 1048576)
    | none => false)

/-- The status that refuses a work request at once, or 0 (R266, R282, R289, R301). -/
def State.workRefuse (s : State) (r : Nat) (e : Bytes) : Nat :=
  let c := leAt e 2 2
  let f := s.ringOwner r
  match SMap.find s.zoa.wqs c with
  | none => 0x0B
  | some w =>
    if w.owner ≠ f ∨ (bitOf (leAt e 1 1) 2 && leAt e 0 1 ≠ 6 && !s.extOf f (leAt e 8 8) (leAt e 4 4)) then 0x0B
    else s.refuseMsg c

/-- The message of a work request, its host data given. -/
def workMsg (r i : Nat) (f : Nat) (e data : Bytes) : ZMsg :=
  let op := leAt e 0 1
  let fl := leAt e 1 1
  let a := leAt e 8 8
  { id := 0, session := 0, user := .ring r i e, ctx := leAt e 2 2, op := op, total := leAt e 4 4, wkey := leAt e 16 4,
    woff := leAt e 24 8, psize := 0, dcode := 0,
    data := if op = 3 then beBytes (leAt e 32 8) 8 else if op = 4 then beBytes (leAt e 32 8) 8 ++ beBytes (leAt e 40 8) 8
            else if op = 1 ∨ op = 5 then sliceB data 0 (leAt e 4 4) else [],
    src := if (op = 1 ∨ op = 5) ∧ bitOf fl 2 then some a else none,
    laddr := a, lext := bitOf fl 2, owner := f, fence := bitOf fl 1 || op == 6, sentNote := bitOf fl 0 }

/-- Bytes of host memory that a work request sends (R271). -/
def workSrc (e : Bytes) : Nat :=
  if (leAt e 0 1 = 1 ∨ leAt e 0 1 = 5) ∧ !bitOf (leAt e 1 1) 2 then leAt e 4 4 else 0

/-- A FABRIC ring reaches the entry at H: a work request is submitted or refused; while its send queue is full it waits. -/
def State.workEntry (s : State) (r : Nat) (e data : Bytes) : State :=
  let st := s.workRefuse r e
  if s.sendFull (leAt e 2 2) ∧ (zoaBad e).isNone then s.passIf r 5 e
  else s.takeRead r 5 e (zoaBad e) (leAt e 8 8) (if st = 0 then workSrc e else 0) data.length (fun s i =>
    match st, s.ctx? (leAt e 2 2) with
    | 0, some w => s.sendMsg w (workMsg r i (s.ringOwner r) e data)
    | _, _ =>
      let s := if (SMap.find s.zoa.wqs (leAt e 2 2)).any (fun w => w.owner == s.ringOwner r) then s.noteFail (leAt e 2 2) st else s
      s.complete r i (zoaEntry e 0 0) st)

/-- A work request of opcode `op`; an entry of another opcode is no entry of this command. -/
def State.workCmd (s : State) (r op : Nat) (e data : Bytes) : State :=
  if leAt e 0 1 = op then s.workEntry r e data else s

/-- ZOA_WRITE (R272). -/
def execZoaWrite (r : RingIx) (e data : Bytes) (s : State) : Out := .next (s.workCmd r.val 1 e data)
/-- ZOA_READ (R272). -/
def execZoaRead (r : RingIx) (e : Bytes) (s : State) : Out := .next (s.workCmd r.val 2 e [])
/-- FETCH_ADD (R272). -/
def execFetchAdd (r : RingIx) (e : Bytes) (s : State) : Out := .next (s.workCmd r.val 3 e [])
/-- COMPARE_SWAP (R272). -/
def execCompareSwap (r : RingIx) (e : Bytes) (s : State) : Out := .next (s.workCmd r.val 4 e [])
/-- ZOA_SEND (R272). -/
def execZoaSend (r : RingIx) (e data : Bytes) (s : State) : Out := .next (s.workCmd r.val 5 e data)
/-- ZOA_FLUSH (R274). -/
def execZoaFlush (r : RingIx) (e : Bytes) (s : State) : Out := .next (s.workCmd r.val 6 e [])

/-! ### Windows (R266, R267, R346) -/

/-- The window index of a window command. -/
def winIx (e : Bytes) : Nat := leAt e 16 4 / 256

/-- Is a window command of function `f` denied (R266, R288, R346)?  WIN_SET and WIN_CLOSE need an open window, WIN_OPEN a closed one
(DESIGN CHOICE, assumption 42). -/
def State.winDenied (s : State) (f op : Nat) (e : Bytes) : Bool :=
  let i := winIx e
  decide (1048576 ≤ i) || s.ownerOf ⟨.window, i⟩ != f || s.twinWin i || ((s.win i).opened == (op == 0x10)) ||
  (op != 0x12 && leAt e 40 1 == 1 && !s.extOf f (leAt e 24 8) (leAt e 32 8))

/-- What makes a FABRIC ring's window command malformed: its bytes, or a target-3 reference that names no RX_FABRIC ring of the owner
(R346). -/
def State.winFault (s : State) (r : Nat) (e : Bytes) : Option Nat :=
  match zoaBad e with
  | some c => some c
  | none =>
    if leAt e 0 1 ≠ 0x12 ∧ leAt e 40 1 = 3 then
      match refBlk (BitVec.ofNat 64 (leAt e 24 8)) with
      | some b => if b.kind = .ring ∧ s.ringOwner b.ix = s.ringOwner r ∧ s.ringKind b.ix = 3 then none else some ecRange
      | none => some ecRange
    else none

/-- The record a window command carries. -/
def winRec (r f : Nat) (e : Bytes) : Window :=
  { opened := true, owner := f, target := leAt e 40 1, rights := leAt e 41 1, base := leAt e 24 8, len := leAt e 32 8, ring := some r }

/-- A FABRIC ring reaches a window command: DENIED, BUSY, or carried out with the new key. -/
def State.winEntry (s : State) (r : Nat) (e : Bytes) : State :=
  s.takeEntry r 5 e (s.winFault r e) (fun s i =>
    let f := s.ringOwner r
    let op := leAt e 0 1
    let ix := winIx e
    if s.winDenied f op e then s.complete r i (sliceB e 0 62) 0x0B
    else if op ≠ 0x12 ∧ s.genBusy ix then s.complete r i (sliceB e 0 62) 2
    else
      let s := if op = 0x12 then s.closeWin ix else s.renewWin ix (winRec r f e)
      s.complete r i (sliceB e 0 16 ++ leBytes (ix * 256 + (s.win ix).gen) 4 ++ sliceB e 20 42) 0)

/-- A window command of opcode `op`. -/
def State.winCmd (s : State) (r op : Nat) (e : Bytes) : State := if leAt e 0 1 = op then s.winEntry r e else s

/-- WIN_OPEN. -/
def execWinOpen (r : RingIx) (e : Bytes) (s : State) : Out := .next (s.winCmd r.val 0x10 e)
/-- WIN_SET. -/
def execWinSet (r : RingIx) (e : Bytes) (s : State) : Out := .next (s.winCmd r.val 0x11 e)
/-- WIN_CLOSE. -/
def execWinClose (r : RingIx) (e : Bytes) (s : State) : Out := .next (s.winCmd r.val 0x12 e)

/-- A FABRIC ring reaches an entry of any opcode. -/
def State.fabricEntry (s : State) (r : Nat) (e data : Bytes) : State :=
  if leAt e 0 1 < 0x10 then s.workEntry r e data else s.winEntry r e

/-! ### Frames from programs (R286) -/

/-- FABRIC_HANDOVER: 16 ns after an EMIT 3 the frame becomes a message, or is refused (R198, R286); a message whose frame is still arriving
is sent once it has ended (R77); a late one is noted (R207).  A frame that its context refuses DENIED, for which R286 names no
disposition, is DROP_FAULT (DESIGN CHOICE, assumption 129). -/
def execFabricHandover (fid : Nat) (s : State) : Out :=
  match s.frame? fid with
  | none => .next s
  | some f => match f.dest with
    | .fabric c gb =>
      if f.stage = .emitted then
        let s := s.advanceAt (f.emitAt + 16 * unitsPerNs)
        match s.refuseMsg c, s.ctx? c with
        | 0, some w =>
          if s.sendFull c then
            .next ((s.cairnRec .wqFull (some ⟨.workQueue, c⟩) (leBytes c 2 ++ leBytes ((f.con.map (·.1)).getD 0) 2)).dispose fid dFault)
          else
            let d := s.frameOut f
            let m : ZMsg := { id := 0, session := 0, user := .prog, ctx := c, op := if gb.getLsbD 63 then 5 else 1,
                              total := d.length, wkey := w.defKey, woff := if gb.getLsbD 63 then 0 else bitsOf gb.toNat 47 0,
                              psize := 0, dcode := 0, data := d, first := some (s.domainTime, s.elapsed),
                              wait := if f.ended then none else some fid }
            .next ((((s.noteLate f s.lt).leafDue f dToFabric 0xFFFFFFFF 0x1FF).putFrame fid { f with stage := .done }).sendMsg w m)
        | st, _ => .next (s.dispose fid (if st = 3 then dUnfit else dFault))
      else .next s
    | _ => .next s

/-! ### Packets (R273-R275, R280, R281) -/

/-- The message of a context that sends next: the first in order with a packet never sent and still in time. -/
def State.nextMsg (s : State) (c : Nat) : Option (Nat × ZMsg) :=
  (s.msgsOf c).find? (fun e => decide (e.2.next < e.2.reqs) && e.2.first.all (fun f => decide (s.elapsed ≤ e.2.lastOf f.2)))

/-- ZOA_PACKET_SEND: the context's next packet goes once its granted rate allows (R270, R275). -/
def execZoaPacketSend (q : SendCtx) (s : State) : Out :=
  let c := ctxNum q
  let s := if (s.nextMsg c).isSome then s.advanceAt (SMap.getD s.zoa.pace c 0) else s
  match s.nextMsg c, s.ctx? c with
  | some (k, m), some w =>
    if s.is .zoaCfgEn && s.gateOpen && s.msgMay k m w then .next (s.sendPkt k m w m.next false) else .next s
  | _, _ => .next s

/-- The bytes of a message's packet `i` as its host memory holds them now: host software may have changed them (R301). -/
def ZMsg.reread (m : ZMsg) (i : Nat) (data : Bytes) : ZMsg :=
  match m.user with
  | .ring _ _ _ =>
    if (m.op = 1 ∨ m.op = 5) ∧ !m.lext then
      let ps := psizeBytes m.psize
      { m with data := pasteB m.data (i * ps) (sliceB data 0 (min ps (m.total - i * ps))) }
    else m
  | _ => m

/-- ZOA_RETRANSMIT: an unacknowledged packet goes again at its next instant or once the granted rate allows, no later than Δ − 64 µs, with
what its source holds then; `data` is what host memory returned for a source there (R270, R280, R301). -/
def execZoaRetransmit (msg : BitVec 48) (pktIx : Resend) (s : State) : Out :=
  match s.msgById msg.toNat with
  | none => .next s
  | some (k, m) => match s.msgBegan k m, s.ctx? m.ctx with
    | some f, some w =>
      let n := SMap.getD m.tries pktIx.ix 0
      let t := max (f + retransAt m.dcode n) (SMap.getD s.zoa.pace m.ctx 0)
      if m.next ≤ pktIx.ix ∨ (m.op ≠ 2 ∧ bitOf m.acked pktIx.ix) ∨ m.lastOf f < max t s.elapsed ∨ !s.is .zoaCfgEn ∨ !s.gateOpen then .next s
      else
        let s := (s.advanceAt t).bump .zoaCntCount 1
        .next (s.sendPkt k { m.reread pktIx.ix pktIx.data with tries := SMap.put m.tries pktIx.ix (some (n + 1)) } w pktIx.ix true)
    | _, _ => .next s

/-- ZOA_MSG_TIMEOUT: a message not final by 5Δ/4 after its first send completes with its last soft status or TIMEOUT (R281). -/
def execZoaMsgTimeout (msg : BitVec 48) (s : State) : Out :=
  match s.msgById msg.toNat with
  | none => .next s
  | some (k, m) => match s.msgBegan k m with
    | none => .next s
    | some f =>
      let s := s.advanceAt (f + fiveQuarters m.dcode)
      .next ((s.finalMsg k (if m.soft = 0 then 0x0A else m.soft)).jrnSettle)

/-- The outstanding message a reply answers: its ID and first_send, and the node it was sent to. -/
def State.zoaAnswered (s : State) (p : ZPkt) : Option (Nat × ZMsg) :=
  (s.msgById p.id).filter (fun e =>
    decide (e.2.first.map (·.1) = some p.first) && e.2.op == p.op &&
    (match s.ctx? e.2.ctx with
     | some w => w.node == p.src / 2 ^ 14
     | none => false))

/-- The packets of a message that a range covers, as bits (R264, R274). -/
def ZMsg.cover (m : ZMsg) (off len : Nat) : Nat :=
  let ps := psizeBytes m.psize
  (List.range m.parts).foldl (fun v i =>
    if off ≤ i * ps ∧ min ((i + 1) * ps) m.total ≤ off + len then v ||| 2 ^ i else v) 0

/-- More packets of a message are acknowledged or received; once all are, it is final OK (R274). -/
def State.progress (s : State) (k : Nat) (m : ZMsg) (bits : Nat) : State :=
  let m := { m with acked := m.acked ||| bits }
  let s := s.putMsg k (some m)
  if m.acked + 1 = 2 ^ m.parts then s.finalMsg k 0 else s

/-- A packet that was protected with a tag that fails, or under a key that is not there: it is discarded and counted (R289, R295,
R301). -/
def State.tagBad (s : State) : State := (s.bump .zoaCntCount 7).bump .ciphTagFailFails

/-- An ACK (R274). -/
def State.takeAck (s : State) (p : ZPkt) : State :=
  match s.zoaAnswered p with
  | some (k, m) => if m.op = 1 ∨ m.op = 5 ∨ m.op = 6 then (s.progress k m (m.cover p.off p.total)).jrnSettle else s
  | none => s

/-- A NAK: a fatal status ends the message; BUSY, NO_BUFFER and TIME_UNFIT are kept as its last soft status (R280, R281). -/
def State.takeNak (s : State) (p : ZPkt) : State :=
  match s.zoaAnswered p with
  | some (k, m) =>
    if p.status = 2 ∨ p.status = 3 ∨ p.status = 7 then s.putMsg k (some { m with soft := p.status })
    else (s.finalMsg k p.status).jrnSettle
  | none => s

/-- Reply bytes of message `k` are placed at its local address, and `h` goes on.  A failed access to host memory ends the message and puts
its ring in ERROR (R312, R347). -/
def State.placeLocal (s : State) (k : Nat) (m : ZMsg) (off : Nat) (d : Bytes) (h : State → State) : State :=
  let a := m.laddr + off
  if m.lext then h (s.extWrite a d)
  else match m.user with
    | .ring r i _ =>
      if (s.ring r).running.contains i then (if s.wrFails m.owner a d.length then s.putMsg k none else s).putThen r i a d h
      else h (s.hostWrite m.owner a d)
    | _ => h (s.hostWrite m.owner a d)

/-- A RESP is placed at its message's local address, or discarded and counted (R272). -/
def State.takeResp (s : State) (p : ZPkt) : State :=
  match s.zoaAnswered p with
  | some (k, m) =>
    if m.op = 2 then s.placeLocal k m p.off p.payload (fun s => s.progress k m (m.cover p.off p.plen))
    else if m.op = 3 ∨ m.op = 4 then
      let old := BitVec.ofNat 64 (beAt p.payload 0 8)
      s.placeLocal k m 0 (leBytes old.toNat 8) (fun s => s.progress k { m with old := old } 1)
    else s.bump .zoaCntCount 3
  | none => s.bump .zoaCntCount 3

/-- A good packet in plain acts by its kind; `host` is what host memory returned to a READ or an atomic of a host window (R268, R276,
R277). -/
def State.zoaAct (s : State) (r : ZFrom) (p : ZPkt) (host : Bytes) : State :=
  if p.kind = 1 then s.recvReq r p host
  else if p.kind = 2 then s.takeAck p
  else if p.kind = 3 then s.takeNak p
  else s.takeResp p

/-- A received frame is counted if it is malformed or its key is not there (R262, R264, R301); a packet of kind `k` acts, at once if it is
in plain, once the engine has passed it if it is protected (R291). -/
def State.zoaTake (s : State) (k n : Nat) (pkt host : Bytes) : State :=
  match s.zoaIn n pkt with
  | .none => s
  | .malformed => s.bump .zoaCntCount 9
  | .badTag => s.tagBad
  | .sealed p r tag => if p.kind = k then s.addJob 2 (.zoaIn r p tag host) p.keyIx (56 + p.plen) else s
  | .good p r => if p.kind = k then s.zoaAct r p host else s

/-- ZOA_REQ_RX: a received REQ is judged, placed or refused, and answered (R268, R276, R277). -/
def execZoaReqRx (n : Port) (pkt host : Bytes) (s : State) : Out := .next (s.zoaTake 1 n.val pkt host)

/-- ZOA_ACK_RX (R274). -/
def execZoaAckRx (n : Port) (pkt : Bytes) (s : State) : Out := .next (s.zoaTake 2 n.val pkt [])

/-- ZOA_NAK_RX (R280, R281). -/
def execZoaNakRx (n : Port) (pkt : Bytes) (s : State) : Out := .next (s.zoaTake 3 n.val pkt [])

/-- ZOA_RESP_RX (R272). -/
def execZoaRespRx (n : Port) (pkt : Bytes) (s : State) : Out := .next (s.zoaTake 4 n.val pkt [])

/-! ### Expiries and Δ (R277, R284, R285, R492) -/

/-- DEDUP_EXPIRE: an entry ends when its message's age reaches Δ; a SEND's buffer not yet full completes TIMEOUT (R277, R342). -/
def execDedupExpire (src : BitVec 32) (msg : BitVec 48) (s : State) : Out :=
  let k := src.toNat * 2 ^ 48 + msg.toNat
  match SMap.find s.zoa.dups k with
  | none => .next s
  | some e =>
    let s := s.advanceAt e.expire
    .next ((s.dropDup k e).endBuf k e 0x0A)

/-- QUARANTINE_END: LT reaches ZOA_QUAR_END (R284). -/
def execQuarantineEnd (s : State) : Out :=
  if s.is .zoaStaQuarantine then
    let s := s.advanceTo (s.reg .zoaQuarEnd 0)
    .next (if ltReached s.lt (s.reg .zoaQuarEnd 0) then s.set .zoaStaQuarantine 0 0 else s)
  else .next s

/-- Does the twin watch's miss suit a Δ code (R492)? -/
def missOk (miss code : Nat) : Bool := decide (code * 20000 + 1000000 ≤ (miss - 1) * 1048576)

/-- ZOA_DELTA_SWAP: arms a Δ swap, or sets swap_refused (R285, R492). -/
def State.armDelta (s : State) (t : BitVec 64) (lead : Bool := true) : State :=
  let new := s.get .zoaDeltaDelta (1 - s.get .zoaStaBank)
  if s.armTime t lead && !s.is .zoaStaSwapPending &&
      (!s.is .zoaTwinCfgEn || missOk (s.get .zoaTwinCfgMiss) new) then
    let s := (s.set .zoaStaSwapPending 0 1).set .zoaStaSwapRefused 0 0
    { s with zoa := { s.zoa with deltaTarget := some t } }
  else s.set .zoaStaSwapRefused 0 1

/-- ZOA_DELTA_SWAP. -/
def execZoaDeltaSwap (target : BitVec 64) (s : State) : Out := .next (s.armDelta target)

/-- DELTA_SWAP_AT: at t the banks exchange; the old code is honoured for 5Δ/4 of it longer (R285). -/
def execDeltaSwapAt (s : State) : Out :=
  match s.zoa.deltaTarget with
  | none => .next s
  | some t =>
    let s := s.advanceTo t
    let b := s.get .zoaStaBank
    let old := s.deltaCode
    let s := (s.set .zoaStaBank 0 (1 - b)).set .zoaStaSwapPending 0 0
    let s := if s.forerunner then s.copyRegs [.zoaDelta] (1 - b) b else s
    .next { s with zoa := { s.zoa with deltaTarget := none,
                                       oldDelta := s.zoa.oldDelta ++ [(old, s.elapsed - (ltDiff s.lt t).toNat + fiveQuarters old)] } }

/-- OLD_DELTA_EXPIRE: the receiver stops honouring the old code whose time is up first (R285). -/
def execOldDeltaExpire (s : State) : Out :=
  match s.zoa.oldDelta with
  | [] => .next s
  | (_, t) :: l =>
    let s := s.advanceAt (l.foldl (fun a x => min a x.2) t)
    .next { s with zoa := { s.zoa with oldDelta := s.zoa.oldDelta.filter (fun o => decide (s.elapsed < o.2)) } }

/-! ### Sessions and work queues (R265, R270) -/

/-- Setting ZOA_CFG.en starts a new session (R265). -/
def State.zoaOn (s : State) : State :=
  if s.is .zoaCfgEn then s
  else
    let n := s.zoa.sessions + 1
    let s := { s with zoa := { s.zoa with sessions := n, nextId := 0 } }
    (s.set .zoaCfgEn 0 1).set .zoaStaSession 0 n

/-- ZOA_ENABLE. -/
def execZoaEnable (s : State) : Out := .next s.zoaOn

/-- Granted send rates of a function's work queues other than `c`, Mb/s. -/
def State.ratesOf (s : State) (f c : Nat) : Nat :=
  ((s.zoa.wqs.filter (fun e => e.2.owner == f && e.1 != c)).map (fun e => e.2.rate)).foldl (· + ·) 0

/-- Does a context lie within a function's grant: work queue, rate, ports, key and notification queue (R270, R354, R356)? -/
def State.wqGranted (s : State) (f c : Nat) (w : Wq) : Bool :=
  w.owner == f && s.ownerOf ⟨.workQueue, c⟩ == f && (!w.prot || s.ownerOf (keyBlk w.keyIx) == f) &&
  (w.nq == 0 || (match refBlk w.nq with
    | some b => b.kind == .ring && s.ringOwner b.ix == f && s.ringKind b.ix == 10
    | none => false)) &&
  (f == 0 || (match SMap.find s.ten.tenants f with
    | some t => decide (s.ratesOf f c + w.rate ≤ t.grant.fabRate) && w.ports.all (fun p => bitOf t.grant.ports p.1)
    | none => false))

/-- WQ_CREATE: MALFORMED, DENIED outside the grant, STATE where the work queue is in service, REFUSED where a port's max_frame is too
small; else the queue enters service (R270). -/
def execWqCreate (f : Fn) (seq : BitVec 32) (body : Bytes) (s : State) : Out :=
  .next (s.submit f.val seq 0x14 false (fun s =>
    let c := leAt body 0 2
    let w := wqOf body
    let st :=
      if wqShapeBad body ∨ 4096 ≤ c ∨ 4 ≤ leAt body 3 1 then 1
      else if !s.wqGranted f.val c w then 2
      else if (SMap.find s.zoa.wqs c).any (fun q => q.en) then 5
      else if !s.wqFits w then 6
      else 0
    if st ≠ 0 then s.reply f.val 0x14 st 0 []
    else
      let s := { s with zoa := { s.zoa with wqs := SMap.put s.zoa.wqs c (some w), cursor := SMap.put s.zoa.cursor c none,
                                            pace := SMap.put s.zoa.pace c none, fails := SMap.put s.zoa.fails c none } }
      (s.enterService ⟨.workQueue, c⟩).reply f.val 0x14 0 0 []))

/-- WQ_DESTROY: STATE without the queue, DENIED to others, BUSY while messages are outstanding (R270; DESIGN CHOICE, assumption 44). -/
def execWqDestroy (f : Fn) (seq : BitVec 32) (body : Bytes) (s : State) : Out :=
  .next (s.submit f.val seq 0x15 false (fun s =>
    let c := leAt body 0 2
    if body.length ≠ 2 ∨ 4096 ≤ c then s.reply f.val 0x15 1 0 []
    else if s.ownerOf ⟨.workQueue, c⟩ ≠ f.val then s.reply f.val 0x15 2 0 []
    else if (SMap.find s.zoa.wqs c).isNone then s.reply f.val 0x15 5 0 []
    else if !(s.msgsOf c).isEmpty then s.reply f.val 0x15 3 0 []
    else
      let s := { s with zoa := { s.zoa with wqs := SMap.put s.zoa.wqs c none } }
      (s.leaveService ⟨.workQueue, c⟩).reply f.val 0x15 0 0 []))

/-! ### Twins (R288) -/

/-- Is a window granted to no tenant? -/
def State.winUnowned (s : State) (i : Nat) : Bool := s.ten.tenants.all (fun t => !t.2.grant.holds ⟨.window, i⟩)

/-- May twin watch be enabled (ZOA_TWIN_CFG.en, R267, R288)? -/
def State.twinOk (s : State) : Bool :=
  let i := s.get .zoaTwinWinWin
  let b := s.ctxBytes .zoaTwinCtx 0
  !wqShapeBad b && s.wqFits (s.regCtx .zoaTwinCtx 0) && s.winUnowned i && !(s.win i).opened && !s.genBusy i

/-- The twin window's record: write only, 64 bytes, owned by no function. -/
def twinRec : Window := { opened := true, owner := 255, target := 0, rights := 1, base := 0, len := 64 }

/-- Setting or clearing ZOA_TWIN_CFG.en (R288). -/
def State.setTwin (s : State) (on : Bool) : State :=
  let i := s.get .zoaTwinWinWin
  if on then
    if s.is .zoaTwinCfgEn then s
    else if s.twinOk then
      let s := (s.set .zoaTwinCfgEn 0 1).renewWin i twinRec
      let s := { s with zoa := { s.zoa with twin := List.replicate 64 0, twinSeen := s.epoch } }
      s.set .zoaTwinStaKey 0 (i * 256 + (s.win i).gen)
    else s.ignDomain 6
  else if s.is .zoaTwinCfgEn then
    let s := (s.set .zoaTwinCfgEn 0 0).closeWin i
    s.set .zoaTwinStaKey 0 (i * 256 + (s.win i).gen)
  else s

/-- TWIN_WATCH_ENABLE. -/
def execTwinWatchEnable (on : Bool) (s : State) : Out := .next (s.setTwin on)

/-- TWIN_LOST: miss epochs pass without a heartbeat placed: lost is set, recorded and signalled (R288). -/
def execTwinLost (s : State) : Out :=
  if s.is .zoaTwinCfgEn && !s.is .zoaTwinStaLost then
    let s := s.advanceAt ((s.zoa.twinSeen + s.get .zoaTwinCfgMiss) * epochUnits)
    let node := match s.ctx? ctxTwin with
      | some w => w.node
      | none => 0
    let s := (s.set .zoaTwinStaLost 0 1).cairnRec .twinLost (some ⟨.window, s.get .zoaTwinWinWin⟩) (leBytes node 4)
    .next ((s.signal 0 (s.get .zoaTwinWinVec)).jrnSettle)
  else .next s

end Sys2Proof.Machine
end

