-- ==== Sys2Proof/Machine/Cipher.lean ====
section
/-! DEFINITION. The cipher engine's commands and events: messages started and finished, host requests, keys, shares, SA switches, and
alarms (chapter 11). -/

namespace Sys2Proof.Machine

/-! ### Messages (R291-R293, R296) -/

/-- Replace a message by its number, or remove it. -/
def State.putJob (s : State) (id : Nat) (j : Option CipherJob) : State :=
  { s with ciph := { s.ciph with jobs := s.ciph.jobs.filterMap (fun x => if x.id = id then j else some x) } }

/-- A message. -/
def State.job? (s : State) (id : Nat) : Option CipherJob := s.ciph.jobs.find? (fun j => j.id == id)

/-- Host opcodes of R299. -/
def ciEncrypt : Nat := 0x11
def ciDecrypt : Nat := 0x12
def ciGmacGen : Nat := 0x13
def ciGmacVer : Nat := 0x14

/-- Bytes of the shared part of the buffer that a message's output takes until its tag is proved: class 0 has reserves of its own (R295,
R296). -/
def State.jobHeld (s : State) (j : CipherJob) : Nat :=
  match j.user with
  | .host _ _ e _ => if leAt e 0 2 = ciDecrypt ∨ leAt e 0 2 = ciGmacVer then leAt e 12 4 else 0
  | .frame fid => match SMap.find s.ciph.keys j.keyIx, s.frame? fid with
    | some k, some f => if k.mode = 2 ∨ k.mode = 4 then s.frameLen f else 0
    | _, _ => 0
  | .zoaIn _ p _ _ => p.plen
  | _ => 0

/-- Bytes of it in use by messages that have started. -/
def State.heldUsed (s : State) : Nat := sumN ((s.ciph.jobs.filter (fun j => j.rec_.isSome)).map s.jobHeld)

/-- What keeps a message's order with others: its ring (R299), its context (R275), and, each way, its port (DESIGN CHOICE, assumption
130: a SecY's frames keep their order). -/
inductive JobLine where
  | rx (port : Nat)
  | tx (port : Nat)
  | ring (r : Nat)
  | ctx (c : Nat)
  deriving DecidableEq, Repr

/-- The line a message stands in, if any. -/
def State.lineOf (s : State) (j : CipherJob) : Option JobLine :=
  match j.user with
  | .secyRx fid => ((s.frame? fid).bind (·.port)).map .rx
  | .secyTx p _ => some (.tx p)
  | .zoaOut z => (SMap.find s.zoa.msgs z.msg).map (fun m => .ctx m.ctx)
  | .host r _ _ _ => some (.ring r)
  | _ => none

/-- Is a message behind an earlier one of its line that `still` holds of? -/
def State.behind (s : State) (j : CipherJob) (still : CipherJob → Bool) : Bool :=
  (s.lineOf j).isSome && s.ciph.jobs.any (fun x => decide (x.id < j.id) && still x && s.lineOf x == s.lineOf j)

/-- Is a waiting message ready: a program's frame has ended (R294), it is first of its line, its class's bucket is not negative (R293), and
there is room for what it holds back (R296)?  One that a failed core had begun is (R290). -/
def State.jobReady (s : State) (j : CipherJob) : Bool :=
  j.rec_.isSome ||
  ((match j.user with
    | .frame fid => (s.frame? fid).any (fun f => f.ended)
    | _ => true) &&
   !s.behind j (fun x => x.stage == .waiting) && decide (0 ≤ s.shareLevel j.cls) &&
   (s.jobHeld j == 0 || decide (s.heldUsed + s.jobHeld j ≤ s.heldLeft)))

/-- Could a message take a core now? -/
def State.jobStarts (s : State) (j : CipherJob) : Bool :=
  match j.stage with
  | .running => false
  | .waiting => s.jobReady j
  | _ => true

/-- Messages running, and free cores. -/
def State.jobsRunning (s : State) : Nat := (s.ciph.jobs.filter (fun j => j.stage == .running)).length
def State.coresFree (s : State) : Nat := s.get .ciphStaCores - s.jobsRunning

/-- Messages suspended by urgency and by slicing. -/
def State.jobsSuspended (s : State) : Nat := (s.ciph.jobs.filter (fun j => j.stage == .suspended)).length
def State.jobsSliced (s : State) : Nat := (s.ciph.jobs.filter (fun j => j.stage == .sliced)).length

/-- Show the suspend contexts in use. -/
def State.showSusp (s : State) : State := s.set .ciphStaSusp 0 (s.jobsSuspended + s.jobsSliced)

/-- The function that a host request is for. -/
def State.jobFn (s : State) (j : CipherJob) : Option Nat :=
  match j.user with
  | .host r _ _ _ => some (s.ringOwner r)
  | _ => none

/-- Has a message run for 4 KiB at 24 B/ns (R290, R292)? -/
def State.ranSlice (s : State) (j : CipherJob) : Bool := decide (4096 * unitsPerNs ≤ 24 * (s.elapsed - j.since))

/-- The running message that gives up its core to waiting message `j`: the latest of the least urgent class below its own, which is
suspended; for class 3, a request of another function that has run for 4 KiB, which is sliced (R292). -/
def State.jobVictim (s : State) (j : CipherJob) : Option (CipherJob × CipherStage) :=
  let run := s.ciph.jobs.filter (fun x => x.stage == .running)
  let worst := maxN (run.map (fun x => x.cls))
  if j.stage ≠ .waiting then none
  else if j.cls < worst ∧ s.jobsSuspended < 64 then
    ((run.filter (fun x => x.cls == worst)).getLast?).map (fun x => (x, .suspended))
  else if j.cls = 3 ∧ s.jobsSliced < 192 then
    (run.find? (fun x => x.cls == 3 && s.jobFn x != s.jobFn j && s.ranSlice x)).map (fun x => (x, .sliced))
  else none

/-- A frame in the engine ends with a program fault's cause in its annotation (R184, R298). -/
def State.cipherDrop (s : State) (fid cause : Nat) : State :=
  match s.frame? fid with
  | none => s
  | some f =>
    let a := BitVec.ofNat 64 (cause * 2 ^ 56 + f.annot.toNat % 2 ^ 56)
    (s.putFrame fid { f with annot := a }).dispose fid dProgram

/-- The protection of a frame that a port is to send is decided: under SA record `k`, or stomped without one (R303, R304, R307).  It is not
launched before (R303). -/
def State.sealTx (s : State) (p fid : Nat) (k : Option KeyRec) : State :=
  let pick := fun (x : TxFrame) => x.ent.fid == fid && !x.sealed
  match (s.inTx p).find? pick with
  | none => s
  | some x =>
    let plane := if ltAfter s.lt x.plane then s.lt else x.plane
    s.setTx p (setFirst pick { x with sealed := true, sa := k, stomp := k.isNone, plane := plane } (s.inTx p))

/-- Why a message ends without output. -/
inductive JobEnd where
  /-- Its key is gone or has another incarnation (R180, R305). -/
  | stale
  /-- Its key's counter is at its maximum (R297, R441). -/
  | stuck
  /-- Its tag failed (R295). -/
  | tag
  /-- An alarm (R307). -/
  | erased
  deriving DecidableEq, Repr

/-- The status of a host request that ends so (R299). -/
def JobEnd.status : JobEnd → Nat
  | .tag => 1
  | .erased => 5
  | _ => 2

/-- A message ends without output (R180, R289, R298, R301, R307).  A program's frame whose key went stale while it waited is DROP_PROGRAM
with that cause, and a frame whose transmit SA was cleared while it waited is stomped (DESIGN CHOICE, assumption 129). -/
def State.endJob (s : State) (j : CipherJob) (e : JobEnd) : State :=
  let s := (s.putJob j.id none).showSusp
  match j.user with
  | .host r i d _ => s.complete r i d e.status
  | .frame fid => match e with
    | .stale => s.cipherDrop fid cStale
    | .tag => s.cipherDrop fid cTag
    | _ => s.dispose fid dFault
  | .secyRx fid => if e = .erased then (match s.frame? fid with
      | some f => s.putFrame fid { f with stage := .done }
      | none => s) else s.secyDrop fid
  | .secyTx p fid => s.sealTx p fid none
  | .zoaIn _ _ _ _ => if e = .stale then s.tagBad else if e = .tag then s.bump .zoaCntCount 7 else s
  | .zoaOut _ => s
  | .zoaBack _ _ => s

/-- Does a key count messages: a program's that writes an IV (R297), or a transmit SA (R304)? -/
def KeyRec.counts (k : KeyRec) : Bool := (k.use == 1 && (k.mode == 1 || k.mode == 3)) || (k.use == 4 && k.mode == 0)

/-- A waiting message starts: it fetches its key, a stale one ending it (R180, R305); a counter or PN advances, and sticks at its maximum
(R297, R304, R441); its class pays (R293). -/
def State.firstStart (s : State) (j : CipherJob) : State :=
  match (s.keyRec? j.keyIx).filter (fun _ => s.blkInc (keyBlk j.keyIx) == j.keyInc) with
  | none => s.endJob j .stale
  | some k =>
    if k.counts && decide (top64 < k.pn) then (s.cairnRec .counterStuck (some (keyBlk j.keyIx)) []).endJob j .stuck
    else
      let s := if !k.counts then s else if k.use = 4 then s.advancePn j.keyIx k else s.putKey j.keyIx (some { k with pn := k.pn + 1 })
      (s.payShare j.cls j.len).putJob j.id (some { j with stage := .running, rec_ := some k, since := s.elapsed })

/-- A message takes a core: for the first time, or again. -/
def State.startJob (s : State) (j : CipherJob) : State :=
  if j.rec_.isNone then s.firstStart j else s.putJob j.id (some { j with stage := .running, since := s.elapsed })

/-- Is a suspended message as urgent as `j` to take a free core first: `j` has not started (R292)? -/
def State.resumesFirst (s : State) (j : CipherJob) : Bool :=
  j.stage == .waiting && s.ciph.jobs.any (fun x => (x.stage == .suspended || x.stage == .sliced) && x.cls == j.cls)

/-- CIPHER_START: a message takes a free core, or one that a less urgent message gives up; a more urgent message that could start goes
before it, and a suspended one of its class takes a free core first (R291, R292). -/
def execCipherStart (id : Nat) (s : State) : Out :=
  match s.job? id with
  | none => .next s
  | some j =>
    if !s.jobStarts j || s.ciph.jobs.any (fun x => decide (x.cls < j.cls) && s.jobStarts x) then .next s
    else if 0 < s.coresFree then .next (if s.resumesFirst j then s else (s.startJob j).showSusp)
    else match s.jobVictim j with
      | some (v, st) => .next ((s.putJob v.id (some { v with stage := st })).startJob j).showSusp
      | none => .next s

/-! ### Results (R295, R297, R299) -/

/-- What a host request yields: its output, none where the tag fails. -/
def hostResult (k : KeyRec) (e d : Bytes) : Option Bytes :=
  let op := leAt e 0 2
  let na := leAt e 8 4
  let n := leAt e 12 4
  let iv := sliceB e 32 12
  let aad := sliceB d 0 na
  let x := sliceB d na n
  let tag := sliceB d (na + n) 16
  if op = ciEncrypt then
    let r := gcmSeal k.bytes iv aad x
    some (r.1 ++ r.2)
  else if op = ciDecrypt then gcmOpen k.bytes iv aad x tag
  else if op = ciGmacGen then some (gcmTag k.bytes iv (aad ++ x) [])
  else (gcmOpen k.bytes iv (aad ++ x) [] tag)

/-- What a program frame without its FCS becomes (R297); none where the tag fails. -/
def frameResult (k : KeyRec) (b : Bytes) : Option Bytes :=
  let iv := k.salt.take 4 ++ beBytes k.pn 8
  let w := pasteB b k.ivOff iv
  let got := sliceB b k.ivOff 12
  let n := b.length - 16
  if k.mode = 1 then
    let r := gcmSeal k.bytes iv (w.take k.encOff) (w.drop k.encOff)
    some (w.take k.encOff ++ r.1 ++ r.2)
  else if k.mode = 2 then
    if n < k.encOff ∨ b.length < 16 then none
    else (gcmOpen k.bytes got (b.take k.encOff) ((b.take n).drop k.encOff) (b.drop n)).map (fun p => b.take k.encOff ++ p)
  else if k.mode = 3 then some (w ++ gcmTag k.bytes iv w [])
  else if b.length < 16 then none
  else (gcmOpen k.bytes got (b.take n) [] (b.drop n)).map (fun _ => b.take n)

/-- A frame leaves the engine for its key's egress queue, wholly buffered (R77, R294, R297). -/
def State.frameFromCipher (s : State) (fid : Nat) (k : KeyRec) (b : Bytes) : State :=
  match s.frame? fid with
  | none => s
  | some f =>
    let out := sealFrame b f.failed
    s.putFrame fid { f with
      orig := some (f.orig.getD (f.bytes.take (s.frameLen f))), bytes := out, hdr := sliceB out 0 256, whole := true,
      dest := .queue (k.queue / 16), stage := .emitted, emitAt := s.elapsed }

/-- A message's result; nothing of a decryption is released unless its tag is right (R289, R295, R298, R303). -/
def State.finishJob (s : State) (j : CipherJob) (k : KeyRec) : State :=
  let gone := (s.putJob j.id none).showSusp
  match j.user with
  | .host r i e d => match hostResult k e d with
    | none => (s.bump .ciphTagFailFails).endJob j .tag
    | some o => if (s.ring r).running.contains i then gone.putThen r i (leAt e 24 8) o (fun s => s.complete r i e 0) else gone
  | .frame fid => match s.frame? fid with
    | none => gone
    | some f =>
      let c := s.content f
      match frameResult k (c.take (c.length - 4)) with
      | none => (s.bump .ciphTagFailFails).endJob j .tag
      | some b => gone.frameFromCipher fid k b
  | .secyRx fid => gone.secyPass fid j.keyIx j.keyInc k
  | .secyTx p fid => gone.sealTx p fid (some k)
  | .zoaOut z => gone.queuePkt { z with key := some k.bytes }
  | .zoaBack r p => gone.sendBack r p (some k.bytes)
  | .zoaIn r p tag host => match openPkt k.bytes p tag with
    | none => (s.bump .ciphTagFailFails).endJob j .tag
    | some p => gone.zoaAct r p host

/-- CIPHER_DONE: a running message finishes, a SecY's and a context's in their order (R295, R298). -/
def execCipherDone (id : Nat) (s : State) : Out :=
  match s.job? id with
  | none => .next s
  | some j => match j.stage, j.rec_ with
    | .running, some k => if j.cls = 0 ∨ j.cls = 2 then (if s.behind j (fun _ => true) then .next s else .next (s.finishJob j k))
                          else .next (s.finishJob j k)
    | _, _ => .next s

/-! ### Host requests (R295, R299) -/

/-- What makes a cipher request malformed, other than its pass field (R299, R347). -/
def cipherBad (e : Bytes) : Option Nat :=
  let op := leAt e 0 2
  if op = 1 then (if zeroAt e 4 12 ∧ zeroAt e 24 38 ∧ leAt e 63 1 < 2 then none else some ecReserved)
  else if op = 2 then (if zeroAt e 4 58 ∧ leAt e 63 1 < 2 then none else some ecReserved)
  else if op < 0x11 ∨ 0x14 < op then some ecOpcode
  else if !zeroAt e 6 2 ∨ !zeroAt e 44 18 ∨ 2 ≤ leAt e 63 1 then some ecReserved
  else if (op = ciEncrypt ∨ op = ciGmacGen) ∧ 1048576 < leAt e 12 4 then some ecRange
  else none

/-- The status that refuses a request of opcode 0x11-0x14, 0 for none: DENIED, STALE or LENGTH (R299). -/
def State.cipherRefuse (s : State) (r : Nat) (e : Bytes) : Nat :=
  let key := leAt e 2 2
  let op := leAt e 0 2
  if s.ownerOf (keyBlk key) ≠ s.ringOwner r then 3
  else match s.keyRec? key with
    | none => 2
    | some k =>
      if k.use ≠ 2 then 3
      else if leAt e 4 2 ≠ s.blkInc (keyBlk key) then 2
      else if (op = ciDecrypt ∨ op = ciGmacVer) ∧ 65536 < leAt e 12 4 then 4
      else 0

/-- Bytes of a request's source: AAD, data, and the tag of one that verifies (R299). -/
def cipherSrc (e : Bytes) : Nat :=
  leAt e 8 4 + leAt e 12 4 + (if leAt e 0 2 = ciDecrypt ∨ leAt e 0 2 = ciGmacVer then 16 else 0)

/-- A request of opcode 0x11-0x14: refused, or its source is read and it is a message of class 3. -/
def State.cipherEntry (s : State) (r : Nat) (e data : Bytes) : State :=
  let st := s.cipherRefuse r e
  s.takeRead r 6 e (cipherBad e) (leAt e 16 8) (if st = 0 then cipherSrc e else 0) data.length (fun s i =>
    if st ≠ 0 then s.complete r i e st
    else s.addJob 3 (.host r i e data) (leAt e 2 2) (leAt e 8 4 + leAt e 12 4))

/-- A request of opcode `op`; an entry of another opcode is no entry of this command. -/
def State.cipherCmd (s : State) (r op : Nat) (e data : Bytes) : State := if leAt e 0 2 = op then s.cipherEntry r e data else s

/-- ENCRYPT. -/
def execEncrypt (r : RingIx) (e data : Bytes) (s : State) : Out := .next (s.cipherCmd r.val ciEncrypt e data)
/-- DECRYPT. -/
def execDecrypt (r : RingIx) (e data : Bytes) (s : State) : Out := .next (s.cipherCmd r.val ciDecrypt e data)
/-- GMAC_GEN. -/
def execGmacGen (r : RingIx) (e data : Bytes) (s : State) : Out := .next (s.cipherCmd r.val ciGmacGen e data)
/-- GMAC_VER. -/
def execGmacVer (r : RingIx) (e data : Bytes) (s : State) : Out := .next (s.cipherCmd r.val ciGmacVer e data)

/-! ### Keys (R299, R305, R306) -/

/-- Read a key record; its SSCI and SCI, numbers of the little-endian record, are kept as the wire has them (R8, R306). -/
def keyRecOf (b : Bytes) : KeyRec :=
  { use := leAt b 0 1, flags := leAt b 1 1, mode := leAt b 2 1, an := leAt b 3 1, ivOff := leAt b 4 2, encOff := leAt b 6 2,
    queue := leAt b 8 2, ssci := (sliceB b 12 4).reverse, salt := sliceB b 16 12, key := sliceB b 32 32, pn := leAt b 64 8,
    sci := (sliceB b 72 8).reverse, nextPn := leAt b 64 8 }

/-- Does a key record break the table of R306? -/
def keyBad (b : Bytes) : Bool :=
  let use := leAt b 0 1
  let fl := leAt b 1 1
  let mode := leAt b 2 1
  b.length != 128 || use == 0 || decide (5 < use) || decide (2 ≤ fl) || !zeroAt b 10 2 || !zeroAt b 28 4 || !zeroAt b 80 48 ||
  (fl == 0 && !zeroAt b 48 16) ||
  (if use = 1 then
     mode == 0 || decide (4 < mode) || !zeroAt b 3 1 || decide (4096 ≤ leAt b 8 2) || !zeroAt b 12 4 || !zeroAt b 20 8 ||
       !zeroAt b 72 8
   else if use = 4 then
     decide (1 < mode) || decide (3 < leAt b 3 1) || fl != 1 || decide (255 < leAt b 4 2) || !zeroAt b 8 2 ||
       (if mode = 0 then !zeroAt b 6 2 || !zeroAt b 72 8 else decide (7 < leAt b 6 2))
   else !zeroAt b 2 8 || !zeroAt b 12 16 || !zeroAt b 64 16)

/-- Must a key command wait: a supply warning is active (R305), or requests before it in the ring have not started (R299)? -/
def State.keyWaits (s : State) (r : Nat) : Bool :=
  s.supplyWarn || s.ciph.jobs.any (fun x => x.stage == .waiting && (match x.user with
    | .host q _ _ _ => q == r
    | _ => false))

/-- The SCI of a receive SA becomes that of its receive SC (R302; DESIGN CHOICE, assumption 126). -/
def State.setSc (s : State) (k : KeyRec) : State :=
  if k.use = 4 ∧ k.mode = 1 then
    { s with ciph := { s.ciph with scs := SMap.put s.ciph.scs (k.ivOff * 8 + k.encOff) (some k.sci) } }
  else s

/-- The status that refuses a KEY_SET before its record is read, 0 for none: ERASED, DENIED, or BUSY on an enabled key (R299, R305). -/
def State.keySetRefuse (s : State) (r : Nat) (e : Bytes) : Nat :=
  if s.is .ciphStaErased then 5
  else if s.ownerOf (keyBlk (leAt e 2 2)) ≠ s.ringOwner r then 3
  else if s.keyOn (leAt e 2 2) then 6
  else 0

/-- KEY_SET: ERASED, DENIED, BUSY on an enabled key, BAD_RECORD, or the record is stored, the key enabled under a new incarnation, and
the host's copy of salt and key zeroed before the completion (R305, R308). -/
def State.keySetEntry (s : State) (r : Nat) (e rec_ : Bytes) : State :=
  let st := s.keySetRefuse r e
  if s.keyWaits r ∧ (cipherBad e).isNone then s.passIf r 6 e
  else s.takeRead r 6 e (cipherBad e) (leAt e 16 8) (if st = 0 then 128 else 0) rec_.length (fun s i =>
    let key := leAt e 2 2
    let f := s.ringOwner r
    let use := leAt rec_ 0 1
    if st ≠ 0 then s.complete r i e st
    else if keyBad rec_ ∨ ((use = 4 ∨ use = 5) ∧ f ≠ 0) then s.complete r i e 7
    else
      let s := ((s.putKey key (some (keyRecOf rec_))).setSc (keyRecOf rec_)).enterService (keyBlk key)
      s.putThen r i (leAt e 16 8 + 16) (List.replicate 48 0) (fun s =>
        s.complete r i (sliceB e 0 4 ++ leBytes (s.blkInc (keyBlk key)) 2 ++ sliceB e 6 56) 0))

/-- KEY_SET. -/
def execKeySet (r : RingIx) (e record : Bytes) (s : State) : Out :=
  .next (if leAt e 0 2 = 1 then s.keySetEntry r.val e record else s)

/-- Is a key the SA a port transmits under, or is to switch to (R304)? -/
def State.saInUse (s : State) (key : Nat) : Bool :=
  match s.keyRec? key with
  | none => false
  | some k => k.use == 4 && k.mode == 0 &&
    ((s.secyOn k.ivOff && s.get .ciphSecyStaTxAn k.ivOff == k.an) ||
     (match SMap.find s.ciph.secyTarget k.ivOff with
      | some t => t.2 == k.an
      | none => false))

/-- KEY_CLEAR: DENIED, BUSY for an SA in transmit use, or the record is zeroed and the key disabled (R299, R304, R305). -/
def State.keyClearEntry (s : State) (r : Nat) (e : Bytes) : State :=
  if s.keyWaits r ∧ (cipherBad e).isNone then s.passIf r 6 e
  else s.takeEntry r 6 e (cipherBad e) (fun s i =>
    let key := leAt e 2 2
    let f := s.ringOwner r
    let use : Nat := match s.keyRec? key with
      | some k => k.use
      | none => 0
    if s.ownerOf (keyBlk key) ≠ f ∨ ((use = 4 ∨ use = 5) ∧ f ≠ 0) then s.complete r i e 3
    else if s.saInUse key then s.complete r i e 6
    else ((s.putKey key none).leaveService (keyBlk key)).complete r i e 0)

/-- KEY_CLEAR. -/
def execKeyClear (r : RingIx) (e : Bytes) (s : State) : Out := .next (if leAt e 0 2 = 2 then s.keyClearEntry r.val e else s)

/-- A CIPHER ring reaches an entry of any opcode. -/
def State.cipherAny (s : State) (r : Nat) (e data : Bytes) : State :=
  if leAt e 0 2 = 1 then s.keySetEntry r e data else if leAt e 0 2 = 2 then s.keyClearEntry r e else s.cipherEntry r e data

/-! ### Shares (R293) -/

/-- Class 0's load of the enabled SecYs: Gb/s and bytes (R303). -/
def State.secyLoad (s : State) : Nat × Nat :=
  let l := (List.range 256).filter s.secyOn
  (sumN (l.map (fun n => 2 * s.portRate n)), sumN (l.map (fun n => 2 * (s.get .portMacCfgMaxFrame n + 32))))

/-- May the other share bank take effect: its sum, the loads of classes 0 and 1, and every contract's bounds under it (R293)? -/
def State.sharesOk (s : State) : Bool :=
  let b := 1 - s.shareBank
  let s' := s.set .ciphStaBank 0 b
  let e := s'.env
  decide (sumN ((List.range 4).map (s.shareRate b)) ≤ 3072) && decide (s.secyLoad.1 ≤ s.shareRate b 0) &&
  decide (s.secyLoad.2 ≤ s.shareBurst b 0) && e.cipherOk b && (e.impacted 65536 s'.banksFor).isNone

/-- Arm a share swap, or refuse it. -/
def State.armShare (s : State) (t : BitVec 64) (lead : Bool := true) : State :=
  if s.armTime t lead && !s.is .ciphStaSwapPending && s.sharesOk then
    let s := (s.set .ciphStaSwapPending 0 1).set .ciphStaSwapRefused 0 0
    { s with ciph := { s.ciph with shareTarget := some t } }
  else s.set .ciphStaSwapRefused 0 1

/-- CIPH_SHARE_SWAP. -/
def execCiphShareSwap (target : BitVec 64) (s : State) : Out := .next (s.armShare target)

/-- SHARE_SWAP_AT: at t the share banks exchange; a bucket above its new size is cut to it (R293, R432). -/
def execShareSwapAt (s : State) : Out :=
  match s.ciph.shareTarget with
  | none => .next s
  | some t =>
    let s := s.advanceTo t
    let old := s.shareBank
    let bs := (List.range 4).map (fun c => (c, (s.shareLevel c, s.elapsed)))
    let s := (s.set .ciphStaBank 0 (1 - old)).set .ciphStaSwapPending 0 0
    let s := if s.forerunner then
        (List.range 4).foldl (fun s c => s.setReg .ciphShare (old * 4 + c) (s.reg .ciphShare ((1 - old) * 4 + c))) s
      else s
    .next { s with ciph := { s.ciph with shareTarget := none, buckets := bs } }

/-! ### SA switches (R304) -/

/-- Arm a transmit SA switch of a port to next_an under the conditions of R222, or refuse it. -/
def State.armSecy (s : State) (n : Nat) (t : BitVec 64) : State :=
  let an := s.get .ciphSecyCfgNextAn n
  if s.armTime t true && !s.is .ciphSecyStaPending n && (!s.portCarries n || s.is .tmPortStaChecked n) && (s.txSa n an).isSome then
    let s := (s.set .ciphSecyStaPending n 1).set .ciphSecyStaRefused n 0
    { s with ciph := { s.ciph with secyTarget := SMap.put s.ciph.secyTarget n (some (t, an)) } }
  else s.set .ciphSecyStaRefused n 1

/-- CIPH_SECY_AT. -/
def execCiphSecyAt (n : Port) (target : BitVec 64) (s : State) : Out := .next (s.armSecy n.val target)

/-- SA_SWITCH_AT: frames launched from t on use the new SA (R304). -/
def execSaSwitchAt (n : Port) (s : State) : Out :=
  match SMap.find s.ciph.secyTarget n.val with
  | none => .next s
  | some (t, an) =>
    let s := s.advanceTo t
    let s := (s.set .ciphSecyStaTxAn n.val an).set .ciphSecyStaPending n.val 0
    let high : Bool := match s.txSa n.val an with
      | some (_, k) => decide (2 ^ 63 ≤ k.pn)
      | none => false
    let s := s.set .ciphSecyStaPnHigh n.val (bit high)
    .next { s with ciph := { s.ciph with secyTarget := SMap.put s.ciph.secyTarget n.val none } }

/-! ### Alarms and cores (R290, R307, R308) -/

/-- Every key that has been in service takes a new incarnation, disabled. -/
def State.eraseKeys (s : State) : State :=
  let l := (s.incs.filter (fun e => e.1 % 32 == BlkKind.key.ctorIdx)).map (fun e => e.1 / 32)
  let s := l.foldl (fun s i => (s.renewInc (keyBlk i)).leaveService (keyBlk i)) s
  { s with ciph := { s.ciph with keys := [] } }

/-- A MACsec frame in transmission ends stomped: of one whose disposition was to follow its end, that is the outcome (R307). -/
def State.stompTx (s : State) (x : TxFrame) : State :=
  match s.frame? x.ent.fid with
  | some f => s.putFrame x.ent.fid { f with worst := f.worst.map (fun w => (worseDispo w.1 dStomped, w.2)) }
  | none => s

/-- MACsec frames in transmission end stomped (R307). -/
def State.eraseMacsec (s : State) : State :=
  let ends : TxFrame → TxFrame := fun x => if x.secy then { x with stomp := true, sealed := true } else x
  let l : List TxFrame := ((s.tm.tx.map (fun e => e.2)).flatten).filter (fun x => x.secy && x.stamp.isSome)
  let s : State := { s with tm := { s.tm with tx := s.tm.tx.map (fun e => (e.1, e.2.map ends)) } }
  l.foldl State.stompTx s

/-- An alarm of source `src`: keys and engine state are erased and the work in the engine resolved (R307). -/
def State.alarm (s : State) (src : Nat) : State :=
  let s := s.set .ciphAlarmStaCause 0 (s.get .ciphAlarmStaCause ||| 2 ^ src)
  let s := (s.bump .ciphAlarmCntAlarms).setReg .ciphEraseLt 0 s.lt
  let s := s.cairnRec .ciphAlarm (some ⟨.cipher, 0⟩) [BitVec.ofNat 8 (s.get .ciphAlarmStaCause)]
  let s := s.eraseKeys
  let s := (s.ciph.jobs.foldl (fun s j => s.endJob j .erased) s).eraseMacsec
  ({ s with ciph := { s.ciph with lastCause := s.elapsed } }.set .ciphStaErased 0 1).showSusp

/-- CIPHER_ALARM. -/
def execCipherAlarm (src : Fin 5) (s : State) : Out := .next (s.alarm src.val)

/-- A reading of the die's temperature: leaving the range raises the alarm, and back in it that cause is gone (R307, R308). -/
def State.thermAlarm (s : State) (out : Bool) : State :=
  let on := bitOf (s.get .ciphAlarmStaCause) 4
  if out && !on then s.alarm 4
  else if out || on then
    let s := { s with ciph := { s.ciph with lastCause := s.elapsed } }
    if out then s else s.set .ciphAlarmStaCause 0 (s.get .ciphAlarmStaCause - 16)
  else s

/-- LT units in the 1 ms for which every cause must have been absent (R308). -/
def clearUnits : Nat := 1000000 * unitsPerNs

/-- ALARM_CLEAR: every cause has been absent for 1 ms, that of temperature as its readings say; keys may be set again (R308). -/
def execAlarmClear (s : State) : Out :=
  if !s.is .ciphStaErased || bitOf (s.get .ciphAlarmStaCause) 4 then .next s
  else
    let s := s.advanceAt (s.ciph.lastCause + clearUnits)
    .next ((s.set .ciphAlarmStaCause 0 0).set .ciphStaErased 0 0)

/-- CIPH_CORE: a core fails; the spare takes its place, or the engine goes on with one core fewer; the message on it starts again from
its first byte (R290). -/
def execCiphCore (msg : Option Nat) (s : State) : Out :=
  let spare := s.is .ciphStaSpareAvail
  let s := if spare then s.set .ciphStaSpareAvail 0 0 else s.drop .ciphStaCores
  let s := s.renewInc ⟨.cipher, 0⟩
  let s := s.cairnRec .ciphCore (some ⟨.cipher, 0⟩) [BitVec.ofNat 8 (s.get .ciphStaCores), 1]
  match msg.bind s.job? with
  | none => .next s
  | some j =>
    if j.stage = .running then
      .next (s.putJob j.id (some (if spare then { j with since := s.elapsed } else { j with stage := .waiting })))
    else .next s

end Sys2Proof.Machine
end

