-- ==== Sys2Proof/Machine/Background.lean ====
section
/-! DEFINITION. Background work: scrubbing, maintenance windows, calibration, the thermal and aging monitors, telemetry, sleep and
the failures of channels and lane pairs (chapter 18). -/

namespace Sys2Proof.Machine

/-- Update the background state. -/
def State.setBack (s : State) (b : Back) : State := { s with back := b }

/-! ### Scrubbing (R442-R446) -/

/-- LT units in 24 hours. -/
def dayUnits : Nat := 86400 * unitsPerSec

/-- On-die SRAM words, and installed external-memory words: 32 GiB a rank. -/
def sramTotal : Nat := 19922944
def State.extTotal (s : State) : Nat := (List.range 8).foldl (fun n c => n + s.get .memChStaRanks c) 0 * 4294967296

/-- A word of the memories software sees is marked uncorrectable: poison until its owner writes it (R445). -/
def State.poison (s : State) (w : Nat) : State := { s with mem := { s.mem with bad := SMap.put s.mem.bad w (some ()) } }

/-- A correction at word `w`: its third within 24 hours has it repaired at L1 (R444). -/
def State.corrected (s : State) (w : Nat) : State :=
  let l := (s.elapsed :: SMap.getD s.back.fixes w []).filter (fun t => decide (s.elapsed < t + dayUnits))
  if 3 ≤ l.length then
    s.setBack { s.back with fixes := SMap.put s.back.fixes w none, repaired := SMap.put s.back.repaired w (some ()) }
  else s.setBack { s.back with fixes := SMap.put s.back.fixes w (some l) }

/-- An uncorrectable word's record: its block, address, holder by the row of R445's table, and whether the cause is ADDRESS. -/
def State.memRecord (s : State) (b : Option Blk) (addr holder : Nat) (cause : Bool) : State :=
  s.cairnRec .memUncorr b (leBytes addr 8 ++ [BitVec.ofNat 8 holder, BitVec.ofNat 8 (bit cause)])

/-- One word of the on-die pass has been read; a completed pass is counted, and recorded if it overran 10 s (R446). -/
def State.sramRead (s : State) : State :=
  let n := s.back.sramWords + 1
  if n < sramTotal then s.setBack { s.back with sramWords := n }
  else
    let d := s.elapsed - s.back.sramFrom
    let s := (s.bump .sysScreeSramPasses).set .sysScreeSramLastMs 0 (d / 65536000000)
    let s := s.setBack { s.back with sramWords := 0, sramFrom := s.elapsed }
    if 10 * unitsPerSec < d then s.cairnRec .scrubOverrun none [0] else s

/-- One word of the external-memory pass has been read; a completed pass is counted, and recorded if it overran 24 h (R446). -/
def State.extRead (s : State) : State :=
  let n := s.back.extWords + 1
  if n < s.extTotal then s.setBack { s.back with extWords := n }
  else
    let d := s.elapsed - s.back.extFrom
    let s := (s.bump .sysScreeExtPasses).set .sysScreeExtLastS 0 (d / unitsPerSec)
    let s := s.setBack { s.back with extWords := 0, extFrom := s.elapsed }
    if dayUnits < d then s.cairnRec .scrubOverrun none [1] else s

/-- The channel a word of external memory lies on. -/
def State.wordCh (s : State) (w : MemWord) : Nat :=
  match w with
  | .ext a => Config.memChannel (a / 8) % 8
  | _ => s.free.toNat % 8

/-- Is the word in external memory? -/
def wordIsExt : MemWord → Bool
  | .ext _ | .retention _ _ | .dup _ => true
  | _ => false

/-- Number of a word whose corrections are remembered, in the keys of `Back.fixes`. -/
def wordNum : MemWord → Option Nat
  | .ext a => some (a / 8)
  | .scratch c o => some (2 ^ 48 + (c.val * 65536 + o.val) / 8)
  | .shared r o => some (2 * 2 ^ 48 + (r.val * 2097152 + o.val) / 8)
  | .sram n => some (3 * 2 ^ 48 + n)
  | _ => none

/-- The newest frame leaf a lane still holds in staging is lost there: it is counted into a reason-1 summary leaf of its epoch, as a
leaf that found no staging place (R245, R445; DESIGN CHOICE, assumption 53). -/
def State.loseStaged (s : State) (l : Nat) : State :=
  let v := s.led? l
  match v.staged.reverse with
  | [] => s
  | r :: t =>
    if s.stagedNow l = 0 ∨ 0x8000 ≤ beAt r.leaf 16 2 then s
    else
      let d : LeafDue :=
        { port := beAt r.leaf 16 2, con := r.con, conInc := 0, tenant := r.tenant, dispo := beAt r.leaf 22 1,
          ft := beAt r.leaf 0 6 * unitsPerSec + beAt r.leaf 6 4 * 65536 + beAt r.leaf 10 2, lt := 0, residence := 0, outPort := 0,
          progEpoch := beAt r.leaf 23 1, annot := 0, digestIn := [], at_ := r.epoch * epochUnits, allowance := 0 }
      let s := s.setLed l { v with staged := t.reverse, retained := v.retained.filter (fun x => x.seq != r.seq) }
      let s := (s.setReg .ledLaneSeq l (BitVec.ofNat 64 r.seq)).drop .ledLaneStaNNow l
      let s := (s.addSum l d 1).bump .ledLaneUnstagedFrames l
      s.cairnRec .leafUnstaged (some ⟨.lane, l⟩) (leBytes l 8 ++ leBytes r.epoch 8)

/-- Scree finds that the code of a table entry's word corrects it: until PARITY_REPAIR writes it back, within 1 ms, the entry's parity does not
match (R118, R444; assumption 118). -/
def State.tableMismatch (s : State) (t : Nat) (k : Bytes) (plen : Nat) : State :=
  let k := s.normKey t k plen
  match s.entry t k plen with
  | none => s
  | some e => if e.parity = 0 then s.putEntry t k plen (some { e with parity := 1 }) else s

/-- The outcome of an uncorrectable word by what holds it (R445). -/
def State.uncorrectable (s : State) (w : MemWord) (cause : Bool) : State :=
  match w with
  | .table t k plen =>
    let k := s.normKey t.val k plen
    (match s.entry t.val k plen with
    | none => s
    | some e =>
      if e.parity = 2 then s else (s.putEntry t.val k plen (some { e with parity := 2 })).parityMet t.val k false)
  | .buffer fid =>
    let s := (s.bump .sysEccSramUncUncorrectable).memRecord none (s.free 1).toNat 1 cause
    (match s.frame? fid with
    | none => s
    | some f => if f.stage = .done then s else s.putFrame fid { f with failed := true })
  | .scratch c o =>
    ((s.bump .sysEccSramUncUncorrectable).poison (2 ^ 48 + (c.val * 65536 + o.val) / 8)).memRecord (some ⟨.core, c.val⟩)
      (c.val * 65536 + o.val) 2 cause
  | .shared r o =>
    ((s.bump .sysEccSramUncUncorrectable).poison (2 * 2 ^ 48 + (r.val * 2097152 + o.val) / 8)).memRecord (some ⟨.ridge, r.val⟩)
      (r.val * 2097152 + o.val) 2 cause
  | .staging l => ((s.bump .sysEccSramUncUncorrectable).memRecord (some ⟨.lane, l.val⟩) (s.free 1).toNat 4 cause).loseStaged l.val
  | .sram n => (s.bump .sysEccSramUncUncorrectable).memRecord none n 9 cause
  | .retention l q =>
    let v := s.led? l.val
    let keep := fun (x : LeafRec) => x.seq != q
    let s := s.setLed l.val { v with retained := v.retained.filter keep, oldRetained := v.oldRetained.filter keep }
    (s.showOldest l.val).memRecord (some ⟨.lane, l.val⟩) (s.free 1).toNat 5 cause
  | .dup k =>
    let s := match SMap.find s.zoa.dups k with
      | none => s
      | some e =>
        let e := if e.failed = 0 then { e with failed := 1 } else e
        { s with zoa := { s.zoa with dups := SMap.put s.zoa.dups k (some e) } }
    s.memRecord none (s.free 1).toNat 6 cause
  | .ext a =>
    let holder := if decide (s.jAddr 0 ≤ a) && decide (a < s.jAddr s.jBlocks) then 7 else 9
    (s.poison (a / 8)).memRecord (some ⟨.memCh, s.wordCh w⟩) a holder cause

/-- SCRUB_READ: Scree reads a word.  A corrected one is written back and counted, an uncorrectable one counted, recorded and given the
outcome of what holds it (R442-R446).  A channel out of service or in a maintenance window is not scrubbed (R458). -/
def execScrubRead (w : MemWord) (found : EccFound) (s : State) : Out :=
  if wordIsExt w then
    let ch := s.wordCh w
    if s.blkState ⟨.memCh, ch⟩ ≠ 2 ∨ s.inWindow ch = true then .next s.useFree
    else
      let s := s.extRead
      let s := match found with
        | .good => s
        | .corrected =>
          let s := s.bump .memChCorrCorrected ch
          (match wordNum w with
          | some n => s.corrected n
          | none => s)
        | .uncorrectable => (s.bump .memChUncUncorrectable ch).uncorrectable w false
        | .address => ((s.bump .memChUncUncorrectable ch).bump .memChAddrMisdirected ch).uncorrectable w true
      .next (s.useFree 2)
  else
    let s := s.sramRead
    let s := match found with
      | .good => s
      | .corrected => (match w with
        | .table t k plen => s.tableMismatch t.val k plen
        | _ =>
          let s := s.bump .sysEccSramCorrected
          (match wordNum w with
          | some n => s.corrected n
          | none => s))
      | .uncorrectable | .address => s.uncorrectable w false
    .next (s.useFree 2)

/-! ### Maintenance windows (R447, R449) -/

/-- The other channel of a pair. -/
def partner (ch : Nat) : Nat := if ch % 2 = 0 then ch + 1 else ch - 1

/-- LT units in the longest window, 20 µs. -/
def windowUnits : Nat := 20000 * unitsPerNs

/-- MAINT_WINDOW: a channel in service enters a window while its partner is in none. -/
def execMaintWindow (ch : Fin 8) (s : State) : Out :=
  let c := ch.val
  if s.blkState ⟨.memCh, c⟩ ≠ 2 ∨ s.inWindow c = true ∨ s.inWindow (partner c) = true then .next s
  else .next ({ s with mem := { s.mem with window := SMap.put s.mem.window c (some (s.elapsed + windowUnits)) } }.set
    .memChStaWindow c 1)

/-- MAINT_WINDOW_END. -/
def execMaintWindowEnd (ch : Fin 8) (s : State) : Out :=
  .next ({ s with mem := { s.mem with window := SMap.put s.mem.window ch.val none } }.set .memChStaWindow ch.val 0)

/-- RANK_RETRAIN: an installed rank is retrained inside its channel's window. -/
def execRankRetrain (ch : Fin 8) (rank : Fin 2) (s : State) : Out :=
  if s.inWindow ch.val ∧ rank.val < s.get .memChStaRanks ch.val then .next (s.bump .memChRetrainRetrains ch.val) else .next s

/-- Show which channels hold extension copies: both of their pair may (R448). -/
def State.showExtHosts (s : State) : State :=
  (List.range 8).foldl (fun s c =>
    s.set .memChStaExtHost c (bit ([c, partner c].all (fun d =>
      s.blkState ⟨.memCh, d⟩ == 2 && (SMap.find s.mem.fast d).isSome)))) s

/-- CHANNEL_FAIL: the channel goes through repair to disabled, and a device fault is raised (R449, R456). -/
def execChannelFail (ch : Fin 8) (s : State) : Out :=
  let c := ch.val
  let s := s.cairnRec .channelFail (some ⟨.memCh, c⟩) [BitVec.ofNat 8 c]
  let s := s.leaveService ⟨.memCh, c⟩
  let s := { s with mem := { s.mem with window := SMap.put s.mem.window c none, fast := SMap.put s.mem.fast c none } }
  .next (((s.set .memChStaWindow c 0).setBack { s.back with chFailed := true }).showExtHosts)

/-! ### Calibration and monitors (R86, R450-R452) -/

/-- CAL_MEASURE: a lane's die parts are measured; they take effect from the next epoch beginning on.  A lane that is disabled or in
training is skipped (R450). -/
def execCalMeasure (l : LaneIx) (rxDie txDie : BitVec 32) (s : State) : Out :=
  let c := s.lane l.val
  if (s.lanePort l.val).isNone || c.training then .next s
  else
    let s := s.noteTqw.setLane l.val { c with newRx := some rxDie.toInt, newTx := some txDie.toInt, measured := true }
    .next ((s.set .portCalStaLastEpoch l.val (s.epoch % 4294967296)).judgeLane l.val).noteTqw

/-- Units of 0.0625 °C. -/
def degC (n : Int) : Int := 16 * n

/-- THERMAL_SENSE: the hottest and coldest of the die sensors; warn and over are recorded as they set, and the extremes raise the
temperature alarm (R307, R451). -/
def execThermalSense (hottest coldest : BitVec 16) (s : State) : Out :=
  let h := hottest.toInt
  let warn := decide (degC 100 ≤ h)
  let past := decide (degC 105 < h)
  let wasWarn := s.is .sysThermStaWarn
  let wasOver := s.is .sysThermStaOver
  let s := ((s.set .sysThermStaHottest 0 hottest.toNat).set .sysThermStaWarn 0 (bit warn)).set .sysThermStaOver 0 (bit past)
  let s := if warn && !wasWarn then s.cairnRec .thermal none (1#8 :: leBytes hottest.toNat 2) else s
  let s := if past && !wasOver then s.cairnRec .thermal none (2#8 :: leBytes hottest.toNat 2) else s
  .next (s.thermAlarm (decide (coldest.toInt < degC (-50)) || decide (degC 125 < h)))

/-- Header settings: the lowest and highest, in mV (R452). -/
def headerMin : Nat := 700
def headerMax : Nat := 745

/-- An engine's header setting and the elapsed time of its last step. -/
def State.header (s : State) (e : Nat) : Nat × Nat := SMap.getD s.back.headers e (headerMin, 0)

/-- Has an engine's last step been 10 ms ago or longer, or has it made none? -/
def State.mayStep (s : State) (e : Nat) : Bool :=
  match SMap.find s.back.headers e with
  | none => true
  | some h => decide (h.2 + 10000000 * unitsPerNs ≤ s.elapsed)

/-- AGING_READ: an engine's margin is read; below 15 mV its header rises one step, held while a supply warning is active, and at the
highest setting it is predicted to fail (R452). -/
def execAgingRead (engine : Nat) (marginMv : Nat) (s : State) : Out :=
  let s := s.setBack { s.back with margins := SMap.put s.back.margins engine (some marginMv) }
  let s := s.set .sysAvsStaMargin 0 (min 65535 ((s.back.margins.map (·.2)).foldl min marginMv))
  let h := s.header engine
  if 15 ≤ marginMv then .next s
  else if h.1 < headerMax then
    if s.supplyWarn || !s.mayStep engine then .next s
    else
      let v := h.1 + 5
      let s := s.setBack { s.back with headers := SMap.put s.back.headers engine (some (v, s.elapsed)) }
      .next (s.set .sysAvsStaMaxMv 0 (max v (s.get .sysAvsStaMaxMv)))
  else if (SMap.find s.back.predicted engine).isSome then .next s
  else .next ((s.setBack { s.back with predicted := SMap.put s.back.predicted engine (some ()) }).bump .sysAvsStaPredicted)

/-! ### Telemetry (R455) -/

/-- What a count grew by over the epoch closed last. -/
def State.grew (s : State) (i : Nat) : Nat := s.back.base.getD i 0 - s.back.basePrev.getD i 0

/-- The 128 bytes of a frame.  Package power and rail currents are measured values the spec gives no rule for: free values. -/
def State.telemetry (s : State) : Bytes :=
  let spare := fun (a : Nat) => (List.range 8).foldl (fun n i => n + 2 ^ i * bit (!s.is .spurRidgeStaSpareAvail (a + i))) 0
  sliceB (leBytes (s.epoch - 1) 8 ++ leBytes (s.get .crestTqwTqwEpoch) 4 ++ leBytes (s.get .sysThermStaHottest) 2 ++
    leBytes s.free.toNat 2 ++ (List.range 9).flatMap (fun i => leBytes (s.get .sysRailMv i) 2) ++
    (List.range 9).flatMap (fun i => leBytes (s.free (1 + i)).toNat 2) ++ leBytes (s.grew 0) 4 ++ leBytes (s.grew 1) 4 ++
    leBytes (s.grew 2) 4 ++ leBytes (s.grew 3) 4 ++ leBytes (s.get .sysAvsStaMargin) 2 ++ leBytes (spare 0) 1 ++ leBytes (spare 8) 1 ++
    leBytes (bit (s.is .sysThermStaWarn) + 2 * bit s.supplyWarn + 4 * bit (!s.is .ciphStaSpareAvail) + 8 * bit s.back.chFailed) 1) 0 128

/-- TELEMETRY_FRAME: the frame of the epoch closed last is written to its slot, and signalled if SYS_TELEM_CFG says so. -/
def execTelemetryFrame (s : State) : Out :=
  if s.epoch = 0 then .next s
  else
    let d := s.telemetry
    let k := (s.epoch - 1) % 8
    let s' := (List.range 16).foldl (fun s w => s.setReg .sysTelem (k * 16 + w) (BitVec.ofNat 64 (leAt d (8 * w) 8))) s
    let s' := (s'.setBack { s'.back with late := some (s.grew 3) }).useFree 10
    .next (if s'.is .sysTelemCfgIrq then s'.signal 0 (s'.get .sysTelemCfgVec) else s')

/-! ### Sleep and failures (R456, R457) -/

/-- The L3 block a sleep concerns. -/
def sleepBlk : SleepBlock → Blk
  | .core c => ⟨.core, c.val⟩
  | .port n => ⟨.port, n.val⟩
  | .memCh ch => ⟨.memCh, ch.val⟩

/-- BLOCK_SLEEP: a block disabled for more than 1 s is power-gated. -/
def execBlockSleep (b : SleepBlock) (s : State) : Out :=
  let k := sleepBlk b
  if s.blkState k = 1 ∧ SMap.getD s.offAt k.key 0 + unitsPerSec < s.elapsed then .next (s.setBlkState k 3) else .next s

/-- LANE_PAIR_FAIL: every port that uses the pair loses its link and shows a local fault; a device fault is raised. -/
def execLanePairFail (m : Fin 128) (s : State) : Out :=
  let ports := ([2 * m.val, 2 * m.val + 1].filterMap s.lanePort).eraseDups
  let s := ports.foldl (fun s p => ((s.set .portStaLink p 0).set .portStaAlign p 0).set .portStaLocalFault p 1) s
  .next ((s.cairnRec .lanePairFail (some ⟨.port, ports.headD (2 * m.val)⟩) [BitVec.ofNat 8 m.val]).noteTqw)

end Sys2Proof.Machine
end

