-- ==== Sys2Proof/Machine/CairnOps.lean ====
section
/-! DEFINITION. The Cairn event recorder: codes, records, rate limits, the queue, the mirror, the flash areas and the cursors
(chapter 19). -/

namespace Sys2Proof.Machine

/-! ### Codes (R472) -/

/-- Event code, severity, and whether the code is exempt from rate limits. -/
def CairnCode.info : CairnCode → Nat × Nat × Bool
  | .crestStep => (0x0001, 1, true) | .replicaLimit => (0x0002, 3, false) | .refLost => (0x0003, 2, false)
  | .cmpStale => (0x0004, 1, false) | .calStale => (0x1001, 2, false) | .lanePairFail => (0x1002, 3, false)
  | .tblParity => (0x2001, 2, false) | .conLate => (0x2002, 3, false) | .waitCycle => (0x3001, 3, true)
  | .dispatchWait => (0x3002, 3, false) | .spurSpare => (0x3003, 3, true) | .scratchLost => (0x3004, 3, false)
  | .ccFail => (0x3005, 3, true) | .bufFault => (0x4001, 3, false) | .rcptLate => (0x5001, 2, false)
  | .leafUnstaged => (0x5002, 3, false) | .twinLost => (0x6001, 2, false) | .wqFull => (0x6002, 3, false)
  | .ciphAlarm => (0x7001, 4, true) | .pnHigh => (0x7002, 2, false) | .ciphCore => (0x7003, 3, true)
  | .noTxSa => (0x7004, 3, false) | .hashSpare => (0x8001, 3, true) | .contain => (0x9001, 2, true)
  | .hostLoss => (0x9002, 2, true) | .drainShort => (0x9003, 2, false) | .peerLost => (0xA001, 3, false)
  | .memUncorr => (0xB001, 3, false) | .pageHash => (0xB002, 3, false) | .channelFail => (0xB003, 3, true)
  | .version => (0xC001, 1, true) | .incWrap => (0xD001, 1, true) | .tmrFix => (0xD002, 2, false)
  | .tmrLost => (0xD003, 3, false) | .counterStuck => (0xD004, 2, true) | .supplyWarn => (0xD005, 2, true)
  | .thermal => (0xD006, 2, false) | .scrubOverrun => (0xD007, 1, false) | .swapCancel => (0xD008, 1, false)
  | .powerOn => (0xD009, 1, true) | .cairnLost => (0xD00A, 2, true) | .cairnBadLoad => (0xD00B, 2, true)
  | .clkLoss => (0xD00C, 3, true)

/-- The event code. -/
def CairnCode.num (c : CairnCode) : Nat := c.info.1
/-- Its severity. -/
def CairnCode.sev (c : CairnCode) : Nat := c.info.2.1
/-- Is it never suppressed? -/
def CairnCode.exempt (c : CairnCode) : Bool := c.info.2.2

/-- Every code. -/
def allCodes : List CairnCode :=
  [.crestStep, .replicaLimit, .refLost, .cmpStale, .calStale, .lanePairFail, .tblParity, .conLate, .waitCycle, .dispatchWait,
   .spurSpare, .scratchLost, .ccFail, .bufFault, .rcptLate, .leafUnstaged, .twinLost, .wqFull, .ciphAlarm, .pnHigh, .ciphCore,
   .noTxSa] ++
  [.hashSpare, .contain, .hostLoss, .drainShort, .peerLost, .memUncorr, .pageHash, .channelFail, .version, .incWrap, .tmrFix,
   .tmrLost, .counterStuck, .supplyWarn, .thermal, .scrubOverrun, .swapCancel, .powerOn, .cairnLost, .cairnBadLoad, .clkLoss]

/-- Queue places, birth records, circulating records (R462, R464). -/
def cairnQueue : Nat := 256
def birthSize : Nat := 8192
def circSize : Nat := 65536

/-- Update Cairn. -/
def State.setCairn (s : State) (c : Cairn) : State := { s with cairn := c }

/-! ### What its registers show -/

/-- Lowest record number of the circulating area when `next` is the number of the next record. -/
def circOldest (next : Nat) : Nat := next - circSize

/-- Highest erase count of a block among `blocks` that rotate, when `fills` blocks have been filled: a block is erased before each
use after its first. -/
def erasesOf (fills blocks : Nat) : Nat := ceilDiv fills blocks - 1

/-- Highest erase count of a block of device `d`'s Cairn partition (R453, R464, R467): the circulating area's 3,840 or 1,280 blocks of
64 records and the counter log's 128 of 512 entries. -/
def Cairn.maxErase (c : Cairn) (d : Nat) : Nat :=
  if c.flashPresent.getD d false then
    max (erasesOf (ceilDiv c.circWrites 64) (if c.flashBig.getD d true then 3840 else 1280))
      (erasesOf (ceilDiv c.logWrites 512) 128)
  else 0

/-- Show Cairn's counts in its registers. -/
def State.showCairn (s : State) : State :=
  let c := s.cairn
  let s := ((s.set .cairnStaNext 0 c.next).set .cairnStaLoaded 0 (bit c.loaded)).set .cairnStaBirth 0 (min c.next birthSize)
  let s := s.set .cairnOldestOldest 0 (circOldest c.next)
  let s := (s.set .cairnLifeOpSec 0 c.opSec.toNat).set .cairnLifePwrCyc 0 c.pwrCyc.toNat
  (s.set .sysFlashWearMaxErase 0 (min (c.maxErase 0) 131071)).set .sysFlashWearMaxErase 1 (min (c.maxErase 1) 131071)

/-! ### Rate limits (R468, R469) -/

/-- Burst and rate in force for a code. -/
def State.cairnRate (s : State) (code : Nat) : Nat × Nat :=
  match (List.range 32).find? (fun i => s.get .cairnRateCode i == code) with
  | some i => (s.get .cairnRateBurst i, s.get .cairnRateRate i)
  | none => (64, 16)

/-- A code's bucket now: its level in tokens × `unitsPerSec`; a bucket not held is full. -/
def State.cairnLevel (s : State) (code : Nat) : Nat :=
  let (burst, rate) := s.cairnRate code
  match SMap.find s.cairn.buckets code with
  | none => burst * unitsPerSec
  | some b => min (burst * unitsPerSec) (b.level + rate * (s.elapsed - b.last))

/-- Store a code's bucket level as it is now. -/
def State.putLevel (s : State) (code level : Nat) : State :=
  s.setCairn { s.cairn with buckets := SMap.put s.cairn.buckets code (some { level := level, last := s.elapsed }) }

/-- Write rate entry `i`: each bucket keeps its level, capped at the new burst. -/
def State.cairnRateWrite (s : State) (i : Nat) (v : BitVec 64) : State :=
  let codes := [s.get .cairnRateCode i, bitsOf v.toNat 63 48].filter (· != 0)
  let s := codes.foldl (fun s c => s.putLevel c (s.cairnLevel c)) s
  let s := s.setReg .cairnRate i v
  codes.foldl (fun s c => s.putLevel c (s.cairnLevel c)) s

/-! ### Records (R459, R460) -/

/-- The 64 bytes of a record: number `n`, severity code and flags as at acceptance. -/
def cairnBytes (e : CairnEvt) (n supp : Nat) (held : Bool) (opSec pwrCyc : BitVec 32) : Bytes :=
  let flags := bit (decide (n < birthSize)) + 2 * bit held + 4 * bit e.lt.isNone + 8 * bit e.blk.isNone
  let ref := (e.blk.getD 0).toNat
  let b := leBytes e.code.num 2 ++ leBytes e.code.sev 1 ++ leBytes flags 1 ++ leBytes (bitsOf ref 15 0) 2 ++
    leBytes (bitsOf ref 63 32) 4 ++ leBytes (min supp 0xFFFF) 2 ++ leBytes opSec.toNat 4 ++ leBytes pwrCyc.toNat 4 ++
    leBytes (e.lt.getD 0).toNat 8 ++ sliceB e.data 0 32
  b ++ leBytes (crc32c b).toNat 4

/-- Does a record's check hold? -/
def cairnGood (b : Bytes) : Bool := decide (leBytes (crc32c (b.take 60)).toNat 4 = (b.drop 60).take 4)

/-! ### The flash write budget (R453) -/

/-- Records per second of a device, and the burst. -/
def Cairn.wearRate (c : Cairn) (d : Nat) : Nat := if c.flashBig.getD d true then 15 else 5
def wearBurst : Nat := 65536

/-- A device's budget now, in records × `unitsPerSec`. -/
def State.wearLevel (s : State) (d : Nat) : Nat :=
  match SMap.find s.back.wear d with
  | none => wearBurst * unitsPerSec
  | some (l, t) => min (wearBurst * unitsPerSec) (l + s.cairn.wearRate d * (s.elapsed - t))

/-- The devices that are present. -/
def Cairn.devs (c : Cairn) : List Nat := (List.range 2).filter (fun d => c.flashPresent.getD d false)

/-- Take one record of each present device's budget, or, if one has none left, count the record as held from flash
(DESIGN CHOICE, assumption 52). -/
def State.takeWear (s : State) : Bool × State :=
  let past := s.cairn.devs.filter (fun d => decide (s.wearLevel d < unitsPerSec))
  if past.isEmpty then
    (false, s.cairn.devs.foldl (fun s d =>
      { s with back := { s.back with wear := SMap.put s.back.wear d (some (s.wearLevel d - unitsPerSec, s.elapsed)) } }) s)
  else (true, past.foldl (fun s d => s.bump .sysFlashWearOver d) s)

/-! ### Acceptance (R462, R468) -/

/-- Put a record into the queue, which has a free place. -/
def State.cairnPut (s : State) (e : CairnEvt) : State :=
  let code := e.code.num
  let (held, s) := s.takeWear
  let c := s.cairn
  let b := cairnBytes e c.next (SMap.getD c.suppressed code 0) held c.opSec c.pwrCyc
  let c : Cairn := { c with
    queue := c.queue ++ [(c.next, b)], next := c.next + 1, suppressed := SMap.put c.suppressed code none }
  (s.setCairn c).showCairn

/-- The queue has a free place after discards: one CAIRN_LOST record takes it, ahead of any record that arrives later. -/
def State.cairnLostNow (s : State) : State :=
  let c := s.cairn
  if 0 < c.lostSince ∧ c.queue.length < cairnQueue then
    let e : CairnEvt := { code := .cairnLost, blk := none, lt := if s.crest.running then some s.lt else none,
                          data := sliceB (leBytes c.lostSince 8) 0 32 }
    (s.setCairn { c with lostSince := 0 }).cairnPut e
  else s

/-- The front end takes a record: its bucket, then a place in the queue. -/
def State.cairnTake (s : State) (e : CairnEvt) : State :=
  let code := e.code.num
  if !e.code.exempt && decide (s.cairnLevel code < unitsPerSec) then
    let n := SMap.getD s.cairn.suppressed code 0 + 1
    (s.setCairn { s.cairn with suppressed := SMap.put s.cairn.suppressed code (some n) }).bump .cairnSuppSuppressed
  else
    let s := s.cairnLostNow
    if s.cairn.queue.length < cairnQueue then
      let s := if e.code.exempt then s else s.putLevel code (s.cairnLevel code - unitsPerSec)
      s.cairnPut e
    else (s.setCairn { s.cairn with lostSince := s.cairn.lostSince + 1 }).bump .cairnQlostLost

/-- The record that is accepted next: of those raised at one instant, the first of the lowest domain code (R462). -/
def cairnNext (l : List CairnEvt) : Option (CairnEvt × List CairnEvt) :=
  match l with
  | [] => none
  | e :: t =>
    let run := (e :: t).takeWhile (fun x => decide (x.lt = e.lt))
    let dom := fun (x : CairnEvt) => x.code.num / 4096
    let low := run.foldl (fun a x => min a (dom x)) (dom e)
    let pre := run.takeWhile (fun x => dom x != low)
    match (e :: t).drop pre.length with
    | [] => none
    | x :: post => some (x, pre ++ post)

/-! ### Mirror and flash (R464-R466) -/

/-- A sparse map of records without those that have left the circulating area and are in no birth area. -/
def dropOld (m : SMap Bytes) (next : Nat) : SMap Bytes :=
  m.filter (fun e => decide (e.1 < birthSize) || decide (circOldest next ≤ e.1))

/-- The record's flag for being held from flash. -/
def wearHeld (b : Bytes) : Bool := bitOf (b.getD 3 0).toNat 1

/-- One mirrored record is written to the devices present. -/
def State.cairnFlash (s : State) (n : Nat) (b : Bytes) : State :=
  let c := s.cairn
  let c : Cairn := { c with flashed := n + 1 }
  if wearHeld b || c.devs.isEmpty then (s.setCairn c).showCairn
  else
    let birth := if n < birthSize then SMap.put c.flashBirth n (some b) else c.flashBirth
    let circ := (SMap.put c.flashCirc n (some b)).filter (fun e => decide (circOldest (n + 1) ≤ e.1))
    (s.setCairn { c with flashBirth := birth, flashCirc := circ, circWrites := c.circWrites + 1 }).showCairn

/-- Append a counter-log entry (R467). -/
def State.logCounters (s : State) : State :=
  let c := s.cairn
  let log := c.counterLog ++ [(c.opSec, c.pwrCyc)]
  let log := log.drop (log.length - 65536)
  (s.setCairn { c with counterLog := log, logWrites := c.logWrites + 1 }).showCairn

/-! ### Cursors (R470, R471) -/

/-- Latch the record a cursor names. -/
def Cairn.latched (c : Cairn) (k : CairnCursor) : CairnCursor :=
  let at_ (sta : Nat) : CairnCursor := { k with sta := sta, latch := none }
  let bound := if k.circ then c.next else min c.next birthSize
  if bound ≤ k.recNo then at_ 1
  else if k.circ ∧ k.recNo < circOldest c.next then at_ 2
  else match SMap.find c.mirror k.recNo with
    | some b => { k with sta := 0, latch := some b }
    | none => if !c.loaded ∨ (SMap.find c.queue k.recNo).isSome then at_ 3 else at_ 2

/-- A cursor moved on by one record. -/
def CairnCursor.onward (k : CairnCursor) : CairnCursor := { k with recNo := (k.recNo + 1) % 2 ^ 48 }

/-- Bytes 8w to 8w + 7 of a latch. -/
def latchWord (l : Option Bytes) (w : Nat) : BitVec 64 :=
  match l with
  | none => 0
  | some b => BitVec.ofNat 64 (leAt b (8 * w) 8)

/-- PF0's cursor. -/
def State.cursor (s : State) : CairnCursor :=
  { circ := s.is .cairnCursorArea, recNo := s.get .cairnCursorRec, sta := s.get .cairnCursorSta, latch := s.cairn.latch }

/-- Store PF0's cursor. -/
def State.setCursor (s : State) (k : CairnCursor) : State :=
  (((s.set .cairnCursorArea 0 (bit k.circ)).set .cairnCursorSta 0 k.sta).set .cairnCursorRec 0 k.recNo).setCairn
    { s.cairn with latch := k.latch }

/-- The 64-bit cursor word of a cursor. -/
def CairnCursor.word (k : CairnCursor) : BitVec 64 := BitVec.ofNat 64 (bit k.circ <<< 63 ||| k.sta <<< 60 ||| k.recNo)

end Sys2Proof.Machine
end

