-- ==== Sys2Proof/Machine/Cairn.lean ====
section
/-! DEFINITION. The commands of the Cairn event recorder (chapter 19) and of its MCTP path (R512). -/

namespace Sys2Proof.Machine

/-- CAIRN_ACCEPT: the front end accepts, suppresses or discards the record that is next in order (R462, R468). -/
def execCairnAccept (s : State) : Out :=
  match cairnNext s.cairn.raised with
  | none => .next s
  | some (e, rest) => .next ((s.setCairn { s.cairn with raised := rest }).cairnTake e)

/-- CAIRN_LOST. -/
def execCairnLost (s : State) : Out := .next s.cairnLostNow

/-- CAIRN_DRAIN: from power-good on, the oldest queued record goes to the mirror (R462, R466). -/
def execCairnDrain (s : State) : Out :=
  match s.cairn.queue with
  | (n, b) :: t =>
    if s.sec.good then
      .next (s.setCairn { s.cairn with queue := t, mirror := dropOld (SMap.put s.cairn.mirror n (some b)) s.cairn.next })
    else .next s
  | [] => .next s

/-- CAIRN_FLASH_WRITE: the oldest mirrored record not yet written goes to flash, unless a supply warning holds flash writes (R465);
a record held by the wear budget is passed over (R453). -/
def execCairnFlashWrite (s : State) : Out :=
  let n := s.cairn.flashed
  if s.supplyWarn then .next s
  else match SMap.find s.cairn.mirror n with
    | some b => .next (s.cairnFlash n b)
    | none =>
      if n < s.cairn.next ∧ (SMap.find s.cairn.queue n).isNone then .next (s.setCairn { s.cairn with flashed := n + 1 })
      else .next s

/-- CAIRN_LOAD: the fill of the mirror that began at the gate's opening, the bundle's waiting or Recovery Hold completes; `bad` records
failed their check and stay as read (R466). -/
def execCairnLoad (bad : Nat) (s : State) : Out :=
  let c := s.cairn
  if c.loaded || !c.loading then .next s
  else
    let m := c.flashBirth.foldl (fun m e => SMap.put m e.1 (some e.2))
      (c.flashCirc.foldl (fun m e => SMap.put m e.1 (some e.2)) [])
    let m := c.mirror.foldl (fun m e => SMap.put m e.1 (some e.2)) m
    let s := (s.setCairn { c with mirror := dropOld m c.next, loaded := true }).showCairn
    .next (if bad = 0 then s else s.cairnRec .cairnBadLoad none (leBytes bad 8))

/-- COUNTER_LOG_APPEND: 60 s have passed (R467); a supply warning holds the write (R477). -/
def execCounterLogAppend (s : State) : Out :=
  if s.supplyWarn then .next (s.setSec { s.sec with held := s.sec.held ++ [.counterLog] }) else .next s.logCounters

/-- OP_SEC_TICK: a second of the always-on clock, 32,768 slow-clock edges; the counter sticks at its maximum (R437, R441, R467). -/
def execOpSecTick (s : State) : Out :=
  let s := s.bump .sysSlowEpochEdges 0 32768
  if s.cairn.opSec = 0xFFFFFFFF#32 then .next (s.cairnRec .counterStuck none (leBytes 0x880 8))
  else .next (s.setCairn { s.cairn with opSec := s.cairn.opSec + 1 }).showCairn

/-- CAIRN_CURSOR_WRITE: PF0 sets its cursor; the latch is discarded (R470). -/
def execCairnCursorWrite (v : BitVec 64) (s : State) : Out :=
  .next (s.setCursor { s.cursor with circ := bitOf v.toNat 63, recNo := bitsOf v.toNat 47 0, latch := none })

/-- CAIRN_WINDOW_LATCH: PF0 reads CAIRN_WINDOW[0] (R470). -/
def execCairnWindowLatch (s : State) : Out :=
  let k := s.cairn.latched s.cursor
  .next { s.setCursor k with readData := latchWord k.latch 0 }

/-- CAIRN_WINDOW_ADVANCE: PF0 reads CAIRN_WINDOW[7] (R470). -/
def execCairnWindowAdvance (s : State) : Out :=
  let k := s.cursor
  let s := { s with readData := latchWord k.latch 7 }
  .next (if k.sta = 0 then s.setCursor k.onward else s)

/-- CAIRN_RATE_WRITE: a write to rate entry `i`; a reserved burst or rate makes it ignored (R11, R469). -/
def execCairnRateWrite (i : Fin 32) (v : BitVec 64) (s : State) : Out :=
  if bitsOf v.toNat 47 32 = 0 ∨ bitsOf v.toNat 15 0 = 0 then .next (s.ignDomain 13) else .next (s.cairnRateWrite i.val v)

/-- Can MCTP messages reach the target: power is good and it has its dynamic address (R510)? -/
def State.mctpUp (s : State) : Bool := s.sec.good && s.back.i3c.isSome

/-- CURSOR_SET: the MCTP path's cursor takes the value and the command returns it (R512). -/
def execCursorSet (v : BitVec 64) (s : State) : Out :=
  if s.mctpUp then
    let k := { s.cairn.mctp with circ := bitOf v.toNat 63, recNo := bitsOf v.toNat 47 0, latch := none }
    .next ((s.setCairn { s.cairn with mctp := k }).emit (.mctp (leBytes v.toNat 8)))
  else .next s

/-- MCTP_READ: the record the MCTP cursor names is latched and returned after the cursor word; with sta 0 the cursor advances (R512). -/
def execMctpRead (s : State) : Out :=
  if s.mctpUp then
    let k := s.cairn.latched s.cairn.mctp
    let ans := leBytes k.word.toNat 8 ++ k.latch.getD (List.replicate 64 0)
    .next ((s.setCairn { s.cairn with mctp := if k.sta = 0 then k.onward else k }).emit (.mctp ans))
  else .next s

end Sys2Proof.Machine
end

