-- ==== Sys2Proof/Machine/Contracts.lean ====
section
/-! DEFINITION. Contract requests and the instants of contracts: ADMIT, CHANGE, RETIRE, QUERY, RECHECK, activation, change, retirement
and release (chapter 07). -/

namespace Sys2Proof.Machine

/-! ### What follows a change of the contract table -/

/-- The number of contracts that name a port. -/
def State.portContracts (s : State) (n : Nat) : Nat :=
  (s.con.versions.filter (fun x => x.2.any (fun v => s.env.names v.body n))).length

/-- Show a port's, and a group's, number of contracts. -/
def State.countPort (s : State) (n : Nat) : State := s.set .portStaContracts n (min (s.portContracts n) 0xFFFF)
def State.countGroup (s : State) (g : Nat) : State :=
  s.set .spurGrpStaContracts g
    (min (s.con.versions.filter (fun x => x.2.any (fun v => v.body.group == g))).length 0xFFFF)

/-- Show the counts of every port and of some groups, and the number of contracts (PORT_STA, SPUR_GRP_STA, ING_ADM_STA). -/
def State.recount (s : State) (gs : List Nat) : State :=
  let s := gs.foldl (fun s g => s.countGroup g) s
  let s := (List.range 256).foldl (fun s n => s.countPort n) s
  s.set .ingAdmStaContracts 0 s.con.versions.length

/-- Write the queueing terms D_q of some ports; frames whose clamped launch instant now differs are counted (R230). -/
def State.writeDly (s : State) (ps : List Nat) : State :=
  let e := s.env
  ps.foldl (fun s p => (List.range 16).foldl (fun s q =>
    (s.set .tmQDlyDly (p * 16 + q) (if e.carries p q then e.delay p q (s.banksFor p) else 0)).countClamped p q) s) s

/-- Store the versions of a contract, none leaving it in state 0; counts and queueing terms of what it named or names follow
(R230). -/
def State.setVers (s : State) (c : Nat) (vs : List ConVer) : State :=
  let old := SMap.getD s.con.versions c []
  let gs := ((old ++ vs).map (fun v => v.body.group)).eraseDups
  let touched := fun (t : State) => (List.range 256).filter (fun n => (old ++ vs).any (fun v => t.env.names v.body n))
  let s := { s with con := { s.con with versions := SMap.setD s.con.versions c vs [] } }
  let ps := touched s
  ((s.recount gs).writeDly ps).showShort

/-- The versions of a contract. -/
def State.vers (s : State) (c : Nat) : List ConVer := SMap.getD s.con.versions c []

/-- Clear the marks of the ports of a contract. -/
def State.clearMarks (s : State) (r : ConRec) : State :=
  ((List.range 256).filter (fun n => s.env.names r n)).foldl (fun s n => s.clearMark n) s

/-- A contract's state code (ING_CON_STA). -/
def State.conState (s : State) (c : Nat) : Nat := s.get .ingConStaState c

/-- The contract table digest at LT `t` (R214): over every version whose interval contains it, in ascending contract number. -/
def State.conDigest (s : State) (t : BitVec 64) : Bytes :=
  sha384 ((s.con.versions.flatMap (fun x => (x.2.filter (fun v => v.active && s.spans v t)).map (fun v => conBytesBE { v.body with inc := v.inc }))).flatten)

/-- An activation or retirement instant `t` has been reached: the digest and its instant change, and the history holds one entry for
the instant (R214, R252). -/
def State.digestAt (s : State) (t : BitVec 64) : State :=
  let d := s.conDigest t
  let s := (List.range 6).foldl (fun s i => s.setReg .ingAdmDigest i (BitVec.ofNat 64 (leAt d (8 * i) 8))) s
  let s := s.setReg .ingAdmDigestAt 0 t
  let old := s.con.history.filter (fun x => !(x.1 == t && x.2.1 == s.elapsed))
  { s with con := { s.con with history := old ++ [(t, s.elapsed, d)] } }

/-! ### Requests (R192-R194) -/

/-- The 32-byte reply. -/
def conReply (c inc status code impact bc bp : Nat) (t : BitVec 64) : Bytes :=
  leBytes c 2 ++ leBytes inc 2 ++ leBytes status 1 ++ leBytes code 1 ++ leBytes impact 2 ++ leBytes (min bc 0xFFFFFFFF) 4 ++
  leBytes (min bp 0xFFFFFFFF) 4 ++ leBytes t.toNat 8 ++ List.replicate 8 0

/-- Count an answered request, and a refused one (ING_ADM_REQ, ING_ADM_REFUSED). -/
def State.answered (s : State) (status : Nat) : State :=
  let s := s.bump .ingAdmReqAnswered
  if status = 1 ∨ status = 2 ∨ status = 3 then s.bump .ingAdmRefusedRefused else s

/-- A plain answer. -/
def State.conSay (s : State) (r : ConRec) (inc status : Nat) : State × Bytes :=
  (s.answered status, conReply r.contract inc status 0 0 0 0 r.at_)

/-- An IMPACT refusal tells a function the contract only when it is its own (R213). -/
def State.hideImpact (s : State) (f : Nat) (v : Verdict) : Verdict :=
  if v.code = rcImpact ∧ !((s.vers v.impact).any (fun x => x.body.tenant == f)) then ⟨v.code, 0xFFFF, 0, 0⟩ else v

/-- Is a record outside what function `f` may name: another tenant byte, another's contract, group, port or class (R194, R354)? -/
def State.conDenied (s : State) (f : Nat) (r : ConRec) (full : Bool) : Bool :=
  r.tenant != f || (s.vers r.contract).any (fun v => v.body.tenant != f) ||
  (full && s.get .spurGrpStaOwner r.group != f && s.grpOn r.group) ||
  (match SMap.find s.ten.tenants f with
   | some t => full && (r.ins.any (fun n => !bitOf t.grant.ports n) || (s.env.egress r).any (fun n => !bitOf t.grant.ports n) ||
       !bitOf t.grant.classes r.gClass || !bitOf t.grant.classes r.yClass)
   | none => false)

/-- A new version of a record, its terms and incarnation as the judgment records them. -/
def Env.version (e : Env) (r : ConRec) (t : BitVec 64) : ConVer :=
  { body := r, inc := incNext (e.s.get .ingConStaInc r.contract), from_ := t, began := (e.s.instantOf t).toNat, terms := e.termsOf r.group }

/-- Judge a new version against the images `imgs`. -/
def State.judgeCon (s : State) (imgs : Nat → List Image) (r : ConRec) (change exempt : Bool) : Verdict × ConVer :=
  let e : Env := ⟨s, s.allVers, imgs⟩
  let v := e.version r r.at_
  (Env.judge ⟨s, s.allVers ++ [v], imgs⟩ v change exempt, v)

/-- The answer to a judged request. -/
def State.verdict (s : State) (f : Nat) (r : ConRec) (v : Verdict) (inc : Nat) : State × Bytes :=
  let h := s.hideImpact f v
  let status := if v.code ≠ 0 then 1 else if r.dryRun then 6 else 0
  (s.answered status, conReply r.contract inc status h.code h.impact h.bc h.bp r.at_)

/-- An admitted version's classifier entries are written: the contract is in state 1, or keeps state 2 with the old version's end
set (R208, R209). -/
def State.writeVer (s : State) (v : ConVer) (change : Bool) : State :=
  let c := v.body.contract
  let old := (s.vers c).map (fun w => if change && w.until_.isNone then { w with until_ := some v.from_, till := some v.began } else w)
  let s := old.foldl (fun s w => s.clearMarks w.body) ((s.setVers c (old ++ [v])).clearMarks v.body)
  if change then s else s.set .ingConStaState c 1

/-- The incarnation of a contract's latest version, 0 where it has none: what is or will be in force where a request changes nothing
(R194; DESIGN CHOICE, assumption 59); 0 too where it is another function's, of which a reply tells nothing (R213, R371). -/
def State.conInc (s : State) (f c : Nat) : Nat :=
  match (s.vers c).getLast? with
  | some v => if v.body.tenant = f then v.inc else 0
  | none => 0

/-- ADMIT of function `f` (R208); `exempt`: a bundle contract with at = 0.  A number still retiring answers RETIRING, any other in use
BUSY (DEDUCED, assumption 60). -/
def State.conAdmit (s : State) (f : Nat) (b : Bytes) (exempt : Bool) : State × Bytes :=
  let r := parseCon b
  let cur := s.conInc f r.contract
  if conMalformed b then s.conSay r cur 2
  else if s.conDenied f r true then s.conSay r cur 3
  else if s.conState r.contract = 3 then s.conSay r cur 5
  else if s.conState r.contract ≠ 0 ∨ s.vers r.contract ≠ [] then s.conSay r cur 4
  else
    let j := s.judgeCon s.liveImgs r false exempt
    let a := s.verdict f r j.1 (if j.1.code = 0 then j.2.inc else cur)
    if j.1.code = 0 ∧ !r.dryRun then (a.1.writeVer j.2 false, a.2) else a

/-- CHANGE of function `f` (R209), judged against the images `imgs` (R211). -/
def State.conChange (s : State) (f : Nat) (imgs : Nat → List Image) (b : Bytes) : State × Bytes :=
  let r := parseCon b
  let cur := s.conInc f r.contract
  if conMalformed b then s.conSay r cur 2
  else if s.conDenied f r true ∨ s.conState r.contract = 0 then s.conSay r cur 3
  else if s.conState r.contract ≠ 2 ∨ (s.vers r.contract).any (fun v => !v.active) then s.conSay r cur 4
  else
    let j := s.judgeCon imgs r true false
    let a := s.verdict f r j.1 (if j.1.code = 0 then j.2.inc else cur)
    if j.1.code = 0 ∧ !r.dryRun then (a.1.writeVer j.2 true, a.2) else a

/-- The end of a contract's latest version is set and the contract moves to state 3 (R210). -/
def State.endCon (s : State) (c : Nat) (t : BitVec 64) : State :=
  let vs := (s.vers c).map (fun v => if v.until_.isNone then { v with until_ := some t, till := some (s.instantOf t).toNat } else v)
  (vs.foldl (fun s v => s.clearMarks v.body) (s.setVers c vs)).set .ingConStaState c 3

/-- The computed bounds of a contract's version in force, under its ports' active banks. -/
def State.boundsNow (s : State) (c : Nat) : Nat × Nat :=
  match (s.vers c).find? (fun v => v.active) with
  | some v => s.env.bounds v (fun p => [⟨s.tmBank p, .active⟩])
  | none => (0, 0)

/-- RETIRE of function `f`; a dry run changes nothing (R194, R210).  Of R206's checks only TIMING applies (assumption 34). -/
def State.conRetire (s : State) (f : Nat) (b : Bytes) : State × Bytes :=
  let r := parseCon b
  let cur := s.conInc f r.contract
  if conReserved b then s.conSay r cur 2
  else if s.conDenied f r false ∨ s.conState r.contract = 0 then s.conSay r cur 3
  else if s.conState r.contract ≠ 2 ∨ (s.vers r.contract).any (fun v => !v.active) then s.conSay r cur 4
  else if !s.timingOk r.at_ then
    let bd := s.boundsNow r.contract
    (s.answered 1, conReply r.contract cur 1 rcTiming 0 bd.1 bd.2 r.at_)
  else if r.dryRun then s.conSay r cur 6
  else ((s.endCon r.contract r.at_).answered 0, conReply r.contract cur 0 0 0 0 0 r.at_)

/-- QUERY of function `f`: the record in force, then the reply (R194; R359 has them the other way round, assumption 101). -/
def State.conQuery (s : State) (f : Nat) (b : Bytes) : State × Bytes :=
  let r := parseCon b
  let cur := s.conInc f r.contract
  let vs := s.vers r.contract
  let shown := match (vs.filter (fun v => v.active)).getLast? with
    | some v => some v
    | none => vs.getLast?
  if conReserved b then s.conSay r cur 2
  else match shown with
  | none => s.conSay r cur 3
  | some v =>
    if s.conDenied f r false then s.conSay r cur 3
    else
      let e := s.env
      let bd := e.bounds v (fun p => [⟨s.tmBank p, .active⟩])
      (s.answered 0, conBytes { v.body with inc := v.inc } ++ conReply r.contract v.inc 0 0 0 bd.1 bd.2 v.body.at_)

/-- The banks a RECHECK of port `p` judges: its inactive banks, with the switch between Col lists that differ (R202, R228). -/
def State.recheckBanks (s : State) (p : Nat) : List Banks :=
  let b := s.colBank p
  let same := decide ((colBankRegs p b).map (fun x => s.reg x.1 x.2) = (colBankRegs p (1 - b)).map (fun x => s.reg x.1 x.2))
  [⟨1 - s.tmBank p, if same then .inactive else .across⟩]

/-- RECHECK: every contract on the port keeps its bounds under the inactive banks, and the port's mark is set; a dry run sets no mark
(R192, R194, R202, R206, R231). -/
def State.conRecheck (s : State) (f : Nat) (b : Bytes) : State × Bytes :=
  let r := parseCon b
  let p := leAt b 64 2
  if conReserved b || decide (255 < p) then s.conSay r 0 2
  else if r.tenant ≠ 0 ∨ f ≠ 0 then s.conSay r 0 3
  else
    let e := s.env
    let bs := fun n => if n = p then s.recheckBanks p else s.banksFor n
    let need := sumN ((e.queues p).map (fun q =>
        let a := e.agg p q
        ((Frac.ofNat a.1).add ((a.2.mul (Frac.ofNat (e.delay p q (bs p)))).div (Frac.ofNat 8))).ceil))
    let now := sumN ((e.queues p).map (fun q =>
        let a := e.agg p q
        ((Frac.ofNat a.1).add ((a.2.mul (Frac.ofNat (e.delay p q (s.banksFor p)))).div (Frac.ofNat 8))).ceil))
    let code := match e.portFails p (bs p) with
      | some c => if c = rcGate ∧ e.portClash p (bs p) then some rcQueue else some c
      | none => if e.portClash p (bs p) then some rcQueue else if contractReserve + now < e.bufferNeed + need then some rcBuffer else none
    match code with
    | some c => (s.answered 1, conReply r.contract 0 1 c 0 0 0 r.at_)
    | none => match e.impacted 65536 bs with
      | some x =>
        let h := s.hideImpact f ⟨rcImpact, x.1, x.2.1, x.2.2⟩
        (s.answered 1, conReply r.contract 0 1 rcImpact h.impact h.bc h.bp r.at_)
      | none =>
        if r.dryRun then s.conSay r 0 6
        else ((s.set .tmPortStaChecked p 1).answered 0, conReply r.contract 0 0 0 0 0 0 r.at_)

/-- The code of a CONTRACT request's body, and the record it carries (R192, R359). -/
def conCode (body : Bytes) : Nat := leAt body 0 1
def conRecord (body : Bytes) : Bytes := body.drop 8

/-- A CONTRACT request of the mailbox with code `code` (R192, R359): a body of another length, or with other than 0 in its bytes 1 to 7 or
a code that R192 does not list, is malformed; a body with the code of another request is no request of this one. -/
def State.conRequest (s : State) (f : Fn) (seq : BitVec 32) (code : Nat) (body : Bytes) (h : State → Bytes → State × Bytes) : State :=
  if inRange (conCode body) 1 5 && conCode body != code then s
  else s.submit f.val seq 0x10 false (fun s =>
    if body.length ≠ 168 ∨ conCode body ≠ code ∨ !zeroAt body 1 7 then s.reply f.val 0x10 1 0 []
    else
      let a := h s (conRecord body)
      a.1.reply f.val 0x10 0 0 a.2)

/-- ADMIT. -/
def execAdmitCon (f : Fn) (seq : BitVec 32) (body : Bytes) (s : State) : Out :=
  .next (s.conRequest f seq 1 body (fun s b => s.conAdmit f.val b false))
/-- CHANGE. -/
def execChange (f : Fn) (seq : BitVec 32) (body : Bytes) (s : State) : Out :=
  .next (s.conRequest f seq 2 body (fun s b => s.conChange f.val s.liveImgs b))
/-- RETIRE. -/
def execRetire (f : Fn) (seq : BitVec 32) (body : Bytes) (s : State) : Out :=
  .next (s.conRequest f seq 3 body (fun s b => s.conRetire f.val b))
/-- QUERY. -/
def execQuery (f : Fn) (seq : BitVec 32) (body : Bytes) (s : State) : Out :=
  .next (s.conRequest f seq 4 body (fun s b => s.conQuery f.val b))
/-- RECHECK. -/
def execRecheck (f : Fn) (seq : BitVec 32) (body : Bytes) (s : State) : Out :=
  .next (s.conRequest f seq 5 body (fun s b => s.conRecheck f.val b))

/-! ### Instants (R208-R210, R242) -/

/-- Has the ledger started (R242)? -/
def State.ledOn (s : State) : Bool := s.is .ledRcptStaStarted

/-- The version of a contract whose instant is still to come. -/
def State.nextVer (s : State) (c : Nat) : Option ConVer := (s.vers c).find? (fun v => !v.active)

/-- A version comes into force: incarnation, bounds shown, and the digest (R208, R209, R214). -/
def State.inForceNow (s : State) (c : Nat) (v : ConVer) : State :=
  let vs := (s.vers c).map (fun w => if w.active then w else { w with active := true, from_ := v.from_, began := v.began })
  let s := { s with con := { s.con with versions := SMap.setD s.con.versions c vs [] } }
  let s := s.enterService ⟨.contract, c⟩
  let s := ((s.set .ingConStaState c 2).set .ingConBoundPeak c v.body.reqP).set .ingConBoundCommitted c v.body.reqC
  s.digestAt v.from_

/-- The instant a waiting version comes into force: the ledger start where its own lies before it (R242), by elapsed time, since the
ledger start is kept for ever (R37). -/
def State.startOr (s : State) (v : ConVer) : ConVer :=
  let e := (s.reg .ledStartEpoch 0).toNat * epochUnits
  if v.began < e then { v with from_ := BitVec.ofNat 64 e, began := e } else v

/-- CONTRACT_ACTIVATE: at its instant, once the ledger runs, an admitted contract moves to state 2 with full buckets (R208, R242). -/
def execContractActivate (c : ConIx) (s : State) : Out :=
  match s.nextVer c.val with
  | none => .next s
  | some v =>
    if s.conState c.val ≠ 1 ∨ !s.ledOn then .next s
    else
      let v := s.startOr v
      let s := (s.advanceAt v.began).inForceNow c.val v
      .next (s.setPol c.val { tc := v.body.cbs * tokUnit, tp := v.body.pbs * tokUnit, last := v.from_ })

/-- CONTRACT_CHANGE_AT: at its instant a changed contract takes its new version, each bucket's level carried over and capped
(R209). -/
def execContractChangeAt (c : ConIx) (s : State) : Out :=
  match s.nextVer c.val, s.inForce c.val with
  | some v, some o =>
    if s.conState c.val ≠ 2 then .next s
    else
      let s := s.advanceAt v.began
      let p := (s.pol c.val).accrue o.body v.from_
      let s := s.inForceNow c.val v
      .next (s.setPol c.val { p with tc := min p.tc (v.body.cbs * tokUnit), tp := min p.tp (v.body.pbs * tokUnit) })
  | _, _ => .next s

/-- Do frames of a version remain, matched or not yet judged and stamped before its end (R209, R210)? -/
def State.verFrames (s : State) (c : Nat) (v : ConVer) (u : BitVec 64) : Bool :=
  s.framesOf c v.inc ||
  s.ports.frames.any (fun f => f.2.stage == .rx && ltAfter u f.2.lt &&
    (match f.2.port with
     | some n => bitOf v.body.inPorts n
     | none => false))

/-- Has a version's end and its req_p passed, with no frame of it left? -/
def State.verGone (s : State) (c : Nat) (v : ConVer) : Bool :=
  match v.until_ with
  | some u => decide (v.till.getD 0 + v.body.reqP * unitsPerNs ≤ s.elapsed) && !s.verFrames c v u
  | none => false

/-- Time moves on to the earliest release of a version that has ended and has no frame left. -/
def State.toRelease (s : State) (c : Nat) (v : ConVer) : State :=
  match v.until_ with
  | some u => if s.verFrames c v u then s else s.advanceAt (v.till.getD 0 + v.body.reqP * unitsPerNs)
  | none => s

/-- CHANGE_RELEASED: the old version's load is released (R209). -/
def execChangeReleased (c : ConIx) (s : State) : Out :=
  match s.vers c.val with
  | v :: w :: t =>
    if w.active ∧ s.conState c.val ≠ 0 then
      let s := s.toRelease c.val v
      .next (if s.verGone c.val v then s.setVers c.val (w :: t) else s)
    else .next s
  | _ => .next s

/-- CONTRACT_RETIRE_AT: LT reaches a retiring contract's instant, and the digest changes (R210, R214). -/
def execContractRetireAt (c : ConIx) (s : State) : Out :=
  match (s.vers c.val).getLast? with
  | some v => match v.until_ with
    | some u =>
      if s.conState c.val ≠ 3 ∨ v.ended then .next s
      else
        let vs := (s.vers c.val).map (fun w => { w with ended := true })
        let s := { s with con := { s.con with versions := SMap.setD s.con.versions c.val vs [] } }
        .next ((s.advanceAt (v.till.getD 0)).digestAt u)
    | none => .next s
  | none => .next s

/-- CONTRACT_RELEASED: a retired contract with no frames left moves to state 0 and its resources are free (R210). -/
def execContractReleased (c : ConIx) (s : State) : Out :=
  match (s.vers c.val).getLast? with
  | none => .next s
  | some v =>
    if s.conState c.val ≠ 3 then .next s
    else
      let s := s.toRelease c.val v
      if (s.vers c.val).all (fun w => s.verGone c.val w) then
        let s := (s.setVers c.val []).leaveService ⟨.contract, c.val⟩
        .next (((s.set .ingConStaState c.val 0).set .ingConBoundPeak c.val 0).set .ingConBoundCommitted c.val 0)
      else .next s

end Sys2Proof.Machine
end

