-- ==== Sys2Proof/Machine/Crest.lean ====
section
/-! DEFINITION. The Crest's commands: samples and the servo, bank swaps, references, captures, compare units and PPS_OUT
(chapter 02). -/

namespace Sys2Proof.Machine

/-- EPOCH_BEGIN: the next epoch beginning comes (R38, R45, R56); none comes before the counter has started (R36). -/
def execEpochBegin (s : State) : Out := .next (if s.crest.running then s.nextEpoch else s)

/-- CREST_SAMPLE_AT: stages a measurement instant (R48). -/
def execCrestSampleAt (t : BitVec 64) (s : State) : Out := .next { s with crest := { s.crest with staged := t } }

/-- Submit a sample to the servo (R48). -/
def State.submitSample (s : State) (x : Sample) : State :=
  { s with crest := { s.crest with samples := s.crest.samples ++ [x] } }

/-- CREST_SAMPLE_OFS: submits θ with the staged instant (R48). -/
def execCrestSampleOfs (theta : BitVec 64) (s : State) : Out :=
  .next (s.submitSample { at_ := s.crest.staged, theta := theta.toInt, pps := false })

/-! ### The servo -/

/-- Is a sample discarded (R49)? -/
def State.sampleBad (s : State) (x : Sample) : Bool :=
  let src := s.get .crestSrvCfgSrc s.srvBank
  let early := s.crest.state == .free || s.crest.state == .acquire
  decide ((epochUnits : Int) < ltDiff s.epochStart x.at_) || ltAfter x.at_ s.lt || s.crest.step.isSome ||
  (match s.crest.stepAt with
   | some l => decide (s.instantOf x.at_ < (l : Int))
   | none => false) ||
  !(if x.pps then src == 2 else src == 1 || (src == 2 && early))

/-- The loop law of R50 with gains in Q16.16: f and the integrator in units of 2⁻³² ppb. -/
def State.loopLaw (s : State) (kp ki : Nat) (theta : Int) : State :=
  let b := s.srvBank
  let c : Int := (s.get .crestSrvLimFclamp b * 4294967296 : Nat)
  let integ := clampInt (s.crest.integ + ki * theta) c
  let f := clampInt (kp * theta + integ) c
  let a := BitVec.ofInt 48 (s.get .crestNomNom b - roundDiv f 1000000000)
  { s with crest := { s.crest with integ := integ, addend := a } }

/-- lock_thr, unlock_thr and step_thr of the active bank in LT units. -/
def State.lockThr (s : State) : Nat := s.get .crestSrvThrLockThr s.srvBank * 16384
def State.unlockThr (s : State) : Nat := s.get .crestSrvThrUnlockThr s.srvBank * 16384
def State.stepThr (s : State) : Nat := s.get .crestSrvThrStepThr s.srvBank * 65536

/-- The servo enters a state, whose run counts the entering sample if it is of the run's kind (R515). -/
def State.enterServo (s : State) (st : ServoState) (theta : Int) : State :=
  let counts := match st with
    | .acquire => decide (theta.natAbs ≤ s.lockThr)
    | .locked => decide (s.unlockThr < theta.natAbs)
    | _ => false
  { s with crest := { s.crest with state := st, run := bit counts } }

/-- The run of the present state after one more sample (R51, R515). -/
def State.countRun (s : State) (theta : Int) : State :=
  let counts := match s.crest.state with
    | .acquire => decide (theta.natAbs ≤ s.lockThr)
    | .locked => decide (s.unlockThr < theta.natAbs)
    | _ => false
  { s with crest := { s.crest with run := if counts then s.crest.run + 1 else 0 } }

/-- A step becomes pending with θ (R51, R52). -/
def State.pendStep (s : State) (theta : Int) : State :=
  { s with crest := { s.crest with step := some theta } }.set .crestSrvStaStepPending 0 1

/-- A sample in ACQUIRE: a step beyond step_thr, else the loop with acquire gains, and LOCKED after lock_cnt within lock_thr. -/
def State.inAcquire (s : State) (theta : Int) : State :=
  let b := s.srvBank
  if s.stepThr < theta.natAbs && s.is .crestSrvCfgStepEn b then s.pendStep theta
  else
    let s := s.loopLaw (s.get .crestGainAcqKp b) (s.get .crestGainAcqKi b) theta
    if s.get .crestSrvThrLockCnt b ≤ s.crest.run then s.enterServo .locked theta else s

/-- A sample in LOCKED: the loop with locked gains, and ACQUIRE after 4 beyond unlock_thr.  That fourth sample has been processed in
LOCKED and is not tested for a step (DESIGN CHOICE, assumption 138). -/
def State.inLocked (s : State) (theta : Int) : State :=
  let b := s.srvBank
  let s := s.loopLaw (s.get .crestGainLckKp b) (s.get .crestGainLckKi b) theta
  if 4 ≤ s.crest.run then s.enterServo .acquire theta else s

/-- An accepted sample leaves FREE or HOLDOVER, or is counted in the run of the state it finds (R51, R515). -/
def State.arrive (s : State) (theta : Int) : State :=
  match s.crest.state with
  | .free => { s with crest := { s.crest with integ := 0 } }.enterServo .acquire theta
  | .holdover =>
    { s with crest := { s.crest with srvLost := false } }.enterServo (if theta.natAbs ≤ s.lockThr then .locked else .acquire) theta
  | _ => s.countRun theta

/-- θ in 0.25 ns, signed and saturating, toward zero (assumption 22). -/
def quarterNs (theta : Int) : BitVec 32 :=
  BitVec.ofInt 32 (max (-2147483648) (min 2147483647 (if 0 ≤ theta then theta / 16384 else -((-theta) / 16384))))

/-- The servo accepts a sample (R49-R52).  A software sample beside the PPS source, which R48 lets only step, counts as accepted for the
timeout and the error bound and leaves the run as it is (DESIGN CHOICE, assumption 112). -/
def State.acceptSample (s : State) (x : Sample) : State :=
  let s := (s.noteTqw.bump .crestSampleCntAccepted).set .crestSrvStaLastTheta 0 (quarterNs x.theta).toNat
  let s := { s with crest := { s.crest with thetas := (x.theta.natAbs :: s.crest.thetas).take 16, lastSample := s.elapsed } }
  let only := !x.pps && s.get .crestSrvCfgSrc s.srvBank == 2
  if only then
    let s := if s.crest.state = .free then { s with crest := { s.crest with integ := 0, state := .acquire, run := 0 } } else s
    (if s.stepThr < x.theta.natAbs && s.is .crestSrvCfgStepEn s.srvBank then s.pendStep x.theta else s).noteTqw
  else
    let s := s.arrive x.theta
    (if s.crest.state = .acquire then s.inAcquire x.theta else s.inLocked x.theta).noteTqw

/-- SERVO_SAMPLE: the servo takes the oldest submitted sample, discarding it or accepting it (R49, R51). -/
def execServoSample (s : State) : Out :=
  match s.crest.samples with
  | [] => .next s
  | x :: t =>
    let s := { s with crest := { s.crest with samples := t } }
    .next (if s.sampleBad x then s.bump .crestSampleDiscDiscarded else s.acceptSample x)

/-- Does the servo's timeout run (R51)? -/
def State.timing (s : State) : Bool := (s.crest.state == .acquire || s.crest.state == .locked) && s.crest.step.isNone

/-- The servo enters HOLDOVER (R50, R51, R57). -/
def State.enterHoldover (s : State) : State :=
  { s with crest := { s.crest with state := .holdover, srvLost := true, run := 0, holdEb := s.ebLive, holdAt := s.elapsed }
    }.holdAddend.noteTqw

/-- The elapsed time at which the servo's timeout runs out, by the active bank: `timeout` times 2³⁶ LT units after the last accepted
sample (DESIGN CHOICE, assumption 113). -/
def State.timeoutAt (s : State) : Nat := s.crest.lastSample + s.get .crestSrvLimTimeout s.srvBank * epochUnits

/-- SERVO_TIMEOUT: `timeout` epochs pass without an accepted sample (R51); a bank swap that takes effect on the way makes the new bank's
timeout the one that counts (R53). -/
def execServoTimeout (s : State) : Out :=
  if s.timing then
    let s := if s.is .crestSrvStaSwapPending && decide ((s.epoch + 1) * epochUnits < s.timeoutAt) then s.nextEpoch else s
    let s := if s.timing then s.advanceAt s.timeoutAt else s
    .next (if s.timing then s.enterHoldover else s)
  else .next s

/-- CREST_BANK_SWAP: writing 1 makes a bank swap pending (R53). -/
def execCrestBankSwap (v : BitVec 32) (s : State) : Out := .next (if v.getLsbD 0 then s.armBankSwap else s)

/-! ### Replicas and references -/

/-- The limit of a replica's tracking error in LT units (R44). -/
def replicaLimit : Replica → Nat
  | .octet _ => 8192
  | _ => 131072

/-- The limit of a tracking loop's correction, in ppm of the replica's clock (R43). -/
def trimLimit : Int := 1000

/-- The correction a replica's loop applies after a comparison: the spec gives the loop's limit and not its law, so it is a free value
within the limit (R43, assumption 30). -/
def State.repTrim (s : State) : Int := clampInt s.free.toInt trimLimit

/-- REPLICA_TRACK: a replica is compared with the Crest.  The comparison finds how far its own clock and the loop's correction have
carried it; the loop sets its rate, and `clock` is how many ppb its own clock runs above the Crest from here on (assumption 30).  A
replica out of limit raises a fault, and a stamp replica marks its octet until back within limit (R43, R44).  The clock domain's number
in the record is a free value: the spec gives none. -/
def execReplicaTrack (rep : Replica) (clock : BitVec 64) (s : State) : Out :=
  let err := s.repErr rep
  let out := replicaLimit rep < err.natAbs
  let s := { s with crest := { s.crest with
    reps := SMap.setD s.crest.reps (replicaKey rep)
      { err := err, at_ := s.elapsed, clock := clampInt clock.toInt (1000 * trimLimit), rate := s.repTrim } {} } }.useFree
  let s := match rep with
    | .octet o => { s with crest := { s.crest with replicaOut := SMap.put s.crest.replicaOut o.val (if out then some () else none) } }
    | _ => s
  .next (if out then
      (s.cairnRec .replicaLimit (some ⟨.timeBase, 0⟩) (((s.free).setWidth 8) :: List.replicate 7 0 ++ leBytes (BitVec.ofInt 64 err).toNat 8)).useFree.noteTqw
    else s)

/-- REF_TIME_LOST: the PLL leaves REF_TIME, ref_lost is set and a record written (R61). -/
def execRefTimeLost (s : State) : Out :=
  if s.is .crestRefCfgEn && !s.crest.refLost then
    let s := { s with crest := { s.crest with refLost := true } }
    .next ((((s.bump .crestRefStaLosses).set .crestRefStaOnRef 0 0).cairnRec .refLost (some ⟨.timeBase, 0⟩) [1]).noteTqw)
  else .next s

/-- REF_TIME_REGAINED: after 1,000 good edges the PLL returns to REF_TIME (R61). -/
def execRefTimeRegained (s : State) : Out :=
  if s.is .crestRefCfgEn && s.crest.refLost then
    let s := { s.noteTqw with crest := { s.noteTqw.crest with refLost := false } }
    .next ((s.set .crestRefStaOnRef 0 1).cairnRec .refLost (some ⟨.timeBase, 0⟩) [0])
  else .next s

/-! ### Captures -/

/-- The captures a block holds, oldest first. -/
def State.caps (s : State) (i : Nat) : List (BitVec 64) := SMap.getD s.crest.caps i []

/-- Store a capture FIFO and show its fill. -/
def State.setCaps (s : State) (i : Nat) (l : List (BitVec 64)) : State :=
  { s with crest := { s.crest with caps := SMap.setD s.crest.caps i l [] } }.set .crestCapStaFill i l.length

/-- Does a capture block latch this edge (R62)? -/
def State.capEdge (s : State) (i : Nat) (rising : Bool) : Bool :=
  s.is .crestCapCfgEn i && (s.get .crestCapCfgEdge i == 2 || s.get .crestCapCfgEdge i == bit (!rising))

/-- The captured value: LT less the signed delay (R62). -/
def State.capValue (s : State) (i : Nat) : BitVec 64 :=
  s.lt - BitVec.ofInt 64 ((BitVec.ofNat 24 (s.get .crestCapCfgDelay i)).toInt * 16384)

/-- θ of a PPS capture: its FT less the nearest whole second, a half rounding to the earlier (R48). -/
def ppsTheta (ft : Nat) : Int :=
  let x := ft % unitsPerSec
  if 2 * x ≤ unitsPerSec then x else (x : Int) - unitsPerSec

/-- CAPTURE_EDGE: a configured edge latches LT less the delay, or is counted as lost; PPS_IN may feed the servo, a capture that found its
FIFO full too (R48, R62; DESIGN CHOICE, assumption 114). -/
def execCaptureEdge (i : Fin 5) (rising : Bool) (s : State) : Out :=
  if s.capEdge i.val rising then
    let v := s.capValue i.val
    let q := s.caps i.val
    let s := if q.length < 16 then s.setCaps i.val (q ++ [v]) else s.bump .crestCapOvfOvf i.val
    .next (if i.val = 4 && s.get .crestSrvCfgSrc s.srvBank == 2 then
        s.submitSample { at_ := v, theta := ppsTheta (s.ftOf v), pps := true }
      else s)
  else .next s

/-- CREST_CAP_DATA_READ: returns and removes the oldest capture, all ones when there is none (R63). -/
def execCrestCapDataRead (i : Fin 5) (s : State) : Out :=
  match s.caps i.val with
  | [] => .next { s with readData := 0xFFFFFFFFFFFFFFFF#64 }
  | v :: t => .next { s.setCaps i.val t with readData := v }

/-! ### Compare units -/

/-- CREST_CMP_ARM: arms the unit if the target lies 1 µs to 2⁴⁶ ns ahead, targets due at this tick firing first; else sets
refused (R64, R66). -/
def execCrestCmpArm (k : Fin 64) (target : BitVec 64) (s : State) : Out :=
  let d := ltDiff target s.lt
  if 65536000 ≤ d ∧ d < 2 ^ 62 then
    let s := s.fireDue
    let s := { s with crest := { s.crest with cmpTarget := SMap.put s.crest.cmpTarget k.val (some target) } }
    .next (((s.set .crestCmpStaArmed k.val 1).set .crestCmpStaRefused k.val 0).set .crestCmpStaStale k.val 0)
  else .next (s.set .crestCmpStaRefused k.val 1)

/-- CMP_FIRE: time reaches the first CTC tick at or after an armed unit's target, where it fires with every other unit due there, in
ascending number (R65, R66). -/
def execCmpFire (k : Fin 64) (s : State) : Out :=
  match SMap.find s.crest.cmpTarget k.val with
  | none => .next s
  | some t => .next (s.advanceTick t).fireDue

/-- CREST_CMP_DIS: writing 1 disarms the unit at the next CTC tick, a firing at that tick still occurring (CREST_CMP_DIS map). -/
def execCrestCmpDis (k : Fin 64) (v : BitVec 32) (s : State) : Out :=
  if v.getLsbD 0 && (SMap.find s.crest.cmpTarget k.val).isSome then
    let s := s.tick
    .next ({ s with crest := { s.crest with cmpTarget := SMap.put s.crest.cmpTarget k.val none } }.set .crestCmpStaArmed k.val 0)
  else .next s

/-! ### PPS_OUT -/

/-- May PPS_OUT pulse (R67)? -/
def State.ppsOn (s : State) : Bool :=
  s.crest.running && s.is .crestPpsoCfgEn && (s.is .crestPpsoCfgFreeRun || s.crest.state == .locked)

/-- LT units from now to the next whole second plus phase under the mapping in force, one already pulsed at this instant not
counting (R67). -/
def State.ppsAhead (s : State) : Nat :=
  let phase := (BitVec.ofNat 32 (s.get .crestPpsoCfgPhase)).toInt * 16384
  let x := ((((s.ftOf s.lt : Nat) : Int) - phase) % (unitsPerSec : Int)).toNat
  let d := (unitsPerSec - x) % unitsPerSec
  if d = 0 ∧ s.crest.ppsRise = some s.elapsed then unitsPerSec else d

/-- PPS_OUT_RISE: FT reaches a whole second plus the phase and PPS_OUT rises (R67).  A pending step is let take effect first when
its epoch beginning comes no later. -/
def execPpsOutRise (s : State) : Out :=
  if s.ppsOn then
    let s := if s.crest.step.isSome && decide (epochUnits - s.elapsed % epochUnits ≤ s.ppsAhead) then s.nextEpoch else s
    let s := s.advance s.ppsAhead
    .next (if s.ppsOn then { s with crest := { s.crest with pps := true, ppsRise := some s.elapsed } } else s)
  else .next s

/-- The level on ball PPS_OUT (R68). -/
def State.ppsPin (s : State) : Bool := s.gateOpen && s.is .crestPpsoCfgEn && s.crest.pps

/-- PPS_OUT_FALL: PPS_OUT falls after its configured width (R67). -/
def execPpsOutFall (s : State) : Out :=
  if s.crest.pps then
    let s := s.advanceAt (s.crest.ppsRise.getD s.elapsed + s.get .crestPpsoCfgWidth * 65536000)
    .next { s with crest := { s.crest with pps := false } }
  else .next s

end Sys2Proof.Machine
end

