-- ==== Sys2Proof/Machine/Ptp.lean ====
section
/-! DEFINITION. The PTP protocol engine's commands: management TLVs, the messages it receives and those it sends (R58, R59, R89, R90,
R490).  What IEEE 1588-2019 makes the engine compute is an operand (assumption 54). -/

namespace Sys2Proof.Machine

/-- Update the engine. -/
def State.setPtp (s : State) (p : Ptp) : State := { s with ptp := p }

/-- Management IDs of IEEE 1588-2019 that can be set and read, each with its data's length, 0 where it varies (PRESUMED, assumption 54):
USER_DESCRIPTION, PRIORITY1, PRIORITY2, DOMAIN, SLAVE_ONLY, LOG_ANNOUNCE_INTERVAL, ANNOUNCE_RECEIPT_TIMEOUT, LOG_SYNC_INTERVAL,
VERSION_NUMBER, UTC_PROPERTIES, TRACEABILITY_PROPERTIES, TIMESCALE_PROPERTIES, UNICAST_NEGOTIATION_ENABLE, DELAY_MECHANISM,
LOG_MIN_PDELAY_REQ_INTERVAL. -/
def ptpSettable : SMap Nat :=
  [(0x0002, 0), (0x2005, 2), (0x2006, 2), (0x2007, 2), (0x2008, 2), (0x2009, 2), (0x200A, 2), (0x200B, 2), (0x200C, 2), (0x2010, 2),
   (0x2011, 4), (0x2012, 2), (0x2013, 2), (0x2014, 2), (0x6000, 2), (0x6001, 2)]

/-- Management IDs that can only be read: CLOCK_DESCRIPTION, FAULT_LOG, and the default, current, parent, time-properties and port
datasets. -/
def ptpReadable : List Nat := [0x0001, 0x0006, 0x2000, 0x2001, 0x2002, 0x2003, 0x2004]

/-- A MANAGEMENT TLV. -/
def ptpTlv (id : Nat) (d : Bytes) : Bytes := beBytes 1 2 ++ beBytes (2 + d.length) 2 ++ beBytes id 2 ++ d

/-- A MANAGEMENT_ERROR_STATUS TLV: 2 no such ID, 3 wrong length, 4 wrong value, 5 not settable. -/
def ptpError (code id : Nat) : Bytes := beBytes 2 2 ++ beBytes 8 2 ++ beBytes code 2 ++ beBytes id 2 ++ [0, 0, 0, 0]

/-- Is a value outside what the device supports: a Sync or Pdelay_Req interval beyond 2⁻⁷ s to 2⁴ s (R58)? -/
def ptpWrong (id : Nat) (d : Bytes) : Bool :=
  let v := (BitVec.ofNat 8 (beAt d 0 1)).toInt
  (id == 0x200B || id == 0x6001) && (decide (v < -7) || decide (4 < v))

/-- The domain number the engine works in, if PF0 has set one, and whether PF0 has made it a follower only (R58). -/
def State.ptpDomain (s : State) : Option Nat := (SMap.find s.ptp.data 0x2007).map (fun d => beAt d 0 1)
def State.ptpSlaveOnly (s : State) : Bool :=
  match SMap.find s.ptp.data 0x2008 with
  | some d => beAt d 0 1 % 2 == 1
  | none => false

/-- Is a PTP message of the engine's domain (PRESUMED, assumption 54: octet 4 of the message is its domain number)? -/
def State.ptpMine (s : State) (b : Bytes) : Bool :=
  match s.ptpDomain with
  | some d => beAt b ((ptpOffset b).getD 0 + 4) 1 == d
  | none => true

/-- The data of a management ID that can be set. -/
def State.ptpData (s : State) (id : Nat) : Bytes := SMap.getD s.ptp.data id (Config.ptpInit id)

/-- The steps removed of the engine's role: none as a leader, one more than its parent's as a follower (R59). -/
def State.ptpSteps (s : State) : Nat :=
  match s.ptp.role with
  | .none | .leader => 0
  | .follower n _ | .boundary n _ => n + 1

/-- The parts of a dataset that other state gives, each with its place: what PF0 has set, and the steps removed (R58; the layouts are
PRESUMED from IEEE 1588-2019, assumption 54). -/
def State.ptpParts (s : State) (id : Nat) : List (Nat × Bytes) :=
  let one := fun (at_ id i n : Nat) => [(at_, sliceB (s.ptpData id) i n)]
  match id with
  | 0x2000 => [(0, [BitVec.ofNat 8 (2 * bit s.ptpSlaveOnly)])] ++ one 4 0x2005 0 1 ++ one 9 0x2006 0 1 ++ one 18 0x2007 0 1
  | 0x2001 => [(0, beBytes s.ptpSteps 2)]
  | 0x2003 =>
    let u := beAt (s.ptpData 0x2010) 2 1 &&& 7
    let t := beAt (s.ptpData 0x2011) 0 1 &&& 48
    let p := beAt (s.ptpData 0x2012) 0 1 &&& 8
    one 0 0x2010 0 2 ++ [(2, [BitVec.ofNat 8 (u ||| t ||| p)])] ++ one 3 0x2012 1 1
  | 0x2004 =>
    one 20 0x2009 0 1 ++ one 21 0x200A 0 1 ++ one 22 0x200B 0 1 ++ one 23 0x6000 0 1 ++ one 24 0x6001 0 1 ++ one 25 0x200C 0 1
  | _ => []

/-- A dataset's length, 0 where it varies. -/
def ptpLen (id : Nat) : Nat := if id = 0x2000 then 20 else if id = 0x2001 then 18 else if id = 0x2003 then 4 else if id = 0x2004 then 26 else 0

/-- A dataset as it is read: the parts that other state gives, over values the spec gives no rule for (R58). -/
def State.ptpShow (s : State) (id : Nat) : Bytes :=
  let v := Config.ptpRead id s.freeCtr
  (s.ptpParts id).foldl (fun b e => pasteB b e.1 e.2) (if ptpLen id = 0 then v else sliceB v 0 (ptpLen id))

/-- Does the engine send a message as PF0 has set it up: none that only a leader sends where it is a follower only; no Delay_Req under the
peer delay mechanism and no Pdelay_Req under the end-to-end one; and an Announce of the device's own time with its priorities and no steps
removed (R58; values and places of IEEE 1588-2019: PRESUMED, assumption 54)? -/
def State.ptpSends (s : State) (b : Bytes) (o ty : Nat) : Bool :=
  let has := fun (id at_ : Nat) => match SMap.find s.ptp.data id with
    | some d => beAt b (o + at_) 1 == beAt d 0 1
    | none => true
  let delay := (SMap.find s.ptp.data 0x6000).map (fun d => beAt d 0 1)
  !(s.ptpSlaveOnly && (ty == 0 || ty == 8 || ty == 11)) && !(ty == 1 && (delay == some 2 || delay == some 0xFE)) &&
  !(ty == 2 && (delay == some 1 || delay == some 0xFE)) &&
  !(ty == 11 && (beAt b (o + 61) 2 != s.ptpSteps || (s.ptp.role == .leader && !(has 0x2005 47 && has 0x2006 52))))

/-- A management TLV reaches the engine: GET with no data, else SET; the response TLV, or none where it is no management TLV. -/
def State.ptpManage (s : State) (b : Bytes) : State × Option Bytes :=
  let id := beAt b 4 2
  let d := b.drop 6
  if b.length < 6 ∨ beAt b 0 2 ≠ 1 ∨ beAt b 2 2 ≠ b.length - 4 then (s, none)
  else match SMap.find ptpSettable id with
    | some n =>
      if d.isEmpty then (s, some (ptpTlv id (s.ptpData id)))
      else if n ≠ 0 ∧ d.length ≠ n then (s, some (ptpError 3 id))
      else if ptpWrong id d then (s, some (ptpError 4 id))
      else (s.setPtp { s.ptp with data := SMap.put s.ptp.data id (some d) }, some (ptpTlv id d))
    | none =>
      if id = 0 then (s, some (ptpTlv 0 []))
      else if !ptpReadable.contains id then (s, some (ptpError 2 id))
      else if d.isEmpty then (s.useFree, some (ptpTlv id (s.ptpShow id)))
      else (s, some (ptpError 5 id))

/-- PTP: a manager command that carries one management TLV (R58, R359). -/
def execPtp (f : Fn) (seq : BitVec 32) (body : Bytes) (s : State) : Out :=
  .next (s.submit f.val seq 0x16 true (fun s =>
    match s.ptpManage body with
    | (s, some r) => s.reply f.val 0x16 0 0 r
    | (s, none) => s.reply f.val 0x16 1 0 []))

/-- The engine takes a role; one that PF0 has made a follower only leads no one (R58). -/
def State.ptpTake (s : State) (r : PtpRole) : State :=
  if r = .leader ∧ s.ptpSlaveOnly then s else
  let s := s.setPtp { s.ptp with role := r }
  match r with
  | .none => s
  | .leader => s.ptpBank 0 none
  | .follower n e | .boundary n e => s.ptpBank (n + 1) (some e)

/-- A Pdelay_Req waits for its response: sequence identifier, port identity of its sender, ingress stamp (R90; where IEEE 1588-2019 puts
them: assumption 54). -/
def State.notePdelay (s : State) (n seq who : Nat) (t : BitVec 64) : State :=
  let l := (SMap.getD s.ptp.pdelay n []).filter (fun r => !(r.1 == seq && r.2.1 == who))
  s.setPtp { s.ptp with pdelay := SMap.setD s.ptp.pdelay n ((seq, who, t) :: l) [] }

/-- The ingress stamp of the Pdelay_Req that a Pdelay_Resp answers, and the requests left (R90). -/
def State.takePdelay (s : State) (n seq who : Nat) : BitVec 64 × State :=
  let l := SMap.getD s.ptp.pdelay n []
  match l.find? (fun r => r.1 == seq && r.2.1 == who) with
  | some r => (r.2.2, s.setPtp { s.ptp with pdelay := SMap.setD s.ptp.pdelay n (l.filter (fun x => !(x.1 == seq && x.2.1 == who))) [] })
  | none => (0, s)

/-- PTP_EVENT_RX: a received PTP message reaches the engine, an event message with its ingress LT and ptp_ofs; an offset it yields goes
to the servo as a software sample (R48, R58, R89).  A message of another domain than the one PF0 set does nothing, and until the gate opens the engine does nothing with it (R490). -/
def execPtpEventRx (fid : Nat) (seen : PtpSeen) (s : State) : Out :=
  match s.frame? fid with
  | none => .next s
  | some f =>
    if f.stage ≠ .ptp ∨ f.ended = false then .next s
    else
      let s := s.putFrame fid { f with stage := .done }
      if f.failed || !s.gateOpen || !s.ptpMine f.bytes then .next s
      else
        let n := f.port.getD 0
        let t := s.evtStamp n f.bytes f.lt
        let o := (ptpOffset f.bytes).getD 0
        let s := if isPtpEvent f.bytes && beAt f.bytes o 1 % 16 == 2 then
            s.notePdelay n (beAt f.bytes (o + 30) 2) (beAt f.bytes (o + 20) 10) t else s
        let s := match seen.theta with
          | some th => s.submitSample { at_ := t, theta := th.toInt, pps := false }
          | none => s
        .next (match seen.role with
          | some r => s.ptpTake r
          | none => s)

/-- PTP_MESSAGE_SEND: the engine sends a message into Q3 of a PTP port (R58, R197): bytes before the FCS.  An event message asks for a
two-step stamp, unless the MAC writes the stamp of a Sync or Pdelay_Resp into it (R90, R91).  A message of another domain than the one
PF0 set, or that its settings rule out, is none that the engine sends. -/
def execPtpMessageSend (n : Port) (msgType : Fin 16) (frame : Bytes) (s : State) : Out :=
  let p := n.val
  let b := sealFrame frame false
  match ptpOffset b with
  | none => .next s
  | some o =>
    if !s.gateOpen || !s.portOn p || !s.is .portPtpCfgPtpEn p || beAt b o 1 % 16 != msgType.val || !s.ptpMine b ||
        !s.ptpSends b o msgType.val then .next s
    else
      let q := if msgType.val = 3 then s.takePdelay p (beAt b (o + 30) 2) (beAt b (o + 44) 10) else (0, s)
      let t := q.1
      let s := q.2
      let one := s.is .portPtpCfgOnestep p && (msgType.val == 0 || msgType.val == 3)
      let f : Frame :=
        { bytes := b, hdr := sliceB b 0 256, owner := 1, stage := .egress, ended := true, whole := true, lt := s.lt,
          dest := .queue p, queue := 3, copies := 1, onWire := 1, ptp := some (msgType.val, t),
          ts := if msgType.val < 4 && !one then some (s.free.toNat % 65536, none) else none }
      let r := s.useFree.newFrame f
      let e := r.1.enterQueue r.2 p 3 f
      .next (if e.2 then e.1 else e.1.discard r.2)

end Sys2Proof.Machine
end

