-- ==== Sys2Proof/Machine/PowerOps.lean ====
section
/-! DEFINITION. The device power-on reset (R480). -/

namespace Sys2Proof.Machine

/-- Is a byte of external memory in the journal region (R372)? -/
def State.inJournal (s : State) (a : Nat) : Bool :=
  s.is .jrnCfgEn && inRange a (s.get .jrnCfgBase * 2 ^ 30) (s.get .jrnCfgSize * 2 ^ 30)

/-- The device power-on reset, from a source and, for a supply reset, a rail: every domain returns to its reset state, and only the
fuses, the two flash devices and the external memory's contents outlive it (R467, R480); the journal region's contents do not, and read
as memory nothing has written (R372).  Levels the outside world holds on pins stay. -/
def State.powerReset (s : State) (cause rail : Nat) : State :=
  let last := (s.cairn.counterLog.getLast?).getD (0, 0)
  let kept := fun (a : Nat) => !s.inJournal a
  let t := State.reset
  let t : State := { t with
    pending := s.pending, out := s.out, freeCtr := s.freeCtr + 1
    sec := { fuses := s.sec.fuses, flash := s.sec.flash }
    mem := { ext := s.mem.ext.filter (fun e => kept e.1)
             bad := s.mem.bad.filter (fun e => decide (e.1 < 2 ^ 48) && kept (8 * e.1)) }
    cairn := { flashPresent := s.cairn.flashPresent, flashBirth := s.cairn.flashBirth, flashCirc := s.cairn.flashCirc,
               counterLog := s.cairn.counterLog, next := s.cairn.flashed, flashed := s.cairn.flashed,
               opSec := last.1, pwrCyc := last.2, flashBig := s.cairn.flashBig, circWrites := s.cairn.circWrites,
               logWrites := s.cairn.logWrites }
    host := { perst := s.host.perst }
    zoa := { sessions := s.zoa.sessions + 1 }
    led := { keyGen := s.sec.flash.keyGen } }
  (((t.set .sysRstStaCause 0 cause).set .sysRstStaRail 0 rail).set .zoaStaSession 0 (t.zoa.sessions % 16384)).showCairn

end Sys2Proof.Machine
end

