-- ==== Sys2Proof/Machine/RegOps.lean ====
section
/-! DEFINITION. The geometry of the register maps, the masks of their fields, where an ignored write is counted, and the forerunner
update buffer (R9-R11, R17, R418-R433). -/

namespace Sys2Proof.Machine

/-! ### Addresses (R17, R18) -/

/-- The instance that an offset from instance 0 lies in, and the bytes left over. -/
def locate : List (Nat × Nat) → Nat → Nat → Option (Nat × Nat)
  | [], ix, rest => some (ix, rest)
  | (n, stride) :: t, ix, rest =>
    if rest / stride < n then locate t (ix * n + rest / stride) (rest % stride) else none

/-- The instance of a register and the byte within it that an offset in its domain's window names. -/
def RegName.at? (r : RegName) (off : Nat) : Option (Nat × Nat) :=
  if off < r.info.base then none
  else (locate r.info.dims 0 (off - r.info.base)).filter (fun x => decide (x.2 < r.info.width / 8))

/-- The register, instance and byte that an offset in a domain's window names; none where it is unassigned. -/
def regAt (dom off : Nat) : Option (RegName × Nat × Nat) :=
  (regsOfDomain dom).findSome? (fun r => (r.at? off).map (fun x => (r, x.1, x.2)))

/-- The offset of an instance of a register in its domain's window. -/
def offsetOf : List (Nat × Nat) → Nat → Nat
  | [], _ => 0
  | (n, stride) :: t, ix =>
    let inner := (t.map (·.1)).foldl (· * ·) 1
    ix / inner % n * stride + offsetOf t (ix % inner)

def RegName.offset (r : RegName) (i : Nat) : Nat := r.info.base + offsetOf r.info.dims i

/-! ### Fields (R9, R10, R11, R418) -/

/-- The bits of a field. -/
def FieldInfo.mask (f : FieldInfo) : BitVec 64 := BitVec.ofNat 64 ((2 ^ (f.hi + 1 - f.lo) - 1) <<< f.lo)

/-- The bits of the fields of a register that a condition picks. -/
def RegName.maskOf (r : RegName) (p : FieldInfo → Bool) : BitVec 64 :=
  ((r.info.fields.filter p).map FieldInfo.mask).foldl (· ||| ·) 0

/-- The bits a write may change: its CTL, TMR and SLW fields. -/
def RegName.ctlMask (r : RegName) : BitVec 64 := r.maskOf (fun f => f.ty == .ctl || f.ty == .tmr || f.ty == .slw)

/-- Does a register hold a CMD field? -/
def RegName.isCmd (r : RegName) : Bool := r.info.fields.any (fun f => f.ty == .cmd)

/-- The registers held once per bank, with how many instances lie between the banks (R424). -/
def RegName.bankStep : RegName → Option Nat
  | .crestSrvCfg | .crestGainAcq | .crestGainLck | .crestSrvLim | .crestSrvThr | .crestTqCfg | .crestNom => some 1
  | .spurSlot => some 8
  | .tmPshpRate | .tmPshpBurst | .tmQCfg | .tmQRate | .tmQBurst => some 1
  | .colBankSec | .colBankNs | .colBankCfg => some 1
  | .colEnt => some 1024
  | .ledRetBase | .ledRetSize => some 1
  | .zoaDelta => some 1
  | .ciphShare => some 4
  | .jrnPeerCfg => some 1
  | .jrnPeerCtx => some 48
  | _ => none

/-- The bank an instance lies in, and the same instance of bank `b`. -/
def bankOf (step i : Nat) : Nat := i / step % 2
def toBank (step i b : Nat) : Nat := i / (2 * step) * (2 * step) + b * step + i % step

/-- The fields that are not rule-bound though their map does not mark them: en fields (R420), and those whose own rule governs their
writes (R83, R100, R428). -/
def RegName.governed : RegName → BitVec 64
  | .crestPpsoCfg | .crestTtoCfg | .crestCapCfg | .crestRefCfg | .spurCoreCtl | .jrnCfg | .ciphSecyCfg | .sysMode => 1
  | .portMacCfg => 0x20000
  | .ingProfCfg | .ingProfFld => 0xFFFFFFFF
  | _ => 0

/-- The rule-bound bits of a register that is not twin-banked (R418). -/
def RegName.boundMask (r : RegName) : BitVec 64 :=
  r.maskOf (fun f => (f.ty == .ctl || f.ty == .tmr) && !f.anytime) &&& ~~~r.governed

/-- The vectors of a function (R313). -/
def vectorsOf (f : Nat) : Nat := if f = 0 then 2048 else if f = 128 then 128 else 64

/-- Does a value place a reserved encoding into a CTL or TMR field (R11)? -/
def RegName.rsvBad (r : RegName) (v : BitVec 64) : Bool :=
  r.info.fields.any (fun f => (f.ty == .ctl || f.ty == .tmr) &&
    f.rsv.any (fun x => decide (x.1 ≤ bitsOf v.toNat f.hi f.lo) && decide (bitsOf v.toNat f.hi f.lo ≤ x.2)))

/-! ### Ignored and accepted writes (R418, R439) -/

/-- Where the ignored writes of a register are counted, and which ign bit they set. -/
inductive RegHome where
  | port (n : Nat)
  | ingPort (n : Nat)
  | table (t : Nat)
  | core (c : Nat)
  | tm (p : Nat)
  | col (p : Nat)
  | ring (r : Nat)
  | jq (q : Nat)
  | jrn
  | dom (d : Nat)
  deriving DecidableEq, Repr

/-- The home of an instance of a register.  The INGRESS registers of a port show in its ign bit and count in ING_IGN_CNT, whose map
names them, and not in PORT_IGN_CNT (DESIGN CHOICE, assumption 109: both maps could mean them). -/
def RegName.home (r : RegName) (i : Nat) : RegHome :=
  match r with
  | .portCtl | .portCfg | .portMacCfg | .portPtpCfg | .portSta | .portIgnCnt | .portRxFrames | .portRxBad | .portRxOversize
  | .portRxPause | .portTxFrames | .portTxStomp | .portFecCorr | .portFecUncorr | .ciphSecyCfg | .ciphSecyAt | .ciphSecySta
  | .ciphSecyDisc => .port i
  | .ingPortCfg | .ingPortNomatch => .ingPort i
  | .ingTblCtl | .ingTblCfg | .ingTblSta | .ingTblEvict | .ingTblPar | .ingTblLearn | .ingTblLearnDrop | .ingTblAged
  | .ingTblStale => .table i
  | .spurCoreCtl | .spurCoreSta | .spurCoreIgn | .spurCoreSevref | .spurCoreRel | .spurCoreDb | .spurSlotAt | .spurThrRst
  | .spurCoreFault | .spurCoreFaultCnt => .core i
  | .spurSlot | .spurThrSta | .spurThrEvt => .core (i / 16)
  | .spurThrSevsrc => .core (i / 32)
  | .tmSwapAt | .tmPortSta | .tmPortIgn | .tmPortDqlate | .tmPortDisc | .tmPortMcdis => .tm i
  | .tmPshpRate | .tmPshpBurst => .tm (i / 2)
  | .tmQCfg | .tmQRate | .tmQBurst => .tm (i / 32)
  | .tmQSta | .tmQDly | .tmQNccfg | .tmQTx | .tmQDrop | .tmQLaunchClamp | .tmQLaunchIgn => .tm (i / 16)
  | .colArm | .colSta | .colSwitchLt | .colCycles => .col i
  | .colBankSec | .colBankNs | .colBankCfg => .col (i / 2)
  | .colEnt => .col (i / 2048)
  | .ringBase | .ringCfg | .ringCtl | .ringSta | .ringIdx | .ringCi | .ringResetIdx | .ringDone | .ringLost | .ringIgn => .ring i
  | .jrnQBase | .jrnQCtl | .jrnQSta | .jrnQFlr | .jrnQDone | .jrnQIgn => .jq i
  | .jrnCfg | .jrnSta | .jrnIgn | .jrnPeerSwap | .jrnPeerCfg | .jrnPeerCtx | .jrnPeerSta | .jrnPeerFail => .jrn
  | r => .dom r.info.dom

/-- An ignored write is counted, and shown where its block has an ign bit. -/
def State.ignHome (s : State) : RegHome → State
  | .port n => (s.bump .portIgnCntIgnored n).set .portStaIgn n 1
  | .ingPort n => (s.bump .ingIgnCntIgnored).set .portStaIgn n 1
  | .table t => (s.bump .ingIgnCntIgnored).set .ingTblStaIgn t 1
  | .core c => (s.bump .spurCoreIgnIgnored c).set .spurCoreStaIgn c 1
  | .tm p => (s.bump .tmPortIgnIgnored p).set .tmPortStaIgn p 1
  | .col p => (s.ignDomain 4).set .colStaIgn p 1
  | .ring r => (s.bump .ringIgnIgnored r).set .ringStaIgn r 1
  | .jq q => (s.bump .jrnQIgnIgnored q).set .jrnStaIgn 0 1
  | .jrn => (s.bump .jrnIgnIgnored).set .jrnStaIgn 0 1
  | .dom d => s.ignDomain d

/-- An accepted write clears the ign bit of the register's block. -/
def State.okHome (s : State) : RegHome → State
  | .port n | .ingPort n => s.set .portStaIgn n 0
  | .table t => s.set .ingTblStaIgn t 0
  | .core c => s.set .spurCoreStaIgn c 0
  | .tm p => s.set .tmPortStaIgn p 0
  | .col p => s.set .colStaIgn p 0
  | .ring r => s.set .ringStaIgn r 0
  | .jq _ | .jrn => s.set .jrnStaIgn 0 0
  | .dom _ => s

/-- A write of a register is ignored and counted. -/
def State.ignReg (s : State) (r : RegName) (i : Nat) : State := s.ignHome (r.home i)

/-! ### Triplicated fields (R434, R435) -/

/-- The bitwise majority of three values. -/
def vote3 (a b c : Nat) : Nat := (a &&& b) ||| (a &&& c) ||| (b &&& c)

/-- What the copies of a field are voted to, how many copies are rewritten, and whether none had good parity: in a bit in
which just two good copies differ there is no majority, and `tie` decides (DESIGN CHOICE, assumption 56). -/
def voteOf (copies : List (Nat × Bool)) (tie : Nat) : Nat × Nat × Bool :=
  let good := copies.filter (fun c => c.2)
  let v := fun (k : Nat) => (good.getD k (0, true)).1
  let all := fun (k : Nat) => (copies.getD k (0, true)).1
  let x := match good.length with
    | 0 => vote3 (all 0) (all 1) (all 2)
    | 1 => v 0
    | 2 => (v 0 &&& v 1) ||| ((v 0 ^^^ v 1) &&& tie)
    | _ => vote3 (v 0) (v 1) (v 2)
  (x, (copies.filter (fun c => c.1 != x || !c.2)).length, good.isEmpty)

/-- A register's bits as its TMR fields' copies vote them: what a read returns (R9, R434). -/
def State.votedReg (s : State) (r : RegName) (i : Nat) : BitVec 64 :=
  (s.tmr.filter (fun h => h.reg == r && h.ix == i)).foldl (fun w h =>
    Fld.into ⟨h.reg, h.hi, h.lo⟩ w (voteOf h.copies (s.free.toNat % 2 ^ (h.hi + 1 - h.lo))).1) (s.reg r i)

/-! ### The update buffer (R429, R430, R496) -/

/-- Key of a held write: a twin-banked register is held once for both banks. -/
def heldKey (r : RegName) (i : Nat) : Nat :=
  match r.bankStep with
  | some n => regKey r (toBank n i 0)
  | none => regKey r i

/-- Update the buffer; SYS_UPD_STA shows the writes it holds and their groups. -/
def State.setUpd (s : State) (m : SMap HeldWr) : State :=
  let groups := m.foldl (fun g e => g ||| 2 ^ e.2.reg.info.dom) 0
  ({ s with upd := m }.set .sysUpdStaFill 0 m.length).set .sysUpdStaHeld 0 groups

/-- A host-interface reset, a host loss or an FLR of PF0: writes that a pending strobe names stay until its tick, every other is
discarded and counted (R496). -/
def State.dropHeld (s : State) : State :=
  let keep := s.upd.filter (fun e => e.2.named)
  (s.bump .sysUpdOvfWrites 0 (s.upd.length - keep.length)).setUpd (keep.map (fun e => (e.1, { e.2 with last := true })))

end Sys2Proof.Machine
end

