-- ==== Sys2Proof/Machine/Ledger.lean ====
section
/-! DEFINITION. The ledger's commands and events: leaves written, epochs rooted, receipts signed, export resumed, retention swapped,
proofs and receipts answered, and pipelines spared (chapter 09). -/

namespace Sys2Proof.Machine

/-- LEAF_WRITE: the lane writes the first leaf that is due (R34, R242). -/
def execLeafWrite (l : Lane) (s : State) : Out := .next (s.writeNext l.val)

/-- LEDGER_START: at the first epoch beginning after the output gate opens the ledger starts (R242, R249). -/
def execLedgerStart (s : State) : Out :=
  if !s.gateOpen || s.ledOn then .next s
  else
    let s := s.advanceAt ((s.epoch + 1) * epochUnits)
    let s := ((s.set .ledRcptStaStarted 0 1).set .ledRcptStaSession 0 s.cairn.pwrCyc.toNat).setReg .ledStartEpoch 0
      (BitVec.ofNat 64 s.epoch)
    let s := { s with led := { s.led with spanFirst := s.epoch, prev := zero48 } }
    let s := (List.range 16).foldl (fun s l => (s.enterService ⟨.lane, l⟩).showOldest l) s
    .next { s with con := { s.con with history := s.con.history ++ [(s.reg .ingAdmDigestAt 0, s.elapsed, s.ctdNow)] } }

/-! ### Epoch roots (R246-R248, R456) -/

/-- May the root of epoch `e` be computed: no lane whose pipeline is gone holds leaves of it (DESIGN CHOICE,
assumption 40), and no frame decided in it still awaits its end? -/
def State.rootReady (s : State) (e : Nat) : Bool :=
  (List.range 16).all (fun l => !s.leafAwaited l ((e + 1) * epochUnits)) &&
  (List.range 16).all (fun l => (s.led? l).stuck.isNone ||
    !((s.led? l).staged.any (fun r => r.epoch == e) || (s.led? l).due.any (fun d => epochOf d.at_ == e)))

/-- A lane's root, n and first sequence of an epoch, the leaves leaving the lane's tree. -/
def State.rootLane (s : State) (l e : Nat) : State × (Bytes × Nat × Nat) :=
  let v := s.led? l
  let mine := v.staged.filter (fun r => r.epoch == e)
  let rest := v.staged.filter (fun r => r.epoch != e)
  let first := match mine with
    | r :: _ => r.seq
    | [] => match rest with
      | r :: _ => r.seq
      | [] => (s.reg .ledLaneSeq l).toNat
  (s.setLed l { v with staged := rest }, laneRoot l (mine.map leafHash), mine.length, first)

/-- The roots of lanes from `l` on. -/
def State.rootLanes (s : State) (e : Nat) : List Nat → State × List (Bytes × Nat × Nat)
  | [] => (s, [])
  | l :: t =>
    let a := s.rootLane l e
    let b := a.1.rootLanes e t
    (b.1, a.2 :: b.2)

/-- EPOCH_ROOT: the oldest closed epoch's leaves are all written, its lane roots and its root computed and its closes exported
(R34, R248, R254). -/
def execEpochRoot (s : State) : Out :=
  match s.led.closed with
  | [] => .next s
  | (e, tqw, eb) :: rest =>
    if !s.rootReady e then .next s
    else
      let s := (List.range 16).foldl (fun s l => (s.writeAll l e ((s.led? l).due.length)).flushSums l e) s
      let a := s.rootLanes e (List.range 16)
      let x : EpochEntry := { epoch := e, lanes := a.2, tqw := tqw, root := epochRootOf e tqw (a.2.map (·.1)), eb := eb }
      let s := { a.1 with led := { a.1.led with closed := rest, epochs := a.1.addEpoch x } }
      .next ((List.range 16).foldl (fun s l => (s.postClose l x).showOldest l) s)

/-! ### Receipts (R249-R253, R256, R35) -/

/-- The epoch roots of a span, 48 zero bytes before the ledger start. -/
def State.spanRoots (s : State) (last : Nat) : List Bytes :=
  (List.range 1024).map (fun p => match s.spanEntry (last / 1024 * 1024 + p) with
    | some e => e.root
    | none => zero48)

/-- The last item of a list whose elapsed time is at or before `t`. -/
def lastBefore {α : Type} (time : α → Nat) (t : Nat) (l : List α) : Option α := (l.filter (fun x => decide (time x ≤ t))).getLast?

/-- The program epoch list of a span from elapsed time `a` to `b` (R251). -/
def State.peList (s : State) (start a b : Nat) : List Bytes :=
  let ent := fun (num : Nat) (t : Nat) (set : Bytes) => leBytes num 1 ++ List.replicate 7 0 ++ beBytes t 8 ++ set
  let first := match lastBefore (·.elapsed) a s.spur.epochs with
    | some r => ent r.num (if r.elapsed ≤ start then 0 else r.at_.toNat) r.imageSet
    | none => ent 0 0 (sha384 [0x06])
  first :: ((s.spur.epochs.filter (fun r => decide (a < r.elapsed) && decide (r.elapsed < b))).map (fun r =>
    ent r.num r.at_.toNat r.imageSet))

/-- The contract history of a span (R252). -/
def State.chList (s : State) (a b : Nat) : List Bytes :=
  let ent := fun (x : BitVec 64 × Nat × Bytes) => beBytes x.1.toNat 8 ++ x.2.2
  ((lastBefore (fun (x : BitVec 64 × Nat × Bytes) => x.2.1) a s.con.history).toList ++
    s.con.history.filter (fun x => decide (a < x.2.1) && decide (x.2.1 < b))).map ent

/-- Signed in time: within 128 epochs of the close of its last epoch (R34)? -/
def State.signLate (s : State) (last : Nat) : Bool := decide (last + 128 < s.epoch)

/-- The body of the receipt of a span (R250). -/
def State.receiptBody (s : State) (first last g : Nat) (meas ctd : Bytes) : Bytes :=
  let es := s.led.epochs.filter (fun e => decide (first ≤ e.epoch) && decide (e.epoch ≤ last))
  let start := (s.reg .ledStartEpoch 0).toNat * epochUnits
  let pe := s.peList start (first * epochUnits) ((last + 1) * epochUnits)
  let ch := s.chList (first * epochUnits) ((last + 1) * epochUnits)
  let or5 := es.foldl (fun a e => a ||| e.tqw % 32) 0
  let endTqw := (es.getLast?.map (·.tqw)).getD 0
  let span := last / 1024
  let flags := bit (s.led.sums1.contains span) + 2 * bit (s.led.sums0.contains span) + 4 * bit (s.signLate last)
  beBytes 0x54524331 4 ++ beBytes 1 2 ++ beBytes pe.length 2 ++ keyDigest g ++ beBytes (s.get .ledRcptStaSession) 4 ++
  beBytes ch.length 4 ++ beBytes (s.reg .ledRcptSeq 0).toNat 8 ++ s.led.prev ++ beBytes first 8 ++ beBytes last 8 ++
  mth 0x04 (s.spanRoots last) ++ beBytes (maxN (es.map (·.eb))) 4 ++ beBytes or5 1 ++ beBytes (endTqw / 2 ^ 28) 1 ++
  beBytes (maxN (es.map (fun e => bitsOf e.tqw 27 24))) 1 ++ beBytes flags 1 ++ meas ++ sha384 (0x07 :: ch.flatten) ++ ctd ++
  pe.flatten

/-- A receipt as exported: body and the two signatures, then the appendix. -/
def Receipt.bytes (r : Receipt) : Bytes := r.body ++ r.rsa ++ r.slh ++ r.appendix

/-- A receipt goes to one export ring: it fills a buffer, or completes it SHORT with the length needed (R256, R342). -/
def State.sendReceipt (s : State) (r : Nat) (x : Receipt) : State :=
  match s.bufsOf r with
  | [] => s
  | e :: _ =>
    if !s.ringLive r then s
    else
      let i := s.ringH r
      let d := x.bytes
      let fits := decide (d.length ≤ bufLen e)
      let s := s.startEntry r
      let done := fun (s : State) => s.complete r i (sliceB e 0 2 ++ [0, 0] ++ leBytes d.length 4 ++ sliceB e 8 8 ++ leBytes x.seq 8 ++
        List.replicate 38 0) (if fits then 0 else 0x0C)
      let s := if fits then s.putThen r i (bufAddr e) d done else done s
      (s.reachBuf r).fetch r

/-- RECEIPT_SIGN: the oldest closed span whose epochs are all rooted is signed with both keys, retained and exported; a late one is
counted and recorded; while an alarm has erased the keys signing waits (R35, R249-R256, R416). -/
def execReceiptSign (s : State) : Out :=
  match s.led.spanEnds with
  | [] => .next s
  | (last, meas, ctd, g) :: rest =>
    if s.is .ciphStaErased || (s.spanEntry last).isNone || s.led.closed.any (fun c => decide (c.1 ≤ last)) then .next s
    else
      let first := s.led.spanFirst
      let seq := (s.reg .ledRcptSeq 0).toNat
      let body := s.receiptBody first last g meas ctd
      let m := (0x05#8) :: body
      let x : Receipt := { seq := seq, first := first, last := last, body := body,
                           rsa := rsaSignBy (some g) (s.freeBytes 0 6) m,
                           slh := slhSignBy (some g) (s.freeBytes 6 3) m,
                           appendix := (s.chList (first * epochUnits) ((last + 1) * epochUnits)).flatten }
      let late := s.signLate last
      let s := s.useFree 9
      let s := { s with led := { s.led with receipts := lastN 1024 (s.led.receipts ++ [x]), spanEnds := rest,
                                            spanFirst := last + 1, prev := sha384 m } }
      let s := (s.setReg .ledRcptSeq 0 (BitVec.ofNat 64 (seq + 1))).set .ledRcptStaSignPending 0 (bit !rest.isEmpty)
      let s := if late then (s.bump .ledRcptLateLate).cairnRec .rcptLate (some ⟨.hash, 0⟩) (leBytes seq 8) else s
      .next ((s.exportRings 9).foldl (fun s r => s.sendReceipt r x) s)

/-! ### Export after a stop (R255) -/

/-- A record a stopped ring is still to get, and the epoch it belongs to: a leaf or a gap, with the sequence that comes after it, or an
epoch's close. -/
inductive ExpItem where
  | leaf (d : Bytes) (epoch next : Nat)
  | gap (d : Bytes) (epoch next : Nat)
  | close (d : Bytes) (epoch : Nat)
  deriving DecidableEq, Repr

/-- The epoch of an item. -/
def ExpItem.epoch : ExpItem → Nat
  | .leaf _ e _ | .gap _ e _ | .close _ e => e

/-- The epoch of a sequence number of a lane. -/
def State.seqEpoch (s : State) (l q : Nat) : Nat :=
  (((s.led? l).firsts.filter (fun x => decide (x.2 ≤ q))).getLast?.map (·.1)).getD 0

/-- The leaves a ring is still to get from sequence `q` on, out of the kept records, with one gap record for each range of sequence
numbers that is overwritten. -/
def State.leafItems (s : State) (l r : Nat) : Nat → List LeafRec → List ExpItem
  | q, [] =>
    let top := (s.reg .ledLaneSeq l).toNat
    if q < top then [.gap (gapRecord l (s.seqEpoch l q) q (top - 1)) (s.seqEpoch l q) top] else []
  | q, x :: t =>
    if x.seq < q then s.leafItems l r q t
    else
      (if q < x.seq then [.gap (gapRecord l (s.seqEpoch l q) q (x.seq - 1)) (s.seqEpoch l q) x.seq] else []) ++
      (if s.ringCarries r x then [.leaf (leafRecord l x) x.epoch (x.seq + 1)] else []) ++ s.leafItems l r (x.seq + 1) t

/-- Epoch closes put in their places: each after the last record of its epoch (R254). -/
def withCloses (l : Nat) : List EpochEntry → List ExpItem → List ExpItem
  | [], is => is
  | e :: t, is =>
    is.takeWhile (fun i => decide (i.epoch ≤ e.epoch)) ++ [.close (closeRecord l e) e.epoch] ++
      withCloses l t (is.dropWhile (fun i => decide (i.epoch ≤ e.epoch)))

/-- What a stopped ring is still to get, in order: from sequence `q` and the close of epoch `n` on. -/
def State.expItems (s : State) (l r q n : Nat) : List ExpItem :=
  withCloses l (s.led.epochs.filter (fun e => decide (n ≤ e.epoch) && s.inRootArea e.epoch)) (s.leafItems l r q (s.allRetained l))

/-- Post what fits, `q` and `n` being the sequence and the close that come next; the ring goes on once everything is posted. -/
def State.expDrain (s : State) (l r q n : Nat) : List ExpItem → State
  | [] => s.setExp l r none
  | i :: t =>
    if s.expRoom r 128 then
      match i with
      | .leaf d e q => (s.expPut r d e false).expDrain l r q n t
      | .gap d e q => ((s.expPut r d e false).bump .ledLaneExpgapGaps l).expDrain l r q n t
      | .close d e => (s.expPut r d e true).expDrain l r q (e + 1) t
    else (s.closeFull r 128).setExp l r (some (q, n))

/-- EXPORT_RESUME: a stopped ring with space again takes up from the oldest record not yet exported to it (R255). -/
def execExportResume (l : Lane) (r : RingIx) (s : State) : Out :=
  match SMap.find s.led.exports (expKey l.val r.val) with
  | none => .next s
  | some (q, e) =>
    if s.ringKind r.val = 8 ∧ s.ringLive r.val then .next (s.expDrain l.val r.val q e (s.expItems l.val r.val q e)) else .next s

/-! ### Retention banks (R257) -/

/-- Arm a swap of a lane's retention banks, or refuse it while an old region is held (R257). -/
def State.armRet (s : State) (l : Nat) : State :=
  if s.is .ledRetStaOldHeld l then s.set .ledRetStaRefused l 1
  else (s.set .ledRetStaPending l 1).set .ledRetStaRefused l 0

/-- LED_RET_SWAP: writing 1 arms a swap for the next epoch beginning, refused while an old region is held (R257). -/
def execLedRetSwap (l : Lane) (v : BitVec 32) (s : State) : Out := .next (if v.getLsbD 0 then s.armRet l.val else s)

/-- LED_RET_RELEASE: writing 1 releases the old region (R257). -/
def execLedRetRelease (l : Lane) (v : BitVec 32) (s : State) : Out :=
  if v.getLsbD 0 then
    let s := s.setLed l.val { s.led? l.val with oldRetained := [], oldUpTo := 0 }
    .next ((s.set .ledRetStaOldHeld l.val 0).showOldest l.val)
  else .next s

/-! ### Proofs and retained receipts (R258, R259) -/

/-- What makes a ledger command malformed (R258). -/
def ledBad (op : Nat) (e : Bytes) : Option Nat :=
  if leAt e 0 2 ≠ op then some ecOpcode
  else if 2 ≤ leAt e 63 1 then some ecReserved
  else if op = 1 then (if zeroAt e 3 1 && zeroAt e 32 30 then none else some ecReserved)
  else if zeroAt e 2 2 && zeroAt e 16 8 && zeroAt e 32 30 then none else some ecReserved

/-- Complete a ledger command: bytes 4-7 the length written or needed, and the data into its buffer. -/
def State.ledAnswer (s : State) (r i : Nat) (e : Bytes) (status : Nat) (d : Bytes) : State :=
  if status ≠ 0 then s.complete r i (sliceB e 0 4 ++ leBytes 0 4 ++ sliceB e 8 54) status
  else if leAt e 4 4 < d.length then s.complete r i (sliceB e 0 4 ++ leBytes d.length 4 ++ sliceB e 8 54) 4
  else s.putThen r i (leAt e 24 8) d (fun s => s.complete r i (sliceB e 0 4 ++ leBytes d.length 4 ++ sliceB e 8 54) 0)

/-- The proof of one leaf: its status, and its bytes (R259). -/
def State.proofOf (s : State) (f lane epoch seq : Nat) : Nat × Bytes :=
  if !s.ledOn ∨ epoch < (s.reg .ledStartEpoch 0).toNat ∨ 15 < lane then (3, [])
  else if s.led.spanFirst ≤ epoch then (1, [])
  else match s.epochEntry epoch, s.led.receipts.find? (fun r => decide (r.first ≤ epoch) && decide (epoch ≤ r.last)) with
    | some e, some rc =>
      let x := e.lanes.getD lane ([], 0, 0)
      let n := x.2.1
      if !inRange seq x.2.2 n then (3, [])
      else
        let ls := (s.allRetained lane).filter (fun y => y.epoch == epoch)
        match ls.find? (fun y => y.seq == seq) with
        | none => (2, [])
        | some y =>
          if f ≠ 0 ∧ y.tenant ≠ f then (5, [])
          else if ls.length ≠ n then (2, [])
          else
            let i := seq - x.2.2
            let p := treePath 0x01 i (ls.map leafHash)
            let q := treePath 0x04 (epoch % 1024) (s.spanRoots rc.last)
            (0, leBytes epoch 8 ++ leBytes rc.seq 8 ++ leBytes lane 1 ++ leBytes p.length 1 ++ leBytes q.length 1 ++ [0] ++
              leBytes e.tqw 4 ++ leBytes n 8 ++ leBytes i 8 ++ y.leaf ++ beBytes y.annot.toNat 8 ++ (e.lanes.map (·.1)).flatten ++
              p.flatten ++ q.flatten)
    | _, _ => (2, [])

/-- A ledger ring reaches a PROOF entry, or one whose opcode is reserved (R258, R259). -/
def State.proofEntry (s : State) (r : Nat) (e : Bytes) : State :=
  s.takeEntry r 7 e (ledBad 1 e) (fun s i =>
    let a := s.proofOf (s.ringOwner r) (leAt e 2 1) (leAt e 8 8) (leAt e 16 8)
    let s' := s.ledAnswer r i e a.1 a.2
    if a.1 = 0 ∧ a.2.length ≤ leAt e 4 4 then s'.bump .ledProofCntProofs else s')

/-- PROOF (R258, R259). -/
def execProof (r : RingIx) (e : Bytes) (s : State) : Out :=
  .next (if leAt e 0 2 = 1 then s.proofEntry r.val e else s)

/-- May a function ask for receipts: PF0, or a tenant with an export grant (R258)? -/
def State.mayExport (s : State) (f : Nat) : Bool :=
  f == 0 || (match SMap.find s.ten.tenants f with
    | some t => t.grant.export_
    | none => false)

/-- A ledger ring reaches a RECEIPT entry (R256, R258). -/
def State.receiptEntry (s : State) (r : Nat) (e : Bytes) : State :=
  s.takeEntry r 7 e (ledBad 2 e) (fun s i =>
    let q := leAt e 8 8
    if !s.mayExport (s.ringOwner r) then s.ledAnswer r i e 5 []
    else if (s.reg .ledRcptSeq 0).toNat ≤ q then s.ledAnswer r i e 1 []
    else match s.led.receipts.find? (fun x => x.seq == q) with
      | some x => s.ledAnswer r i e 0 x.bytes
      | none => s.ledAnswer r i e 2 [])

/-- RECEIPT (R256, R258). -/
def execReceipt (r : RingIx) (e : Bytes) (s : State) : Out :=
  .next (if leAt e 0 2 = 2 then s.receiptEntry r.val e else s)

/-- A ledger ring reaches an entry of any opcode. -/
def State.ledEntry (s : State) (r : Nat) (e : Bytes) : State :=
  if leAt e 0 2 = 2 then s.receiptEntry r e else s.proofEntry r e

/-! ### Sparing (R242, R456) -/

/-- HASH_SPARE: a lane's hash pipeline fails; the spare takes its place under a new incarnation, the leaves being rebuilt from
staging, or the lane is left without one (R242, R456). -/
def execHashSpare (l : Lane) (s : State) : Out :=
  let n := l.val
  if !s.ledOn || (s.led? n).stuck.isSome then .next s
  else if s.led.spareUsed then
    let s := s.setLed n { s.led? n with stuck := some (s.stagedNow n) }
    .next (s.cairnRec .hashSpare (some ⟨.hash, 0⟩) [BitVec.ofNat 8 n, 1, 1])
  else
    let s := ({ s with led := { s.led with spareUsed := true } }).enterService ⟨.lane, n⟩
    .next (s.cairnRec .hashSpare (some ⟨.hash, 0⟩) [BitVec.ofNat 8 n, 1, 0])

end Sys2Proof.Machine
end

