-- ==== Sys2Proof/Machine/Ports.lean ====
section
/-! DEFINITION. Commands of ports: enable and disable, link state, PAUSE, and the two-step stamp queues (chapters 03 and 08). -/

namespace Sys2Proof.Machine

/-! ### Enable and disable -/

/-- Count an ignored write to a port's registers and set its ign bit (R418). -/
def State.ignPort (s : State) (n : Nat) : State := (s.bump .portIgnCntIgnored n).set .portStaIgn n 1

/-- A port's calibration starts anew: no measurement in its present mode, in training if auto-negotiation is on (R72, R88). -/
def State.freshLanes (s : State) (n : Nat) : State :=
  (List.range (s.portLanes n)).foldl (fun s i =>
    let l := n + i
    ((s.setLane l { s.lane l with dieRx := 0, dieTx := 0, newRx := none, newTx := none, prevRx := 0, prevTx := 0, measured := false,
                                  adapt := false, training := s.is .portCfgAn n }).showLane n l).judgeLane l) s

/-- Judge the lanes of a port, stale or not (R88). -/
def State.judgeLanes (s : State) (n : Nat) : State :=
  (List.range (s.portLanes n)).foldl (fun s i => s.judgeLane (n + i)) s

/-- The port, its sixteen queues and its Col gate list enter service (R95, R237). -/
def State.portService (s : State) (n : Nat) : State :=
  let s := (s.enterService ⟨.port, n⟩).enterService ⟨.colList, n⟩
  (List.range 16).foldl (fun s q => s.enterService ⟨.queue, n * 16 + q⟩) s

/-- PORT_ENABLE: a write of en = 1 (R70, R95, R97). -/
def execPortEnable (n : Port) (s : State) : Out :=
  let s' := s.set .portStaIgn n.val 0
  if s.portOn n.val then .next s'
  else if s.portEnableOk n.val then
    let s := (s'.set .portCtlEn n.val 1).portService n.val
    .next ((((s.freshLanes n.val).showTxdis (n.val / 8)).set .portStaGated n.val (bit (!s.gateOpen))).noteTqw)
  else .next (s.ignPort n.val)

/-- A frame held in a disabled port's queue is discarded and counted; a TX entry completes DISCARDED (R237, R341). -/
def State.discardEnt (s : State) (p : Nat) (e : QEnt) : State :=
  let s := s.bump .tmPortDiscFrames p
  match s.frame? e.fid with
  | none => s
  | some f =>
    let s := if f.tx.isSome then s.finishTx f 4 0 else s
    let f := { f with copies := f.copies - 1, onWire := f.onWire - 1, tx := none }
    (s.putFrame e.fid f).copyDone e.fid

/-- Discard what a port's queues hold (R237); a frame that its transmitter has been given goes on to its end (R218). -/
def State.flushPort (s : State) (p : Nat) : State :=
  (List.range 16).foldl (fun s q =>
    (s.queue p q).foldl (fun s e => (s.freeBuf e).discardEnt p e) (s.setQueue p q [])) s

/-- A cancelled swap's record names the block by the incarnation it held and carries its arm register's offset (R427). -/
def State.swapCancel (s : State) (b : Blk) (off : Nat) : State := s.cairnRec .swapCancel (some b) (leBytes off 4)

/-- Cancel a port's pending TM swap and Col switch (R427). -/
def State.cancelPortSwaps (s : State) (p : Nat) : State :=
  let s := if s.is .tmPortStaSwapPending p then
      let s := { s with tm := { s.tm with tmTarget := SMap.put s.tm.tmTarget p none } }
      (s.set .tmPortStaSwapPending p 0).swapCancel ⟨.port, p⟩ (0x100000 + p * 0x1000)
    else s
  if s.is .colStaPending p then
    let s := { s with tm := { s.tm with colPend := SMap.put s.tm.colPend p none } }
    (s.set .colStaPending p 0).swapCancel ⟨.colList, p⟩ (0x300000 + p * 0x80)
  else s

/-- PORT_DISABLE: a write of en = 0, ignored while contracts name the port (R94, R237, R427). -/
def execPortDisable (n : Port) (s : State) : Out :=
  let p := n.val
  if s.get .portStaContracts p ≠ 0 then .next (s.ignPort p)
  else if s.portOn p then
    let lanes := s.portLanes p
    let s := (s.set .portStaIgn p 0).cancelPortSwaps p
    let s := s.flushPort p
    let s := ((((s.set .portCtlEn p 0).set .portStaLink p 0).set .portStaAlign p 0).set .portStaLocalFault p 0)
    let s := (s.set .portStaRemoteFault p 0).set .portStaSkewFail p 0
    let s := ((List.range 16).foldl (fun s q => s.leaveService ⟨.queue, p * 16 + q⟩)
      ((s.leaveService ⟨.port, p⟩).leaveService ⟨.colList, p⟩))
    let s := (List.range lanes).foldl (fun s i => s.set .portCalStaStale (p + i) 0) s.noteTqw
    .next (s.showTxdis (p / 8))
  else .next (s.set .portStaIgn p 0)

/-! ### Link -/

/-- Mark a port's lanes as out of training; a lane that was in training awaits a new measurement (R88). -/
def State.endTraining (s : State) (n : Nat) : State :=
  (List.range (s.portLanes n)).foldl (fun s i =>
    let c := s.lane (n + i)
    if c.training then s.setLane (n + i) { c with training := false, measured := false } else s) s

/-- PORT_LINK_UP: alignment is achieved, unless the lanes' skew is above 64 ns (R74, R516). -/
def execPortLinkUp (n : Port) (skewNs : Nat) (s : State) : Out :=
  let p := n.val
  if s.portOn p then
    if 1 < s.portLanes p ∧ 64 < skewNs then .next (((s.set .portStaSkewFail p 1).set .portStaLink p 0).set .portStaAlign p 0)
    else
      let s := ((s.set .portStaSkewFail p 0).set .portStaAlign p 1).set .portStaLink p 1
      .next ((s.endTraining p).judgeLanes p).noteTqw
  else .next s

/-- PORT_LINK_DOWN: lock or alignment is lost; the port keeps its incarnation (R95, R516).  With auto-negotiation on, its lanes
train again (R72). -/
def execPortLinkDown (n : Port) (s : State) : Out :=
  let p := n.val
  if s.portOn p then
    let s := (s.set .portStaLink p 0).set .portStaAlign p 0
    let s := if s.is .portCfgAn p then
        (List.range (s.portLanes p)).foldl (fun s i => s.setLane (p + i) { s.lane (p + i) with training := true }) s
      else s
    .next (s.judgeLanes p).noteTqw
  else .next s

/-- The lanes of a port whose adaptation is outside limits; a lane whose adaptation is within limits again awaits a new measurement
(R88). -/
def State.showAdapt (s : State) (n : Nat) (adapt : BitVec 8) : State :=
  (List.range (s.portLanes n)).foldl (fun s i =>
    let c := s.lane (n + i)
    s.setLane (n + i) { c with adapt := adapt.getLsbD i, measured := c.measured && !c.adapt && !adapt.getLsbD i }) s

/-- PORT_LINK_FAULT: a local or remote fault is shown, and which of the port's lanes have an adaptation outside limits; transmission
continues (R82, R88). -/
def execPortLinkFault (n : Port) (localFault : LaneFault) (remoteFault : Bool) (s : State) : Out :=
  if s.portOn n.val then
    let s := (s.set .portStaLocalFault n.val (bit localFault.fault)).set .portStaRemoteFault n.val (bit remoteFault)
    .next ((s.showAdapt n.val localFault.adapt).judgeLanes n.val).noteTqw
  else .next s

/-! ### PAUSE and PFC (R83, R234) -/

/-- Does a frame fail on arrival by itself: its FCS does not match, or it is a runt (R78, R80)? -/
def frameBad (b : Bytes) : Bool :=
  decide (b.length < 64) || leNat (b.drop (b.length - 4)) != (fcs (b.take (b.length - 4))).toNat

/-- Pause queue `q` of port `p` for a number of quanta of 512 bit times from now. -/
def State.pauseQ (s : State) (p q quanta : Nat) : State :=
  let till := if quanta = 0 then 0 else s.elapsed + ceilDiv (quanta * 512 * unitsPerNs) (s.portRate p)
  { s with tm := { s.tm with pauses := SMap.setD s.tm.pauses (p * 16 + q) till 0 } }

/-- What a good PAUSE frame (opcode 0x0001) or PFC frame (opcode 0x0101) does to a port whose pfc_rx is 1 (R234). -/
def State.actPause (s : State) (p : Nat) (b : Bytes) : State :=
  if beAt b 14 2 = 1 then (List.range 16).foldl (fun s q => s.pauseQ p q (beAt b 16 2)) s
  else (List.range 16).foldl (fun s q =>
    let pri := s.get .tmQNccfgPfcPri (p * 16 + q)
    if s.is .tmQNccfgPfcEn (p * 16 + q) && bitOf (beAt b 16 2) pri then s.pauseQ p q (beAt b (18 + 2 * pri) 2) else s) s

/-- The MAC consumes a received frame of EtherType 0x8808, unless it is too long or bad (R81, R83). -/
def State.macConsume (s : State) (p : Nat) (b : Bytes) (bad : Bool) : State :=
  if s.maxRx p < b.length then s.bump .portRxOversizeFrames p
  else if bad then s.bump .portRxBadFrames p
  else
    let s := s.bump .portRxFramesFrames p
    if beAt b 14 2 = 1 ∨ beAt b 14 2 = 0x0101 then
      let s := s.bump .portRxPauseFrames p
      if s.is .portMacCfgPfcRx p then s.actPause p b else s
    else s

/-- PAUSE_RX: the MAC of an enabled port consumes a control frame (R83, R234). -/
def execPauseRx (n : Port) (frame : Bytes) (s : State) : Out :=
  if s.portOn n.val && isMacCtl frame then .next (s.macConsume n.val frame (frameBad frame)) else .next s

/-- PAUSE_END: a queue's pause runs out and it resumes (R234). -/
def execPauseEnd (n : Port) (q : Fin 16) (s : State) : Out :=
  let k := n.val * 16 + q.val
  let s := s.advanceAt (SMap.getD s.tm.pauses k 0)
  .next { s with tm := { s.tm with pauses := SMap.setD s.tm.pauses k 0 0 } }

/-! ### Two-step stamp queues (R91, R92) -/

/-- The key of a reader's latch for an octet: a function, or control firmware, which alone reads the protocol engine's entries (R92). -/
def latchKey (f : Option Fn) (o : Nat) : Nat := ((f.map (·.val)).getD 129) * 32 + o

/-- How many entries of an octet's queue a reader owns. -/
def State.tsqFill (s : State) (f : Option Fn) (o : Nat) : Nat :=
  ((SMap.getD s.ports.tsq o []).filter (fun e => e.owner == f.map (·.val))).length

/-- The value a read of PORT_TSQ_META returns for a latch and a fill. -/
def tsqMeta (l : Option TsqEntry) (fill : Nat) : BitVec 64 :=
  BitVec.ofNat 64 ((match l with
    | some e => e.swId <<< 48 ||| e.portInc <<< 32 ||| e.port <<< 24 ||| 1 <<< 7
    | none => 0) ||| fill)

/-- Does a function's window hold an octet's stamp registers: a VF's only where the octet holds a port of its grant (R370)? -/
def State.tsqSees (s : State) (f : Option Fn) (oct : Nat) : Bool :=
  match f with
  | some f => f.val == 0 || (SMap.find s.ten.tenants f.val).any (fun t => bitsOf t.grant.ports (8 * oct + 7) (8 * oct) != 0)
  | none => true

/-- PORT_TSQ_META_READ: the reader's oldest entry is copied into its latch unless the latch holds one (R92). -/
def execPortTsqMetaRead (f : Option Fn) (oct : Octet) (s : State) : Out :=
  if f.map (·.val) = some 128 then .next s
  else if !s.tsqSees f oct.val then .next { s with readData := 0 }
  else
    let k := latchKey f oct.val
    let l := match SMap.find s.ports.tsqLatch k with
      | some e => some e
      | none => (SMap.getD s.ports.tsq oct.val []).find? (fun e => e.owner == f.map (·.val))
    let s := { s with ports := { s.ports with tsqLatch := SMap.put s.ports.tsqLatch k l } }
    .next { s with readData := tsqMeta l (s.tsqFill f oct.val) }

/-- PORT_TSQ_LT_READ: returns the latched egress LT and removes the entry, all ones when the latch holds none (R92). -/
def execPortTsqLtRead (f : Option Fn) (oct : Octet) (s : State) : Out :=
  let k := latchKey f oct.val
  if !s.tsqSees f oct.val then .next { s with readData := 0 }
  else match SMap.find s.ports.tsqLatch k with
  | some e =>
    let q := (SMap.getD s.ports.tsq oct.val []).erase e
    let s := { s with ports := { s.ports with tsqLatch := SMap.put s.ports.tsqLatch k none,
                                              tsq := SMap.setD s.ports.tsq oct.val q [] } }
    .next { s with readData := e.lt }
  | none => .next { s with readData := 0xFFFFFFFFFFFFFFFF#64 }

end Sys2Proof.Machine
end

