-- ==== Sys2Proof/Machine/Ingress.lean ====
section
/-! DEFINITION. Commands of the ingress pipeline: stamping, classification, policing and the end of a received frame, and the
learner, the ager and Scree's work on tables (chapter 04). -/

namespace Sys2Proof.Machine

/-! ### Instants of a received frame, in LT units after its stamp -/

/-- Time to receive `n` bytes on port `p`, LT units. -/
def State.rxUnits (s : State) (p n : Nat) : Nat := 8 * n * unitsPerNs / s.portRate p

/-- The classifier's decision after the ingress stamp (R73, R96, R97, R303). -/
def State.decideUnits (s : State) (p : Nat) : Nat :=
  (s.portIn p + s.secyRx p + ceilDiv (8 * s.portDepth p) (s.portRate p) + 12) * unitsPerNs

/-- Bytes the MAC takes of a frame before it knows the frame's end: its length, or one more than max_frame (R81). -/
def State.heardBytes (s : State) (p : Nat) (b : Bytes) : Nat := min b.length (s.maxRx p + 1)

/-- The instant the end of a frame is known, after its stamp (R81, R97). -/
def State.knownUnits (s : State) (p : Nat) (b : Bytes) : Nat :=
  s.portIn p * unitsPerNs + s.rxUnits p (s.heardBytes p b) + 2 * unitsPerNs

/-- INGRESS_STAMP: a frame's first bit crosses the receive plane of an enabled port whose link is up, and its LT and FT are latched
(R47, R84, R86, R98). -/
def execIngressStamp (n : Port) (lane : Fin 8) (frame : Bytes) (s : State) : Out :=
  let p := n.val
  if s.portOn p && s.is .portStaLink p && decide (lane.val < s.portLanes p) then
    let t := s.rxStamp p (p + lane.val) s.lt
    let f : Frame := { port := some p, portInc := s.get .portStaInc p, bytes := frame, hdr := sliceB frame 0 256, lt := t,
                       ft := s.ftOf t }
    .next (s.newFrame f).1
  else .next s

/-! ### After a frame's end and match -/

/-- The learner's key of a frame: source address and VLAN ID (R113), the ID as two big-endian bytes after the address (DESIGN CHOICE,
assumption 142). -/
def State.learnKey (s : State) (p : Nat) (b : Bytes) : Bytes :=
  let tag := beAt b 12 2
  let vlan := if tag = 0x8100 ∨ tag = 0x88A8 then beAt b 14 2 % 4096 else s.get .ingPortCfgDefVlan p
  sliceB b 6 6 ++ beBytes vlan 2

/-- A good frame that is not red is given to the learner, whose queue holds 4,096 (R113, R114). -/
def State.pushLearn (s : State) (p : Nat) (b : Bytes) : State :=
  if s.is .ingPortCfgLearnEn p then
    let t := s.get .ingPortCfgLearnTbl p
    if s.ing.learns.length < 4096 then
      { s with ing := { s.ing with learns := s.ing.learns ++ [{ table := t, key := s.learnKey p b, port := p }] } }
    else s.bump .ingTblLearnDropDropped t
  else s

/-- Settle the marker's charge for a frame that has ended: the charge was its own version's L_max, the buckets are those of the version in
force (R104, R107, R209). -/
def State.settleFrame (s : State) (f : Frame) (p : Nat) : State :=
  match f.con, s.frameVer f with
  | some (c, _), some v =>
    let len := min f.bytes.length v.body.lMax
    let stop := f.lt + BitVec.ofNat 64 (s.rxUnits p len)
    let r := ((s.inForce c).getD v).body
    if f.colour = 1 ∨ f.colour = 2 then s.setPol c (((s.pol c).accrue r stop).settle r f.colour (v.body.lMax - len)) else s
  | _, _ => s

/-- Does a frame run past its contract's largest frame (R107)? -/
def State.overlen (s : State) (f : Frame) (p : Nat) : Bool :=
  match s.frameVer f with
  | some v => decide (v.body.lMax < min f.bytes.length (s.get .portMacCfgMaxFrame p))
  | none => false

/-- The messages that carry a frame have it whole: they may be sent, the frame's failure shown by its stomped FCS (R77, R80). -/
def State.fillMsgs (s : State) (fid : Nat) (f : Frame) : State :=
  let d := s.frameOut f
  { s with zoa := { s.zoa with msgs := s.zoa.msgs.map (fun e =>
      if e.2.wait = some fid then (e.1, { e.2 with wait := none, data := d, total := d.length }) else e) } }

/-- What follows once a frame has both ended and been matched: the excess over L_max, the settlement, learning, and the end of what
carries it to host or fabric. -/
def State.afterEnd (s : State) (fid : Nat) : State :=
  match s.frame? fid with
  | none => s
  | some f =>
    let p := f.port.getD 0
    let past := s.overlen f p
    let s := if past then s.bump .ingConOverlenFrames ((f.con.map (·.1)).getD 0) else s
    let s := s.settleFrame f p
    let bad := f.failed || past
    let s := if !bad && f.colour != 3 then s.pushLearn p f.bytes else s
    let f := { f with failed := bad, ended := true }
    (((s.fillMsgs fid f).putFrame fid f).sentLeaf fid).finishRx fid

/-! ### Classification (R101-R106) -/

/-- A frame that matches no entry (R102, R103). -/
def State.noMatch (s : State) (fid : Nat) (f : Frame) (p : Nat) : State :=
  let s := s.bump .ingPortNomatchFrames p
  if s.is .portPtpCfgPtpEn p && (ptpOffset f.bytes).isSome then s.putFrame fid { f with stage := .ptp }
  else if s.get .ingPortCfgNomatch p == 1 && s.is .ingExcCfgEn then
    let r := s.get .ingExcCfgRing
    if s.rxOk r (s.get .portMacCfgMaxFrame p) then s.handRx fid r 1 else (s.bump .ringLostLost r).putFrame fid { f with stage := .done }
  else s.putFrame fid { f with stage := .done }

/-- Count a marked frame (R106). -/
def State.countColour (s : State) (c colour : Nat) : State :=
  if colour = 1 then s.bump .ingConGreenFrames c
  else if colour = 2 then s.bump .ingConYellowFrames c
  else s.bump .ingConRedFrames c

/-- A frame that matches version `v` of contract `c`: the marker colours it, and a red frame goes no further (R104, R106). -/
def State.matched (s : State) (fid : Nat) (f : Frame) (c : Nat) (v : ConVer) : State :=
  let r := ((s.pol c).accrue ((s.inForce c).getD v).body f.lt).charge v.body.lMax
  let s := (s.setPol c r.2).countColour c r.1
  let bound := if r.1 = 1 then v.body.reqC else v.body.reqP
  let f := { f with con := some (c, v.inc), colour := r.1, stage := .matched,
                    deadline := if r.1 = 3 then none else some (f.lt + BitVec.ofNat 64 (bound * unitsPerNs)) }
  let s := s.putFrame fid f
  if r.1 = 3 then s.dispose fid dPolice else s

/-- The instant, after its stamp, at which byte L_max + 1 of a frame's contract has arrived (R107). -/
def State.overUnits (s : State) (f : Frame) (p : Nat) : Nat :=
  s.portIn p * unitsPerNs + s.rxUnits p (((s.frameVer f).map (fun v => v.body.lMax + 1)).getD 0)

/-- The instant, after its stamp, at which a frame that was not too long at its match is known to run past its contract's L_max: 2 ns after
byte L_max + 1 (R107). -/
def State.excessUnits (s : State) (f : Frame) (p : Nat) : Nat := s.overUnits f p + 2 * unitsPerNs

/-- A frame is ended at its contract's L_max as soon as its excess is known; the MAC goes on to hear the rest (R107). -/
def State.cutFrame (s : State) (fid : Nat) (f : Frame) : State := (s.putFrame fid { f with hearing := true }).afterEnd fid

/-- The classifier's decision on a frame; one that the fabric takes on this port reaches no entry, contract or leaf (R263).  A frame whose
end is known by then, or whose byte L_max + 1 has arrived, is ended at once (R97, R107). -/
def State.judgeFrame (s : State) (fid : Nat) (f : Frame) (p : Nat) : State :=
  let k := s.keyOf (s.get .ingPortCfgProf p) f.bytes
  let g := { f with depth := s.portDepth p, anchors := anchorsOf f.bytes, ended := false }
  let s := s.putFrame fid g
  let s := if s.isZoano p f.bytes then s.putFrame fid { g with stage := .done }
    else match s.classifierHit p k.1 k.2 f.lt with
      | none => s.noMatch fid g p
      | some (c, v) => s.matched fid g c v
  if f.ended then s.afterEnd fid
  else match s.frame? fid with
    | some h => if s.overlen h p && decide (s.overUnits h p ≤ s.decideUnits p) then s.cutFrame fid h else s
    | none => s

/-- A good frame on a port with a SecY enters the engine under the SA it names, or is discarded and counted (R291, R303). -/
def State.secyCheck (s : State) (fid : Nat) (f : Frame) (p : Nat) : State :=
  let s := s.putFrame fid f
  if s.secyOn p then
    match s.rxSaOf p (f.bytes.take (f.bytes.length - 4)) with
    | none => s.secyDrop fid
    | some (i, _) => s.addJob 0 (.secyRx fid) i f.bytes.length
  else s

/-- A frame's reception ends: its failure, if any, is counted; before its match a failed frame is discarded (R78-R81); one that has been
ended at L_max is only counted (R107). -/
def State.endRx (s : State) (fid : Nat) (f : Frame) (p : Nat) (rxError : Bool) : State :=
  let past := decide (s.maxRx p < f.bytes.length)
  let bad := frameBad f.bytes || rxError
  let s := if past then s.bump .portRxOversizeFrames p
    else if bad then s.bump .portRxBadFrames p else s.bump .portRxFramesFrames p
  if f.hearing then s.putFrame fid { f with hearing := false } else
  let f := { f with ended := true, failed := past || bad }
  if f.stage = .rx then
    if f.failed then s.putFrame fid { f with stage := .done } else s.secyCheck fid f p
  else (s.putFrame fid { f with ended := false }).afterEnd fid

/-- Is a frame's failure known, from its own bytes, before the classifier's decision (R80, R81, R97)? -/
def State.failsEarly (s : State) (f : Frame) (p : Nat) : Bool :=
  (frameBad f.bytes || decide (s.maxRx p < f.bytes.length)) && !f.ended &&
  decide (s.knownUnits p f.bytes < s.decideUnits p)

/-- The classifier reaches its fixed time for a frame that has not been judged. -/
def State.classifyNow (s : State) (fid : Nat) : State :=
  match s.frame? fid with
  | none => s
  | some f => match f.port with
    | none => s
    | some p =>
      if f.stage != .rx || (isMacCtl f.bytes && !f.ended) || (s.secyOn p && !f.plain) then s
      else
        let s := s.advanceTo (f.lt + BitVec.ofNat 64 (s.decideUnits p))
        if s.failsEarly f p then s.endRx fid f p false else s.judgeFrame fid f p

/-- CLASSIFY: at the fixed parse time the classifier matches the frame and the policer colours it (R96, R101, R104). -/
def execClassify (fid : Nat) (s : State) : Out := .next (s.classifyNow fid)

/-- Is a receive error met while the frame still arrives and before the classifier's decision, so that the MAC discards the frame at once
(R80)? -/
def State.errorEarly (s : State) (f : Frame) (p : Nat) (rxError : Bool) : Bool :=
  rxError && f.stage == .rx && !isMacCtl f.bytes &&
  ltAfter (f.lt + BitVec.ofNat 64 (s.decideUnits p)) s.lt && !ltAfter s.lt (f.lt + BitVec.ofNat 64 (s.knownUnits p f.bytes))

/-- The end of a frame is heard at the MAC, after the end at L_max of a frame that runs past it, each at its own instant: a first
RX_FRAME_END of such a frame ends it at L_max, and a second is the MAC's (R107). -/
def State.hearEnd (s : State) (fid : Nat) (f : Frame) (p : Nat) (rxError : Bool) : State :=
  if s.overlen f p && !f.ended && f.stage != .rx then
    (s.advanceTo (f.lt + BitVec.ofNat 64 (s.excessUnits f p))).cutFrame fid f
  else
    let s := s.advanceTo (f.lt + BitVec.ofNat 64 (s.knownUnits p f.bytes))
    if isMacCtl f.bytes then
      (s.macConsume p f.bytes (frameBad f.bytes || rxError)).putFrame fid { f with stage := .done, ended := true }
    else s.endRx fid f p rxError

/-- RX_FRAME_END: the frame's end is known, or a receive error is met (`rxError`); the classifier's decision comes first where it lies
earlier (R78, R80, R83, R97, R104, R107). -/
def execRxFrameEnd (fid : Nat) (rxError : Bool) (s : State) : Out :=
  match s.frame? fid with
  | none => .next s
  | some f => match f.port with
    | none => .next s
    | some p =>
      if f.ended && !f.hearing then .next s
      else if s.errorEarly f p rxError then .next (s.endRx fid f p true)
      else
        let s := if s.decideUnits p ≤ s.knownUnits p f.bytes ∧ !s.secyOn p then s.classifyNow fid else s
        match s.frame? fid with
        | none => .next s
        | some g => .next (if g.ended && !g.hearing then s else s.hearEnd fid g p rxError)

/-- POLICER_WALK: every policer of a contract in force accrues to now (R105). -/
def execPolicerWalk (s : State) : Out :=
  .next (s.ing.policers.foldl (fun s e =>
    match s.inForce e.1 with
    | some v => s.setPol e.1 ((s.pol e.1).accrue v.body s.lt)
    | none => s) s)

/-! ### Learning, aging and repair -/

/-- The result of an entry the learner writes for a port (R113). -/
def State.learnedResult (s : State) (p : Nat) : BitVec 64 := BitVec.ofNat 64 (s.get .portStaInc p <<< 16 ||| p)

/-- The learner acts on one request (R113, R114).  An entry counts as learned only where the learner inserted it (DESIGN CHOICE,
assumption 140); a parity mismatch in a bucket of the key is counted and the request dropped (DESIGN CHOICE, assumption 141). -/
def State.learnOne (s : State) (x : LearnReq) : State :=
  let t := x.table
  let e : TEntry := { key := x.key, result := s.learnedResult x.port, portTyped := true, learned := true, stamp := s.shortTime }
  let s := s.flushVisits t
  if !s.tblOn t || s.isPrefix t || s.keyLen t != 8 then s.bump .ingTblLearnDropDropped t
  else if (s.damaged t x.key).length ≠ 0 then (s.mismatches t x.key).bump .ingTblLearnDropDropped t
  else match s.entry t x.key 0 with
    | none =>
      let r := s.addEntry t e false
      if r.2 = .full then r.1.bump .ingTblLearnDropDropped t else r.1.bump .ingTblLearnLearns t
    | some o =>
      if !o.learned then
        if !o.static && s.is .ingTblCfgRefresh t then s.putEntry t x.key 0 (some { o with stamp := s.shortTime }) else s
      else if bitsOf o.result.toNat 8 0 = x.port ∧ !s.stalePort o then
        if s.is .ingTblCfgRefresh t then s.putEntry t x.key 0 (some { o with stamp := s.shortTime }) else s
      else (s.putEntry t x.key 0 (some { o with result := e.result, stamp := s.shortTime })).bump .ingTblLearnLearns t

/-- LEARN: the learner takes its oldest request (R113). -/
def execLearn (s : State) : Out :=
  match s.ing.learns with
  | [] => .next s
  | x :: t => .next ({ s with ing := { s.ing with learns := t } }.learnOne x)

/-- AGE_VISIT: the ager visits an entry (R115, R116, R119). -/
def execAgeVisit (t : Table) (key : Bytes) (plen : Nat) (s : State) : Out :=
  let s := s.flushVisits t.val
  let k := s.normKey t.val key plen
  match s.entry t.val k plen with
  | none => .next s
  | some e =>
    let m := s.get .ingTblCfgMaxAge t.val
    let old := !e.static && m != 0 && decide ((m : Int) < s.ageOf e)
    if old || (e.learned && s.stalePort e) then .next ((s.putEntry t.val k plen none).bump .ingTblAgedAged t.val) else .next s

/-- PARITY_REPAIR: Scree repairs a damaged entry from its code, or deletes it and records that (R118). -/
def execParityRepair (t : Table) (key : Bytes) (plen : Nat) (s : State) : Out :=
  let k := s.normKey t.val key plen
  match s.entry t.val k plen with
  | none => .next s
  | some e =>
    if e.parity = 0 then .next s
    else if e.parity = 1 then .next ((s.putEntry t.val k plen (some { e with parity := 0 })).bump .sysEccSramCorrected)
    else .next (((s.putEntry t.val k plen none).bump .sysEccSramUncUncorrectable).cairnRec .tblParity (some ⟨.table, t.val⟩) (sliceB k 0 16 ++ [1]))

end Sys2Proof.Machine
end

