-- ==== Sys2Proof/Machine/Tables.lean ====
section
/-! DEFINITION. Table blocks and table commands: enable and disable, SEARCH, NEXT, INSERT, DELETE, FLUSH_BY_PORT and MC_SET
(chapter 04). -/

namespace Sys2Proof.Machine

/-! ### Enable and disable (R108, R520, R521) -/

/-- Count an ignored write to a table's registers and set its ign bit (R418). -/
def State.ignTable (s : State) (t : Nat) : State := (s.bump .ingIgnCntIgnored).set .ingTblStaIgn t 1

/-- The pool a table kind draws on: 0 on-die exact match, 2 IPv4, 3 IPv6; and the pools' sizes in units of 1,024 (R108). -/
def poolOf (kind : Nat) : Nat := if kind = 1 then 0 else kind
def poolSize (pool : Nat) : Nat := if pool = 0 then 2048 else if pool = 2 then 1024 else if pool = 3 then 256 else 0

/-- Units drawn from a pool by enabled tables. -/
def State.poolUsed (s : State) (pool : Nat) : Nat :=
  (List.range 256).foldl (fun n t => if s.tblOn t && poolOf (s.tblKind t) == pool then n + s.get .ingTblCfgCap t else n) 0

/-- Units drawn from the extension pool of 1,024. -/
def State.extUsed (s : State) : Nat :=
  (List.range 256).foldl (fun n t => if s.tblOn t && s.tblKind t == 1 then n + s.get .ingTblCfgExtCap t else n) 0

/-- Can some channel pair host extension copies (R448)? -/
def State.pairHosts (s : State) : Bool :=
  (List.range 4).any (fun p =>
    [2 * p, 2 * p + 1].all (fun c => s.blkState ⟨.memCh, c⟩ == 2 && (SMap.find s.mem.fast c).isSome))

/-- May a table be enabled (R108, R448, R520)? -/
def State.tblEnableOk (s : State) (t : Nat) : Bool :=
  let p := poolOf (s.tblKind t)
  decide (s.poolUsed p + s.get .ingTblCfgCap t ≤ poolSize p) &&
  (s.tblKind t != 1 || (decide (s.extUsed + s.get .ingTblCfgExtCap t ≤ 1024) && s.pairHosts))

/-- TABLE_ENABLE: a write of en = 1 draws the capacity, or is ignored and counted (R108). -/
def execTableEnable (t : Table) (s : State) : Out :=
  if s.tblOn t.val then .next (s.set .ingTblStaIgn t.val 0)
  else if s.tblEnableOk t.val then
    .next (((s.set .ingTblStaIgn t.val 0).set .ingTblCtlEn t.val 1).enterService ⟨.table, t.val⟩)
  else .next (s.ignTable t.val)

/-- TABLE_DISABLE: a write of en = 0 discards every entry and returns the capacity (R521). -/
def execTableDisable (t : Table) (s : State) : Out :=
  let s := s.set .ingTblStaIgn t.val 0
  if s.tblOn t.val then .next (((s.set .ingTblCtlEn t.val 0).setTbl t.val []).leaveService ⟨.table, t.val⟩) else .next s

/-! ### Descriptors (R121-R123) -/

/-- Status codes of R123. -/
def tsOk : Nat := 0
def tsNotFound : Nat := 1
def tsExists : Nat := 2
def tsFull : Nat := 3
def tsStale : Nat := 4
def tsDenied : Nat := 5
def tsBadCursor : Nat := 6
def tsEvicted : Nat := 7
/-- No status: the command's access to host memory failed (R347). -/
def tsAccess : Nat := 256

/-- The table or group a command names: its index, or the status that refuses it (R121, R123). -/
def State.target (s : State) (own op : Nat) (ref : BitVec 64) : Nat ⊕ Nat :=
  match refBlk ref with
  | some ⟨.table, t⟩ =>
    if op = 6 ∨ s.get .ingTblStaOwner t ≠ own then .inr tsDenied
    else if s.refCurrent ref then .inl t else .inr tsStale
  | some ⟨.mcGroup, g⟩ =>
    if op ≠ 6 ∨ s.ownerOf ⟨.mcGroup, g⟩ ≠ own then .inr tsDenied
    else if refInc ref = s.blkInc ⟨.mcGroup, g⟩ then .inl g else .inr tsStale
  | _ => .inr tsDenied

/-- What makes a table command of function `own` malformed, other than its pass field (R121, R122, R347); a prefix length is judged against
the table once the command names one it may act on. -/
def State.tableBad (s : State) (own : Nat) (e : Bytes) : Option Nat :=
  let op := leAt e 0 2
  if op = 0 ∨ 6 < op then some ecOpcode
  else if leAt e 2 1 / 32 ≠ 0 ∨ leAt e 62 1 ≠ 0 ∨ 2 ≤ leAt e 63 1 ∨ (op = 6 ∧ !zeroAt e 48 14) then some ecReserved
  else if op = 2 ∧ (leAt e 4 4 = 0 ∨ 256 < leAt e 4 4) then some ecRange
  else if op = 6 ∧ 15 < leAt e 4 1 then some ecRange
  else if op = 1 ∨ op = 3 ∨ op = 4 then
    match s.target own op (BitVec.ofNat 64 (leAt e 8 8)) with
    | .inl t => if s.isPrefix t ∧ 8 * s.keyLen t < leAt e 3 1 then some ecRange else none
    | .inr _ => none
  else none

/-- The flags of an entry as byte 2 shows them (R122). -/
def entryFlags (e : TEntry) : Nat := bit e.static + 8 * bit e.portTyped

/-! ### Effects (R124) -/

/-- SEARCH: the entry of a key.  An entry without a stamp shows the time since it was inserted or learned (DESIGN CHOICE, assumption 144). -/
def State.doSearch (s : State) (t : Nat) (e : Bytes) : State × Nat × Bytes :=
  let plen := if s.isPrefix t then leAt e 3 1 else 0
  let r := s.readEntry t (s.normKey t (sliceB e 16 16) plen) plen
  match r.2 with
  | none => (r.1, tsNotFound, e)
  | some x =>
    let age := (s.shortTime - x.stamp).toNat
    (r.1, tsOk, pasteB (pasteB (pasteB e 2 (leBytes (entryFlags x) 1)) 32 (leBytes x.result.toNat 8)) 40 (leBytes age 2))

/-- INSERT: adds or replaces the entry of a key. -/
def State.doInsert (s : State) (t : Nat) (e : Bytes) : State × Nat × Bytes :=
  let fl := leAt e 2 1
  let plen := if s.isPrefix t then leAt e 3 1 else 0
  let k := s.normKey t (sliceB e 16 16) plen
  let x : TEntry := { key := k, plen := plen, result := BitVec.ofNat 64 (leAt e 32 8), static := bitOf fl 0, portTyped := bitOf fl 3,
                      stamp := s.shortTime }
  let r := s.readEntry t k plen
  match r.2 with
  | some o =>
    let e := pasteB e 2 (leBytes (entryFlags o) 1)
    if bitOf fl 1 && (!o.static || bitOf fl 0) then
      (r.1.putEntry t k plen (some { x with ext := o.ext, bucket := o.bucket }), tsOk, e)
    else (r.1, tsExists, e)
  | none =>
    let a := r.1.addEntry t x (bitOf fl 2)
    match a.2 with
    | .ok => (a.1, tsOk, e)
    | .full => (a.1, tsFull, e)
    | .evicted v =>
      (a.1, tsEvicted, pasteB (pasteB (pasteB e 2 (leBytes (entryFlags v) 1)) 16 (sliceB v.key 0 16)) 32 (leBytes v.result.toNat 8))

/-- DELETE: removes the entry of a key. -/
def State.doDelete (s : State) (t : Nat) (e : Bytes) : State × Nat × Bytes :=
  let plen := if s.isPrefix t then leAt e 3 1 else 0
  let k := s.normKey t (sliceB e 16 16) plen
  let r := s.readEntry t k plen
  match r.2 with
  | none => (r.1, tsNotFound, e)
  | some x => (r.1.putEntry t k plen none, tsOk, pasteB e 2 (leBytes (entryFlags x) 1))

/-- One 32-byte record of NEXT (R124). -/
def State.nextRecord (s : State) (t : Nat) (x : TEntry) : Bytes :=
  sliceB x.key 0 16 ++ leBytes x.result.toNat 8 ++ leBytes (entryFlags x) 1 ++ leBytes (s.shortTime - x.stamp).toNat 2 ++
  leBytes (if s.isPrefix t then x.plen else 0) 1 ++ [0, 0, 0, 0]

/-- NEXT: up to the requested count of entries after the cursor are read and those that are good returned, with a new cursor; a cursor is
stale once its table has left service (R124, R126, R517).  The cursor's value is a free one:
cursors are opaque. -/
def State.doNext (s : State) (own t : Nat) (e : Bytes) : State × Nat × Bytes :=
  let cur := leAt e 32 8
  let from_ := if cur = 0 then some (t, s.get .ingTblStaInc t, 0) else
    (SMap.find s.ing.cursors cur).map (fun c => (c.table, c.inc, c.after + 1))
  match from_ with
  | none => (s, tsBadCursor, e)
  | some (ct, ci, lo) =>
    if ct ≠ t then (s, tsBadCursor, e)
    else if ci ≠ s.get .ingTblStaInc t ∨ (cur ≠ 0 ∧ !s.tblOn t) then (s, tsStale, e)
    else
      let n := leAt e 4 4
      let rest := (s.tbl t).filter (fun x => decide (lo ≤ x.1))
      let got := rest.take n
      let s := s.readAll t (got.map (·.2))
      let out := got.filterMap (fun x => SMap.find (s.tbl t) x.1)
      let d := (out.map (fun x => s.nextRecord t x)).flatten
      let bad := s.wrFails own (leAt e 40 8) d.length
      let s := s.hostWrite own (leAt e 40 8) d
      let e := pasteB e 4 (leBytes out.length 4)
      if bad then (s, tsAccess, e)
      else if rest.length ≤ n then (s, tsOk, pasteB e 32 (leBytes 0 8))
      else
        let w := if s.free = 0 then 1 else s.free.toNat
        let last := ((got.getLast?).map (·.1)).getD 0
        let s := { s.useFree with ing := { s.ing with cursors := SMap.put s.ing.cursors w (some ⟨t, ci, last⟩) } }
        (s, tsOk, pasteB e 32 (leBytes w 8))

/-- MC_SET: the port set and queue of a group (R120, R122). -/
def State.doMcSet (s : State) (g : Nat) (e : Bytes) : State × Nat × Bytes :=
  (s.mcReplace g (leNat (sliceB e 16 32)) (leAt e 4 1), tsOk, e)

/-- The effect of a table command of function `own` other than FLUSH_BY_PORT: state, status and completed descriptor. -/
def State.tableAct (s : State) (own : Nat) (e : Bytes) : State × Nat × Bytes :=
  let op := leAt e 0 2
  match s.target own op (BitVec.ofNat 64 (leAt e 8 8)) with
  | .inr st => (s, st, e)
  | .inl t =>
    let s := if op = 6 then s else s.flushVisits t
    if op = 1 then s.doSearch t e
    else if op = 2 then s.doNext own t e
    else if op = 3 then s.doInsert t e
    else if op = 4 then s.doDelete t e
    else s.doMcSet t e

/-- Does a reference name a port? -/
def portRef (ref : BitVec 64) : Option Nat :=
  match refBlk ref with
  | some ⟨.port, n⟩ => some n
  | _ => none

/-- FLUSH_BY_PORT started at index `i` of ring `r`: refused at once, or a pass begins (R121, R125). -/
def State.startFlush (s : State) (r i : Nat) (e : Bytes) : State :=
  match s.target (s.ringOwner r) 5 (BitVec.ofNat 64 (leAt e 8 8)), portRef (BitVec.ofNat 64 (leAt e 32 8)) with
  | .inl t, some n =>
    let p : FlushPass := { table := t, port := n, flushStatic := bitOf (leAt e 2 1) 4, desc := e, began := s.elapsed, upto := s.elapsed }
    { s with ing := { s.ing with flushes := SMap.put s.ing.flushes (r * 4294967296 + i) (some p) } }
  | .inl _, none => s.complete r i e tsDenied
  | .inr _, none => s.complete r i e tsDenied
  | .inr st, some _ => s.complete r i e st

/-- A table ring reaches the entry at H. -/
def State.tableEntry (s : State) (r : Nat) (e : Bytes) : State :=
  s.takeEntry r 4 e (s.tableBad (s.ringOwner r) e) (fun s i =>
    if leAt e 0 2 = 5 then s.startFlush r i e
    else
      let x := s.tableAct (s.ringOwner r) e
      if x.2.1 = tsAccess then (x.1.ringError r ecAccess i).abandon r i else x.1.complete r i x.2.2 x.2.1)

/-- A table ring reaches an entry whose opcode is `op`; an entry of another opcode is no entry of this command. -/
def State.tableCmd (s : State) (r op : Nat) (e : Bytes) : State := if leAt e 0 2 = op then s.tableEntry r e else s

/-- SEARCH. -/
def execSearch (r : RingIx) (e : Bytes) (s : State) : Out := .next (s.tableCmd r.val 1 e)
/-- NEXT. -/
def execNext (r : RingIx) (e : Bytes) (s : State) : Out := .next (s.tableCmd r.val 2 e)
/-- INSERT. -/
def execInsert (r : RingIx) (e : Bytes) (s : State) : Out := .next (s.tableCmd r.val 3 e)
/-- DELETE. -/
def execDelete (r : RingIx) (e : Bytes) (s : State) : Out := .next (s.tableCmd r.val 4 e)
/-- FLUSH_BY_PORT. -/
def execFlushByPort (r : RingIx) (e : Bytes) (s : State) : Out := .next (s.tableCmd r.val 5 e)
/-- MC_SET. -/
def execMcSet (r : RingIx) (e : Bytes) (s : State) : Out := .next (s.tableCmd r.val 6 e)

/-- FLUSH_BY_PORT_DONE: the pass makes its last visits and ends, and its completion is posted (R125). -/
def execFlushByPortDone (r : RingIx) (idx : BitVec 32) (s : State) : Out :=
  let key := r.val * 4294967296 + idx.toNat
  match SMap.find s.ing.flushes key with
  | none => .next s
  | some p =>
    let s := (s.advanceAt (s.passEnd p)).flushVisits p.table
    let s := { s with ing := { s.ing with flushes := SMap.put s.ing.flushes key none } }
    .next (s.complete r.val idx.toNat p.desc tsOk)

end Sys2Proof.Machine
end

