-- ==== Sys2Proof/Machine/Rings.lean ====
section
/-! DEFINITION. Descriptor rings: doorbells, invalidation, service in rounds, transmit entries, enable, disable and the loss of
records (chapter 13). -/

namespace Sys2Proof.Machine

/-- Count an ignored register write or doorbell value of a ring (R336, R418). -/
def State.ignRing (s : State) (r : Nat) : State := (s.bump .ringIgnIgnored r).set .ringStaIgn r 1

/-- A write of function `f` that only the owner of ring `r` may make (R334): ignored and counted for another, unanswered where `f`
answers no memory request. -/
def State.ownerWrite (s : State) (r f : Nat) (h : State → State) : State :=
  if !s.memReach f then s.ur f
  else if s.ringOwner r ≠ f then s.ignRing r
  else h s

/-! ### Doorbells (R336, R338) -/

/-- Is a posted value within the limits of R336? -/
def State.bellOk (s : State) (r d : Nat) : Bool :=
  let c := s.ringC r
  if s.ringKind r = 10 then decide (idxSub d c ≤ idxSub (s.ringP r) c)
  else decide (idxSub (s.ringP r) c ≤ idxSub d c) && decide (idxSub d c ≤ 2 ^ s.ringK r)

/-- A posted value is accepted. -/
def State.bellTake (s : State) (r d : Nat) : State :=
  let s := s.setRing r { s.ring r with bell := d }
  if s.ringKind r = 10 then (s.set .ringCiC r d).set .ringIdxH r d else (s.set .ringIdxP r d).fetch r

/-- DOORBELL: the owner posts a new P, or a new C on a notification queue (R336). -/
def execDoorbell (r : RingIx) (f : Fn) (v : BitVec 32) (s : State) : Out :=
  .next (s.ownerWrite r.val f.val (fun s =>
    if s.bellOk r.val v.toNat then s.bellTake r.val v.toNat
    else (s.bump .ringIgnIgnored r.val).ringError r.val ecDoorbell (s.ringP r.val)))

/-- Does a range of `n` indices from `a` on hold an index of the `m` from `b` on? -/
def idxMeets (a n b m : Nat) : Bool := decide (idxSub b a < n) || decide (idxSub a b < m)

/-- Cached entries of a range are discarded, and those of it that are being fetched are not taken: they are fetched again before they start
(R345). -/
def State.invalidate (s : State) (r first count : Nat) : State :=
  let h := s.ringH r
  let v := s.ring r
  let all := v.cache.zipIdx.map (fun x => (idxAdd h x.2, x.1)) ++ v.kept
  let c := joinKept h [] (all.filter (fun x => !decide (idxSub x.1 first < count)))
  let s := s.setRing r { v with cache := c.1, kept := c.2, invalH := h }
  let s := { s with host := { s.host with reads := s.host.reads.map (fun (x : HostRead) =>
    if x.ring == r && idxMeets first count x.first x.count then { x with void := true } else x) } }
  s.fetch r

/-- RING_INVALIDATE: a write of first index and count; ignored on a notification queue, a count outside 1-32 ignored and counted
(R338, R345). -/
def execRingInvalidate (r : RingIx) (f : Fn) (v : BitVec 64) (s : State) : Out :=
  .next (s.ownerWrite r.val f.val (fun s =>
    let n := bitsOf v.toNat 31 0
    if s.ringKind r.val = 10 then s
    else if n = 0 ∨ 32 < n then s.ignRing r.val
    else s.invalidate r.val (bitsOf v.toNat 63 32) n))

/-! ### Transmit entries (R341) -/

/-- What makes a transmit entry malformed, other than its pass field. -/
def txBad (e : Bytes) : Option Nat :=
  let n := leAt e 4 2
  if leAt e 0 2 ≠ 1 then some ecOpcode
  else if !(leAt e 2 1 < 4 && zeroAt e 3 1 && zeroAt e 32 30 && decide (leAt e 63 1 < 2)) then some ecReserved
  else if n < 60 ∨ 9212 < n then some ecRange
  else none

/-- May function `f` send through port `p`: PF0, or a tenant that was granted it? -/
def State.mayPort (s : State) (f p : Nat) : Bool :=
  f == 0 || (match SMap.find s.ten.tenants f with
    | some t => bitOf t.grant.ports p
    | none => false)

/-- The status that refuses a transmit entry before its frame is read, 0 for none: queue and port. -/
def State.txRefuse (s : State) (f : Nat) (e : Bytes) : Nat × Nat :=
  let ref := BitVec.ofNat 64 (leAt e 16 8)
  match refBlk ref with
  | some ⟨.queue, q⟩ =>
    if !s.refCurrent ref then (1, q)
    else if !s.mayPort f (q / 16) then (2, q)
    else if s.get .portMacCfgMaxFrame (q / 16) < leAt e 4 2 + 4 then (5, q)
    else (0, q)
  | _ => (1, 0)

/-- The frame of a transmit entry: its FCS appended, wholly in the buffer (R77). -/
def State.txFrame (s : State) (r i q : Nat) (e data : Bytes) : Frame :=
  let b := sealFrame data false
  let ts := bitOf (leAt e 2 1) 0
  let lt := bitOf (leAt e 2 1) 1
  { bytes := b, hdr := sliceB b 0 256, owner := 1, stage := .egress, ended := true, whole := true, lt := s.lt,
    dest := .queue (q / 16), queue := q % 16, copies := 1, onWire := 1, tx := some (r, i, e),
    ts := if ts then some (leAt e 6 2, some (s.ringOwner r)) else none,
    launch := if lt then some (BitVec.ofNat 64 (leAt e 24 8)) else none }

/-- A started transmit entry acts: refused with status `st.1`, or enqueued at queue `st.2` (R341). -/
def State.txGo (s : State) (r i : Nat) (e data : Bytes) (st : Nat × Nat) : State :=
  let f := s.txFrame r i st.2 e data
  if st.1 ≠ 0 then s.finishTx f st.1 0
  else
    let p := st.2 / 16
    let x := s.newFrame f
    let y := x.1.enterQueue x.2 p (st.2 % 16) f
    if y.2 then y.1 else (y.1.finishTx f (if s.portOn p then 3 else 4) 0).discard x.2

/-- A TX ring reaches an entry, `data` being what a read of its frame brings; the frame of one that is refused is not read. -/
def State.txEntry (s : State) (r : Nat) (e data : Bytes) : State :=
  let st := s.txRefuse (s.ringOwner r) e
  s.takeRead r 1 e (txBad e) (leAt e 8 8) (if st.1 = 0 then leAt e 4 2 else 0) data.length (fun s i => s.txGo r i e data st)

/-- TX_SEND. -/
def execTxSend (r : RingIx) (e frame : Bytes) (s : State) : Out :=
  .next (if leAt e 0 2 = 1 then s.txEntry r.val e frame else s)

/-! ### Service (R339) -/

/-- A command ring reaches its next entry under the table of its kind. -/
def State.ringEntry (s : State) (r : Nat) (e data : Bytes) : State :=
  match s.ringKind r with
  | 1 => s.txEntry r e data
  | 4 => s.tableEntry r e
  | 5 => s.fabricEntry r e data
  | 6 => s.cipherAny r e data
  | 7 => s.ledEntry r e
  | _ => s

/-- RING_SERVICE: the ring's cache is refilled, and if it is the ring the round serves now, its next entry is reached; `e` is the entry
as a fetch brings it where the cache holds none, `data` what the entry's own read brings. -/
def execRingService (r : RingIx) (e data : Bytes) (s : State) : Out :=
  let s := s.fetch r.val
  .next (if s.served r.val then (s.ringEntry r.val ((s.ring r.val).cache.headD e) data).fetch r.val else s)

/-! ### Enable and disable (R334, R344, R349) -/

/-- May function `f` enable its ring (R333, R334)? -/
def State.ringEnableOk (s : State) (r f : Nat) : Bool :=
  let k := s.ringKind r
  let q := s.get .ringCfgNq r
  s.get .ringStaState r == rsDisabled && 1 ≤ k && k ≤ 10 &&
  (!(k == 8 || k == 9) || s.mayExport f) &&
  (!s.is .ringCfgNqEn r || (s.ringKind q == 10 && s.ringOwner q == f))

/-- The function that owns the thread group or core of an image number. -/
def State.imageOwner (s : State) (k : Nat) : Nat := if k < 16384 then s.get .spurGrpStaOwner (k / 2) else 0

/-- An RX ring's new incarnation enters every loaded host-ring claim of its owner that names it (R187, R344). -/
def State.ringClaims (s : State) (r : Nat) : State :=
  { s with spur := { s.spur with images := s.spur.images.map (fun e =>
      (e.1, { e.2 with claims := e.2.claims.map (fun c =>
        if c.ty == 4 && decide (refBlk c.data = some ⟨.ring, r⟩) && s.imageOwner e.1 == s.ringOwner r then
          { c with data := s.refOf ⟨.ring, r⟩ } else c) })) } }

/-- A ring enters service: fetching begins at H (R344, R348). -/
def State.ringOn (s : State) (r : Nat) : State :=
  let s := ((((s.set .ringCtlEn r 1).set .ringStaIgn r 0).set .ringStaState r rsEnabled).set .ringStaCause r 0).enterService ⟨.ring, r⟩
  let s := s.setRing r { s.ring r with cache := [], kept := [], round := 0 }
  (if s.ringKind r = 2 then s.ringClaims r else s).fetch r

/-- A write of en = 1 by the owner `f`; while the ring drains it is ignored and counted (DESIGN CHOICE, assumption 46). -/
def State.ringEnable (s : State) (r f : Nat) : State :=
  if s.is .ringCtlEn r then s.set .ringStaIgn r 0 else if s.ringEnableOk r f then s.ringOn r else s.ignRing r

/-- RING_ENABLE: a write of en = 1 by function `f`. -/
def execRingEnable (r : RingIx) (f : Fn) (s : State) : Out := .next (s.ownerWrite r.val f.val (fun s => s.ringEnable r.val f.val))

/-- No export ring stands behind any longer. -/
def State.dropExports (s : State) (r : Nat) : State :=
  { s with led := { s.led with exports := s.led.exports.filter (fun e => e.1 % 16384 != r) } }

/-- A write of en = 0 puts the ring in DRAINING; an export ring's buffer that holds data completes (R349).  A ring in ERROR that was never
enabled is DISABLED (R348). -/
def State.ringDisable (s : State) (r : Nat) : State :=
  let s := s.set .ringStaIgn r 0
  if s.is .ringCtlEn r then
    ((((s.set .ringCtlEn r 0).set .ringStaState r rsDraining).dropCache r).closeExp r 0).dropExports r
  else if s.get .ringStaState r = rsError then s.set .ringStaState r rsDisabled
  else s

/-- RING_DISABLE: a write of en = 0 by function `f`. -/
def execRingDisable (r : RingIx) (f : Fn) (s : State) : Out := .next (s.ownerWrite r.val f.val (fun s => s.ringDisable r.val))

/-- RING_DRAINED: a draining ring whose started entries have completed is DISABLED (R349). -/
def execRingDrained (r : RingIx) (s : State) : Out :=
  .next (if s.get .ringStaState r.val = rsDraining ∧ (s.ring r.val).running = [] then s.ringOff r.val else s)

/-- While the ring is disabled P, H and C take one value (R349). -/
def State.ringReidx (s : State) (r : Nat) (v : BitVec 32) : State :=
  if s.get .ringStaState r = rsDisabled then
    (((s.set .ringIdxP r v.toNat).set .ringIdxH r v.toNat).set .ringCiC r v.toNat).set .ringStaIgn r 0
  else s.ignRing r

/-- RING_RESET_IDX by function `f`. -/
def execRingResetIdx (r : RingIx) (f : Fn) (v : BitVec 32) (s : State) : Out :=
  .next (s.ownerWrite r.val f.val (fun s => s.ringReidx r.val v))

/-- NOTIFY_LOST: a queue with space again posts its LOST record (R352). -/
def execNotifyLost (r : RingIx) (s : State) : Out :=
  .next (if s.ringKind r.val = 10 ∧ s.get .ringStaState r.val = rsEnabled then s.postLost r.val else s)

end Sys2Proof.Machine
end

