-- ==== Sys2Proof/Machine/Host.lean ====
section
/-! DEFINITION. The host endpoint: resets of the host interface and of functions, master enable, read completions, containment, host
loss, the link, address translation and interrupts (chapter 12). -/

namespace Sys2Proof.Machine

/-! ### Reads and translations (R315, R322) -/

/-- Does an outstanding read of ring entries use a page of an invalidation? -/
def State.readUses (s : State) (x : HostRead) (v : Nat × Nat × Nat) : Bool :=
  let a := s.entryAddr x.ring x.first / 4096
  let b := (s.entryAddr x.ring x.first + 64 * x.count - 1) / 4096
  x.fn == v.1 && decide (a < v.2.1 + v.2.2) && decide (v.2.1 ≤ b)

/-- Complete the Invalidation Requests that no outstanding read holds up; none is answered during containment (R315, R332). -/
def State.settleInval (s : State) : State :=
  if s.is .hostContainStaContained then s
  else
    let wait := fun (v : Nat × Nat × Nat) => s.host.reads.any (fun x => s.readUses x v)
    let go := s.host.inval.filter (fun v => !wait v)
    let s := { s with host := { s.host with inval := s.host.inval.filter wait } }
    go.foldl (fun s v => s.emit (.atsDone v.1 v.2.1 v.2.2)) s

/-- A read is no longer outstanding. -/
def State.endRead (s : State) (tag : Nat) : State :=
  { s with host := { s.host with reads := s.host.reads.filter (fun x => x.tag != tag) } }

/-- The reads of functions that satisfy `p` are to be discarded when they complete. -/
def State.killReads (s : State) (p : Nat → Bool) : State :=
  { s with host := { s.host with reads := s.host.reads.map (fun (x : HostRead) => if p x.fn then { x with dead := true } else x) } }

/-- Rings with a lost fetch whose owner may send again refetch from H, their caches discarded (R322, R350). -/
def State.replay (s : State) : State :=
  let go := s.host.lost.filter (fun e => s.fnSends (s.ringOwner e.1))
  go.foldl (fun s e => (s.dropCache e.1).fetch e.1) s

/-! ### Resets of functions (R318, R320, R321, R331) -/

/-- Rings that have been in service since the last power-on reset. -/
def State.ringsUsed (s : State) : List Nat :=
  (s.regs.filter (fun e => e.1 % 512 == RegName.ringSta.ctorIdx)).map (fun e => e.1 / 512)

/-- A block that has been in service takes a new incarnation. -/
def State.renew (s : State) (b : Blk) : State :=
  if s.blkInc b = 0 then s else s.renewInc b

/-- What a ring holds beyond its registers after a host-side reset: the last doorbell and invalidation values.  Its started entries have
completed internally, so that C is H (R353). -/
def State.ringWipe (s : State) (r : Nat) : State :=
  let t : RingSt := { bell := (s.ring r).bell, invalH := (s.ring r).invalH }
  { (s.set .ringCiC r (s.ringH r)).setRing r t with host := { s.host with lost := SMap.put s.host.lost r none, due := SMap.put s.host.due r none } }

/-- A notification queue is emptied. -/
def State.nqEmpty (s : State) (r : Nat) : State :=
  if s.ringKind r = 10 then (s.set .ringCiC r (s.ringP r)).set .ringIdxH r (s.ringP r) else s

/-- A ring is disabled by a host-side reset: its cache is discarded, a notification queue emptied, and its started entries complete
internally without completion writes (R320, R353). -/
def State.ringReset (s : State) (r : Nat) : State :=
  (((((s.set .ringCtlEn r 0).ringOff r).renew ⟨.ring, r⟩).ringWipe r).dropExports r).nqEmpty r

/-- Frames and messages that a ring's entries started go on for no ring. -/
def State.orphan (s : State) (gone : Nat → Bool) : State :=
  { s with
    ports := { s.ports with frames := s.ports.frames.map (fun e =>
      (e.1, { e.2 with tx := e.2.tx.filter (fun x => !gone x.1), rx := e.2.rx.filter (fun x => !gone x.1) })) }
    ciph := { s.ciph with jobs := s.ciph.jobs.map (fun j => match j.user with
      | .host r i d b => { j with user := if gone r then .host 16384 i d b else .host r i d b }
      | _ => j) } }

/-- The host-side state of a function that an FLR or a host-interface reset reaches, but for PF1's journal: rings, notification queues,
MSI-X table and PBA, BARs, mailbox, translations, held writes, work queues and windows (R287, R318, R320). -/
def State.fnReset (s : State) (f : Nat) : State :=
  let rs := s.ringsUsed.filter (fun r => s.ringOwner r == f)
  let s := s.orphan (fun r => rs.contains r)
  let s := rs.foldl State.ringReset s
  let s := (s.setBox f {}).dropFabric f
  let s := { s with host := { s.host with
    pba := s.host.pba.filter (fun e => e.1 / 4096 != f), unmasked := s.host.unmasked.filter (fun e => e.1 / 4096 != f),
    msix := s.host.msix.filter (fun e => e.1 / 16384 != f),
    fnMask := SMap.put s.host.fnMask f none, bars := s.host.bars.filter (fun e => e.1 / 3 != f), ats := s.host.ats.filter (fun e => e.1 != f),
    inval := s.host.inval.filter (fun e => e.1 != f), held := s.host.held.filter (fun w => w.fn != f) } }
  let s := if f = 0 then
      { s with ten := { s.ten with tenants := s.ten.tenants.map (fun e => (e.1, { e.2 with awaits := false })) } } else s
  ((s.set .hostFnStaBme f 0).set .hostFnStaMsix f 0).set .hostFnStaAts f 0

/-- A function attaches with a new incarnation, unless its block is in service already and it has not been attached since (R318, R519). -/
def State.attach (s : State) (f : Nat) : State :=
  if s.get .hostFnStaState f ≠ 0 then s
  else
    let s := s.set .hostFnStaState f 1
    if s.blkState ⟨.function, f⟩ = 2 then s else s.enterService ⟨.function, f⟩

/-- A function leaves the bus. -/
def State.detach (s : State) (f : Nat) : State :=
  let t := (s.fnReset f).setPci f {}
  if s.get .hostFnStaState f = 0 then t else (t.set .hostFnStaState f 0).leaveService ⟨.function, f⟩

/-- The host-interface reset: link, configuration space, BARs and MSI-X of every function, its HOST and JOURNAL blocks, work queues
and windows; it ends containment (R318, R327, R386). -/
def State.hostReset (s : State) : State :=
  let s := (List.range 129).foldl (fun s f => s.detach f) s.dropHeld
  let s := s.jrnReset
  let s := { s with host := { s.host with vfEn := false, numVfs := 0, flr := [], reads := [], inval := [], held := [], spdm := {} } }
  let s := s.set .hostContainStaContained 0 0
  (((((s.set .hostLinkStaDrain 0 0).set .hostLinkStaSpeed 0 0).set .hostLinkStaWidth 0 0).set .hostLinkStaUp 0 0).set .hostLinkStaMps 0
    0).showShort

/-- PERST_ASSERT: the fundamental reset, of the host interface with INDEP high, of the whole device with INDEP low (R318, R480). -/
def execPerstAssert (s : State) : Out :=
  let s := { s with host := { s.host with perst := true } }
  .next (if s.is .sysRstStaIndep then (s.bump .hostResetCntPerst).hostReset else s.powerReset 2 0xFF)

/-- The first time the host interface leaves reset, PF0 and PF1 enter service (R519). -/
def State.hostOut (s : State) : State :=
  [0, 128].foldl (fun s f => if s.blkInc ⟨.function, f⟩ = 0 then s.enterService ⟨.function, f⟩ else s) s

/-- PERST_DEASSERT: the host interface leaves reset and link training may begin (R319, R519). -/
def execPerstDeassert (s : State) : Out := .next { s with host := { s.host with perst := false } }.hostOut

/-- HOT_RESET: a hot reset or link disable, whatever INDEP is (R318). -/
def execHotReset (s : State) : Out := .next (s.bump .hostResetCntHot).hostReset

/-- One function begins its FLR; its AER logs stay (R320; PRESUMED, assumption 55). -/
def State.flr (s : State) (f : Nat) : State :=
  let s := (s.killReads (· == f)).bump .hostFnFlrCntFlrs f
  let s := s.fnReset f
  let s := (if f = 128 then s.jrnReset else s).renew ⟨.function, f⟩
  let s := s.setPci f { uncor := (s.pciFn f).uncor, cor := (s.pciFn f).cor }
  { s with host := { s.host with flr := SMap.put s.host.flr f (some ()) } }.set .hostFnStaState f 2

/-- FLR of an attached function; of PF0 it also clears VF Enable and reaches every VF (R320, R321). -/
def execFlr (f : Fn) (s : State) : Out :=
  if s.get .hostFnStaState f.val ≠ 1 ∨ !s.cfgReady then .next s
  else
    let s := (if f.val = 0 then s.dropHeld else s).flr f.val
    .next (if f.val = 0 then
        let s := (List.range 127).foldl (fun s i =>
          if s.get .hostFnStaState (i + 1) = 0 then s else ((s.flr (i + 1)).set .hostFnStaState (i + 1) 0).leaveService ⟨.function, i + 1⟩) s
        { s with host := { s.host with vfEn := false, numVfs := 0, flr := SMap.put [] 0 (some ()) } }
      else s)

/-- FLR_DONE: with no read of its own outstanding the function answers memory requests again, bus master enable being 0 (R320, R323). -/
def execFlrDone (f : Fn) (s : State) : Out :=
  if s.get .hostFnStaState f.val = 2 ∧ !s.host.reads.any (fun x => x.fn == f.val) then
    let s := { s with host := { s.host with flr := SMap.put s.host.flr f.val none } }
    .next (s.set .hostFnStaState f.val 1)
  else .next s

/-! ### Virtual functions (R309) -/

/-- VF_ENABLE: host software sets VF Enable with NumVFs, and VFs 1 to NumVFs attach. -/
def execVfEnable (n : Fin 128) (s : State) : Out :=
  if s.host.vfEn || s.get .hostFnStaState 0 != 1 || !s.cfgReady then .next s
  else
    let s := { s with host := { s.host with vfEn := true, numVfs := n.val } }
    .next ((List.range n.val).foldl (fun s i => s.attach (i + 1)) s)

/-- VF_DISABLE: every VF ceases to exist on the bus. -/
def execVfDisable (s : State) : Out :=
  if s.host.vfEn then
    let s := s.killReads (fun f => 1 ≤ f && f ≤ 127)
    let s := (List.range 127).foldl (fun s i => s.detach (i + 1)) s
    .next { s with host := { s.host with vfEn := false, numVfs := 0 } }
  else .next s

/-! ### Master enable (R322, R332) -/

/-- BME_CLEAR: the function issues no new request, and its outstanding reads are discarded as they complete. -/
def execBmeClear (f : Fn) (s : State) : Out :=
  if s.get .hostFnStaState f.val = 1 then .next ((s.set .hostFnStaBme f.val 0).killReads (· == f.val)) else .next s

/-- Functions that may send again: held writes go and are acknowledged to their senders, lost fetches are replayed, and rings fetch on. -/
def State.resume (s : State) : State :=
  let s := s.sendHeld.payOwed.replay
  (s.ringsOn.foldl (fun s r => s.fetch r) s).jSettle

/-- Send every pending MSI-X message that may go (R327). -/
def State.sendPba (s : State) : State :=
  (s.host.pba.filter (fun e => s.vecOpen (e.1 / 4096) (e.1 % 4096))).foldl (fun s e => s.sendVec (e.1 / 4096) (e.1 % 4096)) s

/-- A function may send again: what was held goes, and then the MSI-X messages that it makes true (R313, R322, R327). -/
def State.goOn (s : State) : State := s.resume.sendPba

/-- BME_SET: held writes are sent, lost fetches replayed and pending messages sent; during containment it takes effect at release.  A
configuration request before its instant is answered with Retry Status (R319). -/
def execBmeSet (f : Fn) (s : State) : Out :=
  if s.get .hostFnStaState f.val = 1 ∧ s.cfgReady then .next (s.set .hostFnStaBme f.val 1).goOn else .next s

/-! ### Containment (R325-R327) -/

/-- The bit of AER's Uncorrectable Error Status that an error of cause `c` sets (R325; PRESUMED, assumption 55: PCI Express numbers them). -/
def aerBit (c : Nat) : Nat := [4, 13, 17, 18, 19, 12, 14, 16, 22].getD (c - 1) 22

/-- An uncorrectable error of cause `c` on function `f` is logged in its AER and enters containment, or is counted (R325). -/
def State.contain (s : State) (f c : Nat) : State :=
  let s := s.aerLog f (2 ^ aerBit c) 0
  if s.is .hostContainStaContained then s.bumpSat .hostContainStaErrs
  else
    let s := ((((s.bump .hostContainStaSeq).set .hostContainStaErrs 0 0).set .hostContainStaCause 0 c).set .hostContainStaContained 0
      1).bump .hostContainCntEntries
    s.cairnRec .contain (some ⟨.function, f⟩) (leBytes (s.get .hostContainStaSeq) 4 ++ leBytes c 1)

/-- UNCORRECTABLE_ERROR; an ECRC Error is detected only where the function checks ECRC (R310). -/
def execUncorrectableError (f : Fn) (cause : Fin 9) (s : State) : Out :=
  .next (if cause.val = 4 ∧ !(s.pciFn f.val).ecrcChk then s else s.contain f.val (cause.val + 1))

/-- HOST_CONTAIN_RELEASE: a 64-bit write of the current sequence ends containment; where PF0 answers no request to it, it is an Unsupported
Request (R327, R328). -/
def execHostContainRelease (v : BitVec 64) (s : State) : Out :=
  if !(s.memReach 0 || s.containReach) then .next (s.ur 0)
  else if bitsOf v.toNat 63 32 ≠ s.get .hostContainStaSeq then .next (s.bump .hostIgnCntIgnored)
  else if s.is .hostContainStaContained then
    .next ((s.set .hostContainStaContained 0 0).goOn.settleInval)
  else .next s

/-! ### Completions (R310, R312, R322, R323, R326) -/

/-- Whole entries of a completion's data. -/
def entriesOf : Nat → Bytes → List Bytes
  | 0, _ => []
  | n + 1, d => if d.length < 64 then [] else d.take 64 :: entriesOf n (d.drop 64)

/-- A completion is discarded unwritten (R322). -/
def State.discardCpl (s : State) (x : HostRead) : State :=
  let s := (s.bump .hostCplDiscCompletions).bump .hostFnLostFetchFetches x.fn
  { s with host := { s.host with lost := SMap.put s.host.lost x.ring (some ()) } }

/-- COMPLETION_RX: entries read enter their ring's cache; the completion is discarded if its function lost master enable or the
endpoint is contained; a failed one puts the ring in ERROR (R347). -/
def execCompletionRx (tag : Nat) (ok : Bool) (data : Bytes) (s : State) : Out :=
  match s.host.reads.find? (fun x => x.tag == tag) with
  | none => .next s
  | some x =>
    let s := (s.endRead tag).settleInval
    .next (
      if x.dead || s.is .hostContainStaContained then (s.discardCpl x).replay
      else if x.void then s.fetch x.ring
      else if !ok then s.ringError x.ring ecAccess x.first
      else (s.cacheAdd x.ring x.first (entriesOf x.count data)).fetch x.ring)

/-- The time after which a read times out, by the code in Device Control 2 (R323; DESIGN CHOICE, assumption 156: the least of each range). -/
def State.cplTimeout (s : State) (f : Nat) : Nat :=
  let c := (s.pciFn f).timeout
  (if c ≤ 1 then 50000 else if c = 2 then 1000000 else 10000000) * unitsPerNs

/-- COMPLETION_TIMEOUT: at its function's timeout value the read is a failed access, which enters containment (R323, R325). -/
def execCompletionTimeout (tag : Nat) (s : State) : Out :=
  match s.host.reads.find? (fun x => x.tag == tag) with
  | none => .next s
  | some x =>
    let s := s.advanceAt (x.at_ + s.cplTimeout x.fn)
    let s := (s.endRead tag).settleInval
    let s := if x.void then s else s.ringError x.ring ecAccess x.first
    .next (s.contain x.fn 7)

/-! ### Link and host loss (R314, R330, R331) -/

/-- The contract drain capacity of a link in Gb/s: speed code, lanes, payload code (R314). -/
def drainOf (speed width mps : Nat) : Nat :=
  (if mps = 2 then 800 else if mps = 1 then 776 else 733) * (if speed = 3 then 4 else if speed = 2 then 2 else if speed = 1 then 1 else 0) *
    width / 64

/-- Is a trained width one of R310's? -/
def widthOk (w : Nat) : Bool := w == 1 || w == 2 || w == 4 || w == 8 || w == 16

/-- The link has trained: its fields and capacity, and whether the admitted host drain still fits (R314). -/
def State.trained (s : State) (speed width mps : Nat) : State :=
  let was := (s.is .hostLinkStaUp, s.is .hostLinkStaShort)
  let s := ((((s.set .hostLinkStaSpeed 0 speed).set .hostLinkStaWidth 0 width).set .hostLinkStaMps 0 mps).set .hostLinkStaUp 0 1).set
    .hostLinkStaDrain 0 (drainOf speed width mps)
  let s := s.showShort
  if s.is .hostLinkStaShort && (!was.1 || !was.2) then s.cairnRec .drainShort none (leBytes s.drainCap 2) else s

/-- HOST_LOSS: the data link layer leaves DL_Active without a reset (R330). -/
def execHostLoss (s : State) : Out :=
  if s.is .hostLinkStaUp then
    .next ((s.bump .hostLossCntLosses).cairnRec .hostLoss none []).hostReset
  else .next s

/-- LINK_RETURN: the link trains after a reset or loss and the host enumerates PF0 and PF1, which attach (R319, R331).  While their
configuration requests are answered with Retry Status the host waits, and a later LINK_RETURN enumerates them (R319). -/
def execLinkReturn (speed : Fin 4) (width : Fin 32) (mps : Fin 3) (s : State) : Out :=
  let up := s.is .hostLinkStaUp
  if s.host.perst || (up && s.get .hostFnStaState != 0) || speed.val == 0 || !widthOk width.val then .next s
  else
    let s := if up then s else s.trained speed.val width.val mps.val
    .next (if s.cfgReady then (s.attach 0).attach 128 else s)

/-- LINK_RETRAIN: the link retrains without leaving DL_Active (R314). -/
def execLinkRetrain (speed : Fin 4) (width : Fin 32) (mps : Fin 3) (s : State) : Out :=
  if !s.is .hostLinkStaUp || speed.val == 0 || !widthOk width.val then .next s
  else .next (s.trained speed.val width.val mps.val)

/-! ### Address translation (R315) -/

/-- ATS_INVALIDATION: matching translations are no longer used; the completion follows once nothing issued under them is outstanding.  A
function's queue holds 32 (DESIGN CHOICE, assumption 157: the host sends no more). -/
def execAtsInvalidation (f : Fn) (page : BitVec 52) (pages : Nat) (s : State) : Out :=
  if s.get .hostFnStaState f.val = 0 ∨ 32 ≤ (s.host.inval.filter (fun v => v.1 == f.val)).length then .next s
  else
    let v := (f.val, page.toNat, pages)
    .next { s with host := { s.host with
      ats := s.host.ats.filter (fun e => !(e.1 == f.val && inRange e.2 page.toNat pages)), inval := s.host.inval ++ [v] } }.settleInval

/-- ATS_DISABLE: the function's translations are discarded. -/
def execAtsDisable (f : Fn) (s : State) : Out :=
  .next ({ s with host := { s.host with ats := s.host.ats.filter (fun e => e.1 != f.val) } }.set .hostFnStaAts f.val 0)

/-! ### Interrupts (R313, R340) -/

/-- The ring of function `f` whose message on vector `vec` waits for the end of its interval. -/
def State.dueRing (s : State) (f vec : Nat) : Option (Nat × Nat) :=
  s.host.due.find? (fun e => s.ringOwner e.1 == f && s.get .ringCfgVec e.1 == vec)

/-- MSIX_SEND: a message that waited for a ring's interval is sent at its end, and a pending one once its vector may send. -/
def execMsixSend (f : Fn) (vec : Fin 2048) (s : State) : Out :=
  match s.dueRing f.val vec.val with
  | some (r, t) =>
    let s := s.advanceAt t
    let s := s.setRing r { s.ring r with lastMsg := some s.elapsed }
    .next ({ s with host := { s.host with due := SMap.put s.host.due r none } }.signal f.val vec.val)
  | none =>
    if (SMap.find s.host.pba (vecKey f.val vec.val)).isSome && s.vecOpen f.val vec.val then
      .next (s.sendVec f.val vec.val)
    else .next s

end Sys2Proof.Machine
end

