-- ==== Sys2Proof/Machine/Journal.lean ====
section
/-! DEFINITION. The journal function's commands and events (chapter 15). -/

namespace Sys2Proof.Machine

/-! ### Submission (R375-R378) -/

/-- Does a doorbell name a tag that is free, on a queue that takes doorbells (R375, R389)? -/
def State.jBellOk (s : State) (q : Nat) (v : BitVec 32) : Bool :=
  s.get .jrnQStaState q == 1 && decide (v.toNat < 32) && !bitOf (s.get .jrnQStaOutstanding q) v.toNat

/-- Is a slot malformed (R376, R377)? -/
def State.jBad (s : State) (q tag : Nat) (e : Bytes) : Bool :=
  let op := leAt e 0 1
  let fl := leAt e 1 1
  let mv := op == 1 || op == 2
  op == 0 || decide (4 < op) || (fl != 0 && !(op == 1 && fl == 1) && !(op == 3 && fl == 2)) || leAt e 2 1 != tag ||
  (op != 4 && !zeroAt e 3 1) ||
  (if mv then leAt e 4 4 == 0 || decide (256 < leAt e 4 4) || leAt e 16 8 % 64 != 0
   else !zeroAt e 4 20) ||
  !zeroAt e 24 38 || decide (2 ≤ leAt e 63 1) || leAt e 63 1 == s.jUse q tag % 2

/-- The command of a slot. -/
def jCmdOf (q tag : Nat) (e data : Bytes) : JCmd :=
  { q := q, tag := tag, op := leAt e 0 1, flags := leAt e 1 1, first := leAt e 8 8, count := leAt e 4 4, slot := e,
    data := data.take (4096 * leAt e 4 4) }

/-- Take a command: its tag is outstanding from here, and it is recorded under the next number. -/
def State.jTake (s : State) (c : JCmd) : State × Nat :=
  let k := s.jrn.nextSeq
  let s := s.putJ k (some c)
  let s := { s with jrn := { s.jrn with nextSeq := k + 1 } }
  (s.set .jrnQStaOutstanding c.q (s.get .jrnQStaOutstanding c.q ||| 2 ^ c.tag), k)

/-- The slot of accepted doorbell `k` of a queue is fetched, its bytes being `e`: its command is completed at once where the fetch fails or
falls short, or where it is malformed or out of range, or handed to `h` (R376-R378). -/
def State.jFetch (s : State) (k q : Nat) (v : BitVec 32) (e data : Bytes) (h : State → Nat → JCmd → State) : State :=
  let c := jCmdOf q v.toNat e data
  let a := s.jSlot q v.toNat
  let u := s.readHost pf1 a 64
  let t := u.putJ k (some c)
  if !s.canReach pf1 a 64 || e.length != 64 then (u.jEnd k jsAccess 0 0).jSettle
  else if s.jBad q v.toNat e then (t.jEnd k jsMalformed 0 0).jSettle
  else if c.moves && decide (s.jBlocks < c.first + c.count) then (t.jEnd k jsRange 0 0).jSettle
  else h t k c

/-- May the slot of the doorbell that took number `k` be fetched: PF1 may send, and no earlier one of its queue is still to be (R379,
R387)? -/
def State.jMayFetch (s : State) (q k : Nat) : Bool :=
  s.jFetches && !s.jrn.cmds.any (fun e => decide (e.1 < k) && e.2.q == q && e.2.live && e.2.op == 0)

/-- A doorbell posts the command in its slot, whose bytes are `e`: refused and counted, or its tag outstanding from here (R375); its slot is
fetched at once, or, while PF1 may not send, by the same command once it may (R387; DESIGN CHOICE, assumption 132).  A slot of another
opcode is no command of this kind. -/
def State.jDoorbell (s : State) (q op : Nat) (v : BitVec 32) (e data : Bytes) (h : State → Nat → JCmd → State) : State :=
  if !s.memReach pf1 then s.ur pf1
  else if leAt e 0 1 ≠ op ∧ 1 ≤ leAt e 0 1 ∧ leAt e 0 1 ≤ 4 then s
  else match (s.jTag? q v.toNat).filter (fun x => x.2.op == 0 && s.jMayFetch q x.1) with
    | some (k, _) => s.jFetch k q v e data h
    | none =>
      if !s.jBellOk q v then s.bump .jrnQIgnIgnored q
      else
        let r := s.jTake { q := q, tag := v.toNat, op := 0, flags := 0, first := 0, count := 0, slot := [] }
        if r.1.jMayFetch q r.2 then r.1.jFetch r.2 q v e data h else r.1

/-- JRN_WRITE: accepted by doorbell; its data is fetched as the staging buffer has room (R375, R378, R379). -/
def execJrnWrite (q : JQ) (v : BitVec 32) (slot data : Bytes) (s : State) : Out :=
  .next (s.jDoorbell q.val 1 v slot data (fun s _ _ => s.jSettle))

/-- JRN_WRITE_START: once its data is staged and nothing it overlaps is left before it, the WRITE starts (R379, R380). -/
def execJrnWriteStart (q : JQ) (tag : Fin 32) (s : State) : Out :=
  match s.jTag? q.val tag.val with
  | none => .next s
  | some (k, c) =>
    if c.op == 1 && c.got && !c.started && !s.jWaits k c then .next ((s.startWrite k c).jSettle) else .next s

/-- JRN_READ: accepted by doorbell, it reads as soon as nothing before it keeps it back (R379, R380). -/
def execJrnRead (q : JQ) (v : BitVec 32) (slot : Bytes) (s : State) : Out :=
  .next (s.jDoorbell q.val 2 v slot [] (fun s _ _ => s.jSettle))

/-- What a FLUSH covers and the contexts it concerns as it is accepted: WRITEs before it in its queue, and with `all` those of every
queue that had completed, of whichever bank; a context to which a replica of one of them has failed is as good as tried (R382, R384;
assumption 45). -/
def State.flushCover (s : State) (k : Nat) (c : JCmd) : JCmd :=
  let all := bitOf c.flags 1
  let ws := s.jrn.cmds.filter (fun e => decide (e.1 < k) && e.2.op == 1 && ((e.2.q == c.q && !e.2.past) || (all && !e.2.live)))
  let open_ := ws.flatMap (fun e => (List.range 2).filterMap (fun p => if e.2.rep p = 0 then none else some (2 * e.2.bank + p)))
  let done := s.jrn.wrote.filter (fun e => e.1 / 4 == c.q || (all && e.1 / 4 == 64))
  { c with cover := ws.map (·.1), epoch := s.epoch,
           ctxs := done.foldl (fun m e => if e.2 = 2 then SMap.put m (e.1 % 4) (some 4) else m)
             ((open_ ++ done.map (fun (e : Nat × Nat) => e.1 % 4)).foldl (fun m x => SMap.put m x (some 1)) []) }

/-- JRN_FLUSH: accepted by doorbell; it completes once all it covers is placed and acknowledged (R382). -/
def execJrnFlush (q : JQ) (v : BitVec 32) (slot : Bytes) (s : State) : Out :=
  .next (s.jDoorbell q.val 3 v slot [] (fun s k c => (s.putJ k (some (s.flushCover k c))).jSettle))

/-- JRN_ABORT: acts when accepted: a target not started, or a FLUSH not completed, is removed; otherwise MISSED (R385). -/
def execJrnAbort (q : JQ) (v : BitVec 32) (slot : Bytes) (s : State) : Out :=
  .next (s.jDoorbell q.val 4 v slot [] (fun s k _ =>
    match s.jTag? q.val (leAt slot 3 1) with
    | some (t, c) =>
      if t ≠ k ∧ ((c.moves ∧ !c.started) ∨ c.op = 3) then ((s.jEnd t jsAborted 0 0).jEnd k jsCaught 0 0).jSettle
      else (s.jEnd k jsMissed 0 0).jSettle
    | none => (s.jEnd k jsMissed 0 0).jSettle))

/-! ### Replicas and peers (R374, R381) -/

/-- JRN_REPLICA_SEND: a started WRITE's replica goes to a peer once no overlapping one is before it (R381). -/
def execJrnReplicaSend (q : JQ) (tag : Fin 32) (p : Fin 2) (s : State) : Out :=
  match s.jrn.cmds.find? (fun e => e.2.op == 1 && e.2.q == q.val && e.2.tag == tag.val && e.2.started && e.2.rep p.val == 1) with
  | none => .next s
  | some (k, _) => .next ((s.offerRep k p.val).jSettle)

/-- JRN_PEER_SWAP: arms a swap of the peer banks, or sets swap_refused (R374). -/
def execJrnPeerSwap (target : BitVec 64) (s : State) : Out := .next (s.armPeer target)

/-- PEER_SWAP_AT: at t the peer banks exchange (R374). -/
def execPeerSwapAt (s : State) : Out :=
  match s.jrn.peerTarget with
  | none => .next s
  | some t => .next ((s.advanceTo t).peerSwap)

/-- JRN_Q_DISABLE: clearing a queue's en (R389). -/
def execJrnQDisable (q : JQ) (s : State) : Out := .next (s.jqDisable q.val)

end Sys2Proof.Machine
end

