-- ==== Sys2Proof/Machine/Flags.lean ====
section
/-! DEFINITION. The comparisons and bit operations of Spur's integer instructions (R168).  Spur has no flags register: a
comparison's truth value is 0 or 1 in a general register (R162). -/

namespace Sys2Proof.Machine

/-- A truth value as a register holds it. -/
def truth (b : Bool) : BitVec 64 := if b then 1 else 0

/-- Unsigned and signed minimum and maximum. -/
def minU (a b : BitVec 64) : BitVec 64 := if a.ult b then a else b
def maxU (a b : BitVec 64) : BitVec 64 := if a.ult b then b else a
def minS (a b : BitVec 64) : BitVec 64 := if a.slt b then a else b
def maxS (a b : BitVec 64) : BitVec 64 := if a.slt b then b else a

/-- High 64 bits of the unsigned product. -/
def mulHU (a b : BitVec 64) : BitVec 64 := BitVec.ofNat 64 (a.toNat * b.toNat / 2 ^ 64)

/-- The number of one bits among the low `n`. -/
def onesUpTo (a : BitVec 64) : Nat → Nat
  | 0 => 0
  | n + 1 => onesUpTo a n + bit (a.getLsbD n)

/-- Population count. -/
def popCount (a : BitVec 64) : BitVec 64 := BitVec.ofNat 64 (onesUpTo a 64)

/-- Zero bits from bit `n - 1` downwards. -/
def leadUpTo (a : BitVec 64) : Nat → Nat
  | 0 => 0
  | n + 1 => if a.getLsbD n then 0 else 1 + leadUpTo a n

/-- Leading zero count; of 0 it is 64. -/
def clz (a : BitVec 64) : BitVec 64 := BitVec.ofNat 64 (leadUpTo a 64)

/-- Zero bits from bit `i` upwards, `n` bits being left. -/
def trailFrom (a : BitVec 64) (i : Nat) : Nat → Nat
  | 0 => 0
  | n + 1 => if a.getLsbD i then 0 else 1 + trailFrom a (i + 1) n

/-- Trailing zero count; of 0 it is 64. -/
def ctz (a : BitVec 64) : BitVec 64 := BitVec.ofNat 64 (trailFrom a 0 64)

/-- The bytes in reverse order. -/
def bswap (a : BitVec 64) : BitVec 64 := BitVec.ofNat 64 (beNat (leBytes a.toNat 8))

/-- The amount of a shift: bits [5:0]. -/
def shAmt (b : BitVec 64) : Nat := b.toNat % 64

/-- Shifts and rotates by an amount below 64, in the order of SHI's k codes: 1 SLL, 2 SRL, 3 SRA, 4 ROL, 5 ROR. -/
def shiftBy (k : Nat) (a : BitVec 64) (n : Nat) : BitVec 64 :=
  if k = 1 then a <<< n
  else if k = 2 then a >>> n
  else if k = 3 then a.sshiftRight n
  else if k = 4 then a.rotateLeft n
  else a.rotateRight n

/-- BFX: bits [pos + len - 1 : pos], extended with zero or sign. -/
def bitField (a : BitVec 64) (pos len : Nat) (sgn : Bool) : BitVec 64 :=
  let v := (a.toNat / 2 ^ pos) % 2 ^ len
  if sgn && decide (2 ^ (len - 1) ≤ v) then BitVec.ofNat 64 (v + 2 ^ 64 - 2 ^ len) else BitVec.ofNat 64 v

/-- BFI: bits [pos + len - 1 : pos] of `d` replaced by the low bits of `a`. -/
def bitInsert (d a : BitVec 64) (pos len : Nat) : BitVec 64 :=
  let m := BitVec.ofNat 64 ((2 ^ len - 1) * 2 ^ pos)
  (d &&& ~~~m) ||| (BitVec.ofNat 64 (a.toNat % 2 ^ len * 2 ^ pos))

end Sys2Proof.Machine
end

