-- ==== Sys2Proof/Machine/Operands.lean ====
section
/-! DEFINITION. The operand forms of Spur instructions: the words their encodings spell (R166), immediates, effective addresses,
and the memory accesses that loads, stores and AMO make (R171, R172, R445). -/

namespace Sys2Proof.Machine

/-! ### Encodings (R166 and the group tables) -/

/-- Form G3. -/
def wG3 (op gd ga gb minor : Nat) : BitVec 32 :=
  BitVec.ofNat 32 (op * 67108864 + gd * 2097152 + ga * 65536 + gb * 2048 + minor)
/-- Forms GI, B with two registers, and M: two register fields and 16 bits. -/
def wGI (op gd ga : Nat) (imm : BitVec 16) : BitVec 32 :=
  BitVec.ofNat 32 (op * 67108864 + gd * 2097152 + ga * 65536 + imm.toNat)
/-- Form B (long), and BRK. -/
def wBL (op : Nat) (off : BitVec 26) : BitVec 32 := BitVec.ofNat 32 (op * 67108864 + off.toNat)
/-- BFX and BFI. -/
def wBF (op gd ga pos len1 s : Nat) : BitVec 32 :=
  BitVec.ofNat 32 (op * 67108864 + gd * 2097152 + ga * 65536 + pos * 1024 + len1 * 16 + s * 8)
/-- LOOP. -/
def wLoop (ga max len : Nat) : BitVec 32 := BitVec.ofNat 32 (0x1B * 67108864 + ga * 2097152 + max * 1024 + len)
/-- HLD and HST (R175). -/
def wHdr (op gr ga w anchor : Nat) (off : BitVec 8) : BitVec 32 :=
  BitVec.ofNat 32 (op * 67108864 + gr * 2097152 + ga * 65536 + w * 16384 + anchor * 2048 + off.toNat)
/-- LKP (R177). -/
def wLkp (c l ga gb : Nat) : BitVec 32 :=
  BitVec.ofNat 32 (0x20 * 67108864 + c * 4194304 + l * 1048576 + ga * 32768 + gb * 1024)
/-- LWT (R178). -/
def wLwt (gd gs l : Nat) : BitVec 32 := BitVec.ofNat 32 (0x21 * 67108864 + gd * 2097152 + gs * 65536 + l * 16384)
/-- CHW, CHC, CHR and CHG: a register field, a 3-bit field and a channel. -/
def wChan (op g k ch : Nat) : BitVec 32 := BitVec.ofNat 32 (op * 67108864 + g * 2097152 + k * 262144 + ch * 256)
/-- SEV. -/
def wSev (core cx line : Nat) : BitVec 32 :=
  BitVec.ofNat 32 (0x29 * 67108864 + core * 4194304 + cx * 131072 + line * 16384)
/-- EMIT (R180). -/
def wEmit (kind ga gb : Nat) (ts lt : Bool) : BitVec 32 :=
  BitVec.ofNat 32 (0x2C * 67108864 + kind * 8388608 + ga * 262144 + gb * 8192 + bit ts * 4096 + bit lt * 2048)

/-- The opcode of a word. -/
def wOp (w : BitVec 32) : Nat := w.toNat / 67108864

/-! ### Issue (R131, R167, R183-R185) -/

/-- An undefined instruction: an ILLEGAL fault or trap with the word as its value (R167, R184, R185). -/
def State.illegal (s : State) (x : Ctx) (w : BitVec 32) : State := s.faultAt x cIllegal 1 (w.setWidth 64)

/-- Time moves on to the beginning of the slot a context issues in next, which is then used (R131, R132).  A control core has no
slots (R161). -/
def State.atSlot (s : State) (x : Ctx) : State :=
  match x, s.nextSlot x with
  | .cc _, _ | _, none => s
  | _, some d =>
    let s := s.advance d
    let e := s.elapsed + slotUnits
    let s := { s with spur := { s.spur with slotUsed := SMap.setD s.spur.slotUsed (keyCore (ctxKey x)) e 0 } }
    s.modThr (ctxKey x) (fun t => { t with slotEnd := e })

/-- A context issues the instruction word `w`, which it has next, in its next slot: `h` is its effect; a word its profile does not
permit is undefined (R183); a context that may not issue, or has another word next, does nothing. -/
def State.issue (s : State) (x : Ctx) (w : BitVec 32) (h : State → State) : State :=
  if s.canIssue x && s.fetches x w then
    let t := s.atSlot x
    if permits x (wOp w) then h t else t.illegal x w
  else s

/-- An instruction that waits before it issues (R169): once the instruction before it has retired, the context waits by `wait` where
`must` holds, using no slot. -/
def State.issueWait (s : State) (x : Ctx) (w : BitVec 32) (must : State → Bool) (wait h : State → State) : State :=
  let t := s.advanceAt (s.thr (ctxKey x)).slotEnd
  if t.runs x && s.fetches x w && permits x (wOp w) && must t then wait t else s.issue x w h

/-- An instruction that writes a register from a function of two registers and falls through. -/
def State.issue3 (s : State) (x : Ctx) (op minor : Nat) (gd ga gb : GReg) (f : BitVec 64 → BitVec 64 → BitVec 64) : State :=
  s.issue x (wG3 op gd.val ga.val gb.val minor) (fun s => (s.setGpr x gd (f (s.gpr x ga) (s.gpr x gb))).retire x)

/-- An instruction of one source register, its gb field marked 0 (R167). -/
def State.issue2 (s : State) (x : Ctx) (op minor : Nat) (gd ga gb : GReg) (f : BitVec 64 → BitVec 64) : State :=
  s.issue x (wG3 op gd.val ga.val gb.val minor) (fun s =>
    if gb.val = 0 then (s.setGpr x gd (f (s.gpr x ga))).retire x else s.illegal x (wG3 op gd.val ga.val gb.val minor))

/-- An instruction of one source register and a 16-bit immediate. -/
def State.issueI (s : State) (x : Ctx) (op : Nat) (gd ga : GReg) (imm : BitVec 16) (f : BitVec 64 → BitVec 16 → BitVec 64) :
    State :=
  s.issue x (wGI op gd.val ga.val imm) (fun s => (s.setGpr x gd (f (s.gpr x ga) imm)).retire x)

/-- An immediate extended with sign. -/
def sextI (imm : BitVec 16) : BitVec 64 := imm.signExtend 64
/-- An immediate extended with zero. -/
def zextI (imm : BitVec 16) : BitVec 64 := imm.setWidth 64

/-! ### Memory (R171, R172, R445) -/

/-- Where an access goes: external memory, a core's scratch or a ridge's shared memory, and the byte address there. -/
inductive MemAt where
  | ext (a : Nat)
  | scratch (a : Nat)
  | shared (a : Nat)
  deriving DecidableEq, Repr

/-- The memory a place lies in. -/
def State.memOf (s : State) : MemAt → Mem
  | .ext _ => s.mem.ext
  | .scratch _ => s.mem.scratch
  | .shared _ => s.mem.shared

/-- The byte address of a place. -/
def MemAt.addr : MemAt → Nat
  | .ext a | .scratch a | .shared a => a

/-- Key of the 8-byte word that holds a place, in `Mems.bad`. -/
def MemAt.word : MemAt → Nat
  | .ext a => a / 8
  | .scratch a => 2 ^ 48 + a / 8
  | .shared a => 2 * 2 ^ 48 + a / 8

/-- Read `n` bytes at a place, little-endian. -/
def State.loadAt (s : State) (p : MemAt) (n : Nat) : BitVec 64 := BitVec.ofNat 64 (leNat (Mem.bytes (s.memOf p) p.addr n))

/-- Write the `n` low bytes of a value at a place, little-endian; a write of a whole word ends its poison (R445; DESIGN CHOICE,
assumption 26: a write of half a word leaves it). -/
def State.storeAt (s : State) (p : MemAt) (n : Nat) (v : BitVec 64) : State :=
  let d := leBytes v.toNat n
  let bad := if n = 8 then SMap.put s.mem.bad p.word none else s.mem.bad
  match p with
  | .ext a => { s with mem := { s.mem with ext := Mem.setBytes s.mem.ext a d, bad := bad } }
  | .scratch a => { s with mem := { s.mem with scratch := Mem.setBytes s.mem.scratch a d, bad := bad } }
  | .shared a => { s with mem := { s.mem with shared := Mem.setBytes s.mem.shared a d, bad := bad } }

/-- Does the code of the word at a place report it uncorrectable (R445)? -/
def State.poisoned (s : State) (p : MemAt) : Bool := (SMap.find s.mem.bad p.word).isSome

/-- Does `[a, a + n)` lie in a claim of `size` bytes at `base`? -/
def inClaim (a n base size : Nat) : Bool := decide (base ≤ a) && decide (a + n ≤ base + size)

/-- Where a scratch access of `n` bytes at address `a` goes; otherwise the trap cause of its fault (R171, R172, R185). -/
def State.scratchAt (s : State) (x : Ctx) (a : BitVec 64) (n : Nat) (write : Bool) : MemAt ⊕ Nat :=
  let k := ctxKey x
  if isCc k then
    if a.toNat % n ≠ 0 then .inr 4
    else match Config.translate (SMap.getD (s.thr k).sys 5 0) (SMap.getD (s.thr k).sys 6 0) a write with
      | some p => .inl (.ext p)
      | none => .inr 3
  else match s.imageOf k with
    | some i =>
      if a.toNat % n = 0 ∧ inClaim a.toNat n (8 * i.scrBase) (8 * i.scrSize) ∧ a.toNat + n ≤ 65536 then
        .inl (.scratch (keyCore k * 65536 + a.toNat))
      else .inr 3
    | none => .inr 3

/-- Bytes of a ridge's shared memory, where its shared data area begins, and the size of that area (R129). -/
def ridgeBytes : Nat := 2097152
def sharedBase : Nat := 0x180000
def sharedSize : Nat := 524288

/-- Where a shared-data access of 8 bytes at address `a` goes; otherwise the trap cause of its fault (R171, R172). -/
def State.sharedAt (s : State) (x : Ctx) (a : BitVec 64) : MemAt ⊕ Nat :=
  let k := ctxKey x
  if isCc k then
    let r := a.toNat / ridgeBytes
    let o := a.toNat % ridgeBytes
    if a.toNat % 8 ≠ 0 then .inr 4
    else if r < 16 ∧ (s.ridgesOf k).contains r ∧ o + 8 ≤ sharedSize then .inl (.shared (r * ridgeBytes + sharedBase + o))
    else .inr 3
  else match s.imageOf k with
    | some i =>
      if a.toNat % 8 = 0 ∧ inClaim a.toNat 8 i.shBase i.shSize ∧ a.toNat + 8 ≤ sharedSize then
        .inl (.shared (keyRidge k * ridgeBytes + sharedBase + a.toNat))
      else .inr 3
    | none => .inr 3

/-- A load meets a word its code reports uncorrectable: the frame ends DROP_FAULT, BG restarts, a control core traps with MEM, and
the word is recorded (R445). -/
def State.badLoad (s : State) (x : Ctx) (p : MemAt) (a : BitVec 64) : State :=
  let k := ctxKey x
  let b : Blk := if isCc k then ⟨.control, k - 8192⟩ else ⟨.core, keyCore k⟩
  let s := s.cairnRec .memUncorr (some b) (leBytes p.addr 8 ++ [2, 0])
  if isCc k then s.faultAt x cMem 3 a
  else if isBg k then s.bgRestart k true
  else match (s.thr k).frame with
    | some fid => (s.disposeAt (s.slotOver k) fid dFault).idleAfter k
    | none => s.idleWait k

/-- An access's fault: MEM in the data profile, the trap cause `tc` in the control profile. -/
def State.memFault (s : State) (x : Ctx) (tc : Nat) (a : BitVec 64) : State := s.faultAt x cMem tc a

/-- A load at a place: `h` takes the value on. -/
def State.loadOr (s : State) (x : Ctx) (p : MemAt ⊕ Nat) (a : BitVec 64) (n : Nat) (h : State → BitVec 64 → State) : State :=
  match p with
  | .inr tc => s.memFault x tc a
  | .inl q => if s.poisoned q then s.badLoad x q a else h s (s.loadAt q n)

/-- The order of a context among the accesses of one instant to a ridge's shared memory: by logical core, the supervisor last
(R172). -/
def turnOf (k : Nat) : Nat := if isCc k then 256 else keyCore k

/-- An access of a context to a ridge's shared memory is noted with its instant and turn (R172). -/
def State.noteShared (s : State) (x : Ctx) (p : MemAt ⊕ Nat) : State :=
  match p with
  | .inl (.shared a) =>
    { s with spur := { s.spur with sharedAt := SMap.put s.spur.sharedAt (a / ridgeBytes) (some (s.elapsed, turnOf (ctxKey x))) } }
  | _ => s

/-- A slot at whose instant a context later in the order has already accessed the ridge's shared memory passes unused, so that no
access comes before one that R172 puts first (DESIGN CHOICE, assumption 148: the order of the commands is otherwise the order of the
accesses). -/
def State.takeTurn (s : State) (x : Ctx) : State :=
  let k := ctxKey x
  match s.nextSlot x, SMap.find s.spur.sharedAt (keyRidge k) with
  | some d, some (i, c) =>
    if !isCc k && i == s.elapsed + d && decide (turnOf k < c) then
      { s with spur := { s.spur with slotUsed := SMap.setD s.spur.slotUsed (keyCore k) (i + slotUnits) 0 } }
    else s
  | _, _ => s

/-- An instruction that accesses memory issues: one that accesses shared memory, in its turn. -/
def State.issueMem (s : State) (x : Ctx) (w : BitVec 32) (sh : Bool) (h : State → State) : State :=
  let t := if sh then s.takeTurn x else s
  if t.canIssue x && t.fetches x w then t.issue x w h else s

/-- A load instruction. -/
def State.issueLoad (s : State) (x : Ctx) (op : Nat) (gd ga : GReg) (off : BitVec 16) (n : Nat) (sh : Bool) : State :=
  s.issueMem x (wGI op gd.val ga.val off) sh (fun s =>
    let a := s.gpr x ga + sextI off
    let p := if sh then s.sharedAt x a else s.scratchAt x a n false
    (s.noteShared x p).loadOr x p a n (fun s v => (s.setGpr x gd v).retire x))

/-- A store instruction. -/
def State.issueStore (s : State) (x : Ctx) (op : Nat) (gs ga : GReg) (off : BitVec 16) (n : Nat) (sh : Bool) : State :=
  s.issueMem x (wGI op gs.val ga.val off) sh (fun s =>
    let a := s.gpr x ga + sextI off
    let p := if sh then s.sharedAt x a else s.scratchAt x a n true
    match p with
    | .inr tc => s.memFault x tc a
    | .inl q => (((s.noteShared x p).storeAt q n (s.gpr x gs))).retire x)

/-- An AMO: gd takes the old word, and the word becomes a function of it and gb (R172). -/
def State.issueAmo (s : State) (x : Ctx) (minor : Nat) (gd ga gb : GReg) (f : BitVec 64 → BitVec 64 → BitVec 64) : State :=
  s.issueMem x (wG3 0x16 gd.val ga.val gb.val minor) true (fun s =>
    let a := s.gpr x ga
    let p := s.sharedAt x a
    match p with
    | .inr tc => s.memFault x tc a
    | .inl q =>
      let s := s.noteShared x p
      if s.poisoned q then s.badLoad x q a
      else ((s.storeAt q 8 (f (s.loadAt q 8) (s.gpr x gb))).setGpr x gd (s.loadAt q 8)).retire x)

/-! ### Header buffer (R175, R176) -/

/-- Where a header access of `n` bytes begins: none where it is an HDR fault. -/
def State.hdrPos (s : State) (x : Ctx) (f : Frame) (ga : GReg) (anchor : Nat) (off : BitVec 8) (n : Nat) : Option Nat :=
  match f.anchors.getD anchor none with
  | none => none
  | some a =>
    let e := (BitVec.ofNat 64 (a + off.toNat) + s.gpr x ga).toNat
    if e + n ≤ f.depth then some e else none

end Sys2Proof.Machine
end

