-- ==== Sys2Proof/Machine/SpurFrame.lean ====
section
/-! DEFINITION. Frame, lookup, channel, event, time and emit instructions of Spur (R137-R142, R175-R181), the return of a lookup
(R109) and timers (R139). -/

namespace Sys2Proof.Machine

/-! ### Header buffer (R175, R176) -/

/-- A header-buffer instruction of `n` bytes: `h` acts on the frame and the position. -/
def State.issueHdr (s : State) (x : Ctx) (word : BitVec 32) (ga : GReg) (anchor : Fin 8) (off : BitVec 8) (n : Nat)
    (h : State → Nat → Frame → Nat → State) : State :=
  s.issue x word (fun s =>
    if 4 < anchor.val then s.illegal x word
    else match (s.thr (ctxKey x)).frame with
      | none => s
      | some fid => match s.frame? fid with
        | none => s
        | some f => match s.hdrPos x f ga anchor.val off n with
          | none => s.faultAt x cHdr 1 0
          | some e => h s fid f e)

/-- HLD. -/
def execHld (x : Ctx) (gr ga : GReg) (w : Fin 4) (anchor : Fin 8) (off : BitVec 8) (s : State) : Out :=
  .next (s.issueHdr x (wHdr 0x1C gr.val ga.val w.val anchor.val off) ga anchor off (2 ^ w.val) (fun s _ f e =>
    (s.setGpr x gr (BitVec.ofNat 64 (beAt f.hdr e (2 ^ w.val)))).retire x))

/-- HST. -/
def execHst (x : Ctx) (gr ga : GReg) (w : Fin 4) (anchor : Fin 8) (off : BitVec 8) (s : State) : Out :=
  .next (s.issueHdr x (wHdr 0x1D gr.val ga.val w.val anchor.val off) ga anchor off (2 ^ w.val) (fun s fid f e =>
    (s.putFrame fid { f with hdr := pasteB f.hdr e (beBytes (s.gpr x gr).toNat (2 ^ w.val)) }).retire x))

/-! ### Lookups (R177, R178) -/

/-- The key an LKP forms for a table (R177). -/
def State.lkpKey (s : State) (t : Nat) (a b : BitVec 64) : Bytes :=
  let n := s.keyLen t
  if n = 4 then beBytes (a.toNat % 2 ^ 32) 4
  else if n = 8 then beBytes a.toNat 8
  else beBytes a.toNat 8 ++ beBytes b.toNat 8

/-- LKP: issues at the end of its slot (R177); an unclaimed table or a slot that holds a lookup not waited for is a LOOKUP fault. -/
def execLkp (x : Ctx) (claim : Fin 16) (l : Fin 4) (ga gb : GReg) (s : State) : Out :=
  .next (s.issue x (wLkp claim.val l.val ga.val gb.val) (fun s =>
    let k := ctxKey x
    match (s.imageOf k).bind (fun i => i.claim? 1 claim.val), SMap.find (s.thr k).slots l.val with
    | some c, none =>
      let t := bitsOf c.data.toNat 51 32 % 256
      let key := s.lkpKey t (s.gpr x ga) (s.gpr x gb)
      let r := s.lookup t key (refInc c.data)
      let slot : LkSlot := { table := t, key := key, inc := refInc c.data, issued := s.elapsed + slotUnits,
                             latency := s.lkLatency t * unitsPerNs, ans := r.2 }
      (r.1.modThr k (fun th => { th with slots := SMap.put th.slots l.val (some slot) })).retire x
    | _, _ => s.faultAt x cLookup 1 0))

/-- Has a lookup returned by now (R109)? -/
def State.lkBack (s : State) (v : LkSlot) : Bool := v.back || decide (v.issued + v.latency ≤ s.elapsed)

/-- A thread's budget timer stops. -/
def State.stopBudget (s : State) (k : Nat) : State :=
  s.modThr k (fun t =>
    let run := match t.budSince with
      | some u => s.elapsed - u
      | none => 0
    { t with budUsed := t.budUsed + run, budSince := none })

/-- A thread's budget timer stops for a lookup wait, if the image has waits left (R148). -/
def State.pauseBudget (s : State) (k : Nat) : State :=
  if (s.thr k).waitsLeft = 0 then s
  else (s.modThr k (fun t => { t with waitsLeft := t.waitsLeft - 1, paused := true })).stopBudget k

/-- A thread's budget timer runs again from an elapsed time on. -/
def State.resumeBudget (s : State) (k since : Nat) : State :=
  s.modThr k (fun t => if t.frame.isSome && t.budSince.isNone then { t with budSince := some since } else t)

/-- LWT: takes a returned result; before it has returned the thread is in LOOKUP and the instruction issues later (R169, R178). -/
def execLwt (x : Ctx) (gd gs : GReg) (l : Fin 4) (s : State) : Out :=
  let k := ctxKey x
  .next (s.issueWait x (wLwt gd.val gs.val l.val)
    (fun s => (SMap.find (s.thr k).slots l.val).any (fun v => !s.lkBack v))
    (fun s => (s.modThr k (fun t => { t with st := 3, waitSlot := l.val })).pauseBudget k)
    (fun s => match SMap.find (s.thr k).slots l.val with
      | none => s.faultAt x cLookup 1 0
      | some v => (((s.modThr k (fun t => { t with slots := SMap.put t.slots l.val none })).setGpr x gd v.ans.1).setGpr x gs
          (BitVec.ofNat 64 v.ans.2)).retire x))

/-- LOOKUP_RESULT: the result returns exactly at the table latency after issue, and wakes a thread that waits for it (R109, R169). -/
def execLookupResult (c : Core) (t : Fin 16) (l : Fin 4) (s : State) : Out :=
  let k := thrKey c.val t.val
  match SMap.find (s.thr k).slots l.val with
  | none => .next s
  | some v =>
    let at_ := v.issued + v.latency
    let s := s.advanceAt at_
    let s := s.modThr k (fun th => { th with slots := SMap.put th.slots l.val (some { v with back := true }) })
    if (s.thr k).waitSlot = l.val ∧ (s.thr k).st = 3 then
      .next ((s.modThr k (fun th => { th with st := 1, paused := false })).resumeBudget k at_)
    else if (s.thr k).waitSlot = l.val ∧ (s.thr k).st = 4 ∧ (s.thr k).back = 3 then
      .next (s.modThr k (fun th => { th with back := 1, paused := false }))
    else .next s

/-! ### Channels (R140-R142) -/

/-- CHW. -/
def execChw (x : Ctx) (ga : GReg) (k : Fin 8) (s : State) : Out :=
  .next (s.issue x (wChan 0x24 ga.val k.val 0) (fun s =>
    (s.modThr (ctxKey x) (fun t => { t with staging := SMap.setD t.staging k.val (s.gpr x ga) 0 })).retire x))

/-- A context commits to a channel: the SPC cycle of a commit in a slot is noted (R141). -/
def State.noteCommit (s : State) (k i : Nat) : State :=
  if isCc k then s else { s with spur := { s.spur with chanAt := SMap.put s.spur.chanAt i (some s.elapsed) } }

/-- How many of a channel's messages a reader in this SPC cycle sees: not one committed in the same cycle (R141). -/
def State.chanSeen (s : State) (k i : Nat) : Nat :=
  if !isCc k && SMap.find s.spur.chanAt i == some s.elapsed then (s.chan i).length - 1 else (s.chan i).length

/-- CHC: commits the staged message, or fails on a full channel (R141). -/
def execChc (x : Ctx) (gd : GReg) (ch : Fin 1024) (n1 : Fin 8) (s : State) : Out :=
  let w := wChan 0x25 gd.val n1.val ch.val
  .next (s.issue x w (fun s =>
    let k := ctxKey x
    match (s.ridgesOf k).find? (fun r => s.isWriter k r ch.val) with
    | none => s.faultAt x cChannel 2 (w.setWidth 64)
    | some r =>
      let i := chanIx r ch.val
      if (s.chan i).length < s.get .spurChCfgDepth i then
        let m := (List.range (n1.val + 1)).map (fun j => SMap.getD (s.thr k).staging j 0)
        let s := (s.setChan i (s.chan i ++ [m])).noteCommit k i
        let s := s.modThr k (fun t => { t with staging := [] })
        let s := match s.readerKey r ch.val with
          | some q => s.wake q
          | none => s
        (s.setGpr x gd 0).retire x
      else ((s.bump .spurChStaFull i).setGpr x gd 1).retire x))

/-- CHR: removes the oldest message into the receive area (R141). -/
def execChr (x : Ctx) (gd : GReg) (ch : Fin 1024) (s : State) : Out :=
  let w := wChan 0x26 gd.val 0 ch.val
  .next (s.issue x w (fun s =>
    let k := ctxKey x
    match (s.ridgesOf k).find? (fun r => s.isReader k r ch.val) with
    | none => s.faultAt x cChannel 2 (w.setWidth 64)
    | some r =>
      let i := chanIx r ch.val
      match s.chan i, s.chanSeen k i with
      | [], _ | _, 0 => (s.setGpr x gd 0).retire x
      | m :: rest, _ =>
        let area := (m.zip (List.range 8)).foldl (fun a p => SMap.setD a p.2 p.1 0) []
        let s := (s.setChan i rest).modThr k (fun t => { t with receive := area })
        (s.setGpr x gd (BitVec.ofNat 64 m.length)).retire x))

/-- CHG. -/
def execChg (x : Ctx) (gd : GReg) (k : Fin 8) (s : State) : Out :=
  .next (s.issue x (wChan 0x27 gd.val k.val 0) (fun s =>
    (s.setGpr x gd (SMap.getD (s.thr (ctxKey x)).receive k.val 0)).retire x))

/-! ### Events and time (R137-R139, R179) -/

/-- The mask a WFE waits with: the data profile ignores bit 0 and bits [31:26] (R179). -/
def wfeMask (x : Ctx) (a : BitVec 64) : BitVec 32 :=
  if isCc (ctxKey x) then a.setWidth 32 else a.setWidth 32 &&& 0x03FFFFFE

/-- WFE: with a masked input pending it returns pending & mask and clears the latched bits among them; otherwise the context waits
and the instruction issues later (R137, R169). -/
def execWfe (x : Ctx) (gd ga : GReg) (s : State) : Out :=
  let w := wGI 0x28 gd.val ga.val 0
  let k := ctxKey x
  let m := wfeMask x (s.gpr x ga)
  .next (s.issueWait x w (fun s => (isCc k || m != 0) && s.pendingOf k &&& m == 0)
    (fun s => s.modThr k (fun t => { t with st := 2, mask := m }))
    (fun s =>
      if !isCc k && m == 0 then s.illegal x w
      else
        let p := s.pendingOf k &&& m
        ((s.modThr k (fun t => { t with pending := t.pending &&& ~~~m, mask := m })).setGpr x gd (p.setWidth 64)).retire x))

/-- The context that SEV's ctx field names on core `core` of ridge `r`. -/
def sevKey (r core cx : Nat) : Nat := if cx = 16 then bgKey (16 * r + core) else thrKey (16 * r + core) cx

/-- SEV: raises the line if the sender is its declared source, and is otherwise counted (R138); that of a control core that supervises
several ridges and is the source in none is counted at the first of them (DESIGN CHOICE, assumption 146). -/
def execSev (x : Ctx) (core : Fin 16) (cx : Fin 32) (line : Fin 8) (s : State) : Out :=
  let w := wSev core.val cx.val line.val
  .next (s.issue x w (fun s =>
    if 16 < cx.val then s.illegal x w
    else
      let k := ctxKey x
      match (s.ridgesOf k).find? (fun r => s.sevOk k r (sevKey r core.val cx.val) line.val) with
      | some r => (s.retire x).raiseEvt (sevKey r core.val cx.val) (13 + line.val)
      | none => match s.ridgesOf k with
        | [] => s.retire x
        | r :: _ => (s.bump .spurCoreSevrefRefused (16 * r + core.val)).retire x))

/-- TNOW_LT: the ridge replica of LT. -/
def execTnowLt (x : Ctx) (gd : GReg) (s : State) : Out :=
  .next (s.issue x (wG3 0x2A gd.val 0 0 0) (fun s => (s.setGpr x gd (s.ctxLt x)).retire x))

/-- TNOW_BUDGET: the budget remaining in 0.5 ns units, 0 without a frame. -/
def execTnowBudget (x : Ctx) (gd : GReg) (s : State) : Out :=
  .next (s.issue x (wG3 0x2A gd.val 0 0 1) (fun s =>
    (s.setGpr x gd (BitVec.ofNat 64 (ceilDiv ((s.budgetLeft (ctxKey x)).getD 0) 32768))).retire x))

/-- TCMP_COMPARE: gd = 1 if ga is at or after gb (R37, R179). -/
def execTcmpCompare (x : Ctx) (gd ga gb : GReg) (s : State) : Out :=
  .next (s.issue3 x 0x2B 0 gd ga gb (fun a b => truth (ltReached a b)))

/-- TCMP_ARM: arms timer `k` if its target lies less than 2⁴⁶ ns ahead (R139). -/
def execTcmpArm (x : Ctx) (gd ga : GReg) (k : Fin 4) (s : State) : Out :=
  .next (s.issue x (wG3 0x2B gd.val ga.val 0 (1 + 4 * k.val)) (fun s =>
    let t := s.gpr x ga
    if ltDiff t (s.ctxLt x) < 2 ^ 62 then
      ((s.modThr (ctxKey x) (fun th => { th with timers := SMap.put th.timers k.val (some t) })).setGpr x gd 0).retire x
    else (s.setGpr x gd 1).retire x))

/-- TCMP_DISARM. -/
def execTcmpDisarm (x : Ctx) (gd : GReg) (k : Fin 4) (s : State) : Out :=
  .next (s.issue x (wG3 0x2B gd.val 0 0 (2 + 4 * k.val)) (fun s =>
    ((s.modThr (ctxKey x) (fun th => { th with timers := SMap.put th.timers k.val none })).setGpr x gd 0).retire x))

/-- TIMER_FIRE: the ridge's replica reaches a timer's target and its input is set (R139). -/
def execTimerFire (x : Ctx) (k : Fin 4) (s : State) : Out :=
  let key := ctxKey x
  match SMap.find (s.thr key).timers k.val with
  | none => .next s
  | some t =>
    let s := s.advance (ltDiff t (s.ctxLt x)).toNat
    .next ((s.modThr key (fun th => { th with timers := SMap.put th.timers k.val none })).raiseEvt key (1 + k.val))

/-! ### Emit and annotation (R180, R181) -/

/-- An EMIT of kind `kind`: ts or lt where its kind has none, or no claim, is an EMIT fault; a claim under another incarnation is
STALE; otherwise the frame ends and goes to the destination that `to_` gives, as its slot ends. -/
def State.issueEmit (s : State) (x : Ctx) (kind : Nat) (ga gb : GReg) (ts lt tsOk ltOk : Bool) (claim : Image → Option Claim)
    (to_ : Frame → Claim → Frame) : State :=
  s.issue x (wEmit kind ga.val gb.val ts lt) (fun s =>
    let k := ctxKey x
    if (ts && !tsOk) || (lt && !ltOk) then s.faultAt x cEmit 1 0
    else match (s.imageOf k).bind claim with
      | none => s.faultAt x cEmit 1 0
      | some c =>
        if !s.refCurrent c.data then s.faultAt x cStale 1 0
        else match (s.thr k).frame with
          | none => s
          | some fid => match s.frame? fid with
            | none => s
            | some f => (s.putFrame fid { to_ f c with stage := .emitted, emitAt := s.slotOver k }).idleAfter k)

/-- The two-step stamp request of an emit: its software identifier and the function that owns the program's group (R91). -/
def State.stampReq (s : State) (x : Ctx) (a : BitVec 64) (ts : Bool) : Option (Nat × Option Nat) :=
  if ts then some (bitsOf a.toNat 31 16, (s.thr (ctxKey x)).group.map (fun g => s.get .spurGrpStaOwner g)) else none

/-- The index of the block a claim names. -/
def Claim.ix (c : Claim) : Nat := bitsOf c.data.toNat 51 32

/-- EMIT_QUEUE. -/
def execEmitQueue (x : Ctx) (ga gb : GReg) (ts lt : Bool) (s : State) : Out :=
  let a := s.gpr x ga
  .next (s.issueEmit x 0 ga gb ts lt true true (fun i => i.claimIx? 2 (a.toNat % 4096)) (fun f c =>
    { f with dest := .queue (c.ix / 16), ts := s.stampReq x a ts, launch := if lt then some (s.gpr x gb) else none }))

/-- EMIT_MULTICAST. -/
def execEmitMulticast (x : Ctx) (ga gb : GReg) (ts lt : Bool) (s : State) : Out :=
  let a := s.gpr x ga
  .next (s.issueEmit x 1 ga gb ts lt true false (fun i => i.claimIx? 3 (a.toNat % 65536)) (fun f c =>
    { f with dest := .mcast c.ix none, ts := s.stampReq x a ts }))

/-- EMIT_HOST. -/
def execEmitHost (x : Ctx) (ga gb : GReg) (ts lt : Bool) (s : State) : Out :=
  .next (s.issueEmit x 2 ga gb ts lt false false (fun i => i.claim? 4 ((s.gpr x ga).toNat % 256)) (fun f c =>
    { f with dest := .host c.ix }))

/-- EMIT_FABRIC (R286). -/
def execEmitFabric (x : Ctx) (ga gb : GReg) (ts lt : Bool) (s : State) : Out :=
  .next (s.issueEmit x 3 ga gb ts lt false false (fun i => i.claim? 5 ((s.gpr x ga).toNat % 256)) (fun f c =>
    { f with dest := .fabric c.ix (s.gpr x gb) }))

/-- EMIT_CIPHER (R297). -/
def execEmitCipher (x : Ctx) (ga gb : GReg) (ts lt : Bool) (s : State) : Out :=
  let s' := s.issueEmit x 4 ga gb ts lt false false (fun i => i.claim? 6 ((s.gpr x ga).toNat % 256)) (fun f c =>
    { f with dest := .cipher c.ix })
  .next (match (s.thr (ctxKey x)).frame with
    | some fid => s'.addFrameJob fid
    | none => s')

/-- EMIT_DROP: the frame ends DROP_PROGRAM. -/
def execEmitDrop (x : Ctx) (ga gb : GReg) (ts lt : Bool) (s : State) : Out :=
  .next (s.issue x (wEmit 5 ga.val gb.val ts lt) (fun s =>
    if ts || lt then s.faultAt x cEmit 1 0
    else match (s.thr (ctxKey x)).frame with
      | none => s
      | some fid => (s.disposeAt (s.slotOver (ctxKey x)) fid dProgram).idleAfter (ctxKey x)))

/-- LEAF: bits [55:0] of the annotation (R181). -/
def execLeaf (x : Ctx) (ga : GReg) (s : State) : Out :=
  .next (s.issue x (wGI 0x2D 0 ga.val 0) (fun s =>
    match (s.thr (ctxKey x)).frame with
    | none => s
    | some fid => (s.setAnnot fid (s.gpr x ga &&& 0x00FFFFFFFFFFFFFF)).retire x))

end Sys2Proof.Machine
end

