-- ==== Sys2Proof/Machine/SpurCtl.lean ====
section
/-! DEFINITION. The dispatcher, budgets, slot tables, wait cycles, sparing, debugger halts and the control registers of Spur cores
(chapter 05). -/

namespace Sys2Proof.Machine

/-! ### Dispatch (R144, R146, R158) -/

/-- The dispatch instant of a frame after its stamp, LT units (R144, R303). -/
def State.dispatchUnits (s : State) (p : Nat) : Nat := (s.portIn p + s.secyRx p + s.portParse p) * unitsPerNs

/-- A dispatch fault of a group: its DISPATCH_WAIT record, and the event to its ridge's supervisor (R146, R158, R161). -/
def State.dispatchRec (s : State) (g : Nat) : State :=
  (s.cairnRec .dispatchWait (some ⟨.group, g⟩) (leBytes g 2 ++ leBytes (s.dqueue g).length 1)).tellSupervisor (g / 256) 2

/-- Queued frames go in order to idle members (R146). -/
def State.serveList (s : State) (g : Nat) : List Nat → State
  | [] => s
  | fid :: t => match s.chooseIdle g with
    | none => s
    | some k => ((s.setDq g t).handTo fid k).serveList g t

/-- Serve a group's dispatch queue. -/
def State.serveQueue (s : State) (g : Nat) : State := s.serveList g (s.dqueue g)

/-- Put a frame number into a queue kept in ingress-stamp order. -/
def State.insStamp (s : State) (fid : Nat) (t : BitVec 64) : List Nat → List Nat
  | [] => [fid]
  | x :: l => match s.frame? x with
    | some f => if ltAfter f.lt t then fid :: x :: l else x :: s.insStamp fid t l
    | none => x :: s.insStamp fid t l

/-- The dispatcher takes a matched frame of group `g` at its dispatch instant. -/
def State.dispatchTo (s : State) (fid : Nat) (f : Frame) (g : Nat) : State :=
  if (SMap.find s.spur.images (grpImg g (s.bankFor g f.lt))).isNone then (s.dispatchRec g).dispose fid dFault
  else if (s.membersUp g).isEmpty then s.dispose fid dFault
  else
    let s := s.serveQueue g
    match (if (s.dqueue g).isEmpty then s.chooseIdle g else none) with
    | some k => s.handTo fid k
    | none =>
      if (s.dqueue g).length < 16 then
        let s := (s.setDq g (s.insStamp fid f.lt (s.dqueue g))).putFrame fid { f with stage := .dqueue g }
        (s.bump .spurGrpDqwaitWaits g).dispatchRec g
      else (s.bump .spurGrpDqdropDrops g).dispose fid dFault

/-- DISPATCH: at its dispatch instant a matched frame goes to an idle member, the dispatch queue, or is dropped. -/
def execDispatch (fid : Nat) (s : State) : Out :=
  match s.frame? fid with
  | none => .next s
  | some f => match f.port, s.frameVer f with
    | some p, some v =>
      if f.stage = .matched then
        let s := s.advanceTo (f.lt + BitVec.ofNat 64 (s.dispatchUnits p))
        match s.frame? fid with
        | some f => .next (s.dispatchTo fid f v.body.group)
        | none => .next s
      else .next s
    | _, _ => .next s

/-- Elapsed time at which the first of a group's free members is idle: 0 where it has none (R132). -/
def State.firstFree (s : State) (g : Nat) : Nat :=
  match ((s.members g).filter s.freeThr).map (fun k => (s.thr k).lastEnd) with
  | [] => 0
  | e :: l => l.foldl min e

/-- DISPATCH_QUEUED: queued frames go to members that are idle, at the instant the first of them is (R146). -/
def execDispatchQueued (g : Group) (s : State) : Out :=
  let s := if (s.dqueue g.val).isEmpty then s else s.advanceAt (s.firstFree g.val)
  .next (s.serveQueue g.val)

/-! ### Wait cycles (R154, R155) -/

/-- Threads of a core in some state leave it for WAIT; the core is in no wait cycle (R155). -/
def State.unpark (s : State) (c : Nat) : State :=
  let s := (List.range 16).foldl (fun s t =>
    if (s.thr (thrKey c t)).st = 5 then (s.modThr (thrKey c t) (fun th => { th with st := 2 })).wake (thrKey c t) else s) s
  let r := c / 16
  let w := s.get .spurRidgeStaWaitCycle r
  let s := if bitOf w (c % 16) then s.set .spurRidgeStaWaitCycle r (w - 2 ^ (c % 16)) else s
  s.set .spurCoreStaWaitCycle c 0

/-- Is input `i` of a thread of origin class same-core (R136)? -/
def State.sameCore (s : State) (k i : Nat) : Bool :=
  if 5 ≤ i ∧ i ≤ 12 then
    match s.watchChan k (i - 5) with
    | some ch => !s.is .spurChCfgWriterCc ch && !s.is .spurChCfgWriterBg ch &&
        s.get .spurChCfgWriter ch / 16 == keyCore k % 16
    | none => false
  else if 13 ≤ i ∧ i ≤ 20 then
    let v := s.sevSource k (i - 13)
    bitOf v 15 && !bitOf v 14 && !bitOf v 13 && bitsOf v 7 4 == keyCore k % 16
  else false

/-- The threads of a core that own an entry of its active slot table. -/
def State.slotOwners (s : State) (c : Nat) : List Nat := (List.range 16).filter (fun t => s.ownsSlot c t)

/-- Is a core in a wait cycle (R154)?  A core whose table is empty is in none (DESIGN CHOICE, assumption 36). -/
def State.inWaitCycle (s : State) (c : Nat) : Bool :=
  let ts := s.slotOwners c
  !ts.isEmpty && ts.all (fun t =>
    let k := thrKey c t
    let th := s.thr k
    th.st == 2 && (List.range 32).all (fun i => !th.mask.getLsbD i || s.sameCore k i) && (s.pendingOf k &&& th.mask) == 0)

/-- WAIT_CYCLE: the threads of a core's wait cycle are PARKED, the status is set and the supervisor told (R154). -/
def execWaitCycle (c : Core) (s : State) : Out :=
  let n := c.val
  if s.inWaitCycle n && !s.is .spurCoreStaWaitCycle n then
    let ts := s.slotOwners n
    let masks := (List.range 16).flatMap (fun t =>
      leBytes (if ts.contains t then bitsOf (s.thr (thrKey n t)).mask.toNat 20 5 else 0) 2)
    let s := ts.foldl (fun s t => s.modThr (thrKey n t) (fun th => { th with st := 5 })) s
    let s := s.set .spurCoreStaWaitCycle n 1
    let s := s.set .spurRidgeStaWaitCycle (n / 16) (s.get .spurRidgeStaWaitCycle (n / 16) ||| 2 ^ (n % 16))
    .next ((s.cairnRec .waitCycle (some ⟨.core, n⟩) masks).tellSupervisor (n / 16) 0)
  else .next s

/-- SPUR_CORE_REL: raises the named SEV line of the named thread as its declared source would; a parked thread leaves PARKED, and with
it the others (R155).  One that names a line without a declared source is counted as a refused SEV and wakes nothing (DESIGN CHOICE,
assumption 145). -/
def execSpurCoreRel (c : Core) (v : BitVec 32) (s : State) : Out :=
  let t := bitsOf v.toNat 7 4
  let l := bitsOf v.toNat 2 0
  let k := thrKey c.val t
  if bitOf (s.sevSource k l) 15 then
    let s := s.raiseEvt k (13 + l)
    .next (if (s.thr k).st = 5 then s.unpark c.val else s)
  else .next (s.bump .spurCoreSevrefRefused c.val)

/-- SPUR_CORE_DB: raises a host doorbell input of the named thread (R136). -/
def execSpurCoreDb (c : Core) (v : BitVec 32) (s : State) : Out :=
  .next (s.raiseEvt (thrKey c.val (bitsOf v.toNat 7 4)) (21 + bitsOf v.toNat 1 0))

/-! ### Budget (R148, R149) -/

/-- A frame's budget expires on the thread that holds it: annotation, count, disposition or the forward to ovr_q's port; staging and
lookup results are discarded, and the thread returns to its idle WAIT, a halted one when it resumes (R149, R155, R184). -/
def State.expire (s : State) (k fid g : Nat) (im : Image) : State :=
  let t := s.thr k
  let a := ((s.frame? fid).map (·.annot)).getD 0
  let s := (s.setAnnot fid (faultAnnot a cBudget t.index)).bump .spurGrpBudgetOverruns g
  let s := if im.overrun then
      match s.frame? fid with
      | some f => s.putFrame fid { f with stage := .emitted, emitAt := s.elapsed, dest := .queue (im.ovrQ / 16), ts := none,
                                          launch := none }
      | none => s
    else s.dispose fid dBudget
  let s := s.modThr k (fun t => { t with staging := [], slots := [] })
  if t.st = 4 then s.modThr k (fun t => { t with frame := none, expired := true, budSince := none, lastEnd := s.elapsed })
  else
    let s := s.idleWait k
    if t.st = 5 then s.unpark (keyCore k) else s

/-- BUDGET_EXPIRY: the budget timer of a frame in hand expires (R148, R149). -/
def execBudgetExpiry (c : Core) (t : Fin 16) (s : State) : Out :=
  let k := thrKey c.val t.val
  match (s.thr k).frame, (s.thr k).group, s.imageOf k, s.budgetLeft k, (s.thr k).budSince with
  | some fid, some g, some im, some left, some _ => .next ((s.advance left).expire k fid g im)
  | _, _, _, _, _ => .next s

/-! ### Slot tables (R130-R133) -/

/-- Does every thread of a group bound to a contract keep its entries in the inactive bank (R133)? -/
def State.slotsKept (s : State) (c : Nat) : Bool :=
  let b := s.get .spurCoreStaSlotBank c
  (List.range 64).all (fun i =>
    match s.slotEntry c b i with
    | none => true
    | some t =>
      let bound := match (s.thr (thrKey c t)).group with
        | some g => s.get .spurGrpStaContracts g != 0
        | none => false
      !bound || s.slotEntry c (1 - b) i == some t)

/-- Arm a slot-table swap of a core, or set slot_refused (R133). -/
def State.armSlot (s : State) (c : Nat) (t : BitVec 64) (lead : Bool) : State :=
  if s.armTime t lead && !s.is .spurCoreStaSlotPending c && s.slotsKept c then
    let s := { s with spur := { s.spur with slotTarget := SMap.put s.spur.slotTarget c (some t) } }
    (s.set .spurCoreStaSlotPending c 1).set .spurCoreStaSlotRefused c 0
  else s.set .spurCoreStaSlotRefused c 1

/-- SPUR_SLOT_AT: arms a slot-table swap, or sets slot_refused (R133). -/
def execSpurSlotAt (c : Core) (target : BitVec 64) (s : State) : Out := .next (s.armSlot c.val target true)

/-- The first table-cycle boundary at or after an instant (R130). -/
def slotBoundary (t : BitVec 64) : BitVec 64 := BitVec.ofNat 64 ((t.toNat + 2097151) / 2097152 * 2097152)

/-- SLOT_TABLE_SWAP: at the first table-cycle boundary at or after the target, by the ridge's replica, the banks exchange (R130,
R133). -/
def execSlotTableSwap (c : Core) (s : State) : Out :=
  match SMap.find s.spur.slotTarget c.val with
  | none => .next s
  | some t =>
    let s := s.advance (ltDiff (slotBoundary t) (s.ctxLt (.bg c))).toNat
    let b := s.get .spurCoreStaSlotBank c.val
    let s := { s with spur := { s.spur with slotTarget := SMap.put s.spur.slotTarget c.val none } }
    let s := (s.set .spurCoreStaSlotBank c.val (1 - b)).set .spurCoreStaSlotPending c.val 0
    .next (if s.forerunner then
        (List.range 8).foldl (fun s i =>
          s.setReg .spurSlot ((c.val * 2 + b) * 8 + i) (s.reg .spurSlot ((c.val * 2 + (1 - b)) * 8 + i))) s
      else s)

/-! ### Thread reset (R159, R164) -/

/-- A thread restarts at its group's image's entry point in the idle WAIT, with registers, events, timers and staging cleared; one
without an image is OFF. -/
def State.resetThr (s : State) (k : Nat) : State :=
  let b := ((s.thr k).group.map s.restBank).getD 0
  let s := s.modThr k (fun t => { t with gprs := [], pending := 0, timers := [], staging := [], slots := [], frame := none,
                                         expired := false, bank := b })
  let on := (s.imageOf k).isSome && s.coreUp (keyCore k)
  let s := s.idleWait k
  if on then s else s.modThr k (fun t => { t with st := 0, mask := 0 })

/-- SPUR_THR_RST: resets the named threads; a thread that holds a frame is not reset and is counted (R159). -/
def execSpurThrRst (c : Core) (v : BitVec 32) (s : State) : Out :=
  .next ((List.range 16).foldl (fun s t =>
    let k := thrKey c.val t
    if !v.getLsbD t then s
    else if (s.thr k).frame.isSome then (s.bump .spurCoreIgnIgnored c.val).set .spurCoreStaIgn c.val 1
    else
      let parked := (s.thr k).st == 5
      let s := s.resetThr k
      if parked then s.unpark c.val else s) s)

/-! ### Sparing and repair (R157, R158) -/

/-- The frames in hand on a core end DROP_FAULT, and its staging areas are discarded; parked threads do not stay parked on a core that
stops (DEDUCED from R155 and R157, assumption 121). -/
def State.dropCore (s : State) (c : Nat) : State :=
  let s := s.unpark c
  let s := (List.range 16).foldl (fun s t =>
    let k := thrKey c t
    let s := match (s.thr k).frame with
      | some fid => (s.dispose fid dFault).idleWait k
      | none => s
    s.modThr k (fun th => { th with staging := [] })) s
  s.modThr (bgKey c) (fun th => { th with staging := [] })

/-- The groups with members on a core. -/
def State.groupsOn (s : State) (c : Nat) : List Nat :=
  ((List.range 16).filterMap (fun t => (s.thr (thrKey c t)).group)).eraseDups

/-- A core leaves for repair: a group below the member need is a device fault; a group without members drops what it has queued. -/
def State.loseMembers (s : State) (g : Nat) : State :=
  let s := if s.memberCount g < s.env.memberNeed g then s.dispatchRec g else s
  if (s.membersUp g).isEmpty then ((s.dqueue g).foldl (fun s fid => s.dispose fid dFault) s).setDq g [] else s

/-- A logical core stops: it is spared, or enters repair where its ridge has no spare. -/
def State.failCore (s : State) (c : Nat) : State :=
  let r := c / 16
  let had := s.is .spurCoreCtlEn c
  if s.is .spurRidgeStaSpareAvail r then
    let s := ((s.set .spurCoreStaState c 2).setBlkState ⟨.core, c⟩ 4).set .spurRidgeStaSpareAvail r 0
    (s.dropCore c).tellSupervisor r 1
  else
    let s := ((s.set .spurCoreStaState c 3).setBlkState ⟨.core, c⟩ 4).dropCore c
    let s := s.cairnRec .spurSpare (some ⟨.core, c⟩) [BitVec.ofNat 8 r, 1, 1]
    (if had then (s.groupsOn c).foldl (fun s g => s.loseMembers g) s else s).tellSupervisor r 1

/-- SPUR_CORE_FAIL: the physical core under a logical core fails, an enabled one, a disabled one, or a spare just placed; a core in
repair has none (R157, R158). -/
def execSpurCoreFail (c : Core) (s : State) : Out :=
  if s.get .spurCoreStaState c.val = 3 then .next s else .next (s.failCore c.val)

/-- A scratch word lost in the copy reads as zero with a correct code, and is recorded (R157). -/
def State.loseScratch (s : State) (c o : Nat) : State :=
  let a := c * 65536 + o % 65536 / 8 * 8
  let s := { s with mem := { s.mem with scratch := Mem.setBytes s.mem.scratch a (List.replicate 8 0),
                                        bad := SMap.put s.mem.bad (2 ^ 48 + a / 8) none } }
  s.cairnRec .scratchLost (some ⟨.core, c⟩) (leBytes (o % 65536 / 8 * 8) 4)

/-- The scratch words of a core already known to be uncorrectable, by byte offset. -/
def State.badScratch (s : State) (c : Nat) : List Nat :=
  (s.mem.bad.filter (fun e => inRange e.1 (2 ^ 48 + c * 8192) 8192)).map (fun e => (e.1 - (2 ^ 48 + c * 8192)) * 8)

/-- BG restarts at its entry with registers 0 and no pending events. -/
def State.resetBg (s : State) (c : Nat) : State :=
  let k := bgKey c
  let s := s.bgRestart k true
  s.modThr k (fun t => { t with pending := 0, st := if (s.imageOf k).isSome then 1 else 0 })

/-- SPARE_DONE: the copy to the spare ends; threads and BG restart, and the core returns under a new incarnation (R157), a disabled one
as disabled (R160). -/
def execSpareDone (c : Core) (lost : List Nat) (s : State) : Out :=
  let n := c.val
  if s.get .spurCoreStaState n = 2 then
    let s := ((lost ++ s.badScratch n).map (fun o => o % 65536 / 8 * 8)).eraseDups.foldl (fun s o => s.loseScratch n o) s
    let on := s.is .spurCoreCtlEn n
    let s := if on then (s.set .spurCoreStaState n 1).enterService ⟨.core, n⟩
      else ((s.set .spurCoreStaState n 0).renewInc ⟨.core, n⟩).setBlkState ⟨.core, n⟩ 1
    let s := (List.range 16).foldl (fun s t => s.resetThr (thrKey n t)) s
    let s := (if on then s.resetBg n else s).bump .spurRidgeSpareCntSpares (n / 16)
    let s := s.unpark n
    .next (s.cairnRec .spurSpare (some ⟨.core, n⟩) [BitVec.ofNat 8 (n / 16), 1, 0])
  else .next s

/-- SPARE_RETURN: a retired physical core that passes its self test becomes the ridge's spare (R158). -/
def execSpareReturn (r : Fin 16) (s : State) : Out :=
  if s.is .spurRidgeStaSpareAvail r.val then .next s else .next (s.set .spurRidgeStaSpareAvail r.val 1)

/-- CC_FAIL: a control core's duties and ridges pass to another (R161, R456). -/
def execCcFail (k byCore : Fin 8) (s : State) : Out :=
  if k = byCore ∨ s.blkState ⟨.control, k.val⟩ ≠ 2 ∨ s.blkState ⟨.control, byCore.val⟩ ≠ 2 then .next s
  else
    let all := s.get .spurCcStaRidges k.val ||| s.get .spurCcStaRidges byCore.val
    let s := (s.set .spurCcStaRidges byCore.val all).set .spurCcStaRidges k.val 0
    .next ((s.setBlkState ⟨.control, k.val⟩ 4).cairnRec .ccFail (some ⟨.control, k.val⟩)
      [BitVec.ofNat 8 k.val, BitVec.ofNat 8 byCore.val])

/-! ### Debugger halts (R156, R401) -/

/-- DEBUG_HALT: where the lifecycle permits debug, a debugger enables or disables breakpoints on a core (`brk`; DESIGN CHOICE,
assumption 122: the spec names no other command that does) and halts a foreground thread (R156, R182).  A parked thread stays PARKED:
R155 gives a halt as no way out of it (DEDUCED, assumption 121). -/
def execDebugHalt (c : Core) (t : HaltAt) (s : State) : Out :=
  let k := thrKey c.val t.thread.val
  if s.is .secLifecycleDebug then
    let s := { s with spur := { s.spur with brkCores := SMap.put s.spur.brkCores c.val (if t.brk then some () else none) } }
    let st := (s.thr k).st
    if st = 0 ∨ st = 4 ∨ st = 5 then .next s
    else .next ((s.modThr k (fun th => { th with st := 4, back := th.st })).resumeBudget k s.elapsed)
  else .next s

/-- DEBUG_RESUME: the thread continues from the halt, or restarts at its entry if its frame expired (R156, R149). -/
def execDebugResume (c : Core) (t : Fin 16) (s : State) : Out :=
  let k := thrKey c.val t.val
  let th := s.thr k
  if th.st = 4 then
    if th.expired then .next (s.idleWait k)
    else
      let s := (s.modThr k (fun th => { th with st := th.back })).wake k
      .next (if th.back = 3 && th.paused then s.stopBudget k else s)
  else .next s

end Sys2Proof.Machine
end

