-- ==== Sys2Proof/Machine/SpurImage.lean ====
section
/-! DEFINITION. Program images: what a header and its claims say, which words a profile defines, control firmware's path analysis,
and the checks of R188 before an activation. -/

namespace Sys2Proof.Machine

/-! ### Headers and claims (R186, R187) -/

/-- The claim that 16 bytes spell. -/
def parseClaim (b : Bytes) : Claim :=
  { ty := leAt b 0 1, num := leAt b 1 1, flags := leAt b 2 1, data := BitVec.ofNat 64 (leAt b 8 8) }

/-- The image that a string of bytes spells. -/
def parseImage (b : Bytes) : Image :=
  { profile := leAt b 6 1, overrun := bitOf (leAt b 7 1) 0, codeLen := leAt b 8 4, hdrLen := leAt b 12 2,
    budget := leAt b 16 2, waitNs := leAt b 18 2, waits := leAt b 20 1,
    segN := (List.range 16).map (fun i => leAt b (32 + 2 * i) 2), lkNs := leAt b 22 2, entry := leAt b 24 4,
    hdrNeed := leAt b 28 2, ovrQ := leAt b 30 2, scrBase := leAt b 64 2, scrSize := leAt b 66 2, shBase := leAt b 68 4,
    shSize := leAt b 72 4, timers := leAt b 76 1,
    claims := (List.range (leAt b 14 2)).map (fun i => parseClaim (sliceB b (128 + 16 * i) 16)),
    proof := sliceB b 96 32, sha := sha384 b, raw := b }

/-- The number of segments a header declares. -/
def segsOf (b : Bytes) : Nat := leAt b 21 1

/-- Is a header valid for a profile: its constants, its ranges and its reserved bytes (R186, R188)? -/
def headerOk (b : Bytes) (prof : Nat) : Bool :=
  let i := parseImage b
  leAt b 0 4 == 0x53505231 && leAt b 4 2 == 1 && i.profile == prof && decide (leAt b 7 1 < 2) &&
  inRange i.codeLen 1 65536 && decide (leAt b 14 2 ≤ 512) && i.hdrLen == 128 + 16 * leAt b 14 2 &&
  b.length == i.hdrLen + 4 * i.codeLen && (i.budget == 0) == (prof != 0) && decide (i.waits ≤ 8) &&
  inRange (segsOf b) 1 16 && (i.segN.drop (segsOf b)).all (· == 0) && decide (i.entry < i.codeLen) &&
  (i.overrun || i.ovrQ == 0) && decide (i.scrSize ≤ 8192) && decide (i.scrBase + i.scrSize ≤ 8192) && i.shBase % 8 == 0 &&
  decide (i.shBase + i.shSize ≤ 524288) && decide (i.timers < 16) && zeroAt b 77 3

/-- The kind of block a claim type names (R187). -/
def claimKind : Nat → Option BlkKind
  | 1 => some .table
  | 2 => some .queue
  | 3 => some .mcGroup
  | 4 => some .ring
  | 5 => some .workQueue
  | 6 => some .key
  | _ => none

/-- Is the 16-byte claim record well formed (R187)? -/
def claimOk (b : Bytes) : Bool :=
  let c := parseClaim b
  let d := c.data.toNat
  zeroAt b 3 5 && (c.ty != 1 || decide (c.num < 16)) &&
  (match claimKind c.ty with
   | some k => c.flags == 0 && (match refBlk c.data with
      | some x => decide (x.kind = k) && bitsOf d 31 0 == 0
      | none => false)
   | none =>
     if c.ty = 7 then decide (0 < c.flags) && decide (c.flags < 4) && bitsOf d 15 10 == 0 && inRange (bitsOf d 23 16) 1 64 &&
        bitsOf d 31 24 == 0 && bitsOf d 63 48 == 0
     else c.ty == 8 && decide (c.flags < 8) && decide (d < 65536))

/-- Do the blocks that claims name lie in the pools of function `f` (R188, R355)?  A queue goes with its port. -/
def State.claimOwned (s : State) (f : Nat) (c : Claim) : Bool :=
  match refBlk c.data with
  | none => true
  | some x =>
    if 6 < c.ty then true
    else match x.kind with
      | .queue => (match SMap.find s.ten.tenants f with
          | some t => bitOf t.grant.ports (x.ix / 16)
          | none => true)
      | .ring => s.ownerOf x == f && (s.get .ringStaOwner x.ix == f || s.get .ringStaOwner x.ix == 0)
      | _ => s.ownerOf x == f

/-! ### Defined words (R166, R167, R173, R183) -/

/-- Does a data profile, by code, permit an opcode? -/
def profilePermits (p op : Nat) : Bool :=
  if p = 0 then op ≤ 0x2D || op == 0x3F else op ≤ 0x1B || (0x24 ≤ op && op ≤ 0x2B) || op == 0x3F

/-- Are the fields of a word as its group table requires (R167)? -/
def fieldsOk (w : Nat) : Bool :=
  let minor := bitsOf w 10 0
  match w / 67108864 with
  | 0x00 => inRange minor 1 16 && (decide (minor < 0x0D) || bitsOf w 15 11 == 0)
  | 0x01 => inRange minor 1 5
  | 0x02 => inRange minor 1 6
  | 0x07 => bitsOf w 15 9 == 0 && inRange (bitsOf w 8 6) 1 5
  | 0x03 | 0x04 | 0x05 | 0x06 | 0x08 | 0x09 | 0x0A => true
  | 0x0B | 0x0C => bitsOf w 20 18 == 0
  | 0x0D => bitsOf w 2 0 == 0 && decide (bitsOf w 15 10 + bitsOf w 9 4 + 1 ≤ 64)
  | 0x0E => bitsOf w 3 0 == 0 && decide (bitsOf w 15 10 + bitsOf w 9 4 + 1 ≤ 64)
  | 0x0F => bitsOf w 10 3 == 0
  | 0x10 | 0x11 | 0x12 | 0x13 | 0x14 | 0x15 => true
  | 0x16 => inRange minor 1 4
  | 0x18 | 0x19 | 0x1A => true
  | 0x1B => bitsOf w 20 10 != 0 && bitsOf w 9 0 != 0
  | 0x1C | 0x1D => decide (bitsOf w 13 11 ≤ 4) && bitsOf w 10 8 == 0
  | 0x20 => bitsOf w 9 0 == 0
  | 0x21 => bitsOf w 13 0 == 0
  | 0x24 | 0x27 => bitsOf w 17 0 == 0
  | 0x25 => bitsOf w 7 0 == 0
  | 0x26 => bitsOf w 20 18 == 0 && bitsOf w 7 0 == 0
  | 0x28 => bitsOf w 15 0 == 0
  | 0x29 => decide (bitsOf w 21 17 ≤ 16) && bitsOf w 13 0 == 0
  | 0x2A => bitsOf w 20 2 == 0 && decide (bitsOf w 1 0 ≤ 1)
  | 0x2B => bitsOf w 10 4 == 0 && bitsOf w 1 0 != 3
  | 0x2C => decide (bitsOf w 25 23 ≤ 5) && bitsOf w 10 0 == 0
  | 0x2D => bitsOf w 25 21 == 0 && bitsOf w 15 0 == 0
  | 0x3F => true
  | _ => false

/-- The branch offset of a word, if it is a branch: 26 bits for BR, 16 for BEQ and BNE, signed. -/
def branchOff (w : Nat) : Option Int :=
  match w / 67108864 with
  | 0x18 | 0x19 => some (BitVec.ofNat 16 w).toInt
  | 0x1A => some (BitVec.ofNat 26 w).toInt
  | _ => none

/-- Is word `j` of a data-profile image defined, its branch forward and inside the code (R188 check 2)? -/
def Image.wordOk (i : Image) (j : Nat) : Bool :=
  let w := i.word j
  profilePermits i.profile (w / 67108864) && fieldsOk w &&
  (match branchOff w with
   | some o => decide (1 ≤ o) && decide (j + o.toNat < i.codeLen)
   | none => true)

/-- Does word `j` name only what the header claims (R188 check 3)? -/
def Image.wordClaimed (i : Image) (j : Nat) : Bool :=
  let w := i.word j
  match w / 67108864 with
  | 0x20 => (i.claim? 1 (bitsOf w 25 22)).isSome
  | 0x25 => i.claims.any (fun c => c.ty == 7 && bitsOf c.data.toNat 9 0 == bitsOf w 17 8 && bitOf c.flags 0)
  | 0x26 => i.claims.any (fun c => c.ty == 7 && bitsOf c.data.toNat 9 0 == bitsOf w 17 8 && bitOf c.flags 1)
  | 0x1C | 0x1D => bitsOf w 13 11 != 0 || bitsOf w 20 16 != 0 || decide (bitsOf w 7 0 + 2 ^ bitsOf w 15 14 ≤ i.hdrNeed)
  | _ => true

/-! ### Path analysis (R174, R188 check 5, R189) -/

/-- What a path, or the worst of several paths, does from a point on: instruction counts of its segments, the first of them the one
it is in, lookup waits, latencies waited for, and lookups of kind-1 tables. -/
structure PathSum where
  segs : List Nat := [0]
  waits : Nat := 0
  lk : Nat := 0
  kind1 : Nat := 0
  deriving DecidableEq, Repr

/-- Segment counts, the larger of each. -/
def maxSegs : List Nat → List Nat → List Nat
  | [], l => l
  | l, [] => l
  | a :: s, b :: t => max a b :: maxSegs s t

/-- The worst of two. -/
def PathSum.worst (a b : PathSum) : PathSum :=
  ⟨maxSegs a.segs b.segs, max a.waits b.waits, max a.lk b.lk, max a.kind1 b.kind1⟩

/-- One more instruction at the front of the segment. -/
def PathSum.cons (a : PathSum) : PathSum :=
  match a.segs with
  | n :: t => { a with segs := (n + 1) :: t }
  | [] => { a with segs := [1] }

/-- The instruction at the front begins a segment: the one before it ends there. -/
def PathSum.cut (a : PathSum) : PathSum := { a with segs := 0 :: a.segs }

/-- Both alternatives; a path on which a LOOP breaks R174 spoils all. -/
def bothPaths (a b : Option PathSum) : Option PathSum := a.bind (fun x => b.map x.worst)

/-- The worst of the paths from index `j` on, with the loops active and the table awaited in each lookup slot; `n` bounds the
instructions of a path, and a LOOP of maximum `max` runs each of the counts `cs max`; `none` where a LOOP breaks R174 (R188, R189). -/
def Image.paths (i : Image) (lat : Nat → Nat) (k1 : Nat → Bool) (cs : Nat → List Nat) :
    Nat → Nat → List Loop → SMap Nat → Option PathSum
  | 0, _, _, _ => none
  | n + 1, j0, ls0, slots =>
    let r := settleLoops ls0 j0
    let j := r.2
    let ls := r.1
    if i.codeLen ≤ j then some {}
    else
      let w := i.word j
      let next := fun (sl : SMap Nat) => i.paths lat k1 cs n (j + 1) ls sl
      let jump := fun (o : Int) =>
        let t := j + o.toNat
        i.paths lat k1 cs n t (ls.filter (fun l => decide (l.first ≤ t) && decide (t < l.stop))) slots
      (match w / 67108864 with
       | 0x18 | 0x19 => (match branchOff w with
          | some o => bothPaths (next slots) (jump o)
          | none => none).map PathSum.cons
       | 0x1A => (match branchOff w with
          | some o => jump o
          | none => none).map PathSum.cons
       | 0x1B =>
         let stop := j + 1 + bitsOf w 9 0
         if i.codeLen < stop ∨ 2 ≤ ls.length ∨ ls.any (fun l => decide (l.stop < stop)) then none
         else ((cs (bitsOf w 20 10)).foldl (fun a c => bothPaths a
           (if c = 0 then i.paths lat k1 cs n stop ls slots
            else i.paths lat k1 cs n (j + 1) (⟨j + 1, stop, c - 1⟩ :: ls) slots)) (some {})).map PathSum.cons
       | 0x20 =>
         let c := bitsOf w 25 22
         if (SMap.find slots (bitsOf w 21 20)).isSome then some { segs := [1], kind1 := bit (k1 c) }
         else (next (SMap.put slots (bitsOf w 21 20) (some c))).map (fun p => { p.cons with kind1 := p.kind1 + bit (k1 c) })
       | 0x21 =>
         let l := bitsOf w 15 14
         match SMap.find slots l with
         | none => some { segs := [0, 1], waits := 1 }
         | some c => (next (SMap.put slots l none)).map (fun p =>
             { p.cons.cut with waits := p.waits + 1, lk := p.lk + lat c })
       | 0x28 => (next slots).map (fun p => p.cons.cut)
       | 0x2C => some { segs := [1] }
       | _ => (next slots).map PathSum.cons)

/-- The latency and the kind of the table of a claim. -/
def State.claimLat (s : State) (i : Image) (c : Nat) : Nat :=
  match i.claim? 1 c with
  | some x => s.lkLatency (bitsOf x.data.toNat 51 32)
  | none => 0

/-- Is a claim's table of kind 1? -/
def State.claimK1 (s : State) (i : Image) (c : Nat) : Bool :=
  match i.claim? 1 c with
  | some x => s.tblKind (bitsOf x.data.toNat 51 32) == 1
  | none => false

/-- More instructions than any path of 65,536 indices with loops two deep can hold. -/
def pathFuel : Nat := 2 ^ 40

/-- The worst of an image's paths from its entry, loops running the counts `cs`. -/
def State.pathSum (s : State) (i : Image) (cs : Nat → List Nat) : Option PathSum :=
  i.paths (s.claimLat i) (s.claimK1 i) cs pathFuel i.entry [] []

/-- Is what the analysis finds within what the header declares: segments with every loop at its maximum count (R189), every LOOP,
wait and lookup on every path (R188 checks 2 and 5)? -/
def State.pathsOk (s : State) (i : Image) : Bool :=
  match s.pathSum i (fun m => [m]), s.pathSum i (fun m => List.range (m + 1)) with
  | some p, some q =>
    (p.segs.zip (i.segN ++ List.replicate p.segs.length 0)).all (fun x => decide (x.1 ≤ x.2)) && decide (q.waits ≤ i.waits) &&
    decide (q.lk ≤ i.lkNs) && decide (q.kind1 ≤ i.waits)
  | _, _ => false

/-! ### The budget test (R132, R189) -/

/-- The slots of a bank of core `c` that thread `t` owns, in order. -/
def State.slotsOf (s : State) (c b t : Nat) : List Nat :=
  (List.range 64).filter (fun j =>
    let w := (s.reg .spurSlot ((c * 2 + b) * 8 + j / 8)).toNat
    bitOf w (8 * (j % 8) + 7) && bitsOf w (8 * (j % 8) + 3) (8 * (j % 8)) == t)

/-- T(n) over owned slots (R189). -/
def worstSlots (l : List Nat) (n : Nat) : Nat :=
  let w := l.length
  maxN ((List.range w).map (fun j => l.getD ((j + n) % w) 0 + 64 * ((j + n) / w) - l.getD j 0)) + 1

/-- The slot-table bank of a core in force at an instant: after a pending swap's boundary the other one (R133). -/
def State.slotBankAt (s : State) (c : Nat) (t : BitVec 64) : Nat :=
  let b := s.get .spurCoreStaSlotBank c
  match SMap.find s.spur.slotTarget c with
  | some u => if ltReached t (BitVec.ofNat 64 ((u.toNat + 2097151) / 2097152 * 2097152)) then 1 - b else b
  | none => b

/-- Does an image pass the budget test on every member of a group under the tables in force at `t` (R188 check 6, R189)? -/
def State.budgetOk (s : State) (g : Nat) (t : BitVec 64) (b : Bytes) : Bool :=
  let i := parseImage b
  (s.members g).all (fun k =>
    let sl := s.slotsOf (keyCore k) (s.slotBankAt (keyCore k) t) (k % 32)
    !sl.isEmpty && decide (sumN ((i.segN.take (segsOf b)).map (worstSlots sl)) + 2 * i.waitNs ≤ 2 * i.budget))

/-! ### One image (R188) -/

/-- Does an image pass the checks of R188 that concern it alone, for function `f`, target `t` and instant `at`? -/
def State.imageOk (s : State) (f t len : Nat) (at_ : BitVec 64) (b : Bytes) : Bool :=
  let bg := isBgTarget t
  let i := parseImage b
  let qs := i.claims.filter (fun c => c.ty == 2)
  (bg || (decide (t < 4096) && s.grpOn t)) && len == b.length && headerOk b (bit bg) &&
  (List.range i.codeLen).all (fun j => i.wordOk j && i.wordClaimed j) &&
  (!i.overrun || qs.any (fun c => bitsOf c.data.toNat 51 32 == i.ovrQ)) && decide (qs.length ≤ 64) &&
  (List.range i.claims.length).all (fun j => claimOk (sliceB b (128 + 16 * j) 16)) && i.claims.all (s.claimOwned f) &&
  (i.claims.map (fun c => c.ty * 256 + c.num)).Nodup && s.pathsOk i && (bg || s.budgetOk t at_ b) &&
  (bg || decide ((s.members t).length = 1) || !i.claims.any (fun c => c.ty == 7))

/-! ### The images of a ridge together (R188) -/

/-- Is what the ridge's images claim free of conflict (R188 check 4)? -/
def State.ridgeOk (s : State) (r : Nat) : Bool :=
  let l := s.ridgeImages r
  declsAgree (l.flatMap (fun e => s.chDecls e.1 e.2)) &&
  l.all (fun a => l.all (fun b => a.1 != b.1 ||
    (sevLines a.2).all (fun x => (sevLines b.2).all (fun y => x.1 != y.1 || x.2 == y.2))))

end Sys2Proof.Machine
end

