-- ==== Sys2Proof/Machine/SpurMgmt.lean ====
section
/-! DEFINITION. Activations of program images and the creation and deletion of thread groups (R143, R150-R152, R188, R211, R524). -/

namespace Sys2Proof.Machine

/-! ### ACTIVATE (R150, R188, R211, R359) -/

/-- An entry of an ACTIVATE body: target, image length, host address. -/
def actEntry (body : Bytes) (i : Nat) : Nat × Nat × Nat :=
  let o := 16 + 24 * i
  (leAt body o 2, leAt body (o + 4) 4, leAt body (o + 8) 8)

/-- Is an ACTIVATE body well formed? -/
def actShape (body : Bytes) : Bool :=
  let n := leAt body 8 1
  let m := leAt body 9 1
  inRange n 1 16 && decide (m ≤ 8) && body.length == 16 + 24 * n + 160 * m && zeroAt body 10 6 &&
  (List.range n).all (fun i => zeroAt body (16 + 24 * i + 2) 2 && zeroAt body (16 + 24 * i + 16) 8)

/-- The targets of a body. -/
def actTargets (body : Bytes) : List Nat := (List.range (leAt body 8 1)).map (fun i => (actEntry body i).1)

/-- The CHANGE records of a body. -/
def actChanges (body : Bytes) : List Bytes :=
  (List.range (leAt body 9 1)).map (fun i => sliceB body (16 + 24 * leAt body 8 1 + 160 * i) 160)

/-- The bank a target's next image goes into: its inactive one. -/
def State.loadBank (s : State) (t : Nat) : Nat :=
  if isBgTarget t then 1 - SMap.getD s.spur.bgBank (t - 0x8000) 0 else 1 - s.get .spurGrpStaActiveBank t

/-- Key of a target's image in a bank. -/
def targetImg (t b : Nat) : Nat := if isBgTarget t then bgImg (t - 0x8000) b else grpImg t b

/-- Replace each claimed reference's incarnation with the block's current one (R187). -/
def State.bindClaims (s : State) (i : Image) : Image :=
  { i with claims := i.claims.map (fun c => match claimKind c.ty, refBlk c.data with
      | some _, some b => { c with data := c.data ||| BitVec.ofNat 64 (s.blkInc b) }
      | _, _ => c) }

/-- Places of a ridge's code area in use, in bytes. -/
def State.codeUsed (s : State) (r : Nat) : List (Nat × Nat) :=
  (s.ridgeImages r).map (fun e => (e.2.addr, (e.2.raw.length + 7) / 8 * 8))

/-- Load an image into the inactive bank of a target, at the lowest place of the code area that holds it (DESIGN CHOICE, assumption
38); threads that were OFF enter the idle WAIT (R164, R524). -/
def State.loadImage (s : State) (t epoch : Nat) (b : Bytes) : Option State :=
  match firstFit (s.codeUsed (targetRidge t)) ((b.length + 7) / 8 * 8) 1048576 with
  | none => none
  | some a =>
    let k := s.loadBank t
    let im := { s.bindClaims (parseImage b) with epoch := epoch, addr := a }
    let s := { s with spur := { s.spur with images := SMap.put s.spur.images (targetImg t k) (some im) } }
    let s := s.setSev t
    if isBgTarget t then some s
    else
      let s := ((s.set .spurGrpImgEpoch (t * 2 + k) epoch).set .spurGrpImgBudget (t * 2 + k) im.budget).set
        .spurGrpImgAddr (t * 2 + k) a
      some ((s.members t).foldl (fun s x =>
        if (s.thr x).st = 0 ∧ s.coreUp (keyCore x) then
          s.modThr x (fun th => { th with st := 2, mask := 1, bank := k, index := im.entry })
        else s) s)

/-- Load all of a request's images; `none` where one does not fit. -/
def State.loadAll (s : State) (epoch : Nat) : List (Nat × Bytes) → Option State
  | [] => some s
  | e :: l => match s.loadImage e.1 epoch e.2 with
    | none => none
    | some s => s.loadAll epoch l

/-- Set up the channels of some ridges. -/
def State.chanAll (s : State) : List Nat → Option State
  | [] => some s
  | r :: l => match s.addChans r (s.ridgeDecls r) with
    | none => none
    | some s => s.chanAll l

/-- Would an activation raise the device-wide kind-1 load above its limit (R110)? -/
def State.kind1Raised (s : State) (new : List (Nat × Image)) : Bool :=
  let load := fun (f : Nat → Nat) => sumN (((s.allVers.map (fun v => v.body.group)).eraseDups).map (fun g =>
    (s.members g).length * max (maxN ((s.allVers.filter (fun v => v.body.group == g)).map (fun v => v.terms.kind1))) (f g)))
  let now := load (fun _ => 0)
  let then_ := load (fun g => maxN ((new.filter (fun e => e.1 == g)).map (fun e =>
    if (claimed [e.2] 1).any (fun t => s.tblKind t == 1) then min e.2.waits 4 else 0)))
  decide (16 < then_) && decide (now < then_)

/-- Does an image exceed the terms recorded for a contract bound to its group, other than the contracts in `ex` (R150, R518)? -/
def State.overBound (s : State) (g : Nat) (i : Image) (ex : List Nat) : Bool :=
  s.allVers.any (fun v => v.body.group == g && !ex.contains v.body.contract &&
    (decide (v.terms.budget < i.budget) || decide (v.terms.waits < i.waits) || decide (v.terms.lkNs < i.lkNs) ||
     (claimed [i] 1).any (fun t => !v.terms.tables.contains t) ||
     decide (v.terms.kind1 < (if (claimed [i] 1).any (fun t => s.tblKind t == 1) then min i.waits 4 else 0))))

/-- The number an accepted activation takes (R151). -/
def State.nextEpochNum (s : State) : Nat := (s.get .spurActStaEpoch + 1) % 256

/-- Was a number last activated less than 2,048 ledger epochs before `t` (R150)? -/
def State.epochReused (s : State) (n : Nat) (t : BitVec 64) : Bool :=
  let e := (s.elapsed : Int) + ltDiff t s.lt
  s.spur.epochs.any (fun r => r.num == n && decide (e < (r.elapsed : Int) + 2048 * epochUnits))

/-- The R150 status that refuses a request, 0 if none, and the state with its images loaded. -/
def State.actCheck (s : State) (f : Nat) (body : Bytes) (images : List Bytes) : Nat × State :=
  let at_ := BitVec.ofNat 64 (leAt body 0 8)
  let d := ltDiff at_ s.lt
  let ts := actTargets body
  let imgs := ts.zip ((List.range ts.length).map (fun i => images.getD i []))
  let parsed := imgs.map (fun e => (e.1, parseImage e.2))
  let rs := (ts.map targetRidge).eraseDups
  let ex := (actChanges body).map (fun b => (parseCon b).contract)
  let n := s.nextEpochNum
  let lens := (List.range ts.length).map (fun i => (actEntry body i).2.1)
  if s.spur.act.isSome then (1, s)
  else if d < 6553600000 ∨ 2 ^ 62 ≤ d then (2, s)
  else if !ts.Nodup || !(imgs.zip lens).all (fun e => s.imageOk f e.1.1 e.2 at_ e.1.2) || s.kind1Raised parsed then (3, s)
  else match s.loadAll n imgs with
    | none => (3, s)
    | some s' =>
      if !rs.all s'.ridgeOk then (3, s)
      else match s'.chanAll rs with
        | none => (3, s)
        | some s'' =>
          if parsed.any (fun e => s.overBound e.1 e.2 ex) then (4, s)
          else if s.epochReused n at_ then (5, s)
          else (0, s'')

/-- The CHANGE records of a request, each judged with the new images in place: the state, or the reply of the first that fails
(R211). -/
def State.actJudge (s : State) (f : Nat) (at_ : BitVec 64) : List Bytes → State ⊕ Bytes
  | [] => .inl s
  | b :: l =>
    let a := if (parseCon b).at_ = at_ then s.conChange f s.liveImgs b else s.conSay (parseCon b) 0 2
    if leAt a.2 4 1 = 0 then a.1.actJudge f at_ l else .inr a.2

/-- The activation is accepted: pending until its instant (R150, R151). -/
def State.actPend (s : State) (body : Bytes) : State :=
  let at_ := BitVec.ofNat 64 (leAt body 0 8)
  let n := s.nextEpochNum
  let s := { s with spur := { s.spur with act := some { at_ := at_, epoch := n, targets := actTargets body,
                                                        prev := s.get .spurActStaEpoch } } }
  ((s.setReg .spurActAt 0 at_).set .spurActStaNextEpoch 0 n).set .spurActStaPending 0 1

/-- Images came or went: what contracts name, and their queueing terms, are shown anew (R196, R230). -/
def State.recountAll (s : State) : State :=
  if s.con.versions.isEmpty then s else (s.recount []).writeDly (List.range 256)

/-- ACTIVATE (R150, R211, R359). -/
def execActivate (f : Fn) (seq : BitVec 32) (body : Bytes) (images : List Bytes) (s : State) : Out :=
  .next (s.submit f.val seq 0x11 false (fun s =>
    if !actShape body then s.reply f.val 0x11 1 0 []
    else if (actTargets body).any (fun t =>
        if isBgTarget t then f.val != 0 else decide (t < 4096) && s.ownerOf ⟨.group, t⟩ != f.val) then s.reply f.val 0x11 2 0 []
    else
      let c := s.actCheck f.val body images
      if c.1 ≠ 0 then s.reply f.val 0x11 7 c.1 []
      else match c.2.actJudge f.val (BitVec.ofNat 64 (leAt body 0 8)) (actChanges body) with
        | .inl s => (s.actPend body).recountAll.reply f.val 0x11 0 0 []
        | .inr r => s.reply f.val 0x11 6 0 r))

/-! ### The instant and the end of an activation (R151, R152, R251) -/

/-- The images in force by R251's key. -/
def State.inForceImages (s : State) : List (Nat × Image) :=
  s.spur.images.filterMap (fun e =>
    if e.1 < 8192 then
      (if e.1 % 2 = s.get .spurGrpStaActiveBank (e.1 / 2) then some (e.1 / 2, e.2) else none)
    else if e.1 < 32768 then
      (if e.1 % 2 = SMap.getD s.spur.bgBank ((e.1 - 16384) / 2) 0 then some (0x8000 + (e.1 - 16384) / 2, e.2) else none)
    else none)

/-- The 0x06 hash of the images in force (R251). -/
def State.imageSet (s : State) : Bytes :=
  sha384 ([0x06] ++ s.inForceImages.flatMap (fun e => beBytes e.1 2 ++ e.2.sha ++ e.2.proof))

/-- A target's banks exchange; a BG that had no image starts (R151). -/
def State.flipTarget (s : State) (t : Nat) : State :=
  if isBgTarget t then
    let c := t - 0x8000
    let s := { s with spur := { s.spur with bgBank := SMap.setD s.spur.bgBank c (1 - SMap.getD s.spur.bgBank c 0) 0 } }
    if (s.thr (bgKey c)).st = 0 ∧ s.coreUp c then s.resetBg c else s
  else
    let b := s.get .spurGrpStaActiveBank t
    (s.set .spurGrpStaActiveBank t (1 - b)).set .spurGrpStaOldLive t (bit (SMap.find s.spur.images (grpImg t b)).isSome)

/-- PROGRAM_EPOCH_AT: LT reaches the instant of the pending activation (R151). -/
def execProgramEpochAt (s : State) : Out :=
  match s.spur.act with
  | none => .next s
  | some a =>
    if a.begun then .next s
    else
      let s := s.advanceTo a.at_
      let s := a.targets.foldl (fun s t => s.flipTarget t) s
      let s := ((((s.set .spurActStaEpoch 0 a.epoch).set .spurActStaPending 0 0).set .spurActStaNextEpoch 0 0).set
        .spurActStaOldLive 0 1).bump .spurActStaActs
      .next { s with spur := { s.spur with
        act := some { a with begun := true },
        epochs := s.spur.epochs ++ [{ num := a.epoch, at_ := a.at_, elapsed := s.elapsed, imageSet := s.imageSet }] } }

/-- Is a frame before the end of its program (R152)? -/
def Frame.beforeEnd (f : Frame) : Bool :=
  match f.stage with
  | .rx | .matched | .dqueue _ | .held _ _ => true
  | _ => false

/-- A target's old image is no longer live: its bank is writable, and what only it claimed is released; idle threads of the target wait
at the entry of the image that remains (R152, R164). -/
def State.dropOld (s : State) (t : Nat) : State :=
  let s := { s with spur := { s.spur with images := SMap.put s.spur.images (targetImg t (s.loadBank t)) none } }
  let s := s.setSev t
  if isBgTarget t then s
  else
    let b := s.restBank t
    let e := ((SMap.find s.spur.images (grpImg t b)).map (·.entry)).getD 0
    ((s.members t).foldl (fun s k =>
      if (s.thr k).frame.isNone then s.modThr k (fun th => { th with bank := b, index := e }) else s) s).set .spurGrpStaOldLive t 0

/-- OLD_IMAGES_RETIRE: 1 µs after the instant, with no older frame left before the end of its program, the old banks become
inactive (R152). -/
def execOldImagesRetire (s : State) : Out :=
  match s.spur.act with
  | none => .next s
  | some a =>
    if a.begun && !s.ports.frames.any (fun f => f.2.beforeEnd && ltAfter a.at_ f.2.lt) then
      let s := s.advanceTo (a.at_ + 65536000)
      let s := a.targets.foldl (fun s t => s.dropOld t) s
      let s := ((a.targets.map targetRidge).eraseDups).foldl (fun s r => s.dropChans r) s
      .next ({ s with spur := { s.spur with act := none } }.set .spurActStaOldLive 0 0).recountAll
    else .next s

/-! ### Groups (R143, R524) -/

/-- The threads that a ridge, a core mask and a thread mask name. -/
def maskThreads (r cores threads : Nat) : List Nat :=
  ((List.range 16).filter (fun i => bitOf cores i)).flatMap (fun i =>
    ((List.range 16).filter (fun t => bitOf threads t)).map (fun t => thrKey (16 * r + i) t))

/-- Group `g` enters service with the threads its masks name (R524). -/
def State.makeGroup (s : State) (g cores threads : Nat) : State :=
  let s := ((s.set .spurGrpCfgCores g cores).set .spurGrpCfgThreads g threads).set .spurGrpCfgEn g 1
  let s := (s.enterService ⟨.group, g⟩).set .spurGrpStaOwner g (s.ownerOf ⟨.group, g⟩)
  (maskThreads (g / 256) cores threads).foldl (fun s k => s.modThr k (fun th => { th with group := some g, st := 0 })) s

/-- GROUP_CREATE: the lowest free group of a ridge is created (R524). -/
def execGroupCreate (f : Fn) (seq : BitVec 32) (body : Bytes) (s : State) : Out :=
  .next (s.submit f.val seq 0x12 true (fun s =>
    let r := leAt body 0 1
    let cores := leAt body 2 2
    let threads := leAt body 4 2
    let ks := maskThreads r cores threads
    if body.length ≠ 8 ∨ 15 < r ∨ cores = 0 ∨ threads = 0 ∨ !zeroAt body 1 1 ∨ !zeroAt body 6 2 then s.reply f.val 0x12 1 0 []
    else if ks.any (fun k => (s.thr k).group.isSome) then s.reply f.val 0x12 3 0 []
    else match (List.range 256).find? (fun i => !s.grpOn (256 * r + i)) with
      | none => s.reply f.val 0x12 4 0 []
      | some i =>
        let g := 256 * r + i
        (s.makeGroup g cores threads).reply f.val 0x12 0 0 (leBytes g 2)))

/-- A group is deleted: its images are unloaded, its threads return to OFF, and its index is free (R524). -/
def State.deleteGroup (s : State) (g : Nat) : State :=
  let s := { s with spur := { s.spur with images := SMap.put (SMap.put s.spur.images (grpImg g 0) none) (grpImg g 1) none } }
  let s := s.setSev g
  let s := (s.members g).foldl (fun s k => s.modThr k (fun th => { th with group := none, st := 0, mask := 0 })) s
  let s := (s.dropChans (g / 256)).leaveService ⟨.group, g⟩
  let s := (s.setReg .spurGrpCfg g 0).setReg .spurGrpImg (2 * g) 0
  ((s.setReg .spurGrpImg (2 * g + 1) 0).set .spurGrpStaActiveBank g 0).set .spurGrpStaOwner g 0

/-- Is an activation that names a group pending: its instant has not come (R152)? -/
def State.grpPending (s : State) (g : Nat) : Bool := s.spur.act.any (fun a => !a.begun && a.targets.contains g)

/-- GROUP_DELETE (R524). -/
def execGroupDelete (f : Fn) (seq : BitVec 32) (body : Bytes) (s : State) : Out :=
  .next (s.submit f.val seq 0x13 true (fun s =>
    let g := leAt body 0 2
    if body.length ≠ 2 ∨ 4095 < g then s.reply f.val 0x13 1 0 []
    else if !s.grpOn g then s.reply f.val 0x13 5 0 []
    else if s.ownerOf ⟨.group, g⟩ ≠ 0 then s.reply f.val 0x13 2 0 []
    else if s.get .spurGrpStaContracts g != 0 || s.grpPending g || s.is .spurGrpStaOldLive g then s.reply f.val 0x13 3 0 []
    else (s.deleteGroup g).reply f.val 0x13 0 0 []))

end Sys2Proof.Machine
end

