-- ==== Sys2Proof/Machine/TenantOps.lean ====
section
/-! DEFINITION. Shared operations on tenants: grants, the pools they are drawn from, and the blob that carries a tenant between two
devices (chapter 14). -/

namespace Sys2Proof.Machine

/-! ### Grants (R354, R355) -/

/-- The grant that 128 bytes spell. -/
def parseGrant (b : Bytes) : Grant :=
  { vf := leAt b 0 1, export_ := bitOf (leAt b 1 1) 0, ringCount := leAt b 2 2, ringFirst := leAt b 4 2, quota := leAt b 6 2,
    groupFirst := leAt b 8 2, groupCount := leAt b 10 2, tableFirst := leAt b 12 2, tableCount := leAt b 14 2,
    mcFirst := leAt b 16 2, mcCount := leAt b 18 2, winFirst := leAt b 20 4, winCount := leAt b 24 4, wqFirst := leAt b 28 2,
    wqCount := leAt b 30 2, keyFirst := leAt b 32 2, keyCount := leAt b 34 2, hostDrain := leAt b 36 4, fabRate := leAt b 40 4,
    memBase := leAt b 44 4, memSize := leAt b 48 4, classes := leAt b 52 2, ports := leAt b 64 32 }

/-- A grant's 128 bytes. -/
def grantBytes (g : Grant) : Bytes :=
  leBytes g.vf 1 ++ leBytes (bit g.export_) 1 ++ leBytes g.ringCount 2 ++ leBytes g.ringFirst 2 ++ leBytes g.quota 2 ++
  leBytes g.groupFirst 2 ++ leBytes g.groupCount 2 ++ leBytes g.tableFirst 2 ++ leBytes g.tableCount 2 ++ leBytes g.mcFirst 2 ++
  leBytes g.mcCount 2 ++ leBytes g.winFirst 4 ++ leBytes g.winCount 4 ++ leBytes g.wqFirst 2 ++ leBytes g.wqCount 2 ++
  leBytes g.keyFirst 2 ++ leBytes g.keyCount 2 ++ leBytes g.hostDrain 4 ++ leBytes g.fabRate 4 ++ leBytes g.memBase 4 ++
  leBytes g.memSize 4 ++ leBytes g.classes 2 ++ List.replicate 10 0 ++ leBytes g.ports 32 ++ List.replicate 32 0

/-- Does a grant record break its table? -/
def grantBad (b : Bytes) : Bool :=
  let g := parseGrant b
  b.length != 128 || g.vf == 0 || decide (127 < g.vf) || decide (2 ≤ leAt b 1 1) || decide (1024 < g.ringCount) ||
  decide (1024 < g.groupCount) || decide (256 < g.tableCount) || !zeroAt b 54 10 || !zeroAt b 96 32

/-- Do two ranges share a number? -/
def rangesMeet (a n b m : Nat) : Bool := n != 0 && m != 0 && decide (a < b + m) && decide (b < a + n)

/-- Does a range of MiB meet a reserved area of external memory or a tenant's memory (R355, R372)? -/
def State.memTaken (s : State) (base size : Nat) : Bool :=
  (List.range size).any (fun i => Config.extReserved (base + i)) ||
  s.ten.tenants.any (fun t => rangesMeet base size t.2.grant.memBase t.2.grant.memSize)

/-- Is a block of a kind in a range in service (R355)? -/
def State.anyOn (s : State) (k : BlkKind) (first count : Nat) : Bool :=
  s.blkSt.any (fun e => e.1 % 32 == k.ctorIdx && e.2 != 3 && inRange (e.1 / 32) first count)

/-- A grant's range of a kind. -/
def Grant.range (g : Grant) : BlkKind → Nat × Nat
  | .ring => (g.ringFirst, g.ringCount)
  | .group => (g.groupFirst, g.groupCount)
  | .table => (g.tableFirst, g.tableCount)
  | .mcGroup => (g.mcFirst, g.mcCount)
  | .window => (g.winFirst, g.winCount)
  | .workQueue => (g.wqFirst, g.wqCount)
  | .key => (g.keyFirst, g.keyCount)
  | _ => (0, 0)

/-- Cannot a pool of blocks give a range: outside the kind's numbers, held by a tenant, or in service; a group with a contract bound or
an activation pending (R355)? -/
def State.poolFails (s : State) (g : Grant) (k : BlkKind) : Bool :=
  let r := g.range k
  r.2 != 0 && (decide (k.count < r.1 + r.2) ||
    s.ten.tenants.any (fun t => rangesMeet r.1 r.2 (t.2.grant.range k).1 (t.2.grant.range k).2) ||
    (if k = .group then
       (List.range r.2).any (fun i => s.get .spurGrpStaContracts (r.1 + i) != 0 || s.grpPending (r.1 + i))
     else if k = .window then s.zoa.wins.any (fun e => e.2.opened && inRange e.1 r.1 r.2)
     else s.anyOn k r.1 r.2))

/-- The first pool that cannot give what a grant asks, counted from 1 in the order of R354's table (DEDUCED, assumption 49). -/
def State.grantFail (s : State) (g : Grant) : Option Nat :=
  (firstFail
    [(1, s.poolFails g .ring),
     (2, decide (65536 < g.quota + sumN (s.ten.tenants.map (fun t => t.2.grant.quota)))),
     (3, s.poolFails g .group), (4, s.poolFails g .table), (5, s.poolFails g .mcGroup), (6, s.poolFails g .window),
     (7, s.poolFails g .workQueue), (8, s.poolFails g .key),
     (9, decide (800000 < g.hostDrain + sumN (s.ten.tenants.map (fun t => t.2.grant.hostDrain)))),
     (11, g.memSize != 0 && (decide (524288 < g.memBase + g.memSize) || s.memTaken g.memBase g.memSize ||
        (List.range 32).any (fun i => rangesMeet g.memBase g.memSize (s.get .ledRetBaseBase i) (s.get .ledRetSizeSize i)) ||
        (s.is .jrnCfgEn && rangesMeet g.memBase g.memSize (1024 * s.get .jrnCfgBase) (1024 * s.get .jrnCfgSize))))])

/-- The owner fields of a grant's rings, tables and groups read `v`. -/
def State.setOwners (s : State) (g : Grant) (v : Nat) : State :=
  let s := (List.range g.ringCount).foldl (fun s i => s.set .ringStaOwner (g.ringFirst + i) v) s
  let s := (List.range g.tableCount).foldl (fun s i => s.set .ingTblStaOwner (g.tableFirst + i) v) s
  (List.range g.groupCount).foldl (fun s i => s.set .spurGrpStaOwner (g.groupFirst + i) v) s

/-- A tenant's entry. -/
def State.ten? (s : State) (v : Nat) : Option Tenant := SMap.find s.ten.tenants v

/-- Store or remove a tenant. -/
def State.putTen (s : State) (v : Nat) (t : Option Tenant) : State :=
  { s with ten := { s.ten with tenants := SMap.put s.ten.tenants v t } }

/-- A tenant exists from here on, in a state, with its blocks (R354, R355). -/
def State.makeTen (s : State) (g : Grant) (st : Nat) (t : BitVec 64) : State :=
  ((s.putTen g.vf (some { grant := g, at_ := t })).set .hostTenStaState g.vf st).setOwners g g.vf

/-! ### The blob's body (R366)

The spec says what the body carries and leaves its layout open: sections of counted records in the order of R366 (DESIGN CHOICE,
assumption 50). -/

/-- One counted section of records. -/
def section_ (l : List Bytes) : Bytes := leBytes l.length 4 ++ l.flatten

/-- A reference with its index moved from one range to another's position or back: `f` maps the index, the incarnation becomes 0. -/
def reRef (f : Nat → Nat) (ref : BitVec 64) : BitVec 64 :=
  if ref = 0 then 0
  else BitVec.ofNat 64 ((ref.toNat >>> 52) <<< 52 ||| (f (bitsOf ref.toNat 51 32) % 2 ^ 20) <<< 32)

/-- What moves a number of a block of a kind: out of a grant to a position, or from a position into a grant; ports by a map. -/
structure Mover where
  blk : BlkKind → Nat → Nat
  port : Nat → Nat

/-- Out of a grant. -/
def Grant.out (g : Grant) : Mover := { blk := fun k i => i - (g.range k).1, port := fun p => p }
/-- Into a grant, through a port map. -/
def Grant.into (g : Grant) (ports : Bytes) : Mover := { blk := fun k i => i + (g.range k).1, port := fun p => leAt ports p 1 }

/-- A queue index moved by its port. -/
def Mover.queue (m : Mover) (q : Nat) : Nat := m.port (q / 16) * 16 + q % 16

/-- The kind of block that a claim type 1-6 names by position. -/
def claimMoves : Nat → Option BlkKind
  | 1 => some .table
  | 3 => some .mcGroup
  | 4 => some .ring
  | 5 => some .workQueue
  | 6 => some .key
  | _ => none

/-- An image's bytes with the blocks it claims moved. -/
def Mover.image (m : Mover) (b : Bytes) : Bytes :=
  let b := pasteB b 30 (leBytes (m.queue (leAt b 30 2)) 2)
  (List.range (leAt b 14 2)).foldl (fun b i =>
    let o := 128 + 16 * i
    let ty := leAt b o 1
    let ref := BitVec.ofNat 64 (leAt b (o + 8) 8)
    let new := if ty = 2 then reRef m.queue ref else match claimMoves ty with
      | some k => reRef (m.blk k) ref
      | none => ref
    pasteB b (o + 8) (leBytes new.toNat 8)) b

/-- A set of ports with each port moved. -/
def Mover.ports (m : Mover) (set : Nat) : Nat :=
  ((List.range 256).filter (fun n => bitOf set n)).foldl (fun v n => v ||| 2 ^ m.port n) 0

/-- A contract record with its group and ports moved. -/
def Mover.con (m : Mover) (r : ConRec) : ConRec :=
  { r with group := m.blk .group r.group, inPorts := m.ports r.inPorts, mcPorts := m.ports r.mcPorts }

/-- A work-queue context with its key, notification queue and ports moved. -/
def Mover.wq (m : Mover) (w : Wq) : Wq :=
  { w with keyIx := if w.prot then m.blk .key w.keyIx else w.keyIx, nq := reRef (m.blk .ring) w.nq,
           ports := w.ports.map (fun p => (m.port p.1, p.2)) }

/-- The 192 bytes of a context. -/
def wqBytes (c : Nat) (w : Wq) : Bytes :=
  leBytes c 2 ++ leBytes w.owner 1 ++ leBytes (bit w.en + 2 * bit w.prot) 1 ++ leBytes w.node 4 ++ sliceB w.ip 0 16 ++
  leBytes w.rate 4 ++ leBytes w.psize 2 ++ leBytes w.ports.length 1 ++ leBytes w.queue 1 ++ leBytes w.defKey 4 ++
  leBytes w.keyIx 2 ++ [0, 0] ++ leBytes w.nq.toNat 8 ++ List.replicate 16 0 ++
  sliceB (w.ports.flatMap (fun p => leBytes p.1 1 ++ [0] ++ sliceB p.2 0 6)) 0 128

/-- The 128 bytes of a key record as it stands (R306). -/
def keyBytes (k : KeyRec) : Bytes :=
  leBytes k.use 1 ++ leBytes k.flags 1 ++ leBytes k.mode 1 ++ leBytes k.an 1 ++ leBytes k.ivOff 2 ++ leBytes k.encOff 2 ++
  leBytes k.queue 2 ++ [0, 0] ++ (sliceB k.ssci 0 4).reverse ++ sliceB k.salt 0 12 ++ [0, 0, 0, 0] ++ sliceB k.key 0 32 ++
  leBytes k.pn 8 ++ (sliceB k.sci 0 8).reverse ++ List.replicate 48 0

/-- A key record with its port or follow-on queue moved (R306). -/
def Mover.key (m : Mover) (k : KeyRec) : KeyRec :=
  { k with queue := if k.use = 1 then m.queue k.queue else k.queue, ivOff := if k.use = 4 then m.port k.ivOff else k.ivOff }

/-- A ring's configuration with its notification queue moved. -/
def Mover.ringCfg (m : Mover) (w : BitVec 64) : BitVec 64 :=
  if Fld.ringCfgNqEn.of w = 1 then Fld.ringCfgNq.into w (m.blk .ring (Fld.ringCfgNq.of w)) else w

/-- The body of a tenant's blob. -/
def State.tenBody (s : State) (g : Grant) : Bytes :=
  let m := g.out
  let cons := s.con.versions.filterMap (fun e => (e.2.filter (fun v => v.active && v.body.tenant == g.vf)).getLast?)
  let groups := (List.range g.groupCount).filter (fun i => s.grpOn (g.groupFirst + i))
  let imgOf := fun (i : Nat) =>
    ((SMap.find s.spur.images (grpImg (g.groupFirst + i) (s.get .spurGrpStaActiveBank (g.groupFirst + i)))).map (·.raw)).getD []
  let tabs := (List.range g.tableCount).map (fun i => (i, g.tableFirst + i))
  section_ (cons.map (fun v => conBytes (m.con v.body))) ++
  section_ (groups.map (fun i => leBytes i 2 ++ leBytes (s.get .spurGrpCfgCores (g.groupFirst + i)) 2 ++
    leBytes (s.get .spurGrpCfgThreads (g.groupFirst + i)) 2 ++ [0, 0])) ++
  (groups.map (fun i => leBytes (imgOf i).length 4 ++ (if imgOf i = [] then [] else m.image (imgOf i)))).flatten ++
  section_ (tabs.map (fun t => leBytes t.1 2 ++ leBytes (bit (s.tblOn t.2)) 1 ++ [0] ++ leBytes (s.reg .ingTblCfg t.2).toNat 8)) ++
  section_ (tabs.flatMap (fun t => ((s.tbl t.2).filter (fun x => x.2.static)).map (fun x =>
    leBytes t.1 2 ++ leBytes x.2.plen 1 ++ leBytes (bit x.2.portTyped) 1 ++ sliceB x.2.key 0 16 ++ leBytes x.2.result.toNat 8))) ++
  section_ ((List.range g.mcCount).map (fun i => leBytes i 2 ++ leBytes (s.mcg (g.mcFirst + i)).queue 2 ++
    leBytes (s.mcg (g.mcFirst + i)).ports 32)) ++
  section_ ((List.range g.ringCount).map (fun i =>
    let r := g.ringFirst + i
    leBytes i 2 ++ leBytes (bit (s.get .ringStaState r == rsEnabled)) 1 ++ [0] ++ leBytes (s.ringP r) 4 ++ leBytes (s.ringH r) 4 ++
    leBytes (s.ringC r) 4 ++ leBytes (s.reg .ringBase r).toNat 8 ++ leBytes (m.ringCfg (s.reg .ringCfg r)).toNat 8)) ++
  section_ ((s.zoa.wqs.filter (fun e => e.2.owner == g.vf)).map (fun e => wqBytes (m.blk .workQueue e.1) (m.wq e.2))) ++
  section_ (((List.range g.keyCount).filter (fun i => (s.keyRec? (g.keyFirst + i)).isSome)).map (fun i =>
    leBytes i 2 ++ [0, 0, 0, 0, 0, 0] ++ ((s.keyRec? (g.keyFirst + i)).map keyBytes).getD [])) ++
  leBytes (g.memSize * 1048576) 8 ++ Mem.bytes s.mem.ext (g.memBase * 1048576) (g.memSize * 1048576)

/-! ### Sealing (R365) -/

/-- Segments of up to 64 KiB. -/
def segments : Nat → Bytes → List Bytes
  | 0, _ => []
  | n + 1, b => if b = [] then [] else b.take 65536 :: segments n (b.drop 65536)

/-- The blob's header. -/
def blobHeader (g : Grant) (t : BitVec 64) (len segs : Nat) : Bytes :=
  leBytes 0x544E5431 4 ++ leBytes 1 2 ++ leBytes g.vf 2 ++ leBytes t.toNat 8 ++ leBytes len 8 ++ leBytes segs 8 ++
  List.replicate 32 0 ++ grantBytes g

/-- Segment `i` sealed: IV, ciphertext, tag; the 8 random bytes are a free value. -/
def State.sealSeg (s : State) (key hdr : Bytes) (i : Nat) (b : Bytes) : Bytes :=
  let iv := beBytes i 4 ++ leBytes (s.free i).toNat 8
  let x := gcmSeal key iv (hdr ++ beBytes i 8) b
  iv ++ x.1 ++ x.2

/-- A tenant's blob under a key. -/
def State.blob (s : State) (key : Bytes) (t : Tenant) : Bytes :=
  let b := s.tenBody t.grant
  let segs := segments (b.length / 65536 + 1) b
  let hdr := blobHeader t.grant t.at_ b.length segs.length
  hdr ++ (((List.range segs.length).zip segs).map (fun x => s.sealSeg key hdr x.1 x.2)).flatten

/-- Open the segments of a blob that holds `left` bytes of body, from segment `i` on. -/
def openSegs (key hdr : Bytes) : Nat → Nat → Nat → Bytes → Option Bytes
  | 0, _, _, _ => some []
  | n + 1, i, left, b =>
    let len := min left 65536
    match gcmOpen key (sliceB b 0 12) (hdr ++ beBytes i 8) (sliceB b 12 len) (sliceB b (12 + len) 16) with
    | none => none
    | some p => (openSegs key hdr n (i + 1) (left - len) (b.drop (28 + len))).map (p ++ ·)

/-- Is a blob's header well formed, and its length the header's? -/
def blobOk (b : Bytes) : Bool :=
  let len := leAt b 16 8
  let n := leAt b 24 8
  decide (192 ≤ b.length) && leAt b 0 4 == 0x544E5431 && leAt b 4 2 == 1 && zeroAt b 32 32 && n == (len + 65535) / 65536 &&
  b.length == 192 + len + 28 * n && !grantBad (sliceB b 64 128) && leAt b 6 2 == leAt b 64 1

/-! ### Reading a body -/

/-- `n` records of `k` bytes from the front. -/
def takeRecs (k : Nat) : Nat → Bytes → Option (List Bytes × Bytes)
  | 0, b => some ([], b)
  | n + 1, b => if b.length < k then none else (takeRecs k n (b.drop k)).map (fun x => (b.take k :: x.1, x.2))

/-- A counted section of records of `k` bytes. -/
def takeSection (k : Nat) (b : Bytes) : Option (List Bytes × Bytes) :=
  if b.length < 4 then none else takeRecs k (leAt b 0 4) (b.drop 4)

/-- `n` strings of bytes, each after its length. -/
def takeStrings : Nat → Bytes → Option (List Bytes × Bytes)
  | 0, b => some ([], b)
  | n + 1, b =>
    if b.length < 4 + leAt b 0 4 then none
    else (takeStrings n (b.drop (4 + leAt b 0 4))).map (fun x => ((b.drop 4).take (leAt b 0 4) :: x.1, x.2))

/-- What a body carries. -/
structure TenBody where
  cons : List Bytes
  groups : List Bytes
  images : List Bytes
  tables : List Bytes
  entries : List Bytes
  mcs : List Bytes
  rings : List Bytes
  wqs : List Bytes
  keys : List Bytes
  mem : Bytes
  deriving DecidableEq, Repr

/-- Read a body. -/
def readBody (b : Bytes) : Option TenBody := do
  let (cons, b) ← takeSection 160 b
  let (groups, b) ← takeSection 8 b
  let (images, b) ← takeStrings groups.length b
  let (tables, b) ← takeSection 12 b
  let (entries, b) ← takeSection 28 b
  let (mcs, b) ← takeSection 36 b
  let (rings, b) ← takeSection 32 b
  let (wqs, b) ← takeSection 192 b
  let (keys, b) ← takeSection 136 b
  if b.length = 8 + leAt b 0 8 then
    some { cons := cons, groups := groups, images := images, tables := tables, entries := entries, mcs := mcs, rings := rings,
           wqs := wqs, keys := keys, mem := b.drop 8 }
  else none

/-! ### Restoring what a body carries (R367) -/

/-- Is each count of a new grant at least the source's, and each group there with at least as many members (check 5)? -/
def State.shapeOk (s : State) (g src : Grant) (body : TenBody) : Bool :=
  decide (src.ringCount ≤ g.ringCount) && decide (src.groupCount ≤ g.groupCount) && decide (src.tableCount ≤ g.tableCount) &&
  decide (src.mcCount ≤ g.mcCount) && decide (src.winCount ≤ g.winCount) && decide (src.wqCount ≤ g.wqCount) &&
  decide (src.keyCount ≤ g.keyCount) && decide (src.memSize ≤ g.memSize) && decide (src.quota ≤ g.quota) &&
  body.groups.all (fun x =>
    let n := g.groupFirst + leAt x 0 2
    let bits := fun (v : Nat) => ((List.range 16).filter (fun i => bitOf v i)).length
    s.grpOn n && decide (bits (leAt x 2 2) * bits (leAt x 4 2) ≤ (s.members n).length))

/-- A block that is restored disabled takes a new incarnation (R22, R367). -/
def State.renewOff (s : State) (b : Blk) : State := (s.enterService b).leaveService b

/-- Tables are configured, enabled and filled; `none` where the pools or a table have no room. -/
def State.restoreTables (s : State) (g : Grant) (m : Mover) (body : TenBody) : Option State :=
  let conf := body.tables.foldl (fun (o : Option State) x => o.bind (fun s =>
    let t := g.tableFirst + leAt x 0 2
    let s := s.setReg .ingTblCfg t (BitVec.ofNat 64 (leAt x 4 8))
    if leAt x 2 1 = 0 then some (s.renewOff ⟨.table, t⟩)
    else if s.tblEnableOk t then some ((s.set .ingTblCtlEn t 1).enterService ⟨.table, t⟩) else none)) (some s)
  body.entries.foldl (fun (o : Option State) x => o.bind (fun s =>
    let t := g.tableFirst + leAt x 0 2
    let raw := BitVec.ofNat 64 (leAt x 20 8)
    let typed := leAt x 3 1 = 1
    let e : TEntry := { key := sliceB x 4 (s.keyLen t), plen := leAt x 2 1, static := true, portTyped := typed,
                        result := if typed then s.learnedResult (m.port (bitsOf raw.toNat 8 0)) else raw, stamp := s.shortTime }
    let a := s.addEntry t e true
    match a.2 with
    | .ok => some a.1
    | _ => none)) conf

/-- Groups take new incarnations; rings take their configuration and indices, and are enabled if they were; work queues are restored disabled; keys are enabled; the
memory is written. -/
def State.restoreRest (s : State) (g : Grant) (m : Mover) (body : TenBody) : State :=
  let s := body.mcs.foldl (fun s x => s.mcReplace (g.mcFirst + leAt x 0 2) (m.ports (leAt x 4 32)) (leAt x 2 2)) s
  let s := body.keys.foldl (fun s x =>
    let k := g.keyFirst + leAt x 0 2
    let r := m.key (keyRecOf (sliceB x 8 128))
    ((s.putKey k (some r)).setSc r).enterService (keyBlk k)) s
  let s := body.rings.foldl (fun s x =>
    let r := g.ringFirst + leAt x 0 2
    let s := (s.setReg .ringBase r (BitVec.ofNat 64 (leAt x 16 8))).setReg .ringCfg r (m.ringCfg (BitVec.ofNat 64 (leAt x 24 8)))
    let s := ((s.set .ringIdxP r (leAt x 4 4)).set .ringIdxH r (leAt x 8 4)).set .ringCiC r (leAt x 12 4)
    if leAt x 2 1 = 1 then s.ringOn r else s.renewOff ⟨.ring, r⟩) s
  let s := body.wqs.foldl (fun s x =>
    let c := m.blk .workQueue (leAt x 0 2)
    let w := { m.wq (wqOf x) with owner := g.vf, en := false }
    let w := { w with nq := if w.nq = 0 then 0 else match refBlk w.nq with
      | some b => s.refOf b
      | none => w.nq }
    { s with zoa := { s.zoa with wqs := SMap.put s.zoa.wqs c (some w) } }.renewOff ⟨.workQueue, c⟩) s
  let s := body.groups.foldl (fun s x => s.renew ⟨.group, g.groupFirst + leAt x 0 2⟩) s
  s.extWrite (g.memBase * 1048576) body.mem

/-- The lowest contract number in use by no contract. -/
def State.freeCon (s : State) : Nat := ((List.range 65536).find? (fun c => s.conState c == 0 && (s.vers c).isEmpty)).getD 65535

/-- The contracts are admitted in order at `t`, each with the earlier ones in place: the state and the map of numbers, or the reply of
the first that fails (check 7). -/
def State.restoreCons (s : State) (v : Nat) (m : Mover) (t : BitVec 64) : List Bytes → List (Nat × Nat) → (State × List (Nat × Nat)) ⊕ Bytes
  | [], l => .inl (s, l)
  | b :: bs, l =>
    let r := parseCon b
    let n := s.freeCon
    let a := s.conAdmit v (conBytes { m.con r with contract := n, tenant := v, at_ := t, dryRun := false, inc := 0 }) false
    if leAt a.2 4 1 = 0 then a.1.restoreCons v m t bs (l ++ [(r.contract, n)]) else .inr a.2

/-- The body of the ACTIVATE that loads the restored images at `t`. -/
def restoreAct (t : BitVec 64) (l : List (Nat × Bytes)) : Bytes :=
  leBytes t.toNat 8 ++ leBytes l.length 1 ++ [0] ++ List.replicate 6 0 ++
  l.flatMap (fun e => leBytes e.1 2 ++ [0, 0] ++ leBytes e.2.length 4 ++ List.replicate 16 0)

/-! ### Removal (R368) -/

/-- A removed tenant's blocks are cleared and returned to PF0's pools. -/
def State.clearTen (s : State) (g : Grant) : State :=
  let s := (List.range g.ringCount).foldl (fun s i => if s.get .ringStaState (g.ringFirst + i) = 0 then s else s.ringReset (g.ringFirst + i)) s
  let s := (List.range g.tableCount).foldl (fun s i =>
    let t := g.tableFirst + i
    if s.tblOn t then ((s.set .ingTblCtlEn t 0).setTbl t []).leaveService ⟨.table, t⟩ else s) s
  let s := s.dropFabric g.vf
  let s := (s.zoa.wqs.filter (fun e => e.2.owner == g.vf)).foldl (fun s e =>
    { s with zoa := { s.zoa with wqs := SMap.put s.zoa.wqs e.1 none } }) s
  let s := (s.ing.mc.filter (fun e => inRange e.1 g.mcFirst g.mcCount)).foldl (fun s e => s.mcReplace e.1 0 0) s
  let s := (List.range g.groupCount).foldl (fun s i =>
    let n := g.groupFirst + i
    let s := { s with spur := { s.spur with images := SMap.put (SMap.put s.spur.images (grpImg n 0) none) (grpImg n 1) none } }
    if s.grpOn n then
      ((s.members n).foldl (fun s k => s.modThr k (fun th => { th with st := 0, mask := 0 })) (s.setSev n)).dropChans (n / 256)
    else s) s
  let s := (s.ciph.keys.filter (fun e => inRange e.1 g.keyFirst g.keyCount)).foldl (fun s e =>
    (s.putKey e.1 none).leaveService (keyBlk e.1)) s
  let s := { s with mem := { s.mem with ext := s.mem.ext.filter (fun e => !inRange e.1 (g.memBase * 1048576) (g.memSize * 1048576)) } }
  s.setOwners g 0

end Sys2Proof.Machine
end

