-- ==== Sys2Proof/WellFormed.lean ====
section
/-! DEFINITION. When a command is well formed: its operands have the sizes the spec's formats give them.  A command that is not is
no access or message the block can meet; its meaning is still total. -/

namespace Sys2Proof

/-- A register access is 32 or 64 bits wide and aligned to its width (R18). -/
def wfAccess (addr size : Nat) : Bool := (size == 4 || size == 8) && addr % size == 0

/-- A descriptor holds 64 bytes (R333). -/
def wfEntry (e : Bytes) : Bool := e.length == 64

/-- A journal slot holds 64 bytes (R377). -/
def wfSlot (e : Bytes) : Bool := e.length == 64

/-- Is a command well formed? -/
def Instr.wf : Instr → Bool
  | .registerWrite _ addr size _ => wfAccess addr size
  | .search _ e | .next _ e | .insert _ e | .delete _ e | .flushByPort _ e | .mcSet _ e | .proof _ e | .receipt _ e
  | .zoaRead _ e | .fetchAdd _ e | .compareSwap _ e | .zoaFlush _ e | .winOpen _ e | .winSet _ e | .winClose _ e
  | .keyClear _ e => wfEntry e
  | .zoaWrite _ e _ | .zoaSend _ e _ | .encrypt _ e _ | .decrypt _ e _ | .gmacGen _ e _ | .gmacVer _ e _ | .keySet _ e _
  | .ringService _ e _ | .txSend _ e _ => wfEntry e
  | .jrnWrite _ _ e _ | .jrnRead _ _ e | .jrnFlush _ _ e | .jrnAbort _ _ e => wfSlot e
  | _ => true

end Sys2Proof
end

