-- ==== Sys2Proof/Machine/Registers.lean ====
section
/-! DEFINITION. Register writes: what decides whether a write is accepted, what an accepted one does, the forerunner update buffer and
its strobe, block queries, and the scan of triplicated fields (chapter 17). -/

namespace Sys2Proof.Machine

/-- The state an outcome leaves. -/
def outState (s : State) : Out → State
  | .next t => t
  | _ => s

/-- An accepted write of a register: its stored bits, which every copy of its TMR fields takes (R434), and the ign bit (R439). -/
def State.putReg (s : State) (r : RegName) (i : Nat) (v : BitVec 64) : State :=
  { s.setReg r i v with tmr := s.tmr.filter (fun h => !(h.reg == r && h.ix == i)) }.okHome (r.home i)

/-! ### Twin banks (R424, R425) -/

/-- Of a twin-banked register's block: is it enabled, its active bank, and is a swap of it pending? `o` counts the pairs of banks. -/
def State.twin (s : State) (r : RegName) (o : Nat) : Bool × Nat × Bool :=
  match r with
  | .spurSlot => (s.blkState ⟨.core, o⟩ != 1, s.get .spurCoreStaSlotBank o, s.is .spurCoreStaSlotPending o)
  | .tmPshpRate | .tmPshpBurst => (s.portOn o, s.tmBank o, s.is .tmPortStaSwapPending o)
  | .tmQCfg | .tmQRate | .tmQBurst => (s.portOn (o / 16), s.tmBank (o / 16), s.is .tmPortStaSwapPending (o / 16))
  | .colBankSec | .colBankNs | .colBankCfg | .colEnt => (s.portOn o, s.colBank o, s.is .colStaPending o)
  | .ledRetBase | .ledRetSize => (s.blkState ⟨.lane, o⟩ != 1, s.get .ledRetStaBank o, s.is .ledRetStaPending o)
  | .zoaDelta => (s.is .zoaCfgEn, s.get .zoaStaBank, s.is .zoaStaSwapPending)
  | .ciphShare => (true, s.shareBank, s.is .ciphStaSwapPending)
  | .jrnPeerCfg | .jrnPeerCtx => (s.is .jrnCfgEn, s.jBank, s.is .jrnStaSwapPending)
  | _ => (true, s.srvBank, s.is .crestSrvStaSwapPending)

/-- A port's Col list goes out of force (R523). -/
def State.dropList (s : State) (p : Nat) : State :=
  let s := { s with tm := { s.tm with colS := SMap.put s.tm.colS p none, colEnd := SMap.put s.tm.colEnd p none } }
  ((s.set .colStaListed p 0).set .colStaEntry p 0).set .colStaStepped p 0

/-- An accepted write of an instance of a twin-banked register: one to a port's inactive TM or Col bank clears its check mark
(R202), one to its active Col bank takes its list out of force (R523). -/
def State.putTwin (s : State) (r : RegName) (step i : Nat) (v : BitVec 64) : State :=
  let act := bankOf step i == (s.twin r (i / (2 * step))).2.1
  let s := s.putReg r i v
  match r.home i with
  | .tm p => if act then s else s.clearMark p
  | .col p => if act then s.dropList p else s.clearMark p
  | _ => s

/-- A write of an instance of a twin-banked register under R425, and whether it is accepted. -/
def State.writeTwin (s : State) (r : RegName) (step i : Nat) (v : BitVec 64) : State × Bool :=
  let (on, act, pend) := s.twin r (i / (2 * step))
  let mine := bankOf step i == act
  if (mine && on) || (!mine && pend) then (s.ignReg r i, false) else (s.putTwin r step i v, true)

/-- Arm a swap of a twin-banked register's block as a strobe does (R431). -/
def State.armTwin (s : State) (r : RegName) (o : Nat) : State :=
  match r with
  | .spurSlot => s.armSlot o s.lt false
  | .tmPshpRate | .tmPshpBurst => s.armTm o s.lt false
  | .tmQCfg | .tmQRate | .tmQBurst => s.armTm (o / 16) s.lt false
  | .colBankSec | .colBankNs | .colBankCfg | .colEnt => s.armCol o false
  | .ledRetBase | .ledRetSize => s.armRet o
  | .zoaDelta => s.armDelta s.lt false
  | .ciphShare => s.armShare s.lt false
  | .jrnPeerCfg | .jrnPeerCtx => s.armPeer s.lt false
  | _ => s.armBankSwap

/-! ### CMD registers (R423) -/

/-- The block query (R26): its result and qseq change together. -/
def State.blkQuery (s : State) (ref : BitVec 64) : State :=
  let q := s.get .sysBlkQueryResQseq + 1
  let s := (s.set .sysBlkQueryResBlk 0 (ref.toNat / 2 ^ 32)).set .sysBlkQueryResQseq 0 q
  match refBlk ref with
  | none => ((s.set .sysBlkQueryResState 0 0).set .sysBlkQueryResStale 0 1).set .sysBlkQueryResInc 0 0
  | some b =>
    ((s.set .sysBlkQueryResState 0 (s.blkState b)).set .sysBlkQueryResStale 0 (bit (!s.refCurrent ref))).set
      .sysBlkQueryResInc 0 (s.blkInc b)

/-- A strobe (R430): its groups join the pending mask, T is fixed if none is pending, and the writes held now of those groups wait
for T. -/
def State.strobe (s : State) (v : BitVec 32) : State :=
  let groups := v.toNat % 32768
  if groups = 0 then s
  else
    let t : BitVec 64 := BitVec.ofNat 64 ((s.lt.toNat + 65536000 + 16777215) / 16777216 * 16777216)
    let s := if s.get .sysUpdStaPending = 0 then s.setReg .sysUpdAt 0 t else s
    let s := s.set .sysUpdStaPending 0 (s.get .sysUpdStaPending ||| groups)
    s.setUpd (s.upd.map (fun e => (e.1, if bitOf groups e.2.reg.info.dom then { e.2 with named := true } else e.2)))

/-- What a 64-bit write of a CMD register, or the write of a 32-bit one, does; `f` is the function that writes. -/
def State.writeCmd (s : State) (r : RegName) (i f : Nat) (v : BitVec 64) : State :=
  let w := v.setWidth 32
  match r with
  | .sysBlkQuery => s.blkQuery v
  | .sysUpdStrobe => s.strobe w
  | .crestSampleAt => outState s (execCrestSampleAt v s)
  | .crestSampleOfs => outState s (execCrestSampleOfs v s)
  | .crestBankSwap => outState s (execCrestBankSwap w s)
  | .crestCmpArm => outState s (execCrestCmpArm (Fin.ofNat 64 i) v s)
  | .crestCmpDis => outState s (execCrestCmpDis (Fin.ofNat 64 i) w s)
  | .spurCoreRel => outState s (execSpurCoreRel (Fin.ofNat 256 i) w s)
  | .spurCoreDb => outState s (execSpurCoreDb (Fin.ofNat 256 i) w s)
  | .spurSlotAt => s.armSlot i v true
  | .spurThrRst => outState s (execSpurThrRst (Fin.ofNat 256 i) w s)
  | .tmSwapAt => s.armTm i v true
  | .colArm => if w.getLsbD 0 then s.armCol i else s
  | .ledRetSwap => if w.getLsbD 0 then s.armRet i else s
  | .ledRetRelease => outState s (execLedRetRelease (Fin.ofNat 16 i) w s)
  | .zoaDeltaSwap => s.armDelta v
  | .ciphShareSwap => s.armShare v
  | .ciphSecyAt => s.armSecy i v
  | .hostContainRelease => outState s (execHostContainRelease v s)
  | .ringResetIdx => s.ringReidx i w
  | .jrnPeerSwap => if f = 0 then s.armPeer v else s
  | _ => s

/-! ### Registers with conditions (R418, R420) -/

/-- Is a port, table, or other block disabled (R418)? -/
def State.off (s : State) (k : BlkKind) (i : Nat) : Bool := s.blkState ⟨k, i⟩ == 1

/-- Is a reserved encoding written that the map's columns state by another field: a combination of R71, a launch_en of Q0-Q3 (R222),
or a vector beyond the owner's count (RING_CFG)? -/
def State.rsvMore (s : State) (r : RegName) (i : Nat) (v : BitVec 64) : Bool :=
  match r with
  | .portCfg => !modeFecListed (bitsOf v.toNat 11 8) (bitsOf v.toNat 7 6)
  | .tmQCfg => i / 2 % 16 ≤ 3 && bitOf v.toNat 16
  | .ringCfg => decide (vectorsOf (s.ringOwner i) ≤ bitsOf v.toNat 63 52)
  | _ => false

/-- Does any member of a group bound to an admitted contract lie on a core (R160)? -/
def State.coreBound (s : State) (c : Nat) : Bool := (s.groupsOn c).any (fun g => s.get .spurGrpStaContracts g != 0)

/-- May the SecY of a port be enabled (R296, R303, R493)? -/
def State.secyEnableOk (s : State) (n : Nat) : Bool :=
  let t := s.set .ciphSecyCfgEn n 1
  let b := s.shareBank
  !s.is .portPtpCfgOnestep n && decide (t.secyLoad.1 ≤ s.shareRate b 0) && decide (t.secyLoad.2 ≤ s.shareBurst b 0) &&
  decide (sumN ((List.range 256).map t.secyReserve) ≤ 2097152)

/-- Is a write that would leave `new` in a register that holds `old` accepted?  `bound`: it changes a rule-bound field. -/
def State.cfgOk (s : State) (r : RegName) (i : Nat) (old new : BitVec 64) (bound : Bool) : Bool :=
  let has := fun (v : BitVec 64) (k : Nat) => v.getLsbD k
  let sets := has new 0 && !has old 0
  let clears := has old 0 && !has new 0
  match r with
  | .portCfg => !bound || s.off .port i
  | .portPtpCfg => (!bound || s.off .port i) && !(has new 1 && s.secyOn i)
  | .portMacCfg => (!bound || s.off .port i) && !(has new 17 && !has old 17 && s.get .portStaContracts i != 0)
  | .portOctCfg => !clears || (List.range 8).all (fun k => s.get .portStaContracts (8 * i + k) == 0)
  | .ingExcCfg =>
    let q := bitsOf new.toNat 13 0
    !has new 31 || (s.ringKind q == 2 && s.ringOwner q == 0)
  | .ingProfCfg => (List.range 256).all (fun n => !s.portOn n || s.get .ingPortCfgProf n != i)
  | .ingProfFld => (List.range 256).all (fun n => !s.portOn n || s.get .ingPortCfgProf n != i / 8)
  | .ingPortCfg => !bound || s.off .port i
  | .ingTblCfg => !bound || s.off .table i
  | .crestCapCfg => !bound || s.off .capture i
  | .crestTtoCfg => !bound || s.off .trigger i
  | .crestPpsoCfg => !bound || s.off .trigger 4
  | .crestRefCfg => has old 1 == has new 1 || !has old 0
  | .crestCmpCfg | .crestCmpRef | .crestCmpPer => !bound || !s.is .crestCmpStaArmed i
  | .spurCoreCtl => !clears || !s.coreBound i
  | .tmQNccfg => !bound || s.off .queue i
  | .ciphSecyCfg =>
    (!bound || s.off .port i) && (!(sets || clears) || s.get .portStaContracts i == 0) && (!sets || s.secyEnableOk i)
  | .ringBase | .ringCfg => !bound || s.off .ring i
  | .jrnCfg =>
    if has new 0 then !s.memTaken (bitsOf new.toNat 48 40 * 1024) (bitsOf new.toNat 39 32 * 1024)
    else !clears || ((List.range 64).all (fun q => s.get .jrnQStaState q == 0) && !s.repsOpen)
  | .jrnQBase => !bound || s.off .jq i
  | .jrnQCtl => (!bound || s.off .jq i) && (!sets || s.get .jrnQStaState i == 0)
  | .zoaTwinWin => !s.is .zoaTwinCfgEn || bitsOf old.toNat 43 24 == bitsOf new.toNat 43 24
  | .zoaTwinCtx => !s.is .zoaTwinCfgEn || !bound
  | .zoaTwinCfg => !sets || s.twinOk
  | _ => true

/-- A core is enabled: it returns under a new incarnation, and its threads and BG start from their images (R22, R159, R160); one in
sparing or repair stays so, under its new incarnation (DEDUCED from R157 and R158, assumption 150). -/
def State.coreOn (s : State) (c : Nat) : State :=
  if s.get .spurCoreStaState c = 0 then
    let s := (s.set .spurCoreStaState c 1).enterService ⟨.core, c⟩
    ((List.range 16).foldl (fun s t => s.resetThr (thrKey c t)) s).resetBg c
  else s.renewInc ⟨.core, c⟩

/-- A core is disabled: what its threads hold ends, they stop, and a pending slot swap is cancelled (R160, R427).
One in sparing or repair stays so (R157, R158). -/
def State.coreOff (s : State) (c : Nat) : State :=
  let s := if s.is .spurCoreStaSlotPending c then
      let s := { s with spur := { s.spur with slotTarget := SMap.put s.spur.slotTarget c none } }
      (s.set .spurCoreStaSlotPending c 0).swapCancel ⟨.core, c⟩ (RegName.offset .spurSlotAt c)
    else s
  let on := s.get .spurCoreStaState c == 1
  let s := s.dropCore c
  let s := if on then s.set .spurCoreStaState c 0 else s
  let s := (List.range 16).foldl (fun s t => s.resetThr (thrKey c t)) s
  let s := s.modThr (bgKey c) (fun t => { t with st := 0 })
  if on then s.leaveService ⟨.core, c⟩ else s

/-- What an accepted write does beside storing its fields.  A capture block that is enabled again has an empty FIFO, which R62 does not
say (DESIGN CHOICE, assumption 131). -/
def State.cfgAct (s : State) (r : RegName) (i : Nat) (old new : BitVec 64) : State :=
  let sets := new.getLsbD 0 && !old.getLsbD 0
  let clears := old.getLsbD 0 && !new.getLsbD 0
  match r with
  | .portOctCfg => s.showTxdis i
  | .crestCapCfg => if sets then (s.setCaps i []).enterService ⟨.capture, i⟩ else if clears then s.leaveService ⟨.capture, i⟩ else s
  | .crestTtoCfg =>
    let level := fun (s : State) (l : Option Bool) => { s with crest := { s.crest with tto := SMap.put s.crest.tto i l } }
    if sets then (level s (some (s.is .crestTtoCfgIdle i))).enterService ⟨.trigger, i⟩
    else if clears then (level s none).leaveService ⟨.trigger, i⟩
    else s
  | .crestPpsoCfg =>
    if sets then s.enterService ⟨.trigger, 4⟩
    else if clears then { s with crest := { s.crest with pps := false } }.leaveService ⟨.trigger, 4⟩
    else s
  | .crestRefCfg =>
    if sets then s.set .crestRefStaOnRef 0 1
    else if clears then { s with crest := { s.crest with refLost := false } }.set .crestRefStaOnRef 0 0
    else s
  | .spurCoreCtl => if sets then s.coreOn i else if clears then s.coreOff i else s
  | .zoaCfg => if sets then (s.set .zoaCfgEn 0 0).zoaOn else s
  | .zoaTwinCfg =>
    if sets then (s.set .zoaTwinCfgEn 0 0).setTwin true
    else if clears then (s.set .zoaTwinCfgEn 0 1).setTwin false
    else s
  | .jrnQCtl =>
    if sets then (s.set .jrnQCtlEn i 0).jqEnable i else if clears then (s.set .jrnQCtlEn i 1).jqDisable i else s
  | _ => s

/-! ### A register write in native mode (R419-R423) -/

/-- A write of a register's 64 bits by function `f` under the native rules, and whether it is accepted; `full`: it covers the whole
register. -/
def State.writeReg (s : State) (r : RegName) (i f : Nat) (w : BitVec 64) (full : Bool) : State × Bool :=
  let old := s.reg r i
  let new := (old &&& ~~~r.ctlMask) ||| (w &&& r.ctlMask)
  if r.isCmd then
    if full then ((s.okHome (r.home i)).writeCmd r i f w, true) else (s.ignReg r i, false)
  else if r.ctlMask = 0 then (s.okHome (r.home i), true)
  else if r.rsvBad new || s.rsvMore r i new then (s.ignReg r i, false)
  else match r with
    | .portCtl =>
      let n : Port := Fin.ofNat 256 i
      let t := outState s (if new.getLsbD 0 then execPortEnable n s else execPortDisable n s)
      (t, t.portOn i == new.getLsbD 0)
    | .ingTblCtl =>
      let n : Table := Fin.ofNat 256 i
      let t := outState s (if new.getLsbD 0 then execTableEnable n s else execTableDisable n s)
      (t, t.tblOn i == new.getLsbD 0)
    | .ringCtl =>
      let t := if new.getLsbD 0 then s.ringEnable i f else s.ringDisable i
      (t, t.is .ringCtlEn i == new.getLsbD 0)
    | .cairnCursor => (outState s (execCairnCursorWrite w s), true)
    | .cairnRate => (s.cairnRateWrite i new, true)
    | .sysMode =>
      let k := bit (new.getLsbD 0)
      if k = s.get .sysModeKwRegs then (s, true)
      else if s.upd.isEmpty && s.get .sysUpdStaPending == 0 then (s.set .sysModeKwRegs 0 k, true)
      else (s.bump .sysUpdOvfWrites, false)
    | r => match r.bankStep with
      | some step => s.writeTwin r step i new
      | none =>
        if s.cfgOk r i old new ((old ^^^ new) &&& r.boundMask != 0) then
          let before := s.tqwLive
          let t := (s.putReg r i new).cfgAct r i old new
          (if before = t.tqwLive then t else t.noteTqw, true)
        else (s.ignReg r i, false)

/-! ### The forerunner mode (R429) -/

/-- Half of a register's present bits replaced by a 32-bit write (R422). -/
def mergeHalf (cur v : BitVec 64) (half : Nat) (full : Bool) : BitVec 64 :=
  if full then v
  else if half = 0 then (cur &&& 0xFFFFFFFF00000000#64) ||| (v &&& 0xFFFFFFFF#64)
  else (cur &&& 0xFFFFFFFF#64) ||| (v <<< 32)

/-- Is a register part of a block that PF0 has granted to a tenant, or of PF1's journal queues (R495)? -/
def State.granted (s : State) (r : RegName) (i : Nat) : Bool :=
  match r with
  | .spurGrpCfg | .spurGrpSta | .spurGrpFrames | .spurGrpBudget | .spurGrpDqwait | .spurGrpDqdrop | .spurGrpProgdrop =>
    s.ownerOf ⟨.group, i⟩ != 0
  | .spurGrpImg => s.ownerOf ⟨.group, i / 2⟩ != 0
  | _ => match r.home i with
    | .ring x => s.ringOwner x != 0
    | .table t => s.ownerOf ⟨.table, t⟩ != 0
    | .jq _ => true
    | _ => false

/-- A write through PF0 BAR0 in forerunner mode: one that would change a rule-bound or twin-banked field is held, its fields that are
writable at any time acting at once; any other acts under the native rules. -/
def State.holdReg (s : State) (r : RegName) (i half : Nat) (full : Bool) (v : BitVec 64) : State × Bool :=
  let k := heldKey r i
  let j := match r.bankStep with
    | some n => toBank n i (1 - (s.twin r (i / (2 * n))).2.1)
    | none => i
  let bound := if r.bankStep.isSome then r.ctlMask else r.boundMask
  let cur := s.reg r j
  let base := match SMap.find s.upd k with
    | some h => h.v
    | none => cur
  let w := mergeHalf base v half full
  let new := (cur &&& ~~~r.ctlMask) ||| (w &&& r.ctlMask)
  let held := (SMap.find s.upd k).isSome
  if r.isCmd || r.ctlMask = 0 || (!held && (new ^^^ cur) &&& bound = 0) then
    if s.granted r i then (s.ignReg r i, false)
    else if r.bankStep.isSome then (s.okHome (r.home i), true)
    else s.writeReg r i 0 (mergeHalf (s.reg r i) v half full) full
  else if r.rsvBad new || s.rsvMore r j new then (s.ignReg r i, false)
  else if !held && 4096 ≤ s.upd.length then (s.bump .sysUpdOvfWrites, false)
  else
    let now := (cur &&& bound) ||| (new &&& ~~~bound)
    if r.bankStep.isNone && !s.granted r i && !s.cfgOk r i cur now false then (s.ignReg r i, false)
    else
      let s := if r.bankStep.isSome || s.granted r i then s else (s.putReg r i now).cfgAct r i cur now
      (s.setUpd (SMap.put s.upd k (some { reg := r, ix := (match r.bankStep with | some n => toBank n i 0 | none => i), v := new })), true)

/-- A held write at T (R431): a rule-bound one is judged by the native rules; a twin-banked one goes to the inactive bank, or stays for
another strobe while a swap of its block is pending; one to a granted block is discarded and counted (R495). -/
def State.applyHeld (s : State) (before : State) (k : Nat) (h : HeldWr) : State :=
  let drop := fun (s : State) => s.setUpd (SMap.put s.upd k none)
  if s.granted h.reg h.ix then (drop s).ignReg h.reg h.ix
  else match h.reg.bankStep with
    | none =>
      let m := h.reg.boundMask
      (((drop s).writeReg h.reg h.ix 0 ((s.reg h.reg h.ix &&& ~~~m) ||| (h.v &&& m)) true)).1
    | some n =>
      let (_, act, pend) := before.twin h.reg (h.ix / (2 * n))
      if pend then
        if h.last then (drop s).bump .sysUpdOvfWrites
        else s.setUpd (SMap.put s.upd k (some { h with named := false }))
      else (drop s).putTwin h.reg n (toBank n h.ix (1 - act)) h.v

/-- The blocks whose inactive banks a strobe writes, each once: a register of it and the number of its pair of banks. -/
def State.strobeArms (before : State) (hs : List HeldWr) : List (RegName × Nat) :=
  (hs.filterMap (fun h => match h.reg.bankStep with
    | some n =>
      let o := h.ix / (2 * n)
      if (before.twin h.reg o).2.2 || before.granted h.reg h.ix then none
      else some (match h.reg with
        | .tmQCfg | .tmQRate | .tmQBurst | .tmPshpBurst => (RegName.tmPshpRate, if h.reg == .tmPshpBurst then o else o / 16)
        | .colBankNs | .colBankCfg | .colEnt => (.colBankSec, o)
        | .ledRetSize => (.ledRetBase, o)
        | .ciphShare => (.ciphShare, 0)
        | .jrnPeerCtx => (.jrnPeerCfg, 0)
        | .crestGainAcq | .crestGainLck | .crestSrvLim | .crestSrvThr | .crestTqCfg | .crestNom => (.crestSrvCfg, 0)
        | r => (r, o))
    | none => none)).eraseDups

/-- The strobe tick T: every held write a pending strobe names acts at once, and the blocks whose inactive banks were written have
their swaps armed (R431, R433). -/
def State.strobeTick (s : State) : State :=
  let named := s.upd.filter (fun e => e.2.named)
  let t := named.foldl (fun t e => t.applyHeld s e.1 e.2) (s.set .sysUpdStaPending 0 0)
  (s.strobeArms (named.map (fun e => e.2))).foldl (fun t a => t.armTwin a.1 a.2) t

/-! ### Accesses (R17, R18, R370-R372, R422, R428, R495) -/

/-- One register's part of an access, from a path's window on its domain, and whether it was accepted. -/
def State.accessReg (s : State) (path : Path) (r : RegName) (i half : Nat) (full : Bool) (v : BitVec 64) : State × Bool :=
  let w := mergeHalf (s.reg r i) v half full
  match path with
  | .pf0 =>
    if s.forerunner && r != .sysMode then s.holdReg r i half full v
    else if s.granted r i then (s.ignReg r i, false)
    else s.writeReg r i 0 w full
  | .vf f => s.writeReg r i f.val w full
  | .pf1 =>
    match r with
    | .jrnCfg | .jrnPeerSwap | .jrnPeerCfg | .jrnPeerCtx => (s.ignReg r i, false)
    | _ => s.writeReg r i 128 w full
  | _ => s.writeReg r i 0 w full

/-- A write of 4 or 8 bytes at an offset of a domain's window, and whether nothing of it was ignored. -/
def State.accessDom (s : State) (path : Path) (dom off size : Nat) (v : BitVec 64) : State × Bool :=
  let lo := v &&& 0xFFFFFFFF#64
  let narrow := fun (s : State) (o : Nat) (v : BitVec 64) =>
    match regAt dom o with
    | some (r, i, 0) => if r.info.width = 32 then s.accessReg path r i 0 true v else (s, true)
    | _ => (s, true)
  match regAt dom off with
  | some (r, i, b) =>
    if r.info.width = 64 then s.accessReg path r i b (size == 8) (if size == 8 then v else lo)
    else if size = 8 then
      let (s, a) := s.accessReg path r i 0 true lo
      let (s, b) := narrow s (off + 4) (v >>> 32)
      (s, a && b)
    else s.accessReg path r i 0 true lo
  | none => if size = 8 then narrow s (off + 4) (v >>> 32) else (s, true)

/-- A write of a function's BAR registers, from 0x10 on (PRESUMED, assumption 55: the header of PCI): the address bits above the BAR's size
are its base (R311). -/
def State.setBar (s : State) (f addr size : Nat) (v : BitVec 64) : State :=
  let k := f * 3 + (addr - 0x10) / 8
  let old := SMap.getD s.host.bars k 0
  let new := if size = 8 then v.toNat else if addr % 8 = 0 then old / 2 ^ 32 * 2 ^ 32 + v.toNat % 2 ^ 32 else v.toNat % 2 ^ 32 * 2 ^ 32 + old % 2 ^ 32
  let n := barBytes f ((addr - 0x10) / 8 * 2)
  { s with host := { s.host with bars := SMap.put s.host.bars k (some (new / n * n)) } }

/-- The other configuration registers that act, where the model places them (DESIGN CHOICE, assumption 55): power state, Max Read Request
Size, completion timeout value, and AER's logs and ECRC control (R310, R323-R325).  A function that returns to D0 goes on. -/
def State.cfgPci (s : State) (f addr : Nat) (v : BitVec 64) : State :=
  let p := s.pciFn f
  let n := v.toNat
  if addr = 0x44 then
    if n % 4 = 3 then s.setPci f { p with d3 := true }
    else if n % 4 = 0 ∧ p.d3 then (s.setPci f { p with d3 := false }).goOn
    else s
  else if addr = 0x78 then (if bitsOf n 14 12 < 6 then s.setPci f { p with mrrs := bitsOf n 14 12 } else s)
  else if addr = 0x98 then s.setPci f { p with timeout := n % 16 }
  else if addr = 0x154 then s.setPci f { p with uncor := p.uncor &&& (2 ^ 32 - 1 - n % 2 ^ 32) }
  else if addr = 0x160 then s.setPci f { p with cor := p.cor &&& (2 ^ 32 - 1 - n % 2 ^ 32) }
  else if addr = 0x168 then s.setPci f { p with ecrcGen := bitOf n 6, ecrcChk := bitOf n 8 }
  else s

/-- The BARs, and the MSI-X and ATS control bits of a function's configuration space, where the model places them (DESIGN CHOICE, assumption
55): the MSI-X capability's first dword at 0, the ATS capability's second at 0x104. -/
def State.cfgSpace (s : State) (f addr size : Nat) (v : BitVec 64) : State :=
  if inRange addr 0x10 24 then s.setBar f addr size v
  else if addr = 0 then
    let s := s.set .hostFnStaMsix f (bit (v.getLsbD 31))
    { s with host := { s.host with fnMask := SMap.put s.host.fnMask f (if v.getLsbD 30 then some () else none) } }.sendPba
  else if addr = 0x104 then
    if v.getLsbD 31 then s.set .hostFnStaAts f 1 else s
  else s.cfgPci f addr v

/-- One dword of an MSI-X table: an address, the data, or vector control, whose bit 0 masks the vector (R313). -/
def State.msixWrite (s : State) (f addr : Nat) (v : BitVec 32) : State :=
  let vec := addr / 16
  if vectorsOf f ≤ vec then s
  else if addr % 16 = 12 then
    { s with host := { s.host with
      unmasked := SMap.put s.host.unmasked (vecKey f vec) (if v.getLsbD 0 then none else some ()) } }.sendPba
  else { s with host := { s.host with msix := SMap.setD s.host.msix (vecKey f vec * 4 + addr % 16 / 4) v 0 } }

/-- The offset in a function's BAR4 of its mailbox's request area (R311, R357); PF1 has none. -/
def boxArea (f : Nat) : Option Nat := if f = 0 then some 0x20100 else if f = 128 then none else some 0x1100

/-- A write in a function's BAR4 at an offset: the request area of its mailbox, or the MSI-X table (R311, R357).  The mailbox's other
registers and the recovery window have commands of their own. -/
def State.bar4Write (s : State) (f addr size : Nat) (v : BitVec 64) : State :=
  match (boxArea f).filter (fun a => inRange addr a 2048) with
  | some a =>
    let b := s.box f
    s.setBox f { b with req := pasteB (sliceB b.req 0 2048) (addr - a) (leBytes v.toNat size) }
  | none =>
    let s := s.msixWrite f addr (v.setWidth 32)
    if size = 8 then s.msixWrite f (addr + 4) ((v >>> 32).setWidth 32) else s

/-- Is an address in the containment registers, which answer while containment holds (R327)? -/
def inContain (addr : Nat) : Bool := decide (0x04800000 ≤ addr) && decide (addr < 0x04800100)

/-- May a path's function be written to?  Native writes need no host. -/
def State.pathOpen (s : State) (path : Path) (addr : Nat) : Bool :=
  match path with
  | .pf0 => s.memReach 0 || s.containReach && inContain addr
  | .vf f => 1 ≤ f.val && s.memReach f.val
  | .pf1 => s.memReach 128
  | .cfg f => s.get .hostFnStaState f.val == 1
  | .bar4 f => s.memReach f.val || (f.val == 0 && s.recovOpen && inRange addr 0x40000 0x40000)
  | .unsupported _ => false
  | .native => true

/-- The function a path's accesses go to. -/
def pathFn : Path → Nat
  | .vf f => f.val
  | .pf1 => 128
  | .cfg f => f.val
  | .bar4 f => f.val
  | .unsupported f => f.val
  | _ => 0

/-- A VF window's write: the registers of its granted rings and tables; every other offset of the 1 MiB ignores writes (R311, R370). -/
def State.vfWindow (s : State) (f addr size : Nat) (v : BitVec 64) : State × Bool :=
  if 0x100000 ≤ addr then (s.ur f, false)
  else match SMap.find s.ten.tenants f with
  | none => (s, true)
  | some t =>
    if inRange addr 0x10000 (t.grant.ringCount * 0x80) then
      let r := t.grant.ringFirst + (addr - 0x10000) / 0x80
      s.accessDom (.vf (Fin.ofNat 128 f)) 9 (RegName.offset .ringBase r + addr % 0x80) size v
    else if inRange addr 0x40000 (t.grant.tableCount * 0x100) then
      let j := t.grant.tableFirst + (addr - 0x40000) / 0x100
      s.accessDom (.vf (Fin.ofNat 128 f)) 2 (RegName.offset .ingTblCtl j + addr % 0x100) size v
    else (s, true)

/-- A register write from a path, and whether nothing of it was ignored or refused.  A configuration request before its instant is answered
with Retry Status (R319). -/
def State.access (s : State) (path : Path) (addr size : Nat) (v : BitVec 64) : State × Bool :=
  if !s.pathOpen path addr then (s.ur (pathFn path), false)
  else if !wfAccess addr size then (if path = .native then s else s.ur (pathFn path), false)
  else match path with
    | .vf f => s.vfWindow f.val addr size v
    | .pf1 => if addr < 0x100000 then s.accessDom .pf1 10 addr size v else (s.ur 128, false)
    | .cfg f => if s.cfgReady then (s.cfgSpace f.val addr size v, true) else (s, false)
    | .bar4 f => if addr < barBytes f.val 4 then (s.bar4Write f.val addr size v, true) else (s.ur f.val, false)
    | p =>
      if addr / 0x800000 < 15 then s.accessDom p (addr / 0x800000) (addr % 0x800000) size v
      else (if p = .native then s else s.ur (pathFn p), false)

/-- REGISTER_WRITE (R418). -/
def execRegisterWrite (path : Path) (addr size : Nat) (v : BitVec 64) (s : State) : Out := .next (s.access path addr size v).1

/-! ### Rows of their own -/

/-- SYS_BLK_QUERY (R26). -/
def execSysBlkQuery (ref : BitVec 64) (s : State) : Out := .next (s.blkQuery ref)

/-- SYS_MODE_WRITE (R428). -/
def execSysModeWrite (v : BitVec 32) (s : State) : Out := .next (s.writeReg .sysMode 0 0 (v.setWidth 64) true).1

/-- SYS_UPD_STROBE (R430). -/
def execSysUpdStrobe (v : BitVec 32) (s : State) : Out := .next (s.strobe v)

/-- STROBE_TICK: at T the pending strobe acts (R431). -/
def execStrobeTick (s : State) : Out :=
  if s.get .sysUpdStaPending = 0 then .next s else .next (s.advanceTo (s.reg .sysUpdAt 0)).strobeTick

/-! ### Triplicated fields (R434, R435) -/

/-- The block a register's records name, if any. -/
def RegName.blk (r : RegName) (i : Nat) : Option Blk :=
  match r.home i with
  | .port n | .ingPort n => some ⟨.port, n⟩
  | .table t => some ⟨.table, t⟩
  | .core c => some ⟨.core, c⟩
  | .tm p => some ⟨.port, p⟩
  | .col p => some ⟨.colList, p⟩
  | .ring x => some ⟨.ring, x⟩
  | .jq q => some ⟨.jq, q⟩
  | .jrn => some ⟨.function, 128⟩
  | .dom 0 => some ⟨.timeBase, 0⟩
  | .dom 5 => some ⟨.lane, i / 2⟩
  | .dom 7 => some ⟨.cipher, 0⟩
  | .dom _ => none

/-- One field's copies are voted and rewritten: a correction is counted and recorded, the loss of every copy raised. -/
def State.voteField (s : State) (h : TmrHurt) : State :=
  let (x, n, lost) := voteOf h.copies (s.free.toNat % 2 ^ (h.hi + 1 - h.lo))
  let s := (s.useFree.set ⟨h.reg, h.hi, h.lo⟩ h.ix x)
  let off := h.reg.offset h.ix
  if lost then (s.bump .sysTmrLostLost).cairnRec .tmrLost (h.reg.blk h.ix) (leBytes off 4)
  else if n = 0 then s
  else (s.bump .sysTmrFixCntFixes 0 n).cairnRec .tmrFix (h.reg.blk h.ix) (leBytes off 4)

/-- TMR_SCAN: the scan visits every TMR field. -/
def execTmrScan (s : State) : Out := .next (s.tmr.foldl State.voteField { s with tmr := [] })

end Sys2Proof.Machine
end

