-- ==== Sys2Proof/Machine/BootOps.lean ====
section
/-! DEFINITION. Shared operations of boot and of the security commands: manifests and their checks, the version area, authorisations,
the choice of a firmware slot, and the application of a deployment bundle (chapter 16). -/

namespace Sys2Proof.Machine

/-! ### Manifests (R391-R393) -/

/-- Part entry `i` of a manifest's bytes. -/
def partOf (b : Bytes) (i : Nat) : Part :=
  let o := 592 + 64 * i
  { off := beAt b o 4, len := beAt b (o + 4) 4, ty := beAt b (o + 8) 1, sect := beAt b (o + 9) 1, hash := sliceB b (o + 16) 48 }

/-- Bytes of a firmware part or section list, in total. -/
def partsLen (l : List Part) : Nat := sumN (l.map (fun p => p.len))

/-- Are the parts what the kind asks for: firmware has part 0 of type 2 and at most 4 MiB and 64 MiB in all, a bundle only sections 1
to 6? -/
def partsShape (kind : Nat) (l : List Part) : Bool :=
  if kind = 1 then
    l.all (fun p => inRange p.ty 1 3) && decide (partsLen l ≤ 67108864) &&
    (match l with
     | p :: _ => p.ty == 2 && decide (p.len ≤ 4194304)
     | [] => false)
  else l.all (fun p => p.ty == 4 && inRange p.sect 1 6)

/-- The manifest that slot contents begin with, where its format and reserved fields are correct (R391, R392): parts lie after it and
inside the length, which fits `cap` bytes. -/
def manifestOf (f : FlashImage) (cap : Nat) : Option Manifest :=
  let b := Mem.bytes f.bytes 0 2640
  let n := beAt b 12 2
  let len := beAt b 24 8
  let kind := beAt b 6 1
  let ps := (List.range n).map (partOf b)
  if beAt b 0 4 = 0x4D414E31 && beAt b 4 2 = 1 && inRange kind 1 2 && decide (beAt b 7 1 < 8) && inRange n 1 32 && zeroAt b 14 10 &&
      decide (len ≤ cap) &&
      (List.range 32).all (fun i => zeroAt b (592 + 64 * i + 10) 6 && (decide (i < n) || (partOf b i).ty == 0)) &&
      ps.all (fun p => decide (65536 ≤ p.off) && decide (p.off + p.len ≤ len)) && partsShape kind ps then
    some { kind := kind, signer := beAt b 7 1, version := beAt b 8 4, length := len, parts := ps,
           key := sha384 (sliceB b 32 560), digest := sha384 (0x09#8 :: b) }
  else none

/-- Do both signatures of a manifest verify over M under the keys it carries (R14, R391)? -/
def manifestSigned (f : FlashImage) : Bool :=
  let b := Mem.bytes f.bytes 0 19248
  pairVerify (sliceB b 32 512) (sliceB b 544 48) (0x09#8 :: b.take 2640) (sliceB b 2640 384) (sliceB b 3024 16224)

/-- The bytes of a part. -/
def slotPart (f : FlashImage) (p : Part) : Bytes := Mem.bytes f.bytes p.off p.len

/-- Do all parts pass copy-in (R393)? -/
def partsMatch (f : FlashImage) (m : Manifest) : Bool := m.parts.all (fun p => decide (sha384 (slotPart f p) = p.hash))

/-! ### REFUSED detail codes (R404) -/

def sdSignature : Nat := 1
def sdKey : Nat := 2
def sdVersion : Nat := 3
def sdHash : Nat := 4
def sdLastKey : Nat := 5
def sdCounter : Nat := 6
def sdRunning : Nat := 7
def sdAuth : Nat := 8
def sdLifecycle : Nat := 9

/-- Slot capacities of device `d` for a kind (R390). -/
def State.slotCap (s : State) (d kind : Nat) : Nat :=
  if s.cairn.flashBig.getD d true then (if kind = 1 then 67108864 else 33554432) else (if kind = 1 then 41943040 else 16777216)

/-- Where the checks of R392 refuse slot contents as the kind: a code of R404, 0 where the manifest is valid.  What is no manifest of
the kind counts as SIGNATURE (DESIGN CHOICE, assumption 57). -/
def State.manifestCode (s : State) (kind cap : Nat) (f : FlashImage) : Nat :=
  match manifestOf f cap with
  | none => sdSignature
  | some m =>
    if m.kind ≠ kind then sdSignature
    else if s.sec.fuses.live m.signer ≠ some m.key || !maySign s.sec.lifecycle kind m.signer then sdKey
    else if !manifestSigned f then sdSignature
    else if m.version < s.sec.minVer kind then sdVersion
    else 0

/-- The checks of R392 and R393 together. -/
def State.imageCode (s : State) (kind cap : Nat) (f : FlashImage) : Nat :=
  let c := s.manifestCode kind cap f
  if c ≠ 0 then c
  else match manifestOf f cap with
    | some m => if partsMatch f m then 0 else sdHash
    | none => sdSignature

/-- Key of a slot in `Flash.slots`. -/
def slotKey (d kind : Nat) : Nat := if kind = 1 then d else 2 + d

/-- What a slot holds, if its device is present and the slot is not erased. -/
def State.slotImage (s : State) (d kind : Nat) : Option FlashImage :=
  if s.cairn.flashPresent.getD d false then SMap.find s.sec.flash.slots (slotKey d kind) else none

/-- A slot whose manifest is valid for its kind: the image and the manifest. -/
def State.validSlot (s : State) (kind d : Nat) : Option (Nat × FlashImage × Manifest) :=
  match s.slotImage d kind with
  | none => none
  | some f =>
    if s.manifestCode kind (s.slotCap d kind) f = 0 then (manifestOf f (s.slotCap d kind)).map (fun m => (d, f, m)) else none

/-- The valid slots of a kind, in descending version order; of equal versions `first` comes first. -/
def State.validSlots (s : State) (kind first : Nat) : List (Nat × FlashImage × Manifest) :=
  match s.validSlot kind first, s.validSlot kind (1 - first) with
  | none, none => []
  | some a, none => [a]
  | none, some b => [b]
  | some a, some b => if a.2.2.version < b.2.2.version then [b, a] else [a, b]

/-- The manifests installed in the image and bundle slots (R408). -/
def State.installed (s : State) : List Manifest :=
  (List.range 4).filterMap (fun k =>
    let kind := if k < 2 then 1 else 2
    match s.slotImage (k % 2) kind with
    | none => none
    | some f => manifestOf f (s.slotCap (k % 2) kind))

/-! ### The version area (R398, R454) -/

/-- The sector that holds the record in force. -/
def Sec.inForce (c : Sec) : Option Nat :=
  let ok := fun (k : Nat) => ((SMap.find c.flash.sectors k).filter (fun v => v.n == c.fuses.verCnt)).isSome
  if ok c.flash.last then some c.flash.last else if ok (1 - c.flash.last) then some (1 - c.flash.last) else none

/-- The sector that is written next: the one not in force. -/
def Sec.nextSector (c : Sec) : Nat := 1 - c.inForce.getD c.flash.last

/-- Has a sector reached 80,000 erases? -/
def Sec.worn (c : Sec) (k : Nat) : Bool := decide (80000 ≤ SMap.getD c.flash.erases k 0)

/-- The SP writes a version record to a sector, in both devices. -/
def State.writeVerRec (s : State) (k : Nat) (v : VerRec) : State :=
  let fl : Flash := { s.sec.flash with
    sectors := SMap.put s.sec.flash.sectors k (some v), last := k
    erases := SMap.setD s.sec.flash.erases k (SMap.getD s.sec.flash.erases k 0 + 1) 0 }
  s.setSec { s.sec with flash := fl }

/-- The record in force, or one of the same counter that sets nothing. -/
def Sec.verOr (c : Sec) : VerRec := c.verRec.getD { n := c.fuses.verCnt, preferred := 0, minFw := 0, minBundle := 0 }

/-- The VERSION record: kind, event, new minimum. -/
def State.recVersion (s : State) (kind event min : Nat) : State :=
  s.cairnRec .version none (leBytes kind 1 ++ leBytes event 1 ++ [0, 0] ++ leBytes min 4)

/-! ### Fuses and keys -/

/-- Bits of `b` blown over those of `a`: a blown fuse stays blown (R400). -/
def orBytes (a b : Bytes) : Bytes := (List.range a.length).map (fun i => a.getD i 0 ||| b.getD i 0)

/-- A slot's fuses are blown with a hash. -/
def Fuses.blowSlot (f : Fuses) (k : Nat) (h : Bytes) : Fuses :=
  { f with slots := SMap.put f.slots k (some (match SMap.find f.slots k with
      | none => h
      | some a => orBytes a h)) }

/-- The lifecycle's thermometer fuses are blown up to a code. -/
def Fuses.blowLife (f : Fuses) (t : Nat) : Fuses := { f with lifecycle := max f.lifecycle t }

/-- Blow fuses: the fuse map as it is after it. -/
def State.setFuses (s : State) (f : Fuses) : State := (s.setSec { s.sec with fuses := f }).showSec

/-- A new receipt pair is made, certified and written; it signs from the next span on, or at once where the ledger has not started
(R413). -/
def State.newReceiptPair (s : State) : State :=
  let g := s.sec.flash.keyGen + 1
  let s := s.setSec { s.sec with flash := { s.sec.flash with keyGen := g } }
  if s.is .ledRcptStaStarted then s.setSec { s.sec with newPair := true }
  else { s with led := { s.led with keyGen := g } }.showSec

/-- The length of an authorisation: two public keys and two signatures (R403). -/
def authLen : Nat := 512 + 48 + 384 + 16224

/-- What an authorisation of a command signs: the code, the command body without its authorisation, SEC_NONCE and the identity key
digest (R403). -/
def State.authMsg (s : State) (code : Nat) (body : Bytes) : Bytes :=
  0x0A#8 :: beBytes code 2 ++ body ++ beBytes (s.reg .secNonce 0).toNat 8 ++ pairDigest none

/-- Is the authorisation at byte `i` of a command's whole body, whose first `n` bytes it signs, of a live slot of the class, with both
signatures verified (R14, R403)? -/
def State.authOk (s : State) (code : Nat) (body : Bytes) (n i : Nat) (cls : Nat → Bool) : Bool :=
  let h := sha384 (sliceB body i 560)
  (List.range 8).any (fun k => cls k && decide (s.sec.fuses.live k = some h)) &&
    pairVerify (sliceB body i 512) (sliceB body (i + 512) 48) (s.authMsg code (body.take n)) (sliceB body (i + 560) 384)
      (sliceB body (i + 944) 16224)

/-- Vendor and owner slots. -/
def vendorSlot (k : Nat) : Bool := decide (k < 4)
def ownerSlot (k : Nat) : Bool := decide (4 ≤ k)

/-- An owner slot in OWNED, a vendor slot otherwise (R402). -/
def State.ownCls (s : State) : Nat → Bool := if s.sec.lifecycle = lcOwned then ownerSlot else vendorSlot

/-- SEC_NONCE takes a fresh random value (R403). -/
def State.freshNonce (s : State) : State := (s.setReg .secNonce 0 s.free).useFree

/-! ### Recovery Hold and the slot choice (R395, R396, R399, R406) -/

/-- The device enters Recovery Hold for a cause (R406). -/
def State.holdBoot (s : State) (cause : Nat) : State :=
  let s := (s.set .secBootStaStage 0 6).set .secBootStaHold 0 cause
  (s.setCairn { s.cairn with loading := true }).showSec

/-- A block enters service, unless it is in service. -/
def State.intoService (s : State) (b : Blk) : State := if s.blkState b = 2 then s else s.enterService b

/-- The firmware that runs, if one does, is given up: every control core is held in reset, and its copy released (R396). -/
def State.haltFirmware (s : State) : State :=
  if s.sec.copy.isNone then s
  else
    let s := (s.setSec { s.sec with fw := [], copy := none, waits := [] }).set .secVerFw 0 0
    (List.range 8).foldl (fun s k => ((if s.blkState ⟨.control, k⟩ = 2 then s.leaveService ⟨.control, k⟩ else s).set .spurCcStaRidges k 0)) s

/-- The next of the candidates is taken up, `later` where one before it has failed; with none left the boot holds (R396, R406). -/
def State.nextCand (s : State) (l : List (Nat × Manifest)) (later : Bool) : State :=
  let s := s.haltFirmware
  let s := s.setSec { s.sec with cands := l }
  if l.isEmpty then s.holdBoot 1
  else ((s.set .secBootStaFallback 0 (bit later)).set .secBootStaHold 0 0).set .secBootStaStage 0 1

/-- Part 0 of the firmware has matched: key registers locked, clock domains out of reset, the Crest running from 0, control cores released
on it, and the blocks that enter service then (R36, R395, R399, R519). -/
def State.startFirmware (s : State) (c : FwCopy) : State :=
  let s := s.setSec { s.sec with fw := c.man.digest, copy := some c }
  let s := (s.set .secBootStaSlot 0 c.slot).set .secBootStaLocked 0 1
  let s := (s.set .secVerFw 0 c.man.version).set .secBootStaStage 0 2
  let c := if s.crest.running then s.crest else { s.crest with running := true, acc := 0, tick := 0, reps := [] }
  let s := { s with crest := c }.intoService ⟨.timeBase, 0⟩
  let s := (List.range 32).foldl (fun s o => s.intoService ⟨.octet, o⟩) s
  let s := (List.range 16).foldl (fun s r => s.intoService ⟨.ridge, r⟩) s
  let s := (List.range 8).foldl (fun s k => (s.intoService ⟨.control, k⟩).set .spurCcStaRidges k (3 <<< (2 * k))) s
  ((s.intoService ⟨.cipher, 0⟩).intoService ⟨.hash, 0⟩).showSec

/-- The candidates of R396 are listed, best first, or Recovery Hold begins. -/
def State.chooseSlot (s : State) : State :=
  if s.sec.lifecycle = lcBlank then s.holdBoot 2
  else if s.sec.lifecycle = lcRetired then s.holdBoot 3
  else if s.cairn.devs.isEmpty then s.holdBoot 4
  else s.nextCand ((s.validSlots 1 s.sec.verOr.preferred).map (fun x => (x.1, x.2.2))) false

/-! ### Copy-in and the firmware areas (R393-R395, R415) -/

/-- The held hashes of a paged part's 4 KiB pages. -/
def pageHashes (off : Nat) (b : Bytes) (m : SMap Bytes) : SMap Bytes :=
  (List.range ((b.length + 4095) / 4096)).foldl (fun m i => SMap.put m (off + 4096 * i) (some (sha384 ((b.drop (4096 * i)).take 4096)))) m

/-- Copy-in of part `i`: its bytes are read from the slot once and hashed; a paged part is staged, any other stays in SRAM.  None where the
hash differs. -/
def FwCopy.take (c : FwCopy) (f : FlashImage) (i : Nat) : Option FwCopy :=
  match c.man.parts[i]? with
  | none => some c
  | some p =>
    let b := slotPart f p
    if sha384 b ≠ p.hash then none
    else if p.ty = 3 then some { c with staged := SMap.put c.staged i (some b), pages := pageHashes p.off b c.pages }
    else some { c with sram := SMap.put c.sram i (some b) }

/-- Copy-in of the listed parts. -/
def FwCopy.takeAll (f : FlashImage) : List Nat → FwCopy → Option FwCopy
  | [], c => some c
  | i :: t, c => (c.take f i).bind (FwCopy.takeAll f t)

/-- The external-memory address of an offset of a slot in a copy's firmware area (DESIGN CHOICE, assumption 163: a part lies there at its
offset in the slot). -/
def FwCopy.addr (c : FwCopy) (off : Nat) : Nat := (Config.fwArea c.area).toNat * 1048576 + off

/-- The staged parts are written to the firmware area; the copy then stages nothing. -/
def State.writeParts (s : State) (c : FwCopy) : State :=
  c.staged.foldl (fun s e => match c.man.parts[e.1]? with
    | none => s
    | some p => s.extWrite (c.addr p.off) e.2) s

/-- Is external memory up: has a channel entered service? -/
def State.memUp (s : State) : Bool := (List.range 8).any (fun c => s.blkState ⟨.memCh, c⟩ == 2)

/-- The image of the candidate being booted. -/
def State.candImage (s : State) : Option (FlashImage × Nat × Manifest) :=
  match s.sec.cands with
  | [] => none
  | (d, m) :: _ => (s.slotImage d 1).map (fun f => (f, d, m))

/-- The second step: part 0 of the candidate is copied in and its firmware starts, or the next candidate is taken up. -/
def State.bootPart0 (s : State) : State :=
  match s.candImage.bind (fun x => FwCopy.take { slot := x.2.1, man := x.2.2 } x.1 0) with
  | none => s.nextCand s.sec.cands.tail true
  | some c => s.startFirmware c

/-- The third step: the remaining parts are copied in, or the next candidate is taken up. -/
def State.bootParts (s : State) : State :=
  match s.sec.copy, s.candImage with
  | some c, some (f, _, m) =>
    (match c.takeAll f ((List.range m.parts.length).drop 1) with
     | none => s.nextCand s.sec.cands.tail true
     | some c => (s.setSec { s.sec with copy := some c, cands := [] }).set .secBootStaStage 0 3)
  | _, _ => s.nextCand s.sec.cands.tail true

/-- The paged parts leave the packet buffer for their firmware area. -/
def State.placeParts (s : State) : State :=
  match s.sec.copy with
  | none => s
  | some c => (s.writeParts c).setSec { s.sec with copy := some { c with staged := [] } }

/-- Do paged parts still wait in the packet buffer for external memory? -/
def State.partsWait (s : State) : Bool := s.sec.copy.any (fun c => !c.staged.isEmpty) && !s.memUp

/-! ### Page fills (R394, R397) -/

/-- The paged part of the running firmware that a page address lies in, and the page's slot offset. -/
def FwCopy.page (c : FwCopy) (a : Nat) : Option (Nat × Part × Nat) :=
  let off := a - c.addr 0
  ((List.range c.man.parts.length).filterMap (fun i => (c.man.parts[i]?).map (fun p => (i, p, off)))).find? (fun x =>
    decide (c.addr 0 ≤ a) && x.2.1.ty == 3 && decide (x.2.1.off ≤ off) && decide (off < x.2.1.off + x.2.1.len) &&
    decide ((off - x.2.1.off) % 4096 = 0))

/-- `b` with the errors of a transfer: bits of `e` set are inverted. -/
def withErrors (b e : Bytes) : Bytes := (List.range b.length).map (fun i => b.getD i 0 ^^^ e.getD i 0)

/-- Does a page as fetched, with a transfer's errors, match its held hash?  An uncorrectable word fails it (R445). -/
def State.pageGood (s : State) (a n : Nat) (h e : Bytes) : Bool := !s.extBad a n && sha384 (withErrors (Mem.bytes s.mem.ext a n) e) == h

/-- A control core waits for a part, and its duties pass to another in service (R161, R394). -/
def State.pageWait (s : State) (k other i : Nat) : State :=
  if s.blkState ⟨.control, k⟩ ≠ 2 then s
  else
    let m := if k ≠ other ∧ s.blkState ⟨.control, other⟩ = 2 ∧ (SMap.find s.sec.waits other).isNone then s.get .spurCcStaRidges k else 0
    let s := s.setSec { s.sec with waits := SMap.put s.sec.waits k (some { part := i, ridges := m }) }
    if m = 0 then s else (s.set .spurCcStaRidges other (s.get .spurCcStaRidges other ||| m)).set .spurCcStaRidges k 0

/-- A waiting control core goes on, and its duties return to it. -/
def State.pageWake (s : State) (k m : Nat) : State :=
  let s := s.setSec { s.sec with waits := SMap.put s.sec.waits k none }
  if s.blkState ⟨.control, k⟩ ≠ 2 then s
  else
    let s := (List.range 8).foldl (fun s j => s.set .spurCcStaRidges j (s.get .spurCcStaRidges j &&& (65535 ^^^ m))) s
    s.set .spurCcStaRidges k (s.get .spurCcStaRidges k ||| m)

/-- The control cores that a test of their part picks go on. -/
def State.wakeParts (s : State) (f : Nat → Bool) : State :=
  s.sec.waits.foldl (fun s e => if f e.2.part then s.pageWake e.1 e.2.ridges else s) s

/-- A part is copied in again from the slot of the running image, and the control cores that wait for it go on; they wait on where its hash
no longer matches. -/
def State.reloadPart (s : State) (c : FwCopy) (i : Nat) : State :=
  match (s.slotImage c.slot 1).bind (fun f => FwCopy.take { c with staged := [] } f i) with
  | none => s
  | some c => ((s.writeParts c).setSec { s.sec with copy := some { c with staged := [] } }).wakeParts (· == i)

/-! ### Deployment bundles (R409-R411) -/

/-- The `n`-byte records of a section; none where it holds no whole number of them. -/
def recordsOf (n : Nat) (b : Bytes) : Option (List Bytes) :=
  if n = 0 ∨ b.length % n ≠ 0 then none
  else some ((List.range (b.length / n)).map (fun i => sliceB b (n * i) n))

/-- Apply records in order until one fails; the state, and whether none did. -/
def applyAll (g : State → Bytes → State × Bool) : List Bytes → State → State × Bool
  | [], s => (s, true)
  | b :: t, s =>
    let x := g s b
    if x.2 then applyAll g t x.1 else x

/-- Section 1: a register write under the write rules. -/
def State.bundleReg (s : State) (b : Bytes) : State × Bool := s.access .native (leAt b 0 8) 8 (BitVec.ofNat 64 (leAt b 8 8))

/-- Section 2: a group under the index given. -/
def State.bundleGroup (s : State) (b : Bytes) : State × Bool :=
  let g := leAt b 0 2
  let r := leAt b 8 1
  let cores := leAt b 10 2
  let threads := leAt b 12 2
  if zeroAt b 2 6 && zeroAt b 9 1 && zeroAt b 14 2 && decide (r ≤ 15) && cores != 0 && threads != 0 && g / 256 == r && !s.grpOn g &&
      !(maskThreads r cores threads).any (fun k => (s.thr k).group.isSome) then
    (s.makeGroup g cores threads, true)
  else (s, false)

/-- Section 3 as targets with their images; none where an entry is cut short.  The fuel is the section's length. -/
def bundleImages : Nat → Bytes → Option (List (Nat × Bytes))
  | 0, b => if b.isEmpty then some [] else none
  | n + 1, b =>
    if b.isEmpty then some []
    else
      let len := leAt b 8 8
      let tot := 16 + (len + 7) / 8 * 8
      if b.length < tot ∨ !zeroAt b 2 6 then none
      else match bundleImages n (b.drop tot) with
        | none => none
        | some l => some ((leAt b 0 2, sliceB b 16 len) :: l)

/-- The images of section 3 are checked as an activation's are and come into force as program epoch 0 (R410). -/
def State.bundleLoadImages (s : State) (l : List (Nat × Bytes)) : State × Bool :=
  let ts := l.map (fun e => e.1)
  let rs := (ts.map targetRidge).eraseDups
  if !ts.Nodup || !l.all (fun e => s.imageOk 0 e.1 e.2.length s.lt e.2) ||
      s.kind1Raised (l.map (fun e => (e.1, parseImage e.2))) then (s, false)
  else match s.loadAll 0 l with
    | none => (s, false)
    | some t =>
      if !rs.all t.ridgeOk then (s, false)
      else match t.chanAll rs with
        | none => (s, false)
        | some t => (ts.foldl (fun t x => t.flipTarget x) t, true)

/-- Section 4: INSERT or MC_SET, carried out. -/
def State.bundleTable (s : State) (b : Bytes) : State × Bool :=
  if (leAt b 0 2 = 3 ∨ leAt b 0 2 = 6) ∧ s.tableBad 0 b = none then
    let x := s.tableAct 0 b
    (x.1, x.2.1 == tsOk || x.2.1 == tsEvicted)
  else (s, false)

/-- Section 5: a contract taken as ADMIT; at = 0 is the ledger start. -/
def State.bundleContract (s : State) (b : Bytes) : State × Bool :=
  let x := s.conAdmit 0 b ((parseCon b).at_ == 0)
  (x.1, leAt x.2 4 1 == 0)

/-- Section 6: management TLVs; the engine's answers go nowhere.  The fuel is the section's length. -/
def State.bundlePtp : Nat → Bytes → State → State
  | 0, _, s => s
  | n + 1, b, s =>
    if b.length < 4 then s
    else
      let len := 4 + beAt b 2 2
      State.bundlePtp n (b.drop len) (s.ptpManage (b.take len)).1

/-- The records of a section, each applied. -/
def State.bundleRecs (s : State) (n : Nat) (g : State → Bytes → State × Bool) (b : Bytes) : State × Bool :=
  match recordsOf n b with
  | none => (s, false)
  | some l => applyAll g l s

/-- One section of a bundle, and whether nothing of it failed. -/
def State.bundleSection (s : State) (sect : Nat) (b : Bytes) : State × Bool :=
  if sect = 1 then s.bundleRecs 16 State.bundleReg b
  else if sect = 2 then s.bundleRecs 16 State.bundleGroup b
  else if sect = 3 then (match bundleImages b.length b with
    | none => (s, false)
    | some l => s.bundleLoadImages l)
  else if sect = 4 then s.bundleRecs 64 State.bundleTable b
  else if sect = 5 then s.bundleRecs 160 State.bundleContract b
  else (State.bundlePtp b.length b s, true)

/-- Apply sections in order until one fails. -/
def State.bundleSections (s : State) (f : FlashImage) : List Part → State × Bool
  | [] => (s, true)
  | p :: t =>
    let x := s.bundleSection p.sect (slotPart f p)
    if x.2 then x.1.bundleSections f t else x

/-- Apply a bundle whose manifest is valid, in section-type order; false where it is bad. -/
def State.applyBundle (s : State) (f : FlashImage) (m : Manifest) : State × Bool :=
  if !partsMatch f m then (s, false)
  else s.bundleSections f ((List.range 6).flatMap (fun i => m.parts.filter (fun p => p.sect == i + 1)))

/-- After a bad bundle every block it configured is as before: of the state `t` its application reached, Cairn's records, the free
values used and the domains' counts of ignored writes stay (R411). -/
def State.undoBundle (s t : State) : State :=
  let s := { s with cairn := t.cairn, freeCtr := t.freeCtr }
  let s := (List.range 16).foldl (fun s d => s.setReg .sysIgnCnt d (t.reg .sysIgnCnt d)) s
  ((s.setReg .ingIgnCnt 0 (t.reg .ingIgnCnt 0)).setReg .hostIgnCnt 0 (t.reg .hostIgnCnt 0)).setReg .jrnIgn 0 (t.reg .jrnIgn 0)

/-- The applied bundle's digest and version (B3 of R414, SEC_BVER). -/
def State.tookBundle (s : State) (m : Manifest) : State :=
  let s := (s.setSec { s.sec with bundle := m.digest }).set .secBverBundle 0 m.version
  ((s.set .secBootStaBundle 0 1).set .secBootStaStage 0 4).showSec

/-- The bundle is bad: the boot waits, in the state before the bundle was applied (R411). -/
def State.waitBundle (s : State) : State :=
  let s := (s.set .secBootStaBundle 0 2).set .secBootStaStage 0 4
  s.setCairn { s.cairn with loading := true }

/-- Are the GPIO outputs at high impedance: until the output gate opens (R397)? -/
def State.gpioHighZ (s : State) : Bool := !s.gateOpen

/-- May the output gate open: every part verified and applied, the keys present, and the TAP not in the way (R397, R416, R514)? -/
def State.gateReady (s : State) : Bool :=
  s.get .secBootStaStage == 4 && s.get .secBootStaBundle != 2 && !s.gateOpen && s.get .ciphStaErased == 0 &&
  s.back.tap != .extest && s.back.tap != .debugPort

/-- The output gate opens (R397): the boot time is shown, outputs held until now go, and program epoch 0 is in force. -/
def State.openGate (s : State) : State :=
  let s := ((s.set .secBootStaBootMs 0 s.free.toNat).useFree.set .secBootStaGate 0 1).set .secBootStaStage 0 5
  let s := s.setCairn { s.cairn with loading := true }
  let s := if s.spur.epochs.isEmpty then
      let e : EpochRec := { num := 0, at_ := s.lt, elapsed := s.elapsed, imageSet := s.imageSet }
      { s with spur := { s.spur with epochs := [e] } }
    else s
  let s := (List.range 256).foldl (fun s n => s.set .portStaGated n 0) s
  let s := (List.range 32).foldl (fun s o => s.showTxdis o) s
  s.goOn

end Sys2Proof.Machine
end

