-- ==== Sys2Proof/Machine/Boot.lean ====
section
/-! DEFINITION. Boot: the start, memory training, the bundle, the output gate, page fills and the recovery window (chapter 16). -/

namespace Sys2Proof.Machine

/-! ### BOOT_START (R395, R410, R467) -/

/-- The power-cycle count advances, unless it is stuck, and a counter-log entry is written (R441, R467). -/
def State.countPower (s : State) : State :=
  let s := if s.cairn.pwrCyc = 0xFFFFFFFF#32 then s.cairnRec .counterStuck none (leBytes 0x880 8)
    else s.setCairn { s.cairn with pwrCyc := s.cairn.pwrCyc + 1 }
  if s.supplyWarn then (s.setSec { s.sec with held := s.sec.held ++ [.counterLog] }).showCairn else s.logCounters

/-- The first steps of a boot: fuses sensed, version records checked, counters and the POWER_ON record written, and the slot chosen. -/
def State.bootFirst (s : State) : State :=
  let s := (s.setSec { s.sec with lifecycle := s.sec.fuses.lifecycle }).showSec
  let s := if s.sec.verRec.isNone then s.recVersion 0 1 0 else s
  let s := s.countPower.cairnRec .powerOn none [if s.get .sysRstStaCause = 2 then 2 else 1]
  s.chooseSlot

/-- The bundle step: no bundle where both slots are erased, else the valid one of the highest version is applied, or the boot waits
(R410, R411). -/
def State.bootBundle (s : State) : State :=
  if (s.slotImage 0 2).isNone && (s.slotImage 1 2).isNone then s.set .secBootStaStage 0 4
  else match s.validSlots 2 0 with
    | [] => s.waitBundle
    | (_, f, m) :: _ =>
      let x := s.applyBundle f m
      if x.2 then x.1.tookBundle m else (s.undoBundle x.1).waitBundle

/-- The last step: the paged parts are written once external memory is up, and the bundle is applied. -/
def State.bootRest (s : State) : State := if s.partsWait then s else s.placeParts.bootBundle

/-- BOOT_START: from power-good one step of the boot each time it is given, by the stage reached: the candidates, part 0 of the first, the
remaining parts, and the paged parts with the bundle (R395; DESIGN CHOICE, assumption 164). -/
def execBootStart (s : State) : Out :=
  .next (match s.get .secBootStaStage with
    | 0 => if s.sec.good then s.bootFirst else s
    | 1 => s.bootPart0
    | 2 => s.bootParts
    | 3 => s.bootRest
    | _ => s)

/-- MEMORY_TRAINED: a channel's first training completes, and it enters service (R395, R519). -/
def execMemoryTrained (ch : Fin 8) (speed : Fin 4) (ranks : Fin 4) (fastEnough : Bool) (s : State) : Out :=
  let c := ch.val
  if 2 ≤ s.get .secBootStaStage && s.get .secBootStaStage != 6 && s.blkInc ⟨.memCh, c⟩ == 0 && speed.val != 0 &&
      inRange ranks.val 1 2 then
    let s := ((s.enterService ⟨.memCh, c⟩).set .memChStaSpeed c speed.val).set .memChStaRanks c ranks.val
    .next { s with mem := { s.mem with fast := SMap.put s.mem.fast c (if fastEnough then some () else none) } }.showExtHosts
  else .next s

/-- GATE_OPEN (R397). -/
def execGateOpen (s : State) : Out := .next (if s.gateReady then s.openGate else s)

/-- A page of part `i` of the running firmware is filled: checked as fetched and, if that fails, as fetched again; if that fails too, a
record is written and the control core waits for the part to be copied in again. -/
def State.fillPage (s : State) (c : FwCopy) (page : PageNeed) (i n : Nat) (h first second : Bytes) : State :=
  let a := page.addr.toNat
  let t := s.extNote a n 8
  if s.pageGood a n h first || s.pageGood a n h second then t
  else (t.cairnRec .pageHash none (leBytes a 8)).pageWait page.core.val page.other.val i

/-- PAGE_FILL of a page of a paged part of the running firmware, `first` and `second` being the errors of the two transfers: while the part
is not verified and in place the fill stalls (R397); while it is to be reloaded, it is (R394; DESIGN CHOICE, assumption 165). -/
def execPageFill (page : PageNeed) (first second : Bytes) (s : State) : Out :=
  .next (match s.sec.copy with
    | none => s
    | some c => match c.page page.addr.toNat with
      | none => s
      | some (i, p, off) => match SMap.find c.pages off with
        | none => s
        | some h =>
          if (SMap.find c.staged i).isSome then s
          else if s.sec.waits.any (fun e => e.2.part == i) then s.reloadPart c i
          else s.fillPage c page i (min 4096 (p.off + p.len - off)) h first second)

/-! ### The recovery window (R407) -/

/-- Store the reception's state. -/
def State.setRecov (s : State) (r : Recov) : State := s.setSec { s.sec with recov := r }

/-- A recovery command: it is an Unsupported Request where the window does not answer (R324), and without effect outside Recovery Hold; in
RETIRED it leaves the state at refused with LIFECYCLE; while a COMMIT is being verified none acts. -/
def State.recovCmd (s : State) (h : State → State) : State :=
  if !s.recovOpen then (if s.memReach 0 then s else s.ur 0)
  else if s.sec.lifecycle = lcRetired then s.setRecov { s.sec.recov with st := 3, status := sdLifecycle }
  else if s.sec.recov.st = 2 then s
  else h s

/-- RECOV_BEGIN: reception for the slot in bit 8 of the length in bits [63:32] begins. -/
def execRecovBegin (v : BitVec 64) (s : State) : Out :=
  .next (if bitsOf v.toNat 7 0 = 1 then
    s.recovCmd (fun s => s.setRecov { st := 1, slot := bitsOf v.toNat 8 8, total := bitsOf v.toNat 63 32 })
  else s)

/-- RECOV_CHUNK: the chunk whose length is in bits [63:32] is taken at the expected offset; one that passes the aperture's 128 KiB or
the total length is not taken. -/
def execRecovChunk (v : BitVec 64) (s : State) : Out :=
  .next (if bitsOf v.toNat 7 0 = 2 then
    s.recovCmd (fun s =>
      let r := s.sec.recov
      let n := bitsOf v.toNat 63 32
      if r.st = 1 ∧ n ≤ 131072 ∧ r.next + n ≤ r.total then s.setRecov { r with next := r.next + n } else s)
  else s)

/-- A slot's contents as programmed: those that fail their check leave the slot invalid, and not erased (R405). -/
def State.programSlot (s : State) (d kind code : Nat) (f : FlashImage) : State :=
  let c : FlashImage := if code = 0 then f else { bytes := [] }
  let fl : Flash := { s.sec.flash with slots := SMap.put s.sec.flash.slots (slotKey d kind) (some c) }
  s.setSec { s.sec with flash := fl }

/-- The received image is programmed and checked; if it passes, boot resumes at the slot choice. -/
def State.recovWrite (s : State) (image : FlashImage) : State :=
  let r := s.sec.recov
  if !s.cairn.flashPresent.getD r.slot false then s.setRecov { r with st := 3, status := sdSignature }
  else
    let code := s.imageCode 1 (min r.total (s.slotCap r.slot 1)) image
    let s := s.programSlot r.slot 1 code image
    if code = 0 then (s.setRecov { r with st := 0, status := 0 }).chooseSlot else s.setRecov { r with st := 3, status := code }

/-- RECOV_COMMIT: the slot is programmed with what was received, once all of it has been; a supply warning holds the write. -/
def execRecovCommit (v : BitVec 64) (image : FlashImage) (s : State) : Out :=
  .next (if bitsOf v.toNat 7 0 = 3 then
    s.recovCmd (fun s =>
      let r := s.sec.recov
      if r.st ≠ 1 ∨ r.next ≠ r.total then s
      else if s.supplyWarn then
        let c : Sec := { s.sec with held := s.sec.held ++ [.recovCommit image], recov := { r with st := 2 } }
        s.setSec c
      else s.recovWrite image)
  else s)

/-- RECOV_ABORT: the reception is abandoned. -/
def execRecovAbort (v : BitVec 64) (s : State) : Out :=
  .next (if bitsOf v.toNat 7 0 = 4 then s.recovCmd (fun s => s.setRecov { s.sec.recov with st := 0, next := 0 }) else s)

end Sys2Proof.Machine
end

