-- ==== Sys2Proof/Machine/Pins.lean ====
section
/-! DEFINITION. Board management and the test access port (R510-R514). -/

namespace Sys2Proof.Machine

/-- PLDM completion codes: success, error, and the invalid sensor ID of GetSensorReading; and the operational state of a sensor that
reads unavailable (PRESUMED from DSP0248, assumption 58). -/
def pldmOk : Nat := 0x00
def pldmBadSensor : Nat := 0x80
def pldmUnavailable : Nat := 0x03

/-- ENTDAA: the I3C target takes a dynamic address (R510). -/
def execEntdaa (addr : BitVec 7) (s : State) : Out :=
  if s.sec.good then .next { s with back := { s.back with i3c := some addr } } else .next s

/-- A sensor's value: the hottest junction, the rails' voltages, and the frames recorded DELIVERED_LATE.  Package power and the rails'
currents are measured values the spec gives no rule for: free values. -/
def State.sensor (s : State) (id : Nat) : Option Nat :=
  if id = 1 then some (s.get .sysThermStaHottest)
  else if inRange id 3 9 then some (s.get .sysRailMv (id - 3))
  else if id = 2 ∨ inRange id 12 9 then some (s.free.toNat % 65536)
  else if id = 21 then s.back.late
  else none

/-- PLDM_SENSOR_READ: the sensor's value; sensor 21 is unavailable before the first telemetry frame (R511). -/
def execPldmSensorRead (id : Nat) (s : State) : Out :=
  if !s.mctpUp then .next s
  else if id = 0 ∨ 21 < id then .next (s.emit (.pldm pldmBadSensor 0))
  else match s.sensor id with
    | some v => .next (s.useFree.emit (.pldm pldmOk v))
    | none => .next (s.emit (.pldm pldmUnavailable 0))

/-- Is an instruction accepted: BYPASS, IDCODE and SAMPLE/PRELOAD always, EXTEST and the debug port while debug is permitted and the
gate is closed, and in BLANK always (R513)? -/
def State.tapTakes (s : State) (ir : JtagIr) : Bool :=
  match ir with
  | .bypass | .idcode | .sample => true
  | .extest | .debugPort =>
    s.sec.good && ((s.sec.debugOk && !s.gateOpen) || s.sec.lifecycle == lcBlank)

/-- JTAG_INSTRUCTION: an instruction that is not accepted is loaded as BYPASS (R513). -/
def execJtagInstruction (ir : JtagIr) (s : State) : Out :=
  .next { s with back := { s.back with tap := if s.tapTakes ir then ir else .bypass } }

/-- TAP_RESET: the access port returns to IDCODE (R514). -/
def execTapReset (s : State) : Out := .next { s with back := { s.back with tap := .idcode } }

end Sys2Proof.Machine
end

