-- ==== Sys2Proof/Machine/SecCmds.lean ====
section
/-! DEFINITION. The security commands of the management mailbox and the instant of a firmware activation (R402-R408, R411-R416). -/

namespace Sys2Proof.Machine

/-! ### One command at a time, and what a supply warning holds (R402, R416, R477, R478) -/

/-- Is a piece of held work a security command's? -/
def HeldWork.isCmd : HeldWork → Bool
  | .counterLog | .recovCommit _ | .prefer _ => false
  | _ => true

/-- Does a piece of held work blow fuses? -/
def HeldWork.blows : HeldWork → Bool
  | .versionRaise _ _ | .keyRevoke _ _ | .ownerAdd _ _ | .lifecycle _ _ => true
  | _ => false

/-- Must a piece of work wait: any while a rail of groups 1 to 3 is in warning, a fuse blow also while VDD_FUSE is? -/
def State.mustWait (s : State) (w : HeldWork) : Bool := s.supplyWarn || (w.blows && bitOf (s.get .sysSupplyStaWarn) 8)

/-- Hold a piece of work. -/
def State.hold (s : State) (w : HeldWork) : State := s.setSec { s.sec with held := s.sec.held ++ [w] }

/-- The SP answers: an authorised command makes SEC_NONCE fresh, accepted or refused (R403). -/
def State.secReply (s : State) (f code status detail : Nat) (body : Bytes) : State :=
  let auth := inRange code 0x32 4 && (status == 0 || status == 6)
  (if auth then s.freshNonce else s).reply f code status detail body

/-- A security command reaches the SP: BUSY while another is in hand, refused with `check`'s status and detail, held, or done at once
by `work`.  A raise refused because the counter is at its end is recorded (R441). -/
def State.secCmd (s : State) (f : Fn) (seq : BitVec 32) (code : Nat) (check : State → Nat × Nat) (w : Option HeldWork)
    (work : State → State) : State :=
  s.submit f.val seq code true (fun s =>
    if s.sec.held.any HeldWork.isCmd then s.secReply f.val code 3 0 []
    else
      let c := check s
      if c.1 ≠ 0 then
        let s := if c = (6, sdCounter) then s.cairnRec .counterStuck none (leBytes 8 8) else s
        s.secReply f.val code c.1 c.2 []
      else match w with
        | none => work s
        | some w => if s.mustWait w then s.hold w else work s)

/-! ### IMAGE_STAGE (R405) -/

/-- Its checks before anything is erased. -/
def State.stageCheck (s : State) (body : Bytes) : Nat × Nat :=
  let d := leAt body 0 1
  let k := leAt body 1 1
  if body.length ≠ 24 ∨ 1 < d ∨ !inRange k 1 2 ∨ !zeroAt body 2 6 ∨ s.slotCap d k < leAt body 16 8 then (1, 0)
  else if d = s.get .secBootStaSlot then (6, sdRunning)
  else if !s.cairn.flashPresent.getD d false then (6, sdSignature)
  else (0, 0)

/-- The slot is erased, programmed and read back through copy-in. -/
def State.stageWork (s : State) (f : Fn) (body : Bytes) (image : FlashImage) : State :=
  let d := leAt body 0 1
  let k := leAt body 1 1
  let code := s.imageCode k (min (leAt body 16 8) (s.slotCap d k)) image
  let s := s.programSlot d k code image
  if code = 0 then s.secReply f.val 0x30 0 0 [] else s.secReply f.val 0x30 6 code []

/-- IMAGE_STAGE; `image` is what host memory holds at the address and length of the body. -/
def execImageStage (f : Fn) (seq : BitVec 32) (body : Bytes) (image : FlashImage) (s : State) : Out :=
  .next (s.secCmd f seq 0x30 (fun s => s.stageCheck body) (some (.imageStage f body image)) (fun s => s.stageWork f body image))

/-! ### FW_ACTIVATE and FW_SWITCH (R415) -/

/-- The named slot, 0 or 1, its contents and their check. -/
def State.actSlot (s : State) (d : Nat) : Nat × Option (FlashImage × Manifest) :=
  match s.slotImage d 1 with
  | none => (sdSignature, none)
  | some f => (s.imageCode 1 (s.slotCap d 1) f, (manifestOf f (s.slotCap d 1)).map (fun m => (f, m)))

/-- Its checks: at from 500 ms to less than 2⁴⁶ ns ahead, no activation pending, and the slot valid. -/
def State.fwCheck (s : State) (body : Bytes) : Nat × Nat :=
  let d := leAt body 0 1
  let t := ltDiff (BitVec.ofNat 64 (leAt body 8 8)) s.lt
  if body.length ≠ 16 ∨ 1 < d ∨ !zeroAt body 1 7 then (1, 0)
  else if s.sec.act.isSome then (3, 0)
  else if t < 500000000 * 65536 ∨ 2 ^ 62 ≤ t then (6, 0)
  else if (s.actSlot d).1 ≠ 0 then (6, (s.actSlot d).1)
  else (0, 0)

/-- The copy of a slot's firmware for the firmware area not in use: every part copied in, none left staged. -/
def State.otherCopy (s : State) (d : Nat) (f : FlashImage) (m : Manifest) : FwCopy :=
  let c : FwCopy := { slot := d, man := m, area := 1 - (s.sec.copy.map (fun c => c.area)).getD 0 }
  { (c.takeAll f (List.range m.parts.length)).getD c with staged := [] }

/-- The whole of a slot's firmware is written to a copy's area. -/
def State.writeSlot (s : State) (f : FlashImage) (c : FwCopy) : State :=
  c.man.parts.foldl (fun s p => s.extWrite (c.addr p.off) (slotPart f p)) s

/-- The verified copy is made, and the activation is pending. -/
def State.fwWork (s : State) (f : Fn) (body : Bytes) : State :=
  let d := leAt body 0 1
  let s := match (s.actSlot d).2 with
    | none => s
    | some (f, m) =>
      let c := s.otherCopy d f m
      let s := (s.writeSlot f c).setSec { s.sec with act := some { slot := d, digest := m.digest, version := m.version, copy := c } }
      (s.setReg .secFwAt 0 (BitVec.ofNat 64 (leAt body 8 8))).set .secBootStaActPending 0 1
  s.secReply f.val 0x31 0 0 []

/-- FW_ACTIVATE. -/
def execFwActivate (f : Fn) (seq : BitVec 32) (body : Bytes) (s : State) : Out :=
  .next (s.secCmd f seq 0x31 (fun s => s.fwCheck body) none (fun s => s.fwWork f body))

/-- The version record's preferred slot is rewritten; a worn sector is left alone, with a record (R454). -/
def State.prefer (s : State) (slot : Nat) : State :=
  let k := s.sec.nextSector
  if s.sec.worn k then s.recVersion 1 2 0 else s.writeVerRec k { s.sec.verOr with preferred := slot }

/-- FW_SWITCH: at the instant the firmware changes; B2 takes the new digest. -/
def execFwSwitch (s : State) : Out :=
  match s.sec.act with
  | none => .next s
  | some a =>
    let s := s.advanceTo (s.reg .secFwAt 0)
    let s := s.wakeParts (fun _ => true)
    let s := s.setSec { s.sec with fw := a.digest, act := none, copy := some a.copy }
    let s := ((s.set .secBootStaSlot 0 a.slot).set .secVerFw 0 a.version).set .secBootStaActPending 0 0
    .next (if s.mustWait (.prefer a.slot) then s.hold (.prefer a.slot) else s.prefer a.slot).showSec

/-! ### VERSION_RAISE (R398, R405) -/

/-- Does a slot hold a valid image of a kind at or above a version? -/
def State.slotAtLeast (s : State) (d kind min : Nat) : Bool :=
  match s.slotImage d kind with
  | none => false
  | some f =>
    s.imageCode kind (s.slotCap d kind) f == 0 && (match manifestOf f (s.slotCap d kind) with
      | some m => decide (min ≤ m.version)
      | none => false)

/-- Its checks. -/
def State.raiseCheck (s : State) (body : Bytes) : Nat × Nat :=
  let k := leAt body 0 1
  let v := leAt body 4 4
  if body.length ≠ 8 + authLen ∨ !inRange k 1 2 ∨ !zeroAt body 1 3 then (1, 0)
  else if !s.authOk 0x32 body 8 8 s.ownCls then (6, sdAuth)
  else if v ≤ s.sec.minVer k || !s.slotAtLeast 0 k v || !s.slotAtLeast 1 k v then (6, sdVersion)
  else if s.sec.fuses.verCnt = 255 then (6, sdCounter)
  else (0, 0)

/-- A record with the next counter is written, and one counter fuse blown. -/
def State.raiseWork (s : State) (f : Fn) (body : Bytes) : State :=
  let k := leAt body 0 1
  let v := leAt body 4 4
  let o := s.sec.verOr
  let r : VerRec := if k = 1 then { o with n := s.sec.fuses.verCnt + 1, minFw := v } else { o with n := s.sec.fuses.verCnt + 1, minBundle := v }
  let j := s.sec.nextSector
  let j := if s.sec.worn j && !s.sec.worn (1 - j) then 1 - j else j
  let s := s.writeVerRec j r
  let s := s.setFuses { s.sec.fuses with verCnt := s.sec.fuses.verCnt + 1 }
  (s.recVersion k 0 v).secReply f.val 0x32 0 0 []

/-- VERSION_RAISE: the command body, and the authorisation that follows it. -/
def execVersionRaise (f : Fn) (seq : BitVec 32) (body auth : Bytes) (s : State) : Out :=
  .next (s.secCmd f seq 0x32 (fun s => s.raiseCheck (body ++ auth)) (some (.versionRaise f (body ++ auth))) (fun s => s.raiseWork f (body ++ auth)))

/-! ### KEY_REVOKE (R408) -/

/-- Its checks. -/
def State.revokeCheck (s : State) (body : Bytes) : Nat × Nat :=
  let k := leAt body 0 1
  if body.length ≠ 8 + authLen ∨ 7 < k ∨ !zeroAt body 1 7 then (1, 0)
  else if !s.authOk 0x33 body 8 8 (fun j => j != k && j / 4 == k / 4) then (6, sdAuth)
  else if (s.sec.fuses.live k).isNone then (6, sdKey)
  else if s.installed.any (fun m => m.signer == k) then (6, sdLastKey)
  else (0, 0)

/-- The slot's revoke fuse is blown. -/
def State.revokeWork (s : State) (f : Fn) (body : Bytes) : State :=
  let s := s.setFuses { s.sec.fuses with revoke := s.sec.fuses.revoke ||| 2 ^ leAt body 0 1 }
  s.secReply f.val 0x33 0 0 []

/-- KEY_REVOKE. -/
def execKeyRevoke (f : Fn) (seq : BitVec 32) (body auth : Bytes) (s : State) : Out :=
  .next (s.secCmd f seq 0x33 (fun s => s.revokeCheck (body ++ auth)) (some (.keyRevoke f (body ++ auth))) (fun s => s.revokeWork f (body ++ auth)))

/-! ### OWNER_ADD and LIFECYCLE (R401, R402, R413, R416) -/

/-- OWNER_ADD's checks. -/
def State.ownerCheck (s : State) (body : Bytes) : Nat × Nat :=
  let k := leAt body 0 1
  if body.length ≠ 568 + authLen ∨ !inRange k 4 4 ∨ !zeroAt body 1 7 then (1, 0)
  else if s.sec.lifecycle ≠ lcVendor ∧ s.sec.lifecycle ≠ lcOwned then (6, sdLifecycle)
  else if !s.authOk 0x34 body 568 568 s.ownCls then (6, sdAuth)
  else if (SMap.find s.sec.fuses.slots k).isSome || bitOf s.sec.fuses.revoke k then (6, sdKey)
  else (0, 0)

/-- The owner slot is programmed; the first one enters OWNED, which rotates the receipt pair. -/
def State.ownerWork (s : State) (f : Fn) (body : Bytes) : State :=
  let fs := s.sec.fuses
  let enter := decide (fs.lifecycle < lcOwned)
  let s := s.setFuses ((fs.blowSlot (leAt body 0 1) (sha384 (sliceB body 8 560))).blowLife lcOwned)
  (if enter then s.newReceiptPair else s).secReply f.val 0x34 0 0 []

/-- OWNER_ADD. -/
def execOwnerAdd (f : Fn) (seq : BitVec 32) (body auth : Bytes) (s : State) : Out :=
  .next (s.secCmd f seq 0x34 (fun s => s.ownerCheck (body ++ auth)) (some (.ownerAdd f (body ++ auth))) (fun s => s.ownerWork f (body ++ auth)))

/-- LIFECYCLE's checks: the target is RMA or RETIRED and above the present state. -/
def State.lifeCheck (s : State) (body : Bytes) : Nat × Nat :=
  let t := leAt body 0 1
  let two := t = lcRma ∧ s.sec.lifecycle = lcOwned
  if body.length < 8 ∨ 4 < t ∨ !zeroAt body 1 7 then (1, 0)
  else if t < lcRma ∨ t ≤ s.sec.fuses.lifecycle then (6, sdLifecycle)
  else if body.length ≠ 8 + (if two then 2 * authLen else authLen) then (1, 0)
  else if two then
    if s.authOk 0x35 body 8 8 ownerSlot && s.authOk 0x35 body 8 (8 + authLen) vendorSlot then (0, 0) else (6, sdAuth)
  else if s.authOk 0x35 body 8 8 (if t = lcRma then vendorSlot else s.ownCls) then (0, 0) else (6, sdAuth)

/-- The lifecycle fuses are blown; the new state's rules apply from the next power-on reset.  Entry to RMA rotates the receipt pair. -/
def State.lifeWork (s : State) (f : Fn) (body : Bytes) : State :=
  let t := leAt body 0 1
  let s := s.setFuses (s.sec.fuses.blowLife t)
  (if t = lcRma then s.newReceiptPair else s).secReply f.val 0x35 0 0 []

/-- LIFECYCLE: the command body, and the one authorisation or two that follow it. -/
def execLifecycle (f : Fn) (seq : BitVec 32) (body auth : Bytes) (s : State) : Out :=
  .next (s.secCmd f seq 0x35 (fun s => s.lifeCheck (body ++ auth)) (some (.lifecycle f (body ++ auth))) (fun s => s.lifeWork f (body ++ auth)))

/-! ### RECEIPT_ROTATE and CERT_READ (R402, R413) -/

/-- The new pair is made and written. -/
def State.rotateWork (s : State) (f : Fn) : State := s.newReceiptPair.secReply f.val 0x36 0 0 []

/-- RECEIPT_ROTATE; while nothing is signed the pair cannot be certified, and the answer is BUSY. -/
def execReceiptRotate (f : Fn) (seq : BitVec 32) (s : State) : Out :=
  .next (s.secCmd f seq 0x36 (fun s => if s.signs then (0, 0) else (3, 0)) (some (.receiptRotate f))
    (fun s => s.rotateWork f))

/-- A certificate chain of CERT_READ. -/
def State.chain (s : State) (c : Nat) : Bytes := if c < 2 then Config.identChain c else Config.receiptChain s.led.keyGen (c - 2)

/-- CERT_READ: up to 2,040 bytes of a chain from an offset. -/
def execCertRead (f : Fn) (seq : BitVec 32) (body : Bytes) (s : State) : Out :=
  .next (s.secCmd f seq 0x37 (fun _ => if body.length ≠ 8 ∨ 3 < leAt body 0 1 ∨ !zeroAt body 1 3 then (1, 0) else (0, 0)) none
    (fun s => s.secReply f.val 0x37 0 0 (((s.chain (leAt body 0 1)).drop (leAt body 4 4)).take 2040)))

/-! ### BUNDLE_LOAD (R411) -/

/-- The bundle from host memory is applied, or the gate opens with none. -/
def State.loadWork (s : State) (f : Fn) (body : Bytes) (bundle : FlashImage) : State :=
  let len := leAt body 8 8
  if len = 0 then
    let s := s.set .secBootStaBundle 0 0
    (if s.gateReady then s.openGate else s).secReply f.val 0x38 0 0 []
  else
    let code := s.manifestCode 2 len bundle
    match manifestOf bundle len with
    | none => s.secReply f.val 0x38 6 code []
    | some m =>
      if code ≠ 0 then s.secReply f.val 0x38 6 code []
      else if !partsMatch bundle m then s.secReply f.val 0x38 6 sdHash []
      else
        let x := s.applyBundle bundle m
        if x.2 then (x.1.tookBundle m).secReply f.val 0x38 0 0 [] else (s.undoBundle x.1).secReply f.val 0x38 6 0 []

/-- BUNDLE_LOAD, answered STATE unless the boot waits for a bundle; `bundle` is what host memory holds. -/
def execBundleLoad (f : Fn) (seq : BitVec 32) (body : Bytes) (bundle : FlashImage) (s : State) : Out :=
  .next (s.secCmd f seq 0x38
    (fun s => if body.length ≠ 16 then (1, 0) else if s.get .secBootStaBundle ≠ 2 then (5, 0) else (0, 0)) none
    (fun s => s.loadWork f body bundle))

/-! ### Held work (R477, R478) -/

/-- A piece of held work is done. -/
def State.doWork (s : State) : HeldWork → State
  | .counterLog => s.logCounters
  | .imageStage f body image => s.stageWork f body image
  | .versionRaise f body => s.raiseWork f body
  | .keyRevoke f body => s.revokeWork f body
  | .ownerAdd f body => s.ownerWork f body
  | .lifecycle f body => s.lifeWork f body
  | .receiptRotate f => s.rotateWork f
  | .recovCommit image => s.recovWrite image
  | .prefer slot => s.prefer slot

/-- Held work that may start now is done in the order it was requested; the rest stays held. -/
def State.runHeld (s : State) : State :=
  (s.sec.held).foldl (fun s w => if s.mustWait w then s.hold w else s.doWork w) (s.setSec { s.sec with held := [] })

end Sys2Proof.Machine
end

