-- ==== Sys2Proof/Machine/Power.lean ====
section
/-! DEFINITION. Power, reset and clocks: power-good, supply warnings, the reset level, and the reference inputs (chapter 20). -/

namespace Sys2Proof.Machine

/-! ### Rails (R473) -/

/-- A rail's nominal, warning, clear and reset levels in tenths of a millivolt. -/
structure RailLevels where
  nominal : Nat
  warning : Nat
  clear : Nat
  reset : Nat
  deriving DecidableEq, Repr

/-- The levels of rails 0 to 7, and of VDD_FUSE, which has no reset level. -/
def railLevels (i : Nat) : RailLevels :=
  match i with
  | 0 => ⟨7500, 6975, 7050, 6600⟩
  | 1 | 2 | 5 => ⟨8500, 7905, 7990, 7480⟩
  | 3 => ⟨12000, 11160, 11280, 10560⟩
  | 4 => ⟨11000, 10230, 10340, 9680⟩
  | 6 => ⟨18000, 16740, 16920, 15840⟩
  | 7 => ⟨8000, 7440, 7520, 7040⟩
  | _ => ⟨18000, 16740, 16920, 0⟩

/-- A rail's voltage is measured. -/
def State.measureRail (s : State) (i mv : Nat) : State :=
  (s.set .sysRailMv i mv).set .sysRailMinMv i (min mv (s.get .sysRailMinMv i))

/-- Is the warning status of rail `i` set? -/
def State.railWarn (s : State) (i : Nat) : Bool := bitOf (s.get .sysSupplyStaWarn) i

/-- Set or clear the bit of rail `i` in a field of SYS_SUPPLY_STA. -/
def State.setRailBit (s : State) (f : Fld) (i : Nat) (b : Bool) : State :=
  s.set f 0 (if b then s.get f ||| 2 ^ i else s.get f - 2 ^ i * bit (bitOf (s.get f) i))

/-- The SUPPLY_WARN record of a rail of groups 1 to 3; VDD_FUSE writes none (R477, R478). -/
def State.recSupply (s : State) (i : Nat) (start : Bool) : State :=
  if i < 8 then s.cairnRec .supplyWarn none [BitVec.ofNat 8 i, BitVec.ofNat 8 (bit start)] else s

/-- A rail falls below its warning level: its warning status is set. -/
def State.railFalls (s : State) (i mv : Nat) : State :=
  if 10 * mv < (railLevels i).warning then
    let s := (s.measureRail i mv).setRailBit .sysSupplyStaBelow i true
    if s.railWarn i then s
    else ((((s.setRailBit .sysSupplyStaWarn i true).bump .sysRailWarns i).recSupply i true)).noteTqw
  else s

/-- A rail has stayed above its clear level for 1 ms: its warning status clears, and held work that may go starts. -/
def State.railClears (s : State) (i mv : Nat) : State :=
  if (railLevels i).clear < 10 * mv then
    let s := (s.measureRail i mv).setRailBit .sysSupplyStaBelow i false
    if s.railWarn i then ((s.noteTqw.setRailBit .sysSupplyStaWarn i false).recSupply i false).runHeld else s
  else s

/-- SUPPLY_WARN: a rail of groups 1 to 3 (R477). -/
def execSupplyWarn (rail : Fin 8) (mv : BitVec 16) (s : State) : Out := .next (s.railFalls rail.val mv.toNat)

/-- SUPPLY_WARN_CLEAR (R477). -/
def execSupplyWarnClear (rail : Fin 8) (mv : BitVec 16) (s : State) : Out := .next (s.railClears rail.val mv.toNat)

/-- VDD_FUSE_WARN: holds fuse blows only (R478). -/
def execVddFuseWarn (mv : BitVec 16) (s : State) : Out := .next (s.railFalls 8 mv.toNat)

/-- VDD_FUSE_WARN_CLEAR (R478). -/
def execVddFuseWarnClear (mv : BitVec 16) (s : State) : Out := .next (s.railClears 8 mv.toNat)

/-- Is a voltage below a rail's reset level, or above 110 % of nominal? -/
def railLow (i mv : Nat) : Bool := decide (10 * mv < (railLevels i).reset)
def railHigh (i mv : Nat) : Bool := decide (11 * (railLevels i).nominal < 100 * mv)

/-- RAIL_GLITCH: a fall below the reset level, or a rise above 110 %, raises the voltage-glitch alarm (R307, R479). -/
def execRailGlitch (rail : Fin 8) (mv : BitVec 16) (s : State) : Out :=
  if railLow rail.val mv.toNat || railHigh rail.val mv.toNat then .next ((s.measureRail rail.val mv.toNat).alarm 1) else .next s

/-- RAIL_RESET: a rail stays below its reset level for 2 µs (R475, R479). -/
def execRailReset (rail : Fin 8) (mv : BitVec 16) (s : State) : Out :=
  .next (if railLow rail.val mv.toNat then s.powerReset 3 rail.val else s)

/-! ### Resets and power-good (R476, R480, R482) -/

/-- SYS_RST_N_ASSERT: low for `ns`; shorter than 1 µs is ignored (R480). -/
def execSysRstNAssert (ns : Nat) (s : State) : Out := .next (if 1000 ≤ ns then s.powerReset 1 0xFF else s)

/-- What the monitors measure at power-good: rails and references the spec gives no values for show free values; REFCLK_SYS is good. -/
def State.firstMeasure (s : State) : State :=
  let t := (List.range 9).foldl (fun t i =>
    let mv := (s.free i).toNat % 65536
    (t.set .sysRailMv i mv).set .sysRailMinMv i mv) s
  let g := (s.free 9).toNat
  let t := ((t.set .sysClkStaXtal 0 g).set .sysClkStaSdsRef 0 (g / 2)).set .sysClkStaPcieRef 0 (g / 32)
  (t.set .sysClkStaSysRef 0 1).useFree 10

/-- POWER_GOOD: the straps INDEP and KWMODE are as sampled, the lifecycle is read, SEC_NONCE is fresh and boot can begin; a reset by PERST# is held as
long as PERST# is (R476, R482, R489). -/
def execPowerGood (indep kwmode : Bool) (s : State) : Out :=
  if s.sec.good || (s.host.perst && s.get .sysRstStaCause == 2) then .next s
  else
    let s := s.setSec { s.sec with good := true, lifecycle := s.sec.fuses.lifecycle }
    let s := ((s.set .sysRstStaIndep 0 (bit indep)).set .sysModeKwStrap 0 (bit kwmode)).set .sysModeKwRegs 0 (bit kwmode)
    .next s.firstMeasure.freshNonce.showSec

/-! ### Reference inputs (R483, R484) -/

/-- The CLK_LOSS record's code of an input. -/
def ClkInput.code : ClkInput → Nat
  | .pcieRef => 0
  | .sysRef => 1
  | .sdsRef k => 2 + k.val
  | .xtal => 6

/-- Show an input as good or lost in SYS_CLK_STA. -/
def State.showClk (s : State) (c : ClkInput) (good : Bool) : State :=
  match c with
  | .pcieRef => s.set .sysClkStaPcieRef 0 (bit good)
  | .sysRef => s.set .sysClkStaSysRef 0 (bit good)
  | .sdsRef k =>
    let v := s.get .sysClkStaSdsRef
    s.set .sysClkStaSdsRef 0 (if good then v ||| 2 ^ k.val else v - 2 ^ k.val * bit (bitOf v k.val))
  | .xtal => s.set .sysClkStaXtal 0 (bit good)

/-- The record of a loss or a return. -/
def State.recClk (s : State) (c : ClkInput) (lost : Bool) : State :=
  s.cairnRec .clkLoss none [BitVec.ofNat 8 (Sys2Proof.Machine.ClkInput.code c), BitVec.ofNat 8 (bit lost)]

/-- CLK_LOSS: the loss is counted and recorded.  The core PLLs switch to a PCIE_REFCLK that measured fit, or hold; the AON clock
switches to its oscillator; a lost PCIE_REFCLK is a host loss (R330, R484). -/
def execClkLoss (input : ClkInput) (pcieFit : Bool) (s : State) : Out :=
  let s := ((s.bump .sysClkLossLosses).recClk input true).showClk input false
  match input with
  | .pcieRef => execHostLoss s
  | .sysRef => .next ((s.set .sysClkStaCoreAlt 0 (bit pcieFit)).set .sysClkStaCoreHold 0 (bit (!pcieFit)))
  | .sdsRef _ => .next s
  | .xtal => .next (s.set .sysClkStaAonRc 0 1)

/-- CLK_REGAINED: each PLL returns to its own reference (R484). -/
def execClkRegained (input : ClkInput) (s : State) : Out :=
  let s := (s.recClk input false).showClk input true
  match input with
  | .sysRef => .next ((s.set .sysClkStaCoreAlt 0 0).set .sysClkStaCoreHold 0 0)
  | .xtal => .next (s.set .sysClkStaAonRc 0 0)
  | _ => .next s

end Sys2Proof.Machine
end

