-- ==== Sys2Proof/Machine/SpdmOps.lean ====
section
/-! DEFINITION. SPDM 1.2 messages of PF0's DOE responder (R316, R317).  The message layouts are those of DMTF DSP0274 1.2, which the
spec names as the protocol (PRESUMED, assumption 48). -/

namespace Sys2Proof.Machine

/-- Is a request to the DOE instance answered: the link is up and configuration requests are answered normally (R319, R328)? -/
def State.doeOk (s : State) : Bool := s.is .hostLinkStaUp && s.cfgReady

/-- Update the responder. -/
def State.setSpdm (s : State) (d : Spdm) : State := { s with host := { s.host with spdm := d } }

/-- Send a response. -/
def State.spdmSend (s : State) (b : Bytes) : State := s.emit (.spdm b)

/-- An ERROR response. -/
def spdmError (code : Nat) : Bytes := [0x12, 0x7F, BitVec.ofNat 8 code, 0]

/-- ERROR codes used. -/
def seInvalid : Nat := 1
def seBusy : Nat := 3
def seUnexpected : Nat := 4
def seVersion : Nat := 0x41

/-- A request arrives: what a signed response covered is kept only until then (R317).  `h` answers a request of the version settled. -/
def State.spdmRequest (s : State) (req : Bytes) (h : State → Option Bytes → State) : State :=
  if !s.doeOk then s
  else
    let prev := s.host.spdm.signed
    let s := s.setSpdm { s.host.spdm with signed := none }
    if leAt req 0 1 ≠ 0x12 then s.spdmSend (spdmError seVersion) else h s prev

/-- VERSION: 1.2 alone. -/
def spdmVersion : Bytes := [0x10, 0x04, 0, 0, 0, 1, 0x00, 0x12]

/-- CAPABILITIES: CERT_CAP, CHAL_CAP, MEAS_CAP with signature, MEAS_FRESH_CAP. -/
def spdmCaps : Bytes :=
  [0x12, 0x61, 0, 0, 0, Config.spdmCt, 0, 0] ++ leBytes 0x36 4 ++ leBytes Config.spdmXfer.toNat 4 ++ leBytes Config.spdmMax.toNat 4

/-- ALGORITHMS: of what the requester offers, RSAPSS_3072 and SHA_384, with SHA_384 for measurements. -/
def spdmAlgs (req : Bytes) : Bytes :=
  let asym := leAt req 8 4 &&& 0x8
  let hash := leAt req 12 4 &&& 0x2
  let spec := leAt req 6 1 &&& 1
  [0x12, 0x63, 0, 0] ++ leBytes 36 2 ++ leBytes spec 1 ++ [0] ++ leBytes (if spec = 1 then 4 else 0) 4 ++ leBytes asym 4 ++
  leBytes hash 4 ++ List.replicate 16 0

/-- The 100 bytes before the digest that a signature covers. -/
def spdmPrefix (ctx : List (BitVec 8)) : Bytes :=
  let v : Bytes := [0x64, 0x6D, 0x74, 0x66, 0x2D, 0x73, 0x70, 0x64, 0x6D, 0x2D, 0x76, 0x31, 0x2E, 0x32, 0x2E, 0x2A]
  v ++ v ++ v ++ v ++ List.replicate (36 - ctx.length) 0 ++ ctx

/-- The contexts "responder-challenge_auth signing" and "responder-measurements signing". -/
def ctxResponder : Bytes := [0x72, 0x65, 0x73, 0x70, 0x6F, 0x6E, 0x64, 0x65, 0x72, 0x2D]
def ctxSigning : Bytes := [0x20, 0x73, 0x69, 0x67, 0x6E, 0x69, 0x6E, 0x67]
def ctxChallenge : Bytes :=
  ctxResponder ++ [0x63, 0x68, 0x61, 0x6C, 0x6C, 0x65, 0x6E, 0x67, 0x65, 0x5F, 0x61, 0x75, 0x74, 0x68] ++ ctxSigning
def ctxMeasure : Bytes :=
  ctxResponder ++ [0x6D, 0x65, 0x61, 0x73, 0x75, 0x72, 0x65, 0x6D, 0x65, 0x6E, 0x74, 0x73] ++ ctxSigning

/-- The data a signature over a transcript covers. -/
def spdmSigned (ctx transcript : Bytes) : Bytes := spdmPrefix ctx ++ sha384 transcript

/-- A fresh responder nonce, 32 bytes. -/
def State.nonce (s : State) : Bytes := s.freeBytes 0 4

/-- The RSA identity signature, 384 bytes; its salt is six free words after the four of a nonce. -/
def State.identRsa (s : State) (m : Bytes) : Bytes :=
  rsaSignBy none (s.freeBytes 4 6) m

/-- One DMTF measurement block: a digest, or raw bytes for block 4. -/
def State.spdmBlock (s : State) (i : Nat) : Bytes :=
  let v := s.measBlock i
  let raw := if i = 4 then 128 else 0
  leBytes i 1 ++ [1] ++ leBytes (v.length + 3) 2 ++ leBytes (raw + (Config.spdmType i).toNat) 1 ++ leBytes v.length 2 ++ v

/-- A vendor-defined response of the PCI-SIG standard. -/
def spdmVendor (payload : Bytes) : Bytes :=
  [0x12, 0x7E, 0, 0, 3, 0, 2] ++ leBytes Config.pciVendor.toNat 2 ++ leBytes payload.length 2 ++ payload

/-- Is a request a vendor-defined one of PCI-SIG and Holtoimund whose payload begins with `b` (R317)? -/
def spdmVendorReq (req : Bytes) (b : Nat) : Bool :=
  leAt req 1 1 == 0xFE && leAt req 4 2 == 3 && leAt req 6 1 == 2 && leAt req 7 2 == Config.pciVendor.toNat && leAt req 11 1 == b

end Sys2Proof.Machine
end

