-- ==== Sys2Proof/Machine/Spdm.lean ====
section
/-! DEFINITION. The SPDM requests of PF0's DOE responder and their answers (R316, R317). -/

namespace Sys2Proof.Machine

/-- GET_VERSION: begins the exchange anew; answered with version 1.2. -/
def execGetVersion (req : Bytes) (s : State) : Out :=
  if !s.doeOk then .next s
  else
    let d : Spdm := { version := true, vca := req ++ spdmVersion }
    .next ((s.setSpdm d).spdmSend spdmVersion)

/-- GET_CAPABILITIES. -/
def execGetCapabilities (req : Bytes) (s : State) : Out :=
  .next (s.spdmRequest req (fun s _ =>
    let d := s.host.spdm
    if d.version && !d.caps then
      (s.setSpdm { d with caps := true, vca := d.vca ++ req ++ spdmCaps }).spdmSend spdmCaps
    else s.spdmSend (spdmError seUnexpected)))

/-- NEGOTIATE_ALGORITHMS. -/
def execNegotiateAlgorithms (req : Bytes) (s : State) : Out :=
  .next (s.spdmRequest req (fun s _ =>
    let d := s.host.spdm
    if d.caps && !d.algs then
      let a := spdmAlgs req
      (s.setSpdm { d with algs := true, vca := d.vca ++ req ++ a }).spdmSend a
    else s.spdmSend (spdmError seUnexpected)))

/-- GET_DIGESTS: the digest of the chain in slot 0. -/
def execGetDigests (req : Bytes) (s : State) : Out :=
  .next (s.spdmRequest req (fun s _ =>
    let d := s.host.spdm
    if d.algs then
      let a := [0x12#8, 0x01, 0, 1] ++ sha384 (Config.identChain 0)
      (s.setSpdm { d with digests := d.digests ++ req ++ a, meas := [] }).spdmSend a
    else s.spdmSend (spdmError seUnexpected)))

/-- GET_CERTIFICATE: a part of the chain in slot 0. -/
def execGetCertificate (req : Bytes) (s : State) : Out :=
  .next (s.spdmRequest req (fun s _ =>
    let d := s.host.spdm
    let c := Config.identChain 0
    let off := leAt req 4 2
    if !d.algs then s.spdmSend (spdmError seUnexpected)
    else if leAt req 2 1 % 16 ≠ 0 ∨ c.length ≤ off then s.spdmSend (spdmError seInvalid)
    else
      let n := min (leAt req 6 2) (c.length - off)
      let a := [0x12#8, 0x02, 0, 0] ++ leBytes n 2 ++ leBytes (c.length - off - n) 2 ++ sliceB c off n
      (s.setSpdm { d with digests := d.digests ++ req ++ a, meas := [] }).spdmSend a))

/-- CHALLENGE: a CHALLENGE_AUTH signed with the RSA identity key; Busy while an alarm has erased the keys (R416). -/
def execChallenge (req : Bytes) (s : State) : Out :=
  .next (s.spdmRequest req (fun s _ =>
    let d := s.host.spdm
    if !d.algs then s.spdmSend (spdmError seUnexpected)
    else if leAt req 2 1 ≠ 0 then s.spdmSend (spdmError seInvalid)
    else if !s.signs then s.spdmSend (spdmError seBusy)
    else
      let all := (List.range 5).flatMap (fun i => s.spdmBlock (i + 1))
      let sum := if leAt req 3 1 = 0 then [] else if leAt req 3 1 = 1 then sha384 (s.spdmBlock 1) else sha384 all
      let a := [0x12#8, 0x03, 0, 1] ++ sha384 (Config.identChain 0) ++ s.nonce ++ sum ++ [0, 0]
      let m := spdmSigned ctxChallenge (d.vca ++ d.digests ++ req ++ a)
      let r := a ++ s.identRsa m
      ((s.setSpdm { d with digests := [], meas := [], signed := some m }).useFree 10).spdmSend r))

/-- GET_MEASUREMENTS: the number of blocks, one block or all five, signed if asked. -/
def execGetMeasurements (req : Bytes) (s : State) : Out :=
  .next (s.spdmRequest req (fun s _ =>
    let d := s.host.spdm
    let sign := bitOf (leAt req 2 1) 0
    let op := leAt req 3 1
    let ids := if op = 0 then [] else if op = 0xFF then [1, 2, 3, 4, 5] else [op]
    if !d.algs then s.spdmSend (spdmError seUnexpected)
    else if ids.any (fun i => decide (5 < i)) ∨ (sign ∧ leAt req 36 1 % 16 ≠ 0) then s.spdmSend (spdmError seInvalid)
    else if sign && !s.signs then s.spdmSend (spdmError seBusy)
    else
      let bl := ids.flatMap (fun i => s.spdmBlock i)
      let a := [0x12#8, 0x60] ++ leBytes (if op = 0 then 5 else 0) 1 ++ [0] ++ leBytes ids.length 1 ++ leBytes bl.length 3 ++ bl ++
        s.nonce ++ [0, 0]
      if sign then
        let m := spdmSigned ctxMeasure (d.vca ++ d.meas ++ req ++ a)
        let r := a ++ s.identRsa m
        ((s.setSpdm { d with meas := [], signed := some m }).useFree 10).spdmSend r
      else ((s.setSpdm { d with meas := d.meas ++ req ++ a }).useFree 4).spdmSend a))

/-- SLH_SIG: the SLH-DSA signature over what the signature of the immediately preceding response covered (R317). -/
def execSlhSig (req : Bytes) (s : State) : Out :=
  .next (s.spdmRequest req (fun s prev =>
    if !spdmVendorReq req 1 then s.spdmSend (spdmError seInvalid)
    else match prev with
      | none => s.spdmSend (spdmError seUnexpected)
      | some m =>
        if !s.signs then s.spdmSend (spdmError seBusy)
        else (s.useFree 3).spdmSend (spdmVendor (slhSignBy none (s.freeBytes 0 3) m))))

/-- SLH_CERT: a part of the SLH-DSA certificate chain (R317). -/
def execSlhCert (req : Bytes) (s : State) : Out :=
  .next (s.spdmRequest req (fun s _ =>
    let c := Config.identChain 1
    let off := beAt req 12 4
    let n := beAt req 16 4
    if !spdmVendorReq req 2 ∨ 65536 < n ∨ c.length < off then s.spdmSend (spdmError seInvalid)
    else s.spdmSend (spdmVendor (sliceB c off (min n (c.length - off))))))

end Sys2Proof.Machine
end

