-- ==== Sys2Proof/Machine/SpurAlu.lean ====
section
/-! DEFINITION. Integer instructions of Spur: ALU, SHIFT, CMP, the immediate forms, moves, bit fields and CRC (R168). -/

namespace Sys2Proof.Machine

/-- ALU_ADD. -/
def execAluAdd (x : Ctx) (gd ga gb : GReg) (s : State) : Out := .next (s.issue3 x 0x00 1 gd ga gb (fun a b => a + b))
/-- ALU_SUB. -/
def execAluSub (x : Ctx) (gd ga gb : GReg) (s : State) : Out := .next (s.issue3 x 0x00 2 gd ga gb (fun a b => a - b))
/-- ALU_AND. -/
def execAluAnd (x : Ctx) (gd ga gb : GReg) (s : State) : Out := .next (s.issue3 x 0x00 3 gd ga gb (fun a b => a &&& b))
/-- ALU_OR. -/
def execAluOr (x : Ctx) (gd ga gb : GReg) (s : State) : Out := .next (s.issue3 x 0x00 4 gd ga gb (fun a b => a ||| b))
/-- ALU_XOR. -/
def execAluXor (x : Ctx) (gd ga gb : GReg) (s : State) : Out := .next (s.issue3 x 0x00 5 gd ga gb (fun a b => a ^^^ b))
/-- ALU_ANDN. -/
def execAluAndn (x : Ctx) (gd ga gb : GReg) (s : State) : Out := .next (s.issue3 x 0x00 6 gd ga gb (fun a b => a &&& ~~~b))
/-- ALU_MUL. -/
def execAluMul (x : Ctx) (gd ga gb : GReg) (s : State) : Out := .next (s.issue3 x 0x00 7 gd ga gb (fun a b => a * b))
/-- ALU_MULHU. -/
def execAluMulhu (x : Ctx) (gd ga gb : GReg) (s : State) : Out := .next (s.issue3 x 0x00 8 gd ga gb (fun a b => mulHU a b))
/-- ALU_MINU. -/
def execAluMinu (x : Ctx) (gd ga gb : GReg) (s : State) : Out := .next (s.issue3 x 0x00 9 gd ga gb (fun a b => minU a b))
/-- ALU_MAXU. -/
def execAluMaxu (x : Ctx) (gd ga gb : GReg) (s : State) : Out := .next (s.issue3 x 0x00 10 gd ga gb (fun a b => maxU a b))
/-- ALU_MINS. -/
def execAluMins (x : Ctx) (gd ga gb : GReg) (s : State) : Out := .next (s.issue3 x 0x00 11 gd ga gb (fun a b => minS a b))
/-- ALU_MAXS. -/
def execAluMaxs (x : Ctx) (gd ga gb : GReg) (s : State) : Out := .next (s.issue3 x 0x00 12 gd ga gb (fun a b => maxS a b))
/-- ALU_POPC: ga only; gb must be 0. -/
def execAluPopc (x : Ctx) (gd ga gb : GReg) (s : State) : Out := .next (s.issue2 x 0x00 13 gd ga gb popCount)
/-- ALU_CLZ: ga only; gb must be 0. -/
def execAluClz (x : Ctx) (gd ga gb : GReg) (s : State) : Out := .next (s.issue2 x 0x00 14 gd ga gb clz)
/-- ALU_CTZ: ga only; gb must be 0. -/
def execAluCtz (x : Ctx) (gd ga gb : GReg) (s : State) : Out := .next (s.issue2 x 0x00 15 gd ga gb ctz)
/-- ALU_BSWAP: ga only; gb must be 0. -/
def execAluBswap (x : Ctx) (gd ga gb : GReg) (s : State) : Out := .next (s.issue2 x 0x00 16 gd ga gb bswap)
/-- SHIFT_SLL: by gb[5:0]. -/
def execShiftSll (x : Ctx) (gd ga gb : GReg) (s : State) : Out :=
  .next (s.issue3 x 0x01 1 gd ga gb (fun a b => shiftBy 1 a (shAmt b)))
/-- SHIFT_SRL: by gb[5:0]. -/
def execShiftSrl (x : Ctx) (gd ga gb : GReg) (s : State) : Out :=
  .next (s.issue3 x 0x01 2 gd ga gb (fun a b => shiftBy 2 a (shAmt b)))
/-- SHIFT_SRA: by gb[5:0]. -/
def execShiftSra (x : Ctx) (gd ga gb : GReg) (s : State) : Out :=
  .next (s.issue3 x 0x01 3 gd ga gb (fun a b => shiftBy 3 a (shAmt b)))
/-- SHIFT_ROL: by gb[5:0]. -/
def execShiftRol (x : Ctx) (gd ga gb : GReg) (s : State) : Out :=
  .next (s.issue3 x 0x01 4 gd ga gb (fun a b => shiftBy 4 a (shAmt b)))
/-- SHIFT_ROR: by gb[5:0]. -/
def execShiftRor (x : Ctx) (gd ga gb : GReg) (s : State) : Out :=
  .next (s.issue3 x 0x01 5 gd ga gb (fun a b => shiftBy 5 a (shAmt b)))
/-- CMP_EQ. -/
def execCmpEq (x : Ctx) (gd ga gb : GReg) (s : State) : Out := .next (s.issue3 x 0x02 1 gd ga gb (fun a b => truth (a == b)))
/-- CMP_NE. -/
def execCmpNe (x : Ctx) (gd ga gb : GReg) (s : State) : Out := .next (s.issue3 x 0x02 2 gd ga gb (fun a b => truth (a != b)))
/-- CMP_LTU. -/
def execCmpLtu (x : Ctx) (gd ga gb : GReg) (s : State) : Out := .next (s.issue3 x 0x02 3 gd ga gb (fun a b => truth (a.ult b)))
/-- CMP_LTS. -/
def execCmpLts (x : Ctx) (gd ga gb : GReg) (s : State) : Out := .next (s.issue3 x 0x02 4 gd ga gb (fun a b => truth (a.slt b)))
/-- CMP_LEU. -/
def execCmpLeu (x : Ctx) (gd ga gb : GReg) (s : State) : Out := .next (s.issue3 x 0x02 5 gd ga gb (fun a b => truth (a.ule b)))
/-- CMP_LES. -/
def execCmpLes (x : Ctx) (gd ga gb : GReg) (s : State) : Out := .next (s.issue3 x 0x02 6 gd ga gb (fun a b => truth (a.sle b)))
/-- ADDI. -/
def execAddi (x : Ctx) (gd ga : GReg) (imm : BitVec 16) (s : State) : Out := .next (s.issueI x 3 gd ga imm (fun a i => a + sextI i))
/-- ANDI. -/
def execAndi (x : Ctx) (gd ga : GReg) (imm : BitVec 16) (s : State) : Out := .next (s.issueI x 4 gd ga imm (fun a i => a &&& zextI i))
/-- ORI. -/
def execOri (x : Ctx) (gd ga : GReg) (imm : BitVec 16) (s : State) : Out := .next (s.issueI x 5 gd ga imm (fun a i => a ||| zextI i))
/-- XORI. -/
def execXori (x : Ctx) (gd ga : GReg) (imm : BitVec 16) (s : State) : Out := .next (s.issueI x 6 gd ga imm (fun a i => a ^^^ zextI i))
/-- CEQI. -/
def execCeqi (x : Ctx) (gd ga : GReg) (imm : BitVec 16) (s : State) : Out := .next (s.issueI x 8 gd ga imm (fun a i => truth (a == sextI i)))
/-- CLTUI. -/
def execCltui (x : Ctx) (gd ga : GReg) (imm : BitVec 16) (s : State) : Out := .next (s.issueI x 9 gd ga imm (fun a i => truth (a.ult (zextI i))))
/-- CLTSI. -/
def execCltsi (x : Ctx) (gd ga : GReg) (imm : BitVec 16) (s : State) : Out := .next (s.issueI x 10 gd ga imm (fun a i => truth (a.slt (sextI i))))

/-- SHI: kind `k` 1-5, others reserved. -/
def execShi (x : Ctx) (gd ga : GReg) (k : Fin 8) (n : Fin 64) (s : State) : Out :=
  let w := wGI 0x07 gd.val ga.val (BitVec.ofNat 16 (k.val * 64 + n.val))
  .next (s.issue x w (fun s =>
    if 1 ≤ k.val ∧ k.val ≤ 5 then (s.setGpr x gd (shiftBy k.val (s.gpr x ga) n.val)).retire x else s.illegal x w))

/-- MOVZ. -/
def execMovz (x : Ctx) (gd : GReg) (imm : BitVec 16) (k : Fin 4) (s : State) : Out :=
  .next (s.issue x (wGI 0x0B gd.val k.val imm) (fun s => (s.setGpr x gd (zextI imm <<< (16 * k.val))).retire x))

/-- MOVK. -/
def execMovk (x : Ctx) (gd : GReg) (imm : BitVec 16) (k : Fin 4) (s : State) : Out :=
  .next (s.issue x (wGI 0x0C gd.val k.val imm) (fun s =>
    (s.setGpr x gd (bitInsert (s.gpr x gd) (zextI imm) (16 * k.val) 16)).retire x))

/-- BFX: a field past bit 63 is reserved. -/
def execBfx (x : Ctx) (gd ga : GReg) (pos len1 : Fin 64) (sg : Bool) (s : State) : Out :=
  let w := wBF 0x0D gd.val ga.val pos.val len1.val (bit sg)
  .next (s.issue x w (fun s =>
    if pos.val + len1.val + 1 ≤ 64 then (s.setGpr x gd (bitField (s.gpr x ga) pos.val (len1.val + 1) sg)).retire x
    else s.illegal x w))

/-- BFI: a field past bit 63 is reserved. -/
def execBfi (x : Ctx) (gd ga : GReg) (pos len1 : Fin 64) (s : State) : Out :=
  let w := wBF 0x0E gd.val ga.val pos.val len1.val 0
  .next (s.issue x w (fun s =>
    if pos.val + len1.val + 1 ≤ 64 then
      (s.setGpr x gd (bitInsert (s.gpr x gd) (s.gpr x ga) pos.val (len1.val + 1))).retire x
    else s.illegal x w))

/-- CRC: the reflected register in ga[31:0] advanced over 1, 2, 4 or 8 low bytes of gb, by CRC-32C or IEEE CRC-32. -/
def execCrc (x : Ctx) (gd ga gb : GReg) (w : Fin 4) (p : Bool) (s : State) : Out :=
  .next (s.issue3 x 0x0F (w.val + 4 * bit p) gd ga gb (fun a b =>
    (crcRun (if p then polyEth else polyC) (a.setWidth 32) (leBytes b.toNat (2 ^ w.val))).setWidth 64))

end Sys2Proof.Machine
end

