-- ==== Sys2Proof/Machine/SpurFlow.lean ====
section
/-! DEFINITION. Memory, branch, loop and control-profile instructions of Spur (R171-R174, R182, R185). -/

namespace Sys2Proof.Machine

/-- LDS. -/
def execLds (x : Ctx) (gd ga : GReg) (off : BitVec 16) (s : State) : Out := .next (s.issueLoad x 0x10 gd ga off 8 false)
/-- LDSW. -/
def execLdsw (x : Ctx) (gd ga : GReg) (off : BitVec 16) (s : State) : Out := .next (s.issueLoad x 0x11 gd ga off 4 false)
/-- LDR. -/
def execLdr (x : Ctx) (gd ga : GReg) (off : BitVec 16) (s : State) : Out := .next (s.issueLoad x 0x14 gd ga off 8 true)
/-- STS. -/
def execSts (x : Ctx) (gs ga : GReg) (off : BitVec 16) (s : State) : Out := .next (s.issueStore x 0x12 gs ga off 8 false)
/-- STSW. -/
def execStsw (x : Ctx) (gs ga : GReg) (off : BitVec 16) (s : State) : Out := .next (s.issueStore x 0x13 gs ga off 4 false)
/-- STR. -/
def execStr (x : Ctx) (gs ga : GReg) (off : BitVec 16) (s : State) : Out := .next (s.issueStore x 0x15 gs ga off 8 true)
/-- AMO_FADD. -/
def execAmoFadd (x : Ctx) (gd ga gb : GReg) (s : State) : Out := .next (s.issueAmo x 1 gd ga gb (fun old b => old + b))
/-- AMO_SWAP. -/
def execAmoSwap (x : Ctx) (gd ga gb : GReg) (s : State) : Out := .next (s.issueAmo x 2 gd ga gb (fun _ b => b))
/-- AMO_FOR. -/
def execAmoFor (x : Ctx) (gd ga gb : GReg) (s : State) : Out := .next (s.issueAmo x 3 gd ga gb (fun old b => old ||| b))
/-- AMO_FAND. -/
def execAmoFand (x : Ctx) (gd ga gb : GReg) (s : State) : Out := .next (s.issueAmo x 4 gd ga gb (fun old b => old &&& b))

/-! ### Branches and the counted loop (R173, R174) -/

/-- The index `off` away from the present one; below 0 it wraps as the 64-bit byte address does. -/
def State.indexAt (s : State) (x : Ctx) (off : Int) : Nat := ((((s.thr (ctxKey x)).index : Int) + off) % (2 ^ 62 : Int)).toNat

/-- A branch by `off`, taken or not: in the data profile an offset below 1 is ILLEGAL in either case (R173). -/
def State.branchIf (s : State) (x : Ctx) (w : BitVec 32) (off : Int) (taken : Bool) : State :=
  if !isCc (ctxKey x) && decide (off < 1) then s.illegal x w
  else if taken then s.branchTo x (s.indexAt x off) else s.retire x

/-- BEQ. -/
def execBeq (x : Ctx) (ga gb : GReg) (off : BitVec 16) (s : State) : Out :=
  let w := wGI 0x18 ga.val gb.val off
  .next (s.issue x w (fun s => s.branchIf x w off.toInt (s.gpr x ga == s.gpr x gb)))
/-- BNE. -/
def execBne (x : Ctx) (ga gb : GReg) (off : BitVec 16) (s : State) : Out :=
  let w := wGI 0x19 ga.val gb.val off
  .next (s.issue x w (fun s => s.branchIf x w off.toInt (s.gpr x ga != s.gpr x gb)))
/-- BR. -/
def execBr (x : Ctx) (off : BitVec 26) (s : State) : Out :=
  let w := wBL 0x1A off
  .next (s.issue x w (fun s => s.branchIf x w off.toInt true))

/-- May a LOOP whose body is `[first, stop)` issue: at most two deep, inside the innermost body that contains it, inside the code
(R174)? -/
def State.loopOk (s : State) (x : Ctx) (stop : Nat) : Bool :=
  let t := s.thr (ctxKey x)
  decide (t.loops.length < 2) && t.loops.all (fun l => decide (stop ≤ l.stop)) &&
  (match s.imageOf (ctxKey x) with
   | some i => decide (stop ≤ i.codeLen)
   | none => match x with
     | .cc k => decide (stop ≤ Config.ccCodeLen k.val)
     | _ => false)

/-- LOOP: runs the next `len` instructions min(ga, max) times; a count of 0 skips the body, whose skipping settles the loops that
end there (R174). -/
def execLoop (x : Ctx) (ga : GReg) (max : Fin 2048) (len : Fin 1024) (s : State) : Out :=
  let w := wLoop ga.val max.val len.val
  .next (s.issue x w (fun s =>
    let t := s.thr (ctxKey x)
    let first := t.index + 1
    let stop := first + len.val
    if max.val = 0 ∨ len.val = 0 ∨ !s.loopOk x stop then s.illegal x w
    else
      let n := min (s.gpr x ga).toNat max.val
      if n = 0 then
        let r := settleLoops t.loops stop
        s.goto (ctxKey x) r.1 r.2
      else s.goto (ctxKey x) ({ first := first, stop := stop, left := n - 1 } :: t.loops) first))

/-! ### Control profile (R172, R182, R185) -/

/-- A system register. -/
def State.sysReg (s : State) (x : Ctx) (n : Nat) : BitVec 64 :=
  if n = 7 then BitVec.ofNat 64 (ctxKey x - 8192) else SMap.getD (s.thr (ctxKey x)).sys n 0

/-- Write a system register: STATUS holds its two bits; CORE_ID is read only, a write to it being discarded (assumption 27). -/
def State.setSys (s : State) (x : Ctx) (n : Nat) (v : BitVec 64) : State :=
  if n = 7 then s
  else s.modThr (ctxKey x) (fun t => { t with sys := SMap.setD t.sys n (if n = 4 then v &&& 3 else v) 0 })

/-- CALL: g31 takes the byte address of the next instruction. -/
def execCall (x : Ctx) (off : BitVec 26) (s : State) : Out :=
  .next (s.issue x (wBL 0x30 off) (fun s =>
    (s.setGpr x 31 (BitVec.ofNat 64 (4 * ((s.thr (ctxKey x)).index + 1)))).branchTo x (s.indexAt x off.toInt)))

/-- JR: a byte address not a multiple of 4 traps with ALIGN. -/
def execJr (x : Ctx) (ga : GReg) (s : State) : Out :=
  .next (s.issue x (wGI 0x31 0 ga.val 0) (fun s =>
    let a := s.gpr x ga
    if a.toNat % 4 = 0 then s.branchTo x (a.toNat / 4) else s.faultAt x cMem 4 a))

/-- MFS: a reserved number traps with ILLEGAL. -/
def execMfs (x : Ctx) (gd : GReg) (sr : BitVec 16) (s : State) : Out :=
  let w := wGI 0x32 gd.val 0 sr
  .next (s.issue x w (fun s =>
    if sr.toNat ≤ 7 then (s.setGpr x gd (s.sysReg x sr.toNat)).retire x else s.illegal x w))

/-- MTS: a reserved number traps with ILLEGAL. -/
def execMts (x : Ctx) (ga : GReg) (sr : BitVec 16) (s : State) : Out :=
  let w := wGI 0x33 0 ga.val sr
  .next (s.issue x w (fun s =>
    if sr.toNat ≤ 7 then (s.setSys x sr.toNat (s.gpr x ga)).retire x else s.illegal x w))

/-- TLB_INVALIDATE_VA: translations are not cached in the model (assumption 28), so it only retires. -/
def execTlbInvalidateVa (x : Ctx) (ga : GReg) (s : State) : Out := .next (s.issue x (wG3 0x34 0 ga.val 0 1) (fun s => s.retire x))
/-- TLB_INVALIDATE_ASID: as TLB_INVALIDATE_VA (assumption 28), so it only retires. -/
def execTlbInvalidateAsid (x : Ctx) (ga : GReg) (s : State) : Out := .next (s.issue x (wG3 0x34 0 ga.val 0 2) (fun s => s.retire x))
/-- TLB_INVALIDATE_ALL: as TLB_INVALIDATE_VA (assumption 28), so it only retires. -/
def execTlbInvalidateAll (x : Ctx) (ga : GReg) (s : State) : Out := .next (s.issue x (wG3 0x34 0 ga.val 0 3) (fun s => s.retire x))
/-- CACHE_CLEAN: the model holds memory without caches (assumption 28), so it only retires. -/
def execCacheClean (x : Ctx) (ga : GReg) (s : State) : Out := .next (s.issue x (wG3 0x35 0 ga.val 0 1) (fun s => s.retire x))
/-- CACHE_INVALIDATE: as CACHE_CLEAN (assumption 28), so it only retires. -/
def execCacheInvalidate (x : Ctx) (ga : GReg) (s : State) : Out := .next (s.issue x (wG3 0x35 0 ga.val 0 2) (fun s => s.retire x))
/-- CACHE_CLEAN_INVALIDATE: as CACHE_CLEAN (assumption 28), so it only retires. -/
def execCacheCleanInvalidate (x : Ctx) (ga : GReg) (s : State) : Out := .next (s.issue x (wG3 0x35 0 ga.val 0 3) (fun s => s.retire x))
/-- CACHE_INVALIDATE_INSTRUCTION: as CACHE_CLEAN (assumption 28), so it only retires. -/
def execCacheInvalidateInstruction (x : Ctx) (ga : GReg) (s : State) : Out := .next (s.issue x (wG3 0x35 0 ga.val 0 4) (fun s => s.retire x))

/-- ERET: returns to TRAP_PC, STATUS[0] restored from STATUS[1] (R185). -/
def execEret (x : Ctx) (s : State) : Out :=
  .next (s.issue x (wG3 0x36 0 0 0 1) (fun s =>
    let st := s.sysReg x 4
    (s.setSys x 4 ((st &&& 2) ||| ((st >>> 1) &&& 1))).modThr (ctxKey x)
      (fun t => { t with index := (SMap.getD t.sys 1 0).toNat / 4, loops := [] })))

/-- ENABLE_INTERRUPTS: sets STATUS[0]. -/
def execEnableInterrupts (x : Ctx) (s : State) : Out :=
  .next (s.issue x (wG3 0x36 0 0 0 2) (fun s => (s.setSys x 4 (s.sysReg x 4 ||| 1)).retire x))
/-- DISABLE_INTERRUPTS: clears STATUS[0]. -/
def execDisableInterrupts (x : Ctx) (s : State) : Out :=
  .next (s.issue x (wG3 0x36 0 0 0 3) (fun s => (s.setSys x 4 (s.sysReg x 4 &&& 2)).retire x))
/-- SYSCALL: traps with cause SYSCALL (R185). -/
def execSyscall (x : Ctx) (s : State) : Out :=
  .next (s.issue x (wG3 0x36 0 0 0 4) (fun s => s.faultAt x cIllegal 6 ((wG3 0x36 0 0 0 4).setWidth 64)))
/-- FENCE_MEMORY: instructions act one at a time, so every earlier access is ordered before every later one (R170). -/
def execFenceMemory (x : Ctx) (s : State) : Out := .next (s.issue x (wG3 0x37 0 0 0 1) (fun s => s.retire x))
/-- FENCE_INSTRUCTION: as FENCE_MEMORY, for fetches. -/
def execFenceInstruction (x : Ctx) (s : State) : Out := .next (s.issue x (wG3 0x37 0 0 0 2) (fun s => s.retire x))

/-- BRK: in the data profile halts the thread if the lifecycle permits debug and a debugger has enabled breakpoints on the core,
and otherwise has no effect; in the control profile traps with cause BRK (R156, R182). -/
def execBrk (x : Ctx) (code : BitVec 26) (s : State) : Out :=
  let w := wBL 0x3F code
  .next (s.issue x w (fun s =>
    let k := ctxKey x
    if isCc k then s.faultAt x cIllegal 5 (w.setWidth 64)
    else
      let on := s.is .secLifecycleDebug && (SMap.find s.spur.brkCores (keyCore k)).isSome
      let s := s.retire x
      if on && isThr k && (s.thr k).st == 1 then s.modThr k (fun t => { t with st := 4, back := 1 }) else s))

/-- INTERRUPT: interrupt `n` to control core `k` (R136, R185). -/
def execInterrupt (k : CcInput) (s : State) : Out := .next (s.interrupt k.core.val k.input.val)

end Sys2Proof.Machine
end

