-- ==== Sys2Proof/Machine/Tenants.lean ====
section
/-! DEFINITION. Tenants: creation, freeze and thaw, save and restore, removal (chapter 14).  The mailbox bodies carry their fields in
R359's order, each integer aligned to its width (DEDUCED, assumption 51). -/

namespace Sys2Proof.Machine

/-- Status codes of R360. -/
def msMalformed : Nat := 1
def msDenied : Nat := 2
def msBusy : Nat := 3
def msNoPool : Nat := 4
def msState : Nat := 5
def msRefused : Nat := 6
def msActRefused : Nat := 7
def msBadBlob : Nat := 8
def msShort : Nat := 9
def msShape : Nat := 10

/-- Tenant states of R361. -/
def tsAbsent : Nat := 0
def tsActive : Nat := 1
def tsFreezing : Nat := 2
def tsFrozen : Nat := 3
def tsRestoring : Nat := 4
def tsRemoving : Nat := 5

/-- The status of a command that needs VF `v` absent as a tenant: BUSY while its removal is in progress, else STATE (R361, R368). -/
def State.tenTaken (s : State) (v : Nat) : Nat := if s.tenState v = tsRemoving then msBusy else msState

/-- TENANT_CREATE (R354, R355). -/
def execTenantCreate (f : Fn) (seq : BitVec 32) (body : Bytes) (s : State) : Out :=
  .next (s.submit f.val seq 0x20 true (fun s =>
    let g := parseGrant body
    if grantBad body then s.reply f.val 0x20 msMalformed 0 []
    else if (s.ten? g.vf).isSome then s.reply f.val 0x20 (s.tenTaken g.vf) 0 []
    else match s.grantFail g with
      | some d => s.reply f.val 0x20 msNoPool d []
      | none => (s.makeTen g tsActive 0).reply f.val 0x20 0 0 (leBytes (s.blkInc ⟨.function, g.vf⟩) 2)))

/-- A manager command on tenant `v`: malformed for a number that is no VF or another body length, BUSY while it is being removed
(R368), STATE unless its state is one of `ok` (R361). -/
def State.onTenant (s : State) (f : Nat) (seq : BitVec 32) (cmd len : Nat) (body : Bytes) (ok : List Nat) (h : State → Nat → Tenant → State) :
    State :=
  s.submit f seq cmd true (fun s =>
    let v := leAt body 0 1
    if body.length ≠ len ∨ v = 0 ∨ 127 < v then s.reply f cmd msMalformed 0 []
    else if s.tenState v = tsRemoving then s.reply f cmd msBusy 0 []
    else match s.ten? v with
      | none => s.reply f cmd msState 0 []
      | some t => if ok.contains (s.tenState v) then h s v t else s.reply f cmd msState 0 [])

/-- TENANT_QUERY: the grant, then the state (R359). -/
def execTenantQuery (f : Fn) (seq : BitVec 32) (body : Bytes) (s : State) : Out :=
  .next (s.onTenant f.val seq 0x21 1 body [1, 2, 3, 4] (fun s v t =>
    s.reply f.val 0x21 0 0 (grantBytes t.grant ++ leBytes (s.tenState v) 1)))

/-- TENANT_FREEZE: answered when the tenant is FROZEN (R362). -/
def execTenantFreeze (f : Fn) (seq : BitVec 32) (body : Bytes) (s : State) : Out :=
  .next (s.onTenant f.val seq 0x22 1 body [tsActive] (fun s v t =>
    ((s.putTen v (some { t with awaits := true })).set .hostTenStaState v tsFreezing).set .hostTenStaSaved v 0))

/-- Answer the manager's freeze or removal, if it still waits. -/
def State.answerTen (s : State) (t : Tenant) (cmd : Nat) : State := if t.awaits then s.reply 0 cmd 0 0 [] else s

/-- Has every started entry of a ring of tenant `v` completed, but for what goes on into FROZEN: fabric messages, SENDs they bring in, and
FLUSH_BY_PORT passes (R362)?  A buffer that an export ring is filling waits for records and holds nothing up (DESIGN CHOICE, assumption
160). -/
def State.tenQuiet (s : State) (v : Nat) : Bool :=
  (s.ringsUsed.filter (fun r => s.ringOwner r == v)).all (fun r =>
    let k := s.ringKind r
    k == 3 || k == 5 || k == 8 || (s.ring r).running.all (fun i => (SMap.find s.ing.flushes (r * 4294967296 + i)).isSome))

/-- TENANT_FROZEN: once the tenant is quiescent the freeze is answered (R362). -/
def execTenantFrozen (v : Fin 128) (s : State) : Out :=
  match s.ten? v.val with
  | none => .next s
  | some t =>
    if s.tenState v.val = tsFreezing ∧ s.tenQuiet v.val then
      .next (((s.putTen v.val (some { t with at_ := s.lt, awaits := false })).set .hostTenStaState v.val tsFrozen).answerTen t 0x22)
    else .next s

/-- TENANT_THAW: the rings refetch from H and held interrupts go (R350, R363). -/
def execTenantThaw (f : Fn) (seq : BitVec 32) (body : Bytes) (s : State) : Out :=
  .next (s.onTenant f.val seq 0x23 1 body [tsFrozen] (fun s v _ =>
    let s := s.set .hostTenStaState v tsActive
    let rs := s.ringsOn.filter (fun r => s.ringOwner r == v)
    let s := rs.foldl (fun s r => (s.dropCache r).fetch r) s
    (s.sendPba).reply f.val 0x23 0 0 []))

/-- Is a fabric message or a flush of tenant `v` outstanding (R364)? -/
def State.tenBusy (s : State) (v : Nat) : Bool :=
  s.zoa.msgs.any (fun m => (SMap.find s.zoa.wqs m.2.ctx).any (fun w => w.owner == v)) ||
  s.ing.flushes.any (fun e => s.ringOwner (e.1 / 4294967296) == v)

/-- The migration key that PF0 names by index, if it holds it. -/
def State.migKey (s : State) (k : Nat) : Option Bytes :=
  if s.ownerOf (keyBlk k) = 0 then ((s.keyRec? k).filter (fun r => r.use == 5)).map KeyRec.bytes else none

/-- TENANT_SAVE: vf, key index at 2, host address at 8, buffer length at 16 (R364-R366). -/
def execTenantSave (f : Fn) (seq : BitVec 32) (body : Bytes) (s : State) : Out :=
  .next (s.onTenant f.val seq 0x24 24 body [tsFrozen] (fun s v t =>
    match s.migKey (leAt body 2 2) with
    | none => s.reply f.val 0x24 msDenied 0 []
    | some key =>
      if s.tenBusy v then s.reply f.val 0x24 msBusy 0 []
      else
        let b := s.blob key t
        if leAt body 16 8 < b.length then s.reply f.val 0x24 msShort 0 (leBytes b.length 8)
        else
          let s := (s.hostWrite 0 (leAt body 8 8) b).useFree (b.length / 65536 + 1)
          (s.set .hostTenStaSaved v 1).reply f.val 0x24 0 0 (leBytes b.length 8)))

/-- What a RESTORE does: a status, a detail and a body that refuse it, or the restored state and the number map. -/
def State.restore (s : State) (body blob : Bytes) : (Nat × Nat × Bytes) ⊕ (State × List (Nat × Nat)) :=
  let g := parseGrant (sliceB body 0 128)
  let t := BitVec.ofNat 64 (leAt body 128 8)
  let src := parseGrant (sliceB blob 64 128)
  let m := g.into (sliceB body 176 256)
  if body.length ≠ 432 ∨ grantBad (sliceB body 0 128) then .inl (msMalformed, 0, [])
  else if (s.ten? g.vf).isSome then .inl (s.tenTaken g.vf, 0, [])
  else match s.grantFail g, s.migKey (leAt body 136 2) with
    | some d, _ => .inl (msNoPool, d, [])
    | none, none => .inl (msDenied, 0, [])
    | none, some key =>
      match (if blobOk blob ∧ leAt body 152 8 = blob.length then
          (openSegs key (blob.take 192) (leAt blob 24 8) 0 (leAt blob 16 8) (blob.drop 192)).bind readBody else none) with
      | none => .inl (msBadBlob, 0, [])
      | some b =>
        if leAt body 168 8 < 4 * b.cons.length then .inl (msShort, 0, leBytes (4 * b.cons.length) 8)
        else if !s.shapeOk g src b then .inl (msShape, 0, [])
        else match (s.makeTen g tsRestoring t).restoreTables g m b with
          | none => .inl (msShape, 0, [])
          | some s1 =>
            let s1 := s1.restoreRest g m b
            let imgs := ((b.groups.map (fun x => g.groupFirst + leAt x 0 2)).zip (b.images.map (fun i => if i = [] then i else m.image i))).filter
              (fun e => e.2 != [])
            let act := restoreAct t imgs
            let c := if imgs = [] then (0, s1) else s1.actCheck g.vf act (imgs.map (·.2))
            if c.1 ≠ 0 then .inl (msActRefused, c.1, [])
            else
              let s2 := if imgs = [] then c.2 else (c.2.actPend act).recountAll
              match s2.restoreCons g.vf m t b.cons [] with
              | .inr r => .inl (msRefused, 0, r)
              | .inl x => .inr x

/-- TENANT_RESTORE: grant; at at 128; key index at 136; blob address and length at 144 and 152; map buffer address and length at 160 and
168; port map at 176 (R367).  `blob` is what a read of the blob brings. -/
def execTenantRestore (f : Fn) (seq : BitVec 32) (body blob : Bytes) (s : State) : Out :=
  .next (s.submit f.val seq 0x25 true (fun s =>
    match s.restore body blob with
    | .inl (st, d, r) => s.reply f.val 0x25 st d r
    | .inr (t, map) =>
      let t := t.hostWrite 0 (leAt body 160 8) (map.flatMap (fun e => leBytes e.1 2 ++ leBytes e.2 2))
      t.reply f.val 0x25 0 0 (leBytes map.length 4)))

/-- TENANT_RESTORED: LT reaches at and the tenant is ACTIVE (R361). -/
def execTenantRestored (v : Fin 128) (s : State) : Out :=
  match s.ten? v.val with
  | none => .next s
  | some t =>
    if s.tenState v.val = tsRestoring then .next ((s.advanceTo t.at_).set .hostTenStaState v.val tsActive) else .next s

/-- Every contract of a tenant that is not retiring already is retired at `t`. -/
def State.retireTen (s : State) (v : Nat) (t : BitVec 64) : State :=
  ((s.con.versions.filter (fun e => e.2.any (fun w => w.body.tenant == v))).map (·.1)).foldl (fun s c =>
    if s.conState c = 3 then s else s.endCon c t) s

/-- TENANT_DESTROY: vf, at at 8; every contract of the tenant is retired at `at`, under the TIMING check (R368). -/
def execTenantDestroy (f : Fn) (seq : BitVec 32) (body : Bytes) (s : State) : Out :=
  .next (s.onTenant f.val seq 0x26 16 body [tsActive, tsFrozen] (fun s v t =>
    let at_ := BitVec.ofNat 64 (leAt body 8 8)
    if !s.timingOk at_ then s.reply f.val 0x26 msRefused 0 (conReply 0 0 1 rcTiming 0 0 0 at_)
    else ((s.retireTen v at_).putTen v (some { t with awaits := true, at_ := at_, frozen := s.tenState v == tsFrozen })).set .hostTenStaState v tsRemoving))

/-- TENANT_REMOVED: once its contracts are all in state 0 the tenant's blocks are cleared and returned (R368). -/
def execTenantRemoved (v : Fin 128) (s : State) : Out :=
  match s.ten? v.val with
  | none => .next s
  | some t =>
    if s.tenState v.val = tsRemoving ∧ !s.con.versions.any (fun e => e.2.any (fun w => w.body.tenant == v.val)) then
      let s := ((s.clearTen t.grant).putTen v.val none).set .hostTenStaState v.val tsAbsent
      .next (((s.set .hostTenStaSaved v.val 0).sendPba).answerTen t 0x26)
    else .next s

end Sys2Proof.Machine
end

