-- ==== Sys2Proof/Machine/Dispatch.lean ====
section
/-! DEFINITION. The dispatch of commands: one arm for each, its meaning called by its full name. -/

namespace Sys2Proof.Machine

/-- The effect of a command on everything but the queue. -/
def exec (i : Instr) (s : State) : Host.Outcome State Fault Refusal :=
  match i with
  | .registerWrite path addr size v => Sys2Proof.Machine.execRegisterWrite path addr size v s
  | .sysBlkQuery ref => Sys2Proof.Machine.execSysBlkQuery ref s
  | .sysModeWrite v => Sys2Proof.Machine.execSysModeWrite v s
  | .sysUpdStrobe v => Sys2Proof.Machine.execSysUpdStrobe v s
  | .strobeTick => Sys2Proof.Machine.execStrobeTick s
  | .tmrScan => Sys2Proof.Machine.execTmrScan s
  | .epochBegin => Sys2Proof.Machine.execEpochBegin s
  | .crestSampleAt t => Sys2Proof.Machine.execCrestSampleAt t s
  | .crestSampleOfs theta => Sys2Proof.Machine.execCrestSampleOfs theta s
  | .servoSample => Sys2Proof.Machine.execServoSample s
  | .servoTimeout => Sys2Proof.Machine.execServoTimeout s
  | .crestBankSwap v => Sys2Proof.Machine.execCrestBankSwap v s
  | .replicaTrack rep clock => Sys2Proof.Machine.execReplicaTrack rep clock s
  | .refTimeLost => Sys2Proof.Machine.execRefTimeLost s
  | .refTimeRegained => Sys2Proof.Machine.execRefTimeRegained s
  | .captureEdge ix rising => Sys2Proof.Machine.execCaptureEdge ix rising s
  | .crestCapDataRead ix => Sys2Proof.Machine.execCrestCapDataRead ix s
  | .crestCmpArm k target => Sys2Proof.Machine.execCrestCmpArm k target s
  | .cmpFire k => Sys2Proof.Machine.execCmpFire k s
  | .crestCmpDis k v => Sys2Proof.Machine.execCrestCmpDis k v s
  | .ppsOutRise => Sys2Proof.Machine.execPpsOutRise s
  | .ppsOutFall => Sys2Proof.Machine.execPpsOutFall s
  | .portEnable n => Sys2Proof.Machine.execPortEnable n s
  | .portDisable n => Sys2Proof.Machine.execPortDisable n s
  | .portLinkUp n skewNs => Sys2Proof.Machine.execPortLinkUp n skewNs s
  | .portLinkFault n localFault remoteFault => Sys2Proof.Machine.execPortLinkFault n localFault remoteFault s
  | .ingressStamp n lane frame => Sys2Proof.Machine.execIngressStamp n lane frame s
  | .classify fid => Sys2Proof.Machine.execClassify fid s
  | .rxFrameEnd fid rxError => Sys2Proof.Machine.execRxFrameEnd fid rxError s
  | .pauseRx n frame => Sys2Proof.Machine.execPauseRx n frame s
  | .pauseEnd n q => Sys2Proof.Machine.execPauseEnd n q s
  | .policerWalk => Sys2Proof.Machine.execPolicerWalk s
  | .learn => Sys2Proof.Machine.execLearn s
  | .ageVisit t key plen => Sys2Proof.Machine.execAgeVisit t key plen s
  | .lookupResult c t l => Sys2Proof.Machine.execLookupResult c t l s
  | .parityRepair t key plen => Sys2Proof.Machine.execParityRepair t key plen s
  | .tableEnable t => Sys2Proof.Machine.execTableEnable t s
  | .tableDisable t => Sys2Proof.Machine.execTableDisable t s
  | .search r e => Sys2Proof.Machine.execSearch r e s
  | .next r e => Sys2Proof.Machine.execNext r e s
  | .insert r e => Sys2Proof.Machine.execInsert r e s
  | .delete r e => Sys2Proof.Machine.execDelete r e s
  | .flushByPort r e => Sys2Proof.Machine.execFlushByPort r e s
  | .flushByPortDone r idx => Sys2Proof.Machine.execFlushByPortDone r idx s
  | .mcSet r e => Sys2Proof.Machine.execMcSet r e s
  | .dispatch fid => Sys2Proof.Machine.execDispatch fid s
  | .dispatchQueued g => Sys2Proof.Machine.execDispatchQueued g s
  | .budgetExpiry c t => Sys2Proof.Machine.execBudgetExpiry c t s
  | .timerFire x k => Sys2Proof.Machine.execTimerFire x k s
  | .spurSlotAt c target => Sys2Proof.Machine.execSpurSlotAt c target s
  | .slotTableSwap c => Sys2Proof.Machine.execSlotTableSwap c s
  | .waitCycle c => Sys2Proof.Machine.execWaitCycle c s
  | .spurCoreRel c v => Sys2Proof.Machine.execSpurCoreRel c v s
  | .spurCoreDb c v => Sys2Proof.Machine.execSpurCoreDb c v s
  | .spurThrRst c v => Sys2Proof.Machine.execSpurThrRst c v s
  | .spurCoreFail c => Sys2Proof.Machine.execSpurCoreFail c s
  | .spareDone c lost => Sys2Proof.Machine.execSpareDone c lost s
  | .spareReturn r => Sys2Proof.Machine.execSpareReturn r s
  | .ccFail k byCore => Sys2Proof.Machine.execCcFail k byCore s
  | .debugHalt c t => Sys2Proof.Machine.execDebugHalt c t s
  | .debugResume c t => Sys2Proof.Machine.execDebugResume c t s
  | .activate f seq body images => Sys2Proof.Machine.execActivate f seq body images s
  | .oldImagesRetire => Sys2Proof.Machine.execOldImagesRetire s
  | .groupCreate f seq body => Sys2Proof.Machine.execGroupCreate f seq body s
  | .groupDelete f seq body => Sys2Proof.Machine.execGroupDelete f seq body s
  | .aluAdd x gd ga gb => Sys2Proof.Machine.execAluAdd x gd ga gb s
  | .aluSub x gd ga gb => Sys2Proof.Machine.execAluSub x gd ga gb s
  | .aluAnd x gd ga gb => Sys2Proof.Machine.execAluAnd x gd ga gb s
  | .aluOr x gd ga gb => Sys2Proof.Machine.execAluOr x gd ga gb s
  | .aluXor x gd ga gb => Sys2Proof.Machine.execAluXor x gd ga gb s
  | .aluAndn x gd ga gb => Sys2Proof.Machine.execAluAndn x gd ga gb s
  | .aluMul x gd ga gb => Sys2Proof.Machine.execAluMul x gd ga gb s
  | .aluMulhu x gd ga gb => Sys2Proof.Machine.execAluMulhu x gd ga gb s
  | .aluMinu x gd ga gb => Sys2Proof.Machine.execAluMinu x gd ga gb s
  | .aluMaxu x gd ga gb => Sys2Proof.Machine.execAluMaxu x gd ga gb s
  | .aluMins x gd ga gb => Sys2Proof.Machine.execAluMins x gd ga gb s
  | .aluMaxs x gd ga gb => Sys2Proof.Machine.execAluMaxs x gd ga gb s
  | .aluPopc x gd ga gb => Sys2Proof.Machine.execAluPopc x gd ga gb s
  | .aluClz x gd ga gb => Sys2Proof.Machine.execAluClz x gd ga gb s
  | .aluCtz x gd ga gb => Sys2Proof.Machine.execAluCtz x gd ga gb s
  | .aluBswap x gd ga gb => Sys2Proof.Machine.execAluBswap x gd ga gb s
  | .shiftSll x gd ga gb => Sys2Proof.Machine.execShiftSll x gd ga gb s
  | .shiftSrl x gd ga gb => Sys2Proof.Machine.execShiftSrl x gd ga gb s
  | .shiftSra x gd ga gb => Sys2Proof.Machine.execShiftSra x gd ga gb s
  | .shiftRol x gd ga gb => Sys2Proof.Machine.execShiftRol x gd ga gb s
  | .shiftRor x gd ga gb => Sys2Proof.Machine.execShiftRor x gd ga gb s
  | .cmpEq x gd ga gb => Sys2Proof.Machine.execCmpEq x gd ga gb s
  | .cmpNe x gd ga gb => Sys2Proof.Machine.execCmpNe x gd ga gb s
  | .cmpLtu x gd ga gb => Sys2Proof.Machine.execCmpLtu x gd ga gb s
  | .cmpLts x gd ga gb => Sys2Proof.Machine.execCmpLts x gd ga gb s
  | .cmpLeu x gd ga gb => Sys2Proof.Machine.execCmpLeu x gd ga gb s
  | .cmpLes x gd ga gb => Sys2Proof.Machine.execCmpLes x gd ga gb s
  | .addi x gd ga imm => Sys2Proof.Machine.execAddi x gd ga imm s
  | .andi x gd ga imm => Sys2Proof.Machine.execAndi x gd ga imm s
  | .ori x gd ga imm => Sys2Proof.Machine.execOri x gd ga imm s
  | .xori x gd ga imm => Sys2Proof.Machine.execXori x gd ga imm s
  | .shi x gd ga k n => Sys2Proof.Machine.execShi x gd ga k n s
  | .ceqi x gd ga imm => Sys2Proof.Machine.execCeqi x gd ga imm s
  | .cltui x gd ga imm => Sys2Proof.Machine.execCltui x gd ga imm s
  | .cltsi x gd ga imm => Sys2Proof.Machine.execCltsi x gd ga imm s
  | .movz x gd imm k => Sys2Proof.Machine.execMovz x gd imm k s
  | .movk x gd imm k => Sys2Proof.Machine.execMovk x gd imm k s
  | .bfx x gd ga pos len1 sg => Sys2Proof.Machine.execBfx x gd ga pos len1 sg s
  | .bfi x gd ga pos len1 => Sys2Proof.Machine.execBfi x gd ga pos len1 s
  | .crc x gd ga gb w p => Sys2Proof.Machine.execCrc x gd ga gb w p s
  | .lds x gd ga off => Sys2Proof.Machine.execLds x gd ga off s
  | .ldsw x gd ga off => Sys2Proof.Machine.execLdsw x gd ga off s
  | .sts x gs ga off => Sys2Proof.Machine.execSts x gs ga off s
  | .stsw x gs ga off => Sys2Proof.Machine.execStsw x gs ga off s
  | .ldr x gd ga off => Sys2Proof.Machine.execLdr x gd ga off s
  | .str x gs ga off => Sys2Proof.Machine.execStr x gs ga off s
  | .amoFadd x gd ga gb => Sys2Proof.Machine.execAmoFadd x gd ga gb s
  | .amoSwap x gd ga gb => Sys2Proof.Machine.execAmoSwap x gd ga gb s
  | .amoFor x gd ga gb => Sys2Proof.Machine.execAmoFor x gd ga gb s
  | .amoFand x gd ga gb => Sys2Proof.Machine.execAmoFand x gd ga gb s
  | .beq x ga gb off => Sys2Proof.Machine.execBeq x ga gb off s
  | .bne x ga gb off => Sys2Proof.Machine.execBne x ga gb off s
  | .br x off => Sys2Proof.Machine.execBr x off s
  | .loop x ga max len => Sys2Proof.Machine.execLoop x ga max len s
  | .hld x gr ga w anchor off => Sys2Proof.Machine.execHld x gr ga w anchor off s
  | .hst x gr ga w anchor off => Sys2Proof.Machine.execHst x gr ga w anchor off s
  | .lkp x claim l ga gb => Sys2Proof.Machine.execLkp x claim l ga gb s
  | .lwt x gd gs l => Sys2Proof.Machine.execLwt x gd gs l s
  | .chw x ga k => Sys2Proof.Machine.execChw x ga k s
  | .chc x gd ch n1 => Sys2Proof.Machine.execChc x gd ch n1 s
  | .chr x gd ch => Sys2Proof.Machine.execChr x gd ch s
  | .chg x gd k => Sys2Proof.Machine.execChg x gd k s
  | .wfe x gd ga => Sys2Proof.Machine.execWfe x gd ga s
  | .sev x core cx line => Sys2Proof.Machine.execSev x core cx line s
  | .tnowLt x gd => Sys2Proof.Machine.execTnowLt x gd s
  | .tnowBudget x gd => Sys2Proof.Machine.execTnowBudget x gd s
  | .tcmpCompare x gd ga gb => Sys2Proof.Machine.execTcmpCompare x gd ga gb s
  | .tcmpArm x gd ga k => Sys2Proof.Machine.execTcmpArm x gd ga k s
  | .tcmpDisarm x gd k => Sys2Proof.Machine.execTcmpDisarm x gd k s
  | .emitQueue x ga gb ts lt => Sys2Proof.Machine.execEmitQueue x ga gb ts lt s
  | .emitMulticast x ga gb ts lt => Sys2Proof.Machine.execEmitMulticast x ga gb ts lt s
  | .emitHost x ga gb ts lt => Sys2Proof.Machine.execEmitHost x ga gb ts lt s
  | .emitFabric x ga gb ts lt => Sys2Proof.Machine.execEmitFabric x ga gb ts lt s
  | .emitCipher x ga gb ts lt => Sys2Proof.Machine.execEmitCipher x ga gb ts lt s
  | .emitDrop x ga gb ts lt => Sys2Proof.Machine.execEmitDrop x ga gb ts lt s
  | .leaf x ga => Sys2Proof.Machine.execLeaf x ga s
  | .call x off => Sys2Proof.Machine.execCall x off s
  | .jr x ga => Sys2Proof.Machine.execJr x ga s
  | .mfs x gd sr => Sys2Proof.Machine.execMfs x gd sr s
  | .mts x ga sr => Sys2Proof.Machine.execMts x ga sr s
  | .tlbInvalidateVa x ga => Sys2Proof.Machine.execTlbInvalidateVa x ga s
  | .tlbInvalidateAsid x ga => Sys2Proof.Machine.execTlbInvalidateAsid x ga s
  | .tlbInvalidateAll x ga => Sys2Proof.Machine.execTlbInvalidateAll x ga s
  | .cacheClean x ga => Sys2Proof.Machine.execCacheClean x ga s
  | .cacheInvalidate x ga => Sys2Proof.Machine.execCacheInvalidate x ga s
  | .cacheCleanInvalidate x ga => Sys2Proof.Machine.execCacheCleanInvalidate x ga s
  | .cacheInvalidateInstruction x ga => Sys2Proof.Machine.execCacheInvalidateInstruction x ga s
  | .eret x => Sys2Proof.Machine.execEret x s
  | .enableInterrupts x => Sys2Proof.Machine.execEnableInterrupts x s
  | .disableInterrupts x => Sys2Proof.Machine.execDisableInterrupts x s
  | .syscall x => Sys2Proof.Machine.execSyscall x s
  | .fenceMemory x => Sys2Proof.Machine.execFenceMemory x s
  | .fenceInstruction x => Sys2Proof.Machine.execFenceInstruction x s
  | .brk x code => Sys2Proof.Machine.execBrk x code s
  | .interrupt k => Sys2Proof.Machine.execInterrupt k s
  | .hostHandover fid => Sys2Proof.Machine.execHostHandover fid s
  | .fabricHandover fid => Sys2Proof.Machine.execFabricHandover fid s
  | .tmEnqueue fid => Sys2Proof.Machine.execTmEnqueue fid s
  | .mcCopy fid oct => Sys2Proof.Machine.execMcCopy fid oct s
  | .tmSelect p => Sys2Proof.Machine.execTmSelect p s
  | .egressStamp p => Sys2Proof.Machine.execEgressStamp p s
  | .txFrameEnd p => Sys2Proof.Machine.execTxFrameEnd p s
  | .refillTick => Sys2Proof.Machine.execRefillTick s
  | .tmSwapAt p target => Sys2Proof.Machine.execTmSwapAt p target s
  | .colArm p v => Sys2Proof.Machine.execColArm p v s
  | .colSwitch p => Sys2Proof.Machine.execColSwitch p s
  | .colEntryAdvance p => Sys2Proof.Machine.execColEntryAdvance p s
  | .admitCon f seq body => Sys2Proof.Machine.execAdmitCon f seq body s
  | .change f seq body => Sys2Proof.Machine.execChange f seq body s
  | .retire f seq body => Sys2Proof.Machine.execRetire f seq body s
  | .query f seq body => Sys2Proof.Machine.execQuery f seq body s
  | .recheck f seq body => Sys2Proof.Machine.execRecheck f seq body s
  | .contractActivate c => Sys2Proof.Machine.execContractActivate c s
  | .contractChangeAt c => Sys2Proof.Machine.execContractChangeAt c s
  | .changeReleased c => Sys2Proof.Machine.execChangeReleased c s
  | .contractReleased c => Sys2Proof.Machine.execContractReleased c s
  | .leafWrite l => Sys2Proof.Machine.execLeafWrite l s
  | .ledgerStart => Sys2Proof.Machine.execLedgerStart s
  | .epochRoot => Sys2Proof.Machine.execEpochRoot s
  | .receiptSign => Sys2Proof.Machine.execReceiptSign s
  | .exportResume l r => Sys2Proof.Machine.execExportResume l r s
  | .ledRetSwap l v => Sys2Proof.Machine.execLedRetSwap l v s
  | .ledRetRelease l v => Sys2Proof.Machine.execLedRetRelease l v s
  | .proof r e => Sys2Proof.Machine.execProof r e s
  | .receipt r e => Sys2Proof.Machine.execReceipt r e s
  | .hashSpare l => Sys2Proof.Machine.execHashSpare l s
  | .zoaWrite r e data => Sys2Proof.Machine.execZoaWrite r e data s
  | .zoaRead r e => Sys2Proof.Machine.execZoaRead r e s
  | .fetchAdd r e => Sys2Proof.Machine.execFetchAdd r e s
  | .compareSwap r e => Sys2Proof.Machine.execCompareSwap r e s
  | .zoaSend r e data => Sys2Proof.Machine.execZoaSend r e data s
  | .zoaFlush r e => Sys2Proof.Machine.execZoaFlush r e s
  | .winOpen r e => Sys2Proof.Machine.execWinOpen r e s
  | .winSet r e => Sys2Proof.Machine.execWinSet r e s
  | .winClose r e => Sys2Proof.Machine.execWinClose r e s
  | .zoaPacketSend q => Sys2Proof.Machine.execZoaPacketSend q s
  | .zoaReqRx n pkt host => Sys2Proof.Machine.execZoaReqRx n pkt host s
  | .zoaAckRx n pkt => Sys2Proof.Machine.execZoaAckRx n pkt s
  | .zoaNakRx n pkt => Sys2Proof.Machine.execZoaNakRx n pkt s
  | .zoaRespRx n pkt => Sys2Proof.Machine.execZoaRespRx n pkt s
  | .zoaRetransmit msg pktIx => Sys2Proof.Machine.execZoaRetransmit msg pktIx s
  | .zoaMsgTimeout msg => Sys2Proof.Machine.execZoaMsgTimeout msg s
  | .dedupExpire src msg => Sys2Proof.Machine.execDedupExpire src msg s
  | .quarantineEnd => Sys2Proof.Machine.execQuarantineEnd s
  | .zoaDeltaSwap target => Sys2Proof.Machine.execZoaDeltaSwap target s
  | .deltaSwapAt => Sys2Proof.Machine.execDeltaSwapAt s
  | .oldDeltaExpire => Sys2Proof.Machine.execOldDeltaExpire s
  | .zoaEnable => Sys2Proof.Machine.execZoaEnable s
  | .wqCreate f seq body => Sys2Proof.Machine.execWqCreate f seq body s
  | .wqDestroy f seq body => Sys2Proof.Machine.execWqDestroy f seq body s
  | .twinWatchEnable on => Sys2Proof.Machine.execTwinWatchEnable on s
  | .twinLost => Sys2Proof.Machine.execTwinLost s
  | .cipherStart id => Sys2Proof.Machine.execCipherStart id s
  | .cipherDone id => Sys2Proof.Machine.execCipherDone id s
  | .encrypt r e data => Sys2Proof.Machine.execEncrypt r e data s
  | .decrypt r e data => Sys2Proof.Machine.execDecrypt r e data s
  | .gmacGen r e data => Sys2Proof.Machine.execGmacGen r e data s
  | .gmacVer r e data => Sys2Proof.Machine.execGmacVer r e data s
  | .keySet r e record => Sys2Proof.Machine.execKeySet r e record s
  | .keyClear r e => Sys2Proof.Machine.execKeyClear r e s
  | .ciphShareSwap target => Sys2Proof.Machine.execCiphShareSwap target s
  | .shareSwapAt => Sys2Proof.Machine.execShareSwapAt s
  | .ciphSecyAt n target => Sys2Proof.Machine.execCiphSecyAt n target s
  | .saSwitchAt n => Sys2Proof.Machine.execSaSwitchAt n s
  | .cipherAlarm src => Sys2Proof.Machine.execCipherAlarm src s
  | .alarmClear => Sys2Proof.Machine.execAlarmClear s
  | .ciphCore msg => Sys2Proof.Machine.execCiphCore msg s
  | .perstAssert => Sys2Proof.Machine.execPerstAssert s
  | .perstDeassert => Sys2Proof.Machine.execPerstDeassert s
  | .hotReset => Sys2Proof.Machine.execHotReset s
  | .flr f => Sys2Proof.Machine.execFlr f s
  | .flrDone f => Sys2Proof.Machine.execFlrDone f s
  | .vfEnable numVfs => Sys2Proof.Machine.execVfEnable numVfs s
  | .bmeClear f => Sys2Proof.Machine.execBmeClear f s
  | .bmeSet f => Sys2Proof.Machine.execBmeSet f s
  | .completionRx tag ok data => Sys2Proof.Machine.execCompletionRx tag ok data s
  | .completionTimeout tag => Sys2Proof.Machine.execCompletionTimeout tag s
  | .uncorrectableError f cause => Sys2Proof.Machine.execUncorrectableError f cause s
  | .hostContainRelease v => Sys2Proof.Machine.execHostContainRelease v s
  | .hostLoss => Sys2Proof.Machine.execHostLoss s
  | .linkReturn speed width mps => Sys2Proof.Machine.execLinkReturn speed width mps s
  | .linkRetrain speed width mps => Sys2Proof.Machine.execLinkRetrain speed width mps s
  | .atsInvalidation f page pages => Sys2Proof.Machine.execAtsInvalidation f page pages s
  | .msixSend f vec => Sys2Proof.Machine.execMsixSend f vec s
  | .getVersion req => Sys2Proof.Machine.execGetVersion req s
  | .getCapabilities req => Sys2Proof.Machine.execGetCapabilities req s
  | .negotiateAlgorithms req => Sys2Proof.Machine.execNegotiateAlgorithms req s
  | .getDigests req => Sys2Proof.Machine.execGetDigests req s
  | .getCertificate req => Sys2Proof.Machine.execGetCertificate req s
  | .challenge req => Sys2Proof.Machine.execChallenge req s
  | .getMeasurements req => Sys2Proof.Machine.execGetMeasurements req s
  | .slhSig req => Sys2Proof.Machine.execSlhSig req s
  | .slhCert req => Sys2Proof.Machine.execSlhCert req s
  | .doorbell r f v => Sys2Proof.Machine.execDoorbell r f v s
  | .ringInvalidate r f v => Sys2Proof.Machine.execRingInvalidate r f v s
  | .ringService r e aux => Sys2Proof.Machine.execRingService r e aux s
  | .txSend r e frame => Sys2Proof.Machine.execTxSend r e frame s
  | .ringEnable r f => Sys2Proof.Machine.execRingEnable r f s
  | .ringDisable r f => Sys2Proof.Machine.execRingDisable r f s
  | .ringDrained r => Sys2Proof.Machine.execRingDrained r s
  | .ringResetIdx r f v => Sys2Proof.Machine.execRingResetIdx r f v s
  | .notifyLost r => Sys2Proof.Machine.execNotifyLost r s
  | .tenantCreate f seq body => Sys2Proof.Machine.execTenantCreate f seq body s
  | .tenantQuery f seq body => Sys2Proof.Machine.execTenantQuery f seq body s
  | .tenantFreeze f seq body => Sys2Proof.Machine.execTenantFreeze f seq body s
  | .tenantFrozen v => Sys2Proof.Machine.execTenantFrozen v s
  | .tenantThaw f seq body => Sys2Proof.Machine.execTenantThaw f seq body s
  | .tenantSave f seq body => Sys2Proof.Machine.execTenantSave f seq body s
  | .tenantRestore f seq body blob => Sys2Proof.Machine.execTenantRestore f seq body blob s
  | .tenantRestored v => Sys2Proof.Machine.execTenantRestored v s
  | .tenantDestroy f seq body => Sys2Proof.Machine.execTenantDestroy f seq body s
  | .tenantRemoved v => Sys2Proof.Machine.execTenantRemoved v s
  | .ptp f seq body => Sys2Proof.Machine.execPtp f seq body s
  | .ptpEventRx fid seen => Sys2Proof.Machine.execPtpEventRx fid seen s
  | .jrnWrite q v slot data => Sys2Proof.Machine.execJrnWrite q v slot data s
  | .jrnWriteStart q tag => Sys2Proof.Machine.execJrnWriteStart q tag s
  | .jrnRead q v slot => Sys2Proof.Machine.execJrnRead q v slot s
  | .jrnFlush q v slot => Sys2Proof.Machine.execJrnFlush q v slot s
  | .jrnAbort q v slot => Sys2Proof.Machine.execJrnAbort q v slot s
  | .jrnReplicaSend q tag p => Sys2Proof.Machine.execJrnReplicaSend q tag p s
  | .jrnPeerSwap target => Sys2Proof.Machine.execJrnPeerSwap target s
  | .peerSwapAt => Sys2Proof.Machine.execPeerSwapAt s
  | .jrnQDisable q => Sys2Proof.Machine.execJrnQDisable q s
  | .bootStart => Sys2Proof.Machine.execBootStart s
  | .memoryTrained ch speed ranks fastEnough => Sys2Proof.Machine.execMemoryTrained ch speed ranks fastEnough s
  | .gateOpen => Sys2Proof.Machine.execGateOpen s
  | .pageFill page first second => Sys2Proof.Machine.execPageFill page first second s
  | .imageStage f seq body image => Sys2Proof.Machine.execImageStage f seq body image s
  | .fwActivate f seq body => Sys2Proof.Machine.execFwActivate f seq body s
  | .fwSwitch => Sys2Proof.Machine.execFwSwitch s
  | .versionRaise f seq body auth => Sys2Proof.Machine.execVersionRaise f seq body auth s
  | .keyRevoke f seq body auth => Sys2Proof.Machine.execKeyRevoke f seq body auth s
  | .ownerAdd f seq body auth => Sys2Proof.Machine.execOwnerAdd f seq body auth s
  | .lifecycle f seq body auth => Sys2Proof.Machine.execLifecycle f seq body auth s
  | .receiptRotate f seq => Sys2Proof.Machine.execReceiptRotate f seq s
  | .certRead f seq body => Sys2Proof.Machine.execCertRead f seq body s
  | .bundleLoad f seq body bundle => Sys2Proof.Machine.execBundleLoad f seq body bundle s
  | .recovBegin v => Sys2Proof.Machine.execRecovBegin v s
  | .recovChunk v => Sys2Proof.Machine.execRecovChunk v s
  | .recovCommit v image => Sys2Proof.Machine.execRecovCommit v image s
  | .recovAbort v => Sys2Proof.Machine.execRecovAbort v s
  | .scrubRead w found => Sys2Proof.Machine.execScrubRead w found s
  | .maintWindow ch => Sys2Proof.Machine.execMaintWindow ch s
  | .rankRetrain ch rank => Sys2Proof.Machine.execRankRetrain ch rank s
  | .channelFail ch => Sys2Proof.Machine.execChannelFail ch s
  | .calMeasure l rxDie txDie => Sys2Proof.Machine.execCalMeasure l rxDie txDie s
  | .thermalSense hottest coldest => Sys2Proof.Machine.execThermalSense hottest coldest s
  | .agingRead engine marginMv => Sys2Proof.Machine.execAgingRead engine marginMv s
  | .telemetryFrame => Sys2Proof.Machine.execTelemetryFrame s
  | .blockSleep b => Sys2Proof.Machine.execBlockSleep b s
  | .lanePairFail m => Sys2Proof.Machine.execLanePairFail m s
  | .cairnAccept => Sys2Proof.Machine.execCairnAccept s
  | .cairnLost => Sys2Proof.Machine.execCairnLost s
  | .cairnDrain => Sys2Proof.Machine.execCairnDrain s
  | .cairnFlashWrite => Sys2Proof.Machine.execCairnFlashWrite s
  | .cairnLoad bad => Sys2Proof.Machine.execCairnLoad bad s
  | .counterLogAppend => Sys2Proof.Machine.execCounterLogAppend s
  | .opSecTick => Sys2Proof.Machine.execOpSecTick s
  | .cairnCursorWrite v => Sys2Proof.Machine.execCairnCursorWrite v s
  | .cairnWindowLatch => Sys2Proof.Machine.execCairnWindowLatch s
  | .cairnWindowAdvance => Sys2Proof.Machine.execCairnWindowAdvance s
  | .cairnRateWrite ix v => Sys2Proof.Machine.execCairnRateWrite ix v s
  | .cursorSet v => Sys2Proof.Machine.execCursorSet v s
  | .mctpRead => Sys2Proof.Machine.execMctpRead s
  | .pldmSensorRead id => Sys2Proof.Machine.execPldmSensorRead id s
  | .entdaa addr => Sys2Proof.Machine.execEntdaa addr s
  | .powerGood indep kwmode => Sys2Proof.Machine.execPowerGood indep kwmode s
  | .sysRstNAssert ns => Sys2Proof.Machine.execSysRstNAssert ns s
  | .supplyWarn rail mv => Sys2Proof.Machine.execSupplyWarn rail mv s
  | .supplyWarnClear rail mv => Sys2Proof.Machine.execSupplyWarnClear rail mv s
  | .vddFuseWarn mv => Sys2Proof.Machine.execVddFuseWarn mv s
  | .railGlitch rail mv => Sys2Proof.Machine.execRailGlitch rail mv s
  | .railReset rail mv => Sys2Proof.Machine.execRailReset rail mv s
  | .clkLoss input pcieFit => Sys2Proof.Machine.execClkLoss input pcieFit s
  | .clkRegained input => Sys2Proof.Machine.execClkRegained input s
  | .portTsqMetaRead f oct => Sys2Proof.Machine.execPortTsqMetaRead f oct s
  | .portTsqLtRead f oct => Sys2Proof.Machine.execPortTsqLtRead f oct s
  | .jtagInstruction ir => Sys2Proof.Machine.execJtagInstruction ir s
  | .tapReset => Sys2Proof.Machine.execTapReset s
  | .portLinkDown n => Sys2Proof.Machine.execPortLinkDown n s
  | .programEpochAt => Sys2Proof.Machine.execProgramEpochAt s
  | .contractRetireAt c => Sys2Proof.Machine.execContractRetireAt c s
  | .maintWindowEnd ch => Sys2Proof.Machine.execMaintWindowEnd ch s
  | .vddFuseWarnClear mv => Sys2Proof.Machine.execVddFuseWarnClear mv s
  | .ptpMessageSend n msgType frame => Sys2Proof.Machine.execPtpMessageSend n msgType frame s
  | .vfDisable => Sys2Proof.Machine.execVfDisable s
  | .atsDisable f => Sys2Proof.Machine.execAtsDisable f s

end Sys2Proof.Machine
end

