-- ==== Sys2Proof/Machine/Views.lean ====
section
/-! DEFINITION. What a read of a register returns: its stored fields, with those that show state held elsewhere put in their places
(R9, R10). -/

namespace Sys2Proof.Machine

/-- A register's bits with several fields replaced. -/
def withFlds (w : BitVec 64) (l : List (Fld × Nat)) : BitVec 64 := l.foldl (fun w e => e.1.into w e.2) w

/-- The bits of a mask over a core's threads in a state. -/
def State.thrMask (s : State) (c st : Nat) : Nat :=
  (List.range 16).foldl (fun n t => n + 2 ^ t * bit ((s.thr (thrKey c t)).st == st)) 0

/-- Thread key of a SPUR_THR instance: core × 16 + thread. -/
def thrOfIx (i : Nat) : Nat := thrKey (i / 16) (i % 16)

/-- The SEV source lines 4h to 4h + 3 of a thread. -/
def State.sevWord (s : State) (k h : Nat) : Nat :=
  (List.range 4).foldl (fun n j => n + SMap.getD (s.thr k).sevSrc (4 * h + j) 0 <<< (16 * j)) 0

/-- The code of the time role (R487, R490). -/
def State.timeRole (s : State) : Nat :=
  let src := s.get .crestSrvCfgSrc s.srvBank
  if src = 0 then 0
  else match (if s.gateOpen then s.ptp.role else .none) with
    | .leader => if s.get .crestTqCfgHops s.srvBank = 0 then 1 else if src = 2 then 3 else 0
    | .follower _ _ => 2
    | .boundary _ _ => 4
    | .none => if src = 2 then 3 else 0

/-- Leaves of the current epoch in a lane so far. -/
def State.leavesNow (s : State) (l : Nat) : Nat := ((s.led? l).staged.filter (fun r => r.epoch == s.epoch)).length

/-- A field of the port that a lane belongs to, 0 where it belongs to none: such a lane's current combination is taken as 10.3125 Gb/s
without FEC (DESIGN CHOICE, assumption 139). -/
def State.lanePart (s : State) (f : Fld) (l : Nat) : Nat :=
  match s.lanePort l with
  | some p => s.get f p
  | none => 0

/-- The fields of a register that show state held elsewhere. -/
def State.liveFlds (s : State) (r : RegName) (i : Nat) : List (Fld × Nat) :=
  match r with
  | .crestLt => [(.crestLtLt, s.lt.toNat)]
  | .crestEpoch => [(.crestEpochEpoch, s.epoch)]
  | .crestMapSec => [(.crestMapSecSec, s.crest.map / unitsPerSec)]
  | .crestMapSub => [(.crestMapSubNs, s.crest.map % unitsPerSec / 65536), (.crestMapSubFrac, s.crest.map % 65536)]
  | .crestAddend => [(.crestAddendAddend, s.crest.addend.toNat)]
  | .crestTqw => [(.crestTqwTqwLive, s.tqwLive)]
  | .crestEbFull => [(.crestEbFullEbLive, s.ebLive)]
  | .crestSrvSta => [(.crestSrvStaState, s.crest.state.code), (.crestSrvStaStepPending, bit s.crest.step.isSome)]
  -- pll_lock follows the clock it makes (DESIGN CHOICE, assumption 110).
  | .crestRefSta => [(.crestRefStaPllLock, bit s.crest.running)]
  | .crestCapData => [(.crestCapDataLt, ((s.caps i).head?.getD (BitVec.allOnes 64)).toNat)]
  | .portCalRx => [(.portCalRxFused, (Config.fusedRx i (modeClass (s.lanePart .portCfgMode i)) (s.lanePart .portCfgFec i)).toNat)]
  | .portCalTx => [(.portCalTxFused, (Config.fusedTx i (modeClass (s.lanePart .portCfgMode i)) (s.lanePart .portCfgFec i)).toNat)]
  | .spurCoreSta => [(.spurCoreStaParked, s.thrMask i 5), (.spurCoreStaHalted, s.thrMask i 4)]
  | .spurThrSta =>
    let t := s.thr (thrOfIx i)
    [(.spurThrStaGroup, t.group.getD 0), (.spurThrStaBank, t.bank), (.spurThrStaEpoch, if t.frame.isSome then t.epoch else 0),
     (.spurThrStaFrame, bit t.frame.isSome), (.spurThrStaState, t.st)]
  | .spurThrEvt => [(.spurThrEvtMask, (s.thr (thrOfIx i)).mask.toNat), (.spurThrEvtPending, (s.pendingOf (thrOfIx i)).toNat)]
  | .spurThrSevsrc => [(⟨.spurThrSevsrc, 63, 0⟩, s.sevWord (thrOfIx (i / 2)) (i % 2))]
  | .spurGrpSta => [(.spurGrpStaIdle, ((s.members i).filter s.idleThr).length)]
  | .ringSta => [(.ringStaState, s.ringState i)]
  | .ledLaneSta => [(.ledLaneStaStaged, min (s.stagedNow i) 7168), (.ledLaneStaNNow, s.leavesNow i)]
  | .zoaSta => [(.zoaStaUnfit, bit (s.zoaUnfit s.deltaCode))]
  | .hostFnSta =>
    if s.get .hostFnStaState i = 1 ∧ s.is .hostContainStaContained then [(.hostFnStaState, 3)] else []
  | .hostTenSta => [(.hostTenStaInc, s.blkInc ⟨.function, i⟩)]
  | .jrnSta => [(.jrnStaInc, s.blkInc ⟨.function, 128⟩)]
  | .jrnPeerSta => [(.jrnPeerStaPending, s.repsPending i), (.jrnPeerStaInUse, bit (decide (i < s.jPeers s.jBank)))]
  | .jrnQSta => if s.get .jrnQStaState i = 1 ∧ !s.fnSends 128 then [(.jrnQStaState, 3)] else []
  | .memChSta => [(.memChStaState, if s.blkInc ⟨.memCh, i⟩ = 0 then 0 else s.blkState ⟨.memCh, i⟩)]
  | .cairnWindow => [(.cairnWindowBytes, (latchWord s.cairn.latch i).toNat)]
  | .sysDevId => [(.sysDevIdPart, 0x2560), (.sysDevIdStepMajor, Config.stepping.1.toNat), (.sysDevIdStepMinor, Config.stepping.2.toNat)]
  | .secLifecycle =>
    let f := s.sec.fuses
    [(.secLifecycleVerCnt, f.verCnt), (.secLifecycleRevoke, f.revoke), (.secLifecycleProgrammed, f.programmed),
     (.secLifecycleDebugLock, bit f.debugLock), (.secLifecycleState, f.lifecycle)]
  | .sysModeSta =>
    [(.sysModeStaTenants, s.ten.tenants.length), (.sysModeStaTimeRole, s.timeRole),
     (.sysModeStaTwin, if !s.is .zoaTwinCfgEn then 0 else if s.is .zoaTwinStaLost then 2 else 1),
     (.sysModeStaHost, if s.is .hostContainStaContained then 2 else s.get .hostLinkStaUp),
     (.sysModeStaIndep, s.get .sysRstStaIndep), (.sysModeStaKwRegs, s.get .sysModeKwRegs), (.sysModeStaDebug, s.get .secLifecycleDebug),
     (.sysModeStaBundle, s.get .secBootStaBundle), (.sysModeStaStage, s.get .secBootStaStage),
     (.sysModeStaGate, s.get .secBootStaGate), (.sysModeStaLifecycle, s.sec.fuses.lifecycle)]
  | _ => []

/-- What a read of an instance of a register returns, CMD registers reading 0 and TMR fields the vote of their copies (R9, R434), once the flush passes
under way have made their visits up to now (R125).  The reads that also act are commands of their
own; PORT_TSQ_META and PORT_TSQ_LT are read only by those. -/
def State.readReg (s : State) (r : RegName) (i : Nat) : BitVec 64 :=
  let s := s.flushAll
  if r.isCmd then 0 else withFlds (s.votedReg r i) (s.liveFlds r i)

/-! ### What configuration space presents (R309, R313, R315) -/

/-- What a function presents in its configuration space, wherever the space holds it. -/
inductive CfgItem where
  | vendorId | deviceId | classCode
  /-- The SR-IOV capability of PF0. -/
  | totalVfs | firstVfOffset | vfStride | vfDeviceId | numVfs | vfEnable
  | msixTableSize | msixEnable | msixFunctionMask | atsEnable
  deriving DecidableEq, Repr

/-- Device ID of a function block. -/
def fnDevice (f : Nat) : Nat := if f = 0 then 0x2560 else if f = 128 then 0x2561 else 0x2562
/-- Class code. -/
def fnClass (f : Nat) : Nat := if f = 128 then 0x018000 else 0x028000
/-- First VF Offset and VF Stride. -/
def firstVfOffset : Nat := 2
def vfStride : Nat := 1
/-- Routing function number: the VFs follow PF0's by First VF Offset and VF Stride. -/
def fnRouting (f : Nat) : Nat := if f = 0 then 0 else if f = 128 then 1 else firstVfOffset + (f - 1) * vfStride

/-- An item of a function's configuration space, none for a function that does not exist on the bus and for what it does not have. -/
def State.cfgItem (s : State) (f : Nat) (c : CfgItem) : Option Nat :=
  let pf0 := fun (n : Nat) => if f = 0 then some n else none
  if s.get .hostFnStaState f = 0 then none
  else match c with
    | .vendorId => some Config.pciVendor.toNat
    | .deviceId => some (fnDevice f)
    | .classCode => some (fnClass f)
    | .totalVfs => pf0 127
    | .firstVfOffset => pf0 firstVfOffset
    | .vfStride => pf0 vfStride
    | .vfDeviceId => pf0 (fnDevice 1)
    | .numVfs => pf0 s.host.numVfs
    | .vfEnable => pf0 (bit s.host.vfEn)
    | .msixTableSize => some (vectorsOf f)
    | .msixEnable => some (s.get .hostFnStaMsix f)
    | .msixFunctionMask => some (bit (SMap.find s.host.fnMask f).isSome)
    | .atsEnable => some (s.get .hostFnStaAts f)

/-! ### Reads through the BARs (R18, R311, R324, R338, R357, R370, R375) -/

/-- A read of 4 or 8 bytes at an offset of a domain's window; unassigned bytes read 0. -/
def State.readDom (s : State) (dom off size : Nat) : BitVec 64 :=
  let part : Nat → BitVec 64 := fun o => match regAt dom o with
    | some (r, i, b) => (s.readReg r i >>> (8 * b)) &&& 0xFFFFFFFF#64
    | none => 0#64
  part off ||| (if size = 8 then part (off + 4) <<< 32 else 0#64)

/-- A read in the VF window of tenant `f` (R370). -/
def State.readVf (s : State) (f addr size : Nat) : BitVec 64 :=
  match SMap.find s.ten.tenants f with
  | none => 0
  | some t =>
    let g := t.grant
    if addr < 8 then s.readDom 9 (RegName.offset .hostTenSta f + addr) size
    else if inRange addr 0x10000 (g.ringCount * 0x80) then
      s.readDom 9 (RegName.offset .ringBase (g.ringFirst + (addr - 0x10000) / 0x80) + addr % 0x80) size
    else if inRange addr 0x40000 (g.tableCount * 0x100) then
      s.readDom 2 (RegName.offset .ingTblCtl (g.tableFirst + (addr - 0x40000) / 0x100) + addr % 0x100) size
    else if inRange addr 0x50000 (g.groupCount * 0x80) then
      s.readDom 3 (RegName.offset .spurGrpCfg (g.groupFirst + (addr - 0x50000) / 0x80) + addr % 0x80) size
    else if 0xF0000 ≤ addr && (regAt 0 (addr - 0xF0000)).any (fun x =>
        x.1 == .crestLt || x.1 == .crestEpoch || x.1 == .crestTqw || x.1 == .crestEbFull) then s.readDom 0 (addr - 0xF0000) size
    else 0

/-- A read of BAR0 of a function; none where it completes as Unsupported Request (R18, R324, R326, R328).  While the device boots or is in
Recovery Hold PF0 answers reads of SEC_BOOT_STA alone. -/
def State.readBar0 (s : State) (f addr size : Nat) : Option (BitVec 64) :=
  if !wfAccess addr size || s.get .hostFnStaState f != 1 || (s.pciFn f).d3 then none
  else if f = 0 then
    if 15 ≤ addr / 0x800000 then none
    else if s.memReach 0 || (s.containReach && inContain addr) ||
        (!s.gateOpen && !s.is .hostContainStaContained && inRange addr (12 * 0x800000 + RegName.offset .secBootSta 0) 8) then
      some (s.readDom (addr / 0x800000) (addr % 0x800000) size)
    else none
  else if !s.memReach f then none
  else if f = 128 then (if addr < 0x100000 then some (s.readDom 10 addr size) else none)
  else if addr < 0x100000 then some (s.readVf f addr size)
  else none

/-- A read at an offset of a ring's doorbell page (R338). -/
def State.readBell (s : State) (r off : Nat) : BitVec 64 :=
  let nq := s.ringKind r = 10
  BitVec.ofNat 64 (
    if off = 0 then (s.ring r).bell
    else if off = 0x10 then (if nq then s.ringP r else s.ringH r) * 2 ^ 32 + s.ringC r
    else if off = 0x18 then (s.ring r).invalH * 2 ^ 32 + s.get .ringStaCause r * 256 + s.ringState r
    else 0)

/-- The ring whose doorbell page is page `n` of a function's BAR2: every ring in order for PF0, those of its grant for a VF (R311, R355). -/
def State.pageRing (s : State) (f n : Nat) : Option Nat :=
  if f = 0 then (if n < 16384 then some n else none)
  else (SMap.find s.ten.tenants f).bind (fun t => if n < t.grant.ringCount then some (t.grant.ringFirst + n) else none)

/-- A read of BAR2 of a function: doorbell pages of rings, or of journal queues for PF1 (R338, R375). -/
def State.readBar2 (s : State) (f addr : Nat) : Option (BitVec 64) :=
  if !s.memReach f then none
  else if f = 128 then some (if addr % 4096 = 8 ∧ addr / 4096 < 64 then BitVec.ofNat 64 (s.get .jrnQStaOutstanding (addr / 4096)) else 0)
  else some (match s.pageRing f (addr / 4096) with
    | some r => s.readBell r (addr % 4096)
    | none => 0)

/-- A read of 4 bytes of a function's mailbox page (R357). -/
def State.readBox (s : State) (f off : Nat) : BitVec 32 :=
  let b := s.box f
  if off = 0 then b.accepted
  else if off = 4 then b.replied
  else if off = 8 then BitVec.ofNat 32 (bit b.pending)
  else if inRange off 0x100 2048 then BitVec.ofNat 32 (leAt b.req (off - 0x100) 4)
  else if inRange off 0x900 2048 then BitVec.ofNat 32 (leAt b.reply (off - 0x900) 4)
  else 0

/-- RECOV_STA at PF0 BAR4 + 0x4_0000: the next expected offset, the last status, the hold cause and the state (R407). -/
def State.recovSta (s : State) : BitVec 64 :=
  let r := s.sec.recov
  BitVec.ofNat 64 (r.next * 2 ^ 32 + r.status * 2 ^ 24 + s.get .secBootStaHold * 2 ^ 16 + r.st)

/-- A bit of a function's PBA (R313). -/
def State.pbaBit (s : State) (f vec : Nat) : Bool := (SMap.find s.host.pba (vecKey f vec)).isSome

/-- A dword of a function's MSI-X table (R313). -/
def State.readMsix (s : State) (f addr : Nat) : BitVec 32 :=
  let vec := addr / 16
  if addr % 16 = 12 then (if (SMap.find s.host.unmasked (vecKey f vec)).isSome then 0 else 1) else s.msixDword f vec (addr % 16 / 4)

/-- 32 bits of a function's PBA from vector `vec` on. -/
def State.readPba (s : State) (f vec : Nat) : BitVec 32 :=
  BitVec.ofNat 32 (sumN ((List.range 32).map (fun i => 2 ^ i * bit (s.pbaBit f (vec + i)))))

/-- The offset of a function's PBA and mailbox in BAR4 (R311). -/
def pbaBase (f : Nat) : Nat := if f = 0 then 0x10000 else 0x800
def boxBase (f : Nat) : Nat := if f = 0 then 0x20000 else 0x1000

/-- A read of 4 bytes of BAR4 of a function: MSI-X table, PBA, mailbox, and PF0's recovery window; other offsets read 0 (R311). -/
def State.readBar4 (s : State) (f addr : Nat) : Option (BitVec 32) :=
  if barBytes f 4 ≤ addr ∨ addr % 4 ≠ 0 then none
  else if f = 0 && (s.recovOpen || s.memReach 0) && inRange addr 0x40000 0x40000 then
    some (if addr = 0x40000 then s.recovSta.setWidth 32 else if addr = 0x40004 then (s.recovSta >>> 32).setWidth 32 else 0)
  else if !s.memReach f then none
  else if addr < 16 * vectorsOf f then some (s.readMsix f addr)
  else if inRange addr (pbaBase f) (vectorsOf f / 8) then some (s.readPba f ((addr - pbaBase f) * 8))
  else if f ≠ 128 ∧ inRange addr (boxBase f) 0x1100 then some (s.readBox f (addr - boxBase f))
  else some 0

end Sys2Proof.Machine
end

