-- ==== Sys2Proof/Safety.lean ====
section
/-! DEFINITION. What counts as a safe step, and the terms the statements use: the parts of the state, and what it means that a
command leaves a part unchanged. -/

namespace Sys2Proof

/-- A step that answers a next state. -/
def SafeStep (s : Machine.State) : Prop := ∃ t, Machine.step s = .next t

/-- The command answers a next state, of which `P` holds. -/
def Completes (c : Instr) (s : Machine.State) (P : Machine.State → Prop) : Prop := ∃ t, Machine.exec c s = .next t ∧ P t

/-- The registers of two states agree but for the named instances. -/
def RegsBut (l : List (Machine.RegName × Nat)) (s t : Machine.State) : Prop := ∀ r i, (r, i) ∉ l → t.reg r i = s.reg r i

/-- The parts of the state: its fields, the fuse map counted apart from the rest of the security processor. -/
inductive StatePart where
  | pending
  | regs
  | incs
  | blkSt
  | upd
  | tmr
  | crest
  | ptp
  | ports
  | ing
  | spur
  | con
  | tm
  | led
  | ten
  | zoa
  | jrn
  | ciph
  | host
  | rings
  | mem
  | cairn
  | sec
  | back
  | offAt
  | out
  | readData
  | freeCtr
  | fuses
  deriving DecidableEq, Repr

/-- Do two states agree in a part? -/
def Machine.State.agree (s t : Machine.State) : StatePart → Prop
  | .pending => t.pending = s.pending
  | .regs => t.regs = s.regs
  | .incs => t.incs = s.incs
  | .blkSt => t.blkSt = s.blkSt
  | .upd => t.upd = s.upd
  | .tmr => t.tmr = s.tmr
  | .crest => t.crest = s.crest
  | .ptp => t.ptp = s.ptp
  | .ports => t.ports = s.ports
  | .ing => t.ing = s.ing
  | .spur => t.spur = s.spur
  | .con => t.con = s.con
  | .tm => t.tm = s.tm
  | .led => t.led = s.led
  | .ten => t.ten = s.ten
  | .zoa => t.zoa = s.zoa
  | .jrn => t.jrn = s.jrn
  | .ciph => t.ciph = s.ciph
  | .host => t.host = s.host
  | .rings => t.rings = s.rings
  | .mem => t.mem = s.mem
  | .cairn => t.cairn = s.cairn
  | .sec => { t.sec with fuses := s.sec.fuses } = s.sec
  | .back => t.back = s.back
  | .offAt => t.offAt = s.offAt
  | .out => t.out = s.out
  | .readData => t.readData = s.readData
  | .freeCtr => t.freeCtr = s.freeCtr
  | .fuses => t.sec.fuses = s.sec.fuses

/-- `t` differs from `s` at most in the named parts. -/
def KeepsBut (ps : List StatePart) (s t : Machine.State) : Prop := ∀ p, p ∉ ps → s.agree t p

end Sys2Proof
end

