-- ==== Sys2Proof/Certificates/Slice0/Obligations.lean ====
section
/-! DEFINITION. The statements for the provers: what the commands of the block do, what they leave unchanged, and what every step
keeps. -/

section

open Sys2Proof Sys2Proof.Machine

/-- For every command c, queue q and state s whose queue is c followed by q, the step answers what exec of c answers on s with the queue q: first in, first out. -/
def Obligations.FrontCommandRuns : Prop :=
  ∀ (c : Instr) (q : List Instr) (s : State), s.pending = c :: q → step s = exec c { s with pending := q }

/-- With an empty queue the step always answers a next state; with the Crest's counter stopped it is the same state, and with it running the accumulator reaches the next multiple of the addend after the last tick, which at a tick is one addend more. That idling is a CTC tick is the model's choice, log entry 1. -/
def Obligations.EmptyQueueTicks : Prop :=
  ∀ s : State, s.pending = [] →
    (s.crest.running = false → step s = .next s) ∧
    (s.crest.running = true → ∃ t, step s = .next t ∧
      t.crest.acc = BitVec.ofNat 112 (max s.crest.acc.toNat
        (s.crest.tick + ((s.crest.acc.toNat - s.crest.tick) / s.crest.addend.toNat + 1) * s.crest.addend.toNat)) ∧
      (s.crest.tick = s.crest.acc.toNat → t.crest.acc = s.crest.acc + s.crest.addend.setWidth 112))

/-- When a context may issue and its next word is the instruction's, time reaches its slot, and there ADD, SUB, AND, OR, XOR, ANDN, MUL, MULHU, MINU, MAXU, MINS and MAXS write gd as R168 gives it from ga and gb and retire. POPC, CLZ, CTZ and BSWAP with gb = 0 write the number of one bits of ga, of zero bits above its highest and below its lowest one bit (64 for 0), and its bytes reversed; with gb not 0 each is undefined. On a control core the command itself gives the word and there are no slots (log entry 100). -/
def Obligations.AluResults : Prop :=
  ∀ (x : Ctx) (gd ga gb : GReg) (s : State), s.canIssue x = true →
    let t := s.atSlot x
    (s.fetches x (wG3 0x00 gd.val ga.val gb.val 1) = true → exec (.aluAdd x gd ga gb) s = .next ((t.setGpr x gd (t.gpr x ga + t.gpr x gb)).retire x)) ∧
    (s.fetches x (wG3 0x00 gd.val ga.val gb.val 2) = true → exec (.aluSub x gd ga gb) s = .next ((t.setGpr x gd (t.gpr x ga - t.gpr x gb)).retire x)) ∧
    (s.fetches x (wG3 0x00 gd.val ga.val gb.val 3) = true → exec (.aluAnd x gd ga gb) s = .next ((t.setGpr x gd (t.gpr x ga &&& t.gpr x gb)).retire x)) ∧
    (s.fetches x (wG3 0x00 gd.val ga.val gb.val 4) = true → exec (.aluOr x gd ga gb) s = .next ((t.setGpr x gd (t.gpr x ga ||| t.gpr x gb)).retire x)) ∧
    (s.fetches x (wG3 0x00 gd.val ga.val gb.val 5) = true → exec (.aluXor x gd ga gb) s = .next ((t.setGpr x gd (t.gpr x ga ^^^ t.gpr x gb)).retire x)) ∧
    (s.fetches x (wG3 0x00 gd.val ga.val gb.val 6) = true → exec (.aluAndn x gd ga gb) s = .next ((t.setGpr x gd (t.gpr x ga &&& ~~~(t.gpr x gb))).retire x)) ∧
    (s.fetches x (wG3 0x00 gd.val ga.val gb.val 7) = true → exec (.aluMul x gd ga gb) s = .next ((t.setGpr x gd (t.gpr x ga * t.gpr x gb)).retire x)) ∧
    (s.fetches x (wG3 0x00 gd.val ga.val gb.val 8) = true → exec (.aluMulhu x gd ga gb) s = .next ((t.setGpr x gd (BitVec.ofNat 64 ((t.gpr x ga).toNat * (t.gpr x gb).toNat / 2 ^ 64))).retire x)) ∧
    (s.fetches x (wG3 0x00 gd.val ga.val gb.val 9) = true → exec (.aluMinu x gd ga gb) s = .next ((t.setGpr x gd (BitVec.ofNat 64 (min (t.gpr x ga).toNat (t.gpr x gb).toNat))).retire x)) ∧
    (s.fetches x (wG3 0x00 gd.val ga.val gb.val 10) = true → exec (.aluMaxu x gd ga gb) s = .next ((t.setGpr x gd (BitVec.ofNat 64 (max (t.gpr x ga).toNat (t.gpr x gb).toNat))).retire x)) ∧
    (s.fetches x (wG3 0x00 gd.val ga.val gb.val 11) = true → exec (.aluMins x gd ga gb) s = .next ((t.setGpr x gd (BitVec.ofInt 64 (min (t.gpr x ga).toInt (t.gpr x gb).toInt))).retire x)) ∧
    (s.fetches x (wG3 0x00 gd.val ga.val gb.val 12) = true → exec (.aluMaxs x gd ga gb) s = .next ((t.setGpr x gd (BitVec.ofInt 64 (max (t.gpr x ga).toInt (t.gpr x gb).toInt))).retire x)) ∧
    (gb = 0 →
      (s.fetches x (wG3 0 gd.val ga.val 0 13) = true → exec (.aluPopc x gd ga gb) s =
        .next ((t.setGpr x gd (BitVec.ofNat 64 ((List.range 64).countP (fun i => (t.gpr x ga).getLsbD i)))).retire x)) ∧
      (s.fetches x (wG3 0 gd.val ga.val 0 14) = true →
        ∃ n : Nat, exec (.aluClz x gd ga gb) s = .next ((t.setGpr x gd (BitVec.ofNat 64 n)).retire x) ∧ n ≤ 64 ∧
        (∀ i, 64 - n ≤ i → (t.gpr x ga).getLsbD i = false) ∧ (n < 64 → (t.gpr x ga).getLsbD (63 - n) = true)) ∧
      (s.fetches x (wG3 0 gd.val ga.val 0 15) = true →
        ∃ n : Nat, exec (.aluCtz x gd ga gb) s = .next ((t.setGpr x gd (BitVec.ofNat 64 n)).retire x) ∧ n ≤ 64 ∧
        (∀ i, i < n → (t.gpr x ga).getLsbD i = false) ∧ (n < 64 → (t.gpr x ga).getLsbD n = true)) ∧
      (s.fetches x (wG3 0 gd.val ga.val 0 16) = true →
        ∃ v : BitVec 64, exec (.aluBswap x gd ga gb) s = .next ((t.setGpr x gd v).retire x) ∧
        ∀ i, i < 8 → v.extractLsb' (8 * i) 8 = (t.gpr x ga).extractLsb' (8 * (7 - i)) 8)) ∧
    (gb ≠ 0 →
      (s.fetches x (wG3 0x00 gd.val ga.val gb.val 13) = true → exec (.aluPopc x gd ga gb) s = .next (t.illegal x (wG3 0x00 gd.val ga.val gb.val 13))) ∧
      (s.fetches x (wG3 0x00 gd.val ga.val gb.val 14) = true → exec (.aluClz x gd ga gb) s = .next (t.illegal x (wG3 0x00 gd.val ga.val gb.val 14))) ∧
      (s.fetches x (wG3 0x00 gd.val ga.val gb.val 15) = true → exec (.aluCtz x gd ga gb) s = .next (t.illegal x (wG3 0x00 gd.val ga.val gb.val 15))) ∧
      (s.fetches x (wG3 0x00 gd.val ga.val gb.val 16) = true → exec (.aluBswap x gd ga gb) s = .next (t.illegal x (wG3 0x00 gd.val ga.val gb.val 16))))

/-- When a context may issue and its next word is the instruction's: SLL, SRL, SRA, ROL and ROR write ga moved by gb[5:0]; EQ, NE, LTU, LTS, LEU and LES write 1 where the relation of the unsigned or signed readings holds and 0 elsewhere; ADDI, CEQI and CLTSI extend the immediate with sign, ANDI, ORI, XORI and CLTUI with zeros; MOVZ places the immediate in bits [16k+15:16k] of zero, and MOVK replaces those bits of gd and keeps every other. Each retires. -/
def Obligations.ShiftCompareImmediateResults : Prop :=
  ∀ (x : Ctx) (gd ga gb : GReg) (imm : BitVec 16) (k : Fin 4) (s : State), s.canIssue x = true →
    let t := s.atSlot x
    (s.fetches x (wG3 0x01 gd.val ga.val gb.val 1) = true → exec (.shiftSll x gd ga gb) s = .next ((t.setGpr x gd ((t.gpr x ga) <<< ((t.gpr x gb).toNat % 64))).retire x)) ∧
    (s.fetches x (wG3 0x01 gd.val ga.val gb.val 2) = true → exec (.shiftSrl x gd ga gb) s = .next ((t.setGpr x gd ((t.gpr x ga) >>> ((t.gpr x gb).toNat % 64))).retire x)) ∧
    (s.fetches x (wG3 0x01 gd.val ga.val gb.val 3) = true → exec (.shiftSra x gd ga gb) s = .next ((t.setGpr x gd ((t.gpr x ga).sshiftRight ((t.gpr x gb).toNat % 64))).retire x)) ∧
    (s.fetches x (wG3 0x01 gd.val ga.val gb.val 4) = true → exec (.shiftRol x gd ga gb) s = .next ((t.setGpr x gd ((t.gpr x ga).rotateLeft ((t.gpr x gb).toNat % 64))).retire x)) ∧
    (s.fetches x (wG3 0x01 gd.val ga.val gb.val 5) = true → exec (.shiftRor x gd ga gb) s = .next ((t.setGpr x gd ((t.gpr x ga).rotateRight ((t.gpr x gb).toNat % 64))).retire x)) ∧
    (s.fetches x (wG3 0x02 gd.val ga.val gb.val 1) = true → exec (.cmpEq x gd ga gb) s = .next ((t.setGpr x gd (if (t.gpr x ga) = (t.gpr x gb) then 1 else 0)).retire x)) ∧
    (s.fetches x (wG3 0x02 gd.val ga.val gb.val 2) = true → exec (.cmpNe x gd ga gb) s = .next ((t.setGpr x gd (if (t.gpr x ga) = (t.gpr x gb) then 0 else 1)).retire x)) ∧
    (s.fetches x (wG3 0x02 gd.val ga.val gb.val 3) = true → exec (.cmpLtu x gd ga gb) s = .next ((t.setGpr x gd (if (t.gpr x ga).toNat < (t.gpr x gb).toNat then 1 else 0)).retire x)) ∧
    (s.fetches x (wG3 0x02 gd.val ga.val gb.val 4) = true → exec (.cmpLts x gd ga gb) s = .next ((t.setGpr x gd (if (t.gpr x ga).toInt < (t.gpr x gb).toInt then 1 else 0)).retire x)) ∧
    (s.fetches x (wG3 0x02 gd.val ga.val gb.val 5) = true → exec (.cmpLeu x gd ga gb) s = .next ((t.setGpr x gd (if (t.gpr x ga).toNat ≤ (t.gpr x gb).toNat then 1 else 0)).retire x)) ∧
    (s.fetches x (wG3 0x02 gd.val ga.val gb.val 6) = true → exec (.cmpLes x gd ga gb) s = .next ((t.setGpr x gd (if (t.gpr x ga).toInt ≤ (t.gpr x gb).toInt then 1 else 0)).retire x)) ∧
    (s.fetches x (wGI 3 gd.val ga.val imm) = true → exec (.addi x gd ga imm) s = .next ((t.setGpr x gd ((t.gpr x ga) + imm.signExtend 64)).retire x)) ∧
    (s.fetches x (wGI 4 gd.val ga.val imm) = true → exec (.andi x gd ga imm) s = .next ((t.setGpr x gd ((t.gpr x ga) &&& imm.setWidth 64)).retire x)) ∧
    (s.fetches x (wGI 5 gd.val ga.val imm) = true → exec (.ori x gd ga imm) s = .next ((t.setGpr x gd ((t.gpr x ga) ||| imm.setWidth 64)).retire x)) ∧
    (s.fetches x (wGI 6 gd.val ga.val imm) = true → exec (.xori x gd ga imm) s = .next ((t.setGpr x gd ((t.gpr x ga) ^^^ imm.setWidth 64)).retire x)) ∧
    (s.fetches x (wGI 8 gd.val ga.val imm) = true → exec (.ceqi x gd ga imm) s = .next ((t.setGpr x gd (if (t.gpr x ga) = imm.signExtend 64 then 1 else 0)).retire x)) ∧
    (s.fetches x (wGI 9 gd.val ga.val imm) = true → exec (.cltui x gd ga imm) s = .next ((t.setGpr x gd (if (t.gpr x ga).toNat < imm.toNat then 1 else 0)).retire x)) ∧
    (s.fetches x (wGI 10 gd.val ga.val imm) = true → exec (.cltsi x gd ga imm) s = .next ((t.setGpr x gd (if (t.gpr x ga).toInt < imm.toInt then 1 else 0)).retire x)) ∧
    (s.fetches x (wGI 0x0B gd.val k.val imm) = true →
      exec (.movz x gd imm k) s = .next ((t.setGpr x gd (imm.setWidth 64 <<< (16 * k.val))).retire x)) ∧
    (s.fetches x (wGI 0x0C gd.val k.val imm) = true → ∃ v : BitVec 64, exec (.movk x gd imm k) s = .next ((t.setGpr x gd v).retire x) ∧
      ∀ i, i < 64 → v.getLsbD i =
        if 16 * k.val ≤ i ∧ i < 16 * k.val + 16 then imm.getLsbD (i - 16 * k.val) else (t.gpr x gd).getLsbD i)

/-- When a context may issue and its next word is the instruction's: SHI of kinds 1 to 5 moves ga by its amount and other kinds are undefined; BFX whose field ends at bit 63 or below gives the field's bits and above them zeros or its top bit, BFI replaces the field of gd by the low bits of ga, and a field past bit 63 is undefined; CRC advances ga[31:0] over the low bytes of gb by the reflected polynomial its p bit names. -/
def Obligations.BitFieldResults : Prop :=
  ∀ (x : Ctx) (gd ga gb : GReg) (k : Fin 8) (n pos len1 : Fin 64) (sg : Bool) (w : Fin 4) (p : Bool) (s : State), s.canIssue x = true →
    let t := s.atSlot x
    let wShi := wGI 7 gd.val ga.val (BitVec.ofNat 16 (k.val * 64 + n.val))
    let wBfx := wBF 0x0D gd.val ga.val pos.val len1.val (bit sg)
    let wBfi := wBF 0x0E gd.val ga.val pos.val len1.val 0
    (s.fetches x wShi = true →
      (1 ≤ k.val ∧ k.val ≤ 5 → exec (.shi x gd ga k n) s = .next ((t.setGpr x gd
        (if k.val = 1 then t.gpr x ga <<< n.val else if k.val = 2 then t.gpr x ga >>> n.val
         else if k.val = 3 then (t.gpr x ga).sshiftRight n.val else if k.val = 4 then (t.gpr x ga).rotateLeft n.val
         else (t.gpr x ga).rotateRight n.val)).retire x)) ∧
      (k.val = 0 ∨ 5 < k.val → exec (.shi x gd ga k n) s = .next (t.illegal x wShi))) ∧
    (s.fetches x wBfx = true →
      (pos.val + len1.val < 64 → ∃ v : BitVec 64, exec (.bfx x gd ga pos len1 sg) s = .next ((t.setGpr x gd v).retire x) ∧
        ∀ i, i < 64 → v.getLsbD i =
          if i ≤ len1.val then (t.gpr x ga).getLsbD (pos.val + i) else sg && (t.gpr x ga).getLsbD (pos.val + len1.val)) ∧
      (64 ≤ pos.val + len1.val → exec (.bfx x gd ga pos len1 sg) s = .next (t.illegal x wBfx))) ∧
    (s.fetches x wBfi = true →
      (pos.val + len1.val < 64 → ∃ v : BitVec 64, exec (.bfi x gd ga pos len1) s = .next ((t.setGpr x gd v).retire x) ∧
        ∀ i, i < 64 → v.getLsbD i =
          if pos.val ≤ i ∧ i ≤ pos.val + len1.val then (t.gpr x ga).getLsbD (i - pos.val) else (t.gpr x gd).getLsbD i) ∧
      (64 ≤ pos.val + len1.val → exec (.bfi x gd ga pos len1) s = .next (t.illegal x wBfi))) ∧
    (s.fetches x (wG3 0x0F gd.val ga.val gb.val (w.val + 4 * bit p)) = true → exec (.crc x gd ga gb w p) s = .next ((t.setGpr x gd
      ((crcRun (if p then polyEth else polyC) ((t.gpr x ga).setWidth 32) (leBytes (t.gpr x gb).toNat (2 ^ w.val))).setWidth 64)).retire x))

/-- After a write of v to register gd of context x, register r of a context y reads v where y is x, r is gd and gd is not g0, and otherwise what it read before; g0 reads 0 always; and nothing but the contexts' state changes. Retiring an instruction at index i with no loop active moves a control core to i + 1, and a thread or background context to i + 1 if that lies in its code; at the end of a loop body with a pass left it moves to the loop's first instruction with one pass less, and with none left it drops the loop. In these cases the general registers and everything but the contexts' state stay. -/
def Obligations.RegistersAndRetiring : Prop :=
  (∀ (x y : Ctx) (gd r : GReg) (v : BitVec 64) (s : State),
    ((s.setGpr x gd v).gpr y r = if y = x ∧ r = gd ∧ gd ≠ 0 then v else s.gpr y r) ∧
    s.gpr y 0 = 0 ∧ KeepsBut [.spur] s (s.setGpr x gd v)) ∧
  (∀ (x : Ctx) (s : State),
    let th := s.thr (ctxKey x)
    let u := s.retire x
    (th.loops = [] → (isCc (ctxKey x) = true ∨ th.index + 1 < s.codeLen (ctxKey x)) →
      (u.thr (ctxKey x)).index = th.index + 1 ∧ (u.thr (ctxKey x)).loops = [] ∧ KeepsBut [.spur] s u ∧
      ∀ (y : Ctx) (r : GReg), u.gpr y r = s.gpr y r) ∧
    (∀ (l : Loop) (ls : List Loop), th.loops = l :: ls → l.stop = th.index + 1 → 0 < l.left →
      (isCc (ctxKey x) = true ∨ l.first < s.codeLen (ctxKey x)) →
      (u.thr (ctxKey x)).index = l.first ∧ (u.thr (ctxKey x)).loops = { l with left := l.left - 1 } :: ls ∧ KeepsBut [.spur] s u ∧
      ∀ (y : Ctx) (r : GReg), u.gpr y r = s.gpr y r) ∧
    (∀ l : Loop, th.loops = [l] → l.stop = th.index + 1 → l.left = 0 →
      (isCc (ctxKey x) = true ∨ th.index + 1 < s.codeLen (ctxKey x)) →
      (u.thr (ctxKey x)).index = th.index + 1 ∧ (u.thr (ctxKey x)).loops = [] ∧ KeepsBut [.spur] s u ∧
      ∀ (y : Ctx) (r : GReg), u.gpr y r = s.gpr y r))

/-- On a control core an undefined word w traps: TRAP_CAUSE 1, TRAP_PC the instruction's byte address, TRAP_VAL w, STATUS[1] the old STATUS[0] and STATUS[0] 0, the index at the vector plus 0x40, other parts of the state unchanged. A thread that holds a frame and has a group ends it: SPUR_CORE_FAULT shows cause 1, the index, its image's program epoch and the thread, and the thread holds no frame and waits with mask 1. INTERRUPT n to a control core in service latches input 26 + n; with STATUS[0] 1 it traps with cause 7, TRAP_PC the address of the instruction to be issued, interrupts disabled and the index at the vector plus 7 times 0x40; with STATUS[0] 0 no trap is taken and nothing but contexts changes; a control core out of service ignores it. TRAP_VAL is a free value (log entry 2). -/
def Obligations.IllegalInstructionsAndInterrupts : Prop :=
  (∀ (x : Ctx) (w : BitVec 32) (s : State),
    let th := s.thr (ctxKey x)
    let u := s.illegal x w
    (∀ k : Fin 8, x = .cc k →
      SMap.getD (u.thr (ctxKey x)).sys 0 0 = 1 ∧ SMap.getD (u.thr (ctxKey x)).sys 1 0 = BitVec.ofNat 64 (4 * th.index) ∧
      SMap.getD (u.thr (ctxKey x)).sys 2 0 = w.setWidth 64 ∧
      (SMap.getD (u.thr (ctxKey x)).sys 4 0).getLsbD 0 = false ∧
      (SMap.getD (u.thr (ctxKey x)).sys 4 0).getLsbD 1 = (SMap.getD th.sys 4 0).getLsbD 0 ∧
      (u.thr (ctxKey x)).index = ((SMap.getD th.sys 3 0).toNat + 0x40) / 4 ∧ KeepsBut [.spur] s u) ∧
    (∀ (c : Core) (t : Fin 16) (fid g : Nat), x = .thr c t → th.frame = some fid → th.group = some g →
      u.reg .spurCoreFault c.val = BitVec.ofNat 64 (1 <<< 56 ||| (th.index % 2 ^ 24) <<< 32 |||
        ((s.imageOf (ctxKey x)).map (·.epoch)).getD 0 <<< 24 ||| t.val) ∧
      (u.thr (ctxKey x)).frame = none ∧ (u.thr (ctxKey x)).st = 2 ∧ (u.thr (ctxKey x)).mask = 1)) ∧
  (∀ (k : Fin 8) (n : Fin 6) (s : State),
    (s.blkState ⟨.control, k.val⟩ ≠ 2 → exec (.interrupt ⟨k, n⟩) s = .next s) ∧
    (s.blkState ⟨.control, k.val⟩ = 2 →
      let key := ctxKey (.cc k)
      let th := s.thr key
      ((SMap.getD th.sys 4 0).getLsbD 0 = true → Completes (.interrupt ⟨k, n⟩) s (fun t =>
        SMap.getD (t.thr key).sys 0 0 = 7 ∧ SMap.getD (t.thr key).sys 1 0 = BitVec.ofNat 64 (4 * th.index) ∧
        (SMap.getD (t.thr key).sys 4 0).getLsbD 0 = false ∧ (t.thr key).pending = th.pending ||| (1#32 <<< (26 + n.val)) ∧
        (t.thr key).index = ((SMap.getD th.sys 3 0).toNat + 0x1C0) / 4 ∧ KeepsBut [.spur, .freeCtr] s t)) ∧
      ((SMap.getD th.sys 4 0).getLsbD 0 = false → Completes (.interrupt ⟨k, n⟩) s (fun t =>
        (t.thr key).pending = th.pending ||| (1#32 <<< (26 + n.val)) ∧ (t.thr key).sys = th.sys ∧ (t.thr key).index = th.index ∧
        KeepsBut [.spur] s t))))

/-- When a context may issue and its next word is the instruction's, LDS, LDSW and LDR in its slot (LDR in the first one in its turn by R172) compute ga plus the sign-extended offset; where that address is in the claim and its word is not poisoned, gd takes the bytes there, first byte lowest, the 4-byte load extended with zeros; a poisoned word has the outcome of R445; where the address faults the memory fault of its trap cause is taken. Byte j of the value is the byte at the address plus j. -/
def Obligations.LoadResults : Prop :=
  ∀ (x : Ctx) (gd ga : GReg) (off : BitVec 16) (s : State),
    (let b := s
     let t := b.atSlot x
     let a := t.gpr x ga + off.signExtend 64
     b.canIssue x = true → b.fetches x (wGI 0x10 gd.val ga.val off) = true →
      (∀ p, (t.scratchAt x a 8 false) = .inl p → t.poisoned p = false → exec (.lds x gd ga off) s = .next ((t.setGpr x gd (t.loadAt p 8)).retire x)) ∧
      (∀ p, (t.scratchAt x a 8 false) = .inl p → t.poisoned p = true → exec (.lds x gd ga off) s = .next (t.badLoad x p a)) ∧
      (∀ tc, (t.scratchAt x a 8 false) = .inr tc → exec (.lds x gd ga off) s = .next (t.memFault x tc a))) ∧
    (let b := s
     let t := b.atSlot x
     let a := t.gpr x ga + off.signExtend 64
     b.canIssue x = true → b.fetches x (wGI 0x11 gd.val ga.val off) = true →
      (∀ p, (t.scratchAt x a 4 false) = .inl p → t.poisoned p = false → exec (.ldsw x gd ga off) s = .next ((t.setGpr x gd (t.loadAt p 4)).retire x)) ∧
      (∀ p, (t.scratchAt x a 4 false) = .inl p → t.poisoned p = true → exec (.ldsw x gd ga off) s = .next (t.badLoad x p a)) ∧
      (∀ tc, (t.scratchAt x a 4 false) = .inr tc → exec (.ldsw x gd ga off) s = .next (t.memFault x tc a))) ∧
    (let b := s.takeTurn x
     let t := b.atSlot x
     let a := t.gpr x ga + off.signExtend 64
     b.canIssue x = true → b.fetches x (wGI 0x14 gd.val ga.val off) = true →
      (∀ p, (t.sharedAt x a) = .inl p → t.poisoned p = false → exec (.ldr x gd ga off) s = .next (((t.noteShared x (.inl p)).setGpr x gd (t.loadAt p 8)).retire x)) ∧
      (∀ p, (t.sharedAt x a) = .inl p → t.poisoned p = true → exec (.ldr x gd ga off) s = .next ((t.noteShared x (.inl p)).badLoad x p a)) ∧
      (∀ tc, (t.sharedAt x a) = .inr tc → exec (.ldr x gd ga off) s = .next (t.memFault x tc a))) ∧
    (∀ (p : MemAt) (n j : Nat) (t : State), n ≤ 8 → j < 8 →
      (t.loadAt p n).extractLsb' (8 * j) 8 = if j < n then Mem.byte (t.memOf p) (p.addr + j) else 0)

/-- When a context may issue and its next word is the instruction's, STS, STSW and STR at an address their operands give write gs's low bytes there, first byte lowest, and retire; every byte of that memory outside the 8 or 4 bytes stored and every byte of the other memories reads as before, and of the state only memories change; where the address faults the memory fault is taken. -/
def Obligations.StoreResults : Prop :=
  ∀ (x : Ctx) (gs ga : GReg) (off : BitVec 16) (s : State),
    (let b := s
     let t := b.atSlot x
     let a := t.gpr x ga + off.signExtend 64
     b.canIssue x = true → b.fetches x (wGI 0x12 gs.val ga.val off) = true →
      (∀ p, (t.scratchAt x a 8 true) = .inl p → exec (.sts x gs ga off) s = .next ((t.storeAt p 8 (t.gpr x gs)).retire x)) ∧
      (∀ tc, (t.scratchAt x a 8 true) = .inr tc → exec (.sts x gs ga off) s = .next (t.memFault x tc a))) ∧
    (let b := s
     let t := b.atSlot x
     let a := t.gpr x ga + off.signExtend 64
     b.canIssue x = true → b.fetches x (wGI 0x13 gs.val ga.val off) = true →
      (∀ p, (t.scratchAt x a 4 true) = .inl p → exec (.stsw x gs ga off) s = .next ((t.storeAt p 4 (t.gpr x gs)).retire x)) ∧
      (∀ tc, (t.scratchAt x a 4 true) = .inr tc → exec (.stsw x gs ga off) s = .next (t.memFault x tc a))) ∧
    (let b := s.takeTurn x
     let t := b.atSlot x
     let a := t.gpr x ga + off.signExtend 64
     b.canIssue x = true → b.fetches x (wGI 0x15 gs.val ga.val off) = true →
      (∀ p, (t.sharedAt x a) = .inl p → exec (.str x gs ga off) s = .next (((t.noteShared x (.inl p)).storeAt p 8 (t.gpr x gs)).retire x)) ∧
      (∀ tc, (t.sharedAt x a) = .inr tc → exec (.str x gs ga off) s = .next (t.memFault x tc a))) ∧
    (∀ (p q : MemAt) (n : Nat) (v : BitVec 64), n ≤ 8 →
      (∀ j, j < n → Mem.byte ((s.storeAt p n v).memOf p) (p.addr + j) = v.extractLsb' (8 * j) 8) ∧
      (∀ a, a < p.addr ∨ p.addr + n ≤ a → Mem.byte ((s.storeAt p n v).memOf p) a = Mem.byte (s.memOf p) a) ∧
      ((∀ a b, p = .ext a → q ≠ .ext b) → (∀ a b, p = .scratch a → q ≠ .scratch b) → (∀ a b, p = .shared a → q ≠ .shared b) →
        (s.storeAt p n v).memOf q = s.memOf q) ∧
      KeepsBut [.mem] s (s.storeAt p n v))

/-- When a context may issue in its turn by R172, its next word is the AMO's and ga addresses an unpoisoned shared word of its claim, FADD, SWAP, FOR and FAND leave in that word the old word plus gb, gb, the OR and the AND with gb, give gd the old word, and retire; at an address that faults, the memory fault is taken. -/
def Obligations.AmoResults : Prop :=
  ∀ (x : Ctx) (gd ga gb : GReg) (s : State),
    let b := s.takeTurn x
    let t := b.atSlot x
    b.canIssue x = true →
    (b.fetches x (wG3 0x16 gd.val ga.val gb.val 1) = true →
      (∀ p, t.sharedAt x (t.gpr x ga) = .inl p → t.poisoned p = false →
        exec (.amoFadd x gd ga gb) s = .next ((((t.noteShared x (.inl p)).storeAt p 8 (t.loadAt p 8 + t.gpr x gb)).setGpr x gd (t.loadAt p 8)).retire x)) ∧
      (∀ tc, t.sharedAt x (t.gpr x ga) = .inr tc → exec (.amoFadd x gd ga gb) s = .next (t.memFault x tc (t.gpr x ga)))) ∧
    (b.fetches x (wG3 0x16 gd.val ga.val gb.val 2) = true →
      (∀ p, t.sharedAt x (t.gpr x ga) = .inl p → t.poisoned p = false →
        exec (.amoSwap x gd ga gb) s = .next ((((t.noteShared x (.inl p)).storeAt p 8 (t.gpr x gb)).setGpr x gd (t.loadAt p 8)).retire x)) ∧
      (∀ tc, t.sharedAt x (t.gpr x ga) = .inr tc → exec (.amoSwap x gd ga gb) s = .next (t.memFault x tc (t.gpr x ga)))) ∧
    (b.fetches x (wG3 0x16 gd.val ga.val gb.val 3) = true →
      (∀ p, t.sharedAt x (t.gpr x ga) = .inl p → t.poisoned p = false →
        exec (.amoFor x gd ga gb) s = .next ((((t.noteShared x (.inl p)).storeAt p 8 (t.loadAt p 8 ||| t.gpr x gb)).setGpr x gd (t.loadAt p 8)).retire x)) ∧
      (∀ tc, t.sharedAt x (t.gpr x ga) = .inr tc → exec (.amoFor x gd ga gb) s = .next (t.memFault x tc (t.gpr x ga)))) ∧
    (b.fetches x (wG3 0x16 gd.val ga.val gb.val 4) = true →
      (∀ p, t.sharedAt x (t.gpr x ga) = .inl p → t.poisoned p = false →
        exec (.amoFand x gd ga gb) s = .next ((((t.noteShared x (.inl p)).storeAt p 8 (t.loadAt p 8 &&& t.gpr x gb)).setGpr x gd (t.loadAt p 8)).retire x)) ∧
      (∀ tc, t.sharedAt x (t.gpr x ga) = .inr tc → exec (.amoFand x gd ga gb) s = .next (t.memFault x tc (t.gpr x ga))))

/-- For a thread or background context that runs image i, a scratch access of n bytes (n 4 or 8) at a goes to byte a of its core's 64 KiB exactly when a is a multiple of n and the bytes lie in the scratch claim, and otherwise faults with cause 3; a shared access goes to its ridge's shared data area exactly when aligned and in the shared claim. -/
def Obligations.DataProfileAddresses : Prop :=
  ∀ (x : Ctx) (a : BitVec 64) (n : Nat) (w : Bool) (i : Image) (s : State), isCc (ctxKey x) = false → s.imageOf (ctxKey x) = some i →
    (s.scratchAt x a n w =
      if a.toNat % n = 0 ∧ 8 * i.scrBase ≤ a.toNat ∧ a.toNat + n ≤ 8 * i.scrBase + 8 * i.scrSize ∧ a.toNat + n ≤ 65536
      then .inl (.scratch (keyCore (ctxKey x) * 65536 + a.toNat)) else .inr 3) ∧
    (s.sharedAt x a =
      if a.toNat % 8 = 0 ∧ i.shBase ≤ a.toNat ∧ a.toNat + 8 ≤ i.shBase + i.shSize ∧ a.toNat + 8 ≤ 524288
      then .inl (.shared (keyCore (ctxKey x) / 16 * 2097152 + 1572864 + a.toNat)) else .inr 3)

/-- When a context may issue and its next word is the instruction's: BEQ, BNE and BR with an offset of 1 or more, or any offset on a control core, move to the index that far away when taken (BEQ on equal registers, BNE on different ones, BR always) and retire otherwise; with an offset below 1 in the data profile they are undefined whether taken or not. A taken branch leaves every loop whose body does not contain its target. -/
def Obligations.BranchResults : Prop :=
  ∀ (x : Ctx) (ga gb : GReg) (off : BitVec 16) (o26 : BitVec 26) (s : State), s.canIssue x = true →
    let t := s.atSlot x
    let wq := wGI 0x18 ga.val gb.val off
    let wn := wGI 0x19 ga.val gb.val off
    let wb := wBL 0x1A o26
    ((isCc (ctxKey x) = true ∨ 1 ≤ off.toInt) →
      (s.fetches x wq = true → exec (.beq x ga gb off) s =
        .next (if t.gpr x ga = t.gpr x gb then t.branchTo x (t.indexAt x off.toInt) else t.retire x)) ∧
      (s.fetches x wn = true → exec (.bne x ga gb off) s =
        .next (if t.gpr x ga = t.gpr x gb then t.retire x else t.branchTo x (t.indexAt x off.toInt)))) ∧
    ((isCc (ctxKey x) = true ∨ 1 ≤ o26.toInt) → s.fetches x wb = true → exec (.br x o26) s = .next (t.branchTo x (t.indexAt x o26.toInt))) ∧
    (isCc (ctxKey x) = false → off.toInt < 1 →
      (s.fetches x wq = true → exec (.beq x ga gb off) s = .next (t.illegal x wq)) ∧
      (s.fetches x wn = true → exec (.bne x ga gb off) s = .next (t.illegal x wn))) ∧
    (isCc (ctxKey x) = false → o26.toInt < 1 → s.fetches x wb = true → exec (.br x o26) s = .next (t.illegal x wb)) ∧
    (∀ j : Nat, (isCc (ctxKey x) = true ∨ j < s.codeLen (ctxKey x)) →
      ((s.branchTo x j).thr (ctxKey x)).index = j ∧
      ((s.branchTo x j).thr (ctxKey x)).loops =
        (s.thr (ctxKey x)).loops.filter (fun l => decide (l.first ≤ j) && decide (j < l.stop)) ∧
      KeepsBut [.spur] s (s.branchTo x j))

/-- When a context may issue and its next word is the LOOP: with max and len at least 1 and a body that nests as R174 allows and ends inside the code, it pushes a loop of min(ga, max) - 1 further passes and goes to the next instruction, or with a count of 0 and no loop active goes on behind the body; with max or len 0, or a body that does not fit, it is undefined. On a control core CALL gives g31 the byte address of the next instruction and branches, and JR goes to the index of a byte address that is a multiple of 4 and traps with ALIGN at any other. -/
def Obligations.LoopCallJumpResults : Prop :=
  ∀ (x : Ctx) (ga : GReg) (max : Fin 2048) (len : Fin 1024) (off : BitVec 26) (s : State), s.canIssue x = true →
    let t := s.atSlot x
    let th := t.thr (ctxKey x)
    let w := wLoop ga.val max.val len.val
    let stop := th.index + 1 + len.val
    (s.fetches x w = true →
      (max.val ≠ 0 → len.val ≠ 0 → t.loopOk x stop = true → 0 < (t.gpr x ga).toNat →
        exec (.loop x ga max len) s = .next (t.goto (ctxKey x)
          ({ first := th.index + 1, stop := stop, left := min (t.gpr x ga).toNat max.val - 1 } :: th.loops) (th.index + 1))) ∧
      (max.val ≠ 0 → len.val ≠ 0 → t.loopOk x stop = true → t.gpr x ga = 0 → th.loops = [] →
        exec (.loop x ga max len) s = .next (t.goto (ctxKey x) [] stop)) ∧
      (max.val = 0 ∨ len.val = 0 ∨ t.loopOk x stop = false → exec (.loop x ga max len) s = .next (t.illegal x w))) ∧
    (∀ k : Fin 8, x = .cc k →
      exec (.call x off) s =
        .next ((t.setGpr x 31 (BitVec.ofNat 64 (4 * (th.index + 1)))).branchTo x (t.indexAt x off.toInt)) ∧
      ((t.gpr x ga).toNat % 4 = 0 → exec (.jr x ga) s = .next (t.branchTo x ((t.gpr x ga).toNat / 4))) ∧
      ((t.gpr x ga).toNat % 4 ≠ 0 → exec (.jr x ga) s = .next (t.faultAt x cMem 4 (t.gpr x ga))))

/-- On a control core that may issue: MFS and MTS of registers 0 to 7 read and write system registers (CORE_ID reads the core's number and is not written, STATUS keeps its two bits) and trap at other numbers; TLB, CACHE and FENCE retire; enable and disable set and clear STATUS[0]; ERET goes to TRAP_PC with STATUS[0] restored from STATUS[1]; SYSCALL and BRK trap with causes 6 and 5. In a thread or background context they are undefined, CALL and JR too, and BRK with debug not permitted in this lifecycle only retires. CORE_ID's discarded write is the model's choice, log entry 27. -/
def Obligations.ControlProfileResults : Prop :=
  ∀ (k : Fin 8) (ga gd : GReg) (sr : BitVec 16) (code : BitVec 26) (s : State),
    let x : Ctx := .cc k
    let th := s.thr (ctxKey x)
    let st := SMap.getD th.sys 4 0
    (s.canIssue x = true →
    (sr.toNat ≤ 6 → exec (.mfs x gd sr) s = .next ((s.setGpr x gd (SMap.getD th.sys sr.toNat 0)).retire x)) ∧
    (sr.toNat = 7 → exec (.mfs x gd sr) s = .next ((s.setGpr x gd (BitVec.ofNat 64 k.val)).retire x) ∧
      exec (.mts x ga sr) s = .next (s.retire x)) ∧
    (sr.toNat ≤ 6 → ∃ t, exec (.mts x ga sr) s = .next t ∧
      SMap.getD (t.thr (ctxKey x)).sys sr.toNat 0 = (if sr.toNat = 4 then s.gpr x ga &&& 3 else s.gpr x ga) ∧ KeepsBut [.spur] s t) ∧
    (7 < sr.toNat → exec (.mfs x gd sr) s = .next (s.illegal x (wGI 0x32 gd.val 0 sr)) ∧
      exec (.mts x ga sr) s = .next (s.illegal x (wGI 0x33 0 ga.val sr))) ∧
    exec (.tlbInvalidateVa x ga) s = .next (s.retire x) ∧
    exec (.tlbInvalidateAsid x ga) s = .next (s.retire x) ∧
    exec (.tlbInvalidateAll x ga) s = .next (s.retire x) ∧
    exec (.cacheClean x ga) s = .next (s.retire x) ∧
    exec (.cacheInvalidate x ga) s = .next (s.retire x) ∧
    exec (.cacheCleanInvalidate x ga) s = .next (s.retire x) ∧
    exec (.cacheInvalidateInstruction x ga) s = .next (s.retire x) ∧
    exec (.fenceMemory x) s = .next (s.retire x) ∧
    exec (.fenceInstruction x) s = .next (s.retire x) ∧
    (∃ t, exec (.enableInterrupts x) s = .next t ∧ SMap.getD (t.thr (ctxKey x)).sys 4 0 = (st ||| 1) &&& 3 ∧ KeepsBut [.spur] s t) ∧
    (∃ t, exec (.disableInterrupts x) s = .next t ∧ SMap.getD (t.thr (ctxKey x)).sys 4 0 = st &&& 2 ∧ KeepsBut [.spur] s t) ∧
    (∃ t, exec (.eret x) s = .next t ∧ (t.thr (ctxKey x)).index = (SMap.getD th.sys 1 0).toNat / 4 ∧
      (SMap.getD (t.thr (ctxKey x)).sys 4 0).getLsbD 0 = st.getLsbD 1 ∧ KeepsBut [.spur] s t) ∧
    (∃ t, exec (.syscall x) s = .next t ∧ SMap.getD (t.thr (ctxKey x)).sys 0 0 = 6 ∧
      SMap.getD (t.thr (ctxKey x)).sys 1 0 = BitVec.ofNat 64 (4 * th.index) ∧ KeepsBut [.spur] s t) ∧
    (∃ t, exec (.brk x code) s = .next t ∧ SMap.getD (t.thr (ctxKey x)).sys 0 0 = 5 ∧
      SMap.getD (t.thr (ctxKey x)).sys 1 0 = BitVec.ofNat 64 (4 * th.index) ∧ KeepsBut [.spur] s t)) ∧
    (∀ y : Ctx, isCc (ctxKey y) = false → s.canIssue y = true →
      (s.fetches y (wGI 0x32 gd.val 0 sr) = true → exec (.mfs y gd sr) s = .next ((s.atSlot y).illegal y (wGI 0x32 gd.val 0 sr))) ∧
      (s.fetches y (wGI 0x33 0 ga.val sr) = true → exec (.mts y ga sr) s = .next ((s.atSlot y).illegal y (wGI 0x33 0 ga.val sr))) ∧
      (s.fetches y (wBL 0x30 code) = true → exec (.call y code) s = .next ((s.atSlot y).illegal y (wBL 0x30 code))) ∧
      (s.fetches y (wGI 0x31 0 ga.val 0) = true → exec (.jr y ga) s = .next ((s.atSlot y).illegal y (wGI 0x31 0 ga.val 0))) ∧
      (s.fetches y (wG3 0x36 0 0 0 1) = true → exec (.eret y) s = .next ((s.atSlot y).illegal y (wG3 0x36 0 0 0 1))) ∧
      (s.fetches y (wG3 0x36 0 0 0 4) = true → exec (.syscall y) s = .next ((s.atSlot y).illegal y (wG3 0x36 0 0 0 4))) ∧
      (s.fetches y (wG3 0x37 0 0 0 1) = true → exec (.fenceMemory y) s = .next ((s.atSlot y).illegal y (wG3 0x37 0 0 0 1))) ∧
      (s.fetches y (wG3 0x34 0 ga.val 0 3) = true → exec (.tlbInvalidateAll y ga) s = .next ((s.atSlot y).illegal y (wG3 0x34 0 ga.val 0 3))) ∧
      (s.fetches y (wG3 0x35 0 ga.val 0 1) = true → exec (.cacheClean y ga) s = .next ((s.atSlot y).illegal y (wG3 0x35 0 ga.val 0 1))) ∧
      (s.fetches y (wBL 0x3F code) = true → (s.atSlot y).is .secLifecycleDebug = false →
        exec (.brk y code) s = .next ((s.atSlot y).retire y)))

/-- CREST_SAMPLE_AT stages an instant and CREST_SAMPLE_OFS submits theta with it. SERVO_SAMPLE takes the oldest sample: one that R49 discards is counted in CREST_SAMPLE_DISC and changes nothing else; an accepted one is counted in CREST_SAMPLE_CNT, and from FREE, ACQUIRE, LOCKED and HOLDOVER the state, integrator, addend and pending step follow the table of R51, with lock_cnt at least 1. Rounding halves away from zero in the loop law is the model's choice, log entry 107. -/
def Obligations.ServoSamples : Prop :=
  ∀ (a th : BitVec 64) (s : State),
    Completes (.crestSampleAt a) s (fun t => t.crest = { s.crest with staged := a } ∧ KeepsBut [.crest] s t) ∧
    Completes (.crestSampleOfs th) s (fun t => KeepsBut [.crest] s t ∧
      t.crest = { s.crest with samples := s.crest.samples ++ [{ at_ := s.crest.staged, theta := th.toInt, pps := false }] }) ∧
    (s.crest.samples = [] → exec .servoSample s = .next s) ∧
    ∀ (x : Sample) (l : List Sample), s.crest.samples = x :: l →
      let b := s.srvBank
      let src := s.get .crestSrvCfgSrc b
      let mag := x.theta.natAbs
      let lockT := s.get .crestSrvThrLockThr b * 16384
      let unlockT := s.get .crestSrvThrUnlockThr b * 16384
      let stepT := s.get .crestSrvThrStepThr b * 65536
      let lim : Int := (s.get .crestSrvLimFclamp b * 4294967296 : Nat)
      let integAfter := fun (i : Int) (ki : Nat) => clampInt (i + ki * x.theta) lim
      let addendAfter := fun (i : Int) (kp ki : Nat) =>
        BitVec.ofInt 48 (s.get .crestNomNom b - roundDiv (clampInt (kp * x.theta + integAfter i ki) lim) 1000000000)
      let bad := 2 ^ 36 < ltDiff s.epochStart x.at_ ∨ 0 < ltDiff x.at_ s.lt ∨ s.crest.step.isSome = true ∨
        (∃ e, s.crest.stepAt = some e ∧ s.instantOf x.at_ < (e : Int)) ∨ (x.pps = true ∧ src ≠ 2) ∨
        (x.pps = false ∧ src ≠ 1 ∧ ¬(src = 2 ∧ (s.crest.state = .free ∨ s.crest.state = .acquire)))
      (bad → Completes .servoSample s (fun t => t.crest = { s.crest with samples := l } ∧
        t.get .crestSampleDiscDiscarded = (s.get .crestSampleDiscDiscarded + 1) % 2 ^ 64 ∧
        RegsBut [(.crestSampleDisc, 0)] s t ∧ KeepsBut [.regs, .crest] s t)) ∧
      (¬bad → (x.pps = true ∨ src = 1) → 0 < s.get .crestSrvThrLockCnt b → Completes .servoSample s (fun t =>
        t.crest.samples = l ∧ t.get .crestSampleCntAccepted = (s.get .crestSampleCntAccepted + 1) % 2 ^ 64 ∧
        t.crest.lastSample = s.elapsed ∧ t.crest.acc = s.crest.acc ∧ t.crest.map = s.crest.map ∧
        RegsBut [(.crestSampleCnt, 0), (.crestSrvSta, 0)] s t ∧ KeepsBut [.regs, .crest] s t ∧
        (s.crest.state = .locked →
          t.crest.state = (if unlockT < mag ∧ 3 ≤ s.crest.run then .acquire else .locked) ∧
          t.crest.integ = integAfter s.crest.integ (s.get .crestGainLckKi b) ∧
          t.crest.addend = addendAfter s.crest.integ (s.get .crestGainLckKp b) (s.get .crestGainLckKi b) ∧ t.crest.step = none) ∧
        (s.crest.state = .holdover → mag ≤ lockT →
          t.crest.state = .locked ∧ t.crest.srvLost = false ∧
          t.crest.integ = integAfter s.crest.integ (s.get .crestGainLckKi b)) ∧
        (s.crest.state = .holdover → lockT < mag → t.crest.state = .acquire ∧ t.crest.srvLost = false) ∧
        (s.crest.state = .free ∨ s.crest.state = .acquire → stepT < mag → s.is .crestSrvCfgStepEn b = true →
          t.crest.state = .acquire ∧ t.crest.step = some x.theta ∧ t.crest.addend = s.crest.addend ∧ t.get .crestSrvStaStepPending = 1) ∧
        (s.crest.state = .acquire → ¬(stepT < mag ∧ s.is .crestSrvCfgStepEn b = true) →
          t.crest.state = (if mag ≤ lockT ∧ s.get .crestSrvThrLockCnt b ≤ s.crest.run + 1 then .locked else .acquire) ∧
          t.crest.integ = integAfter s.crest.integ (s.get .crestGainAcqKi b) ∧
          t.crest.addend = addendAfter s.crest.integ (s.get .crestGainAcqKp b) (s.get .crestGainAcqKi b) ∧ t.crest.step = none)))

/-- With the counter started EPOCH_BEGIN brings LT to the next value whose bits [35:0] are zero; MAP advances by 2^36 units modulo the range, less a pending step's theta, which CREST_STEP_CNT counts, and a pending bank swap makes the other bank active (where no armed compare unit swaps it; another is pending after it only where the PTP engine waited to set its bank, log entry 111). Writing 1 to CREST_BANK_SWAP makes the swap pending, writing 0 does nothing. SERVO_TIMEOUT lets timeout epochs from the last sample pass, by the bank active as they end, and enters HOLDOVER with the addend of R50 if the servo is still in ACQUIRE or LOCKED with no step pending; elsewhere it does nothing. -/
def Obligations.EpochAndBankSwap : Prop :=
  ∀ (v : BitVec 32) (s : State),
    (s.crest.running = false → exec .epochBegin s = .next s) ∧
    (s.crest.running = true → Completes .epochBegin s (fun t =>
      t.epoch = (s.epoch + 1) % 2 ^ 60 ∧ t.lt.toNat % 2 ^ 36 = 0 ∧ t.crest.mapPrev = s.crest.map ∧ t.crest.step = none ∧
      (s.crest.step = none → t.crest.map = (s.crest.map + 2 ^ 36) % ftRange ∧ t.get .crestStepCntSteps = s.get .crestStepCntSteps) ∧
      (∀ th, s.crest.step = some th → (t.crest.map : Int) = ((s.crest.map : Int) + 2 ^ 36 - th) % (ftRange : Int) ∧
        t.get .crestStepCntSteps = (s.get .crestStepCntSteps + 1) % 2 ^ 64 ∧ t.crest.orStepped = true) ∧
      (s.crest.cmpTarget = [] → s.ptp.want = none → t.get .crestSrvStaSwapPending = 0) ∧
      (s.crest.cmpTarget = [] → t.srvBank = (if s.is .crestSrvStaSwapPending then 1 - s.srvBank else s.srvBank)))) ∧
    (v.getLsbD 0 = true → Completes (.crestBankSwap v) s (fun t => t.get .crestSrvStaSwapPending = 1 ∧
      RegsBut [(.crestSrvSta, 0)] s t ∧ KeepsBut [.regs] s t)) ∧
    (v.getLsbD 0 = false → exec (.crestBankSwap v) s = .next s) ∧
    (s.timing = true ↔ (s.crest.state = .acquire ∨ s.crest.state = .locked) ∧ s.crest.step = none) ∧
    (s.timing = false → exec .servoTimeout s = .next s) ∧
    (s.timing = true →
      let u := if s.get .crestSrvStaSwapPending = 1 ∧ (s.epoch + 1) * 2 ^ 36 < s.timeoutAt then s.nextEpoch else s
      let w := if u.timing then u.advanceAt u.timeoutAt else u
      s.timeoutAt = s.crest.lastSample + s.get .crestSrvLimTimeout s.srvBank * 2 ^ 36 ∧
      exec .servoTimeout s = .next (if w.timing then w.enterHoldover else w)) ∧
    s.enterHoldover.crest.state = .holdover ∧ s.enterHoldover.crest.srvLost = true ∧ s.enterHoldover.crest.integ = s.crest.integ ∧
    s.enterHoldover.crest.addend = BitVec.ofInt 48 (s.get .crestNomNom s.srvBank - roundDiv s.crest.integ 1000000000) ∧
    s.enterHoldover.crest.acc = s.crest.acc ∧ KeepsBut [.crest] s s.enterHoldover

/-- CAPTURE_EDGE on an enabled block whose configured edge it is puts LT less the signed delay behind the FIFO's entries, or with 16 entries held counts it in CREST_CAP_OVF; any other edge does nothing; a PPS_IN capture with src = 2 is also submitted to the servo, one that found its FIFO full too (log entry 114). REF_TIME_LOST and _REGAINED act while CREST_REF_CFG.en is 1 on a change. REPLICA_TRACK steps no replica: it sets how this one's clock and correction go on, the correction at most 1,000 ppm; departed by more than 0.125 ns for a stamp replica, else 2 ns, it writes a record, and marks the stamp replica until it is within limit again. The bound on the clock is the model's, log entry 30. The record's clock-domain number is a free value, log entry 2. -/
def Obligations.CapturesAndReferences : Prop :=
  ∀ (i : Fin 5) (rising : Bool) (rep : Replica) (clock : BitVec 64) (s : State),
    let on := s.is .crestCapCfgEn i.val = true ∧
      (s.get .crestCapCfgEdge i.val = 2 ∨ s.get .crestCapCfgEdge i.val = (if rising then 0 else 1))
    let v := s.lt - BitVec.ofInt 64 ((BitVec.ofNat 24 (s.get .crestCapCfgDelay i.val)).toInt * 16384)
    let pps := i.val = 4 ∧ s.get .crestSrvCfgSrc s.srvBank = 2
    (¬on → exec (.captureEdge i rising) s = .next s) ∧
    (on → Completes (.captureEdge i rising) s (fun t => KeepsBut [.regs, .crest] s t ∧
      (∀ j, j ≠ i.val → t.caps j = s.caps j) ∧
      ((s.caps i.val).length < 16 → t.caps i.val = s.caps i.val ++ [v] ∧
        t.get .crestCapStaFill i.val = (s.caps i.val).length + 1 ∧ RegsBut [(.crestCapSta, i.val)] s t) ∧
      (16 ≤ (s.caps i.val).length → t.caps i.val = s.caps i.val ∧
        t.get .crestCapOvfOvf i.val = (s.get .crestCapOvfOvf i.val + 1) % 2 ^ 64 ∧ RegsBut [(.crestCapOvf, i.val)] s t) ∧
      (¬pps → t.crest.samples = s.crest.samples) ∧
      (pps → ∃ x, t.crest.samples = s.crest.samples ++ [x] ∧ x.at_ = v ∧ x.pps = true))) ∧
    (s.is .crestRefCfgEn = true → s.crest.refLost = false → Completes .refTimeLost s (fun t => t.crest.refLost = true ∧
      t.get .crestRefStaLosses = (s.get .crestRefStaLosses + 1) % 2 ^ 32 ∧ t.get .crestRefStaOnRef = 0 ∧ t.lt = s.lt ∧
      (∃ e, t.cairn.raised = s.cairn.raised ++ [e] ∧ e.code = .refLost) ∧ RegsBut [(.crestRefSta, 0)] s t)) ∧
    (s.is .crestRefCfgEn = true → s.crest.refLost = true → Completes .refTimeRegained s (fun t => t.crest.refLost = false ∧
      t.get .crestRefStaOnRef = 1 ∧ t.lt = s.lt ∧ RegsBut [(.crestRefSta, 0)] s t)) ∧
    (s.is .crestRefCfgEn = false ∨ s.crest.refLost = true → exec .refTimeLost s = .next s) ∧
    (s.is .crestRefCfgEn = false ∨ s.crest.refLost = false → exec .refTimeRegained s = .next s) ∧
    Completes (.replicaTrack rep clock) s (fun t =>
      let lim := match rep with | .octet _ => 8192 | _ => 131072
      let err := s.repErr rep
      KeepsBut [.crest, .cairn, .freeCtr] s t ∧ t.lt = s.lt ∧ (∀ q : Replica, t.repLt q = s.repLt q) ∧
      (SMap.getD t.crest.reps (replicaKey rep) {}).rate.natAbs ≤ 1000 ∧ (SMap.getD t.crest.reps (replicaKey rep) {}).clock.natAbs ≤ 1000000 ∧
      (lim < err.natAbs → ∃ e, t.cairn.raised = s.cairn.raised ++ [e] ∧ e.code = .replicaLimit) ∧
      (err.natAbs ≤ lim → t.cairn = s.cairn) ∧
      (∀ o, rep = .octet o → (SMap.find t.crest.replicaOut o.val).isSome = decide (lim < err.natAbs)))

/-- CREST_CMP_ARM of a target 65,536,000 to below 2^62 LT units ahead arms the unit and clears refused and stale, targets due at this tick firing first; any other target sets refused alone. CMP_FIRE of an armed unit lets time reach the first CTC tick at or after the target, where every due unit fires, in ascending number: the firing is counted, the unit disarms with period 0 and else is armed at target plus period; TTO actions set the level of an enabled trigger block; the swap action naming the current time base makes the bank swap pending; the interrupt action signals its vector of PF0. CREST_CMP_DIS of 1 disarms an armed unit one tick later, a firing due then still occurring. PPS_OUT_RISE while PPS_OUT is enabled, and free-running or the servo LOCKED, with no step pending brings FT under the mapping in force to the next instant that is a whole second plus the phase, and if a pulse is still permitted then PPS_OUT is high and that instant is noted; while not permitted it does nothing. PPS_OUT_FALL of a high PPS_OUT lets its width from the rise pass and PPS_OUT is low; of a low one does nothing. -/
def Obligations.CompareUnitsAndPpsOut : Prop :=
  (∀ (k : Fin 64) (target : BitVec 64) (v : BitVec 32) (s : State),
    let inWin := 65536000 ≤ ltDiff target s.lt ∧ ltDiff target s.lt < 2 ^ 62
    let due := fun j : Nat => ∃ t0, SMap.find s.crest.cmpTarget j = some t0 ∧ 0 ≤ ltDiff s.lt t0
    (¬inWin → Completes (.crestCmpArm k target) s (fun t => t.get .crestCmpStaRefused k.val = 1 ∧
      t.get .crestCmpStaArmed k.val = s.get .crestCmpStaArmed k.val ∧ t.get .crestCmpStaStale k.val = s.get .crestCmpStaStale k.val ∧
      RegsBut [(.crestCmpSta, k.val)] s t ∧ KeepsBut [.regs] s t)) ∧
    (inWin → Completes (.crestCmpArm k target) s (fun t => SMap.find t.crest.cmpTarget k.val = some target ∧
      t.get .crestCmpStaArmed k.val = 1 ∧ t.get .crestCmpStaRefused k.val = 0 ∧ t.get .crestCmpStaStale k.val = 0 ∧
      ((∀ j, j < 64 → ¬due j) → RegsBut [(.crestCmpSta, k.val)] s t ∧ KeepsBut [.regs, .crest] s t) ∧
      (due k.val → t.get .crestCmpFireFires k.val = (s.get .crestCmpFireFires k.val + 1) % 2 ^ 64))) ∧
    (SMap.find s.crest.cmpTarget k.val = none → exec (.cmpFire k) s = .next s ∧ exec (.crestCmpDis k v) s = .next s) ∧
    (v.getLsbD 0 = false → exec (.crestCmpDis k v) s = .next s) ∧
    (∀ t0, SMap.find s.crest.cmpTarget k.val = some t0 →
      exec (.cmpFire k) s = .next (s.advanceTick t0).fireDue ∧
      (due k.val → (∀ j, j < 64 → j ≠ k.val → ¬due j) → s.fireDue = s.fireUnit k.val) ∧
      (v.getLsbD 0 = true → Completes (.crestCmpDis k v) s (fun t => SMap.find t.crest.cmpTarget k.val = none ∧
        t.get .crestCmpStaArmed k.val = 0)) ∧
      (let a := s.get .crestCmpCfgAction k.val
       let j := s.get .crestCmpCfgTto k.val
       let per := s.reg .crestCmpPer k.val
       let t := s.fireUnit k.val
       t.get .crestCmpFireFires k.val = (s.get .crestCmpFireFires k.val + 1) % 2 ^ 64 ∧ t.lt = s.lt ∧
       SMap.find t.crest.cmpTarget k.val = (if per = 0 then none else some (t0 + per)) ∧
       (per = 0 → t.get .crestCmpStaArmed k.val = 0) ∧
       (s.is .crestTtoCfgEn j = true → (a = 1 → SMap.find t.crest.tto j = some true) ∧ (a = 2 → SMap.find t.crest.tto j = some false) ∧
         (a = 3 → SMap.find t.crest.tto j = some (!s.ttoDrive j))) ∧
       (a = 4 → refBlk (s.reg .crestCmpRef k.val) = some ⟨.timeBase, 0⟩ → s.refCurrent (s.reg .crestCmpRef k.val) = true →
         t.get .crestSrvStaSwapPending = 1) ∧
       (a = 4 ∨ a = 5 → refBlk (s.reg .crestCmpRef k.val) = none → t.get .crestCmpStaStale k.val = 1) ∧
       (a = 6 → s.vecOpen 0 (s.get .crestCmpCfgVec k.val) = true → t.out = s.out ++ [s.msixMsg 0 (s.get .crestCmpCfgVec k.val)])))) ∧
  (∀ (s : State),
    (s.ppsOn = true ↔ s.crest.running = true ∧ s.is .crestPpsoCfgEn = true ∧ (s.is .crestPpsoCfgFreeRun = true ∨ s.crest.state = .locked)) ∧
    (s.ppsOn = false → exec .ppsOutRise s = .next s) ∧
    (s.ppsOn = true → s.crest.step = none →
      exec .ppsOutRise s = .next (let u := s.advance s.ppsAhead
        if u.ppsOn then { u with crest := { u.crest with pps := true, ppsRise := some u.elapsed } } else u) ∧
      s.ppsAhead ≤ unitsPerSec ∧
      ((s.ftOf s.lt : Int) + s.ppsAhead - (BitVec.ofNat 32 (s.get .crestPpsoCfgPhase)).toInt * 16384) % (unitsPerSec : Int) = 0) ∧
    (s.crest.pps = false → exec .ppsOutFall s = .next s) ∧
    (s.crest.pps = true → Completes .ppsOutFall s (fun t => t.crest.pps = false) ∧
      (∀ r, s.crest.ppsRise = some r → r + s.get .crestPpsoCfgWidth * 65536000 ≤ s.elapsed →
        exec .ppsOutFall s = .next { s with crest := { s.crest with pps := false } })))

/-- Enabling a disabled port that meets R70 and R97 sets en, and the port, its Col gate list and its sixteen queues are enabled, the port under its next incarnation. A port that does not meet them counts an ignored write and sets ign, nothing else. Disabling a port no contract names empties its queues, clears link, and the port, its list and its queues are disabled under unchanged incarnation; a port that contracts name counts an ignored write. Writing the value en already has only clears ign. -/
def Obligations.PortServiceResults : Prop :=
  ∀ (n : Port) (s : State),
    let p := n.val
    (s.portOn p = true → exec (.portEnable n) s = .next (s.set .portStaIgn p 0)) ∧
    (s.portOn p = false → s.portEnableOk p = true → Completes (.portEnable n) s (fun t => t.portOn p = true ∧
      t.get .portStaIgn p = 0 ∧ t.blkState ⟨.port, p⟩ = 2 ∧ t.blkState ⟨.colList, p⟩ = 2 ∧
      (∀ q, q < 16 → t.blkState ⟨.queue, p * 16 + q⟩ = 2) ∧
      t.blkInc ⟨.port, p⟩ = (if s.blkInc ⟨.port, p⟩ = 0xFFFF then 1 else s.blkInc ⟨.port, p⟩ + 1) ∧
      (∀ m, m ≠ p → t.portOn m = s.portOn m))) ∧
    (s.portOn p = false → s.portEnableOk p = false → Completes (.portEnable n) s (fun t => t.portOn p = false ∧
      t.get .portStaIgn p = 1 ∧ t.get .portIgnCntIgnored p = (s.get .portIgnCntIgnored p + 1) % 2 ^ 64 ∧
      RegsBut [(.portIgnCnt, p), (.portSta, p)] s t ∧ KeepsBut [.regs] s t)) ∧
    (s.get .portStaContracts p ≠ 0 → Completes (.portDisable n) s (fun t => t.portOn p = s.portOn p ∧
      t.get .portStaIgn p = 1 ∧ t.get .portIgnCntIgnored p = (s.get .portIgnCntIgnored p + 1) % 2 ^ 64 ∧
      RegsBut [(.portIgnCnt, p), (.portSta, p)] s t ∧ KeepsBut [.regs] s t)) ∧
    (s.get .portStaContracts p = 0 → s.portOn p = false → exec (.portDisable n) s = .next (s.set .portStaIgn p 0)) ∧
    (s.get .portStaContracts p = 0 → s.portOn p = true → Completes (.portDisable n) s (fun t => t.portOn p = false ∧
      t.get .portStaLink p = 0 ∧ t.blkState ⟨.port, p⟩ = 1 ∧ t.blkState ⟨.colList, p⟩ = 1 ∧
      (∀ q, q < 16 → t.blkState ⟨.queue, p * 16 + q⟩ = 1 ∧ t.queue p q = []) ∧
      t.blkInc ⟨.port, p⟩ = s.blkInc ⟨.port, p⟩ ∧ (∀ m, m ≠ p → t.portOn m = s.portOn m)))

/-- On an enabled port: alignment with a lane skew above 64 ns on several lanes shows skew_fail and no link, else link and alignment; loss clears both under the same incarnation; faults are shown, the link as it was. A PAUSE frame longer than max_frame is counted as oversize and pauses nothing. A good PAUSE frame is counted, and with pfc_rx every queue pauses for its quanta of 512 bit times; a bad one is counted as bad and pauses nothing. PAUSE_END clears a pause. PORT_TSQ_META latches the reader's oldest entry, control firmware's that of no function, unless it holds one; PORT_TSQ_LT returns and removes the latched entry, or all ones. On a disabled port link and PAUSE events change nothing. -/
def Obligations.LinkAndPauseResults : Prop :=
  ∀ (n : Port) (q : Fin 16) (skew : Nat) (lf rf : Bool) (ad : BitVec 8) (b : Bytes) (f : Option Fn) (o : Octet) (s : State),
    let p := n.val
    let k := p * 16 + q.val
    let lk := latchKey f o.val
    (s.portOn p = false → exec (.portLinkUp n skew) s = .next s ∧ exec (.portLinkDown n) s = .next s ∧
      exec (.portLinkFault n ⟨lf, ad⟩ rf) s = .next s ∧ exec (.pauseRx n b) s = .next s) ∧
    (s.portOn p = true →
      (1 < s.portLanes p → 64 < skew → Completes (.portLinkUp n skew) s (fun t => t.get .portStaSkewFail p = 1 ∧
        t.get .portStaLink p = 0 ∧ t.get .portStaAlign p = 0 ∧ RegsBut [(.portSta, p)] s t ∧ KeepsBut [.regs] s t)) ∧
      (s.portLanes p = 1 ∨ skew ≤ 64 → Completes (.portLinkUp n skew) s (fun t => t.get .portStaSkewFail p = 0 ∧
        t.get .portStaLink p = 1 ∧ t.get .portStaAlign p = 1 ∧ t.blkInc ⟨.port, p⟩ = s.blkInc ⟨.port, p⟩)) ∧
      Completes (.portLinkDown n) s (fun t => t.get .portStaLink p = 0 ∧ t.get .portStaAlign p = 0 ∧
        t.blkInc ⟨.port, p⟩ = s.blkInc ⟨.port, p⟩) ∧
      Completes (.portLinkFault n ⟨lf, ad⟩ rf) s (fun t => t.get .portStaLocalFault p = bit lf ∧ t.get .portStaRemoteFault p = bit rf ∧
        t.get .portStaLink p = s.get .portStaLink p ∧ t.portOn p = true ∧ t.blkInc ⟨.port, p⟩ = s.blkInc ⟨.port, p⟩) ∧
      (isMacCtl b = true → s.maxRx p < b.length → Completes (.pauseRx n b) s (fun t =>
        t.get .portRxOversizeFrames p = (s.get .portRxOversizeFrames p + 1) % 2 ^ 64 ∧ RegsBut [(.portRxOversize, p)] s t ∧ KeepsBut [.regs] s t)) ∧
      (isMacCtl b = true → b.length ≤ s.maxRx p → frameBad b = true → Completes (.pauseRx n b) s (fun t =>
        t.get .portRxBadFrames p = (s.get .portRxBadFrames p + 1) % 2 ^ 64 ∧ RegsBut [(.portRxBad, p)] s t ∧ KeepsBut [.regs] s t)) ∧
      (isMacCtl b = true → b.length ≤ s.maxRx p → frameBad b = false → beAt b 14 2 = 1 → Completes (.pauseRx n b) s (fun t =>
        t.get .portRxFramesFrames p = (s.get .portRxFramesFrames p + 1) % 2 ^ 64 ∧
        t.get .portRxPauseFrames p = (s.get .portRxPauseFrames p + 1) % 2 ^ 64 ∧
        RegsBut [(.portRxFrames, p), (.portRxPause, p)] s t ∧ KeepsBut [.regs, .tm] s t ∧
        (s.is .portMacCfgPfcRx p = false → t.tm = s.tm) ∧
        (s.is .portMacCfgPfcRx p = true → ∀ r, r < 16 → SMap.getD t.tm.pauses (p * 16 + r) 0 =
          if beAt b 16 2 = 0 then 0 else s.elapsed + ceilDiv (beAt b 16 2 * 512 * 65536) (s.portRate p))))) ∧
    Completes (.pauseEnd n q) s (fun t => SMap.getD t.tm.pauses k 0 = 0) ∧
    (SMap.getD s.tm.pauses k 0 ≤ s.elapsed → Completes (.pauseEnd n q) s (fun t => KeepsBut [.tm] s t ∧
      ∀ j, j ≠ k → SMap.getD t.tm.pauses j 0 = SMap.getD s.tm.pauses j 0)) ∧
    (s.tsqSees f o.val = false → exec (.portTsqLtRead f o) s = .next { s with readData := 0 } ∧
      (f.map (·.val) ≠ some 128 → exec (.portTsqMetaRead f o) s = .next { s with readData := 0 })) ∧
    (f.map (·.val) ≠ some 128 → s.tsqSees f o.val = true → ∃ l : Option TsqEntry,
      (∀ e, SMap.find s.ports.tsqLatch lk = some e → l = some e) ∧
      (SMap.find s.ports.tsqLatch lk = none → l = (SMap.getD s.ports.tsq o.val []).find? (fun e => e.owner == f.map (·.val))) ∧
      Completes (.portTsqMetaRead f o) s (fun t => t.readData = tsqMeta l (s.tsqFill f o.val) ∧
        SMap.find t.ports.tsqLatch lk = l ∧ t.ports.tsq = s.ports.tsq ∧ KeepsBut [.ports, .readData] s t)) ∧
    (f.map (·.val) = some 128 → exec (.portTsqMetaRead f o) s = .next s) ∧
    (∀ e, s.tsqSees f o.val = true → SMap.find s.ports.tsqLatch lk = some e → Completes (.portTsqLtRead f o) s (fun t => t.readData = e.lt ∧
      SMap.find t.ports.tsqLatch lk = none ∧ SMap.getD t.ports.tsq o.val [] = (SMap.getD s.ports.tsq o.val []).erase e ∧
      KeepsBut [.ports, .readData] s t)) ∧
    (s.tsqSees f o.val = true → SMap.find s.ports.tsqLatch lk = none → Completes (.portTsqLtRead f o) s (fun t =>
      t.readData = 0xFFFFFFFFFFFFFFFF#64 ∧ KeepsBut [.readData] s t))

/-- INGRESS_STAMP on an enabled port with link, at a lane of the port, adds a frame stamped with the current LT as its lane's calibration reads it, and the FT of that stamp, under the next frame number; elsewhere nothing. CLASSIFY of a frame awaiting judgement lets time reach its fixed instant and judges it. A match charges the contract's policer, brought up to the stamp at the rates in force, with L_max: below the peak bucket red, below the committed bucket yellow, else green, counted by colour; green and yellow frames get deadline stamp + bound, a red one goes no further. RX_FRAME_END of a frame not yet judged counts it oversize, bad or good, and a failed one is discarded, at once where the error is met before the decision. POLICER_WALK accrues policers and nothing else. -/
def Obligations.ReceptionResults : Prop :=
  ∀ (n : Port) (ln : Fin 8) (b : Bytes) (fid : Nat) (e : Bool) (s : State),
    let p := n.val
    let ok := s.portOn p = true ∧ s.is .portStaLink p = true ∧ ln.val < s.portLanes p
    (¬ok → exec (.ingressStamp n ln b) s = .next s) ∧
    (ok → Completes (.ingressStamp n ln b) s (fun t => KeepsBut [.ports] s t ∧ t.ports.nextFrame = s.ports.nextFrame + 1 ∧
      (∃ f, t.frame? s.ports.nextFrame = some f ∧ f.port = some p ∧ f.bytes = b ∧ f.lt = s.rxStamp p (p + ln.val) s.lt ∧ f.ft = s.ftOf f.lt ∧
        f.stage = .rx ∧ f.ended = false) ∧ ∀ i, i ≠ s.ports.nextFrame → t.frame? i = s.frame? i)) ∧
    (s.frame? fid = none → exec (.classify fid) s = .next s ∧ exec (.rxFrameEnd fid e) s = .next s) ∧
    (∀ (f : Frame) (i : Nat), s.frame? fid = some f → f.port = some i →
      (f.stage ≠ .rx → exec (.classify fid) s = .next s) ∧
      (f.ended = true → f.hearing = false → exec (.rxFrameEnd fid e) s = .next s) ∧
      (f.stage = .rx → isMacCtl f.bytes = false → s.secyOn i = false →
        let u := s.advanceTo (f.lt + BitVec.ofNat 64 (s.decideUnits i))
        exec (.classify fid) s = .next (if u.failsEarly f i then u.endRx fid f i false else u.judgeFrame fid f i)) ∧
      (s.errorEarly f i e = true → f.ended = false → exec (.rxFrameEnd fid e) s = .next (s.endRx fid f i true)) ∧
      (f.stage = .rx → f.ended = false → isMacCtl f.bytes = false → s.errorEarly f i e = false →
        s.knownUnits i f.bytes < s.decideUnits i →
        exec (.rxFrameEnd fid e) s = .next ((s.advanceTo (f.lt + BitVec.ofNat 64 (s.knownUnits i f.bytes))).endRx fid f i e))) ∧
    (∀ (f : Frame) (i : Nat), s.frame? fid = some f → f.stage = .rx → f.hearing = false →
      let t := s.endRx fid f i e
      (s.maxRx i < f.bytes.length → t.get .portRxOversizeFrames i = (s.get .portRxOversizeFrames i + 1) % 2 ^ 64 ∧
        (f.rx = none → t.frame? fid = none)) ∧
      (f.bytes.length ≤ s.maxRx i → (frameBad f.bytes = true ∨ e = true) →
        t.get .portRxBadFrames i = (s.get .portRxBadFrames i + 1) % 2 ^ 64 ∧ (f.rx = none → t.frame? fid = none)) ∧
      (f.bytes.length ≤ s.maxRx i → frameBad f.bytes = false → e = false → s.secyOn i = false →
        t.get .portRxFramesFrames i = (s.get .portRxFramesFrames i + 1) % 2 ^ 64 ∧
        t.frame? fid = some { f with ended := true, failed := false })) ∧
    (∀ (f : Frame) (c : Nat) (v : ConVer),
      let d := (s.pol c).accrue ((s.inForce c).getD v).body f.lt
      let need := v.body.lMax * 2 ^ 32
      let t := s.matched fid f c v
      (d.tp < need → t.get .ingConRedFrames c = (s.get .ingConRedFrames c + 1) % 2 ^ 64 ∧ t.pol c = d ∧
        ∀ g, t.frame? fid = some g → g.stage = .done) ∧
      (need ≤ d.tp → d.tc < need → t.get .ingConYellowFrames c = (s.get .ingConYellowFrames c + 1) % 2 ^ 64 ∧
        t.pol c = { d with tp := d.tp - need } ∧ ∃ g, t.frame? fid = some g ∧ g.colour = 2 ∧ g.con = some (c, v.inc) ∧
          g.stage = .matched ∧ g.deadline = some (f.lt + BitVec.ofNat 64 (v.body.reqP * 65536))) ∧
      (need ≤ d.tp → need ≤ d.tc → t.get .ingConGreenFrames c = (s.get .ingConGreenFrames c + 1) % 2 ^ 64 ∧
        t.pol c = { d with tp := d.tp - need, tc := d.tc - need } ∧ ∃ g, t.frame? fid = some g ∧ g.colour = 1 ∧
          g.con = some (c, v.inc) ∧ g.stage = .matched ∧ g.deadline = some (f.lt + BitVec.ofNat 64 (v.body.reqC * 65536)))) ∧
    Completes .policerWalk s (fun t => KeepsBut [.regs, .ing] s t ∧ t.ing.tables = s.ing.tables ∧ t.ing.learns = s.ing.learns)

/-- LEARN takes the oldest request: with the table disabled, a prefix table or of another key length it is counted as dropped; a key already learned on the same port is refreshed where refresh is on; on another port it takes the new result and is counted; a static entry stays, and one that software wrote is only refreshed. AGE_VISIT deletes and counts an entry that is not static and older than max_age, max_age not 0, or learned on a stale port, and leaves any other. PARITY_REPAIR restores a correctable entry, and deletes and records an uncorrectable one; a good entry stays. No flush pass runs here and no entry compared is damaged. -/
def Obligations.LearningAndRepair : Prop :=
  ∀ (t : Table) (key : Bytes) (plen : Nat) (s : State),
    let i := t.val
    let k := s.normKey i key plen
    (s.ing.learns = [] → exec .learn s = .next s) ∧
    (∀ (x : LearnReq) (l : List LearnReq), s.ing.learns = x :: l → s.ing.flushes = [] →
      (s.tblOn x.table = false ∨ s.isPrefix x.table = true ∨ s.keyLen x.table ≠ 8 → Completes .learn s (fun u =>
        u.ing.learns = l ∧ u.ing.tables = s.ing.tables ∧ RegsBut [(.ingTblLearnDrop, x.table)] s u ∧
        u.get .ingTblLearnDropDropped x.table = (s.get .ingTblLearnDropDropped x.table + 1) % 2 ^ 64)) ∧
      (s.tblOn x.table = true → s.isPrefix x.table = false → s.keyLen x.table = 8 → s.damaged x.table x.key = [] →
        ∀ e, s.entry x.table x.key 0 = some e →
        (e.learned = false → e.static = true ∨ s.is .ingTblCfgRefresh x.table = false →
          exec .learn s = .next { s with ing := { s.ing with learns := l } }) ∧
        (e.learned = false → e.static = false → s.is .ingTblCfgRefresh x.table = true →
          Completes .learn s (fun u => u.ing.learns = l ∧ u.entry x.table x.key 0 = some { e with stamp := s.shortTime })) ∧
        (e.learned = true → bitsOf e.result.toNat 8 0 = x.port → s.stalePort e = false → s.is .ingTblCfgRefresh x.table = true →
          Completes .learn s (fun u => u.ing.learns = l ∧ u.entry x.table x.key 0 = some { e with stamp := s.shortTime })) ∧
        (e.learned = true → bitsOf e.result.toNat 8 0 ≠ x.port ∨ s.stalePort e = true → Completes .learn s (fun u =>
          u.ing.learns = l ∧ u.get .ingTblLearnLearns x.table = (s.get .ingTblLearnLearns x.table + 1) % 2 ^ 64 ∧
          u.entry x.table x.key 0 =
            some { e with result := BitVec.ofNat 64 (s.get .portStaInc x.port <<< 16 ||| x.port), stamp := s.shortTime })))) ∧
    (s.entry i k plen = none → (s.ing.flushes = [] → exec (.ageVisit t key plen) s = .next s) ∧ exec (.parityRepair t key plen) s = .next s) ∧
    (∀ e, s.entry i k plen = some e →
      let m := s.get .ingTblCfgMaxAge i
      let old := e.static = false ∧ m ≠ 0 ∧ (m : Int) < s.ageOf e
      (s.ing.flushes = [] → old ∨ e.learned = true ∧ s.stalePort e = true → Completes (.ageVisit t key plen) s (fun u => u.entry i k plen = none ∧
        u.get .ingTblAgedAged i = (s.get .ingTblAgedAged i + 1) % 2 ^ 64 ∧
        (∀ k' p', keyNum k' p' ≠ keyNum k plen → u.entry i k' p' = s.entry i k' p') ∧
        RegsBut [(.ingTblAged, i), (.ingTblSta, i)] s u ∧ KeepsBut [.regs, .ing] s u)) ∧
      (s.ing.flushes = [] → ¬old → ¬(e.learned = true ∧ s.stalePort e = true) → exec (.ageVisit t key plen) s = .next s) ∧
      (e.parity = 0 → exec (.parityRepair t key plen) s = .next s) ∧
      (e.parity = 1 → Completes (.parityRepair t key plen) s (fun u => u.entry i k plen = some { e with parity := 0 } ∧
        u.get .sysEccSramCorrected = (s.get .sysEccSramCorrected + 1) % 2 ^ 64 ∧ u.cairn = s.cairn)) ∧
      (1 < e.parity → Completes (.parityRepair t key plen) s (fun u => u.entry i k plen = none ∧
        u.get .sysEccSramUncUncorrectable = (s.get .sysEccSramUncUncorrectable + 1) % 2 ^ 64 ∧
        ∃ r, u.cairn.raised = s.cairn.raised ++ [r] ∧ r.code = .tblParity)))

/-- TABLE_ENABLE of a disabled table whose capacity its pools hold sets en and the table is enabled under its next incarnation, other tables untouched; without that it counts an ignored write and sets ign. TABLE_DISABLE of an enabled table leaves it disabled with no entry under the same incarnation. A FLUSH_BY_PORT pass is brought to the instant of its last visit, with the visits of every pass over its table, and completes OK; a visit to one good entry deletes it exactly if it is port-typed, names the pass's port and is not static, or static ones too were asked for. Setting a group's ports and queue advances its incarnation, an empty set only where it had one. The instants of the visits, at the lowest rates the rule allows, are the model's choice, log entry 25. -/
def Obligations.TableBlockAndFlushResults : Prop :=
  ∀ (t : Table) (r : RingIx) (idx : BitVec 32) (s : State),
    let i := t.val
    (s.tblOn i = true → exec (.tableEnable t) s = .next (s.set .ingTblStaIgn i 0)) ∧
    (s.tblOn i = false → s.tblEnableOk i = true → Completes (.tableEnable t) s (fun u => u.tblOn i = true ∧ u.get .ingTblStaIgn i = 0 ∧
      u.blkState ⟨.table, i⟩ = 2 ∧ u.tbl i = s.tbl i ∧ (∀ j, j ≠ i → u.tblOn j = s.tblOn j) ∧
      u.blkInc ⟨.table, i⟩ = (if s.blkInc ⟨.table, i⟩ = 0xFFFF then 1 else s.blkInc ⟨.table, i⟩ + 1))) ∧
    (s.tblOn i = false → s.tblEnableOk i = false → Completes (.tableEnable t) s (fun u => u.tblOn i = false ∧
      u.get .ingTblStaIgn i = 1 ∧ u.get .ingIgnCntIgnored = (s.get .ingIgnCntIgnored + 1) % 2 ^ 64 ∧
      RegsBut [(.ingIgnCnt, 0), (.ingTblSta, i)] s u ∧ KeepsBut [.regs] s u)) ∧
    (s.tblOn i = false → exec (.tableDisable t) s = .next (s.set .ingTblStaIgn i 0)) ∧
    (s.tblOn i = true → Completes (.tableDisable t) s (fun u => u.tblOn i = false ∧ u.tbl i = [] ∧ u.get .ingTblStaEntries i = 0 ∧
      u.blkState ⟨.table, i⟩ = 1 ∧ u.blkInc ⟨.table, i⟩ = s.blkInc ⟨.table, i⟩ ∧ (∀ j, j ≠ i → u.tbl j = s.tbl j) ∧
      KeepsBut [.regs, .blkSt, .ing, .offAt] s u)) ∧
    (let key := r.val * 4294967296 + idx.toNat
     (SMap.find s.ing.flushes key = none → exec (.flushByPortDone r idx) s = .next s) ∧
     (∀ p, SMap.find s.ing.flushes key = some p →
       let u := (s.advanceAt (s.passEnd p)).flushVisits p.table
       exec (.flushByPortDone r idx) s =
         .next ({ u with ing := { u.ing with flushes := SMap.put u.ing.flushes key none } }.complete r.val idx.toNat p.desc 0)) ∧
     (∀ (p : FlushPass) (e : TEntry), s.visitsNow p = [e] → e.parity = 0 → s.entry p.table e.key e.plen = some e →
       let u := s.flushPass key p
       u.entry p.table e.key e.plen = (if e.portTyped = true ∧ bitsOf e.result.toNat 8 0 = p.port ∧
         (p.flushStatic = true ∨ e.static = false) then none else some e) ∧
       (∀ k n, keyNum k n ≠ keyNum e.key e.plen → u.entry p.table k n = s.entry p.table k n) ∧
       KeepsBut [.regs, .ing] s u)) ∧
    (∀ g ports q : Nat, (s.mcReplace g ports q).mcg g = { s.mcg g with ports := ports, queue := q } ∧
      (ports ≠ 0 ∨ s.blkInc ⟨.mcGroup, g⟩ ≠ 0 → (s.mcReplace g ports q).blkInc ⟨.mcGroup, g⟩ =
        (if s.blkInc ⟨.mcGroup, g⟩ = 0xFFFF then 1 else s.blkInc ⟨.mcGroup, g⟩ + 1)))

/-- When a live table ring holds a well-formed entry of the command's opcode: SEARCH, NEXT, INSERT, DELETE and MC_SET complete it with DENIED or STALE where its target is refused; SEARCH and DELETE with NOT_FOUND or with the entry's flags, SEARCH also its result and age, DELETE removing it; INSERT replaces only where asked and allowed, else EXISTS, or adds an entry as the table has room; NEXT from the start writes its records and, if none are left, cursor 0; MC_SET sets the group. FLUSH_BY_PORT of a table and a port starts a pass, without a port it is DENIED. An entry of another opcode is no entry of the command. Entries are undamaged here and no pass is under way. -/
def Obligations.TableCommandResults : Prop :=
  ∀ (r : RingIx) (e : Bytes) (s : State),
    let h := s.ringH r.val
    let u := s.beginEntry r.val
    let op := leAt e 0 2
    let tgt := u.target (u.ringOwner r.val) op (BitVec.ofNat 64 (leAt e 8 8))
    (op ≠ 1 → exec (.search r e) s = .next s) ∧
    (op ≠ 2 → exec (.next r e) s = .next s) ∧
    (op ≠ 3 → exec (.insert r e) s = .next s) ∧
    (op ≠ 4 → exec (.delete r e) s = .next s) ∧
    (op ≠ 5 → exec (.flushByPort r e) s = .next s) ∧
    (op ≠ 6 → exec (.mcSet r e) s = .next s) ∧
    (s.reaches r.val 4 e = true → s.tableBad (s.ringOwner r.val) e = none → u.ing.flushes = [] → s.passOk r.val h e = true →
      (∀ st, tgt = .inr st →
        (op = 1 → exec (.search r e) s = .next (u.complete r.val h e st)) ∧
        (op = 2 → exec (.next r e) s = .next (u.complete r.val h e st)) ∧
        (op = 3 → exec (.insert r e) s = .next (u.complete r.val h e st)) ∧
        (op = 4 → exec (.delete r e) s = .next (u.complete r.val h e st)) ∧
        (op = 6 → exec (.mcSet r e) s = .next (u.complete r.val h e st))) ∧
      (∀ st n, op = 5 → tgt = .inr st → portRef (BitVec.ofNat 64 (leAt e 32 8)) = some n →
        exec (.flushByPort r e) s = .next (u.complete r.val h e st)) ∧
      (op = 5 → portRef (BitVec.ofNat 64 (leAt e 32 8)) = none → exec (.flushByPort r e) s = .next (u.complete r.val h e 5)) ∧
      (∀ t, tgt = .inl t → (op ≠ 6 → ∀ x ∈ u.tbl t, x.2.parity = 0) →
        let plen := if u.isPrefix t then leAt e 3 1 else 0
        let k := u.normKey t (sliceB e 16 16) plen
        (op = 1 → u.entry t k plen = none → exec (.search r e) s = .next (u.complete r.val h e 1)) ∧
        (op = 4 → u.entry t k plen = none → exec (.delete r e) s = .next (u.complete r.val h e 1)) ∧
        (∀ x, u.entry t k plen = some x →
          let e1 := pasteB e 2 (leBytes (bit x.static + 8 * bit x.portTyped) 1)
          (op = 1 → exec (.search r e) s = .next (u.complete r.val h (pasteB (pasteB e1 32 (leBytes x.result.toNat 8)) 40
            (leBytes (u.shortTime - x.stamp).toNat 2)) 0)) ∧
          (op = 4 → exec (.delete r e) s = .next ((u.putEntry t k plen none).complete r.val h e1 0)) ∧
          (op = 3 → ¬(bitOf (leAt e 2 1) 1 = true ∧ (x.static = false ∨ bitOf (leAt e 2 1) 0 = true)) →
            exec (.insert r e) s = .next (u.complete r.val h e1 2)) ∧
          (op = 3 → bitOf (leAt e 2 1) 1 = true → x.static = false ∨ bitOf (leAt e 2 1) 0 = true → ∃ y : TEntry,
            y.key = k ∧ y.plen = plen ∧ y.result = BitVec.ofNat 64 (leAt e 32 8) ∧ y.static = bitOf (leAt e 2 1) 0 ∧
            y.stamp = u.shortTime ∧ y.bucket = x.bucket ∧
            exec (.insert r e) s = .next ((u.putEntry t k plen (some y)).complete r.val h e1 0))) ∧
        (op = 3 → u.entry t k plen = none → ∃ y : TEntry, y.key = k ∧ y.plen = plen ∧ y.result = BitVec.ofNat 64 (leAt e 32 8) ∧
          y.static = bitOf (leAt e 2 1) 0 ∧
          let a := u.addEntry t y (bitOf (leAt e 2 1) 2)
          (a.2 = .ok → exec (.insert r e) s = .next (a.1.complete r.val h e 0) ∧ ∃ z, a.1.entry t k plen = some z ∧
            z.result = y.result ∧ z.static = y.static) ∧
          (a.2 = .full → exec (.insert r e) s = .next (a.1.complete r.val h e 3))) ∧
        (op = 2 → leAt e 32 8 = 0 → SMap.Sorted (u.tbl t) → (u.tbl t).length ≤ leAt e 4 4 →
          let d := ((u.tbl t).map (fun x => u.nextRecord t x.2)).flatten
          let w := u.hostWrite (u.ringOwner r.val) (leAt e 40 8) d
          let fails := u.wrFails (u.ringOwner r.val) (leAt e 40 8) d.length
          (fails = false → exec (.next r e) s = .next (w.complete r.val h
              (pasteB (pasteB e 4 (leBytes (u.tbl t).length 4)) 32 (leBytes 0 8)) 0)) ∧
          (fails = true → exec (.next r e) s = .next ((w.ringError r.val ecAccess h).abandon r.val h))) ∧
        (op = 6 → exec (.mcSet r e) s = .next ((u.mcReplace t (leNat (sliceB e 16 32)) (leAt e 4 1)).complete r.val h e 0)) ∧
        (∀ n, op = 5 → portRef (BitVec.ofNat 64 (leAt e 32 8)) = some n →
          let p : FlushPass := { table := t, port := n, flushStatic := bitOf (leAt e 2 1) 4, desc := e,
                                 began := u.elapsed, upto := u.elapsed }
          exec (.flushByPort r e) s =
            .next { u with ing := { u.ing with flushes := SMap.put u.ing.flushes (r.val * 4294967296 + h) (some p) } })))

/-- For a thread that may issue, has the instruction's word next and holds frame fid, in its slot: HLD writes the big-endian bytes at anchor + ga + off to gd, HST writes the low bytes of gs there, both only where the bytes end within the key depth, else an HDR fault, and with anchor above 4 undefined. LKP with a table claim and a free slot puts the lookup into the slot, else a LOOKUP fault. LWT on a returned lookup writes value and status (status where both name one register) and frees the slot; before the return the thread waits in LOOKUP; on a free slot a LOOKUP fault. A lookup's return marks its slot and wakes a thread waiting for it. -/
def Obligations.HeaderLookupResults : Prop :=
  ∀ (c : Core) (th : Fin 16) (gr gs ga gb : GReg) (w : Fin 4) (anchor : Fin 8) (off : BitVec 8) (cl : Fin 16) (l : Fin 4) (s : State),
    let x : Ctx := .thr c th
    let k := ctxKey x
    let n := 2 ^ w.val
    let t := s.atSlot x
    let wl := wHdr 0x1C gr.val ga.val w.val anchor.val off
    let ws := wHdr 0x1D gr.val ga.val w.val anchor.val off
    let slot := SMap.find (s.thr k).slots l.val
    (s.canIssue x = true → s.fetches x wl = true →
      (4 < anchor.val → exec (.hld x gr ga w anchor off) s = .next (t.illegal x wl)) ∧
      (∀ (fid : Nat) (f : Frame), anchor.val ≤ 4 → (t.thr k).frame = some fid → t.frame? fid = some f →
        (∀ a, f.anchors.getD anchor.val none = some a →
          let e := (BitVec.ofNat 64 (a + off.toNat) + t.gpr x ga).toNat
          (e + n ≤ f.depth → exec (.hld x gr ga w anchor off) s =
            .next ((t.setGpr x gr (BitVec.ofNat 64 (beAt f.hdr e n))).retire x)) ∧
          (f.depth < e + n → exec (.hld x gr ga w anchor off) s = .next (t.faultAt x cHdr 1 0))) ∧
        (f.anchors.getD anchor.val none = none → exec (.hld x gr ga w anchor off) s = .next (t.faultAt x cHdr 1 0)))) ∧
    (s.canIssue x = true → s.fetches x ws = true →
      (4 < anchor.val → exec (.hst x gr ga w anchor off) s = .next (t.illegal x ws)) ∧
      (∀ (fid : Nat) (f : Frame), anchor.val ≤ 4 → (t.thr k).frame = some fid → t.frame? fid = some f →
        (∀ a, f.anchors.getD anchor.val none = some a →
          let e := (BitVec.ofNat 64 (a + off.toNat) + t.gpr x ga).toNat
          (e + n ≤ f.depth → exec (.hst x gr ga w anchor off) s =
            .next ((t.putFrame fid { f with hdr := pasteB f.hdr e (beBytes (t.gpr x gr).toNat n) }).retire x)) ∧
          (f.depth < e + n → exec (.hst x gr ga w anchor off) s = .next (t.faultAt x cHdr 1 0))) ∧
        (f.anchors.getD anchor.val none = none → exec (.hst x gr ga w anchor off) s = .next (t.faultAt x cHdr 1 0)))) ∧
    (s.canIssue x = true → s.fetches x (wLkp cl.val l.val ga.val gb.val) = true → ∀ im : Image, t.imageOf k = some im →
      (∀ q : Claim, im.claim? 1 cl.val = some q → SMap.find (t.thr k).slots l.val = none →
        let i := bitsOf q.data.toNat 51 32 % 256
        let r := t.lookup i (t.lkpKey i (t.gpr x ga) (t.gpr x gb)) (refInc q.data)
        ∃ v : LkSlot, v.table = i ∧ v.ans = r.2 ∧ v.back = false ∧ v.issued = t.elapsed + 32768 ∧
          v.latency = (if t.tblKind i = 1 then 220 else 40) * 65536 ∧
          exec (.lkp x cl l ga gb) s =
            .next ((r.1.modThr k (fun y => { y with slots := SMap.put y.slots l.val (some v) })).retire x)) ∧
      (im.claim? 1 cl.val = none ∨ SMap.find (t.thr k).slots l.val ≠ none →
        exec (.lkp x cl l ga gb) s = .next (t.faultAt x cLookup 1 0))) ∧
    (s.fetches x (wLwt gr.val gs.val l.val) = true → (s.thr k).slotEnd ≤ s.elapsed →
      (s.canIssue x = true → slot = none → SMap.find (t.thr k).slots l.val = none →
        exec (.lwt x gr gs l) s = .next (t.faultAt x cLookup 1 0)) ∧
      (∀ v, s.canIssue x = true → slot = some v → SMap.find (t.thr k).slots l.val = some v →
        v.back = true ∨ v.issued + v.latency ≤ s.elapsed →
        exec (.lwt x gr gs l) s = .next ((((t.modThr k (fun y => { y with slots := SMap.put y.slots l.val none })).setGpr x gr
          v.ans.1).setGpr x gs (BitVec.ofNat 64 v.ans.2)).retire x)) ∧
      (∀ v, s.runs x = true → slot = some v → v.back = false → s.elapsed < v.issued + v.latency →
        Completes (.lwt x gr gs l) s (fun u => (u.thr k).st = 3 ∧ (u.thr k).waitSlot = l.val ∧
          (u.thr k).index = (s.thr k).index ∧ KeepsBut [.spur] s u))) ∧
    (slot = none → exec (.lookupResult c th l) s = .next s) ∧
    (∀ v, slot = some v → v.issued + v.latency ≤ s.elapsed → Completes (.lookupResult c th l) s (fun t =>
      SMap.find (t.thr k).slots l.val = some { v with back := true } ∧ KeepsBut [.spur] s t ∧
      ((s.thr k).waitSlot = l.val → (s.thr k).st = 3 → (t.thr k).st = 1) ∧
      ((s.thr k).st ≠ 3 → (t.thr k).st = (s.thr k).st)))

/-- For a context that may issue and has the instruction's word next, in its slot: CHW stages a word; CHC by the declared writer publishes the first n words and clears staging if the channel has room, gd = 0, and else gd = 1 with the staging kept; CHR by the reader removes the oldest message into the receive area, gd its length or 0, a message committed in the same SPC cycle not being seen; CHG reads the area. WFE with a masked input pending returns and clears it, else the context waits. SEV by the declared source raises the line, ctx above 16 is undefined. TNOW gives the context's replica of LT or the budget left; TCMP compares, arms below 2^46 ns, disarms. A timer that fires is disarmed and its input is pending or taken. -/
def Obligations.ChannelAndEventResults : Prop :=
  ∀ (x : Ctx) (ga gb gd : GReg) (j n1 : Fin 8) (ch : Fin 1024) (core : Fin 16) (cx : Fin 32) (tm : Fin 4) (s : State),
    let k := ctxKey x
    let t := s.atSlot x
    (s.canIssue x = true →
      (s.fetches x (wChan 0x24 ga.val j.val 0) = true → exec (.chw x ga j) s =
        .next ((t.modThr k (fun y => { y with staging := SMap.setD y.staging j.val (t.gpr x ga) 0 })).retire x)) ∧
      (s.fetches x (wChan 0x27 gd.val j.val 0) = true → exec (.chg x gd j) s =
        .next ((t.setGpr x gd (SMap.getD (t.thr k).receive j.val 0)).retire x)) ∧
      (s.fetches x (wChan 0x25 gd.val n1.val ch.val) = true →
        ((t.ridgesOf k).find? (fun r => t.isWriter k r ch.val) = none → exec (.chc x gd ch n1) s =
          .next (t.faultAt x cChannel 2 ((wChan 0x25 gd.val n1.val ch.val).setWidth 64))) ∧
        (∀ r, (t.ridgesOf k).find? (fun r => t.isWriter k r ch.val) = some r →
          let i := chanIx r ch.val
          ((t.chan i).length < t.get .spurChCfgDepth i → ∃ u : State, exec (.chc x gd ch n1) s = .next ((u.setGpr x gd 0).retire x) ∧
            u.chan i = t.chan i ++ [(List.range (n1.val + 1)).map (fun m => SMap.getD (t.thr k).staging m 0)] ∧
            (∀ m, m ≠ i → u.chan m = t.chan m) ∧ (u.thr k).staging = []) ∧
          (t.get .spurChCfgDepth i ≤ (t.chan i).length →
            exec (.chc x gd ch n1) s = .next (((t.bump .spurChStaFull i).setGpr x gd 1).retire x)))) ∧
      (s.fetches x (wChan 0x26 gd.val 0 ch.val) = true →
        ((t.ridgesOf k).find? (fun r => t.isReader k r ch.val) = none → exec (.chr x gd ch) s =
          .next (t.faultAt x cChannel 2 ((wChan 0x26 gd.val 0 ch.val).setWidth 64))) ∧
        (∀ r, (t.ridgesOf k).find? (fun r => t.isReader k r ch.val) = some r →
          let i := chanIx r ch.val
          (t.chan i = [] ∨ t.chanSeen k i = 0 → exec (.chr x gd ch) s = .next ((t.setGpr x gd 0).retire x)) ∧
          (∀ m ms, t.chan i = m :: ms → t.chanSeen k i ≠ 0 → m.length ≤ 8 → ∃ u : State,
            exec (.chr x gd ch) s = .next ((u.setGpr x gd (BitVec.ofNat 64 m.length)).retire x) ∧ u.chan i = ms ∧
            (∀ q, q ≠ i → u.chan q = t.chan q) ∧ ∀ q, q < m.length → SMap.getD (u.thr k).receive q 0 = m.getD q 0))) ∧
      (s.fetches x (wSev core.val cx.val j.val) = true →
        (16 < cx.val → exec (.sev x core cx j) s = .next (t.illegal x (wSev core.val cx.val j.val))) ∧
        (∀ r, cx.val ≤ 16 → (t.ridgesOf k).find? (fun r => t.sevOk k r (sevKey r core.val cx.val) j.val) = some r →
          exec (.sev x core cx j) s = .next ((t.retire x).raiseEvt (sevKey r core.val cx.val) (13 + j.val))) ∧
        (∀ r rs, cx.val ≤ 16 → t.ridgesOf k = r :: rs → (t.ridgesOf k).find? (fun r => t.sevOk k r (sevKey r core.val cx.val) j.val) = none →
          exec (.sev x core cx j) s = .next ((t.bump .spurCoreSevrefRefused (16 * r + core.val)).retire x))) ∧
      (s.fetches x (wG3 0x2A gd.val 0 0 0) = true → exec (.tnowLt x gd) s = .next ((t.setGpr x gd (t.ctxLt x)).retire x)) ∧
      (s.fetches x (wG3 0x2A gd.val 0 0 1) = true → exec (.tnowBudget x gd) s =
        .next ((t.setGpr x gd (BitVec.ofNat 64 (ceilDiv ((t.budgetLeft k).getD 0) 32768))).retire x)) ∧
      (s.fetches x (wG3 0x2B gd.val ga.val gb.val 0) = true → exec (.tcmpCompare x gd ga gb) s =
        .next ((t.setGpr x gd (if 0 ≤ (t.gpr x ga - t.gpr x gb).toInt then 1 else 0)).retire x)) ∧
      (s.fetches x (wG3 0x2B gd.val ga.val 0 (1 + 4 * tm.val)) = true →
        (ltDiff (t.gpr x ga) (t.ctxLt x) < 2 ^ 62 → exec (.tcmpArm x gd ga tm) s =
          .next (((t.modThr k (fun y => { y with timers := SMap.put y.timers tm.val (some (t.gpr x ga)) })).setGpr x gd 0).retire x)) ∧
        (2 ^ 62 ≤ ltDiff (t.gpr x ga) (t.ctxLt x) → exec (.tcmpArm x gd ga tm) s = .next ((t.setGpr x gd 1).retire x))) ∧
      (s.fetches x (wG3 0x2B gd.val 0 0 (2 + 4 * tm.val)) = true → exec (.tcmpDisarm x gd tm) s =
        .next (((t.modThr k (fun y => { y with timers := SMap.put y.timers tm.val none })).setGpr x gd 0).retire x))) ∧
    (s.fetches x (wGI 0x28 gd.val ga.val 0) = true → (s.thr k).slotEnd ≤ s.elapsed →
      let m : BitVec 32 := if isCc k then (s.gpr x ga).setWidth 32 else (s.gpr x ga).setWidth 32 &&& 0x03FFFFFE
      (s.canIssue x = true → isCc k = false → m = 0 → exec (.wfe x gd ga) s = .next (t.illegal x (wGI 0x28 gd.val ga.val 0))) ∧
      (s.runs x = true → isCc k = true ∨ m ≠ 0 → s.pendingOf k &&& m = 0 → Completes (.wfe x gd ga) s (fun u =>
        (u.thr k).st = 2 ∧ (u.thr k).mask = m ∧ (u.thr k).index = (s.thr k).index ∧ KeepsBut [.spur] s u)) ∧
      (s.canIssue x = true → s.pendingOf k &&& m ≠ 0 → exec (.wfe x gd ga) s =
        .next (((t.modThr k (fun y => { y with pending := y.pending &&& ~~~m, mask := m })).setGpr x gd
          ((t.pendingOf k &&& m).setWidth 64)).retire x))) ∧
    (SMap.find (s.thr k).timers tm.val = none → exec (.timerFire x tm) s = .next s) ∧
    (∀ a, SMap.find (s.thr k).timers tm.val = some a → ltDiff a (s.ctxLt x) ≤ 0 → Completes (.timerFire x tm) s (fun t =>
      SMap.find (t.thr k).timers tm.val = none ∧ (t.thr k).pending = (s.thr k).pending ||| (1#32 <<< (1 + tm.val)) ∧
      ((s.thr k).st = 2 → (s.thr k).mask.getLsbD (1 + tm.val) = true → (t.thr k).st = 1) ∧ KeepsBut [.spur] s t))

/-- For a thread that may issue, has the instruction's word next and holds frame fid, in its slot: EMIT of kinds 0 to 4 with a claimed destination of current incarnation, and ts and lt only where the kind allows them, marks the frame emitted at its slot's end with that destination, and the thread holds no frame and waits with mask 1 at its image's entry; a cipher frame joins the engine's jobs. An unclaimed destination or a bit not allowed is an EMIT fault, a stale claim a STALE fault. EMIT 5 disposes the frame DROP_PROGRAM. LEAF sets bits [55:0] of the annotation, bits [63:56] being 0. -/
def Obligations.EmitAndLeafResults : Prop :=
  ∀ (c : Core) (th : Fin 16) (ga gb : GReg) (ts lt : Bool) (fid : Nat) (f : Frame) (im : Image) (s : State),
    let x : Ctx := .thr c th
    let k := ctxKey x
    let t := s.atSlot x
    let w := fun (kind : Nat) (a b : Bool) => s.fetches x (wEmit kind ga.val gb.val a b) = true
    let req := if ts then some (bitsOf (s.gpr x ga).toNat 31 16, (s.thr k).group.map (fun g => s.get .spurGrpStaOwner g)) else none
    let sent := fun (d : EmitDest) (q : Option (Nat × Option Nat)) (l : Option (BitVec 64)) =>
      (t.putFrame fid { f with dest := d, ts := q, launch := l, stage := .emitted, emitAt := t.slotOver k }).idleAfter k
    s.canIssue x = true → (s.thr k).frame = some fid → (t.thr k).frame = some fid → t.frame? fid = some f → t.imageOf k = some im →
    (w 0 false false → im.claimIx? 2 ((s.gpr x ga).toNat % 4096) = none → exec (.emitQueue x ga gb false false) s =
      .next (t.faultAt x cEmit 1 0)) ∧
    (∀ q, w 0 false false → im.claimIx? 2 ((s.gpr x ga).toNat % 4096) = some q → t.refCurrent q.data = false →
      exec (.emitQueue x ga gb false false) s = .next (t.faultAt x cStale 1 0)) ∧
    (w 1 false false → im.claimIx? 3 ((s.gpr x ga).toNat % 65536) = none → exec (.emitMulticast x ga gb false false) s =
      .next (t.faultAt x cEmit 1 0)) ∧
    (∀ q, w 1 false false → im.claimIx? 3 ((s.gpr x ga).toNat % 65536) = some q → t.refCurrent q.data = false →
      exec (.emitMulticast x ga gb false false) s = .next (t.faultAt x cStale 1 0)) ∧
    (w 2 false false → im.claim? 4 ((s.gpr x ga).toNat % 256) = none → exec (.emitHost x ga gb false false) s =
      .next (t.faultAt x cEmit 1 0)) ∧
    (∀ q, w 2 false false → im.claim? 4 ((s.gpr x ga).toNat % 256) = some q → t.refCurrent q.data = false →
      exec (.emitHost x ga gb false false) s = .next (t.faultAt x cStale 1 0)) ∧
    (w 3 false false → im.claim? 5 ((s.gpr x ga).toNat % 256) = none → exec (.emitFabric x ga gb false false) s =
      .next (t.faultAt x cEmit 1 0)) ∧
    (∀ q, w 3 false false → im.claim? 5 ((s.gpr x ga).toNat % 256) = some q → t.refCurrent q.data = false →
      exec (.emitFabric x ga gb false false) s = .next (t.faultAt x cStale 1 0)) ∧
    (w 4 false false → im.claim? 6 ((s.gpr x ga).toNat % 256) = none → exec (.emitCipher x ga gb false false) s =
      .next ((t.faultAt x cEmit 1 0).addFrameJob fid)) ∧
    (∀ q, w 4 false false → im.claim? 6 ((s.gpr x ga).toNat % 256) = some q → t.refCurrent q.data = false →
      exec (.emitCipher x ga gb false false) s = .next ((t.faultAt x cStale 1 0).addFrameJob fid)) ∧
    (∀ q, w 0 ts lt → im.claimIx? 2 ((s.gpr x ga).toNat % 4096) = some q → t.refCurrent q.data = true →
      exec (.emitQueue x ga gb ts lt) s =
        .next (sent (.queue (bitsOf q.data.toNat 51 32 / 16)) req (if lt then some (s.gpr x gb) else none))) ∧
    (∀ q, w 1 ts false → im.claimIx? 3 ((s.gpr x ga).toNat % 65536) = some q → t.refCurrent q.data = true →
      exec (.emitMulticast x ga gb ts false) s = .next (sent (.mcast (bitsOf q.data.toNat 51 32) none) req f.launch)) ∧
    (∀ q, w 2 false false → im.claim? 4 ((s.gpr x ga).toNat % 256) = some q → t.refCurrent q.data = true →
      exec (.emitHost x ga gb false false) s = .next (sent (.host (bitsOf q.data.toNat 51 32)) f.ts f.launch)) ∧
    (∀ q, w 3 false false → im.claim? 5 ((s.gpr x ga).toNat % 256) = some q → t.refCurrent q.data = true →
      exec (.emitFabric x ga gb false false) s = .next (sent (.fabric (bitsOf q.data.toNat 51 32) (s.gpr x gb)) f.ts f.launch)) ∧
    (∀ q, w 4 false false → im.claim? 6 ((s.gpr x ga).toNat % 256) = some q → t.refCurrent q.data = true →
      exec (.emitCipher x ga gb false false) s =
        .next ((sent (.cipher (bitsOf q.data.toNat 51 32)) f.ts f.launch).addFrameJob fid)) ∧
    (ts = true ∨ lt = true → (w 2 ts lt → exec (.emitHost x ga gb ts lt) s = .next (t.faultAt x cEmit 1 0)) ∧
      (w 3 ts lt → exec (.emitFabric x ga gb ts lt) s = .next (t.faultAt x cEmit 1 0)) ∧
      (w 4 ts lt → exec (.emitCipher x ga gb ts lt) s = .next ((t.faultAt x cEmit 1 0).addFrameJob fid)) ∧
      (w 5 ts lt → exec (.emitDrop x ga gb ts lt) s = .next (t.faultAt x cEmit 1 0))) ∧
    (w 1 ts true → exec (.emitMulticast x ga gb ts true) s = .next (t.faultAt x cEmit 1 0)) ∧
    (w 5 false false → exec (.emitDrop x ga gb false false) s = .next ((t.disposeAt (t.slotOver k) fid dProgram).idleAfter k)) ∧
    (s.fetches x (wGI 0x2D 0 ga.val 0) = true → Completes (.leaf x ga) s (fun u =>
      u = (t.putFrame fid { f with annot := t.gpr x ga &&& 0x00FFFFFFFFFFFFFF }).retire x)) ∧
    t.slotOver k = t.elapsed + 32768 ∧
    (let u := (t.disposeAt (t.slotOver k) fid dProgram).idleAfter k
     (u.thr k).lastEnd = t.elapsed + 32768 ∧ (u.thr k).frame = none ∧ (u.thr k).st = 2 ∧ (u.thr k).mask = 1 ∧ (u.thr k).index = im.entry ∧
       ∀ g, u.frame? fid = some g → g.stage = .done)

/-- DISPATCH of a matched frame lets time reach its dispatch instant. With an image and members, an empty queue and an idle member, the frame goes to that member: it holds the frame, is READY at the image's entry and its budget runs; with no idle member it is queued, counted and recorded; with no member left it ends DROP_FAULT. DISPATCH_QUEUED serves queued frames once the first free member is idle. BUDGET_EXPIRY counts the overrun, and the thread holds no frame, waits, and its staging and lookups are gone. A wait cycle parks the core's slot owners and sets its status. Anything that does not hold leaves the state. -/
def Obligations.DispatchAndBudget : Prop :=
  ∀ (fid : Nat) (g : Group) (c : Core) (t : Fin 16) (s : State),
    (s.frame? fid = none → exec (.dispatch fid) s = .next s) ∧
    (∀ (f : Frame) (p : Nat) (v : ConVer), s.frame? fid = some f → f.port = some p → s.frameVer f = some v →
      let u := s.advanceTo (f.lt + BitVec.ofNat 64 ((s.portIn p + s.secyRx p + s.portParse p) * 65536))
      (f.stage ≠ .matched → exec (.dispatch fid) s = .next s) ∧
      (f.stage = .matched → ∀ f', u.frame? fid = some f' → exec (.dispatch fid) s = .next (u.dispatchTo fid f' v.body.group))) ∧
    (∀ (f : Frame) (q : Nat) (im : Image), s.frame? fid = some f →
      SMap.find s.spur.images (grpImg q (s.bankFor q f.lt)) = some im → s.dqueue q = [] →
      (∀ k, s.chooseIdle q = some k → s.dispatchTo fid f q = s.handTo fid k) ∧
      (s.chooseIdle q = none → s.membersUp q ≠ [] → (s.dispatchTo fid f q).dqueue q = [fid] ∧
        (s.dispatchTo fid f q).get .spurGrpDqwaitWaits q = (s.get .spurGrpDqwaitWaits q + 1) % 2 ^ 64 ∧
        ∃ e, (s.dispatchTo fid f q).cairn.raised = s.cairn.raised ++ [e] ∧ e.code = .dispatchWait) ∧
      (s.membersUp q = [] → s.dispatchTo fid f q = s.dispose fid dFault) ∧
      (∀ k, (s.thr k).group = some q → let u := s.handTo fid k
        (u.thr k).frame = some fid ∧ (u.thr k).st = 1 ∧ (u.thr k).index = im.entry ∧ (u.thr k).budLimit = im.budget * 65536 ∧
        (u.thr k).budSince = some s.elapsed ∧ (u.thr k).slots = [] ∧
        u.get .spurGrpFramesFrames q = (s.get .spurGrpFramesFrames q + 1) % 2 ^ 64 ∧ ∀ j, j ≠ k → u.thr j = s.thr j)) ∧
    (s.dqueue g.val = [] → exec (.dispatchQueued g) s = .next s) ∧
    (s.dqueue g.val ≠ [] → exec (.dispatchQueued g) s = .next ((s.advanceAt (s.firstFree g.val)).serveQueue g.val)) ∧
    (∀ i k, s.dqueue g.val = [i] → s.chooseIdle g.val = some k → s.serveQueue g.val = (s.setDq g.val []).handTo i k) ∧
    (let k := thrKey c.val t.val
     ((s.thr k).frame = none → exec (.budgetExpiry c t) s = .next s) ∧
     (∀ i q im n a, (s.thr k).frame = some i → (s.thr k).group = some q → s.imageOf k = some im → s.budgetLeft k = some n →
       (s.thr k).budSince = some a → exec (.budgetExpiry c t) s = .next ((s.advance n).expire k i q im)) ∧
     (∀ i q im, (s.thr k).st ≠ 4 → (s.thr k).st ≠ 5 → let u := s.expire k i q im
       (u.thr k).frame = none ∧ (u.thr k).st = 2 ∧ (u.thr k).mask = 1 ∧ (u.thr k).staging = [] ∧ (u.thr k).slots = [] ∧
       u.get .spurGrpBudgetOverruns q = (s.get .spurGrpBudgetOverruns q + 1) % 2 ^ 64)) ∧
    ((s.inWaitCycle c.val = false ∨ s.is .spurCoreStaWaitCycle c.val = true) → exec (.waitCycle c) s = .next s) ∧
    (s.inWaitCycle c.val = true → s.is .spurCoreStaWaitCycle c.val = false → Completes (.waitCycle c) s (fun u =>
      u.get .spurCoreStaWaitCycle c.val = 1 ∧ bitOf (u.get .spurRidgeStaWaitCycle (c.val / 16)) (c.val % 16) = true ∧
      (∀ i, i < 16 → s.ownsSlot c.val i = true → (u.thr (thrKey c.val i)).st = 5) ∧
      (∃ e, u.cairn.raised = s.cairn.raised ++ [e] ∧ e.code = .waitCycle) ∧
      KeepsBut [.regs, .spur, .cairn, .freeCtr] s u))

/-- SPUR_CORE_REL of a line with a declared source raises it, and a parked thread leaves PARKED; without a source the refusal is counted. SPUR_CORE_DB raises the named doorbell. SPUR_THR_RST clears registers, events, timers and staging of each named thread without a frame; one with a frame keeps all and ign is set. A slot-table swap whose conditions hold becomes pending, else slot_refused is set; at its boundary the banks exchange. A debugger halt, where debug is permitted, enables or disables breakpoints on the core (log entry 122), halts a running thread and leaves a parked one (log entry 121); a resume continues it, expired frames restarting in WAIT. -/
def Obligations.CoreControlWrites : Prop :=
  ∀ (c : Core) (t : Fin 16) (v : BitVec 32) (target : BitVec 64) (b : Bool) (s : State),
    let vt := bitsOf v.toNat 7 4
    let ln := bitsOf v.toNat 2 0
    let k := thrKey c.val vt
    let h := thrKey c.val t.val
    (bitOf (s.sevSource k ln) 15 = false → Completes (.spurCoreRel c v) s (fun u => u = s.bump .spurCoreSevrefRefused c.val)) ∧
    (bitOf (s.sevSource k ln) 15 = true → Completes (.spurCoreRel c v) s (fun u =>
      (u.thr k).pending = (s.thr k).pending ||| (1#32 <<< (13 + ln)) ∧ (u.thr k).st ≠ 5 ∧ KeepsBut [.regs, .spur] s u)) ∧
    Completes (.spurCoreDb c v) s (fun u => (u.thr k).pending = (s.thr k).pending ||| (1#32 <<< (21 + bitsOf v.toNat 1 0)) ∧
      (∀ j, j ≠ k → u.thr j = s.thr j) ∧ KeepsBut [.spur] s u) ∧
    Completes (.spurThrRst c v) s (fun u => KeepsBut [.regs, .spur] s u ∧
      (∀ i, i < 16 → v.getLsbD i = true → (s.thr (thrKey c.val i)).frame = none → (u.thr (thrKey c.val i)).gprs = [] ∧
        (u.thr (thrKey c.val i)).pending = 0 ∧ (u.thr (thrKey c.val i)).timers = [] ∧ (u.thr (thrKey c.val i)).staging = []) ∧
      (∀ i, i < 16 → (v.getLsbD i = false ∨ (s.thr (thrKey c.val i)).frame ≠ none) →
        (u.thr (thrKey c.val i)).gprs = (s.thr (thrKey c.val i)).gprs ∧ (u.thr (thrKey c.val i)).frame = (s.thr (thrKey c.val i)).frame ∧
        (u.thr (thrKey c.val i)).staging = (s.thr (thrKey c.val i)).staging) ∧
      ((∃ i, i < 16 ∧ v.getLsbD i = true ∧ (s.thr (thrKey c.val i)).frame ≠ none) → u.get .spurCoreStaIgn c.val = 1)) ∧
    (let ok := 65536000 ≤ ltDiff target s.lt ∧ ltDiff target s.lt < 2 ^ 62 ∧ s.is .spurCoreStaSlotPending c.val = false ∧
       s.slotsKept c.val = true
     (ok → Completes (.spurSlotAt c target) s (fun u => u.get .spurCoreStaSlotPending c.val = 1 ∧
       u.get .spurCoreStaSlotRefused c.val = 0 ∧ SMap.find u.spur.slotTarget c.val = some target ∧
       RegsBut [(.spurCoreSta, c.val)] s u ∧ KeepsBut [.regs, .spur] s u)) ∧
     (¬ok → Completes (.spurSlotAt c target) s (fun u => u.get .spurCoreStaSlotRefused c.val = 1 ∧
       RegsBut [(.spurCoreSta, c.val)] s u ∧ KeepsBut [.regs] s u))) ∧
    (SMap.find s.spur.slotTarget c.val = none → exec (.slotTableSwap c) s = .next s) ∧
    (∀ a, SMap.find s.spur.slotTarget c.val = some a → ltDiff (slotBoundary a) (s.ctxLt (.bg c)) ≤ 0 → Completes (.slotTableSwap c) s (fun u =>
      u.get .spurCoreStaSlotBank c.val = 1 - s.get .spurCoreStaSlotBank c.val ∧ u.get .spurCoreStaSlotPending c.val = 0 ∧
      SMap.find u.spur.slotTarget c.val = none ∧ (s.forerunner = false → RegsBut [(.spurCoreSta, c.val)] s u) ∧
      KeepsBut [.regs, .spur] s u)) ∧
    (s.is .secLifecycleDebug = true → Completes (.debugHalt c ⟨t, b⟩) s (fun u =>
      (SMap.find u.spur.brkCores c.val).isSome = b ∧ (u.thr h).gprs = (s.thr h).gprs ∧ (u.thr h).index = (s.thr h).index ∧
      ((s.thr h).st ≠ 0 → (s.thr h).st ≠ 4 → (s.thr h).st ≠ 5 → (u.thr h).st = 4 ∧ (u.thr h).back = (s.thr h).st) ∧
      ((s.thr h).st = 0 ∨ (s.thr h).st = 4 ∨ (s.thr h).st = 5 → u.thr h = s.thr h) ∧
      (∀ j, j ≠ h → u.thr j = s.thr j) ∧ KeepsBut [.spur] s u)) ∧
    (s.is .secLifecycleDebug = false → exec (.debugHalt c ⟨t, b⟩) s = .next s) ∧
    ((s.thr h).st ≠ 4 → exec (.debugResume c t) s = .next s) ∧
    ((s.thr h).st = 4 → (s.thr h).expired = true → Completes (.debugResume c t) s (fun u => (u.thr h).st = 2 ∧ (u.thr h).mask = 1 ∧
      (u.thr h).frame = none ∧ (u.thr h).expired = false ∧ KeepsBut [.spur] s u)) ∧
    ((s.thr h).st = 4 → (s.thr h).expired = false → (s.thr h).back ≠ 2 → Completes (.debugResume c t) s (fun u =>
      (u.thr h).st = (s.thr h).back ∧ (u.thr h).index = (s.thr h).index ∧ (u.thr h).gprs = (s.thr h).gprs ∧ KeepsBut [.spur] s u))

/-- SPUR_CORE_FAIL of a core not in repair: with a spare in its ridge the core is being spared and the spare is taken, else it is in repair; no thread of it holds a frame. SPARE_DONE brings a core being spared back under its next incarnation, to service if it is enabled and else disabled, the words lost in the copy read 0 and scratch of other cores stays. SPARE_RETURN makes the spare available. CC_FAIL between two control cores in service gives every ridge of the failed one to the other. In other states each changes nothing. -/
def Obligations.SparingResults : Prop :=
  ∀ (c : Core) (lost : List Nat) (r : Fin 16) (k by_ : Fin 8) (s : State),
    let n := c.val
    let st := s.get .spurCoreStaState n
    (st = 3 → exec (.spurCoreFail c) s = .next s) ∧
    (st ≠ 3 → Completes (.spurCoreFail c) s (fun t => t.blkState ⟨.core, n⟩ = 4 ∧
      t.get .spurCoreStaState n = (if s.is .spurRidgeStaSpareAvail (n / 16) then 2 else 3) ∧
      t.get .spurRidgeStaSpareAvail (n / 16) = 0 ∧ ∀ i, i < 16 → (t.thr (thrKey n i)).frame = none ∧ (t.thr (thrKey n i)).staging = [])) ∧
    (st ≠ 2 → exec (.spareDone c lost) s = .next s) ∧
    (st = 2 → Completes (.spareDone c lost) s (fun t =>
      t.get .spurCoreStaState n = bit (s.is .spurCoreCtlEn n) ∧ t.blkState ⟨.core, n⟩ = (if s.is .spurCoreCtlEn n then 2 else 1) ∧
      t.blkInc ⟨.core, n⟩ = (if s.blkInc ⟨.core, n⟩ = 0xFFFF then 1 else s.blkInc ⟨.core, n⟩ + 1) ∧
      t.get .spurRidgeSpareCntSpares (n / 16) = (s.get .spurRidgeSpareCntSpares (n / 16) + 1) % 2 ^ Fld.spurRidgeSpareCntSpares.width ∧
      (∀ o ∈ lost, ∀ j, j < 8 → Mem.byte t.mem.scratch (n * 65536 + o % 65536 / 8 * 8 + j) = 0) ∧
      (∀ a, a < n * 65536 ∨ (n + 1) * 65536 ≤ a → Mem.byte t.mem.scratch a = Mem.byte s.mem.scratch a) ∧
      t.mem.ext = s.mem.ext ∧ t.mem.shared = s.mem.shared ∧ ∀ i, i < 16 → (t.thr (thrKey n i)).gprs = [])) ∧
    (s.is .spurRidgeStaSpareAvail r.val = true → exec (.spareReturn r) s = .next s) ∧
    (s.is .spurRidgeStaSpareAvail r.val = false → Completes (.spareReturn r) s (fun t => t.get .spurRidgeStaSpareAvail r.val = 1 ∧
      RegsBut [(.spurRidgeSta, r.val)] s t ∧ KeepsBut [.regs] s t)) ∧
    (k = by_ ∨ s.blkState ⟨.control, k.val⟩ ≠ 2 ∨ s.blkState ⟨.control, by_.val⟩ ≠ 2 → exec (.ccFail k by_) s = .next s) ∧
    (k ≠ by_ → s.blkState ⟨.control, k.val⟩ = 2 → s.blkState ⟨.control, by_.val⟩ = 2 → Completes (.ccFail k by_) s (fun t =>
      t.get .spurCcStaRidges by_.val = s.get .spurCcStaRidges k.val ||| s.get .spurCcStaRidges by_.val ∧
      t.get .spurCcStaRidges k.val = 0 ∧ t.blkState ⟨.control, k.val⟩ = 4 ∧
      (∃ e, t.cairn.raised = s.cairn.raised ++ [e] ∧ e.code = .ccFail) ∧
      RegsBut [(.spurCcSta, k.val), (.spurCcSta, by_.val)] s t ∧ KeepsBut [.regs, .blkSt, .cairn] s t))

/-- From an open mailbox: ACTIVATE of a malformed body is answered status 1, one that a check of R150 refuses status 7 with that check's code, and an accepted one becomes pending under the next program epoch and is answered OK; at its instant that epoch is in force and a target group's banks exchange; at its end nothing is pending and the old bank's image is gone. GROUP_CREATE on free threads makes the lowest free group of the ridge and answers its number; GROUP_DELETE of a held group without contracts unloads its images and frees its threads. -/
def Obligations.ActivationAndGroups : Prop :=
  ∀ (f : Fn) (seq : BitVec 32) (body : Bytes) (images : List Bytes) (s : State),
    ((s.memReach f.val = true ∧ f.val ≠ 128 ∧ (s.box f.val).pending = false ∧ seq = (s.box f.val).replied + 1 ∧ s.boxBusy f.val = false) →
      let u := s.setBox f.val { s.box f.val with accepted := seq, pending := true, cmd := 0x11 }
      (actShape body = false → exec (.activate f seq body images) s = .next (u.reply f.val 0x11 1 0 [])) ∧
      (actShape body = true → (∀ t ∈ actTargets body, (isBgTarget t = true → f.val = 0) ∧
          (isBgTarget t = false → t < 4096 → s.ownerOf ⟨.group, t⟩ = f.val)) →
        ((u.actCheck f.val body images).1 ≠ 0 → exec (.activate f seq body images) s =
          .next (u.reply f.val 0x11 7 (u.actCheck f.val body images).1 [])) ∧
        (∀ w, (u.actCheck f.val body images).1 = 0 →
          (u.actCheck f.val body images).2.actJudge f.val (BitVec.ofNat 64 (leAt body 0 8)) (actChanges body) = .inl w →
          exec (.activate f seq body images) s = .next ((w.actPend body).recountAll.reply f.val 0x11 0 0 []))) ∧
      (s.spur.act.isSome = true → (u.actCheck f.val body images).1 = 1) ∧
      (s.spur.act = none → ltDiff (BitVec.ofNat 64 (leAt body 0 8)) s.lt < 6553600000 → (u.actCheck f.val body images).1 = 2) ∧
      (u.actPend body).get .spurActStaPending = 1 ∧
      (∃ a, (u.actPend body).spur.act = some a ∧ a.at_ = BitVec.ofNat 64 (leAt body 0 8) ∧ a.begun = false ∧
        a.targets = actTargets body ∧ a.epoch = (s.get .spurActStaEpoch + 1) % 256)) ∧
    (s.spur.act = none → exec .programEpochAt s = .next s ∧ exec .oldImagesRetire s = .next s) ∧
    (∀ a, s.spur.act = some a → (a.begun = true → exec .programEpochAt s = .next s) ∧
      (a.begun = false → exec .oldImagesRetire s = .next s) ∧
      (a.begun = false → 0 ≤ ltDiff s.lt a.at_ → a.epoch < 256 → Completes .programEpochAt s (fun t => t.get .spurActStaEpoch = a.epoch ∧
        t.get .spurActStaPending = 0 ∧ t.spur.act = some { a with begun := true } ∧
        (∀ g, a.targets = [g] → isBgTarget g = false → t.get .spurGrpStaActiveBank g = 1 - s.get .spurGrpStaActiveBank g) ∧
        KeepsBut [.regs, .spur] s t)) ∧
      (a.begun = true → s.ports.frames = [] → 0 ≤ ltDiff s.lt (a.at_ + 65536000) → Completes .oldImagesRetire s (fun t =>
        t.spur.act = none ∧ t.get .spurActStaOldLive = 0 ∧
        (∀ g, a.targets = [g] → isBgTarget g = false →
          SMap.find t.spur.images (grpImg g (1 - s.get .spurGrpStaActiveBank g)) = none)))) ∧
    (f.val = 0 → (s.memReach f.val = true ∧ f.val ≠ 128 ∧ (s.box f.val).pending = false ∧ seq = (s.box f.val).replied + 1 ∧ s.boxBusy f.val = false) →
      (∀ i, body.length = 8 → leAt body 0 1 ≤ 15 → leAt body 2 2 ≠ 0 → leAt body 4 2 ≠ 0 → zeroAt body 1 1 = true → zeroAt body 6 2 = true →
        (∀ k ∈ maskThreads (leAt body 0 1) (leAt body 2 2) (leAt body 4 2), (s.thr k).group = none) →
        (List.range 256).find? (fun i => !s.grpOn (256 * leAt body 0 1 + i)) = some i →
        exec (.groupCreate f seq body) s = .next ((((s.setBox f.val { s.box f.val with accepted := seq, pending := true, cmd := 0x12 }).makeGroup (256 * leAt body 0 1 + i) (leAt body 2 2)
          (leAt body 4 2)).reply f.val 0x12 0 0 (leBytes (256 * leAt body 0 1 + i) 2)))) ∧
      (body.length ≠ 8 → exec (.groupCreate f seq body) s = .next ((s.setBox f.val { s.box f.val with accepted := seq, pending := true, cmd := 0x12 }).reply f.val 0x12 1 0 [])) ∧
      (body.length = 2 → leAt body 0 2 ≤ 4095 → s.grpOn (leAt body 0 2) = true → s.ownerOf ⟨.group, leAt body 0 2⟩ = 0 →
        s.get .spurGrpStaContracts (leAt body 0 2) = 0 → s.grpPending (leAt body 0 2) = false →
        s.is .spurGrpStaOldLive (leAt body 0 2) = false →
        exec (.groupDelete f seq body) s =
          .next (((s.setBox f.val { s.box f.val with accepted := seq, pending := true, cmd := 0x13 }).deleteGroup (leAt body 0 2)).reply f.val 0x13 0 0 [])) ∧
      (body.length ≠ 2 → exec (.groupDelete f seq body) s = .next ((s.setBox f.val { s.box f.val with accepted := seq, pending := true, cmd := 0x13 }).reply f.val 0x13 1 0 []))) ∧
    (∀ g cores threads, g < 4096 → let t := s.makeGroup g cores threads
      t.grpOn g = true ∧ t.blkState ⟨.group, g⟩ = 2 ∧
        ∀ k ∈ maskThreads (g / 256) cores threads, (t.thr k).group = some g ∧ (t.thr k).st = 0) ∧
    (∀ g, let t := s.deleteGroup g
      t.grpOn g = false ∧ t.blkState ⟨.group, g⟩ = 1 ∧ SMap.find t.spur.images (grpImg g 0) = none ∧
        SMap.find t.spur.images (grpImg g 1) = none ∧ ∀ k ∈ s.members g, (t.thr k).group = none ∧ (t.thr k).st = 0)

/-- Each acts on an emitted frame of its own destination alone, and elsewhere leaves the state. 16 ns after the emit HOST_HANDOVER, noting a late frame, gives the frame to its ring if it has room for L_max, else counts it lost and ends it DROP_HOST_FULL; FABRIC_HANDOVER refuses an unfit domain DROP_TIME_UNFIT and an absent context or a full one DROP_FAULT; TM_ENQUEUE puts the frame into its queue, a contract frame only within the contract reserve, else BUF_FAULT and DROP_FAULT. MC_COPY reads the group and presents copies to the next octet of the copy set, in ascending octets; a contract frame of which a copy finds no room, or none goes out, is judged DROP_FAULT and has no further copies, the model's reading in log entry 85, as the DENIED refusal's DROP_FAULT is in 129. -/
def Obligations.HandoverAndEnqueue : Prop :=
  ∀ (fid : Nat) (oct : Octet) (s : State),
    (s.frame? fid = none → exec (.hostHandover fid) s = .next s ∧ exec (.fabricHandover fid) s = .next s ∧
      exec (.tmEnqueue fid) s = .next s ∧ exec (.mcCopy fid oct) s = .next s) ∧
    (∀ f : Frame, s.frame? fid = some f →
      let u := s.advanceAt (f.emitAt + 16 * 65536)
      (f.stage ≠ .emitted → exec (.hostHandover fid) s = .next s ∧ exec (.fabricHandover fid) s = .next s ∧
        exec (.tmEnqueue fid) s = .next s) ∧
      (∀ r, f.dest = .host r → f.stage = .emitted →
        let need := ((u.frameVer f).map (·.body.lMax)).getD (u.get .portMacCfgMaxFrame (f.port.getD 0))
        (u.rxOk r need = true → exec (.hostHandover fid) s = .next (((u.noteLate f u.lt).leafDue f 0x03 0xFFFFFFFF 0x1FF).handRx fid r 0)) ∧
        (u.rxOk r need = false → exec (.hostHandover fid) s = .next ((u.bump .ringLostLost r).dispose fid 0x13))) ∧
      (∀ c gb, f.dest = .fabric c gb → f.stage = .emitted →
        (u.refuseMsg c = 3 → exec (.fabricHandover fid) s = .next (u.dispose fid 0x15)) ∧
        (u.refuseMsg c = 0x0B → exec (.fabricHandover fid) s = .next (u.dispose fid 0x14)) ∧
        (∀ w, u.refuseMsg c = 0 → u.ctx? c = some w → u.sendFull c = false → ∃ m : ZMsg, m.ctx = c ∧ m.data = u.frameOut f ∧
          m.op = (if gb.getLsbD 63 then 5 else 1) ∧
          m.wait = (if f.ended then none else some fid) ∧ exec (.fabricHandover fid) s =
            .next ((((u.noteLate f u.lt).leafDue f 0x04 0xFFFFFFFF 0x1FF).putFrame fid { f with stage := .done }).sendMsg w m))) ∧
      (∀ p, f.dest = .queue p → f.stage = .emitted →
        let g := { f with stage := .egress, copies := 1, onWire := 1 }
        let r := (u.putFrame fid g).enterQueue fid p (u.queueFor g) g
        (r.2 = true → exec (.tmEnqueue fid) s = .next r.1) ∧
        (r.2 = false → f.con.isSome = true → exec (.tmEnqueue fid) s = .next (r.1.dispose fid 0x14)) ∧
        (r.2 = false → f.con.isSome = false →
          exec (.tmEnqueue fid) s = .next ((r.1.finishTx g (if u.portOn p then 3 else 4) 0).discard fid))) ∧
      (∀ g o l ports, f.dest = .mcast g (some (o :: l, ports)) →
        (o ≠ oct.val → exec (.mcCopy fid oct) s = .next s) ∧
        (o = oct.val →
          let w := (s.advanceAt (f.emitAt + (24 + 2 * ((octetsOf ports).length - l.length - 1)) * 65536)).presentOctet fid o ports
          ∀ f', w.frame? fid = some f' →
            exec (.mcCopy fid oct) s = .next ((w.putFrame fid { f' with dest := .mcast g (some (if f'.judged then [] else l, ports)) }).lastCopy fid)))) ∧
    (∀ f : Frame, s.frame? fid = some f → f.allStamped = true → f.worst = none → f.judged = false → f.con.isSome = true →
      s.lastCopy fid = s.dispose fid 0x14) ∧
    (∀ (f : Frame) (g : Nat) (l : List Nat) (ports : Nat), s.frame? fid = some f → f.dest = .mcast g (some (l, ports)) →
      s.failCopies fid = (s.leafDue f 0x14 0xFFFFFFFF 0x1FF).putFrame fid
        { f with judged := true, worst := none, dest := .mcast g (some ([], ports)) }) ∧
    (∀ (f : Frame) (p q : Nat), s.frame? fid = some f → f.con.isSome = true →
      let r := s.enterQueue fid p q f
      (s.get .tmBufStaContract + s.frameLen f ≤ 50331648 → r.2 = true ∧ (r.1.queue p q).length = (s.queue p q).length + 1 ∧
        ∀ q', q' ≠ q → q < 16 → q' < 16 → r.1.queue p q' = s.queue p q') ∧
      (50331648 < s.get .tmBufStaContract + s.frameLen f → r.2 = false ∧ r.1.tm = s.tm ∧
        ∃ e, r.1.cairn.raised = s.cairn.raised ++ [e] ∧ e.code = .bufFault)) ∧
    (∀ (f : Frame) (g : Nat), let t := s.readGroup fid g f
      let set := (SMap.getD s.ing.mc g {}).ports
      let may := match s.frameVer f with
        | some v => v.body.mcPorts
        | none => set
      ∃ f', t.frame? fid = some f' ∧ f'.stage = .egress ∧ f'.dest = .mcast g (some (octetsOf (set &&& may), set &&& may)) ∧
        ∀ p, p < 256 → t.get .tmPortMcdisCopies p =
          (s.get .tmPortMcdisCopies p + (if bitOf set p = true ∧ bitOf may p = false then 1 else 0)) % 2 ^ 64)

/-- TM_SELECT on an enabled port selects for the plane instant of a launch now if the transmitter is free by then: with no eligible queue only an ended turn is noted, and of eligible strict queues the lowest's head, its hold past, is launched. EGRESS_STAMP stamps the next unstamped frame, once protected, as a lane reads a crossing at its planned instant or less than 1 ns later, lane and part being free values, and counts a late contract frame. TX_FRAME_END takes the frame off the transmitter and counts it. REFILL_TICK brings elapsed time to the next tick, an enabled shaper gaining its rate up to its burst. TM_SWAP_AT and COL_ARM arm where their conditions hold and else set refused. COL_SWITCH exchanges the lists; COL_ENTRY_ADVANCE moves to the next entry, from the last to entry 0. -/
def Obligations.TransmitResults : Prop :=
  ∀ (p : Port) (target : BitVec 64) (v : BitVec 32) (s : State),
    let n := p.val
    (s.portOn n = false → exec (.tmSelect p) s = .next s) ∧
    (s.portOn n = true →
      let w := s.catchTicks
      let a := w.planeOf n
      let u := w.turnOver n a
      (w.elapsedOf a < w.txEnds n → exec (.tmSelect p) s = .next w) ∧
      (w.txEnds n ≤ w.elapsedOf a →
        (u.eligible (u.portAt n a) n a = [] → exec (.tmSelect p) s = .next u) ∧
        (∀ q, q < 4 → q ∈ u.eligible (u.portAt n a) n a → (∀ r, r < q → r ∉ u.eligible (u.portAt n a) n a) →
          ∃ (e : QEnt) (z : State), u.headOf n q = some e ∧ e.ready ≤ u.elapsed ∧
            exec (.tmSelect p) s = .next (z.launch n q ((u.portAt n a).tmBank n) e a)))) ∧
    (∀ q b e a, q < 16 → s.secyOn n = false → (s.launch n q b e a).queue n q = (s.queue n q).erase e ∧
      (s.launch n q b e a).get .tmQTxFrames (n * 16 + q) = (s.get .tmQTxFrames (n * 16 + q) + 1) % 2 ^ 64 ∧
      ∃ x : TxFrame, (s.launch n q b e a).inTx n = s.inTx n ++ [x] ∧ x.queue = q ∧ x.ent = e ∧ x.plane = a ∧ x.stamp = none) ∧
    ((s.inTx n).find? (fun x => x.stamp.isNone) = none → exec (.egressStamp p) s = .next s) ∧
    (∀ x f, (s.inTx n).find? (fun x => x.stamp.isNone) = some x → s.frame? x.ent.fid = some f →
      (x.sealed = false → exec (.egressStamp p) s = .next s) ∧
      (x.sealed = true → Completes (.egressStamp p) s (fun t => ∃ (c : BitVec 64) (l : Nat), (c - x.plane).toNat < 65536 ∧ n ≤ l ∧
        l < n + s.portLanes n ∧
        (let e := (s.useFree.advanceTo c).txStamp n l c
         t.inTx n = setFirst (fun x => x.stamp.isNone) { x with stamp := some e } (s.inTx n) ∧
         (∀ k d o, f.con = some k → f.deadline = some d → f.dest = .queue o → f.copies = 1 → f.worst = none → f.judged = false →
           t.get .ingConLateFrames k.1 = (s.get .ingConLateFrames k.1 + (if ltAfter e d then 1 else 0)) % 2 ^ 64))))) ∧
    ((s.inTx n).head? = none → exec (.txFrameEnd p) s = .next s) ∧
    (∀ x a f, (s.inTx n).head? = some x → x.stamp = some a → s.frame? x.ent.fid = some f →
      (f.ended = false → exec (.txFrameEnd p) s = .next s) ∧
      (f.ended = true → Completes (.txFrameEnd p) s (fun t => (t.inTx n).length + 1 = (s.inTx n).length ∧
        t.get .portTxFramesFrames n = (s.get .portTxFramesFrames n + 1) % 2 ^ 64 ∧
        t.get .portTxStompFrames n = (s.get .portTxStompFrames n + (if f.failed || x.stomp then 1 else 0)) % 2 ^ 64))) ∧
    (exec .refillTick s = .next (s.catchTicks.advanceAt ((s.catchTicks.tm.lastTick + 1) * 2 ^ 24)).catchTicks ∧
      (s.crest.running = true → s.tm.lastTick ≤ s.elapsed / 2 ^ 24 → s.elapsed + 2 ^ 25 < 2 ^ 96 → Completes .refillTick s (fun t =>
        t.elapsed = (s.elapsed / 2 ^ 24 + 1) * 2 ^ 24 ∧ t.tm.lastTick = s.elapsed / 2 ^ 24 + 1)) ∧
      ∀ q, q < 17 → let h := s.shaper n q (s.tmBank n)
        (s.refillPort n 1).bucket n q = if h.en then
          (min ((s.bucket n q).1 + (h.cir * 2097152 / 1000 : Nat)) (h.cbs * 65536 : Nat),
           min ((s.bucket n q).2 + (h.pir * 2097152 / 1000 : Nat)) (h.pbs * 65536 : Nat)) else s.bucket n q) ∧
    (s.tmArmOk n target true = true → Completes (.tmSwapAt p target) s (fun t => t.get .tmPortStaSwapPending n = 1 ∧
      t.get .tmPortStaSwapRefused n = 0 ∧ SMap.find t.tm.tmTarget n = some target ∧ RegsBut [(.tmPortSta, n)] s t ∧
      KeepsBut [.regs, .tm] s t)) ∧
    (s.tmArmOk n target true = false → Completes (.tmSwapAt p target) s (fun t => t.get .tmPortStaSwapRefused n = 1 ∧
      RegsBut [(.tmPortSta, n)] s t ∧ KeepsBut [.regs] s t)) ∧
    (v.getLsbD 0 = false → exec (.colArm p v) s = .next s) ∧
    (v.getLsbD 0 = true → s.colArmOk n true = true → Completes (.colArm p v) s (fun t => t.get .colStaPending n = 1 ∧
      t.get .colStaRefused n = 0 ∧ t.reg .colSwitchLt n = s.colS n (1 - s.colBank n) ∧
      RegsBut [(.colSta, n), (.colSwitchLt, n)] s t ∧ KeepsBut [.regs, .tm] s t)) ∧
    (v.getLsbD 0 = true → s.colArmOk n true = false → Completes (.colArm p v) s (fun t => t.get .colStaRefused n = 1 ∧
      RegsBut [(.colSta, n)] s t ∧ KeepsBut [.regs] s t)) ∧
    (s.is .colStaPending n = false → exec (.colSwitch p) s = .next s) ∧
    (s.is .colStaPending n = true → 0 ≤ ltDiff s.lt (s.reg .colSwitchLt n) → Completes (.colSwitch p) s (fun t =>
      t.colBank n = 1 - s.colBank n ∧ t.get .colStaPending n = 0 ∧ t.get .colStaEntry n = 0 ∧
      t.get .colStaListed n = (if s.colCount n (1 - s.colBank n) = 0 then 0 else 1) ∧ KeepsBut [.regs, .tm] s t)) ∧
    (SMap.find s.tm.colEnd n = none → exec (.colEntryAdvance p) s = .next s) ∧
    (∀ a, SMap.find s.tm.colEnd n = some a → a ≤ s.elapsed →
      let e := if s.get .colStaEntry n + 1 < s.colCount n (s.colBank n) then s.get .colStaEntry n + 1 else 0
      e < 1024 → Completes (.colEntryAdvance p) s (fun t => t.get .colStaEntry n = e ∧
        SMap.find t.tm.colEnd n = some (a + s.colDur n (s.colBank n) e * 65536) ∧
        t.get .colCyclesCycles n = (s.get .colCyclesCycles n + (if e = 0 then 1 else 0)) % 2 ^ 64 ∧ KeepsBut [.regs, .tm] s t))

/-- From an open mailbox each request whose body is its code, seven zero bytes and a 160-byte record is answered OK with its 32-byte reply, QUERY with the record before it; a body of another shape or an unlisted code status 1; a body with another request's code is no request of this one. An accepted ADMIT gives the contract its one version and state 1; an accepted CHANGE ends the old version at the new one's instant and adds it; a RETIRE sets the end of the latest version and state 3; a dry run, a query and a refusal leave the contract table; a RECHECK leaves it always, and sets the port's mark exactly where it answers ADMITTED. -/
def Obligations.ContractRequestResults : Prop :=
  ∀ (f : Fn) (seq : BitVec 32) (b d : Bytes) (s : State),
    (1 ≤ leAt b 0 1 → leAt b 0 1 ≤ 5 → leAt b 0 1 ≠ 1 → exec (.admitCon f seq b) s = .next s) ∧
    (1 ≤ leAt b 0 1 → leAt b 0 1 ≤ 5 → leAt b 0 1 ≠ 2 → exec (.change f seq b) s = .next s) ∧
    (1 ≤ leAt b 0 1 → leAt b 0 1 ≤ 5 → leAt b 0 1 ≠ 3 → exec (.retire f seq b) s = .next s) ∧
    (1 ≤ leAt b 0 1 → leAt b 0 1 ≤ 5 → leAt b 0 1 ≠ 4 → exec (.query f seq b) s = .next s) ∧
    (1 ≤ leAt b 0 1 → leAt b 0 1 ≤ 5 → leAt b 0 1 ≠ 5 → exec (.recheck f seq b) s = .next s) ∧
    ((s.memReach f.val = true ∧ f.val ≠ 128 ∧ (s.box f.val).pending = false ∧ seq = (s.box f.val).replied + 1 ∧ s.boxBusy f.val = false) →
      let u := s.setBox f.val { s.box f.val with accepted := seq, pending := true, cmd := 0x10 }
      (leAt b 0 1 = 0 ∨ 5 < leAt b 0 1 ∨ leAt b 0 1 = 1 ∧ (b.length ≠ 168 ∨ zeroAt b 1 7 = false) →
        exec (.admitCon f seq b) s = .next (u.reply f.val 0x10 1 0 [])) ∧
      (leAt b 0 1 = 1 → b.length = 168 → zeroAt b 1 7 = true →
        exec (.admitCon f seq b) s = .next ((u.conAdmit f.val (b.drop 8) false).1.reply f.val 0x10 0 0 (u.conAdmit f.val (b.drop 8) false).2)) ∧
      (leAt b 0 1 = 0 ∨ 5 < leAt b 0 1 ∨ leAt b 0 1 = 2 ∧ (b.length ≠ 168 ∨ zeroAt b 1 7 = false) →
        exec (.change f seq b) s = .next (u.reply f.val 0x10 1 0 [])) ∧
      (leAt b 0 1 = 2 → b.length = 168 → zeroAt b 1 7 = true →
        exec (.change f seq b) s = .next ((u.conChange f.val u.liveImgs (b.drop 8)).1.reply f.val 0x10 0 0 (u.conChange f.val u.liveImgs (b.drop 8)).2)) ∧
      (leAt b 0 1 = 0 ∨ 5 < leAt b 0 1 ∨ leAt b 0 1 = 3 ∧ (b.length ≠ 168 ∨ zeroAt b 1 7 = false) →
        exec (.retire f seq b) s = .next (u.reply f.val 0x10 1 0 [])) ∧
      (leAt b 0 1 = 3 → b.length = 168 → zeroAt b 1 7 = true →
        exec (.retire f seq b) s = .next ((u.conRetire f.val (b.drop 8)).1.reply f.val 0x10 0 0 (u.conRetire f.val (b.drop 8)).2)) ∧
      (leAt b 0 1 = 0 ∨ 5 < leAt b 0 1 ∨ leAt b 0 1 = 4 ∧ (b.length ≠ 168 ∨ zeroAt b 1 7 = false) →
        exec (.query f seq b) s = .next (u.reply f.val 0x10 1 0 [])) ∧
      (leAt b 0 1 = 4 → b.length = 168 → zeroAt b 1 7 = true →
        exec (.query f seq b) s = .next ((u.conQuery f.val (b.drop 8)).1.reply f.val 0x10 0 0 (u.conQuery f.val (b.drop 8)).2)) ∧
      (leAt b 0 1 = 0 ∨ 5 < leAt b 0 1 ∨ leAt b 0 1 = 5 ∧ (b.length ≠ 168 ∨ zeroAt b 1 7 = false) →
        exec (.recheck f seq b) s = .next (u.reply f.val 0x10 1 0 [])) ∧
      (leAt b 0 1 = 5 → b.length = 168 → zeroAt b 1 7 = true →
        exec (.recheck f seq b) s = .next ((u.conRecheck f.val (b.drop 8)).1.reply f.val 0x10 0 0 (u.conRecheck f.val (b.drop 8)).2))) ∧
    (let r := parseCon d
     let c := r.contract
     let a := s.conAdmit f.val d false
     let j := s.judgeCon s.liveImgs r false false
     let h := s.conChange f.val s.liveImgs d
     let k := s.judgeCon s.liveImgs r true false
     let e := s.conRetire f.val d
     let q := s.conQuery f.val d
     let m := s.conRecheck f.val d
     (conMalformed d = true → leAt a.2 4 1 = 2 ∧ a.1.con = s.con ∧ leAt h.2 4 1 = 2 ∧ h.1.con = s.con) ∧
     (conReserved d = true → leAt e.2 4 1 = 2 ∧ e.1.con = s.con ∧ leAt q.2 4 1 = 2 ∧ leAt m.2 4 1 = 2) ∧
     (conMalformed d = false → s.conDenied f.val r true = false → s.conState c = 0 → s.vers c = [] →
       leAt a.2 4 1 = (if j.1.code ≠ 0 then 1 else if r.dryRun then 6 else 0) ∧ leAt a.2 5 1 = j.1.code % 256 ∧
       (j.1.code = 0 → r.dryRun = false → a.1.vers c = [j.2] ∧ a.1.conState c = 1 ∧ ∀ d, d ≠ c → a.1.vers d = s.vers d) ∧
       ((j.1.code ≠ 0 ∨ r.dryRun = true) → a.1.con = s.con)) ∧
     (conMalformed d = false → s.conDenied f.val r true = false → s.conState c = 2 → (∀ v ∈ s.vers c, v.active = true) →
       leAt h.2 4 1 = (if k.1.code ≠ 0 then 1 else if r.dryRun then 6 else 0) ∧
       (k.1.code = 0 → r.dryRun = false → h.1.conState c = 2 ∧ h.1.vers c =
         (s.vers c).map (fun w => if w.until_ = none then { w with until_ := some r.at_, till := some k.2.began } else w) ++ [k.2]) ∧
       ((k.1.code ≠ 0 ∨ r.dryRun = true) → h.1.con = s.con)) ∧
     (conReserved d = false → s.conDenied f.val r false = false → s.conState c = 2 → (∀ v ∈ s.vers c, v.active = true) →
       (s.timingOk r.at_ = true → r.dryRun = false → leAt e.2 4 1 = 0 ∧ e.1.conState c = 3 ∧ e.1.vers c = (s.vers c).map (fun w =>
         if w.until_ = none then { w with until_ := some r.at_, till := some (s.instantOf r.at_).toNat } else w)) ∧
       (s.timingOk r.at_ = true → r.dryRun = true → leAt e.2 4 1 = 6 ∧ e.1.con = s.con) ∧
       (s.timingOk r.at_ = false → leAt e.2 4 1 = 1 ∧ leAt e.2 5 1 = rcTiming ∧ e.1.con = s.con)) ∧
     q.1.con = s.con ∧ (conReserved d = false → s.vers c = [] → leAt q.2 4 1 = 3) ∧
     (∀ v, conReserved d = false → s.inForce c = some v → s.conDenied f.val r false = false →
       ∃ w : Bytes, q.2 = conBytes { v.body with inc := v.inc } ++ w ∧ leAt w 4 1 = 0) ∧
     m.1.con = s.con ∧ (leAt m.2 4 1 = 0 → m.1.get .tmPortStaChecked (leAt d 64 2) = 1) ∧
     (leAt m.2 4 1 ≠ 0 → ∀ p, m.1.get .tmPortStaChecked p = s.get .tmPortStaChecked p))

/-- Once its instant is reached: CONTRACT_ACTIVATE moves an admitted contract to state 2 under its next incarnation, shows its bounds, fills its buckets, and the digest and its history follow; CONTRACT_CHANGE_AT does so for a changed one, each bucket carried over and capped; CONTRACT_RETIRE_AT marks a retiring contract's versions ended, once, and the digest follows. CHANGE_RELEASED drops the ended old version and CONTRACT_RELEASED a retired contract, which is in state 0 and disabled, once nothing of them is left. Elsewhere each leaves the state. -/
def Obligations.ContractInstants : Prop :=
  ∀ (c : ConIx) (s : State),
    (s.nextVer c.val = none → exec (.contractActivate c) s = .next s ∧ exec (.contractChangeAt c) s = .next s) ∧
    ((s.conState c.val ≠ 1 ∨ s.ledOn = false) → exec (.contractActivate c) s = .next s) ∧
    (∀ v, s.nextVer c.val = some v → s.conState c.val = 1 → s.ledOn = true → (s.startOr v).began ≤ s.elapsed →
      Completes (.contractActivate c) s (fun t =>
        let w := s.startOr v
        t.conState c.val = 2 ∧ t.blkState ⟨.contract, c.val⟩ = 2 ∧ t.blkInc ⟨.contract, c.val⟩ = incNext (s.blkInc ⟨.contract, c.val⟩) ∧
        t.get .ingConBoundPeak c.val = v.body.reqP % 2 ^ 32 ∧ t.get .ingConBoundCommitted c.val = v.body.reqC % 2 ^ 32 ∧
        t.pol c.val = { tc := v.body.cbs * tokUnit, tp := v.body.pbs * tokUnit, last := w.from_ } ∧
        (∀ x ∈ t.vers c.val, x.active = true) ∧ t.con.history.getLast? = some (w.from_, s.elapsed, t.conDigest w.from_) ∧
        t.reg .ingAdmDigestAt 0 = w.from_ ∧
        ∀ i, i < 6 → t.reg .ingAdmDigest i = BitVec.ofNat 64 (leAt (t.conDigest w.from_) (8 * i) 8))) ∧
    ((s.conState c.val ≠ 2 ∨ s.inForce c.val = none) → exec (.contractChangeAt c) s = .next s) ∧
    (∀ v o, s.nextVer c.val = some v → s.inForce c.val = some o → s.conState c.val = 2 → v.began ≤ s.elapsed →
      Completes (.contractChangeAt c) s (fun t =>
        let p := (s.pol c.val).accrue o.body v.from_
        t.conState c.val = 2 ∧ t.blkInc ⟨.contract, c.val⟩ = incNext (s.blkInc ⟨.contract, c.val⟩) ∧
        t.pol c.val = { p with tc := min p.tc (v.body.cbs * tokUnit), tp := min p.tp (v.body.pbs * tokUnit) } ∧
        (∀ x ∈ t.vers c.val, x.active = true) ∧ t.con.history.getLast? = some (v.from_, s.elapsed, t.conDigest v.from_))) ∧
    ((s.vers c.val).length < 2 → exec (.changeReleased c) s = .next s) ∧
    (∀ v w l, s.vers c.val = v :: w :: l →
      ((w.active = false ∨ s.conState c.val = 0) → exec (.changeReleased c) s = .next s) ∧
      (w.active = true → s.conState c.val ≠ 0 →
        (s.verGone c.val v = true → Completes (.changeReleased c) s (fun t => t.vers c.val = w :: l ∧
          (∀ d, d ≠ c.val → t.vers d = s.vers d) ∧ t.conState c.val = s.conState c.val)) ∧
        ((s.toRelease c.val v).verGone c.val v = false → exec (.changeReleased c) s = .next (s.toRelease c.val v)))) ∧
    ((s.vers c.val = [] ∨ s.conState c.val ≠ 3) → exec (.contractRetireAt c) s = .next s ∧ exec (.contractReleased c) s = .next s) ∧
    (∀ v u, (s.vers c.val).getLast? = some v → v.until_ = some u → s.conState c.val = 3 →
      (v.ended = true → exec (.contractRetireAt c) s = .next s) ∧
      (v.ended = false → v.till.getD 0 ≤ s.elapsed →
      Completes (.contractRetireAt c) s (fun t => t.conState c.val = 3 ∧
        t.vers c.val = (s.vers c.val).map (fun w => { w with ended := true }) ∧
        t.con.history.getLast? = some (u, s.elapsed, t.conDigest u)))) ∧
    (∀ v, (s.vers c.val).getLast? = some v → s.conState c.val = 3 → (∀ w ∈ s.vers c.val, s.verGone c.val w = true) →
      Completes (.contractReleased c) s (fun t => t.vers c.val = [] ∧ t.conState c.val = 0 ∧ t.blkState ⟨.contract, c.val⟩ = 1 ∧
        t.get .ingConBoundPeak c.val = 0 ∧ t.get .ingConBoundCommitted c.val = 0 ∧ ∀ d, d ≠ c.val → t.vers d = s.vers d))

/-- LEAF_WRITE writes the lane's first due leaf unless an earlier disposition is still to come; outside summaries it takes the lane's next sequence. LEDGER_START, once the gate is open, brings time to the next epoch, which becomes the start epoch, the lanes entering service. EPOCH_ROOT of the oldest closed epoch, when its leaves are in, stores sixteen lane roots and the epoch root over them and empties the lanes of that epoch. RECEIPT_SIGN signs the oldest closed span's body as the next receipt and chains its hash; the RSA salt and the SLH-DSA randomiser are free words (log entry 125). EXPORT_RESUME posts to a stopped ring what fits. -/
def Obligations.LedgerEventResults : Prop :=
  ∀ (l : Lane) (r : RingIx) (s : State),
    (firstDue (s.led? l.val).due = none → exec (.leafWrite l) s = .next s) ∧
    (∀ d rest, firstDue (s.led? l.val).due = some (d, rest) →
      (s.leafAwaited l.val d.at_ = true → exec (.leafWrite l) s = .next s) ∧
      (s.leafAwaited l.val d.at_ = false → (s.led? l.val).sums = [] → d.dispo ≠ dPolice → s.stagedNow l.val < 7168 →
        Completes (.leafWrite l) s (fun t =>
          let q := s.reg .ledLaneSeq l.val
          t.reg .ledLaneSeq l.val = q + 1 ∧ (t.led? l.val).due = rest ∧
          t.get .ledLaneLeavesLeaves l.val = (s.get .ledLaneLeavesLeaves l.val + 1) % 2 ^ 64 ∧
          (t.led? l.val).staged = (s.led? l.val).staged ++ [{ leaf := leafOf d q.toNat, annot := d.annot, epoch := epochOf d.at_, seq := q.toNat, con := d.con, tenant := d.tenant }] ∧ ∀ m, m ≠ l.val → t.led? m = s.led? m))) ∧
    ((s.gateOpen = false ∨ s.ledOn = true) → exec .ledgerStart s = .next s) ∧
    (s.gateOpen = true → s.ledOn = false → Completes .ledgerStart s (fun t =>
      let u := s.advanceAt ((s.epoch + 1) * epochUnits)
      t.ledOn = true ∧ t.led.spanFirst = u.epoch ∧ t.led.prev = zero48 ∧ t.reg .ledStartEpoch 0 = BitVec.ofNat 64 u.epoch ∧
      t.get .ledRcptStaSession 0 = u.cairn.pwrCyc.toNat ∧
      (∀ k, k < 16 → t.blkState ⟨.lane, k⟩ = 2 ∧ t.blkInc ⟨.lane, k⟩ = incNext (u.blkInc ⟨.lane, k⟩)) ∧
      t.con.history = u.con.history ++ [(u.reg .ingAdmDigestAt 0, u.elapsed, u.ctdNow)] ∧
      (s.crest.running = true → s.elapsed + 2 ^ 37 < 2 ^ 96 → t.epoch = s.epoch + 1))) ∧
    (s.led.closed = [] → exec .epochRoot s = .next s) ∧
    (∀ e tqw eb rest, s.led.closed = (e, tqw, eb) :: rest →
      (s.rootReady e = false → exec .epochRoot s = .next s) ∧
      (s.rootReady e = true → Completes .epochRoot s (fun t => t.led.closed = rest ∧ (∃ x : EpochEntry,
        t.led.epochs.getLast? = some x ∧ x.epoch = e ∧ x.tqw = tqw ∧ x.eb = eb ∧ x.lanes.length = 16 ∧
        x.root = epochRootOf e tqw (x.lanes.map (·.1))) ∧
        ∀ k, k < 16 → (t.led? k).staged.filter (fun y => y.epoch == e) = []))) ∧
    (s.led.spanEnds = [] → exec .receiptSign s = .next s) ∧
    (∀ last meas ctd g rest, s.led.spanEnds = (last, meas, ctd, g) :: rest →
      let hold := s.is .ciphStaErased = true ∨ s.spanEntry last = none ∨ (∃ c ∈ s.led.closed, c.1 ≤ last)
      (hold → exec .receiptSign s = .next s) ∧
      (¬hold → Completes .receiptSign s (fun t =>
        let body := s.receiptBody s.led.spanFirst last g meas ctd
        (∃ x : Receipt, t.led.receipts.getLast? = some x ∧ x.seq = (s.reg .ledRcptSeq 0).toNat ∧ x.first = s.led.spanFirst ∧
          x.last = last ∧ x.body = body ∧ x.slh.length = 35664 ∧
          x.rsa = rsaSignBy (some g) (s.freeBytes 0 6) (0x05 :: body) ∧
          x.slh = slhSignBy (some g) (s.freeBytes 6 3) (0x05 :: body)) ∧
        t.led.prev = sha384 (0x05 :: body) ∧ t.led.spanEnds = rest ∧ t.led.spanFirst = last + 1 ∧
        t.reg .ledRcptSeq 0 = s.reg .ledRcptSeq 0 + 1 ∧ t.get .ledRcptStaSignPending = bit (!rest.isEmpty) ∧
        t.get .ledRcptLateLate = (s.get .ledRcptLateLate + bit (s.signLate last)) % 2 ^ 64))) ∧
    ((SMap.find s.led.exports (expKey l.val r.val) = none ∨ s.ringKind r.val ≠ 8 ∨ s.ringLive r.val = false) →
      exec (.exportResume l r) s = .next s) ∧
    (∀ q e, SMap.find s.led.exports (expKey l.val r.val) = some (q, e) → s.ringKind r.val = 8 → s.ringLive r.val = true →
      let items := s.expItems l.val r.val q e
      exec (.exportResume l r) s = .next (s.expDrain l.val r.val q e items) ∧
      (items = [] → SMap.find (s.expDrain l.val r.val q e items).led.exports (expKey l.val r.val) = none) ∧
      (items ≠ [] → s.expRoom r.val 128 = false →
        s.expDrain l.val r.val q e items = (s.closeFull r.val 128).setExp l.val r.val (some (q, e))))

/-- LED_RET_SWAP with bit 0 set arms a swap, or with an old region held sets refused; LED_RET_RELEASE drops the old region. A well-formed PROOF entry reached by its ring is started and answered with the proof's status and bytes: 3 outside the session, 1 where the span is not yet signed; a delivered proof is counted. RECEIPT is answered 5 to a function that may not export, 1 for a sequence not yet signed, 0 with the retained receipt, else 2. HASH_SPARE gives the lane the spare under a new incarnation, or leaves it stuck once the spare is used. -/
def Obligations.LedgerCommandResults : Prop :=
  ∀ (l : Lane) (v : BitVec 32) (r : RingIx) (e : Bytes) (s : State),
    (v.getLsbD 0 = false → exec (.ledRetSwap l v) s = .next s ∧ exec (.ledRetRelease l v) s = .next s) ∧
    (v.getLsbD 0 = true → s.is .ledRetStaOldHeld l.val = true →
      Completes (.ledRetSwap l v) s (fun t => t.get .ledRetStaRefused l.val = 1 ∧
        t.get .ledRetStaPending l.val = s.get .ledRetStaPending l.val ∧ RegsBut [(.ledRetSta, l.val)] s t ∧ KeepsBut [.regs] s t)) ∧
    (v.getLsbD 0 = true → s.is .ledRetStaOldHeld l.val = false →
      Completes (.ledRetSwap l v) s (fun t => t.get .ledRetStaRefused l.val = 0 ∧ t.get .ledRetStaPending l.val = 1 ∧
        RegsBut [(.ledRetSta, l.val)] s t ∧ KeepsBut [.regs] s t)) ∧
    (v.getLsbD 0 = true → Completes (.ledRetRelease l v) s (fun t => (t.led? l.val).oldRetained = [] ∧
      (t.led? l.val).retained = (s.led? l.val).retained ∧ t.get .ledRetStaOldHeld l.val = 0 ∧
      (∀ m, m ≠ l.val → t.led? m = s.led? m) ∧ RegsBut [(.ledRetSta, l.val)] s t ∧ KeepsBut [.regs, .led] s t)) ∧
    (leAt e 0 2 ≠ 1 → exec (.proof r e) s = .next s) ∧ (leAt e 0 2 ≠ 2 → exec (.receipt r e) s = .next s) ∧
    (s.canStart r.val 7 = false → exec (.proof r e) s = .next s ∧ exec (.receipt r e) s = .next s) ∧
    ((s.reaches r.val 7 e = true ∧ ledBad (leAt e 0 2) e = none ∧ s.passOk r.val (s.ringH r.val) e = true) →
      let u := s.beginEntry r.val
      let i := s.ringH r.val
      let a := u.proofOf (u.ringOwner r.val) (leAt e 2 1) (leAt e 8 8) (leAt e 16 8)
      let q := leAt e 8 8
      (leAt e 0 2 = 1 →
        (a.1 = 0 → a.2.length ≤ leAt e 4 4 → exec (.proof r e) s = .next ((u.ledAnswer r.val i e 0 a.2).bump .ledProofCntProofs)) ∧
        ((a.1 ≠ 0 ∨ leAt e 4 4 < a.2.length) → exec (.proof r e) s = .next (u.ledAnswer r.val i e a.1 a.2))) ∧
      (leAt e 0 2 = 2 →
        (u.mayExport (u.ringOwner r.val) = false → exec (.receipt r e) s = .next (u.ledAnswer r.val i e 5 [])) ∧
        (u.mayExport (u.ringOwner r.val) = true →
          ((s.reg .ledRcptSeq 0).toNat ≤ q → exec (.receipt r e) s = .next (u.ledAnswer r.val i e 1 [])) ∧
          (q < (s.reg .ledRcptSeq 0).toNat → (∀ x ∈ s.led.receipts, x.seq ≠ q) →
            exec (.receipt r e) s = .next (u.ledAnswer r.val i e 2 [])) ∧
          (∀ x, q < (s.reg .ledRcptSeq 0).toNat → s.led.receipts.find? (fun y => y.seq == q) = some x →
            exec (.receipt r e) s = .next (u.ledAnswer r.val i e 0 (x.body ++ x.rsa ++ x.slh ++ x.appendix)))))) ∧
    (∀ f lane epoch seq, ((s.ledOn = false ∨ epoch < (s.reg .ledStartEpoch 0).toNat ∨ 15 < lane) → s.proofOf f lane epoch seq = (3, [])) ∧
      (s.ledOn = true → (s.reg .ledStartEpoch 0).toNat ≤ epoch → lane ≤ 15 → s.led.spanFirst ≤ epoch →
        s.proofOf f lane epoch seq = (1, []))) ∧
    ((s.ledOn = false ∨ (s.led? l.val).stuck ≠ none) → exec (.hashSpare l) s = .next s) ∧
    (s.ledOn = true → (s.led? l.val).stuck = none → s.led.spareUsed = true → Completes (.hashSpare l) s (fun t =>
      (t.led? l.val).stuck = some (s.stagedNow l.val) ∧ (∀ m, m ≠ l.val → t.led? m = s.led? m) ∧
      (∃ c, t.cairn.raised = s.cairn.raised ++ [c] ∧ c.code = .hashSpare) ∧ KeepsBut [.led, .cairn] s t)) ∧
    (s.ledOn = true → (s.led? l.val).stuck = none → s.led.spareUsed = false → Completes (.hashSpare l) s (fun t =>
      t.led.spareUsed = true ∧ t.led.lanes = s.led.lanes ∧ t.blkState ⟨.lane, l.val⟩ = 2 ∧
      t.blkInc ⟨.lane, l.val⟩ = incNext (s.blkInc ⟨.lane, l.val⟩) ∧ ∃ c ∈ t.cairn.raised, c.code = .hashSpare))

/-- A well-formed work request reached by a FABRIC ring whose send queue has room is started and, refused, completes at once with its status, noted as a failure of its queue (0x0B without a work queue of its owner, 3 while unfit), or, its host data read, becomes a message of its work queue under the next message ID, the session and the active delta code; a failed read leaves it unstarted and the ring in ERROR. With the send queue full the ring passes its turn on. A window command is malformed where its target-3 record names no RX_FABRIC ring of the owner, completes 0x0B where it is denied, 2 while the next generation is too young, else the window takes its record, or is closed, under its next generation and the entry returns the new key. Other opcodes are not the command's. -/
def Obligations.WorkRequestResults : Prop :=
  ∀ (r : RingIx) (e d : Bytes) (s : State),
    let op := leAt e 0 1
    let c := leAt e 2 2
    let i := s.ringH r.val
    let own := s.ringOwner r.val
    let n := workSrc e
    (op ≠ 1 → exec (.zoaWrite r e d) s = .next s) ∧ (op ≠ 2 → exec (.zoaRead r e) s = .next s) ∧
    (op ≠ 3 → exec (.fetchAdd r e) s = .next s) ∧ (op ≠ 4 → exec (.compareSwap r e) s = .next s) ∧
    (op ≠ 5 → exec (.zoaSend r e d) s = .next s) ∧ (op ≠ 6 → exec (.zoaFlush r e) s = .next s) ∧
    (op ≠ 0x10 → exec (.winOpen r e) s = .next s) ∧ (op ≠ 0x11 → exec (.winSet r e) s = .next s) ∧
    (op ≠ 0x12 → exec (.winClose r e) s = .next s) ∧
    (s.sendFull c = true → zoaBad e = none → 
      (op = 1 → exec (.zoaWrite r e d) s = .next (s.passIf r.val 5 e)) ∧ (op = 6 → exec (.zoaFlush r e) s = .next (s.passIf r.val 5 e))) ∧
    ((s.reaches r.val 5 e = true ∧ zoaBad e = none ∧ s.passOk r.val (s.ringH r.val) e = true) → s.sendFull c = false →
      let st := s.workRefuse r.val e
      let x := if n = 0 then s else s.readHost own (leAt e 8 8) n
      let got := n = 0 ∨ (s.canReach own (leAt e 8 8) n = true ∧ d.length = n)
      (st ≠ 0 →
        let u := s.beginEntry r.val
        let mine := (SMap.find u.zoa.wqs c).any (fun w => w.owner == u.ringOwner r.val)
        let t := (if mine then u.noteFail c st else u).complete r.val i (zoaEntry e 0 0) st
        (op = 1 → exec (.zoaWrite r e d) s = .next t) ∧ (op = 2 → exec (.zoaRead r e) s = .next t) ∧
        (op = 3 → exec (.fetchAdd r e) s = .next t) ∧ (op = 4 → exec (.compareSwap r e) s = .next t) ∧
        (op = 5 → exec (.zoaSend r e d) s = .next t) ∧ (op = 6 → exec (.zoaFlush r e) s = .next t)) ∧
      (st = 0 → ¬got → (op = 1 → exec (.zoaWrite r e d) s = .next (x.ringError r.val ecAccess i)) ∧
        (op = 5 → exec (.zoaSend r e d) s = .next (x.ringError r.val ecAccess i))) ∧
      (∀ w, st = 0 → got →
        let u := x.beginEntry r.val
        let m := fun b => workMsg r.val i (u.ringOwner r.val) e b
        u.ctx? c = some w →
        (op = 1 → exec (.zoaWrite r e d) s = .next (u.sendMsg w (m d))) ∧ (op = 2 → exec (.zoaRead r e) s = .next (u.sendMsg w (m []))) ∧
        (op = 3 → exec (.fetchAdd r e) s = .next (u.sendMsg w (m []))) ∧
        (op = 4 → exec (.compareSwap r e) s = .next (u.sendMsg w (m []))) ∧
        (op = 5 → exec (.zoaSend r e d) s = .next (u.sendMsg w (m d))) ∧
        (op = 6 → exec (.zoaFlush r e) s = .next (u.sendMsg w (m []))))) ∧
    (SMap.find s.zoa.wqs c = none → s.workRefuse r.val e = 0x0B) ∧
    (∀ w, SMap.find s.zoa.wqs c = some w → w.owner ≠ s.ringOwner r.val → s.workRefuse r.val e = 0x0B) ∧
    (∀ w, SMap.find s.zoa.wqs c = some w → w.owner = s.ringOwner r.val → bitOf (leAt e 1 1) 2 = false → c < 4096 → w.en = true →
      w.prot = false → s.is .zoaCfgEn = true → s.workRefuse r.val e = (if s.zoaUnfit s.deltaCode then 3 else 0)) ∧
    (∀ (w : Wq) (m : ZMsg), let t := s.sendMsg w m
      SMap.find t.zoa.msgs s.zoa.nextSeq = some { m with id := s.zoa.nextId, session := s.get .zoaStaSession, dcode := s.deltaCode, psize := (psizeCode w.psize).getD 0 } ∧
      t.zoa.nextId = (s.zoa.nextId + 1) % 2 ^ 48 ∧ t.zoa.nextSeq = s.zoa.nextSeq + 1 ∧
      (∀ k, k ≠ s.zoa.nextSeq → SMap.find t.zoa.msgs k = SMap.find s.zoa.msgs k) ∧ KeepsBut [.zoa] s t) ∧
    (∀ q, s.reaches r.val 5 e = true → s.passOk r.val i e = true → zoaBad e = none → leAt e 40 1 = 3 →
      refBlk (BitVec.ofNat 64 (leAt e 24 8)) = some q → (q.kind ≠ .ring ∨ s.ringOwner q.ix ≠ own ∨ s.ringKind q.ix ≠ 3) →
      (op = 0x10 → exec (.winOpen r e) s = .next (s.ringError r.val ecRange i)) ∧
      (op = 0x11 → exec (.winSet r e) s = .next (s.ringError r.val ecRange i))) ∧
    ((s.reaches r.val 5 e = true ∧ s.winFault r.val e = none ∧ s.passOk r.val (s.ringH r.val) e = true) →
      let u := s.beginEntry r.val
      let ix := winIx e
      let f := u.ringOwner r.val
      let answer := fun (t : State) => t.complete r.val i (sliceB e 0 16 ++ leBytes (ix * 256 + (t.win ix).gen) 4 ++ sliceB e 20 42) 0
      (u.winDenied f op e = true →
        let t := u.complete r.val i (sliceB e 0 62) 0x0B
        (op = 0x10 → exec (.winOpen r e) s = .next t) ∧ (op = 0x11 → exec (.winSet r e) s = .next t) ∧
        (op = 0x12 → exec (.winClose r e) s = .next t)) ∧
      (u.winDenied f op e = false → u.genBusy ix = true →
        let t := u.complete r.val i (sliceB e 0 62) 2
        (op = 0x10 → exec (.winOpen r e) s = .next t) ∧ (op = 0x11 → exec (.winSet r e) s = .next t)) ∧
      (u.winDenied f op e = false → u.genBusy ix = false →
        (op = 0x10 → exec (.winOpen r e) s = .next (answer (u.renewWin ix (winRec r.val f e)))) ∧
        (op = 0x11 → exec (.winSet r e) s = .next (answer (u.renewWin ix (winRec r.val f e))))) ∧
      (u.winDenied f op e = false → op = 0x12 → exec (.winClose r e) s = .next (answer (u.closeWin ix)))) ∧
    (∀ (k : Nat) (w : Window), (s.renewWin k w).win k = { w with gen := genNext (s.win k).gen } ∧
      (∀ j, j ≠ k → (s.renewWin k w).win j = s.win j) ∧ ((s.closeWin k).win k).opened = false ∧
      ((s.closeWin k).win k).gen = genNext (s.win k).gen)

/-- With the pace reached and the fabric on, ZOA_PACKET_SEND sends the next packet of the first message that has one; ZOA_RETRANSMIT sends an unacknowledged packet again at its instant and counts it; at 5/4 delta ZOA_MSG_TIMEOUT makes a message final. A frame that is no packet changes nothing; a malformed one and one without its key are counted; a protected one becomes a class 2 job of the engine. A REQ is judged: a delta code not honoured is answered NAK 9, an unfit fabric 3, an age of delta or more 1; a WRITE packet already placed is only counted and acknowledged, once what it placed can reach the host. A message of which every packet was lost before the MAC counts from its first sending (log entry 153). An ACK adds to what is acknowledged, a NAK is kept or ends the message, a RESP is placed or counted as discarded. -/
def Obligations.FabricPacketResults : Prop :=
  ∀ (q : SendCtx) (msg : BitVec 48) (ix : Nat) (n : Port) (pkt h : Bytes) (s : State),
    (s.nextMsg (ctxNum q) = none → exec (.zoaPacketSend q) s = .next s) ∧
    (∀ k m w, s.nextMsg (ctxNum q) = some (k, m) → s.ctx? (ctxNum q) = some w → SMap.getD s.zoa.pace (ctxNum q) 0 ≤ s.elapsed →
      let may := s.is .zoaCfgEn = true ∧ s.gateOpen = true ∧ s.msgMay k m w = true
      (may → exec (.zoaPacketSend q) s = .next (s.sendPkt k m w m.next false)) ∧ (¬may → exec (.zoaPacketSend q) s = .next s)) ∧
    (∀ k m w i again, s.ctx? m.ctx = some w →
      let t := s.sendPkt k m w i again
      SMap.find t.zoa.msgs k = some { m with next := max m.next (i + 1), sent := m.sent <|> some s.elapsed } ∧
      max (SMap.getD s.zoa.pace m.ctx 0) s.elapsed ≤ SMap.getD t.zoa.pace m.ctx 0 ∧
      (w.prot = false → t.get .zoaCntCount 0 = (s.get .zoaCntCount 0 + 1) % 2 ^ 64 ∧ t.freeCtr = s.freeCtr + 1 ∧ t.ciph = s.ciph) ∧
      (w.prot = true → t.regs = s.regs ∧ ∃ j : CipherJob, t.ciph.jobs = s.ciph.jobs ++ [j] ∧ j.cls = 2 ∧ j.keyIx = w.keyIx)) ∧
    (s.msgById msg.toNat = none → exec (.zoaRetransmit msg ⟨ix, h⟩) s = .next s ∧ exec (.zoaMsgTimeout msg) s = .next s) ∧
    (∀ k m, s.msgById msg.toNat = some (k, m) →
      (s.msgBegan k m = none → exec (.zoaRetransmit msg ⟨ix, h⟩) s = .next s ∧ exec (.zoaMsgTimeout msg) s = .next s) ∧
      (∀ f, m.first = some f → s.msgBegan k m = some f.2) ∧
      (m.first = none → s.pktOnWay k = true → s.msgBegan k m = none) ∧
      (m.first = none → s.pktOnWay k = false → s.msgBegan k m = m.sent) ∧
      (∀ f w, s.msgBegan k m = some f → s.ctx? m.ctx = some w →
        let at_ := max (f + retransAt m.dcode (SMap.getD m.tries ix 0)) (SMap.getD s.zoa.pace m.ctx 0)
        let no := m.next ≤ ix ∨ (m.op ≠ 2 ∧ bitOf m.acked ix = true) ∨ f + m.dcode * deltaUnit - 4 * deltaUnit < max at_ s.elapsed ∨ s.is .zoaCfgEn = false ∨
          s.gateOpen = false
        (no → exec (.zoaRetransmit msg ⟨ix, h⟩) s = .next s) ∧
        (¬no → at_ ≤ s.elapsed → exec (.zoaRetransmit msg ⟨ix, h⟩) s = .next ((s.bump .zoaCntCount 1).sendPkt k { m.reread ix h with tries := SMap.put m.tries ix (some (SMap.getD m.tries ix 0 + 1)) } w ix true))) ∧
      (∀ f, s.msgBegan k m = some f → f + fiveQuarters m.dcode ≤ s.elapsed → exec (.zoaMsgTimeout msg) s =
        .next ((s.finalMsg k (if m.soft = 0 then 0x0A else m.soft)).jrnSettle))) ∧
    (∀ k m st, SMap.find s.zoa.msgs k = some m → SMap.find (s.finalMsg k st).zoa.msgs k = none ∧
      ∀ j, j ≠ k → SMap.find (s.finalMsg k st).zoa.msgs j = SMap.find s.zoa.msgs j) ∧
    (s.zoaIn n.val pkt = .none → exec (.zoaReqRx n pkt h) s = .next s ∧ exec (.zoaAckRx n pkt) s = .next s ∧
      exec (.zoaNakRx n pkt) s = .next s ∧ exec (.zoaRespRx n pkt) s = .next s) ∧
    (s.zoaIn n.val pkt = .malformed → let t := s.bump .zoaCntCount 9
      exec (.zoaReqRx n pkt h) s = .next t ∧ exec (.zoaAckRx n pkt) s = .next t ∧ exec (.zoaNakRx n pkt) s = .next t ∧
      exec (.zoaRespRx n pkt) s = .next t) ∧
    (s.zoaIn n.val pkt = .badTag → let t := (s.bump .zoaCntCount 7).bump .ciphTagFailFails
      exec (.zoaReqRx n pkt h) s = .next t ∧ exec (.zoaAckRx n pkt) s = .next t ∧ exec (.zoaNakRx n pkt) s = .next t ∧
      exec (.zoaRespRx n pkt) s = .next t) ∧
    (∀ p r tag, s.zoaIn n.val pkt = .sealed p r tag →
      let job := fun (d : Bytes) => s.addJob 2 (.zoaIn r p tag d) p.keyIx (56 + p.plen)
      exec (.zoaReqRx n pkt h) s = .next (if p.kind = 1 then job h else s) ∧
      exec (.zoaAckRx n pkt) s = .next (if p.kind = 2 then job [] else s) ∧
      exec (.zoaNakRx n pkt) s = .next (if p.kind = 3 then job [] else s) ∧
      exec (.zoaRespRx n pkt) s = .next (if p.kind = 4 then job [] else s)) ∧
    (∀ p r, s.zoaIn n.val pkt = .good p r →
      (p.kind = 1 → exec (.zoaReqRx n pkt h) s = .next (s.recvReq r p h)) ∧
      (p.kind = 2 → ∀ k m, s.zoaAnswered p = some (k, m) → (m.op = 1 ∨ m.op = 5 ∨ m.op = 6) →
        exec (.zoaAckRx n pkt) s = .next ((s.progress k m (m.cover p.off p.total)).jrnSettle)) ∧
      (p.kind = 3 → ∀ k m, s.zoaAnswered p = some (k, m) →
        ((p.status = 2 ∨ p.status = 3 ∨ p.status = 7) → exec (.zoaNakRx n pkt) s = .next (s.putMsg k (some { m with soft := p.status }))) ∧
        (p.status ≠ 2 → p.status ≠ 3 → p.status ≠ 7 → exec (.zoaNakRx n pkt) s = .next ((s.finalMsg k p.status).jrnSettle))) ∧
      (p.kind = 4 → s.zoaAnswered p = none → exec (.zoaRespRx n pkt) s = .next (s.bump .zoaCntCount 3)) ∧
      (p.kind = 4 → ∀ k m, s.zoaAnswered p = some (k, m) → m.op = 2 →
        exec (.zoaRespRx n pkt) s = .next (s.placeLocal k m p.off p.payload (fun u => u.progress k m (m.cover p.off p.plen)))) ∧
      (∀ k m (g : State → State), m.lext = false → ∀ q i y, m.user = .ring q i y → i ∈ (s.ring q).running →
        let a := m.laddr + p.off
        (s.wrFails m.owner a p.payload.length = true → m.owner = s.ringOwner q → SMap.find (s.placeLocal k m p.off p.payload g).zoa.msgs k = none) ∧
        (s.wrFails (s.ringOwner q) a p.payload.length = false → m.owner = s.ringOwner q →
          s.placeLocal k m p.off p.payload g = g (s.hostWriteFor (some (q, i)) m.owner a p.payload))) ∧
      (p.kind ≠ 1 → exec (.zoaReqRx n pkt h) s = .next s) ∧ (p.kind ≠ 2 → exec (.zoaAckRx n pkt) s = .next s) ∧
      (p.kind ≠ 3 → exec (.zoaNakRx n pkt) s = .next s) ∧ (p.kind ≠ 4 → exec (.zoaRespRx n pkt) s = .next s)) ∧
    (∀ k m b, let a := m.acked ||| b
      (a + 1 = 2 ^ m.parts → SMap.find (s.progress k m b).zoa.msgs k = none) ∧
      (a + 1 ≠ 2 ^ m.parts → s.progress k m b = s.putMsg k (some { m with acked := a }))) ∧
    (∀ r p, let age := ltDiff s.domainTime p.first
      let code := p.dst % 2 ^ 12
      (s.deltaHonoured code = false → s.recvReq r p h = (s.bump .zoaCntCount 8).nak r p 9) ∧
      (s.deltaHonoured code = true → SMap.find s.zoa.dups p.dupKey = none →
        (s.zoaUnfit code = true → s.recvReq r p h = (s.bump .zoaCntCount 8).nak r p 3) ∧
        (s.zoaUnfit code = false → ((code * deltaUnit : Nat) : Int) ≤ age → s.recvReq r p h = (s.bump .zoaCntCount 4).nak r p 1) ∧
        (s.zoaUnfit code = false → age < -(((code * deltaUnit : Nat) : Int) / 4) → s.recvReq r p h = (s.bump .zoaCntCount 8).nak r p 3)) ∧
      (∀ e, s.deltaHonoured code = true → SMap.find s.zoa.dups p.dupKey = some e → e.failed = 0 → bitOf e.placed p.index = true →
        age < ((code * deltaUnit : Nat) : Int) → -(((code * deltaUnit : Nat) : Int) / 4) ≤ age → p.op = 1 →
        s.recvReq r p h = (if s.owes p then s.bump .zoaCntCount 2 else (s.bump .zoaCntCount 2).ack r p) ∧
        (s.recvReq r p h).mem = s.mem))

/-- At its end a duplicate entry is gone, a quarantine is over, an old delta code is no longer kept, nor honoured. ZOA_DELTA_SWAP arms or sets refused; at its instant the delta banks exchange and the old code is kept 5/4 of it longer. Enabling the fabric starts the next session with message IDs from 0. From an open mailbox WQ_CREATE is answered 1, 2, 5 or 6 or stores the context, the queue entering service, and WQ_DESTROY is answered 1, 2, 5 or 3 or removes it. Twin watch on opens the twin window under a new key where it may, off closes it; without a heartbeat for miss epochs lost is set and recorded. -/
def Obligations.FabricControlResults : Prop :=
  ∀ (src : BitVec 32) (msg : BitVec 48) (target : BitVec 64) (f : Fn) (seq : BitVec 32) (b : Bytes) (s : State),
    let k := src.toNat * 2 ^ 48 + msg.toNat
    (SMap.find s.zoa.dups k = none → exec (.dedupExpire src msg) s = .next s) ∧
    (∀ e, SMap.find s.zoa.dups k = some e → e.expire ≤ s.elapsed → Completes (.dedupExpire src msg) s (fun t =>
      SMap.find t.zoa.dups k = none ∧ t.get .zoaStaDedup = s.get .zoaStaDedup - 1 ∧
      (∀ j, j ≠ k → SMap.find t.zoa.dups j = SMap.find s.zoa.dups j) ∧ t = (s.dropDup k e).endBuf k e 0x0A)) ∧
    (s.is .zoaStaQuarantine = false → exec .quarantineEnd s = .next s) ∧
    (s.is .zoaStaQuarantine = true → 0 ≤ ltDiff s.lt (s.reg .zoaQuarEnd 0) → Completes .quarantineEnd s (fun t =>
      t.get .zoaStaQuarantine = 0 ∧ RegsBut [(.zoaSta, 0)] s t ∧ KeepsBut [.regs] s t)) ∧
    (let new := s.get .zoaDeltaDelta (1 - s.get .zoaStaBank)
     let ok := 65536000 ≤ ltDiff target s.lt ∧ ltDiff target s.lt < 2 ^ 62 ∧ s.is .zoaStaSwapPending = false ∧
       (s.is .zoaTwinCfgEn = false ∨ new * 20000 + 1000000 ≤ (s.get .zoaTwinCfgMiss - 1) * 1048576)
     (ok → Completes (.zoaDeltaSwap target) s (fun t => t.get .zoaStaSwapPending = 1 ∧ t.get .zoaStaSwapRefused = 0 ∧
       t.zoa.deltaTarget = some target ∧ RegsBut [(.zoaSta, 0)] s t ∧ KeepsBut [.regs, .zoa] s t)) ∧
     (¬ok → Completes (.zoaDeltaSwap target) s (fun t => t.get .zoaStaSwapRefused = 1 ∧ RegsBut [(.zoaSta, 0)] s t ∧
       KeepsBut [.regs] s t))) ∧
    (s.zoa.deltaTarget = none → exec .deltaSwapAt s = .next s) ∧
    (∀ x, s.zoa.deltaTarget = some x → 0 ≤ ltDiff s.lt x → Completes .deltaSwapAt s (fun t =>
      t.get .zoaStaBank = 1 - s.get .zoaStaBank ∧ t.get .zoaStaSwapPending = 0 ∧ t.zoa.deltaTarget = none ∧
      t.zoa.oldDelta = s.zoa.oldDelta ++ [(s.deltaCode, s.elapsed - (ltDiff s.lt x).toNat + fiveQuarters s.deltaCode)])) ∧
    (s.zoa.oldDelta = [] → exec .oldDeltaExpire s = .next s) ∧
    ((∃ y ∈ s.zoa.oldDelta, y.2 ≤ s.elapsed) → Completes .oldDeltaExpire s (fun t =>
      t.zoa.oldDelta = s.zoa.oldDelta.filter (fun o => decide (s.elapsed < o.2)) ∧ (∀ c, t.deltaHonoured c = s.deltaHonoured c) ∧
      KeepsBut [.zoa] s t)) ∧
    (s.is .zoaCfgEn = true → exec .zoaEnable s = .next s) ∧
    (s.is .zoaCfgEn = false → Completes .zoaEnable s (fun t => t.get .zoaCfgEn = 1 ∧ t.zoa.nextId = 0 ∧
      t.zoa.sessions = s.zoa.sessions + 1 ∧ t.get .zoaStaSession = (s.zoa.sessions + 1) % 2 ^ 14 ∧
      RegsBut [(.zoaCfg, 0), (.zoaSta, 0)] s t ∧ KeepsBut [.regs, .zoa] s t)) ∧
    ((s.memReach f.val = true ∧ f.val ≠ 128 ∧ (s.box f.val).pending = false ∧ seq = (s.box f.val).replied + 1 ∧ s.boxBusy f.val = false) →
      (let u := s.setBox f.val { s.box f.val with accepted := seq, pending := true, cmd := 0x14 }
       let c := leAt b 0 2
       let w := wqOf b
       let bad := wqShapeBad b = true ∨ 4096 ≤ c ∨ 4 ≤ leAt b 3 1
       let used := (SMap.find s.zoa.wqs c).any (fun q => q.en) = true
       (bad → exec (.wqCreate f seq b) s = .next (u.reply f.val 0x14 1 0 [])) ∧
       (¬bad → u.wqGranted f.val c w = false → exec (.wqCreate f seq b) s = .next (u.reply f.val 0x14 2 0 [])) ∧
       (¬bad → u.wqGranted f.val c w = true → used → exec (.wqCreate f seq b) s = .next (u.reply f.val 0x14 5 0 [])) ∧
       (¬bad → u.wqGranted f.val c w = true → ¬used → s.wqFits w = false →
         exec (.wqCreate f seq b) s = .next (u.reply f.val 0x14 6 0 [])) ∧
       (¬bad → u.wqGranted f.val c w = true → ¬used → s.wqFits w = true → Completes (.wqCreate f seq b) s (fun t =>
         SMap.find t.zoa.wqs c = some w ∧ t.blkState ⟨.workQueue, c⟩ = 2 ∧
         t.blkInc ⟨.workQueue, c⟩ = incNext (s.blkInc ⟨.workQueue, c⟩) % 2 ^ 16 ∧
         (t.box f.val).pending = false ∧ leAt (t.box f.val).reply 2 1 = 0))) ∧
      (let u := s.setBox f.val { s.box f.val with accepted := seq, pending := true, cmd := 0x15 }
       let c := leAt b 0 2
       let bad := b.length ≠ 2 ∨ 4096 ≤ c
       (bad → exec (.wqDestroy f seq b) s = .next (u.reply f.val 0x15 1 0 [])) ∧
       (¬bad → u.ownerOf ⟨.workQueue, c⟩ ≠ f.val → exec (.wqDestroy f seq b) s = .next (u.reply f.val 0x15 2 0 [])) ∧
       (¬bad → u.ownerOf ⟨.workQueue, c⟩ = f.val → SMap.find s.zoa.wqs c = none →
         exec (.wqDestroy f seq b) s = .next (u.reply f.val 0x15 5 0 [])) ∧
       (¬bad → u.ownerOf ⟨.workQueue, c⟩ = f.val → SMap.find s.zoa.wqs c ≠ none → s.msgsOf c ≠ [] →
         exec (.wqDestroy f seq b) s = .next (u.reply f.val 0x15 3 0 [])) ∧
       (¬bad → u.ownerOf ⟨.workQueue, c⟩ = f.val → SMap.find s.zoa.wqs c ≠ none → s.msgsOf c = [] →
         Completes (.wqDestroy f seq b) s (fun t => SMap.find t.zoa.wqs c = none ∧ t.blkState ⟨.workQueue, c⟩ = 1 ∧
           (t.box f.val).pending = false ∧ leAt (t.box f.val).reply 2 1 = 0)))) ∧
    (s.is .zoaTwinCfgEn = true → exec (.twinWatchEnable true) s = .next s) ∧
    (s.is .zoaTwinCfgEn = false → exec (.twinWatchEnable false) s = .next s) ∧
    (let i := s.get .zoaTwinWinWin
     let g := genNext (s.win i).gen
     (s.is .zoaTwinCfgEn = false → s.twinOk = false → exec (.twinWatchEnable true) s = .next (s.ignDomain 6)) ∧
     (s.is .zoaTwinCfgEn = false → s.twinOk = true → Completes (.twinWatchEnable true) s (fun t => t.get .zoaTwinCfgEn = 1 ∧
       t.win i = { twinRec with gen := g } ∧ t.zoa.twin = List.replicate 64 0 ∧ t.zoa.twinSeen = s.epoch ∧
       t.get .zoaTwinStaKey = (i * 256 + g) % 2 ^ 32)) ∧
     (s.is .zoaTwinCfgEn = true → Completes (.twinWatchEnable false) s (fun t => t.get .zoaTwinCfgEn = 0 ∧
       (t.win i).opened = false ∧ (t.win i).gen = g ∧ t.get .zoaTwinStaKey = (i * 256 + g) % 2 ^ 32))) ∧
    ((s.is .zoaTwinCfgEn = false ∨ s.is .zoaTwinStaLost = true) → exec .twinLost s = .next s) ∧
    (s.is .zoaTwinCfgEn = true → s.is .zoaTwinStaLost = false →
      (s.zoa.twinSeen + s.get .zoaTwinCfgMiss) * epochUnits ≤ s.elapsed → Completes .twinLost s (fun t =>
      t.get .zoaTwinStaLost = 1 ∧ ∃ e ∈ t.cairn.raised, e.code = .twinLost))

/-- A well-formed ENCRYPT, DECRYPT, GMAC_GEN or GMAC_VER entry completes 3 on a key of another owner or use, 2 on a disabled or stale one, 4 where a verified text is too long, else has its source read, a failed read leaving it unstarted and the ring in ERROR, and is a message of class 3. CIPHER_START acts unless a more urgent message could start, or for one not yet started a suspended one of its class is to take the free core: on a free core a waiting message takes its key record, a program key counts, and its class pays; a stale key or a counter at its maximum ends it; without a free core a less urgent message is suspended or sliced first. CIPHER_DONE, in order within a SecY or a context, releases the output, or, where the tag fails, counts and releases nothing. CIPH_CORE uses the spare or one core fewer, whose message starts over. -/
def Obligations.CipherMessageResults : Prop :=
  ∀ (id : Nat) (r : RingIx) (e d : Bytes) (msg : Option Nat) (s : State),
    let op := leAt e 0 2
    let key := leAt e 2 2
    let u := s.beginEntry r.val
    let i := s.ringH r.val
    let n := cipherSrc e
    let own := s.ringOwner r.val
    let y := if n = 0 then s else s.readHost own (leAt e 16 8) n
    let got := n = 0 ∨ (s.canReach own (leAt e 16 8) n = true ∧ d.length = n)
    let gives := fun (t : State) => (op = 0x11 → exec (.encrypt r e d) s = .next t) ∧ (op = 0x12 → exec (.decrypt r e d) s = .next t) ∧
      (op = 0x13 → exec (.gmacGen r e d) s = .next t) ∧ (op = 0x14 → exec (.gmacVer r e d) s = .next t)
    (op ≠ 0x11 → exec (.encrypt r e d) s = .next s) ∧ (op ≠ 0x12 → exec (.decrypt r e d) s = .next s) ∧
    (op ≠ 0x13 → exec (.gmacGen r e d) s = .next s) ∧ (op ≠ 0x14 → exec (.gmacVer r e d) s = .next s) ∧
    ((s.reaches r.val 6 e = true ∧ cipherBad e = none ∧ s.passOk r.val (s.ringH r.val) e = true) →
      (u.ownerOf (keyBlk key) ≠ u.ringOwner r.val → gives (u.complete r.val i e 3)) ∧
      (u.ownerOf (keyBlk key) = u.ringOwner r.val → s.keyRec? key = none → gives (u.complete r.val i e 2)) ∧
      (∀ k, u.ownerOf (keyBlk key) = u.ringOwner r.val → s.keyRec? key = some k →
        (k.use ≠ 2 → gives (u.complete r.val i e 3)) ∧
        (k.use = 2 → leAt e 4 2 ≠ s.blkInc (keyBlk key) → gives (u.complete r.val i e 2)) ∧
        (k.use = 2 → leAt e 4 2 = s.blkInc (keyBlk key) →
          let long := (op = 0x12 ∨ op = 0x14) ∧ 65536 < leAt e 12 4
          (long → gives (u.complete r.val i e 4)) ∧
          (¬long → ¬got → gives (y.ringError r.val ecAccess i)) ∧
          (¬long → got → gives ((y.beginEntry r.val).addJob 3 (.host r.val i e d) key (leAt e 8 4 + leAt e 12 4)))))) ∧
    (s.job? id = none → exec (.cipherStart id) s = .next s ∧ exec (.cipherDone id) s = .next s) ∧
    (∀ j, s.job? id = some j →
      ((s.jobStarts j = false ∨ ∃ x ∈ s.ciph.jobs, x.cls < j.cls ∧ s.jobStarts x = true) → exec (.cipherStart id) s = .next s) ∧
      (s.jobStarts j = true → (∀ x ∈ s.ciph.jobs, x.cls < j.cls → s.jobStarts x = false) →
        (0 < s.coresFree → s.resumesFirst j = true → exec (.cipherStart id) s = .next s) ∧
        (0 < s.coresFree → s.resumesFirst j = false → j.rec_ ≠ none → Completes (.cipherStart id) s (fun t =>
          t.job? id = some { j with stage := .running, since := s.elapsed } ∧ t.ciph.keys = s.ciph.keys ∧ t.ciph.buckets = s.ciph.buckets)) ∧
        (∀ k, 0 < s.coresFree → s.resumesFirst j = false → j.rec_ = none → s.keyRec? j.keyIx = some k → s.blkInc (keyBlk j.keyIx) = j.keyInc →
          let counts := (k.use = 1 ∧ (k.mode = 1 ∨ k.mode = 3)) ∨ (k.use = 4 ∧ k.mode = 0)
          (¬(counts ∧ top64 < k.pn) → Completes (.cipherStart id) s (fun t =>
            t.job? id = some { j with stage := .running, rec_ := some k, since := s.elapsed } ∧
            t.keyRec? j.keyIx = some (if counts then { k with pn := k.pn + 1 } else k) ∧
            SMap.find t.ciph.buckets j.cls = some (s.shareLevel j.cls - (j.len * shareByte : Nat), s.elapsed))) ∧
          (counts → top64 < k.pn → exec (.cipherStart id) s =
            .next ((s.cairnRec .counterStuck (some (keyBlk j.keyIx)) []).endJob j .stuck).showSusp)) ∧
        (0 < s.coresFree → s.resumesFirst j = false → j.rec_ = none → (s.keyRec? j.keyIx = none ∨ s.blkInc (keyBlk j.keyIx) ≠ j.keyInc) →
          exec (.cipherStart id) s = .next (s.endJob j .stale).showSusp) ∧
        (s.coresFree = 0 → s.jobVictim j = none → exec (.cipherStart id) s = .next s) ∧
        (∀ v st, s.coresFree = 0 → s.jobVictim j = some (v, st) → j.stage = .waiting ∧ v.stage = .running ∧
          exec (.cipherStart id) s = .next ((s.putJob v.id (some { v with stage := st })).startJob j).showSusp)) ∧
      (let w := (s.putJob id none).showSusp
       let runs := fun (k : KeyRec) => j.stage = .running ∧ j.rec_ = some k ∧
         ((j.cls = 0 ∨ j.cls = 2) → s.behind j (fun _ => true) = false)
       ((∀ k, ¬runs k) → exec (.cipherDone id) s = .next s) ∧
       (∀ k q n x y, runs k → j.user = .host q n x y →
         (hostResult k x y = none → exec (.cipherDone id) s = .next ((s.bump .ciphTagFailFails).endJob j .tag)) ∧
         (∀ o, hostResult k x y = some o →
           let a := leAt x 24 8
           let f := w.ringOwner q
           (n ∉ (w.ring q).running → exec (.cipherDone id) s = .next w) ∧
           (n ∈ (w.ring q).running → w.wrFails f a o.length = false →
             exec (.cipherDone id) s = .next ((w.hostWriteFor (some (q, n)) f a o).complete q n x 0)) ∧
           (n ∈ (w.ring q).running → w.wrFails f a o.length = true →
             exec (.cipherDone id) s = .next (((w.tryAts f a o.length).ringError q ecAccess n).abandon q n)))) ∧
       (∀ k fid f, runs k → j.user = .frame fid → s.frame? fid = some f →
         let c := s.content f
         (frameResult k (c.take (c.length - 4)) = none →
           exec (.cipherDone id) s = .next ((s.bump .ciphTagFailFails).endJob j .tag)) ∧
         (∀ b, frameResult k (c.take (c.length - 4)) = some b → Completes (.cipherDone id) s (fun t => t = w.frameFromCipher fid k b ∧
           ∃ g, t.frame? fid = some g ∧ g.dest = .queue (k.queue / 16) ∧ g.stage = .emitted ∧ g.bytes = sealFrame b f.failed))) ∧
       (∀ k fid, runs k → j.user = .secyRx fid → exec (.cipherDone id) s = .next (w.secyPass fid j.keyIx j.keyInc k)) ∧
       (∀ k p fid, runs k → j.user = .secyTx p fid → exec (.cipherDone id) s = .next (w.sealTx p fid (some k))) ∧
       (∀ k z, runs k → j.user = .zoaOut z → exec (.cipherDone id) s = .next (w.queuePkt { z with key := some k.bytes })) ∧
       (∀ k q a, runs k → j.user = .zoaBack q a → exec (.cipherDone id) s = .next (w.sendBack q a (some k.bytes))) ∧
       (∀ k q a tag x, runs k → j.user = .zoaIn q a tag x →
         (openPkt k.bytes a tag = none → exec (.cipherDone id) s = .next ((s.bump .ciphTagFailFails).endJob j .tag)) ∧
         (∀ b, openPkt k.bytes a tag = some b → exec (.cipherDone id) s = .next (w.zoaAct q b x))))) ∧
    (let spare := s.is .ciphStaSpareAvail
     (s.blkInc ⟨.cipher, 0⟩ ≠ 0xFFFF → Completes (.ciphCore none) s (fun t => t.get .ciphStaSpareAvail = 0 ∧
      t.get .ciphStaCores = (if spare then s.get .ciphStaCores else s.get .ciphStaCores - 1) ∧
      t.blkInc ⟨.cipher, 0⟩ = incNext (s.blkInc ⟨.cipher, 0⟩) ∧ (∃ c, t.cairn.raised = s.cairn.raised ++ [c] ∧ c.code = .ciphCore) ∧
      RegsBut [(.ciphSta, 0)] s t ∧ KeepsBut [.regs, .cairn] s t)) ∧
     (∀ j, msg = some id → s.job? id = some j → j.stage = .running → Completes (.ciphCore msg) s (fun t =>
       t.job? id = some (if spare then { j with since := s.elapsed } else { j with stage := .waiting }))))

/-- A key command that must wait passes the turn on. KEY_SET then completes 5 while erased, 3 on a key of another owner, 6 on an enabled key; a failed read of the record leaves it unstarted and the ring in ERROR; it completes 7 on a bad record, else the record is stored and the key enabled under its next incarnation. KEY_CLEAR completes 3, 6, or zeroes the record and disables the key. CIPH_SHARE_SWAP and CIPH_SECY_AT arm or set refused; at the instant the share banks exchange, buckets cut to size, and frames use the new SA. CIPHER_ALARM erases every key and ends every message, with its cause, count, instant and record; ALARM_CLEAR, once the die is back in range and 1 ms has passed since the last cause, clears both; until then it does nothing. -/
def Obligations.CipherKeyResults : Prop :=
  ∀ (r : RingIx) (e rec_ : Bytes) (target : BitVec 64) (n : Port) (src : Fin 5) (s : State),
    let key := leAt e 2 2
    let u := s.beginEntry r.val
    let i := s.ringH r.val
    let f := s.ringOwner r.val
    let y := s.readHost f (leAt e 16 8) 128
    let got := s.canReach f (leAt e 16 8) 128 = true ∧ rec_.length = 128
    (leAt e 0 2 ≠ 1 → exec (.keySet r e rec_) s = .next s) ∧ (leAt e 0 2 ≠ 2 → exec (.keyClear r e) s = .next s) ∧
    (s.keyWaits r.val = true → cipherBad e = none → (leAt e 0 2 = 1 → exec (.keySet r e rec_) s = .next (s.passIf r.val 6 e)) ∧
      (leAt e 0 2 = 2 → exec (.keyClear r e) s = .next (s.passIf r.val 6 e))) ∧
    (s.keyWaits r.val = false → (s.reaches r.val 6 e = true ∧ cipherBad e = none ∧ s.passOk r.val (s.ringH r.val) e = true) →
      (leAt e 0 2 = 1 →
        let bad := keyBad rec_ = true ∨ ((leAt rec_ 0 1 = 4 ∨ leAt rec_ 0 1 = 5) ∧ f ≠ 0)
        (s.is .ciphStaErased = true → exec (.keySet r e rec_) s = .next (u.complete r.val i e 5)) ∧
        (s.is .ciphStaErased = false → u.ownerOf (keyBlk key) ≠ f → exec (.keySet r e rec_) s = .next (u.complete r.val i e 3)) ∧
        (s.is .ciphStaErased = false → u.ownerOf (keyBlk key) = f → s.keyOn key = true →
          exec (.keySet r e rec_) s = .next (u.complete r.val i e 6)) ∧
        (s.is .ciphStaErased = false → u.ownerOf (keyBlk key) = f → s.keyOn key = false → ¬got →
          exec (.keySet r e rec_) s = .next (y.ringError r.val ecAccess i)) ∧
        (s.is .ciphStaErased = false → u.ownerOf (keyBlk key) = f → s.keyOn key = false → got → bad →
          exec (.keySet r e rec_) s = .next ((y.beginEntry r.val).complete r.val i e 7)) ∧
        (s.is .ciphStaErased = false → u.ownerOf (keyBlk key) = f → s.keyOn key = false → got → ¬bad → Completes (.keySet r e rec_) s (fun t =>
          t.keyRec? key = some (keyRecOf rec_) ∧ t.blkInc (keyBlk key) = incNext (s.blkInc (keyBlk key)) % 2 ^ 16 ∧
          (∀ k, k ≠ key → SMap.find t.ciph.keys k = SMap.find s.ciph.keys k) ∧
          (s.is .hostFnStaAts f = false → s.ownBar (s.entryAddr r.val i) 64 = false →
            t.get .ringDoneDone r.val = (s.get .ringDoneDone r.val + 1) % 2 ^ 64)))) ∧
      (leAt e 0 2 = 2 →
        let use := ((s.keyRec? key).map (·.use)).getD 0
        let no := u.ownerOf (keyBlk key) ≠ f ∨ ((use = 4 ∨ use = 5) ∧ f ≠ 0)
        (no → exec (.keyClear r e) s = .next (u.complete r.val i e 3)) ∧
        (¬no → s.saInUse key = true → exec (.keyClear r e) s = .next (u.complete r.val i e 6)) ∧
        (¬no → s.saInUse key = false → Completes (.keyClear r e) s (fun t => SMap.find t.ciph.keys key = none ∧
          t.keyRec? key = none ∧ t.blkState (keyBlk key) = 1 ∧ ∀ k, k ≠ key → SMap.find t.ciph.keys k = SMap.find s.ciph.keys k)))) ∧
    (let ok := 65536000 ≤ ltDiff target s.lt ∧ ltDiff target s.lt < 2 ^ 62 ∧ s.is .ciphStaSwapPending = false ∧ s.sharesOk = true
     (ok → Completes (.ciphShareSwap target) s (fun t => t.get .ciphStaSwapPending = 1 ∧ t.get .ciphStaSwapRefused = 0 ∧
       t.ciph.shareTarget = some target ∧ RegsBut [(.ciphSta, 0)] s t ∧ KeepsBut [.regs, .ciph] s t)) ∧
     (¬ok → Completes (.ciphShareSwap target) s (fun t => t.get .ciphStaSwapRefused = 1 ∧ RegsBut [(.ciphSta, 0)] s t ∧
       KeepsBut [.regs] s t))) ∧
    (s.ciph.shareTarget = none → exec .shareSwapAt s = .next s) ∧
    (∀ a, s.ciph.shareTarget = some a → 0 ≤ ltDiff s.lt a → Completes .shareSwapAt s (fun t => t.shareBank = 1 - s.shareBank ∧
      t.get .ciphStaSwapPending = 0 ∧ t.ciph.shareTarget = none ∧
      ∀ c, c < 4 → t.shareLevel c = min (s.shareLevel c) ((s.shareBurst (1 - s.shareBank) c * shareByte : Nat) : Int))) ∧
    (let an := s.get .ciphSecyCfgNextAn n.val
     let ok := 65536000 ≤ ltDiff target s.lt ∧ ltDiff target s.lt < 2 ^ 62 ∧ s.is .ciphSecyStaPending n.val = false ∧
       (s.get .portStaContracts n.val ≠ 0 → s.is .tmPortStaChecked n.val = true) ∧ s.txSa n.val an ≠ none
     (ok → Completes (.ciphSecyAt n target) s (fun t => t.get .ciphSecyStaPending n.val = 1 ∧ t.get .ciphSecyStaRefused n.val = 0 ∧
       SMap.find t.ciph.secyTarget n.val = some (target, an) ∧ RegsBut [(.ciphSecySta, n.val)] s t ∧ KeepsBut [.regs, .ciph] s t)) ∧
     (¬ok → Completes (.ciphSecyAt n target) s (fun t => t.get .ciphSecyStaRefused n.val = 1 ∧
       RegsBut [(.ciphSecySta, n.val)] s t ∧ KeepsBut [.regs] s t))) ∧
    (SMap.find s.ciph.secyTarget n.val = none → exec (.saSwitchAt n) s = .next s) ∧
    (∀ a an, SMap.find s.ciph.secyTarget n.val = some (a, an) → 0 ≤ ltDiff s.lt a → Completes (.saSwitchAt n) s (fun t =>
      t.get .ciphSecyStaTxAn n.val = an % 4 ∧ t.get .ciphSecyStaPending n.val = 0 ∧ SMap.find t.ciph.secyTarget n.val = none ∧
      (∀ k x, s.txSa n.val an = some (k, x) → t.get .ciphSecyStaPnHigh n.val = (if 2 ^ 63 ≤ x.pn then 1 else 0)) ∧
      RegsBut [(.ciphSecySta, n.val)] s t ∧ KeepsBut [.regs, .ciph] s t)) ∧
    Completes (.cipherAlarm src) s (fun t => t.ciph.keys = [] ∧ t.ciph.jobs = [] ∧ t.get .ciphStaErased = 1 ∧
      bitOf (t.get .ciphAlarmStaCause) src.val = true ∧ t.get .ciphAlarmCntAlarms = (s.get .ciphAlarmCntAlarms + 1) % 2 ^ 64 ∧
      t.reg .ciphEraseLt 0 = s.lt ∧ (∀ k, t.keyRec? k = none) ∧ ∃ c ∈ t.cairn.raised, c.code = .ciphAlarm) ∧
    ((s.is .ciphStaErased = false ∨ bitOf (s.get .ciphAlarmStaCause) 4 = true) → exec .alarmClear s = .next s) ∧
    (s.is .ciphStaErased = true → bitOf (s.get .ciphAlarmStaCause) 4 = false → s.ciph.lastCause + clearUnits ≤ s.elapsed → Completes .alarmClear s (fun t => t.get .ciphAlarmStaCause = 0 ∧ t.get .ciphStaErased = 0 ∧
      RegsBut [(.ciphAlarmSta, 0), (.ciphSta, 0)] s t ∧ KeepsBut [.regs] s t))

/-- A write to a function that answers nothing counts an unsupported request; so does one of another width or alignment, but for control firmware's, which is without effect. On native paths, and on PF0's outside forerunner mode, an aligned write of a register acts by the native rules; PF0's write to a granted block's register is ignored, in forerunner mode a write may be held; VFs reach their granted rings and tables, PF1 the journal's registers. By the native rules a CMD register acts on a full write only, a register without writable fields accepts with no effect, a reserved encoding, an enabled active bank, a pending inactive one and a refused condition ignore the write, and any other write stores its writable bits. -/
def Obligations.RegisterWriteResults : Prop :=
  ∀ (path : Path) (addr size : Nat) (v : BitVec 64) (s : State),
    let f := pathFn path
    let urq := s.ur f
    let dom := addr / 0x800000
    let x := if size = 8 then v else v &&& 0xFFFFFFFF#64
    (s.pathOpen path addr = false → exec (.registerWrite path addr size v) s = .next urq) ∧
    (s.pathOpen path addr = true → wfAccess addr size = false →
      exec (.registerWrite path addr size v) s = .next (if path = .native then s else urq)) ∧
    (s.pathOpen path addr = true → wfAccess addr size = true →
      (∀ r i, dom < 15 → regAt dom (addr % 0x800000) = some (r, i, 0) → r.info.width = 8 * size →
        (path = .native ∨ path = .pf0 ∧ (s.forerunner = false ∨ r = .sysMode) ∧ s.granted r i = false →
          exec (.registerWrite path addr size v) s = .next (s.writeReg r i 0 x true).1) ∧
        (path = .pf0 → (s.forerunner = false ∨ r = .sysMode) → s.granted r i = true →
          exec (.registerWrite path addr size v) s = .next (s.ignReg r i)) ∧
        (path = .pf0 → s.forerunner = true → r ≠ .sysMode →
          exec (.registerWrite path addr size v) s = .next (s.holdReg r i 0 true x).1)) ∧
      (∀ r i b, path = .native → dom < 15 → size = 4 → regAt dom (addr % 0x800000) = some (r, i, b) → r.info.width = 64 →
        exec (.registerWrite path addr size v) s = .next (s.writeReg r i 0 (mergeHalf (s.reg r i) x b false) false).1) ∧
      (∀ g, path = .vf g → 0x100000 ≤ addr → exec (.registerWrite path addr size v) s = .next (s.ur g.val)) ∧
      (∀ g, path = .vf g → addr < 0x100000 →
        (SMap.find s.ten.tenants g.val = none → exec (.registerWrite path addr size v) s = .next s) ∧
        (∀ n r i, SMap.find s.ten.tenants g.val = some n → r.info.width = 8 * size →
          (inRange addr 0x10000 (n.grant.ringCount * 0x80) = true →
            regAt 9 (RegName.offset .ringBase (n.grant.ringFirst + (addr - 0x10000) / 0x80) + addr % 0x80) = some (r, i, 0) →
            exec (.registerWrite path addr size v) s = .next (s.writeReg r i g.val x true).1) ∧
          (inRange addr 0x10000 (n.grant.ringCount * 0x80) = false → inRange addr 0x40000 (n.grant.tableCount * 0x100) = true →
            regAt 2 (RegName.offset .ingTblCtl (n.grant.tableFirst + (addr - 0x40000) / 0x100) + addr % 0x100) = some (r, i, 0) →
            exec (.registerWrite path addr size v) s = .next (s.writeReg r i g.val x true).1))) ∧
      (path = .pf1 →
        (0x100000 ≤ addr → exec (.registerWrite path addr size v) s = .next urq) ∧
        (∀ r i, addr < 0x100000 → regAt 10 addr = some (r, i, 0) → r.info.width = 8 * size →
          let own := r ∈ [RegName.jrnCfg, .jrnPeerSwap, .jrnPeerCfg, .jrnPeerCtx]
          (own → exec (.registerWrite path addr size v) s = .next (s.ignReg r i)) ∧
          (¬own → exec (.registerWrite path addr size v) s = .next (s.writeReg r i 128 x true).1))) ∧
      (∀ g, path = .cfg g → exec (.registerWrite path addr size v) s =
        .next (if s.cfgReady then s.cfgSpace g.val addr size v else s)) ∧
      (∀ g, path = .bar4 g → exec (.registerWrite path addr size v) s =
        .next (if addr < barBytes g.val 4 then s.bar4Write g.val addr size v else urq))) ∧
    (∀ g, (s.ur g).get .hostFnUrCntRequests g = (s.get .hostFnUrCntRequests g + 1) % 2 ^ 64 ∧
      RegsBut [(.hostFnUrCnt, g)] s (s.ur g) ∧ KeepsBut [.regs, .host] s (s.ur g) ∧
      (s.get .hostFnStaState g ≠ 0 → bitOf ((s.ur g).pciFn g).cor 13 = true ∧ bitOf ((s.ur g).pciFn g).uncor 20 = true)) ∧
    (∀ (r : RegName) (i f : Nat),
      let old := s.reg r i
      let new := (old &&& ~~~r.ctlMask) ||| (v &&& r.ctlMask)
      let res := s.writeReg r i f v true
      let home := r ∉ [RegName.portCtl, .ingTblCtl, .ringCtl, .cairnCursor, .cairnRate, .sysMode]
      let bound := (old ^^^ new) &&& r.boundMask != 0
      (r.isCmd = true → res = ((s.okHome (r.home i)).writeCmd r i f v, true) ∧ s.writeReg r i f v false = (s.ignReg r i, false)) ∧
      (r.isCmd = false → r.ctlMask = 0 → res = (s.okHome (r.home i), true)) ∧
      (r.isCmd = false → r.ctlMask ≠ 0 →
        ((r.rsvBad new = true ∨ s.rsvMore r i new = true) → res = (s.ignReg r i, false)) ∧
        (r.rsvBad new = false → s.rsvMore r i new = false → home →
          (r.bankStep = none → s.cfgOk r i old new bound = false → res = (s.ignReg r i, false)) ∧
          (r.bankStep = none → s.cfgOk r i old new bound = true → res.2 = true ∧
            (r ∉ [RegName.portOctCfg, .crestCapCfg, .crestTtoCfg, .crestPpsoCfg, .crestRefCfg, .spurCoreCtl, .zoaCfg, .zoaTwinCfg,
                .jrnQCtl] →
              res.1.reg r i = new ∧ (∀ q j, (q, j) ≠ (r, i) → res.1.reg q j = (s.okHome (r.home i)).reg q j) ∧
              KeepsBut [.regs, .tmr, .crest] s res.1) ∧
            (r = .crestCapCfg → old.getLsbD 0 = false → new.getLsbD 0 = true →
              res.1.blkState ⟨.capture, i⟩ = 2 ∧ res.1.blkInc ⟨.capture, i⟩ = incNext (s.blkInc ⟨.capture, i⟩) % 2 ^ 16) ∧
            (r = .spurCoreCtl → s.get .spurCoreStaState i = 0 → old.getLsbD 0 = false → new.getLsbD 0 = true →
              res.1.blkState ⟨.core, i⟩ = 2)) ∧
          (∀ n, r.bankStep = some n →
            let mine := bankOf n i = (s.twin r (i / (2 * n))).2.1
            let no := mine ∧ (s.twin r (i / (2 * n))).1 = true ∨ ¬mine ∧ (s.twin r (i / (2 * n))).2.2 = true
            (no → res = (s.ignReg r i, false)) ∧ (¬no → res.2 = true ∧ res.1.reg r i = new)))))

/-- SYS_BLK_QUERY advances qseq and shows the block's state, whether the reference is stale, and its incarnation, or state 0, stale and 0 where it names none. SYS_MODE_WRITE with the held value changes nothing, else sets kw_regs while the update buffer is empty and no strobe is pending, else is counted. A strobe naming groups joins them to the pending ones, fixes T if none was pending, and marks the held writes of those groups; STROBE_TICK at T clears the pending groups and applies the held writes named, each of which leaves the buffer. TMR_SCAN votes every hurt field: a majority of good copies wins, each copy that differs is counted and recorded; where no copy is good the loss is counted and recorded. -/
def Obligations.SystemRegisterResults : Prop :=
  ∀ (ref : BitVec 64) (w : BitVec 32) (s : State),
    Completes (.sysBlkQuery ref) s (fun t => t.get .sysBlkQueryResQseq = (s.get .sysBlkQueryResQseq + 1) % 2 ^ 12 ∧
      t.get .sysBlkQueryResBlk = ref.toNat / 2 ^ 32 ∧
      (refBlk ref = none → t.get .sysBlkQueryResState = 0 ∧ t.get .sysBlkQueryResStale = 1 ∧ t.get .sysBlkQueryResInc = 0) ∧
      (∀ b, refBlk ref = some b → t.get .sysBlkQueryResState = s.blkState b % 8 ∧ t.get .sysBlkQueryResInc = s.blkInc b % 2 ^ 16 ∧
        t.get .sysBlkQueryResStale = (if s.refCurrent ref = true then 0 else 1)) ∧
      RegsBut [(.sysBlkQueryRes, 0)] s t ∧ KeepsBut [.regs] s t) ∧
    (let k := if w.getLsbD 0 then 1 else 0
     (s.get .sysModeKwRegs = k → exec (.sysModeWrite w) s = .next s) ∧
     (s.get .sysModeKwRegs ≠ k → s.upd = [] → s.get .sysUpdStaPending = 0 →
       Completes (.sysModeWrite w) s (fun t => t.get .sysModeKwRegs = k ∧ RegsBut [(.sysMode, 0)] s t ∧ KeepsBut [.regs] s t)) ∧
     (s.get .sysModeKwRegs ≠ k → (s.upd ≠ [] ∨ s.get .sysUpdStaPending ≠ 0) →
       exec (.sysModeWrite w) s = .next (s.bump .sysUpdOvfWrites))) ∧
    (let groups := w.toNat % 2 ^ 15
     (groups = 0 → exec (.sysUpdStrobe w) s = .next s) ∧
     (groups ≠ 0 → Completes (.sysUpdStrobe w) s (fun t =>
       t.get .sysUpdStaPending = s.get .sysUpdStaPending ||| groups ∧
       (s.get .sysUpdStaPending ≠ 0 → t.reg .sysUpdAt 0 = s.reg .sysUpdAt 0) ∧
       (s.get .sysUpdStaPending = 0 → s.lt.toNat + 65536000 + 2 ^ 24 < 2 ^ 64 →
         (t.reg .sysUpdAt 0).toNat % 2 ^ 24 = 0 ∧ s.lt.toNat + 65536000 ≤ (t.reg .sysUpdAt 0).toNat ∧
         (t.reg .sysUpdAt 0).toNat < s.lt.toNat + 65536000 + 2 ^ 24) ∧
       t.upd = s.upd.map (fun e => (e.1, { e.2 with named := e.2.named || bitOf groups e.2.reg.info.dom })) ∧
       RegsBut [(.sysUpdSta, 0), (.sysUpdAt, 0)] s t ∧ KeepsBut [.regs, .upd] s t))) ∧
    (s.get .sysUpdStaPending = 0 → exec .strobeTick s = .next s) ∧
    (s.get .sysUpdStaPending ≠ 0 → 0 ≤ ltDiff s.lt (s.reg .sysUpdAt 0) →
      ((∀ e ∈ s.upd, e.2.named = false) → Completes .strobeTick s (fun t => t.get .sysUpdStaPending = 0 ∧ t.upd = s.upd ∧
        RegsBut [(.sysUpdSta, 0)] s t ∧ KeepsBut [.regs] s t)) ∧
      (∀ k h, s.upd = [(k, h)] → h.named = true → h.reg.bankStep = none → s.granted h.reg h.ix = false →
        let u := (s.set .sysUpdStaPending 0 0).setUpd []
        exec .strobeTick s = .next (u.writeReg h.reg h.ix 0
          (((s.set .sysUpdStaPending 0 0).reg h.reg h.ix &&& ~~~h.reg.boundMask) ||| (h.v &&& h.reg.boundMask)) true).1) ∧
      (∀ k h, s.upd = [(k, h)] → h.named = true → s.granted h.reg h.ix = true →
        exec .strobeTick s = .next (((s.set .sysUpdStaPending 0 0).setUpd []).ignReg h.reg h.ix))) ∧
    (s.tmr = [] → exec .tmrScan s = .next s) ∧
    (∀ h a b c, s.tmr = [h] → h.lo ≤ h.hi → h.hi < 64 → h.reg ≠ .sysTmrFixCnt → h.reg ≠ .sysTmrLost →
      a < 2 ^ (h.hi + 1 - h.lo) → b < 2 ^ (h.hi + 1 - h.lo) → c < 2 ^ (h.hi + 1 - h.lo) →
      let x := (a &&& b) ||| (a &&& c) ||| (b &&& c)
      (h.copies = [(a, true), (b, true), (c, true)] → Completes .tmrScan s (fun t => t.tmr = [] ∧ t.get ⟨h.reg, h.hi, h.lo⟩ h.ix = x ∧
        t.get .sysTmrFixCntFixes = (s.get .sysTmrFixCntFixes + ([a, b, c].filter (· != x)).length) % 2 ^ 64 ∧
        ((a ≠ b ∨ b ≠ c) → ∃ r, t.cairn.raised = s.cairn.raised ++ [r] ∧ r.code = .tmrFix) ∧
        RegsBut [(h.reg, h.ix), (.sysTmrFixCnt, 0)] s t ∧ KeepsBut [.regs, .tmr, .cairn, .freeCtr] s t)) ∧
      (h.copies = [(a, true), (b, false), (c, false)] → Completes .tmrScan s (fun t => t.tmr = [] ∧
        t.get ⟨h.reg, h.hi, h.lo⟩ h.ix = a ∧ t.get .sysTmrFixCntFixes = (s.get .sysTmrFixCntFixes + 2) % 2 ^ 64)) ∧
      (h.copies = [(a, false), (b, false), (c, false)] → Completes .tmrScan s (fun t => t.tmr = [] ∧
        t.get ⟨h.reg, h.hi, h.lo⟩ h.ix = x ∧ t.get .sysTmrLostLost = (s.get .sysTmrLostLost + 1) % 2 ^ 64 ∧
        ∃ r, t.cairn.raised = s.cairn.raised ++ [r] ∧ r.code = .tmrLost)))

/-- A scrub read advances its pass, counts what it finds, repairs a word corrected three times in 24 hours, and poisons and records an uncorrectable one; a channel out of service or in a window is not read. A channel in service enters a 20 µs window while its partner is in none, and leaves it; an installed rank is retrained only within one. A failed channel is disabled; CAL_MEASURE of a lane in use stores its die parts for the next epoch; THERMAL_SENSE shows the hottest sensor, warn and over; AGING_READ steps a header below 15 mV; a telemetry frame fills its slot; a block sleeps once disabled for over 1 s; ports that use a failed lane pair lose their link. -/
def Obligations.BackgroundWorkResults : Prop :=
  ∀ (w : MemWord) (found : EccFound) (ch : Fin 8) (rank : Fin 2) (l : LaneIx) (a b : BitVec 32) (hot cold : BitVec 16)
    (e mv : Nat) (blk : SleepBlock) (m : Fin 128) (s : State),
    (wordIsExt w = true →
      let c := s.wordCh w
      ((s.blkState ⟨.memCh, c⟩ ≠ 2 ∨ s.inWindow c = true) → exec (.scrubRead w found) s = .next s.useFree) ∧
      (s.blkState ⟨.memCh, c⟩ = 2 → s.inWindow c = false → Completes (.scrubRead w found) s (fun t =>
        t.get .memChCorrCorrected c = (s.get .memChCorrCorrected c + (if found = .corrected then 1 else 0)) % 2 ^ 64 ∧
        t.get .memChUncUncorrectable c =
          (s.get .memChUncUncorrectable c + (if found = .uncorrectable ∨ found = .address then 1 else 0)) % 2 ^ 64 ∧
        t.get .memChAddrMisdirected c = (s.get .memChAddrMisdirected c + (if found = .address then 1 else 0)) % 2 ^ 64 ∧
        (s.back.extWords + 1 < s.extTotal → t.back.extWords = s.back.extWords + 1 ∧ t.back.extFrom = s.back.extFrom) ∧
        (s.extTotal ≤ s.back.extWords + 1 → t.back.extWords = 0 ∧ t.back.extFrom = s.elapsed ∧
          t.get .sysScreeExtPasses = (s.get .sysScreeExtPasses + 1) % 2 ^ 32) ∧
        (∀ x, w = .ext x → (found = .uncorrectable ∨ found = .address) →
          SMap.find t.mem.bad (x / 8) = some () ∧ ∃ r ∈ t.cairn.raised, r.code = .memUncorr) ∧
        (∀ x, w = .ext x → found = .corrected →
          let k := (s.elapsed :: SMap.getD s.back.fixes (x / 8) []).filter (fun y => decide (s.elapsed < y + dayUnits))
          (3 ≤ k.length → SMap.find t.back.repaired (x / 8) = some () ∧ SMap.find t.back.fixes (x / 8) = none) ∧
          (k.length < 3 → SMap.find t.back.fixes (x / 8) = some k))))) ∧
    (∀ n, Completes (.scrubRead (.sram n) found) s (fun t =>
      t.get .sysEccSramCorrected = (s.get .sysEccSramCorrected + (if found = .corrected then 1 else 0)) % 2 ^ 64 ∧
      t.get .sysEccSramUncUncorrectable =
        (s.get .sysEccSramUncUncorrectable + (if found = .uncorrectable ∨ found = .address then 1 else 0)) % 2 ^ 64 ∧
      (s.back.sramWords + 1 < sramTotal → t.back.sramWords = s.back.sramWords + 1) ∧
      (sramTotal ≤ s.back.sramWords + 1 → t.back.sramWords = 0 ∧ t.back.sramFrom = s.elapsed))) ∧
    (let c := ch.val
     let no := s.blkState ⟨.memCh, c⟩ ≠ 2 ∨ s.inWindow c = true ∨ s.inWindow (partner c) = true
     (no → exec (.maintWindow ch) s = .next s) ∧
     (¬no → Completes (.maintWindow ch) s (fun t => SMap.find t.mem.window c = some (s.elapsed + 20000 * unitsPerNs) ∧
       t.inWindow c = true ∧ t.get .memChStaWindow c = 1 ∧ RegsBut [(.memChSta, c)] s t ∧ KeepsBut [.regs, .mem] s t)) ∧
     Completes (.maintWindowEnd ch) s (fun t => t.inWindow c = false ∧ t.get .memChStaWindow c = 0 ∧
       RegsBut [(.memChSta, c)] s t ∧ KeepsBut [.regs, .mem] s t) ∧
     (s.inWindow c = true → rank.val < s.get .memChStaRanks c → Completes (.rankRetrain ch rank) s (fun t =>
       t.get .memChRetrainRetrains c = (s.get .memChRetrainRetrains c + 1) % 2 ^ 64 ∧ RegsBut [(.memChRetrain, c)] s t ∧
       KeepsBut [.regs] s t)) ∧
     ((s.inWindow c = false ∨ s.get .memChStaRanks c ≤ rank.val) → exec (.rankRetrain ch rank) s = .next s) ∧
     Completes (.channelFail ch) s (fun t => t.blkState ⟨.memCh, c⟩ = 1 ∧ t.inWindow c = false ∧ t.get .memChStaWindow c = 0 ∧
       t.get .memChStaExtHost c = 0 ∧ t.get .memChStaExtHost (partner c) = 0 ∧ t.back.chFailed = true ∧
       (∃ r, t.cairn.raised = s.cairn.raised ++ [r] ∧ r.code = .channelFail) ∧
       KeepsBut [.regs, .blkSt, .mem, .back, .offAt, .cairn] s t)) ∧
    (let c := s.lane l.val
     ((s.lanePort l.val = none ∨ c.training = true) → exec (.calMeasure l a b) s = .next s) ∧
     (s.lanePort l.val ≠ none → c.training = false → Completes (.calMeasure l a b) s (fun t =>
       t.lane l.val = { c with newRx := some a.toInt, newTx := some b.toInt, measured := true } ∧
       (∀ k, k ≠ l.val → t.lane k = s.lane k) ∧ t.get .portCalStaLastEpoch l.val = s.epoch % 2 ^ 32 ∧
       t.is .portCalStaStale l.val = c.adapt ∧ RegsBut [(.portCalSta, l.val)] s t ∧
       KeepsBut [.regs, .ports, .crest, .cairn] s t))) ∧
    (let warn := 1600 ≤ hot.toInt
     let past := 1680 < hot.toInt
     let out := cold.toInt < -800 ∨ 2000 < hot.toInt
     Completes (.thermalSense hot cold) s (fun t => t.get .sysThermStaHottest = hot.toNat ∧
       t.get .sysThermStaWarn = (if warn then 1 else 0) ∧ t.get .sysThermStaOver = (if past then 1 else 0) ∧
       (¬out → bitOf (s.get .ciphAlarmStaCause) 4 = false → RegsBut [(.sysThermSta, 0)] s t ∧ KeepsBut [.regs, .cairn] s t) ∧
       (¬out → bitOf (t.get .ciphAlarmStaCause) 4 = false) ∧
       (out → bitOf (t.get .ciphAlarmStaCause) 4 = true ∧ t.ciph.lastCause = s.elapsed) ∧
       (out → bitOf (s.get .ciphAlarmStaCause) 4 = false → t.get .ciphStaErased = 1 ∧ t.ciph.keys = []))) ∧
    (15 ≤ mv → Completes (.agingRead e mv) s (fun t => SMap.find t.back.margins e = some mv ∧ t.back.headers = s.back.headers ∧
      RegsBut [(.sysAvsSta, 0)] s t ∧ KeepsBut [.regs, .back] s t)) ∧
    (mv < 15 → (s.header e).1 < headerMax → s.supplyWarn = false → s.mayStep e = true → Completes (.agingRead e mv) s (fun t =>
      t.header e = ((s.header e).1 + 5, s.elapsed) ∧ RegsBut [(.sysAvsSta, 0)] s t ∧ KeepsBut [.regs, .back] s t)) ∧
    (mv < 15 → (s.header e).1 < headerMax → (s.supplyWarn = true ∨ s.mayStep e = false) → Completes (.agingRead e mv) s (fun t =>
      t.back.headers = s.back.headers ∧ t.back.predicted = s.back.predicted)) ∧
    (mv < 15 → headerMax ≤ (s.header e).1 → SMap.find s.back.predicted e = none → Completes (.agingRead e mv) s (fun t =>
      SMap.find t.back.predicted e = some () ∧ t.get .sysAvsStaPredicted = (s.get .sysAvsStaPredicted + 1) % 2 ^ 32)) ∧
    (s.epoch = 0 → exec .telemetryFrame s = .next s) ∧
    (s.epoch ≠ 0 → Completes .telemetryFrame s (fun t =>
      (∀ k, k < 16 → t.reg .sysTelem ((s.epoch - 1) % 8 * 16 + k) = BitVec.ofNat 64 (leAt s.telemetry (8 * k) 8)) ∧
      (∀ r i, (∀ k, k < 16 → (r, i) ≠ (.sysTelem, (s.epoch - 1) % 8 * 16 + k)) → t.reg r i = s.reg r i) ∧
      (s.is .sysTelemCfgIrq = true → s.vecOpen 0 (s.get .sysTelemCfgVec) = true → t.out = s.out ++ [s.msixMsg 0 (s.get .sysTelemCfgVec)]) ∧
      (s.is .sysTelemCfgIrq = false → t.out = s.out) ∧ KeepsBut [.regs, .back, .freeCtr, .out, .host] s t)) ∧
    (let k := sleepBlk blk
     let due := s.blkState k = 1 ∧ SMap.getD s.offAt k.key 0 + unitsPerSec < s.elapsed
     (¬due → exec (.blockSleep blk) s = .next s) ∧
     (due → Completes (.blockSleep blk) s (fun t => t.blkState k = 3 ∧ KeepsBut [.blkSt] s t ∧ ∀ x, x.key ≠ k.key →
       t.blkState x = s.blkState x))) ∧
    Completes (.lanePairFail m) s (fun t =>
      (∀ p, (s.lanePort (2 * m.val) = some p ∨ s.lanePort (2 * m.val + 1) = some p) →
        t.get .portStaLink p = 0 ∧ t.get .portStaAlign p = 0 ∧ t.get .portStaLocalFault p = 1) ∧
      (∀ p, s.lanePort (2 * m.val) ≠ some p → s.lanePort (2 * m.val + 1) ≠ some p → t.reg .portSta p = s.reg .portSta p) ∧
      (∀ r i, r ≠ .portSta → t.reg r i = s.reg r i) ∧ (∃ c, t.cairn.raised = s.cairn.raised ++ [c] ∧ c.code = .lanePairFail) ∧
      KeepsBut [.regs, .crest, .cairn] s t)

/-- PERST_ASSERT with INDEP high and HOT_RESET, and a host loss of a link that is up, reset the host interface: no function attached, no read, invalidation or held write, no VF, no containment, link down; with INDEP low PERST resets the device. PERST_DEASSERT puts PF0 and PF1 into service the first time. An FLR clears a function's enables, mailbox and held writes and gives a used block a new incarnation; FLR_DONE ends it once no read is open. VFs attach and detach with VF Enable; clearing BME kills open reads; an error is logged and enters containment or is counted, a timeout, whose length is the model's choice (log entry 156), enters it; the release needs the sequence. Before its instant no configuration request acts. A link trains only at a listed width and speed, and its functions attach once configuration requests are answered; translations and MSI-X go as R315 and R313 say. -/
def Obligations.HostResetResults : Prop :=
  ∀ (f : Fn) (n : Fin 128) (tag : Nat) (ok : Bool) (data : Bytes) (cause : Fin 9) (v : BitVec 64) (sp : Fin 4) (wd : Fin 32)
    (mps : Fin 3) (page : BitVec 52) (pages : Nat) (vec : Fin 2048) (s : State),
    let clean := fun (t : State) => (∀ g, g < 129 → t.get .hostFnStaState g = 0) ∧ t.host.reads = [] ∧ t.host.inval = [] ∧
      t.host.held = [] ∧ t.host.vfEn = false ∧ t.is .hostContainStaContained = false ∧ t.is .hostLinkStaUp = false
    (s.is .sysRstStaIndep = true → Completes .perstAssert s (fun t => clean t ∧ t.host.perst = true ∧
      t.get .hostResetCntPerst = (s.get .hostResetCntPerst + 1) % 2 ^ 32)) ∧
    (s.is .sysRstStaIndep = false → Completes .perstAssert s (fun t => t.get .sysRstStaCause = 2 ∧ t.host.perst = true ∧
      t.sec.fuses = s.sec.fuses ∧ t.sec.flash = s.sec.flash ∧ t.sec.good = false ∧ t.pending = s.pending ∧ clean t)) ∧
    Completes .hotReset s (fun t => clean t ∧ t.host.perst = s.host.perst ∧
      t.get .hostResetCntHot = (s.get .hostResetCntHot + 1) % 2 ^ 32) ∧
    (s.is .hostLinkStaUp = false → exec .hostLoss s = .next s) ∧
    (s.is .hostLinkStaUp = true → Completes .hostLoss s (fun t => clean t ∧
      t.get .hostLossCntLosses = (s.get .hostLossCntLosses + 1) % 2 ^ 64 ∧ ∃ r ∈ t.cairn.raised, r.code = .hostLoss)) ∧
    Completes .perstDeassert s (fun t => t.host.perst = false ∧ (∀ g, (g = 0 ∨ g = 128) →
      (s.blkInc ⟨.function, g⟩ = 0 → t.blkInc ⟨.function, g⟩ = 1 ∧ t.blkState ⟨.function, g⟩ = 2) ∧
      (s.blkInc ⟨.function, g⟩ ≠ 0 → t.blkInc ⟨.function, g⟩ = s.blkInc ⟨.function, g⟩ ∧
        t.blkState ⟨.function, g⟩ = s.blkState ⟨.function, g⟩))) ∧
    (s.get .hostFnStaState f.val ≠ 1 → exec (.flr f) s = .next s ∧ exec (.bmeClear f) s = .next s ∧ exec (.bmeSet f) s = .next s) ∧
    (s.cfgReady = false → exec (.flr f) s = .next s ∧ exec (.vfEnable n) s = .next s) ∧
    (s.get .hostFnStaState f.val = 1 →
      (s.cfgReady = true → f.val ≠ 0 → s.blkInc ⟨.function, f.val⟩ ≠ 0xFFFF → Completes (.flr f) s (fun t => t.get .hostFnStaState f.val = 2 ∧
        t.get .hostFnStaBme f.val = 0 ∧
        t.get .hostFnStaMsix f.val = 0 ∧ t.get .hostFnStaAts f.val = 0 ∧ t.box f.val = {} ∧
        t.get .hostFnFlrCntFlrs f.val = (s.get .hostFnFlrCntFlrs f.val + 1) % 2 ^ 64 ∧
        t.blkInc ⟨.function, f.val⟩ = (if s.blkInc ⟨.function, f.val⟩ = 0 then 0 else s.blkInc ⟨.function, f.val⟩ + 1) ∧
        (∀ w ∈ t.host.held, w.fn ≠ f.val) ∧ (∀ x ∈ t.host.reads, x.fn = f.val → x.dead = true) ∧
        t.host.reads.length = s.host.reads.length)) ∧
      (s.cfgReady = true → f.val = 0 → Completes (.flr f) s (fun t => t.get .hostFnStaState 0 = 2 ∧ t.host.vfEn = false ∧
        (∀ g, 1 ≤ g → g ≤ 127 → t.get .hostFnStaState g = 0) ∧ t.host.held.all (fun w => w.fn != 0) = true)) ∧
      Completes (.bmeClear f) s (fun t => t.get .hostFnStaBme f.val = 0 ∧
        t.host.reads = s.host.reads.map (fun x => if x.fn = f.val then { x with dead := true } else x) ∧
        RegsBut [(.hostFnSta, f.val)] s t ∧ KeepsBut [.regs, .host] s t) ∧
      (s.cfgReady = false → exec (.bmeSet f) s = .next s) ∧
      (s.cfgReady = true → Completes (.bmeSet f) s (fun t => t = (s.set .hostFnStaBme f.val 1).goOn ∧
        (s.host.held = [] → s.zoa.owed = [] → s.host.lost = [] → s.ringsOn = [] → s.host.pba = [] → s.jrn.cmds = [] →
          t.get .hostFnStaBme f.val = 1 ∧ RegsBut [(.hostFnSta, f.val)] s t ∧ KeepsBut [.regs] s t)))) ∧
    (let done := s.get .hostFnStaState f.val = 2 ∧ ∀ x ∈ s.host.reads, x.fn ≠ f.val
     (¬done → exec (.flrDone f) s = .next s) ∧
     (done → Completes (.flrDone f) s (fun t => t.get .hostFnStaState f.val = 1 ∧ SMap.find t.host.flr f.val = none ∧
       RegsBut [(.hostFnSta, f.val)] s t ∧ KeepsBut [.regs, .host] s t))) ∧
    ((s.host.vfEn = true ∨ s.get .hostFnStaState 0 ≠ 1) → exec (.vfEnable n) s = .next s) ∧
    (s.cfgReady = true → s.host.vfEn = false → s.get .hostFnStaState 0 = 1 → Completes (.vfEnable n) s (fun t => t.host.vfEn = true ∧
      t.host.numVfs = n.val ∧ (∀ g, 1 ≤ g → g ≤ n.val →
        t.get .hostFnStaState g = (if s.get .hostFnStaState g = 0 then 1 else s.get .hostFnStaState g) ∧
        (s.get .hostFnStaState g = 0 → t.blkState ⟨.function, g⟩ = 2)) ∧
      ∀ g, (g = 0 ∨ n.val < g) → t.get .hostFnStaState g = s.get .hostFnStaState g)) ∧
    (s.host.vfEn = false → exec .vfDisable s = .next s) ∧
    (s.host.vfEn = true → Completes .vfDisable s (fun t => t.host.vfEn = false ∧ t.host.numVfs = 0 ∧
      (∀ g, 1 ≤ g → g ≤ 127 → t.get .hostFnStaState g = 0) ∧ (∀ x ∈ t.host.reads, 1 ≤ x.fn → x.fn ≤ 127 → x.dead = true))) ∧
    (s.host.reads.find? (fun x => x.tag == tag) = none →
      exec (.completionRx tag ok data) s = .next s ∧ exec (.completionTimeout tag) s = .next s) ∧
    (∀ x, s.host.reads.find? (fun x => x.tag == tag) = some x →
      let u := (s.endRead tag).settleInval
      ((x.dead = true ∨ s.is .hostContainStaContained = true) → Completes (.completionRx tag ok data) s (fun t =>
        t.get .hostCplDiscCompletions = (s.get .hostCplDiscCompletions + 1) % 2 ^ 64 ∧
        t.get .hostFnLostFetchFetches x.fn = (s.get .hostFnLostFetchFetches x.fn + 1) % 2 ^ 64 ∧
        t = (u.discardCpl x).replay ∧
        (s.fnSends (s.ringOwner x.ring) = false → (∀ e ∈ s.host.lost, s.fnSends (s.ringOwner e.1) = false) →
          SMap.find t.host.lost x.ring = some () ∧ (∀ y ∈ t.host.reads, y.tag ≠ tag) ∧ t.rings = s.rings))) ∧
      (x.dead = false → s.is .hostContainStaContained = false →
        (x.void = true → exec (.completionRx tag ok data) s = .next (u.fetch x.ring)) ∧
        (x.void = false → ok = false → exec (.completionRx tag ok data) s = .next (u.ringError x.ring ecAccess x.first)) ∧
        (x.void = false → ok = true →
          exec (.completionRx tag ok data) s = .next ((u.cacheAdd x.ring x.first (entriesOf x.count data)).fetch x.ring))) ∧
      (x.at_ + s.cplTimeout x.fn ≤ s.elapsed → Completes (.completionTimeout tag) s (fun t =>
        t.is .hostContainStaContained = true ∧ (∀ y ∈ t.host.reads, y.tag ≠ tag) ∧
        (s.is .hostContainStaContained = false → t.get .hostContainStaCause = 7) ∧
        (s.get .hostFnStaState x.fn ≠ 0 → bitOf (t.pciFn x.fn).uncor 14 = true) ∧
        (x.void = false → s.get .ringStaState x.ring = rsEnabled → t.get .ringStaState x.ring = rsError)))) ∧
    (cause.val = 4 → (s.pciFn f.val).ecrcChk = false → exec (.uncorrectableError f cause) s = .next s) ∧
    (let seen := cause.val ≠ 4 ∨ (s.pciFn f.val).ecrcChk = true
     let logged := fun (t : State) => s.get .hostFnStaState f.val ≠ 0 →
       t.pciFn f.val = { s.pciFn f.val with uncor := (s.pciFn f.val).uncor ||| 2 ^ aerBit (cause.val + 1) }
     (seen → s.is .hostContainStaContained = true → Completes (.uncorrectableError f cause) s (fun t => logged t ∧
      t.get .hostContainStaErrs = min (s.get .hostContainStaErrs + 1) 65535 ∧ RegsBut [(.hostContainSta, 0)] s t ∧
      KeepsBut [.regs, .host] s t)) ∧
     (seen → s.is .hostContainStaContained = false → Completes (.uncorrectableError f cause) s (fun t => logged t ∧
      t.is .hostContainStaContained = true ∧ t.get .hostContainStaCause = cause.val + 1 ∧ t.get .hostContainStaErrs = 0 ∧
      t.get .hostContainStaSeq = (s.get .hostContainStaSeq + 1) % 2 ^ 32 ∧
      t.get .hostContainCntEntries = (s.get .hostContainCntEntries + 1) % 2 ^ 64 ∧
      (∃ r, t.cairn.raised = s.cairn.raised ++ [r] ∧ r.code = .contain) ∧
      RegsBut [(.hostContainSta, 0), (.hostContainCnt, 0)] s t ∧ KeepsBut [.regs, .cairn, .host] s t))) ∧
    (let here := s.memReach 0 = true ∨ s.containReach = true
     let same := bitsOf v.toNat 63 32 = s.get .hostContainStaSeq
     (¬here → exec (.hostContainRelease v) s = .next (s.ur 0)) ∧
     (here → ¬same → exec (.hostContainRelease v) s = .next (s.bump .hostIgnCntIgnored)) ∧
     (here → same → s.is .hostContainStaContained = false → exec (.hostContainRelease v) s = .next s) ∧
     (here → same → s.is .hostContainStaContained = true → Completes (.hostContainRelease v) s (fun t =>
       t = (s.set .hostContainStaContained 0 0).goOn.settleInval))) ∧
    (let fits := sp.val ≠ 0 ∧ wd.val ∈ [1, 2, 4, 8, 16]
     let link := fun (t : State) => t.get .hostLinkStaUp = 1 ∧ t.get .hostLinkStaSpeed = sp.val ∧ t.get .hostLinkStaWidth = wd.val ∧
       t.get .hostLinkStaMps = mps.val ∧ t.get .hostLinkStaDrain = drainOf sp.val wd.val mps.val
     ((s.host.perst = true ∨ (s.is .hostLinkStaUp = true ∧ s.get .hostFnStaState 0 ≠ 0) ∨ ¬fits) →
       exec (.linkReturn sp wd mps) s = .next s) ∧
     (s.host.perst = false → s.is .hostLinkStaUp = false → fits → Completes (.linkReturn sp wd mps) s (fun t => link t ∧
       ∀ g, (g = 0 ∨ g = 128) → t.get .hostFnStaState g =
         (if s.get .hostFnStaState g = 0 ∧ s.cfgReady = true then 1 else s.get .hostFnStaState g))) ∧
     (s.host.perst = false → s.is .hostLinkStaUp = true → s.get .hostFnStaState 0 = 0 → fits → s.cfgReady = true →
       Completes (.linkReturn sp wd mps) s (fun t => t.get .hostFnStaState 0 = 1)) ∧
     ((s.is .hostLinkStaUp = false ∨ ¬fits) → exec (.linkRetrain sp wd mps) s = .next s) ∧
     (s.is .hostLinkStaUp = true → fits → Completes (.linkRetrain sp wd mps) s (fun t => link t ∧ RegsBut [(.hostLinkSta, 0)] s t ∧
       KeepsBut [.regs, .cairn] s t))) ∧
    (let room := (s.host.inval.filter (fun v => v.1 == f.val)).length < 32
     ((s.get .hostFnStaState f.val = 0 ∨ ¬room) → exec (.atsInvalidation f page pages) s = .next s) ∧
     (s.get .hostFnStaState f.val ≠ 0 → room → Completes (.atsInvalidation f page pages) s (fun t =>
      t.host.ats = s.host.ats.filter (fun e => !(e.1 == f.val && inRange e.2 page.toNat pages)) ∧
      (s.is .hostContainStaContained = true → t.host.inval = s.host.inval ++ [(f.val, page.toNat, pages)] ∧ t.out = s.out) ∧
      (s.is .hostContainStaContained = false → s.host.inval = [] → s.host.reads = [] → t.host.inval = [] ∧
        t.out = s.out ++ [.atsDone f.val page.toNat pages]) ∧ KeepsBut [.host, .out] s t))) ∧
    Completes (.atsDisable f) s (fun t => t.host.ats = s.host.ats.filter (fun e => e.1 != f.val) ∧ t.get .hostFnStaAts f.val = 0 ∧
      RegsBut [(.hostFnSta, f.val)] s t ∧ KeepsBut [.regs, .host] s t) ∧
    (s.dueRing f.val vec.val = none →
      let may := (SMap.find s.host.pba (vecKey f.val vec.val)).isSome = true ∧ s.vecOpen f.val vec.val = true
      (¬may → exec (.msixSend f vec) s = .next s) ∧
      (may → Completes (.msixSend f vec) s (fun t => t.out = s.out ++ [s.msixMsg f.val vec.val] ∧
        SMap.find t.host.pba (vecKey f.val vec.val) = none ∧ KeepsBut [.host, .out] s t))) ∧
    (∀ r y, s.dueRing f.val vec.val = some (r, y) → y ≤ s.elapsed → s.vecOpen f.val vec.val = true →
      Completes (.msixSend f vec) s (fun t => t.out = s.out ++ [s.msixMsg f.val vec.val] ∧ SMap.find t.host.due r = none ∧
        (t.ring r).lastMsg = some s.elapsed ∧ KeepsBut [.host, .out, .rings] s t))

/-- A rail below its warning level sets its below and warning bits and is counted and recorded once; VDD_FUSE is counted but writes no record; above the clear level the bits clear and held work runs. A glitch raises the voltage alarm. A rail reset, and SYS_RST_N low for 1 µs or more, reset the device with their cause: fuses, flash and external memory outside the journal stay. POWER_GOOD samples the straps, reads the lifecycle and refreshes SEC_NONCE. A reference lost or regained is counted, recorded and shown, and its PLLs switch as R484 says. An unaccepted JTAG instruction loads BYPASS; a sensor read answers its value, a bad identifier an error. -/
def Obligations.PowerAndPinResults : Prop :=
  ∀ (rail : Fin 8) (mv : BitVec 16) (ns : Nat) (indep kw fit : Bool) (input : ClkInput) (ir : JtagIr) (a : BitVec 7) (id : Nat)
    (s : State),
    let fallen := fun (i : Nat) (t : State) =>
      t.get .sysRailMv i = mv.toNat ∧ t.get .sysRailMinMv i = min mv.toNat (s.get .sysRailMinMv i) ∧
      bitOf (t.get .sysSupplyStaBelow) i = true ∧ bitOf (t.get .sysSupplyStaWarn) i = true ∧
      (∀ k, k < 9 → k ≠ i → bitOf (t.get .sysSupplyStaWarn) k = bitOf (s.get .sysSupplyStaWarn) k) ∧
      t.get .sysRailWarns i = (s.get .sysRailWarns i + (if s.railWarn i = true then 0 else 1)) % 2 ^ 32 ∧
      RegsBut [(.sysRail, i), (.sysSupplySta, 0)] s t ∧ KeepsBut [.regs, .cairn, .crest] s t
    let risen := fun (i : Nat) (u : State) =>
      u.get .sysRailMv i = mv.toNat ∧ bitOf (u.get .sysSupplyStaBelow) i = false ∧ bitOf (u.get .sysSupplyStaWarn) i = false ∧
      (∀ k, k < 9 → k ≠ i → bitOf (u.get .sysSupplyStaWarn) k = bitOf (s.get .sysSupplyStaWarn) k) ∧
      RegsBut [(.sysRail, i), (.sysSupplySta, 0)] s u ∧ KeepsBut [.regs, .cairn, .crest] s u
    let reset := fun (c r : Nat) (t : State) => t.get .sysRstStaCause = c ∧ t.get .sysRstStaRail = r ∧
      t.sec = { fuses := s.sec.fuses, flash := s.sec.flash } ∧ t.pending = s.pending ∧ t.crest = State.reset.crest ∧
      t.ports = State.reset.ports ∧ t.ing = State.reset.ing ∧ t.spur = State.reset.spur ∧ t.con = State.reset.con ∧
      t.tm = State.reset.tm ∧ t.ten = State.reset.ten ∧ t.jrn = State.reset.jrn ∧ t.ciph = State.reset.ciph ∧
      t.rings = State.reset.rings ∧ t.blkSt = State.reset.blkSt ∧ t.mem.ext = s.mem.ext.filter (fun e => !s.inJournal e.1) ∧
      t.cairn.flashCirc = s.cairn.flashCirc ∧ t.cairn.counterLog = s.cairn.counterLog ∧
      ∀ q j, q ∉ [RegName.sysRstSta, .zoaSta, .cairnSta, .cairnOldest, .cairnLife, .sysFlashWear] → t.reg q j = q.resetWord j
    (10 * mv.toNat ≥ (railLevels rail.val).warning → exec (.supplyWarn rail mv) s = .next s) ∧
    (10 * mv.toNat < (railLevels rail.val).warning → Completes (.supplyWarn rail mv) s (fun t => fallen rail.val t ∧
      (s.railWarn rail.val = true → t.cairn = s.cairn) ∧
      (s.railWarn rail.val = false → ∃ c, t.cairn.raised = s.cairn.raised ++ [c] ∧ c.code = .supplyWarn))) ∧
    (10 * mv.toNat ≥ 16740 → exec (.vddFuseWarn mv) s = .next s) ∧
    (10 * mv.toNat < 16740 → Completes (.vddFuseWarn mv) s (fun t => fallen 8 t ∧ t.cairn = s.cairn)) ∧
    (10 * mv.toNat ≤ (railLevels rail.val).clear → exec (.supplyWarnClear rail mv) s = .next s) ∧
    (10 * mv.toNat > (railLevels rail.val).clear →
      (s.railWarn rail.val = false → Completes (.supplyWarnClear rail mv) s (fun t => risen rail.val t ∧ t.cairn = s.cairn)) ∧
      (s.railWarn rail.val = true → ∃ u, risen rail.val u ∧ exec (.supplyWarnClear rail mv) s = .next u.runHeld ∧
        (∃ c, u.cairn.raised = s.cairn.raised ++ [c] ∧ c.code = .supplyWarn) ∧ (s.sec.held = [] → u.runHeld = u))) ∧
    (10 * mv.toNat ≤ 16920 → exec (.vddFuseWarnClear mv) s = .next s) ∧
    (10 * mv.toNat > 16920 →
      (s.railWarn 8 = false → Completes (.vddFuseWarnClear mv) s (fun t => risen 8 t)) ∧
      (s.railWarn 8 = true → ∃ u, risen 8 u ∧ u.cairn = s.cairn ∧ exec (.vddFuseWarnClear mv) s = .next u.runHeld)) ∧
    (let low := 10 * mv.toNat < (railLevels rail.val).reset
     let high := 100 * mv.toNat > 11 * (railLevels rail.val).nominal
     (¬low → ¬high → exec (.railGlitch rail mv) s = .next s) ∧
     ((low ∨ high) → Completes (.railGlitch rail mv) s (fun t => bitOf (t.get .ciphAlarmStaCause) 1 = true ∧
       t.get .ciphStaErased = 1 ∧ t.ciph.keys = [] ∧ t.get .ciphAlarmCntAlarms = (s.get .ciphAlarmCntAlarms + 1) % 2 ^ 64)) ∧
     (¬low → exec (.railReset rail mv) s = .next s) ∧
     (low → Completes (.railReset rail mv) s (reset 3 rail.val))) ∧
    (ns < 1000 → exec (.sysRstNAssert ns) s = .next s) ∧
    (1000 ≤ ns → Completes (.sysRstNAssert ns) s (reset 1 255)) ∧
    (let no := s.sec.good = true ∨ s.host.perst = true ∧ s.get .sysRstStaCause = 2
     (no → exec (.powerGood indep kw) s = .next s) ∧
     (¬no → Completes (.powerGood indep kw) s (fun t => t.sec = { s.sec with good := true, lifecycle := s.sec.fuses.lifecycle } ∧
       t.get .sysRstStaIndep = (if indep then 1 else 0) ∧ t.get .sysModeKwStrap = (if kw then 1 else 0) ∧
       t.get .sysModeKwRegs = (if kw then 1 else 0) ∧ t.get .sysClkStaSysRef = 1 ∧ t.reg .secNonce 0 = s.free 10 ∧
       t.freeCtr = s.freeCtr + 11 ∧ KeepsBut [.regs, .sec, .freeCtr] s t))) ∧
    (let lost := fun (t : State) => t.get .sysClkLossLosses = (s.get .sysClkLossLosses + 1) % 2 ^ 64 ∧
       ∃ c ∈ t.cairn.raised, c.code = .clkLoss
     let stays := fun (t : State) => RegsBut [(.sysClkLoss, 0), (.sysClkSta, 0)] s t ∧ KeepsBut [.regs, .cairn] s t
     (input = .sysRef → Completes (.clkLoss input fit) s (fun t => lost t ∧ t.get .sysClkStaSysRef = 0 ∧
       t.get .sysClkStaCoreAlt = (if fit then 1 else 0) ∧ t.get .sysClkStaCoreHold = (if fit then 0 else 1) ∧ stays t)) ∧
     (∀ k, input = .sdsRef k → Completes (.clkLoss input fit) s (fun t => lost t ∧
       bitOf (t.get .sysClkStaSdsRef) k.val = false ∧ stays t)) ∧
     (input = .xtal → Completes (.clkLoss input fit) s (fun t => lost t ∧ t.get .sysClkStaXtal = 0 ∧ t.get .sysClkStaAonRc = 1 ∧
       stays t)) ∧
     (input = .pcieRef → Completes (.clkLoss input fit) s (fun t => lost t ∧ t.get .sysClkStaPcieRef = 0 ∧
       t.is .hostLinkStaUp = false ∧ (s.is .hostLinkStaUp = false → stays t)))) ∧
    Completes (.clkRegained input) s (fun t => (∃ c, t.cairn.raised = s.cairn.raised ++ [c] ∧ c.code = .clkLoss) ∧
      (input = .sysRef → t.get .sysClkStaSysRef = 1 ∧ t.get .sysClkStaCoreAlt = 0 ∧ t.get .sysClkStaCoreHold = 0) ∧
      (∀ k, input = .sdsRef k → bitOf (t.get .sysClkStaSdsRef) k.val = true) ∧
      (input = .xtal → t.get .sysClkStaXtal = 1 ∧ t.get .sysClkStaAonRc = 0) ∧ (input = .pcieRef → t.get .sysClkStaPcieRef = 1) ∧
      RegsBut [(.sysClkSta, 0)] s t ∧ KeepsBut [.regs, .cairn] s t) ∧
    Completes (.jtagInstruction ir) s (fun t => t.back.tap = (if s.tapTakes ir = true then ir else .bypass) ∧ KeepsBut [.back] s t) ∧
    Completes .tapReset s (fun t => t.back.tap = .idcode ∧ KeepsBut [.back] s t) ∧
    (s.sec.good = false → exec (.entdaa a) s = .next s) ∧
    (s.sec.good = true → Completes (.entdaa a) s (fun t => t.back.i3c = some a ∧ KeepsBut [.back] s t)) ∧
    (s.mctpUp = false → exec (.pldmSensorRead id) s = .next s) ∧
    (s.mctpUp = true →
      ((id = 0 ∨ 21 < id) → exec (.pldmSensorRead id) s = .next (s.emit (.pldm 0x80 0))) ∧
      (id = 1 → Completes (.pldmSensorRead id) s (fun t => t.out = s.out ++ [.pldm 0 (s.get .sysThermStaHottest)])) ∧
      (3 ≤ id → id ≤ 11 → Completes (.pldmSensorRead id) s (fun t => t.out = s.out ++ [.pldm 0 (s.get .sysRailMv (id - 3))] ∧
        KeepsBut [.out, .freeCtr] s t)) ∧
      ((id = 2 ∨ 12 ≤ id ∧ id ≤ 20) → Completes (.pldmSensorRead id) s (fun t => ∃ v, v < 2 ^ 16 ∧ t.out = s.out ++ [.pldm 0 v])) ∧
      (id = 21 → (s.back.late = none → exec (.pldmSensorRead id) s = .next (s.emit (.pldm 3 0))) ∧
        (∀ v, s.back.late = some v → Completes (.pldmSensorRead id) s (fun t => t.out = s.out ++ [.pldm 0 v]))))

/-- CAIRN_ACCEPT takes the next raised record: without a token its code is suppressed and counted; with a free place it is queued under the next number; with the queue full it is counted lost. CAIRN_LOST queues one record once there is space after losses. A drained record enters the mirror; a mirrored one goes to both areas of flash unless a supply warning holds it or the wear budget did; the load fills the mirror once. The counter log takes its entry, or waits for a supply warning; op_sec advances and sticks at its maximum. A cursor write drops the latch, a latch takes the record named with its status, and an advance with status 0 moves on; the rate table and the MCTP cursor likewise. -/
def Obligations.CairnResults : Prop :=
  ∀ (bad : Nat) (v : BitVec 64) (i : Fin 32) (s : State),
    (s.cairn.raised = [] → exec .cairnAccept s = .next s) ∧
    (∀ e rest, cairnNext s.cairn.raised = some (e, rest) →
      let code := e.code.num
      let full := e.code.exempt = true ∨ unitsPerSec ≤ s.cairnLevel code
      (¬full → Completes .cairnAccept s (fun t => t.cairn.raised = rest ∧ t.cairn.queue = s.cairn.queue ∧ t.cairn.next = s.cairn.next ∧
        SMap.find t.cairn.suppressed code = some (SMap.getD s.cairn.suppressed code 0 + 1) ∧
        t.get .cairnSuppSuppressed = (s.get .cairnSuppSuppressed + 1) % 2 ^ 64 ∧ RegsBut [(.cairnSupp, 0)] s t ∧
        KeepsBut [.regs, .cairn] s t)) ∧
      (full → s.cairn.lostSince = 0 → s.cairn.queue.length < 256 → Completes .cairnAccept s (fun t => t.cairn.raised = rest ∧
        t.cairn.next = s.cairn.next + 1 ∧ SMap.find t.cairn.suppressed code = none ∧
        t.get .cairnStaNext = (s.cairn.next + 1) % 2 ^ 48 ∧
        t.cairn.queue = s.cairn.queue ++ [(s.cairn.next, cairnBytes e s.cairn.next (SMap.getD s.cairn.suppressed code 0)
          s.takeWear.1 s.cairn.opSec s.cairn.pwrCyc)])) ∧
      (full → 256 ≤ s.cairn.queue.length → Completes .cairnAccept s (fun t => t.cairn.raised = rest ∧
        t.cairn.queue = s.cairn.queue ∧ t.cairn.next = s.cairn.next ∧ t.cairn.lostSince = s.cairn.lostSince + 1 ∧
        t.get .cairnQlostLost = (s.get .cairnQlostLost + 1) % 2 ^ 64 ∧ RegsBut [(.cairnQlost, 0)] s t ∧ KeepsBut [.regs, .cairn] s t))) ∧
    ((s.cairn.lostSince = 0 ∨ 256 ≤ s.cairn.queue.length) → exec .cairnLost s = .next s) ∧
    (0 < s.cairn.lostSince → s.cairn.queue.length < 256 → Completes .cairnLost s (fun t => t.cairn.lostSince = 0 ∧
      t.cairn.next = s.cairn.next + 1 ∧ t.cairn.raised = s.cairn.raised ∧ ∃ b, t.cairn.queue = s.cairn.queue ++ [(s.cairn.next, b)])) ∧
    ((s.cairn.queue = [] ∨ s.sec.good = false) → exec .cairnDrain s = .next s) ∧
    (∀ n b rest, s.cairn.queue = (n, b) :: rest → s.sec.good = true → Completes .cairnDrain s (fun t => t.cairn.queue = rest ∧
      ((n < 8192 ∨ s.cairn.next ≤ n + 65536) → SMap.find t.cairn.mirror n = some b) ∧ KeepsBut [.cairn] s t)) ∧
    (let n := s.cairn.flashed
     (s.supplyWarn = true → exec .cairnFlashWrite s = .next s) ∧
     (s.supplyWarn = false → SMap.find s.cairn.mirror n = none →
       ((s.cairn.next ≤ n ∨ SMap.find s.cairn.queue n ≠ none) → exec .cairnFlashWrite s = .next s) ∧
       (n < s.cairn.next → SMap.find s.cairn.queue n = none → Completes .cairnFlashWrite s (fun t => t.cairn.flashed = n + 1 ∧
         t.cairn.flashCirc = s.cairn.flashCirc ∧ KeepsBut [.cairn] s t))) ∧
     (∀ b, s.supplyWarn = false → SMap.find s.cairn.mirror n = some b → Completes .cairnFlashWrite s (fun t =>
       t.cairn.flashed = n + 1 ∧ t.cairn.mirror = s.cairn.mirror ∧
       ((wearHeld b = true ∨ s.cairn.devs = []) → t.cairn.flashCirc = s.cairn.flashCirc ∧ t.cairn.flashBirth = s.cairn.flashBirth) ∧
       (wearHeld b = false → s.cairn.devs ≠ [] → SMap.find t.cairn.flashCirc n = some b ∧
         t.cairn.circWrites = s.cairn.circWrites + 1 ∧ (n < 8192 → SMap.find t.cairn.flashBirth n = some b) ∧
         (8192 ≤ n → t.cairn.flashBirth = s.cairn.flashBirth)) ∧ KeepsBut [.regs, .cairn] s t))) ∧
    ((s.cairn.loaded = true ∨ s.cairn.loading = false) → exec (.cairnLoad bad) s = .next s) ∧
    (s.cairn.loaded = false → s.cairn.loading = true → Completes (.cairnLoad bad) s (fun t => t.cairn.loaded = true ∧
      t.get .cairnStaLoaded = 1 ∧ (bad = 0 → t.cairn.raised = s.cairn.raised) ∧
      (bad ≠ 0 → ∃ c, t.cairn.raised = s.cairn.raised ++ [c] ∧ c.code = .cairnBadLoad) ∧
      (SMap.Sorted s.cairn.mirror → ∀ n b, SMap.find s.cairn.mirror n = some b → (n < 8192 ∨ s.cairn.next ≤ n + 65536) →
        SMap.find t.cairn.mirror n = some b) ∧ KeepsBut [.regs, .cairn] s t)) ∧
    (s.supplyWarn = true → Completes .counterLogAppend s (fun t => t.sec = { s.sec with held := s.sec.held ++ [.counterLog] } ∧
      KeepsBut [.sec] s t)) ∧
    (s.supplyWarn = false → Completes .counterLogAppend s (fun t => t.cairn.logWrites = s.cairn.logWrites + 1 ∧
      t.cairn.counterLog.getLast? = some (s.cairn.opSec, s.cairn.pwrCyc) ∧ t.cairn.counterLog.length ≤ 65536 ∧
      (s.cairn.counterLog.length < 65536 → t.cairn.counterLog = s.cairn.counterLog ++ [(s.cairn.opSec, s.cairn.pwrCyc)]) ∧
      KeepsBut [.regs, .cairn] s t)) ∧
    Completes .opSecTick s (fun t => t.get .sysSlowEpochEdges = (s.get .sysSlowEpochEdges + 32768) % 2 ^ 64 ∧
      (s.cairn.opSec ≠ 0xFFFFFFFF#32 → t.cairn.opSec = s.cairn.opSec + 1 ∧ t.get .cairnLifeOpSec = (s.cairn.opSec + 1).toNat) ∧
      (s.cairn.opSec = 0xFFFFFFFF#32 → t.cairn.opSec = s.cairn.opSec ∧
        ∃ c, t.cairn.raised = s.cairn.raised ++ [c] ∧ c.code = .counterStuck) ∧ KeepsBut [.regs, .cairn] s t) ∧
    Completes (.cairnCursorWrite v) s (fun t => t.get .cairnCursorArea = v.toNat / 2 ^ 63 ∧ t.get .cairnCursorRec = v.toNat % 2 ^ 48 ∧
      t.get .cairnCursorSta = s.get .cairnCursorSta ∧ t.cairn.latch = none ∧ RegsBut [(.cairnCursor, 0)] s t ∧
      KeepsBut [.regs, .cairn] s t) ∧
    (let k := s.get .cairnCursorRec
     let bound := if s.is .cairnCursorArea = true then s.cairn.next else min s.cairn.next 8192
     let latch := fun (t : State) (sta : Nat) (l : Option Bytes) => t.get .cairnCursorSta = sta ∧ t.cairn.latch = l ∧
       t.readData = latchWord l 0 ∧ t.get .cairnCursorRec = k ∧ RegsBut [(.cairnCursor, 0)] s t ∧ KeepsBut [.regs, .cairn, .readData] s t
     (bound ≤ k → Completes .cairnWindowLatch s (fun t => latch t 1 none)) ∧
     (k < bound → s.is .cairnCursorArea = true → k + 65536 < s.cairn.next → Completes .cairnWindowLatch s (fun t => latch t 2 none)) ∧
     (k < bound → (s.is .cairnCursorArea = false ∨ s.cairn.next ≤ k + 65536) →
       (∀ b, SMap.find s.cairn.mirror k = some b → Completes .cairnWindowLatch s (fun t => latch t 0 (some b))) ∧
       (SMap.find s.cairn.mirror k = none → (s.cairn.loaded = false ∨ SMap.find s.cairn.queue k ≠ none) →
         Completes .cairnWindowLatch s (fun t => latch t 3 none)) ∧
       (SMap.find s.cairn.mirror k = none → s.cairn.loaded = true → SMap.find s.cairn.queue k = none →
         Completes .cairnWindowLatch s (fun t => latch t 2 none))) ∧
     Completes .cairnWindowAdvance s (fun t => t.readData = latchWord s.cairn.latch 7 ∧ t.cairn = s.cairn ∧
       t.get .cairnCursorRec = (if s.get .cairnCursorSta = 0 then (k + 1) % 2 ^ 48 else k) ∧
       t.get .cairnCursorSta = s.get .cairnCursorSta ∧ RegsBut [(.cairnCursor, 0)] s t ∧ KeepsBut [.regs, .readData] s t)) ∧
    (let no := bitsOf v.toNat 47 32 = 0 ∨ bitsOf v.toNat 15 0 = 0
     (no → exec (.cairnRateWrite i v) s = .next (s.ignDomain 13)) ∧
     (¬no → Completes (.cairnRateWrite i v) s (fun t => t.reg .cairnRate i.val = v ∧ RegsBut [(.cairnRate, i.val)] s t ∧
       KeepsBut [.regs, .cairn] s t))) ∧
    (s.mctpUp = false → exec (.cursorSet v) s = .next s ∧ exec .mctpRead s = .next s) ∧
    (s.mctpUp = true → Completes (.cursorSet v) s (fun t => t.cairn.mctp.recNo = v.toNat % 2 ^ 48 ∧
        t.cairn.mctp.circ = v.getLsbD 63 ∧ t.cairn.mctp.latch = none ∧ t.out = s.out ++ [.mctp (leBytes v.toNat 8)] ∧
        KeepsBut [.cairn, .out] s t) ∧
      (∀ k, s.cairn.latched s.cairn.mctp = k → Completes .mctpRead s (fun t =>
        t.out = s.out ++ [.mctp (leBytes k.word.toNat 8 ++ k.latch.getD (List.replicate 64 0))] ∧
        t.cairn.mctp = (if k.sta = 0 then { k with recNo := (k.recNo + 1) % 2 ^ 48 } else k) ∧ KeepsBut [.cairn, .out] s t)))

/-- While the instance does not answer, no request has an effect. GET_VERSION begins an exchange anew and is answered 1.2; every other request of another version is answered with a version error and drops what a signature covered. GET_CAPABILITIES and NEGOTIATE_ALGORITHMS are answered once each in order, else Unexpected; digests, the certificate, the challenge and measurements need the algorithms settled. CHALLENGE and signed GET_MEASUREMENTS carry fresh nonces and an RSA signature over the transcript; while the keys are erased they are Busy. SLH_SIG signs what the response just before signed, else Unexpected; SLH_CERT gives a part of the second chain. -/
def Obligations.SpdmResults : Prop :=
  ∀ (req : Bytes) (s : State),
    let d := s.host.spdm
    let tells := fun (t : State) (b : Bytes) => t.out = s.out ++ [.spdm b] ∧ KeepsBut [.host, .out, .freeCtr] s t
    let err := fun (code : Nat) (t : State) => tells t [0x12, 0x7F, BitVec.ofNat 8 code, 0] ∧ t.host.spdm = { d with signed := none }
    let add := fun (b : Bytes) => d.vca ++ req ++ b
    (s.doeOk = false → exec (.getVersion req) s = .next s ∧
      exec (.getCapabilities req) s = .next s ∧
      exec (.negotiateAlgorithms req) s = .next s ∧
      exec (.getDigests req) s = .next s ∧
      exec (.getCertificate req) s = .next s ∧
      exec (.challenge req) s = .next s ∧
      exec (.getMeasurements req) s = .next s ∧
      exec (.slhSig req) s = .next s ∧
      exec (.slhCert req) s = .next s) ∧
    (s.doeOk = true → Completes (.getVersion req) s (fun t => tells t spdmVersion ∧
      t.host.spdm = { version := true, vca := req ++ spdmVersion })) ∧
    (s.doeOk = true → leAt req 0 1 ≠ 0x12 →
      Completes (.getCapabilities req) s (err 0x41) ∧
      Completes (.negotiateAlgorithms req) s (err 0x41) ∧
      Completes (.getDigests req) s (err 0x41) ∧
      Completes (.getCertificate req) s (err 0x41) ∧
      Completes (.challenge req) s (err 0x41) ∧
      Completes (.getMeasurements req) s (err 0x41) ∧
      Completes (.slhSig req) s (err 0x41) ∧
      Completes (.slhCert req) s (err 0x41)) ∧
    (s.doeOk = true → leAt req 0 1 = 0x12 →
      (¬(d.version = true ∧ d.caps = false) → Completes (.getCapabilities req) s (err 4)) ∧
      (d.version = true → d.caps = false → Completes (.getCapabilities req) s (fun t => tells t spdmCaps ∧
        t.host.spdm = { d with caps := true, vca := add spdmCaps, signed := none })) ∧
      (¬(d.caps = true ∧ d.algs = false) → Completes (.negotiateAlgorithms req) s (err 4)) ∧
      (d.caps = true → d.algs = false → Completes (.negotiateAlgorithms req) s (fun t => tells t (spdmAlgs req) ∧
        t.host.spdm = { d with algs := true, vca := add (spdmAlgs req), signed := none })) ∧
      (d.algs = false → Completes (.getDigests req) s (err 4) ∧ Completes (.getCertificate req) s (err 4) ∧
        Completes (.challenge req) s (err 4) ∧ Completes (.getMeasurements req) s (err 4)) ∧
      (d.algs = true →
        (let a := [0x12#8, 0x01, 0, 1] ++ sha384 (Config.identChain 0)
         Completes (.getDigests req) s (fun t => tells t a ∧
           t.host.spdm = { d with digests := d.digests ++ req ++ a, meas := [], signed := none })) ∧
        (let c := Config.identChain 0
         let off := leAt req 4 2
         ((leAt req 2 1 % 16 ≠ 0 ∨ c.length ≤ off) → Completes (.getCertificate req) s (err 1)) ∧
         (leAt req 2 1 % 16 = 0 → off < c.length → Completes (.getCertificate req) s (fun t =>
           let n := min (leAt req 6 2) (c.length - off)
           ∃ b, tells t b ∧ b.take 2 = [0x12, 0x02] ∧ leAt b 4 2 = n ∧ leAt b 6 2 = (c.length - off - n) % 2 ^ 16 ∧
             b.drop 8 = (c.drop off).take n ∧ t.host.spdm.digests = d.digests ++ req ++ b))) ∧
        (leAt req 2 1 ≠ 0 → Completes (.challenge req) s (err 1)) ∧
        (leAt req 2 1 = 0 → s.signs = false → Completes (.challenge req) s (err 3)) ∧
        (leAt req 2 1 = 0 → s.signs = true →
          let all := (List.range 5).flatMap (fun i => s.spdmBlock (i + 1))
          let sum := if leAt req 3 1 = 0 then [] else if leAt req 3 1 = 1 then sha384 (s.spdmBlock 1) else sha384 all
          let a := [0x12#8, 0x03, 0, 1] ++ sha384 (Config.identChain 0) ++ s.nonce ++ sum ++ [0, 0]
          let m := spdmSigned ctxChallenge (d.vca ++ d.digests ++ req ++ a)
          Completes (.challenge req) s (fun t => tells t (a ++ s.identRsa m) ∧
            t.host.spdm = { d with digests := [], meas := [], signed := some m })) ∧
        (let sign := (leAt req 2 1).testBit 0
         let op := leAt req 3 1
         let ids := if op = 0 then [] else if op = 0xFF then [1, 2, 3, 4, 5] else [op]
         let bad := (5 < op ∧ op ≠ 0xFF) ∨ sign = true ∧ leAt req 36 1 % 16 ≠ 0
         let bl := ids.flatMap (fun i => s.spdmBlock i)
         let a := [0x12#8, 0x60] ++ leBytes (if op = 0 then 5 else 0) 1 ++ [0] ++ leBytes ids.length 1 ++ leBytes bl.length 3 ++ bl ++
           s.nonce ++ [0, 0]
         let m := spdmSigned ctxMeasure (d.vca ++ d.meas ++ req ++ a)
         (bad → Completes (.getMeasurements req) s (err 1)) ∧
         (¬bad → sign = true → s.signs = false → Completes (.getMeasurements req) s (err 3)) ∧
         (¬bad → sign = true → s.signs = true → Completes (.getMeasurements req) s (fun t =>
           tells t (a ++ s.identRsa m) ∧ t.host.spdm = { d with meas := [], signed := some m })) ∧
         (¬bad → sign = false → Completes (.getMeasurements req) s (fun t => tells t a ∧
           t.host.spdm = { d with meas := d.meas ++ req ++ a, signed := none })))) ∧
      (spdmVendorReq req 1 = false → Completes (.slhSig req) s (err 1)) ∧
      (spdmVendorReq req 1 = true →
        (d.signed = none → Completes (.slhSig req) s (err 4)) ∧
        (∀ m, d.signed = some m → s.signs = false → Completes (.slhSig req) s (err 3)) ∧
        (∀ m, d.signed = some m → s.signs = true → Completes (.slhSig req) s (fun t =>
          tells t (spdmVendor (slhSignBy none (s.freeBytes 0 3) m)) ∧ t.host.spdm = { d with signed := none }))) ∧
      (let c := Config.identChain 1
       let off := beAt req 12 4
       let n := beAt req 16 4
       let ok := spdmVendorReq req 2 = true ∧ n ≤ 65536 ∧ off ≤ c.length
       (¬ok → Completes (.slhCert req) s (err 1)) ∧
       (ok → Completes (.slhCert req) s (fun t => tells t (spdmVendor ((c.drop off).take n)) ∧
         t.host.spdm = { d with signed := none }))))

/-- A ring's writes act only for its owner: another's are ignored and counted, and a function that answers nothing counts an unsupported request. A ring that may be enabled enters service under its next incarnation with fetching at H; disabled, it drains without its cache and is DISABLED once nothing runs; only then P, H and C take one value. A doorbell within its limits moves P, or C and H of a notification queue; another stops the ring with its cause. An invalidation keeps the cache below the first entry named. RING_SERVICE acts for the ring the round serves. TX_SEND refuses its entry, reads and enqueues its frame, or leaves it unstarted after a failed read and the ring in ERROR; each start counts against the visit and the round. NOTIFY_LOST posts its record once there is space; where the write is a failed access the queue is in ERROR (log entry 155). -/
def Obligations.RingResults : Prop :=
  ∀ (r : RingIx) (f : Fn) (w : BitVec 32) (v : BitVec 64) (e data : Bytes) (s : State),
    let k := r.val
    (s.memReach f.val = false →
      exec (.ringEnable r f) s = .next (s.ur f.val) ∧
      exec (.ringDisable r f) s = .next (s.ur f.val) ∧
      exec (.ringResetIdx r f w) s = .next (s.ur f.val) ∧
      exec (.doorbell r f w) s = .next (s.ur f.val) ∧
      exec (.ringInvalidate r f v) s = .next (s.ur f.val)) ∧
    (s.memReach f.val = true → s.ringOwner k ≠ f.val →
      exec (.ringEnable r f) s = .next (s.ignRing k) ∧
      exec (.ringDisable r f) s = .next (s.ignRing k) ∧
      exec (.ringResetIdx r f w) s = .next (s.ignRing k) ∧
      exec (.doorbell r f w) s = .next (s.ignRing k) ∧
      exec (.ringInvalidate r f v) s = .next (s.ignRing k)) ∧
    (s.memReach f.val = true → s.ringOwner k = f.val →
      (s.is .ringCtlEn k = true → exec (.ringEnable r f) s = .next (s.set .ringStaIgn k 0)) ∧
      (s.is .ringCtlEn k = false → s.ringEnableOk k f.val = false → exec (.ringEnable r f) s = .next (s.ignRing k)) ∧
      (s.is .ringCtlEn k = false → s.ringEnableOk k f.val = true → Completes (.ringEnable r f) s (fun t =>
        t.is .ringCtlEn k = true ∧ t.blkState ⟨.ring, k⟩ = 2 ∧ t.blkInc ⟨.ring, k⟩ = incNext (s.blkInc ⟨.ring, k⟩) ∧
        (s.ringP k = s.ringH k → t.get .ringStaState k = rsEnabled ∧ t.get .ringStaCause k = 0 ∧ (t.ring k).cache = [] ∧
          t.out = s.out))) ∧
      (s.is .ringCtlEn k = false → exec (.ringDisable r f) s = .next (let t := s.set .ringStaIgn k 0
        if s.get .ringStaState k = rsError then t.set .ringStaState k rsDisabled else t)) ∧
      (s.is .ringCtlEn k = true → Completes (.ringDisable r f) s (fun t => t.is .ringCtlEn k = false ∧
        t.get .ringStaState k = rsDraining ∧ (t.ring k).cache = [] ∧
        (∀ x ∈ t.host.reads, x.ring = k → x.void = true) ∧ ((s.ring k).buf = none → (t.ring k).running = (s.ring k).running ∧ t.out = s.out))) ∧
      (s.get .ringStaState k = rsDisabled → Completes (.ringResetIdx r f w) s (fun t => t.ringP k = w.toNat ∧ t.ringH k = w.toNat ∧
        t.ringC k = w.toNat ∧ RegsBut [(.ringIdx, k), (.ringCi, k), (.ringSta, k)] s t ∧ KeepsBut [.regs] s t)) ∧
      (s.get .ringStaState k ≠ rsDisabled → exec (.ringResetIdx r f w) s = .next (s.ignRing k)) ∧
      (s.bellOk k w.toNat = true → s.ringKind k ≠ 10 → Completes (.doorbell r f w) s (fun t => t.ringP k = w.toNat ∧
        (t.ring k).bell = w.toNat ∧ t.ringC k = s.ringC k)) ∧
      (s.bellOk k w.toNat = true → s.ringKind k = 10 → Completes (.doorbell r f w) s (fun t => t.ringC k = w.toNat ∧
        t.ringH k = w.toNat ∧ t.ringP k = s.ringP k ∧ RegsBut [(.ringIdx, k), (.ringCi, k)] s t ∧ KeepsBut [.regs, .rings] s t)) ∧
      (s.bellOk k w.toNat = false → (s.get .ringStaState k = rsEnabled ∨ s.get .ringStaState k = rsDisabled) → Completes (.doorbell r f w) s (fun t =>
        t.get .ringStaState k = rsError ∧ t.get .ringStaCause k = ecDoorbell ∧ t.get .ringCiErrIdx k = s.ringP k ∧
        t.ringP k = s.ringP k ∧ t.get .ringIgnIgnored k = (s.get .ringIgnIgnored k + 1) % 2 ^ 64)) ∧
      (s.ringKind k = 10 → exec (.ringInvalidate r f v) s = .next s) ∧
      (let n := v.toNat % 2 ^ 32
       let first := v.toNat / 2 ^ 32
       (s.ringKind k ≠ 10 → (n = 0 ∨ 32 < n) → exec (.ringInvalidate r f v) s = .next (s.ignRing k)) ∧
       (s.ringKind k ≠ 10 → 1 ≤ n → n ≤ 32 → Completes (.ringInvalidate r f v) s (fun t => (t.ring k).invalH = s.ringH k ∧
         ((s.ring k).kept = [] → ∃ m, (t.ring k).cache = (s.ring k).cache.take m ∧ ∀ i, i < m → n ≤ idxSub (idxAdd (s.ringH k) i) first) ∧
         (∀ x ∈ (t.ring k).kept, n ≤ idxSub x.1 first) ∧
         ∀ x ∈ s.host.reads, x.ring = k → idxMeets first n x.first x.count = true →
           { x with void := true } ∈ t.host.reads)))) ∧
    (s.get .ringStaState k = rsDraining → (s.ring k).running = [] → Completes (.ringDrained r) s (fun t =>
      t.get .ringStaState k = rsDisabled ∧ t.blkState ⟨.ring, k⟩ = 1 ∧ RegsBut [(.ringSta, k)] s t ∧
      KeepsBut [.regs, .blkSt, .offAt] s t)) ∧
    ((s.get .ringStaState k ≠ rsDraining ∨ (s.ring k).running ≠ []) → exec (.ringDrained r) s = .next s) ∧
    (let may := s.ringKind k = 10 ∧ s.get .ringStaState k = rsEnabled ∧ (s.ring k).lost ≠ 0 ∧ s.nqFull k = false
     (¬may → exec (.notifyLost r) s = .next s) ∧
     (may → s.entryFails k (s.ringP k) = false → Completes (.notifyLost r) s (fun t => (t.ring k).lost = 0 ∧
       t.ringP k = (s.ringP k + 1) % 2 ^ 32 ∧ t.get .ringDoneDone k = (s.get .ringDoneDone k + 1) % 2 ^ 64 ∧ t.ringC k = s.ringC k)) ∧
     (may → s.entryFails k (s.ringP k) = true → Completes (.notifyLost r) s (fun t => t.ringP k = s.ringP k ∧
       t.get .ringStaState k = rsError ∧ t.get .ringStaCause k = ecAccess ∧ t.get .ringCiErrIdx k = s.ringP k))) ∧
    (leAt e 0 2 ≠ 1 → exec (.txSend r e data) s = .next s) ∧
    (leAt e 0 2 = 1 →
      (∀ c, s.reaches k 1 e = true → txBad e = some c → (c = ecReserved ∨ s.passOk k (s.ringH k) e = true) →
        exec (.txSend r e data) s = .next (s.ringError k c (s.ringH k))) ∧
      (s.reaches k 1 e = true → txBad e = none → s.passOk k (s.ringH k) e = false →
        exec (.txSend r e data) s = .next (s.ringError k ecPass (s.ringH k))) ∧
      ((s.reaches k 1 e = true ∧ txBad e = none ∧ s.passOk k (s.ringH k) e = true) →
        let i := s.ringH k
        let own := s.ringOwner k
        let st := s.txRefuse own e
        let x := s.readHost own (leAt e 8 8) (leAt e 4 2)
        let got := s.canReach own (leAt e 8 8) (leAt e 4 2) = true ∧ data.length = leAt e 4 2
        let u := x.beginEntry k
        let fr := u.txFrame k i st.2 e data
        let body := sliceB e 0 32
        (st.1 ≠ 0 → exec (.txSend r e data) s = .next ((s.beginEntry k).complete k i (body ++ List.replicate 30 0) st.1)) ∧
        (st.1 = 0 → ¬got → exec (.txSend r e data) s = .next (x.ringError k ecAccess i)) ∧
        (st.1 = 0 → got → (u.newFrame fr).1.portOn (st.2 / 16) = false → Completes (.txSend r e data) s (fun t =>
          (t.get .tmPortDiscFrames (st.2 / 16) = (s.get .tmPortDiscFrames (st.2 / 16) + 1) % 2 ^ 64))) ∧
        (st.1 = 0 → got → ∀ y, (u.newFrame fr).1.enterQueue s.ports.nextFrame (st.2 / 16) (st.2 % 16) fr = (y, true) →
          exec (.txSend r e data) s = .next y))) ∧
    (let u := s.fetch k
     exec (.ringService r e data) s =
       .next (if u.served k then (u.ringEntry k ((u.ring k).cache.headD e) data).fetch k else u)) ∧
    (s.served k = true → let t := s.beginEntry k
      t.host.svc = some k ∧ 1 ≤ (t.ring k).round ∧ t.ringH k = idxAdd (s.ringH k) 1 ∧
      (s.host.svc = some k → s.host.svcLeft ≠ 0 → s.turnLeft k = true → k ∈ s.ringsOn →
        t.host.svcLeft = s.host.svcLeft - 1 ∧ (t.ring k).round = (s.ring k).round + 1))

/-- From an open mailbox a manager command of another function is DENIED; a body of another length or a number that is no VF is MALFORMED, a tenant being removed BUSY, an absent one or another state STATE. CREATE refuses a bad grant, an existing tenant and a pool that cannot give, else the tenant is ACTIVE with its blocks and is answered its incarnation. QUERY answers grant and state. FREEZE leaves the answer to TENANT_FROZEN, which stores the instant; THAW makes the tenant ACTIVE; SAVE needs PF0's migration key, no outstanding work and a buffer long enough; RESTORE answers its first failing check or its map; DESTROY waits for TENANT_REMOVED, which clears the tenant. -/
def Obligations.TenantResults : Prop :=
  ∀ (f : Fn) (seq : BitVec 32) (b blob : Bytes) (n : Fin 128) (s : State),
    let v := leAt b 0 1
    let on := fun (cmd : Nat) => s.setBox f.val { s.box f.val with accepted := seq, pending := true, cmd := cmd }
    ((s.memReach f.val = true ∧ f.val ≠ 128 ∧ (s.box f.val).pending = false ∧ seq = (s.box f.val).replied + 1 ∧ s.boxBusy f.val = false) → f.val ≠ 0 →
      exec (.tenantCreate f seq b) s = .next ((on 0x20).reply f.val 0x20 2 0 []) ∧
      exec (.tenantQuery f seq b) s = .next ((on 0x21).reply f.val 0x21 2 0 []) ∧
      exec (.tenantFreeze f seq b) s = .next ((on 0x22).reply f.val 0x22 2 0 []) ∧
      exec (.tenantThaw f seq b) s = .next ((on 0x23).reply f.val 0x23 2 0 []) ∧
      exec (.tenantSave f seq b) s = .next ((on 0x24).reply f.val 0x24 2 0 []) ∧
      exec (.tenantDestroy f seq b) s = .next ((on 0x26).reply f.val 0x26 2 0 []) ∧
      exec (.tenantRestore f seq b blob) s = .next ((on 0x25).reply f.val 0x25 2 0 [])) ∧
    ((s.memReach f.val = true ∧ f.val ≠ 128 ∧ (s.box f.val).pending = false ∧ seq = (s.box f.val).replied + 1 ∧ s.boxBusy f.val = false) → f.val = 0 →
      (let g := parseGrant b
       let u := on 0x20
       (grantBad b = true → exec (.tenantCreate f seq b) s = .next (u.reply 0 0x20 1 0 [])) ∧
       (grantBad b = false → s.ten? g.vf ≠ none → exec (.tenantCreate f seq b) s = .next (u.reply 0 0x20 (if s.tenState g.vf = 5 then 3 else 5) 0 [])) ∧
       (∀ d, grantBad b = false → s.ten? g.vf = none → u.grantFail g = some d →
         exec (.tenantCreate f seq b) s = .next (u.reply 0 0x20 4 d [])) ∧
       (grantBad b = false → s.ten? g.vf = none → u.grantFail g = none → Completes (.tenantCreate f seq b) s (fun t =>
         t = (u.makeTen g 1 0).reply 0 0x20 0 0 (leBytes (s.blkInc ⟨.function, g.vf⟩) 2) ∧
         t.ten? g.vf = some { grant := g, at_ := 0 } ∧ t.tenState g.vf = 1 ∧ (∀ w, w ≠ g.vf → t.ten? w = s.ten? w) ∧
         ∀ i, i < g.ringCount → t.ringOwner (g.ringFirst + i) = g.vf))) ∧
      ((b.length ≠ 1 ∨ v = 0 ∨ 127 < v) → exec (.tenantQuery f seq b) s = .next ((on 0x21).reply 0 0x21 1 0 [])) ∧
      (b.length = 1 → 1 ≤ v → v ≤ 127 → s.tenState v = 5 → exec (.tenantQuery f seq b) s = .next ((on 0x21).reply 0 0x21 3 0 [])) ∧
      (b.length = 1 → 1 ≤ v → v ≤ 127 → s.tenState v ≠ 5 → (s.ten? v = none ∨ s.tenState v = 0 ∨ 5 ≤ s.tenState v) →
        exec (.tenantQuery f seq b) s = .next ((on 0x21).reply 0 0x21 5 0 [])) ∧
      ((b.length ≠ 1 ∨ v = 0 ∨ 127 < v) → exec (.tenantFreeze f seq b) s = .next ((on 0x22).reply 0 0x22 1 0 [])) ∧
      (b.length = 1 → 1 ≤ v → v ≤ 127 → s.tenState v = 5 → exec (.tenantFreeze f seq b) s = .next ((on 0x22).reply 0 0x22 3 0 [])) ∧
      (b.length = 1 → 1 ≤ v → v ≤ 127 → s.tenState v ≠ 5 → (s.ten? v = none ∨ s.tenState v ≠ 1) →
        exec (.tenantFreeze f seq b) s = .next ((on 0x22).reply 0 0x22 5 0 [])) ∧
      ((b.length ≠ 1 ∨ v = 0 ∨ 127 < v) → exec (.tenantThaw f seq b) s = .next ((on 0x23).reply 0 0x23 1 0 [])) ∧
      (b.length = 1 → 1 ≤ v → v ≤ 127 → s.tenState v = 5 → exec (.tenantThaw f seq b) s = .next ((on 0x23).reply 0 0x23 3 0 [])) ∧
      (b.length = 1 → 1 ≤ v → v ≤ 127 → s.tenState v ≠ 5 → (s.ten? v = none ∨ s.tenState v ≠ 3) →
        exec (.tenantThaw f seq b) s = .next ((on 0x23).reply 0 0x23 5 0 [])) ∧
      ((b.length ≠ 24 ∨ v = 0 ∨ 127 < v) → exec (.tenantSave f seq b) s = .next ((on 0x24).reply 0 0x24 1 0 [])) ∧
      (b.length = 24 → 1 ≤ v → v ≤ 127 → s.tenState v = 5 → exec (.tenantSave f seq b) s = .next ((on 0x24).reply 0 0x24 3 0 [])) ∧
      (b.length = 24 → 1 ≤ v → v ≤ 127 → s.tenState v ≠ 5 → (s.ten? v = none ∨ s.tenState v ≠ 3) →
        exec (.tenantSave f seq b) s = .next ((on 0x24).reply 0 0x24 5 0 [])) ∧
      ((b.length ≠ 16 ∨ v = 0 ∨ 127 < v) → exec (.tenantDestroy f seq b) s = .next ((on 0x26).reply 0 0x26 1 0 [])) ∧
      (b.length = 16 → 1 ≤ v → v ≤ 127 → s.tenState v = 5 → exec (.tenantDestroy f seq b) s = .next ((on 0x26).reply 0 0x26 3 0 [])) ∧
      (b.length = 16 → 1 ≤ v → v ≤ 127 → s.tenState v ≠ 5 → (s.ten? v = none ∨ s.tenState v ≠ 1 ∧ s.tenState v ≠ 3) →
        exec (.tenantDestroy f seq b) s = .next ((on 0x26).reply 0 0x26 5 0 [])) ∧
      (∀ t, b.length = 1 → 1 ≤ v → v ≤ 127 → s.ten? v = some t →
        (1 ≤ s.tenState v → s.tenState v ≤ 4 → exec (.tenantQuery f seq b) s =
          .next ((on 0x21).reply 0 0x21 0 0 (grantBytes t.grant ++ leBytes (s.tenState v) 1))) ∧
        (s.tenState v = 1 → Completes (.tenantFreeze f seq b) s (fun x => x.tenState v = 2 ∧ x.get .hostTenStaSaved v = 0 ∧
          x.ten? v = some { t with awaits := true } ∧ x.out = s.out ∧ (x.box 0).pending = true ∧ (x.box 0).cmd = 0x22 ∧
          RegsBut [(.hostTenSta, v)] s x ∧ KeepsBut [.regs, .ten] s x)) ∧
        (s.tenState v = 3 → Completes (.tenantThaw f seq b) s (fun x => x.tenState v = 1 ∧ x.ten? v = some t ∧ (x.box 0).pending = false ∧
          (s.ringsOn = [] → s.host.pba = [] → x = ((on 0x23).set .hostTenStaState v 1).reply 0 0x23 0 0 [])))) ∧
      (∀ t, b.length = 24 → 1 ≤ v → v ≤ 127 → s.ten? v = some t → s.tenState v = 3 →
        let u := on 0x24
        (s.migKey (leAt b 2 2) = none → exec (.tenantSave f seq b) s = .next (u.reply 0 0x24 2 0 [])) ∧
        (∀ key, s.migKey (leAt b 2 2) = some key →
          (s.tenBusy v = true → exec (.tenantSave f seq b) s = .next (u.reply 0 0x24 3 0 [])) ∧
          (s.tenBusy v = false →
            let x := u.blob key t
            (leAt b 16 8 < x.length → exec (.tenantSave f seq b) s = .next (u.reply 0 0x24 9 0 (leBytes x.length 8))) ∧
            (x.length ≤ leAt b 16 8 → Completes (.tenantSave f seq b) s (fun y => y.get .hostTenStaSaved v = 1 ∧
              y = (((u.hostWrite 0 (leAt b 8 8) x).useFree (x.length / 65536 + 1)).set .hostTenStaSaved v 1).reply 0 0x24 0 0
                (leBytes x.length 8)))))) ∧
      (∀ t, b.length = 16 → 1 ≤ v → v ≤ 127 → s.ten? v = some t → (s.tenState v = 1 ∨ s.tenState v = 3) →
        let u := on 0x26
        let at_ := BitVec.ofNat 64 (leAt b 8 8)
        (u.timingOk at_ = false → exec (.tenantDestroy f seq b) s =
          .next (u.reply 0 0x26 6 0 (conReply 0 0 1 rcTiming 0 0 0 at_))) ∧
        (u.timingOk at_ = true → Completes (.tenantDestroy f seq b) s (fun x => x.tenState v = 5 ∧
          x.ten? v = some { t with awaits := true, at_ := at_, frozen := s.tenState v == 3 } ∧
          (s.tenState v = 3 → x.frozenFn v = true) ∧ (x.box 0).pending = true ∧ (x.box 0).cmd = 0x26))) ∧
      (let u := on 0x25
       (∀ st d r, u.restore b blob = .inl (st, d, r) → exec (.tenantRestore f seq b blob) s = .next (u.reply 0 0x25 st d r)) ∧
       (∀ t map, u.restore b blob = .inr (t, map) → exec (.tenantRestore f seq b blob) s =
         .next ((t.hostWrite 0 (leAt b 160 8) (map.flatMap (fun e => leBytes e.1 2 ++ leBytes e.2 2))).reply 0 0x25 0 0
           (leBytes map.length 4))))) ∧
    (s.ten? n.val = none → exec (.tenantFrozen n) s = .next s ∧ exec (.tenantRestored n) s = .next s ∧ exec (.tenantRemoved n) s = .next s) ∧
    (∀ t, s.ten? n.val = some t →
      ((s.tenState n.val ≠ 2 ∨ s.tenQuiet n.val = false) → exec (.tenantFrozen n) s = .next s) ∧
      (s.tenState n.val = 2 → s.tenQuiet n.val = true → Completes (.tenantFrozen n) s (fun x => x.tenState n.val = 3 ∧
        x.ten? n.val = some { t with at_ := s.lt, awaits := false } ∧ (t.awaits = false → x.out = s.out) ∧
        (t.awaits = true → (s.box 0).pending = true → (x.box 0).pending = false ∧ (x.box 0).replied = (s.box 0).accepted))) ∧
      (s.tenState n.val ≠ 4 → exec (.tenantRestored n) s = .next s) ∧
      (s.tenState n.val = 4 → 0 ≤ ltDiff s.lt t.at_ → Completes (.tenantRestored n) s (fun x => x.tenState n.val = 1 ∧
        RegsBut [(.hostTenSta, n.val)] s x ∧ KeepsBut [.regs] s x)) ∧
      (let left := ∃ e ∈ s.con.versions, ∃ w ∈ e.2, w.body.tenant = n.val
       ((s.tenState n.val ≠ 5 ∨ left) → exec (.tenantRemoved n) s = .next s) ∧
       (s.tenState n.val = 5 → ¬left → Completes (.tenantRemoved n) s (fun x => x.ten? n.val = none ∧ x.tenState n.val = 0 ∧
         x.get .hostTenStaSaved n.val = 0 ∧ (t.awaits = true → (s.box 0).pending = true → (x.box 0).pending = false) ∧
         ∀ k, inRange k t.grant.keyFirst t.grant.keyCount = true → SMap.find x.ciph.keys k = none)))) 

/-- The PTP command is PF0's; a malformed TLV is answered MALFORMED, GET the data, SET what was stored, or an error. A received message ends, and, of the engine's domain and with the gate open, its role, sample and Pdelay_Req are taken; a message to send enters Q3 of its port or is none. A journal doorbell of a queue that is not enabled or whose tag is taken is counted as ignored; while PF1 may not send its slot waits (log entry 132); else a slot that cannot be fetched completes ACCESS, a malformed or out-of-range one at once, a WRITE's data is fetched as there is room, and ends it ACCESS where that fails, a READ and a FLUSH go on as they may, an ABORT catches what has not started. A WRITE starts when its data is there and nothing keeps it back; the peer banks swap at their instant; a disabled queue aborts what has not started. -/
def Obligations.PtpAndJournalResults : Prop :=
  ∀ (f : Fn) (seq : BitVec 32) (b : Bytes) (fid : Nat) (seen : PtpSeen) (n : Port) (ty : Fin 16) (fr : Bytes) (q : JQ) (w : BitVec 32)
    (slot data : Bytes) (tag : Fin 32) (p : Fin 2) (target : BitVec 64) (s : State),
    ((s.memReach f.val = true ∧ f.val ≠ 128 ∧ (s.box f.val).pending = false ∧ seq = (s.box f.val).replied + 1 ∧ s.boxBusy f.val = false) → f.val ≠ 0 → exec (.ptp f seq b) s = .next ((s.setBox f.val { s.box f.val with accepted := seq, pending := true, cmd := 0x16 }).reply f.val 0x16 2 0 [])) ∧
    ((s.memReach f.val = true ∧ f.val ≠ 128 ∧ (s.box f.val).pending = false ∧ seq = (s.box f.val).replied + 1 ∧ s.boxBusy f.val = false) → f.val = 0 →
      let u := s.setBox 0 { s.box 0 with accepted := seq, pending := true, cmd := 0x16 }
      let id := beAt b 4 2
      let d := b.drop 6
      let good := 6 ≤ b.length ∧ beAt b 0 2 = 1 ∧ beAt b 2 2 = b.length - 4
      let tells := fun (r : Bytes) => exec (.ptp f seq b) s = .next (u.reply 0 0x16 0 0 r)
      (¬good → exec (.ptp f seq b) s = .next (u.reply 0 0x16 1 0 [])) ∧
      (good →
        (∀ m, SMap.find ptpSettable id = some m →
          (d = [] → tells (ptpTlv id (s.ptpData id))) ∧
          (d ≠ [] → m ≠ 0 → d.length ≠ m → tells (ptpError 3 id)) ∧
          (d ≠ [] → (m = 0 ∨ d.length = m) → ptpWrong id d = true → tells (ptpError 4 id)) ∧
          (d ≠ [] → (m = 0 ∨ d.length = m) → ptpWrong id d = false → Completes (.ptp f seq b) s (fun t =>
            SMap.find t.ptp.data id = some d ∧ (t.box 0).pending = false ∧ (t.box 0).reply.drop 8 = ptpTlv id d ∧
            KeepsBut [.ptp, .ten, .out, .host] s t))) ∧
        (SMap.find ptpSettable id = none → id = 0 → tells (ptpTlv 0 [])) ∧
        (SMap.find ptpSettable id = none → id ≠ 0 → ptpReadable.contains id = false → tells (ptpError 2 id)) ∧
        (SMap.find ptpSettable id = none → id ≠ 0 → ptpReadable.contains id = true →
          (d ≠ [] → tells (ptpError 5 id)) ∧
          (d = [] → exec (.ptp f seq b) s = .next (u.useFree.reply 0 0x16 0 0 (ptpTlv id (s.ptpShow id))))))) ∧
    (s.frame? fid = none → exec (.ptpEventRx fid seen) s = .next s) ∧
    ((s.ptpData 0x2005).length = 2 → ((s.ptpShow 0x2000).getD 4 0) = (s.ptpData 0x2005).getD 0 0) ∧
    (∀ (b : Bytes) (o ty : Nat), s.ptpSlaveOnly = true → (ty = 0 ∨ ty = 8 ∨ ty = 11) → s.ptpSends b o ty = false) ∧
    (∀ (b : Bytes) (o : Nat), (SMap.find s.ptp.data 0x6000 = some [2, 0] → s.ptpSends b o 1 = false) ∧
      (SMap.find s.ptp.data 0x6000 = some [1, 0] → s.ptpSends b o 2 = false)) ∧
    (∀ g, s.frame? fid = some g →
      let u := s.putFrame fid { g with stage := .done }
      let port := g.port.getD 0
      let o := (ptpOffset g.bytes).getD 0
      let ask := isPtpEvent g.bytes = true ∧ beAt g.bytes o 1 % 16 = 2
      let takes := g.failed = false ∧ s.gateOpen = true ∧ s.ptpMine g.bytes = true
      ((g.stage ≠ .ptp ∨ g.ended = false) → exec (.ptpEventRx fid seen) s = .next s) ∧
      (g.stage = .ptp → g.ended = true →
        (¬takes → exec (.ptpEventRx fid seen) s = .next u) ∧
        (takes → seen.role = none → Completes (.ptpEventRx fid seen) s (fun t => t.ports = u.ports ∧ t.ptp.role = s.ptp.role ∧
          (seen.theta = none → t.crest = s.crest) ∧
          (∀ th, seen.theta = some th → t.crest.samples = s.crest.samples ++
            [{ at_ := s.evtStamp port g.bytes g.lt, theta := th.toInt, pps := false }]) ∧
          (ask → (SMap.getD t.ptp.pdelay port []).head? =
            some (beAt g.bytes (o + 30) 2, beAt g.bytes (o + 20) 10, s.evtStamp port g.bytes g.lt)) ∧
          (¬ask → t.ptp = s.ptp) ∧ KeepsBut [.ports, .crest, .ptp] s t)) ∧
        (takes → ¬ask → seen.theta = none → ∀ r, seen.role = some r → exec (.ptpEventRx fid seen) s = .next (u.ptpTake r)))) ∧
    (let m := sealFrame fr false
     let o := (ptpOffset m).getD 0
     let may := ptpOffset m ≠ none ∧ s.gateOpen = true ∧ s.portOn n.val = true ∧ s.is .portPtpCfgPtpEn n.val = true ∧
       beAt m o 1 % 16 = ty.val ∧ s.ptpMine m = true ∧ s.ptpSends m o ty.val = true
     (¬may → exec (.ptpMessageSend n ty fr) s = .next s) ∧
     (may → let q := s.takePdelay n.val (beAt m (o + 30) 2) (beAt m (o + 44) 10)
       let v := if ty.val = 3 then q.2 else s
       ∃ g : Frame, g.bytes = m ∧ (ty.val = 3 → g.ptp.map (fun x => x.2) = some q.1) ∧ g.dest = .queue n.val ∧ g.queue = 3 ∧ g.con = none ∧ (g.ptp.map (fun x => x.1)) = some ty.val ∧
       g.whole = true ∧ (g.ts = none ↔ 4 ≤ ty.val ∨ s.is .portPtpCfgOnestep n.val = true ∧ (ty.val = 0 ∨ ty.val = 3)) ∧
       let y := ((v.useFree.newFrame g).1.enterQueue s.ports.nextFrame n.val 3 g)
       exec (.ptpMessageSend n ty fr) s = .next (if y.2 = true then y.1 else y.1.discard s.ports.nextFrame))) ∧
    (s.memReach pf1 = false →
      exec (.jrnWrite q w slot data) s = .next (s.ur pf1) ∧
      exec (.jrnRead q w slot) s = .next (s.ur pf1) ∧
      exec (.jrnFlush q w slot) s = .next (s.ur pf1) ∧
      exec (.jrnAbort q w slot) s = .next (s.ur pf1)) ∧
    (s.memReach pf1 = true → 1 ≤ leAt slot 0 1 → leAt slot 0 1 ≤ 4 →
      (leAt slot 0 1 ≠ 1 → exec (.jrnWrite q w slot data) s = .next s) ∧
      (leAt slot 0 1 ≠ 2 → exec (.jrnRead q w slot) s = .next s) ∧
      (leAt slot 0 1 ≠ 3 → exec (.jrnFlush q w slot) s = .next s) ∧
      (leAt slot 0 1 ≠ 4 → exec (.jrnAbort q w slot) s = .next s)) ∧
    (s.memReach pf1 = true → s.jTag? q.val w.toNat = none → s.jBellOk q.val w = false →
      (leAt slot 0 1 = 1 → exec (.jrnWrite q w slot data) s = .next (s.bump .jrnQIgnIgnored q.val)) ∧
      (leAt slot 0 1 = 2 → exec (.jrnRead q w slot) s = .next (s.bump .jrnQIgnIgnored q.val)) ∧
      (leAt slot 0 1 = 3 → exec (.jrnFlush q w slot) s = .next (s.bump .jrnQIgnIgnored q.val)) ∧
      (leAt slot 0 1 = 4 → exec (.jrnAbort q w slot) s = .next (s.bump .jrnQIgnIgnored q.val))) ∧
    (s.memReach pf1 = true → s.jTag? q.val w.toNat = none → s.jBellOk q.val w = true →
      let k := s.jrn.nextSeq
      let c0 : JCmd := { q := q.val, tag := w.toNat, op := 0, flags := 0, first := 0, count := 0, slot := [] }
      let c := jCmdOf q.val w.toNat slot data
      let e := jCmdOf q.val w.toNat slot []
      let y := (s.jTake c0).1
      let a := y.jSlot q.val w.toNat
      let y1 := y.readHost pf1 a 64
      let t := y1.putJ k (some c)
      let v := y1.putJ k (some e)
      let noSlot := y.canReach pf1 a 64 = false ∨ slot.length ≠ 64
      let now := s.jFetches = true ∧ ∀ x ∈ s.jrn.cmds, x.1 < k → x.2.q = q.val → x.2.live = true → x.2.op ≠ 0
      let bad := s.jBad q.val w.toNat slot = true
      let far := (leAt slot 0 1 = 1 ∨ leAt slot 0 1 = 2) ∧ s.jBlocks < leAt slot 8 8 + leAt slot 4 4
      let waits := fun (x : State) => bitOf (x.get .jrnQStaOutstanding q.val) w.toNat = true ∧ x.jcmd? k = some c0 ∧
        x.jrn.nextSeq = k + 1 ∧ RegsBut [(.jrnQSta, q.val)] s x ∧ KeepsBut [.regs, .jrn] s x
      let ends := fun (x : State) => bitOf (x.get .jrnQStaOutstanding q.val) w.toNat = false ∧ x.jrn.cmds = [] ∧
        x.get .jrnQDoneDone q.val = (s.get .jrnQDoneDone q.val + 1) % 2 ^ 64 ∧ x.jUse q.val w.toNat = s.jUse q.val w.toNat + 1
      (s.jFetches = false →
        (leAt slot 0 1 = 1 → Completes (.jrnWrite q w slot data) s waits) ∧
      (leAt slot 0 1 = 2 → Completes (.jrnRead q w slot) s waits) ∧
      (leAt slot 0 1 = 3 → Completes (.jrnFlush q w slot) s waits) ∧
      (leAt slot 0 1 = 4 → Completes (.jrnAbort q w slot) s waits)) ∧
      (now → (noSlot ∨ bad ∨ far) → s.jrn.cmds = [] →
        (leAt slot 0 1 = 1 → Completes (.jrnWrite q w slot data) s ends) ∧
      (leAt slot 0 1 = 2 → Completes (.jrnRead q w slot) s ends) ∧
      (leAt slot 0 1 = 3 → Completes (.jrnFlush q w slot) s ends) ∧
      (leAt slot 0 1 = 4 → Completes (.jrnAbort q w slot) s ends)) ∧
      (now → ¬noSlot → ¬bad → ¬far →
        (leAt slot 0 1 = 1 → exec (.jrnWrite q w slot data) s = .next t.jSettle) ∧
        (leAt slot 0 1 = 1 → s.jrn.cmds = [] →
          let fetched := t.canReach pf1 (leAt slot 16 8) (4096 * leAt slot 4 4) = true ∧ 4096 * leAt slot 4 4 ≤ data.length
          (¬fetched → Completes (.jrnWrite q w slot data) s ends) ∧
          (fetched → Completes (.jrnWrite q w slot data) s (fun x =>
            x.jcmd? k = some { c with got := true } ∧ bitOf (x.get .jrnQStaOutstanding q.val) w.toNat = true ∧
            RegsBut [(.jrnQSta, q.val)] s x))) ∧
        (leAt slot 0 1 = 2 → exec (.jrnRead q w slot) s = .next v.jSettle) ∧
        (leAt slot 0 1 = 3 → exec (.jrnFlush q w slot) s = .next (v.putJ k (some (v.flushCover k e))).jSettle) ∧
        (leAt slot 0 1 = 4 →
          (v.jTag? q.val (leAt slot 3 1) = none → exec (.jrnAbort q w slot) s = .next ((v.jEnd k jsMissed 0 0).jSettle)) ∧
          (∀ i x, v.jTag? q.val (leAt slot 3 1) = some (i, x) →
            let caught := i ≠ k ∧ (x.moves = true ∧ x.started = false ∨ x.op = 3)
            (caught → exec (.jrnAbort q w slot) s = .next (((v.jEnd i jsAborted 0 0).jEnd k jsCaught 0 0).jSettle)) ∧
            (¬caught → exec (.jrnAbort q w slot) s = .next ((v.jEnd k jsMissed 0 0).jSettle)))))) ∧
    (s.jTag? q.val tag.val = none → exec (.jrnWriteStart q tag) s = .next s) ∧
    (∀ k c, s.jTag? q.val tag.val = some (k, c) →
      let may := c.op = 1 ∧ c.got = true ∧ c.started = false ∧ s.jWaits k c = false
      (¬may → exec (.jrnWriteStart q tag) s = .next s) ∧
      (may → Completes (.jrnWriteStart q tag) s (fun t => t = (s.startWrite k c).jSettle ∧
        (s.jrn.cmds = [(k, c)] → s.jPeers s.jBank = 0 → t.jrn.cmds = [] ∧ t.mem = (s.extWrite (s.jAddr c.first) c.data).mem ∧
          bitOf (t.get .jrnQStaOutstanding c.q) c.tag = false)))) ∧
    (let pick := fun (e : Nat × JCmd) => e.2.op == 1 && e.2.q == q.val && e.2.tag == tag.val && e.2.started && e.2.rep p.val == 1
     (s.jrn.cmds.find? pick = none → exec (.jrnReplicaSend q tag p) s = .next s) ∧
     (∀ k c, s.jrn.cmds.find? pick = some (k, c) → exec (.jrnReplicaSend q tag p) s = .next ((s.offerRep k p.val).jSettle))) ∧
    (s.peerSwapOk target true = false → Completes (.jrnPeerSwap target) s (fun t => t.get .jrnStaSwapRefused = 1 ∧
      RegsBut [(.jrnSta, 0)] s t ∧ KeepsBut [.regs] s t)) ∧
    (s.peerSwapOk target true = true → Completes (.jrnPeerSwap target) s (fun t => t.get .jrnStaSwapPending = 1 ∧
      t.get .jrnStaSwapRefused = 0 ∧ t.jrn.peerTarget = some target ∧ RegsBut [(.jrnSta, 0)] s t ∧ KeepsBut [.regs, .jrn] s t)) ∧
    (s.jrn.peerTarget = none → exec .peerSwapAt s = .next s) ∧
    (∀ a, s.jrn.peerTarget = some a → 0 ≤ ltDiff s.lt a → Completes .peerSwapAt s (fun t => t.jBank = 1 - s.jBank ∧
      t.get .jrnStaSwapPending = 0 ∧ t.jrn.peerTarget = none ∧ t.get .jrnPeerStaLost 0 = 0 ∧ t.get .jrnPeerStaLost 1 = 0 ∧
      (∀ e ∈ t.jrn.lost, e.1 / 2 ≠ 1 - s.jBank) ∧ t.jrn.cmds = s.jrn.cmds ∧ KeepsBut [.regs, .jrn, .zoa] s t)) ∧
    (s.get .jrnQStaState q.val ≠ 1 → exec (.jrnQDisable q) s = .next s) ∧
    (s.get .jrnQStaState q.val = 1 → Completes (.jrnQDisable q) s (fun t => t.get .jrnQCtlEn q.val = 0 ∧
      (s.jrn.cmds = [] → s.get .jrnQStaOutstanding q.val = 0 → t.get .jrnQStaState q.val = 0 ∧ t.blkState ⟨.jq, q.val⟩ = 1) ∧
      (s.jrn.cmds = [] → s.get .jrnQStaOutstanding q.val ≠ 0 → t.get .jrnQStaState q.val = 2)))

/-- The first BOOT_START reads the fuses' lifecycle, counts the power cycle, records POWER_ON, and lists the candidates or holds with its cause; the second copies part 0 in and starts the firmware, the third copies the other parts in, and a part that fails gives way to the next candidate; the fourth, once external memory is up, places the paged parts and applies the best bundle, or waits (log entry 164). A trained channel enters service. The gate opens when it may, and the held outputs go. A page whose two fetches fail its held hash is recorded and its control core waits, its ridges passing to another, until the part is copied in again (log entry 165). At the activation instant B2, slot and version change and the preferred slot is written, held, or left with a record. Recovery commands act only in an open window with their own low byte: refused in RETIRED, ignored during a commit; BEGIN, CHUNK, COMMIT and ABORT move the reception. -/
def Obligations.BootResults : Prop :=
  ∀ (ch : Fin 8) (speed ranks : Fin 4) (fast : Bool) (first second : Bytes) (v : BitVec 64) (page : PageNeed) (image : FlashImage) (s : State),
    (let st := s.get .secBootStaStage 0
     (st = 0 ∧ s.sec.good = false ∨ 3 < st) → exec .bootStart s = .next s) ∧
    (s.sec.good = true → s.get .secBootStaStage 0 = 0 →
      let u := s.setSec { s.sec with lifecycle := s.sec.fuses.lifecycle }
      let holds := fun (n : Nat) => Completes .bootStart s (fun t => t.get .secBootStaStage 0 = 6 ∧ t.get .secBootStaHold 0 = n ∧
        t.sec.lifecycle = s.sec.fuses.lifecycle ∧ t.sec.fw = s.sec.fw ∧ t.crest = s.crest ∧ t.blkSt = s.blkSt)
      let l := (u.validSlots 1 u.sec.verOr.preferred).map (fun x => (x.1, x.2.2))
      Completes .bootStart s (fun t => t.sec.lifecycle = s.sec.fuses.lifecycle ∧ t.sec.fuses = s.sec.fuses ∧
        t.cairn.pwrCyc = (if s.cairn.pwrCyc = 0xFFFFFFFF#32 then 0xFFFFFFFF#32 else s.cairn.pwrCyc + 1) ∧
        (∃ e ∈ t.cairn.raised, e.code = .powerOn) ∧ (s.supplyWarn = true → t.sec.held = s.sec.held ++ [.counterLog])) ∧
      (s.sec.fuses.lifecycle = 0 → holds 2) ∧
      (s.sec.fuses.lifecycle = 4 → holds 3) ∧
      (s.sec.fuses.lifecycle ≠ 0 → s.sec.fuses.lifecycle ≠ 4 → s.cairn.devs = [] → holds 4) ∧
      (s.sec.fuses.lifecycle ≠ 0 → s.sec.fuses.lifecycle ≠ 4 → s.cairn.devs ≠ [] → s.sec.copy = none →
        (l = [] → holds 1) ∧
        (l ≠ [] → Completes .bootStart s (fun t => t.get .secBootStaStage 0 = 1 ∧ t.sec.cands = l ∧ t.get .secBootStaFallback 0 = 0 ∧
          t.get .secBootStaHold 0 = 0 ∧ t.sec.copy = none ∧ t.crest = s.crest ∧ t.blkSt = s.blkSt)))) ∧
    (let rest := s.sec.cands.tail
     let next := fun (t : State) => t.sec.copy = none ∧ t.sec.cands = rest ∧ t.crest = s.crest ∧
       (rest = [] → t.get .secBootStaStage 0 = 6 ∧ t.get .secBootStaHold 0 = 1) ∧
       (rest ≠ [] → t.get .secBootStaStage 0 = 1 ∧ t.get .secBootStaFallback 0 = 1) ∧
       (s.sec.copy ≠ none → t.sec.fw = [] ∧ ∀ k, k < 8 → t.get .spurCcStaRidges k = 0 ∧ t.blkState ⟨.control, k⟩ ≠ 2)
     (s.get .secBootStaStage 0 = 1 →
       (s.candImage = none → Completes .bootStart s next) ∧
       (∀ f d m, s.candImage = some (f, d, m) →
         let c := FwCopy.take { slot := d, man := m } f 0
         (c = none → Completes .bootStart s next) ∧
         (∀ x, c = some x → Completes .bootStart s (fun t => t.get .secBootStaStage 0 = 2 ∧ t.get .secBootStaSlot 0 = d % 2 ∧
           t.get .secBootStaLocked 0 = 1 ∧ t.get .secVerFw 0 = m.version % 2 ^ 32 ∧ t.sec.fw = m.digest ∧ t.sec.copy = some x ∧
           t.crest = (if s.crest.running = true then s.crest else { s.crest with running := true, acc := 0, tick := 0, reps := [] }) ∧
           t.blkState ⟨.timeBase, 0⟩ = 2 ∧ t.blkState ⟨.control, 0⟩ = 2)))) ∧
     (s.get .secBootStaStage 0 = 2 →
       ((s.sec.copy = none ∨ s.candImage = none) → Completes .bootStart s next) ∧
       (∀ x f d m, s.sec.copy = some x → s.candImage = some (f, d, m) →
         let c := x.takeAll f ((List.range m.parts.length).drop 1)
         (c = none → Completes .bootStart s next) ∧
         (∀ y, c = some y → Completes .bootStart s (fun t => t.get .secBootStaStage 0 = 3 ∧ t.sec.copy = some y ∧ t.sec.cands = [] ∧
           RegsBut [(.secBootSta, 0)] s t ∧ KeepsBut [.regs, .sec] s t))))) ∧
    (s.get .secBootStaStage 0 = 3 → s.partsWait = true → exec .bootStart s = .next s) ∧
    (∀ x i b p, s.sec.copy = some x → x.staged = [(i, b)] → x.man.parts[i]? = some p →
      s.placeParts.mem.ext = Mem.setBytes s.mem.ext (x.addr p.off) b ∧ s.placeParts.sec.copy = some { x with staged := [] }) ∧
    (s.get .secBootStaStage 0 = 3 → s.partsWait = false →
      let v := s.placeParts
      let waits := fun (x : State) => { ((x.set .secBootStaBundle 0 2).set .secBootStaStage 0 4) with cairn := { x.cairn with loading := true } }
      (v.slotImage 0 2 = none → v.slotImage 1 2 = none → exec .bootStart s = .next (v.set .secBootStaStage 0 4)) ∧
      ((v.slotImage 0 2 ≠ none ∨ v.slotImage 1 2 ≠ none) →
        (v.validSlots 2 0 = [] → exec .bootStart s = .next (waits v)) ∧
        (∀ d f m l, v.validSlots 2 0 = (d, f, m) :: l → let x := v.applyBundle f m
          (x.2 = true → Completes .bootStart s (fun t => t.get .secBootStaStage 0 = 4 ∧ t.get .secBootStaBundle 0 = 1 ∧
            t.get .secBverBundle 0 = m.version % 2 ^ 32 ∧ t.sec.bundle = m.digest ∧ KeepsBut [.regs, .sec] x.1 t)) ∧
          (x.2 = false → exec .bootStart s = .next (waits (v.undoBundle x.1)))))) ∧
    (let c := ch.val
     let may := 2 ≤ s.get .secBootStaStage 0 ∧ s.get .secBootStaStage 0 ≠ 6 ∧ s.blkInc ⟨.memCh, c⟩ = 0 ∧ speed.val ≠ 0 ∧
       1 ≤ ranks.val ∧ ranks.val ≤ 2
     (¬may → exec (.memoryTrained ch speed ranks fast) s = .next s) ∧
     (may → Completes (.memoryTrained ch speed ranks fast) s (fun t => t.blkState ⟨.memCh, c⟩ = 2 ∧ t.blkInc ⟨.memCh, c⟩ = 1 ∧
       t.get .memChStaSpeed c = speed.val ∧ t.get .memChStaRanks c = ranks.val ∧
       (SMap.find t.mem.fast c = if fast = true then some () else none) ∧
       KeepsBut [.regs, .incs, .blkSt, .mem, .spur] s t))) ∧
    (let ready := s.get .secBootStaStage 0 = 4 ∧ s.get .secBootStaBundle 0 ≠ 2 ∧ s.gateOpen = false ∧ s.get .ciphStaErased 0 = 0 ∧
       s.back.tap ≠ .extest ∧ s.back.tap ≠ .debugPort
     (¬ready → exec .gateOpen s = .next s) ∧
     (s.gpioHighZ = true ↔ s.gateOpen = false) ∧
     (ready → ∃ u : State, exec .gateOpen s = .next u.goOn ∧ u.gateOpen = true ∧ u.get .secBootStaStage 0 = 5 ∧
       u.cairn = { s.cairn with loading := true } ∧ (∀ n, n < 256 → u.get .portStaGated n = 0) ∧
       (s.spur.epochs = [] → u.spur.epochs.map (fun e => (e.num, e.at_)) = [(0, s.lt)]) ∧
       (s.spur.epochs ≠ [] → u.spur = s.spur) ∧ u.freeCtr = s.freeCtr + 1)) ∧
    (s.sec.copy = none → exec (.pageFill page first second) s = .next s) ∧
    (∀ c, s.sec.copy = some c → c.page page.addr.toNat = none → exec (.pageFill page first second) s = .next s) ∧
    (∀ c i p off, s.sec.copy = some c → c.page page.addr.toNat = some (i, p, off) →
      let a := page.addr.toNat
      let n := min 4096 (p.off + p.len - off)
      let k := page.core.val
      let j := page.other.val
      (SMap.find c.pages off = none → exec (.pageFill page first second) s = .next s) ∧
      (∀ h, SMap.find c.pages off = some h →
        let good := s.pageGood a n h first = true ∨ s.pageGood a n h second = true
        let waits := s.sec.waits.any (fun e => e.2.part == i) = true
        (SMap.find c.staged i ≠ none → exec (.pageFill page first second) s = .next s) ∧
        (SMap.find c.staged i = none → waits → exec (.pageFill page first second) s = .next (s.reloadPart c i) ∧
          (∀ f x w, s.slotImage c.slot 1 = some f → sha384 (slotPart f p) = p.hash → s.sec.waits = [(x, w)] →
            Completes (.pageFill page first second) s (fun t => t.sec.waits = [] ∧
              t.mem.ext = Mem.setBytes s.mem.ext (c.addr p.off) (slotPart f p)))) ∧
        (SMap.find c.staged i = none → ¬waits → good → exec (.pageFill page first second) s = .next (s.extNote a n 8)) ∧
        (SMap.find c.staged i = none → ¬waits → ¬good → Completes (.pageFill page first second) s (fun t =>
          (∃ e ∈ t.cairn.raised, e.code = .pageHash ∧ e.blk = none ∧ e.data = sliceB (leBytes a 8) 0 32) ∧
          (s.blkState ⟨.control, k⟩ = 2 → (SMap.find t.sec.waits k).map (fun w => w.part) = some i) ∧
          (s.blkState ⟨.control, k⟩ = 2 → s.blkState ⟨.control, j⟩ = 2 → k ≠ j → SMap.find s.sec.waits j = none →
            s.get .spurCcStaRidges k ≠ 0 →
            t.get .spurCcStaRidges k = 0 ∧ t.get .spurCcStaRidges j = s.get .spurCcStaRidges j ||| s.get .spurCcStaRidges k) ∧
          KeepsBut [.regs, .cairn, .sec] s t)))) ∧
    (s.sec.act = none → exec .fwSwitch s = .next s) ∧
    (∀ a, s.sec.act = some a → let u := s.advanceTo (s.reg .secFwAt 0)
      Completes .fwSwitch s (fun t => t.sec.fw = a.digest ∧ t.sec.act = none ∧ t.sec.copy = some a.copy ∧ t.get .secBootStaSlot 0 = a.slot % 2 ∧
        t.get .secVerFw 0 = a.version % 2 ^ 32 ∧ t.get .secBootStaActPending 0 = 0 ∧ t.crest = u.crest ∧
        (u.supplyWarn = true → t.sec.held = u.sec.held ++ [.prefer a.slot] ∧ t.sec.flash = u.sec.flash) ∧
        (u.supplyWarn = false → u.sec.worn u.sec.nextSector = false →
          SMap.find t.sec.flash.sectors u.sec.nextSector = some { u.sec.verOr with preferred := a.slot }) ∧
        (u.supplyWarn = false → u.sec.worn u.sec.nextSector = true → t.sec.flash = u.sec.flash ∧
          ∃ e, t.cairn.raised = u.cairn.raised ++ [e] ∧ e.code = .version))) ∧
    (let r := s.sec.recov
     let opn := s.recovOpen = true
     let takes := fun (n : Nat) => bitsOf v.toNat 7 0 = n ∧ opn ∧ s.sec.lifecycle ≠ 4 ∧ r.st ≠ 2
     let now := fun (x : Recov) => { s with sec := { s.sec with recov := x } }
     (bitsOf v.toNat 7 0 ≠ 1 → exec (.recovBegin v) s = .next s) ∧
      (bitsOf v.toNat 7 0 = 1 → ¬opn → exec (.recovBegin v) s = .next (if s.memReach 0 = true then s else s.ur 0)) ∧
      (bitsOf v.toNat 7 0 = 1 → opn → s.sec.lifecycle = 4 → exec (.recovBegin v) s = .next (now { r with st := 3, status := 9 })) ∧
      (bitsOf v.toNat 7 0 = 1 → opn → s.sec.lifecycle ≠ 4 → r.st = 2 → exec (.recovBegin v) s = .next s) ∧
     (bitsOf v.toNat 7 0 ≠ 2 → exec (.recovChunk v) s = .next s) ∧
      (bitsOf v.toNat 7 0 = 2 → ¬opn → exec (.recovChunk v) s = .next (if s.memReach 0 = true then s else s.ur 0)) ∧
      (bitsOf v.toNat 7 0 = 2 → opn → s.sec.lifecycle = 4 → exec (.recovChunk v) s = .next (now { r with st := 3, status := 9 })) ∧
      (bitsOf v.toNat 7 0 = 2 → opn → s.sec.lifecycle ≠ 4 → r.st = 2 → exec (.recovChunk v) s = .next s) ∧
     (bitsOf v.toNat 7 0 ≠ 3 → exec (.recovCommit v image) s = .next s) ∧
      (bitsOf v.toNat 7 0 = 3 → ¬opn → exec (.recovCommit v image) s = .next (if s.memReach 0 = true then s else s.ur 0)) ∧
      (bitsOf v.toNat 7 0 = 3 → opn → s.sec.lifecycle = 4 → exec (.recovCommit v image) s = .next (now { r with st := 3, status := 9 })) ∧
      (bitsOf v.toNat 7 0 = 3 → opn → s.sec.lifecycle ≠ 4 → r.st = 2 → exec (.recovCommit v image) s = .next s) ∧
     (bitsOf v.toNat 7 0 ≠ 4 → exec (.recovAbort v) s = .next s) ∧
      (bitsOf v.toNat 7 0 = 4 → ¬opn → exec (.recovAbort v) s = .next (if s.memReach 0 = true then s else s.ur 0)) ∧
      (bitsOf v.toNat 7 0 = 4 → opn → s.sec.lifecycle = 4 → exec (.recovAbort v) s = .next (now { r with st := 3, status := 9 })) ∧
      (bitsOf v.toNat 7 0 = 4 → opn → s.sec.lifecycle ≠ 4 → r.st = 2 → exec (.recovAbort v) s = .next s) ∧
     (takes 1 → exec (.recovBegin v) s = .next (now { st := 1, slot := bitsOf v.toNat 8 8, total := bitsOf v.toNat 63 32 })) ∧
     (takes 2 → let n := bitsOf v.toNat 63 32
       (r.st = 1 ∧ n ≤ 131072 ∧ r.next + n ≤ r.total → exec (.recovChunk v) s = .next (now { r with next := r.next + n })) ∧
       (¬(r.st = 1 ∧ n ≤ 131072 ∧ r.next + n ≤ r.total) → exec (.recovChunk v) s = .next s)) ∧
     (takes 3 → (r.st ≠ 1 ∨ r.next ≠ r.total) → exec (.recovCommit v image) s = .next s) ∧
     (takes 3 → r.st = 1 → r.next = r.total →
       let code := s.imageCode 1 (min r.total (s.slotCap r.slot 1)) image
       (s.supplyWarn = true → exec (.recovCommit v image) s = .next
         { s with sec := { s.sec with held := s.sec.held ++ [.recovCommit image], recov := { r with st := 2 } } }) ∧
       (s.supplyWarn = false → s.cairn.flashPresent.getD r.slot false = false →
         exec (.recovCommit v image) s = .next (now { r with st := 3, status := 1 })) ∧
       (s.supplyWarn = false → s.cairn.flashPresent.getD r.slot false = true → code ≠ 0 → Completes (.recovCommit v image) s (fun t =>
         t.sec.recov = { r with st := 3, status := code } ∧ t.validSlot 1 r.slot = none ∧
         KeepsBut [.sec] s t)) ∧
       (s.supplyWarn = false → s.cairn.flashPresent.getD r.slot false = true → code = 0 → Completes (.recovCommit v image) s (fun t =>
         t.sec.recov = { r with st := 0, status := 0 } ∧ t.slotImage r.slot 1 = some image ∧
         (t.get .secBootStaStage 0 = 1 ∨ t.get .secBootStaStage 0 = 6)))) ∧
     (takes 4 → exec (.recovAbort v) s = .next (now { r with st := 0, next := 0 })))

/-- Another function than PF0 is DENIED; while a command's work is held the answer is BUSY. Each command's checks answer in order, with their detail codes; the counter at its end is also recorded. What passes is held while a supply warning keeps it, else done: a slot programmed with an image or left invalid; an activation pending; the counter and a minimum raised; a key revoked; an owner key programmed; the lifecycle advanced, in force at the next power-on reset; a new receipt pair; a certificate chain read; a bundle applied, or undone. An authorised command makes SEC_NONCE fresh, accepted or refused. An authorisation's two signatures are computed over the code, the body without it, SEC_NONCE and the identity key digest; `b` is the whole body, its authorisation included. -/
def Obligations.SecurityCommandResults : Prop :=
  ∀ (f : Fn) (seq : BitVec 32) (b c a : Bytes) (im : FlashImage) (s : State), b = c ++ a →
    let on := fun (cmd : Nat) => s.setBox f.val { s.box f.val with accepted := seq, pending := true, cmd := cmd }
    let d := leAt b 0 1
    let k := leAt b 1 1
    let warn := s.supplyWarn
    let blow := s.supplyWarn || bitOf (s.get .sysSupplyStaWarn 0) 8
    let told := fun (t : State) (cmd st e : Nat) (r : Bytes) => (t.box 0).pending = false ∧
      (t.box 0).reply = leBytes cmd 2 ++ leBytes st 1 ++ leBytes e 1 ++ leBytes r.length 4 ++ r
    let auth := fun (code n i : Nat) (cls : Nat → Prop) =>
      (∃ j, j < 8 ∧ cls j ∧ s.sec.fuses.live j = some (sha384 (sliceB b i 560))) ∧
      pairVerify (sliceB b i 512) (sliceB b (i + 512) 48) (0x0A#8 :: beBytes code 2 ++ b.take n ++ beBytes (s.reg .secNonce 0).toNat 8 ++
        pairDigest none) (sliceB b (i + 560) 384) (sliceB b (i + 944) 16224) = true
    let ours := fun (j : Nat) => if s.sec.lifecycle = 2 then 4 ≤ j else j < 4
    let free := ∀ w ∈ s.sec.held, w.isCmd = false
    ((s.memReach f.val = true ∧ f.val ≠ 128 ∧ (s.box f.val).pending = false ∧ seq = (s.box f.val).replied + 1 ∧ s.boxBusy f.val = false) → f.val ≠ 0 →
      exec (.imageStage f seq b im) s = .next ((on 0x30).reply f.val 0x30 2 0 []) ∧
      exec (.fwActivate f seq b) s = .next ((on 0x31).reply f.val 0x31 2 0 []) ∧
      exec (.versionRaise f seq c a) s = .next ((on 0x32).reply f.val 0x32 2 0 []) ∧
      exec (.keyRevoke f seq c a) s = .next ((on 0x33).reply f.val 0x33 2 0 []) ∧
      exec (.ownerAdd f seq c a) s = .next ((on 0x34).reply f.val 0x34 2 0 []) ∧
      exec (.lifecycle f seq c a) s = .next ((on 0x35).reply f.val 0x35 2 0 []) ∧
      exec (.receiptRotate f seq) s = .next ((on 0x36).reply f.val 0x36 2 0 []) ∧
      exec (.certRead f seq b) s = .next ((on 0x37).reply f.val 0x37 2 0 []) ∧
      exec (.bundleLoad f seq b im) s = .next ((on 0x38).reply f.val 0x38 2 0 [])) ∧
    ((s.memReach f.val = true ∧ f.val ≠ 128 ∧ (s.box f.val).pending = false ∧ seq = (s.box f.val).replied + 1 ∧ s.boxBusy f.val = false) → f.val = 0 → ¬free →
      exec (.imageStage f seq b im) s = .next ((on 0x30).secReply 0 0x30 3 0 []) ∧
      exec (.fwActivate f seq b) s = .next ((on 0x31).secReply 0 0x31 3 0 []) ∧
      exec (.versionRaise f seq c a) s = .next ((on 0x32).secReply 0 0x32 3 0 []) ∧
      exec (.keyRevoke f seq c a) s = .next ((on 0x33).secReply 0 0x33 3 0 []) ∧
      exec (.ownerAdd f seq c a) s = .next ((on 0x34).secReply 0 0x34 3 0 []) ∧
      exec (.lifecycle f seq c a) s = .next ((on 0x35).secReply 0 0x35 3 0 []) ∧
      exec (.receiptRotate f seq) s = .next ((on 0x36).secReply 0 0x36 3 0 []) ∧
      exec (.certRead f seq b) s = .next ((on 0x37).secReply 0 0x37 3 0 []) ∧
      exec (.bundleLoad f seq b im) s = .next ((on 0x38).secReply 0 0x38 3 0 [])) ∧
    ((s.memReach f.val = true ∧ f.val ≠ 128 ∧ (s.box f.val).pending = false ∧ seq = (s.box f.val).replied + 1 ∧ s.boxBusy f.val = false) → f.val = 0 → ∀ cmd st e r, let u := on cmd
      (50 ≤ cmd → cmd ≤ 53 → (st = 0 ∨ st = 6) → (u.secReply 0 cmd st e r).reg .secNonce 0 = s.free) ∧
      ((cmd < 50 ∨ 53 < cmd ∨ (st ≠ 0 ∧ st ≠ 6)) → u.secReply 0 cmd st e r = u.reply 0 cmd st e r)) ∧
    ((s.memReach f.val = true ∧ f.val ≠ 128 ∧ (s.box f.val).pending = false ∧ seq = (s.box f.val).replied + 1 ∧ s.boxBusy f.val = false) → f.val = 0 → free →
      (let good := b.length = 24 ∧ d ≤ 1 ∧ 1 ≤ k ∧ k ≤ 2 ∧ zeroAt b 2 6 = true ∧ leAt b 16 8 ≤ s.slotCap d k
       let runs := d = s.get .secBootStaSlot 0
       let here := s.cairn.flashPresent.getD d false = true
       let code := s.imageCode k (min (leAt b 16 8) (s.slotCap d k)) im
       (¬good → exec (.imageStage f seq b im) s = .next ((on 0x30).secReply 0 0x30 1 0 [])) ∧
       (good → runs → exec (.imageStage f seq b im) s = .next ((on 0x30).secReply 0 0x30 6 7 [])) ∧
       (good → ¬runs → ¬here → exec (.imageStage f seq b im) s = .next ((on 0x30).secReply 0 0x30 6 1 [])) ∧
       (good → ¬runs → here → warn = true → exec (.imageStage f seq b im) s = .next { on 0x30 with sec := { s.sec with held := s.sec.held ++ [.imageStage f b im] } }) ∧
       (good → ¬runs → here → code = 0 → warn = false → Completes (.imageStage f seq b im) s (fun t => t.slotImage d k = some im ∧ told t 0x30 0 0 [] ∧ t.sec.fuses = s.sec.fuses ∧ KeepsBut [.sec, .ten, .out, .host] s t)) ∧
       (good → ¬runs → here → code ≠ 0 → warn = false → Completes (.imageStage f seq b im) s (fun t => t.validSlot k d = none ∧ t.slotImage d k ≠ none ∧ told t 0x30 6 code [] ∧ KeepsBut [.sec, .ten, .out, .host] s t))) ∧
      (let good := b.length = 16 ∧ d ≤ 1 ∧ zeroAt b 1 7 = true
       let lead := ltDiff (BitVec.ofNat 64 (leAt b 8 8)) s.lt
       let soon := lead < 500000000 * 65536 ∨ 2 ^ 62 ≤ lead
       let may := good ∧ s.sec.act = none ∧ ¬soon
       (¬good → exec (.fwActivate f seq b) s = .next ((on 0x31).secReply 0 0x31 1 0 [])) ∧
       (good → s.sec.act ≠ none → exec (.fwActivate f seq b) s = .next ((on 0x31).secReply 0 0x31 3 0 [])) ∧
       (good → s.sec.act = none → soon → exec (.fwActivate f seq b) s = .next ((on 0x31).secReply 0 0x31 6 0 [])) ∧
       (may → s.slotImage d 1 = none → exec (.fwActivate f seq b) s = .next ((on 0x31).secReply 0 0x31 6 1 [])) ∧
       (∀ fi, may → s.slotImage d 1 = some fi → s.imageCode 1 (s.slotCap d 1) fi ≠ 0 →
         exec (.fwActivate f seq b) s = .next ((on 0x31).secReply 0 0x31 6 (s.imageCode 1 (s.slotCap d 1) fi) [])) ∧
       (∀ fi m, may → s.slotImage d 1 = some fi → s.imageCode 1 (s.slotCap d 1) fi = 0 → manifestOf fi (s.slotCap d 1) = some m →
         Completes (.fwActivate f seq b) s (fun t => t.sec = { s.sec with act := some { slot := d, digest := m.digest, version := m.version, copy := s.otherCopy d fi m } } ∧
           t.reg .secFwAt 0 = BitVec.ofNat 64 (leAt b 8 8) ∧ t.get .secBootStaActPending 0 = 1 ∧ told t 0x31 0 0 [] ∧
           RegsBut [(.secFwAt, 0), (.secBootSta, 0)] s t))) ∧
      (let v := leAt b 4 4
       let good := b.length = 17176 ∧ 1 ≤ d ∧ d ≤ 2 ∧ zeroAt b 1 3 = true
       let ok := auth 0x32 8 8 ours
       let low := v ≤ s.sec.minVer d ∨ s.slotAtLeast 0 d v = false ∨ s.slotAtLeast 1 d v = false
       (¬good → exec (.versionRaise f seq c a) s = .next ((on 0x32).secReply 0 0x32 1 0 [])) ∧
       (good → ¬ok → exec (.versionRaise f seq c a) s = .next ((on 0x32).secReply 0 0x32 6 8 [])) ∧
       (good → ok → low → exec (.versionRaise f seq c a) s = .next ((on 0x32).secReply 0 0x32 6 3 [])) ∧
       (good → ok → ¬low → s.sec.fuses.verCnt = 255 → exec (.versionRaise f seq c a) s =
         .next (((on 0x32).cairnRec .counterStuck none (leBytes 8 8)).secReply 0 0x32 6 6 [])) ∧
       (good → ok → ¬low → s.sec.fuses.verCnt ≠ 255 → blow = true → exec (.versionRaise f seq c a) s = .next { on 0x32 with sec := { s.sec with held := s.sec.held ++ [.versionRaise f b] } }) ∧
       (good → ok → ¬low → s.sec.fuses.verCnt ≠ 255 → blow = false → Completes (.versionRaise f seq c a) s (fun t => t.sec.fuses = { s.sec.fuses with verCnt := s.sec.fuses.verCnt + 1 } ∧ t.sec.minVer d = v ∧
         t.sec.minVer (3 - d) = s.sec.minVer (3 - d) ∧ t.reg .secNonce 0 = s.free ∧ told t 0x32 0 0 [] ∧
         ∃ e, t.cairn.raised = s.cairn.raised ++ [e] ∧ e.code = .version))) ∧
      (let good := b.length = 17176 ∧ d ≤ 7 ∧ zeroAt b 1 7 = true
       let ok := auth 0x33 8 8 (fun j => j ≠ d ∧ j / 4 = d / 4)
       let used := ∃ m ∈ s.installed, m.signer = d
       (¬good → exec (.keyRevoke f seq c a) s = .next ((on 0x33).secReply 0 0x33 1 0 [])) ∧
       (good → ¬ok → exec (.keyRevoke f seq c a) s = .next ((on 0x33).secReply 0 0x33 6 8 [])) ∧
       (good → ok → s.sec.fuses.live d = none → exec (.keyRevoke f seq c a) s = .next ((on 0x33).secReply 0 0x33 6 2 [])) ∧
       (good → ok → s.sec.fuses.live d ≠ none → used → exec (.keyRevoke f seq c a) s = .next ((on 0x33).secReply 0 0x33 6 5 [])) ∧
       (good → ok → s.sec.fuses.live d ≠ none → ¬used → blow = true → exec (.keyRevoke f seq c a) s = .next { on 0x33 with sec := { s.sec with held := s.sec.held ++ [.keyRevoke f b] } }) ∧
       (good → ok → s.sec.fuses.live d ≠ none → ¬used → blow = false → Completes (.keyRevoke f seq c a) s (fun t => t.sec = { s.sec with fuses := { s.sec.fuses with revoke := s.sec.fuses.revoke ||| 2 ^ d } } ∧
         t.sec.fuses.live d = none ∧ t.reg .secNonce 0 = s.free ∧ told t 0x33 0 0 []))) ∧
      (let good := b.length = 17736 ∧ 4 ≤ d ∧ d ≤ 7 ∧ zeroAt b 1 7 = true
       let life := s.sec.lifecycle = 1 ∨ s.sec.lifecycle = 2
       let ok := auth 0x34 568 568 ours
       let used := SMap.find s.sec.fuses.slots d ≠ none ∨ bitOf s.sec.fuses.revoke d = true
       (¬good → exec (.ownerAdd f seq c a) s = .next ((on 0x34).secReply 0 0x34 1 0 [])) ∧
       (good → ¬life → exec (.ownerAdd f seq c a) s = .next ((on 0x34).secReply 0 0x34 6 9 [])) ∧
       (good → life → ¬ok → exec (.ownerAdd f seq c a) s = .next ((on 0x34).secReply 0 0x34 6 8 [])) ∧
       (good → life → ok → used → exec (.ownerAdd f seq c a) s = .next ((on 0x34).secReply 0 0x34 6 2 [])) ∧
       (good → life → ok → ¬used → blow = true → exec (.ownerAdd f seq c a) s = .next { on 0x34 with sec := { s.sec with held := s.sec.held ++ [.ownerAdd f b] } }) ∧
       (good → life → ok → ¬used → blow = false → Completes (.ownerAdd f seq c a) s (fun t => SMap.find t.sec.fuses.slots d = some (sha384 (sliceB b 8 560)) ∧ t.sec.fuses.lifecycle = max s.sec.fuses.lifecycle 2 ∧
         t.sec.lifecycle = s.sec.lifecycle ∧ t.sec.flash.keyGen = s.sec.flash.keyGen + (if s.sec.fuses.lifecycle < 2 then 1 else 0) ∧
         t.reg .secNonce 0 = s.free ∧ told t 0x34 0 0 []))) ∧
      (let two := d = 3 ∧ s.sec.lifecycle = 2
       let good := 8 ≤ b.length ∧ d ≤ 4 ∧ zeroAt b 1 7 = true
       let next := 3 ≤ d ∧ s.sec.fuses.lifecycle < d
       let len := b.length = (if two then 34344 else 17176)
       let ok := if two then auth 0x35 8 8 (fun j => 4 ≤ j) ∧ auth 0x35 8 17176 (fun j => j < 4)
         else if d = 3 then auth 0x35 8 8 (fun j => j < 4) else auth 0x35 8 8 ours
       (¬good → exec (.lifecycle f seq c a) s = .next ((on 0x35).secReply 0 0x35 1 0 [])) ∧
       (good → ¬next → exec (.lifecycle f seq c a) s = .next ((on 0x35).secReply 0 0x35 6 9 [])) ∧
       (good → next → ¬len → exec (.lifecycle f seq c a) s = .next ((on 0x35).secReply 0 0x35 1 0 [])) ∧
       (good → next → len → ¬ok → exec (.lifecycle f seq c a) s = .next ((on 0x35).secReply 0 0x35 6 8 [])) ∧
       (good → next → len → ok → blow = true → exec (.lifecycle f seq c a) s = .next { on 0x35 with sec := { s.sec with held := s.sec.held ++ [.lifecycle f b] } }) ∧
       (good → next → len → ok → blow = false → Completes (.lifecycle f seq c a) s (fun t => t.sec.fuses = { s.sec.fuses with lifecycle := d } ∧ t.sec.lifecycle = s.sec.lifecycle ∧
         t.sec.flash.keyGen = s.sec.flash.keyGen + (if d = 3 then 1 else 0) ∧ t.reg .secNonce 0 = s.free ∧ told t 0x35 0 0 []))) ∧
      (let erased := s.signs = false
       (erased → exec (.receiptRotate f seq) s = .next ((on 0x36).secReply 0 0x36 3 0 [])) ∧
       (¬erased → warn = true → exec (.receiptRotate f seq) s = .next { on 0x36 with sec := { s.sec with held := s.sec.held ++ [.receiptRotate f] } }) ∧
       (¬erased → warn = false → Completes (.receiptRotate f seq) s (fun t => t.sec.flash.keyGen = s.sec.flash.keyGen + 1 ∧ t.sec.fuses = s.sec.fuses ∧ told t 0x36 0 0 [] ∧
         (s.is .ledRcptStaStarted = true → t.sec.newPair = true ∧ t.led = s.led) ∧
         (s.is .ledRcptStaStarted = false → t.sec.newPair = s.sec.newPair ∧ t.led = { s.led with keyGen := s.sec.flash.keyGen + 1 })))) ∧
      (let good := b.length = 8 ∧ d ≤ 3 ∧ zeroAt b 1 3 = true
       (¬good → exec (.certRead f seq b) s = .next ((on 0x37).secReply 0 0x37 1 0 [])) ∧
       (good → exec (.certRead f seq b) s = .next ((on 0x37).reply 0 0x37 0 0
         (((if d < 2 then Config.identChain d else Config.receiptChain s.led.keyGen (d - 2)).drop (leAt b 4 4)).take 2040)))) ∧
      (let u := on 0x38
       let len := leAt b 8 8
       let good := b.length = 16
       let due := s.get .secBootStaBundle 0 = 2
       let code := s.manifestCode 2 len im
       (¬good → exec (.bundleLoad f seq b im) s = .next ((on 0x38).secReply 0 0x38 1 0 [])) ∧
       (good → ¬due → exec (.bundleLoad f seq b im) s = .next ((on 0x38).secReply 0 0x38 5 0 [])) ∧
       (good → due → len = 0 → let v := u.set .secBootStaBundle 0 0
         exec (.bundleLoad f seq b im) s = .next ((if v.gateReady then v.openGate else v).reply 0 0x38 0 0 [])) ∧
       (good → due → len ≠ 0 → code ≠ 0 → exec (.bundleLoad f seq b im) s = .next ((on 0x38).secReply 0 0x38 6 code [])) ∧
       (∀ m, good → due → len ≠ 0 → code = 0 → manifestOf im len = some m →
         (partsMatch im m = false → exec (.bundleLoad f seq b im) s = .next (u.reply 0 0x38 6 4 [])) ∧
         (partsMatch im m = true → let x := u.applyBundle im m
           (x.2 = true → exec (.bundleLoad f seq b im) s = .next ((x.1.tookBundle m).reply 0 0x38 0 0 [])) ∧
           (x.2 = false → exec (.bundleLoad f seq b im) s = .next ((u.undoBundle x.1).reply 0 0x38 6 0 []))))))

/-- When the FIFO of capture block i holds v and then a list l of at most 15, a CREST_CAP_DATA_READ returns v and leaves l in the FIFO, its fill count now l's length; when the FIFO is empty it returns 0xFFFF_FFFF_FFFF_FFFF and removes nothing. Every other FIFO, every register but CREST_CAP_STA[i] and every other part of the state stay. That software reads fill first binds software, and is no clause of the model. -/
def Obligations.CaptureReads : Prop :=
  ∀ (i : Fin 5) (s : State),
    (∀ (v : BitVec 64) (l : List (BitVec 64)), s.caps i.val = v :: l → l.length < 16 →
      Completes (.crestCapDataRead i) s (fun t => t.readData = v ∧ t.caps i.val = l ∧ t.get .crestCapStaFill i.val = l.length ∧
        (∀ j, j ≠ i.val → t.caps j = s.caps j) ∧ RegsBut [(.crestCapSta, i.val)] s t ∧ KeepsBut [.regs, .crest, .readData] s t)) ∧
    (s.caps i.val = [] →
      Completes (.crestCapDataRead i) s (fun t => t.readData = 0xFFFFFFFFFFFFFFFF#64 ∧ t.caps i.val = [] ∧ KeepsBut [.readData] s t))

/-- For every kind of block and every index the kind has, the 64-bit reference the device forms holds the domain code in [63:60], the kind code in [59:52], the index in [51:32], zeros in [31:16] and the incarnation in [15:0]; and reading it back gives that block and that incarnation, so that no two blocks share a reference. -/
def Obligations.BlockReferenceLayout : Prop :=
  ∀ (b : Blk) (s : State), b.ix < b.kind.count →
    ((s.refOf b).extractLsb' 60 4).toNat = b.kind.dom ∧ ((s.refOf b).extractLsb' 52 8).toNat = b.kind.code ∧
    ((s.refOf b).extractLsb' 32 20).toNat = b.ix ∧ (s.refOf b).extractLsb' 16 16 = 0 ∧
    ((s.refOf b).extractLsb' 0 16).toNat = s.blkInc b ∧
    refBlk (s.refOf b) = some b ∧ refInc (s.refOf b) = s.blkInc b

/-- Whatever command a step runs and whatever the state: the lifecycle code does not fall, a revoke bit once set stays set, the debug lock stays, the version counter does not fall, and every 1 bit of a programmed key slot stays 1. Power-on resets included. -/
def Obligations.FusesNeverCleared : Prop :=
  ∀ s t : State, step s = .next t →
    s.sec.fuses.lifecycle ≤ t.sec.fuses.lifecycle ∧
    (∀ k, bitOf s.sec.fuses.revoke k = true → bitOf t.sec.fuses.revoke k = true) ∧
    (s.sec.fuses.debugLock = true → t.sec.fuses.debugLock = true) ∧
    s.sec.fuses.verCnt ≤ t.sec.fuses.verCnt ∧
    (∀ (k : Nat) (a : Bytes), SMap.find s.sec.fuses.slots k = some a →
      ∃ b : Bytes, SMap.find t.sec.fuses.slots k = some b ∧ a.length ≤ b.length ∧
        ∀ i, i < a.length → a.getD i 0 &&& b.getD i 0 = a.getD i 0)

/-- For every state whose external, scratch and shared memories list addresses strictly rising and no byte equal to what an unlisted address reads as, the same holds after any step, whatever command is at the front and also when the queue is empty. That an unlisted byte reads 0 is the model's choice, log entry 3. -/
def Obligations.MemoryFormKept : Prop :=
  ∀ s t : State, Mem.wf s.mem.ext ∧ Mem.wf s.mem.scratch ∧ Mem.wf s.mem.shared → step s = .next t →
    Mem.wf t.mem.ext ∧ Mem.wf t.mem.scratch ∧ Mem.wf t.mem.shared

/-- No command adds, removes or reorders waiting commands: whatever state exec answers has the queue it was given, so a step takes exactly the front of the queue and a run of n commands ends with the queue's rest. -/
def Obligations.CommandsQueueNothing : Prop :=
  (∀ (c : Instr) (s t : State), exec c s = .next t → t.pending = s.pending) ∧
  (∀ s t : State, step s = .next t → t.pending = s.pending.tail)

/-- Right after device power-on reset every register reads as stored the word its map gives, the queue is empty, the Crest does not run and LT is 0, servo bank 0 is active and the servo FREE, the boot output gate is closed, no block is enabled, and the memories are in canonical form. That memory reads 0 is the model's choice, log entry 3. -/
def Obligations.ResetState : Prop :=
  (∀ (r : RegName) (i : Nat), State.reset.reg r i = r.resetWord i) ∧
  State.reset.pending = [] ∧ State.reset.crest.running = false ∧ State.reset.lt = 0 ∧
  State.reset.crest.state = .free ∧ State.reset.srvBank = 0 ∧ State.reset.gateOpen = false ∧
  (∀ b : Blk, State.reset.blkState b = 1) ∧
  Mem.wf State.reset.mem.ext ∧ Mem.wf State.reset.mem.scratch ∧ Mem.wf State.reset.mem.shared ∧
  (∀ (p : MemAt), Mem.byte (State.reset.memOf p) p.addr = 0)

end
end

