-- ==== Sys2Proof/Laws/Frame.lean ====
section
/-! SUPPORT. Frames: the part of a state that a set of parts selects, and that a change of the other parts leaves it as it is.  Every
later frame lemma says of one operation which parts it may change. -/

namespace Sys2Proof.Machine

/-- A state with every part not selected by `k` put to its default. -/
def State.mask (k : StatePart → Bool) (s : State) : State where
  pending := if k .pending then s.pending else []
  regs := if k .regs then s.regs else []
  incs := if k .incs then s.incs else []
  blkSt := if k .blkSt then s.blkSt else []
  upd := if k .upd then s.upd else []
  tmr := if k .tmr then s.tmr else []
  crest := if k .crest then s.crest else {}
  ptp := if k .ptp then s.ptp else {}
  ports := if k .ports then s.ports else {}
  ing := if k .ing then s.ing else {}
  spur := if k .spur then s.spur else {}
  con := if k .con then s.con else {}
  tm := if k .tm then s.tm else {}
  led := if k .led then s.led else {}
  ten := if k .ten then s.ten else {}
  zoa := if k .zoa then s.zoa else {}
  jrn := if k .jrn then s.jrn else {}
  ciph := if k .ciph then s.ciph else {}
  host := if k .host then s.host else {}
  rings := if k .rings then s.rings else []
  mem := if k .mem then s.mem else {}
  cairn := if k .cairn then s.cairn else {}
  sec := { (if k .sec then s.sec else {}) with fuses := if k .fuses then s.sec.fuses else {} }
  back := if k .back then s.back else {}
  offAt := if k .offAt then s.offAt else []
  out := if k .out then s.out else []
  readData := if k .readData then s.readData else 0
  freeCtr := if k .freeCtr then s.freeCtr else 0

/-- States that agree in every selected part have the same mask. -/
theorem State.mask_of_agree {k : StatePart → Bool} {s t : State} (h : ∀ p, k p = true → s.agree t p) : t.mask k = s.mask k := by
  have h_pending := h .pending
  have h_regs := h .regs
  have h_incs := h .incs
  have h_blkSt := h .blkSt
  have h_upd := h .upd
  have h_tmr := h .tmr
  have h_crest := h .crest
  have h_ptp := h .ptp
  have h_ports := h .ports
  have h_ing := h .ing
  have h_spur := h .spur
  have h_con := h .con
  have h_tm := h .tm
  have h_led := h .led
  have h_ten := h .ten
  have h_zoa := h .zoa
  have h_jrn := h .jrn
  have h_ciph := h .ciph
  have h_host := h .host
  have h_rings := h .rings
  have h_mem := h .mem
  have h_cairn := h .cairn
  have h_sec := h .sec
  have h_back := h .back
  have h_offAt := h .offAt
  have h_out := h .out
  have h_readData := h .readData
  have h_freeCtr := h .freeCtr
  have h_fuses := h .fuses
  simp only [State.agree] at h_pending h_regs h_incs h_blkSt h_upd h_tmr h_crest h_ptp h_ports h_ing h_spur h_con h_tm h_led h_ten h_zoa h_jrn h_ciph h_host h_rings h_mem h_cairn h_sec h_back h_offAt h_out h_readData h_freeCtr h_fuses
  unfold State.mask
  congr 1
  · cases hk : k .pending <;> simp [h_pending, hk]
  · cases hk : k .regs <;> simp [h_regs, hk]
  · cases hk : k .incs <;> simp [h_incs, hk]
  · cases hk : k .blkSt <;> simp [h_blkSt, hk]
  · cases hk : k .upd <;> simp [h_upd, hk]
  · cases hk : k .tmr <;> simp [h_tmr, hk]
  · cases hk : k .crest <;> simp [h_crest, hk]
  · cases hk : k .ptp <;> simp [h_ptp, hk]
  · cases hk : k .ports <;> simp [h_ports, hk]
  · cases hk : k .ing <;> simp [h_ing, hk]
  · cases hk : k .spur <;> simp [h_spur, hk]
  · cases hk : k .con <;> simp [h_con, hk]
  · cases hk : k .tm <;> simp [h_tm, hk]
  · cases hk : k .led <;> simp [h_led, hk]
  · cases hk : k .ten <;> simp [h_ten, hk]
  · cases hk : k .zoa <;> simp [h_zoa, hk]
  · cases hk : k .jrn <;> simp [h_jrn, hk]
  · cases hk : k .ciph <;> simp [h_ciph, hk]
  · cases hk : k .host <;> simp [h_host, hk]
  · cases hk : k .rings <;> simp [h_rings, hk]
  · cases hk : k .mem <;> simp [h_mem, hk]
  · cases hk : k .cairn <;> simp [h_cairn, hk]
  · cases hs : k .sec <;> cases hf : k .fuses
    · simp
    · simp [h_fuses hf]
    · have := h_sec hs; simp only [if_true]; rw [← this]; simp
    · have := h_sec hs; rw [← h_fuses hf] at this; simp only [if_true]; rw [← this]
  · cases hk : k .back <;> simp [h_back, hk]
  · cases hk : k .offAt <;> simp [h_offAt, hk]
  · cases hk : k .out <;> simp [h_out, hk]
  · cases hk : k .readData <;> simp [h_readData, hk]
  · cases hk : k .freeCtr <;> simp [h_freeCtr, hk]

/-- The mask of a choice between two states. -/
theorem State.mask_ite {k : StatePart → Bool} {c : Prop} [Decidable c] {a b : State} :
    State.mask k (if c then a else b) = if c then a.mask k else b.mask k := by split <;> rfl

/-- The mask after a run of operations each of which keeps it. -/
theorem State.mask_foldl {α : Type} {k : StatePart → Bool} {f : State → α → State} (h : ∀ s x, (f s x).mask k = s.mask k) (l : List α) :
    ∀ s : State, (l.foldl f s).mask k = s.mask k := by
  induction l with
  | nil => intro s; rfl
  | cons x t ih => intro s; rw [List.foldl_cons, ih, h]

/-- The mask of the state in a choice between two pairs. -/
theorem State.mask_fst_ite {α : Type} {k : StatePart → Bool} {c : Prop} [Decidable c] {a b : State × α} :
    State.mask k (if c then a else b).1 = if c then a.1.mask k else b.1.mask k := by split <;> rfl

theorem State.mask_snd_ite {α : Type} {k : StatePart → Bool} {c : Prop} [Decidable c] {a b : α × State} :
    State.mask k (if c then a else b).2 = if c then a.2.mask k else b.2.mask k := by split <;> rfl

/-- The mask after a run of operations that carry a state in a pair. -/
theorem State.mask_foldl_fst {α β : Type} {k : StatePart → Bool} {f : State × β → α → State × β}
    (h : ∀ s x, (f s x).1.mask k = s.1.mask k) (l : List α) : ∀ s : State × β, (l.foldl f s).1.mask k = s.1.mask k := by
  induction l with
  | nil => intro s; rfl
  | cons x t ih => intro s; rw [List.foldl_cons, ih, h]

/-- The next state of an outcome. -/
theorem outState_next (s t : State) : outState s (.next t) = t := rfl

/-- The outcome of a choice. -/
theorem outState_ite {c : Prop} [Decidable c] {s : State} {a b : Out} :
    outState s (if c then a else b) = if c then outState s a else outState s b := by split <;> rfl

theorem State.mask_mk_pending {k : StatePart → Bool} (h : k .pending = false) (s : State) (x) : State.mask k { s with pending := x } = s.mask k :=
  State.mask_of_agree (fun p hp => by cases p <;> first | rfl | (rw [h] at hp; cases hp))

theorem State.mask_mk_regs {k : StatePart → Bool} (h : k .regs = false) (s : State) (x) : State.mask k { s with regs := x } = s.mask k :=
  State.mask_of_agree (fun p hp => by cases p <;> first | rfl | (rw [h] at hp; cases hp))

theorem State.mask_mk_incs {k : StatePart → Bool} (h : k .incs = false) (s : State) (x) : State.mask k { s with incs := x } = s.mask k :=
  State.mask_of_agree (fun p hp => by cases p <;> first | rfl | (rw [h] at hp; cases hp))

theorem State.mask_mk_blkSt {k : StatePart → Bool} (h : k .blkSt = false) (s : State) (x) : State.mask k { s with blkSt := x } = s.mask k :=
  State.mask_of_agree (fun p hp => by cases p <;> first | rfl | (rw [h] at hp; cases hp))

theorem State.mask_mk_upd {k : StatePart → Bool} (h : k .upd = false) (s : State) (x) : State.mask k { s with upd := x } = s.mask k :=
  State.mask_of_agree (fun p hp => by cases p <;> first | rfl | (rw [h] at hp; cases hp))

theorem State.mask_mk_tmr {k : StatePart → Bool} (h : k .tmr = false) (s : State) (x) : State.mask k { s with tmr := x } = s.mask k :=
  State.mask_of_agree (fun p hp => by cases p <;> first | rfl | (rw [h] at hp; cases hp))

theorem State.mask_mk_crest {k : StatePart → Bool} (h : k .crest = false) (s : State) (x) : State.mask k { s with crest := x } = s.mask k :=
  State.mask_of_agree (fun p hp => by cases p <;> first | rfl | (rw [h] at hp; cases hp))

theorem State.mask_mk_ptp {k : StatePart → Bool} (h : k .ptp = false) (s : State) (x) : State.mask k { s with ptp := x } = s.mask k :=
  State.mask_of_agree (fun p hp => by cases p <;> first | rfl | (rw [h] at hp; cases hp))

theorem State.mask_mk_ports {k : StatePart → Bool} (h : k .ports = false) (s : State) (x) : State.mask k { s with ports := x } = s.mask k :=
  State.mask_of_agree (fun p hp => by cases p <;> first | rfl | (rw [h] at hp; cases hp))

theorem State.mask_mk_ing {k : StatePart → Bool} (h : k .ing = false) (s : State) (x) : State.mask k { s with ing := x } = s.mask k :=
  State.mask_of_agree (fun p hp => by cases p <;> first | rfl | (rw [h] at hp; cases hp))

theorem State.mask_mk_spur {k : StatePart → Bool} (h : k .spur = false) (s : State) (x) : State.mask k { s with spur := x } = s.mask k :=
  State.mask_of_agree (fun p hp => by cases p <;> first | rfl | (rw [h] at hp; cases hp))

theorem State.mask_mk_con {k : StatePart → Bool} (h : k .con = false) (s : State) (x) : State.mask k { s with con := x } = s.mask k :=
  State.mask_of_agree (fun p hp => by cases p <;> first | rfl | (rw [h] at hp; cases hp))

theorem State.mask_mk_tm {k : StatePart → Bool} (h : k .tm = false) (s : State) (x) : State.mask k { s with tm := x } = s.mask k :=
  State.mask_of_agree (fun p hp => by cases p <;> first | rfl | (rw [h] at hp; cases hp))

theorem State.mask_mk_led {k : StatePart → Bool} (h : k .led = false) (s : State) (x) : State.mask k { s with led := x } = s.mask k :=
  State.mask_of_agree (fun p hp => by cases p <;> first | rfl | (rw [h] at hp; cases hp))

theorem State.mask_mk_ten {k : StatePart → Bool} (h : k .ten = false) (s : State) (x) : State.mask k { s with ten := x } = s.mask k :=
  State.mask_of_agree (fun p hp => by cases p <;> first | rfl | (rw [h] at hp; cases hp))

theorem State.mask_mk_zoa {k : StatePart → Bool} (h : k .zoa = false) (s : State) (x) : State.mask k { s with zoa := x } = s.mask k :=
  State.mask_of_agree (fun p hp => by cases p <;> first | rfl | (rw [h] at hp; cases hp))

theorem State.mask_mk_jrn {k : StatePart → Bool} (h : k .jrn = false) (s : State) (x) : State.mask k { s with jrn := x } = s.mask k :=
  State.mask_of_agree (fun p hp => by cases p <;> first | rfl | (rw [h] at hp; cases hp))

theorem State.mask_mk_ciph {k : StatePart → Bool} (h : k .ciph = false) (s : State) (x) : State.mask k { s with ciph := x } = s.mask k :=
  State.mask_of_agree (fun p hp => by cases p <;> first | rfl | (rw [h] at hp; cases hp))

theorem State.mask_mk_host {k : StatePart → Bool} (h : k .host = false) (s : State) (x) : State.mask k { s with host := x } = s.mask k :=
  State.mask_of_agree (fun p hp => by cases p <;> first | rfl | (rw [h] at hp; cases hp))

theorem State.mask_mk_rings {k : StatePart → Bool} (h : k .rings = false) (s : State) (x) : State.mask k { s with rings := x } = s.mask k :=
  State.mask_of_agree (fun p hp => by cases p <;> first | rfl | (rw [h] at hp; cases hp))

theorem State.mask_mk_mem {k : StatePart → Bool} (h : k .mem = false) (s : State) (x) : State.mask k { s with mem := x } = s.mask k :=
  State.mask_of_agree (fun p hp => by cases p <;> first | rfl | (rw [h] at hp; cases hp))

theorem State.mask_mk_cairn {k : StatePart → Bool} (h : k .cairn = false) (s : State) (x) : State.mask k { s with cairn := x } = s.mask k :=
  State.mask_of_agree (fun p hp => by cases p <;> first | rfl | (rw [h] at hp; cases hp))

/-- A change of the security processor that leaves the fuses. -/
theorem State.mask_mk_sec {k : StatePart → Bool} (h : k .sec = false) (s : State) (x : Sec) (hf : x.fuses = s.sec.fuses) :
    State.mask k { s with sec := x } = s.mask k :=
  State.mask_of_agree (fun p hp => by cases p <;> first | rfl | (rw [h] at hp; cases hp) | exact hf)

/-- A change of the security processor and the fuses. -/
theorem State.mask_mk_fuses {k : StatePart → Bool} (h : k .sec = false) (hf : k .fuses = false) (s : State) (x : Sec) :
    State.mask k { s with sec := x } = s.mask k :=
  State.mask_of_agree (fun p hp => by cases p <;> first | rfl | (rw [h] at hp; cases hp) | (rw [hf] at hp; cases hp))

theorem State.mask_mk_back {k : StatePart → Bool} (h : k .back = false) (s : State) (x) : State.mask k { s with back := x } = s.mask k :=
  State.mask_of_agree (fun p hp => by cases p <;> first | rfl | (rw [h] at hp; cases hp))

theorem State.mask_mk_offAt {k : StatePart → Bool} (h : k .offAt = false) (s : State) (x) : State.mask k { s with offAt := x } = s.mask k :=
  State.mask_of_agree (fun p hp => by cases p <;> first | rfl | (rw [h] at hp; cases hp))

theorem State.mask_mk_out {k : StatePart → Bool} (h : k .out = false) (s : State) (x) : State.mask k { s with out := x } = s.mask k :=
  State.mask_of_agree (fun p hp => by cases p <;> first | rfl | (rw [h] at hp; cases hp))

theorem State.mask_mk_readData {k : StatePart → Bool} (h : k .readData = false) (s : State) (x) : State.mask k { s with readData := x } = s.mask k :=
  State.mask_of_agree (fun p hp => by cases p <;> first | rfl | (rw [h] at hp; cases hp))

theorem State.mask_mk_freeCtr {k : StatePart → Bool} (h : k .freeCtr = false) (s : State) (x) : State.mask k { s with freeCtr := x } = s.mask k :=
  State.mask_of_agree (fun p hp => by cases p <;> first | rfl | (rw [h] at hp; cases hp))

end Sys2Proof.Machine
end

