-- ==== Sys2Proof/Laws/Maps.lean ====
section
/-! SUPPORT. Sparse maps, memories and registers: reading after writing, and the canonical form. -/

namespace Sys2Proof.Machine

/-! ### Sparse maps -/

theorem SMap.find_del_self {α : Type} (m : SMap α) (k : Nat) : SMap.find (m.del k) k = none := by
  induction m with
  | nil => rfl
  | cons e t ih =>
    unfold SMap.del at *
    by_cases h : e.1 = k
    · simp [h, ih]
    · simp [h, SMap.find, ih]

theorem SMap.find_del_of_ne {α : Type} (m : SMap α) {k j : Nat} (h : j ≠ k) : SMap.find (m.del k) j = SMap.find m j := by
  induction m with
  | nil => rfl
  | cons e t ih =>
    unfold SMap.del at *
    by_cases hk : e.1 = k
    · have : ¬ k = j := fun h' => h h'.symm
      simp [hk, SMap.find, ih, this]
    · simp [hk, SMap.find, ih]

theorem SMap.find_ins_self {α : Type} (k : Nat) (a : α) (m : SMap α) (h : SMap.find m k = none) : SMap.find (SMap.ins k a m) k = some a := by
  induction m with
  | nil => simp [SMap.ins, SMap.find]
  | cons e t ih =>
    unfold SMap.ins
    by_cases hk : k < e.1
    · simp [hk, SMap.find]
    · by_cases he : e.1 = k
      · simp [SMap.find, he] at h
      · simp [SMap.find, he] at h
        simp [hk, SMap.find, he, ih h]

theorem SMap.find_ins_of_ne {α : Type} {k j : Nat} (a : α) (m : SMap α) (h : j ≠ k) : SMap.find (SMap.ins k a m) j = SMap.find m j := by
  have hkj : ¬ k = j := fun h' => h h'.symm
  induction m with
  | nil => simp [SMap.ins, SMap.find, hkj]
  | cons e t ih =>
    unfold SMap.ins
    by_cases hk : k < e.1
    · simp [hk, SMap.find, hkj]
    · simp [hk, SMap.find, ih]

/-- Reading the key just written. -/
@[simp] theorem SMap.find_put_self {α : Type} (m : SMap α) (k : Nat) (o : Option α) : SMap.find (SMap.put m k o) k = o := by
  cases o with
  | none => exact SMap.find_del_self m k
  | some a => exact SMap.find_ins_self k a _ (SMap.find_del_self m k)

/-- Reading another key. -/
theorem SMap.find_put_of_ne {α : Type} (m : SMap α) {k j : Nat} (o : Option α) (h : j ≠ k) : SMap.find (SMap.put m k o) j = SMap.find m j := by
  cases o with
  | none => exact SMap.find_del_of_ne m h
  | some a => exact (SMap.find_ins_of_ne a _ h).trans (SMap.find_del_of_ne m h)

/-- Reading the key just written where unlisted keys have a value. -/
@[simp] theorem SMap.getD_setD_self {α : Type} [DecidableEq α] (m : SMap α) (k : Nat) (a d : α) : SMap.getD (SMap.setD m k a d) k d = a := by
  unfold SMap.getD SMap.setD
  by_cases h : a = d <;> simp [h]

theorem SMap.getD_setD_of_ne {α : Type} [DecidableEq α] (m : SMap α) {k j : Nat} (a d d' : α) (h : j ≠ k) :
    SMap.getD (SMap.setD m k a d) j d' = SMap.getD m j d' := by
  unfold SMap.getD SMap.setD
  rw [SMap.find_put_of_ne m _ h]

theorem SMap.del_ins_self {α : Type} (k : Nat) (a : α) (m : SMap α) : (SMap.ins k a m).del k = m.del k := by
  induction m with
  | nil => simp [SMap.ins, SMap.del]
  | cons e t ih =>
    unfold SMap.ins
    by_cases hk : k < e.1
    · simp [hk, SMap.del]
    · simp only [hk, if_false]
      unfold SMap.del at *
      by_cases he : e.1 = k <;> simp [he, ih]

/-- A later write of a key replaces an earlier one. -/
@[simp] theorem SMap.put_put_self {α : Type} (m : SMap α) (k : Nat) (o o' : Option α) : SMap.put (SMap.put m k o) k o' = SMap.put m k o' := by
  have hd : SMap.del (SMap.put m k o) k = m.del k := by
    cases o with
    | none => simp [SMap.put, SMap.del]
    | some a => exact (SMap.del_ins_self k a _).trans (by simp [SMap.del])
  cases o' with
  | none => exact hd
  | some a => exact congrArg (SMap.ins k a) hd

theorem SMap.setD_setD_self {α : Type} [DecidableEq α] (m : SMap α) (k : Nat) (a b d : α) :
    SMap.setD (SMap.setD m k a d) k b d = SMap.setD m k b d := by
  unfold SMap.setD
  exact SMap.put_put_self m k _ _

/-! ### The canonical form -/

theorem SMap.sorted_del {α : Type} {m : SMap α} (h : SMap.Sorted m) (k : Nat) : SMap.Sorted (m.del k) := List.Pairwise.filter _ h

theorem SMap.mem_ins {α : Type} {k : Nat} {a : α} {e : Nat × α} {m : SMap α} (h : e ∈ SMap.ins k a m) : e = (k, a) ∨ e ∈ m := by
  induction m with
  | nil => simpa [SMap.ins] using h
  | cons x t ih =>
    unfold SMap.ins at h
    by_cases hk : k < x.1
    · simpa [hk] using h
    · simp only [hk, if_false, List.mem_cons] at h ⊢
      rcases h with h | h
      · exact .inr (.inl h)
      · rcases ih h with h | h
        · exact .inl h
        · exact .inr (.inr h)

theorem SMap.sorted_ins {α : Type} {m : SMap α} (h : SMap.Sorted m) (k : Nat) (a : α) (hk : ∀ e ∈ m, e.1 ≠ k) : SMap.Sorted (SMap.ins k a m) := by
  induction m with
  | nil => simp [SMap.ins]
  | cons x t ih =>
    unfold SMap.ins
    have hx := List.pairwise_cons.1 h
    by_cases hlt : k < x.1
    · simp only [hlt, if_true]
      refine List.pairwise_cons.2 ⟨?_, h⟩
      intro e he
      rcases List.mem_cons.1 he with he | he
      · rw [he]; exact hlt
      · exact Nat.lt_trans hlt (hx.1 e he)
    · simp only [hlt, if_false]
      refine List.pairwise_cons.2 ⟨?_, ih hx.2 (fun e he => hk e (List.mem_cons_of_mem _ he))⟩
      intro e he
      rcases SMap.mem_ins he with he | he
      · have := hk x (List.mem_cons_self)
        rw [he]; show x.1 < k; omega
      · exact hx.1 e he

/-- A write keeps keys rising. -/
theorem SMap.sorted_put {α : Type} {m : SMap α} (h : SMap.Sorted m) (k : Nat) (o : Option α) : SMap.Sorted (SMap.put m k o) := by
  cases o with
  | none => exact SMap.sorted_del h k
  | some a =>
    refine SMap.sorted_ins (SMap.sorted_del h k) k a ?_
    intro e he
    have := (List.mem_filter.1 he).2
    simpa using this

/-- A write keeps the form in which no pair holds the value of unlisted keys. -/
theorem SMap.noDefault_setD {α : Type} [DecidableEq α] {m : SMap α} {d : α} (h : SMap.NoDefault m d) (k : Nat) (a : α) :
    SMap.NoDefault (SMap.setD m k a d) d := by
  unfold SMap.setD
  by_cases had : a = d
  · simp only [had, if_true]
    intro e he
    exact h e (List.mem_filter.1 he).1
  · simp only [had, if_false]
    intro e he
    rcases SMap.mem_ins he with he | he
    · rw [he]; exact had
    · exact h e (List.mem_filter.1 he).1

/-- Writing a byte keeps a memory's canonical form. -/
theorem Mem.wf_setByte {m : Mem} (h : Mem.wf m) (a : Nat) (b : BitVec 8) : Mem.wf (Mem.setByte m a b) :=
  ⟨SMap.sorted_put h.1 a _, SMap.noDefault_setD h.2 a b⟩

/-- Writing bytes keeps a memory's canonical form. -/
theorem Mem.wf_setBytes {m : Mem} (h : Mem.wf m) (a : Nat) (d : Bytes) : Mem.wf (Mem.setBytes m a d) := by
  induction d generalizing m a with
  | nil => exact h
  | cons b t ih => exact ih (Mem.wf_setByte h a b) (a + 1)

/-- A byte just written. -/
@[simp] theorem Mem.byte_setByte_self (m : Mem) (a : Nat) (b : BitVec 8) : Mem.byte (Mem.setByte m a b) a = b := SMap.getD_setD_self m a b 0

/-- Every other byte. -/
theorem Mem.byte_setByte_of_ne (m : Mem) {a c : Nat} (b : BitVec 8) (h : c ≠ a) : Mem.byte (Mem.setByte m a b) c = Mem.byte m c :=
  SMap.getD_setD_of_ne m b 0 0 h

/-- Bytes outside a write read as before. -/
theorem Mem.byte_setBytes_of_out (m : Mem) (a : Nat) (d : Bytes) (c : Nat) (h : c < a ∨ a + d.length ≤ c) :
    Mem.byte (Mem.setBytes m a d) c = Mem.byte m c := by
  induction d generalizing m a with
  | nil => rfl
  | cons b t ih =>
    have hl : (b :: t).length = t.length + 1 := rfl
    show Mem.byte (Mem.setBytes (Mem.setByte m a b) (a + 1) t) c = _
    rw [ih (Mem.setByte m a b) (a + 1) (by omega), Mem.byte_setByte_of_ne m b (by omega)]

/-- A byte inside a write. -/
theorem Mem.byte_setBytes_in (m : Mem) (a : Nat) (d : Bytes) (j : Nat) (h : j < d.length) :
    Mem.byte (Mem.setBytes m a d) (a + j) = d[j] := by
  induction d generalizing m a j with
  | nil => exact absurd h (Nat.not_lt_zero j)
  | cons b t ih =>
    show Mem.byte (Mem.setBytes (Mem.setByte m a b) (a + 1) t) (a + j) = _
    cases j with
    | zero =>
      rw [Mem.byte_setBytes_of_out _ _ _ _ (by omega)]
      exact Mem.byte_setByte_self m a b
    | succ j =>
      have := ih (Mem.setByte m a b) (a + 1) j (by simpa using h)
      rw [show a + (j + 1) = a + 1 + j by omega, this]
      rfl

/-! ### Registers -/

theorem RegName.ctorIdx_lt (r : RegName) : r.ctorIdx < 512 := by cases r <;> decide

theorem RegName.ctorIdx_inj {r q : RegName} (h : r.ctorIdx = q.ctorIdx) : r = q := by
  rw [← RegName.ofNat_ctorIdx r, h, RegName.ofNat_ctorIdx]

/-- Instances of registers have keys of their own. -/
theorem regKey_inj {r q : RegName} {i j : Nat} (h : regKey r i = regKey q j) : r = q ∧ i = j := by
  unfold regKey at h
  have hr := RegName.ctorIdx_lt r
  have hq := RegName.ctorIdx_lt q
  exact ⟨RegName.ctorIdx_inj (by omega), by omega⟩

/-- A register just written. -/
@[simp] theorem State.reg_setReg_self (s : State) (r : RegName) (i : Nat) (v : BitVec 64) : (s.setReg r i v).reg r i = v :=
  SMap.getD_setD_self _ _ _ _

/-- Every other register. -/
theorem State.reg_setReg_of_ne (s : State) {r q : RegName} {i j : Nat} (v : BitVec 64) (h : q ≠ r ∨ j ≠ i) :
    (s.setReg r i v).reg q j = s.reg q j := by
  refine SMap.getD_setD_of_ne _ _ _ _ (fun hk => ?_)
  have := regKey_inj hk
  rcases h with h | h
  · exact h this.1
  · exact h this.2

theorem State.reg_setReg (s : State) (r q : RegName) (i j : Nat) (v : BitVec 64) :
    (s.setReg r i v).reg q j = if q = r ∧ j = i then v else s.reg q j := by
  by_cases h : q = r ∧ j = i
  · obtain ⟨rfl, rfl⟩ := h; simp
  · rw [if_neg h, State.reg_setReg_of_ne]
    by_cases h1 : q = r
    · exact .inr (fun h2 => h ⟨h1, h2⟩)
    · exact .inl h1

/-! ### Fields -/

/-- The bits of a register after a field is written. -/
theorem Fld.getLsbD_into (f : Fld) (w : BitVec 64) (v i : Nat) (hl : f.lo ≤ f.hi) (hi : i < 64) :
    (f.into w v).getLsbD i = if f.lo ≤ i ∧ i ≤ f.hi then v.testBit (i - f.lo) else w.getLsbD i := by
  unfold Fld.into
  simp only [BitVec.getLsbD_or, BitVec.getLsbD_and, BitVec.getLsbD_not, BitVec.getLsbD_ofNat, hi, decide_true, Bool.true_and,
    Nat.testBit_shiftLeft, Nat.testBit_two_pow_sub_one, Nat.testBit_mod_two_pow]
  have hw : f.width = f.hi + 1 - f.lo := rfl
  by_cases h1 : f.lo ≤ i
  · by_cases h2 : i ≤ f.hi
    · have : i - f.lo < f.width := by omega
      simp [h1, h2, this]
    · have : ¬ i - f.lo < f.width := by omega
      simp [h1, h2, this]
  · simp [h1]

/-- The bits of a field's value. -/
theorem Fld.testBit_of (f : Fld) (w : BitVec 64) (j : Nat) : (f.of w).testBit j = (decide (j < f.width) && w.getLsbD (f.lo + j)) := by
  unfold Fld.of
  rw [Nat.testBit_mod_two_pow, Nat.testBit_shiftRight]
  rfl

/-- A field just written holds the value modulo its width. -/
theorem Fld.of_into (f : Fld) (w : BitVec 64) (v : Nat) (hl : f.lo ≤ f.hi) (hh : f.hi < 64) : f.of (f.into w v) = v % 2 ^ f.width := by
  apply Nat.eq_of_testBit_eq
  intro j
  rw [Fld.testBit_of, Nat.testBit_mod_two_pow]
  have hw : f.width = f.hi + 1 - f.lo := rfl
  by_cases hj : j < f.width
  · rw [Fld.getLsbD_into f w v _ hl (by omega), if_pos (by omega), show f.lo + j - f.lo = j by omega]
  · simp [hj]

/-- A field beside the one written keeps its value. -/
theorem Fld.of_into_of_disjoint (f g : Fld) (w : BitVec 64) (v : Nat) (hl : f.lo ≤ f.hi) (hg : g.hi < 64)
    (hd : g.hi < f.lo ∨ f.hi < g.lo) : g.of (f.into w v) = g.of w := by
  apply Nat.eq_of_testBit_eq
  intro j
  rw [Fld.testBit_of, Fld.testBit_of]
  have hw : g.width = g.hi + 1 - g.lo := rfl
  by_cases hj : j < g.width
  · rw [Fld.getLsbD_into f w v _ hl (by omega), if_neg (by omega)]
  · simp [hj]

/-- The field just written. -/
theorem State.get_set_self (s : State) (f : Fld) (i v : Nat) (hl : f.lo ≤ f.hi) (hh : f.hi < 64) : (s.set f i v).get f i = v % 2 ^ f.width := by
  unfold State.get State.set
  rw [State.reg_setReg_self, Fld.of_into f _ v hl hh]

/-- A field of another register or instance. -/
theorem State.get_set_of_ne (s : State) {f g : Fld} {i j : Nat} (v : Nat) (h : g.reg ≠ f.reg ∨ j ≠ i) : (s.set f i v).get g j = s.get g j := by
  unfold State.get State.set
  rw [State.reg_setReg_of_ne s _ h]

/-- A field beside it in the same register. -/
theorem State.get_set_beside (s : State) {f g : Fld} {i : Nat} (v : Nat) (hr : g.reg = f.reg) (hl : f.lo ≤ f.hi) (hg : g.hi < 64)
    (hd : g.hi < f.lo ∨ f.hi < g.lo) : (s.set f i v).get g i = s.get g i := by
  unfold State.get State.set
  rw [hr, State.reg_setReg_self, Fld.of_into_of_disjoint f g _ v hl hg hd]

/-- A register of another name or instance than the field's. -/
theorem State.reg_set_of_ne (s : State) {f : Fld} {q : RegName} {i j : Nat} (v : Nat) (h : q ≠ f.reg ∨ j ≠ i) : (s.set f i v).reg q j = s.reg q j :=
  State.reg_setReg_of_ne s _ h

end Sys2Proof.Machine
end

