-- ==== Sys2Proof/Laws/Sign.lean ====
section
/-! SUPPORT. Lengths of the hashes and signatures of the device. -/

namespace Sys2Proof.Laws
open Sys2Proof.Machine

theorem length_wordBytes (w : BitVec 64) : (wordBytes w).length = 8 := by simp [wordBytes]

theorem length_shaRound (h : List (BitVec 64)) (k w : BitVec 64) (hl : h.length = 8) : (shaRound h k w).length = 8 := by
  match h, hl with
  | [_, _, _, _, _, _, _, _], _ => rfl

theorem length_shaRounds (ks m w h : List (BitVec 64)) (hl : h.length = 8) : (shaRounds ks m w h).length = 8 := by
  induction ks generalizing m w h with
  | nil => exact hl
  | cons k ks ih => exact ih _ _ _ (length_shaRound h _ _ hl)

theorem length_shaBlocks (n : Nat) (b : Bytes) (h : List (BitVec 64)) (hl : h.length = 8) : (shaBlocks n b h).length = 8 := by
  induction n generalizing b h with
  | zero => exact hl
  | succ n ih => exact ih _ _ (by simp [shaBlock, hl, length_shaRounds _ _ _ _ hl])

theorem length_sha512 (m : Bytes) : (sha512 m).length = 64 := by
  simp [sha512, shaWide, List.length_flatten, Function.comp_def, length_wordBytes, List.map_const', length_shaBlocks, sha512Init, wordsOf]

theorem length_slhT (seed : Bytes) (x : SlhAdr) (m : Bytes) : (slhT seed x m).length = 24 := by simp [slhT, length_sha512]

theorem length_sha256Round (h : List (BitVec 32)) (k w : BitVec 32) (hl : h.length = 8) : (sha256Round h k w).length = 8 := by
  match h, hl with
  | [_, _, _, _, _, _, _, _], _ => rfl

theorem length_sha256Rounds (ks m w h : List (BitVec 32)) (hl : h.length = 8) : (sha256Rounds ks m w h).length = 8 := by
  induction ks generalizing m w h with
  | nil => exact hl
  | cons k ks ih => exact ih _ _ _ (length_sha256Round h _ _ hl)

theorem length_sha256Blocks (n : Nat) (b : Bytes) (h : List (BitVec 32)) (hl : h.length = 8) : (sha256Blocks n b h).length = 8 := by
  induction n generalizing b h with
  | zero => exact hl
  | succ n ih => exact ih _ _ (by simp [hl, length_sha256Rounds _ _ _ _ hl])

theorem length_sha256 (m : Bytes) : (sha256 m).length = 32 := by
  simp [sha256, List.length_flatten, Function.comp_def, List.map_const', length_sha256Blocks, sha512Init, wordsOf]

theorem length_slhF (seed : Bytes) (x : SlhAdr) (m : Bytes) : (slhF seed x m).length = 24 := by simp [slhF, length_sha256]

theorem length_slhChain (seed : Bytes) (x : SlhAdr) (kp c i n : Nat) (m : Bytes) (hm : m.length = 24) :
    (slhChain seed x kp c i m n).length = 24 := by
  induction n generalizing i m with
  | zero => exact hm
  | succ n ih => exact ih _ _ (length_slhF _ _ _)

theorem length_slhSteps (m : Bytes) : (slhSteps m).length = 51 := by simp [slhSteps, slhDigits]

theorem length_flatMap_of {α : Type} (l : List α) (f : α → Bytes) (n : Nat) (h : ∀ a ∈ l, (f a).length = n) :
    (l.flatMap f).length = l.length * n := by
  induction l with
  | nil => simp
  | cons a l ih =>
    simp only [List.flatMap_cons, List.length_append, List.length_cons, h a (by simp), ih (fun b hb => h b (by simp [hb])), Nat.succ_mul]
    omega

theorem length_wotsSign (seed sk : Bytes) (x : SlhAdr) (kp : Nat) (m : Bytes) : (wotsSign seed sk x kp m).length = 1224 := by
  rw [wotsSign, length_flatMap_of _ _ 24]
  · simp [length_slhSteps]
  · exact fun p _ => length_slhChain _ _ _ _ _ _ _ (length_slhF _ _ _)

theorem length_xmssNode (seed sk : Bytes) (x : SlhAdr) (i z : Nat) : (xmssNode seed sk x i z).length = 24 := by
  cases z <;> exact length_slhT _ _ _

theorem length_xmssSign (par : SlhPar) (seed sk : Bytes) (x : SlhAdr) (i : Nat) (m : Bytes) :
    (xmssSign par seed sk x i m).length = 1224 + par.hp * 24 := by
  rw [xmssSign, List.length_append, length_wotsSign, length_flatMap_of _ _ 24 (fun _ _ => length_xmssNode _ _ _ _ _)]
  simp

theorem length_htSign (par : SlhPar) (seed sk : Bytes) (n l tree leaf : Nat) (m : Bytes) :
    (htSign par seed sk l tree leaf m n).length = n * (1224 + par.hp * 24) := by
  induction n generalizing l tree leaf m with
  | zero => simp [htSign]
  | succ n ih => simp only [htSign, List.length_append, length_xmssSign, ih, Nat.succ_mul]; omega

theorem length_forsNode (seed sk : Bytes) (x : SlhAdr) (kp i z : Nat) : (forsNode seed sk x kp i z).length = 24 := by
  cases z
  · exact length_slhF _ _ _
  · exact length_slhT _ _ _

theorem length_forsSign (par : SlhPar) (seed sk : Bytes) (x : SlhAdr) (kp : Nat) (md : Bytes) :
    (forsSign par seed sk x kp md).length = par.k * (24 + par.a * 24) := by
  rw [forsSign, length_flatMap_of _ _ (24 + par.a * 24)]
  · simp [slhDigits]
  · intro p _
    rw [List.length_append, forsSecret, length_slhF, length_flatMap_of _ _ 24 (fun _ _ => length_forsNode _ _ _ _ _ _)]
    simp

/-- An SLH-DSA signature's length follows from its parameters alone. -/
theorem length_slhSign (par : SlhPar) (k : Bytes × Bytes × Bytes) (fresh m : Bytes) :
    (slhSign par k fresh m).length = 24 + par.k * (24 + par.a * 24) + par.d * (1224 + par.hp * 24) := by
  simp only [slhSign, List.length_append, length_forsSign, length_htSign, List.length_take, hmac512, length_sha512]
  omega

theorem length_slhSignBy (key : Option Nat) (fresh m : Bytes) : (slhSignBy key fresh m).length = 35664 := by
  rw [slhSignBy, length_slhSign]; rfl

end Sys2Proof.Laws
end

