-- ==== Sys2Proof/Laws/State.lean ====
section
/-! SUPPORT. Each plain update of the state and each of its fields: which one the update changes, and that every other stays. -/

namespace Sys2Proof.Machine

/-! ### setReg -/

@[simp] theorem State.setReg_pending (s : State) (r : RegName) (i : Nat) (v : BitVec 64) : (s.setReg r i v).pending = s.pending := rfl
@[simp] theorem State.setReg_incs (s : State) (r : RegName) (i : Nat) (v : BitVec 64) : (s.setReg r i v).incs = s.incs := rfl
@[simp] theorem State.setReg_blkSt (s : State) (r : RegName) (i : Nat) (v : BitVec 64) : (s.setReg r i v).blkSt = s.blkSt := rfl
@[simp] theorem State.setReg_upd (s : State) (r : RegName) (i : Nat) (v : BitVec 64) : (s.setReg r i v).upd = s.upd := rfl
@[simp] theorem State.setReg_tmr (s : State) (r : RegName) (i : Nat) (v : BitVec 64) : (s.setReg r i v).tmr = s.tmr := rfl
@[simp] theorem State.setReg_crest (s : State) (r : RegName) (i : Nat) (v : BitVec 64) : (s.setReg r i v).crest = s.crest := rfl
@[simp] theorem State.setReg_ptp (s : State) (r : RegName) (i : Nat) (v : BitVec 64) : (s.setReg r i v).ptp = s.ptp := rfl
@[simp] theorem State.setReg_ports (s : State) (r : RegName) (i : Nat) (v : BitVec 64) : (s.setReg r i v).ports = s.ports := rfl
@[simp] theorem State.setReg_ing (s : State) (r : RegName) (i : Nat) (v : BitVec 64) : (s.setReg r i v).ing = s.ing := rfl
@[simp] theorem State.setReg_spur (s : State) (r : RegName) (i : Nat) (v : BitVec 64) : (s.setReg r i v).spur = s.spur := rfl
@[simp] theorem State.setReg_con (s : State) (r : RegName) (i : Nat) (v : BitVec 64) : (s.setReg r i v).con = s.con := rfl
@[simp] theorem State.setReg_tm (s : State) (r : RegName) (i : Nat) (v : BitVec 64) : (s.setReg r i v).tm = s.tm := rfl
@[simp] theorem State.setReg_led (s : State) (r : RegName) (i : Nat) (v : BitVec 64) : (s.setReg r i v).led = s.led := rfl
@[simp] theorem State.setReg_ten (s : State) (r : RegName) (i : Nat) (v : BitVec 64) : (s.setReg r i v).ten = s.ten := rfl
@[simp] theorem State.setReg_zoa (s : State) (r : RegName) (i : Nat) (v : BitVec 64) : (s.setReg r i v).zoa = s.zoa := rfl
@[simp] theorem State.setReg_jrn (s : State) (r : RegName) (i : Nat) (v : BitVec 64) : (s.setReg r i v).jrn = s.jrn := rfl
@[simp] theorem State.setReg_ciph (s : State) (r : RegName) (i : Nat) (v : BitVec 64) : (s.setReg r i v).ciph = s.ciph := rfl
@[simp] theorem State.setReg_host (s : State) (r : RegName) (i : Nat) (v : BitVec 64) : (s.setReg r i v).host = s.host := rfl
@[simp] theorem State.setReg_rings (s : State) (r : RegName) (i : Nat) (v : BitVec 64) : (s.setReg r i v).rings = s.rings := rfl
@[simp] theorem State.setReg_mem (s : State) (r : RegName) (i : Nat) (v : BitVec 64) : (s.setReg r i v).mem = s.mem := rfl
@[simp] theorem State.setReg_cairn (s : State) (r : RegName) (i : Nat) (v : BitVec 64) : (s.setReg r i v).cairn = s.cairn := rfl
@[simp] theorem State.setReg_sec (s : State) (r : RegName) (i : Nat) (v : BitVec 64) : (s.setReg r i v).sec = s.sec := rfl
@[simp] theorem State.setReg_back (s : State) (r : RegName) (i : Nat) (v : BitVec 64) : (s.setReg r i v).back = s.back := rfl
@[simp] theorem State.setReg_offAt (s : State) (r : RegName) (i : Nat) (v : BitVec 64) : (s.setReg r i v).offAt = s.offAt := rfl
@[simp] theorem State.setReg_out (s : State) (r : RegName) (i : Nat) (v : BitVec 64) : (s.setReg r i v).out = s.out := rfl
@[simp] theorem State.setReg_readData (s : State) (r : RegName) (i : Nat) (v : BitVec 64) : (s.setReg r i v).readData = s.readData := rfl
@[simp] theorem State.setReg_freeCtr (s : State) (r : RegName) (i : Nat) (v : BitVec 64) : (s.setReg r i v).freeCtr = s.freeCtr := rfl

/-! ### set -/

@[simp] theorem State.set_pending (s : State) (f : Fld) (i v : Nat) : (s.set f i v).pending = s.pending := rfl
@[simp] theorem State.set_incs (s : State) (f : Fld) (i v : Nat) : (s.set f i v).incs = s.incs := rfl
@[simp] theorem State.set_blkSt (s : State) (f : Fld) (i v : Nat) : (s.set f i v).blkSt = s.blkSt := rfl
@[simp] theorem State.set_upd (s : State) (f : Fld) (i v : Nat) : (s.set f i v).upd = s.upd := rfl
@[simp] theorem State.set_tmr (s : State) (f : Fld) (i v : Nat) : (s.set f i v).tmr = s.tmr := rfl
@[simp] theorem State.set_crest (s : State) (f : Fld) (i v : Nat) : (s.set f i v).crest = s.crest := rfl
@[simp] theorem State.set_ptp (s : State) (f : Fld) (i v : Nat) : (s.set f i v).ptp = s.ptp := rfl
@[simp] theorem State.set_ports (s : State) (f : Fld) (i v : Nat) : (s.set f i v).ports = s.ports := rfl
@[simp] theorem State.set_ing (s : State) (f : Fld) (i v : Nat) : (s.set f i v).ing = s.ing := rfl
@[simp] theorem State.set_spur (s : State) (f : Fld) (i v : Nat) : (s.set f i v).spur = s.spur := rfl
@[simp] theorem State.set_con (s : State) (f : Fld) (i v : Nat) : (s.set f i v).con = s.con := rfl
@[simp] theorem State.set_tm (s : State) (f : Fld) (i v : Nat) : (s.set f i v).tm = s.tm := rfl
@[simp] theorem State.set_led (s : State) (f : Fld) (i v : Nat) : (s.set f i v).led = s.led := rfl
@[simp] theorem State.set_ten (s : State) (f : Fld) (i v : Nat) : (s.set f i v).ten = s.ten := rfl
@[simp] theorem State.set_zoa (s : State) (f : Fld) (i v : Nat) : (s.set f i v).zoa = s.zoa := rfl
@[simp] theorem State.set_jrn (s : State) (f : Fld) (i v : Nat) : (s.set f i v).jrn = s.jrn := rfl
@[simp] theorem State.set_ciph (s : State) (f : Fld) (i v : Nat) : (s.set f i v).ciph = s.ciph := rfl
@[simp] theorem State.set_host (s : State) (f : Fld) (i v : Nat) : (s.set f i v).host = s.host := rfl
@[simp] theorem State.set_rings (s : State) (f : Fld) (i v : Nat) : (s.set f i v).rings = s.rings := rfl
@[simp] theorem State.set_mem (s : State) (f : Fld) (i v : Nat) : (s.set f i v).mem = s.mem := rfl
@[simp] theorem State.set_cairn (s : State) (f : Fld) (i v : Nat) : (s.set f i v).cairn = s.cairn := rfl
@[simp] theorem State.set_sec (s : State) (f : Fld) (i v : Nat) : (s.set f i v).sec = s.sec := rfl
@[simp] theorem State.set_back (s : State) (f : Fld) (i v : Nat) : (s.set f i v).back = s.back := rfl
@[simp] theorem State.set_offAt (s : State) (f : Fld) (i v : Nat) : (s.set f i v).offAt = s.offAt := rfl
@[simp] theorem State.set_out (s : State) (f : Fld) (i v : Nat) : (s.set f i v).out = s.out := rfl
@[simp] theorem State.set_readData (s : State) (f : Fld) (i v : Nat) : (s.set f i v).readData = s.readData := rfl
@[simp] theorem State.set_freeCtr (s : State) (f : Fld) (i v : Nat) : (s.set f i v).freeCtr = s.freeCtr := rfl

/-! ### bump -/

@[simp] theorem State.bump_pending (s : State) (f : Fld) (i n : Nat) : (s.bump f i n).pending = s.pending := rfl
@[simp] theorem State.bump_incs (s : State) (f : Fld) (i n : Nat) : (s.bump f i n).incs = s.incs := rfl
@[simp] theorem State.bump_blkSt (s : State) (f : Fld) (i n : Nat) : (s.bump f i n).blkSt = s.blkSt := rfl
@[simp] theorem State.bump_upd (s : State) (f : Fld) (i n : Nat) : (s.bump f i n).upd = s.upd := rfl
@[simp] theorem State.bump_tmr (s : State) (f : Fld) (i n : Nat) : (s.bump f i n).tmr = s.tmr := rfl
@[simp] theorem State.bump_crest (s : State) (f : Fld) (i n : Nat) : (s.bump f i n).crest = s.crest := rfl
@[simp] theorem State.bump_ptp (s : State) (f : Fld) (i n : Nat) : (s.bump f i n).ptp = s.ptp := rfl
@[simp] theorem State.bump_ports (s : State) (f : Fld) (i n : Nat) : (s.bump f i n).ports = s.ports := rfl
@[simp] theorem State.bump_ing (s : State) (f : Fld) (i n : Nat) : (s.bump f i n).ing = s.ing := rfl
@[simp] theorem State.bump_spur (s : State) (f : Fld) (i n : Nat) : (s.bump f i n).spur = s.spur := rfl
@[simp] theorem State.bump_con (s : State) (f : Fld) (i n : Nat) : (s.bump f i n).con = s.con := rfl
@[simp] theorem State.bump_tm (s : State) (f : Fld) (i n : Nat) : (s.bump f i n).tm = s.tm := rfl
@[simp] theorem State.bump_led (s : State) (f : Fld) (i n : Nat) : (s.bump f i n).led = s.led := rfl
@[simp] theorem State.bump_ten (s : State) (f : Fld) (i n : Nat) : (s.bump f i n).ten = s.ten := rfl
@[simp] theorem State.bump_zoa (s : State) (f : Fld) (i n : Nat) : (s.bump f i n).zoa = s.zoa := rfl
@[simp] theorem State.bump_jrn (s : State) (f : Fld) (i n : Nat) : (s.bump f i n).jrn = s.jrn := rfl
@[simp] theorem State.bump_ciph (s : State) (f : Fld) (i n : Nat) : (s.bump f i n).ciph = s.ciph := rfl
@[simp] theorem State.bump_host (s : State) (f : Fld) (i n : Nat) : (s.bump f i n).host = s.host := rfl
@[simp] theorem State.bump_rings (s : State) (f : Fld) (i n : Nat) : (s.bump f i n).rings = s.rings := rfl
@[simp] theorem State.bump_mem (s : State) (f : Fld) (i n : Nat) : (s.bump f i n).mem = s.mem := rfl
@[simp] theorem State.bump_cairn (s : State) (f : Fld) (i n : Nat) : (s.bump f i n).cairn = s.cairn := rfl
@[simp] theorem State.bump_sec (s : State) (f : Fld) (i n : Nat) : (s.bump f i n).sec = s.sec := rfl
@[simp] theorem State.bump_back (s : State) (f : Fld) (i n : Nat) : (s.bump f i n).back = s.back := rfl
@[simp] theorem State.bump_offAt (s : State) (f : Fld) (i n : Nat) : (s.bump f i n).offAt = s.offAt := rfl
@[simp] theorem State.bump_out (s : State) (f : Fld) (i n : Nat) : (s.bump f i n).out = s.out := rfl
@[simp] theorem State.bump_readData (s : State) (f : Fld) (i n : Nat) : (s.bump f i n).readData = s.readData := rfl
@[simp] theorem State.bump_freeCtr (s : State) (f : Fld) (i n : Nat) : (s.bump f i n).freeCtr = s.freeCtr := rfl

/-! ### setBlkState -/

@[simp] theorem State.setBlkState_pending (s : State) (b : Blk) (v : Nat) : (s.setBlkState b v).pending = s.pending := rfl
@[simp] theorem State.setBlkState_regs (s : State) (b : Blk) (v : Nat) : (s.setBlkState b v).regs = s.regs := rfl
@[simp] theorem State.setBlkState_incs (s : State) (b : Blk) (v : Nat) : (s.setBlkState b v).incs = s.incs := rfl
@[simp] theorem State.setBlkState_upd (s : State) (b : Blk) (v : Nat) : (s.setBlkState b v).upd = s.upd := rfl
@[simp] theorem State.setBlkState_tmr (s : State) (b : Blk) (v : Nat) : (s.setBlkState b v).tmr = s.tmr := rfl
@[simp] theorem State.setBlkState_crest (s : State) (b : Blk) (v : Nat) : (s.setBlkState b v).crest = s.crest := rfl
@[simp] theorem State.setBlkState_ptp (s : State) (b : Blk) (v : Nat) : (s.setBlkState b v).ptp = s.ptp := rfl
@[simp] theorem State.setBlkState_ports (s : State) (b : Blk) (v : Nat) : (s.setBlkState b v).ports = s.ports := rfl
@[simp] theorem State.setBlkState_ing (s : State) (b : Blk) (v : Nat) : (s.setBlkState b v).ing = s.ing := rfl
@[simp] theorem State.setBlkState_spur (s : State) (b : Blk) (v : Nat) : (s.setBlkState b v).spur = s.spur := rfl
@[simp] theorem State.setBlkState_con (s : State) (b : Blk) (v : Nat) : (s.setBlkState b v).con = s.con := rfl
@[simp] theorem State.setBlkState_tm (s : State) (b : Blk) (v : Nat) : (s.setBlkState b v).tm = s.tm := rfl
@[simp] theorem State.setBlkState_led (s : State) (b : Blk) (v : Nat) : (s.setBlkState b v).led = s.led := rfl
@[simp] theorem State.setBlkState_ten (s : State) (b : Blk) (v : Nat) : (s.setBlkState b v).ten = s.ten := rfl
@[simp] theorem State.setBlkState_zoa (s : State) (b : Blk) (v : Nat) : (s.setBlkState b v).zoa = s.zoa := rfl
@[simp] theorem State.setBlkState_jrn (s : State) (b : Blk) (v : Nat) : (s.setBlkState b v).jrn = s.jrn := rfl
@[simp] theorem State.setBlkState_ciph (s : State) (b : Blk) (v : Nat) : (s.setBlkState b v).ciph = s.ciph := rfl
@[simp] theorem State.setBlkState_host (s : State) (b : Blk) (v : Nat) : (s.setBlkState b v).host = s.host := rfl
@[simp] theorem State.setBlkState_rings (s : State) (b : Blk) (v : Nat) : (s.setBlkState b v).rings = s.rings := rfl
@[simp] theorem State.setBlkState_mem (s : State) (b : Blk) (v : Nat) : (s.setBlkState b v).mem = s.mem := rfl
@[simp] theorem State.setBlkState_cairn (s : State) (b : Blk) (v : Nat) : (s.setBlkState b v).cairn = s.cairn := rfl
@[simp] theorem State.setBlkState_sec (s : State) (b : Blk) (v : Nat) : (s.setBlkState b v).sec = s.sec := rfl
@[simp] theorem State.setBlkState_back (s : State) (b : Blk) (v : Nat) : (s.setBlkState b v).back = s.back := rfl
@[simp] theorem State.setBlkState_offAt (s : State) (b : Blk) (v : Nat) : (s.setBlkState b v).offAt = s.offAt := rfl
@[simp] theorem State.setBlkState_out (s : State) (b : Blk) (v : Nat) : (s.setBlkState b v).out = s.out := rfl
@[simp] theorem State.setBlkState_readData (s : State) (b : Blk) (v : Nat) : (s.setBlkState b v).readData = s.readData := rfl
@[simp] theorem State.setBlkState_freeCtr (s : State) (b : Blk) (v : Nat) : (s.setBlkState b v).freeCtr = s.freeCtr := rfl

/-! ### emit -/

@[simp] theorem State.emit_pending (s : State) (o : Output) : (s.emit o).pending = s.pending := rfl
@[simp] theorem State.emit_regs (s : State) (o : Output) : (s.emit o).regs = s.regs := rfl
@[simp] theorem State.emit_incs (s : State) (o : Output) : (s.emit o).incs = s.incs := rfl
@[simp] theorem State.emit_blkSt (s : State) (o : Output) : (s.emit o).blkSt = s.blkSt := rfl
@[simp] theorem State.emit_upd (s : State) (o : Output) : (s.emit o).upd = s.upd := rfl
@[simp] theorem State.emit_tmr (s : State) (o : Output) : (s.emit o).tmr = s.tmr := rfl
@[simp] theorem State.emit_crest (s : State) (o : Output) : (s.emit o).crest = s.crest := rfl
@[simp] theorem State.emit_ptp (s : State) (o : Output) : (s.emit o).ptp = s.ptp := rfl
@[simp] theorem State.emit_ports (s : State) (o : Output) : (s.emit o).ports = s.ports := rfl
@[simp] theorem State.emit_ing (s : State) (o : Output) : (s.emit o).ing = s.ing := rfl
@[simp] theorem State.emit_spur (s : State) (o : Output) : (s.emit o).spur = s.spur := rfl
@[simp] theorem State.emit_con (s : State) (o : Output) : (s.emit o).con = s.con := rfl
@[simp] theorem State.emit_tm (s : State) (o : Output) : (s.emit o).tm = s.tm := rfl
@[simp] theorem State.emit_led (s : State) (o : Output) : (s.emit o).led = s.led := rfl
@[simp] theorem State.emit_ten (s : State) (o : Output) : (s.emit o).ten = s.ten := rfl
@[simp] theorem State.emit_zoa (s : State) (o : Output) : (s.emit o).zoa = s.zoa := rfl
@[simp] theorem State.emit_jrn (s : State) (o : Output) : (s.emit o).jrn = s.jrn := rfl
@[simp] theorem State.emit_ciph (s : State) (o : Output) : (s.emit o).ciph = s.ciph := rfl
@[simp] theorem State.emit_host (s : State) (o : Output) : (s.emit o).host = s.host := rfl
@[simp] theorem State.emit_rings (s : State) (o : Output) : (s.emit o).rings = s.rings := rfl
@[simp] theorem State.emit_mem (s : State) (o : Output) : (s.emit o).mem = s.mem := rfl
@[simp] theorem State.emit_cairn (s : State) (o : Output) : (s.emit o).cairn = s.cairn := rfl
@[simp] theorem State.emit_sec (s : State) (o : Output) : (s.emit o).sec = s.sec := rfl
@[simp] theorem State.emit_back (s : State) (o : Output) : (s.emit o).back = s.back := rfl
@[simp] theorem State.emit_offAt (s : State) (o : Output) : (s.emit o).offAt = s.offAt := rfl
@[simp] theorem State.emit_readData (s : State) (o : Output) : (s.emit o).readData = s.readData := rfl
@[simp] theorem State.emit_freeCtr (s : State) (o : Output) : (s.emit o).freeCtr = s.freeCtr := rfl

/-! ### useFree -/

@[simp] theorem State.useFree_pending (s : State) (n : Nat) : (s.useFree n).pending = s.pending := rfl
@[simp] theorem State.useFree_regs (s : State) (n : Nat) : (s.useFree n).regs = s.regs := rfl
@[simp] theorem State.useFree_incs (s : State) (n : Nat) : (s.useFree n).incs = s.incs := rfl
@[simp] theorem State.useFree_blkSt (s : State) (n : Nat) : (s.useFree n).blkSt = s.blkSt := rfl
@[simp] theorem State.useFree_upd (s : State) (n : Nat) : (s.useFree n).upd = s.upd := rfl
@[simp] theorem State.useFree_tmr (s : State) (n : Nat) : (s.useFree n).tmr = s.tmr := rfl
@[simp] theorem State.useFree_crest (s : State) (n : Nat) : (s.useFree n).crest = s.crest := rfl
@[simp] theorem State.useFree_ptp (s : State) (n : Nat) : (s.useFree n).ptp = s.ptp := rfl
@[simp] theorem State.useFree_ports (s : State) (n : Nat) : (s.useFree n).ports = s.ports := rfl
@[simp] theorem State.useFree_ing (s : State) (n : Nat) : (s.useFree n).ing = s.ing := rfl
@[simp] theorem State.useFree_spur (s : State) (n : Nat) : (s.useFree n).spur = s.spur := rfl
@[simp] theorem State.useFree_con (s : State) (n : Nat) : (s.useFree n).con = s.con := rfl
@[simp] theorem State.useFree_tm (s : State) (n : Nat) : (s.useFree n).tm = s.tm := rfl
@[simp] theorem State.useFree_led (s : State) (n : Nat) : (s.useFree n).led = s.led := rfl
@[simp] theorem State.useFree_ten (s : State) (n : Nat) : (s.useFree n).ten = s.ten := rfl
@[simp] theorem State.useFree_zoa (s : State) (n : Nat) : (s.useFree n).zoa = s.zoa := rfl
@[simp] theorem State.useFree_jrn (s : State) (n : Nat) : (s.useFree n).jrn = s.jrn := rfl
@[simp] theorem State.useFree_ciph (s : State) (n : Nat) : (s.useFree n).ciph = s.ciph := rfl
@[simp] theorem State.useFree_host (s : State) (n : Nat) : (s.useFree n).host = s.host := rfl
@[simp] theorem State.useFree_rings (s : State) (n : Nat) : (s.useFree n).rings = s.rings := rfl
@[simp] theorem State.useFree_mem (s : State) (n : Nat) : (s.useFree n).mem = s.mem := rfl
@[simp] theorem State.useFree_cairn (s : State) (n : Nat) : (s.useFree n).cairn = s.cairn := rfl
@[simp] theorem State.useFree_sec (s : State) (n : Nat) : (s.useFree n).sec = s.sec := rfl
@[simp] theorem State.useFree_back (s : State) (n : Nat) : (s.useFree n).back = s.back := rfl
@[simp] theorem State.useFree_offAt (s : State) (n : Nat) : (s.useFree n).offAt = s.offAt := rfl
@[simp] theorem State.useFree_out (s : State) (n : Nat) : (s.useFree n).out = s.out := rfl
@[simp] theorem State.useFree_readData (s : State) (n : Nat) : (s.useFree n).readData = s.readData := rfl

/-! ### cairnRec -/

@[simp] theorem State.cairnRec_pending (s : State) (c : CairnCode) (b : Option Blk) (d : Bytes) : (s.cairnRec c b d).pending = s.pending := rfl
@[simp] theorem State.cairnRec_regs (s : State) (c : CairnCode) (b : Option Blk) (d : Bytes) : (s.cairnRec c b d).regs = s.regs := rfl
@[simp] theorem State.cairnRec_incs (s : State) (c : CairnCode) (b : Option Blk) (d : Bytes) : (s.cairnRec c b d).incs = s.incs := rfl
@[simp] theorem State.cairnRec_blkSt (s : State) (c : CairnCode) (b : Option Blk) (d : Bytes) : (s.cairnRec c b d).blkSt = s.blkSt := rfl
@[simp] theorem State.cairnRec_upd (s : State) (c : CairnCode) (b : Option Blk) (d : Bytes) : (s.cairnRec c b d).upd = s.upd := rfl
@[simp] theorem State.cairnRec_tmr (s : State) (c : CairnCode) (b : Option Blk) (d : Bytes) : (s.cairnRec c b d).tmr = s.tmr := rfl
@[simp] theorem State.cairnRec_crest (s : State) (c : CairnCode) (b : Option Blk) (d : Bytes) : (s.cairnRec c b d).crest = s.crest := rfl
@[simp] theorem State.cairnRec_ptp (s : State) (c : CairnCode) (b : Option Blk) (d : Bytes) : (s.cairnRec c b d).ptp = s.ptp := rfl
@[simp] theorem State.cairnRec_ports (s : State) (c : CairnCode) (b : Option Blk) (d : Bytes) : (s.cairnRec c b d).ports = s.ports := rfl
@[simp] theorem State.cairnRec_ing (s : State) (c : CairnCode) (b : Option Blk) (d : Bytes) : (s.cairnRec c b d).ing = s.ing := rfl
@[simp] theorem State.cairnRec_spur (s : State) (c : CairnCode) (b : Option Blk) (d : Bytes) : (s.cairnRec c b d).spur = s.spur := rfl
@[simp] theorem State.cairnRec_con (s : State) (c : CairnCode) (b : Option Blk) (d : Bytes) : (s.cairnRec c b d).con = s.con := rfl
@[simp] theorem State.cairnRec_tm (s : State) (c : CairnCode) (b : Option Blk) (d : Bytes) : (s.cairnRec c b d).tm = s.tm := rfl
@[simp] theorem State.cairnRec_led (s : State) (c : CairnCode) (b : Option Blk) (d : Bytes) : (s.cairnRec c b d).led = s.led := rfl
@[simp] theorem State.cairnRec_ten (s : State) (c : CairnCode) (b : Option Blk) (d : Bytes) : (s.cairnRec c b d).ten = s.ten := rfl
@[simp] theorem State.cairnRec_zoa (s : State) (c : CairnCode) (b : Option Blk) (d : Bytes) : (s.cairnRec c b d).zoa = s.zoa := rfl
@[simp] theorem State.cairnRec_jrn (s : State) (c : CairnCode) (b : Option Blk) (d : Bytes) : (s.cairnRec c b d).jrn = s.jrn := rfl
@[simp] theorem State.cairnRec_ciph (s : State) (c : CairnCode) (b : Option Blk) (d : Bytes) : (s.cairnRec c b d).ciph = s.ciph := rfl
@[simp] theorem State.cairnRec_host (s : State) (c : CairnCode) (b : Option Blk) (d : Bytes) : (s.cairnRec c b d).host = s.host := rfl
@[simp] theorem State.cairnRec_rings (s : State) (c : CairnCode) (b : Option Blk) (d : Bytes) : (s.cairnRec c b d).rings = s.rings := rfl
@[simp] theorem State.cairnRec_mem (s : State) (c : CairnCode) (b : Option Blk) (d : Bytes) : (s.cairnRec c b d).mem = s.mem := rfl
@[simp] theorem State.cairnRec_sec (s : State) (c : CairnCode) (b : Option Blk) (d : Bytes) : (s.cairnRec c b d).sec = s.sec := rfl
@[simp] theorem State.cairnRec_back (s : State) (c : CairnCode) (b : Option Blk) (d : Bytes) : (s.cairnRec c b d).back = s.back := rfl
@[simp] theorem State.cairnRec_offAt (s : State) (c : CairnCode) (b : Option Blk) (d : Bytes) : (s.cairnRec c b d).offAt = s.offAt := rfl
@[simp] theorem State.cairnRec_out (s : State) (c : CairnCode) (b : Option Blk) (d : Bytes) : (s.cairnRec c b d).out = s.out := rfl
@[simp] theorem State.cairnRec_readData (s : State) (c : CairnCode) (b : Option Blk) (d : Bytes) : (s.cairnRec c b d).readData = s.readData := rfl
@[simp] theorem State.cairnRec_freeCtr (s : State) (c : CairnCode) (b : Option Blk) (d : Bytes) : (s.cairnRec c b d).freeCtr = s.freeCtr := rfl

/-! ### setBox -/

@[simp] theorem State.setBox_pending (s : State) (f : Nat) (b : Mailbox) : (s.setBox f b).pending = s.pending := rfl
@[simp] theorem State.setBox_regs (s : State) (f : Nat) (b : Mailbox) : (s.setBox f b).regs = s.regs := rfl
@[simp] theorem State.setBox_incs (s : State) (f : Nat) (b : Mailbox) : (s.setBox f b).incs = s.incs := rfl
@[simp] theorem State.setBox_blkSt (s : State) (f : Nat) (b : Mailbox) : (s.setBox f b).blkSt = s.blkSt := rfl
@[simp] theorem State.setBox_upd (s : State) (f : Nat) (b : Mailbox) : (s.setBox f b).upd = s.upd := rfl
@[simp] theorem State.setBox_tmr (s : State) (f : Nat) (b : Mailbox) : (s.setBox f b).tmr = s.tmr := rfl
@[simp] theorem State.setBox_crest (s : State) (f : Nat) (b : Mailbox) : (s.setBox f b).crest = s.crest := rfl
@[simp] theorem State.setBox_ptp (s : State) (f : Nat) (b : Mailbox) : (s.setBox f b).ptp = s.ptp := rfl
@[simp] theorem State.setBox_ports (s : State) (f : Nat) (b : Mailbox) : (s.setBox f b).ports = s.ports := rfl
@[simp] theorem State.setBox_ing (s : State) (f : Nat) (b : Mailbox) : (s.setBox f b).ing = s.ing := rfl
@[simp] theorem State.setBox_spur (s : State) (f : Nat) (b : Mailbox) : (s.setBox f b).spur = s.spur := rfl
@[simp] theorem State.setBox_con (s : State) (f : Nat) (b : Mailbox) : (s.setBox f b).con = s.con := rfl
@[simp] theorem State.setBox_tm (s : State) (f : Nat) (b : Mailbox) : (s.setBox f b).tm = s.tm := rfl
@[simp] theorem State.setBox_led (s : State) (f : Nat) (b : Mailbox) : (s.setBox f b).led = s.led := rfl
@[simp] theorem State.setBox_zoa (s : State) (f : Nat) (b : Mailbox) : (s.setBox f b).zoa = s.zoa := rfl
@[simp] theorem State.setBox_jrn (s : State) (f : Nat) (b : Mailbox) : (s.setBox f b).jrn = s.jrn := rfl
@[simp] theorem State.setBox_ciph (s : State) (f : Nat) (b : Mailbox) : (s.setBox f b).ciph = s.ciph := rfl
@[simp] theorem State.setBox_host (s : State) (f : Nat) (b : Mailbox) : (s.setBox f b).host = s.host := rfl
@[simp] theorem State.setBox_rings (s : State) (f : Nat) (b : Mailbox) : (s.setBox f b).rings = s.rings := rfl
@[simp] theorem State.setBox_mem (s : State) (f : Nat) (b : Mailbox) : (s.setBox f b).mem = s.mem := rfl
@[simp] theorem State.setBox_cairn (s : State) (f : Nat) (b : Mailbox) : (s.setBox f b).cairn = s.cairn := rfl
@[simp] theorem State.setBox_sec (s : State) (f : Nat) (b : Mailbox) : (s.setBox f b).sec = s.sec := rfl
@[simp] theorem State.setBox_back (s : State) (f : Nat) (b : Mailbox) : (s.setBox f b).back = s.back := rfl
@[simp] theorem State.setBox_offAt (s : State) (f : Nat) (b : Mailbox) : (s.setBox f b).offAt = s.offAt := rfl
@[simp] theorem State.setBox_out (s : State) (f : Nat) (b : Mailbox) : (s.setBox f b).out = s.out := rfl
@[simp] theorem State.setBox_readData (s : State) (f : Nat) (b : Mailbox) : (s.setBox f b).readData = s.readData := rfl
@[simp] theorem State.setBox_freeCtr (s : State) (f : Nat) (b : Mailbox) : (s.setBox f b).freeCtr = s.freeCtr := rfl

/-! ### setThr -/

@[simp] theorem State.setThr_pending (s : State) (k : Nat) (t : Thread) : (s.setThr k t).pending = s.pending := rfl
@[simp] theorem State.setThr_regs (s : State) (k : Nat) (t : Thread) : (s.setThr k t).regs = s.regs := rfl
@[simp] theorem State.setThr_incs (s : State) (k : Nat) (t : Thread) : (s.setThr k t).incs = s.incs := rfl
@[simp] theorem State.setThr_blkSt (s : State) (k : Nat) (t : Thread) : (s.setThr k t).blkSt = s.blkSt := rfl
@[simp] theorem State.setThr_upd (s : State) (k : Nat) (t : Thread) : (s.setThr k t).upd = s.upd := rfl
@[simp] theorem State.setThr_tmr (s : State) (k : Nat) (t : Thread) : (s.setThr k t).tmr = s.tmr := rfl
@[simp] theorem State.setThr_crest (s : State) (k : Nat) (t : Thread) : (s.setThr k t).crest = s.crest := rfl
@[simp] theorem State.setThr_ptp (s : State) (k : Nat) (t : Thread) : (s.setThr k t).ptp = s.ptp := rfl
@[simp] theorem State.setThr_ports (s : State) (k : Nat) (t : Thread) : (s.setThr k t).ports = s.ports := rfl
@[simp] theorem State.setThr_ing (s : State) (k : Nat) (t : Thread) : (s.setThr k t).ing = s.ing := rfl
@[simp] theorem State.setThr_con (s : State) (k : Nat) (t : Thread) : (s.setThr k t).con = s.con := rfl
@[simp] theorem State.setThr_tm (s : State) (k : Nat) (t : Thread) : (s.setThr k t).tm = s.tm := rfl
@[simp] theorem State.setThr_led (s : State) (k : Nat) (t : Thread) : (s.setThr k t).led = s.led := rfl
@[simp] theorem State.setThr_ten (s : State) (k : Nat) (t : Thread) : (s.setThr k t).ten = s.ten := rfl
@[simp] theorem State.setThr_zoa (s : State) (k : Nat) (t : Thread) : (s.setThr k t).zoa = s.zoa := rfl
@[simp] theorem State.setThr_jrn (s : State) (k : Nat) (t : Thread) : (s.setThr k t).jrn = s.jrn := rfl
@[simp] theorem State.setThr_ciph (s : State) (k : Nat) (t : Thread) : (s.setThr k t).ciph = s.ciph := rfl
@[simp] theorem State.setThr_host (s : State) (k : Nat) (t : Thread) : (s.setThr k t).host = s.host := rfl
@[simp] theorem State.setThr_rings (s : State) (k : Nat) (t : Thread) : (s.setThr k t).rings = s.rings := rfl
@[simp] theorem State.setThr_mem (s : State) (k : Nat) (t : Thread) : (s.setThr k t).mem = s.mem := rfl
@[simp] theorem State.setThr_cairn (s : State) (k : Nat) (t : Thread) : (s.setThr k t).cairn = s.cairn := rfl
@[simp] theorem State.setThr_sec (s : State) (k : Nat) (t : Thread) : (s.setThr k t).sec = s.sec := rfl
@[simp] theorem State.setThr_back (s : State) (k : Nat) (t : Thread) : (s.setThr k t).back = s.back := rfl
@[simp] theorem State.setThr_offAt (s : State) (k : Nat) (t : Thread) : (s.setThr k t).offAt = s.offAt := rfl
@[simp] theorem State.setThr_out (s : State) (k : Nat) (t : Thread) : (s.setThr k t).out = s.out := rfl
@[simp] theorem State.setThr_readData (s : State) (k : Nat) (t : Thread) : (s.setThr k t).readData = s.readData := rfl
@[simp] theorem State.setThr_freeCtr (s : State) (k : Nat) (t : Thread) : (s.setThr k t).freeCtr = s.freeCtr := rfl

/-! ### modThr -/

@[simp] theorem State.modThr_pending (s : State) (k : Nat) (f : Thread → Thread) : (s.modThr k f).pending = s.pending := rfl
@[simp] theorem State.modThr_regs (s : State) (k : Nat) (f : Thread → Thread) : (s.modThr k f).regs = s.regs := rfl
@[simp] theorem State.modThr_incs (s : State) (k : Nat) (f : Thread → Thread) : (s.modThr k f).incs = s.incs := rfl
@[simp] theorem State.modThr_blkSt (s : State) (k : Nat) (f : Thread → Thread) : (s.modThr k f).blkSt = s.blkSt := rfl
@[simp] theorem State.modThr_upd (s : State) (k : Nat) (f : Thread → Thread) : (s.modThr k f).upd = s.upd := rfl
@[simp] theorem State.modThr_tmr (s : State) (k : Nat) (f : Thread → Thread) : (s.modThr k f).tmr = s.tmr := rfl
@[simp] theorem State.modThr_crest (s : State) (k : Nat) (f : Thread → Thread) : (s.modThr k f).crest = s.crest := rfl
@[simp] theorem State.modThr_ptp (s : State) (k : Nat) (f : Thread → Thread) : (s.modThr k f).ptp = s.ptp := rfl
@[simp] theorem State.modThr_ports (s : State) (k : Nat) (f : Thread → Thread) : (s.modThr k f).ports = s.ports := rfl
@[simp] theorem State.modThr_ing (s : State) (k : Nat) (f : Thread → Thread) : (s.modThr k f).ing = s.ing := rfl
@[simp] theorem State.modThr_con (s : State) (k : Nat) (f : Thread → Thread) : (s.modThr k f).con = s.con := rfl
@[simp] theorem State.modThr_tm (s : State) (k : Nat) (f : Thread → Thread) : (s.modThr k f).tm = s.tm := rfl
@[simp] theorem State.modThr_led (s : State) (k : Nat) (f : Thread → Thread) : (s.modThr k f).led = s.led := rfl
@[simp] theorem State.modThr_ten (s : State) (k : Nat) (f : Thread → Thread) : (s.modThr k f).ten = s.ten := rfl
@[simp] theorem State.modThr_zoa (s : State) (k : Nat) (f : Thread → Thread) : (s.modThr k f).zoa = s.zoa := rfl
@[simp] theorem State.modThr_jrn (s : State) (k : Nat) (f : Thread → Thread) : (s.modThr k f).jrn = s.jrn := rfl
@[simp] theorem State.modThr_ciph (s : State) (k : Nat) (f : Thread → Thread) : (s.modThr k f).ciph = s.ciph := rfl
@[simp] theorem State.modThr_host (s : State) (k : Nat) (f : Thread → Thread) : (s.modThr k f).host = s.host := rfl
@[simp] theorem State.modThr_rings (s : State) (k : Nat) (f : Thread → Thread) : (s.modThr k f).rings = s.rings := rfl
@[simp] theorem State.modThr_mem (s : State) (k : Nat) (f : Thread → Thread) : (s.modThr k f).mem = s.mem := rfl
@[simp] theorem State.modThr_cairn (s : State) (k : Nat) (f : Thread → Thread) : (s.modThr k f).cairn = s.cairn := rfl
@[simp] theorem State.modThr_sec (s : State) (k : Nat) (f : Thread → Thread) : (s.modThr k f).sec = s.sec := rfl
@[simp] theorem State.modThr_back (s : State) (k : Nat) (f : Thread → Thread) : (s.modThr k f).back = s.back := rfl
@[simp] theorem State.modThr_offAt (s : State) (k : Nat) (f : Thread → Thread) : (s.modThr k f).offAt = s.offAt := rfl
@[simp] theorem State.modThr_out (s : State) (k : Nat) (f : Thread → Thread) : (s.modThr k f).out = s.out := rfl
@[simp] theorem State.modThr_readData (s : State) (k : Nat) (f : Thread → Thread) : (s.modThr k f).readData = s.readData := rfl
@[simp] theorem State.modThr_freeCtr (s : State) (k : Nat) (f : Thread → Thread) : (s.modThr k f).freeCtr = s.freeCtr := rfl

/-! ### setGpr -/

@[simp] theorem State.setGpr_pending (s : State) (x : Ctx) (r : GReg) (v : BitVec 64) : (s.setGpr x r v).pending = s.pending := rfl
@[simp] theorem State.setGpr_regs (s : State) (x : Ctx) (r : GReg) (v : BitVec 64) : (s.setGpr x r v).regs = s.regs := rfl
@[simp] theorem State.setGpr_incs (s : State) (x : Ctx) (r : GReg) (v : BitVec 64) : (s.setGpr x r v).incs = s.incs := rfl
@[simp] theorem State.setGpr_blkSt (s : State) (x : Ctx) (r : GReg) (v : BitVec 64) : (s.setGpr x r v).blkSt = s.blkSt := rfl
@[simp] theorem State.setGpr_upd (s : State) (x : Ctx) (r : GReg) (v : BitVec 64) : (s.setGpr x r v).upd = s.upd := rfl
@[simp] theorem State.setGpr_tmr (s : State) (x : Ctx) (r : GReg) (v : BitVec 64) : (s.setGpr x r v).tmr = s.tmr := rfl
@[simp] theorem State.setGpr_crest (s : State) (x : Ctx) (r : GReg) (v : BitVec 64) : (s.setGpr x r v).crest = s.crest := rfl
@[simp] theorem State.setGpr_ptp (s : State) (x : Ctx) (r : GReg) (v : BitVec 64) : (s.setGpr x r v).ptp = s.ptp := rfl
@[simp] theorem State.setGpr_ports (s : State) (x : Ctx) (r : GReg) (v : BitVec 64) : (s.setGpr x r v).ports = s.ports := rfl
@[simp] theorem State.setGpr_ing (s : State) (x : Ctx) (r : GReg) (v : BitVec 64) : (s.setGpr x r v).ing = s.ing := rfl
@[simp] theorem State.setGpr_con (s : State) (x : Ctx) (r : GReg) (v : BitVec 64) : (s.setGpr x r v).con = s.con := rfl
@[simp] theorem State.setGpr_tm (s : State) (x : Ctx) (r : GReg) (v : BitVec 64) : (s.setGpr x r v).tm = s.tm := rfl
@[simp] theorem State.setGpr_led (s : State) (x : Ctx) (r : GReg) (v : BitVec 64) : (s.setGpr x r v).led = s.led := rfl
@[simp] theorem State.setGpr_ten (s : State) (x : Ctx) (r : GReg) (v : BitVec 64) : (s.setGpr x r v).ten = s.ten := rfl
@[simp] theorem State.setGpr_zoa (s : State) (x : Ctx) (r : GReg) (v : BitVec 64) : (s.setGpr x r v).zoa = s.zoa := rfl
@[simp] theorem State.setGpr_jrn (s : State) (x : Ctx) (r : GReg) (v : BitVec 64) : (s.setGpr x r v).jrn = s.jrn := rfl
@[simp] theorem State.setGpr_ciph (s : State) (x : Ctx) (r : GReg) (v : BitVec 64) : (s.setGpr x r v).ciph = s.ciph := rfl
@[simp] theorem State.setGpr_host (s : State) (x : Ctx) (r : GReg) (v : BitVec 64) : (s.setGpr x r v).host = s.host := rfl
@[simp] theorem State.setGpr_rings (s : State) (x : Ctx) (r : GReg) (v : BitVec 64) : (s.setGpr x r v).rings = s.rings := rfl
@[simp] theorem State.setGpr_mem (s : State) (x : Ctx) (r : GReg) (v : BitVec 64) : (s.setGpr x r v).mem = s.mem := rfl
@[simp] theorem State.setGpr_cairn (s : State) (x : Ctx) (r : GReg) (v : BitVec 64) : (s.setGpr x r v).cairn = s.cairn := rfl
@[simp] theorem State.setGpr_sec (s : State) (x : Ctx) (r : GReg) (v : BitVec 64) : (s.setGpr x r v).sec = s.sec := rfl
@[simp] theorem State.setGpr_back (s : State) (x : Ctx) (r : GReg) (v : BitVec 64) : (s.setGpr x r v).back = s.back := rfl
@[simp] theorem State.setGpr_offAt (s : State) (x : Ctx) (r : GReg) (v : BitVec 64) : (s.setGpr x r v).offAt = s.offAt := rfl
@[simp] theorem State.setGpr_out (s : State) (x : Ctx) (r : GReg) (v : BitVec 64) : (s.setGpr x r v).out = s.out := rfl
@[simp] theorem State.setGpr_readData (s : State) (x : Ctx) (r : GReg) (v : BitVec 64) : (s.setGpr x r v).readData = s.readData := rfl
@[simp] theorem State.setGpr_freeCtr (s : State) (x : Ctx) (r : GReg) (v : BitVec 64) : (s.setGpr x r v).freeCtr = s.freeCtr := rfl

/-! ### setTbl -/

@[simp] theorem State.setTbl_pending (s : State) (t : Nat) (m : SMap TEntry) : (s.setTbl t m).pending = s.pending := rfl
@[simp] theorem State.setTbl_incs (s : State) (t : Nat) (m : SMap TEntry) : (s.setTbl t m).incs = s.incs := rfl
@[simp] theorem State.setTbl_blkSt (s : State) (t : Nat) (m : SMap TEntry) : (s.setTbl t m).blkSt = s.blkSt := rfl
@[simp] theorem State.setTbl_upd (s : State) (t : Nat) (m : SMap TEntry) : (s.setTbl t m).upd = s.upd := rfl
@[simp] theorem State.setTbl_tmr (s : State) (t : Nat) (m : SMap TEntry) : (s.setTbl t m).tmr = s.tmr := rfl
@[simp] theorem State.setTbl_crest (s : State) (t : Nat) (m : SMap TEntry) : (s.setTbl t m).crest = s.crest := rfl
@[simp] theorem State.setTbl_ptp (s : State) (t : Nat) (m : SMap TEntry) : (s.setTbl t m).ptp = s.ptp := rfl
@[simp] theorem State.setTbl_ports (s : State) (t : Nat) (m : SMap TEntry) : (s.setTbl t m).ports = s.ports := rfl
@[simp] theorem State.setTbl_spur (s : State) (t : Nat) (m : SMap TEntry) : (s.setTbl t m).spur = s.spur := rfl
@[simp] theorem State.setTbl_con (s : State) (t : Nat) (m : SMap TEntry) : (s.setTbl t m).con = s.con := rfl
@[simp] theorem State.setTbl_tm (s : State) (t : Nat) (m : SMap TEntry) : (s.setTbl t m).tm = s.tm := rfl
@[simp] theorem State.setTbl_led (s : State) (t : Nat) (m : SMap TEntry) : (s.setTbl t m).led = s.led := rfl
@[simp] theorem State.setTbl_ten (s : State) (t : Nat) (m : SMap TEntry) : (s.setTbl t m).ten = s.ten := rfl
@[simp] theorem State.setTbl_zoa (s : State) (t : Nat) (m : SMap TEntry) : (s.setTbl t m).zoa = s.zoa := rfl
@[simp] theorem State.setTbl_jrn (s : State) (t : Nat) (m : SMap TEntry) : (s.setTbl t m).jrn = s.jrn := rfl
@[simp] theorem State.setTbl_ciph (s : State) (t : Nat) (m : SMap TEntry) : (s.setTbl t m).ciph = s.ciph := rfl
@[simp] theorem State.setTbl_host (s : State) (t : Nat) (m : SMap TEntry) : (s.setTbl t m).host = s.host := rfl
@[simp] theorem State.setTbl_rings (s : State) (t : Nat) (m : SMap TEntry) : (s.setTbl t m).rings = s.rings := rfl
@[simp] theorem State.setTbl_mem (s : State) (t : Nat) (m : SMap TEntry) : (s.setTbl t m).mem = s.mem := rfl
@[simp] theorem State.setTbl_cairn (s : State) (t : Nat) (m : SMap TEntry) : (s.setTbl t m).cairn = s.cairn := rfl
@[simp] theorem State.setTbl_sec (s : State) (t : Nat) (m : SMap TEntry) : (s.setTbl t m).sec = s.sec := rfl
@[simp] theorem State.setTbl_back (s : State) (t : Nat) (m : SMap TEntry) : (s.setTbl t m).back = s.back := rfl
@[simp] theorem State.setTbl_offAt (s : State) (t : Nat) (m : SMap TEntry) : (s.setTbl t m).offAt = s.offAt := rfl
@[simp] theorem State.setTbl_out (s : State) (t : Nat) (m : SMap TEntry) : (s.setTbl t m).out = s.out := rfl
@[simp] theorem State.setTbl_readData (s : State) (t : Nat) (m : SMap TEntry) : (s.setTbl t m).readData = s.readData := rfl
@[simp] theorem State.setTbl_freeCtr (s : State) (t : Nat) (m : SMap TEntry) : (s.setTbl t m).freeCtr = s.freeCtr := rfl

/-! ### setMcg -/

@[simp] theorem State.setMcg_pending (s : State) (g : Nat) (v : McGroup) : (s.setMcg g v).pending = s.pending := rfl
@[simp] theorem State.setMcg_regs (s : State) (g : Nat) (v : McGroup) : (s.setMcg g v).regs = s.regs := rfl
@[simp] theorem State.setMcg_incs (s : State) (g : Nat) (v : McGroup) : (s.setMcg g v).incs = s.incs := rfl
@[simp] theorem State.setMcg_blkSt (s : State) (g : Nat) (v : McGroup) : (s.setMcg g v).blkSt = s.blkSt := rfl
@[simp] theorem State.setMcg_upd (s : State) (g : Nat) (v : McGroup) : (s.setMcg g v).upd = s.upd := rfl
@[simp] theorem State.setMcg_tmr (s : State) (g : Nat) (v : McGroup) : (s.setMcg g v).tmr = s.tmr := rfl
@[simp] theorem State.setMcg_crest (s : State) (g : Nat) (v : McGroup) : (s.setMcg g v).crest = s.crest := rfl
@[simp] theorem State.setMcg_ptp (s : State) (g : Nat) (v : McGroup) : (s.setMcg g v).ptp = s.ptp := rfl
@[simp] theorem State.setMcg_ports (s : State) (g : Nat) (v : McGroup) : (s.setMcg g v).ports = s.ports := rfl
@[simp] theorem State.setMcg_spur (s : State) (g : Nat) (v : McGroup) : (s.setMcg g v).spur = s.spur := rfl
@[simp] theorem State.setMcg_con (s : State) (g : Nat) (v : McGroup) : (s.setMcg g v).con = s.con := rfl
@[simp] theorem State.setMcg_tm (s : State) (g : Nat) (v : McGroup) : (s.setMcg g v).tm = s.tm := rfl
@[simp] theorem State.setMcg_led (s : State) (g : Nat) (v : McGroup) : (s.setMcg g v).led = s.led := rfl
@[simp] theorem State.setMcg_ten (s : State) (g : Nat) (v : McGroup) : (s.setMcg g v).ten = s.ten := rfl
@[simp] theorem State.setMcg_zoa (s : State) (g : Nat) (v : McGroup) : (s.setMcg g v).zoa = s.zoa := rfl
@[simp] theorem State.setMcg_jrn (s : State) (g : Nat) (v : McGroup) : (s.setMcg g v).jrn = s.jrn := rfl
@[simp] theorem State.setMcg_ciph (s : State) (g : Nat) (v : McGroup) : (s.setMcg g v).ciph = s.ciph := rfl
@[simp] theorem State.setMcg_host (s : State) (g : Nat) (v : McGroup) : (s.setMcg g v).host = s.host := rfl
@[simp] theorem State.setMcg_rings (s : State) (g : Nat) (v : McGroup) : (s.setMcg g v).rings = s.rings := rfl
@[simp] theorem State.setMcg_mem (s : State) (g : Nat) (v : McGroup) : (s.setMcg g v).mem = s.mem := rfl
@[simp] theorem State.setMcg_cairn (s : State) (g : Nat) (v : McGroup) : (s.setMcg g v).cairn = s.cairn := rfl
@[simp] theorem State.setMcg_sec (s : State) (g : Nat) (v : McGroup) : (s.setMcg g v).sec = s.sec := rfl
@[simp] theorem State.setMcg_back (s : State) (g : Nat) (v : McGroup) : (s.setMcg g v).back = s.back := rfl
@[simp] theorem State.setMcg_offAt (s : State) (g : Nat) (v : McGroup) : (s.setMcg g v).offAt = s.offAt := rfl
@[simp] theorem State.setMcg_out (s : State) (g : Nat) (v : McGroup) : (s.setMcg g v).out = s.out := rfl
@[simp] theorem State.setMcg_readData (s : State) (g : Nat) (v : McGroup) : (s.setMcg g v).readData = s.readData := rfl
@[simp] theorem State.setMcg_freeCtr (s : State) (g : Nat) (v : McGroup) : (s.setMcg g v).freeCtr = s.freeCtr := rfl

/-! ### setBack -/

@[simp] theorem State.setBack_pending (s : State) (b : Back) : (s.setBack b).pending = s.pending := rfl
@[simp] theorem State.setBack_regs (s : State) (b : Back) : (s.setBack b).regs = s.regs := rfl
@[simp] theorem State.setBack_incs (s : State) (b : Back) : (s.setBack b).incs = s.incs := rfl
@[simp] theorem State.setBack_blkSt (s : State) (b : Back) : (s.setBack b).blkSt = s.blkSt := rfl
@[simp] theorem State.setBack_upd (s : State) (b : Back) : (s.setBack b).upd = s.upd := rfl
@[simp] theorem State.setBack_tmr (s : State) (b : Back) : (s.setBack b).tmr = s.tmr := rfl
@[simp] theorem State.setBack_crest (s : State) (b : Back) : (s.setBack b).crest = s.crest := rfl
@[simp] theorem State.setBack_ptp (s : State) (b : Back) : (s.setBack b).ptp = s.ptp := rfl
@[simp] theorem State.setBack_ports (s : State) (b : Back) : (s.setBack b).ports = s.ports := rfl
@[simp] theorem State.setBack_ing (s : State) (b : Back) : (s.setBack b).ing = s.ing := rfl
@[simp] theorem State.setBack_spur (s : State) (b : Back) : (s.setBack b).spur = s.spur := rfl
@[simp] theorem State.setBack_con (s : State) (b : Back) : (s.setBack b).con = s.con := rfl
@[simp] theorem State.setBack_tm (s : State) (b : Back) : (s.setBack b).tm = s.tm := rfl
@[simp] theorem State.setBack_led (s : State) (b : Back) : (s.setBack b).led = s.led := rfl
@[simp] theorem State.setBack_ten (s : State) (b : Back) : (s.setBack b).ten = s.ten := rfl
@[simp] theorem State.setBack_zoa (s : State) (b : Back) : (s.setBack b).zoa = s.zoa := rfl
@[simp] theorem State.setBack_jrn (s : State) (b : Back) : (s.setBack b).jrn = s.jrn := rfl
@[simp] theorem State.setBack_ciph (s : State) (b : Back) : (s.setBack b).ciph = s.ciph := rfl
@[simp] theorem State.setBack_host (s : State) (b : Back) : (s.setBack b).host = s.host := rfl
@[simp] theorem State.setBack_rings (s : State) (b : Back) : (s.setBack b).rings = s.rings := rfl
@[simp] theorem State.setBack_mem (s : State) (b : Back) : (s.setBack b).mem = s.mem := rfl
@[simp] theorem State.setBack_cairn (s : State) (b : Back) : (s.setBack b).cairn = s.cairn := rfl
@[simp] theorem State.setBack_sec (s : State) (b : Back) : (s.setBack b).sec = s.sec := rfl
@[simp] theorem State.setBack_offAt (s : State) (b : Back) : (s.setBack b).offAt = s.offAt := rfl
@[simp] theorem State.setBack_out (s : State) (b : Back) : (s.setBack b).out = s.out := rfl
@[simp] theorem State.setBack_readData (s : State) (b : Back) : (s.setBack b).readData = s.readData := rfl
@[simp] theorem State.setBack_freeCtr (s : State) (b : Back) : (s.setBack b).freeCtr = s.freeCtr := rfl

/-! ### setCairn -/

@[simp] theorem State.setCairn_pending (s : State) (c : Cairn) : (s.setCairn c).pending = s.pending := rfl
@[simp] theorem State.setCairn_regs (s : State) (c : Cairn) : (s.setCairn c).regs = s.regs := rfl
@[simp] theorem State.setCairn_incs (s : State) (c : Cairn) : (s.setCairn c).incs = s.incs := rfl
@[simp] theorem State.setCairn_blkSt (s : State) (c : Cairn) : (s.setCairn c).blkSt = s.blkSt := rfl
@[simp] theorem State.setCairn_upd (s : State) (c : Cairn) : (s.setCairn c).upd = s.upd := rfl
@[simp] theorem State.setCairn_tmr (s : State) (c : Cairn) : (s.setCairn c).tmr = s.tmr := rfl
@[simp] theorem State.setCairn_crest (s : State) (c : Cairn) : (s.setCairn c).crest = s.crest := rfl
@[simp] theorem State.setCairn_ptp (s : State) (c : Cairn) : (s.setCairn c).ptp = s.ptp := rfl
@[simp] theorem State.setCairn_ports (s : State) (c : Cairn) : (s.setCairn c).ports = s.ports := rfl
@[simp] theorem State.setCairn_ing (s : State) (c : Cairn) : (s.setCairn c).ing = s.ing := rfl
@[simp] theorem State.setCairn_spur (s : State) (c : Cairn) : (s.setCairn c).spur = s.spur := rfl
@[simp] theorem State.setCairn_con (s : State) (c : Cairn) : (s.setCairn c).con = s.con := rfl
@[simp] theorem State.setCairn_tm (s : State) (c : Cairn) : (s.setCairn c).tm = s.tm := rfl
@[simp] theorem State.setCairn_led (s : State) (c : Cairn) : (s.setCairn c).led = s.led := rfl
@[simp] theorem State.setCairn_ten (s : State) (c : Cairn) : (s.setCairn c).ten = s.ten := rfl
@[simp] theorem State.setCairn_zoa (s : State) (c : Cairn) : (s.setCairn c).zoa = s.zoa := rfl
@[simp] theorem State.setCairn_jrn (s : State) (c : Cairn) : (s.setCairn c).jrn = s.jrn := rfl
@[simp] theorem State.setCairn_ciph (s : State) (c : Cairn) : (s.setCairn c).ciph = s.ciph := rfl
@[simp] theorem State.setCairn_host (s : State) (c : Cairn) : (s.setCairn c).host = s.host := rfl
@[simp] theorem State.setCairn_rings (s : State) (c : Cairn) : (s.setCairn c).rings = s.rings := rfl
@[simp] theorem State.setCairn_mem (s : State) (c : Cairn) : (s.setCairn c).mem = s.mem := rfl
@[simp] theorem State.setCairn_sec (s : State) (c : Cairn) : (s.setCairn c).sec = s.sec := rfl
@[simp] theorem State.setCairn_back (s : State) (c : Cairn) : (s.setCairn c).back = s.back := rfl
@[simp] theorem State.setCairn_offAt (s : State) (c : Cairn) : (s.setCairn c).offAt = s.offAt := rfl
@[simp] theorem State.setCairn_out (s : State) (c : Cairn) : (s.setCairn c).out = s.out := rfl
@[simp] theorem State.setCairn_readData (s : State) (c : Cairn) : (s.setCairn c).readData = s.readData := rfl
@[simp] theorem State.setCairn_freeCtr (s : State) (c : Cairn) : (s.setCairn c).freeCtr = s.freeCtr := rfl

/-! ### putJob -/

@[simp] theorem State.putJob_pending (s : State) (id : Nat) (j : Option CipherJob) : (s.putJob id j).pending = s.pending := rfl
@[simp] theorem State.putJob_regs (s : State) (id : Nat) (j : Option CipherJob) : (s.putJob id j).regs = s.regs := rfl
@[simp] theorem State.putJob_incs (s : State) (id : Nat) (j : Option CipherJob) : (s.putJob id j).incs = s.incs := rfl
@[simp] theorem State.putJob_blkSt (s : State) (id : Nat) (j : Option CipherJob) : (s.putJob id j).blkSt = s.blkSt := rfl
@[simp] theorem State.putJob_upd (s : State) (id : Nat) (j : Option CipherJob) : (s.putJob id j).upd = s.upd := rfl
@[simp] theorem State.putJob_tmr (s : State) (id : Nat) (j : Option CipherJob) : (s.putJob id j).tmr = s.tmr := rfl
@[simp] theorem State.putJob_crest (s : State) (id : Nat) (j : Option CipherJob) : (s.putJob id j).crest = s.crest := rfl
@[simp] theorem State.putJob_ptp (s : State) (id : Nat) (j : Option CipherJob) : (s.putJob id j).ptp = s.ptp := rfl
@[simp] theorem State.putJob_ports (s : State) (id : Nat) (j : Option CipherJob) : (s.putJob id j).ports = s.ports := rfl
@[simp] theorem State.putJob_ing (s : State) (id : Nat) (j : Option CipherJob) : (s.putJob id j).ing = s.ing := rfl
@[simp] theorem State.putJob_spur (s : State) (id : Nat) (j : Option CipherJob) : (s.putJob id j).spur = s.spur := rfl
@[simp] theorem State.putJob_con (s : State) (id : Nat) (j : Option CipherJob) : (s.putJob id j).con = s.con := rfl
@[simp] theorem State.putJob_tm (s : State) (id : Nat) (j : Option CipherJob) : (s.putJob id j).tm = s.tm := rfl
@[simp] theorem State.putJob_led (s : State) (id : Nat) (j : Option CipherJob) : (s.putJob id j).led = s.led := rfl
@[simp] theorem State.putJob_ten (s : State) (id : Nat) (j : Option CipherJob) : (s.putJob id j).ten = s.ten := rfl
@[simp] theorem State.putJob_zoa (s : State) (id : Nat) (j : Option CipherJob) : (s.putJob id j).zoa = s.zoa := rfl
@[simp] theorem State.putJob_jrn (s : State) (id : Nat) (j : Option CipherJob) : (s.putJob id j).jrn = s.jrn := rfl
@[simp] theorem State.putJob_host (s : State) (id : Nat) (j : Option CipherJob) : (s.putJob id j).host = s.host := rfl
@[simp] theorem State.putJob_rings (s : State) (id : Nat) (j : Option CipherJob) : (s.putJob id j).rings = s.rings := rfl
@[simp] theorem State.putJob_mem (s : State) (id : Nat) (j : Option CipherJob) : (s.putJob id j).mem = s.mem := rfl
@[simp] theorem State.putJob_cairn (s : State) (id : Nat) (j : Option CipherJob) : (s.putJob id j).cairn = s.cairn := rfl
@[simp] theorem State.putJob_sec (s : State) (id : Nat) (j : Option CipherJob) : (s.putJob id j).sec = s.sec := rfl
@[simp] theorem State.putJob_back (s : State) (id : Nat) (j : Option CipherJob) : (s.putJob id j).back = s.back := rfl
@[simp] theorem State.putJob_offAt (s : State) (id : Nat) (j : Option CipherJob) : (s.putJob id j).offAt = s.offAt := rfl
@[simp] theorem State.putJob_out (s : State) (id : Nat) (j : Option CipherJob) : (s.putJob id j).out = s.out := rfl
@[simp] theorem State.putJob_readData (s : State) (id : Nat) (j : Option CipherJob) : (s.putJob id j).readData = s.readData := rfl
@[simp] theorem State.putJob_freeCtr (s : State) (id : Nat) (j : Option CipherJob) : (s.putJob id j).freeCtr = s.freeCtr := rfl

/-! ### putKey -/

@[simp] theorem State.putKey_pending (s : State) (i : Nat) (k : Option KeyRec) : (s.putKey i k).pending = s.pending := rfl
@[simp] theorem State.putKey_regs (s : State) (i : Nat) (k : Option KeyRec) : (s.putKey i k).regs = s.regs := rfl
@[simp] theorem State.putKey_incs (s : State) (i : Nat) (k : Option KeyRec) : (s.putKey i k).incs = s.incs := rfl
@[simp] theorem State.putKey_blkSt (s : State) (i : Nat) (k : Option KeyRec) : (s.putKey i k).blkSt = s.blkSt := rfl
@[simp] theorem State.putKey_upd (s : State) (i : Nat) (k : Option KeyRec) : (s.putKey i k).upd = s.upd := rfl
@[simp] theorem State.putKey_tmr (s : State) (i : Nat) (k : Option KeyRec) : (s.putKey i k).tmr = s.tmr := rfl
@[simp] theorem State.putKey_crest (s : State) (i : Nat) (k : Option KeyRec) : (s.putKey i k).crest = s.crest := rfl
@[simp] theorem State.putKey_ptp (s : State) (i : Nat) (k : Option KeyRec) : (s.putKey i k).ptp = s.ptp := rfl
@[simp] theorem State.putKey_ports (s : State) (i : Nat) (k : Option KeyRec) : (s.putKey i k).ports = s.ports := rfl
@[simp] theorem State.putKey_ing (s : State) (i : Nat) (k : Option KeyRec) : (s.putKey i k).ing = s.ing := rfl
@[simp] theorem State.putKey_spur (s : State) (i : Nat) (k : Option KeyRec) : (s.putKey i k).spur = s.spur := rfl
@[simp] theorem State.putKey_con (s : State) (i : Nat) (k : Option KeyRec) : (s.putKey i k).con = s.con := rfl
@[simp] theorem State.putKey_tm (s : State) (i : Nat) (k : Option KeyRec) : (s.putKey i k).tm = s.tm := rfl
@[simp] theorem State.putKey_led (s : State) (i : Nat) (k : Option KeyRec) : (s.putKey i k).led = s.led := rfl
@[simp] theorem State.putKey_ten (s : State) (i : Nat) (k : Option KeyRec) : (s.putKey i k).ten = s.ten := rfl
@[simp] theorem State.putKey_zoa (s : State) (i : Nat) (k : Option KeyRec) : (s.putKey i k).zoa = s.zoa := rfl
@[simp] theorem State.putKey_jrn (s : State) (i : Nat) (k : Option KeyRec) : (s.putKey i k).jrn = s.jrn := rfl
@[simp] theorem State.putKey_host (s : State) (i : Nat) (k : Option KeyRec) : (s.putKey i k).host = s.host := rfl
@[simp] theorem State.putKey_rings (s : State) (i : Nat) (k : Option KeyRec) : (s.putKey i k).rings = s.rings := rfl
@[simp] theorem State.putKey_mem (s : State) (i : Nat) (k : Option KeyRec) : (s.putKey i k).mem = s.mem := rfl
@[simp] theorem State.putKey_cairn (s : State) (i : Nat) (k : Option KeyRec) : (s.putKey i k).cairn = s.cairn := rfl
@[simp] theorem State.putKey_sec (s : State) (i : Nat) (k : Option KeyRec) : (s.putKey i k).sec = s.sec := rfl
@[simp] theorem State.putKey_back (s : State) (i : Nat) (k : Option KeyRec) : (s.putKey i k).back = s.back := rfl
@[simp] theorem State.putKey_offAt (s : State) (i : Nat) (k : Option KeyRec) : (s.putKey i k).offAt = s.offAt := rfl
@[simp] theorem State.putKey_out (s : State) (i : Nat) (k : Option KeyRec) : (s.putKey i k).out = s.out := rfl
@[simp] theorem State.putKey_readData (s : State) (i : Nat) (k : Option KeyRec) : (s.putKey i k).readData = s.readData := rfl
@[simp] theorem State.putKey_freeCtr (s : State) (i : Nat) (k : Option KeyRec) : (s.putKey i k).freeCtr = s.freeCtr := rfl

/-! ### setCaps -/

@[simp] theorem State.setCaps_pending (s : State) (i : Nat) (l : List (BitVec 64)) : (s.setCaps i l).pending = s.pending := rfl
@[simp] theorem State.setCaps_incs (s : State) (i : Nat) (l : List (BitVec 64)) : (s.setCaps i l).incs = s.incs := rfl
@[simp] theorem State.setCaps_blkSt (s : State) (i : Nat) (l : List (BitVec 64)) : (s.setCaps i l).blkSt = s.blkSt := rfl
@[simp] theorem State.setCaps_upd (s : State) (i : Nat) (l : List (BitVec 64)) : (s.setCaps i l).upd = s.upd := rfl
@[simp] theorem State.setCaps_tmr (s : State) (i : Nat) (l : List (BitVec 64)) : (s.setCaps i l).tmr = s.tmr := rfl
@[simp] theorem State.setCaps_ptp (s : State) (i : Nat) (l : List (BitVec 64)) : (s.setCaps i l).ptp = s.ptp := rfl
@[simp] theorem State.setCaps_ports (s : State) (i : Nat) (l : List (BitVec 64)) : (s.setCaps i l).ports = s.ports := rfl
@[simp] theorem State.setCaps_ing (s : State) (i : Nat) (l : List (BitVec 64)) : (s.setCaps i l).ing = s.ing := rfl
@[simp] theorem State.setCaps_spur (s : State) (i : Nat) (l : List (BitVec 64)) : (s.setCaps i l).spur = s.spur := rfl
@[simp] theorem State.setCaps_con (s : State) (i : Nat) (l : List (BitVec 64)) : (s.setCaps i l).con = s.con := rfl
@[simp] theorem State.setCaps_tm (s : State) (i : Nat) (l : List (BitVec 64)) : (s.setCaps i l).tm = s.tm := rfl
@[simp] theorem State.setCaps_led (s : State) (i : Nat) (l : List (BitVec 64)) : (s.setCaps i l).led = s.led := rfl
@[simp] theorem State.setCaps_ten (s : State) (i : Nat) (l : List (BitVec 64)) : (s.setCaps i l).ten = s.ten := rfl
@[simp] theorem State.setCaps_zoa (s : State) (i : Nat) (l : List (BitVec 64)) : (s.setCaps i l).zoa = s.zoa := rfl
@[simp] theorem State.setCaps_jrn (s : State) (i : Nat) (l : List (BitVec 64)) : (s.setCaps i l).jrn = s.jrn := rfl
@[simp] theorem State.setCaps_ciph (s : State) (i : Nat) (l : List (BitVec 64)) : (s.setCaps i l).ciph = s.ciph := rfl
@[simp] theorem State.setCaps_host (s : State) (i : Nat) (l : List (BitVec 64)) : (s.setCaps i l).host = s.host := rfl
@[simp] theorem State.setCaps_rings (s : State) (i : Nat) (l : List (BitVec 64)) : (s.setCaps i l).rings = s.rings := rfl
@[simp] theorem State.setCaps_mem (s : State) (i : Nat) (l : List (BitVec 64)) : (s.setCaps i l).mem = s.mem := rfl
@[simp] theorem State.setCaps_cairn (s : State) (i : Nat) (l : List (BitVec 64)) : (s.setCaps i l).cairn = s.cairn := rfl
@[simp] theorem State.setCaps_sec (s : State) (i : Nat) (l : List (BitVec 64)) : (s.setCaps i l).sec = s.sec := rfl
@[simp] theorem State.setCaps_back (s : State) (i : Nat) (l : List (BitVec 64)) : (s.setCaps i l).back = s.back := rfl
@[simp] theorem State.setCaps_offAt (s : State) (i : Nat) (l : List (BitVec 64)) : (s.setCaps i l).offAt = s.offAt := rfl
@[simp] theorem State.setCaps_out (s : State) (i : Nat) (l : List (BitVec 64)) : (s.setCaps i l).out = s.out := rfl
@[simp] theorem State.setCaps_readData (s : State) (i : Nat) (l : List (BitVec 64)) : (s.setCaps i l).readData = s.readData := rfl
@[simp] theorem State.setCaps_freeCtr (s : State) (i : Nat) (l : List (BitVec 64)) : (s.setCaps i l).freeCtr = s.freeCtr := rfl

/-! ### setRing -/

@[simp] theorem State.setRing_pending (s : State) (r : Nat) (v : RingSt) : (s.setRing r v).pending = s.pending := rfl
@[simp] theorem State.setRing_regs (s : State) (r : Nat) (v : RingSt) : (s.setRing r v).regs = s.regs := rfl
@[simp] theorem State.setRing_incs (s : State) (r : Nat) (v : RingSt) : (s.setRing r v).incs = s.incs := rfl
@[simp] theorem State.setRing_blkSt (s : State) (r : Nat) (v : RingSt) : (s.setRing r v).blkSt = s.blkSt := rfl
@[simp] theorem State.setRing_upd (s : State) (r : Nat) (v : RingSt) : (s.setRing r v).upd = s.upd := rfl
@[simp] theorem State.setRing_tmr (s : State) (r : Nat) (v : RingSt) : (s.setRing r v).tmr = s.tmr := rfl
@[simp] theorem State.setRing_crest (s : State) (r : Nat) (v : RingSt) : (s.setRing r v).crest = s.crest := rfl
@[simp] theorem State.setRing_ptp (s : State) (r : Nat) (v : RingSt) : (s.setRing r v).ptp = s.ptp := rfl
@[simp] theorem State.setRing_ports (s : State) (r : Nat) (v : RingSt) : (s.setRing r v).ports = s.ports := rfl
@[simp] theorem State.setRing_ing (s : State) (r : Nat) (v : RingSt) : (s.setRing r v).ing = s.ing := rfl
@[simp] theorem State.setRing_spur (s : State) (r : Nat) (v : RingSt) : (s.setRing r v).spur = s.spur := rfl
@[simp] theorem State.setRing_con (s : State) (r : Nat) (v : RingSt) : (s.setRing r v).con = s.con := rfl
@[simp] theorem State.setRing_tm (s : State) (r : Nat) (v : RingSt) : (s.setRing r v).tm = s.tm := rfl
@[simp] theorem State.setRing_led (s : State) (r : Nat) (v : RingSt) : (s.setRing r v).led = s.led := rfl
@[simp] theorem State.setRing_ten (s : State) (r : Nat) (v : RingSt) : (s.setRing r v).ten = s.ten := rfl
@[simp] theorem State.setRing_zoa (s : State) (r : Nat) (v : RingSt) : (s.setRing r v).zoa = s.zoa := rfl
@[simp] theorem State.setRing_jrn (s : State) (r : Nat) (v : RingSt) : (s.setRing r v).jrn = s.jrn := rfl
@[simp] theorem State.setRing_ciph (s : State) (r : Nat) (v : RingSt) : (s.setRing r v).ciph = s.ciph := rfl
@[simp] theorem State.setRing_host (s : State) (r : Nat) (v : RingSt) : (s.setRing r v).host = s.host := rfl
@[simp] theorem State.setRing_mem (s : State) (r : Nat) (v : RingSt) : (s.setRing r v).mem = s.mem := rfl
@[simp] theorem State.setRing_cairn (s : State) (r : Nat) (v : RingSt) : (s.setRing r v).cairn = s.cairn := rfl
@[simp] theorem State.setRing_sec (s : State) (r : Nat) (v : RingSt) : (s.setRing r v).sec = s.sec := rfl
@[simp] theorem State.setRing_back (s : State) (r : Nat) (v : RingSt) : (s.setRing r v).back = s.back := rfl
@[simp] theorem State.setRing_offAt (s : State) (r : Nat) (v : RingSt) : (s.setRing r v).offAt = s.offAt := rfl
@[simp] theorem State.setRing_out (s : State) (r : Nat) (v : RingSt) : (s.setRing r v).out = s.out := rfl
@[simp] theorem State.setRing_readData (s : State) (r : Nat) (v : RingSt) : (s.setRing r v).readData = s.readData := rfl
@[simp] theorem State.setRing_freeCtr (s : State) (r : Nat) (v : RingSt) : (s.setRing r v).freeCtr = s.freeCtr := rfl

/-! ### putJ -/

@[simp] theorem State.putJ_pending (s : State) (k : Nat) (c : Option JCmd) : (s.putJ k c).pending = s.pending := rfl
@[simp] theorem State.putJ_regs (s : State) (k : Nat) (c : Option JCmd) : (s.putJ k c).regs = s.regs := rfl
@[simp] theorem State.putJ_incs (s : State) (k : Nat) (c : Option JCmd) : (s.putJ k c).incs = s.incs := rfl
@[simp] theorem State.putJ_blkSt (s : State) (k : Nat) (c : Option JCmd) : (s.putJ k c).blkSt = s.blkSt := rfl
@[simp] theorem State.putJ_upd (s : State) (k : Nat) (c : Option JCmd) : (s.putJ k c).upd = s.upd := rfl
@[simp] theorem State.putJ_tmr (s : State) (k : Nat) (c : Option JCmd) : (s.putJ k c).tmr = s.tmr := rfl
@[simp] theorem State.putJ_crest (s : State) (k : Nat) (c : Option JCmd) : (s.putJ k c).crest = s.crest := rfl
@[simp] theorem State.putJ_ptp (s : State) (k : Nat) (c : Option JCmd) : (s.putJ k c).ptp = s.ptp := rfl
@[simp] theorem State.putJ_ports (s : State) (k : Nat) (c : Option JCmd) : (s.putJ k c).ports = s.ports := rfl
@[simp] theorem State.putJ_ing (s : State) (k : Nat) (c : Option JCmd) : (s.putJ k c).ing = s.ing := rfl
@[simp] theorem State.putJ_spur (s : State) (k : Nat) (c : Option JCmd) : (s.putJ k c).spur = s.spur := rfl
@[simp] theorem State.putJ_con (s : State) (k : Nat) (c : Option JCmd) : (s.putJ k c).con = s.con := rfl
@[simp] theorem State.putJ_tm (s : State) (k : Nat) (c : Option JCmd) : (s.putJ k c).tm = s.tm := rfl
@[simp] theorem State.putJ_led (s : State) (k : Nat) (c : Option JCmd) : (s.putJ k c).led = s.led := rfl
@[simp] theorem State.putJ_ten (s : State) (k : Nat) (c : Option JCmd) : (s.putJ k c).ten = s.ten := rfl
@[simp] theorem State.putJ_zoa (s : State) (k : Nat) (c : Option JCmd) : (s.putJ k c).zoa = s.zoa := rfl
@[simp] theorem State.putJ_ciph (s : State) (k : Nat) (c : Option JCmd) : (s.putJ k c).ciph = s.ciph := rfl
@[simp] theorem State.putJ_host (s : State) (k : Nat) (c : Option JCmd) : (s.putJ k c).host = s.host := rfl
@[simp] theorem State.putJ_rings (s : State) (k : Nat) (c : Option JCmd) : (s.putJ k c).rings = s.rings := rfl
@[simp] theorem State.putJ_mem (s : State) (k : Nat) (c : Option JCmd) : (s.putJ k c).mem = s.mem := rfl
@[simp] theorem State.putJ_cairn (s : State) (k : Nat) (c : Option JCmd) : (s.putJ k c).cairn = s.cairn := rfl
@[simp] theorem State.putJ_sec (s : State) (k : Nat) (c : Option JCmd) : (s.putJ k c).sec = s.sec := rfl
@[simp] theorem State.putJ_back (s : State) (k : Nat) (c : Option JCmd) : (s.putJ k c).back = s.back := rfl
@[simp] theorem State.putJ_offAt (s : State) (k : Nat) (c : Option JCmd) : (s.putJ k c).offAt = s.offAt := rfl
@[simp] theorem State.putJ_out (s : State) (k : Nat) (c : Option JCmd) : (s.putJ k c).out = s.out := rfl
@[simp] theorem State.putJ_readData (s : State) (k : Nat) (c : Option JCmd) : (s.putJ k c).readData = s.readData := rfl
@[simp] theorem State.putJ_freeCtr (s : State) (k : Nat) (c : Option JCmd) : (s.putJ k c).freeCtr = s.freeCtr := rfl

/-! ### setLane -/

@[simp] theorem State.setLane_pending (s : State) (l : Nat) (c : LaneCal) : (s.setLane l c).pending = s.pending := rfl
@[simp] theorem State.setLane_regs (s : State) (l : Nat) (c : LaneCal) : (s.setLane l c).regs = s.regs := rfl
@[simp] theorem State.setLane_incs (s : State) (l : Nat) (c : LaneCal) : (s.setLane l c).incs = s.incs := rfl
@[simp] theorem State.setLane_blkSt (s : State) (l : Nat) (c : LaneCal) : (s.setLane l c).blkSt = s.blkSt := rfl
@[simp] theorem State.setLane_upd (s : State) (l : Nat) (c : LaneCal) : (s.setLane l c).upd = s.upd := rfl
@[simp] theorem State.setLane_tmr (s : State) (l : Nat) (c : LaneCal) : (s.setLane l c).tmr = s.tmr := rfl
@[simp] theorem State.setLane_crest (s : State) (l : Nat) (c : LaneCal) : (s.setLane l c).crest = s.crest := rfl
@[simp] theorem State.setLane_ptp (s : State) (l : Nat) (c : LaneCal) : (s.setLane l c).ptp = s.ptp := rfl
@[simp] theorem State.setLane_ing (s : State) (l : Nat) (c : LaneCal) : (s.setLane l c).ing = s.ing := rfl
@[simp] theorem State.setLane_spur (s : State) (l : Nat) (c : LaneCal) : (s.setLane l c).spur = s.spur := rfl
@[simp] theorem State.setLane_con (s : State) (l : Nat) (c : LaneCal) : (s.setLane l c).con = s.con := rfl
@[simp] theorem State.setLane_tm (s : State) (l : Nat) (c : LaneCal) : (s.setLane l c).tm = s.tm := rfl
@[simp] theorem State.setLane_led (s : State) (l : Nat) (c : LaneCal) : (s.setLane l c).led = s.led := rfl
@[simp] theorem State.setLane_ten (s : State) (l : Nat) (c : LaneCal) : (s.setLane l c).ten = s.ten := rfl
@[simp] theorem State.setLane_zoa (s : State) (l : Nat) (c : LaneCal) : (s.setLane l c).zoa = s.zoa := rfl
@[simp] theorem State.setLane_jrn (s : State) (l : Nat) (c : LaneCal) : (s.setLane l c).jrn = s.jrn := rfl
@[simp] theorem State.setLane_ciph (s : State) (l : Nat) (c : LaneCal) : (s.setLane l c).ciph = s.ciph := rfl
@[simp] theorem State.setLane_host (s : State) (l : Nat) (c : LaneCal) : (s.setLane l c).host = s.host := rfl
@[simp] theorem State.setLane_rings (s : State) (l : Nat) (c : LaneCal) : (s.setLane l c).rings = s.rings := rfl
@[simp] theorem State.setLane_mem (s : State) (l : Nat) (c : LaneCal) : (s.setLane l c).mem = s.mem := rfl
@[simp] theorem State.setLane_cairn (s : State) (l : Nat) (c : LaneCal) : (s.setLane l c).cairn = s.cairn := rfl
@[simp] theorem State.setLane_sec (s : State) (l : Nat) (c : LaneCal) : (s.setLane l c).sec = s.sec := rfl
@[simp] theorem State.setLane_back (s : State) (l : Nat) (c : LaneCal) : (s.setLane l c).back = s.back := rfl
@[simp] theorem State.setLane_offAt (s : State) (l : Nat) (c : LaneCal) : (s.setLane l c).offAt = s.offAt := rfl
@[simp] theorem State.setLane_out (s : State) (l : Nat) (c : LaneCal) : (s.setLane l c).out = s.out := rfl
@[simp] theorem State.setLane_readData (s : State) (l : Nat) (c : LaneCal) : (s.setLane l c).readData = s.readData := rfl
@[simp] theorem State.setLane_freeCtr (s : State) (l : Nat) (c : LaneCal) : (s.setLane l c).freeCtr = s.freeCtr := rfl

/-! ### putFrame -/

@[simp] theorem State.putFrame_pending (s : State) (i : Nat) (f : Frame) : (s.putFrame i f).pending = s.pending := rfl
@[simp] theorem State.putFrame_regs (s : State) (i : Nat) (f : Frame) : (s.putFrame i f).regs = s.regs := rfl
@[simp] theorem State.putFrame_incs (s : State) (i : Nat) (f : Frame) : (s.putFrame i f).incs = s.incs := rfl
@[simp] theorem State.putFrame_blkSt (s : State) (i : Nat) (f : Frame) : (s.putFrame i f).blkSt = s.blkSt := rfl
@[simp] theorem State.putFrame_upd (s : State) (i : Nat) (f : Frame) : (s.putFrame i f).upd = s.upd := rfl
@[simp] theorem State.putFrame_tmr (s : State) (i : Nat) (f : Frame) : (s.putFrame i f).tmr = s.tmr := rfl
@[simp] theorem State.putFrame_crest (s : State) (i : Nat) (f : Frame) : (s.putFrame i f).crest = s.crest := rfl
@[simp] theorem State.putFrame_ptp (s : State) (i : Nat) (f : Frame) : (s.putFrame i f).ptp = s.ptp := rfl
@[simp] theorem State.putFrame_ing (s : State) (i : Nat) (f : Frame) : (s.putFrame i f).ing = s.ing := rfl
@[simp] theorem State.putFrame_spur (s : State) (i : Nat) (f : Frame) : (s.putFrame i f).spur = s.spur := rfl
@[simp] theorem State.putFrame_con (s : State) (i : Nat) (f : Frame) : (s.putFrame i f).con = s.con := rfl
@[simp] theorem State.putFrame_tm (s : State) (i : Nat) (f : Frame) : (s.putFrame i f).tm = s.tm := rfl
@[simp] theorem State.putFrame_led (s : State) (i : Nat) (f : Frame) : (s.putFrame i f).led = s.led := rfl
@[simp] theorem State.putFrame_ten (s : State) (i : Nat) (f : Frame) : (s.putFrame i f).ten = s.ten := rfl
@[simp] theorem State.putFrame_zoa (s : State) (i : Nat) (f : Frame) : (s.putFrame i f).zoa = s.zoa := rfl
@[simp] theorem State.putFrame_jrn (s : State) (i : Nat) (f : Frame) : (s.putFrame i f).jrn = s.jrn := rfl
@[simp] theorem State.putFrame_ciph (s : State) (i : Nat) (f : Frame) : (s.putFrame i f).ciph = s.ciph := rfl
@[simp] theorem State.putFrame_host (s : State) (i : Nat) (f : Frame) : (s.putFrame i f).host = s.host := rfl
@[simp] theorem State.putFrame_rings (s : State) (i : Nat) (f : Frame) : (s.putFrame i f).rings = s.rings := rfl
@[simp] theorem State.putFrame_mem (s : State) (i : Nat) (f : Frame) : (s.putFrame i f).mem = s.mem := rfl
@[simp] theorem State.putFrame_cairn (s : State) (i : Nat) (f : Frame) : (s.putFrame i f).cairn = s.cairn := rfl
@[simp] theorem State.putFrame_sec (s : State) (i : Nat) (f : Frame) : (s.putFrame i f).sec = s.sec := rfl
@[simp] theorem State.putFrame_back (s : State) (i : Nat) (f : Frame) : (s.putFrame i f).back = s.back := rfl
@[simp] theorem State.putFrame_offAt (s : State) (i : Nat) (f : Frame) : (s.putFrame i f).offAt = s.offAt := rfl
@[simp] theorem State.putFrame_out (s : State) (i : Nat) (f : Frame) : (s.putFrame i f).out = s.out := rfl
@[simp] theorem State.putFrame_readData (s : State) (i : Nat) (f : Frame) : (s.putFrame i f).readData = s.readData := rfl
@[simp] theorem State.putFrame_freeCtr (s : State) (i : Nat) (f : Frame) : (s.putFrame i f).freeCtr = s.freeCtr := rfl

/-! ### setLed -/

@[simp] theorem State.setLed_pending (s : State) (l : Nat) (v : LedLane) : (s.setLed l v).pending = s.pending := rfl
@[simp] theorem State.setLed_regs (s : State) (l : Nat) (v : LedLane) : (s.setLed l v).regs = s.regs := rfl
@[simp] theorem State.setLed_incs (s : State) (l : Nat) (v : LedLane) : (s.setLed l v).incs = s.incs := rfl
@[simp] theorem State.setLed_blkSt (s : State) (l : Nat) (v : LedLane) : (s.setLed l v).blkSt = s.blkSt := rfl
@[simp] theorem State.setLed_upd (s : State) (l : Nat) (v : LedLane) : (s.setLed l v).upd = s.upd := rfl
@[simp] theorem State.setLed_tmr (s : State) (l : Nat) (v : LedLane) : (s.setLed l v).tmr = s.tmr := rfl
@[simp] theorem State.setLed_crest (s : State) (l : Nat) (v : LedLane) : (s.setLed l v).crest = s.crest := rfl
@[simp] theorem State.setLed_ptp (s : State) (l : Nat) (v : LedLane) : (s.setLed l v).ptp = s.ptp := rfl
@[simp] theorem State.setLed_ports (s : State) (l : Nat) (v : LedLane) : (s.setLed l v).ports = s.ports := rfl
@[simp] theorem State.setLed_ing (s : State) (l : Nat) (v : LedLane) : (s.setLed l v).ing = s.ing := rfl
@[simp] theorem State.setLed_spur (s : State) (l : Nat) (v : LedLane) : (s.setLed l v).spur = s.spur := rfl
@[simp] theorem State.setLed_con (s : State) (l : Nat) (v : LedLane) : (s.setLed l v).con = s.con := rfl
@[simp] theorem State.setLed_tm (s : State) (l : Nat) (v : LedLane) : (s.setLed l v).tm = s.tm := rfl
@[simp] theorem State.setLed_ten (s : State) (l : Nat) (v : LedLane) : (s.setLed l v).ten = s.ten := rfl
@[simp] theorem State.setLed_zoa (s : State) (l : Nat) (v : LedLane) : (s.setLed l v).zoa = s.zoa := rfl
@[simp] theorem State.setLed_jrn (s : State) (l : Nat) (v : LedLane) : (s.setLed l v).jrn = s.jrn := rfl
@[simp] theorem State.setLed_ciph (s : State) (l : Nat) (v : LedLane) : (s.setLed l v).ciph = s.ciph := rfl
@[simp] theorem State.setLed_host (s : State) (l : Nat) (v : LedLane) : (s.setLed l v).host = s.host := rfl
@[simp] theorem State.setLed_rings (s : State) (l : Nat) (v : LedLane) : (s.setLed l v).rings = s.rings := rfl
@[simp] theorem State.setLed_mem (s : State) (l : Nat) (v : LedLane) : (s.setLed l v).mem = s.mem := rfl
@[simp] theorem State.setLed_cairn (s : State) (l : Nat) (v : LedLane) : (s.setLed l v).cairn = s.cairn := rfl
@[simp] theorem State.setLed_sec (s : State) (l : Nat) (v : LedLane) : (s.setLed l v).sec = s.sec := rfl
@[simp] theorem State.setLed_back (s : State) (l : Nat) (v : LedLane) : (s.setLed l v).back = s.back := rfl
@[simp] theorem State.setLed_offAt (s : State) (l : Nat) (v : LedLane) : (s.setLed l v).offAt = s.offAt := rfl
@[simp] theorem State.setLed_out (s : State) (l : Nat) (v : LedLane) : (s.setLed l v).out = s.out := rfl
@[simp] theorem State.setLed_readData (s : State) (l : Nat) (v : LedLane) : (s.setLed l v).readData = s.readData := rfl
@[simp] theorem State.setLed_freeCtr (s : State) (l : Nat) (v : LedLane) : (s.setLed l v).freeCtr = s.freeCtr := rfl

/-! ### setPtp -/

@[simp] theorem State.setPtp_pending (s : State) (p : Ptp) : (s.setPtp p).pending = s.pending := rfl
@[simp] theorem State.setPtp_regs (s : State) (p : Ptp) : (s.setPtp p).regs = s.regs := rfl
@[simp] theorem State.setPtp_incs (s : State) (p : Ptp) : (s.setPtp p).incs = s.incs := rfl
@[simp] theorem State.setPtp_blkSt (s : State) (p : Ptp) : (s.setPtp p).blkSt = s.blkSt := rfl
@[simp] theorem State.setPtp_upd (s : State) (p : Ptp) : (s.setPtp p).upd = s.upd := rfl
@[simp] theorem State.setPtp_tmr (s : State) (p : Ptp) : (s.setPtp p).tmr = s.tmr := rfl
@[simp] theorem State.setPtp_crest (s : State) (p : Ptp) : (s.setPtp p).crest = s.crest := rfl
@[simp] theorem State.setPtp_ports (s : State) (p : Ptp) : (s.setPtp p).ports = s.ports := rfl
@[simp] theorem State.setPtp_ing (s : State) (p : Ptp) : (s.setPtp p).ing = s.ing := rfl
@[simp] theorem State.setPtp_spur (s : State) (p : Ptp) : (s.setPtp p).spur = s.spur := rfl
@[simp] theorem State.setPtp_con (s : State) (p : Ptp) : (s.setPtp p).con = s.con := rfl
@[simp] theorem State.setPtp_tm (s : State) (p : Ptp) : (s.setPtp p).tm = s.tm := rfl
@[simp] theorem State.setPtp_led (s : State) (p : Ptp) : (s.setPtp p).led = s.led := rfl
@[simp] theorem State.setPtp_ten (s : State) (p : Ptp) : (s.setPtp p).ten = s.ten := rfl
@[simp] theorem State.setPtp_zoa (s : State) (p : Ptp) : (s.setPtp p).zoa = s.zoa := rfl
@[simp] theorem State.setPtp_jrn (s : State) (p : Ptp) : (s.setPtp p).jrn = s.jrn := rfl
@[simp] theorem State.setPtp_ciph (s : State) (p : Ptp) : (s.setPtp p).ciph = s.ciph := rfl
@[simp] theorem State.setPtp_host (s : State) (p : Ptp) : (s.setPtp p).host = s.host := rfl
@[simp] theorem State.setPtp_rings (s : State) (p : Ptp) : (s.setPtp p).rings = s.rings := rfl
@[simp] theorem State.setPtp_mem (s : State) (p : Ptp) : (s.setPtp p).mem = s.mem := rfl
@[simp] theorem State.setPtp_cairn (s : State) (p : Ptp) : (s.setPtp p).cairn = s.cairn := rfl
@[simp] theorem State.setPtp_sec (s : State) (p : Ptp) : (s.setPtp p).sec = s.sec := rfl
@[simp] theorem State.setPtp_back (s : State) (p : Ptp) : (s.setPtp p).back = s.back := rfl
@[simp] theorem State.setPtp_offAt (s : State) (p : Ptp) : (s.setPtp p).offAt = s.offAt := rfl
@[simp] theorem State.setPtp_out (s : State) (p : Ptp) : (s.setPtp p).out = s.out := rfl
@[simp] theorem State.setPtp_readData (s : State) (p : Ptp) : (s.setPtp p).readData = s.readData := rfl
@[simp] theorem State.setPtp_freeCtr (s : State) (p : Ptp) : (s.setPtp p).freeCtr = s.freeCtr := rfl

/-! ### setPci -/

@[simp] theorem State.setPci_pending (s : State) (f : Nat) (p : PciFn) : (s.setPci f p).pending = s.pending := rfl
@[simp] theorem State.setPci_regs (s : State) (f : Nat) (p : PciFn) : (s.setPci f p).regs = s.regs := rfl
@[simp] theorem State.setPci_incs (s : State) (f : Nat) (p : PciFn) : (s.setPci f p).incs = s.incs := rfl
@[simp] theorem State.setPci_blkSt (s : State) (f : Nat) (p : PciFn) : (s.setPci f p).blkSt = s.blkSt := rfl
@[simp] theorem State.setPci_upd (s : State) (f : Nat) (p : PciFn) : (s.setPci f p).upd = s.upd := rfl
@[simp] theorem State.setPci_tmr (s : State) (f : Nat) (p : PciFn) : (s.setPci f p).tmr = s.tmr := rfl
@[simp] theorem State.setPci_crest (s : State) (f : Nat) (p : PciFn) : (s.setPci f p).crest = s.crest := rfl
@[simp] theorem State.setPci_ptp (s : State) (f : Nat) (p : PciFn) : (s.setPci f p).ptp = s.ptp := rfl
@[simp] theorem State.setPci_ports (s : State) (f : Nat) (p : PciFn) : (s.setPci f p).ports = s.ports := rfl
@[simp] theorem State.setPci_ing (s : State) (f : Nat) (p : PciFn) : (s.setPci f p).ing = s.ing := rfl
@[simp] theorem State.setPci_spur (s : State) (f : Nat) (p : PciFn) : (s.setPci f p).spur = s.spur := rfl
@[simp] theorem State.setPci_con (s : State) (f : Nat) (p : PciFn) : (s.setPci f p).con = s.con := rfl
@[simp] theorem State.setPci_tm (s : State) (f : Nat) (p : PciFn) : (s.setPci f p).tm = s.tm := rfl
@[simp] theorem State.setPci_led (s : State) (f : Nat) (p : PciFn) : (s.setPci f p).led = s.led := rfl
@[simp] theorem State.setPci_ten (s : State) (f : Nat) (p : PciFn) : (s.setPci f p).ten = s.ten := rfl
@[simp] theorem State.setPci_zoa (s : State) (f : Nat) (p : PciFn) : (s.setPci f p).zoa = s.zoa := rfl
@[simp] theorem State.setPci_jrn (s : State) (f : Nat) (p : PciFn) : (s.setPci f p).jrn = s.jrn := rfl
@[simp] theorem State.setPci_ciph (s : State) (f : Nat) (p : PciFn) : (s.setPci f p).ciph = s.ciph := rfl
@[simp] theorem State.setPci_rings (s : State) (f : Nat) (p : PciFn) : (s.setPci f p).rings = s.rings := rfl
@[simp] theorem State.setPci_mem (s : State) (f : Nat) (p : PciFn) : (s.setPci f p).mem = s.mem := rfl
@[simp] theorem State.setPci_cairn (s : State) (f : Nat) (p : PciFn) : (s.setPci f p).cairn = s.cairn := rfl
@[simp] theorem State.setPci_sec (s : State) (f : Nat) (p : PciFn) : (s.setPci f p).sec = s.sec := rfl
@[simp] theorem State.setPci_back (s : State) (f : Nat) (p : PciFn) : (s.setPci f p).back = s.back := rfl
@[simp] theorem State.setPci_offAt (s : State) (f : Nat) (p : PciFn) : (s.setPci f p).offAt = s.offAt := rfl
@[simp] theorem State.setPci_out (s : State) (f : Nat) (p : PciFn) : (s.setPci f p).out = s.out := rfl
@[simp] theorem State.setPci_readData (s : State) (f : Nat) (p : PciFn) : (s.setPci f p).readData = s.readData := rfl
@[simp] theorem State.setPci_freeCtr (s : State) (f : Nat) (p : PciFn) : (s.setPci f p).freeCtr = s.freeCtr := rfl

/-! ### setSec -/

@[simp] theorem State.setSec_pending (s : State) (c : Sec) : (s.setSec c).pending = s.pending := rfl
@[simp] theorem State.setSec_regs (s : State) (c : Sec) : (s.setSec c).regs = s.regs := rfl
@[simp] theorem State.setSec_incs (s : State) (c : Sec) : (s.setSec c).incs = s.incs := rfl
@[simp] theorem State.setSec_blkSt (s : State) (c : Sec) : (s.setSec c).blkSt = s.blkSt := rfl
@[simp] theorem State.setSec_upd (s : State) (c : Sec) : (s.setSec c).upd = s.upd := rfl
@[simp] theorem State.setSec_tmr (s : State) (c : Sec) : (s.setSec c).tmr = s.tmr := rfl
@[simp] theorem State.setSec_crest (s : State) (c : Sec) : (s.setSec c).crest = s.crest := rfl
@[simp] theorem State.setSec_ptp (s : State) (c : Sec) : (s.setSec c).ptp = s.ptp := rfl
@[simp] theorem State.setSec_ports (s : State) (c : Sec) : (s.setSec c).ports = s.ports := rfl
@[simp] theorem State.setSec_ing (s : State) (c : Sec) : (s.setSec c).ing = s.ing := rfl
@[simp] theorem State.setSec_spur (s : State) (c : Sec) : (s.setSec c).spur = s.spur := rfl
@[simp] theorem State.setSec_con (s : State) (c : Sec) : (s.setSec c).con = s.con := rfl
@[simp] theorem State.setSec_tm (s : State) (c : Sec) : (s.setSec c).tm = s.tm := rfl
@[simp] theorem State.setSec_led (s : State) (c : Sec) : (s.setSec c).led = s.led := rfl
@[simp] theorem State.setSec_ten (s : State) (c : Sec) : (s.setSec c).ten = s.ten := rfl
@[simp] theorem State.setSec_zoa (s : State) (c : Sec) : (s.setSec c).zoa = s.zoa := rfl
@[simp] theorem State.setSec_jrn (s : State) (c : Sec) : (s.setSec c).jrn = s.jrn := rfl
@[simp] theorem State.setSec_ciph (s : State) (c : Sec) : (s.setSec c).ciph = s.ciph := rfl
@[simp] theorem State.setSec_host (s : State) (c : Sec) : (s.setSec c).host = s.host := rfl
@[simp] theorem State.setSec_rings (s : State) (c : Sec) : (s.setSec c).rings = s.rings := rfl
@[simp] theorem State.setSec_mem (s : State) (c : Sec) : (s.setSec c).mem = s.mem := rfl
@[simp] theorem State.setSec_cairn (s : State) (c : Sec) : (s.setSec c).cairn = s.cairn := rfl
@[simp] theorem State.setSec_back (s : State) (c : Sec) : (s.setSec c).back = s.back := rfl
@[simp] theorem State.setSec_offAt (s : State) (c : Sec) : (s.setSec c).offAt = s.offAt := rfl
@[simp] theorem State.setSec_out (s : State) (c : Sec) : (s.setSec c).out = s.out := rfl
@[simp] theorem State.setSec_readData (s : State) (c : Sec) : (s.setSec c).readData = s.readData := rfl
@[simp] theorem State.setSec_freeCtr (s : State) (c : Sec) : (s.setSec c).freeCtr = s.freeCtr := rfl

/-! ### putTen -/

@[simp] theorem State.putTen_pending (s : State) (v : Nat) (t : Option Tenant) : (s.putTen v t).pending = s.pending := rfl
@[simp] theorem State.putTen_regs (s : State) (v : Nat) (t : Option Tenant) : (s.putTen v t).regs = s.regs := rfl
@[simp] theorem State.putTen_incs (s : State) (v : Nat) (t : Option Tenant) : (s.putTen v t).incs = s.incs := rfl
@[simp] theorem State.putTen_blkSt (s : State) (v : Nat) (t : Option Tenant) : (s.putTen v t).blkSt = s.blkSt := rfl
@[simp] theorem State.putTen_upd (s : State) (v : Nat) (t : Option Tenant) : (s.putTen v t).upd = s.upd := rfl
@[simp] theorem State.putTen_tmr (s : State) (v : Nat) (t : Option Tenant) : (s.putTen v t).tmr = s.tmr := rfl
@[simp] theorem State.putTen_crest (s : State) (v : Nat) (t : Option Tenant) : (s.putTen v t).crest = s.crest := rfl
@[simp] theorem State.putTen_ptp (s : State) (v : Nat) (t : Option Tenant) : (s.putTen v t).ptp = s.ptp := rfl
@[simp] theorem State.putTen_ports (s : State) (v : Nat) (t : Option Tenant) : (s.putTen v t).ports = s.ports := rfl
@[simp] theorem State.putTen_ing (s : State) (v : Nat) (t : Option Tenant) : (s.putTen v t).ing = s.ing := rfl
@[simp] theorem State.putTen_spur (s : State) (v : Nat) (t : Option Tenant) : (s.putTen v t).spur = s.spur := rfl
@[simp] theorem State.putTen_con (s : State) (v : Nat) (t : Option Tenant) : (s.putTen v t).con = s.con := rfl
@[simp] theorem State.putTen_tm (s : State) (v : Nat) (t : Option Tenant) : (s.putTen v t).tm = s.tm := rfl
@[simp] theorem State.putTen_led (s : State) (v : Nat) (t : Option Tenant) : (s.putTen v t).led = s.led := rfl
@[simp] theorem State.putTen_zoa (s : State) (v : Nat) (t : Option Tenant) : (s.putTen v t).zoa = s.zoa := rfl
@[simp] theorem State.putTen_jrn (s : State) (v : Nat) (t : Option Tenant) : (s.putTen v t).jrn = s.jrn := rfl
@[simp] theorem State.putTen_ciph (s : State) (v : Nat) (t : Option Tenant) : (s.putTen v t).ciph = s.ciph := rfl
@[simp] theorem State.putTen_host (s : State) (v : Nat) (t : Option Tenant) : (s.putTen v t).host = s.host := rfl
@[simp] theorem State.putTen_rings (s : State) (v : Nat) (t : Option Tenant) : (s.putTen v t).rings = s.rings := rfl
@[simp] theorem State.putTen_mem (s : State) (v : Nat) (t : Option Tenant) : (s.putTen v t).mem = s.mem := rfl
@[simp] theorem State.putTen_cairn (s : State) (v : Nat) (t : Option Tenant) : (s.putTen v t).cairn = s.cairn := rfl
@[simp] theorem State.putTen_sec (s : State) (v : Nat) (t : Option Tenant) : (s.putTen v t).sec = s.sec := rfl
@[simp] theorem State.putTen_back (s : State) (v : Nat) (t : Option Tenant) : (s.putTen v t).back = s.back := rfl
@[simp] theorem State.putTen_offAt (s : State) (v : Nat) (t : Option Tenant) : (s.putTen v t).offAt = s.offAt := rfl
@[simp] theorem State.putTen_out (s : State) (v : Nat) (t : Option Tenant) : (s.putTen v t).out = s.out := rfl
@[simp] theorem State.putTen_readData (s : State) (v : Nat) (t : Option Tenant) : (s.putTen v t).readData = s.readData := rfl
@[simp] theorem State.putTen_freeCtr (s : State) (v : Nat) (t : Option Tenant) : (s.putTen v t).freeCtr = s.freeCtr := rfl

/-! ### setBucket -/

@[simp] theorem State.setBucket_pending (s : State) (p q : Nat) (v : Int × Int) : (s.setBucket p q v).pending = s.pending := rfl
@[simp] theorem State.setBucket_regs (s : State) (p q : Nat) (v : Int × Int) : (s.setBucket p q v).regs = s.regs := rfl
@[simp] theorem State.setBucket_incs (s : State) (p q : Nat) (v : Int × Int) : (s.setBucket p q v).incs = s.incs := rfl
@[simp] theorem State.setBucket_blkSt (s : State) (p q : Nat) (v : Int × Int) : (s.setBucket p q v).blkSt = s.blkSt := rfl
@[simp] theorem State.setBucket_upd (s : State) (p q : Nat) (v : Int × Int) : (s.setBucket p q v).upd = s.upd := rfl
@[simp] theorem State.setBucket_tmr (s : State) (p q : Nat) (v : Int × Int) : (s.setBucket p q v).tmr = s.tmr := rfl
@[simp] theorem State.setBucket_crest (s : State) (p q : Nat) (v : Int × Int) : (s.setBucket p q v).crest = s.crest := rfl
@[simp] theorem State.setBucket_ptp (s : State) (p q : Nat) (v : Int × Int) : (s.setBucket p q v).ptp = s.ptp := rfl
@[simp] theorem State.setBucket_ports (s : State) (p q : Nat) (v : Int × Int) : (s.setBucket p q v).ports = s.ports := rfl
@[simp] theorem State.setBucket_ing (s : State) (p q : Nat) (v : Int × Int) : (s.setBucket p q v).ing = s.ing := rfl
@[simp] theorem State.setBucket_spur (s : State) (p q : Nat) (v : Int × Int) : (s.setBucket p q v).spur = s.spur := rfl
@[simp] theorem State.setBucket_con (s : State) (p q : Nat) (v : Int × Int) : (s.setBucket p q v).con = s.con := rfl
@[simp] theorem State.setBucket_led (s : State) (p q : Nat) (v : Int × Int) : (s.setBucket p q v).led = s.led := rfl
@[simp] theorem State.setBucket_ten (s : State) (p q : Nat) (v : Int × Int) : (s.setBucket p q v).ten = s.ten := rfl
@[simp] theorem State.setBucket_zoa (s : State) (p q : Nat) (v : Int × Int) : (s.setBucket p q v).zoa = s.zoa := rfl
@[simp] theorem State.setBucket_jrn (s : State) (p q : Nat) (v : Int × Int) : (s.setBucket p q v).jrn = s.jrn := rfl
@[simp] theorem State.setBucket_ciph (s : State) (p q : Nat) (v : Int × Int) : (s.setBucket p q v).ciph = s.ciph := rfl
@[simp] theorem State.setBucket_host (s : State) (p q : Nat) (v : Int × Int) : (s.setBucket p q v).host = s.host := rfl
@[simp] theorem State.setBucket_rings (s : State) (p q : Nat) (v : Int × Int) : (s.setBucket p q v).rings = s.rings := rfl
@[simp] theorem State.setBucket_mem (s : State) (p q : Nat) (v : Int × Int) : (s.setBucket p q v).mem = s.mem := rfl
@[simp] theorem State.setBucket_cairn (s : State) (p q : Nat) (v : Int × Int) : (s.setBucket p q v).cairn = s.cairn := rfl
@[simp] theorem State.setBucket_sec (s : State) (p q : Nat) (v : Int × Int) : (s.setBucket p q v).sec = s.sec := rfl
@[simp] theorem State.setBucket_back (s : State) (p q : Nat) (v : Int × Int) : (s.setBucket p q v).back = s.back := rfl
@[simp] theorem State.setBucket_offAt (s : State) (p q : Nat) (v : Int × Int) : (s.setBucket p q v).offAt = s.offAt := rfl
@[simp] theorem State.setBucket_out (s : State) (p q : Nat) (v : Int × Int) : (s.setBucket p q v).out = s.out := rfl
@[simp] theorem State.setBucket_readData (s : State) (p q : Nat) (v : Int × Int) : (s.setBucket p q v).readData = s.readData := rfl
@[simp] theorem State.setBucket_freeCtr (s : State) (p q : Nat) (v : Int × Int) : (s.setBucket p q v).freeCtr = s.freeCtr := rfl

/-! ### setTx -/

@[simp] theorem State.setTx_pending (s : State) (p : Nat) (l : List TxFrame) : (s.setTx p l).pending = s.pending := rfl
@[simp] theorem State.setTx_regs (s : State) (p : Nat) (l : List TxFrame) : (s.setTx p l).regs = s.regs := rfl
@[simp] theorem State.setTx_incs (s : State) (p : Nat) (l : List TxFrame) : (s.setTx p l).incs = s.incs := rfl
@[simp] theorem State.setTx_blkSt (s : State) (p : Nat) (l : List TxFrame) : (s.setTx p l).blkSt = s.blkSt := rfl
@[simp] theorem State.setTx_upd (s : State) (p : Nat) (l : List TxFrame) : (s.setTx p l).upd = s.upd := rfl
@[simp] theorem State.setTx_tmr (s : State) (p : Nat) (l : List TxFrame) : (s.setTx p l).tmr = s.tmr := rfl
@[simp] theorem State.setTx_crest (s : State) (p : Nat) (l : List TxFrame) : (s.setTx p l).crest = s.crest := rfl
@[simp] theorem State.setTx_ptp (s : State) (p : Nat) (l : List TxFrame) : (s.setTx p l).ptp = s.ptp := rfl
@[simp] theorem State.setTx_ports (s : State) (p : Nat) (l : List TxFrame) : (s.setTx p l).ports = s.ports := rfl
@[simp] theorem State.setTx_ing (s : State) (p : Nat) (l : List TxFrame) : (s.setTx p l).ing = s.ing := rfl
@[simp] theorem State.setTx_spur (s : State) (p : Nat) (l : List TxFrame) : (s.setTx p l).spur = s.spur := rfl
@[simp] theorem State.setTx_con (s : State) (p : Nat) (l : List TxFrame) : (s.setTx p l).con = s.con := rfl
@[simp] theorem State.setTx_led (s : State) (p : Nat) (l : List TxFrame) : (s.setTx p l).led = s.led := rfl
@[simp] theorem State.setTx_ten (s : State) (p : Nat) (l : List TxFrame) : (s.setTx p l).ten = s.ten := rfl
@[simp] theorem State.setTx_zoa (s : State) (p : Nat) (l : List TxFrame) : (s.setTx p l).zoa = s.zoa := rfl
@[simp] theorem State.setTx_jrn (s : State) (p : Nat) (l : List TxFrame) : (s.setTx p l).jrn = s.jrn := rfl
@[simp] theorem State.setTx_ciph (s : State) (p : Nat) (l : List TxFrame) : (s.setTx p l).ciph = s.ciph := rfl
@[simp] theorem State.setTx_host (s : State) (p : Nat) (l : List TxFrame) : (s.setTx p l).host = s.host := rfl
@[simp] theorem State.setTx_rings (s : State) (p : Nat) (l : List TxFrame) : (s.setTx p l).rings = s.rings := rfl
@[simp] theorem State.setTx_mem (s : State) (p : Nat) (l : List TxFrame) : (s.setTx p l).mem = s.mem := rfl
@[simp] theorem State.setTx_cairn (s : State) (p : Nat) (l : List TxFrame) : (s.setTx p l).cairn = s.cairn := rfl
@[simp] theorem State.setTx_sec (s : State) (p : Nat) (l : List TxFrame) : (s.setTx p l).sec = s.sec := rfl
@[simp] theorem State.setTx_back (s : State) (p : Nat) (l : List TxFrame) : (s.setTx p l).back = s.back := rfl
@[simp] theorem State.setTx_offAt (s : State) (p : Nat) (l : List TxFrame) : (s.setTx p l).offAt = s.offAt := rfl
@[simp] theorem State.setTx_out (s : State) (p : Nat) (l : List TxFrame) : (s.setTx p l).out = s.out := rfl
@[simp] theorem State.setTx_readData (s : State) (p : Nat) (l : List TxFrame) : (s.setTx p l).readData = s.readData := rfl
@[simp] theorem State.setTx_freeCtr (s : State) (p : Nat) (l : List TxFrame) : (s.setTx p l).freeCtr = s.freeCtr := rfl

/-! ### setQueue -/

@[simp] theorem State.setQueue_pending (s : State) (p q : Nat) (l : List QEnt) : (s.setQueue p q l).pending = s.pending := rfl
@[simp] theorem State.setQueue_incs (s : State) (p q : Nat) (l : List QEnt) : (s.setQueue p q l).incs = s.incs := rfl
@[simp] theorem State.setQueue_blkSt (s : State) (p q : Nat) (l : List QEnt) : (s.setQueue p q l).blkSt = s.blkSt := rfl
@[simp] theorem State.setQueue_upd (s : State) (p q : Nat) (l : List QEnt) : (s.setQueue p q l).upd = s.upd := rfl
@[simp] theorem State.setQueue_tmr (s : State) (p q : Nat) (l : List QEnt) : (s.setQueue p q l).tmr = s.tmr := rfl
@[simp] theorem State.setQueue_crest (s : State) (p q : Nat) (l : List QEnt) : (s.setQueue p q l).crest = s.crest := rfl
@[simp] theorem State.setQueue_ptp (s : State) (p q : Nat) (l : List QEnt) : (s.setQueue p q l).ptp = s.ptp := rfl
@[simp] theorem State.setQueue_ports (s : State) (p q : Nat) (l : List QEnt) : (s.setQueue p q l).ports = s.ports := rfl
@[simp] theorem State.setQueue_ing (s : State) (p q : Nat) (l : List QEnt) : (s.setQueue p q l).ing = s.ing := rfl
@[simp] theorem State.setQueue_spur (s : State) (p q : Nat) (l : List QEnt) : (s.setQueue p q l).spur = s.spur := rfl
@[simp] theorem State.setQueue_con (s : State) (p q : Nat) (l : List QEnt) : (s.setQueue p q l).con = s.con := rfl
@[simp] theorem State.setQueue_led (s : State) (p q : Nat) (l : List QEnt) : (s.setQueue p q l).led = s.led := rfl
@[simp] theorem State.setQueue_ten (s : State) (p q : Nat) (l : List QEnt) : (s.setQueue p q l).ten = s.ten := rfl
@[simp] theorem State.setQueue_zoa (s : State) (p q : Nat) (l : List QEnt) : (s.setQueue p q l).zoa = s.zoa := rfl
@[simp] theorem State.setQueue_jrn (s : State) (p q : Nat) (l : List QEnt) : (s.setQueue p q l).jrn = s.jrn := rfl
@[simp] theorem State.setQueue_ciph (s : State) (p q : Nat) (l : List QEnt) : (s.setQueue p q l).ciph = s.ciph := rfl
@[simp] theorem State.setQueue_host (s : State) (p q : Nat) (l : List QEnt) : (s.setQueue p q l).host = s.host := rfl
@[simp] theorem State.setQueue_rings (s : State) (p q : Nat) (l : List QEnt) : (s.setQueue p q l).rings = s.rings := rfl
@[simp] theorem State.setQueue_mem (s : State) (p q : Nat) (l : List QEnt) : (s.setQueue p q l).mem = s.mem := rfl
@[simp] theorem State.setQueue_cairn (s : State) (p q : Nat) (l : List QEnt) : (s.setQueue p q l).cairn = s.cairn := rfl
@[simp] theorem State.setQueue_sec (s : State) (p q : Nat) (l : List QEnt) : (s.setQueue p q l).sec = s.sec := rfl
@[simp] theorem State.setQueue_back (s : State) (p q : Nat) (l : List QEnt) : (s.setQueue p q l).back = s.back := rfl
@[simp] theorem State.setQueue_offAt (s : State) (p q : Nat) (l : List QEnt) : (s.setQueue p q l).offAt = s.offAt := rfl
@[simp] theorem State.setQueue_out (s : State) (p q : Nat) (l : List QEnt) : (s.setQueue p q l).out = s.out := rfl
@[simp] theorem State.setQueue_readData (s : State) (p q : Nat) (l : List QEnt) : (s.setQueue p q l).readData = s.readData := rfl
@[simp] theorem State.setQueue_freeCtr (s : State) (p q : Nat) (l : List QEnt) : (s.setQueue p q l).freeCtr = s.freeCtr := rfl

/-! ### putMsg -/

@[simp] theorem State.putMsg_pending (s : State) (q : Nat) (m : Option ZMsg) : (s.putMsg q m).pending = s.pending := rfl
@[simp] theorem State.putMsg_regs (s : State) (q : Nat) (m : Option ZMsg) : (s.putMsg q m).regs = s.regs := rfl
@[simp] theorem State.putMsg_incs (s : State) (q : Nat) (m : Option ZMsg) : (s.putMsg q m).incs = s.incs := rfl
@[simp] theorem State.putMsg_blkSt (s : State) (q : Nat) (m : Option ZMsg) : (s.putMsg q m).blkSt = s.blkSt := rfl
@[simp] theorem State.putMsg_upd (s : State) (q : Nat) (m : Option ZMsg) : (s.putMsg q m).upd = s.upd := rfl
@[simp] theorem State.putMsg_tmr (s : State) (q : Nat) (m : Option ZMsg) : (s.putMsg q m).tmr = s.tmr := rfl
@[simp] theorem State.putMsg_crest (s : State) (q : Nat) (m : Option ZMsg) : (s.putMsg q m).crest = s.crest := rfl
@[simp] theorem State.putMsg_ptp (s : State) (q : Nat) (m : Option ZMsg) : (s.putMsg q m).ptp = s.ptp := rfl
@[simp] theorem State.putMsg_ports (s : State) (q : Nat) (m : Option ZMsg) : (s.putMsg q m).ports = s.ports := rfl
@[simp] theorem State.putMsg_ing (s : State) (q : Nat) (m : Option ZMsg) : (s.putMsg q m).ing = s.ing := rfl
@[simp] theorem State.putMsg_spur (s : State) (q : Nat) (m : Option ZMsg) : (s.putMsg q m).spur = s.spur := rfl
@[simp] theorem State.putMsg_con (s : State) (q : Nat) (m : Option ZMsg) : (s.putMsg q m).con = s.con := rfl
@[simp] theorem State.putMsg_tm (s : State) (q : Nat) (m : Option ZMsg) : (s.putMsg q m).tm = s.tm := rfl
@[simp] theorem State.putMsg_led (s : State) (q : Nat) (m : Option ZMsg) : (s.putMsg q m).led = s.led := rfl
@[simp] theorem State.putMsg_ten (s : State) (q : Nat) (m : Option ZMsg) : (s.putMsg q m).ten = s.ten := rfl
@[simp] theorem State.putMsg_jrn (s : State) (q : Nat) (m : Option ZMsg) : (s.putMsg q m).jrn = s.jrn := rfl
@[simp] theorem State.putMsg_ciph (s : State) (q : Nat) (m : Option ZMsg) : (s.putMsg q m).ciph = s.ciph := rfl
@[simp] theorem State.putMsg_host (s : State) (q : Nat) (m : Option ZMsg) : (s.putMsg q m).host = s.host := rfl
@[simp] theorem State.putMsg_rings (s : State) (q : Nat) (m : Option ZMsg) : (s.putMsg q m).rings = s.rings := rfl
@[simp] theorem State.putMsg_mem (s : State) (q : Nat) (m : Option ZMsg) : (s.putMsg q m).mem = s.mem := rfl
@[simp] theorem State.putMsg_cairn (s : State) (q : Nat) (m : Option ZMsg) : (s.putMsg q m).cairn = s.cairn := rfl
@[simp] theorem State.putMsg_sec (s : State) (q : Nat) (m : Option ZMsg) : (s.putMsg q m).sec = s.sec := rfl
@[simp] theorem State.putMsg_back (s : State) (q : Nat) (m : Option ZMsg) : (s.putMsg q m).back = s.back := rfl
@[simp] theorem State.putMsg_offAt (s : State) (q : Nat) (m : Option ZMsg) : (s.putMsg q m).offAt = s.offAt := rfl
@[simp] theorem State.putMsg_out (s : State) (q : Nat) (m : Option ZMsg) : (s.putMsg q m).out = s.out := rfl
@[simp] theorem State.putMsg_readData (s : State) (q : Nat) (m : Option ZMsg) : (s.putMsg q m).readData = s.readData := rfl
@[simp] theorem State.putMsg_freeCtr (s : State) (q : Nat) (m : Option ZMsg) : (s.putMsg q m).freeCtr = s.freeCtr := rfl

/-! ### setWin -/

@[simp] theorem State.setWin_pending (s : State) (i : Nat) (w : Window) : (s.setWin i w).pending = s.pending := rfl
@[simp] theorem State.setWin_regs (s : State) (i : Nat) (w : Window) : (s.setWin i w).regs = s.regs := rfl
@[simp] theorem State.setWin_incs (s : State) (i : Nat) (w : Window) : (s.setWin i w).incs = s.incs := rfl
@[simp] theorem State.setWin_blkSt (s : State) (i : Nat) (w : Window) : (s.setWin i w).blkSt = s.blkSt := rfl
@[simp] theorem State.setWin_upd (s : State) (i : Nat) (w : Window) : (s.setWin i w).upd = s.upd := rfl
@[simp] theorem State.setWin_tmr (s : State) (i : Nat) (w : Window) : (s.setWin i w).tmr = s.tmr := rfl
@[simp] theorem State.setWin_crest (s : State) (i : Nat) (w : Window) : (s.setWin i w).crest = s.crest := rfl
@[simp] theorem State.setWin_ptp (s : State) (i : Nat) (w : Window) : (s.setWin i w).ptp = s.ptp := rfl
@[simp] theorem State.setWin_ports (s : State) (i : Nat) (w : Window) : (s.setWin i w).ports = s.ports := rfl
@[simp] theorem State.setWin_ing (s : State) (i : Nat) (w : Window) : (s.setWin i w).ing = s.ing := rfl
@[simp] theorem State.setWin_spur (s : State) (i : Nat) (w : Window) : (s.setWin i w).spur = s.spur := rfl
@[simp] theorem State.setWin_con (s : State) (i : Nat) (w : Window) : (s.setWin i w).con = s.con := rfl
@[simp] theorem State.setWin_tm (s : State) (i : Nat) (w : Window) : (s.setWin i w).tm = s.tm := rfl
@[simp] theorem State.setWin_led (s : State) (i : Nat) (w : Window) : (s.setWin i w).led = s.led := rfl
@[simp] theorem State.setWin_ten (s : State) (i : Nat) (w : Window) : (s.setWin i w).ten = s.ten := rfl
@[simp] theorem State.setWin_jrn (s : State) (i : Nat) (w : Window) : (s.setWin i w).jrn = s.jrn := rfl
@[simp] theorem State.setWin_ciph (s : State) (i : Nat) (w : Window) : (s.setWin i w).ciph = s.ciph := rfl
@[simp] theorem State.setWin_host (s : State) (i : Nat) (w : Window) : (s.setWin i w).host = s.host := rfl
@[simp] theorem State.setWin_rings (s : State) (i : Nat) (w : Window) : (s.setWin i w).rings = s.rings := rfl
@[simp] theorem State.setWin_mem (s : State) (i : Nat) (w : Window) : (s.setWin i w).mem = s.mem := rfl
@[simp] theorem State.setWin_cairn (s : State) (i : Nat) (w : Window) : (s.setWin i w).cairn = s.cairn := rfl
@[simp] theorem State.setWin_sec (s : State) (i : Nat) (w : Window) : (s.setWin i w).sec = s.sec := rfl
@[simp] theorem State.setWin_back (s : State) (i : Nat) (w : Window) : (s.setWin i w).back = s.back := rfl
@[simp] theorem State.setWin_offAt (s : State) (i : Nat) (w : Window) : (s.setWin i w).offAt = s.offAt := rfl
@[simp] theorem State.setWin_out (s : State) (i : Nat) (w : Window) : (s.setWin i w).out = s.out := rfl
@[simp] theorem State.setWin_readData (s : State) (i : Nat) (w : Window) : (s.setWin i w).readData = s.readData := rfl
@[simp] theorem State.setWin_freeCtr (s : State) (i : Nat) (w : Window) : (s.setWin i w).freeCtr = s.freeCtr := rfl

/-! ### putDup -/

@[simp] theorem State.putDup_pending (s : State) (k : Nat) (e : Option ZEntry) : (s.putDup k e).pending = s.pending := rfl
@[simp] theorem State.putDup_regs (s : State) (k : Nat) (e : Option ZEntry) : (s.putDup k e).regs = s.regs := rfl
@[simp] theorem State.putDup_incs (s : State) (k : Nat) (e : Option ZEntry) : (s.putDup k e).incs = s.incs := rfl
@[simp] theorem State.putDup_blkSt (s : State) (k : Nat) (e : Option ZEntry) : (s.putDup k e).blkSt = s.blkSt := rfl
@[simp] theorem State.putDup_upd (s : State) (k : Nat) (e : Option ZEntry) : (s.putDup k e).upd = s.upd := rfl
@[simp] theorem State.putDup_tmr (s : State) (k : Nat) (e : Option ZEntry) : (s.putDup k e).tmr = s.tmr := rfl
@[simp] theorem State.putDup_crest (s : State) (k : Nat) (e : Option ZEntry) : (s.putDup k e).crest = s.crest := rfl
@[simp] theorem State.putDup_ptp (s : State) (k : Nat) (e : Option ZEntry) : (s.putDup k e).ptp = s.ptp := rfl
@[simp] theorem State.putDup_ports (s : State) (k : Nat) (e : Option ZEntry) : (s.putDup k e).ports = s.ports := rfl
@[simp] theorem State.putDup_ing (s : State) (k : Nat) (e : Option ZEntry) : (s.putDup k e).ing = s.ing := rfl
@[simp] theorem State.putDup_spur (s : State) (k : Nat) (e : Option ZEntry) : (s.putDup k e).spur = s.spur := rfl
@[simp] theorem State.putDup_con (s : State) (k : Nat) (e : Option ZEntry) : (s.putDup k e).con = s.con := rfl
@[simp] theorem State.putDup_tm (s : State) (k : Nat) (e : Option ZEntry) : (s.putDup k e).tm = s.tm := rfl
@[simp] theorem State.putDup_led (s : State) (k : Nat) (e : Option ZEntry) : (s.putDup k e).led = s.led := rfl
@[simp] theorem State.putDup_ten (s : State) (k : Nat) (e : Option ZEntry) : (s.putDup k e).ten = s.ten := rfl
@[simp] theorem State.putDup_jrn (s : State) (k : Nat) (e : Option ZEntry) : (s.putDup k e).jrn = s.jrn := rfl
@[simp] theorem State.putDup_ciph (s : State) (k : Nat) (e : Option ZEntry) : (s.putDup k e).ciph = s.ciph := rfl
@[simp] theorem State.putDup_host (s : State) (k : Nat) (e : Option ZEntry) : (s.putDup k e).host = s.host := rfl
@[simp] theorem State.putDup_rings (s : State) (k : Nat) (e : Option ZEntry) : (s.putDup k e).rings = s.rings := rfl
@[simp] theorem State.putDup_mem (s : State) (k : Nat) (e : Option ZEntry) : (s.putDup k e).mem = s.mem := rfl
@[simp] theorem State.putDup_cairn (s : State) (k : Nat) (e : Option ZEntry) : (s.putDup k e).cairn = s.cairn := rfl
@[simp] theorem State.putDup_sec (s : State) (k : Nat) (e : Option ZEntry) : (s.putDup k e).sec = s.sec := rfl
@[simp] theorem State.putDup_back (s : State) (k : Nat) (e : Option ZEntry) : (s.putDup k e).back = s.back := rfl
@[simp] theorem State.putDup_offAt (s : State) (k : Nat) (e : Option ZEntry) : (s.putDup k e).offAt = s.offAt := rfl
@[simp] theorem State.putDup_out (s : State) (k : Nat) (e : Option ZEntry) : (s.putDup k e).out = s.out := rfl
@[simp] theorem State.putDup_readData (s : State) (k : Nat) (e : Option ZEntry) : (s.putDup k e).readData = s.readData := rfl
@[simp] theorem State.putDup_freeCtr (s : State) (k : Nat) (e : Option ZEntry) : (s.putDup k e).freeCtr = s.freeCtr := rfl

/-! ### extWrite -/

@[simp] theorem State.extWrite_pending (s : State) (a : Nat) (d : Bytes) : (s.extWrite a d).pending = s.pending := rfl
@[simp] theorem State.extWrite_regs (s : State) (a : Nat) (d : Bytes) : (s.extWrite a d).regs = s.regs := rfl
@[simp] theorem State.extWrite_incs (s : State) (a : Nat) (d : Bytes) : (s.extWrite a d).incs = s.incs := rfl
@[simp] theorem State.extWrite_blkSt (s : State) (a : Nat) (d : Bytes) : (s.extWrite a d).blkSt = s.blkSt := rfl
@[simp] theorem State.extWrite_upd (s : State) (a : Nat) (d : Bytes) : (s.extWrite a d).upd = s.upd := rfl
@[simp] theorem State.extWrite_tmr (s : State) (a : Nat) (d : Bytes) : (s.extWrite a d).tmr = s.tmr := rfl
@[simp] theorem State.extWrite_crest (s : State) (a : Nat) (d : Bytes) : (s.extWrite a d).crest = s.crest := rfl
@[simp] theorem State.extWrite_ptp (s : State) (a : Nat) (d : Bytes) : (s.extWrite a d).ptp = s.ptp := rfl
@[simp] theorem State.extWrite_ports (s : State) (a : Nat) (d : Bytes) : (s.extWrite a d).ports = s.ports := rfl
@[simp] theorem State.extWrite_ing (s : State) (a : Nat) (d : Bytes) : (s.extWrite a d).ing = s.ing := rfl
@[simp] theorem State.extWrite_spur (s : State) (a : Nat) (d : Bytes) : (s.extWrite a d).spur = s.spur := rfl
@[simp] theorem State.extWrite_con (s : State) (a : Nat) (d : Bytes) : (s.extWrite a d).con = s.con := rfl
@[simp] theorem State.extWrite_tm (s : State) (a : Nat) (d : Bytes) : (s.extWrite a d).tm = s.tm := rfl
@[simp] theorem State.extWrite_led (s : State) (a : Nat) (d : Bytes) : (s.extWrite a d).led = s.led := rfl
@[simp] theorem State.extWrite_ten (s : State) (a : Nat) (d : Bytes) : (s.extWrite a d).ten = s.ten := rfl
@[simp] theorem State.extWrite_zoa (s : State) (a : Nat) (d : Bytes) : (s.extWrite a d).zoa = s.zoa := rfl
@[simp] theorem State.extWrite_jrn (s : State) (a : Nat) (d : Bytes) : (s.extWrite a d).jrn = s.jrn := rfl
@[simp] theorem State.extWrite_ciph (s : State) (a : Nat) (d : Bytes) : (s.extWrite a d).ciph = s.ciph := rfl
@[simp] theorem State.extWrite_host (s : State) (a : Nat) (d : Bytes) : (s.extWrite a d).host = s.host := rfl
@[simp] theorem State.extWrite_rings (s : State) (a : Nat) (d : Bytes) : (s.extWrite a d).rings = s.rings := rfl
@[simp] theorem State.extWrite_cairn (s : State) (a : Nat) (d : Bytes) : (s.extWrite a d).cairn = s.cairn := rfl
@[simp] theorem State.extWrite_sec (s : State) (a : Nat) (d : Bytes) : (s.extWrite a d).sec = s.sec := rfl
@[simp] theorem State.extWrite_back (s : State) (a : Nat) (d : Bytes) : (s.extWrite a d).back = s.back := rfl
@[simp] theorem State.extWrite_offAt (s : State) (a : Nat) (d : Bytes) : (s.extWrite a d).offAt = s.offAt := rfl
@[simp] theorem State.extWrite_out (s : State) (a : Nat) (d : Bytes) : (s.extWrite a d).out = s.out := rfl
@[simp] theorem State.extWrite_readData (s : State) (a : Nat) (d : Bytes) : (s.extWrite a d).readData = s.readData := rfl
@[simp] theorem State.extWrite_freeCtr (s : State) (a : Nat) (d : Bytes) : (s.extWrite a d).freeCtr = s.freeCtr := rfl

/-! ### Read after write: each store gives back what was put in it, and leaves every other entry -/

@[simp] theorem State.thr_setThr_self (s : State) (k : Nat) (t : Thread) : (s.setThr k t).thr k = t := SMap.getD_setD_self _ _ _ _

theorem State.thr_setThr_of_ne (s : State) {k j : Nat} (t : Thread) (h : j ≠ k) : (s.setThr k t).thr j = s.thr j :=
  SMap.getD_setD_of_ne _ _ _ _ h

@[simp] theorem State.thr_modThr_self (s : State) (k : Nat) (f : Thread → Thread) : (s.modThr k f).thr k = f (s.thr k) :=
  s.thr_setThr_self k _

theorem State.thr_modThr_of_ne (s : State) {k j : Nat} (f : Thread → Thread) (h : j ≠ k) : (s.modThr k f).thr j = s.thr j :=
  s.thr_setThr_of_ne _ h

@[simp] theorem State.box_setBox_self (s : State) (f : Nat) (b : Mailbox) : (s.setBox f b).box f = b := SMap.getD_setD_self _ _ _ _

theorem State.box_setBox_of_ne (s : State) {f g : Nat} (b : Mailbox) (h : g ≠ f) : (s.setBox f b).box g = s.box g :=
  SMap.getD_setD_of_ne _ _ _ _ h

@[simp] theorem State.ring_setRing_self (s : State) (r : Nat) (v : RingSt) : (s.setRing r v).ring r = v := SMap.getD_setD_self _ _ _ _

theorem State.ring_setRing_of_ne (s : State) {r q : Nat} (v : RingSt) (h : q ≠ r) : (s.setRing r v).ring q = s.ring q :=
  SMap.getD_setD_of_ne _ _ _ _ h

@[simp] theorem State.led_setLed_self (s : State) (l : Nat) (v : LedLane) : (s.setLed l v).led? l = v := SMap.getD_setD_self _ _ _ _

theorem State.led_setLed_of_ne (s : State) {l m : Nat} (v : LedLane) (h : m ≠ l) : (s.setLed l v).led? m = s.led? m :=
  SMap.getD_setD_of_ne _ _ _ _ h

@[simp] theorem State.win_setWin_self (s : State) (i : Nat) (w : Window) : (s.setWin i w).win i = w := SMap.getD_setD_self _ _ _ _

theorem State.win_setWin_of_ne (s : State) {i j : Nat} (w : Window) (h : j ≠ i) : (s.setWin i w).win j = s.win j :=
  SMap.getD_setD_of_ne _ _ _ _ h

@[simp] theorem State.inTx_setTx_self (s : State) (p : Nat) (l : List TxFrame) : (s.setTx p l).inTx p = l := SMap.getD_setD_self _ _ _ _

theorem State.inTx_setTx_of_ne (s : State) {p n : Nat} (l : List TxFrame) (h : n ≠ p) : (s.setTx p l).inTx n = s.inTx n :=
  SMap.getD_setD_of_ne _ _ _ _ h

@[simp] theorem State.caps_setCaps_self (s : State) (i : Nat) (l : List (BitVec 64)) : (s.setCaps i l).caps i = l :=
  SMap.getD_setD_self _ _ _ _

theorem State.caps_setCaps_of_ne (s : State) {i j : Nat} (l : List (BitVec 64)) (h : j ≠ i) : (s.setCaps i l).caps j = s.caps j :=
  SMap.getD_setD_of_ne _ _ _ _ h

@[simp] theorem State.tbl_setTbl_self (s : State) (t : Nat) (m : SMap TEntry) : (s.setTbl t m).tbl t = m := SMap.getD_setD_self _ _ _ _

theorem State.tbl_setTbl_of_ne (s : State) {t u : Nat} (m : SMap TEntry) (h : u ≠ t) : (s.setTbl t m).tbl u = s.tbl u :=
  SMap.getD_setD_of_ne _ _ _ _ h

@[simp] theorem State.blkState_setBlkState_self (s : State) (b : Blk) (v : Nat) : (s.setBlkState b v).blkState b = v :=
  SMap.getD_setD_self _ _ _ _

theorem State.blkState_setBlkState_of_ne (s : State) {b c : Blk} (v : Nat) (h : c.key ≠ b.key) :
    (s.setBlkState b v).blkState c = s.blkState c := SMap.getD_setD_of_ne _ _ _ _ h

@[simp] theorem State.emit_out (s : State) (o : Output) : (s.emit o).out = s.out ++ [o] := rfl

@[simp] theorem State.useFree_freeCtr (s : State) (n : Nat) : (s.useFree n).freeCtr = s.freeCtr + n := rfl

@[simp] theorem State.setSec_sec (s : State) (c : Sec) : (s.setSec c).sec = c := rfl

@[simp] theorem State.setCairn_cairn (s : State) (c : Cairn) : (s.setCairn c).cairn = c := rfl

/-- What a rejected or accepted command raises: one record after those already raised. -/
theorem State.cairnRec_raised (s : State) (c : CairnCode) (b : Option Blk) (d : Bytes) :
    ∃ e : CairnEvt, (s.cairnRec c b d).cairn = { s.cairn with raised := s.cairn.raised ++ [e] } ∧ e.code = c ∧ e.data = sliceB d 0 32 :=
  ⟨_, rfl, rfl, rfl⟩

/-- A bump of a counter adds to it modulo its width. -/
theorem State.get_bump_self (s : State) (f : Fld) (i n : Nat) (hl : f.lo ≤ f.hi) (hh : f.hi < 64) :
    (s.bump f i n).get f i = (s.get f i + n) % 2 ^ f.width := s.get_set_self f i _ hl hh

/-- A SMap entry put into an ended frame's place is gone unless the frame still runs or waits on the receive side. -/
theorem State.frame_putFrame_self (s : State) (i : Nat) (f : Frame) : (s.putFrame i f).frame? i =
    if f.stage = .done ∧ f.ended ∧ f.rx.isNone ∧ !f.hearing then none else some f := SMap.find_put_self _ _ _

theorem State.frame_putFrame_of_ne (s : State) {i j : Nat} (f : Frame) (h : j ≠ i) : (s.putFrame i f).frame? j = s.frame? j :=
  SMap.find_put_of_ne _ _ h

/-- An answer to a pending mailbox command: the sequence number is answered, the area holds the header and the body. -/
theorem State.box_reply (s : State) (f cmd status detail : Nat) (body : Bytes) (h : (s.box f).pending = true) :
    ((s.reply f cmd status detail body).box f).pending = false ∧
    ((s.reply f cmd status detail body).box f).replied = (s.box f).accepted ∧
    ((s.reply f cmd status detail body).box f).reply =
      leBytes cmd 2 ++ leBytes status 1 ++ leBytes detail 1 ++ leBytes body.length 4 ++ body := by
  have key : ∀ (t : State) (o : Output) (v : Nat), ((t.emit o).signal f v).box f = t.box f := by
    intro t o v; unfold State.signal; split <;> rfl
  unfold State.reply
  simp only [h, Bool.not_true, Bool.false_eq_true, if_false, key, State.box_setBox_self, and_self]

end Sys2Proof.Machine
end

