-- ==== Sys2Proof/Tests/Slice0.lean ====
section
/-! SUPPORT. Tests: ill-formed commands are refused, single steps give the values worked out by hand from the spec, and every statement's
hypotheses are met by a state and operands named here. -/

namespace Sys2Proof.Tests

open Sys2Proof Sys2Proof.Machine

/-- Control core 0 in service. -/
def ccUp : State := State.reset.setBlkState ⟨.control, 0⟩ 2

/-- Core 0 in service, its background context ready with one word of code. -/
def bgUp (w : BitVec 32) : State :=
  let s := State.reset.set .spurCoreStaState 0 1
  { s with spur := { s.spur with
      images := [(bgRun 0, { codeLen := 1, raw := leBytes w.toNat 4, scrBase := 2, scrSize := 4, shBase := 64, shSize := 64 })]
      threads := [(bgKey 0, { st := 1 })] } }

/-- A thread that holds frame 0, of a group whose image is loaded. -/
def thrUp : State :=
  let s := ((State.reset.set .spurCoreStaState 0 1).setReg .spurSlot 0 0x80).makeGroup 0 1 1
  { s with spur := { s.spur with
      images := [(grpImg 0 0, { codeLen := 4, raw := leBytes 0x4C000000 4, budget := 1000, epoch := 3 })]
      threads := [(thrKey 0 0, { group := some 0, st := 1, frame := some 0, budLimit := 65536000, budSince := some 0 })] } }

/-- The reset state with the Crest's running and its servo state set. -/
def crestOn (st : ServoState) : State :=
  { State.reset with crest := { State.reset.crest with running := true, state := st } }

/-- Port 0 enabled with its link up. -/
def portUp : State := ((State.reset.setBlkState ⟨.port, 0⟩ 2).set .portCtlEn 0 1).set .portStaLink 0 1

/-- A state with frame 7 in it. -/
def withFrame (f : Frame) (s : State) : State := s.putFrame 7 f

/-- Function 0 attached and the output gate open. -/
def hostUp : State := ((State.reset.set .hostFnStaState 0 1).set .secBootStaGate 0 1).set .hostFnStaBme 0 1

/-- Ring 0 of a kind in service for function 0, holding one fetched descriptor of the first lap. -/
def ringUp (kind : Nat) (e : Bytes) : State :=
  let s := ((hostUp.set .ringCtlEn 0 1).set .ringCfgKind 0 kind).set .ringStaState 0 1
  (s.set .ringIdxP 0 1).setRing 0 { cache := [e] }

/-- A descriptor whose first byte is its operation code and whose pass bit is set. -/
def desc (op : Nat) : Bytes := leBytes op 2 ++ List.replicate 61 0 ++ [1]

/-- Function 0 attached, so that its mailbox takes a command of sequence number 1. -/
def mbxReady : Prop := hostUp.memReach 0 = true ∧ (hostUp.box 0).pending = false ∧ 1#32 = (hostUp.box 0).replied + 1 ∧
  hostUp.boxBusy 0 = false

/-- A contract's version without bounds. -/
def oneVer (until_ : Option (BitVec 64)) (active : Bool) : State :=
  { State.reset with con := { versions := [(0, [{ body := parseCon [], from_ := 0, until_ := until_, active := active, inc := 1 }])] } }

/-- A descriptor of ENCRYPT, and one of KEY_SET. -/
def encDesc : Bytes := desc 0x11

/-- A copy of firmware with one paged part, of one page. -/
def pagedCopy : FwCopy :=
  { slot := 0, man := { kind := 1, signer := 0, version := 1, length := 69632, key := [], digest := [],
                        parts := [{ off := 16, len := 16, ty := 3, sect := 0, hash := [] }] } }

/-- Does an outcome answer a next state of which `p` holds? -/
def nextIs (o : Out) (p : State → Bool) : Bool :=
  match o with
  | .next t => p t
  | _ => false

/-- Control core 0 with two registers set. -/
def ccWith (a b : BitVec 64) : State := (ccUp.setGpr (.cc 0) 1 a).setGpr (.cc 0) 2 b

theorem wf_refuses_size : (Instr.registerWrite .native 0 3 0).wf = false := by decide

theorem wf_refuses_unaligned : (Instr.registerWrite .native 4 8 0).wf = false := by decide

theorem wf_refuses_short_entry : (Instr.receipt 0 (List.replicate 63 0)).wf = false := by decide

theorem wf_refuses_long_slot : (Instr.jrnRead 0 0 (List.replicate 65 0)).wf = false := by decide

theorem wf_takes_entry : (Instr.receipt 0 (List.replicate 64 0)).wf = true := by decide

theorem met_FrontCommandRuns : ({ State.reset with pending := [.gateOpen] }).pending = [.gateOpen] := by decide

theorem met_EmptyQueueTicks : State.reset.pending = [] ∧ State.reset.crest.running = false ∧
    (crestOn .free).pending = [] ∧ (crestOn .free).crest.running = true := by decide

/-- A control core fetches any word, so each clause of the instruction statements is met by it. -/
theorem met_AluResults : ccUp.canIssue (.cc 0) = true ∧ ccUp.fetches (.cc 0) (wG3 0 1 2 3 1) = true ∧
    ccUp.fetches (.cc 0) (wG3 0 1 2 0 13) = true := by decide

theorem met_ShiftCompareImmediateResults : ccUp.canIssue (.cc 0) = true ∧ ccUp.fetches (.cc 0) (wGI 3 1 2 0xFFFF) = true := by decide

theorem met_BitFieldResults : ccUp.canIssue (.cc 0) = true ∧ ccUp.fetches (.cc 0) (wBF 0x0D 1 2 63 0 0) = true ∧
    ccUp.fetches (.cc 0) (wBF 0x0D 1 2 63 1 0) = true := by decide

theorem met_RegistersAndRetiring : (ccUp.thr (ctxKey (.cc 0))).loops = [] ∧ isCc (ctxKey (.cc 0)) = true ∧
    ((bgUp 0).thr (ctxKey (.bg 0))).index + 1 ≤ (bgUp 0).codeLen (ctxKey (.bg 0)) := by decide

theorem met_IllegalInstructionsAndInterrupts : (thrUp.thr (ctxKey (.thr 0 0))).frame = some 0 ∧
    (thrUp.thr (ctxKey (.thr 0 0))).group = some 0 ∧ ccUp.blkState ⟨.control, 0⟩ = 2 ∧ State.reset.blkState ⟨.control, 0⟩ ≠ 2 := by decide

theorem met_LoadResults : (bgUp 0x40210010).canIssue (.bg 0) = true ∧ (bgUp 0x40210010).fetches (.bg 0) (wGI 0x10 1 1 16) = true ∧
    ((bgUp 0x40210010).atSlot (.bg 0)).scratchAt (.bg 0) 16 8 false = .inl (.scratch 16) ∧
    ((bgUp 0x40210010).atSlot (.bg 0)).scratchAt (.bg 0) 48 8 false = .inr 3 := by decide

theorem met_StoreResults : (bgUp 0x48210010).fetches (.bg 0) (wGI 0x12 1 1 16) = true ∧
    ((bgUp 0x48210010).atSlot (.bg 0)).scratchAt (.bg 0) 40 8 true = .inl (.scratch 40) ∧
    ((bgUp 0x48210010).atSlot (.bg 0)).scratchAt (.bg 0) 12 8 true = .inr 3 := by decide

theorem met_AmoResults : ((bgUp 0).atSlot (.bg 0)).sharedAt (.bg 0) 120 = .inl (.shared 1572984) ∧
    ((bgUp 0).atSlot (.bg 0)).sharedAt (.bg 0) 128 = .inr 3 := by decide

theorem met_DataProfileAddresses : isCc (ctxKey (.bg 0)) = false ∧ ((bgUp 0).imageOf (ctxKey (.bg 0))).isSome = true := by decide

theorem met_BranchResults : (bgUp (wGI 0x18 1 2 0)).canIssue (.bg 0) = true ∧
    (bgUp (wGI 0x18 1 2 0)).fetches (.bg 0) (wGI 0x18 1 2 0) = true ∧ (bgUp (wGI 0x18 1 2 1)).fetches (.bg 0) (wGI 0x18 1 2 1) = true ∧
    (bgUp (wBL 0x1A 0)).fetches (.bg 0) (wBL 0x1A 0) = true := by decide

theorem met_LoopCallJumpResults : ccUp.canIssue (.cc 0) = true ∧
    (bgUp (wLoop 1 1 1)).fetches (.bg 0) (wLoop 1 1 1) = true ∧ ((bgUp (wLoop 1 1 1)).atSlot (.bg 0)).loopOk (.bg 0) 2 = false ∧
    (let b := bgUp (wLoop 1 1 1)
     let u := { b with spur := { b.spur with images := [(bgRun 0, { codeLen := 4, raw := leBytes (wLoop 1 1 1).toNat 4 })] } }
     u.canIssue (.bg 0) = true ∧ u.fetches (.bg 0) (wLoop 1 1 1) = true ∧ (u.atSlot (.bg 0)).loopOk (.bg 0) 2 = true) := by decide

theorem met_ControlProfileResults : ccUp.canIssue (.cc 0) = true ∧ (bgUp 0).canIssue (.bg 0) = true := by decide

theorem met_ServoSamples :
    ({ crestOn .locked with crest := { (crestOn .locked).crest with samples := [{ at_ := 0, theta := 100, pps := true }] } }).crest.samples ≠ [] ∧
    0 < State.reset.get .crestSrvThrLockCnt 0 ∧ State.reset.crest.samples = [] := by decide

theorem met_EpochAndBankSwap : (1#32).getLsbD 0 = true ∧ (0#32).getLsbD 0 = false ∧ (crestOn .locked).timing = true ∧
    State.reset.timing = false ∧ State.reset.crest.step = none ∧ State.reset.ptp.want = none := by decide

theorem met_CapturesAndReferences : (State.reset.set .crestCapCfgEn 4 1).is .crestCapCfgEn 4 = true ∧
    (State.reset.set .crestCapCfgEdge 4 2).get .crestCapCfgEdge 4 = 2 ∧ (State.reset.set .crestRefCfgEn 0 1).is .crestRefCfgEn = true ∧
    State.reset.crest.refLost = false := by decide

theorem met_CompareUnitsAndPpsOut : 65536000 ≤ ltDiff 65536000 State.reset.lt ∧ ltDiff 65536000 State.reset.lt < 2 ^ 62 ∧
    ltDiff 65535999 State.reset.lt < 65536000 ∧ ((crestOn .locked).set .crestPpsoCfgEn 0 1).ppsOn = true ∧ State.reset.ppsOn = false ∧
    SMap.find ({ State.reset with crest := { State.reset.crest with cmpTarget := [(63, 5)] } }).crest.cmpTarget 63 = some 5 := by decide

set_option maxRecDepth 20000 in
theorem met_PortServiceResults : portUp.portOn 0 = true ∧ State.reset.portOn 0 = false ∧ State.reset.portEnableOk 0 = true ∧
    (State.reset.set .portCfgMode 1 5).portEnableOk 1 = false ∧ portUp.get .portStaContracts 0 = 0 ∧
    (State.reset.set .portStaContracts 0 1).get .portStaContracts 0 ≠ 0 := by decide

theorem met_LinkAndPauseResults : portUp.portOn 0 = true ∧ portUp.portLanes 0 = 1 ∧ State.reset.portOn 0 = false ∧
    (Option.map (·.val) (some (127 : Fn)) ≠ some 128) ∧ SMap.find State.reset.ports.tsqLatch (latchKey none 0) = none := by decide

theorem met_ReceptionResults : portUp.portOn 0 = true ∧ portUp.is .portStaLink 0 = true ∧ 0 < portUp.portLanes 0 ∧
    State.reset.frame? 7 = none ∧ (withFrame { port := some 0 } portUp).frame? 7 = some { port := some 0 } ∧
    isMacCtl [] = false ∧ portUp.secyOn 0 = false ∧ portUp.errorEarly { port := some 0 } 0 false = false := by decide

theorem met_LearningAndRepair : State.reset.ing.learns = [] ∧ State.reset.ing.flushes = [] ∧ State.reset.entry 0 [] 0 = none ∧
    State.reset.tblOn 0 = false := by decide

set_option maxRecDepth 20000 in
theorem met_TableBlockAndFlushResults : State.reset.tblOn 0 = false ∧ State.reset.tblEnableOk 0 = true ∧
    (State.reset.set .ingTblCfgCap 0 0x1FFFFF).tblEnableOk 0 = false ∧ ((State.reset.set .ingTblCtlEn 0 1).tblOn 0 = true) ∧
    SMap.find State.reset.ing.flushes 0 = none := by decide

theorem met_TableCommandResults : (ringUp 4 (desc 1)).reaches 0 4 (desc 1) = true ∧
    ((ringUp 4 (desc 1)).beginEntry 0).wrFails 0 0 0 = false ∧ (ringUp 4 (desc 1)).tableBad 0 (desc 1) = none ∧
    ((ringUp 4 (desc 1)).beginEntry 0).ing.flushes = [] ∧ (ringUp 4 (desc 1)).passOk 0 0 (desc 1) = true := by decide

theorem met_HeaderLookupResults : thrUp.canIssue (.thr 0 0) = true ∧
    ((withFrame {} thrUp).atSlot (.thr 0 0)).frame? 7 = some {} ∧
    SMap.find (thrUp.thr (ctxKey (.thr 0 0))).slots 0 = none ∧ (thrUp.thr (ctxKey (.thr 0 0))).slotEnd ≤ thrUp.elapsed := by decide

theorem met_ChannelAndEventResults : ccUp.canIssue (.cc 0) = true ∧ (ccUp.thr (ctxKey (.cc 0))).slotEnd ≤ ccUp.elapsed ∧
    SMap.find (ccUp.thr (ctxKey (.cc 0))).timers 0 = none ∧ ccUp.ridgesOf (ctxKey (.cc 0)) = [] := by decide

theorem met_EmitAndLeafResults :
    let s := { thrUp with ports := { thrUp.ports with frames := [(0, {})] } }
    s.canIssue (.thr 0 0) = true ∧ (s.thr (ctxKey (.thr 0 0))).frame = some 0 ∧ ((s.atSlot (.thr 0 0)).thr (ctxKey (.thr 0 0))).frame = some 0 ∧
    (s.atSlot (.thr 0 0)).frame? 0 = some {} ∧ ((s.atSlot (.thr 0 0)).imageOf (ctxKey (.thr 0 0))).isSome = true ∧
    s.fetches (.thr 0 0) 0x4C000000 = true := by decide

theorem met_DispatchAndBudget : (withFrame { port := some 0 } thrUp).frame? 7 = some { port := some 0 } ∧ thrUp.frame? 7 = none ∧
    (thrUp.imageOf (thrKey 0 0)).isSome = true ∧ thrUp.budgetLeft (thrKey 0 0) = some 65536000 ∧
    thrUp.chooseIdle 0 = none ∧ thrUp.membersUp 0 = [thrKey 0 0] ∧ thrUp.inWaitCycle 0 = false := by decide

theorem met_CoreControlWrites : bitOf (State.reset.sevSource (thrKey 0 0) 0) 15 = false ∧ State.reset.is .secLifecycleDebug = false ∧
    (State.reset.set .secLifecycleDebug 0 1).is .secLifecycleDebug = true ∧ 65536000 ≤ ltDiff 65536000 State.reset.lt ∧
    State.reset.is .spurCoreStaSlotPending 0 = false ∧ SMap.find State.reset.spur.slotTarget 0 = none ∧
    ((State.reset.modThr 0 (fun t => { t with st := 4, expired := true })).thr 0).expired = true := by decide

theorem met_SparingResults : thrUp.get .spurCoreStaState 0 = 1 ∧ (thrUp.set .spurCoreStaState 0 2).get .spurCoreStaState 0 = 2 ∧
    (0 : Fin 8) ≠ 1 ∧ (ccUp.setBlkState ⟨.control, 1⟩ 2).blkState ⟨.control, 0⟩ = 2 ∧
    (ccUp.setBlkState ⟨.control, 1⟩ 2).blkState ⟨.control, 1⟩ = 2 := by decide

theorem met_mailbox : mbxReady := by unfold mbxReady; decide

theorem met_ActivationAndGroups : actShape [] = false ∧ State.reset.spur.act = none ∧
    ({ State.reset with spur := { State.reset.spur with act := some { targets := [0], at_ := 0, epoch := 255, begun := false } } }).spur.act.isSome = true ∧
    (leBytes 0 2 ++ leBytes 1 2 ++ leBytes 1 2 ++ [0, 0]).length = 8 ∧ ltDiff 6553599999 State.reset.lt < 6553600000 := by decide

theorem met_HandoverAndEnqueue :
    let f : Frame := { port := some 0, stage := .emitted, dest := .queue 0, con := some (0, 1) }
    (withFrame f hostUp).frame? 7 = some f ∧ hostUp.frame? 7 = none ∧
    hostUp.get .tmBufStaContract + hostUp.frameLen f ≤ 50331648 := by decide

theorem met_TransmitResults : portUp.secyOn 0 = false ∧ (portUp.inTx 0).find? (fun x => x.stamp.isNone) = none ∧ (portUp.inTx 0).head? = none ∧
    portUp.tm.lastTick ≤ portUp.elapsed / 2 ^ 24 ∧ portUp.elapsed + 2 ^ 25 < 2 ^ 96 ∧ portUp.is .colStaPending 0 = false ∧
    (portUp.set .colStaPending 0 1).is .colStaPending 0 = true ∧ SMap.find portUp.tm.colEnd 0 = none := by decide

set_option maxRecDepth 20000 in
theorem met_ContractRequestResults : leAt ([2] : Bytes) 0 1 ≠ 1 ∧ leAt ([0] : Bytes) 0 1 = 0 ∧
    (([1] : Bytes) ++ List.replicate 167 0).length = 168 ∧ zeroAt (([1] : Bytes) ++ List.replicate 167 0) 1 7 = true ∧
    State.reset.conState 0 = 0 ∧ State.reset.vers 0 = [] ∧ conReserved (List.replicate 160 0) = false := by decide

theorem met_ContractInstants : State.reset.nextVer 0 = none ∧ (((oneVer none false).set .ingConStaState 0 1).nextVer 0).isSome = true ∧
    ((oneVer none false).set .ingConStaState 0 1).conState 0 = 1 ∧ ((oneVer (some 5) true).vers 0).length < 2 ∧
    ((oneVer (some 5) true).set .ingConStaState 0 3).conState 0 = 3 ∧ ((oneVer (some 5) true).vers 0).getLast?.any (fun v => !v.ended) = true := by
  decide

theorem met_LedgerEventResults : firstDue (State.reset.led? 0).due = none ∧ hostUp.gateOpen = true ∧ hostUp.ledOn = false ∧
    State.reset.gateOpen = false ∧ hostUp.led.closed = [] ∧ hostUp.led.spanEnds = [] ∧ hostUp.elapsed + 2 ^ 37 < 2 ^ 96 ∧
    SMap.find hostUp.led.exports (expKey 0 0) = none := by decide

theorem met_LedgerCommandResults : (1#32).getLsbD 0 = true ∧ (State.reset.set .ledRetStaOldHeld 0 1).is .ledRetStaOldHeld 0 = true ∧
    State.reset.is .ledRetStaOldHeld 0 = false ∧ (ringUp 7 (desc 1)).reaches 0 7 (desc 1) = true ∧ State.reset.canStart 0 7 = false ∧ ledBad 1 (desc 1) = none ∧
    (ringUp 7 (desc 1)).passOk 0 0 (desc 1) = true ∧ State.reset.ledOn = false ∧ (State.reset.led? 0).stuck = none := by decide

theorem met_WorkRequestResults : (ringUp 5 (desc 6)).reaches 0 5 (desc 6) = true ∧ workSrc (desc 6) = 0 ∧ (ringUp 5 (desc 6)).canReach 0 0 8 = true ∧ zoaBad (desc 6) = none ∧ (ringUp 5 (desc 6)).sendFull 0 = false ∧
    SMap.find State.reset.zoa.wqs 0 = none ∧ leAt (desc 6) 0 1 = 6 := by decide

theorem met_FabricPacketResults : State.reset.nextMsg (ctxNum (.wq 0)) = none ∧ State.reset.msgById 0 = none ∧
    State.reset.zoaIn 0 [] = .none := by decide

theorem met_FabricControlResults : mbxReady ∧ State.reset.zoa.deltaTarget = none ∧ State.reset.zoa.oldDelta = [] ∧
    (State.reset.set .zoaCfgEn 0 1).is .zoaCfgEn = true ∧ State.reset.is .zoaCfgEn = false ∧ State.reset.is .zoaTwinCfgEn = false ∧
    (State.reset.set .zoaTwinCfgEn 0 1).is .zoaTwinStaLost = false := by
  refine ⟨met_mailbox, ?_⟩
  decide

theorem met_CipherMessageResults : (ringUp 6 encDesc).reaches 0 6 encDesc = true ∧ cipherSrc encDesc = 0 ∧ cipherBad encDesc = none ∧
    (ringUp 6 encDesc).passOk 0 0 encDesc = true ∧ ((ringUp 6 encDesc).beginEntry 0).ownerOf (keyBlk 0) = (ringUp 6 encDesc).ringOwner 0 ∧
    State.reset.keyRec? 0 = none ∧ State.reset.job? 0 = none ∧ 0 < State.reset.coresFree := by decide

theorem met_CipherKeyResults : (ringUp 6 (desc 1)).reaches 0 6 (desc 1) = true ∧ (ringUp 6 (desc 1)).canReach 0 0 128 = true ∧ cipherBad (desc 1) = none ∧ cipherBad (desc 2) = none ∧
    State.reset.is .ciphStaErased = false ∧ (State.reset.set .ciphStaErased 0 1).is .ciphStaErased = true := by decide

theorem met_RegisterWriteResults : State.reset.pathOpen .native 0 = true ∧ wfAccess 0 8 = true ∧ wfAccess 4 8 = false ∧
    hostUp.pathOpen .pf0 0 = true ∧ State.reset.pathOpen .pf0 0 = false ∧
    SMap.find State.reset.ten.tenants 1 = none := by decide

theorem met_SystemRegisterResults : State.reset.get .sysUpdStaPending = 0 ∧ State.reset.upd = [] ∧ State.reset.tmr = [] ∧
    (State.reset.set .sysUpdStaPending 0 1).get .sysUpdStaPending ≠ 0 ∧
    State.reset.lt.toNat + 65536000 + 2 ^ 24 < 2 ^ 64 ∧ refBlk 0 = none := by decide

theorem met_BackgroundWorkResults : wordIsExt (.ext 0) = true ∧ State.reset.blkState ⟨.memCh, 0⟩ ≠ 2 ∧ State.reset.inWindow 0 = false ∧
    (State.reset.setBlkState ⟨.memCh, 0⟩ 2).blkState ⟨.memCh, 0⟩ = 2 ∧ State.reset.back.sramWords + 1 < sramTotal := by decide

theorem met_HostResetResults : (State.reset.set .sysRstStaIndep 0 1).is .sysRstStaIndep = true ∧ (State.reset.set .sysRstStaIndep 0 0).is .sysRstStaIndep = false ∧
    State.reset.is .hostLinkStaUp = false ∧ (hostUp.set .hostLinkStaUp 0 1).is .hostLinkStaUp = true ∧ hostUp.get .hostFnStaState 0 = 1 ∧
    (State.reset.set .sysRstStaIndep 0 0).cfgReady = false ∧ hostUp.cfgReady = true ∧ hostUp.host.vfEn = false ∧ hostUp.blkInc ⟨.function, 0⟩ ≠ 0xFFFF ∧ State.reset.host.reads.find? (fun x => x.tag == 0) = none ∧
    (State.reset.set .hostContainStaContained 0 1).is .hostContainStaContained = true := by decide

theorem met_PowerAndPinResults : 10 * (0 : BitVec 16).toNat < (railLevels 0).warning ∧ 10 * (0xFFFF : BitVec 16).toNat > (railLevels 0).clear ∧
    State.reset.railWarn 0 = false ∧ (State.reset.set .sysSupplyStaWarn 0 1).railWarn 0 = true ∧ State.reset.sec.held = [] ∧
    State.reset.sec.good = false ∧ State.reset.back.late = none := by decide

theorem met_CairnResults : State.reset.cairn.raised = [] ∧ (State.reset.cairnRec .powerOn none []).cairn.raised ≠ [] := by decide

theorem met_SpdmResults : State.reset.doeOk = false ∧ (hostUp.set .hostLinkStaUp 0 1).doeOk = true ∧ leAt ([0x12] : Bytes) 0 1 = 0x12 ∧ leAt ([0x10] : Bytes) 0 1 ≠ 0x12 := by
  decide

theorem met_RingResults : hostUp.memReach 0 = true ∧ hostUp.ringOwner 0 = 0 ∧ hostUp.is .ringCtlEn 0 = false ∧ (ringUp 1 (desc 1)).is .ringCtlEn 0 = true ∧
    hostUp.get .ringStaState 0 = rsDisabled ∧ State.reset.memReach 0 = false ∧ (ringUp 1 (desc 1)).reaches 0 1 (desc 1) = true ∧ (ringUp 1 (desc 1)).served 0 = true ∧
    (ringUp 1 (desc 1)).canReach 0 0 60 = true ∧
    (ringUp 1 (desc 1)).passOk 0 0 (desc 1) = true ∧ (hostUp.set .ringStaState 0 rsDraining).get .ringStaState 0 = rsDraining := by decide

theorem met_TenantResults : mbxReady ∧ hostUp.tenState 1 = 0 ∧ hostUp.ten? 1 = none ∧ grantBad [] = true := by
  refine ⟨met_mailbox, ?_⟩
  decide

theorem met_PtpAndJournalResults : mbxReady ∧ State.reset.frame? 7 = none ∧ State.reset.memReach pf1 = false ∧
    (hostUp.set .hostFnStaState 128 1).memReach pf1 = true ∧ State.reset.jTag? 0 0 = none ∧ SMap.find ptpSettable 0 = none := by
  refine ⟨met_mailbox, ?_⟩
  decide

theorem met_BootResults :
    let s := { State.reset with sec := { State.reset.sec with good := true } }
    s.sec.good = true ∧ s.get .secBootStaStage = 0 ∧ s.sec.fuses.lifecycle ≠ 0 ∧ s.sec.fuses.lifecycle ≠ 4 ∧
    (s.set .secBootStaStage 0 3).get .secBootStaStage = 3 ∧ s.slotImage 0 2 = none ∧ s.slotImage 1 2 = none ∧
    s.blkInc ⟨.memCh, 0⟩ = 0 ∧ (s.set .secBootStaStage 0 4).gateReady = true ∧ s.sec.act = none ∧ bitsOf 1 7 0 = 1 ∧
    (s.set .secBootStaLocked 0 1).is .secBootStaLocked = true := by decide

theorem paged_addr : (BitVec.ofNat 64 (pagedCopy.addr 16)).toNat = pagedCopy.addr 0 + 16 := by
  have h := (Config.fwArea 0).isLt
  have e (off : Nat) : pagedCopy.addr off = (Config.fwArea 0).toNat * 1048576 + off := rfl
  rw [BitVec.toNat_ofNat, e, e]
  generalize (Config.fwArea 0).toNat = k at h ⊢
  omega

theorem paged_page (n : Nat) (h : pagedCopy.addr 0 = n) : (pagedCopy.page (n + 16)).map (fun x => (x.1, x.2.2)) = some (0, 16) := by
  have p : pagedCopy.man.parts = [{ off := 16, len := 16, ty := 3, sect := 0, hash := [] }] := rfl
  simp only [FwCopy.page, h, p, Nat.add_sub_cancel_left]
  simp

theorem met_PageFill : (pagedCopy.page (BitVec.ofNat 64 (pagedCopy.addr 16)).toNat).map (fun x => (x.1, x.2.2)) = some (0, 16) := by
  rw [paged_addr]
  exact paged_page _ rfl

theorem met_SecurityCommandResults : mbxReady ∧ (∀ w ∈ hostUp.sec.held, w.isCmd = false) ∧ hostUp.supplyWarn = false ∧
    zeroAt (List.replicate 24 0) 2 6 = true ∧ hostUp.get .ciphStaErased = 0 ∧ hostUp.get .secBootStaBundle ≠ 2 ∧
    (hostUp.set .secBootStaBundle 0 2).get .secBootStaBundle = 2 := by
  refine ⟨met_mailbox, ?_⟩
  decide

theorem met_CaptureReads : ({ State.reset with crest := { State.reset.crest with caps := [(0, [9])] } }).caps 0 = [9] ∧ State.reset.caps 0 = [] := by
  decide

theorem met_BlockReferenceLayout : (⟨.port, 255⟩ : Blk).ix < (⟨.port, 255⟩ : Blk).kind.count := by decide

theorem met_MemoryFormKept : Mem.wf State.reset.mem.ext ∧ Mem.wf State.reset.mem.scratch ∧ Mem.wf State.reset.mem.shared ∧
    step State.reset = .next State.reset := ⟨by decide, by decide, by decide, rfl⟩

theorem met_FusesNeverCleared : SMap.find (Fuses.blowSlot { slots := [] } 0 [1]).slots 0 = some [1] := by decide

theorem met_CommandsQueueNothing : exec .learn State.reset = .next State.reset := rfl

theorem test_add_wraps : nextIs (exec (.aluAdd (.cc 0) 3 1 2) (ccWith 0xFFFFFFFFFFFFFFFF 2))
    (fun t => t.gpr (.cc 0) 3 == 1 && (t.thr (ctxKey (.cc 0))).index == 1) = true := by decide

theorem test_write_g0 : nextIs (exec (.aluAdd (.cc 0) 0 1 2) (ccWith 5 2)) (fun t => t.gpr (.cc 0) 0 == 0) = true := by decide

theorem test_andn : nextIs (exec (.aluAndn (.cc 0) 1 1 2) (ccWith 0xFF 0x0F)) (fun t => t.gpr (.cc 0) 1 == 0xF0) = true := by decide

theorem test_sra_by_65 : nextIs (exec (.shiftSra (.cc 0) 3 1 2) (ccWith 0x8000000000000000 65))
    (fun t => t.gpr (.cc 0) 3 == 0xC000000000000000) = true := by decide

theorem test_lts_signed : nextIs (exec (.cmpLts (.cc 0) 3 1 2) (ccWith 0xFFFFFFFFFFFFFFFF 0)) (fun t => t.gpr (.cc 0) 3 == 1) = true := by
  decide

theorem test_movk_keeps : nextIs (exec (.movk (.cc 0) 1 0xABCD 3) (ccWith 0x1111222233334444 0))
    (fun t => t.gpr (.cc 0) 1 == 0xABCD222233334444) = true := by decide

theorem test_bfx_signed : nextIs (exec (.bfx (.cc 0) 3 1 60 3 true) (ccWith 0x8000000000000000 0))
    (fun t => t.gpr (.cc 0) 3 == 0xFFFFFFFFFFFFFFF8) = true := by decide

theorem test_bswap : nextIs (exec (.aluBswap (.cc 0) 3 1 0) (ccWith 0x0102030405060708 0))
    (fun t => t.gpr (.cc 0) 3 == 0x0807060504030201) = true := by decide

theorem test_beq_taken : nextIs (exec (.beq (.cc 0) 1 2 0x10) (ccWith 7 7)) (fun t => (t.thr (ctxKey (.cc 0))).index == 16) = true := by
  decide

theorem test_syscall_traps : nextIs (exec (.syscall (.cc 0)) ccUp) (fun t =>
    SMap.getD (t.thr (ctxKey (.cc 0))).sys 0 0 == 6 && (t.thr (ctxKey (.cc 0))).index == 0x180 / 4) = true := by decide

/-- A target of exactly 1,000 ns is accepted, one unit less refused (R64). -/
theorem test_cmp_arm_edge : nextIs (exec (.crestCmpArm 0 65536000) State.reset) (fun t => t.get .crestCmpStaArmed 0 == 1) = true ∧
    nextIs (exec (.crestCmpArm 0 65535999) State.reset) (fun t => t.get .crestCmpStaRefused 0 == 1) = true := by decide

/-- An empty capture FIFO reads all ones (R63). -/
theorem test_capture_empty : nextIs (exec (.crestCapDataRead 0) State.reset) (fun t => t.readData == 0xFFFFFFFFFFFFFFFF) = true := by decide

/-- A pause that ends leaves its queue unpaused. -/
theorem test_pause_end : nextIs (exec (.pauseEnd 0 3) State.reset) (fun t => SMap.getD t.tm.pauses 3 0 == 0) = true := by decide

/-- RECOV_BEGIN outside Recovery Hold does nothing (R407). -/
theorem test_recov_closed : nextIs (exec (.recovBegin 1) State.reset) (fun t => t.sec.recov.st == 0) = true := by decide

/-- The gate does not open before stage 4 (R397). -/
theorem test_gate_early : nextIs (exec .gateOpen State.reset) (fun t => !t.gateOpen) = true := by decide

/-- A short reset pulse is filtered (R476). -/
theorem test_reset_pulse : nextIs (exec (.sysRstNAssert 999) (State.reset.set .secBootStaStage 0 4)) (fun t => t.get .secBootStaStage == 4) = true := by
  decide

/-- Multi-byte values lie least significant byte first in records (R8). -/
theorem test_little_endian : leBytes 0x0102 2 = [2, 1] ∧ beBytes 0x0102 2 = [1, 2] ∧ leAt [2, 1] 0 2 = 0x0102 := by decide

end Sys2Proof.Tests
end

section
/-! PROOFS. Rules about what an operation keeps: the parts of the state, a register with writable fields, a block's state and
incarnation.  Later proofs use these and do not unfold the operations. -/

namespace Sys2Proof

theorem Machine.State.agree_trans {s t u : Machine.State} {p : StatePart} (h : s.agree t p) (h' : t.agree u p) : s.agree u p := by
  cases p
  case sec =>
    have hsec : { t.sec with fuses := s.sec.fuses } = s.sec := h
    have hsec' : { u.sec with fuses := t.sec.fuses } = t.sec := h'
    show { u.sec with fuses := s.sec.fuses } = s.sec
    rw [← hsec, ← hsec']
  all_goals exact Eq.trans h' h

theorem KeepsBut.trans {ps : List StatePart} {s t u : Machine.State} (h : KeepsBut ps s t) (h' : KeepsBut ps t u) : KeepsBut ps s u :=
  fun p hp => Machine.State.agree_trans (h p hp) (h' p hp)

theorem KeepsBut.mono {ps qs : List StatePart} {s t : Machine.State} (h : KeepsBut ps s t) (hs : ps ⊆ qs) : KeepsBut qs s t :=
  fun p hp => h p (fun hm => hp (hs hm))

theorem KeepsBut.refl (ps : List StatePart) (s : Machine.State) : KeepsBut ps s s := by
  intro p _
  cases p <;> rfl

theorem RegsBut.trans {l : List (Machine.RegName × Nat)} {s t u : Machine.State} (h : RegsBut l s t) (h' : RegsBut l t u) :
    RegsBut l s u := fun r i hm => (h' r i hm).trans (h r i hm)

end Sys2Proof

namespace Sys2Proof.Machine

/-! ### Parts of the state -/

theorem State.setReg_keepsBut (s : State) (r : RegName) (i : Nat) (v : BitVec 64) : KeepsBut [.regs] s (s.setReg r i v) := by
  intro p hp
  cases p
  case regs => exact absurd List.mem_cons_self hp
  all_goals rfl

theorem State.set_keepsBut (s : State) (f : Fld) (i v : Nat) : KeepsBut [.regs] s (s.set f i v) := s.setReg_keepsBut _ _ _

theorem State.setTmr_keepsBut (s : State) (l : List TmrHurt) : KeepsBut [.tmr] s { s with tmr := l } := by
  intro p hp
  cases p
  case tmr => exact absurd List.mem_cons_self hp
  all_goals rfl

theorem State.setCrest_keepsBut (s : State) (c : Crest) : KeepsBut [.crest] s { s with crest := c } := by
  intro p hp
  cases p
  case crest => exact absurd List.mem_cons_self hp
  all_goals rfl

theorem State.setPci_keepsBut (s : State) (f : Nat) (c : PciFn) : KeepsBut [.host] s (s.setPci f c) := by
  intro p hp
  cases p
  case host => exact absurd List.mem_cons_self hp
  all_goals rfl

/-! ### Registers -/

theorem State.set_regsBut (s : State) (f : Fld) (i v : Nat) : RegsBut [(f.reg, i)] s (s.set f i v) := by
  intro q j hm
  refine s.reg_set_of_ne v ?_
  by_contra h
  push Not at h
  exact hm (by simp [h.1, h.2])

/-- A field's write reads alike in two states that agree in the field's register and in the one read. -/
theorem State.reg_set_congr {s t : State} {f : Fld} {i j : Nat} {q : RegName} (v : Nat) (hf : t.reg f.reg i = s.reg f.reg i)
    (hq : t.reg q j = s.reg q j) : (t.set f i v).reg q j = (s.set f i v).reg q j := by
  simp only [State.set, State.reg_setReg, hf, hq]

/-- A register with writable fields stays when a field of one without is written. -/
theorem State.reg_set_of_ctl (s : State) {f : Fld} {q : RegName} (i j v : Nat) (hq : q.ctlMask ≠ 0) (hf : f.reg.ctlMask = 0) :
    (s.set f i v).reg q j = s.reg q j :=
  s.reg_set_of_ne v (.inl (fun h => hq (h ▸ hf)))

/-! ### States and incarnations of blocks (R22) -/

theorem State.blkState_congr {s t : State} (h : t.blkSt = s.blkSt) (b : Blk) : t.blkState b = s.blkState b :=
  congrArg (fun m => SMap.getD m b.key 1) h

/-- An incarnation that no register shows stays with the map of them. -/
theorem State.blkInc_congr {s t : State} {b : Blk} (hb : b.kind.incFld = none) (h : t.incs = s.incs) : t.blkInc b = s.blkInc b := by
  simp only [State.blkInc, hb, h]

theorem BlkKind.incFld_wide {k : BlkKind} {f : Fld} (h : k.incFld = some f) : f.lo ≤ f.hi ∧ f.hi < 64 ∧ f.width = 16 := by
  cases k <;> simp only [BlkKind.incFld, Option.some.injEq, reduceCtorEq] at h <;> subst h <;> decide

theorem State.blkInc_setBlkInc_self (s : State) (b : Blk) (v : Nat) : (s.setBlkInc b v).blkInc b = v % 2 ^ 16 := by
  cases hb : b.kind.incFld with
  | none => simp [State.blkInc, State.setBlkInc, hb]
  | some f =>
    obtain ⟨hl, hh, hw⟩ := BlkKind.incFld_wide hb
    simp only [State.blkInc, State.setBlkInc, hb]
    rw [State.get_set_self _ _ _ _ hl hh, hw]

theorem State.blkState_enterService_self (s : State) (b : Blk) : (s.enterService b).blkState b = 2 := by
  unfold State.enterService
  dsimp only
  split
  · exact State.blkState_setBlkState_self _ b 2
  · exact State.blkState_setBlkState_self _ b 2

theorem State.blkInc_enterService_self (s : State) (b : Blk) : (s.enterService b).blkInc b = incNext (s.blkInc b) % 2 ^ 16 := by
  unfold State.enterService
  dsimp only
  split
  · exact State.blkInc_setBlkInc_self _ b _
  · exact State.blkInc_setBlkInc_self _ b _

/-- What every operation of a run keeps, the run keeps. -/
theorem foldl_keeps {α β : Type} (g : State → β) {f : State → α → State} (h : ∀ s x, g (f s x) = g s) (l : List α) (s : State) :
    g (l.foldl f s) = g s := by
  induction l generalizing s with
  | nil => rfl
  | cons x t ih => rw [List.foldl_cons, ih, h]

@[simp] theorem State.idleWait_blkSt (s : State) (k : Nat) : (s.idleWait k).blkSt = s.blkSt := rfl

@[simp] theorem State.resetThr_blkSt (s : State) (k : Nat) : (s.resetThr k).blkSt = s.blkSt := by
  unfold State.resetThr
  simp only
  split <;> rfl

@[simp] theorem State.setSev_blkSt (s : State) (t : Nat) : (s.setSev t).blkSt = s.blkSt :=
  foldl_keeps State.blkSt (fun s k => s.modThr_blkSt k _) _ s

/-- One channel's part of `State.dropChans`, `ds` being the channels that images of the ridge declare. -/
def State.dropChan (r : Nat) (ds : List Nat) (s : State) (ch : Nat) : State :=
  if s.get .spurChCfgDepth (chanIx r ch) ≠ 0 ∧ !ds.contains ch then
    (s.setReg .spurChCfg (chanIx r ch) 0).setChan (chanIx r ch) []
  else s

theorem State.dropChans_eq_foldl (s : State) (r : Nat) :
    s.dropChans r = (List.range 1024).foldl (State.dropChan r ((s.ridgeDecls r).map (·.ch))) s := rfl

theorem State.dropChan_blkSt (r : Nat) (ds : List Nat) (s : State) (ch : Nat) : (State.dropChan r ds s ch).blkSt = s.blkSt := by
  unfold State.dropChan
  split <;> rfl

@[simp] theorem State.dropChans_blkSt (s : State) (r : Nat) : (s.dropChans r).blkSt = s.blkSt := by
  rw [State.dropChans_eq_foldl, foldl_keeps State.blkSt (State.dropChan_blkSt _ _)]

@[simp] theorem State.bgTake_blkSt (s : State) (c : Nat) (im : Option Image) : (s.bgTake c im).blkSt = s.blkSt := by
  by_cases h : SMap.find s.spur.images (bgRun c) = im
  · rw [State.bgTake, if_pos h]
  · have other : s.bgTake c im = (({ s with spur := { s.spur with images := SMap.put s.spur.images (bgRun c) im } } : State).setSev
        (0x8000 + c)).dropChans (c / 16) := if_neg h
    rw [other, State.dropChans_blkSt, State.setSev_blkSt]

@[simp] theorem State.resetBg_blkSt (s : State) (c : Nat) : (s.resetBg c).blkSt = s.blkSt := by
  simp [State.resetBg, State.bgRestart]

/-- A core in no other state that is enabled is in service (R160). -/
theorem State.blkState_coreOn (s : State) (c : Nat) (h : s.get .spurCoreStaState c = 0) : (s.coreOn c).blkState ⟨.core, c⟩ = 2 := by
  unfold State.coreOn
  rw [if_pos h]
  refine (State.blkState_congr ?_ _).trans (State.blkState_enterService_self (s.set .spurCoreStaState c 1) ⟨.core, c⟩)
  rw [State.resetBg_blkSt]
  exact foldl_keeps State.blkSt (fun s t => s.resetThr_blkSt _) _ _

end Sys2Proof.Machine
end

section
/-! PROOFS. The state right after reset, and the statement O60. -/

namespace Sys2Proof.Machine

/-- Settles O60: no register, block or byte is listed right after reset, so each reads as what an unlisted one holds. -/
theorem resetState : Obligations.ResetState := by
  unfold Obligations.ResetState
  refine ⟨fun r i => rfl, rfl, rfl, rfl, rfl, rfl, by decide, fun b => rfl, by decide, by decide, by decide, fun p => ?_⟩
  cases p with
  | ext a => rfl
  | scratch a => rfl
  | shared a => rfl

end Sys2Proof.Machine
end

section
/-! PROOFS. A register write: where each path's access goes, what the native rules make of it, and the statement O43. -/

namespace Sys2Proof.Machine

/-! ### Unsupported requests (R324) -/

theorem State.aerLog_reg (s : State) (f uncor cor : Nat) (r : RegName) (i : Nat) : (s.aerLog f uncor cor).reg r i = s.reg r i := by
  unfold State.aerLog
  split <;> rfl

theorem State.get_ur_self (s : State) (f : Nat) :
    (s.ur f).get .hostFnUrCntRequests f = (s.get .hostFnUrCntRequests f + 1) % 2 ^ 64 := by
  have hreg : (s.ur f).reg .hostFnUrCnt f = (s.bump .hostFnUrCntRequests f).reg .hostFnUrCnt f := State.aerLog_reg _ _ _ _ _ _
  rw [State.get, hreg]
  exact s.get_bump_self .hostFnUrCntRequests f 1 (by decide) (by decide)

theorem State.ur_regsBut (s : State) (f : Nat) : RegsBut [(.hostFnUrCnt, f)] s (s.ur f) := by
  have hcount : RegsBut [(.hostFnUrCnt, f)] s (s.bump .hostFnUrCntRequests f) := s.set_regsBut .hostFnUrCntRequests f _
  exact hcount.trans (fun r i _ => State.aerLog_reg _ _ _ _ r i)

theorem State.aerLog_keepsBut (s : State) (f uncor cor : Nat) : KeepsBut [.host] s (s.aerLog f uncor cor) := by
  unfold State.aerLog
  split
  · exact KeepsBut.refl _ s
  · exact s.setPci_keepsBut f _

theorem State.ur_keepsBut (s : State) (f : Nat) : KeepsBut [.regs, .host] s (s.ur f) :=
  KeepsBut.trans ((s.set_keepsBut .hostFnUrCntRequests f _).mono (by simp)) ((State.aerLog_keepsBut _ _ _ _).mono (by simp))

theorem bitOf_or_two_pow (n k : Nat) : bitOf (n ||| 2 ^ k) k = true := by
  have hbit : bitOf (n ||| 2 ^ k) k = (n ||| 2 ^ k).testBit k := by
    simp [bitOf, Nat.testBit]
  rw [hbit, Nat.testBit_or, Nat.testBit_two_pow_self, Bool.or_true]

/-- An attached function logs an unsupported request as an advisory non-fatal error. -/
theorem State.pciFn_ur (s : State) (f : Nat) (h : s.get .hostFnStaState f ≠ 0) :
    bitOf ((s.ur f).pciFn f).cor 13 = true ∧ bitOf ((s.ur f).pciFn f).uncor 20 = true := by
  have hst : (s.bump .hostFnUrCntRequests f).get .hostFnStaState f ≠ 0 := by
    rwa [State.bump, s.get_set_of_ne _ (.inl (by decide))]
  have hur : s.ur f = (s.bump .hostFnUrCntRequests f).aerLog f (2 ^ 20) (2 ^ 13) := rfl
  rw [hur, State.aerLog, if_neg hst]
  simp only [State.pciFn, State.setPci, SMap.getD_setD_self]
  exact ⟨bitOf_or_two_pow _ 13, bitOf_or_two_pow _ 20⟩

/-! ### Where an access goes (R17, R18, R370, R428, R495) -/

theorem wfAccess_size {addr size : Nat} (h : wfAccess addr size = true) : size = 4 ∨ size = 8 := by
  simp only [wfAccess, Bool.and_eq_true, Bool.or_eq_true, beq_iff_eq] at h
  exact h.1

/-- An aligned access of a register's own width is one access of that register. -/
theorem State.accessDom_whole (s : State) (path : Path) {dom off size : Nat} (v : BitVec 64) {r : RegName} {i : Nat}
    (hs : size = 4 ∨ size = 8) (hr : regAt dom off = some (r, i, 0)) (hw : r.info.width = 8 * size) :
    s.accessDom path dom off size v = s.accessReg path r i 0 true (if size = 8 then v else v &&& 0xFFFFFFFF#64) := by
  rcases hs with rfl | rfl <;> simp [State.accessDom, hr, hw]

/-- A 32-bit access of a 64-bit register is one of a half of it. -/
theorem State.accessDom_half (s : State) (path : Path) {dom off : Nat} (v : BitVec 64) {r : RegName} {i b : Nat}
    (hr : regAt dom off = some (r, i, b)) (hw : r.info.width = 64) :
    s.accessDom path dom off 4 v = s.accessReg path r i b false (v &&& 0xFFFFFFFF#64) := by
  simp [State.accessDom, hr, hw]

theorem State.accessReg_native (s : State) (r : RegName) (i half : Nat) (full : Bool) (v : BitVec 64) :
    s.accessReg .native r i half full v = s.writeReg r i 0 (mergeHalf (s.reg r i) v half full) full := rfl

theorem State.accessReg_vf (s : State) (f : Fin 128) (r : RegName) (i : Nat) (v : BitVec 64) :
    s.accessReg (.vf f) r i 0 true v = s.writeReg r i f.val v true := rfl

theorem State.accessReg_pf0_held (s : State) {r : RegName} (i : Nat) (v : BitVec 64) (hf : s.forerunner = true) (hr : r ≠ .sysMode) :
    s.accessReg .pf0 r i 0 true v = s.holdReg r i 0 true v := by
  simp [State.accessReg, hf, hr]

/-- When PF0's write of a register is under the native rules (R428). -/
theorem State.pf0_native_iff (s : State) (r : RegName) : (s.forerunner && r != .sysMode) = false ↔ s.forerunner = false ∨ r = .sysMode := by
  simp [imp_iff_not_or]

theorem State.accessReg_pf0_granted (s : State) {r : RegName} {i : Nat} (v : BitVec 64) (hf : s.forerunner = false ∨ r = .sysMode)
    (hg : s.granted r i = true) : s.accessReg .pf0 r i 0 true v = (s.ignReg r i, false) := by
  simp only [State.accessReg, (s.pf0_native_iff r).2 hf, hg, Bool.false_eq_true, if_false, if_true]

theorem State.accessReg_pf0_own (s : State) {r : RegName} {i : Nat} (v : BitVec 64) (hf : s.forerunner = false ∨ r = .sysMode)
    (hg : s.granted r i = false) : s.accessReg .pf0 r i 0 true v = s.writeReg r i 0 v true := by
  simp only [State.accessReg, (s.pf0_native_iff r).2 hf, hg, Bool.false_eq_true, if_false, mergeHalf, if_true]

/-- The registers of the JOURNAL domain that PF1 may not write: the manager's. -/
abbrev managerJrn : List RegName := [.jrnCfg, .jrnPeerSwap, .jrnPeerCfg, .jrnPeerCtx]

theorem State.accessReg_pf1_manager (s : State) {r : RegName} (i : Nat) (v : BitVec 64) (hr : r ∈ managerJrn) :
    s.accessReg .pf1 r i 0 true v = (s.ignReg r i, false) := by
  simp only [List.mem_cons, List.not_mem_nil, or_false] at hr
  rcases hr with rfl | rfl | rfl | rfl <;> rfl

theorem State.accessReg_pf1_own (s : State) {r : RegName} (i : Nat) (v : BitVec 64) (hr : r ∉ managerJrn) :
    s.accessReg .pf1 r i 0 true v = s.writeReg r i 128 v true := by
  simp only [List.mem_cons, List.not_mem_nil, or_false, not_or] at hr
  obtain ⟨hcfg, hswap, hpeer, hctx⟩ := hr
  simp only [State.accessReg, mergeHalf, if_true]

theorem exec_registerWrite (path : Path) (addr size : Nat) (v : BitVec 64) (s : State) :
    exec (.registerWrite path addr size v) s = .next (s.access path addr size v).1 := rfl

theorem State.access_closed (s : State) {path : Path} {addr : Nat} (size : Nat) (v : BitVec 64) (h : s.pathOpen path addr = false) :
    s.access path addr size v = (s.ur (pathFn path), false) := by
  simp [State.access, h]

theorem State.access_misaligned (s : State) {path : Path} {addr size : Nat} (v : BitVec 64) (h : s.pathOpen path addr = true)
    (hw : wfAccess addr size = false) : s.access path addr size v = (if path = .native then s else s.ur (pathFn path), false) := by
  simp [State.access, h, hw]

section Aligned
variable (s : State) {addr size : Nat} (v : BitVec 64) (hw : wfAccess addr size = true)
include hw

/-- An access through BAR0 of PF0, or a native one, is of a domain's window. -/
theorem State.access_window {path : Path} (hp : path = .native ∨ path = .pf0) (h : s.pathOpen path addr = true)
    (hd : addr / 0x800000 < 15) :
    s.access path addr size v = s.accessDom path (addr / 0x800000) (addr % 0x800000) size v := by
  rcases hp with rfl | rfl <;> simp [State.access, h, hw, hd]

theorem State.access_vf {f : Fin 128} (h : s.pathOpen (.vf f) addr = true) :
    s.access (.vf f) addr size v = s.vfWindow f.val addr size v := by
  simp [State.access, h, hw]

theorem State.access_pf1 (h : s.pathOpen .pf1 addr = true) :
    s.access .pf1 addr size v = if addr < 0x100000 then s.accessDom .pf1 10 addr size v else (s.ur 128, false) := by
  simp [State.access, h, hw]

theorem State.access_cfg {f : Fn} (h : s.pathOpen (.cfg f) addr = true) :
    (s.access (.cfg f) addr size v).1 = if s.cfgReady then s.cfgSpace f.val addr size v else s := by
  simp only [State.access, h, hw, Bool.not_true, Bool.false_eq_true, if_false]
  split <;> rfl

theorem State.access_bar4 {f : Fn} (h : s.pathOpen (.bar4 f) addr = true) :
    (s.access (.bar4 f) addr size v).1 = if addr < barBytes f.val 4 then s.bar4Write f.val addr size v else s.ur f.val := by
  simp only [State.access, h, hw, Bool.not_true, Bool.false_eq_true, if_false]
  split <;> rfl

end Aligned

theorem State.vfWindow_beyond (s : State) (f : Nat) {addr : Nat} (size : Nat) (v : BitVec 64) (h : 0x100000 ≤ addr) :
    s.vfWindow f addr size v = (s.ur f, false) := by
  rw [State.vfWindow, if_pos h]

theorem State.vfWindow_no_tenant (s : State) {f addr : Nat} (size : Nat) (v : BitVec 64) (h : addr < 0x100000)
    (ht : SMap.find s.ten.tenants f = none) : s.vfWindow f addr size v = (s, true) := by
  simp only [State.vfWindow, Nat.not_le.2 h, if_false, ht]

theorem State.vfWindow_ring (s : State) {f : Fin 128} {addr size : Nat} (v : BitVec 64) {n : Tenant} (h : addr < 0x100000)
    (ht : SMap.find s.ten.tenants f.val = some n) (hr : inRange addr 0x10000 (n.grant.ringCount * 0x80) = true) :
    s.vfWindow f.val addr size v =
      s.accessDom (.vf f) 9 (RegName.offset .ringBase (n.grant.ringFirst + (addr - 0x10000) / 0x80) + addr % 0x80) size v := by
  simp only [State.vfWindow, Nat.not_le.2 h, if_false, ht, hr, if_true, Fin.ofNat_val_eq_self]

theorem State.vfWindow_table (s : State) {f : Fin 128} {addr size : Nat} (v : BitVec 64) {n : Tenant} (h : addr < 0x100000)
    (ht : SMap.find s.ten.tenants f.val = some n) (hr : inRange addr 0x10000 (n.grant.ringCount * 0x80) = false)
    (hj : inRange addr 0x40000 (n.grant.tableCount * 0x100) = true) :
    s.vfWindow f.val addr size v =
      s.accessDom (.vf f) 2 (RegName.offset .ingTblCtl (n.grant.tableFirst + (addr - 0x40000) / 0x100) + addr % 0x100) size v := by
  simp only [State.vfWindow, Nat.not_le.2 h, if_false, ht, hr, Bool.false_eq_true, hj, if_true, Fin.ofNat_val_eq_self]

/-! ### What an accepted write stores (R418, R439) -/

/-- The field that shows the ign bit of a home, where one does. -/
def RegHome.ignFld : RegHome → Option (Fld × Nat)
  | .port n | .ingPort n => some (.portStaIgn, n)
  | .table t => some (.ingTblStaIgn, t)
  | .core c => some (.spurCoreStaIgn, c)
  | .tm p => some (.tmPortStaIgn, p)
  | .col p => some (.colStaIgn, p)
  | .ring r => some (.ringStaIgn, r)
  | .jq _ | .jrn => some (.jrnStaIgn, 0)
  | .dom _ => none

theorem State.okHome_of_none (s : State) {h : RegHome} (hf : h.ignFld = none) : s.okHome h = s := by
  cases h <;> simp only [RegHome.ignFld, reduceCtorEq] at hf
  rfl

theorem State.okHome_of_some (s : State) {h : RegHome} {f : Fld} {n : Nat} (hf : h.ignFld = some (f, n)) :
    s.okHome h = s.set f n 0 := by
  cases h <;> simp only [RegHome.ignFld, reduceCtorEq, Option.some.injEq, Prod.mk.injEq] at hf <;> obtain ⟨rfl, rfl⟩ := hf <;> rfl

/-- The registers that show ign bits have no writable field. -/
theorem RegHome.ctlMask_ignFld {h : RegHome} {f : Fld} {n : Nat} (hf : h.ignFld = some (f, n)) : f.reg.ctlMask = 0 := by
  cases h <;> simp only [RegHome.ignFld, reduceCtorEq, Option.some.injEq, Prod.mk.injEq] at hf <;> obtain ⟨rfl, _⟩ := hf <;> decide

theorem State.reg_okHome_of_ctl (s : State) (h : RegHome) {q : RegName} (j : Nat) (hq : q.ctlMask ≠ 0) :
    (s.okHome h).reg q j = s.reg q j := by
  cases hf : h.ignFld with
  | none => rw [s.okHome_of_none hf]
  | some x => rw [s.okHome_of_some hf, s.reg_set_of_ctl _ _ _ hq (RegHome.ctlMask_ignFld hf)]

theorem State.okHome_keepsBut (s : State) (h : RegHome) : KeepsBut [.regs] s (s.okHome h) := by
  cases hf : h.ignFld with
  | none => rw [s.okHome_of_none hf]; exact KeepsBut.refl _ s
  | some x => rw [s.okHome_of_some hf]; exact s.set_keepsBut _ _ _

theorem State.reg_putReg_self (s : State) {r : RegName} (i : Nat) (v : BitVec 64) (hr : r.ctlMask ≠ 0) : (s.putReg r i v).reg r i = v := by
  rw [State.putReg, State.reg_okHome_of_ctl _ _ _ hr]
  exact s.reg_setReg_self r i v

/-- Beside the register written only its block's ign bit changes. -/
theorem State.reg_putReg_of_ne (s : State) {r q : RegName} {i j : Nat} (v : BitVec 64) (hr : r.ctlMask ≠ 0) (hne : (q, j) ≠ (r, i)) :
    (s.putReg r i v).reg q j = (s.okHome (r.home i)).reg q j := by
  have stored : ∀ q' j', (q', j') ≠ (r, i) → (s.setReg r i v).reg q' j' = s.reg q' j' := by
    intro q' j' h'
    rw [s.reg_setReg, if_neg (fun h => h' (by rw [h.1, h.2]))]
  unfold State.putReg
  cases hf : (r.home i).ignFld with
  | none => rw [State.okHome_of_none _ hf, State.okHome_of_none _ hf]; exact stored q j hne
  | some x =>
    rw [State.okHome_of_some _ hf, State.okHome_of_some _ hf]
    refine State.reg_set_congr 0 (stored _ _ ?_) (stored q j hne)
    exact fun h => hr ((Prod.mk.inj h).1 ▸ RegHome.ctlMask_ignFld hf)

theorem State.putReg_keepsBut (s : State) (r : RegName) (i : Nat) (v : BitVec 64) : KeepsBut [.regs, .tmr] s (s.putReg r i v) :=
  (((s.setReg_keepsBut r i v).mono (by simp)).trans ((State.setTmr_keepsBut _ _).mono (by simp))).trans
    ((State.okHome_keepsBut _ _).mono (by simp))

/-! ### The native rules (R419-R425) -/

/-- What a write of `w` would leave in a register: its writable bits from `w`, the others as they are. -/
abbrev State.merged (s : State) (r : RegName) (i : Nat) (w : BitVec 64) : BitVec 64 := (s.reg r i &&& ~~~r.ctlMask) ||| (w &&& r.ctlMask)

/-- Does a write of `w` change a rule-bound field of a register? -/
abbrev State.changesBound (s : State) (r : RegName) (i : Nat) (w : BitVec 64) : Bool := (s.reg r i ^^^ s.merged r i w) &&& r.boundMask != 0

/-- The registers whose writes have a rule of their own. -/
abbrev ownRuleRegs : List RegName := [.portCtl, .ingTblCtl, .ringCtl, .cairnCursor, .cairnRate, .sysMode]

/-- The registers whose accepted writes do more than store their fields. -/
abbrev actingRegs : List RegName :=
  [.portOctCfg, .crestCapCfg, .crestTtoCfg, .crestPpsoCfg, .crestRefCfg, .spurCoreCtl, .zoaCfg, .zoaTwinCfg, .jrnQCtl]

/-- A state after a write, the Crest's report of the epoch following a time-quality word that the write changed (R56). -/
def State.noteSince (t s : State) : State := if s.tqwLive = t.tqwLive then t else t.noteTqw

theorem State.noteSince_keepsBut (t s : State) : KeepsBut [.crest] t (t.noteSince s) := by
  unfold State.noteSince
  split
  · exact KeepsBut.refl _ t
  · exact t.setCrest_keepsBut _

theorem State.reg_noteSince (t s : State) (r : RegName) (i : Nat) : (t.noteSince s).reg r i = t.reg r i := by
  unfold State.noteSince
  split <;> rfl

theorem State.blkState_noteSince (t s : State) (b : Blk) : (t.noteSince s).blkState b = t.blkState b :=
  State.blkState_congr (t.noteSince_keepsBut s .blkSt (by decide)) b

section Write
variable (s : State) {r : RegName} {i : Nat} (f : Nat) {w : BitVec 64} {full : Bool}

theorem State.writeReg_cmd (hc : r.isCmd = true) : s.writeReg r i f w true = ((s.okHome (r.home i)).writeCmd r i f w, true) := by
  simp [State.writeReg, hc]

theorem State.writeReg_cmd_half (hc : r.isCmd = true) : s.writeReg r i f w false = (s.ignReg r i, false) := by
  simp [State.writeReg, hc]

theorem State.writeReg_no_ctl (hc : r.isCmd = false) (hm : r.ctlMask = 0) : s.writeReg r i f w full = (s.okHome (r.home i), true) := by
  simp [State.writeReg, hc, hm]

theorem State.writeReg_reserved (hc : r.isCmd = false) (hm : r.ctlMask ≠ 0)
    (hv : r.rsvBad (s.merged r i w) = true ∨ s.rsvMore r i (s.merged r i w) = true) : s.writeReg r i f w full = (s.ignReg r i, false) := by
  have hbad : (r.rsvBad (s.merged r i w) || s.rsvMore r i (s.merged r i w)) = true := by simpa using hv
  simp only [State.writeReg, hc, Bool.false_eq_true, if_false, hm, hbad, if_true]

variable (hc : r.isCmd = false) (hm : r.ctlMask ≠ 0) (hv : r.rsvBad (s.merged r i w) = false)
  (hv' : s.rsvMore r i (s.merged r i w) = false) (hr : r ∉ ownRuleRegs)
include hc hm hv hv' hr

theorem State.writeReg_twin {n : Nat} (hn : r.bankStep = some n) : s.writeReg r i f w full = s.writeTwin r n i (s.merged r i w) := by
  simp only [State.writeReg, hc, Bool.false_eq_true, if_false, hm, hv, hv', Bool.or_self]
  split
  case h_7 => simp only [hn]
  all_goals exact absurd (by decide) hr

theorem State.writeReg_single (hn : r.bankStep = none) : s.writeReg r i f w full =
    if s.cfgOk r i (s.reg r i) (s.merged r i w) (s.changesBound r i w) then
      (((s.putReg r i (s.merged r i w)).cfgAct r i (s.reg r i) (s.merged r i w)).noteSince s, true)
    else (s.ignReg r i, false) := by
  simp only [State.writeReg, hc, Bool.false_eq_true, if_false, hm, hv, hv', Bool.or_self]
  split
  case h_7 => simp only [hn]; rfl
  all_goals exact absurd (by decide) hr

end Write

/-! ### What the write of a register of one bank does -/

theorem State.cfgAct_of_notMem (s : State) {r : RegName} (i : Nat) (old new : BitVec 64) (hr : r ∉ actingRegs) :
    s.cfgAct r i old new = s := by
  unfold State.cfgAct
  dsimp only
  split
  case h_10 => rfl
  all_goals exact absurd (by decide) hr

/-- A capture block that is enabled is in service under its next incarnation. -/
theorem State.cfgAct_capture_on (s : State) (i : Nat) {old new : BitVec 64} (ho : old.getLsbD 0 = false) (hn : new.getLsbD 0 = true) :
    s.cfgAct .crestCapCfg i old new = (s.setCaps i []).enterService ⟨.capture, i⟩ := by
  simp only [State.cfgAct, ho, hn, Bool.not_false, Bool.and_self, if_true]

theorem State.cfgAct_core_on (s : State) (i : Nat) {old new : BitVec 64} (ho : old.getLsbD 0 = false) (hn : new.getLsbD 0 = true) :
    s.cfgAct .spurCoreCtl i old new = s.coreOn i := by
  simp only [State.cfgAct, ho, hn, Bool.not_false, Bool.and_self, if_true]

/-- A write of a core's control register leaves the core's state field, beside the ign bit it clears. -/
theorem State.get_coreState_putReg (s : State) (i : Nat) (v : BitVec 64) :
    (s.putReg .spurCoreCtl i v).get .spurCoreStaState i = s.get .spurCoreStaState i := by
  have hbeside : (s.putReg .spurCoreCtl i v).get .spurCoreStaState i = (s.setReg .spurCoreCtl i v).get .spurCoreStaState i :=
    State.get_set_beside (f := .spurCoreStaIgn) (g := .spurCoreStaState) _ 0 rfl (by decide) (by decide) (by decide)
  rw [hbeside, State.get, s.reg_setReg_of_ne v (.inl (by decide)), State.get]

/-! ### What the write of a twin-banked register does (R425) -/

/-- Does R425 refuse a write of a twin-banked register: of an enabled block's active bank, or of the inactive one with a swap
pending? -/
abbrev State.twinRefuses (s : State) (r : RegName) (n i : Nat) : Prop :=
  bankOf n i = (s.twin r (i / (2 * n))).2.1 ∧ (s.twin r (i / (2 * n))).1 = true ∨
    ¬ bankOf n i = (s.twin r (i / (2 * n))).2.1 ∧ (s.twin r (i / (2 * n))).2.2 = true

theorem State.writeTwin_refused (s : State) {r : RegName} {n i : Nat} (v : BitVec 64) (h : s.twinRefuses r n i) :
    s.writeTwin r n i v = (s.ignReg r i, false) := by
  rcases ht : s.twin r (i / (2 * n)) with ⟨on, act, pend⟩
  simp only [State.twinRefuses, ht] at h
  simp [State.writeTwin, ht, h]

theorem State.writeTwin_accepted (s : State) {r : RegName} {n i : Nat} (v : BitVec 64) (h : ¬ s.twinRefuses r n i) :
    s.writeTwin r n i v = (s.putTwin r n i v, true) := by
  rcases ht : s.twin r (i / (2 * n)) with ⟨on, act, pend⟩
  simp only [State.twinRefuses, ht] at h
  simp [State.writeTwin, ht, h]

theorem State.reg_clearMark_of_ctl (s : State) (p : Nat) {q : RegName} (j : Nat) (hq : q.ctlMask ≠ 0) :
    (s.clearMark p).reg q j = s.reg q j := s.reg_set_of_ctl p j 0 hq (by decide)

theorem State.reg_dropList_of_ctl (s : State) (p : Nat) {q : RegName} (j : Nat) (hq : q.ctlMask ≠ 0) :
    (s.dropList p).reg q j = s.reg q j := by
  unfold State.dropList
  rw [State.reg_set_of_ctl _ _ _ _ hq (by decide), State.reg_set_of_ctl _ _ _ _ hq (by decide), State.reg_set_of_ctl _ _ _ _ hq (by decide)]
  rfl

theorem State.reg_putTwin_self (s : State) {r : RegName} (n i : Nat) (v : BitVec 64) (hr : r.ctlMask ≠ 0) :
    (s.putTwin r n i v).reg r i = v := by
  have stored := s.reg_putReg_self i v hr
  unfold State.putTwin
  dsimp only
  split
  · split
    · exact stored
    · rw [State.reg_clearMark_of_ctl _ _ _ hr, stored]
  · split
    · rw [State.reg_dropList_of_ctl _ _ _ hr, stored]
    · rw [State.reg_clearMark_of_ctl _ _ _ hr, stored]
  · exact stored

section Twin
variable (s : State) {r : RegName} {i n : Nat} (f : Nat) {w : BitVec 64} {full : Bool} (hc : r.isCmd = false) (hm : r.ctlMask ≠ 0)
  (hv : r.rsvBad (s.merged r i w) = false) (hv' : s.rsvMore r i (s.merged r i w) = false) (hr : r ∉ ownRuleRegs)
  (hn : r.bankStep = some n)
include hc hm hv hv' hr hn

theorem State.writeReg_twin_refused (h : s.twinRefuses r n i) : s.writeReg r i f w full = (s.ignReg r i, false) := by
  rw [s.writeReg_twin f hc hm hv hv' hr hn, s.writeTwin_refused _ h]

theorem State.writeReg_twin_stores (h : ¬ s.twinRefuses r n i) :
    (s.writeReg r i f w full).2 = true ∧ (s.writeReg r i f w full).1.reg r i = s.merged r i w := by
  rw [s.writeReg_twin f hc hm hv hv' hr hn, s.writeTwin_accepted _ h]
  exact ⟨rfl, s.reg_putTwin_self n i _ hm⟩

end Twin

/-! ### Accepted and refused writes of a register of one bank (R418-R420) -/

section Judged
variable (s : State) {r : RegName} {i : Nat} (f : Nat) {w : BitVec 64} {full : Bool} (hc : r.isCmd = false) (hm : r.ctlMask ≠ 0)
  (hv : r.rsvBad (s.merged r i w) = false) (hv' : s.rsvMore r i (s.merged r i w) = false) (hr : r ∉ ownRuleRegs)
  (hn : r.bankStep = none)
include hc hm hv hv' hr hn

theorem State.writeReg_refused (hok : s.cfgOk r i (s.reg r i) (s.merged r i w) (s.changesBound r i w) = false) :
    s.writeReg r i f w full = (s.ignReg r i, false) := by
  rw [s.writeReg_single f hc hm hv hv' hr hn, hok, if_neg Bool.false_ne_true]

theorem State.writeReg_accepted (hok : s.cfgOk r i (s.reg r i) (s.merged r i w) (s.changesBound r i w) = true) :
    s.writeReg r i f w full =
      (((s.putReg r i (s.merged r i w)).cfgAct r i (s.reg r i) (s.merged r i w)).noteSince s, true) := by
  rw [s.writeReg_single f hc hm hv hv' hr hn, if_pos hok]

/-- A register whose write does nothing else stores its writable bits; beside it change its block's ign bit, the copies of its TMR
fields and what the Crest reports. -/
theorem State.writeReg_stores (hok : s.cfgOk r i (s.reg r i) (s.merged r i w) (s.changesBound r i w) = true) (ha : r ∉ actingRegs) :
    (s.writeReg r i f w full).1.reg r i = s.merged r i w ∧
    (∀ q j, (q, j) ≠ (r, i) → (s.writeReg r i f w full).1.reg q j = (s.okHome (r.home i)).reg q j) ∧
    KeepsBut [.regs, .tmr, .crest] s (s.writeReg r i f w full).1 := by
  rw [s.writeReg_accepted f hc hm hv hv' hr hn hok, State.cfgAct_of_notMem _ _ _ _ ha]
  refine ⟨?_, fun q j hne => ?_, ?_⟩
  · rw [State.reg_noteSince, s.reg_putReg_self i _ hm]
  · rw [State.reg_noteSince, s.reg_putReg_of_ne _ hm hne]
  · exact KeepsBut.trans ((s.putReg_keepsBut r i _).mono (by simp)) ((State.noteSince_keepsBut _ s).mono (by simp))

end Judged

/-- Enabling a capture block, as the accepted write leaves it: in service, under the next incarnation. -/
theorem State.capture_enabled (s : State) (i : Nat) {old new : BitVec 64} (ho : old.getLsbD 0 = false) (hn : new.getLsbD 0 = true) :
    let t := ((s.putReg .crestCapCfg i new).cfgAct .crestCapCfg i old new).noteSince s
    t.blkState ⟨.capture, i⟩ = 2 ∧ t.blkInc ⟨.capture, i⟩ = incNext (s.blkInc ⟨.capture, i⟩) % 2 ^ 16 := by
  intro t
  have hinc : ((s.putReg .crestCapCfg i new).setCaps i []).blkInc ⟨.capture, i⟩ = s.blkInc ⟨.capture, i⟩ :=
    State.blkInc_congr rfl (s.putReg_keepsBut .crestCapCfg i new .incs (by decide))
  have ht : t = (((s.putReg .crestCapCfg i new).setCaps i []).enterService ⟨.capture, i⟩).noteSince s := by
    rw [← State.cfgAct_capture_on _ i ho hn]
  constructor
  · rw [ht, State.blkState_noteSince, State.blkState_enterService_self]
  · rw [ht, State.blkInc_congr rfl (State.noteSince_keepsBut _ s .incs (by decide)), State.blkInc_enterService_self, hinc]

/-- Enabling a core that is in no other state, as the accepted write leaves it: in service. -/
theorem State.core_enabled (s : State) (i : Nat) {old new : BitVec 64} (hst : s.get .spurCoreStaState i = 0) (ho : old.getLsbD 0 = false)
    (hn : new.getLsbD 0 = true) :
    (((s.putReg .spurCoreCtl i new).cfgAct .spurCoreCtl i old new).noteSince s).blkState ⟨.core, i⟩ = 2 := by
  rw [State.blkState_noteSince, State.cfgAct_core_on _ i ho hn, State.blkState_coreOn]
  rw [State.get_coreState_putReg, hst]

/-! ### The statement -/

section Whole
variable (s : State) {addr size : Nat} (v : BitVec 64) {r : RegName} {i : Nat} (hw : wfAccess addr size = true)
  (hwid : r.info.width = 8 * size)
include hw hwid

/-- A write of a register's own width through BAR0 of PF0, or a native one, is one access of that register. -/
theorem exec_registerWrite_bar0 {path : Path} (hp : path = .native ∨ path = .pf0) (ho : s.pathOpen path addr = true)
    (hd : addr / 0x800000 < 15) (hr : regAt (addr / 0x800000) (addr % 0x800000) = some (r, i, 0)) :
    exec (.registerWrite path addr size v) s =
      .next (s.accessReg path r i 0 true (if size = 8 then v else v &&& 0xFFFFFFFF#64)).1 := by
  rw [exec_registerWrite, s.access_window v hw hp ho hd, s.accessDom_whole path v (wfAccess_size hw) hr hwid]

theorem exec_registerWrite_vf_ring {g : Fin 128} {n : Tenant} (ho : s.pathOpen (.vf g) addr = true) (hb : addr < 0x100000)
    (ht : SMap.find s.ten.tenants g.val = some n) (hring : inRange addr 0x10000 (n.grant.ringCount * 0x80) = true)
    (hr : regAt 9 (RegName.offset .ringBase (n.grant.ringFirst + (addr - 0x10000) / 0x80) + addr % 0x80) = some (r, i, 0)) :
    exec (.registerWrite (.vf g) addr size v) s =
      .next (s.writeReg r i g.val (if size = 8 then v else v &&& 0xFFFFFFFF#64) true).1 := by
  rw [exec_registerWrite, s.access_vf v hw ho, s.vfWindow_ring v hb ht hring, s.accessDom_whole _ v (wfAccess_size hw) hr hwid,
    s.accessReg_vf]

theorem exec_registerWrite_vf_table {g : Fin 128} {n : Tenant} (ho : s.pathOpen (.vf g) addr = true) (hb : addr < 0x100000)
    (ht : SMap.find s.ten.tenants g.val = some n) (hring : inRange addr 0x10000 (n.grant.ringCount * 0x80) = false)
    (htbl : inRange addr 0x40000 (n.grant.tableCount * 0x100) = true)
    (hr : regAt 2 (RegName.offset .ingTblCtl (n.grant.tableFirst + (addr - 0x40000) / 0x100) + addr % 0x100) = some (r, i, 0)) :
    exec (.registerWrite (.vf g) addr size v) s =
      .next (s.writeReg r i g.val (if size = 8 then v else v &&& 0xFFFFFFFF#64) true).1 := by
  rw [exec_registerWrite, s.access_vf v hw ho, s.vfWindow_table v hb ht hring htbl,
    s.accessDom_whole _ v (wfAccess_size hw) hr hwid, s.accessReg_vf]

theorem exec_registerWrite_pf1 (ho : s.pathOpen .pf1 addr = true) (hb : addr < 0x100000) (hr : regAt 10 addr = some (r, i, 0)) :
    exec (.registerWrite .pf1 addr size v) s =
      .next (s.accessReg .pf1 r i 0 true (if size = 8 then v else v &&& 0xFFFFFFFF#64)).1 := by
  rw [exec_registerWrite, s.access_pf1 v hw ho, if_pos hb, s.accessDom_whole _ v (wfAccess_size hw) hr hwid]

end Whole

/-- Settles O43: the paths' clauses are the lemmas of where an access goes, the last clause the native rules in their order. -/
theorem registerWriteResults : Obligations.RegisterWriteResults := by
  unfold Obligations.RegisterWriteResults
  intro path addr size v s f urq dom x
  refine ⟨fun ho => ?_, fun ho hw => ?_, fun ho hw => ⟨fun r i hd hr hwid => ⟨?_, ?_, ?_⟩, ?_, ?_, ?_, ?_, ?_, ?_⟩,
    fun g => ⟨s.get_ur_self g, s.ur_regsBut g, s.ur_keepsBut g, s.pciFn_ur g⟩, fun r i f => ?_⟩
  · rw [exec_registerWrite, s.access_closed size v ho]
  · rw [exec_registerWrite, s.access_misaligned v ho hw]
  · rintro (rfl | ⟨rfl, hf, hg⟩)
    · exact exec_registerWrite_bar0 s v hw hwid (.inl rfl) ho hd hr
    · rw [exec_registerWrite_bar0 s v hw hwid (.inr rfl) ho hd hr, s.accessReg_pf0_own _ hf hg]
  · rintro rfl hf hg
    rw [exec_registerWrite_bar0 s v hw hwid (.inr rfl) ho hd hr, s.accessReg_pf0_granted _ hf hg]
  · rintro rfl hf hmode
    rw [exec_registerWrite_bar0 s v hw hwid (.inr rfl) ho hd hr, s.accessReg_pf0_held _ _ hf hmode]
  · rintro r i b rfl hd rfl hr hwid
    rw [exec_registerWrite, s.access_window v hw (.inl rfl) ho hd, s.accessDom_half _ v hr hwid, s.accessReg_native]
    rfl
  · rintro g rfl hb
    rw [exec_registerWrite, s.access_vf v hw ho, s.vfWindow_beyond _ size v hb]
  · rintro g rfl hb
    refine ⟨fun ht => ?_, fun n r i ht hwid => ⟨fun hring hr => ?_, fun hring htbl hr => ?_⟩⟩
    · rw [exec_registerWrite, s.access_vf v hw ho, s.vfWindow_no_tenant size v hb ht]
    · exact exec_registerWrite_vf_ring s v hw hwid ho hb ht hring hr
    · exact exec_registerWrite_vf_table s v hw hwid ho hb ht hring htbl hr
  · rintro rfl
    refine ⟨fun hb => ?_, fun r i hb hr hwid => ⟨fun hown => ?_, fun hown => ?_⟩⟩
    · rw [exec_registerWrite, s.access_pf1 v hw ho, if_neg (Nat.not_lt.2 hb)]
      rfl
    · rw [exec_registerWrite_pf1 s v hw hwid ho hb hr, s.accessReg_pf1_manager _ _ hown]
    · rw [exec_registerWrite_pf1 s v hw hwid ho hb hr, s.accessReg_pf1_own _ _ hown]
  · rintro g rfl
    rw [exec_registerWrite, s.access_cfg v hw ho]
  · rintro g rfl
    rw [exec_registerWrite, s.access_bar4 v hw ho]
    rfl
  · refine ⟨fun hc => ⟨s.writeReg_cmd f hc, s.writeReg_cmd_half f hc⟩, fun hc hm => s.writeReg_no_ctl f hc hm,
      fun hc hm => ⟨fun hv => s.writeReg_reserved f hc hm hv, fun hv hv' hr => ⟨fun hn hok => ?_, fun hn hok => ?_, fun n hn => ?_⟩⟩⟩
    · exact s.writeReg_refused f hc hm hv hv' hr hn hok
    · have hacc := s.writeReg_accepted (full := true) f hc hm hv hv' hr hn hok
      refine ⟨congrArg Prod.snd hacc, fun ha => s.writeReg_stores f hc hm hv hv' hr hn hok ha, ?_, ?_⟩
      · rintro rfl hold hnew
        rw [hacc]
        exact s.capture_enabled i hold hnew
      · rintro rfl hst hold hnew
        rw [hacc]
        exact s.core_enabled i hst hold hnew
    · exact ⟨fun hno => s.writeReg_twin_refused f hc hm hv hv' hr hn hno,
        fun hno => s.writeReg_twin_stores f hc hm hv hv' hr hn hno⟩

end Sys2Proof.Machine
end

section
/-! PROOFS. Block references: what the 64 bits of one hold, and the statement O56. -/

namespace Sys2Proof.Machine

/-! ### The codes of the kinds of block (R21) -/

theorem BlkKind.dom_lt (k : BlkKind) : k.dom < 2 ^ 4 := by cases k <;> decide

theorem BlkKind.code_lt (k : BlkKind) : k.code < 2 ^ 8 := by cases k <;> decide

theorem BlkKind.count_le (k : BlkKind) : k.count ≤ 2 ^ 20 := by cases k <;> decide

/-- No two kinds have the same domain and kind codes. -/
theorem blkKindOf_dom_code (k : BlkKind) : blkKindOf k.dom k.code = some k := by cases k <;> rfl

/-! ### Incarnations fit their bits (R22) -/

theorem State.get_lt (s : State) (f : Fld) (i : Nat) : s.get f i < 2 ^ f.width := Nat.mod_lt _ (Nat.two_pow_pos _)

theorem State.blkInc_lt (s : State) (b : Blk) : s.blkInc b < 2 ^ 16 := by
  unfold State.blkInc
  cases hb : b.kind.incFld with
  | none => exact BitVec.isLt _
  | some f =>
    obtain ⟨-, -, hw⟩ := BlkKind.incFld_wide hb
    exact (s.get_lt f b.ix).trans_eq (congrArg (2 ^ ·) hw)

/-! ### The layout (R20) -/

section Parts
variable {d c i n : Nat} (hc : c < 2 ^ 8) (hi : i < 2 ^ 20) (hn : n < 2 ^ 16)
include hc hi hn

/-- The parts of a reference overlap in no bit. -/
theorem refParts_or_eq_add : d <<< 60 ||| c <<< 52 ||| i <<< 32 ||| n = d * 2 ^ 60 + c * 2 ^ 52 + i * 2 ^ 32 + n := by
  have hin : i <<< 32 ||| n = i * 2 ^ 32 + n := by
    rw [← Nat.shiftLeft_add_eq_or_of_lt (by omega), Nat.shiftLeft_eq]
  have hcin : c <<< 52 ||| (i * 2 ^ 32 + n) = c * 2 ^ 52 + (i * 2 ^ 32 + n) := by
    rw [← Nat.shiftLeft_add_eq_or_of_lt (by omega), Nat.shiftLeft_eq]
  have hdcin : d <<< 60 ||| (c * 2 ^ 52 + (i * 2 ^ 32 + n)) = d * 2 ^ 60 + (c * 2 ^ 52 + (i * 2 ^ 32 + n)) := by
    rw [← Nat.shiftLeft_add_eq_or_of_lt (by omega), Nat.shiftLeft_eq]
  rw [Nat.or_assoc, Nat.or_assoc, hin, hcin, hdcin]
  omega

/-- Each part, read back at its own bits; the bits between the index and the incarnation are zero. -/
theorem bitsOf_refParts (hd : d < 2 ^ 4) :
    let w := d * 2 ^ 60 + c * 2 ^ 52 + i * 2 ^ 32 + n
    bitsOf w 63 60 = d ∧ bitsOf w 59 52 = c ∧ bitsOf w 51 32 = i ∧ bitsOf w 31 16 = 0 ∧ bitsOf w 15 0 = n := by
  simp only [bitsOf, Nat.shiftRight_eq_div_pow]
  omega

end Parts

theorem State.bitsOf_refOf (s : State) {b : Blk} (h : b.ix < b.kind.count) :
    let w := (s.refOf b).toNat
    bitsOf w 63 60 = b.kind.dom ∧ bitsOf w 59 52 = b.kind.code ∧ bitsOf w 51 32 = b.ix ∧ bitsOf w 31 16 = 0 ∧
      bitsOf w 15 0 = s.blkInc b := by
  have hd := b.kind.dom_lt
  have hc := b.kind.code_lt
  have hi := Nat.lt_of_lt_of_le h b.kind.count_le
  have hn := s.blkInc_lt b
  have hw : (s.refOf b).toNat = b.kind.dom * 2 ^ 60 + b.kind.code * 2 ^ 52 + b.ix * 2 ^ 32 + s.blkInc b := by
    rw [State.refOf, BitVec.toNat_ofNat, refParts_or_eq_add hc hi hn]
    omega
  rw [hw]
  exact bitsOf_refParts hc hi hn hd

/-- Settles O56: the parts lie side by side in the number, and no two kinds share their codes. -/
theorem blockReferenceLayout : Obligations.BlockReferenceLayout := by
  unfold Obligations.BlockReferenceLayout
  intro b s h
  obtain ⟨hdom, hcode, hix, hzero, hinc⟩ := s.bitsOf_refOf h
  have hblk : refBlk (s.refOf b) = some b := by
    simp only [refBlk, hdom, hcode, hix, blkKindOf_dom_code, h, if_true]
  simp only [← BitVec.toNat_inj, BitVec.extractLsb'_toNat]
  exact ⟨hdom, hcode, hix, hzero, hinc, hblk, hinc⟩

end Sys2Proof.Machine
end

section
/-! PROOFS. The SYSTEM domain: block queries, the register mode, the update strobe and its tick, the scan of triplicated fields, and
the statement O44. -/

namespace Sys2Proof

theorem RegsBut.refl (l : List (Machine.RegName × Nat)) (s : Machine.State) : RegsBut l s s := fun _ _ _ => rfl

end Sys2Proof

namespace Sys2Proof.Machine

/-! ### Parts and registers that single operations leave -/

theorem State.useFree_keepsBut (s : State) (n : Nat) : KeepsBut [.freeCtr] s (s.useFree n) := by
  intro p hp
  cases p
  case freeCtr => exact absurd List.mem_cons_self hp
  all_goals rfl

theorem State.cairnRec_keepsBut (s : State) (c : CairnCode) (b : Option Blk) (d : Bytes) : KeepsBut [.cairn] s (s.cairnRec c b d) := by
  intro p hp
  cases p
  case cairn => exact absurd List.mem_cons_self hp
  all_goals rfl

theorem State.get_cairnRec (s : State) (c : CairnCode) (b : Option Blk) (d : Bytes) (f : Fld) (i : Nat) :
    (s.cairnRec c b d).get f i = s.get f i := rfl

/-- Storing into the named registers leaves the others. -/
theorem State.set_regsBut_of_mem {l : List (RegName × Nat)} {s t : State} {f : Fld} {i : Nat} (v : Nat) (h : RegsBut l s t)
    (hm : (f.reg, i) ∈ l) : RegsBut l s (t.set f i v) :=
  h.trans (fun r j hr => t.set_regsBut f i v r j (fun hmem => hr (List.mem_singleton.1 hmem ▸ hm)))

/-- Storing a field keeps every part but the registers. -/
theorem State.set_keepsBut_of_mem {ps : List StatePart} {s t : State} (f : Fld) (i v : Nat) (h : KeepsBut ps s t)
    (hm : StatePart.regs ∈ ps) : KeepsBut ps s (t.set f i v) :=
  h.trans ((t.set_keepsBut f i v).mono (by simpa using hm))

/-! ### SYS_BLK_QUERY (R26) -/

/-- The result register of a query: the reference's upper half, the next qseq, and what the query found. -/
def State.queryAnswer (s : State) (ref : BitVec 64) (st stale inc : Nat) : State :=
  ((((s.set .sysBlkQueryResBlk 0 (ref.toNat / 2 ^ 32)).set .sysBlkQueryResQseq 0 (s.get .sysBlkQueryResQseq + 1)).set
    .sysBlkQueryResState 0 st).set .sysBlkQueryResStale 0 stale).set .sysBlkQueryResInc 0 inc

section Answer
variable (s : State) (ref : BitVec 64) (st stale inc : Nat)

theorem State.get_blk_queryAnswer : (s.queryAnswer ref st stale inc).get .sysBlkQueryResBlk = ref.toNat / 2 ^ 32 := by
  have hw : Fld.width .sysBlkQueryResBlk = 32 := rfl
  have href := ref.isLt
  simp (disch := decide) only [State.queryAnswer, State.get_set_beside, State.get_set_self, hw]
  omega

theorem State.get_qseq_queryAnswer :
    (s.queryAnswer ref st stale inc).get .sysBlkQueryResQseq = (s.get .sysBlkQueryResQseq + 1) % 2 ^ 12 := by
  simp (disch := decide) only [State.queryAnswer, State.get_set_beside, State.get_set_self]
  rfl

theorem State.get_state_queryAnswer : (s.queryAnswer ref st stale inc).get .sysBlkQueryResState = st % 8 := by
  simp (disch := decide) only [State.queryAnswer, State.get_set_beside, State.get_set_self]
  rfl

theorem State.get_stale_queryAnswer : (s.queryAnswer ref st stale inc).get .sysBlkQueryResStale = stale % 2 := by
  simp (disch := decide) only [State.queryAnswer, State.get_set_beside, State.get_set_self]
  rfl

theorem State.get_inc_queryAnswer : (s.queryAnswer ref st stale inc).get .sysBlkQueryResInc = inc % 2 ^ 16 := by
  simp (disch := decide) only [State.queryAnswer, State.get_set_self]
  rfl

theorem State.queryAnswer_regsBut : RegsBut [(.sysBlkQueryRes, 0)] s (s.queryAnswer ref st stale inc) := by
  unfold State.queryAnswer
  iterate 5 refine State.set_regsBut_of_mem _ ?_ List.mem_cons_self
  exact RegsBut.refl _ s

theorem State.queryAnswer_keepsBut : KeepsBut [.regs] s (s.queryAnswer ref st stale inc) := by
  unfold State.queryAnswer
  iterate 5 refine State.set_keepsBut_of_mem _ _ _ ?_ List.mem_cons_self
  exact KeepsBut.refl _ s

end Answer

/-- No block's incarnation is shown in the query's result. -/
theorem BlkKind.incFld_reg_ne {k : BlkKind} {f : Fld} (h : k.incFld = some f) : f.reg ≠ .sysBlkQueryRes := by
  cases k <;> simp only [BlkKind.incFld, Option.some.injEq, reduceCtorEq] at h <;> subst h <;> decide

theorem State.blkInc_set_queryRes (s : State) {f : Fld} (i v : Nat) (b : Blk) (hf : f.reg = .sysBlkQueryRes) :
    (s.set f i v).blkInc b = s.blkInc b := by
  unfold State.blkInc
  cases hb : b.kind.incFld with
  | none => rfl
  | some g => exact s.get_set_of_ne v (.inl (hf ▸ BlkKind.incFld_reg_ne hb))

theorem State.refCurrent_congr {s t : State} (h : ∀ b, t.blkInc b = s.blkInc b) (ref : BitVec 64) :
    t.refCurrent ref = s.refCurrent ref := by
  simp only [State.refCurrent, h]

theorem State.blkQuery_of_none (s : State) {ref : BitVec 64} (h : refBlk ref = none) : s.blkQuery ref = s.queryAnswer ref 0 1 0 := by
  simp only [State.blkQuery, h, State.queryAnswer]

theorem State.blkQuery_of_some (s : State) {ref : BitVec 64} {b : Blk} (h : refBlk ref = some b) :
    s.blkQuery ref = s.queryAnswer ref (s.blkState b) (bit (!s.refCurrent ref)) (s.blkInc b) := by
  let u := (s.set .sysBlkQueryResBlk 0 (ref.toNat / 2 ^ 32)).set .sysBlkQueryResQseq 0 (s.get .sysBlkQueryResQseq + 1)
  have hinc : ∀ c, u.blkInc c = s.blkInc c := fun c => by
    rw [State.blkInc_set_queryRes _ _ _ c rfl, State.blkInc_set_queryRes _ _ _ c rfl]
  have hst : u.blkState b = s.blkState b := rfl
  have hq : s.blkQuery ref = ((u.set .sysBlkQueryResState 0 (u.blkState b)).set .sysBlkQueryResStale 0 (bit (!u.refCurrent ref))).set
      .sysBlkQueryResInc 0 (u.blkInc b) := by
    simp only [State.blkQuery, h, u]
  rw [hq, hst, hinc, State.refCurrent_congr hinc, State.queryAnswer]

/-- Every query is answered in its result register alone. -/
theorem State.blkQuery_eq_queryAnswer (s : State) (ref : BitVec 64) :
    ∃ st stale inc, s.blkQuery ref = s.queryAnswer ref st stale inc := by
  cases h : refBlk ref with
  | none => exact ⟨_, _, _, s.blkQuery_of_none h⟩
  | some b => exact ⟨_, _, _, s.blkQuery_of_some h⟩

/-! ### SYS_MODE (R428) -/

theorem State.writeReg_sysMode (s : State) (w : BitVec 64) : s.writeReg .sysMode 0 0 w true =
    if bit (w.getLsbD 0) = s.get .sysModeKwRegs then (s, true)
    else if s.upd.isEmpty && s.get .sysUpdStaPending == 0 then (s.set .sysModeKwRegs 0 (bit (w.getLsbD 0)), true)
    else (s.bump .sysUpdOvfWrites, false) := by
  have hcmd : RegName.isCmd .sysMode = false := by decide
  have hmask : RegName.ctlMask .sysMode = 1#64 := by decide
  have hrsv : ∀ v, RegName.rsvBad .sysMode v = false := fun _ => rfl
  have hmore : ∀ v, s.rsvMore .sysMode 0 v = false := fun _ => rfl
  simp [State.writeReg, hcmd, hmask, hrsv, hmore]

/-! ### The update buffer and the strobe (R429, R430) -/

@[simp] theorem State.setUpd_upd (s : State) (m : SMap HeldWr) : (s.setUpd m).upd = m := rfl

theorem State.setUpd_regsBut (s : State) (m : SMap HeldWr) : RegsBut [(.sysUpdSta, 0)] s (s.setUpd m) := by
  unfold State.setUpd
  iterate 2 refine State.set_regsBut_of_mem _ ?_ List.mem_cons_self
  exact fun _ _ _ => rfl

theorem State.setUpd_keepsBut (s : State) (m : SMap HeldWr) : KeepsBut [.regs, .upd] s (s.setUpd m) := by
  have hstored : KeepsBut [.regs, .upd] s { s with upd := m } := by
    intro p hp
    cases p
    case upd => exact absurd (by decide) hp
    all_goals rfl
  unfold State.setUpd
  iterate 2 refine State.set_keepsBut_of_mem _ _ _ ?_ List.mem_cons_self
  exact hstored

theorem State.get_pending_setUpd (s : State) (m : SMap HeldWr) : (s.setUpd m).get .sysUpdStaPending = s.get .sysUpdStaPending := by
  simp (disch := decide) only [State.setUpd, State.get_set_beside]
  rfl

/-- The first refill tick at or after 1 µs from now. -/
def State.strobeInstant (s : State) : BitVec 64 := BitVec.ofNat 64 ((s.lt.toNat + 65536000 + 16777215) / 16777216 * 16777216)

/-- Where LT does not wrap before it, T is a refill tick, at least 1 µs ahead and the first such. -/
theorem State.strobeInstant_bounds (s : State) (h : s.lt.toNat + 65536000 + 2 ^ 24 < 2 ^ 64) :
    s.strobeInstant.toNat % 2 ^ 24 = 0 ∧ s.lt.toNat + 65536000 ≤ s.strobeInstant.toNat ∧
      s.strobeInstant.toNat < s.lt.toNat + 65536000 + 2 ^ 24 := by
  rw [State.strobeInstant, BitVec.toNat_ofNat]
  omega

/-- The state once T stands in SYS_UPD_AT: fixed now where no strobe is pending. -/
def State.fixStrobe (s : State) : State := if s.get .sysUpdStaPending = 0 then s.setReg .sysUpdAt 0 s.strobeInstant else s

theorem State.reg_fixStrobe_of_none (s : State) (h : s.get .sysUpdStaPending = 0) : s.fixStrobe.reg .sysUpdAt 0 = s.strobeInstant := by
  rw [State.fixStrobe, if_pos h, State.reg_setReg_self]

theorem State.fixStrobe_of_pending (s : State) (h : s.get .sysUpdStaPending ≠ 0) : s.fixStrobe = s := if_neg h

theorem State.fixStrobe_regsBut (s : State) : RegsBut [(.sysUpdAt, 0)] s s.fixStrobe := by
  unfold State.fixStrobe
  split
  · intro r i hm
    refine s.reg_setReg_of_ne _ ?_
    by_contra h
    push Not at h
    exact hm (by simp [h.1, h.2])
  · exact RegsBut.refl _ s

theorem State.fixStrobe_keepsBut (s : State) : KeepsBut [.regs] s s.fixStrobe := by
  unfold State.fixStrobe
  split
  · exact s.setReg_keepsBut _ _ _
  · exact KeepsBut.refl _ s

/-- A held write once a strobe names groups. -/
def HeldWr.nameFor (h : HeldWr) (groups : Nat) : HeldWr := { h with named := h.named || bitOf groups h.reg.info.dom }

theorem State.strobe_of_no_group (s : State) {w : BitVec 32} (h : w.toNat % 2 ^ 15 = 0) : s.strobe w = s := if_pos h

theorem State.strobe_of_groups (s : State) {w : BitVec 32} (h : w.toNat % 2 ^ 15 ≠ 0) : s.strobe w =
    (s.fixStrobe.set .sysUpdStaPending 0 (s.get .sysUpdStaPending ||| w.toNat % 2 ^ 15)).setUpd
      (s.upd.map (fun e => (e.1, e.2.nameFor (w.toNat % 2 ^ 15)))) := by
  have hname : ∀ e : HeldWr, (if bitOf (w.toNat % 2 ^ 15) e.reg.info.dom then { e with named := true } else e) =
      e.nameFor (w.toNat % 2 ^ 15) := by
    intro e
    unfold HeldWr.nameFor
    cases bitOf (w.toNat % 2 ^ 15) e.reg.info.dom <;> simp
  have hget : s.fixStrobe.get .sysUpdStaPending = s.get .sysUpdStaPending := by
    rw [State.get, s.fixStrobe_regsBut _ _ (by decide), State.get]
  have hupd : s.fixStrobe.upd = s.upd := s.fixStrobe_keepsBut .upd (by decide)
  have hdef : s.strobe w = (s.fixStrobe.set .sysUpdStaPending 0 (s.fixStrobe.get .sysUpdStaPending ||| w.toNat % 2 ^ 15)).setUpd
      (s.fixStrobe.upd.map (fun e => (e.1, if bitOf (w.toNat % 2 ^ 15) e.2.reg.info.dom then { e.2 with named := true } else e.2))) :=
    if_neg h
  simp only [hdef, hname, hget, hupd]

section Strobe
variable (s : State) {w : BitVec 32} (h : w.toNat % 2 ^ 15 ≠ 0)
include h

theorem State.get_pending_strobe : (s.strobe w).get .sysUpdStaPending = s.get .sysUpdStaPending ||| w.toNat % 2 ^ 15 := by
  have hgroups : w.toNat % 2 ^ 15 < 2 ^ 16 := by omega
  rw [s.strobe_of_groups h, State.get_pending_setUpd, State.get_set_self _ _ _ _ (by decide) (by decide)]
  exact Nat.mod_eq_of_lt (Nat.or_lt_two_pow (s.get_lt .sysUpdStaPending 0) hgroups)

theorem State.reg_sysUpdAt_strobe : (s.strobe w).reg .sysUpdAt 0 = s.fixStrobe.reg .sysUpdAt 0 := by
  rw [s.strobe_of_groups h, State.setUpd_regsBut _ _ _ _ (by decide), State.reg_set_of_ne _ _ (.inl (by decide))]

theorem State.strobe_regsBut : RegsBut [(.sysUpdSta, 0), (.sysUpdAt, 0)] s (s.strobe w) := by
  rw [s.strobe_of_groups h]
  intro r i hm
  simp only [List.mem_cons, List.not_mem_nil, or_false, not_or] at hm
  obtain ⟨hsta, hat⟩ := hm
  rw [State.setUpd_regsBut _ _ r i (by simpa using hsta), State.set_regsBut _ _ _ _ r i (by simpa using hsta),
    s.fixStrobe_regsBut r i (by simpa using hat)]

theorem State.strobe_keepsBut : KeepsBut [.regs, .upd] s (s.strobe w) := by
  rw [s.strobe_of_groups h]
  refine KeepsBut.trans ?_ (State.setUpd_keepsBut _ _)
  exact State.set_keepsBut_of_mem _ _ _ (s.fixStrobe_keepsBut.mono (by simp)) List.mem_cons_self

end Strobe

/-! ### STROBE_TICK (R431, R495) -/

/-- Time that has reached an instant stands still on the way to it. -/
theorem State.advanceTo_of_reached (s : State) {t : BitVec 64} (h : 0 ≤ ltDiff s.lt t) : s.advanceTo t = s := by
  have hback : (ltDiff t s.lt).toNat = 0 := by
    simp only [ltDiff, BitVec.toInt_eq_toNat_cond, BitVec.toNat_sub] at h ⊢
    omega
  rw [State.advanceTo, hback, State.advance, if_pos (.inl rfl)]

theorem exec_strobeTick_none (s : State) (h : s.get .sysUpdStaPending = 0) : exec .strobeTick s = .next s := if_pos h

theorem exec_strobeTick_due (s : State) (h : s.get .sysUpdStaPending ≠ 0) (ht : 0 ≤ ltDiff s.lt (s.reg .sysUpdAt 0)) :
    exec .strobeTick s = .next s.strobeTick := by
  have hdef : exec .strobeTick s = .next (s.advanceTo (s.reg .sysUpdAt 0)).strobeTick := if_neg h
  rw [hdef, s.advanceTo_of_reached ht]

/-- No block is granted or taken back by a strobe's end. -/
theorem State.granted_set_pending (s : State) (v : Nat) (r : RegName) (i : Nat) :
    (s.set .sysUpdStaPending 0 v).granted r i = s.granted r i := by
  have howner : ∀ x, (s.set .sysUpdStaPending 0 v).ringOwner x = s.ringOwner x := fun x => s.get_set_of_ne v (.inl (by decide))
  simp only [State.granted, State.ownerOf, State.set_ten, howner]

theorem State.strobeTick_of_unnamed (s : State) (h : ∀ e ∈ s.upd, e.2.named = false) :
    s.strobeTick = s.set .sysUpdStaPending 0 0 := by
  have hnone : s.upd.filter (fun e => e.2.named) = [] := List.filter_eq_nil_iff.2 (by simpa using h)
  simp only [State.strobeTick, hnone]
  rfl

section OneHeld
variable (s : State) {k : Nat} {h : HeldWr} (hu : s.upd = [(k, h)]) (hn : h.named = true)
include hu hn

/-- One held write that arms no swap is all that the tick applies. -/
theorem State.strobeTick_of_one (ha : h.reg.bankStep = none ∨ s.granted h.reg h.ix = true) :
    s.strobeTick = (s.set .sysUpdStaPending 0 0).applyHeld s k h := by
  have hnamed : s.upd.filter (fun e => e.2.named) = [(k, h)] := by simp [hu, hn]
  have harms : s.strobeArms [h] = [] := by
    rcases ha with hb | hg
    · simp [State.strobeArms, hb]
    · cases hb : h.reg.bankStep <;> simp [State.strobeArms, hb, hg]
  simp only [State.strobeTick, hnamed, List.map_cons, List.map_nil, harms, List.foldl_cons, List.foldl_nil]

omit hn in
theorem State.put_upd_none : SMap.put (s.set .sysUpdStaPending 0 0).upd k none = [] := by
  simp [hu, SMap.put, SMap.del]

theorem State.strobeTick_granted (hg : s.granted h.reg h.ix = true) :
    s.strobeTick = ((s.set .sysUpdStaPending 0 0).setUpd []).ignReg h.reg h.ix := by
  rw [s.strobeTick_of_one hu hn (.inr hg)]
  simp only [State.applyHeld, State.granted_set_pending, hg, if_true, s.put_upd_none hu]

theorem State.strobeTick_ruleBound (hb : h.reg.bankStep = none) (hg : s.granted h.reg h.ix = false) :
    s.strobeTick = (((s.set .sysUpdStaPending 0 0).setUpd []).writeReg h.reg h.ix 0
      (((s.set .sysUpdStaPending 0 0).reg h.reg h.ix &&& ~~~h.reg.boundMask) ||| (h.v &&& h.reg.boundMask)) true).1 := by
  rw [s.strobeTick_of_one hu hn (.inl hb)]
  simp only [State.applyHeld, State.granted_set_pending, hg, Bool.false_eq_true, if_false, hb, s.put_upd_none hu]

end OneHeld

/-! ### Votes (R434, R435) -/

theorem vote3_lt (a : Nat) {b c n : Nat} (hb : b < 2 ^ n) (hc : c < 2 ^ n) : vote3 a b c < 2 ^ n :=
  Nat.or_lt_two_pow (Nat.or_lt_two_pow (Nat.and_lt_two_pow a hb) (Nat.and_lt_two_pow a hc)) (Nat.and_lt_two_pow b hc)

/-- Three good copies: the majority wins, and the copies that differ are rewritten. -/
theorem voteOf_three_good (a b c tie : Nat) :
    voteOf [(a, true), (b, true), (c, true)] tie = (vote3 a b c, ([a, b, c].filter (· != vote3 a b c)).length, false) := by
  have hcopies : [(a, true), (b, true), (c, true)] = [a, b, c].map (·, true) := rfl
  have hlen : ([(a, true), (b, true), (c, true)].filter (fun e => e.1 != vote3 a b c || !e.2)).length =
      ([a, b, c].filter (· != vote3 a b c)).length := by
    rw [hcopies, List.filter_map, List.length_map]
    simp [Function.comp_def]
  rw [← hlen]
  rfl

/-- One good copy: it wins, and the other two are rewritten whatever they hold. -/
theorem voteOf_one_good (a b c tie : Nat) : voteOf [(a, true), (b, false), (c, false)] tie = (a, 2, false) := by
  simp [voteOf]

/-- No good copy: the majority of all three stands, and the field counts as lost. -/
theorem voteOf_none_good (a b c tie : Nat) : voteOf [(a, false), (b, false), (c, false)] tie = (vote3 a b c, 3, true) := by
  simp [voteOf]

/-- No copy differs from the majority just where all three are equal. -/
theorem eq_of_no_differing {a b c x : Nat} (h : ([a, b, c].filter (· != x)).length = 0) : a = b ∧ b = c := by
  have heq : ∀ y ∈ [a, b, c], y = x := by simpa [List.filter_eq_nil_iff] using h
  rw [heq a (by simp), heq b (by simp), heq c (by simp)]
  exact ⟨rfl, rfl⟩

/-! ### TMR_SCAN (R434, R435) -/

/-- A hurt field. -/
abbrev TmrHurt.fld (h : TmrHurt) : Fld := ⟨h.reg, h.hi, h.lo⟩

/-- The free value that decides the bits without a majority. -/
abbrev State.tieFor (s : State) (h : TmrHurt) : Nat := s.free.toNat % 2 ^ (h.hi + 1 - h.lo)

/-- A hurt field rewritten, before anything is counted. -/
def State.rewriteField (s : State) (h : TmrHurt) (x : Nat) : State := s.useFree.set h.fld h.ix x

/-- A rewritten field that is counted under `f` and recorded. -/
def State.countedField (s : State) (h : TmrHurt) (x : Nat) (f : Fld) (n : Nat) (c : CairnCode) : State :=
  ((s.rewriteField h x).bump f 0 n).cairnRec c (h.reg.blk h.ix) (leBytes (h.reg.offset h.ix) 4)

section Vote
variable (s : State) (h : TmrHurt) {x n : Nat}

theorem State.voteField_lost (hv : voteOf h.copies (s.tieFor h) = (x, n, true)) :
    s.voteField h = s.countedField h x .sysTmrLostLost 1 .tmrLost := by
  simp only [State.voteField, hv, if_true, State.countedField, State.rewriteField]

theorem State.voteField_agreed (hv : voteOf h.copies (s.tieFor h) = (x, 0, false)) : s.voteField h = s.rewriteField h x := by
  simp only [State.voteField, hv, Bool.false_eq_true, if_false, if_true, State.rewriteField]

theorem State.voteField_fixed (hv : voteOf h.copies (s.tieFor h) = (x, n, false)) (hn : n ≠ 0) :
    s.voteField h = s.countedField h x .sysTmrFixCntFixes n .tmrFix := by
  simp only [State.voteField, hv, Bool.false_eq_true, if_false, hn, State.countedField, State.rewriteField]

end Vote

section Rewrite
variable (s : State) (h : TmrHurt) (x : Nat)

theorem State.rewriteField_regsBut : RegsBut [(h.reg, h.ix)] s (s.rewriteField h x) := s.useFree.set_regsBut h.fld h.ix x

theorem State.rewriteField_keepsBut : KeepsBut [.regs, .freeCtr] s (s.rewriteField h x) :=
  State.set_keepsBut_of_mem _ _ _ ((s.useFree_keepsBut 1).mono (by simp)) List.mem_cons_self

theorem State.get_rewriteField_self (hl : h.lo ≤ h.hi) (hh : h.hi < 64) (hx : x < 2 ^ (h.hi + 1 - h.lo)) :
    (s.rewriteField h x).get h.fld h.ix = x :=
  (s.useFree.get_set_self h.fld h.ix x hl hh).trans (Nat.mod_eq_of_lt hx)

theorem State.get_rewriteField_of_ne {f : Fld} (i : Nat) (hr : h.reg ≠ f.reg) : (s.rewriteField h x).get f i = s.get f i :=
  s.useFree.get_set_of_ne x (.inl (Ne.symm hr))

end Rewrite

section Counted
variable (s : State) (h : TmrHurt) (x n : Nat) {f : Fld} (c : CairnCode)

theorem State.get_countedField_self (hr : h.reg ≠ f.reg) (hl : h.lo ≤ h.hi) (hh : h.hi < 64) (hx : x < 2 ^ (h.hi + 1 - h.lo)) :
    (s.countedField h x f n c).get h.fld h.ix = x := by
  rw [State.countedField, State.get_cairnRec, State.bump, State.get_set_of_ne _ _ (.inl hr), s.get_rewriteField_self h x hl hh hx]

theorem State.get_countedField_count (hr : h.reg ≠ f.reg) (hl : f.lo ≤ f.hi) (hh : f.hi < 64) :
    (s.countedField h x f n c).get f = (s.get f + n) % 2 ^ f.width := by
  rw [State.countedField, State.get_cairnRec, State.get_bump_self _ f 0 n hl hh, s.get_rewriteField_of_ne h x 0 hr]

theorem State.countedField_raised : ∃ r, (s.countedField h x f n c).cairn.raised = s.cairn.raised ++ [r] ∧ r.code = c :=
  ⟨_, rfl, rfl⟩

theorem State.countedField_regsBut : RegsBut [(h.reg, h.ix), (f.reg, 0)] s (s.countedField h x f n c) := by
  have hrewritten : RegsBut [(h.reg, h.ix), (f.reg, 0)] s (s.rewriteField h x) :=
    State.set_regsBut_of_mem _ (fun _ _ _ => rfl) List.mem_cons_self
  exact (State.set_regsBut_of_mem _ hrewritten (by simp)).trans (fun _ _ _ => rfl)

theorem State.countedField_keepsBut : KeepsBut [.regs, .tmr, .cairn, .freeCtr] s (s.countedField h x f n c) := by
  refine KeepsBut.trans ?_ ((State.cairnRec_keepsBut _ _ _ _).mono (by simp))
  exact State.set_keepsBut_of_mem _ _ _ ((s.rewriteField_keepsBut h x).mono (by simp)) List.mem_cons_self

end Counted

theorem exec_tmrScan_none (s : State) (hs : s.tmr = []) : exec .tmrScan s = .next s := by
  have hdef : exec .tmrScan s = .next (s.tmr.foldl State.voteField { s with tmr := [] }) := rfl
  rw [hdef, hs, List.foldl_nil, ← hs]

section Scan
variable (s : State) {h : TmrHurt} {x n : Nat} (hs : s.tmr = [h])
include hs

/-- The scan of one hurt field votes it in a state that lists none. -/
theorem exec_tmrScan_one : exec .tmrScan s = .next (State.voteField { s with tmr := [] } h) := by
  have hdef : exec .tmrScan s = .next (s.tmr.foldl State.voteField { s with tmr := [] }) := rfl
  rw [hdef, hs, List.foldl_cons, List.foldl_nil]

variable (hl : h.lo ≤ h.hi) (hh : h.hi < 64) (hx : x < 2 ^ (h.hi + 1 - h.lo))
include hl hh hx

/-- A vote with a good copy: the winner is stored and every copy rewritten counted, in one record where there is one. -/
theorem completes_tmrScan_fixed (hv : ∀ tie, voteOf h.copies tie = (x, n, false)) (hr : h.reg ≠ .sysTmrFixCnt) :
    Completes .tmrScan s (fun t => t.tmr = [] ∧ t.get h.fld h.ix = x ∧
      t.get .sysTmrFixCntFixes = (s.get .sysTmrFixCntFixes + n) % 2 ^ 64 ∧
      (n ≠ 0 → ∃ r, t.cairn.raised = s.cairn.raised ++ [r] ∧ r.code = .tmrFix) ∧
      RegsBut [(h.reg, h.ix), (.sysTmrFixCnt, 0)] s t ∧ KeepsBut [.regs, .tmr, .cairn, .freeCtr] s t) := by
  let u : State := { s with tmr := [] }
  have hkeep : KeepsBut [.regs, .tmr, .cairn, .freeCtr] s u := (s.setTmr_keepsBut []).mono (by simp)
  refine ⟨u.voteField h, exec_tmrScan_one s hs, ?_⟩
  by_cases hn : n = 0
  · subst hn
    rw [u.voteField_agreed h (hv _)]
    refine ⟨rfl, u.get_rewriteField_self h x hl hh hx, ?_, fun hne => absurd rfl hne, ?_, ?_⟩
    · rw [u.get_rewriteField_of_ne h x 0 hr]
      exact (Nat.mod_eq_of_lt (s.get_lt .sysTmrFixCntFixes 0)).symm
    · exact fun r i hm => u.rewriteField_regsBut h x r i (fun hmem => hm (List.mem_append_left _ hmem))
    · exact hkeep.trans ((u.rewriteField_keepsBut h x).mono (by simp))
  · rw [u.voteField_fixed h (hv _) hn]
    exact ⟨rfl, u.get_countedField_self h x n _ hr hl hh hx, u.get_countedField_count h x n _ hr (by decide) (by decide),
      fun _ => u.countedField_raised h x n _, u.countedField_regsBut (f := .sysTmrFixCntFixes) h x n _,
      hkeep.trans (u.countedField_keepsBut h x n _)⟩

/-- A vote without a good copy: the winner is stored and the loss counted and recorded. -/
theorem completes_tmrScan_lost (hv : ∀ tie, voteOf h.copies tie = (x, n, true)) (hr : h.reg ≠ .sysTmrLost) :
    Completes .tmrScan s (fun t => t.tmr = [] ∧ t.get h.fld h.ix = x ∧
      t.get .sysTmrLostLost = (s.get .sysTmrLostLost + 1) % 2 ^ 64 ∧
      ∃ r, t.cairn.raised = s.cairn.raised ++ [r] ∧ r.code = .tmrLost) := by
  let u : State := { s with tmr := [] }
  refine ⟨u.voteField h, exec_tmrScan_one s hs, ?_⟩
  rw [u.voteField_lost h (hv _)]
  exact ⟨rfl, u.get_countedField_self h x 1 _ hr hl hh hx, u.get_countedField_count h x 1 _ hr (by decide) (by decide),
    u.countedField_raised h x 1 _⟩

end Scan

/-! ### The statement -/

theorem completes_sysBlkQuery (ref : BitVec 64) (s : State) :
    Completes (.sysBlkQuery ref) s (fun t => t.get .sysBlkQueryResQseq = (s.get .sysBlkQueryResQseq + 1) % 2 ^ 12 ∧
      t.get .sysBlkQueryResBlk = ref.toNat / 2 ^ 32 ∧
      (refBlk ref = none → t.get .sysBlkQueryResState = 0 ∧ t.get .sysBlkQueryResStale = 1 ∧ t.get .sysBlkQueryResInc = 0) ∧
      (∀ b, refBlk ref = some b → t.get .sysBlkQueryResState = s.blkState b % 8 ∧ t.get .sysBlkQueryResInc = s.blkInc b % 2 ^ 16 ∧
        t.get .sysBlkQueryResStale = (if s.refCurrent ref = true then 0 else 1)) ∧
      RegsBut [(.sysBlkQueryRes, 0)] s t ∧ KeepsBut [.regs] s t) := by
  obtain ⟨st, stale, inc, hans⟩ := s.blkQuery_eq_queryAnswer ref
  refine ⟨s.blkQuery ref, rfl, ?_, ?_, fun hnone => ?_, fun b hb => ?_, ?_, ?_⟩
  · rw [hans, State.get_qseq_queryAnswer]
  · rw [hans, State.get_blk_queryAnswer]
  · rw [s.blkQuery_of_none hnone, State.get_state_queryAnswer, State.get_stale_queryAnswer, State.get_inc_queryAnswer]
    exact ⟨rfl, rfl, rfl⟩
  · rw [s.blkQuery_of_some hb, State.get_state_queryAnswer, State.get_stale_queryAnswer, State.get_inc_queryAnswer]
    refine ⟨rfl, rfl, ?_⟩
    cases s.refCurrent ref <;> rfl
  · rw [hans]
    exact s.queryAnswer_regsBut ref st stale inc
  · rw [hans]
    exact s.queryAnswer_keepsBut ref st stale inc

theorem exec_sysModeWrite (w : BitVec 32) (s : State) :
    exec (.sysModeWrite w) s = .next (s.writeReg .sysMode 0 0 (w.setWidth 64) true).1 := rfl

/-- The mode bit a write of SYS_MODE asks for. -/
theorem bit_getLsbD_zero_setWidth (w : BitVec 32) : bit ((w.setWidth 64).getLsbD 0) = if w.getLsbD 0 then 1 else 0 := by
  rw [BitVec.getLsbD_setWidth, bit]
  rfl

section Mode
variable (w : BitVec 32) (s : State)

theorem exec_sysModeWrite_same (hk : s.get .sysModeKwRegs = if w.getLsbD 0 then 1 else 0) : exec (.sysModeWrite w) s = .next s := by
  rw [exec_sysModeWrite, s.writeReg_sysMode, bit_getLsbD_zero_setWidth, if_pos hk.symm]

variable (hk : s.get .sysModeKwRegs ≠ if w.getLsbD 0 then 1 else 0)
include hk

theorem exec_sysModeWrite_idle (hu : s.upd = []) (hp : s.get .sysUpdStaPending = 0) :
    exec (.sysModeWrite w) s = .next (s.set .sysModeKwRegs 0 (if w.getLsbD 0 then 1 else 0)) := by
  have hidle : (s.upd.isEmpty && s.get .sysUpdStaPending == 0) = true := by simp [hu, hp]
  rw [exec_sysModeWrite, s.writeReg_sysMode, bit_getLsbD_zero_setWidth, if_neg (Ne.symm hk), if_pos hidle]

theorem exec_sysModeWrite_busy (hb : s.upd ≠ [] ∨ s.get .sysUpdStaPending ≠ 0) :
    exec (.sysModeWrite w) s = .next (s.bump .sysUpdOvfWrites) := by
  have hbusy : ¬ (s.upd.isEmpty && s.get .sysUpdStaPending == 0) = true := by
    simpa [imp_iff_not_or] using hb
  rw [exec_sysModeWrite, s.writeReg_sysMode, bit_getLsbD_zero_setWidth, if_neg (Ne.symm hk), if_neg hbusy]

end Mode

theorem exec_sysUpdStrobe (w : BitVec 32) (s : State) : exec (.sysUpdStrobe w) s = .next (s.strobe w) := rfl

/-- Settles O44: each command's clauses are the lemmas of its operation. -/
theorem systemRegisterResults : Obligations.SystemRegisterResults := by
  unfold Obligations.SystemRegisterResults
  intro ref w s
  refine ⟨completes_sysBlkQuery ref s, ⟨exec_sysModeWrite_same w s, fun hk hu hp => ?_, exec_sysModeWrite_busy w s⟩,
    ⟨fun hg => ?_, fun hg => ⟨s.strobe w, rfl, s.get_pending_strobe hg, fun hp => ?_, fun hp hlt => ?_, ?_, s.strobe_regsBut hg,
      s.strobe_keepsBut hg⟩⟩,
    exec_strobeTick_none s, fun hp ht => ⟨fun hnone => ?_, fun k h hu hn hb hg => ?_, fun k h hu hn hg => ?_⟩,
    exec_tmrScan_none s, fun h a b c hs hl hh hfix hlost ha hb hc => ?_⟩
  · refine ⟨_, exec_sysModeWrite_idle w s hk hu hp, ?_, s.set_regsBut .sysModeKwRegs _ _, s.set_keepsBut _ _ _⟩
    rw [State.get_set_self _ _ _ _ (by decide) (by decide)]
    cases w.getLsbD 0 <;> rfl
  · rw [exec_sysUpdStrobe, s.strobe_of_no_group hg]
  · rw [s.reg_sysUpdAt_strobe hg, s.fixStrobe_of_pending hp]
  · rw [s.reg_sysUpdAt_strobe hg, s.reg_fixStrobe_of_none hp]
    exact s.strobeInstant_bounds hlt
  · rw [s.strobe_of_groups hg]
    rfl
  · have htick := exec_strobeTick_due s hp ht
    rw [s.strobeTick_of_unnamed hnone] at htick
    refine ⟨_, htick, ?_, rfl, s.set_regsBut .sysUpdStaPending _ _, s.set_keepsBut _ _ _⟩
    rw [State.get_set_self _ _ _ _ (by decide) (by decide), Nat.zero_mod]
  · rw [exec_strobeTick_due s hp ht, s.strobeTick_ruleBound hu hn hb hg]
  · rw [exec_strobeTick_due s hp ht, s.strobeTick_granted hu hn hg]
  · have hx : vote3 a b c < 2 ^ (h.hi + 1 - h.lo) := vote3_lt a hb hc
    refine ⟨fun hcopies => ?_, fun hcopies => ?_, fun hcopies => ?_⟩
    · obtain ⟨t, ht, htmr, hval, hcount, hrec, hregs, hkeep⟩ :=
        completes_tmrScan_fixed s hs hl hh hx (fun tie => hcopies ▸ voteOf_three_good a b c tie) hfix
      refine ⟨t, ht, htmr, hval, hcount, fun hne => hrec fun hn => ?_, hregs, hkeep⟩
      obtain ⟨hab, hbc⟩ := eq_of_no_differing hn
      exact hne.elim (· hab) (· hbc)
    · obtain ⟨t, ht, htmr, hval, hcount, -⟩ :=
        completes_tmrScan_fixed s hs hl hh ha (fun tie => hcopies ▸ voteOf_one_good a b c tie) hfix
      exact ⟨t, ht, htmr, hval, hcount⟩
    · exact completes_tmrScan_lost s hs hl hh hx (fun tie => hcopies ▸ voteOf_none_good a b c tie) hlost

end Sys2Proof.Machine
end

section
/-! PROOFS. What an epoch beginning and the firings of compare units leave: the Crest, and the registers that no other part of the
device writes. -/

namespace Sys2Proof.Machine

/-! ### What is sent to the host -/

/-- A state without what sending to the host changes. -/
def State.unsent (s : State) : State :=
  { s with out := [], freeCtr := 0, host := { s.host with ats := [], nextTag := 0, held := [], pba := [] } }

theorem State.askAts_unsent (s : State) (k f p : Nat) : (s.askAts k f p).unsent = s.unsent := by
  unfold State.askAts
  simp only
  split <;> rfl

theorem State.useAts_unsent (s : State) (f a n : Nat) : (s.useAts f a n).unsent = s.unsent := by
  unfold State.useAts
  simp only
  split
  · exact foldl_keeps State.unsent (fun t p => t.askAts_unsent _ f p) _ s
  · rfl

theorem State.tryAts_unsent (s : State) (f a n : Nat) : (s.tryAts f a n).unsent = s.unsent := by
  unfold State.tryAts
  split
  · rfl
  · exact s.useAts_unsent f a n

theorem State.readParts_unsent (f k : Nat) (s : State) (a n : Nat) : (s.readParts f k a n).unsent = s.unsent := by
  induction k generalizing s a n with
  | zero => rfl
  | succ k ih =>
    unfold State.readParts
    split
    · rfl
    · exact ih _ _ _

theorem State.readHost_unsent (s : State) (f a n : Nat) : (s.readHost f a n).unsent = s.unsent := by
  unfold State.readHost
  split
  · exact (State.readParts_unsent f _ _ a n).trans (s.useAts_unsent f a n)
  · exact s.tryAts_unsent f a n

theorem State.sendWr_unsent (s : State) (f a : Nat) (d : Bytes) : (s.sendWr f a d).unsent = s.unsent := by
  unfold State.sendWr
  split
  · exact s.useAts_unsent f a d.length
  · exact s.tryAts_unsent f a d.length

theorem State.hostWrite_unsent (s : State) (f a : Nat) (d : Bytes) : (s.hostWrite f a d).unsent = s.unsent := by
  unfold State.hostWrite State.hostWriteFor
  split
  · rfl
  · split
    · exact s.sendWr_unsent f a d
    · rfl

theorem State.signal_unsent (s : State) (f vec : Nat) : (s.signal f vec).unsent = s.unsent := by
  unfold State.signal
  split <;> rfl

/-- What a view of the state does not read of sending, sending leaves. -/
theorem State.eq_of_unsent {β : Type} {s t : State} (g : State → β) (hg : ∀ u : State, g u.unsent = g u) (h : t.unsent = s.unsent) :
    g t = g s := by
  rw [← hg t, h, hg s]

/-! ### The Crest and its registers -/

/-- The registers that only their own commands write: those of the Crest, and the controls of the journal's queues. -/
def RegName.still (r : RegName) : Bool := r.info.dom == 0 || r == .jrnQCtl

/-- The Crest, the PTP engine, the memories and the registers that only their own commands write. -/
def State.still (s : State) : Crest × Ptp × Mems × (RegName → Nat → Option (BitVec 64)) :=
  (s.crest, s.ptp, s.mem, fun r i => if r.still then some (s.reg r i) else none)

section Still
variable {s t : State} (h : t.still = s.still)
include h

theorem State.crest_of_still : t.crest = s.crest := congrArg (fun x => x.1) h

theorem State.mem_of_still : t.mem = s.mem := congrArg (fun x => x.2.2.1) h

theorem State.reg_of_still {r : RegName} (hr : r.still = true) (i : Nat) : t.reg r i = s.reg r i := by
  have hreg := congrFun (congrFun (congrArg (fun x => x.2.2.2) h) r) i
  simpa only [State.still, hr, if_true, Option.some.injEq] using hreg

theorem State.get_of_still {f : Fld} (hf : f.reg.still = true) (i : Nat) : t.get f i = s.get f i := by
  rw [State.get, State.reg_of_still h hf, State.get]

end Still

theorem State.setReg_still (s : State) {r : RegName} (hr : r.still = false) (i : Nat) (v : BitVec 64) : (s.setReg r i v).still = s.still := by
  have hregs : ∀ q j, q.still = true → (s.setReg r i v).reg q j = s.reg q j := fun q j hq =>
    s.reg_setReg_of_ne v (.inl (fun hqr => by rw [hqr, hr] at hq; cases hq))
  simp only [State.still, State.setReg_crest, State.setReg_ptp, State.setReg_mem, Prod.mk.injEq, true_and]
  funext q j
  split
  next hq => rw [hregs q j hq]
  next => rfl

theorem State.set_still (s : State) {f : Fld} (hf : f.reg.still = false) (i v : Nat) : (s.set f i v).still = s.still :=
  s.setReg_still hf i _

theorem State.still_ite {c : Prop} [Decidable c] {a b s : State} (ha : a.still = s.still) (hb : b.still = s.still) :
    (if c then a else b).still = s.still := by
  split
  · exact ha
  · exact hb

theorem State.still_of_unsent {s t : State} (h : t.unsent = s.unsent) : t.still = s.still :=
  State.eq_of_unsent State.still (fun _ => rfl) h

/-! ### Lanes, Col lists, the ledger and the fabric at an epoch beginning -/

theorem State.judgeLane_still (s : State) (l : Nat) : (s.judgeLane l).still = s.still := by
  unfold State.judgeLane
  split
  · exact s.set_still (by decide) l 0
  · split
    · split
      · rfl
      · exact s.set_still (f := .portCalStaStale) (by decide) l 1
    · exact s.set_still (by decide) l 0

theorem State.showLane_still (s : State) (n l : Nat) : (s.showLane n l).still = s.still :=
  (State.set_still _ (f := .portCalTxInForce) (by decide) l _).trans (s.set_still (f := .portCalRxInForce) (by decide) l _)

theorem State.laneEpoch_still (s : State) (l : Nat) : (s.laneEpoch l).still = s.still := by
  unfold State.laneEpoch
  extract_lets c0 c u r d v
  have hu : u.still = s.still := rfl
  have hv : v.still = s.still := State.still_ite ((State.showLane_still _ _ l).trans hu) hu
  exact State.still_ite ((v.judgeLane_still l).trans hv) hv

theorem State.lanesEpoch_still (s : State) : s.lanesEpoch.still = s.still := by
  unfold State.lanesEpoch
  split
  · rfl
  · exact foldl_keeps State.still State.laneEpoch_still _ s

theorem State.colEpoch_still (s : State) : s.colEpoch.still = s.still := by
  unfold State.colEpoch
  refine foldl_keeps State.still (fun t e => ?_) _ s
  exact t.set_still (f := .colStaStepped) (by decide) e.1 _

theorem State.retSwap_still (s : State) (l : Nat) : (s.retSwap l).still = s.still := by
  unfold State.retSwap
  extract_lets v b u1 u2 u3
  have h1 : u1.still = s.still :=
    (State.set_still _ (f := .ledRetStaOldHeld) (by decide) l 1).trans
      ((State.set_still _ (f := .ledRetStaPending) (by decide) l 0).trans (s.set_still (f := .ledRetStaBank) (by decide) l _))
  have h2 : u2.still = s.still := h1
  have hcopied : ∀ x y, ((u2.setReg .ledRetBase (l * 2 + b) x).setReg .ledRetSize (l * 2 + b) y).still = s.still := fun x y =>
    (State.setReg_still _ (by decide) _ _).trans ((u2.setReg_still (by decide) _ _).trans h2)
  have h3 : u3.still = s.still := State.still_ite (hcopied _ _) h2
  exact State.still_ite ((u3.set_still (f := .ledRetStaOldest) (by decide) l _).trans h3) rfl

theorem State.showSec_still (s : State) : s.showSec.still = s.still := by
  unfold State.showSec
  simp only
  rw [foldl_keeps State.still (fun t i => t.setReg_still (r := .secMeas) (by decide) i _)]
  rw [State.set_still _ (by decide), State.set_still _ (by decide), State.set_still _ (by decide)]

theorem State.takePair_still (s : State) : s.takePair.still = s.still := by
  unfold State.takePair
  simp only
  split
  · exact State.showSec_still _
  · rfl

theorem State.ledEpoch_still (s : State) : s.ledEpoch.still = s.still := by
  have hswaps : ((List.range 16).foldl (fun s l => s.retSwap l) s).still = s.still := foldl_keeps State.still State.retSwap_still _ s
  unfold State.ledEpoch
  simp only
  split
  · split
    · rw [State.takePair_still, State.set_still _ (by decide),
        foldl_keeps State.still (fun t l => t.set_still (f := .ledLaneStaNNow) (by decide) l 0)]
      exact hswaps
    · rw [foldl_keeps State.still (fun t l => t.set_still (f := .ledLaneStaNNow) (by decide) l 0)]
      exact hswaps
  · exact hswaps

theorem State.beat_still (s : State) : s.beat.still = s.still := by
  unfold State.beat
  split
  · split <;> rfl
  · rfl

theorem State.quarantine_still (s : State) (th : Int) : (s.quarantine th).still = s.still := by
  unfold State.quarantine
  simp only
  rw [State.set_still _ (by decide)]
  split
  · rfl
  · exact s.setReg_still (by decide) 0 _

theorem State.zoaEpoch_still (s : State) (th : Option Int) : (s.zoaEpoch th).still = s.still := by
  unfold State.zoaEpoch
  rw [State.beat_still]
  split
  · exact s.quarantine_still _
  · rfl

/-! ### The journal -/

theorem State.jFree_still (s : State) (q tag : Nat) : (s.jFree q tag).still = s.still := by
  unfold State.jFree
  extract_lets m u
  have hu : u.still = s.still := s.set_still (f := .jrnQStaOutstanding) (by decide) q _
  exact State.still_ite ((u.set_still (f := .jrnQStaState) (by decide) q 0).trans hu) hu

theorem State.jComplete_still (s : State) (c : JCmd) (status detail blocks : Nat) :
    (s.jComplete c status detail blocks).still = s.still := by
  unfold State.jComplete
  simp only
  rw [State.jFree_still, State.still_of_unsent (State.signal_unsent _ _ _), State.bump, State.set_still _ (by decide)]
  refine (State.still_of_unsent (State.hostWrite_unsent _ _ _ _)).trans ?_
  split <;> exact State.still_of_unsent (s.hostWrite_unsent _ _ _)

theorem State.jEnd_still (s : State) (k status detail blocks : Nat) : (s.jEnd k status detail blocks).still = s.still := by
  unfold State.jEnd
  split
  · rfl
  · split
    · exact State.jComplete_still _ _ _ _ _
    · rfl

theorem State.jLose_still (s : State) (b p status : Nat) : (s.jLose b p status).still = s.still := by
  have hfails : (s.bump .jrnPeerFailFails p).still = s.still := s.set_still (f := .jrnPeerFailFails) (by decide) p _
  unfold State.jLose
  simp only
  split
  · split
    · exact (State.set_still _ (f := .jrnPeerStaLost) (by decide) p 1).trans hfails
    · exact hfails
  · split
    · exact (State.set_still _ (f := .jrnPeerStaLost) (by decide) p 1).trans hfails
    · exact hfails

theorem State.offerRep_still (s : State) (k p : Nat) : (s.offerRep k p).still = s.still := by
  unfold State.offerRep
  split
  · rfl
  · refine State.still_ite ?_ rfl
    extract_lets x st
    split
    · rfl
    · exact State.still_ite rfl (State.jLose_still _ _ _ _)

theorem State.offerFlush_still (s : State) (k b p : Nat) : (s.offerFlush k b p).still = s.still := by
  unfold State.offerFlush
  split
  · rfl
  · extract_lets v x st
    refine State.still_ite ?_ rfl
    split <;> rfl

theorem State.runFlush_still (s : State) (k : Nat) : (s.runFlush k).still = s.still := by
  unfold State.runFlush
  split
  · rfl
  · simp only
    repeat' split
    · rfl
    · exact s.jEnd_still _ _ _ _
    · rfl
    · exact s.jEnd_still _ _ _ _
    · refine foldl_keeps State.still (fun t e => ?_) _ s
      split
      · exact t.offerFlush_still _ _ _
      · rfl

theorem State.runFua_still (s : State) (k : Nat) : (s.runFua k).still = s.still := by
  unfold State.runFua
  repeat' split
  · rfl
  · exact s.jEnd_still _ _ _ _
  · exact s.jEnd_still _ _ _ _
  · rfl
  · rfl

theorem State.extNote_still (s : State) (a n holder : Nat) : (s.extNote a n holder).still = s.still := by
  unfold State.extNote
  split <;> rfl

theorem State.deliver_still (c : JCmd) (haddr n : Nat) (s : State) (i : Nat) : (s.deliver c haddr n i).1.still = s.still := by
  induction n generalizing s i with
  | zero => rfl
  | succ n ih =>
    unfold State.deliver
    simp only
    split
    · exact s.extNote_still _ _ _
    · split
      · exact State.still_of_unsent (s.tryAts_unsent _ _ _)
      · exact (ih _ _).trans (State.still_of_unsent (s.hostWrite_unsent _ _ _))

theorem State.runRead_still (s : State) (k : Nat) : (s.runRead k).still = s.still := by
  unfold State.runRead
  repeat' split
  · rfl
  · exact (State.jEnd_still _ _ _ _ _).trans (State.deliver_still _ _ _ _ _)
  · rfl

theorem State.stageWrite_still (s : State) (k : Nat) : (s.stageWrite k).still = s.still := by
  unfold State.stageWrite
  split
  · rfl
  · extract_lets a n t
    have hread : t.still = s.still := State.still_of_unsent (s.readHost_unsent _ _ _)
    exact State.still_ite (State.still_ite hread ((t.jEnd_still _ _ _ _).trans hread)) rfl

theorem State.noteReps_still (s : State) (q : Nat) (c : JCmd) : (s.noteReps q c).still = s.still := by
  unfold State.noteReps
  exact foldl_keeps State.still (fun t p => (rfl : (t.noteCtx q (2 * c.bank + p) (if c.rep p = 4 then 2 else 1)).still = t.still)) _ s

theorem State.jForget_still (s : State) : s.jForget.still = s.still := by
  refine (rfl : s.jForget.still = (s.jrn.cmds.foldl _ s).still).trans (foldl_keeps State.still (fun t e => ?_) _ s)
  split
  · rw [State.noteReps_still]
    split
    · rfl
    · exact t.noteReps_still _ _
  · rfl

theorem State.jSettle_still (s : State) : s.jSettle.still = s.still := by
  refine (State.jForget_still _).trans (foldl_keeps State.still (fun t e => ?_) _ s)
  split
  · exact (State.stageWrite_still _ _).trans (t.runFua_still _)
  · exact t.runRead_still _
  · exact t.runFlush_still _
  · rfl

theorem State.jrnEpoch_still (s : State) : s.jrnEpoch.still = s.still := by
  unfold State.jrnEpoch
  split
  · rfl
  · refine (State.jSettle_still _).trans (foldl_keeps State.still (fun t e => ?_) _ s)
    split
    · refine foldl_keeps State.still (fun u p => ?_) _ t
      split
      · exact u.offerRep_still _ _
      · rfl
    · split
      · refine foldl_keeps State.still (fun u x => ?_) _ t
        split
        · exact u.offerFlush_still _ _ _
        · rfl
      · rfl

/-- Of an epoch beginning, only the Crest's own part and its report act on the Crest. -/
theorem State.epochBegin_still (s : State) : s.epochBegin.still = (s.noteTqw.crestEpoch.lanesEpoch.noteTqw).still := by
  have hback : s.epochBegin.still = ((((s.noteTqw.crestEpoch.lanesEpoch.noteTqw).colEpoch).ledEpoch).zoaEpoch s.crest.step).jrnEpoch.still := rfl
  rw [hback, State.jrnEpoch_still, State.zoaEpoch_still, State.ledEpoch_still, State.colEpoch_still]

/-! ### The actions of a compare unit -/

theorem State.raiseEvt_still (s : State) (k i : Nat) : (s.raiseEvt k i).still = s.still := by
  unfold State.raiseEvt State.wake
  split <;> rfl

theorem State.raiseGroup_still (s : State) (g i : Nat) : (s.raiseGroup g i).still = s.still :=
  foldl_keeps State.still (fun t k => t.raiseEvt_still k i) _ s

theorem State.armTm_still (s : State) (p : Nat) (t : BitVec 64) (lead : Bool) : (s.armTm p t lead).still = s.still := by
  unfold State.armTm
  split
  · exact (State.set_still _ (f := .tmPortStaSwapRefused) (by decide) p 0).trans (s.set_still (f := .tmPortStaSwapPending) (by decide) p 1)
  · exact s.set_still (by decide) p 1

theorem State.armCol_still (s : State) (p : Nat) (lead : Bool) : (s.armCol p lead).still = s.still := by
  unfold State.armCol
  refine State.still_ite ?_ (s.set_still (by decide) p 1)
  refine (State.setReg_still (((s.set .colStaPending p 1).set .colStaRefused p 0)) (r := .colSwitchLt) (by decide) p _).trans ?_
  exact (State.set_still _ (f := .colStaRefused) (by decide) p 0).trans (s.set_still (f := .colStaPending) (by decide) p 1)

end Sys2Proof.Machine
end

section
/-! PROOFS. Captures, REF_TIME and the replicas, and the statements O55 and O17. -/

namespace Sys2Proof.Machine

/-! ### The capture FIFOs (R62, R63) -/

section Fifo
variable (s : State) (i : Nat) (l : List (BitVec 64))

theorem State.get_fill_setCaps (h : l.length ≤ 16) : (s.setCaps i l).get .crestCapStaFill i = l.length := by
  have hw : Fld.width .crestCapStaFill = 5 := rfl
  rw [State.setCaps, State.get_set_self _ _ _ _ (by decide) (by decide), hw]
  omega

theorem State.setCaps_regsBut : RegsBut [(.crestCapSta, i)] s (s.setCaps i l) :=
  State.set_regsBut_of_mem _ (fun _ _ _ => rfl) List.mem_cons_self

theorem State.setCaps_keepsBut : KeepsBut [.regs, .crest] s (s.setCaps i l) :=
  State.set_keepsBut_of_mem _ _ _ ((s.setCrest_keepsBut _).mono (by simp)) List.mem_cons_self

end Fifo

theorem State.setReadData_keepsBut (s : State) (v : BitVec 64) : KeepsBut [.readData] s { s with readData := v } := by
  intro p hp
  cases p
  case readData => exact absurd List.mem_cons_self hp
  all_goals rfl

theorem exec_crestCapDataRead_cons {i : Fin 5} {s : State} {v : BitVec 64} {l : List (BitVec 64)} (h : s.caps i.val = v :: l) :
    exec (.crestCapDataRead i) s = .next { s.setCaps i.val l with readData := v } := by
  have hdef : exec (.crestCapDataRead i) s = execCrestCapDataRead i s := rfl
  simp only [hdef, execCrestCapDataRead, h]

theorem exec_crestCapDataRead_nil {i : Fin 5} {s : State} (h : s.caps i.val = []) :
    exec (.crestCapDataRead i) s = .next { s with readData := 0xFFFFFFFFFFFFFFFF#64 } := by
  have hdef : exec (.crestCapDataRead i) s = execCrestCapDataRead i s := rfl
  simp only [hdef, execCrestCapDataRead, h]

/-- Settles O55: the read takes the oldest entry and shows the fill of what is left. -/
theorem captureReads : Obligations.CaptureReads := by
  unfold Obligations.CaptureReads
  intro i s
  refine ⟨fun v l hc hl => ⟨_, exec_crestCapDataRead_cons hc, rfl, s.caps_setCaps_self i.val l,
    s.get_fill_setCaps i.val l (by omega), fun j hj => s.caps_setCaps_of_ne l hj, s.setCaps_regsBut i.val l, ?_⟩,
    fun hc => ⟨_, exec_crestCapDataRead_nil hc, rfl, hc, s.setReadData_keepsBut _⟩⟩
  exact KeepsBut.trans ((s.setCaps_keepsBut i.val l).mono (by simp)) ((State.setReadData_keepsBut _ v).mono (by simp))

/-! ### Captured edges -/

theorem State.capEdge_iff (s : State) (i : Nat) (rising : Bool) : s.capEdge i rising = true ↔
    s.is .crestCapCfgEn i = true ∧ (s.get .crestCapCfgEdge i = 2 ∨ s.get .crestCapCfgEdge i = (if rising then 0 else 1)) := by
  have hbit : bit (!rising) = if rising then 0 else 1 := by cases rising <;> rfl
  simp [State.capEdge, hbit]

/-- A capture in the FIFO, or counted as lost where the FIFO is full. -/
def State.latch (s : State) (i : Nat) (v : BitVec 64) : State :=
  if (s.caps i).length < 16 then s.setCaps i (s.caps i ++ [v]) else s.bump .crestCapOvfOvf i

section Latch
variable (s : State) (i : Nat) (v : BitVec 64)

theorem State.latch_of_room (h : (s.caps i).length < 16) : s.latch i v = s.setCaps i (s.caps i ++ [v]) := if_pos h

theorem State.latch_of_full (h : 16 ≤ (s.caps i).length) : s.latch i v = s.bump .crestCapOvfOvf i := if_neg (Nat.not_lt.2 h)

theorem State.latch_keepsBut : KeepsBut [.regs, .crest] s (s.latch i v) := by
  unfold State.latch
  split
  · exact s.setCaps_keepsBut i _
  · exact (s.set_keepsBut .crestCapOvfOvf i _).mono (by simp)

theorem State.latch_samples : (s.latch i v).crest.samples = s.crest.samples := by
  unfold State.latch
  split <;> rfl

theorem State.caps_latch_of_ne {j : Nat} (h : j ≠ i) : (s.latch i v).caps j = s.caps j := by
  unfold State.latch
  split
  · exact s.caps_setCaps_of_ne _ h
  · rfl

/-- Neither the FIFO's fill nor its loss is a field of the servo's configuration. -/
theorem State.get_src_latch : (s.latch i v).get .crestSrvCfgSrc (s.latch i v).srvBank = s.get .crestSrvCfgSrc s.srvBank := by
  have hget : ∀ f : Fld, f.reg = .crestSrvCfg ∨ f.reg = .crestSrvSta → ∀ j, (s.latch i v).get f j = s.get f j := by
    intro f hf j
    unfold State.latch
    split
    · rcases hf with hf | hf <;> exact State.get_set_of_ne _ _ (.inl (by rw [hf]; decide))
    · rcases hf with hf | hf <;> exact State.get_set_of_ne _ _ (.inl (by rw [hf]; decide))
  have hbank : (s.latch i v).srvBank = s.srvBank := hget .crestSrvStaActiveBank (.inr rfl) 0
  rw [hbank, hget .crestSrvCfgSrc (.inl rfl)]

end Latch

theorem State.submitSample_keepsBut (s : State) (x : Sample) : KeepsBut [.crest] s (s.submitSample x) := s.setCrest_keepsBut _

section Edge
variable {i : Fin 5} {rising : Bool} {s : State}

theorem exec_captureEdge_off (h : s.capEdge i.val rising = false) : exec (.captureEdge i rising) s = .next s := by
  have hdef : exec (.captureEdge i rising) s = execCaptureEdge i rising s := rfl
  rw [hdef, execCaptureEdge, if_neg (by rw [h]; decide)]

/-- The sample that a PPS capture submits. -/
def State.ppsSample (s : State) (i : Nat) (v : BitVec 64) : Sample :=
  { at_ := v, theta := ppsTheta ((s.latch i v).ftOf v), pps := true }

theorem exec_captureEdge_on (h : s.capEdge i.val rising = true) : exec (.captureEdge i rising) s =
    .next (if i.val = 4 ∧ s.get .crestSrvCfgSrc s.srvBank = 2 then
      (s.latch i.val (s.capValue i.val)).submitSample (s.ppsSample i.val (s.capValue i.val))
      else s.latch i.val (s.capValue i.val)) := by
  have hdef : exec (.captureEdge i rising) s = execCaptureEdge i rising s := rfl
  have hlatch : ∀ v, (if (s.caps i.val).length < 16 then s.setCaps i.val (s.caps i.val ++ [v])
      else s.bump .crestCapOvfOvf i.val) = s.latch i.val v := fun _ => rfl
  simp only [hdef, execCaptureEdge, h, if_true, hlatch, s.get_src_latch, State.ppsSample, Bool.and_eq_true, decide_eq_true_eq,
    beq_iff_eq]

theorem completes_captureEdge (h : s.capEdge i.val rising = true) :
    let v := s.capValue i.val
    let pps := i.val = 4 ∧ s.get .crestSrvCfgSrc s.srvBank = 2
    Completes (.captureEdge i rising) s (fun t => KeepsBut [.regs, .crest] s t ∧
      (∀ j, j ≠ i.val → t.caps j = s.caps j) ∧
      ((s.caps i.val).length < 16 → t.caps i.val = s.caps i.val ++ [v] ∧
        t.get .crestCapStaFill i.val = (s.caps i.val).length + 1 ∧ RegsBut [(.crestCapSta, i.val)] s t) ∧
      (16 ≤ (s.caps i.val).length → t.caps i.val = s.caps i.val ∧
        t.get .crestCapOvfOvf i.val = (s.get .crestCapOvfOvf i.val + 1) % 2 ^ 64 ∧ RegsBut [(.crestCapOvf, i.val)] s t) ∧
      (¬pps → t.crest.samples = s.crest.samples) ∧
      (pps → ∃ x, t.crest.samples = s.crest.samples ++ [x] ∧ x.at_ = v ∧ x.pps = true)) := by
  intro v pps
  -- A sample submitted beside the capture shows in no FIFO and no register.
  have latched : ∀ t : State, (∀ j, t.caps j = (s.latch i.val v).caps j) → t.regs = (s.latch i.val v).regs →
      (∀ j, j ≠ i.val → t.caps j = s.caps j) ∧
      ((s.caps i.val).length < 16 → t.caps i.val = s.caps i.val ++ [v] ∧
        t.get .crestCapStaFill i.val = (s.caps i.val).length + 1 ∧ RegsBut [(.crestCapSta, i.val)] s t) ∧
      (16 ≤ (s.caps i.val).length → t.caps i.val = s.caps i.val ∧
        t.get .crestCapOvfOvf i.val = (s.get .crestCapOvfOvf i.val + 1) % 2 ^ 64 ∧ RegsBut [(.crestCapOvf, i.val)] s t) := by
    intro t hcaps hregs
    have hreg : ∀ r j, t.reg r j = (s.latch i.val v).reg r j := fun r j => by rw [State.reg, hregs, State.reg]
    have hget : ∀ f j, t.get f j = (s.latch i.val v).get f j := fun f j => by rw [State.get, hreg, State.get]
    refine ⟨fun j hj => (hcaps j).trans (s.caps_latch_of_ne i.val v hj), fun hroom => ⟨?_, ?_, fun r j hm => ?_⟩,
      fun hfull => ⟨?_, ?_, fun r j hm => ?_⟩⟩
    · rw [hcaps, s.latch_of_room i.val v hroom, State.caps_setCaps_self]
    · rw [hget, s.latch_of_room i.val v hroom, s.get_fill_setCaps i.val _ (by simpa using hroom), List.length_append, List.length_singleton]
    · rw [hreg, s.latch_of_room i.val v hroom, s.setCaps_regsBut i.val _ r j hm]
    · rw [hcaps, s.latch_of_full i.val v hfull]
      rfl
    · rw [hget, s.latch_of_full i.val v hfull, s.get_bump_self .crestCapOvfOvf i.val 1 (by decide) (by decide)]
      rfl
    · rw [hreg, s.latch_of_full i.val v hfull]
      exact s.set_regsBut .crestCapOvfOvf i.val _ r j hm
  by_cases hpps : pps
  · refine ⟨_, (exec_captureEdge_on h).trans (by rw [if_pos hpps]), (s.latch_keepsBut i.val v).trans
      ((State.submitSample_keepsBut _ _).mono (by simp)), (latched _ (fun _ => rfl) rfl).1, (latched _ (fun _ => rfl) rfl).2.1,
      (latched _ (fun _ => rfl) rfl).2.2, fun hno => absurd hpps hno, fun _ => ⟨s.ppsSample i.val v, ?_, rfl, rfl⟩⟩
    exact congrArg (· ++ [s.ppsSample i.val v]) (s.latch_samples i.val v)
  · obtain ⟨hothers, hroom, hfull⟩ := latched (s.latch i.val v) (fun _ => rfl) rfl
    exact ⟨_, (exec_captureEdge_on h).trans (by rw [if_neg hpps]), s.latch_keepsBut i.val v, hothers, hroom, hfull,
      fun _ => s.latch_samples i.val v, fun hyes => absurd hyes hpps⟩

end Edge

/-! ### REF_TIME (R61) -/

/-- Folding the live time quality into the epoch's report changes the Crest alone. -/
theorem State.noteTqw_keepsBut (s : State) : KeepsBut [.crest] s s.noteTqw := s.setCrest_keepsBut _

section Reference
variable (s : State)

theorem exec_refTimeLost (hen : s.is .crestRefCfgEn = true) (hlost : s.crest.refLost = false) : exec .refTimeLost s =
    .next ((((({ s with crest := { s.crest with refLost := true } } : State).bump .crestRefStaLosses).set .crestRefStaOnRef 0 0).cairnRec
      .refLost (some ⟨.timeBase, 0⟩) [1]).noteTqw) := by
  have hdef : exec .refTimeLost s = execRefTimeLost s := rfl
  rw [hdef, execRefTimeLost, hen, hlost]
  rfl

theorem exec_refTimeLost_idle (h : s.is .crestRefCfgEn = false ∨ s.crest.refLost = true) : exec .refTimeLost s = .next s := by
  have hdef : exec .refTimeLost s = execRefTimeLost s := rfl
  have hcond : (s.is .crestRefCfgEn && !s.crest.refLost) = false := by rcases h with h | h <;> simp [h]
  rw [hdef, execRefTimeLost, hcond]
  rfl

theorem exec_refTimeRegained (hen : s.is .crestRefCfgEn = true) (hlost : s.crest.refLost = true) : exec .refTimeRegained s =
    .next (({ s.noteTqw with crest := { s.noteTqw.crest with refLost := false } } : State).set .crestRefStaOnRef 0 1 |>.cairnRec
      .refLost (some ⟨.timeBase, 0⟩) [0]) := by
  have hdef : exec .refTimeRegained s = execRefTimeRegained s := rfl
  rw [hdef, execRefTimeRegained, hen, hlost]
  rfl

theorem exec_refTimeRegained_idle (h : s.is .crestRefCfgEn = false ∨ s.crest.refLost = false) : exec .refTimeRegained s = .next s := by
  have hdef : exec .refTimeRegained s = execRefTimeRegained s := rfl
  have hcond : (s.is .crestRefCfgEn && s.crest.refLost) = false := by rcases h with h | h <;> simp [h]
  rw [hdef, execRefTimeRegained, hcond]
  rfl

theorem completes_refTimeLost (hen : s.is .crestRefCfgEn = true) (hlost : s.crest.refLost = false) :
    Completes .refTimeLost s (fun t => t.crest.refLost = true ∧
      t.get .crestRefStaLosses = (s.get .crestRefStaLosses + 1) % 2 ^ 32 ∧ t.get .crestRefStaOnRef = 0 ∧ t.lt = s.lt ∧
      (∃ e, t.cairn.raised = s.cairn.raised ++ [e] ∧ e.code = .refLost) ∧ RegsBut [(.crestRefSta, 0)] s t) := by
  let u : State := { s with crest := { s.crest with refLost := true } }
  let v := (u.bump .crestRefStaLosses).set .crestRefStaOnRef 0 0
  have hlosses : v.get .crestRefStaLosses = (s.get .crestRefStaLosses + 1) % 2 ^ 32 :=
    (State.get_set_beside _ (f := .crestRefStaOnRef) (g := .crestRefStaLosses) 0 rfl (by decide) (by decide) (by decide)).trans
      (u.get_bump_self .crestRefStaLosses 0 1 (by decide) (by decide))
  have honRef : v.get .crestRefStaOnRef = 0 := State.get_set_self _ .crestRefStaOnRef 0 0 (by decide) (by decide)
  have hregs : RegsBut [(.crestRefSta, 0)] s v :=
    State.set_regsBut_of_mem _ (State.set_regsBut_of_mem _ (fun _ _ _ => rfl) List.mem_cons_self) List.mem_cons_self
  exact ⟨_, exec_refTimeLost s hen hlost, rfl, hlosses, honRef, rfl, ⟨_, rfl, rfl⟩, hregs⟩

theorem completes_refTimeRegained (hen : s.is .crestRefCfgEn = true) (hlost : s.crest.refLost = true) :
    Completes .refTimeRegained s (fun t => t.crest.refLost = false ∧ t.get .crestRefStaOnRef = 1 ∧ t.lt = s.lt ∧
      RegsBut [(.crestRefSta, 0)] s t) := by
  have hregs : RegsBut [(.crestRefSta, 0)] s (({ s.noteTqw with crest := { s.noteTqw.crest with refLost := false } } : State).set
      .crestRefStaOnRef 0 1) := State.set_regsBut_of_mem _ (fun _ _ _ => rfl) List.mem_cons_self
  exact ⟨_, exec_refTimeRegained s hen hlost, rfl, State.get_set_self _ .crestRefStaOnRef 0 1 (by decide) (by decide), rfl, hregs⟩

end Reference

/-! ### Replicas (R43, R44) -/

theorem natAbs_clampInt_le (a : Int) (b : Nat) : (clampInt a b).natAbs ≤ b := by
  unfold clampInt
  omega

/-- What a comparison stores of a replica. -/
def State.measured (s : State) (rep : Replica) (clock : BitVec 64) : RepSt :=
  { err := s.repErr rep, at_ := s.elapsed, clock := clampInt clock.toInt (1000 * trimLimit), rate := s.repTrim }

/-- The state once a replica is compared and marked, before a record. -/
def State.trackRep (s : State) (rep : Replica) (clock : BitVec 64) : State :=
  let mark := if replicaLimit rep < (s.repErr rep).natAbs then some () else none
  let u : State := { s with crest := { s.crest with reps := SMap.setD s.crest.reps (replicaKey rep) (s.measured rep clock) {} } }
  match rep with
  | .octet o => { u with crest := { u.crest with replicaOut := SMap.put u.crest.replicaOut o.val mark } }.useFree
  | _ => u.useFree

/-- The record of a replica out of limit. -/
def State.recordRep (s : State) (err : Int) : State :=
  (s.cairnRec .replicaLimit (some ⟨.timeBase, 0⟩)
    ((s.free.setWidth 8) :: List.replicate 7 0 ++ leBytes (BitVec.ofInt 64 err).toNat 8)).useFree.noteTqw

theorem exec_replicaTrack (rep : Replica) (clock : BitVec 64) (s : State) : exec (.replicaTrack rep clock) s =
    .next (if replicaLimit rep < (s.repErr rep).natAbs then (s.trackRep rep clock).recordRep (s.repErr rep)
      else s.trackRep rep clock) := by
  cases rep <;> rfl

theorem State.trackRep_keepsBut (s : State) (rep : Replica) (clock : BitVec 64) :
    KeepsBut [.crest, .freeCtr] s (s.trackRep rep clock) := by
  intro p hp
  cases p
  case crest => exact absurd (by decide) hp
  case freeCtr => exact absurd (by decide) hp
  all_goals cases rep <;> rfl

theorem State.recordRep_keepsBut (s : State) (err : Int) : KeepsBut [.crest, .cairn, .freeCtr] s (s.recordRep err) := by
  refine KeepsBut.trans ?_ ((State.noteTqw_keepsBut _).mono (by simp))
  exact KeepsBut.trans ((s.cairnRec_keepsBut _ _ _).mono (by simp)) ((State.useFree_keepsBut _ 1).mono (by simp))

section Track
variable (s : State) (rep : Replica) (clock : BitVec 64)

theorem State.trackRep_reps :
    (s.trackRep rep clock).crest.reps = SMap.setD s.crest.reps (replicaKey rep) (s.measured rep clock) {} := by
  cases rep <;> rfl

theorem State.trackRep_elapsed : (s.trackRep rep clock).elapsed = s.elapsed := by cases rep <;> rfl

/-- A comparison leaves every replica where it is: no time has passed since it for the one compared. -/
theorem State.repErr_trackRep (q : Replica) : (s.trackRep rep clock).repErr q = s.repErr q := by
  unfold State.repErr
  rw [State.trackRep_reps, State.trackRep_elapsed]
  by_cases hk : replicaKey q = replicaKey rep
  · rw [hk, SMap.getD_setD_self]
    simp only [State.measured, Nat.sub_self, Nat.cast_zero, Int.mul_zero, Int.zero_ediv, Int.add_zero]
    rw [State.repErr]
  · rw [SMap.getD_setD_of_ne _ _ _ _ hk]

end Track

theorem completes_replicaTrack (rep : Replica) (clock : BitVec 64) (s : State) :
    let lim := replicaLimit rep
    let err := s.repErr rep
    Completes (.replicaTrack rep clock) s (fun t =>
      KeepsBut [.crest, .cairn, .freeCtr] s t ∧ t.lt = s.lt ∧ (∀ q : Replica, t.repLt q = s.repLt q) ∧
      (SMap.getD t.crest.reps (replicaKey rep) {}).rate.natAbs ≤ 1000 ∧ (SMap.getD t.crest.reps (replicaKey rep) {}).clock.natAbs ≤ 1000000 ∧
      (lim < err.natAbs → ∃ e, t.cairn.raised = s.cairn.raised ++ [e] ∧ e.code = .replicaLimit) ∧
      (err.natAbs ≤ lim → t.cairn = s.cairn) ∧
      (∀ o, rep = .octet o → (SMap.find t.crest.replicaOut o.val).isSome = decide (lim < err.natAbs))) := by
  intro lim err
  refine ⟨_, exec_replicaTrack rep clock s, ?_⟩
  let u := s.trackRep rep clock
  let t := if lim < err.natAbs then u.recordRep err else u
  have hacc : u.crest.acc = s.crest.acc := by cases rep <;> rfl
  have hlt : u.lt = s.lt := congrArg (fun a : BitVec 112 => BitVec.ofNat 64 (a.toNat >>> 16)) hacc
  have hcairn : u.cairn = s.cairn := by cases rep <;> rfl
  have hkept : ∀ {β : Type} (g : State → β), (∀ v : State, g (v.recordRep err) = g v) → g t = g u := by
    intro β g hg
    show g (if lim < err.natAbs then u.recordRep err else u) = g u
    split
    · exact hg u
    · rfl
  have hreps : t.crest.reps = SMap.setD s.crest.reps (replicaKey rep) (s.measured rep clock) {} :=
    (hkept (fun v => v.crest.reps) (fun _ => rfl)).trans (s.trackRep_reps rep clock)
  refine ⟨?_, (hkept State.lt (fun _ => rfl)).trans hlt, fun q => ?_, ?_, ?_, fun hout => ?_, fun hin => ?_, ?_⟩
  · show KeepsBut _ s (if lim < err.natAbs then u.recordRep err else u)
    have hu : KeepsBut [.crest, .cairn, .freeCtr] s u := (s.trackRep_keepsBut rep clock).mono (by simp)
    split
    · exact hu.trans (u.recordRep_keepsBut err)
    · exact hu
  · rw [hkept (fun v => v.repLt q) (fun _ => rfl), State.repLt, s.repErr_trackRep rep clock q, hlt, State.repLt]
  · rw [hreps, SMap.getD_setD_self]
    exact natAbs_clampInt_le _ 1000
  · rw [hreps, SMap.getD_setD_self]
    exact natAbs_clampInt_le _ 1000000
  · rw [if_pos hout, ← hcairn]
    exact ⟨_, rfl, rfl⟩
  · rw [if_neg (Nat.not_lt.2 hin), ← hcairn]
  · rintro o rfl
    rw [hkept (fun v => v.crest.replicaOut) (fun _ => rfl)]
    have hmark : u.crest.replicaOut = SMap.put s.crest.replicaOut o.val (if lim < err.natAbs then some () else none) := rfl
    rw [hmark, SMap.find_put_self]
    by_cases hout : lim < err.natAbs <;> simp [hout]

/-- Settles O17: each command's clauses are the lemmas of its operation. -/
theorem capturesAndReferences : Obligations.CapturesAndReferences := by
  unfold Obligations.CapturesAndReferences
  intro i rising rep clock s on v pps
  have hon : s.capEdge i.val rising = true ↔ on := s.capEdge_iff i.val rising
  refine ⟨fun hoff => exec_captureEdge_off (Bool.eq_false_iff.2 (fun h => hoff (hon.1 h))), fun h => completes_captureEdge (hon.2 h),
    completes_refTimeLost s, completes_refTimeRegained s, exec_refTimeLost_idle s, exec_refTimeRegained_idle s, ?_⟩
  cases rep <;> exact completes_replicaTrack _ clock s

end Sys2Proof.Machine
end

section
/-! PROOFS. The servo: samples, the loop law, what each state makes of an accepted sample, and the statement O15. -/

namespace Sys2Proof.Machine

/-! ### Which samples are discarded (R49) -/

theorem exec_crestSampleOfs (th : BitVec 64) (s : State) : exec (.crestSampleOfs th) s =
    .next (s.submitSample { at_ := s.crest.staged, theta := th.toInt, pps := false }) := rfl

/-- R49's reasons to discard a sample. -/
def State.discards (s : State) (x : Sample) : Prop :=
  let src := s.get .crestSrvCfgSrc s.srvBank
  2 ^ 36 < ltDiff s.epochStart x.at_ ∨ 0 < ltDiff x.at_ s.lt ∨ s.crest.step.isSome = true ∨
    (∃ e, s.crest.stepAt = some e ∧ s.instantOf x.at_ < (e : Int)) ∨ (x.pps = true ∧ src ≠ 2) ∨
    (x.pps = false ∧ src ≠ 1 ∧ ¬(src = 2 ∧ (s.crest.state = .free ∨ s.crest.state = .acquire)))

theorem State.sampleBad_iff (s : State) (x : Sample) : s.sampleBad x = true ↔ s.discards x := by
  have hepoch : (epochUnits : Int) = 2 ^ 36 := rfl
  have hsource : ∀ src : Nat, (!(if x.pps then src == 2 else src == 1 ||
      (src == 2 && (s.crest.state == .free || s.crest.state == .acquire)))) = true ↔
      (x.pps = true ∧ src ≠ 2) ∨ (x.pps = false ∧ src ≠ 1 ∧ ¬(src = 2 ∧ (s.crest.state = .free ∨ s.crest.state = .acquire))) := by
    intro src
    cases x.pps
    · simp only [Bool.false_eq_true, if_false, Bool.not_eq_true', Bool.or_eq_false_iff, Bool.and_eq_false_iff, beq_eq_false_iff_ne]
      tauto
    · simp
  unfold State.sampleBad State.discards
  simp only [Bool.or_eq_true, hsource, hepoch, ltAfter, decide_eq_true_eq, or_assoc]
  cases s.crest.stepAt <;> simp

theorem State.step_none_of_not_discards {s : State} {x : Sample} (h : ¬ s.discards x) : s.crest.step = none := by
  simp only [State.discards, not_or] at h
  simpa using h.2.2.1

/-- The oldest sample is taken out of the queue, whatever comes of it. -/
theorem exec_servoSample_cons {s : State} {x : Sample} {l : List Sample} (h : s.crest.samples = x :: l) :
    let u : State := { s with crest := { s.crest with samples := l } }
    exec .servoSample s = .next (if s.sampleBad x then u.bump .crestSampleDiscDiscarded else u.acceptSample x) := by
  have hdef : exec .servoSample s = execServoSample s := rfl
  simp only [hdef, execServoSample, h]
  rfl

theorem exec_servoSample_nil {s : State} (h : s.crest.samples = []) : exec .servoSample s = .next s := by
  have hdef : exec .servoSample s = execServoSample s := rfl
  simp only [hdef, execServoSample, h]

/-! ### The loop law (R50) -/

/-- The integrator after a sample. -/
def State.loopInteg (s : State) (i : Int) (ki : Nat) (theta : Int) : Int :=
  clampInt (i + ki * theta) (s.get .crestSrvLimFclamp s.srvBank * 4294967296 : Nat)

/-- The addend after a sample. -/
def State.loopAddend (s : State) (i : Int) (kp ki : Nat) (theta : Int) : BitVec 48 :=
  BitVec.ofInt 48 (s.get .crestNomNom s.srvBank -
    roundDiv (clampInt (kp * theta + s.loopInteg i ki theta) (s.get .crestSrvLimFclamp s.srvBank * 4294967296 : Nat)) 1000000000)

/-- A state with another integrator and addend. -/
def State.setLoop (s : State) (i : Int) (a : BitVec 48) : State := { s with crest := { s.crest with integ := i, addend := a } }

theorem State.loopLaw_eq (s : State) (kp ki : Nat) (theta : Int) : s.loopLaw kp ki theta =
    s.setLoop (s.loopInteg s.crest.integ ki theta) (s.loopAddend s.crest.integ kp ki theta) := rfl

theorem State.get_of_regs {s t : State} (h : t.regs = s.regs) (f : Fld) (i : Nat) : t.get f i = s.get f i := by
  rw [State.get, State.reg, h, State.get, State.reg]

section LoopCongr
variable {s t : State} (h : t.regs = s.regs) (i : Int) (kp ki : Nat) (theta : Int)
include h

theorem State.srvBank_of_regs : t.srvBank = s.srvBank := State.get_of_regs h .crestSrvStaActiveBank 0

theorem State.loopInteg_of_regs : t.loopInteg i ki theta = s.loopInteg i ki theta := by
  rw [State.loopInteg, State.srvBank_of_regs h, State.get_of_regs h, State.loopInteg]

theorem State.loopAddend_of_regs : t.loopAddend i kp ki theta = s.loopAddend i kp ki theta := by
  rw [State.loopAddend, State.srvBank_of_regs h, State.loopInteg_of_regs h, State.get_of_regs h, State.get_of_regs h, State.loopAddend]

end LoopCongr

/-! ### What the servo makes of an accepted sample (R51, R515) -/

/-- The part of the Crest that the servo's states do not concern. -/
def Crest.carried (c : Crest) : List Sample × Nat × BitVec 112 × Nat := (c.samples, c.lastSample, c.acc, c.map)

/-- The state that a sample finds the servo in, or brings it to, processes it. -/
def State.process (s : State) (theta : Int) : State := if s.crest.state = .acquire then s.inAcquire theta else s.inLocked theta

section Serve
variable (s : State) (theta : Int)

/-- A sample beyond the step threshold, with stepping allowed. -/
def State.steps : Prop := s.stepThr < theta.natAbs ∧ s.is .crestSrvCfgStepEn s.srvBank = true

theorem State.inAcquire_of_step (h : s.steps theta) : s.inAcquire theta = s.pendStep theta := by
  obtain ⟨hfar, hen⟩ := h
  simp [State.inAcquire, hfar, hen]

/-- The loop with acquire gains. -/
abbrev State.acqLoop : State :=
  s.setLoop (s.loopInteg s.crest.integ (s.get .crestGainAcqKi s.srvBank) theta)
    (s.loopAddend s.crest.integ (s.get .crestGainAcqKp s.srvBank) (s.get .crestGainAcqKi s.srvBank) theta)

/-- The loop with locked gains. -/
abbrev State.lckLoop : State :=
  s.setLoop (s.loopInteg s.crest.integ (s.get .crestGainLckKi s.srvBank) theta)
    (s.loopAddend s.crest.integ (s.get .crestGainLckKp s.srvBank) (s.get .crestGainLckKi s.srvBank) theta)

/-- The state after the loop: LOCKED once the run is long enough, or ACQUIRE once it is, else as it was. -/
def State.leaveAfter (s : State) (n : Nat) (st : ServoState) (theta : Int) : State :=
  if n ≤ s.crest.run then s.enterServo st theta else s

theorem State.inAcquire_loop_eq (h : ¬ s.steps theta) : s.inAcquire theta =
    (s.loopLaw (s.get .crestGainAcqKp s.srvBank) (s.get .crestGainAcqKi s.srvBank) theta).leaveAfter
      ((s.loopLaw (s.get .crestGainAcqKp s.srvBank) (s.get .crestGainAcqKi s.srvBank) theta).get .crestSrvThrLockCnt s.srvBank)
      .locked theta := by
  have hcond : (decide (s.stepThr < theta.natAbs) && s.is .crestSrvCfgStepEn s.srvBank) = false := by
    simpa [State.steps] using h
  rw [State.inAcquire, hcond, if_neg Bool.false_ne_true]
  rfl

theorem State.setLoop_get (i : Int) (a : BitVec 48) (f : Fld) (j : Nat) : (s.setLoop i a).get f j = s.get f j := rfl

theorem State.inAcquire_of_loop (h : ¬ s.steps theta) : s.inAcquire theta =
    (s.acqLoop theta).leaveAfter (s.get .crestSrvThrLockCnt s.srvBank) .locked theta := by
  rw [s.inAcquire_loop_eq theta h, State.loopLaw_eq, State.setLoop_get]

theorem State.inLocked_eq : s.inLocked theta = (s.lckLoop theta).leaveAfter 4 .acquire theta := by
  have hdef : s.inLocked theta =
    (s.loopLaw (s.get .crestGainLckKp s.srvBank) (s.get .crestGainLckKi s.srvBank) theta).leaveAfter 4 .acquire theta := rfl
  rw [hdef, State.loopLaw_eq]

theorem State.leaveAfter_cases (n : Nat) (st : ServoState) : s.leaveAfter n st theta = s ∨ s.leaveAfter n st theta = s.enterServo st theta := by
  unfold State.leaveAfter
  split
  · exact .inr rfl
  · exact .inl rfl

/-- A sample that does not step runs the loop, and the servo stays in its state or enters another. -/
theorem State.process_cases : s.process theta = s.pendStep theta ∨
    ∃ i a, s.process theta = s.setLoop i a ∨ ∃ st, s.process theta = (s.setLoop i a).enterServo st theta := by
  have looped : ∀ i a n st, s.process theta = (s.setLoop i a).leaveAfter n st theta →
      ∃ i a, s.process theta = s.setLoop i a ∨ ∃ st, s.process theta = (s.setLoop i a).enterServo st theta := by
    intro i a n st h
    rcases (s.setLoop i a).leaveAfter_cases theta n st with h' | h'
    · exact ⟨i, a, .inl (h.trans h')⟩
    · exact ⟨i, a, .inr ⟨st, h.trans h'⟩⟩
  by_cases hst : s.crest.state = .acquire
  · by_cases hstep : s.steps theta
    · exact .inl ((if_pos hst).trans (s.inAcquire_of_step theta hstep))
    · exact .inr (looped _ _ _ _ ((if_pos hst).trans (s.inAcquire_of_loop theta hstep)))
  · exact .inr (looped _ _ _ _ ((if_neg hst).trans (s.inLocked_eq theta)))

/-- What the loop and the state it leaves for make of the Crest. -/
theorem State.leaveAfter_setLoop (i : Int) (a : BitVec 48) (n : Nat) (st : ServoState) :
    let c := ((s.setLoop i a).leaveAfter n st theta).crest
    c.state = (if n ≤ s.crest.run then st else s.crest.state) ∧ c.integ = i ∧ c.addend = a ∧ c.step = s.crest.step ∧
      c.srvLost = s.crest.srvLost := by
  have hrun : (s.setLoop i a).crest.run = s.crest.run := rfl
  simp only [State.leaveAfter, hrun]
  split <;> exact ⟨rfl, rfl, rfl, rfl, rfl⟩

theorem State.pendStep_regsBut : RegsBut [(.crestSrvSta, 0)] s (s.pendStep theta) :=
  State.set_regsBut_of_mem (f := .crestSrvStaStepPending) _ (fun _ _ _ => rfl) List.mem_cons_self

theorem State.pendStep_keepsBut : KeepsBut [.regs, .crest] s (s.pendStep theta) :=
  State.set_keepsBut_of_mem _ _ _ ((s.setCrest_keepsBut _).mono (by simp)) List.mem_cons_self

theorem State.process_regsBut : RegsBut [(.crestSrvSta, 0)] s (s.process theta) := by
  rcases s.process_cases theta with h | ⟨i, a, h | ⟨st, h⟩⟩ <;> rw [h]
  · exact s.pendStep_regsBut theta
  all_goals exact fun _ _ _ => rfl

theorem State.process_keepsBut : KeepsBut [.regs, .crest] s (s.process theta) := by
  rcases s.process_cases theta with h | ⟨i, a, h | ⟨st, h⟩⟩ <;> rw [h]
  · exact s.pendStep_keepsBut theta
  · exact (s.setCrest_keepsBut _).mono (by simp)
  · exact (s.setCrest_keepsBut _).mono (by simp)

theorem State.process_carried : (s.process theta).crest.carried = s.crest.carried := by
  rcases s.process_cases theta with h | ⟨i, a, h | ⟨st, h⟩⟩ <;> rw [h] <;> rfl

/-- What a sample does to the Crest on its arrival. -/
def State.arriveCrest : Crest :=
  match s.crest.state with
  | .free => { s.crest with integ := 0, state := .acquire, run := bit (decide (theta.natAbs ≤ s.lockThr)) }
  | .acquire => { s.crest with run := if theta.natAbs ≤ s.lockThr then s.crest.run + 1 else 0 }
  | .locked => { s.crest with run := if s.unlockThr < theta.natAbs then s.crest.run + 1 else 0 }
  | .holdover =>
    if theta.natAbs ≤ s.lockThr then
      { s.crest with srvLost := false, state := .locked, run := bit (decide (s.unlockThr < theta.natAbs)) }
    else { s.crest with srvLost := false, state := .acquire, run := bit (decide (theta.natAbs ≤ s.lockThr)) }

theorem State.arrive_eq : s.arrive theta = { s with crest := s.arriveCrest theta } := by
  unfold State.arrive State.arriveCrest
  cases hst : s.crest.state
  · rfl
  · simp only [State.countRun, hst, decide_eq_true_eq]
  · simp only [State.countRun, hst, decide_eq_true_eq]
  · by_cases hlock : theta.natAbs ≤ s.lockThr
    · simp only [if_pos hlock]
      rfl
    · simp only [if_neg hlock]
      rfl

theorem State.arriveCrest_carried : (s.arriveCrest theta).carried = s.crest.carried := by
  unfold State.arriveCrest
  split
  · rfl
  · rfl
  · rfl
  · split <;> rfl

/-- The Crest after a sample that arrives and is processed. -/
abbrev State.servedCrest : Crest := ((s.arrive theta).process theta).crest

theorem State.arrive_regs : (s.arrive theta).regs = s.regs := by rw [s.arrive_eq]

theorem State.arrive_crest : (s.arrive theta).crest = s.arriveCrest theta := by rw [s.arrive_eq]

theorem State.steps_arrive : (s.arrive theta).steps theta ↔ s.steps theta := by
  have hregs := s.arrive_regs theta
  simp only [State.steps, State.stepThr, State.is, State.srvBank_of_regs hregs, State.get_of_regs hregs]

theorem State.lckLoop_arrive : (s.arrive theta).lckLoop theta = (s.arrive theta).setLoop
    (s.loopInteg (s.arriveCrest theta).integ (s.get .crestGainLckKi s.srvBank) theta)
    (s.loopAddend (s.arriveCrest theta).integ (s.get .crestGainLckKp s.srvBank) (s.get .crestGainLckKi s.srvBank) theta) := by
  have hregs := s.arrive_regs theta
  simp only [State.lckLoop, State.srvBank_of_regs hregs, State.loopInteg_of_regs hregs, State.loopAddend_of_regs hregs,
    State.get_of_regs hregs, s.arrive_crest]

theorem State.acqLoop_arrive : (s.arrive theta).acqLoop theta = (s.arrive theta).setLoop
    (s.loopInteg (s.arriveCrest theta).integ (s.get .crestGainAcqKi s.srvBank) theta)
    (s.loopAddend (s.arriveCrest theta).integ (s.get .crestGainAcqKp s.srvBank) (s.get .crestGainAcqKi s.srvBank) theta) := by
  have hregs := s.arrive_regs theta
  simp only [State.acqLoop, State.srvBank_of_regs hregs, State.loopInteg_of_regs hregs, State.loopAddend_of_regs hregs,
    State.get_of_regs hregs, s.arrive_crest]

/-- A sample that LOCKED processes. -/
theorem State.servedCrest_inLocked (hst : (s.arriveCrest theta).state ≠ .acquire) :
    let c := s.arriveCrest theta
    (s.servedCrest theta).state = (if 4 ≤ c.run then .acquire else c.state) ∧
    (s.servedCrest theta).integ = s.loopInteg c.integ (s.get .crestGainLckKi s.srvBank) theta ∧
    (s.servedCrest theta).addend = s.loopAddend c.integ (s.get .crestGainLckKp s.srvBank) (s.get .crestGainLckKi s.srvBank) theta ∧
    (s.servedCrest theta).step = c.step ∧ (s.servedCrest theta).srvLost = c.srvLost := by
  have hproc : (s.arrive theta).process theta = (s.arrive theta).inLocked theta := if_neg (by rwa [s.arrive_crest])
  rw [State.servedCrest, hproc, State.inLocked_eq, s.lckLoop_arrive, ← s.arrive_crest]
  exact State.leaveAfter_setLoop _ theta _ _ 4 .acquire

/-- A sample that ACQUIRE processes without a step. -/
theorem State.servedCrest_inAcquire (hst : (s.arriveCrest theta).state = .acquire) (hstep : ¬ s.steps theta) :
    let c := s.arriveCrest theta
    (s.servedCrest theta).state = (if s.get .crestSrvThrLockCnt s.srvBank ≤ c.run then .locked else c.state) ∧
    (s.servedCrest theta).integ = s.loopInteg c.integ (s.get .crestGainAcqKi s.srvBank) theta ∧
    (s.servedCrest theta).addend = s.loopAddend c.integ (s.get .crestGainAcqKp s.srvBank) (s.get .crestGainAcqKi s.srvBank) theta ∧
    (s.servedCrest theta).step = c.step ∧ (s.servedCrest theta).srvLost = c.srvLost := by
  have hregs := s.arrive_regs theta
  have hproc : (s.arrive theta).process theta = (s.arrive theta).inAcquire theta := if_pos (by rwa [s.arrive_crest])
  rw [State.servedCrest, hproc, State.inAcquire_of_loop _ theta (mt (s.steps_arrive theta).1 hstep), s.acqLoop_arrive, ← s.arrive_crest,
    State.get_of_regs hregs, State.srvBank_of_regs hregs]
  exact State.leaveAfter_setLoop _ theta _ _ _ .locked

/-- A sample that ACQUIRE processes with a step. -/
theorem State.servedCrest_step (hst : (s.arriveCrest theta).state = .acquire) (hstep : s.steps theta) :
    s.servedCrest theta = { s.arriveCrest theta with step := some theta } ∧
      ((s.arrive theta).process theta).get .crestSrvStaStepPending = 1 := by
  rw [← s.steps_arrive] at hstep
  rw [← s.arrive_crest] at hst ⊢
  have hproc : (s.arrive theta).process theta = (s.arrive theta).pendStep theta :=
    (if_pos hst).trans (State.inAcquire_of_step _ theta hstep)
  rw [State.servedCrest, hproc]
  exact ⟨rfl, State.get_set_self _ .crestSrvStaStepPending 0 1 (by decide) (by decide)⟩

/-! ### The rows of R51 -/

theorem State.served_locked (h : s.crest.state = .locked) :
    (s.servedCrest theta).state = (if s.unlockThr < theta.natAbs ∧ 3 ≤ s.crest.run then .acquire else .locked) ∧
    (s.servedCrest theta).integ = s.loopInteg s.crest.integ (s.get .crestGainLckKi s.srvBank) theta ∧
    (s.servedCrest theta).addend =
      s.loopAddend s.crest.integ (s.get .crestGainLckKp s.srvBank) (s.get .crestGainLckKi s.srvBank) theta ∧
    (s.servedCrest theta).step = s.crest.step := by
  have harr : s.arriveCrest theta = { s.crest with run := if s.unlockThr < theta.natAbs then s.crest.run + 1 else 0 } := by
    simp only [State.arriveCrest, h]
  have hne : (s.arriveCrest theta).state ≠ .acquire := by
    rw [harr]
    exact h.trans_ne (by decide)
  obtain ⟨hst, hi, ha, hstep, -⟩ := s.servedCrest_inLocked theta hne
  rw [hst, hi, ha, hstep, harr]
  have hrun : 4 ≤ (if s.unlockThr < theta.natAbs then s.crest.run + 1 else 0) ↔ s.unlockThr < theta.natAbs ∧ 3 ≤ s.crest.run := by
    split <;> omega
  simp only [hrun, h, and_self]

theorem State.served_holdover_near (h : s.crest.state = .holdover) (hlock : theta.natAbs ≤ s.lockThr) :
    (s.servedCrest theta).state = .locked ∧ (s.servedCrest theta).srvLost = false ∧
    (s.servedCrest theta).integ = s.loopInteg s.crest.integ (s.get .crestGainLckKi s.srvBank) theta := by
  have harr : s.arriveCrest theta =
      { s.crest with srvLost := false, state := .locked, run := bit (decide (s.unlockThr < theta.natAbs)) } := by
    simp only [State.arriveCrest, h, hlock, if_true]
  have hne : (s.arriveCrest theta).state ≠ .acquire := by
    rw [harr]
    exact ServoState.noConfusion
  obtain ⟨hst, hi, -, -, hlost⟩ := s.servedCrest_inLocked theta hne
  have hrun : ¬ 4 ≤ bit (decide (s.unlockThr < theta.natAbs)) := by
    unfold bit
    split <;> omega
  rw [hst, hi, hlost, harr]
  exact ⟨if_neg hrun, rfl, rfl⟩

theorem State.served_holdover_far (h : s.crest.state = .holdover) (hlock : s.lockThr < theta.natAbs)
    (hcnt : 0 < s.get .crestSrvThrLockCnt s.srvBank) :
    (s.servedCrest theta).state = .acquire ∧ (s.servedCrest theta).srvLost = false := by
  have harr : s.arriveCrest theta = { s.crest with srvLost := false, state := .acquire, run := 0 } := by
    simp only [State.arriveCrest, h, Nat.not_le.2 hlock, if_false, decide_false]
    rfl
  have hst : (s.arriveCrest theta).state = .acquire := by rw [harr]
  by_cases hstep : s.steps theta
  · rw [(s.servedCrest_step theta hst hstep).1, harr]
    exact ⟨rfl, rfl⟩
  · obtain ⟨hst', -, -, -, hlost⟩ := s.servedCrest_inAcquire theta hst hstep
    rw [hst', hlost, harr]
    exact ⟨if_neg (Nat.not_le.2 hcnt), rfl⟩

/-- FREE and ACQUIRE let a sample beyond the step threshold step. -/
theorem State.served_early_step (h : s.crest.state = .free ∨ s.crest.state = .acquire) (hstep : s.steps theta) :
    (s.servedCrest theta).state = .acquire ∧ (s.servedCrest theta).step = some theta ∧
    (s.servedCrest theta).addend = s.crest.addend ∧ ((s.arrive theta).process theta).get .crestSrvStaStepPending = 1 := by
  have harr : (s.arriveCrest theta).state = .acquire ∧ (s.arriveCrest theta).addend = s.crest.addend := by
    rcases h with h | h <;> simp only [State.arriveCrest, h, and_self]
  obtain ⟨hcrest, hpending⟩ := s.servedCrest_step theta harr.1 hstep
  rw [hcrest]
  exact ⟨harr.1, rfl, harr.2, hpending⟩

theorem State.served_acquire (h : s.crest.state = .acquire) (hstep : ¬ s.steps theta) (hcnt : 0 < s.get .crestSrvThrLockCnt s.srvBank) :
    (s.servedCrest theta).state =
      (if theta.natAbs ≤ s.lockThr ∧ s.get .crestSrvThrLockCnt s.srvBank ≤ s.crest.run + 1 then .locked else .acquire) ∧
    (s.servedCrest theta).integ = s.loopInteg s.crest.integ (s.get .crestGainAcqKi s.srvBank) theta ∧
    (s.servedCrest theta).addend =
      s.loopAddend s.crest.integ (s.get .crestGainAcqKp s.srvBank) (s.get .crestGainAcqKi s.srvBank) theta ∧
    (s.servedCrest theta).step = s.crest.step := by
  have harr : s.arriveCrest theta = { s.crest with run := if theta.natAbs ≤ s.lockThr then s.crest.run + 1 else 0 } := by
    simp only [State.arriveCrest, h]
  have hacq : (s.arriveCrest theta).state = .acquire := by
    rw [harr]
    exact h
  obtain ⟨hst, hi, ha, hnone, -⟩ := s.servedCrest_inAcquire theta hacq hstep
  rw [hst, hi, ha, hnone, harr]
  have hrun : s.get .crestSrvThrLockCnt s.srvBank ≤ (if theta.natAbs ≤ s.lockThr then s.crest.run + 1 else 0) ↔
      theta.natAbs ≤ s.lockThr ∧ s.get .crestSrvThrLockCnt s.srvBank ≤ s.crest.run + 1 := by
    split <;> omega
  simp only [hrun, h, and_self]

end Serve

/-! ### Accepted samples -/

/-- A sample is counted and noted as accepted, before the servo processes it. -/
def State.countSample (s : State) (x : Sample) : State :=
  let u := (s.noteTqw.bump .crestSampleCntAccepted).set .crestSrvStaLastTheta 0 (quarterNs x.theta).toNat
  { u with crest := { u.crest with thetas := (x.theta.natAbs :: u.crest.thetas).take 16, lastSample := u.elapsed } }

section Count
variable (s : State) (x : Sample)

theorem State.countSample_reg (r : RegName) (i : Nat) : (s.countSample x).reg r i =
    ((s.noteTqw.bump .crestSampleCntAccepted).set .crestSrvStaLastTheta 0 (quarterNs x.theta).toNat).reg r i := rfl

theorem State.countSample_regsBut : RegsBut [(.crestSampleCnt, 0), (.crestSrvSta, 0)] s (s.countSample x) := by
  have hcount : RegsBut [(.crestSampleCnt, 0), (.crestSrvSta, 0)] s (s.noteTqw.bump .crestSampleCntAccepted) :=
    State.set_regsBut_of_mem (f := .crestSampleCntAccepted) _ (fun _ _ _ => rfl) List.mem_cons_self
  have hlast := State.set_regsBut_of_mem (f := .crestSrvStaLastTheta) (quarterNs x.theta).toNat hcount (i := 0) (by simp)
  exact fun r i hm => (s.countSample_reg x r i).trans (hlast r i hm)

theorem State.countSample_keepsBut : KeepsBut [.regs, .crest] s (s.countSample x) := by
  have hset : KeepsBut [.regs, .crest] s ((s.noteTqw.bump .crestSampleCntAccepted).set .crestSrvStaLastTheta 0 (quarterNs x.theta).toNat) :=
    State.set_keepsBut_of_mem _ _ _ (State.set_keepsBut_of_mem .crestSampleCntAccepted _ _ (s.noteTqw_keepsBut.mono (by simp))
      List.mem_cons_self) List.mem_cons_self
  exact hset.trans ((State.setCrest_keepsBut _ _).mono (by simp))

theorem State.get_accepted_countSample :
    (s.countSample x).get .crestSampleCntAccepted = (s.get .crestSampleCntAccepted + 1) % 2 ^ 64 := by
  rw [State.get, State.countSample_reg, State.reg_set_of_ne _ _ (.inl (by decide))]
  exact s.noteTqw.get_bump_self .crestSampleCntAccepted 0 1 (by decide) (by decide)

theorem State.srvBank_countSample : (s.countSample x).srvBank = s.srvBank := by
  have hlast := State.get_set_beside (s.noteTqw.bump .crestSampleCntAccepted) (f := .crestSrvStaLastTheta) (g := .crestSrvStaActiveBank)
    (i := 0) (quarterNs x.theta).toNat rfl (by decide) (by decide) (by decide)
  have hcount := State.get_set_of_ne s.noteTqw (f := .crestSampleCntAccepted) (g := .crestSrvStaActiveBank) (i := 0) (j := 0)
    (s.noteTqw.get .crestSampleCntAccepted + 1) (.inl (by decide))
  rw [State.srvBank, State.get, State.countSample_reg]
  exact hlast.trans hcount

/-- Counting a sample leaves the servo's configuration. -/
theorem State.get_countSample {f : Fld} (h : f.reg ≠ .crestSampleCnt ∧ f.reg ≠ .crestSrvSta) (i : Nat) :
    (s.countSample x).get f i = s.get f i := by
  rw [State.get, s.countSample_regsBut x f.reg i (by simp [h]), State.get]

theorem State.lockThr_countSample : (s.countSample x).lockThr = s.lockThr := by
  rw [State.lockThr, State.srvBank_countSample, s.get_countSample x (by decide), State.lockThr]

theorem State.unlockThr_countSample : (s.countSample x).unlockThr = s.unlockThr := by
  rw [State.unlockThr, State.srvBank_countSample, s.get_countSample x (by decide), State.unlockThr]

theorem State.steps_countSample (theta : Int) : (s.countSample x).steps theta ↔ s.steps theta := by
  rw [State.steps, State.stepThr, State.is, State.srvBank_countSample, s.get_countSample x (by decide), s.get_countSample x (by decide)]
  rfl

theorem State.loopInteg_countSample (i : Int) (ki : Nat) (theta : Int) :
    (s.countSample x).loopInteg i ki theta = s.loopInteg i ki theta := by
  rw [State.loopInteg, State.srvBank_countSample, s.get_countSample x (by decide), State.loopInteg]

theorem State.loopAddend_countSample (i : Int) (kp ki : Nat) (theta : Int) :
    (s.countSample x).loopAddend i kp ki theta = s.loopAddend i kp ki theta := by
  rw [State.loopAddend, State.srvBank_countSample, State.loopInteg_countSample, s.get_countSample x (by decide),
    s.get_countSample x (by decide), State.loopAddend]

/-- An accepted sample that may do more than step: it is counted, arrives, and is processed. -/
theorem State.acceptSample_eq (h : x.pps = true ∨ s.get .crestSrvCfgSrc s.srvBank = 1) :
    s.acceptSample x = (((s.countSample x).arrive x.theta).process x.theta).noteTqw := by
  have honly : (!x.pps && (s.countSample x).get .crestSrvCfgSrc (s.countSample x).srvBank == 2) = false := by
    rw [State.srvBank_countSample, s.get_countSample x (by decide)]
    rcases h with h | h <;> simp [h]
  unfold State.acceptSample
  extract_lets u c v only w a
  have hv : v = s.countSample x := rfl
  have hno : only = false := honly
  rw [hno, if_neg Bool.false_ne_true, State.process, ← hv]

end Count

theorem completes_discard {s : State} {x : Sample} {l : List Sample} (h : s.crest.samples = x :: l) (hbad : s.discards x) :
    Completes .servoSample s (fun t => t.crest = { s.crest with samples := l } ∧
      t.get .crestSampleDiscDiscarded = (s.get .crestSampleDiscDiscarded + 1) % 2 ^ 64 ∧
      RegsBut [(.crestSampleDisc, 0)] s t ∧ KeepsBut [.regs, .crest] s t) := by
  let u : State := { s with crest := { s.crest with samples := l } }
  refine ⟨u.bump .crestSampleDiscDiscarded, (exec_servoSample_cons h).trans (by rw [if_pos ((s.sampleBad_iff x).2 hbad)]), rfl,
    u.get_bump_self .crestSampleDiscDiscarded 0 1 (by decide) (by decide), ?_, ?_⟩
  · exact State.set_regsBut_of_mem (f := .crestSampleDiscDiscarded) _ (fun _ _ _ => rfl) List.mem_cons_self
  · exact State.set_keepsBut_of_mem .crestSampleDiscDiscarded _ _ ((s.setCrest_keepsBut _).mono (by simp)) List.mem_cons_self

/-- Settles O15: a discarded sample is counted alone; an accepted one is counted, and each state's clause is its row of R51. -/
theorem servoSamples : Obligations.ServoSamples := by
  unfold Obligations.ServoSamples
  intro a th s
  refine ⟨⟨_, rfl, rfl, s.setCrest_keepsBut _⟩, ⟨_, exec_crestSampleOfs th s, s.submitSample_keepsBut _, rfl⟩, exec_servoSample_nil, ?_⟩
  intro x l hl b src mag lockT unlockT stepT lim integAfter addendAfter bad
  refine ⟨completes_discard hl, fun hgood hsrc hcnt => ?_⟩
  let u : State := { s with crest := { s.crest with samples := l } }
  let v := u.countSample x
  have hlock : v.lockThr = lockT := u.lockThr_countSample x
  have hunlock : v.unlockThr = unlockT := u.unlockThr_countSample x
  have hsteps : v.steps x.theta ↔ stepT < mag ∧ s.is .crestSrvCfgStepEn b = true := u.steps_countSample x x.theta
  have hinteg : ∀ i ki, v.loopInteg i ki x.theta = integAfter i ki := fun i ki => u.loopInteg_countSample x i ki x.theta
  have haddend : ∀ i kp ki, v.loopAddend i kp ki x.theta = addendAfter i kp ki := fun i kp ki => u.loopAddend_countSample x i kp ki x.theta
  have hbank : v.srvBank = b := u.srvBank_countSample x
  have hget : ∀ f : Fld, f.reg ≠ .crestSampleCnt ∧ f.reg ≠ .crestSrvSta → v.get f v.srvBank = s.get f b := fun f hf => by
    rw [hbank]
    exact u.get_countSample x hf b
  have hcnt' : v.get .crestSrvThrLockCnt v.srvBank = s.get .crestSrvThrLockCnt b := hget _ (by decide)
  have hstep : s.crest.step = none := State.step_none_of_not_discards hgood
  have hexec : exec .servoSample s = .next ((v.arrive x.theta).process x.theta).noteTqw :=
    (exec_servoSample_cons hl).trans (by rw [if_neg (mt (s.sampleBad_iff x).1 hgood), u.acceptSample_eq x hsrc])
  let w := (v.arrive x.theta).process x.theta
  have hcarried : w.crest.carried = (l, s.elapsed, s.crest.acc, s.crest.map) :=
    (State.process_carried _ _).trans ((congrArg Crest.carried (v.arrive_crest x.theta)).trans (v.arriveCrest_carried x.theta))
  simp only [Crest.carried, Prod.mk.injEq] at hcarried
  obtain ⟨hsamples, hlast, hacc, hmap⟩ := hcarried
  have hregs : RegsBut [(.crestSrvSta, 0)] v w := fun r i hm =>
    (State.process_regsBut _ x.theta r i hm).trans (by rw [State.reg, v.arrive_regs, State.reg])
  have hkeep : KeepsBut [.regs, .crest] v w := by
    refine KeepsBut.trans ?_ (State.process_keepsBut _ x.theta)
    rw [v.arrive_eq]
    exact (v.setCrest_keepsBut _).mono (by simp)
  have haccepted : w.get .crestSampleCntAccepted = (s.get .crestSampleCntAccepted + 1) % 2 ^ 64 := by
    rw [State.get, hregs _ _ (by decide), ← State.get]
    exact u.get_accepted_countSample x
  refine ⟨_, hexec, hsamples, haccepted, hlast, hacc, hmap, fun r i hm => ?_, ?_, fun hst => ?_, fun hst hmag => ?_, fun hst hmag => ?_,
    fun hst hfar hen => ?_, fun hst hnear => ?_⟩
  · simp only [List.mem_cons, List.not_mem_nil, or_false, not_or] at hm
    exact (hregs r i (by simp [hm.2])).trans (u.countSample_regsBut x r i (by simp [hm]))
  · have hu : KeepsBut [.regs, .crest] s u := (s.setCrest_keepsBut _).mono (by simp)
    exact ((hu.trans (u.countSample_keepsBut x)).trans hkeep).trans ((State.noteTqw_keepsBut w).mono (by simp))
  · obtain ⟨hstate, hi, ha, hnone⟩ := v.served_locked x.theta hst
    rw [hunlock] at hstate
    rw [hinteg, hget _ (by decide)] at hi
    rw [haddend, hget _ (by decide), hget _ (by decide)] at ha
    exact ⟨hstate, hi, ha, hnone.trans hstep⟩
  · obtain ⟨hstate, hlost, hi⟩ := v.served_holdover_near x.theta hst (hlock ▸ hmag)
    rw [hinteg, hget _ (by decide)] at hi
    exact ⟨hstate, hlost, hi⟩
  · exact v.served_holdover_far x.theta hst (hlock ▸ hmag) (hcnt' ▸ hcnt)
  · exact v.served_early_step x.theta hst (hsteps.2 ⟨hfar, hen⟩)
  · obtain ⟨hstate, hi, ha, hnone⟩ := v.served_acquire x.theta hst (mt hsteps.1 hnear) (hcnt' ▸ hcnt)
    rw [hlock, hcnt'] at hstate
    rw [hinteg, hget _ (by decide)] at hi
    rw [haddend, hget _ (by decide), hget _ (by decide)] at ha
    exact ⟨hstate, hi, ha, hnone.trans hstep⟩

end Sys2Proof.Machine
end

section
/-! PROOFS. Compare units and PPS_OUT: what an action and a firing change, which units fire, and the statement O18. -/

namespace Sys2Proof.Machine

/-! ### What the action of a compare unit can do (R65, R66) -/

/-- A compare unit's write of a trigger block's level. -/
def State.putTto (s : State) (j : Nat) (b : Bool) : State := { s with crest := { s.crest with tto := SMap.put s.crest.tto j (some b) } }

/-- An action acts outside the Crest, drives a trigger block, arms the bank swap, or is found stale. -/
theorem State.cmpAction_cases (s : State) (k : Nat) : (s.cmpAction k).still = s.still ∨ (∃ j b, s.cmpAction k = s.putTto j b) ∨
    s.cmpAction k = s.armBankSwap ∨ s.cmpAction k = s.cmpStale k := by
  unfold State.cmpAction
  extract_lets a j ref
  split
  · split
    · exact .inr (.inl ⟨j, _, rfl⟩)
    · exact .inl rfl
  split
  · split
    · split
      · exact .inr (.inr (.inl rfl))
      · exact .inr (.inr (.inr rfl))
    · split
      · exact .inl (s.armTm_still _ _ _)
      · exact .inr (.inr (.inr rfl))
    · split
      · exact .inl (s.armCol_still _ _)
      · exact .inr (.inr (.inr rfl))
    · exact .inr (.inr (.inr rfl))
  split
  · split
    · split
      · exact .inl (s.raiseGroup_still _ _)
      · exact .inr (.inr (.inr rfl))
    · exact .inr (.inr (.inr rfl))
  split
  · exact .inl (State.still_of_unsent (s.signal_unsent _ _))
  · exact .inl rfl

section Action
variable (s : State) (k : Nat)

/-- Of the Crest an action changes the levels of trigger blocks alone. -/
theorem State.cmpAction_crest : ∃ m, (s.cmpAction k).crest = { s.crest with tto := m } := by
  rcases s.cmpAction_cases k with h | ⟨j, b, h⟩ | h | h
  · exact ⟨s.crest.tto, State.crest_of_still h⟩
  all_goals exact ⟨_, by rw [h]; rfl⟩

/-- Of the Crest's registers an action changes the unit's and the servo's status alone. -/
theorem State.cmpAction_reg {r : RegName} (hr : r.still = true ∧ r ≠ .crestSrvSta ∧ r ≠ .crestCmpSta) (i : Nat) :
    (s.cmpAction k).reg r i = s.reg r i := by
  obtain ⟨hstill, hsrv, hcmp⟩ := hr
  rcases s.cmpAction_cases k with h | ⟨j, b, h⟩ | h | h
  · exact State.reg_of_still h hstill i
  · rw [h]
    rfl
  · rw [h]
    exact s.reg_set_of_ne (f := .crestSrvStaSwapPending) 1 (.inl hsrv)
  · rw [h]
    exact s.reg_set_of_ne (f := .crestCmpStaStale) 1 (.inl hcmp)

theorem State.cmpAction_of_tto (ha : s.get .crestCmpCfgAction k = 1 ∨ s.get .crestCmpCfgAction k = 2 ∨ s.get .crestCmpCfgAction k = 3)
    (hen : s.is .crestTtoCfgEn (s.get .crestCmpCfgTto k) = true) : s.cmpAction k =
      s.putTto (s.get .crestCmpCfgTto k) (ttoLevel (s.get .crestCmpCfgAction k) (s.ttoDrive (s.get .crestCmpCfgTto k))) := by
  have hcond : (s.get .crestCmpCfgAction k = 1 || s.get .crestCmpCfgAction k = 2 || s.get .crestCmpCfgAction k = 3) = true := by
    simpa [or_assoc] using ha
  rw [State.cmpAction, if_pos hcond, if_pos hen]
  rfl

theorem State.cmpAction_of_swap (ha : s.get .crestCmpCfgAction k = 4) (hb : refBlk (s.reg .crestCmpRef k) = some ⟨.timeBase, 0⟩)
    (hc : s.refCurrent (s.reg .crestCmpRef k) = true) : s.cmpAction k = s.armBankSwap := by
  simp [State.cmpAction, ha, hb, hc]

theorem State.cmpAction_of_unnamed (ha : s.get .crestCmpCfgAction k = 4 ∨ s.get .crestCmpCfgAction k = 5)
    (hb : refBlk (s.reg .crestCmpRef k) = none) : s.cmpAction k = s.cmpStale k := by
  rcases ha with ha | ha <;> simp [State.cmpAction, ha, hb]

theorem State.cmpAction_of_vec (ha : s.get .crestCmpCfgAction k = 6) : s.cmpAction k = s.signal 0 (s.get .crestCmpCfgVec k) := by
  simp [State.cmpAction, ha]

end Action

/-! ### A firing -/

/-- A fired unit disarms, or is armed again at its target plus the period. -/
def State.rearm (s : State) (k : Nat) (t per : BitVec 64) : State :=
  if per = 0 then { s with crest := { s.crest with cmpTarget := SMap.put s.crest.cmpTarget k none } }.set .crestCmpStaArmed k 0
  else { s with crest := { s.crest with cmpTarget := SMap.put s.crest.cmpTarget k (some (t + per)) } }

/-- The target of a unit with the period after a firing. -/
def nextTarget (t per : BitVec 64) : Option (BitVec 64) := if per = 0 then none else some (t + per)

section Rearm
variable (s : State) (k : Nat) (t per : BitVec 64)

theorem State.rearm_crest :
    (s.rearm k t per).crest = { s.crest with cmpTarget := SMap.put s.crest.cmpTarget k (nextTarget t per) } := by
  unfold State.rearm nextTarget
  split <;> rfl

theorem State.rearm_tto : (s.rearm k t per).crest.tto = s.crest.tto := by
  unfold State.rearm
  split <;> rfl

theorem State.rearm_reg {r : RegName} (hr : r ≠ .crestCmpSta) (i : Nat) : (s.rearm k t per).reg r i = s.reg r i := by
  unfold State.rearm
  split
  · exact State.reg_set_of_ne _ (f := .crestCmpStaArmed) 0 (.inl hr)
  · rfl

theorem State.rearm_out : (s.rearm k t per).out = s.out := by
  unfold State.rearm
  split <;> rfl

theorem State.get_stale_rearm : (s.rearm k t per).get .crestCmpStaStale k = s.get .crestCmpStaStale k := by
  unfold State.rearm
  split
  · exact State.get_set_beside _ (f := .crestCmpStaArmed) (g := .crestCmpStaStale) 0 rfl (by decide) (by decide) (by decide)
  · rfl

theorem State.get_armed_rearm (h : per = 0) : (s.rearm k t per).get .crestCmpStaArmed k = 0 := by
  rw [State.rearm, if_pos h]
  exact State.get_set_self _ .crestCmpStaArmed k 0 (by decide) (by decide)

end Rearm

/-- A unit's firing counted. -/
abbrev State.counted (s : State) (k : Nat) : State := s.bump .crestCmpFireFires k

theorem State.counted_reg (s : State) (k : Nat) {r : RegName} (hr : r ≠ .crestCmpFire) (i : Nat) : (s.counted k).reg r i = s.reg r i :=
  s.reg_set_of_ne (f := .crestCmpFireFires) _ (.inl hr)

theorem State.counted_get (s : State) (k : Nat) {f : Fld} (hf : f.reg ≠ .crestCmpFire) (i : Nat) : (s.counted k).get f i = s.get f i := by
  rw [State.get, s.counted_reg k hf, State.get]

theorem State.fireUnit_of_none (s : State) {k : Nat} (h : SMap.find s.crest.cmpTarget k = none) : s.fireUnit k = s := by
  simp only [State.fireUnit, h]

section Fire
variable (s : State) {k : Nat} {t0 : BitVec 64} (h : SMap.find s.crest.cmpTarget k = some t0)
include h

theorem State.fireUnit_of_some : s.fireUnit k = ((s.counted k).cmpAction k).rearm k t0 (s.reg .crestCmpPer k) := by
  have hper : ((s.counted k).cmpAction k).reg .crestCmpPer k = s.reg .crestCmpPer k :=
    (State.cmpAction_reg _ k (by decide) k).trans (s.counted_reg k (by decide) k)
  rw [← hper]
  simp only [State.fireUnit, h]
  rfl

/-- Of the Crest a firing changes the levels of trigger blocks and the unit's target. -/
theorem State.fireUnit_crest : ∃ m, (s.fireUnit k).crest =
    { s.crest with tto := m, cmpTarget := SMap.put s.crest.cmpTarget k (nextTarget t0 (s.reg .crestCmpPer k)) } := by
  obtain ⟨m, hm⟩ := (s.counted k).cmpAction_crest k
  exact ⟨m, by rw [s.fireUnit_of_some h, State.rearm_crest, hm]; rfl⟩

theorem State.fireUnit_fires : (s.fireUnit k).get .crestCmpFireFires k = (s.get .crestCmpFireFires k + 1) % 2 ^ 64 := by
  rw [s.fireUnit_of_some h, State.get, State.rearm_reg _ _ _ _ (by decide), State.cmpAction_reg _ _ (by decide)]
  exact s.get_bump_self .crestCmpFireFires k 1 (by decide) (by decide)

end Fire

section Fired
variable (s : State) (k : Nat)

/-- A firing leaves every register of the Crest but the counts and status of units and the servo's status. -/
theorem State.fireUnit_reg {r : RegName} (hr : r.still = true ∧ r ≠ .crestSrvSta ∧ r ≠ .crestCmpSta) {i : Nat}
    (hi : r ≠ .crestCmpFire ∨ i ≠ k) : (s.fireUnit k).reg r i = s.reg r i := by
  cases h : SMap.find s.crest.cmpTarget k with
  | none => rw [s.fireUnit_of_none h]
  | some t0 =>
    rw [s.fireUnit_of_some h, State.rearm_reg _ _ _ _ hr.2.2, State.cmpAction_reg _ _ hr]
    exact s.reg_set_of_ne (f := .crestCmpFireFires) _ hi

theorem State.fireUnit_acc : (s.fireUnit k).crest.acc = s.crest.acc := by
  cases h : SMap.find s.crest.cmpTarget k with
  | none => rw [s.fireUnit_of_none h]
  | some t0 =>
    obtain ⟨m, hm⟩ := s.fireUnit_crest h
    rw [hm]

theorem State.lt_of_acc {s t : State} (h : t.crest.acc = s.crest.acc) : t.lt = s.lt := by rw [State.lt, h, State.lt]

theorem State.fireUnit_lt : (s.fireUnit k).lt = s.lt := State.lt_of_acc (s.fireUnit_acc k)

theorem State.find_fireUnit_of_ne {j : Nat} (hj : j ≠ k) :
    SMap.find (s.fireUnit k).crest.cmpTarget j = SMap.find s.crest.cmpTarget j := by
  cases h : SMap.find s.crest.cmpTarget k with
  | none => rw [s.fireUnit_of_none h]
  | some t0 =>
    obtain ⟨m, hm⟩ := s.fireUnit_crest h
    rw [hm]
    exact SMap.find_put_of_ne _ _ hj

end Fired

/-! ### Which units fire (R66) -/

theorem State.cmpDue_iff (s : State) (k : Nat) :
    s.cmpDue k = true ↔ ∃ t0, SMap.find s.crest.cmpTarget k = some t0 ∧ 0 ≤ ltDiff s.lt t0 := by
  unfold State.cmpDue
  cases SMap.find s.crest.cmpTarget k <;> simp [ltReached]

/-- A unit fires if it is due. -/
def State.fireIfDue (s : State) (j : Nat) : State := if s.cmpDue j then s.fireUnit j else s

section Due
variable (s : State) (j : Nat)

theorem State.fireIfDue_acc : (s.fireIfDue j).crest.acc = s.crest.acc := by
  unfold State.fireIfDue
  split
  · exact s.fireUnit_acc j
  · rfl

theorem State.fireIfDue_reg {r : RegName} (hr : r.still = true ∧ r ≠ .crestSrvSta ∧ r ≠ .crestCmpSta) {i : Nat}
    (hi : r ≠ .crestCmpFire ∨ i ≠ j) : (s.fireIfDue j).reg r i = s.reg r i := by
  unfold State.fireIfDue
  split
  · exact s.fireUnit_reg j hr hi
  · rfl

theorem State.find_fireIfDue_of_ne {k : Nat} (hk : k ≠ j) :
    SMap.find (s.fireIfDue j).crest.cmpTarget k = SMap.find s.crest.cmpTarget k := by
  unfold State.fireIfDue
  split
  · exact s.find_fireUnit_of_ne j hk
  · rfl

/-- Whether another unit is due is left open by a firing. -/
theorem State.cmpDue_fireIfDue_of_ne {k : Nat} (hk : k ≠ j) : (s.fireIfDue j).cmpDue k = s.cmpDue k := by
  rw [State.cmpDue, s.find_fireIfDue_of_ne j hk, State.lt_of_acc (s.fireIfDue_acc j), State.cmpDue]

end Due

/-- The firings of the units of a list, in its order. -/
abbrev State.fireList (s : State) (l : List Nat) : State := l.foldl State.fireIfDue s

theorem State.fireList_of_none_due (s : State) {l : List Nat} (h : ∀ j ∈ l, s.cmpDue j = false) : s.fireList l = s := by
  induction l with
  | nil => rfl
  | cons j l ih =>
    have hj : s.fireIfDue j = s := if_neg (by rw [h j List.mem_cons_self]; decide)
    rw [State.fireList, List.foldl_cons, hj]
    exact ih (fun i hi => h i (List.mem_cons_of_mem _ hi))

theorem State.fireDue_eq_fireList (s : State) : s.fireDue = s.fireList (List.range 64) := by
  by_cases hempty : s.crest.cmpTarget.isEmpty
  · have hnone : s.crest.cmpTarget = [] := List.isEmpty_iff.1 hempty
    rw [s.fireList_of_none_due (fun j _ => by rw [State.cmpDue, hnone]; rfl)]
    exact if_pos hempty
  · exact if_neg hempty

theorem State.fireDue_acc (s : State) : s.fireDue.crest.acc = s.crest.acc := by
  have hlist : ∀ l, (s.fireList l).crest.acc = s.crest.acc := fun l => foldl_keeps (fun t => t.crest.acc) State.fireIfDue_acc l s
  rw [s.fireDue_eq_fireList, hlist]

theorem State.fireDue_of_none_due (s : State) (h : ∀ j, j < 64 → s.cmpDue j = false) : s.fireDue = s := by
  rw [s.fireDue_eq_fireList, s.fireList_of_none_due (fun j hj => h j (List.mem_range.1 hj))]

/-- Firings of other units leave a unit's count. -/
theorem State.fires_fireList_of_notMem (s : State) {l : List Nat} {k : Nat} (hk : k ∉ l) :
    (s.fireList l).get .crestCmpFireFires k = s.get .crestCmpFireFires k := by
  induction l generalizing s with
  | nil => rfl
  | cons j l ih =>
    have hkj : k ≠ j := fun h => hk (h ▸ List.mem_cons_self)
    rw [State.fireList, List.foldl_cons]
    refine (ih (s.fireIfDue j) (fun h => hk (List.mem_cons_of_mem _ h))).trans ?_
    rw [State.get, s.fireIfDue_reg j (by decide) (.inr hkj), State.get]

/-- A due unit in the list fires once. -/
theorem State.fires_fireList (s : State) {l : List Nat} {k : Nat} (hl : l.Nodup) (hk : k ∈ l) (hdue : s.cmpDue k = true) :
    (s.fireList l).get .crestCmpFireFires k = (s.get .crestCmpFireFires k + 1) % 2 ^ 64 := by
  induction l generalizing s with
  | nil => exact absurd hk List.not_mem_nil
  | cons j l ih =>
    obtain ⟨hj, hl'⟩ := List.nodup_cons.1 hl
    rw [State.fireList, List.foldl_cons]
    by_cases hkj : k = j
    · subst hkj
      obtain ⟨t0, hfind, -⟩ := (s.cmpDue_iff k).1 hdue
      have hfire : s.fireIfDue k = s.fireUnit k := if_pos hdue
      rw [hfire]
      exact (State.fires_fireList_of_notMem _ hj).trans (s.fireUnit_fires hfind)
    · have hk' := (List.mem_cons.1 hk).resolve_left hkj
      refine (ih (s.fireIfDue j) hl' hk' ((s.cmpDue_fireIfDue_of_ne j hkj).trans hdue)).trans ?_
      rw [State.get, s.fireIfDue_reg j (by decide) (.inr hkj), State.get]

/-- The one due unit of a list is all that fires. -/
theorem State.fireList_of_one_due (s : State) {l : List Nat} {k : Nat} (hl : l.Nodup) (hk : k ∈ l) (hdue : s.cmpDue k = true)
    (hothers : ∀ j ∈ l, j ≠ k → s.cmpDue j = false) : s.fireList l = s.fireUnit k := by
  induction l with
  | nil => exact absurd hk List.not_mem_nil
  | cons j l ih =>
    obtain ⟨hj, hl'⟩ := List.nodup_cons.1 hl
    rw [State.fireList, List.foldl_cons]
    by_cases hkj : k = j
    · subst hkj
      have hfire : s.fireIfDue k = s.fireUnit k := if_pos hdue
      have hnone : ∀ i ∈ l, (s.fireIfDue k).cmpDue i = false := fun i hi => by
        have hik : i ≠ k := fun h => hj (h ▸ hi)
        rw [s.cmpDue_fireIfDue_of_ne k hik]
        exact hothers i (List.mem_cons_of_mem _ hi) hik
      exact (State.fireList_of_none_due _ hnone).trans hfire
    · have hskip : s.fireIfDue j = s := if_neg (by rw [hothers j List.mem_cons_self (Ne.symm hkj)]; decide)
      rw [hskip]
      exact ih hl' ((List.mem_cons.1 hk).resolve_left hkj) (fun i hi => hothers i (List.mem_cons_of_mem _ hi))

/-! ### CREST_CMP_ARM, CMP_FIRE and CREST_CMP_DIS (R64-R66) -/

/-- A state with another target of a unit. -/
def State.putTarget (s : State) (k : Nat) (t : Option (BitVec 64)) : State :=
  { s with crest := { s.crest with cmpTarget := SMap.put s.crest.cmpTarget k t } }

/-- A unit armed at a target, its refusal and staleness cleared. -/
def State.armUnit (s : State) (k : Nat) (target : BitVec 64) : State :=
  (((s.putTarget k (some target)).set .crestCmpStaArmed k 1).set .crestCmpStaRefused k 0).set .crestCmpStaStale k 0

section Arm
variable (s : State) (k : Nat) (target : BitVec 64)

theorem State.find_armUnit_self : SMap.find (s.armUnit k target).crest.cmpTarget k = some target := by
  have hput : (s.armUnit k target).crest.cmpTarget = SMap.put s.crest.cmpTarget k (some target) := rfl
  rw [hput, SMap.find_put_self]

theorem State.get_armUnit : (s.armUnit k target).get .crestCmpStaArmed k = 1 ∧ (s.armUnit k target).get .crestCmpStaRefused k = 0 ∧
    (s.armUnit k target).get .crestCmpStaStale k = 0 := by
  refine ⟨?_, ?_, ?_⟩ <;> simp (disch := decide) only [State.armUnit, State.get_set_beside, State.get_set_self] <;> rfl

theorem State.armUnit_regsBut : RegsBut [(.crestCmpSta, k)] s (s.armUnit k target) := by
  unfold State.armUnit
  iterate 3 refine State.set_regsBut_of_mem _ ?_ List.mem_cons_self
  exact fun _ _ _ => rfl

theorem State.armUnit_keepsBut : KeepsBut [.regs, .crest] s (s.armUnit k target) := by
  unfold State.armUnit
  iterate 3 refine State.set_keepsBut_of_mem _ _ _ ?_ List.mem_cons_self
  exact (s.setCrest_keepsBut _).mono (by simp)

end Arm

theorem exec_crestCmpArm (k : Fin 64) (target : BitVec 64) (s : State) : exec (.crestCmpArm k target) s =
    if 65536000 ≤ ltDiff target s.lt ∧ ltDiff target s.lt < 2 ^ 62 then .next (s.fireDue.armUnit k.val target)
    else .next (s.set .crestCmpStaRefused k.val 1) := rfl

section Unit
variable {k : Fin 64} {target : BitVec 64} (v : BitVec 32) {s : State}

theorem completes_crestCmpArm_refused (h : ¬ (65536000 ≤ ltDiff target s.lt ∧ ltDiff target s.lt < 2 ^ 62)) :
    Completes (.crestCmpArm k target) s (fun t => t.get .crestCmpStaRefused k.val = 1 ∧
      t.get .crestCmpStaArmed k.val = s.get .crestCmpStaArmed k.val ∧ t.get .crestCmpStaStale k.val = s.get .crestCmpStaStale k.val ∧
      RegsBut [(.crestCmpSta, k.val)] s t ∧ KeepsBut [.regs] s t) :=
  ⟨_, (exec_crestCmpArm k target s).trans (if_neg h), s.get_set_self .crestCmpStaRefused k.val 1 (by decide) (by decide),
    s.get_set_beside (f := .crestCmpStaRefused) (g := .crestCmpStaArmed) _ rfl (by decide) (by decide) (by decide),
    s.get_set_beside (f := .crestCmpStaRefused) (g := .crestCmpStaStale) _ rfl (by decide) (by decide) (by decide),
    s.set_regsBut .crestCmpStaRefused k.val 1, s.set_keepsBut _ _ _⟩

theorem completes_crestCmpArm (h : 65536000 ≤ ltDiff target s.lt ∧ ltDiff target s.lt < 2 ^ 62) :
    Completes (.crestCmpArm k target) s (fun t => SMap.find t.crest.cmpTarget k.val = some target ∧
      t.get .crestCmpStaArmed k.val = 1 ∧ t.get .crestCmpStaRefused k.val = 0 ∧ t.get .crestCmpStaStale k.val = 0 ∧
      ((∀ j, j < 64 → s.cmpDue j = false) → RegsBut [(.crestCmpSta, k.val)] s t ∧ KeepsBut [.regs, .crest] s t) ∧
      (s.cmpDue k.val = true → t.get .crestCmpFireFires k.val = (s.get .crestCmpFireFires k.val + 1) % 2 ^ 64)) := by
  obtain ⟨harmed, hrefused, hstale⟩ := s.fireDue.get_armUnit k.val target
  refine ⟨_, (exec_crestCmpArm k target s).trans (if_pos h), State.find_armUnit_self _ k.val target, harmed, hrefused, hstale,
    fun hnone => ?_, fun hdue => ?_⟩
  · rw [s.fireDue_of_none_due hnone]
    exact ⟨s.armUnit_regsBut k.val target, s.armUnit_keepsBut k.val target⟩
  · rw [State.get, State.armUnit_regsBut _ _ _ _ _ (by simp), ← State.get, s.fireDue_eq_fireList]
    exact s.fires_fireList List.nodup_range (List.mem_range.2 k.isLt) hdue

theorem exec_cmpFire_none (h : SMap.find s.crest.cmpTarget k.val = none) : exec (.cmpFire k) s = .next s := by
  have hdef : exec (.cmpFire k) s = execCmpFire k s := rfl
  simp only [hdef, execCmpFire, h]

theorem exec_cmpFire_some {t0 : BitVec 64} (h : SMap.find s.crest.cmpTarget k.val = some t0) :
    exec (.cmpFire k) s = .next (s.advanceTick t0).fireDue := by
  have hdef : exec (.cmpFire k) s = execCmpFire k s := rfl
  simp only [hdef, execCmpFire, h]

theorem exec_crestCmpDis_idle (h : v.getLsbD 0 = false ∨ SMap.find s.crest.cmpTarget k.val = none) : exec (.crestCmpDis k v) s = .next s := by
  have hdef : exec (.crestCmpDis k v) s = execCrestCmpDis k v s := rfl
  have hcond : (v.getLsbD 0 && (SMap.find s.crest.cmpTarget k.val).isSome) = false := by
    rcases h with h | h <;> simp only [h, Bool.false_and, Option.isSome_none, Bool.and_false]
  rw [hdef, execCrestCmpDis, if_neg (by rw [hcond]; decide)]

theorem completes_crestCmpDis {t0 : BitVec 64} (h : SMap.find s.crest.cmpTarget k.val = some t0) (hv : v.getLsbD 0 = true) :
    Completes (.crestCmpDis k v) s (fun t => SMap.find t.crest.cmpTarget k.val = none ∧ t.get .crestCmpStaArmed k.val = 0) := by
  have hdef : exec (.crestCmpDis k v) s = execCrestCmpDis k v s := rfl
  have hcond : (v.getLsbD 0 && (SMap.find s.crest.cmpTarget k.val).isSome) = true := by
    simp only [h, hv, Option.isSome_some, Bool.and_self]
  refine ⟨_, by rw [hdef, execCrestCmpDis, if_pos hcond], ?_, ?_⟩
  · exact SMap.find_put_self s.tick.crest.cmpTarget k.val none
  · exact State.get_set_self _ .crestCmpStaArmed k.val 0 (by decide) (by decide)

/-- What a unit's firing does, by its action (R65, R66). -/
theorem State.fireUnit_results {k : Nat} {t0 : BitVec 64} (h : SMap.find s.crest.cmpTarget k = some t0) :
    let a := s.get .crestCmpCfgAction k
    let j := s.get .crestCmpCfgTto k
    let per := s.reg .crestCmpPer k
    let t := s.fireUnit k
    t.get .crestCmpFireFires k = (s.get .crestCmpFireFires k + 1) % 2 ^ 64 ∧ t.lt = s.lt ∧
    SMap.find t.crest.cmpTarget k = (if per = 0 then none else some (t0 + per)) ∧
    (per = 0 → t.get .crestCmpStaArmed k = 0) ∧
    (s.is .crestTtoCfgEn j = true → (a = 1 → SMap.find t.crest.tto j = some true) ∧ (a = 2 → SMap.find t.crest.tto j = some false) ∧
      (a = 3 → SMap.find t.crest.tto j = some (!s.ttoDrive j))) ∧
    (a = 4 → refBlk (s.reg .crestCmpRef k) = some ⟨.timeBase, 0⟩ → s.refCurrent (s.reg .crestCmpRef k) = true →
      t.get .crestSrvStaSwapPending = 1) ∧
    (a = 4 ∨ a = 5 → refBlk (s.reg .crestCmpRef k) = none → t.get .crestCmpStaStale k = 1) ∧
    (a = 6 → s.vecOpen 0 (s.get .crestCmpCfgVec k) = true → t.out = s.out ++ [s.msixMsg 0 (s.get .crestCmpCfgVec k)]) := by
  intro a j per t
  have ht : t = ((s.counted k).cmpAction k).rearm k t0 per := s.fireUnit_of_some h
  have hget : ∀ {f : Fld}, f.reg ≠ .crestCmpFire → ∀ i, (s.counted k).get f i = s.get f i := fun hf i => s.counted_get k hf i
  have ha : (s.counted k).get .crestCmpCfgAction k = a := hget (by decide) k
  have hj : (s.counted k).get .crestCmpCfgTto k = j := hget (by decide) k
  have href : (s.counted k).reg .crestCmpRef k = s.reg .crestCmpRef k := s.counted_reg k (by decide) k
  have hdrive : (s.counted k).ttoDrive j = s.ttoDrive j := by
    simp only [State.ttoDrive, State.is, hget (f := .crestTtoCfgEn) (by decide), hget (f := .crestTtoCfgIdle) (by decide),
      State.bump_crest]
    rfl
  have htto : s.is .crestTtoCfgEn j = true → a = 1 ∨ a = 2 ∨ a = 3 → SMap.find t.crest.tto j = some (ttoLevel a (s.ttoDrive j)) := by
    intro hen hact
    have hen' : (s.counted k).is .crestTtoCfgEn ((s.counted k).get .crestCmpCfgTto k) = true := by
      rw [hj, State.is, hget (by decide), ← State.is, hen]
    have hput : ∀ b, ((s.counted k).putTto j b).crest.tto = SMap.put s.crest.tto j (some b) := fun _ => rfl
    rw [ht, State.rearm_tto, State.cmpAction_of_tto _ k (by rwa [ha]) hen', ha, hj, hdrive, hput, SMap.find_put_self]
  refine ⟨s.fireUnit_fires h, s.fireUnit_lt k, ?_, fun hper => ?_, fun hen => ⟨fun h1 => ?_, fun h2 => ?_, fun h3 => ?_⟩,
    fun h4 hb hc => ?_, fun h45 hb => ?_, fun h6 hopen => ?_⟩
  · rw [ht, State.rearm_crest]
    exact SMap.find_put_self _ k _
  · rw [ht, State.get_armed_rearm _ k t0 per hper]
  · rw [htto hen (.inl h1), h1]
    rfl
  · rw [htto hen (.inr (.inl h2)), h2]
    rfl
  · rw [htto hen (.inr (.inr h3)), h3]
    rfl
  · have hcur : (s.counted k).refCurrent (s.reg .crestCmpRef k) = true := by
      simp only [State.refCurrent, hb] at hc ⊢
      exact hc
    rw [ht, State.get, State.rearm_reg _ _ _ _ (by decide), State.cmpAction_of_swap _ k (ha.trans h4) (by rw [href, hb]) (by rw [href, hcur])]
    exact State.get_set_self _ .crestSrvStaSwapPending 0 1 (by decide) (by decide)
  · rw [ht, State.get_stale_rearm, State.cmpAction_of_unnamed _ k (by rwa [ha]) (by rw [href, hb])]
    exact State.get_set_self _ .crestCmpStaStale k 1 (by decide) (by decide)
  · have hvec : (s.counted k).get .crestCmpCfgVec k = s.get .crestCmpCfgVec k := hget (by decide) k
    have hopen' : (s.counted k).vecOpen 0 (s.get .crestCmpCfgVec k) = true := by
      rw [← hopen]
      simp only [State.vecOpen, State.fnSends, State.gateOpen, State.is, State.frozenFn, hget (f := .hostFnStaState) (by decide),
        hget (f := .hostFnStaBme) (by decide), hget (f := .hostContainStaContained) (by decide), hget (f := .secBootStaGate) (by decide),
        hget (f := .hostFnStaMsix) (by decide), State.bump_host]
      rfl
    rw [ht, State.rearm_out, State.cmpAction_of_vec _ k (ha.trans h6), hvec, State.signal, if_pos hopen']
    rfl

end Unit

/-! ### PPS_OUT (R67) -/

theorem State.ppsOn_iff (s : State) : s.ppsOn = true ↔ s.crest.running = true ∧ s.is .crestPpsoCfgEn = true ∧
    (s.is .crestPpsoCfgFreeRun = true ∨ s.crest.state = .locked) := by
  simp [State.ppsOn, and_assoc]

theorem exec_ppsOutRise_off {s : State} (h : s.ppsOn = false) : exec .ppsOutRise s = .next s := by
  have hdef : exec .ppsOutRise s = execPpsOutRise s := rfl
  rw [hdef, execPpsOutRise, if_neg (by rw [h]; decide)]

theorem exec_ppsOutRise_on {s : State} (h : s.ppsOn = true) (hstep : s.crest.step = none) :
    exec .ppsOutRise s = .next (let u := s.advance s.ppsAhead
      if u.ppsOn then { u with crest := { u.crest with pps := true, ppsRise := some u.elapsed } } else u) := by
  have hdef : exec .ppsOutRise s = execPpsOutRise s := rfl
  have hcond : (s.crest.step.isSome && decide (epochUnits - s.elapsed % epochUnits ≤ s.ppsAhead)) = false := by rw [hstep]; rfl
  rw [hdef, execPpsOutRise, if_pos h, if_neg (by rw [hcond]; decide)]

/-- The wait for the next whole second plus the phase: below a second, a whole one where this instant has pulsed already. -/
theorem State.ppsAhead_eq (s : State) : ∃ d : Nat, (s.ppsAhead = d ∨ d = 0 ∧ s.ppsAhead = unitsPerSec) ∧ d < unitsPerSec ∧
    ((s.ftOf s.lt : Int) + d - (BitVec.ofNat 32 (s.get .crestPpsoCfgPhase)).toInt * 16384) % (unitsPerSec : Int) = 0 := by
  have hpos : 0 < unitsPerSec := by decide
  let y : Int := (s.ftOf s.lt : Int) - (BitVec.ofNat 32 (s.get .crestPpsoCfgPhase)).toInt * 16384
  refine ⟨(unitsPerSec - (y % (unitsPerSec : Int)).toNat) % unitsPerSec, ?_, Nat.mod_lt _ hpos, ?_⟩
  · unfold State.ppsAhead
    extract_lets phase x d
    split
    next hd => exact .inr ⟨hd.1, rfl⟩
    next => exact .inl rfl
  · have hcast : ((s.ftOf s.lt : Int) + ((unitsPerSec - (y % (unitsPerSec : Int)).toNat) % unitsPerSec : Nat) -
        (BitVec.ofNat 32 (s.get .crestPpsoCfgPhase)).toInt * 16384) =
        y + ((unitsPerSec - (y % (unitsPerSec : Int)).toNat) % unitsPerSec : Nat) := by
      show _ = (s.ftOf s.lt : Int) - _ + _
      ring
    rw [hcast]
    generalize hu : unitsPerSec = u at hpos ⊢
    have hy := Int.emod_nonneg y (b := (u : Int)) (by omega)
    have hlt := Int.emod_lt_of_pos y (b := (u : Int)) (by omega)
    have hx : ((y % (u : Int)).toNat : Int) = y % (u : Int) := Int.toNat_of_nonneg hy
    rw [Int.natCast_emod, Nat.cast_sub (by omega), hx, ← Int.add_emod_emod, Int.emod_emod_of_dvd _ (dvd_refl _), Int.add_emod_emod]
    have hsum : y + ((u : Int) - y % (u : Int)) = (u : Int) * (y / (u : Int)) + u := by
      have := Int.emod_add_mul_ediv y u
      linarith
    rw [hsum]
    simp

theorem State.ppsAhead_le (s : State) : s.ppsAhead ≤ unitsPerSec := by
  obtain ⟨d, hd | ⟨-, hd⟩, hlt, -⟩ := s.ppsAhead_eq <;> omega

theorem State.ppsAhead_whole (s : State) :
    ((s.ftOf s.lt : Int) + s.ppsAhead - (BitVec.ofNat 32 (s.get .crestPpsoCfgPhase)).toInt * 16384) % (unitsPerSec : Int) = 0 := by
  obtain ⟨d, hd | ⟨h0, hd⟩, -, hmod⟩ := s.ppsAhead_eq
  · rw [hd, hmod]
  · rw [hd]
    subst h0
    rw [show (s.ftOf s.lt : Int) + (unitsPerSec : Nat) - (BitVec.ofNat 32 (s.get .crestPpsoCfgPhase)).toInt * 16384 =
      (s.ftOf s.lt : Int) + (0 : Nat) - (BitVec.ofNat 32 (s.get .crestPpsoCfgPhase)).toInt * 16384 + unitsPerSec by push_cast; ring,
      Int.add_emod_right, hmod]

theorem exec_ppsOutFall_low {s : State} (h : s.crest.pps = false) : exec .ppsOutFall s = .next s := by
  have hdef : exec .ppsOutFall s = execPpsOutFall s := rfl
  rw [hdef, execPpsOutFall, if_neg (by rw [h]; decide)]

theorem exec_ppsOutFall_high {s : State} (h : s.crest.pps = true) : exec .ppsOutFall s =
    .next (let u := s.advanceAt (s.crest.ppsRise.getD s.elapsed + s.get .crestPpsoCfgWidth * 65536000)
      { u with crest := { u.crest with pps := false } }) := by
  have hdef : exec .ppsOutFall s = execPpsOutFall s := rfl
  rw [hdef, execPpsOutFall, if_pos h]

/-- Time stands still on the way to an elapsed count that has been reached. -/
theorem State.advanceAt_of_reached (s : State) {t : Nat} (h : t ≤ s.elapsed) : s.advanceAt t = s := by
  rw [State.advanceAt, Nat.sub_eq_zero_of_le h, State.advance, if_pos (.inl rfl)]

/-- Settles O18: each command's clauses are the lemmas of its operation. -/
theorem compareUnitsAndPpsOut : Obligations.CompareUnitsAndPpsOut := by
  unfold Obligations.CompareUnitsAndPpsOut
  refine ⟨fun k target v s => ?_, fun s => ?_⟩
  · intro inWin due
    have hdue : ∀ j, s.cmpDue j = true ↔ due j := s.cmpDue_iff
    have hidle : ∀ j, ¬ due j → s.cmpDue j = false := fun j h => Bool.eq_false_iff.2 (mt (hdue j).1 h)
    refine ⟨completes_crestCmpArm_refused, fun hin => ?_, fun hnone => ⟨exec_cmpFire_none hnone, exec_crestCmpDis_idle v (.inr hnone)⟩,
      fun hv => exec_crestCmpDis_idle v (.inl hv), fun t0 hsome => ⟨exec_cmpFire_some hsome, fun hk hothers => ?_,
        completes_crestCmpDis v hsome, State.fireUnit_results hsome⟩⟩
    · obtain ⟨t, ht, hfind, harmed, hrefused, hstale, hquiet, hfires⟩ := completes_crestCmpArm (k := k) hin
      exact ⟨t, ht, hfind, harmed, hrefused, hstale, fun hno => hquiet (fun j hj => hidle j (hno j hj)),
        fun hk => hfires ((hdue k.val).2 hk)⟩
    · rw [s.fireDue_eq_fireList]
      exact s.fireList_of_one_due List.nodup_range (List.mem_range.2 k.isLt) ((hdue k.val).2 hk)
        (fun j hj hne => hidle j (hothers j (List.mem_range.1 hj) hne))
  · refine ⟨s.ppsOn_iff, exec_ppsOutRise_off, fun hon hstep => ⟨exec_ppsOutRise_on hon hstep, s.ppsAhead_le, s.ppsAhead_whole⟩,
      exec_ppsOutFall_low, fun hhigh => ⟨⟨_, exec_ppsOutFall_high hhigh, rfl⟩, fun r hr hpast => ?_⟩⟩
    rw [exec_ppsOutFall_high hhigh, hr, Option.getD_some, s.advanceAt_of_reached hpast]

end Sys2Proof.Machine
end

section
/-! PROOFS. Epoch beginnings, the servo's bank swap and its timeout, ticks of the Crest, and the statements O16 and O2. -/

namespace Sys2Proof.Machine

/-! ### Firings on the way to an instant leave the mapping (R38, R65) -/

/-- The mapping, the pending step and the count of steps. -/
def State.mapView (s : State) : Nat × Option Int × BitVec 64 := (s.crest.map, s.crest.step, s.reg .crestStepCnt 0)

theorem State.fireIfDue_mapView (s : State) (j : Nat) : (s.fireIfDue j).mapView = s.mapView := by
  unfold State.fireIfDue
  split
  next hdue =>
    obtain ⟨t0, hfind, -⟩ := (s.cmpDue_iff j).1 hdue
    obtain ⟨m, hm⟩ := s.fireUnit_crest hfind
    rw [State.mapView, hm, s.fireUnit_reg j (by decide) (.inl (by decide)), State.mapView]
  next => rfl

theorem State.fireDue_mapView (s : State) : s.fireDue.mapView = s.mapView := by
  have hlist : ∀ l, (s.fireList l).mapView = s.mapView := fun l => foldl_keeps State.mapView State.fireIfDue_mapView l s
  rw [s.fireDue_eq_fireList, hlist]

theorem State.setAcc_mapView (s : State) (a : BitVec 112) : (s.setAcc a).mapView = s.mapView := rfl

theorem State.fireUntil_mapView (n lim : Nat) (s : State) : (State.fireUntil n lim s).mapView = s.mapView := by
  induction n generalizing s with
  | zero => rfl
  | succ n ih =>
    unfold State.fireUntil
    split
    · split
      · rw [ih, State.fireDue_mapView, State.setAcc_mapView]
      · rfl
    · rfl

theorem State.fireUntil_of_unarmed (n lim : Nat) {s : State} (h : s.crest.cmpTarget = []) : State.fireUntil n lim s = s := by
  cases n with
  | zero => rfl
  | succ n => simp only [State.fireUntil, State.cmpNext, h, List.foldl_nil]

/-! ### The Crest's part of an epoch beginning (R45, R52, R53) -/

/-- The clock, the mapping of the epoch and the one before, and the step. -/
def Crest.clock (c : Crest) : BitVec 112 × Nat × Nat × Option Int × Bool := (c.acc, c.map, c.mapPrev, c.step, c.orStepped)

/-- The clock and the count of steps. -/
def State.clockView (s : State) : (BitVec 112 × Nat × Nat × Option Int × Bool) × BitVec 64 := (s.crest.clock, s.reg .crestStepCnt 0)

theorem State.set_clockView (s : State) {f : Fld} (hf : f.reg ≠ .crestStepCnt) (i v : Nat) : (s.set f i v).clockView = s.clockView := by
  rw [State.clockView, s.reg_set_of_ne v (.inl (Ne.symm hf)), State.set_crest, State.clockView]

theorem State.clockView_of_still {s t : State} (h : t.still = s.still) : t.clockView = s.clockView := by
  rw [State.clockView, State.crest_of_still h, State.reg_of_still h (by decide), State.clockView]

theorem State.copyRegs_crest (s : State) (rs : List RegName) (a b : Nat) : (s.copyRegs rs a b).crest = s.crest := by
  unfold State.copyRegs
  refine foldl_keeps State.crest (fun t r => ?_) rs s
  rfl

theorem State.copyRegs_ptp (s : State) (rs : List RegName) (a b : Nat) : (s.copyRegs rs a b).ptp = s.ptp := by
  unfold State.copyRegs
  refine foldl_keeps State.ptp (fun t r => ?_) rs s
  rfl

theorem State.copyRegs_reg (s : State) {rs : List RegName} {q : RegName} (hq : q ∉ rs) (a b j : Nat) :
    (s.copyRegs rs a b).reg q j = s.reg q j := by
  unfold State.copyRegs
  induction rs generalizing s with
  | nil => rfl
  | cons r rs ih =>
    rw [List.foldl_cons, ih _ (fun h => hq (List.mem_cons_of_mem _ h))]
    exact s.reg_setReg_of_ne _ (.inl (fun h => hq (h ▸ List.mem_cons_self)))

theorem State.holdAddend_eq_setLoop (s : State) : ∃ a, s.holdAddend = s.setLoop s.crest.integ a := by
  unfold State.holdAddend
  split
  · exact ⟨_, rfl⟩
  · exact ⟨_, rfl⟩
  · exact ⟨s.crest.addend, rfl⟩

/-- The servo's banks exchanged and the swap no longer pending. -/
def State.exchangeBanks (s : State) : State := (s.set .crestSrvStaActiveBank 0 (1 - s.srvBank)).set .crestSrvStaSwapPending 0 0

/-- A bank swap in force changes the servo's status, with forerunner behaviour the other bank's registers, and of the Crest what the
servo holds. -/
theorem State.bankSwapEffect_of_pending (s : State) (h : s.is .crestSrvStaSwapPending = true) :
    s.bankSwapEffect.crest.clock = s.crest.clock ∧ s.bankSwapEffect.ptp = s.ptp ∧
    ∀ r i, r ∉ crestBankRegs → s.bankSwapEffect.reg r i = s.exchangeBanks.reg r i := by
  rw [State.bankSwapEffect, if_pos h]
  extract_lets old u v c w
  have hu : u = s.exchangeBanks := rfl
  have hv : v.crest = s.crest ∧ v.ptp = s.ptp ∧ ∀ r i, r ∉ crestBankRegs → v.reg r i = u.reg r i := by
    by_cases hf : u.forerunner = true
    · have hcopy : v = u.copyRegs crestBankRegs u.srvBank old := if_pos hf
      rw [hcopy]
      exact ⟨u.copyRegs_crest _ _ _, u.copyRegs_ptp _ _ _, fun r i hr => u.copyRegs_reg hr _ _ i⟩
    · have hsame : v = u := if_neg hf
      rw [hsame]
      exact ⟨rfl, rfl, fun _ _ _ => rfl⟩
  obtain ⟨hcrest, hptp, hreg⟩ := hv
  have hw : w.crest.clock = v.crest.clock ∧ w.ptp = v.ptp ∧ ∀ r i, w.reg r i = v.reg r i := by
    by_cases hsrc : v.get .crestSrvCfgSrc v.srvBank = 0
    · have hfree : w = { v with crest := { v.crest with state := .free, integ := 0, srvLost := false, run := 0 } } := if_pos hsrc
      rw [hfree]
      exact ⟨rfl, rfl, fun _ _ => rfl⟩
    · have hsame : w = v := if_neg hsrc
      rw [hsame]
      exact ⟨rfl, rfl, fun _ _ => rfl⟩
  obtain ⟨hclock, hptp', hreg'⟩ := hw
  obtain ⟨a, ha⟩ := w.holdAddend_eq_setLoop
  rw [ha]
  refine ⟨?_, hptp'.trans hptp, fun r i hr => (hreg' r i).trans ((hreg r i hr).trans (by rw [hu]))⟩
  have hset : (w.setLoop w.crest.integ a).crest.clock = w.crest.clock := rfl
  rw [hset, hclock, hcrest]

theorem State.bankSwapEffect_of_idle (s : State) (h : s.is .crestSrvStaSwapPending = false) : s.bankSwapEffect = s :=
  if_neg (by rw [h]; decide)

section Swap
variable (s : State)

theorem State.bankSwapEffect_clockView : s.bankSwapEffect.clockView = s.clockView := by
  cases h : s.is .crestSrvStaSwapPending with
  | false => rw [s.bankSwapEffect_of_idle h]
  | true =>
    obtain ⟨hclock, -, hreg⟩ := s.bankSwapEffect_of_pending h
    rw [State.clockView, hclock, hreg _ _ (by decide), State.clockView, State.exchangeBanks, State.reg_set_of_ne _ _ (.inl (by decide)),
      State.reg_set_of_ne _ _ (.inl (by decide))]

theorem State.bankSwapEffect_ptp : s.bankSwapEffect.ptp = s.ptp := by
  cases h : s.is .crestSrvStaSwapPending with
  | false => rw [s.bankSwapEffect_of_idle h]
  | true => exact (s.bankSwapEffect_of_pending h).2.1

theorem State.srvBank_le_one : s.srvBank ≤ 1 := Nat.le_of_lt_succ (s.get_lt .crestSrvStaActiveBank 0)

theorem State.is_iff_get (f : Fld) (i : Nat) : s.is f i = true ↔ s.get f i = 1 := beq_iff_eq

theorem State.bankSwapEffect_pending : s.bankSwapEffect.get .crestSrvStaSwapPending = 0 := by
  cases h : s.is .crestSrvStaSwapPending with
  | false =>
    have hlt := s.get_lt .crestSrvStaSwapPending 0
    have hne : s.get .crestSrvStaSwapPending ≠ 1 := fun h1 => by rw [(s.is_iff_get _ _).2 h1] at h; cases h
    have hw : 2 ^ Fld.width .crestSrvStaSwapPending = 2 := rfl
    rw [s.bankSwapEffect_of_idle h]
    omega
  | true =>
    rw [State.get, (s.bankSwapEffect_of_pending h).2.2 _ _ (by decide)]
    exact State.get_set_self _ .crestSrvStaSwapPending 0 0 (by decide) (by decide)

theorem State.bankSwapEffect_srvBank :
    s.bankSwapEffect.srvBank = if s.is .crestSrvStaSwapPending then 1 - s.srvBank else s.srvBank := by
  cases h : s.is .crestSrvStaSwapPending with
  | false => rw [s.bankSwapEffect_of_idle h, if_neg Bool.false_ne_true]
  | true =>
    have hbank := s.srvBank_le_one
    have hexchange : s.exchangeBanks.srvBank = 1 - s.srvBank := by
      rw [State.exchangeBanks, State.srvBank]
      simp (disch := decide) only [State.get_set_beside, State.get_set_self]
      exact Nat.mod_eq_of_lt (show 1 - s.srvBank < 2 by omega)
    rw [if_pos rfl, ← hexchange, State.srvBank, State.get, (s.bankSwapEffect_of_pending h).2.2 _ _ (by decide)]
    rfl

end Swap

/-! ### What the PTP engine waited to set (R59) -/

section Wish
variable (s : State)

/-- Setting a bank through the engine leaves the clock and which bank is active. -/
theorem State.ptpBank_keeps (hops : Nat) (eb : Option Nat) :
    (s.ptpBank hops eb).clockView = s.clockView ∧ (s.ptpBank hops eb).srvBank = s.srvBank := by
  unfold State.ptpBank
  split
  · exact ⟨rfl, rfl⟩
  extract_lets b p u v w
  let x : State := { s with ptp := { s.ptp with want := none } }
  have hu : u.clockView = s.clockView ∧ u.srvBank = s.srvBank := by
    constructor
    · have hcnt : u.reg .crestStepCnt 0 = x.reg .crestStepCnt 0 := x.copyRegs_reg (rs := crestBankRegs) (by decide) _ _ _
      rw [State.clockView, hcnt, show u.crest = x.crest from x.copyRegs_crest _ _ _]
      rfl
    · have hsta : u.reg .crestSrvSta 0 = x.reg .crestSrvSta 0 := x.copyRegs_reg (rs := crestBankRegs) (by decide) _ _ _
      rw [State.srvBank, State.get, show Fld.reg .crestSrvStaActiveBank = .crestSrvSta from rfl, hsta]
      rfl
  have hv : v.clockView = s.clockView ∧ v.srvBank = s.srvBank :=
    ⟨(u.set_clockView (f := .crestTqCfgHops) (by decide) _ _).trans hu.1,
      (u.get_set_of_ne (f := .crestTqCfgHops) (g := .crestSrvStaActiveBank) _ (.inl (by decide))).trans hu.2⟩
  have hw : w.clockView = s.clockView ∧ w.srvBank = s.srvBank := by
    cases eb with
    | none => exact hv
    | some e =>
      exact ⟨(v.set_clockView (f := .crestTqCfgEbBase) (by decide) _ _).trans hv.1,
        (v.get_set_of_ne (f := .crestTqCfgEbBase) (g := .crestSrvStaActiveBank) _ (.inl (by decide))).trans hv.2⟩
  exact ⟨(w.set_clockView (f := .crestSrvStaSwapPending) (by decide) _ _).trans hw.1,
    (w.get_set_beside (f := .crestSrvStaSwapPending) (g := .crestSrvStaActiveBank) _ rfl (by decide) (by decide) (by decide)).trans hw.2⟩

theorem State.ptpWish_keeps : s.ptpWish.clockView = s.clockView ∧ s.ptpWish.srvBank = s.srvBank := by
  unfold State.ptpWish
  split
  · exact s.ptpBank_keeps _ _
  · exact ⟨rfl, rfl⟩

theorem State.ptpWish_of_none (h : s.ptp.want = none) : s.ptpWish = s := by
  simp only [State.ptpWish, h]

end Wish

/-! ### An epoch beginning -/

section Epoch
variable (s : State)

/-- The state in which the mapping advances: the closed epoch's word and bound are fixed. -/
def State.closeEpoch : State := (s.noteTqw.set .crestTqwTqwEpoch 0 s.noteTqw.tqwClose).set .crestEbFullEbEpoch 0 s.noteTqw.crest.ebMax

theorem State.closeEpoch_clockView : s.closeEpoch.clockView = s.clockView := by
  rw [State.closeEpoch, State.set_clockView _ (by decide), State.set_clockView _ (by decide)]
  rfl

theorem State.closeEpoch_sta : s.closeEpoch.reg .crestSrvSta 0 = s.reg .crestSrvSta 0 := by
  rw [State.closeEpoch, State.reg_set_of_ne _ _ (.inl (by decide)), State.reg_set_of_ne _ _ (.inl (by decide))]
  rfl

theorem State.closeEpoch_ptp : s.closeEpoch.ptp = s.ptp := rfl

/-- After the swap and the engine's wish, the epoch's report is all that changes. -/
theorem State.crestEpoch_keeps : s.noteTqw.crestEpoch.clockView = s.closeEpoch.mapEpoch.bankSwapEffect.ptpWish.clockView ∧
    ∀ r i, s.noteTqw.crestEpoch.reg r i = s.closeEpoch.mapEpoch.bankSwapEffect.ptpWish.reg r i := ⟨rfl, fun _ _ => rfl⟩

theorem State.epochBegin_clockView : s.epochBegin.clockView = s.closeEpoch.mapEpoch.clockView := by
  have hnote : s.noteTqw.crestEpoch.lanesEpoch.noteTqw.clockView = s.noteTqw.crestEpoch.lanesEpoch.clockView := rfl
  rw [State.clockView_of_still s.epochBegin_still, hnote, State.clockView_of_still (State.lanesEpoch_still _), s.crestEpoch_keeps.1,
    (State.ptpWish_keeps _).1, State.bankSwapEffect_clockView]

theorem State.epochBegin_srvSta : s.epochBegin.reg .crestSrvSta 0 = s.closeEpoch.mapEpoch.bankSwapEffect.ptpWish.reg .crestSrvSta 0 := by
  have hnote : s.noteTqw.crestEpoch.lanesEpoch.noteTqw.reg .crestSrvSta 0 = s.noteTqw.crestEpoch.lanesEpoch.reg .crestSrvSta 0 := rfl
  rw [State.reg_of_still s.epochBegin_still (by decide), hnote, State.reg_of_still (State.lanesEpoch_still _) (by decide),
    s.crestEpoch_keeps.2]

/-- The mapping advanced to `m`, no step having taken effect. -/
def State.mapTo (m : Nat) : State := { s with crest := { s.crest with mapPrev := s.crest.map, map := m, orStepped := false } }

/-- The mapping advanced to `m` by a pending step, counted. -/
def State.stepTo (m e : Nat) : State :=
  (({ s with crest := { s.crest with mapPrev := s.crest.map, map := m, orStepped := true, step := none, stepAt := some e } } :
    State).bump .crestStepCntSteps).set .crestSrvStaStepPending 0 0

theorem State.mapTo_clockView (m : Nat) (h : s.crest.step = none) :
    (s.mapTo m).clockView = ((s.crest.acc, m, s.crest.map, none, false), s.reg .crestStepCnt 0) := by
  rw [← h]
  rfl

theorem State.stepTo_clockView (m e : Nat) :
    (s.stepTo m e).clockView = ((s.crest.acc, m, s.crest.map, none, true), (s.bump .crestStepCntSteps).reg .crestStepCnt 0) := by
  rw [State.stepTo, State.set_clockView _ (by decide)]
  rfl

/-- The fields the exchange of the banks goes by: which bank is active, whether a swap is pending and what the PTP engine waits to set. -/
def State.swapView : Nat × Nat × Ptp := (s.srvBank, s.get .crestSrvStaSwapPending, s.ptp)

theorem State.mapTo_swapView (m : Nat) : (s.mapTo m).swapView = s.swapView := rfl

theorem State.stepTo_get (m e : Nat) {g : Fld} (hg : g.reg = .crestSrvSta) (hh : g.hi < 64) (hd : g.hi < 5 ∨ 5 < g.lo) :
    (s.stepTo m e).get g = s.get g := by
  rw [State.stepTo, State.get_set_beside (f := .crestSrvStaStepPending) (g := g) _ _ hg (by decide) hh hd, State.bump,
    State.get_set_of_ne (f := .crestStepCntSteps) _ _ (.inl (by rw [hg]; decide))]
  rfl

theorem State.stepTo_swapView (m e : Nat) : (s.stepTo m e).swapView = s.swapView := by
  have hbank : (s.stepTo m e).srvBank = s.srvBank := s.stepTo_get m e (g := .crestSrvStaActiveBank) rfl (by decide) (by decide)
  have hptp : (s.stepTo m e).ptp = s.ptp := rfl
  rw [State.swapView, hbank, s.stepTo_get m e (g := .crestSrvStaSwapPending) rfl (by decide) (by decide), hptp, State.swapView]

theorem State.cairnRec_swapView (a : CairnCode) (b : Option Blk) (d : List (BitVec 8)) : (s.cairnRec a b d).swapView = s.swapView := rfl

theorem State.cairnRec_clockView (a : CairnCode) (b : Option Blk) (d : List (BitVec 8)) : (s.cairnRec a b d).clockView = s.clockView := rfl

theorem State.mapEpoch_of_none (h : s.crest.step = none) : s.mapEpoch = s.mapTo ((s.crest.map + 2 ^ 36) % ftRange) := by
  rw [← show epochUnits = 2 ^ 36 from rfl]
  simp only [State.mapEpoch, h, State.mapTo]

theorem State.mapEpoch_of_some {th : Int} (h : s.crest.step = some th) : ∃ e b d, s.mapEpoch =
    (s.stepTo ((((s.crest.map + 2 ^ 36 : Nat) : Int) - th) % (ftRange : Int)).toNat e).cairnRec .crestStep b d := by
  refine ⟨s.epoch * epochUnits, some ⟨.timeBase, 0⟩, leBytes (BitVec.ofInt 64 th).toNat 8 ++ leBytes s.epoch 8, ?_⟩
  rw [← show epochUnits = 2 ^ 36 from rfl]
  simp only [State.mapEpoch, h, State.stepTo]
  rfl

/-- Advancing the mapping leaves which bank is active and whether a swap is pending. -/
theorem State.mapEpoch_swapView : s.mapEpoch.swapView = s.swapView := by
  cases h : s.crest.step with
  | none => rw [s.mapEpoch_of_none h, State.mapTo_swapView]
  | some th =>
    obtain ⟨e, b, d, hstep⟩ := s.mapEpoch_of_some h
    rw [hstep, State.cairnRec_swapView, State.stepTo_swapView]

/-- Without a pending step the mapping advances by an epoch. -/
theorem State.mapEpoch_clockView_none (h : s.crest.step = none) : s.mapEpoch.clockView =
    ((s.crest.acc, (s.crest.map + 2 ^ 36) % ftRange, s.crest.map, none, false), s.reg .crestStepCnt 0) := by
  rw [s.mapEpoch_of_none h, s.mapTo_clockView _ h]

/-- A pending step moves the mapping back by its theta and is counted. -/
theorem State.mapEpoch_clockView_some {th : Int} (h : s.crest.step = some th) : s.mapEpoch.clockView =
    ((s.crest.acc, ((((s.crest.map + 2 ^ 36 : Nat) : Int) - th) % (ftRange : Int)).toNat, s.crest.map, none, true),
      (s.bump .crestStepCntSteps).reg .crestStepCnt 0) := by
  obtain ⟨e, b, d, hstep⟩ := s.mapEpoch_of_some h
  rw [hstep, State.cairnRec_clockView, State.stepTo_clockView]

end Epoch

/-! ### EPOCH_BEGIN (R38, R45, R52, R53) -/

theorem State.setAcc_acc (s : State) (a : BitVec 112) : (s.setAcc a).crest.acc = a := rfl

theorem State.setAcc_sta (s : State) (a : BitVec 112) : (s.setAcc a).reg .crestSrvSta 0 = s.reg .crestSrvSta 0 := rfl

theorem State.setAcc_ptp (s : State) (a : BitVec 112) : (s.setAcc a).ptp = s.ptp := rfl

/-- The state in which the next epoch begins. -/
def State.atNextEpoch (s : State) : State :=
  (State.fireUntil epochFirings ((s.epoch + 1) <<< 52) s).setAcc (BitVec.ofNat 112 ((s.epoch + 1) <<< 52))

theorem State.nextEpoch_eq (s : State) : s.nextEpoch = s.atNextEpoch.epochBegin := rfl

theorem exec_epochBegin (s : State) : exec .epochBegin s = .next (if s.crest.running then s.nextEpoch else s) := rfl

section NextEpoch
variable (s : State)

theorem State.atNextEpoch_mapView : s.atNextEpoch.mapView = s.mapView := by
  rw [State.atNextEpoch, State.setAcc_mapView, State.fireUntil_mapView]

theorem State.epoch_of_acc {s : State} {e : Nat} (h : s.crest.acc = BitVec.ofNat 112 (e <<< 52)) :
    s.epoch = e % 2 ^ 60 ∧ s.lt.toNat % 2 ^ 36 = 0 := by
  rw [State.epoch, State.lt, h]
  simp only [BitVec.toNat_ofNat, Nat.shiftLeft_eq, Nat.shiftRight_eq_div_pow]
  omega

theorem State.nextEpoch_clockView_none (h : s.crest.step = none) : s.nextEpoch.clockView =
    ((BitVec.ofNat 112 ((s.epoch + 1) <<< 52), (s.crest.map + 2 ^ 36) % ftRange, s.crest.map, none, false), s.reg .crestStepCnt 0) := by
  have hview := s.atNextEpoch_mapView
  simp only [State.mapView, Prod.mk.injEq] at hview
  obtain ⟨hmap, hstep, hcnt⟩ := hview
  have hclose := s.atNextEpoch.closeEpoch_clockView
  simp only [State.clockView, Crest.clock, Prod.mk.injEq] at hclose
  obtain ⟨⟨hacc, hmap', -, hstep', -⟩, hcnt'⟩ := hclose
  rw [s.nextEpoch_eq, State.epochBegin_clockView, State.mapEpoch_clockView_none _ (hstep'.trans (hstep.trans h)), hacc, hmap', hcnt', hmap, hcnt,
    State.atNextEpoch, State.setAcc_acc]

theorem State.nextEpoch_clockView_some {th : Int} (h : s.crest.step = some th) : s.nextEpoch.clockView =
    ((BitVec.ofNat 112 ((s.epoch + 1) <<< 52), ((((s.crest.map + 2 ^ 36 : Nat) : Int) - th) % (ftRange : Int)).toNat, s.crest.map, none, true),
      (s.bump .crestStepCntSteps).reg .crestStepCnt 0) := by
  have hview := s.atNextEpoch_mapView
  simp only [State.mapView, Prod.mk.injEq] at hview
  obtain ⟨hmap, hstep, hcnt⟩ := hview
  have hclose := s.atNextEpoch.closeEpoch_clockView
  simp only [State.clockView, Crest.clock, Prod.mk.injEq] at hclose
  obtain ⟨⟨hacc, hmap', -, hstep', -⟩, hcnt'⟩ := hclose
  have hbump : (s.atNextEpoch.closeEpoch.bump .crestStepCntSteps).reg .crestStepCnt 0 = (s.bump .crestStepCntSteps).reg .crestStepCnt 0 := by
    simp only [State.bump, State.set, State.reg_setReg_self, State.get, hcnt', hcnt]
  rw [s.nextEpoch_eq, State.epochBegin_clockView, State.mapEpoch_clockView_some _ (hstep'.trans (hstep.trans h)), hacc, hmap', hmap, hbump,
    State.atNextEpoch, State.setAcc_acc]

/-- Where no compare unit is armed, nothing fires on the way, and the servo's status is that of the exchange. -/
theorem State.nextEpoch_swap (h : s.crest.cmpTarget = []) :
    (s.ptp.want = none → s.nextEpoch.get .crestSrvStaSwapPending = 0) ∧
    s.nextEpoch.srvBank = (if s.is .crestSrvStaSwapPending then 1 - s.srvBank else s.srvBank) := by
  have hat : s.atNextEpoch = s.setAcc (BitVec.ofNat 112 ((s.epoch + 1) <<< 52)) := by
    rw [State.atNextEpoch, State.fireUntil_of_unarmed _ _ h]
  have hsta : s.atNextEpoch.closeEpoch.reg .crestSrvSta 0 = s.reg .crestSrvSta 0 := by
    rw [State.closeEpoch_sta, hat, State.setAcc_sta]
  have hptp : s.atNextEpoch.closeEpoch.ptp = s.ptp := by
    rw [State.closeEpoch_ptp, hat, State.setAcc_ptp]
  have hbegin : s.nextEpoch.reg .crestSrvSta 0 = s.atNextEpoch.closeEpoch.mapEpoch.bankSwapEffect.ptpWish.reg .crestSrvSta 0 := by
    rw [s.nextEpoch_eq, State.epochBegin_srvSta]
  generalize s.atNextEpoch.closeEpoch = u at hsta hptp hbegin
  have hmapping := u.mapEpoch_swapView
  simp only [State.swapView, Prod.mk.injEq] at hmapping
  obtain ⟨hbank, hpending, hptp'⟩ := hmapping
  have hu : u.srvBank = s.srvBank ∧ u.is .crestSrvStaSwapPending = s.is .crestSrvStaSwapPending := by
    simp only [State.srvBank, State.is, State.get, hsta, and_self]
  have hmapped : u.mapEpoch.is .crestSrvStaSwapPending = s.is .crestSrvStaSwapPending := by
    rw [← hu.2, State.is, hpending, State.is]
  have hfinal : ∀ g : Fld, g.reg = .crestSrvSta → s.nextEpoch.get g = u.mapEpoch.bankSwapEffect.ptpWish.get g := fun g hg => by
    rw [State.get, hg, hbegin, State.get, hg]
  refine ⟨fun hwant => ?_, ?_⟩
  · have hnone : u.mapEpoch.bankSwapEffect.ptp.want = none := by
      rw [State.bankSwapEffect_ptp, hptp', hptp, hwant]
    rw [hfinal _ rfl, State.ptpWish_of_none _ hnone, State.bankSwapEffect_pending]
  · rw [State.srvBank, hfinal _ rfl, ← State.srvBank, (State.ptpWish_keeps _).2, State.bankSwapEffect_srvBank, hmapped, hbank, hu.1]

end NextEpoch

theorem completes_epochBegin {s : State} (h : s.crest.running = true) : Completes .epochBegin s (fun t =>
    t.epoch = (s.epoch + 1) % 2 ^ 60 ∧ t.lt.toNat % 2 ^ 36 = 0 ∧ t.crest.mapPrev = s.crest.map ∧ t.crest.step = none ∧
    (s.crest.step = none → t.crest.map = (s.crest.map + 2 ^ 36) % ftRange ∧ t.get .crestStepCntSteps = s.get .crestStepCntSteps) ∧
    (∀ th, s.crest.step = some th → (t.crest.map : Int) = ((s.crest.map : Int) + 2 ^ 36 - th) % (ftRange : Int) ∧
      t.get .crestStepCntSteps = (s.get .crestStepCntSteps + 1) % 2 ^ 64 ∧ t.crest.orStepped = true) ∧
    (s.crest.cmpTarget = [] → s.ptp.want = none → t.get .crestSrvStaSwapPending = 0) ∧
    (s.crest.cmpTarget = [] → t.srvBank = (if s.is .crestSrvStaSwapPending then 1 - s.srvBank else s.srvBank))) := by
  refine ⟨s.nextEpoch, by rw [exec_epochBegin, if_pos h], ?_⟩
  have hswap := s.nextEpoch_swap
  cases hstep : s.crest.step with
  | none =>
    have hview := s.nextEpoch_clockView_none hstep
    simp only [State.clockView, Crest.clock, Prod.mk.injEq] at hview
    obtain ⟨⟨hacc, hmap, hprev, hnone, -⟩, hcnt⟩ := hview
    obtain ⟨hepoch, hlt⟩ := State.epoch_of_acc hacc
    exact ⟨hepoch, hlt, hprev, hnone, fun _ => ⟨hmap, by rw [State.get, hcnt, State.get]⟩, fun th hth => (nomatch hth),
      fun hc hw => (hswap hc).1 hw, fun hc => (hswap hc).2⟩
  | some th =>
    have hview := s.nextEpoch_clockView_some hstep
    simp only [State.clockView, Crest.clock, Prod.mk.injEq] at hview
    obtain ⟨⟨hacc, hmap, hprev, hnone, hor⟩, hcnt⟩ := hview
    obtain ⟨hepoch, hlt⟩ := State.epoch_of_acc hacc
    refine ⟨hepoch, hlt, hprev, hnone, fun hno => (nomatch hno), fun th' hth => ⟨?_, ?_, hor⟩, fun hc hw => (hswap hc).1 hw,
      fun hc => (hswap hc).2⟩
    · obtain rfl := Option.some.inj hth
      have hpos : 0 < (ftRange : Int) := by decide
      rw [hmap, Int.toNat_of_nonneg (Int.emod_nonneg _ (ne_of_gt hpos))]
      push_cast
      rfl
    · rw [State.get, hcnt]
      exact s.get_bump_self .crestStepCntSteps 0 1 (by decide) (by decide)

/-! ### The bank swap command and the servo's timeout (R50, R51, R53) -/

theorem exec_crestBankSwap (v : BitVec 32) (s : State) :
    exec (.crestBankSwap v) s = .next (if v.getLsbD 0 then s.armBankSwap else s) := rfl

theorem State.timing_iff (s : State) : s.timing = true ↔ (s.crest.state = .acquire ∨ s.crest.state = .locked) ∧ s.crest.step = none := by
  simp [State.timing]

/-- The servo's timeout runs out, unless something on the way stops it. -/
def State.runOut (u : State) : State :=
  let w := if u.timing then u.advanceAt u.timeoutAt else u
  if w.timing then w.enterHoldover else w

theorem exec_servoTimeout {s : State} (h : s.timing = true) : exec .servoTimeout s =
    .next (if s.get .crestSrvStaSwapPending = 1 ∧ (s.epoch + 1) * 2 ^ 36 < s.timeoutAt then s.nextEpoch else s).runOut := by
  have hdef : exec .servoTimeout s = execServoTimeout s := rfl
  have hcond : (s.is .crestSrvStaSwapPending && decide ((s.epoch + 1) * epochUnits < s.timeoutAt)) = true ↔
      s.get .crestSrvStaSwapPending = 1 ∧ (s.epoch + 1) * 2 ^ 36 < s.timeoutAt := by
    rw [Bool.and_eq_true, s.is_iff_get, decide_eq_true_eq]
    rfl
  rw [hdef, execServoTimeout, if_pos h]
  exact congrArg (fun u : State => (Host.Outcome.next u.runOut : Out)) (if_congr hcond rfl rfl)

theorem exec_servoTimeout_idle {s : State} (h : s.timing = false) : exec .servoTimeout s = .next s := by
  have hdef : exec .servoTimeout s = execServoTimeout s := rfl
  rw [hdef, execServoTimeout, if_neg (by rw [h]; decide)]

/-- HOLDOVER is entered with the addend of R50. -/
theorem State.enterHoldover_eq (s : State) : ∃ eb at_, s.enterHoldover =
    (({ s with crest := { s.crest with state := .holdover, srvLost := true, run := 0, holdEb := eb, holdAt := at_ } } : State).setLoop
      s.crest.integ (BitVec.ofInt 48 (s.get .crestNomNom s.srvBank - roundDiv s.crest.integ 1000000000))).noteTqw := ⟨_, _, rfl⟩

theorem State.enterHoldover_results (s : State) : s.enterHoldover.crest.state = .holdover ∧ s.enterHoldover.crest.srvLost = true ∧
    s.enterHoldover.crest.integ = s.crest.integ ∧
    s.enterHoldover.crest.addend = BitVec.ofInt 48 (s.get .crestNomNom s.srvBank - roundDiv s.crest.integ 1000000000) ∧
    s.enterHoldover.crest.acc = s.crest.acc ∧ KeepsBut [.crest] s s.enterHoldover := by
  obtain ⟨eb, at_, h⟩ := s.enterHoldover_eq
  rw [h]
  generalize BitVec.ofInt 48 (s.get .crestNomNom s.srvBank - roundDiv s.crest.integ 1000000000) = a
  refine ⟨rfl, rfl, rfl, rfl, rfl, KeepsBut.trans ?_ (State.noteTqw_keepsBut _)⟩
  exact s.setCrest_keepsBut _

/-- Settles O16: an epoch beginning's clauses are those of the clock's and the bank's part of it, the timeout's those of its run. -/
theorem epochAndBankSwap : Obligations.EpochAndBankSwap := by
  unfold Obligations.EpochAndBankSwap
  intro v s
  refine ⟨fun h => ?_, completes_epochBegin, fun hv => ?_, fun hv => ?_, s.timing_iff, exec_servoTimeout_idle,
    fun h => ⟨rfl, exec_servoTimeout h⟩, s.enterHoldover_results⟩
  · rw [exec_epochBegin, if_neg (by rw [h]; decide)]
  · exact ⟨s.armBankSwap, by rw [exec_crestBankSwap, if_pos hv], s.get_set_self .crestSrvStaSwapPending 0 1 (by decide) (by decide),
      s.set_regsBut .crestSrvStaSwapPending 0 1, s.set_keepsBut _ _ _⟩
  · rw [exec_crestBankSwap, if_neg (by rw [hv]; decide)]

/-! ### Ticks of the Crest (R41) -/

/-- The accumulator at the next CTC tick. -/
def State.nextTick (s : State) : BitVec 112 := BitVec.ofNat 112 (max s.crest.acc.toNat
  (s.crest.tick + ((s.crest.acc.toNat - s.crest.tick) / s.crest.addend.toNat + 1) * s.crest.addend.toNat))

theorem State.tick_of_running (s : State) (h : s.crest.running = true) : s.tick =
    (if (s.setAcc s.nextTick).epoch = s.epoch then s.setAcc s.nextTick else (s.setAcc s.nextTick).epochBegin).fireDue := by
  rw [State.tick, if_pos h]
  rfl

theorem State.epochBegin_acc (s : State) : s.epochBegin.crest.acc = s.crest.acc := by
  have hclock : s.closeEpoch.mapEpoch.crest.acc = s.closeEpoch.crest.acc := by
    cases h : s.closeEpoch.crest.step with
    | none => exact congrArg (fun v => v.1.1) (s.closeEpoch.mapEpoch_clockView_none h)
    | some th => exact congrArg (fun v => v.1.1) (s.closeEpoch.mapEpoch_clockView_some h)
  have hbegin : s.epochBegin.crest.acc = s.closeEpoch.mapEpoch.crest.acc := congrArg (fun v => v.1.1) s.epochBegin_clockView
  rw [hbegin, hclock]
  exact congrArg (fun v => v.1.1) s.closeEpoch_clockView

theorem State.tick_acc (s : State) (h : s.crest.running = true) : s.tick.crest.acc = s.nextTick := by
  rw [s.tick_of_running h, State.fireDue_acc]
  split
  · rfl
  · rw [State.epochBegin_acc]
    rfl

/-- At a tick the next one is an addend away. -/
theorem State.nextTick_of_tick (s : State) (h : s.crest.tick = s.crest.acc.toNat) :
    s.nextTick = s.crest.acc + s.crest.addend.setWidth 112 := by
  apply BitVec.eq_of_toNat_eq
  rw [State.nextTick, h, Nat.sub_self, Nat.zero_div, Nat.zero_add, Nat.one_mul, Nat.max_eq_right (Nat.le_add_right _ _)]
  simp [BitVec.toNat_add]

/-- Settles O2: the accumulator is left where the tick put it by whatever the tick sets off. -/
theorem emptyQueueTicks : Obligations.EmptyQueueTicks := by
  unfold Obligations.EmptyQueueTicks
  intro s hq
  have hstep : step s = .next s.tick := by simp only [step, hq]
  refine ⟨fun hstop => ?_, fun hrun => ⟨s.tick, hstep, s.tick_acc hrun, fun ht => ?_⟩⟩
  · rw [hstep, State.tick, if_neg (by rw [hstop]; decide)]
  · rw [s.tick_acc hrun, s.nextTick_of_tick ht]

end Sys2Proof.Machine
end

section
/-! PROOFS. The PTP protocol engine: its management command, the messages it receives and those it sends (the first half of O52). -/

namespace Sys2Proof.Machine

/-! ### Mailbox commands (R359) -/

/-- The state in which an accepted mailbox command runs. -/
def State.accept (s : State) (f : Nat) (seq : BitVec 32) (cmd : Nat) : State :=
  s.setBox f { s.box f with accepted := seq, pending := true, cmd := cmd }

section Mailbox
variable {s : State} {f : Nat} {seq : BitVec 32}

/-- A function may submit the command with this sequence number. -/
def State.maySubmit (s : State) (f : Nat) (seq : BitVec 32) : Prop :=
  s.memReach f = true ∧ f ≠ 128 ∧ (s.box f).pending = false ∧ seq = (s.box f).replied + 1 ∧ s.boxBusy f = false

theorem State.submit_of_maySubmit (h : s.maySubmit f seq) (cmd : Nat) (mgr : Bool) (act : State → State) :
    s.submit f seq cmd mgr act =
      if (mgr && f != 0) = true then (s.accept f seq cmd).reply f cmd 2 0 [] else act (s.accept f seq cmd) := by
  obtain ⟨hreach, hf, hpending, hseq, hbusy⟩ := h
  have hbusy' : (s.accept f seq cmd).boxBusy f = false := hbusy
  have hfree : ¬(decide (f = 128) || (s.box f).pending || seq != (s.box f).replied + 1) = true := by
    simp [hf, hpending, hseq]
  rw [State.submit, if_neg (by rw [hreach]; decide), if_neg hfree]
  show (if (s.accept f seq cmd).boxBusy f = true then _ else _) = _
  rw [if_neg (by rw [hbusy']; decide)]
  rfl

theorem State.box_accept (s : State) (f : Nat) (seq : BitVec 32) (cmd : Nat) : ((s.accept f seq cmd).box f).pending = true := by
  rw [State.accept, State.box_setBox_self]

theorem State.accept_keepsBut (s : State) (f : Nat) (seq : BitVec 32) (cmd : Nat) : KeepsBut [.ten] s (s.accept f seq cmd) := by
  intro p hp
  cases p
  case ten => exact absurd List.mem_cons_self hp
  all_goals rfl

theorem State.signal_keepsBut (s : State) (f vec : Nat) : KeepsBut [.out, .host] s (s.signal f vec) := by
  unfold State.signal
  intro p hp
  split
  all_goals
    cases p
    case out => exact absurd List.mem_cons_self hp
    case host => exact absurd (List.mem_cons_of_mem _ List.mem_cons_self) hp
    all_goals rfl

theorem State.reply_keepsBut (s : State) (f cmd st d : Nat) (b : Bytes) : KeepsBut [.ten, .out, .host] s (s.reply f cmd st d b) := by
  unfold State.reply
  dsimp only
  split
  · exact KeepsBut.refl _ _
  · refine KeepsBut.trans ?_ ((State.signal_keepsBut _ f 0).mono (by simp))
    intro p hp
    cases p
    case ten => exact absurd List.mem_cons_self hp
    case out => exact absurd (List.mem_cons_of_mem _ List.mem_cons_self) hp
    all_goals rfl

end Mailbox

/-! ### The management command (R58) -/

section Manage
variable (s : State) (b : Bytes)

/-- A body is a MANAGEMENT TLV. -/
def isManagement (b : Bytes) : Prop := 6 ≤ b.length ∧ beAt b 0 2 = 1 ∧ beAt b 2 2 = b.length - 4

/-- The answer to a well-formed TLV. -/
def State.manageTlv (s : State) (id : Nat) (d : Bytes) : State × Option Bytes :=
  match SMap.find ptpSettable id with
  | some n =>
    if d.isEmpty then (s, some (ptpTlv id (s.ptpData id)))
    else if n ≠ 0 ∧ d.length ≠ n then (s, some (ptpError 3 id))
    else if ptpWrong id d then (s, some (ptpError 4 id))
    else (s.setPtp { s.ptp with data := SMap.put s.ptp.data id (some d) }, some (ptpTlv id d))
  | none =>
    if id = 0 then (s, some (ptpTlv 0 []))
    else if !ptpReadable.contains id then (s, some (ptpError 2 id))
    else if d.isEmpty then (s.useFree, some (ptpTlv id (s.ptpShow id)))
    else (s, some (ptpError 5 id))

theorem State.ptpManage_of_not (h : ¬isManagement b) : s.ptpManage b = (s, none) := by
  have hbad : b.length < 6 ∨ beAt b 0 2 ≠ 1 ∨ beAt b 2 2 ≠ b.length - 4 := by
    by_contra hgood
    push Not at hgood
    exact h hgood
  exact if_pos hbad

theorem State.ptpManage_of_isManagement (h : isManagement b) : s.ptpManage b = s.manageTlv (beAt b 4 2) (b.drop 6) := by
  obtain ⟨hlen, hty, hsize⟩ := h
  have hgood : ¬(b.length < 6 ∨ beAt b 0 2 ≠ 1 ∨ beAt b 2 2 ≠ b.length - 4) := by
    push Not
    exact ⟨hlen, hty, hsize⟩
  exact if_neg hgood

/-- The engine's answer goes out as the command's reply. -/
def State.tell (x : State × Option Bytes) : State :=
  match x with
  | (s, some r) => s.reply 0 0x16 0 0 r
  | (s, none) => s.reply 0 0x16 1 0 []

theorem exec_ptp_pf0 {s : State} {seq : BitVec 32} (h : s.maySubmit 0 seq) (b : Bytes) :
    exec (.ptp 0 seq b) s = .next (State.tell ((s.accept 0 seq 0x16).ptpManage b)) := by
  have hdef : exec (.ptp 0 seq b) s = .next (s.submit 0 seq 0x16 true (fun s => State.tell (s.ptpManage b))) := rfl
  rw [hdef, State.submit_of_maySubmit h, if_neg (by decide)]

theorem exec_ptp_other {s : State} {f : Fn} {seq : BitVec 32} (h : s.maySubmit f.val seq) (hf : f.val ≠ 0) (b : Bytes) :
    exec (.ptp f seq b) s = .next ((s.accept f.val seq 0x16).reply f.val 0x16 2 0 []) := by
  have hdef : exec (.ptp f seq b) s = .next (s.submit f.val seq 0x16 true (fun s =>
      match s.ptpManage b with
      | (s, some r) => s.reply f.val 0x16 0 0 r
      | (s, none) => s.reply f.val 0x16 1 0 [])) := rfl
  rw [hdef, State.submit_of_maySubmit h, if_pos (by simpa using hf)]

variable {s} {id : Nat} {d : Bytes}

section Settable
variable {m : Nat} (hm : SMap.find ptpSettable id = some m)
include hm

theorem State.manageTlv_get : s.manageTlv id [] = (s, some (ptpTlv id (s.ptpData id))) := by
  simp [State.manageTlv, hm]

variable (hd : d ≠ [])
include hd

theorem State.manageTlv_badLength (h0 : m ≠ 0) (hlen : d.length ≠ m) : s.manageTlv id d = (s, some (ptpError 3 id)) := by
  simp [State.manageTlv, hm, hd, h0, hlen]

variable (hlen : m = 0 ∨ d.length = m)
include hlen

omit hm hd in
theorem not_badLength : ¬(m ≠ 0 ∧ d.length ≠ m) := fun h => hlen.elim h.1 h.2

theorem State.manageTlv_wrong (hw : ptpWrong id d = true) : s.manageTlv id d = (s, some (ptpError 4 id)) := by
  simp only [State.manageTlv, hm, List.isEmpty_iff, hd, if_false, if_neg (not_badLength hlen), hw, if_true]

theorem State.manageTlv_set (hw : ptpWrong id d = false) : s.manageTlv id d =
    (s.setPtp { s.ptp with data := SMap.put s.ptp.data id (some d) }, some (ptpTlv id d)) := by
  simp only [State.manageTlv, hm, List.isEmpty_iff, hd, if_false, if_neg (not_badLength hlen), hw, Bool.false_eq_true]

end Settable

section Readable
variable (hm : SMap.find ptpSettable id = none)
include hm

theorem State.manageTlv_zero (h0 : id = 0) : s.manageTlv id d = (s, some (ptpTlv 0 [])) := by
  subst h0
  simp only [State.manageTlv, hm, if_true]

variable (h0 : id ≠ 0)
include h0

theorem State.manageTlv_unknown (hr : ptpReadable.contains id = false) : s.manageTlv id d = (s, some (ptpError 2 id)) := by
  simp only [State.manageTlv, hm, h0, if_false, hr, Bool.not_false, if_true]

variable (hr : ptpReadable.contains id = true)
include hr

theorem State.manageTlv_read : s.manageTlv id [] = (s.useFree, some (ptpTlv id (s.ptpShow id))) := by
  simp only [State.manageTlv, hm, h0, if_false, hr, Bool.not_true, Bool.false_eq_true, List.isEmpty_nil, if_true]

theorem State.manageTlv_readOnly (hd : d ≠ []) : s.manageTlv id d = (s, some (ptpError 5 id)) := by
  simp only [State.manageTlv, hm, h0, if_false, hr, Bool.not_true, Bool.false_eq_true, List.isEmpty_iff, hd]

end Readable

theorem leBytes_length (v n : Nat) : (leBytes v n).length = n := by
  induction n generalizing v with
  | zero => rfl
  | succ n ih => rw [leBytes, List.length_cons, ih]

/-- A SET that is taken stores its data and answers it. -/
theorem completes_ptpSet {s : State} {seq : BitVec 32} (h : s.maySubmit 0 seq) {b : Bytes} (hb : isManagement b) {m : Nat}
    (hm : SMap.find ptpSettable (beAt b 4 2) = some m) (hd : b.drop 6 ≠ []) (hlen : m = 0 ∨ (b.drop 6).length = m)
    (hw : ptpWrong (beAt b 4 2) (b.drop 6) = false) : Completes (.ptp 0 seq b) s (fun t =>
      SMap.find t.ptp.data (beAt b 4 2) = some (b.drop 6) ∧ (t.box 0).pending = false ∧
      (t.box 0).reply.drop 8 = ptpTlv (beAt b 4 2) (b.drop 6) ∧ KeepsBut [.ptp, .ten, .out, .host] s t) := by
  let u := s.accept 0 seq 0x16
  let v := u.setPtp { u.ptp with data := SMap.put u.ptp.data (beAt b 4 2) (some (b.drop 6)) }
  let r := ptpTlv (beAt b 4 2) (b.drop 6)
  have hv : KeepsBut [.ptp, .ten, .out, .host] u v := by
    intro p hp
    cases p
    case ptp => exact absurd List.mem_cons_self hp
    all_goals rfl
  obtain ⟨hpending, -, hreply⟩ := v.box_reply 0 0x16 0 0 r (s.box_accept 0 seq 0x16)
  have hkeeps := v.reply_keepsBut 0 0x16 0 0 r
  refine ⟨v.reply 0 0x16 0 0 r, ?_, ?_, hpending, ?_, ?_⟩
  · rw [exec_ptp_pf0 h, State.ptpManage_of_isManagement _ _ hb, State.manageTlv_set hm hd hlen hw]
    rfl
  · rw [show (v.reply 0 0x16 0 0 r).ptp = v.ptp from hkeeps .ptp (by decide)]
    exact SMap.find_put_self u.ptp.data (beAt b 4 2) (some (b.drop 6))
  · rw [hreply, List.drop_left' (by simp only [List.length_append, leBytes_length])]
  · exact ((s.accept_keepsBut 0 seq 0x16).mono (by simp)).trans (hv.trans (hkeeps.mono (by simp)))

end Manage

/-! ### The default dataset and what the engine never sends (R58) -/

theorem sliceB_length (b : Bytes) (i n : Nat) : (sliceB b i n).length = n := by
  simp only [sliceB, List.length_append, List.length_take, List.length_drop, List.length_replicate]
  omega

theorem pasteB_length (b v : Bytes) (i : Nat) (h : i + v.length ≤ b.length) : (pasteB b i v).length = b.length := by
  simp only [pasteB, List.length_take, List.length_append, List.length_drop]
  omega

theorem pasteB_getD_self (b : Bytes) (x : BitVec 8) (i : Nat) (h : i < b.length) : (pasteB b i [x]).getD i 0 = x := by
  have htake : (b.take i).length = i := List.length_take_of_le (le_of_lt h)
  simp [pasteB, List.getD_eq_getElem?_getD, h, htake]

theorem pasteB_getD_of_lt (b v : Bytes) (i j : Nat) (hj : j < i) (hi : i ≤ b.length) : (pasteB b i v).getD j 0 = b.getD j 0 := by
  have htake : (b.take i).length = i := List.length_take_of_le hi
  have hlen : j < b.length := lt_of_lt_of_le hj hi
  have hfirst : j < (b.take i).length := by rwa [htake]
  simp [pasteB, List.getD_eq_getElem?_getD, hlen, List.getElem?_append_left hfirst, hj]

/-- PRIORITY1 stands at octet 4 of the default dataset. -/
theorem State.ptpShow_priority1 (s : State) (h : (s.ptpData 0x2005).length = 2) :
    (s.ptpShow 0x2000).getD 4 0 = (s.ptpData 0x2005).getD 0 0 := by
  let base := pasteB (sliceB (Config.ptpRead 0x2000 s.freeCtr) 0 20) 0 [BitVec.ofNat 8 (2 * bit s.ptpSlaveOnly)]
  let b4 := pasteB base 4 (sliceB (s.ptpData 0x2005) 0 1)
  let b9 := pasteB b4 9 (sliceB (s.ptpData 0x2006) 0 1)
  have hshow : s.ptpShow 0x2000 = pasteB b9 18 (sliceB (s.ptpData 0x2007) 0 1) := rfl
  have hbase : base.length = 20 := (pasteB_length _ _ _ (by rw [sliceB_length]; exact Nat.le_add_left 1 19)).trans (sliceB_length _ _ _)
  have hb4 : b4.length = 20 := (pasteB_length _ _ _ (by rw [sliceB_length, hbase]; decide)).trans hbase
  have hb9 : b9.length = 20 := (pasteB_length _ _ _ (by rw [sliceB_length, hb4]; decide)).trans hb4
  have hfirst : sliceB (s.ptpData 0x2005) 0 1 = [(s.ptpData 0x2005).getD 0 0] := by
    obtain ⟨x, y, hxy⟩ := List.length_eq_two.1 h
    rw [hxy]
    rfl
  have hb4' : b4 = pasteB base 4 [(s.ptpData 0x2005).getD 0 0] := congrArg (pasteB base 4) hfirst
  rw [hshow, pasteB_getD_of_lt _ _ _ _ (by decide) (by rw [hb9]; decide), pasteB_getD_of_lt _ _ _ _ (by decide) (by rw [hb4]; decide), hb4',
    pasteB_getD_self _ _ _ (by rw [hbase]; decide)]

theorem State.ptpSends_slaveOnly (s : State) (b : Bytes) (o : Nat) {ty : Nat} (h : s.ptpSlaveOnly = true) (hty : ty = 0 ∨ ty = 8 ∨ ty = 11) :
    s.ptpSends b o ty = false := by
  rcases hty with rfl | rfl | rfl <;> simp [State.ptpSends, h]

theorem State.ptpSends_delayReq (s : State) (b : Bytes) (o : Nat) (h : SMap.find s.ptp.data 0x6000 = some [2, 0]) :
    s.ptpSends b o 1 = false := by
  have hdelay : beAt [2#8, 0#8] 0 1 = 2 := by decide
  simp [State.ptpSends, h, hdelay]

theorem State.ptpSends_pdelayReq (s : State) (b : Bytes) (o : Nat) (h : SMap.find s.ptp.data 0x6000 = some [1, 0]) :
    s.ptpSends b o 2 = false := by
  have hdelay : beAt [1#8, 0#8] 0 1 = 1 := by decide
  simp [State.ptpSends, h, hdelay]

/-! ### A received message (R48, R58, R90) -/

section Received
variable {s : State} {fid : Nat} {seen : PtpSeen} {g : Frame} (hg : s.frame? fid = some g)

theorem exec_ptpEventRx_none (h : s.frame? fid = none) : exec (.ptpEventRx fid seen) s = .next s := by
  have hdef : exec (.ptpEventRx fid seen) s = execPtpEventRx fid seen s := rfl
  rw [hdef]
  simp only [execPtpEventRx, h]

/-- The received message is a Pdelay_Req. -/
def isPdelayReq (b : Bytes) : Prop := isPtpEvent b = true ∧ beAt b ((ptpOffset b).getD 0) 1 % 16 = 2

/-- The engine notes a Pdelay_Req. -/
def State.hearPdelay (u : State) (g : Frame) : State :=
  let o := (ptpOffset g.bytes).getD 0
  if isPtpEvent g.bytes && beAt g.bytes o 1 % 16 == 2 then
    u.notePdelay (g.port.getD 0) (beAt g.bytes (o + 30) 2) (beAt g.bytes (o + 20) 10) (u.evtStamp (g.port.getD 0) g.bytes g.lt)
  else u

/-- An offset goes to the servo as a software sample. -/
def State.submitTheta (u : State) (at_ : BitVec 64) : Option (BitVec 64) → State
  | some th => u.submitSample { at_ := at_, theta := th.toInt, pps := false }
  | none => u

/-- A Pdelay_Req is noted, and the sample goes to the servo. -/
def State.noteMessage (u : State) (g : Frame) (theta : Option (BitVec 64)) : State :=
  (u.hearPdelay g).submitTheta (u.evtStamp (g.port.getD 0) g.bytes g.lt) theta

include hg

theorem exec_ptpEventRx_waiting (h : g.stage ≠ .ptp ∨ g.ended = false) : exec (.ptpEventRx fid seen) s = .next s := by
  have hdef : exec (.ptpEventRx fid seen) s = execPtpEventRx fid seen s := rfl
  rw [hdef]
  simp only [execPtpEventRx, hg, h, if_true]

variable (hstage : g.stage = .ptp) (hended : g.ended = true)
include hstage hended

theorem exec_ptpEventRx_ended : exec (.ptpEventRx fid seen) s =
    .next (if g.failed = false ∧ s.gateOpen = true ∧ s.ptpMine g.bytes = true then
      (match seen.role with
        | some r => ((s.putFrame fid { g with stage := .done }).noteMessage g seen.theta).ptpTake r
        | none => (s.putFrame fid { g with stage := .done }).noteMessage g seen.theta)
      else s.putFrame fid { g with stage := .done }) := by
  have hdef : exec (.ptpEventRx fid seen) s = execPtpEventRx fid seen s := rfl
  have hrun : ¬(g.stage ≠ .ptp ∨ g.ended = false) := by rw [hstage, hended]; decide
  rw [hdef]
  unfold execPtpEventRx
  rw [hg]
  dsimp only
  rw [if_neg hrun]
  have hgate : (s.putFrame fid { g with stage := .done }).gateOpen = s.gateOpen := rfl
  have hmine : (s.putFrame fid { g with stage := .done }).ptpMine g.bytes = s.ptpMine g.bytes := rfl
  rw [hgate, hmine]
  by_cases htakes : g.failed = false ∧ s.gateOpen = true ∧ s.ptpMine g.bytes = true
  · rw [if_pos htakes, if_neg (by rw [htakes.1, htakes.2.1, htakes.2.2]; decide)]
    cases seen.theta <;> cases seen.role <;> rfl
  · have hskip : (g.failed || !s.gateOpen || !s.ptpMine g.bytes) = true := by
      by_contra hno
      simp only [Bool.or_eq_true, Bool.not_eq_true', not_or, Bool.not_eq_true, Bool.not_eq_false] at hno
      exact htakes ⟨hno.1.1, hno.1.2, hno.2⟩
    rw [if_neg htakes, if_pos hskip]

end Received

section Noted
variable (u : State) (g : Frame)

theorem State.hearPdelay_of (h : isPdelayReq g.bytes) : u.hearPdelay g =
    u.notePdelay (g.port.getD 0) (beAt g.bytes ((ptpOffset g.bytes).getD 0 + 30) 2) (beAt g.bytes ((ptpOffset g.bytes).getD 0 + 20) 10)
      (u.evtStamp (g.port.getD 0) g.bytes g.lt) :=
  if_pos (by rw [h.1, h.2]; decide)

theorem State.hearPdelay_of_not (h : ¬isPdelayReq g.bytes) : u.hearPdelay g = u := if_neg (by simpa [isPdelayReq] using h)

theorem State.notePdelay_head (n seq who : Nat) (t : BitVec 64) :
    (SMap.getD (u.notePdelay n seq who t).ptp.pdelay n []).head? = some (seq, who, t) := by
  unfold State.notePdelay State.setPtp
  dsimp only
  rw [SMap.getD_setD_self, List.head?_cons]

theorem State.setPtp_keepsBut (p : Ptp) : KeepsBut [.ptp] u (u.setPtp p) := by
  intro q hq
  cases q
  case ptp => exact absurd List.mem_cons_self hq
  all_goals rfl

theorem State.hearPdelay_keeps : KeepsBut [.ptp] u (u.hearPdelay g) ∧ (u.hearPdelay g).ptp.role = u.ptp.role := by
  by_cases h : isPdelayReq g.bytes
  · rw [u.hearPdelay_of g h]
    exact ⟨u.setPtp_keepsBut _, rfl⟩
  · rw [u.hearPdelay_of_not g h]
    exact ⟨KeepsBut.refl _ _, rfl⟩

theorem State.submitTheta_keeps (t : BitVec 64) (theta : Option (BitVec 64)) :
    KeepsBut [.crest] u (u.submitTheta t theta) ∧ (theta = none → (u.submitTheta t theta).crest = u.crest) ∧
    ∀ th, theta = some th → (u.submitTheta t theta).crest.samples = u.crest.samples ++ [{ at_ := t, theta := th.toInt, pps := false }] := by
  cases theta with
  | none => exact ⟨KeepsBut.refl _ _, fun _ => rfl, fun _ h => (nomatch h)⟩
  | some th =>
    refine ⟨State.submitSample_keepsBut _ _, fun h => (nomatch h), fun th' h => ?_⟩
    obtain rfl := Option.some.inj h
    rfl

theorem State.putFrame_keepsBut (fid : Nat) : KeepsBut [.ports] u (u.putFrame fid g) := by
  intro p hp
  cases p
  case ports => exact absurd List.mem_cons_self hp
  all_goals rfl

end Noted

/-- A message of the engine's domain, that gives no role: its sample and its Pdelay_Req are taken. -/
theorem State.noteMessage_results (s : State) (fid : Nat) (g : Frame) (theta : Option (BitVec 64)) :
    let u := s.putFrame fid { g with stage := .done }
    let t := u.noteMessage g theta
    let o := (ptpOffset g.bytes).getD 0
    let at_ := s.evtStamp (g.port.getD 0) g.bytes g.lt
    t.ports = u.ports ∧ t.ptp.role = s.ptp.role ∧ (theta = none → t.crest = s.crest) ∧
    (∀ th, theta = some th → t.crest.samples = s.crest.samples ++ [{ at_ := at_, theta := th.toInt, pps := false }]) ∧
    (isPdelayReq g.bytes → (SMap.getD t.ptp.pdelay (g.port.getD 0) []).head? =
      some (beAt g.bytes (o + 30) 2, beAt g.bytes (o + 20) 10, at_)) ∧
    (¬isPdelayReq g.bytes → t.ptp = s.ptp) ∧ KeepsBut [.ports, .crest, .ptp] s t := by
  intro u t o at_
  let v := u.hearPdelay g
  obtain ⟨hheard, hrole⟩ := u.hearPdelay_keeps g
  obtain ⟨hsent, hnone, hsome⟩ := v.submitTheta_keeps at_ theta
  have hcrest : v.crest = s.crest := hheard .crest (by decide)
  have hptp : t.ptp = v.ptp := hsent .ptp (by decide)
  refine ⟨(hsent .ports (by decide)).trans (hheard .ports (by decide)), ?_, fun h => (hnone h).trans hcrest,
    fun th h => (hsome th h).trans (by rw [hcrest]), fun h => ?_, fun h => ?_, ?_⟩
  · rw [hptp]
    exact hrole
  · rw [hptp, show v = _ from u.hearPdelay_of g h, State.notePdelay_head]
    rfl
  · rw [hptp, show v = _ from u.hearPdelay_of_not g h]
    rfl
  · exact ((s.putFrame_keepsBut { g with stage := .done } fid).mono (by simp)).trans
      ((hheard.mono (by simp)).trans (hsent.mono (by simp)))

/-! ### A message to send (R58, R90, R91) -/

section Send
variable (s : State) (n : Port) (ty : Fin 16) (fr : Bytes)

/-- What the engine sends: the message as a frame of Q3, with the stamp of the request it answers. -/
def State.ptpFrame (s : State) (p ty : Nat) (b : Bytes) (t : BitVec 64) : Frame :=
  let one := s.is .portPtpCfgOnestep p && (ty == 0 || ty == 3)
  { bytes := b, hdr := sliceB b 0 256, owner := 1, stage := .egress, ended := true, whole := true, lt := s.lt,
    dest := .queue p, queue := 3, copies := 1, onWire := 1, ptp := some (ty, t),
    ts := if ty < 4 && !one then some (s.free.toNat % 65536, none) else none }

/-- A frame enters Q3 of its port or is dropped. -/
def State.sendPtp (v : State) (p : Nat) (f : Frame) : State :=
  let y := (v.useFree.newFrame f).1.enterQueue v.ports.nextFrame p 3 f
  if y.2 then y.1 else y.1.discard v.ports.nextFrame

theorem State.ptpFrame_ts (p ty : Nat) (b : Bytes) (t : BitVec 64) :
    (s.ptpFrame p ty b t).ts = none ↔ 4 ≤ ty ∨ s.is .portPtpCfgOnestep p = true ∧ (ty = 0 ∨ ty = 3) := by
  have hts : (s.ptpFrame p ty b t).ts =
      if ty < 4 && !(s.is .portPtpCfgOnestep p && (ty == 0 || ty == 3)) then some (s.free.toNat % 65536, none) else none := rfl
  rw [hts, ite_eq_right_iff]
  by_cases h4 : ty < 4
  · have hlow : ¬4 ≤ ty := by omega
    simp only [h4, hlow, decide_true, Bool.true_and, Bool.not_eq_true', reduceCtorEq, imp_false, Bool.not_eq_false, Bool.and_eq_true,
      Bool.or_eq_true, beq_iff_eq, false_or]
  · have hhigh : 4 ≤ ty := by omega
    simp [h4, hhigh]

theorem State.takePdelay_keeps (p seq who : Nat) :
    (s.takePdelay p seq who).2.ports = s.ports ∧ (s.takePdelay p seq who).2.regs = s.regs := by
  unfold State.takePdelay
  dsimp only
  split <;> exact ⟨rfl, rfl⟩

/-- The message is one the engine sends on this port now. -/
def State.mayPtp (s : State) (p ty : Nat) (b : Bytes) : Prop :=
  ptpOffset b ≠ none ∧ s.gateOpen = true ∧ s.portOn p = true ∧ s.is .portPtpCfgPtpEn p = true ∧
  beAt b ((ptpOffset b).getD 0) 1 % 16 = ty ∧ s.ptpMine b = true ∧ s.ptpSends b ((ptpOffset b).getD 0) ty = true

/-- The request that a Pdelay_Resp answers is taken. -/
def State.matchPdelay (s : State) (p ty : Nat) (b : Bytes) : BitVec 64 × State :=
  if ty = 3 then s.takePdelay p (beAt b ((ptpOffset b).getD 0 + 30) 2) (beAt b ((ptpOffset b).getD 0 + 44) 10) else (0, s)

theorem exec_ptpMessageSend_of_not (h : ¬s.mayPtp n.val ty.val (sealFrame fr false)) : exec (.ptpMessageSend n ty fr) s = .next s := by
  have hdef : exec (.ptpMessageSend n ty fr) s = execPtpMessageSend n ty fr s := rfl
  rw [hdef]
  unfold execPtpMessageSend
  dsimp only
  generalize hb : sealFrame fr false = b at h
  split
  · rfl
  next o ho =>
    refine if_pos ?_
    by_contra hno
    simp only [Bool.or_eq_true, Bool.not_eq_true', bne_iff_ne, not_or, not_not, Bool.not_eq_false] at hno
    obtain ⟨⟨⟨⟨⟨hgate, hport⟩, hen⟩, hty⟩, hmine⟩, hsends⟩ := hno
    have hget : (ptpOffset b).getD 0 = o := by rw [ho]; rfl
    refine h ⟨by rw [ho]; simp, hgate, hport, hen, ?_, hmine, ?_⟩
    · rw [hget, hty]
    · rw [hget, hsends]

theorem exec_ptpMessageSend_of (h : s.mayPtp n.val ty.val (sealFrame fr false)) :
    let b := sealFrame fr false
    let q := s.matchPdelay n.val ty.val b
    exec (.ptpMessageSend n ty fr) s = .next (q.2.sendPtp n.val (q.2.ptpFrame n.val ty.val b q.1)) := by
  intro b q
  have hdef : exec (.ptpMessageSend n ty fr) s = execPtpMessageSend n ty fr s := rfl
  rw [hdef]
  unfold execPtpMessageSend
  dsimp only
  obtain ⟨ho, hgate, hport, hen, hty, hmine, hsends⟩ := h
  split
  next hnone => exact absurd hnone ho
  next o hsome =>
    have hget : (ptpOffset (sealFrame fr false)).getD 0 = o := by rw [hsome]; rfl
    rw [hget] at hty hsends
    rw [if_neg (by simp [hgate, hport, hen, hty, hmine, hsends])]
    have hq : (if ty.val = 3 then s.takePdelay n.val (beAt (sealFrame fr false) (o + 30) 2) (beAt (sealFrame fr false) (o + 44) 10) else (0, s)) = q := by
      rw [← hget]
      rfl
    rw [hq]
    rfl

end Send


/-! ### The PTP clauses of O52 -/

section Clauses
variable {s : State}

theorem ptpCommand_clauses {seq : BitVec 32} (h : s.maySubmit 0 seq) (b : Bytes) :
    let u := s.accept 0 seq 0x16
    let id := beAt b 4 2
    let d := b.drop 6
    let tells := fun (r : Bytes) => exec (.ptp 0 seq b) s = .next (u.reply 0 0x16 0 0 r)
    (¬isManagement b → exec (.ptp 0 seq b) s = .next (u.reply 0 0x16 1 0 [])) ∧
    (isManagement b →
      (∀ m, SMap.find ptpSettable id = some m →
        (d = [] → tells (ptpTlv id (s.ptpData id))) ∧
        (d ≠ [] → m ≠ 0 → d.length ≠ m → tells (ptpError 3 id)) ∧
        (d ≠ [] → (m = 0 ∨ d.length = m) → ptpWrong id d = true → tells (ptpError 4 id)) ∧
        (d ≠ [] → (m = 0 ∨ d.length = m) → ptpWrong id d = false → Completes (.ptp 0 seq b) s (fun t =>
          SMap.find t.ptp.data id = some d ∧ (t.box 0).pending = false ∧ (t.box 0).reply.drop 8 = ptpTlv id d ∧
          KeepsBut [.ptp, .ten, .out, .host] s t))) ∧
      (SMap.find ptpSettable id = none → id = 0 → tells (ptpTlv 0 [])) ∧
      (SMap.find ptpSettable id = none → id ≠ 0 → ptpReadable.contains id = false → tells (ptpError 2 id)) ∧
      (SMap.find ptpSettable id = none → id ≠ 0 → ptpReadable.contains id = true →
        (d ≠ [] → tells (ptpError 5 id)) ∧
        (d = [] → exec (.ptp 0 seq b) s = .next (u.useFree.reply 0 0x16 0 0 (ptpTlv id (s.ptpShow id)))))) := by
  intro u id d tells
  have hrun := exec_ptp_pf0 h b
  refine ⟨fun hb => by rw [hrun, State.ptpManage_of_not _ _ hb]; rfl, fun hb => ?_⟩
  have htlv : exec (.ptp 0 seq b) s = .next (State.tell (u.manageTlv id d)) := by
    rw [hrun, State.ptpManage_of_isManagement _ _ hb]
  refine ⟨fun m hm => ⟨fun hd => ?_, fun hd h0 hlen => ?_, fun hd hlen hw => ?_, fun hd hlen hw => completes_ptpSet h hb hm hd hlen hw⟩,
    fun hm h0 => ?_, fun hm h0 hr => ?_, fun hm h0 hr => ⟨fun hd => ?_, fun hd => ?_⟩⟩
  · exact htlv.trans (by rw [hd, State.manageTlv_get hm]; rfl)
  · exact htlv.trans (by rw [State.manageTlv_badLength hm hd h0 hlen]; rfl)
  · exact htlv.trans (by rw [State.manageTlv_wrong hm hd hlen hw]; rfl)
  · exact htlv.trans (by rw [State.manageTlv_zero hm h0]; rfl)
  · exact htlv.trans (by rw [State.manageTlv_unknown hm h0 hr]; rfl)
  · exact htlv.trans (by rw [State.manageTlv_readOnly hm h0 hr hd]; rfl)
  · rw [htlv, hd, State.manageTlv_read hm h0 hr]
    rfl

theorem ptpEventRx_clauses {fid : Nat} {g : Frame} (hg : s.frame? fid = some g) (seen : PtpSeen) :
    let u := s.putFrame fid { g with stage := .done }
    let port := g.port.getD 0
    let o := (ptpOffset g.bytes).getD 0
    let ask := isPdelayReq g.bytes
    let takes := g.failed = false ∧ s.gateOpen = true ∧ s.ptpMine g.bytes = true
    ((g.stage ≠ .ptp ∨ g.ended = false) → exec (.ptpEventRx fid seen) s = .next s) ∧
    (g.stage = .ptp → g.ended = true →
      (¬takes → exec (.ptpEventRx fid seen) s = .next u) ∧
      (takes → seen.role = none → Completes (.ptpEventRx fid seen) s (fun t => t.ports = u.ports ∧ t.ptp.role = s.ptp.role ∧
        (seen.theta = none → t.crest = s.crest) ∧
        (∀ th, seen.theta = some th → t.crest.samples = s.crest.samples ++
          [{ at_ := s.evtStamp port g.bytes g.lt, theta := th.toInt, pps := false }]) ∧
        (ask → (SMap.getD t.ptp.pdelay port []).head? =
          some (beAt g.bytes (o + 30) 2, beAt g.bytes (o + 20) 10, s.evtStamp port g.bytes g.lt)) ∧
        (¬ask → t.ptp = s.ptp) ∧ KeepsBut [.ports, .crest, .ptp] s t)) ∧
      (takes → ¬ask → seen.theta = none → ∀ r, seen.role = some r → exec (.ptpEventRx fid seen) s = .next (u.ptpTake r))) := by
  intro u port o ask takes
  refine ⟨fun h => exec_ptpEventRx_waiting hg h, fun hstage hended => ?_⟩
  have hrun := exec_ptpEventRx_ended (seen := seen) hg hstage hended
  refine ⟨fun hno => ?_, fun htakes hrole => ⟨u.noteMessage g seen.theta, ?_, s.noteMessage_results fid g seen.theta⟩,
    fun htakes hask htheta r hrole => ?_⟩
  · rw [hrun, if_neg hno]
  · rw [hrun, if_pos htakes, hrole]
  · rw [hrun, if_pos htakes, hrole, htheta, State.noteMessage, State.hearPdelay_of_not _ _ hask]
    rfl

theorem ptpMessageSend_clauses (n : Port) (ty : Fin 16) (fr : Bytes) :
    let m := sealFrame fr false
    let o := (ptpOffset m).getD 0
    (¬s.mayPtp n.val ty.val m → exec (.ptpMessageSend n ty fr) s = .next s) ∧
    (s.mayPtp n.val ty.val m → let q := s.takePdelay n.val (beAt m (o + 30) 2) (beAt m (o + 44) 10)
      let v := if ty.val = 3 then q.2 else s
      ∃ g : Frame, g.bytes = m ∧ (ty.val = 3 → g.ptp.map (fun x => x.2) = some q.1) ∧ g.dest = .queue n.val ∧ g.queue = 3 ∧ g.con = none ∧
      (g.ptp.map (fun x => x.1)) = some ty.val ∧
      g.whole = true ∧ (g.ts = none ↔ 4 ≤ ty.val ∨ s.is .portPtpCfgOnestep n.val = true ∧ (ty.val = 0 ∨ ty.val = 3)) ∧
      let y := ((v.useFree.newFrame g).1.enterQueue s.ports.nextFrame n.val 3 g)
      exec (.ptpMessageSend n ty fr) s = .next (if y.2 = true then y.1 else y.1.discard s.ports.nextFrame)) := by
  intro m o
  refine ⟨exec_ptpMessageSend_of_not s n ty fr, fun hmay => ?_⟩
  intro q v
  let x := s.matchPdelay n.val ty.val m
  have htaken : q.2.ports = s.ports ∧ q.2.regs = s.regs := s.takePdelay_keeps _ _ _
  have hx : x.2 = v ∧ (ty.val = 3 → x.1 = q.1) := by
    by_cases h3 : ty.val = 3
    · have hmatch : x = q := if_pos h3
      exact ⟨by rw [hmatch]; exact (if_pos h3).symm, fun _ => by rw [hmatch]⟩
    · exact ⟨(congrArg Prod.snd (if_neg h3 : x = (0, s))).trans (if_neg h3).symm, fun h => absurd h h3⟩
  have hv : v.ports = s.ports ∧ v.regs = s.regs := by
    by_cases h3 : ty.val = 3
    · rw [show v = q.2 from if_pos h3]
      exact htaken
    · rw [show v = s from if_neg h3]
      exact ⟨rfl, rfl⟩
  have hone : v.is .portPtpCfgOnestep n.val = s.is .portPtpCfgOnestep n.val := by
    rw [State.is, State.get_of_regs hv.2, State.is]
  refine ⟨v.ptpFrame n.val ty.val m x.1, rfl, fun h3 => ?_, rfl, rfl, rfl, rfl, rfl, ?_, ?_⟩
  · rw [← hx.2 h3]
    rfl
  · rw [v.ptpFrame_ts, hone]
  · have hrun := exec_ptpMessageSend_of s n ty fr hmay
    rw [hrun, hx.1, State.sendPtp, hv.1]

end Clauses

end Sys2Proof.Machine
end

section
/-! PROOFS. The rules of the journal's commands: the end of a command, what settling does to a single command, and the fetch of a
slot. -/

namespace Sys2Proof.Machine

/-! ### A journal of one command -/

section Single
variable {s : State} {k : Nat} {c : JCmd}

theorem SMap.put_nil {α : Type} (k : Nat) (a : α) : SMap.put [] k (some a) = [(k, a)] := rfl

theorem SMap.put_single {α : Type} (k : Nat) (a b : α) : SMap.put [(k, a)] k (some b) = [(k, b)] := by
  simp [SMap.put, SMap.del, SMap.ins]

/-- What a map holds after a put was there or is put. -/
theorem SMap.mem_put {α : Type} {m : SMap α} {k : Nat} {a : α} {e : Nat × α} (h : e ∈ SMap.put m k (some a)) : e = (k, a) ∨ e ∈ m :=
  (SMap.mem_ins h).imp_right List.mem_of_mem_filter

theorem State.jcmd_of_single (h : s.jrn.cmds = [(k, c)]) : s.jcmd? k = some c := by
  rw [State.jcmd?, h]
  exact if_pos rfl

theorem State.jcmd_putJ (s : State) (k : Nat) (c : JCmd) : (s.putJ k (some c)).jcmd? k = some c := SMap.find_put_self s.jrn.cmds k (some c)

end Single

/-! ### Sending to the host leaves the journal -/

theorem State.regs_of_unsent {s t : State} (h : t.unsent = s.unsent) : t.regs = s.regs := State.eq_of_unsent State.regs (fun _ => rfl) h

theorem State.jrn_of_unsent {s t : State} (h : t.unsent = s.unsent) : t.jrn = s.jrn := State.eq_of_unsent State.jrn (fun _ => rfl) h

theorem State.reg_of_regs {s t : State} (h : t.regs = s.regs) (r : RegName) (i : Nat) : t.reg r i = s.reg r i := by
  rw [State.reg, h, State.reg]

/-! ### The end of a command (R389) -/

/-- A tag's bit taken off. -/
def clearBit (m i : Nat) : Nat := if bitOf m i then m - 2 ^ i else m

theorem bitOf_clearBit (m i : Nat) : bitOf (clearBit m i) i = false := by
  unfold clearBit
  split
  next h =>
    have hpos : 0 < 2 ^ i := Nat.two_pow_pos i
    simp only [bitOf, beq_iff_eq, Nat.shiftRight_eq_div_pow] at h
    have hsub : (m - 2 ^ i) / 2 ^ i = m / 2 ^ i - 1 := by
      simpa using Nat.sub_mul_div m (2 ^ i) 1
    simp only [bitOf, Nat.shiftRight_eq_div_pow, hsub, beq_eq_false_iff_ne]
    omega
  next h => simpa using h

theorem clearBit_le (m i : Nat) : clearBit m i ≤ m := by
  unfold clearBit
  split
  · exact Nat.sub_le _ _
  · exact le_refl _

section Free
variable (s : State) (q tag : Nat)

/-- The queue with the tag's bit taken off. -/
def State.untag (s : State) (q tag : Nat) : State := s.set .jrnQStaOutstanding q (clearBit (s.get .jrnQStaOutstanding q) tag)

theorem State.jFree_cases : s.jFree q tag = s.untag q tag ∨
    s.jFree q tag = ((s.untag q tag).set .jrnQStaState q 0).leaveService ⟨.jq, q⟩ := by
  unfold State.jFree
  extract_lets m u
  exact (ite_eq_or_eq _ _ _).symm

theorem State.leaveService_get (b : Blk) (f : Fld) (i : Nat) : (s.leaveService b).get f i = s.get f i := rfl

theorem State.jFree_jrn : (s.jFree q tag).jrn = s.jrn := by
  rcases s.jFree_cases q tag with h | h <;> rw [h] <;> rfl

theorem State.get_untag : (s.untag q tag).get .jrnQStaOutstanding q = clearBit (s.get .jrnQStaOutstanding q) tag := by
  rw [State.untag, State.get_set_self _ .jrnQStaOutstanding _ _ (by decide) (by decide)]
  exact Nat.mod_eq_of_lt (lt_of_le_of_lt (clearBit_le _ _) (s.get_lt .jrnQStaOutstanding q))

theorem State.jFree_outstanding : (s.jFree q tag).get .jrnQStaOutstanding q = clearBit (s.get .jrnQStaOutstanding q) tag := by
  rcases s.jFree_cases q tag with h | h
  · rw [h, s.get_untag]
  · rw [h, State.leaveService_get, State.get_set_beside (f := .jrnQStaState) (g := .jrnQStaOutstanding) _ _ rfl (by decide) (by decide)
      (by decide), s.get_untag]

theorem State.jFree_get_of_ne {f : Fld} (hf : f.reg ≠ .jrnQSta) (i : Nat) : (s.jFree q tag).get f i = s.get f i := by
  have huntag : (s.untag q tag).get f i = s.get f i := s.get_set_of_ne (f := .jrnQStaOutstanding) _ (.inl hf)
  rcases s.jFree_cases q tag with h | h
  · rw [h, huntag]
  · rw [h, State.leaveService_get, State.get_set_of_ne (f := .jrnQStaState) _ _ (.inl hf), huntag]

end Free

section Complete
variable (s : State) (c : JCmd) (st d b : Nat)

/-- A completion writes to the host, counts and frees the tag. -/
theorem State.jComplete_eq : ∃ x : State, s.jComplete c st d b = x.jFree c.q c.tag ∧ x.regs = (s.bump .jrnQDoneDone c.q).regs ∧
    x.jrn = { s.jrn with uses := SMap.setD s.jrn.uses (c.q * 32 + c.tag) (s.jUse c.q c.tag + 1) 0 } := by
  unfold State.jComplete
  extract_lets a u tail v w j x
  have hv : v.unsent = s.unsent := by
    by_cases h : c.op = 0
    · rw [show v = s.hostWrite pf1 (a + 32) tail from if_pos h]
      exact s.hostWrite_unsent _ _ _
    · rw [show v = s.hostWrite pf1 a (sliceB c.slot 0 32 ++ tail) from if_neg h]
      exact s.hostWrite_unsent _ _ _
  have hw : w.unsent = s.unsent := (v.hostWrite_unsent _ _ _).trans hv
  have hregs : x.regs = s.regs := (State.regs_of_unsent hw : w.regs = s.regs)
  have hjrn : x.jrn = { s.jrn with uses := SMap.setD s.jrn.uses (c.q * 32 + c.tag) (s.jUse c.q c.tag + 1) 0 } := by
    have hx : x.jrn = { w.jrn with uses := SMap.setD w.jrn.uses (c.q * 32 + c.tag) (u + 1) 0 } := rfl
    rw [hx, State.jrn_of_unsent hw]
  refine ⟨_, rfl, ?_, ?_⟩
  · rw [State.regs_of_unsent (State.signal_unsent _ _ _)]
    simp only [State.bump, State.set, State.setReg, State.get, State.reg, hregs]
  · rw [State.jrn_of_unsent (State.signal_unsent _ _ _)]
    exact hjrn

/-- What a completion does to the journal. -/
theorem State.jComplete_results :
    (s.jComplete c st d b).jrn = { s.jrn with uses := SMap.setD s.jrn.uses (c.q * 32 + c.tag) (s.jUse c.q c.tag + 1) 0 } ∧
    bitOf ((s.jComplete c st d b).get .jrnQStaOutstanding c.q) c.tag = false ∧
    (s.jComplete c st d b).get .jrnQDoneDone c.q = (s.get .jrnQDoneDone c.q + 1) % 2 ^ 64 := by
  obtain ⟨x, hx, hregs, hjrn⟩ := s.jComplete_eq c st d b
  rw [hx]
  refine ⟨(x.jFree_jrn _ _).trans hjrn, by rw [x.jFree_outstanding, bitOf_clearBit], ?_⟩
  rw [x.jFree_get_of_ne _ _ (by decide), State.get_of_regs hregs]
  exact s.get_bump_self .jrnQDoneDone c.q 1 (by decide) (by decide)

end Complete

/-- A command has ended and its tag is free; nothing else is in the journal. -/
def State.ended (s x : State) (q tag : Nat) (cmds : SMap JCmd) : Prop :=
  bitOf (x.get .jrnQStaOutstanding q) tag = false ∧ x.jrn.cmds = cmds ∧
  x.get .jrnQDoneDone q = (s.get .jrnQDoneDone q + 1) % 2 ^ 64 ∧ x.jUse q tag = s.jUse q tag + 1

section Single
variable {s : State} {k : Nat} {c : JCmd} (h : s.jrn.cmds = [(k, c)])
include h

theorem State.jEnd_single (hlive : c.live = true) (st d b : Nat) :
    s.ended (s.jEnd k st d b) c.q c.tag [(k, { c with live := false })] := by
  have hend : s.jEnd k st d b = (s.putJ k (some { c with live := false })).jComplete c st d b := by
    simp only [State.jEnd, State.jcmd_of_single h, hlive, if_true]
  obtain ⟨hjrn, hbit, hdone⟩ := (s.putJ k (some { c with live := false })).jComplete_results c st d b
  rw [hend]
  refine ⟨hbit, ?_, hdone, ?_⟩
  · rw [hjrn]
    have hput : (s.putJ k (some { c with live := false })).jrn.cmds = SMap.put s.jrn.cmds k (some { c with live := false }) := rfl
    dsimp only
    rw [hput, h, SMap.put_single]
  · rw [State.jUse, hjrn]
    dsimp only
    rw [SMap.getD_setD_self]
    rfl

end Single

/-! ### Settling (R381, R382) -/

theorem State.noteReps_of_none (s : State) (q : Nat) {c : JCmd} (hreps : c.reps = [0, 0]) : s.noteReps q c = s := by
  have hnone : (List.range 2).filter (fun p => c.rep p != 0) = [] := by
    simp [List.range_succ, JCmd.rep, hreps]
  rw [State.noteReps, hnone, List.foldl_nil]

/-- The replicas of a WRITE that is over are noted. -/
def State.noteOver (s : State) (e : Nat × JCmd) : State :=
  if e.2.over && e.2.op == 1 && e.2.started then (if e.2.past then s else s.noteReps e.2.q e.2).noteReps 64 e.2 else s

/-- The journal holds only what is not over of `cmds`. -/
def State.keepOpen (s : State) (cmds : SMap JCmd) : State :=
  { s with jrn := { s.jrn with cmds := cmds.filter (fun e => !e.2.over) } }

theorem State.jForget_eq (s : State) :
    s.jForget = (s.jrn.cmds.foldl State.noteOver s).keepOpen (s.jrn.cmds.foldl State.noteOver s).jrn.cmds := rfl

theorem State.noteOver_of_none (s : State) (k : Nat) {c : JCmd} (hreps : c.reps = [0, 0]) : s.noteOver (k, c) = s := by
  simp only [State.noteOver, State.noteReps_of_none _ _ hreps, ite_self]

theorem JCmd.over_of_none {c : JCmd} (hreps : c.reps = [0, 0]) : c.over = !c.live := by
  have hsettled : c.settled = true := by rw [JCmd.settled, hreps]; rfl
  rw [JCmd.over, hsettled, Bool.not_true, Bool.and_false, Bool.not_false, Bool.and_true]

/-- What is left of a command without replicas. -/
theorem State.jForget_single {s : State} {k : Nat} {c : JCmd} (h : s.jrn.cmds = [(k, c)]) (hreps : c.reps = [0, 0]) :
    s.jForget = { s with jrn := { s.jrn with cmds := if c.live then [(k, c)] else [] } } := by
  have hfold : s.jrn.cmds.foldl State.noteOver s = s := by
    rw [h, List.foldl_cons, List.foldl_nil, State.noteOver_of_none _ _ hreps]
  rw [State.jForget_eq, hfold, h, State.keepOpen, List.filter_cons, JCmd.over_of_none hreps, Bool.not_not, List.filter_nil]

/-- One command's turn as the journal settles. -/
def State.settleOne (s : State) (e : Nat × JCmd) : State :=
  match e.2.op with
  | 1 => (s.runFua e.1).stageWrite e.1
  | 2 => s.runRead e.1
  | 3 => s.runFlush e.1
  | _ => s

theorem State.jSettle_eq (s : State) : s.jSettle = (s.jrn.cmds.foldl State.settleOne s).jForget := rfl

theorem State.jSettle_of_nil {s : State} (h : s.jrn.cmds = []) : s.jSettle = s := by
  rw [State.jSettle_eq, h, List.foldl_nil, State.jForget_eq, h, List.foldl_nil, State.keepOpen, h, List.filter_nil, ← h]

section Settle
variable {s : State} {k : Nat} {c : JCmd}

theorem State.runFua_of_dead (h : s.jcmd? k = some c) (hdead : c.live = false) : s.runFua k = s := by
  simp only [State.runFua, h, hdead, Bool.false_and, Bool.false_eq_true, if_false]

theorem State.runFua_of_waiting (h : s.jcmd? k = some c) (hwaits : c.started = false) : s.runFua k = s := by
  simp only [State.runFua, h, hwaits, Bool.and_false, Bool.false_eq_true, if_false]

theorem State.stageWrite_of_dead (h : s.jcmd? k = some c) (hdead : c.live = false) : s.stageWrite k = s := by
  simp only [State.stageWrite, h, hdead, Bool.false_and, Bool.false_eq_true, if_false]

theorem State.settleOne_of_dead {e : Nat × JCmd} (h : s.jcmd? e.1 = some c) (hdead : c.live = false) : s.settleOne e = s := by
  unfold State.settleOne
  split
  · rw [State.runFua_of_dead h hdead, State.stageWrite_of_dead h hdead]
  · simp only [State.runRead, h, hdead, Bool.false_and, Bool.false_eq_true, if_false]
  · simp only [State.runFlush, h, hdead, Bool.not_false, Bool.true_or, if_true]
  · rfl

theorem State.jSettle_single (h : s.jrn.cmds = [(k, c)]) : s.jSettle = (s.settleOne (k, c)).jForget := by
  rw [State.jSettle_eq, h, List.foldl_cons, List.foldl_nil]

/-- A command that has ended goes when the journal settles. -/
theorem State.ended_jSettle {t : State} {q tag : Nat} (h : s.ended t q tag [(k, c)]) (hdead : c.live = false) (hreps : c.reps = [0, 0]) :
    s.ended t.jSettle q tag [] := by
  obtain ⟨hbit, hcmds, hdone, huse⟩ := h
  rw [State.jSettle_single hcmds, State.settleOne_of_dead (State.jcmd_of_single hcmds) hdead, State.jForget_single hcmds hreps,
    if_neg (by rw [hdead]; decide)]
  exact ⟨hbit, rfl, hdone, huse⟩

/-- The only command ends: the journal is empty and the tag free. -/
theorem State.ended_of_single (h : s.jrn.cmds = [(k, c)]) (hlive : c.live = true) (hreps : c.reps = [0, 0]) (st d b : Nat) :
    s.ended (s.jEnd k st d b).jSettle c.q c.tag [] :=
  State.ended_jSettle (State.jEnd_single h hlive st d b) rfl hreps

theorem State.ended_of_agree {x y t : State} {q tag : Nat} {l : SMap JCmd} (h : y.ended t q tag l)
    (hdone : y.get .jrnQDoneDone q = x.get .jrnQDoneDone q) (huse : y.jUse q tag = x.jUse q tag) : x.ended t q tag l := by
  obtain ⟨hbit, hcmds, hcount, hused⟩ := h
  exact ⟨hbit, hcmds, hdone ▸ hcount, huse ▸ hused⟩

end Settle

end Sys2Proof.Machine
end

section
/-! PROOFS. The journal's doorbells: what is refused, what waits, what ends at once and what goes on. -/

namespace Sys2Proof.Machine

/-! ### Doorbells (R375) -/

/-- A doorbell's command before its slot is fetched. -/
def bellCmd (q tag : Nat) : JCmd := { q := q, tag := tag, op := 0, flags := 0, first := 0, count := 0, slot := [] }

/-- The state in which a doorbell's tag is taken. -/
def State.belled (s : State) (q tag : Nat) : State := (s.jTake (bellCmd q tag)).1

/-- An ABORT acts as it is accepted (R385). -/
def State.runAbort (slot : Bytes) (q : Nat) (s : State) (k : Nat) (_ : JCmd) : State :=
  match s.jTag? q (leAt slot 3 1) with
  | some (t, c) =>
    if t ≠ k ∧ ((c.moves ∧ !c.started) ∨ c.op = 3) then ((s.jEnd t jsAborted 0 0).jEnd k jsCaught 0 0).jSettle
    else (s.jEnd k jsMissed 0 0).jSettle
  | none => (s.jEnd k jsMissed 0 0).jSettle

section Exec
variable (q : JQ) (w : BitVec 32) (slot data : Bytes) (s : State)

theorem exec_jrnWrite : exec (.jrnWrite q w slot data) s = .next (s.jDoorbell q.val 1 w slot data (fun s _ _ => s.jSettle)) := rfl

theorem exec_jrnRead : exec (.jrnRead q w slot) s = .next (s.jDoorbell q.val 2 w slot [] (fun s _ _ => s.jSettle)) := rfl

theorem exec_jrnFlush : exec (.jrnFlush q w slot) s =
    .next (s.jDoorbell q.val 3 w slot [] (fun s k c => (s.putJ k (some (s.flushCover k c))).jSettle)) := rfl

theorem exec_jrnAbort : exec (.jrnAbort q w slot) s = .next (s.jDoorbell q.val 4 w slot [] (State.runAbort slot q.val)) := rfl

/-- What holds of a doorbell's state whatever the command does holds of the four commands. -/
theorem jrn_completes {P : State → Prop} (h : ∀ op d act, leAt slot 0 1 = op → P (s.jDoorbell q.val op w slot d act)) :
    (leAt slot 0 1 = 1 → Completes (.jrnWrite q w slot data) s P) ∧ (leAt slot 0 1 = 2 → Completes (.jrnRead q w slot) s P) ∧
    (leAt slot 0 1 = 3 → Completes (.jrnFlush q w slot) s P) ∧ (leAt slot 0 1 = 4 → Completes (.jrnAbort q w slot) s P) :=
  ⟨fun hop => ⟨_, rfl, h 1 data _ hop⟩, fun hop => ⟨_, rfl, h 2 [] _ hop⟩, fun hop => ⟨_, rfl, h 3 [] _ hop⟩,
    fun hop => ⟨_, rfl, h 4 [] _ hop⟩⟩

end Exec

section Bell
variable {s : State} {q op : Nat} {v : BitVec 32} {e data : Bytes} {act : State → Nat → JCmd → State}

theorem State.jDoorbell_of_ur (h : s.memReach pf1 = false) : s.jDoorbell q op v e data act = s.ur pf1 :=
  if_pos (by rw [h]; decide)

variable (hreach : s.memReach pf1 = true)
include hreach

theorem State.jDoorbell_of_other (hop : leAt e 0 1 ≠ op) (h1 : 1 ≤ leAt e 0 1) (h4 : leAt e 0 1 ≤ 4) : s.jDoorbell q op v e data act = s := by
  rw [State.jDoorbell, if_neg (by rw [hreach]; decide), if_pos ⟨hop, h1, h4⟩]

variable (hop : leAt e 0 1 = op) (htag : s.jTag? q v.toNat = none)
include hop htag

theorem State.jDoorbell_of_new : s.jDoorbell q op v e data act =
    if s.jBellOk q v = false then s.bump .jrnQIgnIgnored q
    else if (s.belled q v.toNat).jMayFetch q s.jrn.nextSeq then (s.belled q v.toNat).jFetch s.jrn.nextSeq q v e data act
    else s.belled q v.toNat := by
  have hcond : (!s.jBellOk q v) = true ↔ s.jBellOk q v = false := by rw [Bool.not_eq_true']
  have hother : ¬(leAt e 0 1 ≠ op ∧ 1 ≤ leAt e 0 1 ∧ leAt e 0 1 ≤ 4) := fun h => h.1 hop
  rw [State.jDoorbell, if_neg (by rw [hreach]; decide), if_neg hother, htag, Option.filter_none]
  dsimp only
  exact if_congr hcond rfl rfl

end Bell

/-! ### A command is taken -/

section Take
variable (s : State) (q tag : Nat)

theorem State.belled_jrn : (s.belled q tag).jrn =
    { s.jrn with cmds := SMap.put s.jrn.cmds s.jrn.nextSeq (some (bellCmd q tag)), nextSeq := s.jrn.nextSeq + 1 } := rfl

theorem State.belled_regsBut : RegsBut [(.jrnQSta, q)] s (s.belled q tag) := by
  intro r i hr
  exact State.set_regsBut _ .jrnQStaOutstanding q _ r i hr

theorem State.belled_keepsBut : KeepsBut [.regs, .jrn] s (s.belled q tag) := by
  let u : State := { s.putJ s.jrn.nextSeq (some (bellCmd q tag)) with jrn :=
    { (s.putJ s.jrn.nextSeq (some (bellCmd q tag))).jrn with nextSeq := s.jrn.nextSeq + 1 } }
  have hu : KeepsBut [.jrn] s u := by
    intro p hp
    cases p
    case jrn => exact absurd List.mem_cons_self hp
    all_goals rfl
  exact (hu.mono (by simp)).trans ((u.set_keepsBut .jrnQStaOutstanding q _).mono (by simp))

theorem State.belled_get {f : Fld} (hf : f.reg ≠ .jrnQSta) (i : Nat) : (s.belled q tag).get f i = s.get f i := by
  rw [State.get, s.belled_regsBut q tag f.reg i (by simp [hf]), State.get]

theorem State.belled_is {f : Fld} (hf : f.reg ≠ .jrnQSta) (i : Nat) : (s.belled q tag).is f i = s.is f i := by
  rw [State.is, s.belled_get q tag hf, State.is]

theorem State.belled_outstanding (h : tag < 32) : bitOf ((s.belled q tag).get .jrnQStaOutstanding q) tag = true := by
  have hlt : s.get .jrnQStaOutstanding q ||| 2 ^ tag < 2 ^ 32 :=
    Nat.or_lt_two_pow (s.get_lt .jrnQStaOutstanding q) (Nat.pow_lt_pow_right (by decide) h)
  have hset : (s.belled q tag).get .jrnQStaOutstanding q = (s.get .jrnQStaOutstanding q ||| 2 ^ tag) % 2 ^ 32 :=
    State.get_set_self _ .jrnQStaOutstanding q _ (by decide) (by decide)
  rw [hset, Nat.mod_eq_of_lt hlt, bitOf_or_two_pow]

theorem State.belled_jBlocks : (s.belled q tag).jBlocks = s.jBlocks := by
  rw [State.jBlocks, s.belled_is q tag (by decide), s.belled_get q tag (by decide), State.jBlocks]

theorem State.belled_jFetches : (s.belled q tag).jFetches = s.jFetches := by
  have hget : ∀ (f : Fld), f.reg ≠ .jrnQSta → ∀ i, (s.belled q tag).is f i = s.is f i := fun f hf i => s.belled_is q tag hf i
  rw [State.jFetches, State.fnSends, State.gateOpen, s.belled_get q tag (by decide), hget _ (by decide), hget _ (by decide), hget _ (by decide)]
  rfl

theorem State.belled_jBad (e : Bytes) : (s.belled q tag).jBad q tag e = s.jBad q tag e := rfl

/-- Only an earlier doorbell of the queue keeps a slot from being fetched. -/
theorem State.jMayFetch_belled (hfetch : s.jFetches = true)
    (hfirst : ∀ x ∈ s.jrn.cmds, x.1 < s.jrn.nextSeq → x.2.q = q → x.2.live = true → x.2.op ≠ 0) :
    (s.belled q tag).jMayFetch q s.jrn.nextSeq = true := by
  have hnone : (s.belled q tag).jrn.cmds.any (fun e => decide (e.1 < s.jrn.nextSeq) && e.2.q == q && e.2.live && e.2.op == 0) = false := by
    rw [List.any_eq_false]
    intro x hx hcond
    simp only [Bool.and_eq_true, decide_eq_true_eq, beq_iff_eq] at hcond
    obtain ⟨⟨⟨hlt, hq⟩, hlive⟩, hop⟩ := hcond
    rw [s.belled_jrn] at hx
    rcases SMap.mem_put hx with rfl | hx
    · exact absurd hlt (lt_irrefl _)
    · exact hfirst x hx hlt hq hlive hop
  rw [State.jMayFetch, s.belled_jFetches, hfetch, hnone]
  rfl

theorem State.jMayFetch_of_not (k : Nat) (hfetch : s.jFetches = false) : (s.belled q tag).jMayFetch q k = false := by
  rw [State.jMayFetch, s.belled_jFetches, hfetch, Bool.false_and]

end Take

/-! ### The fetch of a slot (R376-R378) -/

section Fetch
variable (y : State) (k q : Nat) (v : BitVec 32) (e data : Bytes) (act : State → Nat → JCmd → State)

/-- The slot cannot be fetched, or its command cannot be taken. -/
def State.noFetch (y : State) (q : Nat) (v : BitVec 32) (e : Bytes) : Prop := y.canReach pf1 (y.jSlot q v.toNat) 64 = false ∨ e.length ≠ 64

def State.outOfRange (y : State) (e : Bytes) : Prop := (leAt e 0 1 = 1 ∨ leAt e 0 1 = 2) ∧ y.jBlocks < leAt e 8 8 + leAt e 4 4

theorem State.noFetch_iff : (!y.canReach pf1 (y.jSlot q v.toNat) 64 || e.length != 64) = true ↔ y.noFetch q v e := by
  simp [State.noFetch]

theorem State.outOfRange_iff :
    ((jCmdOf q v.toNat e data).moves && decide (y.jBlocks < (jCmdOf q v.toNat e data).first + (jCmdOf q v.toNat e data).count)) = true ↔
      y.outOfRange e := by
  rw [Bool.and_eq_true, decide_eq_true_eq, JCmd.moves, Bool.or_eq_true, beq_iff_eq, beq_iff_eq]
  rfl

/-- The state in which the slot has been read and its command is known. -/
def State.fetched (y : State) (k q : Nat) (v : BitVec 32) (e data : Bytes) : State :=
  (y.readHost pf1 (y.jSlot q v.toNat) 64).putJ k (some (jCmdOf q v.toNat e data))

theorem State.jFetch_of_ok (h1 : ¬y.noFetch q v e) (h2 : y.jBad q v.toNat e = false) (h3 : ¬y.outOfRange e) :
    y.jFetch k q v e data act = act (y.fetched k q v e data) k (jCmdOf q v.toNat e data) := by
  rw [State.jFetch, if_neg ((y.noFetch_iff q v e).not.2 h1), if_neg (by rw [h2]; decide), if_neg ((y.outOfRange_iff q v e data).not.2 h3)]
  rfl

/-- A slot that is not fetched, malformed or out of range ends the command, whatever it was taken for. -/
theorem State.jFetch_of_ends (h : y.noFetch q v e ∨ y.jBad q v.toNat e = true ∨ y.outOfRange e) :
    ∃ st, y.jFetch k q v e data act = (((y.readHost pf1 (y.jSlot q v.toNat) 64).jEnd k st 0 0).jSettle) ∨
      y.jFetch k q v e data act = (((y.fetched k q v e data).jEnd k st 0 0).jSettle) := by
  by_cases h1 : y.noFetch q v e
  · exact ⟨jsAccess, .inl (by rw [State.jFetch, if_pos ((y.noFetch_iff q v e).2 h1)])⟩
  by_cases h2 : y.jBad q v.toNat e = true
  · exact ⟨jsMalformed, .inr (by rw [State.jFetch, if_neg ((y.noFetch_iff q v e).not.2 h1), if_pos h2]; rfl)⟩
  · have h3 : y.outOfRange e := (h.resolve_left h1).resolve_left h2
    exact ⟨jsRange, .inr (by
      rw [State.jFetch, if_neg ((y.noFetch_iff q v e).not.2 h1), if_neg h2, if_pos ((y.outOfRange_iff q v e data).2 h3)]; rfl)⟩

end Fetch

end Sys2Proof.Machine
end

section
/-! PROOFS. The journal's commands: a doorbell's outcomes, the start of a WRITE, the peer banks and a queue's disable (the second half of
O52). -/

namespace Sys2Proof.Machine

/-! ### A doorbell in an empty journal -/

section Empty
variable {s : State} {q : Nat} {v : BitVec 32} (hnil : s.jrn.cmds = [])

/-- A state that holds the taken doorbell's command and no other. -/
def State.holdsOnly (s x : State) (q tag : Nat) (c : JCmd) : Prop :=
  x.regs = (s.belled q tag).regs ∧ x.jrn = { (s.belled q tag).jrn with cmds := [(s.jrn.nextSeq, c)] }

/-- A command as it is taken: owed, not started, no replicas. -/
def JCmd.fresh (c : JCmd) (q tag : Nat) : Prop := c.q = q ∧ c.tag = tag ∧ c.live = true ∧ c.reps = [0, 0]

theorem bellCmd_fresh (q tag : Nat) : (bellCmd q tag).fresh q tag := ⟨rfl, rfl, rfl, rfl⟩

theorem jCmdOf_fresh (q tag : Nat) (e data : Bytes) : (jCmdOf q tag e data).fresh q tag := ⟨rfl, rfl, rfl, rfl⟩

theorem State.ended_of_holdsOnly {x : State} {tag : Nat} {c : JCmd} (h : s.holdsOnly x q tag c) (hc : c.fresh q tag) (st : Nat) :
    s.ended (x.jEnd s.jrn.nextSeq st 0 0).jSettle q tag [] := by
  obtain ⟨hregs, hjrn⟩ := h
  obtain ⟨rfl, rfl, hlive, hreps⟩ := hc
  have hcmds : x.jrn.cmds = [(s.jrn.nextSeq, c)] := by rw [hjrn]
  refine State.ended_of_agree (State.ended_of_single hcmds hlive hreps st 0 0) ?_ ?_
  · rw [State.get_of_regs hregs, s.belled_get _ _ (by decide)]
  · rw [State.jUse, hjrn]
    rfl

theorem State.holdsOnly_readHost {x : State} {tag : Nat} {c : JCmd} (h : s.holdsOnly x q tag c) (f a n : Nat) :
    s.holdsOnly (x.readHost f a n) q tag c :=
  ⟨(State.regs_of_unsent (x.readHost_unsent f a n)).trans h.1, (State.jrn_of_unsent (x.readHost_unsent f a n)).trans h.2⟩

theorem State.holdsOnly_putJ {x : State} {tag : Nat} {c : JCmd} (h : s.holdsOnly x q tag c) (d : JCmd) :
    s.holdsOnly (x.putJ s.jrn.nextSeq (some d)) q tag d := by
  have hput : (x.putJ s.jrn.nextSeq (some d)).jrn = { x.jrn with cmds := SMap.put x.jrn.cmds s.jrn.nextSeq (some d) } := rfl
  refine ⟨h.1, ?_⟩
  rw [hput, h.2, SMap.put_single]

include hnil

theorem State.holdsOnly_belled (tag : Nat) : s.holdsOnly (s.belled q tag) q tag (bellCmd q tag) := by
  refine ⟨rfl, ?_⟩
  rw [s.belled_jrn, hnil, SMap.put_nil]

theorem State.holdsOnly_fetched (e data : Bytes) :
    s.holdsOnly ((s.belled q v.toNat).fetched s.jrn.nextSeq q v e data) q v.toNat (jCmdOf q v.toNat e data) :=
  State.holdsOnly_putJ (State.holdsOnly_readHost (State.holdsOnly_belled hnil v.toNat) _ _ _) _

end Empty

/-! ### A WRITE's data is fetched (R379) -/

section Stage
variable {s : State} {q : Nat} {v : BitVec 32} {e data : Bytes} {t : State}
  (ht : s.holdsOnly t q v.toNat (jCmdOf q v.toNat e data)) (hop : leAt e 0 1 = 1) (hcount : leAt e 4 4 ≤ 256) (hfetch : t.jFetches = true)

/-- A WRITE's data can be read. -/
def State.hasData (t : State) (e data : Bytes) : Prop :=
  t.canReach pf1 (leAt e 16 8) (4096 * leAt e 4 4) = true ∧ 4096 * leAt e 4 4 ≤ data.length

include ht hop hcount hfetch

theorem State.stageWrite_only : t.stageWrite s.jrn.nextSeq =
    if t.canReach pf1 (leAt e 16 8) (4096 * leAt e 4 4) && decide (4096 * leAt e 4 4 ≤ (data.take (4096 * leAt e 4 4)).length) then
      (t.readHost pf1 (leAt e 16 8) (4096 * leAt e 4 4)).putJ s.jrn.nextSeq (some { jCmdOf q v.toNat e data with got := true })
    else (t.readHost pf1 (leAt e 16 8) (4096 * leAt e 4 4)).jEnd s.jrn.nextSeq jsAccess 0 0 := by
  have hcmds : t.jrn.cmds = [(s.jrn.nextSeq, jCmdOf q v.toNat e data)] := by rw [ht.2]
  have hstaged : t.jStaged s.jrn.nextSeq ≤ 16777216 := by
    have hone : t.jStaged s.jrn.nextSeq = 4096 * leAt e 4 4 := by
      simp [State.jStaged, hcmds, jCmdOf, hop]
    omega
  have hgo : ((jCmdOf q v.toNat e data).live && (jCmdOf q v.toNat e data).op == 1 && !(jCmdOf q v.toNat e data).started &&
      !(jCmdOf q v.toNat e data).got && t.jFetches && decide (t.jStaged s.jrn.nextSeq ≤ 16777216)) = true := by
    simp [jCmdOf, hop, hfetch, hstaged]
  unfold State.stageWrite
  rw [State.jcmd_of_single hcmds]
  dsimp only
  rw [if_pos hgo]
  rfl

omit hcount hfetch in
theorem State.jSettle_write : t.jSettle = (t.stageWrite s.jrn.nextSeq).jForget := by
  have hcmds : t.jrn.cmds = [(s.jrn.nextSeq, jCmdOf q v.toNat e data)] := by rw [ht.2]
  have hop' : (jCmdOf q v.toNat e data).op = 1 := hop
  rw [State.jSettle_single hcmds]
  simp only [State.settleOne, hop', State.runFua_of_waiting (State.jcmd_of_single hcmds) rfl]

theorem State.jSettle_write_failed (h : ¬t.hasData e data) : s.ended t.jSettle q v.toNat [] := by
  let c := jCmdOf q v.toNat e data
  have hno : ¬(t.canReach pf1 (leAt e 16 8) (4096 * leAt e 4 4) && decide (4096 * leAt e 4 4 ≤ (data.take (4096 * leAt e 4 4)).length)) = true := by
    simpa [State.hasData] using h
  have hread : s.holdsOnly (t.readHost pf1 (leAt e 16 8) (4096 * leAt e 4 4)) q v.toNat c := State.holdsOnly_readHost ht _ _ _
  have hcmds : (t.readHost pf1 (leAt e 16 8) (4096 * leAt e 4 4)).jrn.cmds = [(s.jrn.nextSeq, c)] := by rw [hread.2]
  have hend := State.jEnd_single hcmds rfl jsAccess 0 0
  rw [State.jSettle_write ht hop, State.stageWrite_only ht hop hcount hfetch, if_neg hno]
  have hsettle := State.ended_of_holdsOnly hread (jCmdOf_fresh _ _ _ _) jsAccess
  rwa [State.jSettle_single hend.2.1, State.settleOne_of_dead (State.jcmd_of_single hend.2.1) rfl] at hsettle

theorem State.jSettle_write_staged (h : t.hasData e data) (hw : v.toNat < 32) :
    t.jSettle.jcmd? s.jrn.nextSeq = some { jCmdOf q v.toNat e data with got := true } ∧
    bitOf (t.jSettle.get .jrnQStaOutstanding q) v.toNat = true ∧ RegsBut [(.jrnQSta, q)] s t.jSettle := by
  let d : JCmd := { jCmdOf q v.toNat e data with got := true }
  let x := (t.readHost pf1 (leAt e 16 8) (4096 * leAt e 4 4)).putJ s.jrn.nextSeq (some d)
  have hyes : (t.canReach pf1 (leAt e 16 8) (4096 * leAt e 4 4) && decide (4096 * leAt e 4 4 ≤ (data.take (4096 * leAt e 4 4)).length)) = true := by
    simpa [State.hasData] using h
  have hx : s.holdsOnly x q v.toNat d := State.holdsOnly_putJ (State.holdsOnly_readHost ht _ _ _) _
  have hcmds : x.jrn.cmds = [(s.jrn.nextSeq, d)] := by rw [hx.2]
  have hsettle : t.jSettle = { x with jrn := { x.jrn with cmds := [(s.jrn.nextSeq, d)] } } := by
    rw [State.jSettle_write ht hop, State.stageWrite_only ht hop hcount hfetch, if_pos hyes]
    exact State.jForget_single hcmds rfl
  have hregs : t.jSettle.regs = (s.belled q v.toNat).regs := by
    rw [hsettle]
    exact hx.1
  refine ⟨State.jcmd_of_single (by rw [hsettle]), ?_, fun r i hr => ?_⟩
  · rw [State.get_of_regs hregs, s.belled_outstanding q _ hw]
  · rw [State.reg_of_regs hregs, s.belled_regsBut q _ r i hr]

end Stage

theorem State.jBellOk_lt {s : State} {q : Nat} {v : BitVec 32} (h : s.jBellOk q v = true) : v.toNat < 32 := by
  simp only [State.jBellOk, Bool.and_eq_true, decide_eq_true_eq] at h
  exact h.1.2

theorem State.count_of_jBad {s : State} {q tag : Nat} {e : Bytes} (h : s.jBad q tag e = false) (hop : leAt e 0 1 = 1) : leAt e 4 4 ≤ 256 := by
  simp only [State.jBad, hop, Bool.or_eq_false_iff] at h
  obtain ⟨⟨⟨⟨-, hmoves⟩, -⟩, -⟩, -⟩ := h
  have hsize : (leAt e 4 4 ≠ 0 ∧ leAt e 4 4 ≤ 256) ∧ leAt e 16 8 % 64 = 0 := by simpa using hmoves
  exact hsize.1.2

/-! ### The start of a WRITE (R380, R381) -/

section Start
variable {s : State} {q : JQ} {tag : Fin 32} {k : Nat} {c : JCmd}

theorem exec_jrnWriteStart_none (h : s.jTag? q.val tag.val = none) : exec (.jrnWriteStart q tag) s = .next s := by
  have hdef : exec (.jrnWriteStart q tag) s = execJrnWriteStart q tag s := rfl
  rw [hdef, execJrnWriteStart, h]

theorem exec_jrnWriteStart_some (h : s.jTag? q.val tag.val = some (k, c)) : exec (.jrnWriteStart q tag) s =
    .next (if c.op = 1 ∧ c.got = true ∧ c.started = false ∧ s.jWaits k c = false then (s.startWrite k c).jSettle else s) := by
  have hdef : exec (.jrnWriteStart q tag) s = execJrnWriteStart q tag s := rfl
  have hcond : (c.op == 1 && c.got && !c.started && !s.jWaits k c) = true ↔
      c.op = 1 ∧ c.got = true ∧ c.started = false ∧ s.jWaits k c = false := by
    simp only [Bool.and_eq_true, beq_iff_eq, Bool.not_eq_true', and_assoc]
  rw [hdef, execJrnWriteStart, h]
  dsimp only
  by_cases hmay : c.op = 1 ∧ c.got = true ∧ c.started = false ∧ s.jWaits k c = false
  · rw [if_pos hmay, if_pos (hcond.2 hmay)]
  · rw [if_neg hmay, if_neg (hcond.not.2 hmay)]

theorem State.live_of_jTag {q tag : Nat} (h : s.jTag? q tag = some (k, c)) : c.live = true := by
  have hfound := List.find?_some h
  simp only [Bool.and_eq_true] at hfound
  exact hfound.1.1

/-- The WRITE as it starts. -/
def State.startedCmd (s : State) (c : JCmd) : JCmd :=
  { c with started := true, bank := s.jBank, epoch := s.epoch, reps := s.newReps, began := s.jrn.starts }

/-- Its data is in the journal region. -/
def State.placed (s : State) (k : Nat) (c : JCmd) : State :=
  ({ s with jrn := { s.jrn with starts := s.jrn.starts + 1 } }.putJ k (some (s.startedCmd c))).extWrite (s.jAddr c.first) c.data

theorem State.newReps_of_none (h : s.jPeers s.jBank = 0) : s.newReps = [0, 0] := by
  simp [State.newReps, h, List.range_succ]

/-- Without peers a WRITE is placed and, but for FUA, ends. -/
theorem State.startWrite_of_none (h : s.jPeers s.jBank = 0) : s.startWrite k c =
    if bitOf c.flags 0 then s.placed k c else (s.placed k c).jEnd k jsOk 0 c.count := by
  have hnone : (List.range 2).filter (fun p => (s.startedCmd c).rep p != 0) = [] := by
    simp [List.range_succ, JCmd.rep, State.startedCmd, State.newReps_of_none h]
  unfold State.startWrite
  extract_lets b d j u xs v
  have hxs : xs = [] := hnone
  have hv : v = s.placed k c := by
    have hfold : v = xs.foldl _ u := rfl
    rw [hfold, hxs, List.foldl_nil]
    rfl
  rw [hv]

/-- A WRITE with FUA and no peers ends as the journal settles. -/
theorem State.runFua_of_none {d : JCmd} (h : s.jcmd? k = some d) (hlive : d.live = true) (hop : d.op = 1) (hstarted : d.started = true)
    (hreps : d.reps = [0, 0]) : s.runFua k = s.jEnd k jsOk 0 d.count := by
  have hbits : s.fuaBits d = 0 := by simp [State.fuaBits, JCmd.rep, JCmd.repOpen, hreps, bit]
  have hacked : d.acked = true := by rw [JCmd.acked, hreps]; rfl
  simp only [State.runFua, h, hlive, hop, hstarted, beq_self_eq_true, Bool.and_self, if_true, hbits, ne_eq, not_true_eq_false, if_false, hacked]

theorem State.ended_of_startWrite (hcmds : s.jrn.cmds = [(k, c)]) (hpeers : s.jPeers s.jBank = 0) (hlive : c.live = true) (hop : c.op = 1) :
    (s.placed k c).ended (s.startWrite k c).jSettle c.q c.tag [] := by
  have hreps : (s.startedCmd c).reps = [0, 0] := State.newReps_of_none hpeers
  have hplaced : (s.placed k c).jrn.cmds = [(k, s.startedCmd c)] := by
    have hput : (s.placed k c).jrn.cmds = SMap.put s.jrn.cmds k (some (s.startedCmd c)) := rfl
    rw [hput, hcmds, SMap.put_single]
  have hend := State.jEnd_single hplaced hlive jsOk 0 c.count
  rw [State.startWrite_of_none hpeers]
  split
  · have hop' : (s.startedCmd c).op = 1 := hop
    have hfua : (s.placed k c).runFua k = (s.placed k c).jEnd k jsOk 0 c.count :=
      State.runFua_of_none (d := s.startedCmd c) (State.jcmd_of_single hplaced) hlive hop rfl hreps
    have hone : (s.placed k c).settleOne (k, s.startedCmd c) = (s.placed k c).jEnd k jsOk 0 c.count := by
      simp only [State.settleOne, hop', hfua]
      exact State.stageWrite_of_dead (State.jcmd_of_single hend.2.1) rfl
    have hsettle := State.ended_jSettle hend rfl hreps
    rw [State.jSettle_single hend.2.1, State.settleOne_of_dead (State.jcmd_of_single hend.2.1) rfl] at hsettle
    rwa [State.jSettle_single hplaced, hone]
  · exact State.ended_jSettle hend rfl hreps

theorem State.startWrite_mem (hpeers : s.jPeers s.jBank = 0) :
    (s.startWrite k c).jSettle.mem = (s.extWrite (s.jAddr c.first) c.data).mem := by
  have hplaced : (s.placed k c).mem = (s.extWrite (s.jAddr c.first) c.data).mem := rfl
  rw [State.mem_of_still (State.jSettle_still _), State.startWrite_of_none hpeers, ← hplaced]
  split
  · rfl
  · exact State.mem_of_still (State.jEnd_still _ _ _ _ _)

theorem jrnWriteStart_clauses (h : s.jTag? q.val tag.val = some (k, c)) :
    let may := c.op = 1 ∧ c.got = true ∧ c.started = false ∧ s.jWaits k c = false
    (¬may → exec (.jrnWriteStart q tag) s = .next s) ∧
    (may → Completes (.jrnWriteStart q tag) s (fun t => t = (s.startWrite k c).jSettle ∧
      (s.jrn.cmds = [(k, c)] → s.jPeers s.jBank = 0 → t.jrn.cmds = [] ∧ t.mem = (s.extWrite (s.jAddr c.first) c.data).mem ∧
        bitOf (t.get .jrnQStaOutstanding c.q) c.tag = false))) := by
  intro may
  have hrun := exec_jrnWriteStart_some h
  refine ⟨fun hno => by rw [hrun, if_neg hno], fun hmay => ⟨_, by rw [hrun, if_pos hmay], rfl, fun hcmds hpeers => ?_⟩⟩
  obtain ⟨hbit, hnil, -, -⟩ := State.ended_of_startWrite hcmds hpeers (State.live_of_jTag h) hmay.1
  exact ⟨hnil, State.startWrite_mem hpeers, hbit⟩

end Start

/-! ### Replicas and the peer banks (R374, R381) -/

section Peers
variable {s : State}

theorem exec_jrnReplicaSend (q : JQ) (tag : Fin 32) (p : Fin 2) : exec (.jrnReplicaSend q tag p) s =
    match s.jrn.cmds.find? (fun e => e.2.op == 1 && e.2.q == q.val && e.2.tag == tag.val && e.2.started && e.2.rep p.val == 1) with
    | none => .next s
    | some (k, _) => .next ((s.offerRep k p.val).jSettle) := rfl

theorem completes_jrnPeerSwap_refused {target : BitVec 64} (h : s.peerSwapOk target true = false) :
    Completes (.jrnPeerSwap target) s (fun t => t.get .jrnStaSwapRefused = 1 ∧ RegsBut [(.jrnSta, 0)] s t ∧ KeepsBut [.regs] s t) := by
  have hdef : exec (.jrnPeerSwap target) s = .next (s.armPeer target) := rfl
  refine ⟨s.set .jrnStaSwapRefused 0 1, ?_, s.get_set_self .jrnStaSwapRefused 0 1 (by decide) (by decide), 
    s.set_regsBut .jrnStaSwapRefused 0 1, s.set_keepsBut .jrnStaSwapRefused 0 1⟩
  rw [hdef, State.armPeer, if_neg (by rw [h]; decide)]

theorem completes_jrnPeerSwap {target : BitVec 64} (h : s.peerSwapOk target true = true) :
    Completes (.jrnPeerSwap target) s (fun t => t.get .jrnStaSwapPending = 1 ∧
      t.get .jrnStaSwapRefused = 0 ∧ t.jrn.peerTarget = some target ∧ RegsBut [(.jrnSta, 0)] s t ∧ KeepsBut [.regs, .jrn] s t) := by
  have hdef : exec (.jrnPeerSwap target) s = .next (s.armPeer target) := rfl
  let u := (s.set .jrnStaSwapPending 0 1).set .jrnStaSwapRefused 0 0
  have hpending : u.get .jrnStaSwapPending = 1 :=
    (State.get_set_beside _ (f := .jrnStaSwapRefused) (g := .jrnStaSwapPending) 0 rfl (by decide) (by decide) (by decide)).trans
      (s.get_set_self .jrnStaSwapPending 0 1 (by decide) (by decide))
  have hrefused : u.get .jrnStaSwapRefused = 0 := State.get_set_self _ .jrnStaSwapRefused 0 0 (by decide) (by decide)
  have hregs : RegsBut [(.jrnSta, 0)] s u := State.set_regsBut_of_mem 0 (s.set_regsBut .jrnStaSwapPending 0 1) (by decide)
  have hkeeps : KeepsBut [.regs] s u := State.set_keepsBut_of_mem _ _ _ (s.set_keepsBut .jrnStaSwapPending 0 1) (by decide)
  have hjrn : KeepsBut [.jrn] u { u with jrn := { u.jrn with peerTarget := some target } } := by
    intro p hp
    cases p
    case jrn => exact absurd List.mem_cons_self hp
    all_goals rfl
  refine ⟨{ u with jrn := { u.jrn with peerTarget := some target } }, ?_, hpending, hrefused, rfl, hregs,
    (hkeeps.mono (by simp)).trans (hjrn.mono (by simp))⟩
  rw [hdef, State.armPeer, if_pos h]

theorem exec_peerSwapAt_none (h : s.jrn.peerTarget = none) : exec .peerSwapAt s = .next s := by
  have hdef : exec .peerSwapAt s = execPeerSwapAt s := rfl
  rw [hdef, execPeerSwapAt, h]

theorem exec_peerSwapAt_reached {a : BitVec 64} (h : s.jrn.peerTarget = some a) (hreached : 0 ≤ ltDiff s.lt a) :
    exec .peerSwapAt s = .next s.peerSwap := by
  have hdef : exec .peerSwapAt s = execPeerSwapAt s := rfl
  rw [hdef, execPeerSwapAt, h]
  dsimp only
  rw [s.advanceTo_of_reached hreached]

/-- The other peer bank is active, no swap pending; with forerunner behaviour its registers are copied. -/
def State.exchangePeers (s : State) : State :=
  let u := (s.set .jrnStaBank 0 (1 - s.jBank)).set .jrnStaSwapPending 0 0
  if u.forerunner then
    (List.range 48).foldl (fun v w => v.setReg .jrnPeerCtx (s.jBank * 48 + w) (v.reg .jrnPeerCtx ((1 - s.jBank) * 48 + w)))
      (u.copyRegs [.jrnPeerCfg] (1 - s.jBank) s.jBank)
  else u

/-- Failures of the bank that has become active are forgotten. -/
def State.forgetPeers (s : State) (b : Nat) : State :=
  (({ s with jrn := { s.jrn with peerTarget := none, lost := s.jrn.lost.filter (fun e => e.1 / 2 != b) },
             zoa := { s.zoa with fails := s.zoa.fails.filter (fun e => e.1 != ctxPeer b 0 && e.1 != ctxPeer b 1) } } :
    State).set .jrnPeerStaLost 0 0).set .jrnPeerStaLost 1 0

theorem State.peerSwap_eq (s : State) : s.peerSwap = s.exchangePeers.forgetPeers (1 - s.jBank) := rfl

/-- What each step keeps, a fold of them keeps. -/
theorem foldl_keepsBut {α : Type} {ps : List StatePart} {f : State → α → State} (h : ∀ t x, KeepsBut ps t (f t x)) (l : List α) (s : State) :
    KeepsBut ps s (l.foldl f s) := by
  induction l generalizing s with
  | nil => exact KeepsBut.refl _ _
  | cons x l ih => exact (h s x).trans (ih _)

theorem State.jBank_le_one (s : State) : s.jBank ≤ 1 := Nat.le_of_lt_succ (s.get_lt .jrnStaBank 0)

theorem State.exchangePeers_results (s : State) : s.exchangePeers.jBank = 1 - s.jBank ∧ s.exchangePeers.get .jrnStaSwapPending = 0 ∧
    KeepsBut [.regs] s s.exchangePeers := by
  let u := (s.set .jrnStaBank 0 (1 - s.jBank)).set .jrnStaSwapPending 0 0
  have hbank : u.jBank = 1 - s.jBank := by
    have hle := s.jBank_le_one
    have hset : u.jBank = (1 - s.jBank) % 2 :=
      (State.get_set_beside _ (f := .jrnStaSwapPending) (g := .jrnStaBank) 0 rfl (by decide) (by decide) (by decide)).trans
        (s.get_set_self .jrnStaBank 0 (1 - s.jBank) (by decide) (by decide))
    omega
  have hpending : u.get .jrnStaSwapPending = 0 := State.get_set_self _ .jrnStaSwapPending 0 0 (by decide) (by decide)
  have hkeeps : KeepsBut [.regs] s u := State.set_keepsBut_of_mem _ _ _ (s.set_keepsBut .jrnStaBank 0 _) (by decide)
  unfold State.exchangePeers
  dsimp only
  split
  · let y := u.copyRegs [.jrnPeerCfg] (1 - s.jBank) s.jBank
    have hcopied : y.reg .jrnSta 0 = u.reg .jrnSta 0 := u.copyRegs_reg (rs := [.jrnPeerCfg]) (by decide) _ _ _
    have hcopies : KeepsBut [.regs] u y := by
      unfold y State.copyRegs
      exact foldl_keepsBut (fun t r => t.setReg_keepsBut _ _ _) _ u
    let z := (List.range 48).foldl (fun v w => v.setReg .jrnPeerCtx (s.jBank * 48 + w) (v.reg .jrnPeerCtx ((1 - s.jBank) * 48 + w))) y
    have hsta : z.reg .jrnSta 0 = u.reg .jrnSta 0 :=
      (foldl_keeps (fun t : State => t.reg .jrnSta 0) (fun t w => t.reg_setReg_of_ne _ (.inl (by decide))) _ y).trans hcopied
    have hz : KeepsBut [.regs] y z := foldl_keepsBut (fun t w => t.setReg_keepsBut _ _ _) _ y
    have hget : ∀ f : Fld, f.reg = .jrnSta → z.get f = u.get f := fun f hf => by
      rw [State.get, State.get, hf, hsta]
    exact ⟨(hget .jrnStaBank rfl).trans hbank, (hget .jrnStaSwapPending rfl).trans hpending, hkeeps.trans (hcopies.trans hz)⟩
  · exact ⟨hbank, hpending, hkeeps⟩

theorem State.forgetPeers_results (s : State) (b : Nat) : (s.forgetPeers b).jBank = s.jBank ∧
    (s.forgetPeers b).get .jrnStaSwapPending = s.get .jrnStaSwapPending ∧ (s.forgetPeers b).jrn.peerTarget = none ∧
    (s.forgetPeers b).get .jrnPeerStaLost 0 = 0 ∧ (s.forgetPeers b).get .jrnPeerStaLost 1 = 0 ∧
    (∀ e ∈ (s.forgetPeers b).jrn.lost, e.1 / 2 ≠ b) ∧ (s.forgetPeers b).jrn.cmds = s.jrn.cmds ∧
    KeepsBut [.regs, .jrn, .zoa] s (s.forgetPeers b) := by
  let u : State := { s with jrn := { s.jrn with peerTarget := none, lost := s.jrn.lost.filter (fun e => e.1 / 2 != b) },
                            zoa := { s.zoa with fails := s.zoa.fails.filter (fun e => e.1 != ctxPeer b 0 && e.1 != ctxPeer b 1) } }
  have hu : KeepsBut [.regs, .jrn, .zoa] s u := by
    intro p hp
    cases p
    case jrn => exact absurd (by decide) hp
    case zoa => exact absurd (by decide) hp
    all_goals rfl
  have hsta : ∀ f : Fld, f.reg = .jrnSta → (s.forgetPeers b).get f = s.get f := fun f hf =>
    ((State.get_set_of_ne _ (f := .jrnPeerStaLost) 0 (.inl (by rw [hf]; decide))).trans
      (u.get_set_of_ne (f := .jrnPeerStaLost) 0 (.inl (by rw [hf]; decide)))).trans rfl
  have hlost : ∀ e ∈ (s.forgetPeers b).jrn.lost, e.1 / 2 ≠ b := fun e he => by
    have hmem : e ∈ s.jrn.lost.filter (fun e => e.1 / 2 != b) := he
    simpa using (List.mem_filter.1 hmem).2
  refine ⟨hsta .jrnStaBank rfl, hsta .jrnStaSwapPending rfl, rfl, ?_, State.get_set_self _ .jrnPeerStaLost 1 0 (by decide) (by decide), hlost,
    rfl, State.set_keepsBut_of_mem _ _ _ (State.set_keepsBut_of_mem _ _ _ hu (by decide)) (by decide)⟩
  exact (State.get_set_of_ne _ (f := .jrnPeerStaLost) (g := .jrnPeerStaLost) 0 (.inr (by decide))).trans
    (u.get_set_self .jrnPeerStaLost 0 0 (by decide) (by decide))

theorem State.peerSwap_results (s : State) : s.peerSwap.jBank = 1 - s.jBank ∧ s.peerSwap.get .jrnStaSwapPending = 0 ∧
    s.peerSwap.jrn.peerTarget = none ∧ s.peerSwap.get .jrnPeerStaLost 0 = 0 ∧ s.peerSwap.get .jrnPeerStaLost 1 = 0 ∧
    (∀ e ∈ s.peerSwap.jrn.lost, e.1 / 2 ≠ 1 - s.jBank) ∧ s.peerSwap.jrn.cmds = s.jrn.cmds ∧ KeepsBut [.regs, .jrn, .zoa] s s.peerSwap := by
  obtain ⟨hbank, hpending, hkeeps⟩ := s.exchangePeers_results
  obtain ⟨hbank', hpending', htarget, hlost0, hlost1, hlost, hcmds, hkeeps'⟩ := s.exchangePeers.forgetPeers_results (1 - s.jBank)
  rw [s.peerSwap_eq]
  exact ⟨hbank'.trans hbank, hpending'.trans hpending, htarget, hlost0, hlost1, hlost,
    hcmds.trans (congrArg (fun j => j.cmds) (hkeeps .jrn (by decide))), (hkeeps.mono (by simp)).trans hkeeps'⟩

end Peers

/-! ### A queue's disable (R389) -/

section Disable
variable {s : State} {q : JQ}

/-- The queue drains. -/
def State.drainQ (s : State) (q : Nat) : State := (s.set .jrnQCtlEn q 0).set .jrnQStaState q 2

/-- The commands of a draining queue that have not started end, and the journal settles. -/
def State.abortQ (s : State) (q : Nat) : State :=
  ((s.jrn.cmds.filter (fun e => e.2.q == q && e.2.live && (e.2.moves || e.2.op == 0) && !e.2.started)).foldl
    (fun s e => s.jEnd e.1 jsAborted 0 0) s).jSettle

/-- A queue that has drained leaves service. -/
def State.closeQ (s : State) (q : Nat) : State :=
  if s.get .jrnQStaState q = 2 ∧ s.get .jrnQStaOutstanding q = 0 then (s.set .jrnQStaState q 0).leaveService ⟨.jq, q⟩ else s

theorem exec_jrnQDisable (q : JQ) : exec (.jrnQDisable q) s =
    .next (if s.get .jrnQStaState q.val = 1 then ((s.drainQ q.val).abortQ q.val).closeQ q.val else s) := rfl

theorem State.abortQ_still (s : State) (q : Nat) : (s.abortQ q).still = s.still :=
  (State.jSettle_still _).trans (foldl_keeps State.still (fun t _ => t.jEnd_still _ _ _ _) _ s)

theorem State.closeQ_en (s : State) (q : Nat) : (s.closeQ q).get .jrnQCtlEn q = s.get .jrnQCtlEn q := by
  unfold State.closeQ
  split
  · rw [State.leaveService_get, State.get_set_of_ne (f := .jrnQStaState) _ _ (.inl (by decide))]
  · rfl

theorem State.drainQ_en (s : State) (q : Nat) : (s.drainQ q).get .jrnQCtlEn q = 0 :=
  (State.get_set_of_ne _ (f := .jrnQStaState) (g := .jrnQCtlEn) 2 (.inl (by decide))).trans
    (s.get_set_self .jrnQCtlEn q 0 (by decide) (by decide))

theorem State.abortQ_of_nil (h : s.jrn.cmds = []) (q : Nat) : s.abortQ q = s := by
  rw [State.abortQ, h, List.filter_nil, List.foldl_nil, State.jSettle_of_nil h]

theorem State.drainQ_sta (s : State) (q : Nat) : (s.drainQ q).get .jrnQStaState q = 2 ∧
    (s.drainQ q).get .jrnQStaOutstanding q = s.get .jrnQStaOutstanding q :=
  ⟨State.get_set_self _ .jrnQStaState q 2 (by decide) (by decide),
    (State.get_set_beside _ (f := .jrnQStaState) (g := .jrnQStaOutstanding) 2 rfl (by decide) (by decide) (by decide)).trans
      (s.get_set_of_ne (f := .jrnQCtlEn) 0 (.inl (by decide)))⟩

theorem completes_jrnQDisable (h : s.get .jrnQStaState q.val = 1) : Completes (.jrnQDisable q) s (fun t => t.get .jrnQCtlEn q.val = 0 ∧
    (s.jrn.cmds = [] → s.get .jrnQStaOutstanding q.val = 0 → t.get .jrnQStaState q.val = 0 ∧ t.blkState ⟨.jq, q.val⟩ = 1) ∧
    (s.jrn.cmds = [] → s.get .jrnQStaOutstanding q.val ≠ 0 → t.get .jrnQStaState q.val = 2)) := by
  obtain ⟨hsta, hout⟩ := s.drainQ_sta q.val
  have habort : s.jrn.cmds = [] → (s.drainQ q.val).abortQ q.val = s.drainQ q.val := fun hnil =>
    State.abortQ_of_nil (s := s.drainQ q.val) hnil q.val
  refine ⟨_, (exec_jrnQDisable q).trans (by rw [if_pos h]), ?_, fun hnil hzero => ?_, fun hnil hzero => ?_⟩
  · rw [State.closeQ_en, State.get_of_still (State.abortQ_still _ _) (by decide), State.drainQ_en]
  · rw [habort hnil, State.closeQ, if_pos ⟨hsta, hout.trans hzero⟩]
    exact ⟨State.get_set_self _ .jrnQStaState q.val 0 (by decide) (by decide),
      State.blkState_setBlkState_self ((s.drainQ q.val).set .jrnQStaState q.val 0) ⟨.jq, q.val⟩ 1⟩
  · rw [habort hnil, State.closeQ, if_neg (fun hdrained => hzero (hout.symm.trans hdrained.2)), hsta]

end Disable

end Sys2Proof.Machine
end

section
/-! PROOFS. The clauses of a journal doorbell, and the statement O52. -/

namespace Sys2Proof.Machine

section Bell
variable {s : State} {q : JQ} {w : BitVec 32} {slot data : Bytes} (hreach : s.memReach pf1 = true)
  (htag : s.jTag? q.val w.toNat = none)
include hreach htag

/-- A doorbell that is not taken is counted. -/
theorem State.jDoorbell_ignored (hbell : s.jBellOk q.val w = false) {op : Nat} (hop : leAt slot 0 1 = op) (d : Bytes)
    (act : State → Nat → JCmd → State) : s.jDoorbell q.val op w slot d act = s.bump .jrnQIgnIgnored q.val := by
  rw [State.jDoorbell_of_new hreach hop htag, if_pos hbell]

variable (hbell : s.jBellOk q.val w = true)
include hbell

/-- While PF1 may not send the slot of a taken doorbell waits. -/
theorem State.jDoorbell_waits (hfetch : s.jFetches = false) {op : Nat} (hop : leAt slot 0 1 = op) (d : Bytes)
    (act : State → Nat → JCmd → State) : s.jDoorbell q.val op w slot d act = s.belled q.val w.toNat := by
  have hmay := s.jMayFetch_of_not q.val w.toNat s.jrn.nextSeq hfetch
  rw [State.jDoorbell_of_new hreach hop htag, if_neg (by rw [hbell]; decide), if_neg (by rw [hmay]; decide)]

variable (hfetch : s.jFetches = true)
  (hfirst : ∀ x ∈ s.jrn.cmds, x.1 < s.jrn.nextSeq → x.2.q = q.val → x.2.live = true → x.2.op ≠ 0)
include hfetch hfirst

/-- The slot of a taken doorbell is fetched. -/
theorem State.jDoorbell_fetches {op : Nat} (hop : leAt slot 0 1 = op) (d : Bytes) (act : State → Nat → JCmd → State) :
    s.jDoorbell q.val op w slot d act = (s.belled q.val w.toNat).jFetch s.jrn.nextSeq q.val w slot d act := by
  have hmay := s.jMayFetch_belled q.val w.toNat hfetch hfirst
  rw [State.jDoorbell_of_new hreach hop htag, if_neg (by rw [hbell]; decide), if_pos hmay]

/-- In an empty journal a slot that is not fetched, malformed or out of range ends its command. -/
theorem State.jDoorbell_ends (hnil : s.jrn.cmds = []) (h : (s.belled q.val w.toNat).noFetch q.val w slot ∨
      (s.belled q.val w.toNat).jBad q.val w.toNat slot = true ∨ (s.belled q.val w.toNat).outOfRange slot)
    {op : Nat} (hop : leAt slot 0 1 = op) (d : Bytes) (act : State → Nat → JCmd → State) :
    s.ended (s.jDoorbell q.val op w slot d act) q.val w.toNat [] := by
  rw [State.jDoorbell_fetches hreach htag hbell hfetch hfirst hop]
  obtain ⟨st, hst | hst⟩ := State.jFetch_of_ends (s.belled q.val w.toNat) s.jrn.nextSeq q.val w slot d act h
  · rw [hst]
    exact State.ended_of_holdsOnly (State.holdsOnly_readHost (State.holdsOnly_belled hnil _) _ _ _) (bellCmd_fresh _ _) st
  · rw [hst]
    exact State.ended_of_holdsOnly (State.holdsOnly_fetched hnil slot d) (jCmdOf_fresh _ _ _ _) st

variable (h1 : ¬(s.belled q.val w.toNat).noFetch q.val w slot) (h2 : ¬s.jBad q.val w.toNat slot = true)
  (h3 : ¬(s.belled q.val w.toNat).outOfRange slot)
include h1 h2 h3

/-- A well-formed slot is handed to its command. -/
theorem State.jDoorbell_goes {op : Nat} (hop : leAt slot 0 1 = op) (d : Bytes) (act : State → Nat → JCmd → State) :
    s.jDoorbell q.val op w slot d act =
      act ((s.belled q.val w.toNat).fetched s.jrn.nextSeq q.val w slot d) s.jrn.nextSeq (jCmdOf q.val w.toNat slot d) := by
  have hbad : (s.belled q.val w.toNat).jBad q.val w.toNat slot = false := by
    rw [State.belled_jBad]
    simpa using h2
  rw [State.jDoorbell_fetches hreach htag hbell hfetch hfirst hop, State.jFetch_of_ok _ _ _ _ _ _ _ h1 hbad h3]

/-- In an empty journal a WRITE whose data cannot be read ends, and one whose data is fetched waits for its start. -/
theorem jrnWrite_clauses (hop : leAt slot 0 1 = 1) (hnil : s.jrn.cmds = []) :
    let t := (s.belled q.val w.toNat).fetched s.jrn.nextSeq q.val w slot data
    (¬t.hasData slot data → Completes (.jrnWrite q w slot data) s (fun x => s.ended x q.val w.toNat [])) ∧
    (t.hasData slot data → Completes (.jrnWrite q w slot data) s (fun x =>
      x.jcmd? s.jrn.nextSeq = some { jCmdOf q.val w.toNat slot data with got := true } ∧
      bitOf (x.get .jrnQStaOutstanding q.val) w.toNat = true ∧ RegsBut [(.jrnQSta, q.val)] s x)) := by
  intro t
  have hbad : s.jBad q.val w.toNat slot = false := by simpa using h2
  have hcount := State.count_of_jBad hbad hop
  have ht : s.holdsOnly t q.val w.toNat (jCmdOf q.val w.toNat slot data) := State.holdsOnly_fetched hnil slot data
  have hread : ((s.belled q.val w.toNat).readHost pf1 ((s.belled q.val w.toNat).jSlot q.val w.toNat) 64).jFetches =
      (s.belled q.val w.toNat).jFetches := State.eq_of_unsent State.jFetches (fun _ => rfl) (State.readHost_unsent _ _ _ _)
  have hsends : t.jFetches = true := hread.trans ((s.belled_jFetches _ _).trans hfetch)
  have hrun : exec (.jrnWrite q w slot data) s = .next t.jSettle := by
    rw [exec_jrnWrite, State.jDoorbell_goes hreach htag hbell hfetch hfirst h1 h2 h3 hop]
  exact ⟨fun hno => ⟨_, hrun, State.jSettle_write_failed ht hop hcount hsends hno⟩,
    fun hyes => ⟨_, hrun, State.jSettle_write_staged ht hop hcount hsends hyes (State.jBellOk_lt hbell)⟩⟩

end Bell

/-- An ABORT catches what has not started. -/
theorem State.runAbort_clauses (v : State) (q k : Nat) (slot : Bytes) (c : JCmd) :
    (v.jTag? q (leAt slot 3 1) = none → State.runAbort slot q v k c = (v.jEnd k jsMissed 0 0).jSettle) ∧
    (∀ i x, v.jTag? q (leAt slot 3 1) = some (i, x) →
      let caught := i ≠ k ∧ (x.moves = true ∧ x.started = false ∨ x.op = 3)
      (caught → State.runAbort slot q v k c = ((v.jEnd i jsAborted 0 0).jEnd k jsCaught 0 0).jSettle) ∧
      (¬caught → State.runAbort slot q v k c = (v.jEnd k jsMissed 0 0).jSettle)) := by
  refine ⟨fun h => by rw [State.runAbort, h], fun i x h => ?_⟩
  intro caught
  have hcond : (i ≠ k ∧ ((x.moves ∧ !x.started) ∨ x.op = 3)) ↔ caught := by
    rw [Bool.not_eq_true']
  refine ⟨fun hc => ?_, fun hc => ?_⟩
  · rw [State.runAbort, h]
    exact if_pos (hcond.2 hc)
  · rw [State.runAbort, h]
    exact if_neg (hcond.not.2 hc)

/-- Settles O52: the management command by the cases of its TLV, a message by what it asks, a journal command by the fate of its doorbell. -/
theorem ptpAndJournalResults : Obligations.PtpAndJournalResults := by
  unfold Obligations.PtpAndJournalResults
  intro f seq b fid seen n ty fr q w slot data tag p target s
  refine ⟨fun h hf => exec_ptp_other h hf b, fun h hf => ?_, exec_ptpEventRx_none, s.ptpShow_priority1,
    fun b o ty h hty => s.ptpSends_slaveOnly b o h hty, fun b o => ⟨s.ptpSends_delayReq b o, s.ptpSends_pdelayReq b o⟩,
    fun g hg => ptpEventRx_clauses hg seen, ptpMessageSend_clauses n ty fr, fun h => ?_, fun h h1 h4 => ?_, fun h htag hbell => ?_,
    fun h htag hbell => ?_, exec_jrnWriteStart_none, fun k c h => jrnWriteStart_clauses h, ⟨fun h => ?_, fun k c h => ?_⟩,
    completes_jrnPeerSwap_refused, completes_jrnPeerSwap, exec_peerSwapAt_none,
    fun a h hreached => ⟨_, exec_peerSwapAt_reached h hreached, s.peerSwap_results⟩, fun h => ?_, completes_jrnQDisable⟩
  · obtain rfl : f = 0 := Fin.ext hf
    exact ptpCommand_clauses h b
  · rw [exec_jrnWrite, exec_jrnRead, exec_jrnFlush, exec_jrnAbort]
    simp only [State.jDoorbell_of_ur h, and_self]
  · exact ⟨fun hop => by rw [exec_jrnWrite, State.jDoorbell_of_other h hop h1 h4],
      fun hop => by rw [exec_jrnRead, State.jDoorbell_of_other h hop h1 h4],
      fun hop => by rw [exec_jrnFlush, State.jDoorbell_of_other h hop h1 h4],
      fun hop => by rw [exec_jrnAbort, State.jDoorbell_of_other h hop h1 h4]⟩
  · exact ⟨fun hop => by rw [exec_jrnWrite, State.jDoorbell_ignored h htag hbell hop],
      fun hop => by rw [exec_jrnRead, State.jDoorbell_ignored h htag hbell hop],
      fun hop => by rw [exec_jrnFlush, State.jDoorbell_ignored h htag hbell hop],
      fun hop => by rw [exec_jrnAbort, State.jDoorbell_ignored h htag hbell hop]⟩
  · intro k c0 c e y a y1 t v noSlot now bad far waits ends
    have hfar : (s.belled q.val w.toNat).outOfRange slot ↔ far := by rw [State.outOfRange, s.belled_jBlocks]
    refine ⟨fun hfetch => jrn_completes q w slot data s (fun op d act hop => ?_), fun hnow hends hnil => ?_, fun hnow h1 h2 h3 => ?_⟩
    · rw [State.jDoorbell_waits h htag hbell hfetch hop]
      exact ⟨s.belled_outstanding _ _ (State.jBellOk_lt hbell), State.jcmd_putJ s k c0, rfl, s.belled_regsBut _ _, s.belled_keepsBut _ _⟩
    · obtain ⟨hfetch, hfirst⟩ := hnow
      exact jrn_completes q w slot data s (fun op d act hop =>
        State.jDoorbell_ends h htag hbell hfetch hfirst hnil (hends.imp_right (Or.imp_right hfar.2)) hop d act)
    · obtain ⟨hfetch, hfirst⟩ := hnow
      have hgoes := @State.jDoorbell_goes s q w slot h htag hbell hfetch hfirst h1 h2 (hfar.not.2 h3)
      refine ⟨fun hop => by rw [exec_jrnWrite, hgoes hop]; rfl,
        fun hop hnil => jrnWrite_clauses h htag hbell hfetch hfirst h1 h2 (hfar.not.2 h3) hop hnil,
        fun hop => by rw [exec_jrnRead, hgoes hop]; rfl, fun hop => by rw [exec_jrnFlush, hgoes hop]; rfl, fun hop => ?_⟩
      obtain ⟨hmissed, hfound⟩ := State.runAbort_clauses v q.val k slot e
      have hrun : exec (.jrnAbort q w slot) s = .next (State.runAbort slot q.val v k e) := by
        rw [exec_jrnAbort, hgoes hop]
        rfl
      exact ⟨fun hnone => by rw [hrun, hmissed hnone], fun i x hx =>
        ⟨fun hc => by rw [hrun, (hfound i x hx).1 hc], fun hc => by rw [hrun, (hfound i x hx).2 hc]⟩⟩
  · rw [exec_jrnReplicaSend, h]
  · rw [exec_jrnReplicaSend, h]
  · rw [exec_jrnQDisable, if_neg h]

end Sys2Proof.Machine
end

section
/-! PROOFS. Views of the state: the registers of a chosen kind, what the completion of a ring's entry leaves, and what a block's entry
into service and a run of operations leave. -/

namespace Sys2Proof.Machine

/-! ### The registers of a chosen kind -/

/-- The contents of the registers that `k` chooses. -/
def State.regsAt (k : RegName → Bool) (s : State) : RegName → Nat → Option (BitVec 64) := fun r i => if k r then some (s.reg r i) else none

section RegsAt
variable {k : RegName → Bool} {s t : State}

theorem State.regsAt_setReg (s : State) {r : RegName} (hr : k r = false) (i : Nat) (v : BitVec 64) :
    (s.setReg r i v).regsAt k = s.regsAt k := by
  funext q j
  by_cases hq : k q = true
  · simp only [State.regsAt, s.reg_setReg_of_ne v (.inl (fun h : q = r => by rw [h, hr] at hq; cases hq))]
  · simp only [State.regsAt, if_neg hq]

theorem State.regsAt_set (s : State) {f : Fld} (hf : k f.reg = false) (i v : Nat) : (s.set f i v).regsAt k = s.regsAt k :=
  s.regsAt_setReg hf i _

theorem State.regsAt_of_regs (h : t.regs = s.regs) : t.regsAt k = s.regsAt k := by
  funext r i
  rw [State.regsAt, State.reg_of_regs h, State.regsAt]

theorem State.reg_of_regsAt (h : t.regsAt k = s.regsAt k) {r : RegName} (hr : k r = true) (i : Nat) : t.reg r i = s.reg r i := by
  have hreg := congrFun (congrFun h r) i
  simpa only [State.regsAt, hr, if_true, Option.some.injEq] using hreg

theorem State.get_of_regsAt (h : t.regsAt k = s.regsAt k) {f : Fld} (hf : k f.reg = true) (i : Nat) : t.get f i = s.get f i := by
  rw [State.get, State.reg_of_regsAt h hf, State.get]

/-- Fewer registers agree where more do. -/
theorem State.regsAt_mono {k' : RegName → Bool} (h : t.regsAt k = s.regsAt k) (hk : ∀ r, k' r = true → k r = true) :
    t.regsAt k' = s.regsAt k' := by
  funext r i
  by_cases hr : k' r = true
  · simp only [State.regsAt, State.reg_of_regsAt h (hk r hr)]
  · simp only [State.regsAt, if_neg hr]

end RegsAt

/-! ### The completion of a ring's entry (R337, R340, R347, R351) -/

/-- The state without what the completion of a ring's entry changes: the registers of the host's domain, the rings and the states of
their blocks, and what is sent to the host. -/
def State.besideRings (s : State) : State × (RegName → Nat → Option (BitVec 64)) :=
  ({ s with regs := [], rings := [], blkSt := [], offAt := [], out := [], freeCtr := 0, host := {} }, s.regsAt (fun r => r.info.dom != 9))

theorem State.besideRings_of_unsent {s t : State} (h : t.unsent = s.unsent) : t.besideRings = s.besideRings :=
  State.eq_of_unsent State.besideRings (fun _ => rfl) h

theorem State.set_besideRings (s : State) {f : Fld} (hf : f.reg.info.dom = 9) (i v : Nat) : (s.set f i v).besideRings = s.besideRings := by
  have hregs := s.regsAt_set (k := fun r => r.info.dom != 9) (f := f) (by simp [hf]) i v
  simp only [State.besideRings, hregs]
  rfl

theorem State.setRing_besideRings (s : State) (r : Nat) (v : RingSt) : (s.setRing r v).besideRings = s.besideRings := rfl

theorem State.leaveService_besideRings (s : State) (b : Blk) : (s.leaveService b).besideRings = s.besideRings := rfl

theorem State.hostWriteFor_besideRings (s : State) (src : Option (Nat × Nat)) (f a : Nat) (d : Bytes) :
    (s.hostWriteFor src f a d).besideRings = s.besideRings := by
  unfold State.hostWriteFor
  split
  · rfl
  · split
    · exact State.besideRings_of_unsent (s.sendWr_unsent f a d)
    · rfl

theorem State.writeEntry_besideRings (s : State) (r i : Nat) (e : Bytes) (st : Nat) : (s.writeEntry r i e st).besideRings = s.besideRings :=
  (State.hostWriteFor_besideRings _ _ _ _ _).trans (s.hostWriteFor_besideRings _ _ _ _)

theorem State.signalRing_besideRings (s : State) (r : Nat) : (s.signalRing r).besideRings = s.besideRings := by
  unfold State.signalRing
  extract_lets f v m gap
  have sent : ∀ u : RingSt, ((s.setRing r u).signal f v).besideRings = s.besideRings := fun u =>
    (State.besideRings_of_unsent (State.signal_unsent _ f v)).trans (s.setRing_besideRings r u)
  split
  · split
    · split
      · exact sent _
      · rfl
    · exact sent _
  · rfl

theorem State.retireEntry_besideRings (s : State) (r i : Nat) : (s.retireEntry r i).besideRings = s.besideRings :=
  State.set_besideRings _ (f := .ringCiC) rfl r _

theorem State.ringFail_besideRings (s : State) (r c i : Nat) : (s.ringFail r c i).besideRings = s.besideRings := by
  rw [State.ringFail, State.set_besideRings _ rfl, State.set_besideRings _ rfl, State.set_besideRings _ rfl]

theorem State.postRecord_besideRings (s : State) (q typ : Nat) (t : BitVec 64) (b : Bytes) :
    (s.postRecord q typ t b).besideRings = s.besideRings := by
  unfold State.postRecord
  dsimp only
  split
  · exact (State.ringFail_besideRings _ _ _ _).trans (State.besideRings_of_unsent (s.tryAts_unsent _ _ _))
  · rw [State.signalRing_besideRings, State.bump, State.set_besideRings _ rfl, State.set_besideRings _ rfl, State.writeEntry_besideRings]

theorem State.loseRecord_besideRings (s : State) (q : Nat) (t : BitVec 64) : (s.loseRecord q t).besideRings = s.besideRings :=
  State.set_besideRings _ (f := .ringLostLost) rfl q _

theorem State.postLost_besideRings (s : State) (q : Nat) : (s.postLost q).besideRings = s.besideRings := by
  unfold State.postLost
  dsimp only
  split
  · exact (State.postRecord_besideRings _ _ _ _ _).trans (s.setRing_besideRings q _)
  · rfl

theorem State.notify_besideRings (s : State) (q typ : Nat) (t : BitVec 64) (b : Bytes) : (s.notify q typ t b).besideRings = s.besideRings := by
  unfold State.notify
  dsimp only
  split
  · split
    · exact (State.loseRecord_besideRings _ _ _).trans (s.postLost_besideRings q)
    · exact (State.postRecord_besideRings _ _ _ _ _).trans (s.postLost_besideRings q)
  · exact s.set_besideRings (f := .ringLostLost) rfl q _

theorem State.notifyOf_besideRings (s : State) (r typ : Nat) (b : Bytes) : (s.notifyOf r typ b).besideRings = s.besideRings := by
  unfold State.notifyOf
  split
  · exact s.notify_besideRings _ _ _ _
  · rfl

theorem State.ringError_besideRings (s : State) (r c i : Nat) : (s.ringError r c i).besideRings = s.besideRings := by
  unfold State.ringError
  dsimp only
  split
  · split
    · exact (State.leaveService_besideRings _ _).trans (s.set_besideRings (f := .ringStaState) rfl r _)
    · rfl
  · split
    · exact (State.notifyOf_besideRings _ _ _ _).trans (s.ringFail_besideRings r c i)
    · rfl

theorem State.finishEntry_besideRings (s : State) (r i : Nat) (e : Bytes) (st : Nat) : (s.finishEntry r i e st).besideRings = s.besideRings := by
  unfold State.finishEntry
  split
  · rw [State.retireEntry_besideRings, State.ringError_besideRings]
    exact State.besideRings_of_unsent (s.tryAts_unsent _ _ _)
  · rw [State.signalRing_besideRings, State.retireEntry_besideRings, State.bump, State.set_besideRings _ rfl, State.writeEntry_besideRings]

theorem State.drainReady_besideRings (s : State) (r n : Nat) : (s.drainReady r n).besideRings = s.besideRings := by
  induction n generalizing s with
  | zero => rfl
  | succ n ih =>
    unfold State.drainReady
    dsimp only
    split
    · rw [ih, State.finishEntry_besideRings, State.setRing_besideRings]
    · rfl

/-- A completion changes only its ring, the queue it reports to, and what is sent to the host. -/
theorem State.complete_besideRings (s : State) (r i : Nat) (e : Bytes) (st : Nat) : (s.complete r i e st).besideRings = s.besideRings := by
  unfold State.complete
  split
  · rfl
  · split
    · exact (State.drainReady_besideRings _ _ _).trans (s.setRing_besideRings r _)
    · exact s.finishEntry_besideRings r i e st

theorem State.finishTx_besideRings (s : State) (f : Frame) (st : Nat) (t : BitVec 64) : (s.finishTx f st t).besideRings = s.besideRings := by
  unfold State.finishTx
  split
  · rfl
  · exact s.complete_besideRings _ _ _ _

theorem State.tm_of_besideRings {s t : State} (h : t.besideRings = s.besideRings) : t.tm = s.tm := congrArg (fun x => x.1.tm) h

theorem State.regsAt_of_besideRings {s t : State} (h : t.besideRings = s.besideRings) {k : RegName → Bool}
    (hk : ∀ r, k r = true → r.info.dom ≠ 9) : t.regsAt k = s.regsAt k :=
  State.regsAt_mono (congrArg Prod.snd h) (fun r hr => by simp [hk r hr])

/-! ### Runs of operations -/

/-- A run in which each operation establishes its own fact, and none undoes another's, establishes every fact. -/
theorem foldl_establishes {α : Type} {f : State → α → State} {P : α → State → Prop} (own : ∀ s x, P x (f s x))
    (keeps : ∀ s x y, P y s → P y (f s x)) (l : List α) (s : State) {x : α} (hx : x ∈ l) : P x (l.foldl f s) := by
  have stays : ∀ (l : List α) (s : State), P x s → P x (l.foldl f s) := fun l => by
    induction l with
    | nil => exact fun _ h => h
    | cons y l ih => exact fun s h => ih _ (keeps s y x h)
  induction l generalizing s with
  | nil => cases hx
  | cons y l ih =>
    rcases List.mem_cons.1 hx with rfl | hx
    · exact stays l _ (own s x)
    · exact ih _ hx

end Sys2Proof.Machine
end

section
/-! PROOFS. Ports in and out of service: what entry into service, the lanes' calibration, a flush of the queues and the lines of the
modules leave, and the statement O19. -/

namespace Sys2Proof.Machine

/-! ### Fields beside the one written -/

/-- A field that shares no bit with the one written keeps its value, whatever the two indices. -/
theorem State.get_set_apart (s : State) {f g : Fld} (i j v : Nat) (hl : f.lo ≤ f.hi) (hg : g.hi < 64)
    (hd : g.reg ≠ f.reg ∨ g.hi < f.lo ∨ f.hi < g.lo) : (s.set f i v).get g j = s.get g j := by
  by_cases hr : g.reg = f.reg
  · by_cases hj : j = i
    · subst hj
      exact s.get_set_beside v hr hl hg (hd.resolve_left (not_not_intro hr))
    · exact s.get_set_of_ne v (.inr hj)
  · exact s.get_set_of_ne v (.inl hr)

/-! ### Entry into service (R22, R24) -/

section Renew
variable {k : RegName → Bool} (s : State) (b : Blk)

/-- Of the registers and the blocks' states, the removal of a block's references changes the compare units' references alone. -/
theorem State.purgeRefs_keeps {β : Type} (g : State → β) (hg : ∀ u v : State, v.regs = u.regs → v.blkSt = u.blkSt → g v = g u)
    (hset : ∀ (u : State) (c : Nat), g (u.setReg .crestCmpRef c 0) = g u) : g (s.purgeRefs b) = g s := by
  unfold State.purgeRefs
  extract_lets spur s1 s2 s3 tables ing threads spur' ciph wins wqs zoa
  have h2 : g s2 = g s := by
    refine (foldl_keeps g (fun u c => ?_) _ s1).trans (hg _ _ rfl rfl)
    split
    · exact hset u c
    · rfl
  have h3 : g s3 = g s := (hg s2 s3 rfl rfl).trans h2
  repeat' split
  all_goals
    refine Eq.trans ?_ h3
    exact hg s3 _ rfl rfl

theorem State.purgeRefs_regsAt (hk : k .crestCmpRef = false) : (s.purgeRefs b).regsAt k = s.regsAt k :=
  s.purgeRefs_keeps b (State.regsAt k) (fun _ _ h _ => State.regsAt_of_regs h) (fun u c => u.regsAt_setReg hk c 0)

theorem State.purgeRefs_blkSt : (s.purgeRefs b).blkSt = s.blkSt :=
  s.purgeRefs_keeps b State.blkSt (fun _ _ _ h => h) (fun _ _ => rfl)

theorem State.setBlkInc_regsAt (v : Nat) (hb : ∀ f, b.kind.incFld = some f → k f.reg = false) : (s.setBlkInc b v).regsAt k = s.regsAt k := by
  unfold State.setBlkInc
  split
  next f hf => exact s.regsAt_set (hb f hf) _ _
  next => rfl

theorem State.setBlkInc_blkSt (v : Nat) : (s.setBlkInc b v).blkSt = s.blkSt := by
  unfold State.setBlkInc
  split <;> rfl

/-- The state a block's new incarnation is written into: on a wrap its references are gone. -/
def State.wrapped (s : State) (b : Blk) : State :=
  if s.blkInc b = 0xFFFF then (s.purgeRefs b).cairnRec .incWrap (some b) [] else s

theorem State.wrapped_regsAt (hk : k .crestCmpRef = false) : (s.wrapped b).regsAt k = s.regsAt k := by
  unfold State.wrapped
  split
  · exact s.purgeRefs_regsAt b hk
  · rfl

theorem State.wrapped_blkSt : (s.wrapped b).blkSt = s.blkSt := by
  unfold State.wrapped
  split
  · exact s.purgeRefs_blkSt b
  · rfl

theorem State.enterService_regs : (s.enterService b).regs = ((s.wrapped b).setBlkInc b (incNext (s.blkInc b))).regs := by
  unfold State.enterService
  dsimp only
  split <;> rfl

theorem State.enterService_blkSt : (s.enterService b).blkSt = (s.setBlkState b 2).blkSt := by
  have hset : ((s.renewInc b).setBlkState b 2).blkSt = (s.setBlkState b 2).blkSt := by
    show SMap.setD (s.renewInc b).blkSt b.key 2 1 = SMap.setD s.blkSt b.key 2 1
    exact congrArg (SMap.setD · b.key 2 1) ((State.setBlkInc_blkSt _ b _).trans (s.wrapped_blkSt b))
  unfold State.enterService
  dsimp only
  split
  · exact hset
  · exact hset

theorem State.enterService_regsAt (hk : k .crestCmpRef = false) (hb : ∀ f, b.kind.incFld = some f → k f.reg = false) :
    (s.enterService b).regsAt k = s.regsAt k :=
  (State.regsAt_of_regs (s.enterService_regs b)).trans (((s.wrapped b).setBlkInc_regsAt b _ hb).trans (s.wrapped_regsAt b hk))

/-- A block in service stays so when one enters it. -/
theorem State.blkState_enterService_of_two {c : Blk} (h : s.blkState c = 2) : (s.enterService b).blkState c = 2 := by
  rw [State.blkState_congr (s.enterService_blkSt b)]
  by_cases hc : c.key = b.key
  · rw [State.blkState, hc]
    exact s.blkState_setBlkState_self b 2
  · exact (s.blkState_setBlkState_of_ne 2 hc).trans h

theorem State.blkState_leaveService_self : (s.leaveService b).blkState b = 1 := s.blkState_setBlkState_self b 1

/-- A block out of service stays so when one leaves it. -/
theorem State.blkState_leaveService_of_one {c : Blk} (h : s.blkState c = 1) : (s.leaveService b).blkState c = 1 := by
  by_cases hc : c.key = b.key
  · rw [State.blkState, hc]
    exact s.blkState_setBlkState_self b 1
  · exact (s.blkState_setBlkState_of_ne 1 hc).trans h

end Renew

/-! ### The registers that show a port's service -/

/-- The control and status registers of the ports. -/
def RegName.ofPort (r : RegName) : Bool := r == .portCtl || r == .portSta

/-- The contents of the ports' control and status registers. -/
def State.portRegs (s : State) : RegName → Nat → Option (BitVec 64) := s.regsAt RegName.ofPort

theorem State.get_of_portRegs {s t : State} (h : t.portRegs = s.portRegs) {f : Fld} (hf : f.reg.ofPort = true) (i : Nat) :
    t.get f i = s.get f i :=
  State.get_of_regsAt h hf i

theorem State.set_portRegs (s : State) {f : Fld} (hf : f.reg.ofPort = false) (i v : Nat) : (s.set f i v).portRegs = s.portRegs :=
  s.regsAt_set hf i v

theorem RegName.dom_of_ofPort {r : RegName} (h : r.ofPort = true) : r.info.dom ≠ 9 := by
  simp only [RegName.ofPort, Bool.or_eq_true, beq_iff_eq] at h
  rcases h with rfl | rfl <;> decide

section Port
variable (s : State) (p : Nat)

/-! ### Lanes and module lines (R88, R93) -/

theorem State.judgeLane_portRegs (l : Nat) : (s.judgeLane l).portRegs = s.portRegs := by
  unfold State.judgeLane
  split
  · exact s.set_portRegs (by decide) l 0
  · split
    · split
      · rfl
      · exact s.set_portRegs (f := .portCalStaStale) (by decide) l 1
    · exact s.set_portRegs (by decide) l 0

theorem State.judgeLane_keepsBut (l : Nat) : KeepsBut [.regs, .cairn] s (s.judgeLane l) := by
  unfold State.judgeLane
  split
  · exact (s.set_keepsBut _ l 0).mono (by simp)
  · split
    · split
      · exact KeepsBut.refl _ s
      · exact ((s.set_keepsBut _ l 1).mono (by simp)).trans ((State.cairnRec_keepsBut _ _ _ _).mono (by simp))
    · exact (s.set_keepsBut _ l 0).mono (by simp)

theorem State.judgeLanes_portRegs : (s.judgeLanes p).portRegs = s.portRegs :=
  foldl_keeps State.portRegs (fun u i => u.judgeLane_portRegs (p + i)) _ s

theorem State.showLane_portRegs (l : Nat) : (s.showLane p l).portRegs = s.portRegs :=
  (State.set_portRegs _ (f := .portCalTxInForce) (by decide) l _).trans (s.set_portRegs (f := .portCalRxInForce) (by decide) l _)

theorem State.showLane_keepsBut (l : Nat) : KeepsBut [.regs] s (s.showLane p l) :=
  (s.set_keepsBut .portCalRxInForce l _).trans (State.set_keepsBut _ .portCalTxInForce l _)

theorem State.setLane_keepsBut (l : Nat) (c : LaneCal) : KeepsBut [.ports] s (s.setLane l c) := by
  intro q hq
  cases q
  case ports => exact absurd List.mem_cons_self hq
  all_goals rfl

theorem State.freshLanes_portRegs : (s.freshLanes p).portRegs = s.portRegs := by
  unfold State.freshLanes
  refine foldl_keeps State.portRegs (fun u i => ?_) _ s
  dsimp only
  rw [State.judgeLane_portRegs, State.showLane_portRegs]
  rfl

theorem State.freshLanes_keepsBut : KeepsBut [.regs, .ports, .cairn] s (s.freshLanes p) := by
  refine foldl_keepsBut (fun u i => ?_) _ s
  exact (((u.setLane_keepsBut _ _).mono (by simp)).trans ((State.showLane_keepsBut _ p _).mono (by simp))).trans
    ((State.judgeLane_keepsBut _ _).mono (by simp))

/-- The modules' lines show in one field of the ports' status. -/
theorem State.showTxdis_get (o : Nat) {g : Fld} (hg : g.hi < 64) (hd : g.reg ≠ .portSta ∨ g.hi < 5 ∨ 5 < g.lo) (i : Nat) :
    (s.showTxdis o).get g i = s.get g i :=
  foldl_keeps (fun u => u.get g i) (fun u _ => u.get_set_apart (f := .portStaTxdis) _ i _ (by decide) hg hd) _ s

theorem State.showTxdis_keepsBut (o : Nat) : KeepsBut [.regs] s (s.showTxdis o) :=
  foldl_keepsBut (fun u _ => u.set_keepsBut .portStaTxdis _ _) _ s

/-! ### A port enters service (R95, R237) -/

theorem State.enterService_portRegs {b : Blk} (hb : b.kind = .colList ∨ b.kind = .queue) : (s.enterService b).portRegs = s.portRegs := by
  refine s.enterService_regsAt b (by decide) (fun f hf => ?_)
  rcases hb with hk | hk
  · rw [hk] at hf
    cases hf
    decide
  · rw [hk] at hf
    cases hf
    decide

theorem State.portService_portRegs : (s.portService p).portRegs = (s.enterService ⟨.port, p⟩).portRegs :=
  (foldl_keeps State.portRegs (fun u q => u.enterService_portRegs (b := ⟨.queue, p * 16 + q⟩) (.inr rfl)) _ _).trans
    (State.enterService_portRegs _ (b := ⟨.colList, p⟩) (.inl rfl))

/-- A port that enters service changes only the incarnation in the ports' registers. -/
theorem State.portService_get {g : Fld} (hr : g.reg.ofPort = true) (hg : g.hi < 48) (i : Nat) : (s.portService p).get g i = s.get g i := by
  rw [State.get_of_portRegs (s.portService_portRegs p) hr, State.get, State.reg_of_regs (s.enterService_regs ⟨.port, p⟩), ← State.get]
  refine ((s.wrapped ⟨.port, p⟩).get_set_apart (f := .portStaInc) p i _ (by decide) (by omega) (.inr (.inl hg))).trans ?_
  exact State.get_of_regsAt (s.wrapped_regsAt (k := RegName.ofPort) ⟨.port, p⟩ (by decide)) hr i

theorem State.portService_blkInc : (s.portService p).blkInc ⟨.port, p⟩ = incNext (s.blkInc ⟨.port, p⟩) % 2 ^ 16 :=
  (State.get_of_portRegs (f := .portStaInc) (s.portService_portRegs p) (by decide) p).trans (s.blkInc_enterService_self ⟨.port, p⟩)

theorem State.portService_blkState : (s.portService p).blkState ⟨.port, p⟩ = 2 ∧ (s.portService p).blkState ⟨.colList, p⟩ = 2 ∧
    ∀ q, q < 16 → (s.portService p).blkState ⟨.queue, p * 16 + q⟩ = 2 := by
  unfold State.portService
  have stays : ∀ {c : Blk} {u : State}, u.blkState c = 2 →
      ((List.range 16).foldl (fun s q => s.enterService ⟨.queue, p * 16 + q⟩) u).blkState c = 2 := fun {c} _ h =>
    List.foldlRecOn (motive := fun u : State => u.blkState c = 2) _ _ h (fun u hu q _ => u.blkState_enterService_of_two _ hu)
  refine ⟨stays ?_, stays ?_, fun q hq => ?_⟩
  · exact State.blkState_enterService_of_two _ _ (s.blkState_enterService_self ⟨.port, p⟩)
  · exact State.blkState_enterService_self _ ⟨.colList, p⟩
  · exact foldl_establishes (P := fun q u => u.blkState ⟨.queue, p * 16 + q⟩ = 2) (fun u q => u.blkState_enterService_self _)
      (fun u _ _ h => u.blkState_enterService_of_two _ h) _ _ (List.mem_range.2 hq)

/-! ### PORT_ENABLE (R70, R94, R95, R97) -/

/-- What follows a port's entry into service: its lanes' calibration starts anew, and its lines and the gate are shown. -/
def State.showService (s : State) (p : Nat) : State :=
  (((s.freshLanes p).showTxdis (p / 8)).set .portStaGated p (bit (!s.gateOpen))).noteTqw

/-- A port in service. -/
def State.raisePort (s : State) (p : Nat) : State := ((((s.set .portStaIgn p 0).set .portCtlEn p 1).portService p).showService p)

theorem State.noteTqw_get (f : Fld) (i : Nat) : s.noteTqw.get f i = s.get f i := rfl

theorem State.showService_get {g : Fld} (hr : g.reg.ofPort = true) (hg : g.hi < 64) (hd : g.reg ≠ .portSta ∨ g.hi < 5 ∨ 6 < g.lo) (i : Nat) :
    (s.showService p).get g i = s.get g i := by
  rw [State.showService, State.noteTqw_get,
    State.get_set_apart _ p i _ (by decide) hg (hd.imp_right (Or.imp_left (fun h => Nat.lt_succ_of_lt h))),
    State.showTxdis_get _ _ hg (hd.imp_right (Or.imp_right Nat.lt_of_succ_lt)), State.get_of_portRegs (s.freshLanes_portRegs p) hr]

theorem State.showService_keepsBut : KeepsBut [.regs, .ports, .cairn, .crest] s (s.showService p) := by
  unfold State.showService
  exact ((((s.freshLanes_keepsBut p).mono (by simp)).trans ((State.showTxdis_keepsBut _ _).mono (by simp))).trans
    ((State.set_keepsBut _ .portStaGated p _).mono (by simp))).trans ((State.noteTqw_keepsBut _).mono (by simp))

theorem State.showService_blkSt : (s.showService p).blkSt = s.blkSt := s.showService_keepsBut p .blkSt (by decide)

theorem State.raisePort_get {g : Fld} (hr : g.reg.ofPort = true) (hd : g.reg ≠ .portSta ∨ g.hi < 5 ∨ 6 < g.lo) (hg : g.hi < 48) (i : Nat) :
    (s.raisePort p).get g i = ((s.set .portStaIgn p 0).set .portCtlEn p 1).get g i := by
  rw [State.raisePort, State.showService_get _ p hr (by omega) hd, State.portService_get _ p hr hg]

theorem State.get_en_raisePort_self : (s.raisePort p).get .portCtlEn p = 1 := by
  rw [s.raisePort_get p (by decide) (by decide) (by decide)]
  exact State.get_set_self _ .portCtlEn p 1 (by decide) (by decide)

theorem State.get_en_raisePort_of_ne {m : Nat} (h : m ≠ p) : (s.raisePort p).get .portCtlEn m = s.get .portCtlEn m := by
  rw [s.raisePort_get p (by decide) (by decide) (by decide), State.get_set_of_ne _ _ (.inr h), State.get_set_of_ne _ _ (.inr h)]

theorem State.get_ign_raisePort : (s.raisePort p).get .portStaIgn p = 0 := by
  rw [s.raisePort_get p (by decide) (by decide) (by decide), State.get_set_of_ne _ _ (.inl (by decide))]
  exact s.get_set_self .portStaIgn p 0 (by decide) (by decide)

theorem incNext_mod {i : Nat} (h : i < 2 ^ 16) : incNext i % 2 ^ 16 = if i = 0xFFFF then 1 else i + 1 := by
  unfold incNext
  split <;> omega

theorem State.raisePort_blkInc : (s.raisePort p).blkInc ⟨.port, p⟩ =
    if s.blkInc ⟨.port, p⟩ = 0xFFFF then 1 else s.blkInc ⟨.port, p⟩ + 1 := by
  have hinc : ((s.set .portStaIgn p 0).set .portCtlEn p 1).blkInc ⟨.port, p⟩ = s.blkInc ⟨.port, p⟩ :=
    (State.get_set_of_ne _ (g := .portStaInc) _ (.inl (by decide))).trans (s.get_set_apart p p 0 (by decide) (by decide) (by decide))
  rw [← incNext_mod (s.blkInc_lt ⟨.port, p⟩), ← hinc, ← State.portService_blkInc]
  exact State.showService_get _ p (g := .portStaInc) (by decide) (by decide) (by decide) p

theorem State.raisePort_blkState : (s.raisePort p).blkState ⟨.port, p⟩ = 2 ∧ (s.raisePort p).blkState ⟨.colList, p⟩ = 2 ∧
    ∀ q, q < 16 → (s.raisePort p).blkState ⟨.queue, p * 16 + q⟩ = 2 := by
  simp only [State.raisePort, State.blkState_congr (State.showService_blkSt _ p)]
  exact State.portService_blkState _ p

theorem exec_portEnable (n : Port) (s : State) : exec (.portEnable n) s =
    if s.portOn n.val then .next (s.set .portStaIgn n.val 0)
    else if s.portEnableOk n.val then .next (s.raisePort n.val) else .next (s.ignPort n.val) := rfl

/-! ### Ignored writes (R418) -/

theorem State.get_ign_ignPort : (s.ignPort p).get .portStaIgn p = 1 := State.get_set_self _ .portStaIgn p 1 (by decide) (by decide)

theorem State.get_ignored_ignPort : (s.ignPort p).get .portIgnCntIgnored p = (s.get .portIgnCntIgnored p + 1) % 2 ^ 64 :=
  (State.get_set_of_ne _ _ (.inl (by decide))).trans (s.get_bump_self .portIgnCntIgnored p 1 (by decide) (by decide))

theorem State.ignPort_regsBut : RegsBut [(.portIgnCnt, p), (.portSta, p)] s (s.ignPort p) :=
  State.set_regsBut_of_mem _ (State.set_regsBut_of_mem _ (RegsBut.refl _ s) (by simp)) (by simp)

theorem State.ignPort_keepsBut : KeepsBut [.regs] s (s.ignPort p) := (s.set_keepsBut _ p _).trans (State.set_keepsBut _ _ p 1)

theorem State.portOn_ignPort : (s.ignPort p).portOn p = s.portOn p := by
  have hen : (s.ignPort p).get .portCtlEn p = s.get .portCtlEn p :=
    (State.get_set_of_ne _ _ (.inl (by decide))).trans (s.get_set_of_ne _ (.inl (by decide)))
  rw [State.portOn, State.is, hen, ← State.is, ← State.portOn]

/-! ### A port leaves service (R94, R237, R427) -/

/-- What discarding a queue's entry leaves: the ports' control and status registers, and the traffic manager. -/
def State.portView (s : State) : (RegName → Nat → Option (BitVec 64)) × Egress := (s.portRegs, s.tm)

theorem State.set_portView {f : Fld} (hf : f.reg.ofPort = false) (i v : Nat) : (s.set f i v).portView = s.portView :=
  Prod.ext (s.set_portRegs hf i v) rfl

theorem State.finishTx_portView (f : Frame) (st : Nat) (t : BitVec 64) : (s.finishTx f st t).portView = s.portView :=
  Prod.ext (State.regsAt_of_besideRings (s.finishTx_besideRings f st t) (fun _ => RegName.dom_of_ofPort))
    (State.tm_of_besideRings (s.finishTx_besideRings f st t))

theorem State.copyDone_portView (fid : Nat) : (s.copyDone fid).portView = s.portView := by
  unfold State.copyDone
  repeat' split
  all_goals rfl

theorem State.discardEnt_portView (e : QEnt) : (s.discardEnt p e).portView = s.portView := by
  have hcount : (s.bump .tmPortDiscFrames p).portView = s.portView := s.set_portView (by decide) p _
  unfold State.discardEnt
  extract_lets u
  split
  · exact hcount
  next f _ =>
    have hended : (if f.tx.isSome then u.finishTx f 4 0 else u).portView = s.portView := by
      split
      · exact (u.finishTx_portView f 4 0).trans hcount
      · exact hcount
    exact (State.copyDone_portView _ _).trans hended

theorem State.freeBuf_portView (e : QEnt) : (s.freeBuf e).portView = s.portView := by
  unfold State.freeBuf
  split
  · exact s.set_portView (by decide) 0 _
  · exact s.set_portView (by decide) 0 _

theorem State.setQueue_portRegs (q : Nat) (l : List QEnt) : (s.setQueue p q l).portRegs = s.portRegs := by
  unfold State.setQueue
  dsimp only
  rw [State.set_portRegs _ (by decide), State.set_portRegs _ (by decide), State.set_portRegs _ (by decide)]
  rfl

theorem State.queue_setQueue_self (q : Nat) (l : List QEnt) : (s.setQueue p q l).queue p q = l := SMap.getD_setD_self s.tm.queues _ l []

theorem State.queue_setQueue_of_ne {q r : Nat} (l : List QEnt) (h : r ≠ q) : (s.setQueue p q l).queue p r = s.queue p r :=
  SMap.getD_setD_of_ne s.tm.queues l [] [] (by omega)

/-- One queue's part of `State.flushPort`. -/
def State.flushQueue (p : Nat) (s : State) (q : Nat) : State :=
  (s.queue p q).foldl (fun s e => (s.freeBuf e).discardEnt p e) (s.setQueue p q [])

theorem State.flushPort_eq : s.flushPort p = (List.range 16).foldl (State.flushQueue p) s := rfl

theorem State.flushQueue_portView (q : Nat) : (State.flushQueue p s q).portView = (s.setQueue p q []).portView := by
  unfold State.flushQueue
  exact foldl_keeps State.portView (fun u e => ((u.freeBuf e).discardEnt_portView p e).trans (u.freeBuf_portView e)) _ _

theorem State.queue_congr {s t : State} (h : t.tm = s.tm) (p q : Nat) : t.queue p q = s.queue p q := by
  rw [State.queue, h, State.queue]

theorem State.flushPort_portRegs : (s.flushPort p).portRegs = s.portRegs := by
  rw [State.flushPort_eq]
  exact foldl_keeps State.portRegs (fun u q => (congrArg Prod.fst (u.flushQueue_portView p q)).trans (u.setQueue_portRegs p q [])) _ s

theorem State.queue_flushQueue (q r : Nat) : (State.flushQueue p s q).queue p r = (s.setQueue p q []).queue p r :=
  State.queue_congr (congrArg Prod.snd (s.flushQueue_portView p q)) p r

theorem State.flushPort_queue {q : Nat} (hq : q < 16) : (s.flushPort p).queue p q = [] := by
  rw [State.flushPort_eq]
  refine foldl_establishes (P := fun q u => u.queue p q = []) (fun u q => ?_) (fun u r q h => ?_) _ s (List.mem_range.2 hq)
  · exact (u.queue_flushQueue p q q).trans (u.queue_setQueue_self p q [])
  · rw [State.queue_flushQueue]
    by_cases hr : q = r
    · subst hr
      exact u.queue_setQueue_self p q []
    · exact (u.queue_setQueue_of_ne p [] hr).trans h

theorem State.cancelPortSwaps_portRegs : (s.cancelPortSwaps p).portRegs = s.portRegs := by
  unfold State.cancelPortSwaps
  extract_lets tm u v tm' w
  have hv : v.portRegs = s.portRegs := by
    by_cases h : s.is .tmPortStaSwapPending p = true
    · have hswap : v = (u.set .tmPortStaSwapPending p 0).swapCancel ⟨.port, p⟩ (0x100000 + p * 0x1000) := if_pos h
      exact hswap ▸ u.set_portRegs (f := .tmPortStaSwapPending) (by decide) p 0
    · have hnone : v = s := if_neg h
      exact congrArg State.portRegs hnone
  split
  · exact (w.set_portRegs (f := .colStaPending) (by decide) p 0).trans hv
  · exact hv

/-- A port's status once it is disabled, no link and no fault being shown. -/
def State.clearPort (s : State) (p : Nat) : State :=
  (((((s.set .portCtlEn p 0).set .portStaLink p 0).set .portStaAlign p 0).set .portStaLocalFault p 0).set .portStaRemoteFault p 0).set
    .portStaSkewFail p 0

/-- The port, its sixteen queues and its Col gate list leave service. -/
def State.portRetire (s : State) (p : Nat) : State :=
  (List.range 16).foldl (fun s q => s.leaveService ⟨.queue, p * 16 + q⟩) ((s.leaveService ⟨.port, p⟩).leaveService ⟨.colList, p⟩)

/-- What follows a port's leaving service: its lanes are stale no more, and its modules' lines are shown. -/
def State.showRetired (s : State) (p lanes : Nat) : State :=
  ((List.range lanes).foldl (fun s i => s.set .portCalStaStale (p + i) 0) s.noteTqw).showTxdis (p / 8)

/-- A port about to leave service: its pending swaps are cancelled and its queues are empty. -/
def State.drainPort (s : State) (p : Nat) : State := ((s.set .portStaIgn p 0).cancelPortSwaps p).flushPort p

/-- A port out of service. -/
def State.lowerPort (s : State) (p : Nat) : State := (((s.drainPort p).clearPort p).portRetire p).showRetired p (s.portLanes p)

theorem exec_portDisable (n : Port) (s : State) : exec (.portDisable n) s =
    if s.get .portStaContracts n.val ≠ 0 then .next (s.ignPort n.val)
    else if s.portOn n.val then .next (s.lowerPort n.val) else .next (s.set .portStaIgn n.val 0) := rfl

theorem State.clearPort_get {g : Fld} (hg : g.hi < 64) (hr : g.reg = .portSta) (hd : 4 < g.lo) (i : Nat) : (s.clearPort p).get g i = s.get g i := by
  unfold State.clearPort
  iterate 5 rw [State.get_set_apart _ _ i _ (by decide) hg (.inr (.inr (Nat.lt_of_le_of_lt (by decide) hd)))]
  exact s.get_set_of_ne _ (.inl (by rw [hr]; decide))

theorem State.get_link_clearPort : (s.clearPort p).get .portStaLink p = 0 := by
  unfold State.clearPort
  rw [State.get_set_apart _ _ _ _ (by decide) (by decide) (by decide), State.get_set_apart _ _ _ _ (by decide) (by decide) (by decide),
    State.get_set_apart _ _ _ _ (by decide) (by decide) (by decide), State.get_set_apart _ _ _ _ (by decide) (by decide) (by decide)]
  exact State.get_set_self _ .portStaLink p 0 (by decide) (by decide)

theorem State.get_en_clearPort (m : Nat) : (s.clearPort p).get .portCtlEn m = (s.set .portCtlEn p 0).get .portCtlEn m := by
  unfold State.clearPort
  iterate 5 rw [State.get_set_of_ne _ _ (.inl (by decide))]

theorem State.leaveService_keepsBut (b : Blk) : KeepsBut [.blkSt, .offAt] s (s.leaveService b) := by
  intro q hq
  cases q
  case blkSt => exact absurd List.mem_cons_self hq
  case offAt => exact absurd (List.mem_cons_of_mem _ List.mem_cons_self) hq
  all_goals rfl

theorem State.portRetire_keepsBut : KeepsBut [.blkSt, .offAt] s (s.portRetire p) := by
  unfold State.portRetire
  exact ((s.leaveService_keepsBut _).trans (State.leaveService_keepsBut _ _)).trans
    (foldl_keepsBut (fun u q => u.leaveService_keepsBut ⟨.queue, p * 16 + q⟩) _ _)

theorem State.portRetire_blkState : (s.portRetire p).blkState ⟨.port, p⟩ = 1 ∧ (s.portRetire p).blkState ⟨.colList, p⟩ = 1 ∧
    ∀ q, q < 16 → (s.portRetire p).blkState ⟨.queue, p * 16 + q⟩ = 1 := by
  unfold State.portRetire
  have stays : ∀ {c : Blk} {u : State}, u.blkState c = 1 →
      ((List.range 16).foldl (fun s q => s.leaveService ⟨.queue, p * 16 + q⟩) u).blkState c = 1 := fun {c} _ h =>
    List.foldlRecOn (motive := fun u : State => u.blkState c = 1) _ _ h (fun u hu q _ => u.blkState_leaveService_of_one _ hu)
  refine ⟨stays ?_, stays ?_, fun q hq => ?_⟩
  · exact State.blkState_leaveService_of_one _ _ (s.blkState_leaveService_self ⟨.port, p⟩)
  · exact State.blkState_leaveService_self _ ⟨.colList, p⟩
  · exact foldl_establishes (P := fun q u => u.blkState ⟨.queue, p * 16 + q⟩ = 1) (fun u q => u.blkState_leaveService_self _)
      (fun u _ _ h => u.blkState_leaveService_of_one _ h) _ _ (List.mem_range.2 hq)

theorem State.showRetired_keepsBut (lanes : Nat) : KeepsBut [.regs, .crest] s (s.showRetired p lanes) :=
  ((s.noteTqw_keepsBut.mono (by simp)).trans
    (foldl_keepsBut (fun u i => (u.set_keepsBut .portCalStaStale (p + i) 0).mono (by simp)) _ _)).trans
    ((State.showTxdis_keepsBut _ _).mono (by simp))

theorem State.showRetired_get (lanes : Nat) {g : Fld} (hr : g.reg.ofPort = true) (hg : g.hi < 64)
    (hd : g.reg ≠ .portSta ∨ g.hi < 5 ∨ 5 < g.lo) (i : Nat) : (s.showRetired p lanes).get g i = s.get g i := by
  have hstale : ∀ u : State, ((List.range lanes).foldl (fun s i => s.set .portCalStaStale (p + i) 0) u).portRegs = u.portRegs :=
    foldl_keeps State.portRegs (fun u i => u.set_portRegs (by decide) (p + i) 0) _
  refine (State.showTxdis_get _ _ hg hd i).trans ((State.get_of_portRegs (hstale _) hr i).trans rfl)

theorem State.drainPort_get {g : Fld} (hr : g.reg.ofPort = true) (i : Nat) : (s.drainPort p).get g i = (s.set .portStaIgn p 0).get g i :=
  (State.get_of_portRegs (State.flushPort_portRegs _ p) hr i).trans (State.get_of_portRegs (State.cancelPortSwaps_portRegs _ p) hr i)

theorem State.lowerPort_get {g : Fld} (hr : g.reg.ofPort = true) (hg : g.hi < 64) (hd : g.reg ≠ .portSta ∨ g.hi < 5 ∨ 5 < g.lo) (i : Nat) :
    (s.lowerPort p).get g i = ((s.drainPort p).clearPort p).get g i :=
  (State.showRetired_get _ p _ hr hg hd i).trans (State.get_of_regs (State.portRetire_keepsBut _ p .regs (by decide)) g i)

theorem State.get_en_lowerPort_self : (s.lowerPort p).get .portCtlEn p = 0 := by
  rw [s.lowerPort_get p (by decide) (by decide) (by decide), State.get_en_clearPort]
  exact State.get_set_self _ .portCtlEn p 0 (by decide) (by decide)

theorem State.get_en_lowerPort_of_ne {m : Nat} (h : m ≠ p) : (s.lowerPort p).get .portCtlEn m = s.get .portCtlEn m := by
  rw [s.lowerPort_get p (by decide) (by decide) (by decide), State.get_en_clearPort, State.get_set_of_ne _ _ (.inr h),
    s.drainPort_get p (by decide), State.get_set_of_ne _ _ (.inl (by decide))]

theorem State.get_link_lowerPort : (s.lowerPort p).get .portStaLink p = 0 :=
  (s.lowerPort_get p (g := .portStaLink) (by decide) (by decide) (by decide) p).trans (State.get_link_clearPort _ p)

theorem State.lowerPort_blkInc : (s.lowerPort p).blkInc ⟨.port, p⟩ = s.blkInc ⟨.port, p⟩ := by
  show (s.lowerPort p).get .portStaInc p = s.get .portStaInc p
  rw [s.lowerPort_get p (by decide) (by decide) (by decide), State.clearPort_get _ p (by decide) rfl (by decide),
    s.drainPort_get p (by decide), State.get_set_apart _ _ _ _ (by decide) (by decide) (by decide)]

theorem State.clearPort_tm : (s.clearPort p).tm = s.tm := rfl

theorem State.lowerPort_tm : (s.lowerPort p).tm = (s.drainPort p).tm := by
  rw [State.lowerPort, State.showRetired_keepsBut _ p _ .tm (by decide), State.portRetire_keepsBut _ p .tm (by decide), State.clearPort_tm]

theorem State.lowerPort_queue {q : Nat} (hq : q < 16) : (s.lowerPort p).queue p q = [] := by
  rw [State.queue_congr (s.lowerPort_tm p), State.drainPort]
  exact State.flushPort_queue _ p hq

theorem State.lowerPort_blkState : (s.lowerPort p).blkState ⟨.port, p⟩ = 1 ∧ (s.lowerPort p).blkState ⟨.colList, p⟩ = 1 ∧
    ∀ q, q < 16 → (s.lowerPort p).blkState ⟨.queue, p * 16 + q⟩ = 1 := by
  simp only [State.lowerPort, State.blkState_congr (State.showRetired_keepsBut _ p _ .blkSt (by decide))]
  exact State.portRetire_blkState _ p

end Port

/-! ### The statement -/

theorem State.portOn_iff (s : State) (p : Nat) : s.portOn p = true ↔ s.get .portCtlEn p = 1 := s.is_iff_get .portCtlEn p

theorem State.portOn_congr {s t : State} {m : Nat} (h : t.get .portCtlEn m = s.get .portCtlEn m) : t.portOn m = s.portOn m := by
  rw [State.portOn, State.is, h, ← State.is, ← State.portOn]

/-- Settles O19: each write of en is one of three states, the port's raised or lowered one, the ignored write, or a cleared ign. -/
theorem portServiceResults : Obligations.PortServiceResults := by
  unfold Obligations.PortServiceResults
  intro n s p
  have hen := exec_portEnable n s
  have hdis := exec_portDisable n s
  refine ⟨fun hon => ?_, fun hoff hok => ⟨s.raisePort p, ?_, ?_⟩, fun hoff hok => ⟨s.ignPort p, ?_, ?_⟩,
    fun hcon => ⟨s.ignPort p, ?_, s.portOn_ignPort p, s.get_ign_ignPort p, s.get_ignored_ignPort p, s.ignPort_regsBut p, s.ignPort_keepsBut p⟩,
    fun hcon hoff => ?_, fun hcon hon => ⟨s.lowerPort p, ?_, ?_⟩⟩
  · rw [hen, if_pos hon]
  · rw [hen, if_neg (by rw [hoff]; decide), if_pos hok]
  · obtain ⟨hport, hcol, hqueue⟩ := s.raisePort_blkState p
    exact ⟨(State.portOn_iff _ p).2 (s.get_en_raisePort_self p), s.get_ign_raisePort p, hport, hcol, hqueue, s.raisePort_blkInc p,
      fun m hm => State.portOn_congr (s.get_en_raisePort_of_ne p hm)⟩
  · rw [hen, if_neg (by rw [hoff]; decide), if_neg (by rw [hok]; decide)]
  · exact ⟨(s.portOn_ignPort p).trans hoff, s.get_ign_ignPort p, s.get_ignored_ignPort p, s.ignPort_regsBut p, s.ignPort_keepsBut p⟩
  · rw [hdis, if_pos hcon]
  · rw [hdis, if_neg (not_not_intro hcon), if_neg (by rw [hoff]; decide)]
  · rw [hdis, if_neg (not_not_intro hcon), if_pos hon]
  · obtain ⟨hport, hcol, hqueue⟩ := s.lowerPort_blkState p
    have hoff : (s.lowerPort p).portOn p = false := by
      rw [State.portOn, State.is, s.get_en_lowerPort_self p]
      rfl
    exact ⟨hoff, s.get_link_lowerPort p, hport, hcol, fun q hq => ⟨hqueue q hq, s.lowerPort_queue p hq⟩, s.lowerPort_blkInc p,
      fun m hm => State.portOn_congr (s.get_en_lowerPort_of_ne p hm)⟩

end Sys2Proof.Machine
end

section
/-! PROOFS. Link state, faults, PAUSE frames and reads of the two-step stamp queues, and the statement O20. -/

namespace Sys2Proof.Machine

/-! ### Alignment and faults (R74, R82, R95, R516) -/

section Link
variable (s : State) (p : Nat)

/-- A port whose lanes' skew is too large shows it and has no link. -/
def State.skewed (s : State) (p : Nat) : State := ((s.set .portStaSkewFail p 1).set .portStaLink p 0).set .portStaAlign p 0

/-- A port that is aligned shows link. -/
def State.aligned (s : State) (p : Nat) : State := ((s.set .portStaSkewFail p 0).set .portStaAlign p 1).set .portStaLink p 1

/-- With auto-negotiation on, the lanes of a port that has lost its link train again (R72). -/
def State.retrain (s : State) (p : Nat) : State :=
  if s.is .portCfgAn p then
    (List.range (s.portLanes p)).foldl (fun s i => s.setLane (p + i) { s.lane (p + i) with training := true }) s
  else s

theorem exec_portLinkUp (n : Port) (skew : Nat) (s : State) : exec (.portLinkUp n skew) s =
    if s.portOn n.val then
      if 1 < s.portLanes n.val ∧ 64 < skew then .next (s.skewed n.val)
      else .next (((s.aligned n.val).endTraining n.val).judgeLanes n.val).noteTqw
    else .next s := rfl

theorem exec_portLinkDown (n : Port) (s : State) : exec (.portLinkDown n) s =
    if s.portOn n.val then
      .next (((((s.set .portStaLink n.val 0).set .portStaAlign n.val 0).retrain n.val).judgeLanes n.val).noteTqw)
    else .next s := rfl

theorem exec_portLinkFault (n : Port) (lf : LaneFault) (rf : Bool) (s : State) : exec (.portLinkFault n lf rf) s =
    if s.portOn n.val then
      .next ((((((s.set .portStaLocalFault n.val (bit lf.fault)).set .portStaRemoteFault n.val (bit rf)).showAdapt n.val lf.adapt).judgeLanes
        n.val).noteTqw))
    else .next s := rfl

theorem State.skewed_get : (s.skewed p).get .portStaSkewFail p = 1 ∧ (s.skewed p).get .portStaLink p = 0 ∧
    (s.skewed p).get .portStaAlign p = 0 := by
  refine ⟨?_, ?_, State.get_set_self _ .portStaAlign p 0 (by decide) (by decide)⟩
  · rw [State.skewed, State.get_set_apart _ _ _ _ (by decide) (by decide) (by decide),
      State.get_set_apart _ _ _ _ (by decide) (by decide) (by decide)]
    exact s.get_set_self .portStaSkewFail p 1 (by decide) (by decide)
  · rw [State.skewed, State.get_set_apart _ _ _ _ (by decide) (by decide) (by decide)]
    exact State.get_set_self _ .portStaLink p 0 (by decide) (by decide)

theorem State.skewed_regsBut : RegsBut [(.portSta, p)] s (s.skewed p) := by
  unfold State.skewed
  iterate 3 refine State.set_regsBut_of_mem _ ?_ List.mem_cons_self
  exact RegsBut.refl _ s

theorem State.skewed_keepsBut : KeepsBut [.regs] s (s.skewed p) := by
  unfold State.skewed
  iterate 3 refine State.set_keepsBut_of_mem _ _ _ ?_ List.mem_cons_self
  exact KeepsBut.refl _ s

theorem State.aligned_get : (s.aligned p).get .portStaSkewFail p = 0 ∧ (s.aligned p).get .portStaLink p = 1 ∧
    (s.aligned p).get .portStaAlign p = 1 ∧ (s.aligned p).get .portStaInc p = s.get .portStaInc p := by
  unfold State.aligned
  refine ⟨?_, State.get_set_self _ .portStaLink p 1 (by decide) (by decide), ?_, ?_⟩
  · rw [State.get_set_apart _ _ _ _ (by decide) (by decide) (by decide), State.get_set_apart _ _ _ _ (by decide) (by decide) (by decide)]
    exact s.get_set_self .portStaSkewFail p 0 (by decide) (by decide)
  · rw [State.get_set_apart _ _ _ _ (by decide) (by decide) (by decide)]
    exact State.get_set_self _ .portStaAlign p 1 (by decide) (by decide)
  · iterate 3 rw [State.get_set_apart _ _ _ _ (by decide) (by decide) (by decide)]

theorem State.endTraining_portRegs : (s.endTraining p).portRegs = s.portRegs := by
  unfold State.endTraining
  refine foldl_keeps State.portRegs (fun u i => ?_) _ s
  dsimp only
  split <;> rfl

theorem State.setLane_portRegs (l : Nat) (c : LaneCal) : (s.setLane l c).portRegs = s.portRegs := rfl

theorem State.retrain_portRegs : (s.retrain p).portRegs = s.portRegs := by
  unfold State.retrain
  split
  · exact foldl_keeps State.portRegs (fun u i => u.setLane_portRegs (p + i) _) _ s
  · rfl

theorem State.showAdapt_portRegs (a : BitVec 8) : (s.showAdapt p a).portRegs = s.portRegs := by
  unfold State.showAdapt
  exact foldl_keeps State.portRegs (fun u i => u.setLane_portRegs (p + i) _) _ s

/-- Judging a port's lanes and noting the time quality leave the ports' control and status registers. -/
theorem State.judged_get {f : Fld} (hf : f.reg.ofPort = true) (i : Nat) : ((s.judgeLanes p).noteTqw).get f i = s.get f i :=
  (State.noteTqw_get _ f i).trans (State.get_of_portRegs (s.judgeLanes_portRegs p) hf i)

theorem State.up_get {f : Fld} (hf : f.reg.ofPort = true) (i : Nat) :
    (((s.aligned p).endTraining p).judgeLanes p).noteTqw.get f i = (s.aligned p).get f i :=
  (State.judged_get _ p hf i).trans (State.get_of_portRegs (State.endTraining_portRegs _ p) hf i)

theorem completes_portLinkUp_skewed {n : Port} {skew : Nat} {s : State} (hon : s.portOn n.val = true) (hlanes : 1 < s.portLanes n.val)
    (hskew : 64 < skew) : Completes (.portLinkUp n skew) s (fun t => t.get .portStaSkewFail n.val = 1 ∧
      t.get .portStaLink n.val = 0 ∧ t.get .portStaAlign n.val = 0 ∧ RegsBut [(.portSta, n.val)] s t ∧ KeepsBut [.regs] s t) := by
  obtain ⟨hfail, hlink, halign⟩ := s.skewed_get n.val
  refine ⟨s.skewed n.val, ?_, hfail, hlink, halign, s.skewed_regsBut n.val, s.skewed_keepsBut n.val⟩
  rw [exec_portLinkUp, if_pos hon, if_pos ⟨hlanes, hskew⟩]

theorem completes_portLinkUp_aligned {n : Port} {skew : Nat} {s : State} (hon : s.portOn n.val = true)
    (h : s.portLanes n.val = 1 ∨ skew ≤ 64) : Completes (.portLinkUp n skew) s (fun t => t.get .portStaSkewFail n.val = 0 ∧
      t.get .portStaLink n.val = 1 ∧ t.get .portStaAlign n.val = 1 ∧ t.blkInc ⟨.port, n.val⟩ = s.blkInc ⟨.port, n.val⟩) := by
  obtain ⟨hfail, hlink, halign, hinc⟩ := s.aligned_get n.val
  refine ⟨(((s.aligned n.val).endTraining n.val).judgeLanes n.val).noteTqw, ?_, (s.up_get n.val (by decide) _).trans hfail,
    (s.up_get n.val (by decide) _).trans hlink, (s.up_get n.val (by decide) _).trans halign,
    (s.up_get n.val (f := .portStaInc) (by decide) _).trans hinc⟩
  rw [exec_portLinkUp, if_pos hon, if_neg (by omega)]

theorem State.down_get {f : Fld} (hf : f.reg.ofPort = true) (i : Nat) :
    ((((s.set .portStaLink p 0).set .portStaAlign p 0).retrain p).judgeLanes p).noteTqw.get f i =
      ((s.set .portStaLink p 0).set .portStaAlign p 0).get f i :=
  (State.judged_get _ p hf i).trans (State.get_of_portRegs (State.retrain_portRegs _ p) hf i)

theorem completes_portLinkDown {n : Port} {s : State} (hon : s.portOn n.val = true) : Completes (.portLinkDown n) s (fun t =>
    t.get .portStaLink n.val = 0 ∧ t.get .portStaAlign n.val = 0 ∧ t.blkInc ⟨.port, n.val⟩ = s.blkInc ⟨.port, n.val⟩) := by
  refine ⟨((((s.set .portStaLink n.val 0).set .portStaAlign n.val 0).retrain n.val).judgeLanes n.val).noteTqw, ?_,
    (s.down_get n.val (by decide) _).trans ?_, (s.down_get n.val (by decide) _).trans ?_,
    (s.down_get n.val (f := .portStaInc) (by decide) _).trans ?_⟩
  · rw [exec_portLinkDown, if_pos hon]
  · rw [State.get_set_apart _ _ _ _ (by decide) (by decide) (by decide)]
    exact s.get_set_self .portStaLink n.val 0 (by decide) (by decide)
  · exact State.get_set_self _ .portStaAlign n.val 0 (by decide) (by decide)
  · iterate 2 rw [State.get_set_apart _ _ _ _ (by decide) (by decide) (by decide)]
    rfl

/-- A port that shows its receive faults. -/
def State.faulted (s : State) (p : Nat) (lf rf : Bool) : State :=
  (s.set .portStaLocalFault p (bit lf)).set .portStaRemoteFault p (bit rf)

theorem State.fault_get (lf rf : Bool) (a : BitVec 8) {f : Fld} (hf : f.reg.ofPort = true) (i : Nat) :
    (((s.faulted p lf rf).showAdapt p a).judgeLanes p).noteTqw.get f i = (s.faulted p lf rf).get f i :=
  (State.judged_get _ p hf i).trans (State.get_of_portRegs (State.showAdapt_portRegs _ p a) hf i)

theorem bit_mod_two (b : Bool) : bit b % 2 = bit b := by cases b <;> rfl

/-- The faults show in two fields of a port's status. -/
theorem State.faulted_get (lf rf : Bool) {g : Fld} (hg : g.hi < 64) (hd : g.reg ≠ .portSta ∨ g.hi < 2 ∨ 3 < g.lo) (i : Nat) :
    (s.faulted p lf rf).get g i = s.get g i := by
  rw [State.faulted, State.get_set_apart _ _ _ _ (by decide) hg (hd.imp_right (Or.imp_left Nat.lt_succ_of_lt)),
    State.get_set_apart _ _ _ _ (by decide) hg (hd.imp_right (Or.imp_right Nat.lt_of_succ_lt))]

theorem completes_portLinkFault {n : Port} {s : State} (hon : s.portOn n.val = true) (lf rf : Bool) (ad : BitVec 8) :
    Completes (.portLinkFault n ⟨lf, ad⟩ rf) s (fun t => t.get .portStaLocalFault n.val = bit lf ∧ t.get .portStaRemoteFault n.val = bit rf ∧
      t.get .portStaLink n.val = s.get .portStaLink n.val ∧ t.portOn n.val = true ∧
      t.blkInc ⟨.port, n.val⟩ = s.blkInc ⟨.port, n.val⟩) := by
  have hget := fun {f : Fld} (hf : f.reg.ofPort = true) => s.fault_get n.val lf rf ad hf n.val
  refine ⟨(((s.faulted n.val lf rf).showAdapt n.val ad).judgeLanes n.val).noteTqw, ?_, (hget (by decide)).trans ?_, (hget (by decide)).trans ?_,
    (hget (by decide)).trans (s.faulted_get n.val lf rf (by decide) (by decide) _),
    (State.portOn_congr ((hget (by decide)).trans (s.faulted_get n.val lf rf (by decide) (by decide) _))).trans hon,
    (hget (f := .portStaInc) (by decide)).trans (s.faulted_get n.val lf rf (by decide) (by decide) _)⟩
  · rw [exec_portLinkFault, if_pos hon]
    rfl
  · rw [State.faulted, State.get_set_apart _ _ _ _ (by decide) (by decide) (by decide)]
    exact (s.get_set_self .portStaLocalFault n.val (bit lf) (by decide) (by decide)).trans (bit_mod_two lf)
  · exact (State.get_set_self _ .portStaRemoteFault n.val (bit rf) (by decide) (by decide)).trans (bit_mod_two rf)

end Link

/-! ### PAUSE frames (R81, R83, R234) -/

section Pause
variable {n : Port} {b : Bytes} {s : State}

theorem exec_pauseRx (n : Port) (b : Bytes) (s : State) : exec (.pauseRx n b) s =
    if (s.portOn n.val && isMacCtl b) = true then .next (s.macConsume n.val b (frameBad b)) else .next s := rfl

theorem exec_pauseRx_taken (hon : s.portOn n.val = true) (hmac : isMacCtl b = true) :
    exec (.pauseRx n b) s = .next (s.macConsume n.val b (frameBad b)) := by
  rw [exec_pauseRx, if_pos (by rw [hon, hmac]; rfl)]

/-- A counter of a whole register that takes one. -/
theorem State.bump_results (s : State) (f : Fld) (i : Nat) (hl : f.lo = 0) (hh : f.hi = 63) : (s.bump f i).get f i = (s.get f i + 1) % 2 ^ 64 ∧
    RegsBut [(f.reg, i)] s (s.bump f i) ∧ KeepsBut [.regs] s (s.bump f i) := by
  refine ⟨?_, s.set_regsBut f i _, s.set_keepsBut f i _⟩
  rw [s.get_bump_self f i 1 (by omega) (by omega), Fld.width, hl, hh]

theorem completes_pauseRx_oversize (hon : s.portOn n.val = true) (hmac : isMacCtl b = true) (hlen : s.maxRx n.val < b.length) :
    Completes (.pauseRx n b) s (fun t => t.get .portRxOversizeFrames n.val = (s.get .portRxOversizeFrames n.val + 1) % 2 ^ 64 ∧
      RegsBut [(.portRxOversize, n.val)] s t ∧ KeepsBut [.regs] s t) := by
  refine ⟨s.bump .portRxOversizeFrames n.val, ?_, s.bump_results _ _ rfl rfl⟩
  rw [exec_pauseRx_taken hon hmac, State.macConsume, if_pos hlen]

theorem completes_pauseRx_bad (hon : s.portOn n.val = true) (hmac : isMacCtl b = true) (hlen : b.length ≤ s.maxRx n.val)
    (hbad : frameBad b = true) : Completes (.pauseRx n b) s (fun t =>
      t.get .portRxBadFrames n.val = (s.get .portRxBadFrames n.val + 1) % 2 ^ 64 ∧ RegsBut [(.portRxBad, n.val)] s t ∧ KeepsBut [.regs] s t) := by
  refine ⟨s.bump .portRxBadFrames n.val, ?_, s.bump_results _ _ rfl rfl⟩
  rw [exec_pauseRx_taken hon hmac, State.macConsume, if_neg (Nat.not_lt.2 hlen), if_pos hbad]

/-- The instant until which a pause of some quanta lasts. -/
def State.pauseTill (s : State) (p quanta : Nat) : Nat :=
  if quanta = 0 then 0 else s.elapsed + ceilDiv (quanta * 512 * 65536) (s.portRate p)

/-- The instant until which queue `q` of a port is paused. -/
def State.pausedTill (s : State) (p q : Nat) : Nat := SMap.getD s.tm.pauses (p * 16 + q) 0

theorem State.pausedTill_pauseQ_self (s : State) (p q quanta : Nat) : (s.pauseQ p q quanta).pausedTill p q = s.pauseTill p quanta :=
  SMap.getD_setD_self s.tm.pauses _ _ 0

theorem State.pausedTill_pauseQ_of_ne (s : State) (p quanta : Nat) {q r : Nat} (h : r ≠ q) :
    (s.pauseQ p q quanta).pausedTill p r = s.pausedTill p r :=
  SMap.getD_setD_of_ne s.tm.pauses _ 0 0 (by omega)

/-- Every queue of a port pauses for some quanta. -/
def State.pauseAll (s : State) (p quanta : Nat) : State := (List.range 16).foldl (fun s q => s.pauseQ p q quanta) s

theorem State.setTm_keepsBut (s : State) (m : Egress) : KeepsBut [.tm] s { s with tm := m } := by
  intro q hq
  cases q
  case tm => exact absurd List.mem_cons_self hq
  all_goals rfl

theorem State.pauseQ_keepsBut (s : State) (p q quanta : Nat) : KeepsBut [.tm] s (s.pauseQ p q quanta) := s.setTm_keepsBut _

theorem State.pauseAll_keepsBut (s : State) (p quanta : Nat) : KeepsBut [.tm] s (s.pauseAll p quanta) := by
  unfold State.pauseAll
  exact foldl_keepsBut (fun u q => u.pauseQ_keepsBut p q quanta) _ s

theorem State.pauseTill_pauseQ (s : State) (p q quanta : Nat) : (s.pauseQ p q quanta).pauseTill p quanta = s.pauseTill p quanta := rfl

theorem State.pauseAll_pauseTill (s : State) (p quanta : Nat) : (s.pauseAll p quanta).pauseTill p quanta = s.pauseTill p quanta := by
  unfold State.pauseAll
  exact foldl_keeps (fun u => u.pauseTill p quanta) (fun u q => u.pauseTill_pauseQ p q quanta) _ s

theorem State.pausedTill_pauseAll (s : State) (p quanta : Nat) {q : Nat} (hq : q < 16) :
    (s.pauseAll p quanta).pausedTill p q = s.pauseTill p quanta := by
  rw [← s.pauseAll_pauseTill]
  unfold State.pauseAll
  refine foldl_establishes (P := fun q u => u.pausedTill p q = u.pauseTill p quanta) (fun u q => ?_) (fun u r q h => ?_) _ s
    (List.mem_range.2 hq)
  · rw [State.pauseTill_pauseQ, State.pausedTill_pauseQ_self]
  · rw [State.pauseTill_pauseQ]
    by_cases hr : q = r
    · rw [hr, State.pausedTill_pauseQ_self]
    · rw [State.pausedTill_pauseQ_of_ne _ _ _ hr, h]

/-- A port that has counted a good PAUSE frame. -/
def State.countPause (s : State) (p : Nat) : State := (s.bump .portRxFramesFrames p).bump .portRxPauseFrames p

theorem State.countPause_get (s : State) (p : Nat) : (s.countPause p).get .portRxFramesFrames p = (s.get .portRxFramesFrames p + 1) % 2 ^ 64 ∧
    (s.countPause p).get .portRxPauseFrames p = (s.get .portRxPauseFrames p + 1) % 2 ^ 64 := by
  obtain ⟨hframes, -⟩ := s.bump_results .portRxFramesFrames p rfl rfl
  obtain ⟨hpause, -⟩ := (s.bump .portRxFramesFrames p).bump_results .portRxPauseFrames p rfl rfl
  refine ⟨(State.get_set_of_ne _ _ (.inl (by decide))).trans hframes, hpause.trans ?_⟩
  rw [State.bump, State.get_set_of_ne _ _ (.inl (by decide))]

theorem State.countPause_get_of_ne (s : State) (p : Nat) {f : Fld} (hf : f.reg ≠ .portRxFrames ∧ f.reg ≠ .portRxPause) (i : Nat) :
    (s.countPause p).get f i = s.get f i :=
  (State.get_set_of_ne _ _ (.inl hf.2)).trans (s.get_set_of_ne _ (.inl hf.1))

theorem State.countPause_regsBut (s : State) (p : Nat) : RegsBut [(.portRxFrames, p), (.portRxPause, p)] s (s.countPause p) :=
  State.set_regsBut_of_mem _ (State.set_regsBut_of_mem _ (RegsBut.refl _ s) (by simp)) (by simp)

theorem State.countPause_keepsBut (s : State) (p : Nat) : KeepsBut [.regs] s (s.countPause p) :=
  (s.set_keepsBut _ _ _).trans (State.set_keepsBut _ _ _ _)

theorem State.pauseTill_countPause (s : State) (p quanta : Nat) : (s.countPause p).pauseTill p quanta = s.pauseTill p quanta := by
  have hmode := s.countPause_get_of_ne p (f := .portCfgMode) (by decide) p
  simp only [State.pauseTill, State.portRate, State.portMode, hmode]
  rfl

theorem State.macConsume_pause (s : State) {p : Nat} (hlen : b.length ≤ s.maxRx p) (hop : beAt b 14 2 = 1) :
    s.macConsume p b false = if s.is .portMacCfgPfcRx p = true then (s.countPause p).pauseAll p (beAt b 16 2) else s.countPause p := by
  have hpfc : (s.countPause p).is .portMacCfgPfcRx p = s.is .portMacCfgPfcRx p :=
    congrArg (· == 1) (s.countPause_get_of_ne p (f := .portMacCfgPfcRx) (by decide) p)
  rw [State.macConsume, if_neg (Nat.not_lt.2 hlen), if_neg (by decide), if_pos (.inl hop), ← hpfc]
  dsimp only
  rw [State.actPause, if_pos hop]
  rfl

theorem completes_pauseRx_good (hon : s.portOn n.val = true) (hmac : isMacCtl b = true) (hlen : b.length ≤ s.maxRx n.val)
    (hbad : frameBad b = false) (hop : beAt b 14 2 = 1) : Completes (.pauseRx n b) s (fun t =>
      t.get .portRxFramesFrames n.val = (s.get .portRxFramesFrames n.val + 1) % 2 ^ 64 ∧
      t.get .portRxPauseFrames n.val = (s.get .portRxPauseFrames n.val + 1) % 2 ^ 64 ∧
      RegsBut [(.portRxFrames, n.val), (.portRxPause, n.val)] s t ∧ KeepsBut [.regs, .tm] s t ∧
      (s.is .portMacCfgPfcRx n.val = false → t.tm = s.tm) ∧
      (s.is .portMacCfgPfcRx n.val = true → ∀ r, r < 16 → SMap.getD t.tm.pauses (n.val * 16 + r) 0 =
        if beAt b 16 2 = 0 then 0 else s.elapsed + ceilDiv (beAt b 16 2 * 512 * 65536) (s.portRate n.val))) := by
  obtain ⟨hframes, hpauses⟩ := s.countPause_get n.val
  have hregs := s.countPause_regsBut n.val
  have hkeeps := (s.countPause_keepsBut n.val).mono (qs := [.regs, .tm]) (by simp)
  refine ⟨s.macConsume n.val b false, by rw [exec_pauseRx_taken hon hmac, hbad], ?_⟩
  rw [s.macConsume_pause hlen hop]
  by_cases hpfc : s.is .portMacCfgPfcRx n.val = true
  · rw [if_pos hpfc]
    have hpaused := (s.countPause n.val).pauseAll_keepsBut n.val (beAt b 16 2)
    have hsame := State.get_of_regs (hpaused .regs (by decide))
    refine ⟨(hsame _ _).trans hframes, (hsame _ _).trans hpauses,
      fun r i hm => (State.reg_of_regs (hpaused .regs (by decide)) r i).trans (hregs r i hm), hkeeps.trans (hpaused.mono (by simp)),
      fun h => absurd (hpfc.symm.trans h) (by decide), fun _ r hr => ?_⟩
    exact ((s.countPause n.val).pausedTill_pauseAll n.val (beAt b 16 2) hr).trans (s.pauseTill_countPause n.val _)
  · rw [if_neg hpfc]
    exact ⟨hframes, hpauses, hregs, hkeeps, fun _ => rfl, fun h => absurd h hpfc⟩

end Pause

/-- A queue whose pause is over. -/
def State.endPause (s : State) (k : Nat) : State := { s with tm := { s.tm with pauses := SMap.setD s.tm.pauses k 0 0 } }

theorem State.endPause_pauses (s : State) (k : Nat) : (s.endPause k).tm.pauses = SMap.setD s.tm.pauses k 0 0 := rfl

theorem exec_pauseEnd (n : Port) (q : Fin 16) (s : State) : exec (.pauseEnd n q) s =
    .next ((s.advanceAt (SMap.getD s.tm.pauses (n.val * 16 + q.val) 0)).endPause (n.val * 16 + q.val)) := rfl

/-! ### Reads of the two-step stamp queues (R92) -/

section Tsq
variable {f : Option Fn} {o : Octet} {s : State}

theorem exec_portTsqMetaRead (f : Option Fn) (o : Octet) (s : State) : exec (.portTsqMetaRead f o) s =
    execPortTsqMetaRead f o s := rfl

theorem exec_portTsqLtRead (f : Option Fn) (o : Octet) (s : State) : exec (.portTsqLtRead f o) s = execPortTsqLtRead f o s := rfl

/-- The entry a read of PORT_TSQ_META shows: the one latched, else the reader's oldest. -/
def State.shownTsq (s : State) (f : Option Fn) (o : Nat) : Option TsqEntry :=
  match SMap.find s.ports.tsqLatch (latchKey f o) with
  | some e => some e
  | none => (SMap.getD s.ports.tsq o []).find? (fun e => e.owner == f.map (·.val))

/-- A reader's latch takes an entry, or none. -/
def State.latchTsq (s : State) (f : Option Fn) (o : Nat) (l : Option TsqEntry) : State :=
  { s with ports := { s.ports with tsqLatch := SMap.put s.ports.tsqLatch (latchKey f o) l } }

/-- A latched entry is read: it leaves the latch and the queue. -/
def State.takeTsq (s : State) (f : Option Fn) (o : Nat) (e : TsqEntry) : State :=
  { s with ports := { s.ports with tsqLatch := SMap.put s.ports.tsqLatch (latchKey f o) none,
                                   tsq := SMap.setD s.ports.tsq o ((SMap.getD s.ports.tsq o []).erase e) [] } }

theorem State.takeTsq_results (s : State) (f : Option Fn) (o : Nat) (e : TsqEntry) :
    SMap.find (s.takeTsq f o e).ports.tsqLatch (latchKey f o) = none ∧
    SMap.getD (s.takeTsq f o e).ports.tsq o [] = (SMap.getD s.ports.tsq o []).erase e := by
  unfold State.takeTsq
  exact ⟨SMap.find_put_self _ _ none, SMap.getD_setD_self _ _ _ []⟩

/-- A read's answer. -/
def State.answer (s : State) (v : BitVec 64) : State := { s with readData := v }

theorem State.setPorts_keepsBut (s : State) (m : Ports) (v : BitVec 64) : KeepsBut [.ports, .readData] s { s with ports := m, readData := v } := by
  intro q hq
  cases q
  case ports => exact absurd List.mem_cons_self hq
  case readData => exact absurd (List.mem_cons_of_mem _ List.mem_cons_self) hq
  all_goals rfl

theorem exec_portTsqMetaRead_journal (h : f.map (·.val) = some 128) : exec (.portTsqMetaRead f o) s = .next s := if_pos h

theorem exec_portTsqMetaRead_unseen (h : f.map (·.val) ≠ some 128) (hsees : s.tsqSees f o.val = false) :
    exec (.portTsqMetaRead f o) s = .next (s.answer 0) := by
  rw [exec_portTsqMetaRead, execPortTsqMetaRead, if_neg h, if_pos (by rw [hsees]; rfl)]
  rfl

theorem exec_portTsqMetaRead_seen (h : f.map (·.val) ≠ some 128) (hsees : s.tsqSees f o.val = true) :
    exec (.portTsqMetaRead f o) s =
      .next ((s.latchTsq f o.val (s.shownTsq f o.val)).answer (tsqMeta (s.shownTsq f o.val) (s.tsqFill f o.val))) := by
  rw [exec_portTsqMetaRead, execPortTsqMetaRead, if_neg h, if_neg (by rw [hsees]; decide)]
  rfl

theorem exec_portTsqLtRead_unseen (hsees : s.tsqSees f o.val = false) : exec (.portTsqLtRead f o) s = .next (s.answer 0) := by
  rw [exec_portTsqLtRead, execPortTsqLtRead, if_pos (by rw [hsees]; rfl)]
  rfl

theorem exec_portTsqLtRead_latched (hsees : s.tsqSees f o.val = true) {e : TsqEntry}
    (he : SMap.find s.ports.tsqLatch (latchKey f o.val) = some e) :
    exec (.portTsqLtRead f o) s = .next ((s.takeTsq f o.val e).answer e.lt) := by
  rw [exec_portTsqLtRead, execPortTsqLtRead, if_neg (by rw [hsees]; decide)]
  simp only [he]
  rfl

theorem exec_portTsqLtRead_empty (hsees : s.tsqSees f o.val = true) (he : SMap.find s.ports.tsqLatch (latchKey f o.val) = none) :
    exec (.portTsqLtRead f o) s = .next (s.answer 0xFFFFFFFFFFFFFFFF#64) := by
  rw [exec_portTsqLtRead, execPortTsqLtRead, if_neg (by rw [hsees]; decide)]
  simp only [he]
  rfl

end Tsq

/-! ### The statement -/

theorem port_off_clauses {n : Port} {s : State} (h : s.portOn n.val = false) (skew : Nat) (lf : LaneFault) (rf : Bool) (b : Bytes) :
    exec (.portLinkUp n skew) s = .next s ∧ exec (.portLinkDown n) s = .next s ∧ exec (.portLinkFault n lf rf) s = .next s ∧
      exec (.pauseRx n b) s = .next s := by
  have hoff : ¬s.portOn n.val = true := by rw [h]; decide
  refine ⟨?_, ?_, ?_, ?_⟩
  · rw [exec_portLinkUp, if_neg hoff]
  · rw [exec_portLinkDown, if_neg hoff]
  · rw [exec_portLinkFault, if_neg hoff]
  · rw [exec_pauseRx, if_neg (by simp [h])]

theorem pauseEnd_clauses (n : Port) (q : Fin 16) (s : State) :
    Completes (.pauseEnd n q) s (fun t => SMap.getD t.tm.pauses (n.val * 16 + q.val) 0 = 0) ∧
    (SMap.getD s.tm.pauses (n.val * 16 + q.val) 0 ≤ s.elapsed → Completes (.pauseEnd n q) s (fun t => KeepsBut [.tm] s t ∧
      ∀ j, j ≠ n.val * 16 + q.val → SMap.getD t.tm.pauses j 0 = SMap.getD s.tm.pauses j 0)) := by
  refine ⟨⟨_, exec_pauseEnd n q s, ?_⟩, fun hover => ⟨_, exec_pauseEnd n q s, ?_⟩⟩
  · beta_reduce
    rw [State.endPause_pauses, SMap.getD_setD_self]
  · rw [s.advanceAt_of_reached hover]
    exact ⟨s.setTm_keepsBut _, fun j hj => by rw [State.endPause_pauses, SMap.getD_setD_of_ne _ _ _ _ hj]⟩

/-- Settles O20: link events by the port's lanes, PAUSE frames by what the MAC makes of them, reads by the reader's latch. -/
theorem linkAndPauseResults : Obligations.LinkAndPauseResults := by
  unfold Obligations.LinkAndPauseResults
  intro n q skew lf rf ad b f o s p k lk
  obtain ⟨hend, hover⟩ := pauseEnd_clauses n q s
  refine ⟨fun hoff => port_off_clauses hoff skew _ rf b, fun hon => ?_, hend, hover,
    fun hsees => ⟨exec_portTsqLtRead_unseen hsees, fun h => exec_portTsqMetaRead_unseen h hsees⟩, fun h hsees => ?_,
    exec_portTsqMetaRead_journal, fun e hsees he => ?_, fun hsees he => ?_⟩
  · exact ⟨completes_portLinkUp_skewed hon, completes_portLinkUp_aligned hon, completes_portLinkDown hon, completes_portLinkFault hon lf rf ad,
      completes_pauseRx_oversize hon, completes_pauseRx_bad hon, completes_pauseRx_good hon⟩
  · refine ⟨s.shownTsq f o.val, fun e he => ?_, fun he => ?_, _, exec_portTsqMetaRead_seen h hsees, rfl, SMap.find_put_self _ _ _, rfl,
      s.setPorts_keepsBut _ _⟩
    · simp only [State.shownTsq, lk, he]
    · simp only [State.shownTsq, lk, he]
  · obtain ⟨hlatch, hqueue⟩ := s.takeTsq_results f o.val e
    exact ⟨_, exec_portTsqLtRead_latched hsees he, rfl, hlatch, hqueue, s.setPorts_keepsBut _ _⟩
  · exact ⟨_, exec_portTsqLtRead_empty hsees he, rfl, s.setReadData_keepsBut _⟩

end Sys2Proof.Machine
end

section
/-! PROOFS. Reception: the ingress stamp, the classifier's instant, the end of a frame, the marker and the walk over the policers, and
the statement O21. -/

namespace Sys2Proof.Machine

/-! ### INGRESS_STAMP (R47, R84, R98) -/

section Stamp
variable (n : Port) (ln : Fin 8) (b : Bytes) (s : State)

/-- The frame whose first bit crosses the receive plane of a lane now. -/
def State.stampedFrame (s : State) (p lane : Nat) (b : Bytes) : Frame :=
  let t := s.rxStamp p (p + lane) s.lt
  { port := some p, portInc := s.get .portStaInc p, bytes := b, hdr := sliceB b 0 256, lt := t, ft := s.ftOf t }

theorem State.stampedFrame_fields (p lane : Nat) (b : Bytes) :
    let f := s.stampedFrame p lane b
    f.port = some p ∧ f.bytes = b ∧ f.lt = s.rxStamp p (p + lane) s.lt ∧ f.ft = s.ftOf f.lt ∧ f.stage = .rx ∧ f.ended = false := by
  simp only [State.stampedFrame, and_self]

/-- A port and a lane that take a frame. -/
def State.receives (s : State) (p lane : Nat) : Prop := s.portOn p = true ∧ s.is .portStaLink p = true ∧ lane < s.portLanes p

theorem exec_ingressStamp : exec (.ingressStamp n ln b) s =
    if (s.portOn n.val && s.is .portStaLink n.val && decide (ln.val < s.portLanes n.val)) = true then
      .next (s.newFrame (s.stampedFrame n.val ln.val b)).1
    else .next s := rfl

theorem State.receives_iff (p lane : Nat) :
    (s.portOn p && s.is .portStaLink p && decide (lane < s.portLanes p)) = true ↔ s.receives p lane := by
  simp only [State.receives, Bool.and_eq_true, decide_eq_true_eq, and_assoc]

theorem State.newFrame_keepsBut (f : Frame) : KeepsBut [.ports] s (s.newFrame f).1 := by
  intro q hq
  cases q
  case ports => exact absurd List.mem_cons_self hq
  all_goals rfl

theorem State.newFrame_frames (f : Frame) : (s.newFrame f).1.ports.frames = SMap.put s.ports.frames s.ports.nextFrame (some f) := rfl

theorem State.frame_newFrame_self (f : Frame) : (s.newFrame f).1.frame? s.ports.nextFrame = some f := by
  rw [State.frame?, State.newFrame_frames, SMap.find_put_self]

theorem State.frame_newFrame_of_ne (f : Frame) {i : Nat} (h : i ≠ s.ports.nextFrame) : (s.newFrame f).1.frame? i = s.frame? i := by
  rw [State.frame?, State.newFrame_frames, SMap.find_put_of_ne _ _ h, State.frame?]

theorem ingressStamp_clauses :
    (¬s.receives n.val ln.val → exec (.ingressStamp n ln b) s = .next s) ∧
    (s.receives n.val ln.val → Completes (.ingressStamp n ln b) s (fun t => KeepsBut [.ports] s t ∧ t.ports.nextFrame = s.ports.nextFrame + 1 ∧
      (∃ f, t.frame? s.ports.nextFrame = some f ∧ f.port = some n.val ∧ f.bytes = b ∧ f.lt = s.rxStamp n.val (n.val + ln.val) s.lt ∧
        f.ft = s.ftOf f.lt ∧ f.stage = .rx ∧ f.ended = false) ∧ ∀ i, i ≠ s.ports.nextFrame → t.frame? i = s.frame? i)) := by
  have hiff := s.receives_iff n.val ln.val
  refine ⟨fun h => by rw [exec_ingressStamp, if_neg (hiff.not.2 h)], fun h => ⟨(s.newFrame (s.stampedFrame n.val ln.val b)).1, ?_, ?_⟩⟩
  · rw [exec_ingressStamp, if_pos (hiff.2 h)]
  · exact ⟨s.newFrame_keepsBut _, rfl, ⟨_, s.frame_newFrame_self _, s.stampedFrame_fields n.val ln.val b⟩, fun i hi => s.frame_newFrame_of_ne _ hi⟩

end Stamp

/-! ### CLASSIFY and RX_FRAME_END (R78, R80, R96, R97) -/

section Judge
variable {s : State} {fid : Nat} {f : Frame} {i : Nat} {e : Bool}

theorem exec_classify (fid : Nat) (s : State) : exec (.classify fid) s = .next (s.classifyNow fid) := rfl

theorem exec_classify_none (h : s.frame? fid = none) : exec (.classify fid) s = .next s := by
  rw [exec_classify, State.classifyNow, h]

theorem exec_rxFrameEnd_none (h : s.frame? fid = none) (e : Bool) : exec (.rxFrameEnd fid e) s = .next s := by
  show execRxFrameEnd fid e s = _
  rw [execRxFrameEnd, h]

/-- The classifier waits: the frame has been judged, or the MAC or a SecY has it. -/
def State.heldBack (s : State) (f : Frame) (i : Nat) : Bool :=
  f.stage != .rx || (isMacCtl f.bytes && !f.ended) || (s.secyOn i && !f.plain)

/-- What the classifier's decision makes of a frame. -/
def State.judge (u : State) (fid : Nat) (f : Frame) (i : Nat) : State :=
  if u.failsEarly f i then u.endRx fid f i false else u.judgeFrame fid f i

/-- The state at a frame's fixed parse time. -/
def State.atDecision (s : State) (f : Frame) (i : Nat) : State := s.advanceTo (f.lt + BitVec.ofNat 64 (s.decideUnits i))

/-- The MAC hears the end of a frame that the classifier has not judged. -/
theorem State.hearEnd_of_rx (s : State) (hst : f.stage = .rx) (hmac : isMacCtl f.bytes = false) (e : Bool) :
    s.hearEnd fid f i e = (s.advanceTo (f.lt + BitVec.ofNat 64 (s.knownUnits i f.bytes))).endRx fid f i e := by
  rw [State.hearEnd, if_neg (by simp [hst])]
  dsimp only
  rw [if_neg (by simp [hmac])]

/-- The end of a frame is heard at the MAC, if the frame is still there and has not been ended. -/
def State.hearNow (u : State) (fid i : Nat) (e : Bool) : Out :=
  match u.frame? fid with
  | none => .next u
  | some g => .next (if g.ended && !g.hearing then u else u.hearEnd fid g i e)

theorem State.hearNow_of_some (hf : s.frame? fid = some f) (hend : f.ended = false) : s.hearNow fid i e = .next (s.hearEnd fid f i e) := by
  rw [State.hearNow, hf]
  dsimp only
  rw [if_neg (by simp [hend])]

section Present
variable (hf : s.frame? fid = some f) (hi : f.port = some i)
include hf hi

theorem State.classifyNow_of_some : s.classifyNow fid = if s.heldBack f i then s else (s.atDecision f i).judge fid f i := by
  rw [State.classifyNow, hf]
  dsimp only
  rw [hi]
  rfl

theorem exec_classify_judged (h : f.stage ≠ .rx) : exec (.classify fid) s = .next s := by
  rw [exec_classify, State.classifyNow_of_some hf hi, if_pos (by simp [State.heldBack, h])]

theorem exec_classify_awaiting (h : f.stage = .rx) (hmac : isMacCtl f.bytes = false) (hsecy : s.secyOn i = false) :
    exec (.classify fid) s = .next ((s.atDecision f i).judge fid f i) := by
  rw [exec_classify, State.classifyNow_of_some hf hi, if_neg (by simp [State.heldBack, h, hmac, hsecy])]

theorem exec_rxFrameEnd_some (e : Bool) : exec (.rxFrameEnd fid e) s =
    if (f.ended && !f.hearing) = true then .next s
    else if s.errorEarly f i e = true then .next (s.endRx fid f i true)
    else (if s.decideUnits i ≤ s.knownUnits i f.bytes ∧ !s.secyOn i then s.classifyNow fid else s).hearNow fid i e := by
  show execRxFrameEnd fid e s = _
  rw [execRxFrameEnd, hf]
  dsimp only
  rw [hi]
  dsimp only
  -- The state in which the end is heard gets a name, or the kernel evaluates the comparison of the two instants.
  obtain ⟨u, hu⟩ : ∃ u, (if s.decideUnits i ≤ s.knownUnits i f.bytes ∧ !s.secyOn i then s.classifyNow fid else s) = u := ⟨_, rfl⟩
  rw [hu]
  rfl

theorem exec_rxFrameEnd_ended (hend : f.ended = true) (hhear : f.hearing = false) : exec (.rxFrameEnd fid e) s = .next s := by
  rw [exec_rxFrameEnd_some hf hi, if_pos (by rw [hend, hhear]; rfl)]

theorem exec_rxFrameEnd_early (herr : s.errorEarly f i e = true) (hend : f.ended = false) :
    exec (.rxFrameEnd fid e) s = .next (s.endRx fid f i true) := by
  rw [exec_rxFrameEnd_some hf hi, if_neg (by simp [hend]), if_pos herr]

theorem exec_rxFrameEnd_known (hst : f.stage = .rx) (hend : f.ended = false) (hmac : isMacCtl f.bytes = false)
    (herr : s.errorEarly f i e = false) (hknown : s.knownUnits i f.bytes < s.decideUnits i) : exec (.rxFrameEnd fid e) s =
      .next ((s.advanceTo (f.lt + BitVec.ofNat 64 (s.knownUnits i f.bytes))).endRx fid f i e) := by
  rw [exec_rxFrameEnd_some hf hi, if_neg (by simp [hend]), if_neg (by simp [herr]), if_neg (fun h => absurd h.1 (Nat.not_le.2 hknown)),
    State.hearNow_of_some hf hend, s.hearEnd_of_rx hst hmac]

end Present

/-! ### The end of a frame that has not been judged (R78, R80, R81) -/

/-- The counter of received frames that an end takes: the oversize, the bad or the good ones. -/
def State.endFld (s : State) (f : Frame) (i : Nat) (e : Bool) : Fld :=
  if s.maxRx i < f.bytes.length then .portRxOversizeFrames
  else if (frameBad f.bytes || e) = true then .portRxBadFrames else .portRxFramesFrames

/-- A frame as its end leaves it. -/
def State.endedFrame (s : State) (f : Frame) (i : Nat) (e : Bool) : Frame :=
  { f with ended := true, failed := decide (s.maxRx i < f.bytes.length) || (frameBad f.bytes || e) }

variable (hst : f.stage = .rx) (hhear : f.hearing = false)

theorem State.endFld_whole (s : State) (f : Frame) (i : Nat) (e : Bool) : (s.endFld f i e).lo = 0 ∧ (s.endFld f i e).hi = 63 ∧
    (s.endFld f i e).reg ≠ .ciphSecyCfg := by
  unfold State.endFld
  repeat' split
  all_goals decide

include hst hhear in
theorem State.endRx_of_rx (fid : Nat) : s.endRx fid f i e =
    if (s.endedFrame f i e).failed = true then (s.bump (s.endFld f i e) i).putFrame fid { s.endedFrame f i e with stage := .done }
    else (s.bump (s.endFld f i e) i).secyCheck fid (s.endedFrame f i e) i := by
  have hcount : (if decide (s.maxRx i < f.bytes.length) = true then s.bump .portRxOversizeFrames i
      else if (frameBad f.bytes || e) = true then s.bump .portRxBadFrames i else s.bump .portRxFramesFrames i) = s.bump (s.endFld f i e) i := by
    simp only [State.endFld, decide_eq_true_eq]
    repeat' split
    all_goals rfl
  rw [State.endRx, hcount, if_neg (by simp [hhear]), if_pos hst]
  rfl

/-- A frame that no SecY guards passes as it is. -/
theorem State.secyCheck_of_off (u : State) (fid : Nat) (g : Frame) (h : u.secyOn i = false) : u.secyCheck fid g i = u.putFrame fid g := by
  have hsecy : (u.putFrame fid g).secyOn i = false := h
  rw [State.secyCheck, if_neg (by rw [hsecy]; decide)]

theorem State.get_endFld_bump (s : State) (f : Frame) (i : Nat) (e : Bool) :
    (s.bump (s.endFld f i e) i).get (s.endFld f i e) i = (s.get (s.endFld f i e) i + 1) % 2 ^ 64 := by
  obtain ⟨hl, hh, -⟩ := s.endFld_whole f i e
  exact (s.bump_results _ i hl hh).1

include hst hhear in
/-- A frame that fails before it is judged is counted and discarded. -/
theorem State.endRx_failed (fid : Nat) (h : (s.endedFrame f i e).failed = true) :
    (s.endRx fid f i e).get (s.endFld f i e) i = (s.get (s.endFld f i e) i + 1) % 2 ^ 64 ∧
      (f.rx = none → (s.endRx fid f i e).frame? fid = none) := by
  rw [State.endRx_of_rx hst hhear, if_pos h]
  refine ⟨s.get_endFld_bump f i e, fun hrx => ?_⟩
  rw [State.frame_putFrame_self, if_pos ⟨rfl, rfl, by simp [State.endedFrame, hrx], by simp [State.endedFrame, hhear]⟩]

include hst hhear in
/-- A good frame on a port without a SecY is counted and awaits its judgement. -/
theorem State.endRx_good (fid : Nat) (h : (s.endedFrame f i e).failed = false) (hsecy : s.secyOn i = false) :
    (s.endRx fid f i e).get (s.endFld f i e) i = (s.get (s.endFld f i e) i + 1) % 2 ^ 64 ∧
      (s.endRx fid f i e).frame? fid = some { f with ended := true, failed := false } := by
  obtain ⟨-, -, hreg⟩ := s.endFld_whole f i e
  have hoff : (s.bump (s.endFld f i e) i).secyOn i = false := by
    rw [State.secyOn, State.is, State.bump, State.get_set_of_ne _ _ (.inl (Ne.symm hreg))]
    exact hsecy
  rw [State.endRx_of_rx hst hhear, if_neg (by rw [h]; decide), State.secyCheck_of_off _ fid _ hoff]
  refine ⟨s.get_endFld_bump f i e, ?_⟩
  rw [State.frame_putFrame_self, if_neg (by simp [State.endedFrame, hst]), State.endedFrame]
  exact congrArg (fun x => some { f with ended := true, failed := x }) h

include hst hhear in
theorem endRx_clauses (fid : Nat) :
    let t := s.endRx fid f i e
    (s.maxRx i < f.bytes.length → t.get .portRxOversizeFrames i = (s.get .portRxOversizeFrames i + 1) % 2 ^ 64 ∧
      (f.rx = none → t.frame? fid = none)) ∧
    (f.bytes.length ≤ s.maxRx i → (frameBad f.bytes = true ∨ e = true) →
      t.get .portRxBadFrames i = (s.get .portRxBadFrames i + 1) % 2 ^ 64 ∧ (f.rx = none → t.frame? fid = none)) ∧
    (f.bytes.length ≤ s.maxRx i → frameBad f.bytes = false → e = false → s.secyOn i = false →
      t.get .portRxFramesFrames i = (s.get .portRxFramesFrames i + 1) % 2 ^ 64 ∧
      t.frame? fid = some { f with ended := true, failed := false }) := by
  refine ⟨fun hlen => ?_, fun hlen hbad => ?_, fun hlen hok he hsecy => ?_⟩
  · have hfld : s.endFld f i e = .portRxOversizeFrames := if_pos hlen
    exact hfld ▸ State.endRx_failed hst hhear fid (by simp [State.endedFrame, hlen])
  · have hbad' : (frameBad f.bytes || e) = true := by simpa using hbad
    have hfld : s.endFld f i e = .portRxBadFrames := by rw [State.endFld, if_neg (Nat.not_lt.2 hlen), if_pos hbad']
    exact hfld ▸ State.endRx_failed hst hhear fid (by simp [State.endedFrame, hbad'])
  · have hgood : (frameBad f.bytes || e) = false := by rw [hok, he]; rfl
    have hfld : s.endFld f i e = .portRxFramesFrames := by rw [State.endFld, if_neg (Nat.not_lt.2 hlen), if_neg (by rw [hgood]; decide)]
    exact hfld ▸ State.endRx_good hst hhear fid (by simp [State.endedFrame, hgood, Nat.not_lt.2 hlen]) hsecy

end Judge

/-! ### The policer (R104, R105, R106) -/

section Police
variable (s : State) (c : Nat)

theorem State.setPol_keepsBut (d : Policer) : KeepsBut [.regs, .ing] s (s.setPol c d) := by
  intro q hq
  cases q
  case regs => exact absurd List.mem_cons_self hq
  case ing => exact absurd (List.mem_cons_of_mem _ List.mem_cons_self) hq
  all_goals rfl

theorem State.pol_setPol_self (d : Policer) : (s.setPol c d).pol c = d := SMap.getD_setD_self s.ing.policers c d {}

theorem State.setPol_get (d : Policer) {f : Fld} (hf : f.reg ≠ .ingConTok) (i : Nat) : (s.setPol c d).get f i = s.get f i := by
  rw [State.setPol, State.get_set_of_ne _ _ (.inl hf), State.get_set_of_ne _ _ (.inl hf)]
  rfl

theorem State.pol_of_ing {s t : State} (h : t.ing = s.ing) (c : Nat) : t.pol c = s.pol c := by
  rw [State.pol, h, State.pol]

/-- Below the peak bucket a frame is red, and nothing is charged. -/
theorem Policer.charge_red {d : Policer} {n : Nat} (h : d.tp < n * 2 ^ 32) : d.charge n = (3, d) := if_pos h

theorem Policer.charge_yellow {d : Policer} {n : Nat} (hp : n * 2 ^ 32 ≤ d.tp) (hc : d.tc < n * 2 ^ 32) :
    d.charge n = (2, { d with tp := d.tp - n * 2 ^ 32 }) :=
  (if_neg (Nat.not_lt.2 hp)).trans (if_pos hc)

theorem Policer.charge_green {d : Policer} {n : Nat} (hp : n * 2 ^ 32 ≤ d.tp) (hc : n * 2 ^ 32 ≤ d.tc) :
    d.charge n = (1, { d with tp := d.tp - n * 2 ^ 32, tc := d.tc - n * 2 ^ 32 }) :=
  (if_neg (Nat.not_lt.2 hp)).trans (if_neg (Nat.not_lt.2 hc))

/-- The counter of a colour. -/
def colourFld (k : Nat) : Fld := if k = 1 then .ingConGreenFrames else if k = 2 then .ingConYellowFrames else .ingConRedFrames

theorem colourFld_whole (k : Nat) : (colourFld k).lo = 0 ∧ (colourFld k).hi = 63 ∧ (colourFld k).reg ≠ .ingConTok := by
  unfold colourFld
  repeat' split
  all_goals decide

theorem State.countColour_eq (k : Nat) : s.countColour c k = s.bump (colourFld k) c := by
  unfold State.countColour colourFld
  repeat' split
  all_goals rfl

/-- The state once the marker has charged a contract's policer and counted the colour. -/
def State.charged (s : State) (c k : Nat) (d : Policer) : State := (s.setPol c d).countColour c k

theorem State.charged_results (k : Nat) (d : Policer) :
    (s.charged c k d).get (colourFld k) c = (s.get (colourFld k) c + 1) % 2 ^ 64 ∧ (s.charged c k d).pol c = d := by
  obtain ⟨hl, hh, hreg⟩ := colourFld_whole k
  rw [State.charged, State.countColour_eq]
  obtain ⟨hcount, -, hkeeps⟩ := (s.setPol c d).bump_results (colourFld k) c hl hh
  rw [s.setPol_get c d hreg] at hcount
  exact ⟨hcount, (State.pol_of_ing (hkeeps .ing (by decide)) c).trans (s.pol_setPol_self c d)⟩

/-- A frame with the contract version it matched, its colour and its deadline. -/
def Frame.marked (f : Frame) (c k : Nat) (v : ConVer) : Frame :=
  { f with con := some (c, v.inc), colour := k, stage := .matched,
           deadline := if k = 3 then none else some (f.lt + BitVec.ofNat 64 ((if k = 1 then v.body.reqC else v.body.reqP) * unitsPerNs)) }

/-- The marker's decision on a frame of a contract version. -/
def State.mark (s : State) (f : Frame) (c : Nat) (v : ConVer) : Nat × Policer :=
  ((s.pol c).accrue ((s.inForce c).getD v).body f.lt).charge v.body.lMax

/-- The state that holds a marked frame. -/
def State.holdMarked (s : State) (fid : Nat) (f : Frame) (c k : Nat) (v : ConVer) (d : Policer) : State :=
  (s.charged c k d).putFrame fid (f.marked c k v)

theorem State.matched_eq {fid : Nat} {f : Frame} {v : ConVer} {k : Nat} {d : Policer} (h : s.mark f c v = (k, d)) :
    s.matched fid f c v =
      if k = 3 then (s.holdMarked fid f c k v d).dispose fid dPolice else s.holdMarked fid f c k v d := by
  have hmatched : s.matched fid f c v = if (s.mark f c v).1 = 3
      then (s.holdMarked fid f c (s.mark f c v).1 v (s.mark f c v).2).dispose fid dPolice
      else s.holdMarked fid f c (s.mark f c v).1 v (s.mark f c v).2 := rfl
  rw [hmatched, h]

theorem State.holdMarked_results (fid : Nat) (f : Frame) (k : Nat) (v : ConVer) (d : Policer) :
    (s.holdMarked fid f c k v d).get (colourFld k) c = (s.get (colourFld k) c + 1) % 2 ^ 64 ∧ (s.holdMarked fid f c k v d).pol c = d ∧
      (s.holdMarked fid f c k v d).frame? fid = some (f.marked c k v) := by
  obtain ⟨hcount, hpol⟩ := s.charged_results c k d
  refine ⟨hcount, hpol, ?_⟩
  rw [State.holdMarked, State.frame_putFrame_self, if_neg (by simp [Frame.marked])]

/-! ### A frame that goes no further (R32) -/

theorem State.leafDueAt_keepsBut (at_ : Nat) (f : Frame) (dispo res out : Nat) : KeepsBut [.led, .back] s (s.leafDueAt at_ f dispo res out) := by
  have hback : ∀ b : Back, KeepsBut [.led, .back] s { s with back := b } := fun b q hq => by
    cases q
    case back => exact absurd (List.mem_cons_of_mem _ List.mem_cons_self) hq
    all_goals rfl
  have hled : ∀ (u : State) (l : Nat) (v : LedLane), KeepsBut [.led, .back] u (u.setLed l v) := fun u l v q hq => by
    cases q
    case led => exact absurd List.mem_cons_self hq
    all_goals rfl
  unfold State.leafDueAt
  split
  next v _ _ _ =>
    have hlate : KeepsBut [.led, .back] s
        (if dispo = 0x01 then { s with back := { s.back with lateFrames := s.back.lateFrames + 1 } } else s) := by
      split
      · exact hback _
      · exact KeepsBut.refl _ s
    dsimp only
    by_cases hv : v.body.ledgered = true
    · rw [if_pos hv]
      exact hlate.trans (hled _ _ _)
    · rw [if_neg hv]
      exact hlate
  next => exact KeepsBut.refl _ s

/-- A frame that is disposed of is done, if it is still there. -/
theorem State.dispose_results (fid dispo : Nat) : KeepsBut [.ports, .led, .back] s (s.dispose fid dispo) ∧
    ∀ g, (s.dispose fid dispo).frame? fid = some g → g.stage = .done := by
  unfold State.dispose State.disposeAt
  split
  next h => exact ⟨KeepsBut.refl _ s, fun g hg => by rw [h] at hg; cases hg⟩
  next f _ =>
    refine ⟨((s.leafDueAt_keepsBut _ f dispo _ _).mono (by simp)).trans ((State.putFrame_keepsBut _ _ fid).mono (by simp)), fun g hg => ?_⟩
    rw [State.frame_putFrame_self] at hg
    split at hg
    · cases hg
    · cases hg
      rfl

theorem State.matched_clauses (fid : Nat) (f : Frame) (v : ConVer) :
    let d := (s.pol c).accrue ((s.inForce c).getD v).body f.lt
    let need := v.body.lMax * 2 ^ 32
    let t := s.matched fid f c v
    (d.tp < need → t.get .ingConRedFrames c = (s.get .ingConRedFrames c + 1) % 2 ^ 64 ∧ t.pol c = d ∧
      ∀ g, t.frame? fid = some g → g.stage = .done) ∧
    (need ≤ d.tp → d.tc < need → t.get .ingConYellowFrames c = (s.get .ingConYellowFrames c + 1) % 2 ^ 64 ∧
      t.pol c = { d with tp := d.tp - need } ∧ ∃ g, t.frame? fid = some g ∧ g.colour = 2 ∧ g.con = some (c, v.inc) ∧
        g.stage = .matched ∧ g.deadline = some (f.lt + BitVec.ofNat 64 (v.body.reqP * 65536))) ∧
    (need ≤ d.tp → need ≤ d.tc → t.get .ingConGreenFrames c = (s.get .ingConGreenFrames c + 1) % 2 ^ 64 ∧
      t.pol c = { d with tp := d.tp - need, tc := d.tc - need } ∧ ∃ g, t.frame? fid = some g ∧ g.colour = 1 ∧
        g.con = some (c, v.inc) ∧ g.stage = .matched ∧ g.deadline = some (f.lt + BitVec.ofNat 64 (v.body.reqC * 65536))) := by
  intro d need t
  refine ⟨fun hred => ?_, fun hp hc => ?_, fun hp hc => ?_⟩
  · have ht : t = (s.holdMarked fid f c 3 v d).dispose fid dPolice := s.matched_eq c (Policer.charge_red hred)
    obtain ⟨hcount, hpol, -⟩ := s.holdMarked_results c fid f 3 v d
    obtain ⟨hkeeps, hdone⟩ := (s.holdMarked fid f c 3 v d).dispose_results fid dPolice
    rw [ht]
    exact ⟨(State.get_of_regs (hkeeps .regs (by decide)) _ c).trans hcount, (State.pol_of_ing (hkeeps .ing (by decide)) c).trans hpol, hdone⟩
  · have ht : t = s.holdMarked fid f c 2 v _ := s.matched_eq c (Policer.charge_yellow hp hc)
    obtain ⟨hcount, hpol, hframe⟩ := s.holdMarked_results c fid f 2 v { d with tp := d.tp - need }
    rw [ht]
    exact ⟨hcount, hpol, _, hframe, rfl, rfl, rfl, rfl⟩
  · have ht : t = s.holdMarked fid f c 1 v _ := s.matched_eq c (Policer.charge_green hp hc)
    obtain ⟨hcount, hpol, hframe⟩ := s.holdMarked_results c fid f 1 v { d with tp := d.tp - need, tc := d.tc - need }
    rw [ht]
    exact ⟨hcount, hpol, _, hframe, rfl, rfl, rfl, rfl⟩

/-! ### POLICER_WALK (R105) -/

/-- One policer's part of the walk. -/
def State.walkPolicer (s : State) (e : Nat × Policer) : State :=
  match s.inForce e.1 with
  | some v => s.setPol e.1 ((s.pol e.1).accrue v.body s.lt)
  | none => s

theorem exec_policerWalk (s : State) : exec .policerWalk s = .next (s.ing.policers.foldl State.walkPolicer s) := rfl

theorem State.walkPolicer_keepsBut (e : Nat × Policer) : KeepsBut [.regs, .ing] s (s.walkPolicer e) := by
  unfold State.walkPolicer
  split
  · exact s.setPol_keepsBut _ _
  · exact KeepsBut.refl _ s

theorem State.walkPolicer_ing (e : Nat × Policer) : (s.walkPolicer e).ing.tables = s.ing.tables ∧ (s.walkPolicer e).ing.learns = s.ing.learns := by
  unfold State.walkPolicer
  split
  · exact ⟨rfl, rfl⟩
  · exact ⟨rfl, rfl⟩

theorem State.completes_policerWalk :
    Completes .policerWalk s (fun t => KeepsBut [.regs, .ing] s t ∧ t.ing.tables = s.ing.tables ∧ t.ing.learns = s.ing.learns) :=
  ⟨_, exec_policerWalk s, foldl_keepsBut State.walkPolicer_keepsBut _ s,
    foldl_keeps (fun u => u.ing.tables) (fun u e => (u.walkPolicer_ing e).1) _ s,
    foldl_keeps (fun u => u.ing.learns) (fun u e => (u.walkPolicer_ing e).2) _ s⟩

end Police

/-- Settles O21: the stamp by the port and its lane, the classifier's and the MAC's instants by the frame's stage, its end by its counter,
the marker by its colour. -/
theorem receptionResults : Obligations.ReceptionResults := by
  unfold Obligations.ReceptionResults
  intro n ln b fid e s p ok
  obtain ⟨hnone, hstamp⟩ := ingressStamp_clauses n ln b s
  refine ⟨hnone, hstamp, fun h => ⟨exec_classify_none h, exec_rxFrameEnd_none h e⟩, fun f i hf hi => ?_,
    fun f i _ hst hhear => endRx_clauses hst hhear fid, fun f c v => s.matched_clauses c fid f v, s.completes_policerWalk⟩
  exact ⟨exec_classify_judged hf hi, exec_rxFrameEnd_ended hf hi, exec_classify_awaiting hf hi, exec_rxFrameEnd_early hf hi,
    exec_rxFrameEnd_known hf hi⟩

end Sys2Proof.Machine
end

section
/-! PROOFS. Rules of the forwarding tables: what the store of an entry changes, and what reading entries and passes leave. -/

namespace Sys2Proof.Machine

/-! ### The store of an entry (R108) -/

section Store
variable (s : State) (t : Nat) (k : Bytes) (plen : Nat) (o : Option TEntry)

theorem State.tbl_of_tables {s u : State} (h : u.ing.tables = s.ing.tables) (t : Nat) : u.tbl t = s.tbl t := by
  rw [State.tbl, h, State.tbl]

theorem State.entry_of_tables {s u : State} (h : u.ing.tables = s.ing.tables) (t : Nat) (k : Bytes) (plen : Nat) :
    u.entry t k plen = s.entry t k plen := by
  rw [State.entry, State.tbl_of_tables h, State.entry]

@[simp] theorem State.entry_bump (f : Fld) (i n : Nat) : (s.bump f i n).entry t k plen = s.entry t k plen := rfl

@[simp] theorem State.entry_putEntry_self : (s.putEntry t k plen o).entry t k plen = o := by
  rw [State.entry, State.putEntry, State.tbl_setTbl_self, SMap.find_put_self]

theorem State.entry_putEntry_of_ne {k' : Bytes} {plen' : Nat} (h : keyNum k' plen' ≠ keyNum k plen) :
    (s.putEntry t k plen o).entry t k' plen' = s.entry t k' plen' := by
  rw [State.entry, State.putEntry, State.tbl_setTbl_self, SMap.find_put_of_ne _ _ h, State.entry]

theorem State.setTbl_keepsBut (m : SMap TEntry) : KeepsBut [.regs, .ing] s (s.setTbl t m) := by
  intro q hq
  cases q
  case regs => exact absurd List.mem_cons_self hq
  case ing => exact absurd (List.mem_cons_of_mem _ List.mem_cons_self) hq
  all_goals rfl

/-- The store of a table's entries shows in the table's count of them alone. -/
theorem State.get_setTbl (m : SMap TEntry) {f : Fld} (hf : f.hi < 64) (hd : f.reg ≠ .ingTblSta ∨ 31 < f.lo) (i : Nat) :
    (s.setTbl t m).get f i = s.get f i :=
  State.get_set_apart _ (f := .ingTblStaEntries) t i _ (by decide) hf (hd.imp_right .inr)

theorem State.putEntry_keepsBut : KeepsBut [.regs, .ing] s (s.putEntry t k plen o) := s.setTbl_keepsBut t _

theorem State.get_putEntry {f : Fld} (hf : f.reg ≠ .ingTblSta) (i : Nat) : (s.putEntry t k plen o).get f i = s.get f i :=
  State.get_set_of_ne _ _ (.inl hf)

/-- A whole-register counter beside the tables' status counts one after the store of an entry. -/
theorem State.get_bump_putEntry {f : Fld} (hl : f.lo = 0) (hh : f.hi = 63) (hf : f.reg ≠ .ingTblSta) (i : Nat) :
    ((s.putEntry t k plen o).bump f i).get f i = (s.get f i + 1) % 2 ^ 64 := by
  rw [((s.putEntry t k plen o).bump_results f i hl hh).1, State.get_putEntry s t k plen o hf]

end Store

/-! ### Reading entries, and passes (R124, R125, R517) -/

/-- Reading entries that are all good changes nothing. -/
theorem State.readAll_of_good {l : List TEntry} (h : ∀ x ∈ l, x.parity = 0) (s : State) (t : Nat) : s.readAll t l = s := by
  induction l with
  | nil => rfl
  | cons x l ih =>
    have hx : s.readOne t x = s := if_pos (h x List.mem_cons_self)
    have htail : s.readAll t l = s := ih (fun y hy => h y (List.mem_cons_of_mem _ hy))
    rw [State.readAll, List.foldl_cons, hx]
    exact htail

/-- With no pass under way none makes a visit. -/
theorem State.flushVisits_of_no_pass {s : State} (h : s.ing.flushes = []) (t : Nat) : s.flushVisits t = s := by
  rw [State.flushVisits, h, List.foldl_nil]

end Sys2Proof.Machine
end

section
/-! PROOFS. The learner, the ager and the repair of damaged entries, and the statement O22. -/

namespace Sys2Proof.Machine

/-! ### LEARN (R113, R114) -/

/-- What a request for a key that the table holds makes of the key's entry: nothing, a new stamp, or a new result. -/
def State.relearn (s : State) (x : LearnReq) (o : TEntry) : State :=
  if !o.learned then
    if !o.static && s.is .ingTblCfgRefresh x.table then s.putEntry x.table x.key 0 (some { o with stamp := s.shortTime }) else s
  else if bitsOf o.result.toNat 8 0 = x.port ∧ !s.stalePort o then
    if s.is .ingTblCfgRefresh x.table then s.putEntry x.table x.key 0 (some { o with stamp := s.shortTime }) else s
  else (s.putEntry x.table x.key 0 (some { o with result := s.learnedResult x.port, stamp := s.shortTime })).bump .ingTblLearnLearns x.table

section Relearn
variable {s : State} {x : LearnReq} {o : TEntry}

theorem State.relearn_kept (hs : o.learned = false) (h : o.static = true ∨ s.is .ingTblCfgRefresh x.table = false) :
    s.relearn x o = s := by
  rw [State.relearn, if_pos (by simp [hs]), if_neg]
  rcases h with h | h <;> simp [h]

theorem State.relearn_written (hs : o.learned = false) (hst : o.static = false) (hr : s.is .ingTblCfgRefresh x.table = true) :
    s.relearn x o = s.putEntry x.table x.key 0 (some { o with stamp := s.shortTime }) := by
  rw [State.relearn, if_pos (by simp [hs]), if_pos (by simp [hst, hr])]

theorem State.relearn_same (hs : o.learned = true) (hp : bitsOf o.result.toNat 8 0 = x.port) (hst : s.stalePort o = false)
    (hr : s.is .ingTblCfgRefresh x.table = true) :
    s.relearn x o = s.putEntry x.table x.key 0 (some { o with stamp := s.shortTime }) := by
  rw [State.relearn, if_neg (by simp [hs]), if_pos ⟨hp, by simp [hst]⟩, if_pos hr]

theorem State.relearn_moved (hs : o.learned = true) (h : bitsOf o.result.toNat 8 0 ≠ x.port ∨ s.stalePort o = true) :
    s.relearn x o = (s.putEntry x.table x.key 0
      (some { o with result := s.learnedResult x.port, stamp := s.shortTime })).bump .ingTblLearnLearns x.table := by
  rw [State.relearn, if_neg (by simp [hs]), if_neg]
  rintro ⟨hp, hst⟩
  rcases h with h | h
  · exact h hp
  · simp [h] at hst

/-- A table that takes no learning: disabled, of prefixes, or of keys of another length. -/
theorem State.learnOne_dropped (hf : s.ing.flushes = []) (h : s.tblOn x.table = false ∨ s.isPrefix x.table = true ∨ s.keyLen x.table ≠ 8) :
    s.learnOne x = s.bump .ingTblLearnDropDropped x.table := by
  rw [State.learnOne, State.flushVisits_of_no_pass hf]
  refine if_pos ?_
  rcases h with h | h | h <;> simp [h]

/-- A key that a learning table holds, none of the entries compared being damaged. -/
theorem State.learnOne_held (hf : s.ing.flushes = []) (hon : s.tblOn x.table = true) (hpre : s.isPrefix x.table = false)
    (hlen : s.keyLen x.table = 8) (hd : s.damaged x.table x.key = []) (ho : s.entry x.table x.key 0 = some o) :
    s.learnOne x = s.relearn x o := by
  rw [State.learnOne, State.flushVisits_of_no_pass hf]
  simp only [hon, hpre, hlen, hd, ho]
  rfl

end Relearn

theorem exec_learn_nil {s : State} (h : s.ing.learns = []) : exec .learn s = .next s := by
  show execLearn s = .next s
  rw [execLearn, h]

/-- The state whose learner has taken its oldest request, `l` being the others. -/
def State.withLearns (s : State) (l : List LearnReq) : State := { s with ing := { s.ing with learns := l } }

theorem exec_learn_cons {s : State} {x : LearnReq} {l : List LearnReq} (h : s.ing.learns = x :: l) :
    exec .learn s = .next ((s.withLearns l).learnOne x) := by
  show execLearn s = _
  rw [execLearn, h]
  rfl

section Learn
variable {s : State} {x : LearnReq} {l : List LearnReq} (hl : s.ing.learns = x :: l) (hf : s.ing.flushes = [])
include hl hf

theorem completes_learn_dropped (h : s.tblOn x.table = false ∨ s.isPrefix x.table = true ∨ s.keyLen x.table ≠ 8) :
    Completes .learn s (fun u => u.ing.learns = l ∧ u.ing.tables = s.ing.tables ∧ RegsBut [(.ingTblLearnDrop, x.table)] s u ∧
      u.get .ingTblLearnDropDropped x.table = (s.get .ingTblLearnDropDropped x.table + 1) % 2 ^ 64) := by
  obtain ⟨hcount, hregs, -⟩ := (s.withLearns l).bump_results .ingTblLearnDropDropped x.table rfl rfl
  exact ⟨_, exec_learn_cons hl, State.learnOne_dropped (s := s.withLearns l) hf h ▸ ⟨rfl, rfl, hregs, hcount⟩⟩

variable (hon : s.tblOn x.table = true) (hpre : s.isPrefix x.table = false) (hlen : s.keyLen x.table = 8)
  (hd : s.damaged x.table x.key = []) {e : TEntry} (he : s.entry x.table x.key 0 = some e)
include hon hpre hlen hd he

theorem exec_learn_held : exec .learn s = .next ((s.withLearns l).relearn x e) :=
  (exec_learn_cons hl).trans (congrArg _ (State.learnOne_held (s := s.withLearns l) hf hon hpre hlen hd he))

theorem exec_learn_kept (hs : e.learned = false) (h : e.static = true ∨ s.is .ingTblCfgRefresh x.table = false) :
    exec .learn s = .next (s.withLearns l) :=
  (exec_learn_held hl hf hon hpre hlen hd he).trans (congrArg _ (State.relearn_kept (s := s.withLearns l) hs h))

/-- A held entry that gets a new stamp only. -/
theorem completes_learn_refreshed
    (h : (s.withLearns l).relearn x e = (s.withLearns l).putEntry x.table x.key 0 (some { e with stamp := s.shortTime })) :
    Completes .learn s (fun u => u.ing.learns = l ∧ u.entry x.table x.key 0 = some { e with stamp := s.shortTime }) :=
  ⟨_, exec_learn_held hl hf hon hpre hlen hd he, h ▸ ⟨rfl, State.entry_putEntry_self _ _ _ _ _⟩⟩

theorem completes_learn_moved (hs : e.learned = true) (h : bitsOf e.result.toNat 8 0 ≠ x.port ∨ s.stalePort e = true) :
    Completes .learn s (fun u => u.ing.learns = l ∧
      u.get .ingTblLearnLearns x.table = (s.get .ingTblLearnLearns x.table + 1) % 2 ^ 64 ∧
      u.entry x.table x.key 0 =
        some { e with result := BitVec.ofNat 64 (s.get .portStaInc x.port <<< 16 ||| x.port), stamp := s.shortTime }) := by
  refine ⟨_, exec_learn_held hl hf hon hpre hlen hd he, State.relearn_moved (s := s.withLearns l) hs h ▸ ⟨rfl, ?_, ?_⟩⟩
  · exact State.get_bump_putEntry _ _ _ _ _ rfl rfl (by decide) _
  · rw [State.entry_bump, State.entry_putEntry_self]
    rfl

end Learn

/-! ### AGE_VISIT (R115, R116, R119) -/

section Age
variable {s : State} {t : Table} {key : Bytes} {plen : Nat}

/-- Does the ager delete an entry: one that is not static and too old, or one learned on a stale port? -/
def State.expired (s : State) (t : Nat) (e : TEntry) : Bool :=
  (!e.static && s.get .ingTblCfgMaxAge t != 0 && decide ((s.get .ingTblCfgMaxAge t : Int) < s.ageOf e)) || (e.learned && s.stalePort e)

theorem State.expired_iff (s : State) (t : Nat) (e : TEntry) : s.expired t e = true ↔
    (e.static = false ∧ s.get .ingTblCfgMaxAge t ≠ 0 ∧ (s.get .ingTblCfgMaxAge t : Int) < s.ageOf e) ∨
      e.learned = true ∧ s.stalePort e = true := by
  simp [State.expired, and_assoc]

theorem exec_ageVisit_none (hf : s.ing.flushes = []) (h : s.entry t.val (s.normKey t.val key plen) plen = none) :
    exec (.ageVisit t key plen) s = .next s := by
  show execAgeVisit t key plen s = .next s
  rw [execAgeVisit, State.flushVisits_of_no_pass hf]
  simp only [h]

theorem exec_ageVisit_some (hf : s.ing.flushes = []) {e : TEntry} (h : s.entry t.val (s.normKey t.val key plen) plen = some e) :
    exec (.ageVisit t key plen) s = if s.expired t.val e
      then .next ((s.putEntry t.val (s.normKey t.val key plen) plen none).bump .ingTblAgedAged t.val) else .next s := by
  show execAgeVisit t key plen s = _
  rw [execAgeVisit, State.flushVisits_of_no_pass hf]
  simp only [h]
  rfl

theorem completes_ageVisit_expired (hf : s.ing.flushes = []) {e : TEntry} (h : s.entry t.val (s.normKey t.val key plen) plen = some e)
    (hx : s.expired t.val e = true) : Completes (.ageVisit t key plen) s (fun u =>
      u.entry t.val (s.normKey t.val key plen) plen = none ∧
      u.get .ingTblAgedAged t.val = (s.get .ingTblAgedAged t.val + 1) % 2 ^ 64 ∧
      (∀ k' p', keyNum k' p' ≠ keyNum (s.normKey t.val key plen) plen → u.entry t.val k' p' = s.entry t.val k' p') ∧
      RegsBut [(.ingTblAged, t.val), (.ingTblSta, t.val)] s u ∧ KeepsBut [.regs, .ing] s u) := by
  refine ⟨_, (exec_ageVisit_some hf h).trans (if_pos hx), ?_, ?_, fun k' p' hk => ?_, ?_, ?_⟩
  · rw [State.entry_bump, State.entry_putEntry_self]
  · exact State.get_bump_putEntry _ _ _ _ _ rfl rfl (by decide) _
  · rw [State.entry_bump, State.entry_putEntry_of_ne _ _ _ _ _ hk]
  · exact State.set_regsBut_of_mem (f := .ingTblAgedAged) _
      (State.set_regsBut_of_mem (f := .ingTblStaEntries) _ (fun _ _ _ => rfl) (by simp)) (by simp)
  · exact State.set_keepsBut_of_mem _ _ _ (State.putEntry_keepsBut _ _ _ _ _) (by simp)

end Age

/-! ### PARITY_REPAIR (R118) -/

section Repair
variable {s : State} {t : Table} {key : Bytes} {plen : Nat}

theorem exec_parityRepair_none (h : s.entry t.val (s.normKey t.val key plen) plen = none) :
    exec (.parityRepair t key plen) s = .next s := by
  show execParityRepair t key plen s = .next s
  simp only [execParityRepair, h]

variable {e : TEntry} (h : s.entry t.val (s.normKey t.val key plen) plen = some e)
include h

theorem exec_parityRepair_good (hp : e.parity = 0) : exec (.parityRepair t key plen) s = .next s := by
  show execParityRepair t key plen s = .next s
  simp only [execParityRepair, h, hp, if_true]

theorem completes_parityRepair_restored (hp : e.parity = 1) : Completes (.parityRepair t key plen) s (fun u =>
    u.entry t.val (s.normKey t.val key plen) plen = some { e with parity := 0 } ∧
    u.get .sysEccSramCorrected = (s.get .sysEccSramCorrected + 1) % 2 ^ 64 ∧ u.cairn = s.cairn) := by
  have hexec : exec (.parityRepair t key plen) s = .next ((s.putEntry t.val (s.normKey t.val key plen) plen
      (some { e with parity := 0 })).bump .sysEccSramCorrected) := by
    show execParityRepair t key plen s = _
    simp [execParityRepair, h, hp]
  refine ⟨_, hexec, ?_, ?_, rfl⟩
  · rw [State.entry_bump, State.entry_putEntry_self]
  · exact State.get_bump_putEntry _ _ _ _ _ rfl rfl (by decide) _

theorem completes_parityRepair_deleted (hp : 1 < e.parity) : Completes (.parityRepair t key plen) s (fun u =>
    u.entry t.val (s.normKey t.val key plen) plen = none ∧
    u.get .sysEccSramUncUncorrectable = (s.get .sysEccSramUncUncorrectable + 1) % 2 ^ 64 ∧
    ∃ r, u.cairn.raised = s.cairn.raised ++ [r] ∧ r.code = .tblParity) := by
  have hexec : exec (.parityRepair t key plen) s = .next (((s.putEntry t.val (s.normKey t.val key plen) plen none).bump
      .sysEccSramUncUncorrectable).cairnRec .tblParity (some ⟨.table, t.val⟩) (sliceB (s.normKey t.val key plen) 0 16 ++ [1])) := by
    show execParityRepair t key plen s = _
    simp only [execParityRepair, h]
    rw [if_neg (by omega), if_neg (by omega)]
  refine ⟨_, hexec, ?_, ?_, _, rfl, rfl⟩
  · exact State.entry_putEntry_self s t.val (s.normKey t.val key plen) plen none
  · rw [State.get_cairnRec]
    exact State.get_bump_putEntry _ _ _ _ _ rfl rfl (by decide) _

end Repair

/-- Settles O22: the learner by the entry of the request's key, the ager by what expires, the repair by the condition of the word. -/
theorem learningAndRepair : Obligations.LearningAndRepair := by
  unfold Obligations.LearningAndRepair
  intro t key plen s i k
  refine ⟨exec_learn_nil, fun x l hl hf => ⟨completes_learn_dropped hl hf, fun hon hpre hlen hd e he => ?_⟩,
    fun h => ⟨fun hf => exec_ageVisit_none hf h, exec_parityRepair_none h⟩, fun e h => ?_⟩
  · have refreshed := completes_learn_refreshed hl hf hon hpre hlen hd he
    exact ⟨exec_learn_kept hl hf hon hpre hlen hd he,
      fun hs hst hr => refreshed (State.relearn_written (s := s.withLearns l) hs hst hr),
      fun hs hp hst hr => refreshed (State.relearn_same (s := s.withLearns l) hs hp hst hr),
      completes_learn_moved hl hf hon hpre hlen hd he⟩
  · refine ⟨fun hf hx => completes_ageVisit_expired hf h ((s.expired_iff i e).2 hx), fun hf hold hstale => ?_,
      exec_parityRepair_good h, completes_parityRepair_restored h, completes_parityRepair_deleted h⟩
    exact (exec_ageVisit_some hf h).trans (if_neg (fun hx => ((s.expired_iff i e).1 hx).elim hold hstale))

end Sys2Proof.Machine
end

section
/-! PROOFS. Tables in and out of service, flush passes, and the port sets of multicast groups, and the statement O23. -/

namespace Sys2Proof.Machine

/-! ### What a block's entry into service leaves of ingress and of the registers (R22, R24) -/

section Enter
variable (s : State) (b : Blk)

/-- The removal of a block's references leaves the groups, and unless the block is a port the tables. -/
theorem State.purgeRefs_ing : (s.purgeRefs b).ing.mc = s.ing.mc ∧ (b.kind ≠ .port → (s.purgeRefs b).ing.tables = s.ing.tables) := by
  unfold State.purgeRefs
  extract_lets spur s1 s2 s3 tables ing threads spur' ciph wins wqs zoa
  have h2 : s2.ing = s1.ing := foldl_keeps State.ing (fun u c => by split <;> rfl) _ s1
  have h3 : s3.ing = s.ing := h2
  have hrest : ∀ u : State, u.ing.mc = s3.ing.mc → (b.kind ≠ .port → u.ing.tables = s3.ing.tables) →
      u.ing.mc = s.ing.mc ∧ (b.kind ≠ .port → u.ing.tables = s.ing.tables) := fun u hmc ht =>
    ⟨hmc.trans (congrArg Ingress.mc h3), fun hb => (ht hb).trans (congrArg Ingress.tables h3)⟩
  split
  next hport => exact hrest _ rfl (fun hb => absurd hport hb)
  next =>
    repeat' split
    all_goals exact hrest _ rfl (fun _ => rfl)

theorem State.wrapped_ing : (s.wrapped b).ing.mc = s.ing.mc ∧ (b.kind ≠ .port → (s.wrapped b).ing.tables = s.ing.tables) := by
  unfold State.wrapped
  split
  · exact s.purgeRefs_ing b
  · exact ⟨rfl, fun _ => rfl⟩

theorem State.setBlkInc_ing (v : Nat) : (s.setBlkInc b v).ing = s.ing := by
  unfold State.setBlkInc
  split <;> rfl

theorem State.enterService_ing :
    (s.enterService b).ing.mc = s.ing.mc ∧ (b.kind ≠ .port → (s.enterService b).ing.tables = s.ing.tables) := by
  have hing : (s.enterService b).ing = (s.wrapped b).ing := by
    refine Eq.trans ?_ ((s.wrapped b).setBlkInc_ing b (incNext (s.blkInc b)))
    unfold State.enterService
    dsimp only
    split <;> rfl
  rw [hing]
  exact s.wrapped_ing b

/-- A field beside a block's incarnation and the compare units' references stays when the block enters service. -/
theorem State.get_enterService {f g : Fld} (hb : b.kind.incFld = some f) (hc : g.reg ≠ .crestCmpRef) (hg : g.hi < 64)
    (hd : g.reg ≠ f.reg ∨ g.hi < f.lo ∨ f.hi < g.lo) (i : Nat) : (s.enterService b).get g i = s.get g i := by
  have hset : (s.wrapped b).setBlkInc b (incNext (s.blkInc b)) = (s.wrapped b).set f b.ix (incNext (s.blkInc b)) := by
    simp only [State.setBlkInc, hb]
  rw [State.get_of_regs (s.enterService_regs b), hset, State.get_set_apart _ _ _ _ (BlkKind.incFld_wide hb).1 hg hd]
  exact State.get_of_regsAt (s.wrapped_regsAt (k := fun r => r != .crestCmpRef) b (by decide)) (by simp [hc]) i

end Enter

/-! ### TABLE_ENABLE (R108, R418) -/

section Service
variable (s : State) (t : Nat)

theorem State.tblOn_set {f : Fld} (hf : f.reg ≠ .ingTblCtl) (i v j : Nat) : (s.set f i v).tblOn j = s.tblOn j := by
  rw [State.tblOn, State.is, s.get_set_of_ne v (.inl (Ne.symm hf)), ← State.is, ← State.tblOn]

theorem State.tblOn_set_en_self (v : Bool) : (s.set .ingTblCtlEn t (bit v)).tblOn t = v := by
  rw [State.tblOn, State.is, s.get_set_self .ingTblCtlEn t _ (by decide) (by decide)]
  cases v <;> rfl

theorem State.tblOn_set_en_of_ne {j : Nat} (v : Nat) (h : j ≠ t) : (s.set .ingTblCtlEn t v).tblOn j = s.tblOn j := by
  rw [State.tblOn, State.is, s.get_set_of_ne v (.inr h), ← State.is, ← State.tblOn]

theorem State.tblOn_enterService (j : Nat) : (s.enterService ⟨.table, t⟩).tblOn j = s.tblOn j := by
  rw [State.tblOn, State.is, s.get_enterService _ (f := .ingTblStaInc) rfl (by decide) (by decide) (by decide), ← State.is, ← State.tblOn]

/-- The registers of a table that is enabled, before it enters service. -/
def State.tableRaised (s : State) (t : Nat) : State := (s.set .ingTblStaIgn t 0).set .ingTblCtlEn t 1

theorem exec_tableEnable (n : Table) : exec (.tableEnable n) s =
    if s.tblOn n.val then .next (s.set .ingTblStaIgn n.val 0)
    else if s.tblEnableOk n.val then .next ((s.tableRaised n.val).enterService ⟨.table, n.val⟩) else .next (s.ignTable n.val) := rfl

theorem State.tableRaised_blkInc : (s.tableRaised t).blkInc ⟨.table, t⟩ = s.blkInc ⟨.table, t⟩ :=
  (State.get_set_of_ne _ (g := .ingTblStaInc) _ (.inl (by decide))).trans (s.get_set_apart t t 0 (by decide) (by decide) (by decide))

/-- What the entry of a table into service makes of it, and what it leaves. -/
theorem State.raiseTable_results : let u := (s.tableRaised t).enterService ⟨.table, t⟩
    u.tblOn t = true ∧ u.get .ingTblStaIgn t = 0 ∧ u.blkState ⟨.table, t⟩ = 2 ∧ u.tbl t = s.tbl t ∧ (∀ j, j ≠ t → u.tblOn j = s.tblOn j) ∧
      u.blkInc ⟨.table, t⟩ = (if s.blkInc ⟨.table, t⟩ = 0xFFFF then 1 else s.blkInc ⟨.table, t⟩ + 1) := by
  refine ⟨?_, ?_, State.blkState_enterService_self _ _, ?_, fun j hj => ?_, ?_⟩
  · rw [State.tblOn_enterService]
    exact State.tblOn_set_en_self _ t true
  · rw [State.get_enterService _ _ (f := .ingTblStaInc) rfl (by decide) (by decide) (by decide)]
    exact (State.get_set_of_ne _ _ (.inl (by decide))).trans (s.get_set_self .ingTblStaIgn t 0 (by decide) (by decide))
  · exact State.tbl_of_tables ((State.enterService_ing _ ⟨.table, t⟩).2 BlkKind.noConfusion) t
  · rw [State.tblOn_enterService, State.tableRaised, State.tblOn_set_en_of_ne _ _ _ hj, State.tblOn_set _ (by decide)]
  · rw [State.blkInc_enterService_self, State.tableRaised_blkInc, incNext_mod (s.blkInc_lt _)]

theorem State.ignTable_results : (s.ignTable t).tblOn t = s.tblOn t ∧ (s.ignTable t).get .ingTblStaIgn t = 1 ∧
    (s.ignTable t).get .ingIgnCntIgnored = (s.get .ingIgnCntIgnored + 1) % 2 ^ 64 ∧
    RegsBut [(.ingIgnCnt, 0), (.ingTblSta, t)] s (s.ignTable t) ∧ KeepsBut [.regs] s (s.ignTable t) := by
  obtain ⟨hcount, hregs, hkeeps⟩ := s.bump_results .ingIgnCntIgnored 0 rfl rfl
  refine ⟨?_, State.get_set_self _ .ingTblStaIgn t 1 (by decide) (by decide), ?_, ?_, ?_⟩
  · rw [State.ignTable, State.tblOn_set _ (by decide), State.bump, State.tblOn_set _ (by decide)]
  · exact (State.get_set_of_ne _ _ (.inl (by decide))).trans hcount
  · exact State.set_regsBut_of_mem _ (State.set_regsBut_of_mem _ (RegsBut.refl _ s) (by simp)) (by simp)
  · exact State.set_keepsBut_of_mem _ _ _ hkeeps (by simp)

/-! ### TABLE_DISABLE (R521) -/

/-- The registers of a table that is disabled, before its entries are discarded. -/
def State.tableLowered (s : State) (t : Nat) : State := (s.set .ingTblStaIgn t 0).set .ingTblCtlEn t 0

/-- A table out of service, its entries discarded. -/
def State.lowerTable (s : State) (t : Nat) : State := ((s.tableLowered t).setTbl t []).leaveService ⟨.table, t⟩

theorem exec_tableDisable (n : Table) : exec (.tableDisable n) s =
    if s.tblOn n.val then .next (s.lowerTable n.val) else .next (s.set .ingTblStaIgn n.val 0) := by
  rw [← s.tblOn_set (f := .ingTblStaIgn) (by decide) n.val 0]
  rfl

theorem State.lowerTable_keepsBut : KeepsBut [.regs, .blkSt, .ing, .offAt] s (s.lowerTable t) := by
  have hregs : KeepsBut [.regs] s (s.tableLowered t) := (s.set_keepsBut _ _ _).trans (State.set_keepsBut _ _ _ _)
  exact ((hregs.mono (by simp)).trans ((State.setTbl_keepsBut _ t []).mono (by simp))).trans
    ((State.leaveService_keepsBut _ _).mono (by simp))

theorem State.get_lowerTable {f : Fld} (hf : f.hi < 64) (hd : f.reg ≠ .ingTblSta ∨ 31 < f.lo) (i : Nat) :
    (s.lowerTable t).get f i = (s.tableLowered t).get f i :=
  (State.leaveService_get _ _ f i).trans (State.get_setTbl _ t [] hf hd i)

theorem State.tbl_lowerTable (j : Nat) : (s.lowerTable t).tbl j = ((s.tableLowered t).setTbl t []).tbl j := rfl

/-- What the disable of a table makes of it, and what it leaves. -/
theorem State.lowerTable_results : let u := s.lowerTable t
    u.tblOn t = false ∧ u.tbl t = [] ∧ u.get .ingTblStaEntries t = 0 ∧ u.blkState ⟨.table, t⟩ = 1 ∧
      u.blkInc ⟨.table, t⟩ = s.blkInc ⟨.table, t⟩ ∧ (∀ j, j ≠ t → u.tbl j = s.tbl j) ∧ KeepsBut [.regs, .blkSt, .ing, .offAt] s u := by
  refine ⟨?_, ?_, ?_, State.blkState_leaveService_self _ _, ?_, fun j hj => ?_, s.lowerTable_keepsBut t⟩
  · rw [State.tblOn, State.is, s.get_lowerTable t (by decide) (by decide), ← State.is, ← State.tblOn]
    exact State.tblOn_set_en_self _ t false
  · rw [State.tbl_lowerTable, State.tbl_setTbl_self]
  · rw [State.lowerTable, State.leaveService_get]
    exact State.get_set_self _ .ingTblStaEntries t 0 (by decide) (by decide)
  · exact (s.get_lowerTable t (f := .ingTblStaInc) (by decide) (by decide) t).trans ((State.get_set_of_ne _ _ (.inl (by decide))).trans
      (s.get_set_apart t t 0 (by decide) (by decide) (by decide)))
  · rw [State.tbl_lowerTable, State.tbl_setTbl_of_ne _ _ hj]
    rfl

end Service

/-! ### FLUSH_BY_PORT_DONE and the visits of a pass (R124, R125) -/

theorem exec_flushByPortDone_none {s : State} {r : RingIx} {idx : BitVec 32}
    (h : SMap.find s.ing.flushes (r.val * 4294967296 + idx.toNat) = none) : exec (.flushByPortDone r idx) s = .next s := by
  show execFlushByPortDone r idx s = .next s
  simp only [execFlushByPortDone, h]

theorem exec_flushByPortDone_some {s : State} {r : RingIx} {idx : BitVec 32} {p : FlushPass}
    (h : SMap.find s.ing.flushes (r.val * 4294967296 + idx.toNat) = some p) :
    let u := (s.advanceAt (s.passEnd p)).flushVisits p.table
    exec (.flushByPortDone r idx) s = .next ({ u with ing := { u.ing with
      flushes := SMap.put u.ing.flushes (r.val * 4294967296 + idx.toNat) none } }.complete r.val idx.toNat p.desc 0) := by
  show execFlushByPortDone r idx s = _
  simp only [execFlushByPortDone, h]
  rfl

theorem FlushPass.takes_iff (p : FlushPass) (e : TEntry) :
    p.takes e = true ↔ e.portTyped = true ∧ bitsOf e.result.toNat 8 0 = p.port ∧ (p.flushStatic = true ∨ e.static = false) := by
  simp [FlushPass.takes, and_assoc]

section Visit
variable {s : State} {p : FlushPass} {e : TEntry} (key : Nat)

/-- A pass's visit to one good entry: the entry goes if the pass takes it. -/
def State.visitOne (s : State) (p : FlushPass) (e : TEntry) : State := if p.takes e then s.putEntry p.table e.key e.plen none else s

/-- The state with other passes under way. -/
def State.withFlushes (s : State) (l : SMap FlushPass) : State := { s with ing := { s.ing with flushes := l } }

theorem State.withFlushes_keepsBut (l : SMap FlushPass) : KeepsBut [.regs, .ing] s (s.withFlushes l) := by
  intro q hq
  cases q
  case ing => exact absurd (List.mem_cons_of_mem _ List.mem_cons_self) hq
  all_goals rfl

theorem State.flushPass_one (hv : s.visitsNow p = [e]) (hp : e.parity = 0) (he : s.entry p.table e.key e.plen = some e) :
    ∃ l, s.flushPass key p = (s.visitOne p e).withFlushes l := by
  have hread : s.readAll p.table [e] = s := State.readAll_of_good (by simp [hp]) s p.table
  unfold State.flushPass
  rw [hv]
  simp only [hread, List.foldl_cons, List.foldl_nil, he]
  exact ⟨_, rfl⟩

theorem State.visitOne_keepsBut : KeepsBut [.regs, .ing] s (s.visitOne p e) := by
  unfold State.visitOne
  split
  · exact s.putEntry_keepsBut _ _ _ _
  · exact KeepsBut.refl _ s

theorem State.entry_visitOne_self (he : s.entry p.table e.key e.plen = some e) : (s.visitOne p e).entry p.table e.key e.plen =
    if e.portTyped = true ∧ bitsOf e.result.toNat 8 0 = p.port ∧ (p.flushStatic = true ∨ e.static = false) then none else some e := by
  simp only [State.visitOne, ← p.takes_iff e]
  split
  · exact s.entry_putEntry_self _ _ _ _
  · exact he

theorem State.entry_visitOne_of_ne {k : Bytes} {n : Nat} (h : keyNum k n ≠ keyNum e.key e.plen) :
    (s.visitOne p e).entry p.table k n = s.entry p.table k n := by
  unfold State.visitOne
  split
  · exact s.entry_putEntry_of_ne _ _ _ _ h
  · rfl

theorem State.flushPass_one_results (hv : s.visitsNow p = [e]) (hp : e.parity = 0) (he : s.entry p.table e.key e.plen = some e) :
    let u := s.flushPass key p
    u.entry p.table e.key e.plen = (if e.portTyped = true ∧ bitsOf e.result.toNat 8 0 = p.port ∧
      (p.flushStatic = true ∨ e.static = false) then none else some e) ∧
    (∀ k n, keyNum k n ≠ keyNum e.key e.plen → u.entry p.table k n = s.entry p.table k n) ∧
    KeepsBut [.regs, .ing] s u := by
  obtain ⟨l, hl⟩ := State.flushPass_one key hv hp he
  have htables : (s.flushPass key p).ing.tables = (s.visitOne p e).ing.tables := hl ▸ rfl
  refine ⟨?_, fun k n hk => ?_, ?_⟩
  · rw [State.entry_of_tables htables, State.entry_visitOne_self he]
  · rw [State.entry_of_tables htables, State.entry_visitOne_of_ne hk]
  · rw [hl]
    exact State.visitOne_keepsBut.trans (State.withFlushes_keepsBut l)

end Visit

/-! ### Multicast groups (R120, R519) -/

section Group
variable (s : State) (g ports q : Nat)

/-- The group's store before its incarnation advances. -/
def State.mcStored (s : State) (g ports q : Nat) : State := s.setMcg g { s.mcg g with ports := ports, queue := q }

theorem State.mcReplace_eq : s.mcReplace g ports q =
    if ports = 0 then
      if s.blkInc ⟨.mcGroup, g⟩ = 0 then s.mcStored g ports q
      else ((s.mcStored g ports q).enterService ⟨.mcGroup, g⟩).leaveService ⟨.mcGroup, g⟩
    else (s.mcStored g ports q).enterService ⟨.mcGroup, g⟩ := rfl

theorem State.mcg_of_mc {s u : State} (h : u.ing.mc = s.ing.mc) (g : Nat) : u.mcg g = s.mcg g := by
  rw [State.mcg, h, State.mcg]

theorem State.mcg_mcReplace : (s.mcReplace g ports q).mcg g = { s.mcg g with ports := ports, queue := q } := by
  have hstored : (s.mcStored g ports q).mcg g = { s.mcg g with ports := ports, queue := q } := SMap.getD_setD_self _ _ _ _
  have hentered : ((s.mcStored g ports q).enterService ⟨.mcGroup, g⟩).mcg g = { s.mcg g with ports := ports, queue := q } :=
    (State.mcg_of_mc (State.enterService_ing _ _).1 g).trans hstored
  rw [State.mcReplace_eq]
  repeat' split
  · exact hstored
  · exact hentered
  · exact hentered

theorem State.blkInc_mcReplace (h : ports ≠ 0 ∨ s.blkInc ⟨.mcGroup, g⟩ ≠ 0) : (s.mcReplace g ports q).blkInc ⟨.mcGroup, g⟩ =
    if s.blkInc ⟨.mcGroup, g⟩ = 0xFFFF then 1 else s.blkInc ⟨.mcGroup, g⟩ + 1 := by
  have hentered : ((s.mcStored g ports q).enterService ⟨.mcGroup, g⟩).blkInc ⟨.mcGroup, g⟩ =
      if s.blkInc ⟨.mcGroup, g⟩ = 0xFFFF then 1 else s.blkInc ⟨.mcGroup, g⟩ + 1 :=
    (State.blkInc_enterService_self _ _).trans (incNext_mod (s.blkInc_lt ⟨.mcGroup, g⟩))
  rw [State.mcReplace_eq]
  split
  next hports =>
    rw [if_neg (h.resolve_left (not_not_intro hports))]
    exact hentered
  next => exact hentered

end Group

/-- Settles O23: a table's entry into and exit from service, the visit of a pass, and a group's store under its next incarnation. -/
theorem tableBlockAndFlushResults : Obligations.TableBlockAndFlushResults := by
  unfold Obligations.TableBlockAndFlushResults
  intro t r idx s i
  refine ⟨fun hon => ?_, fun hoff hok => ?_, fun hoff hok => ?_, fun hoff => ?_, fun hon => ?_,
    ⟨exec_flushByPortDone_none, fun p hp => exec_flushByPortDone_some hp, fun p e => State.flushPass_one_results _⟩,
    fun g ports q => ⟨s.mcg_mcReplace g ports q, s.blkInc_mcReplace g ports q⟩⟩
  · rw [exec_tableEnable, if_pos hon]
  · refine ⟨_, ?_, s.raiseTable_results i⟩
    rw [exec_tableEnable, if_neg (ne_true_of_eq_false hoff), if_pos hok]
  · refine ⟨s.ignTable i, ?_, hoff ▸ s.ignTable_results i⟩
    rw [exec_tableEnable, if_neg (ne_true_of_eq_false hoff), if_neg (ne_true_of_eq_false hok)]
  · rw [exec_tableDisable, if_neg (ne_true_of_eq_false hoff)]
  · refine ⟨_, ?_, s.lowerTable_results i⟩
    rw [exec_tableDisable, if_pos hon]

end Sys2Proof.Machine
end

section
/-! PROOFS. The commands of a table ring: what starts an entry, what each command reads and changes, and the statement O24. -/

namespace Sys2Proof.Machine

/-! ### Pairs of a sparse map -/

theorem SMap.mem_of_find {α : Type} {m : SMap α} {k : Nat} {a : α} (h : SMap.find m k = some a) : (k, a) ∈ m := by
  induction m with
  | nil => cases h
  | cons x m ih =>
    by_cases hx : x.1 = k
    · simp only [SMap.find, hx, if_true, Option.some.injEq] at h
      exact List.mem_cons.2 (.inl (Prod.ext hx.symm h.symm))
    · simp only [SMap.find, hx, if_false] at h
      exact List.mem_cons_of_mem _ (ih h)

theorem SMap.find_of_mem {α : Type} {m : SMap α} (hs : SMap.Sorted m) {x : Nat × α} (h : x ∈ m) : SMap.find m x.1 = some x.2 := by
  induction m with
  | nil => cases h
  | cons y m ih =>
    obtain ⟨hlt, hm⟩ := List.pairwise_cons.1 hs
    rcases List.mem_cons.1 h with rfl | h
    · simp [SMap.find]
    · have hne : y.1 ≠ x.1 := Nat.ne_of_lt (hlt x h)
      simp [SMap.find, hne, ih hm h]

/-- Each key of a map in canonical form is found at its own value. -/
theorem SMap.filterMap_find {α : Type} {m : SMap α} (hs : SMap.Sorted m) : m.filterMap (fun x => SMap.find m x.1) = m.map (·.2) := by
  rw [← List.filterMap_eq_map]
  exact List.filterMap_congr (fun x hx => SMap.find_of_mem hs hx)

/-! ### Reading among good entries (R517) -/

section Good
variable {s : State} {t : Nat} (hg : ∀ x ∈ s.tbl t, x.2.parity = 0)
include hg

/-- A command that reads among good entries finds the key's entry and changes nothing. -/
theorem State.readEntry_of_good (k : Bytes) (plen : Nat) : s.readEntry t k plen = (s, s.entry t k plen) := by
  have hread : s.readAll t (if s.isPrefix t then (s.entry t k plen).toList else s.compared t k) = s := by
    refine State.readAll_of_good (fun x hx => ?_) s t
    split at hx
    · exact hg _ (SMap.mem_of_find (Option.mem_toList.1 hx))
    · obtain ⟨y, hy, rfl⟩ := List.mem_map.1 (List.mem_filter.1 hx).1
      exact hg y hy
  rw [State.readEntry, hread]

end Good

/-! ### SEARCH, DELETE and INSERT (R124) -/

/-- How many bits of a table command's key count in a table of prefixes. -/
def State.cmdPlen (s : State) (t : Nat) (e : Bytes) : Nat := if s.isPrefix t then leAt e 3 1 else 0

/-- The stored form of a table command's key. -/
def State.cmdKey (s : State) (t : Nat) (e : Bytes) : Bytes := s.normKey t (sliceB e 16 16) (s.cmdPlen t e)

/-- The entry of a table command's key. -/
def State.cmdEntry (s : State) (t : Nat) (e : Bytes) : Option TEntry := s.entry t (s.cmdKey t e) (s.cmdPlen t e)

/-- The descriptor with a found entry's flags in byte 2. -/
def flagged (e : Bytes) (x : TEntry) : Bytes := pasteB e 2 (leBytes (entryFlags x) 1)

/-- The entry that an INSERT asks for. -/
def State.newEntry (s : State) (t : Nat) (e : Bytes) : TEntry :=
  { key := s.cmdKey t e, plen := s.cmdPlen t e, result := BitVec.ofNat 64 (leAt e 32 8), static := bitOf (leAt e 2 1) 0,
    portTyped := bitOf (leAt e 2 1) 3, stamp := s.shortTime }

section Act
variable {s : State} {t : Nat} {e : Bytes} (hg : ∀ x ∈ s.tbl t, x.2.parity = 0)
include hg

/-- What a command's read of its key answers, in the terms of its meaning. -/
theorem State.readEntry_cmd {o : Option TEntry} (h : s.cmdEntry t e = o) :
    s.readEntry t (s.normKey t (sliceB e 16 16) (if s.isPrefix t then leAt e 3 1 else 0)) (if s.isPrefix t then leAt e 3 1 else 0) =
      (s, o) :=
  (State.readEntry_of_good hg _ _).trans (congrArg (Prod.mk s) h)

theorem State.doSearch_none (h : s.cmdEntry t e = none) : s.doSearch t e = (s, tsNotFound, e) := by
  simp only [State.doSearch, State.readEntry_cmd hg h]

theorem State.doDelete_none (h : s.cmdEntry t e = none) : s.doDelete t e = (s, tsNotFound, e) := by
  simp only [State.doDelete, State.readEntry_cmd hg h]

section Found
variable {x : TEntry} (h : s.cmdEntry t e = some x)
include h

theorem State.doSearch_some : s.doSearch t e =
    (s, tsOk, pasteB (pasteB (flagged e x) 32 (leBytes x.result.toNat 8)) 40 (leBytes (s.shortTime - x.stamp).toNat 2)) := by
  simp only [State.doSearch, State.readEntry_cmd hg h]
  rfl

theorem State.doDelete_some :
    s.doDelete t e = (s.putEntry t (s.cmdKey t e) (s.cmdPlen t e) none, tsOk, flagged e x) := by
  simp only [State.doDelete, State.readEntry_cmd hg h]
  rfl

theorem State.doInsert_exists (hno : ¬(bitOf (leAt e 2 1) 1 = true ∧ (x.static = false ∨ bitOf (leAt e 2 1) 0 = true))) :
    s.doInsert t e = (s, tsExists, flagged e x) := by
  simp only [State.doInsert, State.readEntry_cmd hg h]
  exact if_neg (by simpa using hno)

theorem State.doInsert_replaces (hrep : bitOf (leAt e 2 1) 1 = true) (hmay : x.static = false ∨ bitOf (leAt e 2 1) 0 = true) :
    s.doInsert t e = (s.putEntry t (s.cmdKey t e) (s.cmdPlen t e) (some { s.newEntry t e with ext := x.ext, bucket := x.bucket }),
      tsOk, flagged e x) := by
  simp only [State.doInsert, State.readEntry_cmd hg h]
  exact if_pos (by simpa [hrep] using hmay)

end Found

section Added
variable (h : s.cmdEntry t e = none)
include h

theorem State.doInsert_added (ha : (s.addEntry t (s.newEntry t e) (bitOf (leAt e 2 1) 2)).2 = .ok) :
    s.doInsert t e = ((s.addEntry t (s.newEntry t e) (bitOf (leAt e 2 1) 2)).1, tsOk, e) := by
  simp only [State.newEntry, State.cmdKey, State.cmdPlen] at ha
  simp only [State.doInsert, State.readEntry_cmd hg h, ha]
  rfl

theorem State.doInsert_full (ha : (s.addEntry t (s.newEntry t e) (bitOf (leAt e 2 1) 2)).2 = .full) :
    s.doInsert t e = ((s.addEntry t (s.newEntry t e) (bitOf (leAt e 2 1) 2)).1, tsFull, e) := by
  simp only [State.newEntry, State.cmdKey, State.cmdPlen] at ha
  simp only [State.doInsert, State.readEntry_cmd hg h, ha]
  rfl

end Added
end Act

section Room
variable {s : State} {t : Nat} {y : TEntry} {noEvict : Bool} (h : (s.addEntry t y noEvict).2 = .ok)
include h

/-- In a table of prefixes an entry that found room stands as it was given. -/
theorem State.entry_addEntry_of_isPrefix (hpre : s.isPrefix t = true) : (s.addEntry t y noEvict).1.entry t y.key y.plen = some y := by
  unfold State.addEntry at h ⊢
  rw [if_pos hpre] at h ⊢
  split at h
  next hroom =>
    rw [if_pos hroom]
    exact s.entry_putEntry_self t y.key y.plen _
  next => cases h

/-- A key that found room, on die or in the extension, stands in its table. -/
theorem State.entry_addEntry_exact (hpre : s.isPrefix t = false) :
    ∃ z, (s.addEntry t y noEvict).1.entry t y.key 0 = some z ∧ z.result = y.result ∧ z.static = y.static := by
  unfold State.addEntry at h ⊢
  rw [if_neg (ne_true_of_eq_false hpre)] at h ⊢
  split at h
  next => cases h
  next hon =>
    rw [if_neg hon]
    dsimp only at h ⊢
    split at h
    next => exact ⟨_, State.entry_putEntry_self _ t y.key 0 _, rfl, rfl⟩
    next =>
      split at h
      next => exact ⟨_, State.entry_putEntry_self _ t y.key 0 _, rfl, rfl⟩
      next =>
        split at h
        next => cases h
        next => split at h <;> cases h

end Room

/-- The entry of an INSERT that found room stands in its table. -/
theorem State.entry_inserted {s : State} {t : Nat} {e : Bytes} {noEvict : Bool} (h : (s.addEntry t (s.newEntry t e) noEvict).2 = .ok) :
    ∃ z, (s.addEntry t (s.newEntry t e) noEvict).1.entry t (s.cmdKey t e) (s.cmdPlen t e) = some z ∧
      z.result = (s.newEntry t e).result ∧ z.static = (s.newEntry t e).static := by
  by_cases hpre : s.isPrefix t = true
  · exact ⟨_, State.entry_addEntry_of_isPrefix h hpre, rfl, rfl⟩
  · have hplen : s.cmdPlen t e = 0 := if_neg hpre
    rw [hplen]
    exact State.entry_addEntry_exact h (Bool.eq_false_of_not_eq_true hpre)

/-! ### NEXT (R124, R126) -/

/-- The records of every entry of a table. -/
def State.allRecords (s : State) (t : Nat) : Bytes := ((s.tbl t).map (fun x => s.nextRecord t x.2)).flatten

section All
variable {s : State} {t : Nat} {e : Bytes} (hg : ∀ x ∈ s.tbl t, x.2.parity = 0) (hc : leAt e 32 8 = 0) (hs : SMap.Sorted (s.tbl t))
  (hn : (s.tbl t).length ≤ leAt e 4 4) {own : Nat}
include hg hc hs hn

/-- A NEXT from the start that asks for at least as many entries as the table holds. -/
theorem State.doNext_all : s.doNext own t e = (s.hostWrite own (leAt e 40 8) (s.allRecords t),
    if s.wrFails own (leAt e 40 8) (s.allRecords t).length then (tsAccess, pasteB e 4 (leBytes (s.tbl t).length 4))
    else (tsOk, pasteB (pasteB e 4 (leBytes (s.tbl t).length 4)) 32 (leBytes 0 8))) := by
  have hrest : (s.tbl t).filter (fun x => decide (0 ≤ x.1)) = s.tbl t := List.filter_eq_self.2 (by simp)
  have hread : s.readAll t ((s.tbl t).map (·.2)) = s :=
    State.readAll_of_good (fun x hx => by obtain ⟨y, hy, rfl⟩ := List.mem_map.1 hx; exact hg y hy) s t
  have hrec : ((s.tbl t).map (·.2)).map (fun x => s.nextRecord t x) = (s.tbl t).map (fun x => s.nextRecord t x.2) := List.map_map
  simp only [State.doNext, hc, if_true, ne_eq, not_true_eq_false, if_false, false_and, or_false, hrest, List.take_of_length_le hn, hread,
    SMap.filterMap_find hs, hrec, List.length_map, hn]
  rw [← State.allRecords]
  split <;> rfl

theorem State.doNext_written (h : s.wrFails own (leAt e 40 8) (s.allRecords t).length = false) : s.doNext own t e =
    (s.hostWrite own (leAt e 40 8) (s.allRecords t), tsOk, pasteB (pasteB e 4 (leBytes (s.tbl t).length 4)) 32 (leBytes 0 8)) := by
  rw [State.doNext_all hg hc hs hn, if_neg (ne_true_of_eq_false h)]

theorem State.doNext_failed (h : s.wrFails own (leAt e 40 8) (s.allRecords t).length = true) : s.doNext own t e =
    (s.hostWrite own (leAt e 40 8) (s.allRecords t), tsAccess, pasteB e 4 (leBytes (s.tbl t).length 4)) := by
  rw [State.doNext_all hg hc hs hn, if_pos h]

end All

/-! ### A table ring's entry (R121, R123, R339, R347) -/

/-- A command ring that reaches a well-formed entry with its pass field starts it. -/
theorem State.takeEntry_started {s : State} {r kind : Nat} {e : Bytes} (hr : s.reaches r kind e = true)
    (hp : s.passOk r (s.ringH r) e = true) (act : State → Nat → State) :
    s.takeEntry r kind e none act = act (s.beginEntry r) (s.ringH r) := by
  simp only [State.takeEntry, hr, hp, if_true]

/-- A target is refused with DENIED or STALE. -/
theorem State.target_refused {s : State} {own op : Nat} {ref : BitVec 64} {st : Nat} (h : s.target own op ref = .inr st) :
    st = tsDenied ∨ st = tsStale := by
  unfold State.target at h
  split at h
  · split at h
    · exact .inl (Sum.inr.inj h).symm
    · split at h
      · cases h
      · exact .inr (Sum.inr.inj h).symm
  · split at h
    · exact .inl (Sum.inr.inj h).symm
    · split at h
      · cases h
      · exact .inr (Sum.inr.inj h).symm
  · exact .inl (Sum.inr.inj h).symm

/-- The end of a table command: its completion, or without one where host memory refused it. -/
def State.endTable (r i : Nat) (x : State × Nat × Bytes) : State :=
  if x.2.1 = tsAccess then (x.1.ringError r ecAccess i).abandon r i else x.1.complete r i x.2.2 x.2.1

theorem State.endTable_completes {st : Nat} (h : st ≠ tsAccess) (r i : Nat) (u : State) (d : Bytes) :
    State.endTable r i (u, st, d) = u.complete r i d st := if_neg h

/-- The effect of a table command on a table or group that it may act on. -/
def State.actOn (s : State) (own t : Nat) (e : Bytes) : State × Nat × Bytes :=
  if leAt e 0 2 = 1 then s.doSearch t e
  else if leAt e 0 2 = 2 then s.doNext own t e
  else if leAt e 0 2 = 3 then s.doInsert t e
  else if leAt e 0 2 = 4 then s.doDelete t e
  else s.doMcSet t e

theorem State.tableAct_of_target {s : State} {own t : Nat} {e : Bytes} (hf : s.ing.flushes = [])
    (h : s.target own (leAt e 0 2) (BitVec.ofNat 64 (leAt e 8 8)) = .inl t) : s.tableAct own e = s.actOn own t e := by
  simp only [State.tableAct, h, State.flushVisits_of_no_pass hf, ite_self]
  rfl

theorem State.tableAct_of_refused {s : State} {own st : Nat} {e : Bytes}
    (h : s.target own (leAt e 0 2) (BitVec.ofNat 64 (leAt e 8 8)) = .inr st) : s.tableAct own e = (s, st, e) := by
  simp only [State.tableAct, h]

theorem State.tableCmd_of_ne {n : Nat} {e : Bytes} (h : leAt e 0 2 ≠ n) (s : State) (r : Nat) : s.tableCmd r n e = s := if_neg h

section Started
variable {s : State} {r : Nat} {e : Bytes} (hr : s.reaches r 4 e = true) (hb : s.tableBad (s.ringOwner r) e = none)
  (hp : s.passOk r (s.ringH r) e = true)
include hr hb hp

/-- A well-formed entry that is started acts on its target; FLUSH_BY_PORT begins a pass. -/
theorem State.tableEntry_started : s.tableEntry r e =
    if leAt e 0 2 = 5 then (s.beginEntry r).startFlush r (s.ringH r) e
    else State.endTable r (s.ringH r) ((s.beginEntry r).tableAct ((s.beginEntry r).ringOwner r) e) := by
  rw [State.tableEntry, hb, State.takeEntry_started hr hp]
  rfl

theorem State.tableCmd_started {n : Nat} (hop : leAt e 0 2 = n) (hn : n ≠ 5) : s.tableCmd r n e =
    State.endTable r (s.ringH r) ((s.beginEntry r).tableAct ((s.beginEntry r).ringOwner r) e) := by
  rw [State.tableCmd, if_pos hop, State.tableEntry_started hr hb hp, if_neg (fun h => hn (hop.symm.trans h))]

theorem State.tableCmd_flush (hop : leAt e 0 2 = 5) : s.tableCmd r 5 e = (s.beginEntry r).startFlush r (s.ringH r) e := by
  rw [State.tableCmd, if_pos hop, State.tableEntry_started hr hb hp, if_pos hop]

/-- A command whose target is refused completes with the status that refuses it. -/
theorem State.tableCmd_refused {st n : Nat} (hop : leAt e 0 2 = n) (hn : n ≠ 5)
    (h : (s.beginEntry r).target ((s.beginEntry r).ringOwner r) (leAt e 0 2) (BitVec.ofNat 64 (leAt e 8 8)) = .inr st) :
    s.tableCmd r n e = (s.beginEntry r).complete r (s.ringH r) e st := by
  rw [State.tableCmd_started hr hb hp hop hn, State.tableAct_of_refused h]
  refine State.endTable_completes ?_ _ _ _ _
  rcases State.target_refused h with rfl | rfl <;> decide

/-- A command other than FLUSH_BY_PORT that ends with a status completes with it. -/
theorem State.tableCmd_acts {t n st : Nat} {w : State} {d : Bytes} (hf : (s.beginEntry r).ing.flushes = [])
    (ht : (s.beginEntry r).target ((s.beginEntry r).ringOwner r) (leAt e 0 2) (BitVec.ofNat 64 (leAt e 8 8)) = .inl t)
    (hop : leAt e 0 2 = n) (hn : n ≠ 5) (hact : (s.beginEntry r).actOn ((s.beginEntry r).ringOwner r) t e = (w, st, d))
    (hst : st ≠ tsAccess) : s.tableCmd r n e = w.complete r (s.ringH r) d st := by
  rw [State.tableCmd_started hr hb hp hop hn, State.tableAct_of_target hf ht, hact, State.endTable_completes hst]

/-- A NEXT from the start whose records cannot be written puts the ring in ERROR and ends without a completion. -/
theorem State.tableCmd_next_fails {t : Nat} {w : State} {d : Bytes} (hf : (s.beginEntry r).ing.flushes = [])
    (ht : (s.beginEntry r).target ((s.beginEntry r).ringOwner r) (leAt e 0 2) (BitVec.ofNat 64 (leAt e 8 8)) = .inl t)
    (hop : leAt e 0 2 = 2) (hact : (s.beginEntry r).doNext ((s.beginEntry r).ringOwner r) t e = (w, tsAccess, d)) :
    s.tableCmd r 2 e = (w.ringError r ecAccess (s.ringH r)).abandon r (s.ringH r) := by
  have hdo : (s.beginEntry r).actOn ((s.beginEntry r).ringOwner r) t e = (w, tsAccess, d) := by
    rw [State.actOn, if_neg (by omega), if_pos hop, hact]
  rw [State.tableCmd_started hr hb hp hop (by decide), State.tableAct_of_target hf ht, hdo]
  exact if_pos rfl

end Started

section ActOn
variable {s : State} {own t : Nat} {e : Bytes}

theorem State.actOn_search (h : leAt e 0 2 = 1) : s.actOn own t e = s.doSearch t e := if_pos h

theorem State.actOn_next (h : leAt e 0 2 = 2) : s.actOn own t e = s.doNext own t e := by simp only [State.actOn, h]; rfl

theorem State.actOn_insert (h : leAt e 0 2 = 3) : s.actOn own t e = s.doInsert t e := by simp only [State.actOn, h]; rfl

theorem State.actOn_delete (h : leAt e 0 2 = 4) : s.actOn own t e = s.doDelete t e := by simp only [State.actOn, h]; rfl

theorem State.actOn_mcSet (h : leAt e 0 2 = 6) : s.actOn own t e = s.doMcSet t e := by simp only [State.actOn, h]; rfl

end ActOn

/-! ### FLUSH_BY_PORT (R121, R125) -/

section Flush
variable {s : State} {r i : Nat} {e : Bytes}

theorem State.startFlush_no_port (h : portRef (BitVec.ofNat 64 (leAt e 32 8)) = none) : s.startFlush r i e = s.complete r i e tsDenied := by
  cases ht : s.target (s.ringOwner r) 5 (BitVec.ofNat 64 (leAt e 8 8)) with
  | inl t => simp only [State.startFlush, ht, h]
  | inr st => simp only [State.startFlush, ht, h]

theorem State.startFlush_refused {st n : Nat} (ht : s.target (s.ringOwner r) 5 (BitVec.ofNat 64 (leAt e 8 8)) = .inr st)
    (h : portRef (BitVec.ofNat 64 (leAt e 32 8)) = some n) : s.startFlush r i e = s.complete r i e st := by
  simp only [State.startFlush, ht, h]

/-- A pass over a table for the entries of a port begins. -/
theorem State.startFlush_begins {t n : Nat} (ht : s.target (s.ringOwner r) 5 (BitVec.ofNat 64 (leAt e 8 8)) = .inl t)
    (h : portRef (BitVec.ofNat 64 (leAt e 32 8)) = some n) : s.startFlush r i e =
      { s with ing := { s.ing with flushes := SMap.put s.ing.flushes (r * 4294967296 + i) (some
        { table := t, port := n, flushStatic := bitOf (leAt e 2 1) 4, desc := e, began := s.elapsed, upto := s.elapsed }) } } := by
  simp only [State.startFlush, ht, h]

end Flush

/-! ### The clauses of O24 -/

theorem exec_search (r : RingIx) (e : Bytes) (s : State) : exec (.search r e) s = .next (s.tableCmd r.val 1 e) := rfl
theorem exec_next (r : RingIx) (e : Bytes) (s : State) : exec (.next r e) s = .next (s.tableCmd r.val 2 e) := rfl
theorem exec_insert (r : RingIx) (e : Bytes) (s : State) : exec (.insert r e) s = .next (s.tableCmd r.val 3 e) := rfl
theorem exec_delete (r : RingIx) (e : Bytes) (s : State) : exec (.delete r e) s = .next (s.tableCmd r.val 4 e) := rfl
theorem exec_flushByPort (r : RingIx) (e : Bytes) (s : State) : exec (.flushByPort r e) s = .next (s.tableCmd r.val 5 e) := rfl
theorem exec_mcSet (r : RingIx) (e : Bytes) (s : State) : exec (.mcSet r e) s = .next (s.tableCmd r.val 6 e) := rfl

/-- Settles O24: an entry that is started ends as its opcode's act on its target says. -/
theorem tableCommandResults : Obligations.TableCommandResults := by
  unfold Obligations.TableCommandResults
  intro r e s h u op tgt
  simp only [exec_search, exec_next, exec_insert, exec_delete, exec_flushByPort, exec_mcSet, Host.Outcome.next.injEq]
  have other : ∀ n, op ≠ n → s.tableCmd r.val n e = s := fun n hn => State.tableCmd_of_ne hn s r.val
  refine ⟨other 1, other 2, other 3, other 4, other 5, other 6, fun hr hb hf hp => ⟨fun st ht => ?_, fun st n hop ht hport => ?_,
    fun hop hport => ?_, fun t ht hgood => ?_⟩⟩
  · have refused : ∀ n, n ≠ 5 → op = n → s.tableCmd r.val n e = u.complete r.val h e st := fun n hn hop =>
      State.tableCmd_refused hr hb hp hop hn ht
    exact ⟨refused 1 (by decide), refused 2 (by decide), refused 3 (by decide), refused 4 (by decide), refused 6 (by decide)⟩
  · rw [State.tableCmd_flush hr hb hp hop]
    exact State.startFlush_refused (hop ▸ ht) hport
  · rw [State.tableCmd_flush hr hb hp hop]
    exact State.startFlush_no_port hport
  · have acts : ∀ {n st w d}, op = n → n ≠ 5 → u.actOn (u.ringOwner r.val) t e = (w, st, d) → st ≠ tsAccess →
        s.tableCmd r.val n e = w.complete r.val h d st := fun hop hn => State.tableCmd_acts hr hb hp hf ht hop hn
    have good : ∀ {n}, op = n → n ≠ 6 → ∀ x ∈ u.tbl t, x.2.parity = 0 := fun hop hn => hgood (hop ▸ hn)
    refine ⟨fun hop hx => ?_, fun hop hx => ?_, fun x hx => ⟨fun hop => ?_, fun hop => ?_, fun hop hno => ?_, fun hop hrep hmay => ?_⟩,
      fun hop hx => ?_, fun hop hc hs hn => ⟨fun hok => ?_, fun hfails => ?_⟩, fun hop => ?_, fun n hop hport => ?_⟩
    · exact acts hop (by decide) ((State.actOn_search hop).trans (State.doSearch_none (good hop (by decide)) hx)) (by decide)
    · exact acts hop (by decide) ((State.actOn_delete hop).trans (State.doDelete_none (good hop (by decide)) hx)) (by decide)
    · exact acts hop (by decide) ((State.actOn_search hop).trans (State.doSearch_some (good hop (by decide)) hx)) (by decide)
    · exact acts hop (by decide) ((State.actOn_delete hop).trans (State.doDelete_some (good hop (by decide)) hx)) (by decide)
    · exact acts hop (by decide) ((State.actOn_insert hop).trans (State.doInsert_exists (good hop (by decide)) hx hno)) (by decide)
    · exact ⟨{ u.newEntry t e with ext := x.ext, bucket := x.bucket }, rfl, rfl, rfl, rfl, rfl, rfl,
        acts hop (by decide) ((State.actOn_insert hop).trans (State.doInsert_replaces (good hop (by decide)) hx hrep hmay)) (by decide)⟩
    · have hins := State.actOn_insert (s := u) (own := u.ringOwner r.val) (t := t) hop
      exact ⟨u.newEntry t e, rfl, rfl, rfl, rfl,
        fun ha => ⟨acts hop (by decide) (hins.trans (State.doInsert_added (good hop (by decide)) hx ha)) (by decide),
          State.entry_inserted ha⟩,
        fun ha => acts hop (by decide) (hins.trans (State.doInsert_full (good hop (by decide)) hx ha)) (by decide)⟩
    · exact acts hop (by decide) ((State.actOn_next hop).trans (State.doNext_written (good hop (by decide)) hc hs hn hok)) (by decide)
    · exact State.tableCmd_next_fails hr hb hp hf ht hop (State.doNext_failed (good hop (by decide)) hc hs hn hfails)
    · exact acts hop (by decide) (State.actOn_mcSet hop) (by decide)
    · rw [State.tableCmd_flush hr hb hp hop]
      exact State.startFlush_begins (hop ▸ ht) hport

end Sys2Proof.Machine
end

section
/-! PROOFS. The integer instructions of Spur: a word its context has next and may run takes effect in the next slot (R131, R168). -/

namespace Sys2Proof.Machine

/-! ### Issue -/

/-- A word that is next, of an opcode the profile has, takes its effect in the context's slot. -/
theorem State.issue_of {s : State} {x : Ctx} {w : BitVec 32} (hi : s.canIssue x = true) (hf : s.fetches x w = true)
    (hp : permits x (wOp w) = true) (h : State → State) : s.issue x w h = h (s.atSlot x) := by
  rw [State.issue, hi, hf, Bool.true_and, if_pos rfl, if_pos hp]

/-- Every profile has the opcodes of integers, memory, branches and loops. -/
theorem permits_of_le (x : Ctx) {op : Nat} (h : op ≤ 0x1B) : permits x op = true := by
  cases x <;> simp [permits] <;> omega

/-- Every profile has the opcodes of channels, events and time. -/
theorem permits_of_between (x : Ctx) {op : Nat} (hl : 0x24 ≤ op) (hh : op ≤ 0x2B) : permits x op = true := by
  cases x <;> simp [permits] <;> omega

theorem wOp_ofNat {op low : Nat} (ho : op < 64) (hl : low < 67108864) : wOp (BitVec.ofNat 32 (op * 67108864 + low)) = op := by
  rw [wOp, BitVec.toNat_ofNat, Nat.mod_eq_of_lt (by omega)]
  omega

theorem wOp_wG3 {op m : Nat} (ho : op < 64) (gd ga gb : GReg) (hm : m < 2048) : wOp (wG3 op gd.val ga.val gb.val m) = op := by
  rw [wG3, Nat.add_assoc, Nat.add_assoc, Nat.add_assoc]
  exact wOp_ofNat ho (by omega)

theorem wOp_wGI {op : Nat} (ho : op < 64) {a b : Nat} (ha : a < 32) (hb : b < 32) (imm : BitVec 16) : wOp (wGI op a b imm) = op := by
  have himm := imm.isLt
  rw [wGI, Nat.add_assoc, Nat.add_assoc]
  exact wOp_ofNat ho (by omega)

theorem permits_wG3 (x : Ctx) {op m : Nat} (ho : op ≤ 0x1B) (gd ga gb : GReg) (hm : m < 2048) :
    permits x (wOp (wG3 op gd.val ga.val gb.val m)) = true := by
  rw [wOp_wG3 (by omega) gd ga gb hm]
  exact permits_of_le x ho

theorem permits_wGI (x : Ctx) {op a b : Nat} (ho : op ≤ 0x1B) (ha : a < 32) (hb : b < 32) (imm : BitVec 16) :
    permits x (wOp (wGI op a b imm)) = true := by
  rw [wOp_wGI (by omega) ha hb imm]
  exact permits_of_le x ho

section Forms
variable {s : State} {x : Ctx} {gd ga gb : GReg} {op m : Nat} (hi : s.canIssue x = true)
include hi

/-- The three-register form writes what its function gives of the two source registers. -/
theorem issue3_writes {f : BitVec 64 → BitVec 64 → BitVec 64} {v : BitVec 64} (ho : op ≤ 0x1B) (hm : m < 2048)
    (hf : s.fetches x (wG3 op gd.val ga.val gb.val m) = true) (hv : f ((s.atSlot x).gpr x ga) ((s.atSlot x).gpr x gb) = v) :
    (.next (s.issue3 x op m gd ga gb f) : Out) = .next (((s.atSlot x).setGpr x gd v).retire x) := by
  rw [State.issue3, State.issue_of hi hf (permits_wG3 x ho gd ga gb hm), hv]

/-- The form of one source register writes what its function gives of it where the gb field is 0. -/
theorem issue2_writes {f : BitVec 64 → BitVec 64} {v : BitVec 64} (ho : op ≤ 0x1B) (hm : m < 2048)
    (hf : s.fetches x (wG3 op gd.val ga.val (0 : GReg).val m) = true) (hv : f ((s.atSlot x).gpr x ga) = v) :
    (.next (s.issue2 x op m gd ga 0 f) : Out) = .next (((s.atSlot x).setGpr x gd v).retire x) := by
  rw [State.issue2, State.issue_of hi hf (permits_wG3 x ho gd ga 0 hm), if_pos (Fin.val_zero _), hv]

/-- With another gb field the form of one source register is undefined (R167). -/
theorem issue2_illegal {f : BitVec 64 → BitVec 64} (ho : op ≤ 0x1B) (hm : m < 2048) (hb : gb ≠ 0)
    (hf : s.fetches x (wG3 op gd.val ga.val gb.val m) = true) :
    (.next (s.issue2 x op m gd ga gb f) : Out) = .next ((s.atSlot x).illegal x (wG3 op gd.val ga.val gb.val m)) := by
  rw [State.issue2, State.issue_of hi hf (permits_wG3 x ho gd ga gb hm),
    if_neg (Fin.val_ne_zero_iff.2 hb)]

/-- The immediate form writes what its function gives of the source register and the immediate. -/
theorem issueI_writes {f : BitVec 64 → BitVec 16 → BitVec 64} {imm : BitVec 16} {v : BitVec 64} (ho : op ≤ 0x1B)
    (hf : s.fetches x (wGI op gd.val ga.val imm) = true) (hv : f ((s.atSlot x).gpr x ga) imm = v) :
    (.next (s.issueI x op gd ga imm f) : Out) = .next (((s.atSlot x).setGpr x gd v).retire x) := by
  rw [State.issueI, State.issue_of hi hf (permits_wGI x ho gd.isLt ga.isLt imm), hv]

end Forms

/-! ### What the integer functions give (R168) -/

section Values
variable (a b : BitVec 64)

theorem minU_eq : minU a b = BitVec.ofNat 64 (min a.toNat b.toNat) := by
  simp only [minU, BitVec.ult_iff_lt, BitVec.lt_def]
  split
  · next h => rw [min_eq_left (Nat.le_of_lt h), BitVec.ofNat_toNat, BitVec.setWidth_eq]
  · next h => rw [min_eq_right (Nat.le_of_not_lt h), BitVec.ofNat_toNat, BitVec.setWidth_eq]

theorem maxU_eq : maxU a b = BitVec.ofNat 64 (max a.toNat b.toNat) := by
  simp only [maxU, BitVec.ult_iff_lt, BitVec.lt_def]
  split
  · next h => rw [max_eq_right (Nat.le_of_lt h), BitVec.ofNat_toNat, BitVec.setWidth_eq]
  · next h => rw [max_eq_left (Nat.le_of_not_lt h), BitVec.ofNat_toNat, BitVec.setWidth_eq]

theorem minS_eq : minS a b = BitVec.ofInt 64 (min a.toInt b.toInt) := by
  simp only [minS, BitVec.slt_iff_toInt_lt]
  split
  · next h => rw [min_eq_left (Int.le_of_lt h), BitVec.ofInt_toInt]
  · next h => rw [min_eq_right (Int.not_lt.1 h), BitVec.ofInt_toInt]

theorem maxS_eq : maxS a b = BitVec.ofInt 64 (max a.toInt b.toInt) := by
  simp only [maxS, BitVec.slt_iff_toInt_lt]
  split
  · next h => rw [max_eq_right (Int.le_of_lt h), BitVec.ofInt_toInt]
  · next h => rw [max_eq_left (Int.not_lt.1 h), BitVec.ofInt_toInt]

theorem onesUpTo_eq (n : Nat) : onesUpTo a n = (List.range n).countP (fun i => a.getLsbD i) := by
  induction n with
  | zero => rfl
  | succ n ih =>
    rw [onesUpTo, ih, List.range_succ, List.countP_append, List.countP_singleton]
    rfl

/-- What the count of zero bits from bit `n - 1` downwards says of the bits. -/
theorem leadUpTo_spec (n : Nat) : leadUpTo a n ≤ n ∧ (∀ i, n - leadUpTo a n ≤ i → i < n → a.getLsbD i = false) ∧
    (leadUpTo a n < n → a.getLsbD (n - 1 - leadUpTo a n) = true) := by
  induction n with
  | zero => exact ⟨Nat.le_refl 0, fun i _ hi => absurd hi (Nat.not_lt_zero i), fun h => absurd h (Nat.lt_irrefl 0)⟩
  | succ n ih =>
    obtain ⟨hle, hzero, hone⟩ := ih
    cases hb : a.getLsbD n with
    | true =>
      rw [leadUpTo, if_pos hb]
      exact ⟨Nat.zero_le _, fun i h1 h2 => absurd h2 (by omega), fun _ => hb⟩
    | false =>
      rw [leadUpTo, if_neg (by rw [hb]; decide)]
      refine ⟨by omega, fun i h1 h2 => ?_, fun h => ?_⟩
      · by_cases hi : i = n
        · rw [hi, hb]
        · exact hzero i (by omega) (by omega)
      · rw [show n + 1 - 1 - (1 + leadUpTo a n) = n - 1 - leadUpTo a n by omega]
        exact hone (by omega)

/-- What the count of zero bits from bit `i` upwards says of the bits. -/
theorem trailFrom_spec (n : Nat) : ∀ i, trailFrom a i n ≤ n ∧ (∀ j, j < trailFrom a i n → a.getLsbD (i + j) = false) ∧
    (trailFrom a i n < n → a.getLsbD (i + trailFrom a i n) = true) := by
  induction n with
  | zero => exact fun i => ⟨Nat.le_refl 0, fun j hj => absurd hj (Nat.not_lt_zero j), fun h => absurd h (Nat.lt_irrefl 0)⟩
  | succ n ih =>
    intro i
    obtain ⟨hle, hzero, hone⟩ := ih (i + 1)
    cases hb : a.getLsbD i with
    | true =>
      rw [trailFrom, if_pos hb]
      exact ⟨Nat.zero_le _, fun j hj => absurd hj (Nat.not_lt_zero j), fun _ => hb⟩
    | false =>
      rw [trailFrom, if_neg (by rw [hb]; decide)]
      refine ⟨by omega, fun j hj => ?_, fun h => ?_⟩
      · cases j with
        | zero => exact hb
        | succ j => rw [show i + (j + 1) = i + 1 + j by omega]; exact hzero j (by omega)
      · rw [show i + (1 + trailFrom a (i + 1) n) = i + 1 + trailFrom a (i + 1) n by omega]
        exact hone (by omega)

/-- A byte of the number that a little-endian string spells. -/
theorem leNat_div_mod (l : Bytes) : ∀ {i : Nat} (h : i < l.length), leNat l / 256 ^ i % 256 = l[i].toNat := by
  induction l with
  | nil => exact fun h => absurd h (Nat.not_lt_zero _)
  | cons b t ih =>
    intro i h
    have hb := b.isLt
    cases i with
    | zero => rw [leNat, Nat.pow_zero, Nat.div_one, List.getElem_cons_zero]; omega
    | succ i =>
      rw [leNat, Nat.pow_succ', ← Nat.div_div_eq_div_mul, show (b.toNat + 256 * leNat t) / 256 = leNat t by omega]
      exact ih (Nat.lt_of_succ_lt_succ h)

/-- A byte of a number's little-endian string. -/
theorem leBytes_getElem (n : Nat) : ∀ (v : Nat) {i : Nat} (h : i < (leBytes v n).length),
    (leBytes v n)[i] = BitVec.ofNat 8 (v / 256 ^ i) := by
  induction n with
  | zero => exact fun v i h => absurd h (Nat.not_lt_zero i)
  | succ n ih =>
    intro v i h
    cases i with
    | zero => simp [leBytes]
    | succ i => simp [leBytes, ih, Nat.pow_succ', Nat.div_div_eq_div_mul]

theorem leNat_lt (l : Bytes) : leNat l < 256 ^ l.length := by
  induction l with
  | nil => exact Nat.one_pos
  | cons b t ih =>
    have hb := b.isLt
    rw [leNat, List.length_cons, Nat.pow_succ']
    omega

theorem extractLsb'_byte (v : BitVec 64) (i : Nat) : v.extractLsb' (8 * i) 8 = BitVec.ofNat 8 (v.toNat / 256 ^ i) := by
  rw [BitVec.extractLsb', Nat.shiftRight_eq_div_pow, Nat.pow_mul]

/-- Byte `i` of the reversed word is byte `7 - i` of the word. -/
theorem bswap_byte {i : Nat} (h : i < 8) : (bswap a).extractLsb' (8 * i) 8 = a.extractLsb' (8 * (7 - i)) 8 := by
  have hlen : (leBytes a.toNat 8).reverse.length = 8 := List.length_reverse.trans (leBytes_length a.toNat 8)
  have hlt : leNat (leBytes a.toNat 8).reverse < 2 ^ 64 := Nat.lt_of_lt_of_eq (leNat_lt _) (congrArg (256 ^ ·) hlen)
  have hi : i < (leBytes a.toNat 8).reverse.length := Nat.lt_of_lt_of_eq h hlen.symm
  have hbyte : (leBytes a.toNat 8).reverse[i] = BitVec.ofNat 8 (a.toNat / 256 ^ (7 - i)) := by
    rw [List.getElem_reverse, leBytes_getElem, leBytes_length]
  rw [extractLsb'_byte, extractLsb'_byte, ← hbyte, bswap, beNat, BitVec.toNat_ofNat, Nat.mod_eq_of_lt hlt]
  exact BitVec.eq_of_toNat_eq ((BitVec.toNat_ofNat _ _).trans (leNat_div_mod _ hi))

end Values

/-- Settles O3: the forms of ALU's words, and what each function gives. -/
theorem aluResults : Obligations.AluResults := by
  unfold Obligations.AluResults
  intro x gd ga gb s hi t
  have writes {m : Nat} {f : BitVec 64 → BitVec 64 → BitVec 64} {v : BitVec 64} (hm : m < 2048)
      (h : s.fetches x (wG3 0 gd.val ga.val gb.val m) = true)
      (hv : f (t.gpr x ga) (t.gpr x gb) = v) := issue3_writes hi (by decide) hm h hv
  refine ⟨fun h => writes (by decide) h rfl, fun h => writes (by decide) h rfl, fun h => writes (by decide) h rfl,
    fun h => writes (by decide) h rfl, fun h => writes (by decide) h rfl, fun h => writes (by decide) h rfl,
    fun h => writes (by decide) h rfl, fun h => writes (by decide) h rfl, fun h => writes (by decide) h (minU_eq _ _),
    fun h => writes (by decide) h (maxU_eq _ _), fun h => writes (by decide) h (minS_eq _ _), fun h => writes (by decide) h (maxS_eq _ _),
    fun hb => ⟨fun h => ?_, fun h => ?_, fun h => ?_, fun h => ?_⟩,
    fun hb => ⟨issue2_illegal hi (by decide) (by decide) hb, issue2_illegal hi (by decide) (by decide) hb,
      issue2_illegal hi (by decide) (by decide) hb, issue2_illegal hi (by decide) (by decide) hb⟩⟩
  · subst hb
    exact issue2_writes hi (by decide) (by decide) h (congrArg (BitVec.ofNat 64) (onesUpTo_eq _ 64))
  · subst hb
    obtain ⟨hle, hzero, hone⟩ := leadUpTo_spec (t.gpr x ga) 64
    refine ⟨_, issue2_writes hi (by decide) (by decide) h rfl, hle, fun i hi => ?_, hone⟩
    by_cases h64 : i < 64
    · exact hzero i hi h64
    · exact BitVec.getLsbD_of_ge _ i (Nat.le_of_not_lt h64)
  · subst hb
    obtain ⟨hle, hzero, hone⟩ := trailFrom_spec (t.gpr x ga) 64 0
    rw [Nat.zero_add] at hone
    exact ⟨_, issue2_writes hi (by decide) (by decide) h rfl, hle, fun i hi => Nat.zero_add i ▸ hzero i hi, hone⟩
  · subst hb
    exact ⟨_, issue2_writes hi (by decide) (by decide) h rfl, fun i hi => bswap_byte _ hi⟩

/-! ### Truth values and bit fields -/

theorem truth_of_iff {b : Bool} {p : Prop} [Decidable p] (h : b = true ↔ p) : truth b = if p then 1 else 0 := if_congr h rfl rfl

theorem truth_bne (a b : BitVec 64) : truth (a != b) = if a = b then 0 else 1 := by
  rw [truth_of_iff bne_iff_ne, ite_not]

theorem toInt_sextI (imm : BitVec 16) : (sextI imm).toInt = imm.toInt := BitVec.toInt_signExtend_of_le (by decide)

theorem toNat_zextI (imm : BitVec 16) : (zextI imm).toNat = imm.toNat := BitVec.toNat_setWidth_of_le (by decide)

theorem getLsbD_zextI (imm : BitVec 16) {j : Nat} (h : j < 64) : (zextI imm).getLsbD j = imm.getLsbD j := by
  rw [zextI, BitVec.getLsbD_setWidth, decide_eq_true h, Bool.true_and]

/-- The bits of a word whose field is replaced. -/
theorem getLsbD_bitInsert (d a : BitVec 64) (pos len : Nat) {i : Nat} (hi : i < 64) :
    (bitInsert d a pos len).getLsbD i = if pos ≤ i ∧ i < pos + len then a.getLsbD (i - pos) else d.getLsbD i := by
  simp only [bitInsert, BitVec.getLsbD_or, BitVec.getLsbD_and, BitVec.getLsbD_not, BitVec.getLsbD_ofNat, Nat.testBit_mul_two_pow,
    Nat.testBit_two_pow_sub_one, Nat.testBit_mod_two_pow, BitVec.testBit_toNat, hi, decide_true, Bool.true_and]
  by_cases hl : pos ≤ i
  · have hsub : i - pos < len ↔ i < pos + len := by omega
    by_cases hh : i < pos + len <;> simp [hl, hh, hsub]
  · simp [hl]

/-- Settles O4: the forms of the words, and what each function gives. -/
theorem shiftCompareImmediateResults : Obligations.ShiftCompareImmediateResults := by
  unfold Obligations.ShiftCompareImmediateResults
  intro x gd ga gb imm k s hi t
  have two {op m : Nat} {f : BitVec 64 → BitVec 64 → BitVec 64} {v : BitVec 64} (ho : op ≤ 0x1B) (hm : m < 2048)
      (hv : f (t.gpr x ga) (t.gpr x gb) = v) (h : s.fetches x (wG3 op gd.val ga.val gb.val m) = true) := issue3_writes hi ho hm h hv
  have one {op : Nat} {f : BitVec 64 → BitVec 16 → BitVec 64} {v : BitVec 64} (ho : op ≤ 0x1B) (hv : f (t.gpr x ga) imm = v)
      (h : s.fetches x (wGI op gd.val ga.val imm) = true) := issueI_writes hi ho h hv
  have hk : k.val < 32 := by omega
  refine ⟨two (by decide) (by decide) rfl, two (by decide) (by decide) rfl, two (by decide) (by decide) rfl,
    two (by decide) (by decide) rfl, two (by decide) (by decide) rfl,
    two (by decide) (by decide) (truth_of_iff beq_iff_eq), two (by decide) (by decide) (truth_bne _ _),
    two (by decide) (by decide) (truth_of_iff BitVec.ult_iff_lt), two (by decide) (by decide) (truth_of_iff BitVec.slt_iff_toInt_lt),
    two (by decide) (by decide) (truth_of_iff BitVec.ule_iff_le), two (by decide) (by decide) (truth_of_iff BitVec.sle_iff_toInt_le),
    one (by decide) rfl, one (by decide) rfl, one (by decide) rfl, one (by decide) rfl,
    one (by decide) (truth_of_iff beq_iff_eq), one (by decide) (truth_of_iff ?_), one (by decide) (truth_of_iff ?_),
    fun h => ?_, fun h => ⟨_, congrArg _ (State.issue_of hi h (permits_wGI x (by decide) gd.isLt hk imm) _), fun i hi => ?_⟩⟩
  · rw [BitVec.ult_iff_lt, BitVec.lt_def, toNat_zextI]
  · rw [BitVec.slt_iff_toInt_lt, toInt_sextI]
  · exact congrArg _ (State.issue_of hi h (permits_wGI x (by decide) gd.isLt hk imm) _)
  · rw [getLsbD_bitInsert _ _ _ _ hi]
    exact if_congr Iff.rfl (getLsbD_zextI imm (by omega)) rfl

end Sys2Proof.Machine
end

section
/-! PROOFS. Contexts of Spur: what a change of one, an event and a wake-up do to it, and what they leave (R136, R137). -/

namespace Sys2Proof.Machine

/-! ### What changes Spur alone -/

theorem State.setSpur_keepsBut (s : State) (x : Spur) : KeepsBut [.spur] s { s with spur := x } := by
  intro p hp
  cases p
  case spur => exact absurd List.mem_cons_self hp
  all_goals rfl

theorem State.modThr_keepsBut (s : State) (k : Nat) (f : Thread → Thread) : KeepsBut [.spur] s (s.modThr k f) := s.setSpur_keepsBut _

/-- A context after one is changed. -/
theorem State.thr_modThr (s : State) (k j : Nat) (f : Thread → Thread) :
    (s.modThr k f).thr j = if j = k then f (s.thr k) else s.thr j := by
  split
  · next h => rw [h, State.thr_modThr_self]
  · next h => exact s.thr_modThr_of_ne f h

/-- A change of a context that leaves it leaves every context. -/
theorem State.thr_modThr_of_fixed (s : State) {k : Nat} {f : Thread → Thread} (h : f (s.thr k) = s.thr k) (j : Nat) :
    (s.modThr k f).thr j = s.thr j := by
  rw [State.thr_modThr]
  split
  · next hj => rw [h, hj]
  · rfl

/-- Time stands still on the way to an instant that has been reached. -/
theorem State.advance_of_nonpos (s : State) {d : Int} (h : d ≤ 0) : s.advance d.toNat = s := by
  rw [State.advance, if_pos (.inl (Int.toNat_of_nonpos h))]

/-! ### Waking (R137) -/

section Wake
variable (s : State) (k : Nat)

/-- A wake-up leaves the state or makes the context READY. -/
theorem State.wake_cases : s.wake k = s ∨ s.wake k = s.modThr k (fun t => { t with st := 1 }) := by
  unfold State.wake
  split
  · exact .inr rfl
  · exact .inl rfl

theorem State.wake_keepsBut : KeepsBut [.spur] s (s.wake k) := by
  rcases s.wake_cases k with h | h <;> rw [h]
  · exact KeepsBut.refl _ s
  · exact s.modThr_keepsBut k _

/-- Of a context a wake-up changes the state alone. -/
theorem State.thr_wake (j : Nat) : ∃ st, (s.wake k).thr j = { s.thr j with st := st } := by
  rcases s.wake_cases k with h | h <;> rw [h]
  · exact ⟨(s.thr j).st, rfl⟩
  · by_cases hj : j = k
    · exact ⟨1, by rw [hj, State.thr_modThr_self]⟩
    · exact ⟨(s.thr j).st, s.thr_modThr_of_ne _ hj⟩

theorem State.thr_wake_of_ne {j : Nat} (hj : j ≠ k) : (s.wake k).thr j = s.thr j := by
  rcases s.wake_cases k with h | h <;> rw [h]
  exact s.thr_modThr_of_ne _ hj

theorem State.wake_chan (i : Nat) : (s.wake k).chan i = s.chan i := by
  rcases s.wake_cases k with h | h <;> rw [h]
  rfl

/-- A waiting context with a masked latched input wakes. -/
theorem State.wake_ready {i : Nat} (hst : (s.thr k).st = 2) (hp : (s.thr k).pending.getLsbD i = true)
    (hm : (s.thr k).mask.getLsbD i = true) : ((s.wake k).thr k).st = 1 := by
  have hbit : (s.pendingOf k &&& (s.thr k).mask).getLsbD i = true := by
    rw [BitVec.getLsbD_and, State.pendingOf, BitVec.getLsbD_or, BitVec.getLsbD_or, hp, hm]
    rfl
  have hne : (s.pendingOf k &&& (s.thr k).mask) ≠ 0 := fun h => by
    rw [h] at hbit
    simp at hbit
  rw [State.wake, if_pos (by rw [hst, bne_iff_ne.2 hne]; rfl), State.thr_modThr_self]

/-- A context that a wake-up leaves in no other state than READY. -/
theorem State.st_wake (j : Nat) : ((s.wake k).thr j).st = (s.thr j).st ∨ ((s.wake k).thr j).st = 1 := by
  rcases s.wake_cases k with h | h <;> rw [h]
  · exact .inl rfl
  · rw [State.thr_modThr]
    split
    · exact .inr rfl
    · exact .inl rfl

end Wake

/-! ### Latched inputs (R136) -/

section Raise
variable (s : State) (k i : Nat)

theorem State.raiseEvt_keepsBut : KeepsBut [.spur] s (s.raiseEvt k i) := (s.modThr_keepsBut k _).trans (State.wake_keepsBut _ k)

theorem State.thr_raiseEvt_of_ne {j : Nat} (hj : j ≠ k) : (s.raiseEvt k i).thr j = s.thr j :=
  (State.thr_wake_of_ne _ k hj).trans (s.thr_modThr_of_ne _ hj)

/-- Of its context an input changes what is pending, and perhaps the state. -/
theorem State.thr_raiseEvt_self : ∃ st, (s.raiseEvt k i).thr k = { s.thr k with pending := (s.thr k).pending ||| (1#32 <<< i), st := st } := by
  obtain ⟨st, h⟩ := State.thr_wake (s.modThr k (fun t => { t with pending := t.pending ||| (1#32 <<< i) })) k k
  exact ⟨st, by rw [State.raiseEvt, h, State.thr_modThr_self]⟩

theorem State.st_raiseEvt_self : ((s.raiseEvt k i).thr k).st = (s.thr k).st ∨ ((s.raiseEvt k i).thr k).st = 1 := by
  have h := State.st_wake (s.modThr k (fun t => { t with pending := t.pending ||| (1#32 <<< i) })) k k
  rwa [State.thr_modThr_self] at h

/-- A context that waits for the input wakes. -/
theorem State.raiseEvt_ready (hi : i < 32) (hst : (s.thr k).st = 2) (hm : (s.thr k).mask.getLsbD i = true) :
    ((s.raiseEvt k i).thr k).st = 1 := by
  have hbit : ((s.thr k).pending ||| (1#32 <<< i)).getLsbD i = true := by
    rw [BitVec.getLsbD_or, BitVec.getLsbD_shiftLeft]
    simp [hi]
  refine State.wake_ready _ k (i := i) ?_ ?_ ?_ <;> rw [State.thr_modThr_self]
  · exact hst
  · exact hbit
  · exact hm

end Raise

end Sys2Proof.Machine
end

section
/-! PROOFS. Channel, event, timer and time instructions (R137-R141, R179). -/

namespace Sys2Proof.Machine

/-! ### Words of these instructions -/

theorem permits_word (x : Ctx) {op low : Nat} (hl : 0x24 ≤ op) (hh : op ≤ 0x2B) (hlow : low < 67108864) :
    permits x (wOp (BitVec.ofNat 32 (op * 67108864 + low))) = true := by
  rw [wOp_ofNat (by omega) hlow]
  exact permits_of_between x hl hh

theorem permits_wChan (x : Ctx) {op : Nat} (hl : 0x24 ≤ op) (hh : op ≤ 0x2B) (g : GReg) {k ch : Nat} (hk : k < 8) (hc : ch < 1024) :
    permits x (wOp (wChan op g.val k ch)) = true := by
  rw [wChan, Nat.add_assoc, Nat.add_assoc]
  exact permits_word x hl hh (by omega)

theorem permits_wSev (x : Ctx) (core : Fin 16) (cx : Fin 32) (line : Fin 8) : permits x (wOp (wSev core.val cx.val line.val)) = true := by
  rw [wSev, Nat.add_assoc, Nat.add_assoc]
  exact permits_word x (by decide) (by decide) (by omega)

theorem permits_time (x : Ctx) {op m : Nat} (hl : 0x24 ≤ op) (hh : op ≤ 0x2B) (gd ga gb : GReg) (hm : m < 2048) :
    permits x (wOp (wG3 op gd.val ga.val gb.val m)) = true := by
  rw [wOp_wG3 (by omega) gd ga gb hm]
  exact permits_of_between x hl hh

/-! ### Channels (R140, R141) -/

section Channel
variable (s : State) (i : Nat) (l : List (List (BitVec 64)))

theorem State.chan_setChan_self : (s.setChan i l).chan i = l := SMap.getD_setD_self _ _ _ _

theorem State.chan_setChan_of_ne {m : Nat} (h : m ≠ i) : (s.setChan i l).chan m = s.chan m := SMap.getD_setD_of_ne _ _ _ _ h

theorem State.noteCommit_chan (k j m : Nat) : (s.noteCommit k j).chan m = s.chan m := by
  unfold State.noteCommit
  split <;> rfl

/-- A channel's declared reader, if it has one, is woken. -/
def State.wakeReader (s : State) (r ch : Nat) : State :=
  match s.readerKey r ch with
  | some q => s.wake q
  | none => s

theorem State.wakeReader_cases (r ch : Nat) : s.wakeReader r ch = s ∨ ∃ q, s.wakeReader r ch = s.wake q := by
  unfold State.wakeReader
  split
  · next q _ => exact .inr ⟨q, rfl⟩
  · exact .inl rfl

theorem State.wakeReader_chan (r ch m : Nat) : (s.wakeReader r ch).chan m = s.chan m := by
  rcases s.wakeReader_cases r ch with h | ⟨q, h⟩ <;> rw [h]
  exact s.wake_chan q m

theorem State.wakeReader_staging (r ch k : Nat) : ((s.wakeReader r ch).thr k).staging = (s.thr k).staging := by
  rcases s.wakeReader_cases r ch with h | ⟨q, h⟩ <;> rw [h]
  obtain ⟨st, hst⟩ := s.thr_wake q k
  rw [hst]

/-- The state in which a context's staged message is in a channel, its staging is clear and the reader has been woken. -/
def State.published (s : State) (k r ch : Nat) (m : List (BitVec 64)) : State :=
  let i := chanIx r ch
  (((s.setChan i (s.chan i ++ [m])).noteCommit k i).modThr k (fun t => { t with staging := [] })).wakeReader r ch

variable (k r ch : Nat) (m : List (BitVec 64))

theorem State.published_chan_self : (s.published k r ch m).chan (chanIx r ch) = s.chan (chanIx r ch) ++ [m] := by
  rw [State.published, State.wakeReader_chan]
  exact (State.noteCommit_chan _ k _ _).trans (s.chan_setChan_self _ _)

theorem State.published_chan_of_ne {j : Nat} (h : j ≠ chanIx r ch) : (s.published k r ch m).chan j = s.chan j := by
  rw [State.published, State.wakeReader_chan]
  exact (State.noteCommit_chan _ k _ _).trans (s.chan_setChan_of_ne _ _ h)

theorem State.published_staging : ((s.published k r ch m).thr k).staging = [] := by
  rw [State.published, State.wakeReader_staging, State.thr_modThr_self]

end Channel

/-- The receive area that holds a message (R141). -/
def recvArea (m : List (BitVec 64)) : SMap (BitVec 64) := (m.zip (List.range 8)).foldl (fun a p => SMap.setD a p.2 p.1 0) []

theorem getD_foldl_area (m : List (BitVec 64)) : ∀ (b n : Nat) (a : SMap (BitVec 64)) (q : Nat),
    SMap.getD ((m.zip (List.range' b n)).foldl (fun a p => SMap.setD a p.2 p.1 0) a) q 0 =
      if b ≤ q ∧ q < b + min m.length n then m.getD (q - b) 0 else SMap.getD a q 0 := by
  induction m with
  | nil => intro b n a q; rw [if_neg (by simp)]; rfl
  | cons w t ih =>
    intro b n a q
    cases n with
    | zero => rw [if_neg (by simp)]; rfl
    | succ n =>
      rw [List.range'_succ, List.zip_cons_cons, List.foldl_cons, ih, List.length_cons]
      by_cases hq : q = b
      · subst hq
        rw [if_neg (by omega), if_pos (by omega), SMap.getD_setD_self, Nat.sub_self, List.getD_cons_zero]
      · rw [SMap.getD_setD_of_ne _ _ _ _ hq]
        refine if_ctx_congr (by omega) (fun h => ?_) (fun _ => rfl)
        rw [show q - b = q - (b + 1) + 1 by omega, List.getD_cons_succ]

theorem getD_recvArea {m : List (BitVec 64)} (hm : m.length ≤ 8) {q : Nat} (hq : q < m.length) :
    SMap.getD (recvArea m) q 0 = m.getD q 0 := by
  rw [recvArea, List.range_eq_range', getD_foldl_area, if_pos (by omega), Nat.sub_zero]

section Clauses
variable {x : Ctx} {s : State} (hi : s.canIssue x = true)
include hi

section Commit
variable {gd : GReg} {n1 : Fin 8} {ch : Fin 1024} (h : s.fetches x (wChan 0x25 gd.val n1.val ch.val) = true)
include h

theorem exec_chc_denied
    (hw : ((s.atSlot x).ridgesOf (ctxKey x)).find? (fun r => (s.atSlot x).isWriter (ctxKey x) r ch.val) = none) :
    exec (.chc x gd ch n1) s = .next ((s.atSlot x).faultAt x cChannel 2 ((wChan 0x25 gd.val n1.val ch.val).setWidth 64)) := by
  refine (congrArg _ (State.issue_of hi h (permits_wChan x (by decide) (by decide) gd n1.isLt ch.isLt) _)).trans ?_
  simp only [hw]

variable {r : Nat} (hw : ((s.atSlot x).ridgesOf (ctxKey x)).find? (fun r => (s.atSlot x).isWriter (ctxKey x) r ch.val) = some r)
include hw

theorem exec_chc_room (hroom : ((s.atSlot x).chan (chanIx r ch.val)).length < (s.atSlot x).get .spurChCfgDepth (chanIx r ch.val)) :
    exec (.chc x gd ch n1) s = .next ((((s.atSlot x).published (ctxKey x) r ch.val
      ((List.range (n1.val + 1)).map (fun m => SMap.getD ((s.atSlot x).thr (ctxKey x)).staging m 0))).setGpr x gd 0).retire x) := by
  refine (congrArg _ (State.issue_of hi h (permits_wChan x (by decide) (by decide) gd n1.isLt ch.isLt) _)).trans ?_
  simp only [hw, if_pos hroom]
  rfl

theorem exec_chc_full (hfull : (s.atSlot x).get .spurChCfgDepth (chanIx r ch.val) ≤ ((s.atSlot x).chan (chanIx r ch.val)).length) :
    exec (.chc x gd ch n1) s = .next ((((s.atSlot x).bump .spurChStaFull (chanIx r ch.val)).setGpr x gd 1).retire x) := by
  refine (congrArg _ (State.issue_of hi h (permits_wChan x (by decide) (by decide) gd n1.isLt ch.isLt) _)).trans ?_
  simp only [hw, if_neg (Nat.not_lt.2 hfull)]

end Commit

section Receive
variable {gd : GReg} {ch : Fin 1024} (h : s.fetches x (wChan 0x26 gd.val 0 ch.val) = true)
include h

theorem exec_chr_denied
    (hr : ((s.atSlot x).ridgesOf (ctxKey x)).find? (fun r => (s.atSlot x).isReader (ctxKey x) r ch.val) = none) :
    exec (.chr x gd ch) s = .next ((s.atSlot x).faultAt x cChannel 2 ((wChan 0x26 gd.val 0 ch.val).setWidth 64)) := by
  refine (congrArg _ (State.issue_of hi h (permits_wChan x (by decide) (by decide) gd (by decide) ch.isLt) _)).trans ?_
  simp only [hr]

variable {r : Nat} (hr : ((s.atSlot x).ridgesOf (ctxKey x)).find? (fun r => (s.atSlot x).isReader (ctxKey x) r ch.val) = some r)
include hr

theorem exec_chr_empty (hno : (s.atSlot x).chan (chanIx r ch.val) = [] ∨ (s.atSlot x).chanSeen (ctxKey x) (chanIx r ch.val) = 0) :
    exec (.chr x gd ch) s = .next (((s.atSlot x).setGpr x gd 0).retire x) := by
  refine (congrArg _ (State.issue_of hi h (permits_wChan x (by decide) (by decide) gd (by decide) ch.isLt) _)).trans ?_
  simp only [hr]
  split
  · rfl
  · rfl
  · next m rest n hm hn hne => exact absurd hno (by simp_all)

theorem exec_chr_message {m : List (BitVec 64)} {ms : List (List (BitVec 64))} (hm : (s.atSlot x).chan (chanIx r ch.val) = m :: ms)
    (hseen : (s.atSlot x).chanSeen (ctxKey x) (chanIx r ch.val) ≠ 0) : exec (.chr x gd ch) s =
      .next (((((s.atSlot x).setChan (chanIx r ch.val) ms).modThr (ctxKey x) (fun t => { t with receive := recvArea m })).setGpr x gd
        (BitVec.ofNat 64 m.length)).retire x) := by
  refine (congrArg _ (State.issue_of hi h (permits_wChan x (by decide) (by decide) gd (by decide) ch.isLt) _)).trans ?_
  obtain ⟨n, hn⟩ := Nat.exists_eq_succ_of_ne_zero hseen
  simp only [hr, hm, hn]
  rfl

end Receive

/-! ### SEV, TCMP_ARM and WFE (R137-R139, R179) -/

section Sev
variable {core : Fin 16} {cx : Fin 32} {j : Fin 8} (h : s.fetches x (wSev core.val cx.val j.val) = true)
include h

theorem exec_sev_illegal (hcx : 16 < cx.val) : exec (.sev x core cx j) s = .next ((s.atSlot x).illegal x (wSev core.val cx.val j.val)) :=
  (congrArg _ (State.issue_of hi h (permits_wSev x core cx j) _)).trans (congrArg _ (if_pos hcx))

variable (hcx : cx.val ≤ 16)
include hcx

theorem exec_sev_raises {r : Nat} (hr : ((s.atSlot x).ridgesOf (ctxKey x)).find?
      (fun r => (s.atSlot x).sevOk (ctxKey x) r (sevKey r core.val cx.val) j.val) = some r) :
    exec (.sev x core cx j) s = .next (((s.atSlot x).retire x).raiseEvt (sevKey r core.val cx.val) (13 + j.val)) := by
  refine (congrArg _ (State.issue_of hi h (permits_wSev x core cx j) _)).trans ?_
  simp only [if_neg (Nat.not_lt.2 hcx), hr]

theorem exec_sev_counted {r : Nat} {rs : List Nat} (hrs : (s.atSlot x).ridgesOf (ctxKey x) = r :: rs)
    (hr : ((s.atSlot x).ridgesOf (ctxKey x)).find?
      (fun r => (s.atSlot x).sevOk (ctxKey x) r (sevKey r core.val cx.val) j.val) = none) :
    exec (.sev x core cx j) s = .next (((s.atSlot x).bump .spurCoreSevrefRefused (16 * r + core.val)).retire x) := by
  refine (congrArg _ (State.issue_of hi h (permits_wSev x core cx j) _)).trans ?_
  simp only [if_neg (Nat.not_lt.2 hcx), hr]
  simp only [hrs]

end Sev

end Clauses

theorem ltReached_truth (a b : BitVec 64) : truth (ltReached a b) = if 0 ≤ (a - b).toInt then 1 else 0 :=
  truth_of_iff decide_eq_true_iff

section Wait
variable {x : Ctx} {s : State} {w : BitVec 32} {must : State → Bool} (hend : (s.thr (ctxKey x)).slotEnd ≤ s.elapsed)
include hend

/-- An instruction that need not wait issues. -/
theorem State.issueWait_issues (hm : must s = false) (wait h : State → State) : s.issueWait x w must wait h = s.issue x w h := by
  rw [State.issueWait, State.advanceAt_of_reached s hend, hm, Bool.and_false]
  rfl

theorem State.issueWait_waits (hr : s.runs x = true) (hf : s.fetches x w = true) (hp : permits x (wOp w) = true) (hm : must s = true)
    (wait h : State → State) : s.issueWait x w must wait h = wait s := by
  rw [State.issueWait, State.advanceAt_of_reached s hend, hr, hf, hp, hm]
  rfl

end Wait

theorem permits_wfe (x : Ctx) (gd ga : GReg) : permits x (wOp (wGI 0x28 gd.val ga.val 0)) = true := by
  rw [wOp_wGI (by decide) gd.isLt ga.isLt]
  exact permits_of_between x (by decide) (by decide)

/-- Does a WFE of mask `m` wait: the mask is one it may have, and none of its inputs is pending (R137)? -/
def wfeWaits (x : Ctx) (m : BitVec 32) (s : State) : Bool := (isCc (ctxKey x) || m != 0) && s.pendingOf (ctxKey x) &&& m == 0

section Wfe
variable {x : Ctx} {s : State} {gd ga : GReg} (hf : s.fetches x (wGI 0x28 gd.val ga.val 0) = true)
  (hend : (s.thr (ctxKey x)).slotEnd ≤ s.elapsed)
include hf hend

theorem exec_wfe_illegal (hi : s.canIssue x = true) (hcc : isCc (ctxKey x) = false) (hm : wfeMask x (s.gpr x ga) = 0) :
    exec (.wfe x gd ga) s = .next ((s.atSlot x).illegal x (wGI 0x28 gd.val ga.val 0)) := by
  have hno : wfeWaits x (wfeMask x (s.gpr x ga)) s = false := by rw [wfeWaits, hcc, hm]; rfl
  have hbad : (!isCc (ctxKey x) && wfeMask x (s.gpr x ga) == 0) = true := by rw [hcc, hm]; rfl
  exact (congrArg _ ((State.issueWait_issues hend hno _ _).trans (State.issue_of hi hf (permits_wfe x gd ga) _))).trans (congrArg _ (if_pos hbad))

theorem exec_wfe_waits (hr : s.runs x = true) (hm : isCc (ctxKey x) = true ∨ wfeMask x (s.gpr x ga) ≠ 0)
    (hno : s.pendingOf (ctxKey x) &&& wfeMask x (s.gpr x ga) = 0) :
    exec (.wfe x gd ga) s = .next (s.modThr (ctxKey x) (fun t => { t with st := 2, mask := wfeMask x (s.gpr x ga) })) := by
  have hw : wfeWaits x (wfeMask x (s.gpr x ga)) s = true := by
    rw [wfeWaits, hno, Bool.and_eq_true, Bool.or_eq_true, bne_iff_ne]
    exact ⟨hm, rfl⟩
  exact congrArg _ (State.issueWait_waits hend hr hf (permits_wfe x gd ga) hw _ _)

theorem exec_wfe_takes (hi : s.canIssue x = true) (hp : s.pendingOf (ctxKey x) &&& wfeMask x (s.gpr x ga) ≠ 0) :
    exec (.wfe x gd ga) s = .next ((((s.atSlot x).modThr (ctxKey x) (fun t =>
      { t with pending := t.pending &&& ~~~wfeMask x (s.gpr x ga), mask := wfeMask x (s.gpr x ga) })).setGpr x gd
        (((s.atSlot x).pendingOf (ctxKey x) &&& wfeMask x (s.gpr x ga)).setWidth 64)).retire x) := by
  have hm : wfeMask x (s.gpr x ga) ≠ 0 := fun h => hp (by rw [h]; exact BitVec.and_zero)
  have hno : wfeWaits x (wfeMask x (s.gpr x ga)) s = false := by rw [wfeWaits, beq_false_of_ne hp, Bool.and_false]
  have hgood : ¬(!isCc (ctxKey x) && wfeMask x (s.gpr x ga) == 0) = true := by
    rw [beq_false_of_ne hm, Bool.and_false]
    exact Bool.false_ne_true
  exact (congrArg _ ((State.issueWait_issues hend hno _ _).trans (State.issue_of hi hf (permits_wfe x gd ga) _))).trans (congrArg _ (if_neg hgood))

end Wfe

/-! ### Timers (R139) -/

section Timer
variable {x : Ctx} {tm : Fin 4} {s : State}

theorem exec_timerFire_off (h : SMap.find (s.thr (ctxKey x)).timers tm.val = none) : exec (.timerFire x tm) s = .next s := by
  have hdef : exec (.timerFire x tm) s = execTimerFire x tm s := rfl
  rw [hdef, execTimerFire, h]

theorem exec_timerFire_due {a : BitVec 64} (h : SMap.find (s.thr (ctxKey x)).timers tm.val = some a) (ha : ltDiff a (s.ctxLt x) ≤ 0) :
    exec (.timerFire x tm) s = .next ((s.modThr (ctxKey x) (fun th => { th with timers := SMap.put th.timers tm.val none })).raiseEvt
      (ctxKey x) (1 + tm.val)) := by
  have hdef : exec (.timerFire x tm) s = execTimerFire x tm s := rfl
  rw [hdef, execTimerFire, h]
  simp only [s.advance_of_nonpos ha]

end Timer

/-- Settles O26: channels by the party that acts and the room, WFE by what is pending, a timer by its target. -/
theorem channelAndEventResults : Obligations.ChannelAndEventResults := by
  unfold Obligations.ChannelAndEventResults
  intro x ga gb gd j n1 ch core cx tm s k t
  have time {op m : Nat} (hl : 0x24 ≤ op) (hh : op ≤ 0x2B) (hm : m < 2048) (ga gb : GReg) := permits_time x hl hh gd ga gb hm
  refine ⟨fun hi => ⟨fun h => ?_, fun h => ?_, fun h => ⟨exec_chc_denied hi h, fun r hw => ⟨fun hroom => ?_, exec_chc_full hi h hw⟩⟩,
      fun h => ⟨exec_chr_denied hi h, fun r hr => ⟨exec_chr_empty hi h hr, fun m ms hm hseen hlen => ?_⟩⟩,
      fun h => ⟨exec_sev_illegal hi h, fun r hcx => exec_sev_raises hi h hcx, fun r rs hcx => exec_sev_counted hi h hcx⟩,
      fun h => ?_, fun h => ?_, fun h => ?_, fun h => ⟨fun ha => ?_, fun ha => ?_⟩, fun h => ?_⟩,
    fun hf hend => ?_,
    exec_timerFire_off, fun a ha hdue => ?_⟩
  · exact congrArg _ (State.issue_of hi h (permits_wChan x (by decide) (by decide) ga j.isLt (by decide)) _)
  · exact congrArg _ (State.issue_of hi h (permits_wChan x (by decide) (by decide) gd j.isLt (by decide)) _)
  · exact ⟨_, exec_chc_room hi h hw hroom, t.published_chan_self k r ch.val _, fun m hm => t.published_chan_of_ne k r ch.val _ hm,
      t.published_staging k r ch.val _⟩
  · exact ⟨_, exec_chr_message hi h hr hm hseen, t.chan_setChan_self _ ms, fun q hq => t.chan_setChan_of_ne _ ms hq,
      fun q hq => by rw [State.thr_modThr_self]; exact getD_recvArea hlen hq⟩
  · exact congrArg _ (State.issue_of hi h (time (by decide) (by decide) (by decide) 0 0) _)
  · exact congrArg _ (State.issue_of hi h (time (by decide) (by decide) (by decide) 0 0) _)
  · rw [← ltReached_truth]
    exact congrArg _ (State.issue_of hi h (time (by decide) (by decide) (by decide) ga gb) _)
  · exact (congrArg _ (State.issue_of hi h (time (by decide) (by decide) (by omega) ga 0) _)).trans (congrArg _ (if_pos ha))
  · exact (congrArg _ (State.issue_of hi h (time (by decide) (by decide) (by omega) ga 0) _)).trans
      (congrArg _ (if_neg (Int.not_lt.2 ha)))
  · exact congrArg _ (State.issue_of hi h (time (by decide) (by decide) (by omega) 0 0) _)
  · intro m
    refine ⟨exec_wfe_illegal hf hend, fun hr hm hno => ⟨_, exec_wfe_waits hf hend hr hm hno, ?_⟩, exec_wfe_takes hf hend⟩
    dsimp only
    rw [State.thr_modThr_self]
    exact ⟨rfl, rfl, rfl, s.modThr_keepsBut k _⟩
  · let v := s.modThr k (fun th => { th with timers := SMap.put th.timers tm.val none })
    obtain ⟨st, hst⟩ := v.thr_raiseEvt_self k (1 + tm.val)
    rw [State.thr_modThr_self] at hst
    refine ⟨_, exec_timerFire_due ha hdue, ?_, ?_, fun h2 hmask => ?_, (s.modThr_keepsBut k _).trans (v.raiseEvt_keepsBut k _)⟩
    · rw [hst]
      exact SMap.find_put_self (s.thr k).timers tm.val none
    · rw [hst]
    · exact v.raiseEvt_ready k (1 + tm.val) (by omega) (by rw [State.thr_modThr_self]; exact h2) (by rw [State.thr_modThr_self]; exact hmask)

end Sys2Proof.Machine
end

section
/-! PROOFS. The supervisor of a ridge, and the dispatcher: hand-over of frames, the dispatch queue, budgets and wait cycles
(R144-R149, R154, R161). -/

namespace Sys2Proof.Machine

/-! ### What changes of Spur the contexts alone -/

/-- `t` differs from `s` at most in the contexts whose keys `p` names, and in the free values used. -/
structure OnlyContexts (p : Nat → Prop) (s t : State) : Prop where
  keeps : KeepsBut [.spur, .freeCtr] s t
  spur : { t.spur with threads := s.spur.threads } = s.spur
  others : ∀ j, ¬p j → t.thr j = s.thr j

namespace OnlyContexts
variable {p : Nat → Prop} {s t : State}

theorem refl (s : State) : OnlyContexts p s s := ⟨KeepsBut.refl _ s, rfl, fun _ _ => rfl⟩

theorem modThr (h : OnlyContexts p s t) {k : Nat} (hk : p k) (f : Thread → Thread) : OnlyContexts p s (t.modThr k f) :=
  ⟨h.keeps.trans ((t.modThr_keepsBut k f).mono (by simp)), h.spur,
    fun j hj => (t.thr_modThr_of_ne f (fun e : j = k => hj (e ▸ hk))).trans (h.others j hj)⟩

theorem wake (h : OnlyContexts p s t) {k : Nat} (hk : p k) : OnlyContexts p s (t.wake k) := by
  rcases t.wake_cases k with hw | hw <;> rw [hw]
  · exact h
  · exact h.modThr hk _

theorem raiseEvt (h : OnlyContexts p s t) {k : Nat} (hk : p k) (i : Nat) : OnlyContexts p s (t.raiseEvt k i) := (h.modThr hk _).wake hk

theorem trap (h : OnlyContexts p s t) {k : Nat} (hk : p k) (cause : Nat) (pc val : BitVec 64) : OnlyContexts p s (t.trap k cause pc val) :=
  h.modThr hk _

theorem useFree (h : OnlyContexts p s t) (n : Nat) : OnlyContexts p s (t.useFree n) :=
  ⟨h.keeps.trans ((t.useFree_keepsBut n).mono (by simp)), h.spur, h.others⟩

theorem mono {q : Nat → Prop} (h : OnlyContexts p s t) (hq : ∀ j, p j → q j) : OnlyContexts q s t :=
  ⟨h.keeps, h.spur, fun j hj => h.others j (fun hp => hj (hq j hp))⟩

theorem dqueue (h : OnlyContexts p s t) (g : Nat) : t.dqueue g = s.dqueue g :=
  (congrArg (fun x : Spur => SMap.getD x.dq g []) h.spur :)

theorem images (h : OnlyContexts p s t) : t.spur.images = s.spur.images :=
  (congrArg (fun x : Spur => x.images) h.spur :)

theorem get (h : OnlyContexts p s t) (f : Fld) (i : Nat) : t.get f i = s.get f i := State.get_of_regs (h.keeps .regs (by decide)) f i

theorem cairn (h : OnlyContexts p s t) : t.cairn = s.cairn := h.keeps .cairn (by decide)

end OnlyContexts

/-! ### An event to a supervisor (R161) -/

section Tell
variable (s : State) (r n : Nat)

theorem State.interrupt_only (k : Nat) : OnlyContexts (· = ccKey k) s (s.interrupt k n) := by
  have hu : OnlyContexts (· = ccKey k) s (s.raiseEvt (ccKey k) (26 + n)) :=
    OnlyContexts.raiseEvt (p := fun j => j = ccKey k) (OnlyContexts.refl s) rfl _
  unfold State.interrupt
  dsimp only
  split
  · exact OnlyContexts.refl s
  · split
    · exact ((hu.modThr (k := ccKey k) rfl _).trap (k := ccKey k) rfl _ _ _).useFree 1
    · exact hu

/-- An event to a supervisor leaves the threads and background contexts. -/
theorem State.tellSupervisor_only : OnlyContexts (8192 ≤ ·) s (s.tellSupervisor r n) := by
  unfold State.tellSupervisor
  split
  · next k _ => exact (s.interrupt_only n k).mono (fun j hj => hj ▸ Nat.le_add_right 8192 k)
  · exact OnlyContexts.refl s

end Tell

theorem thrKey_lt {c i : Nat} (hc : c < 256) (hi : i < 16) : thrKey c i < 8192 := by unfold thrKey; omega

/-! ### The idle member (R144) -/

theorem foldl_some_mem {α : Type} {f : Option α → α → Option α} (hf : ∀ b x k, f b x = some k → b = some k ∨ k = x) (l : List α) :
    ∀ (b : Option α) {k : α}, l.foldl f b = some k → b = some k ∨ k ∈ l := by
  induction l with
  | nil => exact fun b k h => .inl h
  | cons x l ih =>
    intro b k h
    rcases ih (f b x) h with h | h
    · rcases hf b x k h with h | h
      · exact .inl h
      · exact .inr (h ▸ List.mem_cons_self)
    · exact .inr (List.mem_cons_of_mem x h)

/-- The member the dispatcher chooses is one that is idle. -/
theorem State.chooseIdle_mem {s : State} {g k : Nat} (h : s.chooseIdle g = some k) : k ∈ s.members g ∧ s.idleThr k = true := by
  have hmem : k ∈ (s.members g).filter s.idleThr := by
    refine (foldl_some_mem (fun b x j hj => ?_) _ none h).resolve_left (by simp)
    cases b with
    | none => exact .inr (Option.some.inj hj).symm
    | some b =>
      dsimp only at hj
      split at hj
      · exact .inr (Option.some.inj hj).symm
      · exact .inl hj
  exact List.mem_filter.1 hmem

/-- A group with an idle member has one that is up. -/
theorem State.membersUp_of_chooseIdle {s : State} {g k : Nat} (h : s.chooseIdle g = some k) : s.membersUp g ≠ [] := by
  obtain ⟨hmem, hidle⟩ := State.chooseIdle_mem h
  have hup : s.coreUp (keyCore k) = true := by
    rw [State.idleThr, State.freeThr, Bool.and_eq_true, Bool.and_eq_true] at hidle
    exact hidle.1.2
  exact List.ne_nil_of_mem (List.mem_filter.2 ⟨hmem, by rw [hup, Bool.true_or]⟩)

/-! ### Dispatch (R144, R146) -/

section Dispatch
variable {s : State} {fid q : Nat} {f : Frame} {im : Image}

theorem State.serveQueue_nil (h : s.dqueue q = []) : s.serveQueue q = s := by
  rw [State.serveQueue, h, State.serveList]

theorem State.serveQueue_one {i k : Nat} (h : s.dqueue q = [i]) (hk : s.chooseIdle q = some k) :
    s.serveQueue q = (s.setDq q []).handTo i k := by
  rw [State.serveQueue, h, State.serveList, hk]
  rfl

theorem State.dqueue_setDq (s : State) (g : Nat) (l : List Nat) : (s.setDq g l).dqueue g = l := SMap.getD_setD_self _ _ _ _

theorem State.get_setDq (s : State) (g : Nat) (l : List Nat) {f : Fld} (hf : f.reg ≠ .spurGrpSta) (i : Nat) :
    (s.setDq g l).get f i = s.get f i := (State.get_set_of_ne _ _ (.inl hf)).trans (State.get_of_regs rfl f i)

/-- What a hand-over does to the thread and counts. -/
theorem State.handTo_results (hf : s.frame? fid = some f) {k : Nat} (hg : (s.thr k).group = some q)
    (him : SMap.find s.spur.images (grpImg q (s.bankFor q f.lt)) = some im) : let u := s.handTo fid k
    (u.thr k).frame = some fid ∧ (u.thr k).st = 1 ∧ (u.thr k).index = im.entry ∧ (u.thr k).budLimit = im.budget * 65536 ∧
      (u.thr k).budSince = some s.elapsed ∧ (u.thr k).slots = [] ∧
      u.get .spurGrpFramesFrames q = (s.get .spurGrpFramesFrames q + 1) % 2 ^ 64 ∧ ∀ j, j ≠ k → u.thr j = s.thr j := by
  intro u
  have hthr : ∀ (t : State) (fld : Fld) (i j : Nat), (t.bump fld i).thr j = t.thr j := fun _ _ _ _ => rfl
  simp only [u, State.handTo, hf, hg, him, hthr, State.thr_modThr_self, true_and]
  exact ⟨rfl, rfl, State.get_bump_self _ _ _ _ (by decide) (by decide), fun j hj => State.thr_modThr_of_ne _ _ hj⟩

variable (him : SMap.find s.spur.images (grpImg q (s.bankFor q f.lt)) = some im)
include him

/-- With an image, a member left and an empty queue a frame goes to the idle member or into the queue. -/
theorem State.dispatchTo_of_empty (hq : s.dqueue q = []) (hup : s.membersUp q ≠ []) : s.dispatchTo fid f q =
    match s.chooseIdle q with
    | some k => s.handTo fid k
    | none => (((s.setDq q [fid]).putFrame fid { f with stage := .dqueue q }).bump .spurGrpDqwaitWaits q).dispatchRec q := by
  rw [State.dispatchTo, him, Option.isNone_some, if_neg Bool.false_ne_true, if_neg (by simpa using hup)]
  simp only [State.serveQueue_nil hq, hq]
  rfl

theorem State.dispatchTo_idle (hq : s.dqueue q = []) {k : Nat} (hk : s.chooseIdle q = some k) : s.dispatchTo fid f q = s.handTo fid k := by
  rw [State.dispatchTo_of_empty him hq (State.membersUp_of_chooseIdle hk), hk]

theorem State.dispatchTo_no_members (hup : s.membersUp q = []) : s.dispatchTo fid f q = s.dispose fid dFault := by
  rw [State.dispatchTo, him, Option.isNone_some, if_neg Bool.false_ne_true, if_pos (by rw [hup]; rfl)]

omit him in
theorem State.dispatchRec_results (s : State) (q : Nat) : (s.dispatchRec q).dqueue q = s.dqueue q ∧
    (∀ fld i, (s.dispatchRec q).get fld i = s.get fld i) ∧
    ∃ e, (s.dispatchRec q).cairn.raised = s.cairn.raised ++ [e] ∧ e.code = .dispatchWait := by
  have htell := (s.cairnRec .dispatchWait (some ⟨.group, q⟩) (leBytes q 2 ++ leBytes (s.dqueue q).length 1)).tellSupervisor_only (q / 256) 2
  exact ⟨htell.dqueue q, htell.get, _, congrArg Cairn.raised htell.cairn, rfl⟩

/-- Without an idle member a frame is queued, counted and recorded (R146). -/
theorem State.dispatchTo_waits (hq : s.dqueue q = []) (hk : s.chooseIdle q = none) (hup : s.membersUp q ≠ []) :
    (s.dispatchTo fid f q).dqueue q = [fid] ∧
      (s.dispatchTo fid f q).get .spurGrpDqwaitWaits q = (s.get .spurGrpDqwaitWaits q + 1) % 2 ^ 64 ∧
      ∃ e, (s.dispatchTo fid f q).cairn.raised = s.cairn.raised ++ [e] ∧ e.code = .dispatchWait := by
  rw [State.dispatchTo_of_empty him hq hup, hk]
  obtain ⟨hdq, hget, hrec⟩ :=
    (((s.setDq q [fid]).putFrame fid { f with stage := .dqueue q }).bump .spurGrpDqwaitWaits q).dispatchRec_results q
  refine ⟨?_, ?_, hrec⟩
  · rw [hdq, State.dqueue, State.bump_spur, State.putFrame_spur]
    exact s.dqueue_setDq q [fid]
  · rw [hget, State.get_bump_self _ _ _ _ (by decide) (by decide), State.get_of_regs (State.putFrame_regs _ _ _),
      State.get_setDq _ _ _ (by decide)]
    rfl

end Dispatch

/-! ### The commands of the dispatcher -/

section Commands
variable {s : State} {fid : Nat}

theorem exec_dispatch_none (h : s.frame? fid = none) : exec (.dispatch fid) s = .next s := by
  have hdef : exec (.dispatch fid) s = execDispatch fid s := rfl
  rw [hdef, execDispatch, h]

section Some
variable {f : Frame} {p : Nat} {v : ConVer} (hf : s.frame? fid = some f) (hp : f.port = some p) (hv : s.frameVer f = some v)
include hf hp hv

theorem exec_dispatch_of_ne (h : f.stage ≠ .matched) : exec (.dispatch fid) s = .next s := by
  have hdef : exec (.dispatch fid) s = execDispatch fid s := rfl
  rw [hdef, execDispatch, hf]
  simp only [hp, hv, if_neg h]

/-- A matched frame is taken at its dispatch instant. -/
theorem exec_dispatch_matched (h : f.stage = .matched) {f' : Frame}
    (hf' : (s.advanceTo (f.lt + BitVec.ofNat 64 (s.dispatchUnits p))).frame? fid = some f') : exec (.dispatch fid) s =
      .next ((s.advanceTo (f.lt + BitVec.ofNat 64 (s.dispatchUnits p))).dispatchTo fid f' v.body.group) := by
  have hdef : exec (.dispatch fid) s = execDispatch fid s := rfl
  rw [hdef, execDispatch, hf]
  simp only [hp, hv, if_pos h, hf']

end Some

theorem exec_dispatchQueued_nil {g : Group} (h : s.dqueue g.val = []) : exec (.dispatchQueued g) s = .next s := by
  have hdef : exec (.dispatchQueued g) s = execDispatchQueued g s := rfl
  rw [hdef, execDispatchQueued, h, List.isEmpty_nil, if_pos rfl, State.serveQueue_nil h]

theorem exec_dispatchQueued_some {g : Group} (h : s.dqueue g.val ≠ []) : exec (.dispatchQueued g) s =
    .next ((s.advanceAt (s.firstFree g.val)).serveQueue g.val) := by
  have hdef : exec (.dispatchQueued g) s = execDispatchQueued g s := rfl
  rw [hdef, execDispatchQueued, if_neg (by simpa using h)]

end Commands

/-! ### Budgets (R148, R149) -/

section Budget
variable {s : State} {c : Core} {t : Fin 16}

theorem exec_budgetExpiry_none (h : (s.thr (thrKey c.val t.val)).frame = none) : exec (.budgetExpiry c t) s = .next s := by
  have hdef : exec (.budgetExpiry c t) s = execBudgetExpiry c t s := rfl
  rw [hdef, execBudgetExpiry]
  simp only [h]

theorem exec_budgetExpiry_some {i q n a : Nat} {im : Image} (hf : (s.thr (thrKey c.val t.val)).frame = some i)
    (hg : (s.thr (thrKey c.val t.val)).group = some q) (him : s.imageOf (thrKey c.val t.val) = some im)
    (hn : s.budgetLeft (thrKey c.val t.val) = some n) (ha : (s.thr (thrKey c.val t.val)).budSince = some a) :
    exec (.budgetExpiry c t) s = .next ((s.advance n).expire (thrKey c.val t.val) i q im) := by
  have hdef : exec (.budgetExpiry c t) s = execBudgetExpiry c t s := rfl
  rw [hdef, execBudgetExpiry]
  simp only [hf, hg, him, hn, ha]

end Budget

/-- A frame that is disposed of leaves the registers. -/
theorem State.get_dispose (s : State) (fid d : Nat) (f : Fld) (i : Nat) : (s.dispose fid d).get f i = s.get f i :=
  State.get_of_regs ((s.dispose_results fid d).1 .regs (by decide)) f i

theorem State.get_setAnnot (s : State) (fid : Nat) (a : BitVec 64) (f : Fld) (i : Nat) : (s.setAnnot fid a).get f i = s.get f i := by
  unfold State.setAnnot
  split <;> rfl

/-- A frame whose budget expires goes to ovr_q's port where the image says so, and else ends (R149). -/
def State.overrun (s : State) (fid : Nat) (im : Image) : State :=
  if im.overrun then
    match s.frame? fid with
    | some f => s.putFrame fid { f with stage := .emitted, emitAt := s.elapsed, dest := .queue (im.ovrQ / 16), ts := none, launch := none }
    | none => s
  else s.dispose fid dBudget

theorem State.get_overrun (s : State) (fid : Nat) (im : Image) (f : Fld) (i : Nat) : (s.overrun fid im).get f i = s.get f i := by
  unfold State.overrun
  split
  · split <;> rfl
  · exact s.get_dispose fid _ f i

theorem State.expire_running {s : State} {k : Nat} (h4 : (s.thr k).st ≠ 4) (h5 : (s.thr k).st ≠ 5) (fid g : Nat) (im : Image) :
    s.expire k fid g im = (((((s.setAnnot fid (faultAnnot (((s.frame? fid).map (·.annot)).getD 0) cBudget (s.thr k).index)).bump
      .spurGrpBudgetOverruns g).overrun fid im).modThr k (fun t => { t with staging := [], slots := [] })).idleWait k) := by
  unfold State.expire
  simp only [if_neg h4, if_neg h5]
  rfl

theorem State.expire_results {s : State} {k : Nat} (h4 : (s.thr k).st ≠ 4) (h5 : (s.thr k).st ≠ 5) (fid g : Nat) (im : Image) :
    let u := s.expire k fid g im
    (u.thr k).frame = none ∧ (u.thr k).st = 2 ∧ (u.thr k).mask = 1 ∧ (u.thr k).staging = [] ∧ (u.thr k).slots = [] ∧
      u.get .spurGrpBudgetOverruns g = (s.get .spurGrpBudgetOverruns g + 1) % 2 ^ 64 := by
  intro u
  have hu : u = _ := State.expire_running h4 h5 fid g im
  rw [hu, State.idleWait, State.thr_modThr_self, State.thr_modThr_self]
  refine ⟨rfl, rfl, rfl, rfl, rfl, ?_⟩
  rw [State.get_of_regs (State.modThr_regs _ _ _), State.get_of_regs (State.modThr_regs _ _ _), State.get_overrun,
    State.get_bump_self _ _ _ _ (by decide) (by decide), State.get_setAnnot]
  rfl

/-! ### Wait cycles (R154) -/

/-- The threads of a list are PARKED. -/
def State.park (s : State) (c : Nat) (l : List Nat) : State := l.foldl (fun s t => s.modThr (thrKey c t) (fun th => { th with st := 5 })) s

theorem State.park_keepsBut (s : State) (c : Nat) (l : List Nat) : KeepsBut [.spur] s (s.park c l) :=
  foldl_keepsBut (fun t _ => t.modThr_keepsBut _ _) l s

theorem State.st_park (c : Nat) (l : List Nat) : ∀ (s : State) (k : Nat), (∃ i ∈ l, k = thrKey c i) ∨ (s.thr k).st = 5 →
    ((s.park c l).thr k).st = 5 := by
  induction l with
  | nil => exact fun s k h => h.resolve_left (by simp)
  | cons x l ih =>
    intro s k h
    refine ih _ k ?_
    by_cases hk : k = thrKey c x
    · exact .inr (by rw [hk, State.thr_modThr_self])
    · rcases h with ⟨i, hi, hik⟩ | h
      · exact .inl ⟨i, (List.mem_cons.1 hi).resolve_left (fun e => hk (e ▸ hik)), hik⟩
      · exact .inr (by rw [State.thr_modThr_of_ne _ _ hk, h])

theorem State.mem_slotOwners {s : State} {c i : Nat} (hi : i < 16) (h : s.ownsSlot c i = true) : i ∈ s.slotOwners c :=
  List.mem_filter.2 ⟨List.mem_range.2 hi, h⟩

/-- The marks of a core's wait cycle in its own status and its ridge's. -/
def State.markCycle (s : State) (n : Nat) : State :=
  let s := s.set .spurCoreStaWaitCycle n 1
  s.set .spurRidgeStaWaitCycle (n / 16) (s.get .spurRidgeStaWaitCycle (n / 16) ||| 2 ^ (n % 16))

theorem State.markCycle_results (s : State) (n : Nat) : (s.markCycle n).get .spurCoreStaWaitCycle n = 1 ∧
    bitOf ((s.markCycle n).get .spurRidgeStaWaitCycle (n / 16)) (n % 16) = true := by
  let t := s.set .spurCoreStaWaitCycle n 1
  have hlt : t.get .spurRidgeStaWaitCycle (n / 16) ||| 2 ^ (n % 16) < 2 ^ 16 :=
    Nat.or_lt_two_pow (t.get_lt .spurRidgeStaWaitCycle (n / 16)) (Nat.pow_lt_pow_right (by decide) (Nat.mod_lt _ (by decide)))
  have hset : (s.markCycle n).get .spurRidgeStaWaitCycle (n / 16) = (t.get .spurRidgeStaWaitCycle (n / 16) ||| 2 ^ (n % 16)) % 2 ^ 16 :=
    State.get_set_self t .spurRidgeStaWaitCycle (n / 16) _ (by decide) (by decide)
  refine ⟨?_, ?_⟩
  · exact (State.get_set_of_ne t (f := .spurRidgeStaWaitCycle) _ (.inl (by decide))).trans
      (State.get_set_self s .spurCoreStaWaitCycle n 1 (by decide) (by decide))
  · rw [hset, Nat.mod_eq_of_lt hlt, bitOf_or_two_pow]

section Cycle
variable {c : Core} {s : State}

theorem exec_waitCycle_of_not (h : s.inWaitCycle c.val = false ∨ s.is .spurCoreStaWaitCycle c.val = true) : exec (.waitCycle c) s = .next s := by
  have hdef : exec (.waitCycle c) s = execWaitCycle c s := rfl
  rw [hdef, execWaitCycle]
  refine if_neg ?_
  rcases h with h | h <;> simp [h]

/-- A wait cycle's state: its threads are parked, the marks set, the record written and the supervisor told. -/
theorem exec_waitCycle (h : s.inWaitCycle c.val = true) (hno : s.is .spurCoreStaWaitCycle c.val = false) :
    ∃ data, exec (.waitCycle c) s =
      .next ((((s.park c.val (s.slotOwners c.val)).markCycle c.val).cairnRec .waitCycle (some ⟨.core, c.val⟩) data).tellSupervisor
        (c.val / 16) 0) := by
  have hdef : exec (.waitCycle c) s = execWaitCycle c s := rfl
  rw [hdef, execWaitCycle]
  exact ⟨_, if_pos (by rw [h, hno]; rfl)⟩

theorem completes_waitCycle (h : s.inWaitCycle c.val = true) (hno : s.is .spurCoreStaWaitCycle c.val = false) :
    Completes (.waitCycle c) s (fun u =>
      u.get .spurCoreStaWaitCycle c.val = 1 ∧ bitOf (u.get .spurRidgeStaWaitCycle (c.val / 16)) (c.val % 16) = true ∧
      (∀ i, i < 16 → s.ownsSlot c.val i = true → (u.thr (thrKey c.val i)).st = 5) ∧
      (∃ e, u.cairn.raised = s.cairn.raised ++ [e] ∧ e.code = .waitCycle) ∧
      KeepsBut [.regs, .spur, .cairn, .freeCtr] s u) := by
  obtain ⟨data, hexec⟩ := exec_waitCycle h hno
  let p := s.park c.val (s.slotOwners c.val)
  let m := p.markCycle c.val
  let r := m.cairnRec .waitCycle (some ⟨.core, c.val⟩) data
  have htell : OnlyContexts (8192 ≤ ·) r (r.tellSupervisor (c.val / 16) 0) := r.tellSupervisor_only _ _
  have hpark := s.park_keepsBut c.val (s.slotOwners c.val)
  have hmark : KeepsBut [.regs] p m := (p.set_keepsBut _ _ _).trans (State.set_keepsBut _ _ _ _)
  have hrec : KeepsBut [.cairn] m r := m.cairnRec_keepsBut _ _ _
  obtain ⟨hcore, hridge⟩ := p.markCycle_results c.val
  obtain ⟨e, he, hcode, -⟩ := m.cairnRec_raised .waitCycle (some ⟨.core, c.val⟩) data
  refine ⟨_, hexec, (htell.get _ _).trans hcore, ?_, fun i hi howns => ?_, ⟨e, ?_, hcode⟩, ?_⟩
  · rw [htell.get]; exact hridge
  · rw [htell.others _ (Nat.not_le.2 (thrKey_lt c.isLt hi))]
    exact State.st_park c.val _ s _ (.inl ⟨i, State.mem_slotOwners hi howns, rfl⟩)
  · rw [htell.cairn, he, hmark .cairn (by decide), hpark .cairn (by decide)]
  · exact (((hpark.mono (by simp)).trans (hmark.mono (by simp))).trans (hrec.mono (by simp))).trans (htell.keeps.mono (by simp))

end Cycle

/-- Settles O28: the dispatcher by the members of the group, a budget by the thread's state, a wait cycle by the core's. -/
theorem dispatchAndBudget : Obligations.DispatchAndBudget := by
  unfold Obligations.DispatchAndBudget
  intro fid g c t s
  exact ⟨exec_dispatch_none, fun f p v hf hp hv => ⟨exec_dispatch_of_ne hf hp hv, fun h f' => exec_dispatch_matched hf hp hv h⟩,
    fun f q im hf him hq => ⟨fun k => State.dispatchTo_idle him hq, State.dispatchTo_waits him hq, State.dispatchTo_no_members him,
      fun k hg => State.handTo_results hf hg him⟩,
    exec_dispatchQueued_nil, exec_dispatchQueued_some, fun i k => State.serveQueue_one,
    ⟨exec_budgetExpiry_none, fun i q im n a => exec_budgetExpiry_some, fun i q im h4 h5 => State.expire_results h4 h5 i q im⟩,
    exec_waitCycle_of_not, completes_waitCycle⟩

end Sys2Proof.Machine
end

section
/-! PROOFS. The control registers of a core: releases, doorbells, thread resets, slot-table swaps and debugger halts
(R133, R136, R155, R156, R159). -/

namespace Sys2Proof.Machine

/-! ### Runs of operations over the threads of a core -/

/-- What every operation of a run keeps holds after it. -/
theorem foldl_inv {α : Type} {P : State → Prop} {step : State → α → State} (h : ∀ s x, P s → P (step s x)) (l : List α) :
    ∀ s, P s → P (l.foldl step s) := by
  induction l with
  | nil => exact fun s hs => hs
  | cons x l ih => exact fun s hs => ih _ (h s x hs)

/-- What one operation of a run brings about, and the later ones keep, holds after the run, where the earlier ones keep what it needs. -/
theorem foldl_visit {α : Type} {P Q : State → Prop} {step : State → α → State} {i : α} (before : ∀ s x, x ≠ i → P s → P (step s x))
    (at_ : ∀ s, P s → Q (step s i)) (after : ∀ s x, x ≠ i → Q s → Q (step s x)) {l : List α} (hl : l.Nodup) (hi : i ∈ l) :
    ∀ s, P s → Q (l.foldl step s) := by
  induction l with
  | nil => exact absurd hi (by simp)
  | cons x l ih =>
    intro s hs
    obtain ⟨hx, hl⟩ := List.nodup_cons.1 hl
    by_cases h : x = i
    · subst h
      have hrest : ∀ (m : List α), x ∉ m → ∀ t, Q t → Q (m.foldl step t) := by
        intro m
        induction m with
        | nil => exact fun _ t ht => ht
        | cons y m ihm =>
          intro hm t ht
          exact ihm (fun hmem => hm (List.mem_cons_of_mem y hmem)) _ (after t y (fun e => hm (e ▸ List.mem_cons_self)) ht)
      exact hrest l hx _ (at_ s hs)
    · exact ih hl ((List.mem_cons.1 hi).resolve_left (Ne.symm h)) _ (before s x h hs)

theorem thrKey_inj {c i j : Nat} (h : thrKey c i = thrKey c j) : i = j := by unfold thrKey at h; omega

theorem thrKey_ne {c i j : Nat} (h : i ≠ j) : thrKey c i ≠ thrKey c j := fun e => h (thrKey_inj e)

/-! ### A core leaves its wait cycle (R155) -/

section Unpark
variable (s : State) (c : Nat)

/-- A parked thread leaves PARKED for WAIT. -/
def State.unparkThr (c : Nat) (s : State) (t : Nat) : State :=
  if (s.thr (thrKey c t)).st = 5 then (s.modThr (thrKey c t) (fun th => { th with st := 2 })).wake (thrKey c t) else s

/-- The marks of a core's wait cycle are cleared in its own status and its ridge's. -/
def State.unmarkCycle (s : State) (c : Nat) : State :=
  let w := s.get .spurRidgeStaWaitCycle (c / 16)
  (if bitOf w (c % 16) then s.set .spurRidgeStaWaitCycle (c / 16) (w - 2 ^ (c % 16)) else s).set .spurCoreStaWaitCycle c 0

theorem State.unpark_eq : s.unpark c = ((List.range 16).foldl (State.unparkThr c) s).unmarkCycle c := rfl

theorem State.unmarkCycle_spur : (s.unmarkCycle c).spur = s.spur := by
  unfold State.unmarkCycle
  dsimp only
  split <;> rfl

theorem State.unmarkCycle_keepsBut : KeepsBut [.regs] s (s.unmarkCycle c) := by
  unfold State.unmarkCycle
  dsimp only
  split
  · exact (s.set_keepsBut _ _ _).trans (State.set_keepsBut _ _ _ _)
  · exact s.set_keepsBut _ _ _

theorem State.get_unmarkCycle {f : Fld} (hf : f.hi < 64) (hcore : f.reg ≠ .spurCoreSta ∨ f.hi < 3 ∨ 3 < f.lo)
    (hridge : f.reg ≠ .spurRidgeSta ∨ 15 < f.lo) (i : Nat) : (s.unmarkCycle c).get f i = s.get f i := by
  unfold State.unmarkCycle
  dsimp only
  rw [State.get_set_apart _ _ _ _ (by decide) hf hcore]
  split
  · exact State.get_set_apart _ _ _ _ (by decide) hf (hridge.imp_right .inr)
  · rfl

theorem State.unparkThr_only (t : Nat) : OnlyContexts (· = thrKey c t) s (State.unparkThr c s t) := by
  unfold State.unparkThr
  split
  · exact ((OnlyContexts.refl (p := fun j => j = thrKey c t) s).modThr rfl _).wake rfl
  · exact OnlyContexts.refl s

theorem State.unparkThr_keepsBut (t : Nat) : KeepsBut [.spur] s (State.unparkThr c s t) := by
  unfold State.unparkThr
  split
  · exact (s.modThr_keepsBut _ _).trans (State.wake_keepsBut _ _)
  · exact KeepsBut.refl _ s

/-- Of a context leaving PARKED changes the state alone. -/
theorem State.thr_unparkThr (t j : Nat) : ∃ st, (State.unparkThr c s t).thr j = { s.thr j with st := st } := by
  unfold State.unparkThr
  split
  · obtain ⟨st, h⟩ := State.thr_wake (s.modThr (thrKey c t) (fun th => { th with st := 2 })) (thrKey c t) j
    rw [h, State.thr_modThr]
    split
    · next hj => exact ⟨st, by rw [hj]⟩
    · exact ⟨st, rfl⟩
  · exact ⟨_, rfl⟩

theorem State.unpark_keepsBut : KeepsBut [.regs, .spur] s (s.unpark c) :=
  ((foldl_keepsBut (fun t x => t.unparkThr_keepsBut c x) _ s).mono (by simp)).trans ((State.unmarkCycle_keepsBut _ c).mono (by simp))

theorem State.get_unpark {f : Fld} (hf : f.hi < 64) (hcore : f.reg ≠ .spurCoreSta ∨ f.hi < 3 ∨ 3 < f.lo)
    (hridge : f.reg ≠ .spurRidgeSta ∨ 15 < f.lo) (i : Nat) : (s.unpark c).get f i = s.get f i :=
  (State.get_unmarkCycle _ c hf hcore hridge i).trans
    (State.get_of_regs (foldl_keepsBut (fun t x => t.unparkThr_keepsBut c x) (List.range 16) s .regs (by decide)) f i)

theorem State.thr_unmarkCycle (j : Nat) : (s.unmarkCycle c).thr j = s.thr j := by rw [State.thr, s.unmarkCycle_spur c, State.thr]

/-- Of every context a core's leaving its wait cycle changes the state alone. -/
theorem State.thr_unpark (j : Nat) : ∃ st, (s.unpark c).thr j = { s.thr j with st := st } := by
  rw [State.unpark_eq, State.thr_unmarkCycle]
  refine foldl_inv (P := fun u => ∃ st, u.thr j = { s.thr j with st := st }) (fun u t hu => ?_) _ s ⟨_, rfl⟩
  obtain ⟨st, hst⟩ := hu
  obtain ⟨st', hst'⟩ := u.thr_unparkThr c t j
  exact ⟨st', by rw [hst', hst]⟩

/-- No thread of the core stays PARKED. -/
theorem State.st_unpark {i : Nat} (hi : i < 16) : ((s.unpark c).thr (thrKey c i)).st ≠ 5 := by
  rw [State.unpark_eq, State.thr_unmarkCycle]
  refine foldl_visit (P := fun _ => True) (Q := fun u => (u.thr (thrKey c i)).st ≠ 5) (fun _ _ _ _ => trivial) (fun u _ => ?_)
    (fun u t ht hu => ?_) List.nodup_range (List.mem_range.2 hi) s trivial
  · unfold State.unparkThr
    split
    · rcases State.st_wake (u.modThr (thrKey c i) (fun th => { th with st := 2 })) (thrKey c i) (thrKey c i) with h | h <;> rw [h]
      · rw [State.thr_modThr_self]; exact (by decide : (2 : Nat) ≠ 5)
      · decide
    · assumption
  · rwa [(u.unparkThr_only c t).others _ (thrKey_ne (Ne.symm ht))]

end Unpark

/-! ### SPUR_CORE_REL and SPUR_CORE_DB (R136, R155) -/

section Release
variable {c : Core} {v : BitVec 32} {s : State}

theorem exec_spurCoreDb (c : Core) (v : BitVec 32) (s : State) : exec (.spurCoreDb c v) s =
    .next (s.raiseEvt (thrKey c.val (bitsOf v.toNat 7 4)) (21 + bitsOf v.toNat 1 0)) := rfl

theorem exec_spurCoreRel_refused (h : bitOf (s.sevSource (thrKey c.val (bitsOf v.toNat 7 4)) (bitsOf v.toNat 2 0)) 15 = false) :
    exec (.spurCoreRel c v) s = .next (s.bump .spurCoreSevrefRefused c.val) := if_neg (by rw [h]; exact Bool.false_ne_true)

theorem exec_spurCoreRel_raises (h : bitOf (s.sevSource (thrKey c.val (bitsOf v.toNat 7 4)) (bitsOf v.toNat 2 0)) 15 = true) :
    exec (.spurCoreRel c v) s = .next (
      if ((s.raiseEvt (thrKey c.val (bitsOf v.toNat 7 4)) (13 + bitsOf v.toNat 2 0)).thr (thrKey c.val (bitsOf v.toNat 7 4))).st = 5
      then (s.raiseEvt (thrKey c.val (bitsOf v.toNat 7 4)) (13 + bitsOf v.toNat 2 0)).unpark c.val
      else s.raiseEvt (thrKey c.val (bitsOf v.toNat 7 4)) (13 + bitsOf v.toNat 2 0)) := if_pos h

/-- A release's state: the line is pending, and the thread is not parked. -/
theorem completes_spurCoreRel (h : bitOf (s.sevSource (thrKey c.val (bitsOf v.toNat 7 4)) (bitsOf v.toNat 2 0)) 15 = true) :
    Completes (.spurCoreRel c v) s (fun u => (u.thr (thrKey c.val (bitsOf v.toNat 7 4))).pending =
      (s.thr (thrKey c.val (bitsOf v.toNat 7 4))).pending ||| (1#32 <<< (13 + bitsOf v.toNat 2 0)) ∧
      (u.thr (thrKey c.val (bitsOf v.toNat 7 4))).st ≠ 5 ∧ KeepsBut [.regs, .spur] s u) := by
  refine ⟨_, exec_spurCoreRel_raises h, ?_⟩
  generalize hk : thrKey c.val (bitsOf v.toNat 7 4) = k
  generalize 13 + bitsOf v.toNat 2 0 = l
  have hkeep : KeepsBut [.regs, .spur] s (s.raiseEvt k l) := (s.raiseEvt_keepsBut k l).mono (by simp)
  obtain ⟨st, hr⟩ := s.thr_raiseEvt_self k l
  split
  · obtain ⟨st', hu⟩ := (s.raiseEvt k l).thr_unpark c.val k
    refine ⟨by rw [hu, hr], ?_, hkeep.trans (State.unpark_keepsBut _ _)⟩
    rw [← hk]
    exact State.st_unpark _ c.val (Nat.mod_lt _ (by decide))
  · next hst => exact ⟨by rw [hr], hst, hkeep⟩

end Release

/-! ### SPUR_THR_RST (R159) -/

section Reset
variable (s : State) (k : Nat)

theorem State.idleWait_keepsBut : KeepsBut [.spur] s (s.idleWait k) := s.modThr_keepsBut k _

theorem State.resetThr_keepsBut : KeepsBut [.spur] s (s.resetThr k) := by
  unfold State.resetThr
  dsimp only
  split
  · exact (s.modThr_keepsBut k _).trans (State.idleWait_keepsBut _ k)
  · exact ((s.modThr_keepsBut k _).trans (State.idleWait_keepsBut _ k)).trans (State.modThr_keepsBut _ k _)

theorem State.thr_idleWait_of_ne {j : Nat} (hj : j ≠ k) : (s.idleWait k).thr j = s.thr j := s.thr_modThr_of_ne _ hj

theorem State.thr_resetThr_of_ne {j : Nat} (hj : j ≠ k) : (s.resetThr k).thr j = s.thr j := by
  unfold State.resetThr
  dsimp only
  split
  · exact (State.thr_idleWait_of_ne _ k hj).trans (s.thr_modThr_of_ne _ hj)
  · exact (State.thr_modThr_of_ne _ _ hj).trans ((State.thr_idleWait_of_ne _ k hj).trans (s.thr_modThr_of_ne _ hj))

/-- Has a context the registers, events, timers and staging of a reset? -/
def Thread.fresh (t : Thread) : Prop := t.gprs = [] ∧ t.pending = 0 ∧ t.timers = [] ∧ t.staging = []

theorem State.resetThr_fresh : ((s.resetThr k).thr k).fresh := by
  unfold State.resetThr
  dsimp only
  split
  · rw [State.idleWait, State.thr_modThr_self, State.thr_modThr_self]
    exact ⟨rfl, rfl, rfl, rfl⟩
  · rw [State.thr_modThr_self, State.idleWait, State.thr_modThr_self, State.thr_modThr_self]
    exact ⟨rfl, rfl, rfl, rfl⟩

/-- SPUR_THR_RST on one thread of a core. -/
def State.resetNamed (c : Nat) (v : BitVec 32) (s : State) (t : Nat) : State :=
  if !v.getLsbD t then s
  else if (s.thr (thrKey c t)).frame.isSome then (s.bump .spurCoreIgnIgnored c).set .spurCoreStaIgn c 1
  else if (s.thr (thrKey c t)).st == 5 then (s.resetThr (thrKey c t)).unpark c else s.resetThr (thrKey c t)

theorem exec_spurThrRst (c : Core) (v : BitVec 32) (s : State) : exec (.spurThrRst c v) s =
    .next ((List.range 16).foldl (State.resetNamed c.val v) s) := rfl

variable (c : Nat) (v : BitVec 32) (t : Nat)

theorem State.resetNamed_unnamed (h : v.getLsbD t = false) : s.resetNamed c v t = s := if_pos (by rw [h]; rfl)

section Named
variable {s v t} (h : v.getLsbD t = true)
include h

theorem State.resetNamed_held (hf : (s.thr (thrKey c t)).frame ≠ none) :
    s.resetNamed c v t = (s.bump .spurCoreIgnIgnored c).set .spurCoreStaIgn c 1 := by
  rw [State.resetNamed, h, Bool.not_true, if_neg Bool.false_ne_true, if_pos (Option.isSome_iff_ne_none.2 hf)]

theorem State.resetNamed_free (hf : (s.thr (thrKey c t)).frame = none) :
    s.resetNamed c v t = (s.resetThr (thrKey c t)).unpark c ∨ s.resetNamed c v t = s.resetThr (thrKey c t) := by
  rw [State.resetNamed, h, Bool.not_true, if_neg Bool.false_ne_true, hf, Option.isSome_none, if_neg Bool.false_ne_true]
  split
  · exact .inl rfl
  · exact .inr rfl

end Named

theorem State.resetNamed_cases : s.resetNamed c v t = s ∨ s.resetNamed c v t = (s.bump .spurCoreIgnIgnored c).set .spurCoreStaIgn c 1 ∨
    s.resetNamed c v t = (s.resetThr (thrKey c t)).unpark c ∨ s.resetNamed c v t = s.resetThr (thrKey c t) := by
  cases h : v.getLsbD t with
  | false => exact .inl (s.resetNamed_unnamed c v t h)
  | true =>
    by_cases hf : (s.thr (thrKey c t)).frame = none
    · exact .inr (.inr (State.resetNamed_free c h hf))
    · exact .inr (.inl (State.resetNamed_held c h hf))

theorem State.resetNamed_keepsBut : KeepsBut [.regs, .spur] s (s.resetNamed c v t) := by
  have hreset : KeepsBut [.regs, .spur] s (s.resetThr (thrKey c t)) := (s.resetThr_keepsBut _).mono (by simp)
  rcases s.resetNamed_cases c v t with h | h | h | h <;> rw [h]
  · exact KeepsBut.refl _ s
  · exact ((s.set_keepsBut _ _ _).trans (State.set_keepsBut _ _ _ _)).mono (by simp)
  · exact hreset.trans (State.unpark_keepsBut _ c)
  · exact hreset

/-- Of another thread the reset of one changes the state alone. -/
theorem State.thr_resetNamed_of_ne {j : Nat} (hj : j ≠ thrKey c t) : ∃ st, (s.resetNamed c v t).thr j = { s.thr j with st := st } := by
  rcases s.resetNamed_cases c v t with h | h | h | h <;> rw [h]
  · exact ⟨_, rfl⟩
  · exact ⟨_, rfl⟩
  · obtain ⟨st, hst⟩ := (s.resetThr (thrKey c t)).thr_unpark c j
    exact ⟨st, by rw [hst, s.thr_resetThr_of_ne _ hj]⟩
  · exact ⟨_, s.thr_resetThr_of_ne _ hj⟩

variable {c v t}

/-- A thread that is named and holds no frame is reset. -/
theorem State.resetNamed_fresh (h : v.getLsbD t = true) (hf : (s.thr (thrKey c t)).frame = none) :
    ((s.resetNamed c v t).thr (thrKey c t)).fresh := by
  rcases State.resetNamed_free c h hf with hr | hr <;> rw [hr]
  · obtain ⟨st, hst⟩ := (s.resetThr (thrKey c t)).thr_unpark c (thrKey c t)
    rw [hst]
    exact s.resetThr_fresh _
  · exact s.resetThr_fresh _

/-- A thread that is not named, or holds a frame, is left. -/
theorem State.thr_resetNamed_kept (h : v.getLsbD t = false ∨ (s.thr (thrKey c t)).frame ≠ none) (j : Nat) :
    (s.resetNamed c v t).thr j = s.thr j := by
  cases hv : v.getLsbD t with
  | false => rw [s.resetNamed_unnamed c v t hv]
  | true =>
    rw [State.resetNamed_held c hv (h.resolve_left (by rw [hv]; decide))]
    rfl

theorem State.get_ign_resetNamed (h : s.get .spurCoreStaIgn c = 1) : (s.resetNamed c v t).get .spurCoreStaIgn c = 1 := by
  have hreset : (s.resetThr (thrKey c t)).get .spurCoreStaIgn c = 1 :=
    (State.get_of_regs (s.resetThr_keepsBut _ .regs (by decide)) _ _).trans h
  rcases s.resetNamed_cases c v t with hr | hr | hr | hr <;> rw [hr]
  · exact h
  · exact State.get_set_self _ _ _ _ (by decide) (by decide)
  · exact (State.get_unpark _ c (by decide) (.inr (.inr (by decide))) (.inl (by decide)) c).trans hreset
  · exact hreset

end Reset

theorem completes_spurThrRst (c : Core) (v : BitVec 32) (s : State) : Completes (.spurThrRst c v) s (fun u => KeepsBut [.regs, .spur] s u ∧
    (∀ i, i < 16 → v.getLsbD i = true → (s.thr (thrKey c.val i)).frame = none → (u.thr (thrKey c.val i)).gprs = [] ∧
      (u.thr (thrKey c.val i)).pending = 0 ∧ (u.thr (thrKey c.val i)).timers = [] ∧ (u.thr (thrKey c.val i)).staging = []) ∧
    (∀ i, i < 16 → (v.getLsbD i = false ∨ (s.thr (thrKey c.val i)).frame ≠ none) →
      (u.thr (thrKey c.val i)).gprs = (s.thr (thrKey c.val i)).gprs ∧ (u.thr (thrKey c.val i)).frame = (s.thr (thrKey c.val i)).frame ∧
      (u.thr (thrKey c.val i)).staging = (s.thr (thrKey c.val i)).staging) ∧
    ((∃ i, i < 16 ∧ v.getLsbD i = true ∧ (s.thr (thrKey c.val i)).frame ≠ none) → u.get .spurCoreStaIgn c.val = 1)) := by
  refine ⟨_, exec_spurThrRst c v s, foldl_keepsBut (fun t x => t.resetNamed_keepsBut c.val v x) _ s, fun i hi hv hf => ?_,
    fun i hi hkept => ?_, fun ⟨i, hi, hv, hf⟩ => ?_⟩
  · refine foldl_visit (P := fun u => (u.thr (thrKey c.val i)).frame = none) (Q := fun u => (u.thr (thrKey c.val i)).fresh)
      (fun u t ht hu => ?_) (fun u hu => u.resetNamed_fresh hv hu) (fun u t ht hu => ?_) List.nodup_range (List.mem_range.2 hi) s hf
    · obtain ⟨st, hst⟩ := u.thr_resetNamed_of_ne c.val v t (thrKey_ne (Ne.symm ht))
      rw [hst]; exact hu
    · obtain ⟨st, hst⟩ := u.thr_resetNamed_of_ne c.val v t (thrKey_ne (Ne.symm ht))
      rw [hst]; exact hu
  · refine foldl_inv (P := fun u => (u.thr (thrKey c.val i)).gprs = (s.thr (thrKey c.val i)).gprs ∧
      (u.thr (thrKey c.val i)).frame = (s.thr (thrKey c.val i)).frame ∧
      (u.thr (thrKey c.val i)).staging = (s.thr (thrKey c.val i)).staging) (fun u t hu => ?_) _ s ⟨rfl, rfl, rfl⟩
    by_cases ht : t = i
    · subst ht
      rw [u.thr_resetNamed_kept (hkept.imp_right (hu.2.1 ▸ ·))]
      exact hu
    · obtain ⟨st, hst⟩ := u.thr_resetNamed_of_ne c.val v t (thrKey_ne (Ne.symm ht))
      rw [hst]
      exact hu
  · refine foldl_visit (P := fun u => (u.thr (thrKey c.val i)).frame ≠ none) (Q := fun u => u.get .spurCoreStaIgn c.val = 1)
      (fun u t ht hu => ?_) (fun u hu => ?_) (fun u t _ hu => u.get_ign_resetNamed hu) List.nodup_range (List.mem_range.2 hi) s hf
    · obtain ⟨st, hst⟩ := u.thr_resetNamed_of_ne c.val v t (thrKey_ne (Ne.symm ht))
      rw [hst]; exact hu
    · rw [State.resetNamed_held c.val hv hu]
      exact State.get_set_self _ _ _ _ (by decide) (by decide)

end Sys2Proof.Machine
end

section
/-! PROOFS. Slot-table swaps and debugger halts (R130, R133, R149, R156). -/

namespace Sys2Proof.Machine

/-! ### SPUR_SLOT_AT and SLOT_TABLE_SWAP (R130, R133) -/

/-- Do the conditions hold under which a swap of a core's slot table may be armed for an instant (R133)? -/
def State.slotArms (s : State) (c : Nat) (target : BitVec 64) : Prop :=
  65536000 ≤ ltDiff target s.lt ∧ ltDiff target s.lt < 2 ^ 62 ∧ s.is .spurCoreStaSlotPending c = false ∧ s.slotsKept c = true

theorem State.slotArms_iff (s : State) (c : Nat) (target : BitVec 64) :
    (s.armTime target true && !s.is .spurCoreStaSlotPending c && s.slotsKept c) = true ↔ s.slotArms c target := by
  rw [State.slotArms, State.armTime, if_pos rfl, Bool.and_eq_true, Bool.and_eq_true, Bool.and_eq_true, decide_eq_true_iff,
    decide_eq_true_iff, Bool.not_eq_true', and_assoc, and_assoc]

/-- The state in which the instant of a core's slot-table swap is set or taken away. -/
def State.setSlotTarget (s : State) (c : Nat) (o : Option (BitVec 64)) : State :=
  { s with spur := { s.spur with slotTarget := SMap.put s.spur.slotTarget c o } }

theorem State.setSlotTarget_keepsBut (s : State) (c : Nat) (o : Option (BitVec 64)) : KeepsBut [.spur] s (s.setSlotTarget c o) :=
  s.setSpur_keepsBut _

theorem State.setSlotTarget_regs (s : State) (c : Nat) (o : Option (BitVec 64)) : (s.setSlotTarget c o).regs = s.regs := rfl

theorem State.setSlotTarget_regsBut (s : State) (c : Nat) (o : Option (BitVec 64)) (l : List (RegName × Nat)) :
    RegsBut l s (s.setSlotTarget c o) := RegsBut.refl _ s

theorem State.find_setSlotTarget (s : State) (c : Nat) (o : Option (BitVec 64)) :
    SMap.find (s.setSlotTarget c o).spur.slotTarget c = o := SMap.find_put_self s.spur.slotTarget c o

section Slot
variable {c : Core} {target : BitVec 64} {s : State}

theorem completes_spurSlotAt (h : s.slotArms c.val target) : Completes (.spurSlotAt c target) s (fun u =>
    u.get .spurCoreStaSlotPending c.val = 1 ∧ u.get .spurCoreStaSlotRefused c.val = 0 ∧
    SMap.find u.spur.slotTarget c.val = some target ∧ RegsBut [(.spurCoreSta, c.val)] s u ∧ KeepsBut [.regs, .spur] s u) := by
  have hexec : exec (.spurSlotAt c target) s = .next (((s.setSlotTarget c.val (some target)).set .spurCoreStaSlotPending c.val 1).set
    .spurCoreStaSlotRefused c.val 0) := congrArg Host.Outcome.next (if_pos ((s.slotArms_iff c.val target).2 h))
  refine ⟨_, hexec, ?_, State.get_set_self _ _ _ _ (by decide) (by decide), ?_, ?_, ?_⟩
  · exact (State.get_set_beside (f := .spurCoreStaSlotRefused) (g := .spurCoreStaSlotPending) _ _ rfl (by decide) (by decide)
      (.inl (by decide))).trans (State.get_set_self _ .spurCoreStaSlotPending _ _ (by decide) (by decide))
  · rw [State.set_spur, State.set_spur, State.find_setSlotTarget]
  · exact State.set_regsBut_of_mem _ (State.set_regsBut_of_mem _ (s.setSlotTarget_regsBut _ _ _) List.mem_cons_self) List.mem_cons_self
  · exact State.set_keepsBut_of_mem _ _ _ (State.set_keepsBut_of_mem _ _ _ ((s.setSlotTarget_keepsBut _ _).mono (by simp)) (by simp))
      (by simp)

theorem completes_spurSlotAt_refused (h : ¬s.slotArms c.val target) : Completes (.spurSlotAt c target) s (fun u =>
    u.get .spurCoreStaSlotRefused c.val = 1 ∧ RegsBut [(.spurCoreSta, c.val)] s u ∧ KeepsBut [.regs] s u) := by
  have hexec : exec (.spurSlotAt c target) s = .next (s.set .spurCoreStaSlotRefused c.val 1) :=
    congrArg Host.Outcome.next (if_neg ((s.slotArms_iff c.val target).not.2 h))
  exact ⟨_, hexec, State.get_set_self _ _ _ _ (by decide) (by decide), s.set_regsBut .spurCoreStaSlotRefused c.val 1, s.set_keepsBut _ _ _⟩

/-- The forerunner copies the words of one bank of a core's slot table into the other. -/
def State.copySlots (s : State) (c src dst : Nat) : State :=
  (List.range 8).foldl (fun s i => s.setReg .spurSlot ((c * 2 + dst) * 8 + i) (s.reg .spurSlot ((c * 2 + src) * 8 + i))) s

theorem State.copySlots_keepsBut (s : State) (c src dst : Nat) : KeepsBut [.regs] s (s.copySlots c src dst) :=
  foldl_keepsBut (fun t _ => t.setReg_keepsBut _ _ _) _ s

theorem State.get_copySlots (s : State) (c src dst : Nat) {f : Fld} (hf : f.reg ≠ .spurSlot) (i : Nat) :
    (s.copySlots c src dst).get f i = s.get f i :=
  foldl_keeps (fun u => u.get f i) (fun u _ => congrArg f.of (u.reg_setReg_of_ne _ (.inl hf))) _ s

/-- The state in which the banks of a core's slot table have been exchanged. -/
def State.slotSwapped (s : State) (c : Nat) : State :=
  ((s.setSlotTarget c none).set .spurCoreStaSlotBank c (1 - s.get .spurCoreStaSlotBank c)).set .spurCoreStaSlotPending c 0

theorem exec_slotTableSwap_none (h : SMap.find s.spur.slotTarget c.val = none) : exec (.slotTableSwap c) s = .next s := by
  have hdef : exec (.slotTableSwap c) s = execSlotTableSwap c s := rfl
  rw [hdef, execSlotTableSwap, h]

theorem exec_slotTableSwap_due {a : BitVec 64} (h : SMap.find s.spur.slotTarget c.val = some a)
    (ha : ltDiff (slotBoundary a) (s.ctxLt (.bg c)) ≤ 0) : exec (.slotTableSwap c) s =
      .next (if (s.slotSwapped c.val).forerunner then (s.slotSwapped c.val).copySlots c.val (1 - s.get .spurCoreStaSlotBank c.val)
        (s.get .spurCoreStaSlotBank c.val) else s.slotSwapped c.val) := by
  have hdef : exec (.slotTableSwap c) s = execSlotTableSwap c s := rfl
  rw [hdef, execSlotTableSwap, h]
  simp only [s.advance_of_nonpos ha]
  rfl

theorem State.forerunner_slotSwapped (s : State) (c : Nat) : (s.slotSwapped c).forerunner = s.forerunner := by
  unfold State.forerunner State.is
  rw [State.slotSwapped, State.get_set_of_ne _ _ (.inl (by decide)), State.get_set_of_ne _ _ (.inl (by decide)),
    State.get_of_regs (s.setSlotTarget_regs c none)]

theorem completes_slotTableSwap {a : BitVec 64} (h : SMap.find s.spur.slotTarget c.val = some a)
    (ha : ltDiff (slotBoundary a) (s.ctxLt (.bg c)) ≤ 0) : Completes (.slotTableSwap c) s (fun u =>
      u.get .spurCoreStaSlotBank c.val = 1 - s.get .spurCoreStaSlotBank c.val ∧ u.get .spurCoreStaSlotPending c.val = 0 ∧
      SMap.find u.spur.slotTarget c.val = none ∧ (s.forerunner = false → RegsBut [(.spurCoreSta, c.val)] s u) ∧
      KeepsBut [.regs, .spur] s u) := by
  refine ⟨_, exec_slotTableSwap_due h ha, ?_⟩
  rw [s.forerunner_slotSwapped c.val]
  have hbank : (s.slotSwapped c.val).get .spurCoreStaSlotBank c.val = 1 - s.get .spurCoreStaSlotBank c.val := by
    refine (State.get_set_beside (f := .spurCoreStaSlotPending) (g := .spurCoreStaSlotBank) _ _ rfl (by decide) (by decide)
      (.inl (by decide))).trans ((State.get_set_self _ .spurCoreStaSlotBank _ _ (by decide) (by decide)).trans ?_)
    exact Nat.mod_eq_of_lt (Nat.lt_of_le_of_lt (Nat.sub_le _ _) (by decide))
  have hpend : (s.slotSwapped c.val).get .spurCoreStaSlotPending c.val = 0 := State.get_set_self _ _ _ _ (by decide) (by decide)
  have hfind : SMap.find (s.slotSwapped c.val).spur.slotTarget c.val = none := by
    rw [State.slotSwapped, State.set_spur, State.set_spur, State.find_setSlotTarget]
  have hkeep : KeepsBut [.regs, .spur] s (s.slotSwapped c.val) := State.set_keepsBut_of_mem _ _ _
    (State.set_keepsBut_of_mem _ _ _ ((s.setSlotTarget_keepsBut _ _).mono (by simp)) (by simp)) (by simp)
  have hregs : RegsBut [(.spurCoreSta, c.val)] s (s.slotSwapped c.val) := State.set_regsBut_of_mem _
    (State.set_regsBut_of_mem _ (s.setSlotTarget_regsBut c.val none _) List.mem_cons_self) List.mem_cons_self
  split
  · next hf =>
    have hcopy := (s.slotSwapped c.val).copySlots_keepsBut c.val (1 - s.get .spurCoreStaSlotBank c.val) (s.get .spurCoreStaSlotBank c.val)
    refine ⟨?_, ?_, ?_, fun h => absurd (hf.symm.trans h) (by decide), hkeep.trans (hcopy.mono (by simp))⟩
    · rw [State.get_copySlots _ _ _ _ (by decide), hbank]
    · rw [State.get_copySlots _ _ _ _ (by decide), hpend]
    · rw [hcopy .spur (by decide), hfind]
  · exact ⟨hbank, hpend, hfind, fun _ => hregs, hkeep⟩

end Slot

/-! ### Debugger halts (R149, R156) -/

section Debug
variable {c : Core} {t : Fin 16} {b : Bool} {s : State}

/-- The state in which a debugger has enabled or disabled breakpoints on a core. -/
def State.setBreaks (s : State) (c : Nat) (b : Bool) : State :=
  { s with spur := { s.spur with brkCores := SMap.put s.spur.brkCores c (if b then some () else none) } }

theorem exec_debugHalt_denied (h : s.is .secLifecycleDebug = false) : exec (.debugHalt c ⟨t, b⟩) s = .next s :=
  if_neg (by rw [h]; exact Bool.false_ne_true)

theorem exec_debugHalt (h : s.is .secLifecycleDebug = true) : exec (.debugHalt c ⟨t, b⟩) s =
    if (s.thr (thrKey c.val t.val)).st = 0 ∨ (s.thr (thrKey c.val t.val)).st = 4 ∨ (s.thr (thrKey c.val t.val)).st = 5
    then .next (s.setBreaks c.val b)
    else .next (((s.setBreaks c.val b).modThr (thrKey c.val t.val) (fun th => { th with st := 4, back := th.st })).resumeBudget
      (thrKey c.val t.val) s.elapsed) := if_pos h

/-- Of a thread whose budget runs again changes the budget's beginning alone. -/
theorem State.thr_resumeBudget_self (s : State) (k n : Nat) : ∃ a, (s.resumeBudget k n).thr k = { s.thr k with budSince := a } := by
  rw [State.resumeBudget, State.thr_modThr_self]
  split
  · exact ⟨_, rfl⟩
  · exact ⟨_, rfl⟩

theorem completes_debugHalt (h : s.is .secLifecycleDebug = true) : let k := thrKey c.val t.val
    Completes (.debugHalt c ⟨t, b⟩) s (fun u =>
      (SMap.find u.spur.brkCores c.val).isSome = b ∧ (u.thr k).gprs = (s.thr k).gprs ∧ (u.thr k).index = (s.thr k).index ∧
      ((s.thr k).st ≠ 0 → (s.thr k).st ≠ 4 → (s.thr k).st ≠ 5 → (u.thr k).st = 4 ∧ (u.thr k).back = (s.thr k).st) ∧
      ((s.thr k).st = 0 ∨ (s.thr k).st = 4 ∨ (s.thr k).st = 5 → u.thr k = s.thr k) ∧
      (∀ j, j ≠ k → u.thr j = s.thr j) ∧ KeepsBut [.spur] s u) := by
  intro k
  let v := s.setBreaks c.val b
  have hbrk : (SMap.find v.spur.brkCores c.val).isSome = b := by
    cases b with
    | false => exact congrArg Option.isSome (SMap.find_put_self s.spur.brkCores c.val none)
    | true => exact congrArg Option.isSome (SMap.find_put_self s.spur.brkCores c.val (some ()))
  have hkeep : KeepsBut [.spur] s v := s.setSpur_keepsBut _
  by_cases hst : (s.thr k).st = 0 ∨ (s.thr k).st = 4 ∨ (s.thr k).st = 5
  · refine ⟨v, (exec_debugHalt h).trans (if_pos hst), hbrk, rfl, rfl, fun h0 h4 h5 => ?_, fun _ => rfl, fun _ _ => rfl, hkeep⟩
    exact absurd hst (by simp [h0, h4, h5])
  · let w := v.modThr k (fun th => { th with st := 4, back := th.st })
    obtain ⟨a, ha⟩ := w.thr_resumeBudget_self k s.elapsed
    rw [State.thr_modThr_self] at ha
    refine ⟨_, (exec_debugHalt h).trans (if_neg hst), hbrk, ?_, ?_, fun _ _ _ => ?_, fun h => absurd h hst, fun j hj => ?_, ?_⟩
    · rw [ha]; rfl
    · rw [ha]; rfl
    · rw [ha]; exact ⟨rfl, rfl⟩
    · exact (w.thr_modThr_of_ne _ hj).trans (v.thr_modThr_of_ne _ hj)
    · exact (hkeep.trans (v.modThr_keepsBut k _)).trans (w.modThr_keepsBut k _)

theorem exec_debugResume_running (h : (s.thr (thrKey c.val t.val)).st ≠ 4) : exec (.debugResume c t) s = .next s := if_neg h

theorem exec_debugResume_expired (h : (s.thr (thrKey c.val t.val)).st = 4) (he : (s.thr (thrKey c.val t.val)).expired = true) :
    exec (.debugResume c t) s = .next (s.idleWait (thrKey c.val t.val)) := (if_pos h).trans (if_pos he)

theorem completes_debugResume_expired (h : (s.thr (thrKey c.val t.val)).st = 4) (he : (s.thr (thrKey c.val t.val)).expired = true) :
    let k := thrKey c.val t.val
    Completes (.debugResume c t) s (fun u => (u.thr k).st = 2 ∧ (u.thr k).mask = 1 ∧ (u.thr k).frame = none ∧ (u.thr k).expired = false ∧
      KeepsBut [.spur] s u) := by
  intro k
  refine ⟨_, exec_debugResume_expired h he, ?_⟩
  dsimp only
  rw [State.idleWait, State.thr_modThr_self]
  exact ⟨rfl, rfl, rfl, rfl, s.modThr_keepsBut k _⟩

theorem State.wake_of_ne_wait {s : State} {k : Nat} (h : (s.thr k).st ≠ 2) : s.wake k = s := by
  rw [State.wake, decide_eq_false h, Bool.false_and, if_neg Bool.false_ne_true]

theorem State.stopBudget_keepsBut (s : State) (k : Nat) : KeepsBut [.spur] s (s.stopBudget k) := s.modThr_keepsBut k _

/-- A thread whose frame has not expired goes on from where it was halted. -/
theorem completes_debugResume (h : (s.thr (thrKey c.val t.val)).st = 4) (he : (s.thr (thrKey c.val t.val)).expired = false)
    (hb : (s.thr (thrKey c.val t.val)).back ≠ 2) : let k := thrKey c.val t.val
    Completes (.debugResume c t) s (fun u => (u.thr k).st = (s.thr k).back ∧ (u.thr k).index = (s.thr k).index ∧
      (u.thr k).gprs = (s.thr k).gprs ∧ KeepsBut [.spur] s u) := by
  intro k
  let v := s.modThr k (fun th => { th with st := th.back })
  have hv : v.thr k = { s.thr k with st := (s.thr k).back } := s.thr_modThr_self k _
  have hwake : v.wake k = v := State.wake_of_ne_wait (by rw [hv]; exact hb)
  have hexec : exec (.debugResume c t) s = .next (if (s.thr k).back = 3 && (s.thr k).paused then (v.wake k).stopBudget k else v.wake k) :=
    (if_pos h).trans (if_neg (by rw [he]; exact Bool.false_ne_true))
  rw [hwake] at hexec
  refine ⟨_, hexec, ?_⟩
  split
  · rw [State.stopBudget, State.thr_modThr_self, hv]
    exact ⟨rfl, rfl, rfl, (s.modThr_keepsBut k _).trans (v.modThr_keepsBut k _)⟩
  · rw [hv]
    exact ⟨rfl, rfl, rfl, s.modThr_keepsBut k _⟩

end Debug

/-- Settles O29: each command's clauses are the lemmas of its operation. -/
theorem coreControlWrites : Obligations.CoreControlWrites := by
  unfold Obligations.CoreControlWrites
  intro c t v target b s vt ln k h
  obtain ⟨st, hdb⟩ := s.thr_raiseEvt_self k (21 + bitsOf v.toNat 1 0)
  exact ⟨fun hno => ⟨_, exec_spurCoreRel_refused hno, rfl⟩, completes_spurCoreRel,
    ⟨_, exec_spurCoreDb c v s, by rw [hdb], fun j hj => s.thr_raiseEvt_of_ne k _ hj, s.raiseEvt_keepsBut k _⟩,
    completes_spurThrRst c v s, ⟨completes_spurSlotAt, completes_spurSlotAt_refused⟩, exec_slotTableSwap_none,
    fun a => completes_slotTableSwap, completes_debugHalt, exec_debugHalt_denied, exec_debugResume_running, completes_debugResume_expired,
    completes_debugResume⟩

end Sys2Proof.Machine
end

section
/-! PROOFS. Failing cores: sparing, repair, and the failure of a control core (R157, R158, R161). -/

namespace Sys2Proof.Machine

/-! ### Fields, blocks and memory that stay while the contexts of a core stop and restart -/

/-- Is a field one that no thread, channel or dispatch queue writes: a field beside the marks of wait cycles, of another register than
the groups' and channels' status? -/
abbrev Fld.steady (f : Fld) : Prop :=
  f.hi < 64 ∧ f.reg ≠ .spurGrpSta ∧ f.reg ≠ .spurChCfg ∧ f.reg ≠ .spurChSta ∧ (f.reg ≠ .spurCoreSta ∨ f.hi < 3 ∨ 3 < f.lo) ∧
    (f.reg ≠ .spurRidgeSta ∨ 15 < f.lo)

/-- `t` has the blocks' states, the memories and the steady fields of `s`. -/
structure Steady (s t : State) : Prop where
  blk : t.blkSt = s.blkSt
  mem : t.mem = s.mem
  get : ∀ f i, f.steady → t.get f i = s.get f i

namespace Steady
variable {s t u : State}

theorem refl (s : State) : Steady s s := ⟨rfl, rfl, fun _ _ _ => rfl⟩

theorem trans (h : Steady s t) (h' : Steady t u) : Steady s u :=
  ⟨h'.blk.trans h.blk, h'.mem.trans h.mem, fun f i hf => (h'.get f i hf).trans (h.get f i hf)⟩

theorem of_keepsBut {ps : List StatePart} (h : KeepsBut ps s t) (hr : StatePart.regs ∉ ps) (hb : StatePart.blkSt ∉ ps)
    (hm : StatePart.mem ∉ ps) : Steady s t :=
  ⟨h .blkSt hb, h .mem hm, fun f i _ => State.get_of_regs (h .regs hr) f i⟩

theorem blkState (h : Steady s t) (b : Blk) : t.blkState b = s.blkState b := State.blkState_congr h.blk b

theorem foldl {α : Type} {f : State → α → State} (h : ∀ t x, Steady t (f t x)) (l : List α) (s : State) : Steady s (l.foldl f s) :=
  foldl_inv (P := Steady s) (fun t x hs => hs.trans (h t x)) l s (refl s)

end Steady

section Operations
variable (s : State) (k c : Nat)

theorem State.modThr_steady (f : Thread → Thread) : Steady s (s.modThr k f) :=
  .of_keepsBut (s.modThr_keepsBut k f) (by decide) (by decide) (by decide)

theorem State.idleWait_steady : Steady s (s.idleWait k) :=
  .of_keepsBut (s.idleWait_keepsBut k) (by decide) (by decide) (by decide)

theorem State.cairnRec_steady (a : CairnCode) (b : Option Blk) (d : Bytes) : Steady s (s.cairnRec a b d) :=
  .of_keepsBut (s.cairnRec_keepsBut a b d) (by decide) (by decide) (by decide)

theorem State.thr_cairnRec (a : CairnCode) (b : Option Blk) (d : Bytes) (j : Nat) : (s.cairnRec a b d).thr j = s.thr j := rfl

theorem State.dispose_steady (fid d : Nat) : Steady s (s.dispose fid d) :=
  .of_keepsBut (s.dispose_results fid d).1 (by decide) (by decide) (by decide)

theorem State.tellSupervisor_steady (r n : Nat) : Steady s (s.tellSupervisor r n) :=
  .of_keepsBut (s.tellSupervisor_only r n).keeps (by decide) (by decide) (by decide)

theorem State.resetThr_steady : Steady s (s.resetThr k) := .of_keepsBut (s.resetThr_keepsBut k) (by decide) (by decide) (by decide)

theorem State.unpark_steady : Steady s (s.unpark c) :=
  have h := s.unpark_keepsBut c
  ⟨h .blkSt (by decide), h .mem (by decide), fun _ i ⟨hhi, _, _, _, hcore, hridge⟩ => s.get_unpark c hhi hcore hridge i⟩

theorem State.setDq_steady (l : List Nat) : Steady s (s.setDq k l) :=
  ⟨rfl, rfl, fun _ i ⟨_, hgrp, _⟩ => s.get_setDq k l hgrp i⟩

theorem State.dispatchRec_steady : Steady s (s.dispatchRec k) := (s.cairnRec_steady _ _ _).trans (State.tellSupervisor_steady _ _ _)

theorem State.setChan_steady (l : List (List (BitVec 64))) : Steady s (s.setChan k l) :=
  ⟨rfl, rfl, fun f i ⟨_, _, _, hsta, _⟩ => (State.get_set_of_ne _ _ (.inl hsta)).trans (State.get_of_regs rfl f i)⟩

theorem State.dropChan_steady (r : Nat) (ds : List Nat) (ch : Nat) : Steady s (State.dropChan r ds s ch) := by
  unfold State.dropChan
  split
  · have hcfg : Steady s (s.setReg .spurChCfg (chanIx r ch) 0) :=
      ⟨rfl, rfl, fun f i ⟨_, _, hcfg, _⟩ => congrArg f.of (s.reg_setReg_of_ne _ (.inl hcfg))⟩
    exact hcfg.trans (State.setChan_steady _ _ _)
  · exact Steady.refl s

end Operations

/-! ### The failure of a core (R157, R158) -/

section Fail
variable (s : State) (c i : Nat)

/-- Does a thread hold no frame and stage nothing? -/
def Thread.empty (t : Thread) : Prop := t.frame = none ∧ t.staging = []

/-- A thread of a core that stops: its frame ends DROP_FAULT and its staging is discarded. -/
def State.dropThr (c : Nat) (s : State) (t : Nat) : State :=
  (match (s.thr (thrKey c t)).frame with
    | some fid => (s.dispose fid dFault).idleWait (thrKey c t)
    | none => s).modThr (thrKey c t) (fun th => { th with staging := [] })

theorem State.dropCore_eq : s.dropCore c = ((List.range 16).foldl (State.dropThr c) (s.unpark c)).modThr (bgKey c)
    (fun th => { th with staging := [] }) := rfl

theorem State.dropThr_steady : Steady s (State.dropThr c s i) := by
  unfold State.dropThr
  split
  · exact ((s.dispose_steady _ _).trans (State.idleWait_steady _ _)).trans (State.modThr_steady _ _ _)
  · exact s.modThr_steady _ _

theorem State.thr_dispose (fid d k : Nat) : (s.dispose fid d).thr k = s.thr k := by
  have hspur : (s.dispose fid d).spur = s.spur := (s.dispose_results fid d).1 .spur (by decide)
  rw [State.thr, hspur, State.thr]

theorem State.dropThr_empty : ((State.dropThr c s i).thr (thrKey c i)).empty := by
  unfold State.dropThr
  rw [State.thr_modThr_self]
  split
  · rw [State.idleWait, State.thr_modThr_self]
    exact ⟨rfl, rfl⟩
  · next hnone => exact ⟨hnone, rfl⟩

theorem State.thr_dropThr_of_ne {k : Nat} (hk : k ≠ thrKey c i) : (State.dropThr c s i).thr k = s.thr k := by
  unfold State.dropThr
  rw [State.thr_modThr_of_ne _ _ hk]
  split
  · rw [State.thr_idleWait_of_ne _ _ hk, State.thr_dispose]
  · rfl

theorem State.dropCore_steady : Steady s (s.dropCore c) := by
  rw [State.dropCore_eq]
  exact ((s.unpark_steady c).trans (Steady.foldl (fun t x => t.dropThr_steady c x) _ _)).trans (State.modThr_steady _ _ _)

theorem thrKey_ne_bgKey {c i : Nat} (hi : i < 16) : thrKey c i ≠ bgKey c := by unfold thrKey bgKey; omega

theorem State.dropCore_empty {i : Nat} (hi : i < 16) : ((s.dropCore c).thr (thrKey c i)).empty := by
  rw [State.dropCore_eq, State.thr_modThr_of_ne _ _ (thrKey_ne_bgKey hi)]
  refine foldl_visit (P := fun _ => True) (Q := fun u => (u.thr (thrKey c i)).empty) (fun _ _ _ _ => trivial)
    (fun u _ => u.dropThr_empty c i) (fun u x hx hu => ?_) List.nodup_range (List.mem_range.2 hi) _ trivial
  rwa [u.thr_dropThr_of_ne c x (thrKey_ne (Ne.symm hx))]

theorem State.thr_dispatchRec (g : Nat) {k : Nat} (hk : k < 8192) : (s.dispatchRec g).thr k = s.thr k := by
  unfold State.dispatchRec
  exact (State.tellSupervisor_only _ _ _).others k (Nat.not_le.2 hk)

/-- A group below its member need is a device fault. -/
def State.noteNeed (s : State) (g : Nat) : State := if s.memberCount g < s.env.memberNeed g then s.dispatchRec g else s

/-- What a group has queued ends DROP_FAULT. -/
def State.dropQueued (s : State) (g : Nat) : State := ((s.dqueue g).foldl (fun s fid => s.dispose fid dFault) s).setDq g []

theorem State.loseMembers_eq (g : Nat) : s.loseMembers g =
    if ((s.noteNeed g).membersUp g).isEmpty then (s.noteNeed g).dropQueued g else s.noteNeed g := rfl

theorem State.noteNeed_results (g : Nat) : Steady s (s.noteNeed g) ∧ ∀ k, k < 8192 → (s.noteNeed g).thr k = s.thr k := by
  unfold State.noteNeed
  split
  · exact ⟨s.dispatchRec_steady g, fun k hk => s.thr_dispatchRec g hk⟩
  · exact ⟨Steady.refl s, fun _ _ => rfl⟩

theorem State.dropQueued_results (g : Nat) : Steady s (s.dropQueued g) ∧ ∀ k, (s.dropQueued g).thr k = s.thr k := by
  have hthr : ∀ (u : State) (k : Nat), (u.setDq g []).thr k = u.thr k := fun _ _ => rfl
  refine ⟨(Steady.foldl (fun t x => t.dispose_steady x dFault) (s.dqueue g) s).trans (State.setDq_steady _ g []), fun k => ?_⟩
  rw [State.dropQueued, hthr]
  exact foldl_keeps (fun v => v.thr k) (fun v x => v.thr_dispose x dFault k) (s.dqueue g) s

theorem State.loseMembers_results (g : Nat) : Steady s (s.loseMembers g) ∧ ∀ k, k < 8192 → (s.loseMembers g).thr k = s.thr k := by
  obtain ⟨hst, hthr⟩ := s.noteNeed_results g
  obtain ⟨hst', hthr'⟩ := (s.noteNeed g).dropQueued_results g
  rw [State.loseMembers_eq]
  split
  · exact ⟨hst.trans hst', fun k hk => (hthr' k).trans (hthr k hk)⟩
  · exact ⟨hst, hthr⟩

theorem State.loseGroups_results (l : List Nat) : Steady s (l.foldl (fun s g => s.loseMembers g) s) ∧
    ∀ k, k < 8192 → (l.foldl (fun s g => s.loseMembers g) s).thr k = s.thr k :=
  foldl_inv (P := fun t => Steady s t ∧ ∀ k, k < 8192 → t.thr k = s.thr k)
    (fun t g h => ⟨h.1.trans (t.loseMembers_results g).1, fun k hk => ((t.loseMembers_results g).2 k hk).trans (h.2 k hk)⟩) l s
    ⟨Steady.refl s, fun _ _ => rfl⟩

theorem State.failCore_spared {s : State} {c : Nat} (h : s.is .spurRidgeStaSpareAvail (c / 16) = true) : s.failCore c =
    ((((s.set .spurCoreStaState c 2).setBlkState ⟨.core, c⟩ 4).set .spurRidgeStaSpareAvail (c / 16) 0).dropCore c).tellSupervisor
      (c / 16) 1 := if_pos h

/-- A core in repair: its contexts stop, the repair is recorded, and its groups lose members if it was enabled. -/
theorem State.failCore_repair {s : State} {c : Nat} (h : s.is .spurRidgeStaSpareAvail (c / 16) = false) : s.failCore c =
    let u := (((s.set .spurCoreStaState c 3).setBlkState ⟨.core, c⟩ 4).dropCore c).cairnRec .spurSpare (some ⟨.core, c⟩)
      [BitVec.ofNat 8 (c / 16), 1, 1]
    (if s.is .spurCoreCtlEn c then (u.groupsOn c).foldl (fun s g => s.loseMembers g) u else u).tellSupervisor (c / 16) 1 :=
  if_neg (by rw [h]; exact Bool.false_ne_true)

/-- What is left of a failed core. -/
theorem State.failCore_results (hc : c < 256) : let t := s.failCore c
    t.blkState ⟨.core, c⟩ = 4 ∧ t.get .spurCoreStaState c = (if s.is .spurRidgeStaSpareAvail (c / 16) then 2 else 3) ∧
      t.get .spurRidgeStaSpareAvail (c / 16) = 0 ∧ ∀ i, i < 16 → (t.thr (thrKey c i)).empty := by
  dsimp only
  cases h : s.is .spurRidgeStaSpareAvail (c / 16) with
  | true =>
    rw [State.failCore_spared h, if_pos rfl]
    let u := (s.set .spurCoreStaState c 2).setBlkState ⟨.core, c⟩ 4
    let v := u.set .spurRidgeStaSpareAvail (c / 16) 0
    have htell := (v.dropCore c).tellSupervisor_only (c / 16) 1
    have hst : Steady v ((v.dropCore c).tellSupervisor (c / 16) 1) := (v.dropCore_steady c).trans (State.tellSupervisor_steady _ _ _)
    refine ⟨(hst.blkState _).trans (State.blkState_setBlkState_self (s.set .spurCoreStaState c 2) ⟨.core, c⟩ 4), ?_, ?_, fun i hi => ?_⟩
    · rw [hst.get _ _ (by decide), u.get_set_of_ne _ (.inl (by decide))]
      exact State.get_set_self s .spurCoreStaState c 2 (by decide) (by decide)
    · rw [hst.get _ _ (by decide)]
      exact u.get_set_self .spurRidgeStaSpareAvail _ 0 (by decide) (by decide)
    · rw [htell.others _ (Nat.not_le.2 (thrKey_lt hc hi))]
      exact v.dropCore_empty c hi
  | false =>
    rw [State.failCore_repair h, if_neg Bool.false_ne_true]
    let v := (s.set .spurCoreStaState c 3).setBlkState ⟨.core, c⟩ 4
    let u := (v.dropCore c).cairnRec .spurSpare (some ⟨.core, c⟩) [BitVec.ofNat 8 (c / 16), 1, 1]
    let w := if s.is .spurCoreCtlEn c then (u.groupsOn c).foldl (fun s g => s.loseMembers g) u else u
    have hw : Steady u w ∧ ∀ k, k < 8192 → w.thr k = u.thr k := by
      unfold w
      split
      · exact u.loseGroups_results _
      · exact ⟨Steady.refl u, fun _ _ => rfl⟩
    have htell := w.tellSupervisor_only (c / 16) 1
    have hst : Steady v (w.tellSupervisor (c / 16) 1) :=
      (((v.dropCore_steady c).trans ((v.dropCore c).cairnRec_steady _ _ _)).trans hw.1).trans (w.tellSupervisor_steady _ _)
    have hspare : s.get .spurRidgeStaSpareAvail (c / 16) = 0 := by
      have hlt := s.get_lt .spurRidgeStaSpareAvail (c / 16)
      have hne : s.get .spurRidgeStaSpareAvail (c / 16) ≠ 1 := fun e => by rw [State.is, e] at h; exact Bool.noConfusion h
      have hwidth : Fld.spurRidgeStaSpareAvail.width = 1 := rfl
      rw [hwidth] at hlt
      omega
    refine ⟨(hst.blkState _).trans (State.blkState_setBlkState_self (s.set .spurCoreStaState c 3) ⟨.core, c⟩ 4), ?_, ?_, fun i hi => ?_⟩
    · rw [hst.get _ _ (by decide)]
      exact State.get_set_self s .spurCoreStaState c 3 (by decide) (by decide)
    · rw [hst.get _ _ (by decide)]
      exact (s.get_set_of_ne (f := .spurCoreStaState) 3 (.inl (by decide))).trans hspare
    · have hlt := thrKey_lt hc hi
      have hu : u.thr (thrKey c i) = (v.dropCore c).thr (thrKey c i) := (v.dropCore c).thr_cairnRec _ _ _ _
      rw [htell.others _ (Nat.not_le.2 hlt), hw.2 _ hlt, hu]
      exact v.dropCore_empty c hi

end Fail

theorem exec_spurCoreFail_repair {c : Core} {s : State} (h : s.get .spurCoreStaState c.val = 3) : exec (.spurCoreFail c) s = .next s := if_pos h

theorem exec_spurCoreFail {c : Core} {s : State} (h : s.get .spurCoreStaState c.val ≠ 3) :
    exec (.spurCoreFail c) s = .next (s.failCore c.val) := if_neg h

end Sys2Proof.Machine
end

section
/-! PROOFS. The return of a spared core, and the failure of a control core (R22, R24, R157, R158, R161). -/

namespace Sys2Proof.Machine

/-- What one operation of a run brings about whatever came before, and every operation keeps, holds after the run. -/
theorem foldl_reaches {α : Type} {Q : State → Prop} {step : State → α → State} {i : α} (at_ : ∀ s, Q (step s i))
    (keep : ∀ s x, Q s → Q (step s x)) {l : List α} (hi : i ∈ l) (s : State) : Q (l.foldl step s) := by
  obtain ⟨a, b, rfl⟩ := List.append_of_mem hi
  rw [List.foldl_append, List.foldl_cons]
  exact foldl_inv keep b _ (at_ _)

/-! ### Scratch words lost in the copy (R157) -/

section Lost
variable (s : State) (c o : Nat)

/-- `t` has the memories of `s` but for the scratch of core `c`, of which a byte is as it was or 0. -/
structure LosesWords (c : Nat) (s t : State) : Prop where
  keeps : KeepsBut [.mem, .cairn] s t
  ext : t.mem.ext = s.mem.ext
  shared : t.mem.shared = s.mem.shared
  outside : ∀ a, a < c * 65536 ∨ (c + 1) * 65536 ≤ a → Mem.byte t.mem.scratch a = Mem.byte s.mem.scratch a
  zero : ∀ a, Mem.byte s.mem.scratch a = 0 → Mem.byte t.mem.scratch a = 0

theorem LosesWords.trans {c : Nat} {s t u : State} (h : LosesWords c s t) (h' : LosesWords c t u) : LosesWords c s u :=
  ⟨h.keeps.trans h'.keeps, h'.ext.trans h.ext, h'.shared.trans h.shared, fun a ha => (h'.outside a ha).trans (h.outside a ha),
    fun a ha => h'.zero a (h.zero a ha)⟩

theorem LosesWords.refl (c : Nat) (s : State) : LosesWords c s s :=
  ⟨KeepsBut.refl _ s, rfl, rfl, fun _ _ => rfl, fun _ h => h⟩

theorem State.scratch_loseScratch : (s.loseScratch c o).mem.scratch =
    Mem.setBytes s.mem.scratch (c * 65536 + o % 65536 / 8 * 8) (List.replicate 8 0) := rfl

theorem State.byte_loseScratch {j : Nat} (hj : j < 8) :
    Mem.byte (s.loseScratch c o).mem.scratch (c * 65536 + o % 65536 / 8 * 8 + j) = 0 := by
  rw [State.scratch_loseScratch, Mem.byte_setBytes_in _ _ _ j (by rw [List.length_replicate]; exact hj), List.getElem_replicate]

theorem State.byte_loseScratch_of_out {a : Nat} (h : a < c * 65536 + o % 65536 / 8 * 8 ∨ c * 65536 + o % 65536 / 8 * 8 + 8 ≤ a) :
    Mem.byte (s.loseScratch c o).mem.scratch a = Mem.byte s.mem.scratch a := by
  rw [State.scratch_loseScratch, Mem.byte_setBytes_of_out _ _ _ _ (by rw [List.length_replicate]; exact h)]

theorem State.setMem_keepsBut (m : Mems) : KeepsBut [.mem] s { s with mem := m } := by
  intro p hp
  cases p
  case mem => exact absurd List.mem_cons_self hp
  all_goals rfl

/-- The memories after a word of a core's scratch is lost. -/
def State.lostMem (s : State) (c o : Nat) : Mems :=
  let a := c * 65536 + o % 65536 / 8 * 8
  { s.mem with scratch := Mem.setBytes s.mem.scratch a (List.replicate 8 0), bad := SMap.put s.mem.bad (2 ^ 48 + a / 8) none }

theorem State.loseScratch_eq : s.loseScratch c o =
    ({ s with mem := s.lostMem c o } : State).cairnRec .scratchLost (some ⟨.core, c⟩) (leBytes (o % 65536 / 8 * 8) 4) := rfl

theorem State.loseScratch_keepsBut : KeepsBut [.mem, .cairn] s (s.loseScratch c o) := by
  rw [State.loseScratch_eq]
  generalize s.lostMem c o = m
  have hmem : KeepsBut [.mem, .cairn] s { s with mem := m } := (s.setMem_keepsBut m).mono (by simp)
  exact hmem.trans ((State.cairnRec_keepsBut _ _ _ _).mono (by simp))

theorem State.loseScratch_loses : LosesWords c s (s.loseScratch c o) := by
  have hword : o % 65536 / 8 * 8 + 8 ≤ 65536 := by omega
  refine ⟨s.loseScratch_keepsBut c o, rfl, rfl, fun a ha => s.byte_loseScratch_of_out c o ?_, fun a ha => ?_⟩
  · rw [Nat.succ_mul] at ha
    exact ha.imp (fun h => Nat.lt_of_lt_of_le h (Nat.le_add_right _ _))
      (fun h => Nat.le_trans (by rw [Nat.add_assoc]; exact Nat.add_le_add_left hword _) h)
  · by_cases hin : a < c * 65536 + o % 65536 / 8 * 8 ∨ c * 65536 + o % 65536 / 8 * 8 + 8 ≤ a
    · rw [s.byte_loseScratch_of_out c o hin, ha]
    · obtain ⟨j, rfl⟩ := Nat.exists_eq_add_of_le (Nat.le_of_not_lt (fun h => hin (.inl h)))
      exact s.byte_loseScratch c o (by omega)

/-- The words of a core lost in the copy to its spare. -/
def State.lostWords (s : State) (c : Nat) (lost : List Nat) : List Nat :=
  ((lost ++ s.badScratch c).map (fun o => o % 65536 / 8 * 8)).eraseDups

/-- The state after the copy to the spare. -/
def State.copied (s : State) (c : Nat) (lost : List Nat) : State := (s.lostWords c lost).foldl (fun s o => s.loseScratch c o) s

theorem State.copied_loses (lost : List Nat) : LosesWords c s (s.copied c lost) :=
  foldl_inv (P := LosesWords c s) (fun t x h => h.trans (t.loseScratch_loses c x)) _ s (.refl c s)

/-- The words lost read 0. -/
theorem State.byte_copied {lost : List Nat} (ho : o ∈ lost) {j : Nat} (hj : j < 8) :
    Mem.byte (s.copied c lost).mem.scratch (c * 65536 + o % 65536 / 8 * 8 + j) = 0 := by
  have hword : (o % 65536 / 8 * 8) % 65536 / 8 * 8 = o % 65536 / 8 * 8 := by omega
  refine foldl_reaches (i := o % 65536 / 8 * 8) (Q := fun u => Mem.byte u.mem.scratch (c * 65536 + o % 65536 / 8 * 8 + j) = 0)
    (fun u => ?_) (fun u x hu => (u.loseScratch_loses c x).zero _ hu) ?_ s
  · have hzero := u.byte_loseScratch c (o % 65536 / 8 * 8) hj
    rwa [hword] at hzero
  · exact List.mem_eraseDups.2 (List.mem_map_of_mem (List.mem_append_left _ ho))

end Lost

/-! ### Memories stay while a block takes its next incarnation (R22, R24) -/

section Renew
variable (s : State) (b : Blk)

theorem State.purgeRefs_mem : (s.purgeRefs b).mem = s.mem := by
  unfold State.purgeRefs
  extract_lets spur s1 s2 s3 tables ing threads spur' ciph wins wqs zoa
  have h2 : s2.mem = s.mem := by
    refine foldl_keeps State.mem (fun u c => ?_) _ s1
    split <;> rfl
  split
  · exact h2
  · repeat' split
    all_goals exact h2

theorem State.wrapped_mem : (s.wrapped b).mem = s.mem := by
  unfold State.wrapped
  split
  · exact s.purgeRefs_mem b
  · rfl

theorem State.setBlkInc_mem (v : Nat) : (s.setBlkInc b v).mem = s.mem := by
  unfold State.setBlkInc
  split <;> rfl

theorem State.renewInc_eq : s.renewInc b = (s.wrapped b).setBlkInc b (incNext (s.blkInc b)) := rfl

theorem State.renewInc_mem : (s.renewInc b).mem = s.mem := by
  rw [State.renewInc_eq, State.setBlkInc_mem, State.wrapped_mem]

theorem State.enterService_mem : (s.enterService b).mem = s.mem := by
  refine Eq.trans ?_ (s.renewInc_mem b)
  unfold State.enterService
  dsimp only
  split <;> rfl

theorem State.enterService_regs_renewInc : (s.enterService b).regs = (s.renewInc b).regs := s.enterService_regs b

theorem incNext_lt {i : Nat} (h : i < 2 ^ 16) : incNext i < 2 ^ 16 := by
  unfold incNext
  split <;> omega

theorem State.blkInc_renewInc_self : (s.renewInc b).blkInc b = incNext (s.blkInc b) := by
  rw [State.renewInc_eq, State.blkInc_setBlkInc_self, Nat.mod_eq_of_lt (incNext_lt (s.blkInc_lt b))]

/-- An incarnation that a steady field shows stays. -/
theorem Steady.coreInc {s t : State} (h : Steady s t) (c : Nat) : t.blkInc ⟨.core, c⟩ = s.blkInc ⟨.core, c⟩ :=
  h.get .spurCoreStaInc c (by decide)

end Renew

/-! ### SPARE_DONE (R157, R160) -/

section Done
variable (s : State) (c : Nat) (on : Bool)

/-- A core comes back under its next incarnation, to service or disabled. -/
def State.comeBack (s : State) (c : Nat) (on : Bool) : State :=
  if on then (s.set .spurCoreStaState c 1).enterService ⟨.core, c⟩
  else ((s.set .spurCoreStaState c 0).renewInc ⟨.core, c⟩).setBlkState ⟨.core, c⟩ 1

theorem State.blkInc_set_coreState (v : Nat) : (s.set .spurCoreStaState c v).blkInc ⟨.core, c⟩ = s.blkInc ⟨.core, c⟩ :=
  s.get_set_apart (f := .spurCoreStaState) (g := .spurCoreStaInc) c c v (by decide) (by decide) (.inr (.inr (by decide)))

theorem State.get_renewInc_core {f : Fld} (hf : f.hi < 64) (hc : f.reg ≠ .crestCmpRef) (hd : f.reg ≠ .spurCoreSta ∨ f.hi < 48) (i : Nat) :
    (s.renewInc ⟨.core, c⟩).get f i = s.get f i := by
  rw [← State.get_of_regs (s.enterService_regs_renewInc ⟨.core, c⟩)]
  exact s.get_enterService ⟨.core, c⟩ (f := .spurCoreStaInc) rfl hc hf (hd.imp_right .inl) i

theorem State.comeBack_mem : (s.comeBack c on).mem = s.mem := by
  cases on with
  | true => exact State.enterService_mem _ _
  | false => exact State.renewInc_mem _ _

theorem State.comeBack_results : (s.comeBack c on).get .spurCoreStaState c = bit on ∧
    (s.comeBack c on).blkState ⟨.core, c⟩ = (if on then 2 else 1) ∧
    (s.comeBack c on).blkInc ⟨.core, c⟩ = incNext (s.blkInc ⟨.core, c⟩) ∧
    ∀ f i, f.hi < 64 → f.reg ≠ .crestCmpRef → f.reg ≠ .spurCoreSta → (s.comeBack c on).get f i = s.get f i := by
  cases on with
  | true =>
    let u := s.set .spurCoreStaState c 1
    have hdef : s.comeBack c true = u.enterService ⟨.core, c⟩ := if_pos rfl
    have hget : ∀ f i, (u.enterService ⟨.core, c⟩).get f i = (u.renewInc ⟨.core, c⟩).get f i :=
      State.get_of_regs (u.enterService_regs_renewInc ⟨.core, c⟩)
    rw [hdef]
    refine ⟨?_, u.blkState_enterService_self _, ?_,
      fun f i hf hc hne => (hget f i).trans ((u.get_renewInc_core c hf hc (.inl hne) i).trans (s.get_set_of_ne _ (.inl hne)))⟩
    · refine (hget _ _).trans ((u.get_renewInc_core c (by decide) (by decide) (.inr (by decide)) c).trans ?_)
      exact s.get_set_self .spurCoreStaState c 1 (by decide) (by decide)
    · rw [u.blkInc_enterService_self, Nat.mod_eq_of_lt (incNext_lt (u.blkInc_lt _)), s.blkInc_set_coreState]
  | false =>
    let u := s.set .spurCoreStaState c 0
    have hdef : s.comeBack c false = (u.renewInc ⟨.core, c⟩).setBlkState ⟨.core, c⟩ 1 := if_neg Bool.false_ne_true
    rw [hdef]
    refine ⟨?_, State.blkState_setBlkState_self (u.renewInc _) _ 1, ?_,
      fun f i hf hc hne => (u.get_renewInc_core c hf hc (.inl hne) i).trans (s.get_set_of_ne _ (.inl hne))⟩
    · exact (u.get_renewInc_core c (by decide) (by decide) (.inr (by decide)) c).trans (s.get_set_self .spurCoreStaState c 0 (by decide) (by decide))
    · exact (u.blkInc_renewInc_self _).trans (congrArg incNext (s.blkInc_set_coreState c 0))

theorem isBgTarget_bg (hc : c < 256) : isBgTarget (0x8000 + c) = true := by
  simp only [isBgTarget, inRange, Bool.and_eq_true, decide_eq_true_eq]
  omega

/-- The SEV sources of a background context are its own. -/
theorem State.setSev_bg_only (hc : c < 256) : OnlyContexts (· = bgKey c) s (s.setSev (0x8000 + c)) := by
  have hctx : s.targetCtxs (0x8000 + c) = [bgKey c] := by
    rw [State.targetCtxs, if_pos (isBgTarget_bg c hc), Nat.add_sub_cancel_left]
  unfold State.setSev
  dsimp only
  rw [hctx, List.foldl_cons, List.foldl_nil]
  exact (OnlyContexts.refl (p := fun j => j = bgKey c) s).modThr rfl _

theorem State.thr_dropChan (r : Nat) (ds : List Nat) (ch k : Nat) : (State.dropChan r ds s ch).thr k = s.thr k := by
  unfold State.dropChan
  split <;> rfl

/-- A background context that takes an image leaves the threads. -/
theorem State.bgTake_results (hc : c < 256) (im : Option Image) :
    Steady s (s.bgTake c im) ∧ ∀ k, k ≠ bgKey c → (s.bgTake c im).thr k = s.thr k := by
  by_cases h : SMap.find s.spur.images (bgRun c) = im
  · rw [State.bgTake, if_pos h]
    exact ⟨Steady.refl s, fun _ _ => rfl⟩
  · let u : State := { s with spur := { s.spur with images := SMap.put s.spur.images (bgRun c) im } }
    have hdef : s.bgTake c im = (u.setSev (0x8000 + c)).dropChans (c / 16) := if_neg h
    have hu : Steady s u := ⟨rfl, rfl, fun f i _ => State.get_of_regs rfl f i⟩
    have hsev := u.setSev_bg_only c hc
    rw [hdef, State.dropChans_eq_foldl]
    refine ⟨(hu.trans (.of_keepsBut hsev.keeps (by decide) (by decide) (by decide))).trans
      (Steady.foldl (fun t x => t.dropChan_steady _ _ x) _ _), fun k hk => ?_⟩
    exact (foldl_keeps (fun v => v.thr k) (fun v x => v.thr_dropChan _ _ x k) _ (u.setSev (0x8000 + c))).trans (hsev.others k hk)

/-- A background context that restarts leaves the threads. -/
theorem State.resetBg_results (hc : c < 256) : Steady s (s.resetBg c) ∧ ∀ k, k ≠ bgKey c → (s.resetBg c).thr k = s.thr k := by
  have hcore : keyCore (bgKey c) = c := by unfold keyCore bgKey; omega
  let b := SMap.getD s.spur.bgBank c 0
  let u := s.bgTake c (SMap.find s.spur.images (bgImg c b))
  obtain ⟨hst, hthr⟩ := s.bgTake_results c hc (SMap.find s.spur.images (bgImg c b))
  unfold State.resetBg State.bgRestart
  dsimp only
  rw [hcore]
  refine ⟨(hst.trans (u.modThr_steady _ _)).trans (State.modThr_steady _ _ _), fun k hk => ?_⟩
  rw [State.thr_modThr_of_ne _ _ hk, State.thr_modThr_of_ne _ _ hk]
  exact hthr k hk

/-- The contexts of a core that comes back restart. -/
def State.restartCore (s : State) (c : Nat) (on : Bool) : State :=
  if on then ((List.range 16).foldl (fun s t => s.resetThr (thrKey c t)) s).resetBg c
  else (List.range 16).foldl (fun s t => s.resetThr (thrKey c t)) s

theorem State.restartCore_steady (hc : c < 256) : Steady s (s.restartCore c on) := by
  have hthreads := Steady.foldl (fun t x => t.resetThr_steady (thrKey c x)) (List.range 16) s
  unfold State.restartCore
  split
  · exact hthreads.trans (State.resetBg_results _ c hc).1
  · exact hthreads

theorem State.restartCore_fresh (hc : c < 256) {i : Nat} (hi : i < 16) : ((s.restartCore c on).thr (thrKey c i)).fresh := by
  have hthreads : (((List.range 16).foldl (fun s t => s.resetThr (thrKey c t)) s).thr (thrKey c i)).fresh := by
    refine foldl_visit (i := i) (P := fun _ => True) (Q := fun u => (u.thr (thrKey c i)).fresh) (fun _ _ _ _ => trivial)
      (fun u _ => u.resetThr_fresh _) (fun u x hx hu => ?_) List.nodup_range (List.mem_range.2 hi) s trivial
    rwa [u.thr_resetThr_of_ne _ (thrKey_ne (Ne.symm hx))]
  unfold State.restartCore
  split
  · rw [(State.resetBg_results _ c hc).2 _ (thrKey_ne_bgKey hi)]
    exact hthreads
  · exact hthreads

end Done

theorem exec_spareDone_of_ne {c : Core} {lost : List Nat} {s : State} (h : s.get .spurCoreStaState c.val ≠ 2) :
    exec (.spareDone c lost) s = .next s := if_neg h

theorem exec_spareDone {c : Core} {lost : List Nat} {s : State} (h : s.get .spurCoreStaState c.val = 2) : exec (.spareDone c lost) s =
    let u := s.copied c.val lost
    let on := u.is .spurCoreCtlEn c.val
    .next (((((u.comeBack c.val on).restartCore c.val on).bump .spurRidgeSpareCntSpares (c.val / 16)).unpark c.val).cairnRec .spurSpare
      (some ⟨.core, c.val⟩) [BitVec.ofNat 8 (c.val / 16), 1, 0]) := by
  have hdef : exec (.spareDone c lost) s = execSpareDone c lost s := rfl
  rw [hdef, execSpareDone, if_pos h]
  have hcopied : ((lost ++ s.badScratch c.val).map (fun o => o % 65536 / 8 * 8)).eraseDups.foldl (fun s o => s.loseScratch c.val o) s =
    s.copied c.val lost := rfl
  dsimp only
  rw [hcopied]
  cases (s.copied c.val lost).is .spurCoreCtlEn c.val with
  | false => rfl
  | true => rfl

theorem completes_spareDone {c : Core} {s : State} (lost : List Nat) (h : s.get .spurCoreStaState c.val = 2) : let n := c.val
    Completes (.spareDone c lost) s (fun t =>
      t.get .spurCoreStaState n = bit (s.is .spurCoreCtlEn n) ∧ t.blkState ⟨.core, n⟩ = (if s.is .spurCoreCtlEn n then 2 else 1) ∧
      t.blkInc ⟨.core, n⟩ = (if s.blkInc ⟨.core, n⟩ = 0xFFFF then 1 else s.blkInc ⟨.core, n⟩ + 1) ∧
      t.get .spurRidgeSpareCntSpares (n / 16) = (s.get .spurRidgeSpareCntSpares (n / 16) + 1) % 2 ^ Fld.spurRidgeSpareCntSpares.width ∧
      (∀ o ∈ lost, ∀ j, j < 8 → Mem.byte t.mem.scratch (n * 65536 + o % 65536 / 8 * 8 + j) = 0) ∧
      (∀ a, a < n * 65536 ∨ (n + 1) * 65536 ≤ a → Mem.byte t.mem.scratch a = Mem.byte s.mem.scratch a) ∧
      t.mem.ext = s.mem.ext ∧ t.mem.shared = s.mem.shared ∧ ∀ i, i < 16 → (t.thr (thrKey n i)).gprs = []) := by
  intro n
  let u := s.copied n lost
  let on := u.is .spurCoreCtlEn n
  let v := u.comeBack n on
  let w := v.restartCore n on
  let x := w.bump .spurRidgeSpareCntSpares (n / 16)
  have hloses := s.copied_loses n lost
  have hregs : u.regs = s.regs := hloses.keeps .regs (by decide)
  have hon : on = s.is .spurCoreCtlEn n := by rw [State.is, ← State.get_of_regs hregs, ← State.is]
  have hinc : u.blkInc ⟨.core, n⟩ = s.blkInc ⟨.core, n⟩ := State.get_of_regs hregs .spurCoreStaInc n
  obtain ⟨hstate, hblk, hnext, hother⟩ := u.comeBack_results n on
  have hw : Steady v w := v.restartCore_steady n on c.isLt
  have hend : Steady x ((x.unpark n).cairnRec .spurSpare (some ⟨.core, n⟩) [BitVec.ofNat 8 (n / 16), 1, 0]) :=
    (x.unpark_steady n).trans (State.cairnRec_steady _ _ _ _)
  have hmem : ((x.unpark n).cairnRec .spurSpare (some ⟨.core, n⟩) [BitVec.ofNat 8 (n / 16), 1, 0]).mem = u.mem := by
    rw [hend.mem]
    exact hw.mem.trans (u.comeBack_mem n on)
  refine ⟨_, exec_spareDone h, ?_, ?_, ?_, ?_, fun o ho j hj => ?_, fun a ha => ?_, ?_, ?_, fun i hi => ?_⟩
  · rw [← hon]
    exact (hend.get _ _ (by decide)).trans ((w.get_set_of_ne _ (.inl (by decide))).trans ((hw.get _ _ (by decide)).trans hstate))
  · rw [← hon]
    exact (hend.blkState _).trans ((hw.blkState _).trans hblk)
  · rw [← hinc]
    exact (hend.coreInc n).trans ((w.get_set_of_ne (g := .spurCoreStaInc) _ (.inl (by decide))).trans ((hw.coreInc n).trans hnext))
  · refine (hend.get _ _ (by decide)).trans ((w.get_bump_self _ _ _ (by decide) (by decide)).trans ?_)
    rw [hw.get _ _ (by decide), hother _ _ (by decide) (by decide) (by decide), State.get_of_regs hregs]
  · rw [hmem]
    exact s.byte_copied n o ho hj
  · rw [hmem]
    exact hloses.outside a ha
  · rw [hmem]
    exact hloses.ext
  · rw [hmem]
    exact hloses.shared
  · obtain ⟨st, hst⟩ := x.thr_unpark n (thrKey n i)
    rw [State.thr_cairnRec, hst]
    exact (v.restartCore_fresh n on c.isLt hi).1

/-! ### SPARE_RETURN and CC_FAIL (R158, R161, R456) -/

theorem exec_spareReturn_available {r : Fin 16} {s : State} (h : s.is .spurRidgeStaSpareAvail r.val = true) :
    exec (.spareReturn r) s = .next s := if_pos h

theorem completes_spareReturn {r : Fin 16} {s : State} (h : s.is .spurRidgeStaSpareAvail r.val = false) :
    Completes (.spareReturn r) s (fun t => t.get .spurRidgeStaSpareAvail r.val = 1 ∧ RegsBut [(.spurRidgeSta, r.val)] s t ∧
      KeepsBut [.regs] s t) := by
  have hexec : exec (.spareReturn r) s = .next (s.set .spurRidgeStaSpareAvail r.val 1) := if_neg (by rw [h]; exact Bool.false_ne_true)
  exact ⟨_, hexec, State.get_set_self _ _ _ _ (by decide) (by decide), s.set_regsBut .spurRidgeStaSpareAvail r.val 1, s.set_keepsBut _ _ _⟩

section Control
variable {k by_ : Fin 8} {s : State}

theorem exec_ccFail_of_not (h : k = by_ ∨ s.blkState ⟨.control, k.val⟩ ≠ 2 ∨ s.blkState ⟨.control, by_.val⟩ ≠ 2) :
    exec (.ccFail k by_) s = .next s := if_pos h

/-- The ridges of one control core are another's. -/
def State.giveRidges (s : State) (k b : Nat) : State :=
  (s.set .spurCcStaRidges b (s.get .spurCcStaRidges k ||| s.get .spurCcStaRidges b)).set .spurCcStaRidges k 0

theorem exec_ccFail (hne : k ≠ by_) (hk : s.blkState ⟨.control, k.val⟩ = 2) (hb : s.blkState ⟨.control, by_.val⟩ = 2) :
    exec (.ccFail k by_) s = .next (((s.giveRidges k.val by_.val).setBlkState ⟨.control, k.val⟩ 4).cairnRec .ccFail
      (some ⟨.control, k.val⟩) [BitVec.ofNat 8 k.val, BitVec.ofNat 8 by_.val]) :=
  if_neg (by simp [hne, hk, hb])

theorem State.setBlkState_keepsBut (s : State) (b : Blk) (v : Nat) : KeepsBut [.blkSt] s (s.setBlkState b v) := by
  intro p hp
  cases p
  case blkSt => exact absurd List.mem_cons_self hp
  all_goals rfl

theorem completes_ccFail (hne : k ≠ by_) (hk : s.blkState ⟨.control, k.val⟩ = 2) (hb : s.blkState ⟨.control, by_.val⟩ = 2) :
    Completes (.ccFail k by_) s (fun t =>
      t.get .spurCcStaRidges by_.val = s.get .spurCcStaRidges k.val ||| s.get .spurCcStaRidges by_.val ∧
      t.get .spurCcStaRidges k.val = 0 ∧ t.blkState ⟨.control, k.val⟩ = 4 ∧
      (∃ e, t.cairn.raised = s.cairn.raised ++ [e] ∧ e.code = .ccFail) ∧
      RegsBut [(.spurCcSta, k.val), (.spurCcSta, by_.val)] s t ∧ KeepsBut [.regs, .blkSt, .cairn] s t) := by
  let all := s.get .spurCcStaRidges k.val ||| s.get .spurCcStaRidges by_.val
  let u := s.giveRidges k.val by_.val
  let v := u.setBlkState ⟨.control, k.val⟩ 4
  let t := v.cairnRec .ccFail (some ⟨.control, k.val⟩) [BitVec.ofNat 8 k.val, BitVec.ofNat 8 by_.val]
  have hregs : t.regs = u.regs := rfl
  have hall : all < 2 ^ 16 := Nat.or_lt_two_pow (s.get_lt .spurCcStaRidges k.val) (s.get_lt .spurCcStaRidges by_.val)
  have hbut : RegsBut [(.spurCcSta, k.val), (.spurCcSta, by_.val)] s u := State.set_regsBut_of_mem _
    (State.set_regsBut_of_mem _ (RegsBut.refl _ s) (List.mem_cons_of_mem _ List.mem_cons_self)) List.mem_cons_self
  have hkeep : KeepsBut [.regs, .blkSt, .cairn] s u :=
    State.set_keepsBut_of_mem _ _ _ (State.set_keepsBut_of_mem _ _ _ (KeepsBut.refl _ s) (by simp)) (by simp)
  have hblk : KeepsBut [.regs, .blkSt, .cairn] u v := (u.setBlkState_keepsBut _ _).mono (by simp)
  have hrec : KeepsBut [.regs, .blkSt, .cairn] v t := (v.cairnRec_keepsBut _ _ _).mono (by simp)
  obtain ⟨e, he, hcode, -⟩ := v.cairnRec_raised .ccFail (some ⟨.control, k.val⟩) [BitVec.ofNat 8 k.val, BitVec.ofNat 8 by_.val]
  refine ⟨t, exec_ccFail hne hk hb, ?_, ?_, u.blkState_setBlkState_self _ 4, ⟨e, congrArg Cairn.raised he, hcode⟩, hbut,
    (hkeep.trans hblk).trans hrec⟩
  · rw [State.get_of_regs hregs]
    refine (State.get_set_of_ne _ (f := .spurCcStaRidges) 0 (.inr (fun e => hne (Fin.ext e.symm)))).trans ?_
    exact (s.get_set_self .spurCcStaRidges by_.val all (by decide) (by decide)).trans (Nat.mod_eq_of_lt hall)
  · rw [State.get_of_regs hregs]
    exact State.get_set_self _ .spurCcStaRidges k.val 0 (by decide) (by decide)

end Control

/-- Settles O30: the clauses are the lemmas of the failing core, the core that comes back, the spare and the control core. -/
theorem sparingResults : Obligations.SparingResults := by
  unfold Obligations.SparingResults
  intro c lost r k by_ s
  exact ⟨exec_spurCoreFail_repair, fun h => ⟨_, exec_spurCoreFail h, s.failCore_results c.val c.isLt⟩, exec_spareDone_of_ne,
    completes_spareDone lost, exec_spareReturn_available, completes_spareReturn, exec_ccFail_of_not, completes_ccFail⟩

end Sys2Proof.Machine
end

section
/-! PROOFS. Activations: ACTIVATE, its instant and its end (R150-R152). -/

namespace Sys2Proof.Machine

/-! ### ACTIVATE (R150, R211, R359) -/

section Activate
variable {f : Fn} {seq : BitVec 32} {body : Bytes} {images : List Bytes} {s : State}

/-- What ACTIVATE does once its request is accepted. -/
def State.activate (s : State) (f : Nat) (body : Bytes) (images : List Bytes) : State :=
  if !actShape body then s.reply f 0x11 1 0 []
  else if (actTargets body).any (fun t =>
      if isBgTarget t then f != 0 else decide (t < 4096) && s.ownerOf ⟨.group, t⟩ != f) then s.reply f 0x11 2 0 []
  else
    let c := s.actCheck f body images
    if c.1 ≠ 0 then s.reply f 0x11 7 c.1 []
    else match c.2.actJudge f (BitVec.ofNat 64 (leAt body 0 8)) (actChanges body) with
      | .inl s => (s.actPend body).recountAll.reply f 0x11 0 0 []
      | .inr r => s.reply f 0x11 6 0 r

theorem exec_activate (h : s.maySubmit f.val seq) :
    exec (.activate f seq body images) s = .next ((s.accept f.val seq 0x11).activate f.val body images) := by
  have hdef : exec (.activate f seq body images) s =
    .next (s.submit f.val seq 0x11 false (fun s => s.activate f.val body images)) := rfl
  rw [hdef, State.submit_of_maySubmit h, Bool.false_and, if_neg Bool.false_ne_true]

theorem State.activate_malformed {n : Nat} (h : actShape body = false) : s.activate n body images = s.reply n 0x11 1 0 [] :=
  if_pos (by rw [h]; rfl)

/-- Is a request well formed, and are its targets the function's own? -/
def State.actOwned (s : State) (f : Nat) (body : Bytes) : Prop :=
  ∀ t ∈ actTargets body, (isBgTarget t = true → f = 0) ∧ (isBgTarget t = false → t < 4096 → s.ownerOf ⟨.group, t⟩ = f)

theorem State.actOwned_not_denied {n : Nat} (h : s.actOwned n body) : (actTargets body).any (fun t =>
    if isBgTarget t then n != 0 else decide (t < 4096) && s.ownerOf ⟨.group, t⟩ != n) = false := by
  rw [List.any_eq_false]
  intro t ht
  obtain ⟨hbg, hgrp⟩ := h t ht
  cases hb : isBgTarget t with
  | true => simp [hbg hb]
  | false => simpa using hgrp hb

theorem State.activate_checked {n : Nat} (h : actShape body = true) (ho : s.actOwned n body) : s.activate n body images =
    if (s.actCheck n body images).1 ≠ 0 then s.reply n 0x11 7 (s.actCheck n body images).1 []
    else match (s.actCheck n body images).2.actJudge n (BitVec.ofNat 64 (leAt body 0 8)) (actChanges body) with
      | .inl s => (s.actPend body).recountAll.reply n 0x11 0 0 []
      | .inr r => s.reply n 0x11 6 0 r := by
  unfold State.activate
  rw [h, Bool.not_true, if_neg Bool.false_ne_true, State.actOwned_not_denied ho, if_neg Bool.false_ne_true]

theorem State.activate_refused {n : Nat} (h : actShape body = true) (ho : s.actOwned n body)
    (hc : (s.actCheck n body images).1 ≠ 0) : s.activate n body images = s.reply n 0x11 7 (s.actCheck n body images).1 [] := by
  rw [State.activate_checked h ho, if_pos hc]

theorem State.activate_accepted {n : Nat} {w : State} (h : actShape body = true) (ho : s.actOwned n body)
    (hc : (s.actCheck n body images).1 = 0)
    (hj : (s.actCheck n body images).2.actJudge n (BitVec.ofNat 64 (leAt body 0 8)) (actChanges body) = .inl w) :
    s.activate n body images = (w.actPend body).recountAll.reply n 0x11 0 0 [] := by
  rw [State.activate_checked h ho, if_neg (not_not_intro hc), hj]

/-- An activation that is pending or not over bars another (R150). -/
theorem State.actCheck_pending {n : Nat} (h : s.spur.act.isSome = true) : (s.actCheck n body images).1 = 1 := by
  unfold State.actCheck
  dsimp only
  rw [if_pos h]

/-- An instant less than 100 µs ahead is refused (R150). -/
theorem State.actCheck_early {n : Nat} (h : s.spur.act = none) (ht : ltDiff (BitVec.ofNat 64 (leAt body 0 8)) s.lt < 6553600000) :
    (s.actCheck n body images).1 = 2 := by
  unfold State.actCheck
  dsimp only
  rw [h, Option.isSome_none, if_neg Bool.false_ne_true, if_pos (.inl ht)]

theorem State.actPend_pending (s : State) (body : Bytes) : (s.actPend body).get .spurActStaPending = 1 :=
  State.get_set_self _ .spurActStaPending 0 1 (by decide) (by decide)

theorem State.actPend_act (s : State) (body : Bytes) : ∃ a, (s.actPend body).spur.act = some a ∧
    a.at_ = BitVec.ofNat 64 (leAt body 0 8) ∧ a.begun = false ∧ a.targets = actTargets body ∧
    a.epoch = (s.get .spurActStaEpoch + 1) % 256 := ⟨_, rfl, rfl, rfl, rfl, rfl⟩

end Activate

/-! ### The instant of an activation (R151) -/

section Instant
variable (s : State)

theorem State.setChan_keepsBut (i : Nat) (l : List (List (BitVec 64))) : KeepsBut [.regs, .spur] s (s.setChan i l) :=
  State.set_keepsBut_of_mem _ _ _ ((s.setSpur_keepsBut _).mono (by simp)) (by simp)

theorem State.dropChan_keepsBut (r : Nat) (ds : List Nat) (ch : Nat) : KeepsBut [.regs, .spur] s (State.dropChan r ds s ch) := by
  unfold State.dropChan
  split
  · exact ((s.setReg_keepsBut _ _ _).mono (by simp)).trans (State.setChan_keepsBut _ _ _)
  · exact KeepsBut.refl _ s

theorem State.dropChans_keepsBut (r : Nat) : KeepsBut [.regs, .spur] s (s.dropChans r) := by
  rw [State.dropChans_eq_foldl]
  exact foldl_keepsBut (fun t x => t.dropChan_keepsBut _ _ x) _ s

theorem State.setSev_keepsBut (t : Nat) : KeepsBut [.spur] s (s.setSev t) :=
  foldl_keepsBut (fun u k => u.modThr_keepsBut k _) _ s

theorem State.bgTake_keepsBut (c : Nat) (im : Option Image) : KeepsBut [.regs, .spur] s (s.bgTake c im) := by
  by_cases h : SMap.find s.spur.images (bgRun c) = im
  · rw [State.bgTake, if_pos h]
    exact KeepsBut.refl _ s
  · let u : State := { s with spur := { s.spur with images := SMap.put s.spur.images (bgRun c) im } }
    have hdef : s.bgTake c im = (u.setSev (0x8000 + c)).dropChans (c / 16) := if_neg h
    have hsev : KeepsBut [.spur] s (u.setSev (0x8000 + c)) := KeepsBut.trans (s.setSpur_keepsBut _) (u.setSev_keepsBut _)
    rw [hdef]
    exact (hsev.mono (by simp)).trans (State.dropChans_keepsBut _ _)

theorem State.resetBg_keepsBut (c : Nat) : KeepsBut [.regs, .spur] s (s.resetBg c) := by
  have hmod : ∀ (u : State) (k : Nat) (f : Thread → Thread), KeepsBut [.regs, .spur] u (u.modThr k f) :=
    fun u k f => (u.modThr_keepsBut k f).mono (by simp)
  unfold State.resetBg State.bgRestart
  exact ((s.bgTake_keepsBut _ _).trans (hmod _ _ _)).trans (hmod _ _ _)

theorem State.flipTarget_keepsBut (t : Nat) : KeepsBut [.regs, .spur] s (s.flipTarget t) := by
  unfold State.flipTarget
  split
  · dsimp only
    have hspur : ∀ x : Spur, KeepsBut [.regs, .spur] s { s with spur := x } := fun x => (s.setSpur_keepsBut x).mono (by simp)
    split
    · exact (hspur _).trans (State.resetBg_keepsBut _ _)
    · exact hspur _
  · exact ((s.set_keepsBut _ _ _).trans (State.set_keepsBut _ _ _ _)).mono (by simp)

/-- A group's banks exchange. -/
theorem State.activeBank_flipTarget {g : Nat} (h : isBgTarget g = false) :
    (s.flipTarget g).get .spurGrpStaActiveBank g = 1 - s.get .spurGrpStaActiveBank g := by
  unfold State.flipTarget
  rw [h, if_neg Bool.false_ne_true]
  refine (State.get_set_beside (f := .spurGrpStaOldLive) (g := .spurGrpStaActiveBank) _ _ rfl (by decide) (by decide)
    (.inl (by decide))).trans ((s.get_set_self .spurGrpStaActiveBank g _ (by decide) (by decide)).trans ?_)
  exact Nat.mod_eq_of_lt (Nat.lt_of_le_of_lt (Nat.sub_le _ _) (by decide))

/-- The epoch that begins is shown, and counted. -/
def State.showEpoch (s : State) (n : Nat) : State :=
  ((((s.set .spurActStaEpoch 0 n).set .spurActStaPending 0 0).set .spurActStaNextEpoch 0 0).set .spurActStaOldLive 0 1).bump .spurActStaActs

theorem State.showEpoch_keepsBut (n : Nat) : KeepsBut [.regs] s (s.showEpoch n) := by
  unfold State.showEpoch
  exact ((((s.set_keepsBut _ _ _).trans (State.set_keepsBut _ _ _ _)).trans (State.set_keepsBut _ _ _ _)).trans
    (State.set_keepsBut _ _ _ _)).trans (State.set_keepsBut _ _ _ _)

theorem State.get_showEpoch_of_ne (n : Nat) {f : Fld} (hf : f.reg ≠ .spurActSta) (i : Nat) : (s.showEpoch n).get f i = s.get f i := by
  rw [State.showEpoch, State.bump, State.get_set_of_ne _ _ (.inl hf), State.get_set_of_ne _ _ (.inl hf),
    State.get_set_of_ne _ _ (.inl hf), State.get_set_of_ne _ _ (.inl hf), State.get_set_of_ne _ _ (.inl hf)]

theorem State.showEpoch_results {n : Nat} (hn : n < 256) :
    (s.showEpoch n).get .spurActStaEpoch = n ∧ (s.showEpoch n).get .spurActStaPending = 0 := by
  have hbeside : ∀ (u : State) (f g : Fld) (v : Nat), g.reg = f.reg ∧ f.lo ≤ f.hi ∧ g.hi < 64 ∧ (g.hi < f.lo ∨ f.hi < g.lo) →
      (u.set f 0 v).get g 0 = u.get g 0 := fun u f g v ⟨hr, hl, hh, hd⟩ => u.get_set_beside v hr hl hh hd
  unfold State.showEpoch State.bump
  constructor
  · rw [hbeside _ .spurActStaActs _ _ (by decide), hbeside _ .spurActStaOldLive _ _ (by decide),
      hbeside _ .spurActStaNextEpoch _ _ (by decide), hbeside _ .spurActStaPending _ _ (by decide),
      State.get_set_self _ .spurActStaEpoch _ _ (by decide) (by decide)]
    exact Nat.mod_eq_of_lt hn
  · rw [hbeside _ .spurActStaActs _ _ (by decide), hbeside _ .spurActStaOldLive _ _ (by decide),
      hbeside _ .spurActStaNextEpoch _ _ (by decide), State.get_set_self _ .spurActStaPending _ _ (by decide) (by decide)]
    rfl

theorem exec_programEpochAt_none {s : State} (h : s.spur.act = none) : exec .programEpochAt s = .next s := by
  have hdef : exec .programEpochAt s = execProgramEpochAt s := rfl
  rw [hdef, execProgramEpochAt, h]

theorem exec_programEpochAt_begun {s : State} {a : Activation} (h : s.spur.act = some a) (hb : a.begun = true) :
    exec .programEpochAt s = .next s := by
  have hdef : exec .programEpochAt s = execProgramEpochAt s := rfl
  rw [hdef, execProgramEpochAt, h]
  exact if_pos hb

/-- The state in which an activation's targets have exchanged their banks and its epoch is in force. -/
def State.epochBegun (s : State) (a : Activation) : State := (a.targets.foldl (fun s t => s.flipTarget t) s).showEpoch a.epoch

theorem State.epochBegun_keepsBut (a : Activation) : KeepsBut [.regs, .spur] s (s.epochBegun a) :=
  (foldl_keepsBut (fun t x => t.flipTarget_keepsBut x) a.targets s).trans ((State.showEpoch_keepsBut _ _).mono (by simp))

theorem exec_programEpochAt_due {s : State} {a : Activation} (h : s.spur.act = some a) (hb : a.begun = false)
    (ht : 0 ≤ ltDiff s.lt a.at_) : ∃ es : List EpochRec, exec .programEpochAt s =
      .next { s.epochBegun a with spur := { (s.epochBegun a).spur with act := some { a with begun := true }, epochs := es } } := by
  have hdef : exec .programEpochAt s = execProgramEpochAt s := rfl
  rw [hdef, execProgramEpochAt, h]
  dsimp only
  rw [if_neg (by rw [hb]; exact Bool.false_ne_true), s.advanceTo_of_reached ht]
  exact ⟨_, rfl⟩

theorem completes_programEpochAt {s : State} {a : Activation} (h : s.spur.act = some a) (hb : a.begun = false)
    (ht : 0 ≤ ltDiff s.lt a.at_) (he : a.epoch < 256) : Completes .programEpochAt s (fun t => t.get .spurActStaEpoch = a.epoch ∧
      t.get .spurActStaPending = 0 ∧ t.spur.act = some { a with begun := true } ∧
      (∀ g, a.targets = [g] → isBgTarget g = false → t.get .spurGrpStaActiveBank g = 1 - s.get .spurGrpStaActiveBank g) ∧
      KeepsBut [.regs, .spur] s t) := by
  obtain ⟨es, hexec⟩ := exec_programEpochAt_due h hb ht
  obtain ⟨hepoch, hpend⟩ := (a.targets.foldl (fun s t => s.flipTarget t) s).showEpoch_results he
  refine ⟨_, hexec, ?_, ?_, rfl, fun g hg hbg => ?_, ?_⟩
  · exact (State.get_of_regs rfl _ _).trans hepoch
  · exact (State.get_of_regs rfl _ _).trans hpend
  · refine (State.get_of_regs (s := s.epochBegun a) rfl _ _).trans ?_
    rw [State.epochBegun, State.get_showEpoch_of_ne _ _ (by decide), hg]
    exact s.activeBank_flipTarget hbg
  · exact (s.epochBegun_keepsBut a).trans ((State.setSpur_keepsBut _ _).mono (by simp))

end Instant

/-! ### The end of an activation (R152) -/

section Retire
variable (s : State)

/-- What the end of an activation shows: Spur's own state, and whether old images live. -/
def State.actView (s : State) : Spur × Nat := (s.spur, s.get .spurActStaOldLive)

theorem State.actView_set {f : Fld} (hf : f.reg ≠ .spurActSta) (i v : Nat) : (s.set f i v).actView = s.actView :=
  congrArg (Prod.mk s.spur) (s.get_set_of_ne v (.inl (Ne.symm hf)))

theorem State.actView_of {s t : State} (hs : t.spur = s.spur) (hr : t.regs = s.regs) : t.actView = s.actView := by
  rw [State.actView, hs, State.get_of_regs hr, State.actView]

theorem State.setQueue_actView (p q : Nat) (l : List QEnt) : (s.setQueue p q l).actView = s.actView := by
  unfold State.setQueue
  dsimp only
  rw [State.actView_set _ (by decide), State.actView_set _ (by decide), State.actView_set _ (by decide)]
  exact State.actView_of rfl rfl

theorem State.countClamped_actView (p q : Nat) : (s.countClamped p q).actView = s.actView := by
  unfold State.countClamped
  split
  · dsimp only
    rw [State.setQueue_actView]
    refine foldl_keeps State.actView (fun u e => ?_) _ s
    split
    · exact u.actView_set (by decide) _ _
    · rfl
  · rfl

theorem State.recountAll_actView : s.recountAll.actView = s.actView := by
  have hports : ∀ u : State, ((List.range 256).foldl (fun s n => s.countPort n) u).actView = u.actView :=
    fun u => foldl_keeps State.actView (fun v n => v.actView_set (by decide) _ _) _ u
  have hdly : ∀ (u : State) (ps : List Nat), (u.writeDly ps).actView = u.actView := fun u ps =>
    foldl_keeps State.actView (fun v p => foldl_keeps State.actView
      (fun w q => (State.countClamped_actView _ p q).trans (w.actView_set (by decide) _ _)) _ v) ps u
  unfold State.recountAll
  split
  · rfl
  · rw [hdly, State.recount, State.actView_set _ (by decide), hports]
    rfl

theorem State.modThr_images (k : Nat) (f : Thread → Thread) : (s.modThr k f).spur.images = s.spur.images := rfl

theorem State.setSev_images (t : Nat) : (s.setSev t).spur.images = s.spur.images := by
  unfold State.setSev
  exact foldl_keeps (fun u => u.spur.images) (fun u k => u.modThr_images k _) _ s

theorem State.dropChans_images (r : Nat) : (s.dropChans r).spur.images = s.spur.images := by
  rw [State.dropChans_eq_foldl]
  refine foldl_keeps (fun u => u.spur.images) (fun u ch => ?_) _ s
  unfold State.dropChan
  split <;> rfl

/-- The image in a group's inactive bank is gone. -/
theorem State.dropOld_images {g : Nat} (h : isBgTarget g = false) :
    SMap.find (s.dropOld g).spur.images (grpImg g (1 - s.get .spurGrpStaActiveBank g)) = none := by
  let u : State := { s with spur := { s.spur with images := SMap.put s.spur.images (targetImg g (s.loadBank g)) none } }
  have hkey : targetImg g (s.loadBank g) = grpImg g (1 - s.get .spurGrpStaActiveBank g) := by
    rw [targetImg, State.loadBank, h, if_neg Bool.false_ne_true, if_neg Bool.false_ne_true]
  have himages : (s.dropOld g).spur.images = (u.setSev g).spur.images := by
    unfold State.dropOld
    dsimp only
    rw [h, if_neg Bool.false_ne_true, State.set_spur]
    refine foldl_keeps (fun v => v.spur.images) (fun v k => ?_) _ _
    split <;> rfl
  rw [himages, State.setSev_images, ← hkey]
  exact SMap.find_put_self s.spur.images _ none

theorem exec_oldImagesRetire_none {s : State} (h : s.spur.act = none) : exec .oldImagesRetire s = .next s := by
  have hdef : exec .oldImagesRetire s = execOldImagesRetire s := rfl
  rw [hdef, execOldImagesRetire, h]

theorem exec_oldImagesRetire_pending {s : State} {a : Activation} (h : s.spur.act = some a) (hb : a.begun = false) :
    exec .oldImagesRetire s = .next s := by
  have hdef : exec .oldImagesRetire s = execOldImagesRetire s := rfl
  rw [hdef, execOldImagesRetire, h]
  exact if_neg (by rw [hb, Bool.false_and]; exact Bool.false_ne_true)

/-- The old banks of some targets become inactive. -/
def State.dropOlds (s : State) (ts : List Nat) : State :=
  ((ts.map targetRidge).eraseDups).foldl (fun s r => s.dropChans r) (ts.foldl (fun s t => s.dropOld t) s)

/-- The state in which no activation is pending or under way. -/
def State.actOver (s : State) : State := ({ s with spur := { s.spur with act := none } } : State).set .spurActStaOldLive 0 0

theorem exec_oldImagesRetire_due {s : State} {a : Activation} (h : s.spur.act = some a) (hb : a.begun = true) (hf : s.ports.frames = [])
    (ht : 0 ≤ ltDiff s.lt (a.at_ + 65536000)) : exec .oldImagesRetire s = .next (s.dropOlds a.targets).actOver.recountAll := by
  have hdef : exec .oldImagesRetire s = execOldImagesRetire s := rfl
  rw [hdef, execOldImagesRetire, h]
  dsimp only
  rw [hb, hf, List.any_nil, s.advanceTo_of_reached ht]
  rfl

theorem completes_oldImagesRetire {s : State} {a : Activation} (h : s.spur.act = some a) (hb : a.begun = true) (hf : s.ports.frames = [])
    (ht : 0 ≤ ltDiff s.lt (a.at_ + 65536000)) : Completes .oldImagesRetire s (fun t => t.spur.act = none ∧ t.get .spurActStaOldLive 0 = 0 ∧
      (∀ g, a.targets = [g] → isBgTarget g = false →
        SMap.find t.spur.images (grpImg g (1 - s.get .spurGrpStaActiveBank g)) = none)) := by
  have hview := (s.dropOlds a.targets).actOver.recountAll_actView
  have hspur : (s.dropOlds a.targets).actOver.recountAll.spur = (s.dropOlds a.targets).actOver.spur := congrArg Prod.fst hview
  have hold : (s.dropOlds a.targets).actOver.recountAll.get .spurActStaOldLive = (s.dropOlds a.targets).actOver.get .spurActStaOldLive :=
    congrArg Prod.snd hview
  refine ⟨_, exec_oldImagesRetire_due h hb hf ht, congrArg Spur.act hspur, ?_, fun g hg hbg => ?_⟩
  · exact hold.trans (State.get_set_self _ .spurActStaOldLive 0 0 (by decide) (by decide))
  · rw [hspur]
    have himages : (s.dropOlds a.targets).actOver.spur.images = (s.dropOld g).spur.images := by
      have hover : (s.dropOlds a.targets).actOver.spur.images = (s.dropOlds a.targets).spur.images := rfl
      rw [hover, State.dropOlds, foldl_keeps (fun u => u.spur.images) (fun u r => u.dropChans_images r), hg]
      rfl
    rw [himages]
    exact s.dropOld_images hbg

end Retire

end Sys2Proof.Machine
end

section
/-! PROOFS. Thread groups: their creation and deletion (R143, R358, R524). -/

namespace Sys2Proof.Machine

/-! ### The threads of a group -/

/-- What a change always brings about in a context holds of each context of a list that is changed. -/
theorem thr_foldl_modThr {Q : Thread → Prop} {f : Thread → Thread} (hf : ∀ t, Q (f t)) {l : List Nat} {k : Nat} (hk : k ∈ l)
    (s : State) : Q ((l.foldl (fun s x => s.modThr x f) s).thr k) := by
  refine foldl_reaches (i := k) (Q := fun u => Q (u.thr k)) (fun u => ?_) (fun u x hu => ?_) hk s
  · rw [State.thr_modThr_self]
    exact hf _
  · rw [State.thr_modThr]
    split
    · exact hf _
    · exact hu

theorem foldl_modThr_keepsBut (f : Thread → Thread) (l : List Nat) (s : State) :
    KeepsBut [.spur] s (l.foldl (fun s x => s.modThr x f) s) := foldl_keepsBut (fun t x => t.modThr_keepsBut x f) l s

theorem foldl_modThr_images (f : Thread → Thread) (l : List Nat) (s : State) :
    (l.foldl (fun s x => s.modThr x f) s).spur.images = s.spur.images :=
  foldl_keeps (fun u => u.spur.images) (fun u x => u.modThr_images x f) l s

/-! ### A group enters service -/

section Make
variable (s : State) (g cores threads : Nat)

/-- The state in which a group is in service, before its threads join it. -/
def State.foundGroup (s : State) (g cores threads : Nat) : State :=
  let s := ((s.set .spurGrpCfgCores g cores).set .spurGrpCfgThreads g threads).set .spurGrpCfgEn g 1
  (s.enterService ⟨.group, g⟩).set .spurGrpStaOwner g (s.ownerOf ⟨.group, g⟩)

theorem State.makeGroup_eq : s.makeGroup g cores threads = (maskThreads (g / 256) cores threads).foldl
    (fun s k => s.modThr k (fun th => { th with group := some g, st := 0 })) (s.foundGroup g cores threads) := rfl

theorem State.foundGroup_results : (s.foundGroup g cores threads).grpOn g = true ∧
    (s.foundGroup g cores threads).blkState ⟨.group, g⟩ = 2 := by
  let u := (s.set .spurGrpCfgCores g cores).set .spurGrpCfgThreads g threads
  let v := u.set .spurGrpCfgEn g 1
  have hen : (s.foundGroup g cores threads).get .spurGrpCfgEn g = 1 := by
    refine (State.get_set_of_ne (f := .spurGrpStaOwner) _ _ (.inl (by decide))).trans ?_
    refine (v.get_enterService ⟨.group, g⟩ (f := .spurGrpStaInc) rfl (by decide) (by decide) (.inl (by decide)) g).trans ?_
    exact u.get_set_self .spurGrpCfgEn g 1 (by decide) (by decide)
  exact ⟨beq_iff_eq.2 hen, v.blkState_enterService_self ⟨.group, g⟩⟩

theorem State.makeGroup_results : let t := s.makeGroup g cores threads
    t.grpOn g = true ∧ t.blkState ⟨.group, g⟩ = 2 ∧
      ∀ k ∈ maskThreads (g / 256) cores threads, (t.thr k).group = some g ∧ (t.thr k).st = 0 := by
  dsimp only
  rw [State.makeGroup_eq]
  have hkeep := foldl_modThr_keepsBut (fun th => { th with group := some g, st := 0 }) (maskThreads (g / 256) cores threads)
    (s.foundGroup g cores threads)
  obtain ⟨hon, hblk⟩ := s.foundGroup_results g cores threads
  refine ⟨?_, ?_, fun k hk => ?_⟩
  · rw [State.grpOn, State.is, State.get_of_regs (hkeep .regs (by decide))]
    exact hon
  · rw [State.blkState_congr (hkeep .blkSt (by decide)), hblk]
  · exact thr_foldl_modThr (Q := fun t => t.group = some g ∧ t.st = 0) (fun _ => ⟨rfl, rfl⟩) hk _

end Make

/-! ### A group leaves service -/

section Delete
variable (s : State) (g : Nat)

/-- The state in which a group's images are unloaded. -/
def State.unloadGroup (s : State) (g : Nat) : State :=
  ({ s with spur := { s.spur with images := SMap.put (SMap.put s.spur.images (grpImg g 0) none) (grpImg g 1) none } } : State).setSev g

/-- The state in which the threads of a group whose images are unloaded are OFF. -/
def State.freeGroup (s : State) (g : Nat) : State :=
  ((s.unloadGroup g).members g).foldl (fun s k => s.modThr k (fun th => { th with group := none, st := 0, mask := 0 })) (s.unloadGroup g)

/-- The registers of a group that is gone. -/
def State.clearGroup (s : State) (g : Nat) : State :=
  ((((s.setReg .spurGrpCfg g 0).setReg .spurGrpImg (2 * g) 0).setReg .spurGrpImg (2 * g + 1) 0).set .spurGrpStaActiveBank g 0).set
    .spurGrpStaOwner g 0

theorem State.deleteGroup_eq : s.deleteGroup g = (((s.freeGroup g).dropChans (g / 256)).leaveService ⟨.group, g⟩).clearGroup g := rfl

theorem State.clearGroup_keepsBut : KeepsBut [.regs] s (s.clearGroup g) := by
  unfold State.clearGroup
  exact ((((s.setReg_keepsBut _ _ _).trans (State.setReg_keepsBut _ _ _ _)).trans (State.setReg_keepsBut _ _ _ _)).trans
    (State.set_keepsBut _ _ _ _)).trans (State.set_keepsBut _ _ _ _)

theorem State.grpOn_clearGroup : (s.clearGroup g).grpOn g = false := by
  have hreg : (s.clearGroup g).reg .spurGrpCfg g = 0 := by
    unfold State.clearGroup State.set
    rw [State.reg_setReg_of_ne _ _ (.inl (by decide)), State.reg_setReg_of_ne _ _ (.inl (by decide)),
      State.reg_setReg_of_ne _ _ (.inl (by decide)), State.reg_setReg_of_ne _ _ (.inl (by decide)), State.reg_setReg_self]
  rw [State.grpOn, State.is, State.get, hreg]
  decide

theorem State.unloadGroup_images : SMap.find (s.unloadGroup g).spur.images (grpImg g 0) = none ∧
    SMap.find (s.unloadGroup g).spur.images (grpImg g 1) = none := by
  have hne : grpImg g 0 ≠ grpImg g 1 := by unfold grpImg; omega
  rw [State.unloadGroup, State.setSev_images]
  refine ⟨?_, SMap.find_put_self _ _ none⟩
  exact (SMap.find_put_of_ne _ none hne).trans (SMap.find_put_self s.spur.images _ none)

theorem State.members_of_regs {s t : State} (h : t.regs = s.regs) (g : Nat) : t.members g = s.members g := by
  rw [State.members, State.get_of_regs h, State.get_of_regs h, State.members]

theorem State.unloadGroup_keepsBut : KeepsBut [.spur] s (s.unloadGroup g) := (s.setSpur_keepsBut _).trans (State.setSev_keepsBut _ g)

theorem State.thr_dropChans (r k : Nat) : (s.dropChans r).thr k = s.thr k := by
  rw [State.dropChans_eq_foldl]
  exact foldl_keeps (fun u => u.thr k) (fun u x => u.thr_dropChan _ _ x k) _ s

theorem State.thr_of_spur {s t : State} (h : t.spur = s.spur) (k : Nat) : t.thr k = s.thr k := by rw [State.thr, h, State.thr]

/-- A group that leaves service and whose registers are cleared takes nothing of Spur's own state with it. -/
theorem State.retireGroup_results : ((s.leaveService ⟨.group, g⟩).clearGroup g).grpOn g = false ∧
    ((s.leaveService ⟨.group, g⟩).clearGroup g).blkState ⟨.group, g⟩ = 1 ∧
    ((s.leaveService ⟨.group, g⟩).clearGroup g).spur = s.spur := by
  have hclear := (s.leaveService ⟨.group, g⟩).clearGroup_keepsBut g
  have hleave := s.leaveService_keepsBut ⟨.group, g⟩
  refine ⟨State.grpOn_clearGroup _ g, ?_, ((hleave.mono (by simp)).trans (hclear.mono (qs := [.regs, .blkSt, .offAt]) (by simp))) .spur
    (by decide)⟩
  exact (State.blkState_congr (hclear .blkSt (by decide)) _).trans (s.blkState_leaveService_self ⟨.group, g⟩)

/-- A group whose images are unloaded and whose threads are OFF. -/
theorem State.freeGroup_results : SMap.find (s.freeGroup g).spur.images (grpImg g 0) = none ∧
    SMap.find (s.freeGroup g).spur.images (grpImg g 1) = none ∧
    ∀ k ∈ s.members g, ((s.freeGroup g).thr k).group = none ∧ ((s.freeGroup g).thr k).st = 0 := by
  rw [State.freeGroup, foldl_modThr_images]
  obtain ⟨h0, h1⟩ := s.unloadGroup_images g
  refine ⟨h0, h1, fun k hk => thr_foldl_modThr (Q := fun t => t.group = none ∧ t.st = 0) (fun _ => ⟨rfl, rfl⟩) ?_ _⟩
  rwa [State.members_of_regs (s.unloadGroup_keepsBut g .regs (by decide))]

theorem State.deleteGroup_results : let t := s.deleteGroup g
    t.grpOn g = false ∧ t.blkState ⟨.group, g⟩ = 1 ∧ SMap.find t.spur.images (grpImg g 0) = none ∧
      SMap.find t.spur.images (grpImg g 1) = none ∧ ∀ k ∈ s.members g, (t.thr k).group = none ∧ (t.thr k).st = 0 := by
  dsimp only
  rw [State.deleteGroup_eq]
  obtain ⟨hon, hblk, hspur⟩ := ((s.freeGroup g).dropChans (g / 256)).retireGroup_results g
  obtain ⟨h0, h1, hthr⟩ := s.freeGroup_results g
  refine ⟨hon, hblk, ?_, ?_, fun k hk => ?_⟩
  · rw [hspur, State.dropChans_images, h0]
  · rw [hspur, State.dropChans_images, h1]
  · rw [State.thr_of_spur hspur, State.thr_dropChans]
    exact hthr k hk

end Delete

/-! ### GROUP_CREATE and GROUP_DELETE (R359, R524) -/

section Commands
variable {f : Fn} {seq : BitVec 32} {body : Bytes} {s : State}

/-- What GROUP_CREATE does once its request is accepted. -/
def State.groupCreate (s : State) (f : Nat) (body : Bytes) : State :=
  let r := leAt body 0 1
  let cores := leAt body 2 2
  let threads := leAt body 4 2
  if body.length ≠ 8 ∨ 15 < r ∨ cores = 0 ∨ threads = 0 ∨ !zeroAt body 1 1 ∨ !zeroAt body 6 2 then s.reply f 0x12 1 0 []
  else if (maskThreads r cores threads).any (fun k => (s.thr k).group.isSome) then s.reply f 0x12 3 0 []
  else match (List.range 256).find? (fun i => !s.grpOn (256 * r + i)) with
    | none => s.reply f 0x12 4 0 []
    | some i => (s.makeGroup (256 * r + i) cores threads).reply f 0x12 0 0 (leBytes (256 * r + i) 2)

/-- What GROUP_DELETE does once its request is accepted. -/
def State.groupDelete (s : State) (f : Nat) (body : Bytes) : State :=
  let g := leAt body 0 2
  if body.length ≠ 2 ∨ 4095 < g then s.reply f 0x13 1 0 []
  else if !s.grpOn g then s.reply f 0x13 5 0 []
  else if s.ownerOf ⟨.group, g⟩ ≠ 0 then s.reply f 0x13 2 0 []
  else if s.get .spurGrpStaContracts g != 0 || s.grpPending g || s.is .spurGrpStaOldLive g then s.reply f 0x13 3 0 []
  else (s.deleteGroup g).reply f 0x13 0 0 []

theorem State.submit_manager (hf : f.val = 0) (h : s.maySubmit f.val seq) (cmd : Nat) (act : State → State) :
    s.submit f.val seq cmd true act = act (s.accept f.val seq cmd) := by
  rw [State.submit_of_maySubmit h, hf]
  exact if_neg (by decide)

theorem exec_groupCreate (hf : f.val = 0) (h : s.maySubmit f.val seq) :
    exec (.groupCreate f seq body) s = .next ((s.accept f.val seq 0x12).groupCreate f.val body) := by
  have hdef : exec (.groupCreate f seq body) s = .next (s.submit f.val seq 0x12 true (fun s => s.groupCreate f.val body)) := rfl
  rw [hdef, State.submit_manager hf h]

theorem exec_groupDelete (hf : f.val = 0) (h : s.maySubmit f.val seq) :
    exec (.groupDelete f seq body) s = .next ((s.accept f.val seq 0x13).groupDelete f.val body) := by
  have hdef : exec (.groupDelete f seq body) s = .next (s.submit f.val seq 0x13 true (fun s => s.groupDelete f.val body)) := rfl
  rw [hdef, State.submit_manager hf h]

theorem State.groupCreate_malformed {n : Nat} (h : body.length ≠ 8) : s.groupCreate n body = s.reply n 0x12 1 0 [] := if_pos (.inl h)

theorem State.groupDelete_malformed {n : Nat} (h : body.length ≠ 2) : s.groupDelete n body = s.reply n 0x13 1 0 [] := if_pos (.inl h)

/-- A well-formed request for free threads makes the lowest free group. -/
theorem State.groupCreate_makes {n i : Nat} (hlen : body.length = 8) (hr : leAt body 0 1 ≤ 15) (hc : leAt body 2 2 ≠ 0)
    (ht : leAt body 4 2 ≠ 0) (hz1 : zeroAt body 1 1 = true) (hz6 : zeroAt body 6 2 = true)
    (hfree : ∀ k ∈ maskThreads (leAt body 0 1) (leAt body 2 2) (leAt body 4 2), (s.thr k).group = none)
    (hi : (List.range 256).find? (fun i => !s.grpOn (256 * leAt body 0 1 + i)) = some i) : s.groupCreate n body =
      (s.makeGroup (256 * leAt body 0 1 + i) (leAt body 2 2) (leAt body 4 2)).reply n 0x12 0 0 (leBytes (256 * leAt body 0 1 + i) 2) := by
  have hany : (maskThreads (leAt body 0 1) (leAt body 2 2) (leAt body 4 2)).any (fun k => (s.thr k).group.isSome) = false := by
    rw [List.any_eq_false]
    intro k hk
    rw [hfree k hk]
    decide
  unfold State.groupCreate
  dsimp only
  rw [if_neg (by simp [hlen, hc, ht, hz1, hz6, Nat.not_lt.2 hr]), hany, if_neg Bool.false_ne_true, hi]

/-- A held group without contracts, owner or pending activation is deleted. -/
theorem State.groupDelete_deletes {n : Nat} (hlen : body.length = 2) (hg : leAt body 0 2 ≤ 4095) (hon : s.grpOn (leAt body 0 2) = true)
    (ho : s.ownerOf ⟨.group, leAt body 0 2⟩ = 0) (hc : s.get .spurGrpStaContracts (leAt body 0 2) = 0)
    (hp : s.grpPending (leAt body 0 2) = false) (hl : s.is .spurGrpStaOldLive (leAt body 0 2) = false) :
    s.groupDelete n body = (s.deleteGroup (leAt body 0 2)).reply n 0x13 0 0 [] := by
  unfold State.groupDelete
  dsimp only
  rw [if_neg (by simp [hlen, Nat.not_lt.2 hg]), hon, Bool.not_true, if_neg Bool.false_ne_true, if_neg (not_not_intro ho), hc, hp, hl]
  exact if_neg (by decide)

end Commands

/-- Settles O31: the clauses of ACTIVATE, of its instant and end, and of the groups' commands and operations. -/
theorem activationAndGroups : Obligations.ActivationAndGroups := by
  unfold Obligations.ActivationAndGroups
  intro f seq body images s
  refine ⟨fun h => ?_, fun h => ⟨exec_programEpochAt_none h, exec_oldImagesRetire_none h⟩, fun a h => ?_, fun hf h => ?_,
    fun g cores threads _ => s.makeGroup_results g cores threads, s.deleteGroup_results⟩
  · have hexec := exec_activate (body := body) (images := images) h
    refine ⟨fun hshape => ?_, fun hshape howned => ⟨fun hc => ?_, fun w hc hj => ?_⟩, State.actCheck_pending (s := s.accept f.val seq 0x11),
      State.actCheck_early (s := s.accept f.val seq 0x11),
      State.actPend_pending _ body, State.actPend_act _ body⟩
    · rw [hexec, State.activate_malformed hshape]
      rfl
    · exact hexec.trans (congrArg Host.Outcome.next (State.activate_refused hshape howned hc))
    · exact hexec.trans (congrArg Host.Outcome.next (State.activate_accepted hshape howned hc hj))
  · exact ⟨exec_programEpochAt_begun h, exec_oldImagesRetire_pending h, completes_programEpochAt h, completes_oldImagesRetire h⟩
  · refine ⟨fun i hlen hr hc ht hz1 hz6 hfree hi => ?_, fun hlen => ?_, fun hlen hg hon ho hc hp hl => ?_, fun hlen => ?_⟩
    · exact (exec_groupCreate hf h).trans (congrArg Host.Outcome.next (State.groupCreate_makes hlen hr hc ht hz1 hz6 hfree hi))
    · exact (exec_groupCreate hf h).trans (congrArg Host.Outcome.next (State.groupCreate_malformed hlen))
    · exact (exec_groupDelete hf h).trans (congrArg Host.Outcome.next (State.groupDelete_deletes hlen hg hon ho hc hp hl))
    · exact (exec_groupDelete hf h).trans (congrArg Host.Outcome.next (State.groupDelete_malformed hlen))

end Sys2Proof.Machine
end

section
/-! PROOFS. General registers, the instruction index, traps of control cores and faults of threads (R136, R162, R167, R173, R174, R184,
R185), and the statements O6 and O7. -/

namespace Sys2Proof.Machine

/-! ### Contexts and their keys -/

@[simp] theorem isCc_cc (k : Fin 8) : isCc (ctxKey (.cc k)) = true := decide_eq_true (Nat.le_add_right 8192 k.val)

@[simp] theorem isCc_thr (c : Core) (t : Fin 16) : isCc (ctxKey (.thr c t)) = false :=
  decide_eq_false (Nat.not_le.2 (thrKey_lt c.isLt t.isLt))

theorem thrKey_mod (c : Core) (t : Fin 16) : ctxKey (.thr c t) % 32 = t.val := by
  rw [show ctxKey (.thr c t) = thrKey c.val t.val from rfl, thrKey]
  omega

@[simp] theorem isBg_thr (c : Core) (t : Fin 16) : isBg (ctxKey (.thr c t)) = false := by
  rw [isBg, thrKey_mod, beq_false_of_ne (by omega), Bool.and_false]

@[simp] theorem keyCore_thr (c : Core) (t : Fin 16) : keyCore (ctxKey (.thr c t)) = c.val := by
  rw [show ctxKey (.thr c t) = thrKey c.val t.val from rfl, keyCore, thrKey]
  omega

/-- The context that a key belongs to. -/
def keyCtx (k : Nat) : Ctx :=
  if isCc k then .cc (Fin.ofNat 8 (k - 8192))
  else if k % 32 = 16 then .bg (Fin.ofNat 256 (keyCore k))
  else .thr (Fin.ofNat 256 (keyCore k)) (Fin.ofNat 16 (k % 32))

theorem keyCtx_ctxKey (x : Ctx) : keyCtx (ctxKey x) = x := by
  cases x with
  | thr c t =>
    rw [keyCtx, isCc_thr, thrKey_mod, keyCore_thr, if_neg Bool.false_ne_true, if_neg (by omega)]
    simp
  | bg c =>
    have hmod : ctxKey (.bg c) % 32 = 16 := by
      rw [show ctxKey (.bg c) = c.val * 32 + 16 from rfl]
      omega
    have hcore : keyCore (ctxKey (.bg c)) = c.val := by
      rw [keyCore, show ctxKey (.bg c) = c.val * 32 + 16 from rfl]
      omega
    have hcc : isCc (ctxKey (.bg c)) = false := by
      rw [isCc, show ctxKey (.bg c) = c.val * 32 + 16 from rfl]
      exact decide_eq_false (by omega)
    rw [keyCtx, hcc, hmod, hcore, if_neg Bool.false_ne_true, if_pos rfl]
    simp
  | cc k =>
    have hsub : ctxKey (.cc k) - 8192 = k.val := Nat.add_sub_cancel_left 8192 k.val
    rw [keyCtx, isCc_cc, hsub, if_pos rfl]
    simp

theorem ctxKey_inj {x y : Ctx} (h : ctxKey y = ctxKey x) : y = x := by rw [← keyCtx_ctxKey y, h, keyCtx_ctxKey]

/-! ### General registers (R162) -/

theorem Thread.g_zero (t : Thread) : t.g 0 = 0 := if_pos rfl

theorem Thread.g_setG (t : Thread) (r q : Nat) (v : BitVec 64) : (t.setG r v).g q = if q = r ∧ r ≠ 0 then v else t.g q := by
  unfold Thread.setG
  by_cases hr : r = 0
  · rw [if_pos hr, if_neg (fun h => h.2 hr)]
  · rw [if_neg hr]
    by_cases hq : q = r
    · subst hq
      rw [if_pos ⟨rfl, hr⟩, Thread.g, if_neg hr, SMap.getD_setD_self]
    · rw [if_neg (fun h => hq h.1), Thread.g, Thread.g, SMap.getD_setD_of_ne _ _ _ _ hq]

theorem State.gpr_setGpr (s : State) (x y : Ctx) (gd r : GReg) (v : BitVec 64) :
    (s.setGpr x gd v).gpr y r = if y = x ∧ r = gd ∧ gd ≠ 0 then v else s.gpr y r := by
  unfold State.gpr State.setGpr
  rw [State.thr_modThr]
  by_cases hy : y = x
  · subst hy
    rw [if_pos rfl, Thread.g_setG]
    exact if_congr ⟨fun ⟨hr, hd⟩ => ⟨rfl, Fin.ext hr, Fin.val_ne_zero_iff.1 hd⟩,
      fun ⟨_, hr, hd⟩ => ⟨congrArg Fin.val hr, Fin.val_ne_zero_iff.2 hd⟩⟩ rfl rfl
  · rw [if_neg (fun h => hy (ctxKey_inj h)), if_neg (fun h => hy h.1)]

/-- A change of a context that leaves its registers leaves every context's. -/
theorem State.gpr_modThr (s : State) {k : Nat} {f : Thread → Thread} (h : (f (s.thr k)).gprs = (s.thr k).gprs) (y : Ctx) (r : GReg) :
    (s.modThr k f).gpr y r = s.gpr y r := by
  rw [State.gpr, State.thr_modThr]
  split
  · next hy => rw [Thread.g, h, State.gpr, hy, Thread.g]
  · rfl

/-! ### The instruction index (R168, R173, R174) -/

section Index
variable {s : State} {k j : Nat} {ls : List Loop} (h : isCc k = true ∨ j < s.codeLen k)
include h

/-- Within the code, or on a control core, execution goes on at the index. -/
theorem State.goto_within : s.goto k ls j = s.modThr k (fun t => { t with index := j, loops := ls }) := by
  unfold State.goto
  split
  · rfl
  · next hcc => rw [if_pos (h.resolve_left hcc)]

theorem State.goto_results : ((s.goto k ls j).thr k).index = j ∧ ((s.goto k ls j).thr k).loops = ls ∧ KeepsBut [.spur] s (s.goto k ls j) ∧
    ∀ (y : Ctx) (r : GReg), (s.goto k ls j).gpr y r = s.gpr y r := by
  rw [State.goto_within h, State.thr_modThr_self]
  exact ⟨rfl, rfl, s.modThr_keepsBut k _, s.gpr_modThr rfl⟩

end Index

theorem State.retire_eq_goto {s : State} {x : Ctx} {ls : List Loop} {j : Nat}
    (h : settleLoops (s.thr (ctxKey x)).loops ((s.thr (ctxKey x)).index + 1) = (ls, j)) : s.retire x = s.goto (ctxKey x) ls j := by
  unfold State.retire
  dsimp only
  rw [h]

theorem settleLoops_again {l : Loop} {j : Nat} (hstop : l.stop = j) (hleft : 0 < l.left) (ls : List Loop) :
    settleLoops (l :: ls) j = ({ l with left := l.left - 1 } :: ls, l.first) := by
  rw [settleLoops, if_pos hstop, if_pos hleft]

theorem settleLoops_over {l : Loop} {j : Nat} (hstop : l.stop = j) (hleft : l.left = 0) (ls : List Loop) :
    settleLoops (l :: ls) j = settleLoops ls j := by
  rw [settleLoops, if_pos hstop, if_neg (by omega)]

/-- Settles O6: registers by the context's map, and the three ways a retiring instruction settles its innermost loop. -/
theorem registersAndRetiring : Obligations.RegistersAndRetiring := by
  unfold Obligations.RegistersAndRetiring
  refine ⟨fun x y gd r v s => ⟨s.gpr_setGpr x y gd r v, (s.thr (ctxKey y)).g_zero, s.modThr_keepsBut _ _⟩, fun x s =>
    ⟨fun hl hin => ?_, fun l ls hl hstop hleft hin => ?_, fun l hl hstop hleft hin => ?_⟩⟩
  · rw [State.retire_eq_goto (by rw [hl, settleLoops])]
    exact State.goto_results hin
  · rw [State.retire_eq_goto (by rw [hl, settleLoops_again hstop hleft])]
    exact State.goto_results hin
  · rw [State.retire_eq_goto (by rw [hl, settleLoops_over hstop hleft, settleLoops])]
    exact State.goto_results hin

/-! ### Traps of a control core (R185) -/

section Trap
variable (s : State) (k cause : Nat) (pc val : BitVec 64)

/-- The system registers, the index and the pending inputs after a trap. -/
theorem State.trap_results :
    let th := s.thr k
    let u := (s.trap k cause pc val).thr k
    SMap.getD u.sys 0 0 = BitVec.ofNat 64 cause ∧ SMap.getD u.sys 1 0 = pc ∧ SMap.getD u.sys 2 0 = val ∧
    (SMap.getD u.sys 4 0).getLsbD 0 = false ∧ (SMap.getD u.sys 4 0).getLsbD 1 = (SMap.getD th.sys 4 0).getLsbD 0 ∧
    u.index = ((SMap.getD th.sys 3 0).toNat + cause * 0x40) / 4 ∧ u.pending = th.pending := by
  intro th u
  have hu : u = (s.trap k cause pc val).thr k := rfl
  rw [State.trap, State.thr_modThr_self] at hu
  rw [hu]
  refine ⟨?_, ?_, ?_, ?_, ?_, rfl, rfl⟩
  · rw [SMap.getD_setD_of_ne _ _ _ _ (by decide), SMap.getD_setD_of_ne _ _ _ _ (by decide), SMap.getD_setD_of_ne _ _ _ _ (by decide),
      SMap.getD_setD_self]
  · rw [SMap.getD_setD_of_ne _ _ _ _ (by decide), SMap.getD_setD_of_ne _ _ _ _ (by decide), SMap.getD_setD_self]
  · rw [SMap.getD_setD_of_ne _ _ _ _ (by decide), SMap.getD_setD_self]
  · rw [SMap.getD_setD_self]
    simp
  · rw [SMap.getD_setD_self]
    simp [th]

theorem State.trap_keepsBut : KeepsBut [.spur] s (s.trap k cause pc val) := s.modThr_keepsBut k _

end Trap

/-- A control core's fault is the trap of its cause, at the address of the instruction. -/
theorem State.faultAt_cc (s : State) (k : Fin 8) (cause tc : Nat) (val : BitVec 64) :
    s.faultAt (.cc k) cause tc val = s.trap (ctxKey (.cc k)) tc (s.thr (ctxKey (.cc k))).pcOf val := if_pos (isCc_cc k)

/-! ### The end of a thread's frame (R145, R164, R165, R184) -/

/-- A frame that is disposed of is done, if it is still there, and nothing but it, its leaf and the count of late frames changes. -/
theorem State.disposeAt_results (s : State) (at_ fid d : Nat) : KeepsBut [.ports, .led, .back] s (s.disposeAt at_ fid d) ∧
    ∀ g, (s.disposeAt at_ fid d).frame? fid = some g → g.stage = .done := by
  unfold State.disposeAt
  split
  · next h => exact ⟨KeepsBut.refl _ s, fun g hg => by rw [h] at hg; cases hg⟩
  · next f _ =>
    refine ⟨((s.leafDueAt_keepsBut _ f d _ _).mono (by simp)).trans ((State.putFrame_keepsBut _ _ fid).mono (by simp)), fun g hg => ?_⟩
    rw [State.frame_putFrame_self] at hg
    split at hg <;> cases hg
    rfl

theorem State.imageOf_of_spur {s t : State} (h : t.spur = s.spur) (k : Nat) : t.imageOf k = s.imageOf k := by
  rw [State.imageOf, State.thr_of_spur h, h, State.imageOf]

theorem State.slotOver_of {s t : State} (hs : t.spur = s.spur) (hc : t.crest = s.crest) (k : Nat) : t.slotOver k = s.slotOver k := by
  rw [State.slotOver, State.elapsed, hc, State.thr_of_spur hs, State.slotOver, State.elapsed]

theorem State.idleAfter_keepsBut (s : State) (k : Nat) : KeepsBut [.spur] s (s.idleAfter k) := by
  unfold State.idleAfter
  dsimp only
  split
  · exact (s.idleWait_keepsBut k).trans (State.modThr_keepsBut _ k _)
  · exact s.idleWait_keepsBut k

/-- A thread whose frame has ended holds none and waits for the next at its image's entry, idle from the end of its slot on. -/
theorem State.idleAfter_results {s : State} {k fid : Nat} (h : (s.thr k).frame = some fid) :
    let u := (s.idleAfter k).thr k
    u.frame = none ∧ u.st = 2 ∧ u.mask = 1 ∧ u.index = ((s.imageOf k).map (·.entry)).getD 0 ∧ u.lastEnd = s.slotOver k := by
  intro u
  have hu : u = (s.idleAfter k).thr k := rfl
  rw [State.idleAfter, h, Option.isSome_some, if_pos rfl, State.thr_modThr_self, State.idleWait, State.thr_modThr_self] at hu
  rw [hu]
  exact ⟨rfl, rfl, rfl, rfl, rfl⟩

/-- What a thread's fault leaves in SPUR_CORE_FAULT and in the counts, before its frame ends. -/
def State.threadFaulted (s : State) (c : Core) (t : Fin 16) (cause fid g : Nat) : State :=
  let k := ctxKey (.thr c t)
  let w := cause <<< 56 ||| ((s.thr k).index % 2 ^ 24) <<< 32 ||| ((s.imageOf k).map (·.epoch)).getD 0 <<< 24 ||| t.val
  (((s.setReg .spurCoreFault c.val (BitVec.ofNat 64 w)).bump .spurCoreFaultCntFaults c.val).setAnnot fid
    (faultAnnot (((s.frame? fid).map (·.annot)).getD 0) cause (s.thr k).index)).bump .spurGrpProgdropFrames g

section Fault
variable {s : State} {c : Core} {t : Fin 16} {cause fid g : Nat}

/-- A thread's fault ends the frame it holds DROP_PROGRAM. -/
theorem State.faultAt_thr (hf : (s.thr (ctxKey (.thr c t))).frame = some fid) (hg : (s.thr (ctxKey (.thr c t))).group = some g)
    (tc : Nat) (val : BitVec 64) : s.faultAt (.thr c t) cause tc val =
      let u := s.threadFaulted c t cause fid g
      (u.disposeAt (u.slotOver (ctxKey (.thr c t))) fid dProgram).idleAfter (ctxKey (.thr c t)) := by
  unfold State.faultAt State.progFault State.threadFaulted
  simp only [isCc_thr, isBg_thr, keyCore_thr, thrKey_mod, hf, hg, bit, Bool.false_eq_true, if_false, Nat.zero_shiftLeft, Nat.or_zero]
  rfl

theorem State.setAnnot_keepsBut (s : State) (fid : Nat) (a : BitVec 64) : KeepsBut [.ports] s (s.setAnnot fid a) := by
  unfold State.setAnnot
  split
  · exact KeepsBut.refl _ s
  · exact s.putFrame_keepsBut _ fid

theorem State.threadFaulted_results : (s.threadFaulted c t cause fid g).spur = s.spur ∧ (s.threadFaulted c t cause fid g).reg .spurCoreFault c.val =
    BitVec.ofNat 64 (cause <<< 56 ||| ((s.thr (ctxKey (.thr c t))).index % 2 ^ 24) <<< 32 |||
      ((s.imageOf (ctxKey (.thr c t))).map (·.epoch)).getD 0 <<< 24 ||| t.val) := by
  unfold State.threadFaulted
  dsimp only
  refine ⟨(State.setAnnot_keepsBut _ fid _ .spur (by decide)).trans rfl, ?_⟩
  rw [State.bump, State.reg_set_of_ne _ _ (.inl (by decide)), State.reg, State.setAnnot_keepsBut _ fid _ .regs (by decide), ← State.reg,
    State.bump, State.reg_set_of_ne _ _ (.inl (by decide)), State.reg_setReg_self]

theorem State.faultAt_thr_results (hf : (s.thr (ctxKey (.thr c t))).frame = some fid) (hg : (s.thr (ctxKey (.thr c t))).group = some g)
    (tc : Nat) (val : BitVec 64) :
    let u := s.faultAt (.thr c t) cause tc val
    u.reg .spurCoreFault c.val = BitVec.ofNat 64 (cause <<< 56 ||| ((s.thr (ctxKey (.thr c t))).index % 2 ^ 24) <<< 32 |||
      ((s.imageOf (ctxKey (.thr c t))).map (·.epoch)).getD 0 <<< 24 ||| t.val) ∧
    (u.thr (ctxKey (.thr c t))).frame = none ∧ (u.thr (ctxKey (.thr c t))).st = 2 ∧ (u.thr (ctxKey (.thr c t))).mask = 1 := by
  obtain ⟨hspur, hreg⟩ := State.threadFaulted_results (s := s) (c := c) (t := t) (cause := cause) (fid := fid) (g := g)
  dsimp only
  rw [State.faultAt_thr hf hg]
  generalize s.threadFaulted c t cause fid g = u at hspur hreg
  obtain ⟨hkeeps, -⟩ := u.disposeAt_results (u.slotOver (ctxKey (.thr c t))) fid dProgram
  have hframe := (congrArg Thread.frame (State.thr_of_spur ((hkeeps .spur (by decide)).trans hspur) (ctxKey (.thr c t)))).trans hf
  obtain ⟨hnone, hst, hmask, -⟩ := State.idleAfter_results hframe
  refine ⟨?_, hnone, hst, hmask⟩
  rw [← hreg, State.reg, State.idleAfter_keepsBut _ _ .regs (by decide), hkeeps .regs (by decide), State.reg]

end Fault

/-! ### Interrupts (R136, R185) -/

section Interrupt
variable (s : State) (k : Fin 8) (n : Nat)

theorem State.interrupt_out_of_service (h : s.blkState ⟨.control, k.val⟩ ≠ 2) : s.interrupt k.val n = s := if_pos (bne_iff_ne.2 h)

variable (hup : s.blkState ⟨.control, k.val⟩ = 2)
include hup

theorem State.interrupt_in_service : s.interrupt k.val n =
    let u := s.raiseEvt (ccKey k.val) (26 + n)
    if (SMap.getD (u.thr (ccKey k.val)).sys 4 0).getLsbD 0 then
      let v := u.modThr (ccKey k.val) (fun t => { t with st := 1 })
      (v.trap (ccKey k.val) 7 (v.thr (ccKey k.val)).pcOf v.free).useFree
    else u := if_neg (by rw [hup]; decide)

theorem State.interrupt_masked (hoff : (SMap.getD (s.thr (ccKey k.val)).sys 4 0).getLsbD 0 = false) :
    s.interrupt k.val n = s.raiseEvt (ccKey k.val) (26 + n) := by
  obtain ⟨st, hu⟩ := s.thr_raiseEvt_self (ccKey k.val) (26 + n)
  rw [s.interrupt_in_service k n hup]
  dsimp only
  rw [hu, hoff]
  exact if_neg Bool.false_ne_true

/-- An interrupt that is enabled traps with cause 7, before the instruction to be issued. -/
theorem State.interrupt_taken (hon : (SMap.getD (s.thr (ccKey k.val)).sys 4 0).getLsbD 0 = true) :
    ∃ v val, s.interrupt k.val n = (State.trap v (ccKey k.val) 7 (s.thr (ccKey k.val)).pcOf val).useFree ∧ KeepsBut [.spur] s v ∧
      ∃ st, v.thr (ccKey k.val) = { s.thr (ccKey k.val) with
        pending := (s.thr (ccKey k.val)).pending ||| (1#32 <<< (26 + n)), st := st } := by
  obtain ⟨st, hu⟩ := s.thr_raiseEvt_self (ccKey k.val) (26 + n)
  let v := (s.raiseEvt (ccKey k.val) (26 + n)).modThr (ccKey k.val) (fun t => { t with st := 1 })
  have hv : v.thr (ccKey k.val) = { s.thr (ccKey k.val) with
      pending := (s.thr (ccKey k.val)).pending ||| (1#32 <<< (26 + n)), st := 1 } := by rw [State.thr_modThr_self, hu]
  have hpc : (v.thr (ccKey k.val)).pcOf = (s.thr (ccKey k.val)).pcOf := by rw [hv]; rfl
  refine ⟨v, v.free, ?_, (s.raiseEvt_keepsBut _ _).trans (State.modThr_keepsBut _ _ _), 1, hv⟩
  rw [s.interrupt_in_service k n hup, ← hpc]
  dsimp only
  rw [hu, hon]
  exact if_pos rfl

end Interrupt

theorem exec_interrupt (s : State) (k : Fin 8) (n : Fin 6) : exec (.interrupt ⟨k, n⟩) s = .next (s.interrupt k.val n.val) := rfl

/-- Settles O7: an undefined word by the kind of its context, an interrupt by STATUS[0]. -/
theorem illegalInstructionsAndInterrupts : Obligations.IllegalInstructionsAndInterrupts := by
  unfold Obligations.IllegalInstructionsAndInterrupts
  refine ⟨fun x w s => ⟨fun k hx => ?_, fun c t fid g hx hf hg => ?_⟩, fun k n s =>
    ⟨fun hdown => (exec_interrupt s k n).trans (congrArg _ (s.interrupt_out_of_service k n.val hdown)),
      fun hup => ⟨fun hon => ?_, fun hoff => ?_⟩⟩⟩
  · subst hx
    obtain ⟨hcause, hpc, hval, hoff, hold, hindex, -⟩ := s.trap_results (ctxKey (.cc k)) 1 (s.thr (ctxKey (.cc k))).pcOf (w.setWidth 64)
    rw [State.illegal, State.faultAt_cc]
    exact ⟨hcause, hpc, hval, hoff, hold, hindex, s.trap_keepsBut _ _ _ _⟩
  · subst hx
    exact State.faultAt_thr_results hf hg 1 (w.setWidth 64)
  · obtain ⟨v, val, htaken, hkeeps, st, hv⟩ := s.interrupt_taken k n.val hup hon
    obtain ⟨hcause, hpc, -, hoff, -, hindex, hpending⟩ := v.trap_results (ccKey k.val) 7 (s.thr (ccKey k.val)).pcOf val
    rw [hv] at hindex hpending
    refine ⟨_, (exec_interrupt s k n).trans (congrArg _ htaken), hcause, hpc, hoff, hpending, hindex, ?_⟩
    exact ((hkeeps.trans (v.trap_keepsBut _ _ _ _)).mono (by simp)).trans ((State.useFree_keepsBut _ 1).mono (by simp))
  · obtain ⟨st, hu⟩ := s.thr_raiseEvt_self (ccKey k.val) (26 + n.val)
    refine ⟨_, (exec_interrupt s k n).trans (congrArg _ (s.interrupt_masked k n.val hup hoff)), ?_⟩
    dsimp only
    rw [show ctxKey (.cc k) = ccKey k.val from rfl, hu]
    exact ⟨rfl, rfl, rfl, s.raiseEvt_keepsBut _ _⟩

end Sys2Proof.Machine
end

section
/-! PROOFS. SHI, BFX, BFI and CRC: their words and the bits of a field, and the statement O5 (R167, R168). -/

namespace Sys2Proof.Machine

theorem permits_wBF (x : Ctx) {op pos len1 m : Nat} (ho : op ≤ 0x1B) (gd ga : GReg) (hp : pos < 64) (hl : len1 < 64) (hm : m < 2) :
    permits x (wOp (wBF op gd.val ga.val pos len1 m)) = true := by
  rw [wBF, Nat.add_assoc, Nat.add_assoc, Nat.add_assoc, Nat.add_assoc, wOp_ofNat (by omega) (by omega)]
  exact permits_of_le x ho

theorem bit_lt_two (b : Bool) : bit b < 2 := by cases b <;> decide

/-- A number of `n + 1` bits reaches half their range where its top bit is set. -/
theorem two_pow_le_iff_testBit {v n : Nat} (h : v < 2 ^ (n + 1)) : 2 ^ n ≤ v ↔ v.testBit n = true := by
  refine ⟨fun hle => ?_, fun ht => Nat.ge_two_pow_of_testBit ht⟩
  have hone : v / 2 ^ n = 1 := by
    rw [Nat.div_eq_iff (Nat.two_pow_pos n)]
    rw [Nat.pow_succ] at h
    omega
  rw [Nat.testBit_eq_decide_div_mod_eq, hone]
  rfl

/-- The bits of a field taken out of a word: those of the field, and above them zeros or its top bit. -/
theorem getLsbD_bitField (a : BitVec 64) {pos len1 i : Nat} (sg : Bool) (hf : pos + len1 < 64) (hi : i < 64) :
    (bitField a pos (len1 + 1) sg).getLsbD i = if i ≤ len1 then a.getLsbD (pos + i) else sg && a.getLsbD (pos + len1) := by
  have hlt : a.toNat / 2 ^ pos % 2 ^ (len1 + 1) < 2 ^ (len1 + 1) := Nat.mod_lt _ (Nat.two_pow_pos _)
  have hbit : ∀ j, (a.toNat / 2 ^ pos % 2 ^ (len1 + 1)).testBit j = (decide (j < len1 + 1) && a.getLsbD (pos + j)) := fun j => by
    rw [Nat.testBit_mod_two_pow, Nat.testBit_div_two_pow, BitVec.testBit_toNat, Nat.add_comm j pos]
  have htop : decide (2 ^ len1 ≤ a.toNat / 2 ^ pos % 2 ^ (len1 + 1)) = a.getLsbD (pos + len1) := by
    rw [Bool.eq_iff_iff, decide_eq_true_iff, two_pow_le_iff_testBit hlt, hbit, decide_eq_true (Nat.lt_succ_self len1), Bool.true_and]
  unfold bitField
  dsimp only
  generalize a.toNat / 2 ^ pos % 2 ^ (len1 + 1) = v at hlt hbit htop
  rw [Nat.add_sub_cancel, htop]
  by_cases hs : (sg && a.getLsbD (pos + len1)) = true
  · have hsum : v + 2 ^ 64 - 2 ^ (len1 + 1) = 2 ^ (len1 + 1) * (2 ^ (63 - len1) - 1) + v := by
      have hpow : 2 ^ 64 = 2 ^ (len1 + 1) * 2 ^ (63 - len1) := by rw [← Nat.pow_add]; congr 1; omega
      have hle := Nat.le_mul_of_pos_right (2 ^ (len1 + 1)) (Nat.two_pow_pos (63 - len1))
      rw [hpow, Nat.mul_sub_one]
      omega
    rw [if_pos hs, hs, hsum, BitVec.getLsbD_ofNat, decide_eq_true hi, Bool.true_and, Nat.testBit_two_pow_mul_add _ hlt]
    by_cases hin : i ≤ len1
    · rw [if_pos (Nat.lt_succ_of_le hin), if_pos hin, hbit, decide_eq_true (Nat.lt_succ_of_le hin), Bool.true_and]
    · rw [if_neg (by omega), if_neg hin, Nat.testBit_two_pow_sub_one, decide_eq_true (by omega)]
  · rw [if_neg hs, Bool.eq_false_of_not_eq_true hs, BitVec.getLsbD_ofNat, decide_eq_true hi, Bool.true_and, hbit]
    by_cases hin : i ≤ len1
    · rw [if_pos hin, decide_eq_true (Nat.lt_succ_of_le hin), Bool.true_and]
    · rw [if_neg hin, decide_eq_false (by omega), Bool.false_and]

/-- Settles O5: each word takes effect by its own check of the kind or of the field's end, and the bits it writes. -/
theorem bitFieldResults : Obligations.BitFieldResults := by
  unfold Obligations.BitFieldResults
  intro x gd ga gb k n pos len1 sg w p s hi t wShi wBfx wBfi
  have hp {op m : Nat} (ho : op ≤ 0x1B) (hm : m < 2) := permits_wBF x ho gd ga pos.isLt len1.isLt hm
  refine ⟨fun h => ?_, fun h => ?_, fun h => ?_, fun h => ?_⟩
  · have hexec : exec (.shi x gd ga k n) s = .next _ :=
      congrArg Host.Outcome.next (State.issue_of hi h (permits_wGI x (by decide) gd.isLt ga.isLt _) _)
    exact ⟨fun hk => hexec.trans (congrArg _ (if_pos hk)), fun hk => hexec.trans (congrArg _ (if_neg (by omega)))⟩
  · have hexec : exec (.bfx x gd ga pos len1 sg) s = .next _ := congrArg Host.Outcome.next (State.issue_of hi h (hp (by decide) (bit_lt_two sg)) _)
    exact ⟨fun hf => ⟨_, hexec.trans (congrArg _ (if_pos hf)), fun i hi => getLsbD_bitField _ sg hf hi⟩,
      fun hf => hexec.trans (congrArg _ (if_neg (by omega)))⟩
  · have hexec : exec (.bfi x gd ga pos len1) s = .next _ := congrArg Host.Outcome.next (State.issue_of hi h (hp (by decide) (by decide)) _)
    refine ⟨fun hf => ⟨_, hexec.trans (congrArg _ (if_pos hf)), fun i hi => ?_⟩, fun hf => hexec.trans (congrArg _ (if_neg (by omega)))⟩
    rw [getLsbD_bitInsert _ _ _ _ hi]
    exact if_congr (by omega) rfl rfl
  · have hm : w.val + 4 * bit p < 2048 := by have := bit_lt_two p; omega
    exact issue3_writes hi (by decide) hm h rfl

end Sys2Proof.Machine
end

section
/-! PROOFS. Where a data-profile access goes, and the statement O11 (R129, R171, R172). -/

namespace Sys2Proof.Machine

/-- Settles O11: the address checks of an access in the data profile, the claim written as bounds. -/
theorem dataProfileAddresses : Obligations.DataProfileAddresses := by
  unfold Obligations.DataProfileAddresses
  intro x a n w i s hcc him
  have hclaim : ∀ m base size, inClaim a.toNat m base size = true ↔ base ≤ a.toNat ∧ a.toNat + m ≤ base + size := fun m base size => by
    rw [inClaim, Bool.and_eq_true, decide_eq_true_iff, decide_eq_true_iff]
  have hridge : keyRidge (ctxKey x) = keyCore (ctxKey x) / 16 := rfl
  refine ⟨?_, ?_⟩
  · simp only [State.scratchAt, hcc, him, hclaim, and_assoc, Bool.false_eq_true, if_false]
  · simp only [State.sharedAt, hcc, him, hclaim, and_assoc, hridge, ridgeBytes, sharedBase, sharedSize, Bool.false_eq_true, if_false]

end Sys2Proof.Machine
end

section
/-! PROOFS. Loads, stores and AMO: the bytes they read and write, and the statements O8, O9 and O10 (R171, R172, R445). -/

namespace Sys2Proof.Machine

/-! ### Bytes of a memory -/

theorem Mem.bytes_length (m : Mem) (n : Nat) : ∀ a, (Mem.bytes m a n).length = n := by
  induction n with
  | zero => exact fun _ => rfl
  | succ n ih => exact fun a => congrArg (· + 1) (ih (a + 1))

theorem Mem.bytes_getElem (m : Mem) (n : Nat) : ∀ (a : Nat) {j : Nat} (h : j < (Mem.bytes m a n).length),
    (Mem.bytes m a n)[j] = Mem.byte m (a + j) := by
  induction n with
  | zero => exact fun a j h => absurd h (Nat.not_lt_zero j)
  | succ n ih =>
    intro a j h
    cases j with
    | zero => rfl
    | succ j => exact (ih (a + 1) (Nat.lt_of_succ_lt_succ h)).trans (congrArg (Mem.byte m) (by omega))

/-- Byte `j` of a value read is the byte at the address plus `j`. -/
theorem State.loadAt_byte (s : State) (p : MemAt) {n : Nat} (hn : n ≤ 8) (j : Nat) :
    (s.loadAt p n).extractLsb' (8 * j) 8 = if j < n then Mem.byte (s.memOf p) (p.addr + j) else 0 := by
  have hlen := Mem.bytes_length (s.memOf p) n p.addr
  have hlt : leNat (Mem.bytes (s.memOf p) p.addr n) < 256 ^ n := Nat.lt_of_lt_of_eq (leNat_lt _) (congrArg (256 ^ ·) hlen)
  have hwide : 256 ^ n ≤ 2 ^ 64 := Nat.pow_le_pow_right (n := 256) (by decide) hn
  rw [extractLsb'_byte, State.loadAt, BitVec.toNat_ofNat, Nat.mod_eq_of_lt (Nat.lt_of_lt_of_le hlt hwide)]
  split
  · next hj =>
    have hin := Nat.lt_of_lt_of_eq hj hlen.symm
    rw [← Mem.bytes_getElem _ _ _ hin]
    exact BitVec.eq_of_toNat_eq ((BitVec.toNat_ofNat _ _).trans (leNat_div_mod _ hin))
  · next hj =>
    rw [Nat.div_eq_of_lt (Nat.lt_of_lt_of_le hlt (Nat.pow_le_pow_right (by decide) (Nat.le_of_not_lt hj)))]
    rfl

/-! ### What a store changes -/

section Store
variable (s : State) (p : MemAt) (n : Nat) (v : BitVec 64)

theorem State.memOf_storeAt_self : (s.storeAt p n v).memOf p = Mem.setBytes (s.memOf p) p.addr (leBytes v.toNat n) := by
  cases p <;> rfl

theorem State.storeAt_keepsBut : KeepsBut [.mem] s (s.storeAt p n v) := by
  cases p <;> exact s.setMem_keepsBut _

theorem State.memOf_storeAt_of_ne {q : MemAt} (hext : ∀ a b, p = .ext a → q ≠ .ext b) (hscratch : ∀ a b, p = .scratch a → q ≠ .scratch b)
    (hshared : ∀ a b, p = .shared a → q ≠ .shared b) : (s.storeAt p n v).memOf q = s.memOf q := by
  cases p with
  | ext a =>
    cases q with
    | ext b => exact absurd rfl (hext a b rfl)
    | scratch b => rfl
    | shared b => rfl
  | scratch a =>
    cases q with
    | scratch b => exact absurd rfl (hscratch a b rfl)
    | ext b => rfl
    | shared b => rfl
  | shared a =>
    cases q with
    | shared b => exact absurd rfl (hshared a b rfl)
    | ext b => rfl
    | scratch b => rfl

theorem State.byte_storeAt_in {j : Nat} (hj : j < n) :
    Mem.byte ((s.storeAt p n v).memOf p) (p.addr + j) = v.extractLsb' (8 * j) 8 := by
  have hin : j < (leBytes v.toNat n).length := Nat.lt_of_lt_of_eq hj (leBytes_length _ n).symm
  rw [State.memOf_storeAt_self, Mem.byte_setBytes_in _ _ _ _ hin, leBytes_getElem, extractLsb'_byte]

theorem State.byte_storeAt_out {a : Nat} (ha : a < p.addr ∨ p.addr + n ≤ a) :
    Mem.byte ((s.storeAt p n v).memOf p) a = Mem.byte (s.memOf p) a := by
  rw [State.memOf_storeAt_self, Mem.byte_setBytes_of_out _ _ _ _ (by rwa [leBytes_length])]

end Store

/-! ### The note of an access to shared memory (R172) -/

section Note
variable (s : State) (x : Ctx) (p : MemAt)

theorem State.noteShared_mem : (s.noteShared x (.inl p)).mem = s.mem := by cases p <;> rfl

theorem State.noteShared_gpr (y : Ctx) (r : GReg) : (s.noteShared x (.inl p)).gpr y r = s.gpr y r := by cases p <;> rfl

theorem State.memOf_of_mem {s t : State} (h : t.mem = s.mem) (q : MemAt) : t.memOf q = s.memOf q := by
  cases q <;> simp only [State.memOf, h]

theorem State.noteShared_loadAt (q : MemAt) (n : Nat) : (s.noteShared x (.inl p)).loadAt q n = s.loadAt q n := by
  rw [State.loadAt, State.memOf_of_mem (s.noteShared_mem x p), State.loadAt]

theorem State.noteShared_poisoned (q : MemAt) : (s.noteShared x (.inl p)).poisoned q = s.poisoned q := by
  rw [State.poisoned, s.noteShared_mem x p, State.poisoned]

/-- A load or store by LDS, LDSW, STS or STSW reaches no shared memory. -/
theorem State.noteShared_scratchAt (a : BitVec 64) (n : Nat) (write : Bool) : s.noteShared x (s.scratchAt x a n write) = s := by
  unfold State.scratchAt
  dsimp only
  repeat' split
  all_goals rfl

end Note

/-! ### Issue of an access -/

section Issue
variable {s : State} {x : Ctx} {w : BitVec 32} (hp : permits x (wOp w) = true)
include hp

theorem State.issueMem_own (hi : s.canIssue x = true) (hf : s.fetches x w = true) (h : State → State) :
    s.issueMem x w false h = h (s.atSlot x) := by
  have hgo : (s.canIssue x && s.fetches x w) = true := by rw [hi, hf]; rfl
  exact (if_pos hgo).trans (State.issue_of hi hf hp h)

theorem State.issueMem_turn (hi : (s.takeTurn x).canIssue x = true) (hf : (s.takeTurn x).fetches x w = true) (h : State → State) :
    s.issueMem x w true h = h ((s.takeTurn x).atSlot x) := by
  have hgo : ((s.takeTurn x).canIssue x && (s.takeTurn x).fetches x w) = true := by rw [hi, hf]; rfl
  exact (if_pos hgo).trans (State.issue_of hi hf hp h)

end Issue

/-! ### Loads -/

section Load
variable {s : State} {x : Ctx} {gd ga : GReg} {off : BitVec 16} {op n : Nat} (ho : op ≤ 0x1B)
include ho

/-- A load of external memory or scratch: the value, a poisoned word, or a fault. -/
theorem loadOwn_clauses (hi : s.canIssue x = true) (hf : s.fetches x (wGI op gd.val ga.val off) = true) :
    let t := s.atSlot x
    let a := t.gpr x ga + off.signExtend 64
    let u := s.issueLoad x op gd ga off n false
    (∀ p, t.scratchAt x a n false = .inl p → t.poisoned p = false → (.next u : Out) = .next ((t.setGpr x gd (t.loadAt p n)).retire x)) ∧
    (∀ p, t.scratchAt x a n false = .inl p → t.poisoned p = true → (.next u : Out) = .next (t.badLoad x p a)) ∧
    (∀ tc, t.scratchAt x a n false = .inr tc → (.next u : Out) = .next (t.memFault x tc a)) := by
  intro t a u
  have hu : u = t.loadOr x (t.scratchAt x a n false) a n (fun v d => (v.setGpr x gd d).retire x) := by
    refine (State.issueMem_own (permits_wGI x ho gd.isLt ga.isLt off) hi hf _).trans ?_
    dsimp only
    rw [if_neg Bool.false_ne_true, State.noteShared_scratchAt]
    rfl
  refine ⟨fun p hat hgood => ?_, fun p hat hbad => ?_, fun tc hat => ?_⟩
  · rw [hu, hat, State.loadOr, hgood]
    rfl
  · rw [hu, hat, State.loadOr, hbad]
    rfl
  · rw [hu, hat, State.loadOr]

/-- A load of shared memory in its turn: the value, a poisoned word, or a fault. -/
theorem loadShared_clauses (hi : (s.takeTurn x).canIssue x = true) (hf : (s.takeTurn x).fetches x (wGI op gd.val ga.val off) = true) :
    let t := (s.takeTurn x).atSlot x
    let a := t.gpr x ga + off.signExtend 64
    let u := s.issueLoad x op gd ga off n true
    (∀ p, t.sharedAt x a = .inl p → t.poisoned p = false →
      (.next u : Out) = .next (((t.noteShared x (.inl p)).setGpr x gd (t.loadAt p n)).retire x)) ∧
    (∀ p, t.sharedAt x a = .inl p → t.poisoned p = true → (.next u : Out) = .next ((t.noteShared x (.inl p)).badLoad x p a)) ∧
    (∀ tc, t.sharedAt x a = .inr tc → (.next u : Out) = .next (t.memFault x tc a)) := by
  intro t a u
  have hu : u = (t.noteShared x (t.sharedAt x a)).loadOr x (t.sharedAt x a) a n (fun v d => (v.setGpr x gd d).retire x) :=
    State.issueMem_turn (permits_wGI x ho gd.isLt ga.isLt off) hi hf _
  refine ⟨fun p hat hgood => ?_, fun p hat hbad => ?_, fun tc hat => ?_⟩
  · rw [hu, hat, State.loadOr, t.noteShared_poisoned x p p, hgood, t.noteShared_loadAt x p p n]
    rfl
  · rw [hu, hat, State.loadOr, t.noteShared_poisoned x p p, hbad]
    rfl
  · rw [hu, hat]
    rfl

end Load

/-- Settles O8: the outcomes of a load by where its address goes, and the bytes of its value. -/
theorem loadResults : Obligations.LoadResults := by
  unfold Obligations.LoadResults
  intro x gd ga off s
  exact ⟨fun hi hf => loadOwn_clauses (by decide) hi hf, fun hi hf => loadOwn_clauses (by decide) hi hf,
    fun hi hf => loadShared_clauses (by decide) hi hf, fun p n j t hn _ => t.loadAt_byte p hn j⟩

/-! ### Stores -/

section Stores
variable {s : State} {x : Ctx} {gs ga : GReg} {off : BitVec 16} {op n : Nat} (ho : op ≤ 0x1B)
include ho

theorem storeOwn_clauses (hi : s.canIssue x = true) (hf : s.fetches x (wGI op gs.val ga.val off) = true) :
    let t := s.atSlot x
    let a := t.gpr x ga + off.signExtend 64
    let u := s.issueStore x op gs ga off n false
    (∀ p, t.scratchAt x a n true = .inl p → (.next u : Out) = .next ((t.storeAt p n (t.gpr x gs)).retire x)) ∧
    (∀ tc, t.scratchAt x a n true = .inr tc → (.next u : Out) = .next (t.memFault x tc a)) := by
  intro t a u
  have hu : u = _ := State.issueMem_own (permits_wGI x ho gs.isLt ga.isLt off) hi hf _
  dsimp only at hu
  rw [if_neg Bool.false_ne_true] at hu
  refine ⟨fun p hat => ?_, fun tc hat => ?_⟩
  · have hnote : t.noteShared x (.inl p) = t := hat ▸ t.noteShared_scratchAt x a n true
    rw [hu, show t.scratchAt x (t.gpr x ga + sextI off) n true = .inl p from hat, hnote]
  · rw [hu, show t.scratchAt x (t.gpr x ga + sextI off) n true = .inr tc from hat]
    rfl

theorem storeShared_clauses (hi : (s.takeTurn x).canIssue x = true) (hf : (s.takeTurn x).fetches x (wGI op gs.val ga.val off) = true) :
    let t := (s.takeTurn x).atSlot x
    let a := t.gpr x ga + off.signExtend 64
    let u := s.issueStore x op gs ga off n true
    (∀ p, t.sharedAt x a = .inl p → (.next u : Out) = .next (((t.noteShared x (.inl p)).storeAt p n (t.gpr x gs)).retire x)) ∧
    (∀ tc, t.sharedAt x a = .inr tc → (.next u : Out) = .next (t.memFault x tc a)) := by
  intro t a u
  have hu : u = _ := State.issueMem_turn (permits_wGI x ho gs.isLt ga.isLt off) hi hf _
  dsimp only at hu
  rw [if_pos rfl] at hu
  refine ⟨fun p hat => ?_, fun tc hat => ?_⟩
  · rw [hu, show t.sharedAt x (t.gpr x ga + sextI off) = .inl p from hat]
  · rw [hu, show t.sharedAt x (t.gpr x ga + sextI off) = .inr tc from hat]
    rfl

end Stores

/-- Settles O9: the outcomes of a store by where its address goes, and the bytes it leaves. -/
theorem storeResults : Obligations.StoreResults := by
  unfold Obligations.StoreResults
  intro x gs ga off s
  exact ⟨fun hi hf => storeOwn_clauses (by decide) hi hf, fun hi hf => storeOwn_clauses (by decide) hi hf,
    fun hi hf => storeShared_clauses (by decide) hi hf, fun p q n v _ => ⟨fun j hj => s.byte_storeAt_in p n v hj,
      fun a ha => s.byte_storeAt_out p n v ha, s.memOf_storeAt_of_ne p n v, s.storeAt_keepsBut p n v⟩⟩

/-! ### AMO -/

/-- An AMO on a word that is not poisoned: the word becomes a function of itself and gb, and gd takes what it was. -/
theorem amo_clauses {s : State} {x : Ctx} {gd ga gb : GReg} {m : Nat} (hm : m < 2048) (f : BitVec 64 → BitVec 64 → BitVec 64)
    (hi : (s.takeTurn x).canIssue x = true) (hf : (s.takeTurn x).fetches x (wG3 0x16 gd.val ga.val gb.val m) = true) :
    let t := (s.takeTurn x).atSlot x
    let u := s.issueAmo x m gd ga gb f
    (∀ p, t.sharedAt x (t.gpr x ga) = .inl p → t.poisoned p = false → (.next u : Out) =
      .next ((((t.noteShared x (.inl p)).storeAt p 8 (f (t.loadAt p 8) (t.gpr x gb))).setGpr x gd (t.loadAt p 8)).retire x)) ∧
    (∀ tc, t.sharedAt x (t.gpr x ga) = .inr tc → (.next u : Out) = .next (t.memFault x tc (t.gpr x ga))) := by
  intro t u
  have hu : u = _ := State.issueMem_turn (permits_wG3 x (by decide) gd ga gb hm) hi hf _
  dsimp only at hu
  refine ⟨fun p hat hgood => ?_, fun tc hat => ?_⟩
  · rw [hu, hat]
    dsimp only
    rw [t.noteShared_poisoned x p p, hgood, t.noteShared_loadAt x p p, t.noteShared_gpr x p]
    rfl
  · rw [hu, hat]

/-- Settles O10: the four functions of AMO. -/
theorem amoResults : Obligations.AmoResults := by
  unfold Obligations.AmoResults
  intro x gd ga gb s b t hi
  exact ⟨fun hf => amo_clauses (by decide) _ hi hf, fun hf => amo_clauses (by decide) (fun _ b => b) hi hf,
    fun hf => amo_clauses (by decide) _ hi hf, fun hf => amo_clauses (by decide) _ hi hf⟩

end Sys2Proof.Machine
end

section
/-! PROOFS. Branches and the counted loop, CALL and JR, and the statements O12 and O13 (R173, R174, R182). -/

namespace Sys2Proof.Machine

/-! ### Words of these instructions -/

theorem wOp_wBL {op : Nat} (ho : op < 64) (off : BitVec 26) : wOp (wBL op off) = op := wOp_ofNat ho off.isLt

theorem permits_branch (x : Ctx) (off : BitVec 26) : permits x (wOp (wBL 0x1A off)) = true := by
  rw [wOp_wBL (by decide)]
  exact permits_of_le x (by decide)

theorem permits_wLoop (x : Ctx) (ga : GReg) (max : Fin 2048) (len : Fin 1024) : permits x (wOp (wLoop ga.val max.val len.val)) = true := by
  rw [wLoop, Nat.add_assoc, Nat.add_assoc, wOp_ofNat (by decide) (by omega)]
  exact permits_of_le x (by decide)

/-! ### Branches (R173) -/

section Branch
variable (t : State) (x : Ctx) (w : BitVec 32) (off : Int) (b : Bool)

theorem State.branchIf_illegal (hcc : isCc (ctxKey x) = false) (hoff : off < 1) : t.branchIf x w off b = t.illegal x w := by
  rw [State.branchIf, hcc, decide_eq_true hoff]
  rfl

variable (h : isCc (ctxKey x) = true ∨ 1 ≤ off)
include h

theorem State.branchIf_goes : t.branchIf x w off b = if b then t.branchTo x (t.indexAt x off) else t.retire x := by
  have hno : (!isCc (ctxKey x) && decide (off < 1)) = false := by
    rcases h with h | h
    · rw [h]
      rfl
    · rw [decide_eq_false (Int.not_lt.2 h), Bool.and_false]
  rw [State.branchIf, hno]
  exact if_neg Bool.false_ne_true

end Branch

/-- Settles O12: the profile's check of the offset, then the comparison. -/
theorem branchResults : Obligations.BranchResults := by
  unfold Obligations.BranchResults
  intro x ga gb off o26 s hi t wq wn wb
  have two {op : Nat} (ho : op ≤ 0x1B) := permits_wGI x ho ga.isLt gb.isLt off
  refine ⟨fun hoff => ⟨fun h => ?_, fun h => ?_⟩, fun hoff h => ?_, fun hcc hoff => ⟨fun h => ?_, fun h => ?_⟩, fun hcc hoff h => ?_,
    fun j hin => ?_⟩
  · refine (congrArg _ (State.issue_of hi h (two (by decide)) _)).trans (congrArg _ ((t.branchIf_goes x wq _ _ hoff).trans ?_))
    exact if_congr beq_iff_eq rfl rfl
  · refine (congrArg _ (State.issue_of hi h (two (by decide)) _)).trans (congrArg _ ((t.branchIf_goes x wn _ _ hoff).trans ?_))
    exact (if_congr bne_iff_ne rfl rfl).trans (ite_not _ _ _)
  · exact (congrArg _ (State.issue_of hi h (permits_branch x o26) _)).trans (congrArg _ (t.branchIf_goes x wb _ true hoff))
  · exact (congrArg _ (State.issue_of hi h (two (by decide)) _)).trans (congrArg _ (t.branchIf_illegal x wq _ _ hcc hoff))
  · exact (congrArg _ (State.issue_of hi h (two (by decide)) _)).trans (congrArg _ (t.branchIf_illegal x wn _ _ hcc hoff))
  · exact (congrArg _ (State.issue_of hi h (permits_branch x o26) _)).trans (congrArg _ (t.branchIf_illegal x wb _ true hcc hoff))
  · obtain ⟨hindex, hloops, hkeeps, -⟩ := State.goto_results (s := s) (k := ctxKey x) (j := j)
      (ls := (s.thr (ctxKey x)).loops.filter (fun l => decide (l.first ≤ j) && decide (j < l.stop))) hin
    exact ⟨hindex, hloops, hkeeps⟩

/-! ### LOOP (R174) -/

section Loop
variable {s : State} {x : Ctx} {ga : GReg} {max : Fin 2048} {len : Fin 1024} (hi : s.canIssue x = true)
  (hf : s.fetches x (wLoop ga.val max.val len.val) = true)
include hi hf

theorem exec_loop_illegal (hbad : max.val = 0 ∨ len.val = 0 ∨
      (s.atSlot x).loopOk x (((s.atSlot x).thr (ctxKey x)).index + 1 + len.val) = false) :
    exec (.loop x ga max len) s = .next ((s.atSlot x).illegal x (wLoop ga.val max.val len.val)) := by
  refine (congrArg _ (State.issue_of hi hf (permits_wLoop x ga max len) _)).trans (congrArg _ (if_pos ?_))
  rwa [Bool.not_eq_true']

variable (hmax : max.val ≠ 0) (hlen : len.val ≠ 0)
  (hok : (s.atSlot x).loopOk x (((s.atSlot x).thr (ctxKey x)).index + 1 + len.val) = true)
include hmax hlen hok

theorem exec_loop_fits : exec (.loop x ga max len) s = .next (
    let t := s.atSlot x
    let th := t.thr (ctxKey x)
    let n := min (t.gpr x ga).toNat max.val
    if n = 0 then
      t.goto (ctxKey x) (settleLoops th.loops (th.index + 1 + len.val)).1 (settleLoops th.loops (th.index + 1 + len.val)).2
    else t.goto (ctxKey x) ({ first := th.index + 1, stop := th.index + 1 + len.val, left := n - 1 } :: th.loops) (th.index + 1)) := by
  refine (congrArg _ (State.issue_of hi hf (permits_wLoop x ga max len) _)).trans (congrArg _ (if_neg ?_))
  rw [hok]
  simp [hmax, hlen]

theorem exec_loop_enters (hn : 0 < ((s.atSlot x).gpr x ga).toNat) :
    let t := s.atSlot x
    let th := t.thr (ctxKey x)
    exec (.loop x ga max len) s = .next (t.goto (ctxKey x)
      ({ first := th.index + 1, stop := th.index + 1 + len.val, left := min (t.gpr x ga).toNat max.val - 1 } :: th.loops)
      (th.index + 1)) :=
  (exec_loop_fits hi hf hmax hlen hok).trans (congrArg _ (if_neg (by omega)))

theorem exec_loop_skips (hn : (s.atSlot x).gpr x ga = 0) (hl : ((s.atSlot x).thr (ctxKey x)).loops = []) :
    exec (.loop x ga max len) s = .next ((s.atSlot x).goto (ctxKey x) [] (((s.atSlot x).thr (ctxKey x)).index + 1 + len.val)) := by
  refine (exec_loop_fits hi hf hmax hlen hok).trans (congrArg _ ((if_pos ?_).trans ?_))
  · rw [hn]
    exact Nat.zero_min _
  · rw [hl, settleLoops]

end Loop

/-! ### Instructions of a control core (R161, R183) -/

theorem State.atSlot_cc (s : State) (k : Fin 8) : s.atSlot (.cc k) = s := by
  unfold State.atSlot
  cases s.nextSlot (.cc k) with
  | none => rfl
  | some d => rfl

/-- A control core issues the command's word at once. -/
theorem State.issue_cc {s : State} {k : Fin 8} {w : BitVec 32} (hi : s.canIssue (.cc k) = true) (hp : permits (.cc k) (wOp w) = true)
    (h : State → State) : s.issue (.cc k) w h = h s := by
  rw [State.issue_of hi rfl hp, State.atSlot_cc]

theorem permits_cc (k : Fin 8) {op low : Nat} (hl : 0x30 ≤ op) (hh : op ≤ 0x37) (hlow : low < 67108864) :
    permits (.cc k) (wOp (BitVec.ofNat 32 (op * 67108864 + low))) = true := by
  rw [wOp_ofNat (by omega) hlow]
  simp [permits, hl, hh]

theorem permits_cc_wGI (k : Fin 8) {op a b : Nat} (hl : 0x30 ≤ op) (hh : op ≤ 0x37) (ha : a < 32) (hb : b < 32) (imm : BitVec 16) :
    permits (.cc k) (wOp (wGI op a b imm)) = true := by
  have himm := imm.isLt
  rw [wGI, Nat.add_assoc, Nat.add_assoc]
  exact permits_cc k hl hh (by omega)

/-- Settles O13: LOOP by its count and whether its body fits, CALL and JR on a control core. -/
theorem loopCallJumpResults : Obligations.LoopCallJumpResults := by
  unfold Obligations.LoopCallJumpResults
  intro x ga max len off s hi t th w stop
  refine ⟨fun hf => ⟨exec_loop_enters hi hf, exec_loop_skips hi hf, exec_loop_illegal hi hf⟩, fun k hx => ?_⟩
  subst hx
  have ht : t = s := s.atSlot_cc k
  have hcall : permits (.cc k) (wOp (wBL 0x30 off)) = true := permits_cc k (by decide) (by decide) off.isLt
  have hjr : permits (.cc k) (wOp (wGI 0x31 0 ga.val 0)) = true := permits_cc_wGI k (by decide) (by decide) (by decide) ga.isLt 0
  rw [show th = s.thr (ctxKey (.cc k)) from ht ▸ rfl, ht]
  exact ⟨congrArg _ (State.issue_cc hi hcall _), fun ha => (congrArg _ (State.issue_cc hi hjr _)).trans (congrArg _ (if_pos ha)),
    fun ha => (congrArg _ (State.issue_cc hi hjr _)).trans (congrArg _ (if_neg ha))⟩

end Sys2Proof.Machine
end

section
/-! PROOFS. The control profile, and the statement O14 (R156, R182, R183, R185). -/

namespace Sys2Proof.Machine

/-! ### What a control core's instruction does to it -/

section Core
variable {s : State} {k : Fin 8}

/-- A control core goes on to another instruction with its system registers as they are. -/
theorem State.retire_cc (s : State) (k : Fin 8) : KeepsBut [.spur] s (s.retire (.cc k)) ∧
    ((s.retire (.cc k)).thr (ctxKey (.cc k))).sys = (s.thr (ctxKey (.cc k))).sys := by
  unfold State.retire
  rw [State.goto_within (.inl (isCc_cc k)), State.thr_modThr_self]
  exact ⟨s.modThr_keepsBut _ _, rfl⟩

theorem State.sysReg_of_le (s : State) (x : Ctx) {n : Nat} (h : n ≤ 6) : s.sysReg x n = SMap.getD (s.thr (ctxKey x)).sys n 0 :=
  if_neg (by omega)

theorem State.sysReg_coreId (s : State) (k : Fin 8) : s.sysReg (.cc k) 7 = BitVec.ofNat 64 k.val :=
  (if_pos rfl).trans (congrArg _ (Nat.add_sub_cancel_left 8192 k.val))

theorem State.setSys_coreId (s : State) (x : Ctx) (v : BitVec 64) : s.setSys x 7 v = s := if_pos rfl

/-- A write of another system register than CORE_ID. -/
theorem State.setSys_results (s : State) (x : Ctx) {n : Nat} (h : n ≤ 6) (v : BitVec 64) : KeepsBut [.spur] s (s.setSys x n v) ∧
    SMap.getD ((s.setSys x n v).thr (ctxKey x)).sys n 0 = (if n = 4 then v &&& 3 else v) ∧
    ∀ m, m ≠ n → SMap.getD ((s.setSys x n v).thr (ctxKey x)).sys m 0 = SMap.getD (s.thr (ctxKey x)).sys m 0 := by
  rw [State.setSys, if_neg (by omega), State.thr_modThr_self]
  exact ⟨s.modThr_keepsBut _ _, SMap.getD_setD_self _ _ _ _, fun m hm => SMap.getD_setD_of_ne _ _ _ _ hm⟩

/-- A system register is written and the instruction retires. -/
theorem State.setSys_retires (s : State) (k : Fin 8) {n : Nat} (h : n ≤ 6) (v : BitVec 64) :
    SMap.getD (((s.setSys (.cc k) n v).retire (.cc k)).thr (ctxKey (.cc k))).sys n 0 = (if n = 4 then v &&& 3 else v) ∧
      KeepsBut [.spur] s ((s.setSys (.cc k) n v).retire (.cc k)) := by
  obtain ⟨hkeeps, hself, -⟩ := s.setSys_results (.cc k) h v
  obtain ⟨hkeeps', hsys⟩ := (s.setSys (.cc k) n v).retire_cc k
  exact ⟨hsys ▸ hself, hkeeps.trans hkeeps'⟩

/-- What ERET leaves: the index of TRAP_PC, and STATUS[0] as STATUS[1] was. -/
theorem State.returned_results (s : State) (x : Ctx) :
    let u := (s.setSys x 4 ((s.sysReg x 4 &&& 2) ||| ((s.sysReg x 4 >>> 1) &&& 1))).modThr (ctxKey x)
      (fun t => { t with index := (SMap.getD t.sys 1 0).toNat / 4, loops := [] })
    (u.thr (ctxKey x)).index = (SMap.getD (s.thr (ctxKey x)).sys 1 0).toNat / 4 ∧
      (SMap.getD (u.thr (ctxKey x)).sys 4 0).getLsbD 0 = (SMap.getD (s.thr (ctxKey x)).sys 4 0).getLsbD 1 ∧ KeepsBut [.spur] s u := by
  obtain ⟨hkeeps, hstatus, hother⟩ :=
    s.setSys_results x (by decide : 4 ≤ 6) ((s.sysReg x 4 &&& 2) ||| ((s.sysReg x 4 >>> 1) &&& 1))
  dsimp only
  rw [State.thr_modThr_self]
  refine ⟨?_, ?_, hkeeps.trans (State.modThr_keepsBut _ _ _)⟩
  · dsimp only
    rw [hother 1 (by decide)]
  · dsimp only
    rw [hstatus, if_pos rfl, s.sysReg_of_le x (by decide)]
    simp

/-- A trap's cause and address. -/
theorem State.faultAt_cc_results (s : State) (k : Fin 8) (cause tc : Nat) (val : BitVec 64) :
    let u := s.faultAt (.cc k) cause tc val
    SMap.getD (u.thr (ctxKey (.cc k))).sys 0 0 = BitVec.ofNat 64 tc ∧
      SMap.getD (u.thr (ctxKey (.cc k))).sys 1 0 = BitVec.ofNat 64 (4 * (s.thr (ctxKey (.cc k))).index) ∧ KeepsBut [.spur] s u := by
  obtain ⟨hcause, hpc, -⟩ := s.trap_results (ctxKey (.cc k)) tc (s.thr (ctxKey (.cc k))).pcOf val
  dsimp only
  rw [State.faultAt_cc]
  exact ⟨hcause, hpc, s.trap_keepsBut _ _ _ _⟩

end Core

/-! ### Which words each profile has (R182, R183) -/

theorem permits_cc_wG3 (k : Fin 8) {op m : Nat} (hl : 0x30 ≤ op) (hh : op ≤ 0x37) (ga : GReg) (hm : m < 2048) :
    permits (.cc k) (wOp (wG3 op 0 ga.val 0 m)) = true := by
  rw [show wOp (wG3 op 0 ga.val 0 m) = op from wOp_wG3 (by omega) 0 ga 0 hm]
  simp [permits, hl, hh]

theorem permits_brk (x : Ctx) (code : BitVec 26) : permits x (wOp (wBL 0x3F code)) = true := by
  rw [wOp_wBL (by decide)]
  cases x <;> rfl

section Undefined
variable {s : State} {y : Ctx}

theorem permits_control (hcc : isCc (ctxKey y) = false) {op : Nat} (hl : 0x30 ≤ op) (hh : op ≤ 0x37) : permits y op = false := by
  cases y with
  | thr c t => simp [permits]; omega
  | bg c => simp [permits]; omega
  | cc k => rw [isCc_cc] at hcc; cases hcc

variable (hcc : isCc (ctxKey y) = false) (hi : s.canIssue y = true)
include hcc hi

/-- In the data profile a word of a control opcode is undefined. -/
theorem State.issue_control {w : BitVec 32} {op : Nat} (hl : 0x30 ≤ op) (hh : op ≤ 0x37) (hop : wOp w = op) (hf : s.fetches y w = true)
    (h : State → State) : s.issue y w h = (s.atSlot y).illegal y w := by
  have hgo : (s.canIssue y && s.fetches y w) = true := by rw [hi, hf]; rfl
  have hno : ¬permits y (wOp w) = true := by
    rw [hop, permits_control hcc hl hh]
    exact Bool.false_ne_true
  exact (if_pos hgo).trans (if_neg hno)

/-- Where debug is not permitted, a BRK of the data profile only retires. -/
theorem exec_brk_off {code : BitVec 26} (hf : s.fetches y (wBL 0x3F code) = true) (hoff : (s.atSlot y).is .secLifecycleDebug = false) :
    exec (.brk y code) s = .next ((s.atSlot y).retire y) := by
  refine congrArg _ ((State.issue_of hi hf (permits_brk y code) _).trans ?_)
  dsimp only
  rw [hcc, hoff]
  rfl

end Undefined

/-- Settles O14: what each control instruction does on a control core, and that the data profile lacks its opcode. -/
theorem controlProfileResults : Obligations.ControlProfileResults := by
  unfold Obligations.ControlProfileResults
  intro k ga gd sr code s x th st
  refine ⟨fun hi => ?_, fun y hcc hi => ?_⟩
  · have gi {op : Nat} (hl : 0x30 ≤ op) (hh : op ≤ 0x37) (a b : GReg) := permits_cc_wGI k hl hh a.isLt b.isLt sr
    have g3 {op m : Nat} (hl : 0x30 ≤ op) (hh : op ≤ 0x37) (hm : m < 2048) (r : GReg) {h : State → State} :
        (.next (s.issue x (wG3 op 0 r.val 0 m) h) : Out) = .next (h s) :=
      congrArg _ (State.issue_cc hi (permits_cc_wG3 k hl hh r hm) h)
    have hmfs : exec (.mfs x gd sr) s = .next _ := congrArg Host.Outcome.next (State.issue_cc hi (gi (by decide) (by decide) gd 0) _)
    have hmts : exec (.mts x ga sr) s = .next _ := congrArg Host.Outcome.next (State.issue_cc hi (gi (by decide) (by decide) 0 ga) _)
    have hbrk : exec (.brk x code) s = .next _ := congrArg Host.Outcome.next (State.issue_cc hi (permits_brk x code) _)
    have hon : st ||| 1 = s.sysReg x 4 ||| 1 := by rw [s.sysReg_of_le x (by decide)]
    refine ⟨fun h => ?_, fun h => ⟨?_, ?_⟩, fun h => ?_, fun h => ⟨?_, ?_⟩, g3 (by decide) (by decide) (by decide) ga,
      g3 (by decide) (by decide) (by decide) ga, g3 (by decide) (by decide) (by decide) ga, g3 (by decide) (by decide) (by decide) ga,
      g3 (by decide) (by decide) (by decide) ga, g3 (by decide) (by decide) (by decide) ga, g3 (by decide) (by decide) (by decide) ga,
      g3 (by decide) (by decide) (by decide) 0, g3 (by decide) (by decide) (by decide) 0, ?_, ?_, ?_, ?_, ?_⟩
    · rw [hmfs, if_pos (by omega), s.sysReg_of_le x h]
    · rw [hmfs, if_pos (by omega), h, s.sysReg_coreId k]
    · rw [hmts, if_pos (by omega), h, s.setSys_coreId]
    · exact ⟨_, hmts.trans (congrArg _ (if_pos (by omega))), s.setSys_retires k h _⟩
    · rw [hmfs, if_neg (by omega)]
    · rw [hmts, if_neg (by omega)]
    · obtain ⟨hstatus, hkeeps⟩ := s.setSys_retires k (by decide : 4 ≤ 6) (s.sysReg x 4 ||| 1)
      exact ⟨_, g3 (by decide) (by decide) (by decide) 0, hstatus.trans (by rw [if_pos rfl, ← hon]), hkeeps⟩
    · obtain ⟨hstatus, hkeeps⟩ := s.setSys_retires k (by decide : 4 ≤ 6) (s.sysReg x 4 &&& 2)
      refine ⟨_, g3 (by decide) (by decide) (by decide) 0, hstatus.trans ?_, hkeeps⟩
      rw [if_pos rfl, s.sysReg_of_le x (by decide), BitVec.and_assoc]
      rfl
    · exact ⟨_, g3 (by decide) (by decide) (by decide) 0, s.returned_results x⟩
    · exact ⟨_, g3 (by decide) (by decide) (by decide) 0, s.faultAt_cc_results k _ _ _⟩
    · exact ⟨_, hbrk.trans (congrArg _ (if_pos (isCc_cc k))), s.faultAt_cc_results k _ _ _⟩
  · have undef {w : BitVec 32} {op : Nat} {h : State → State} (hl : 0x30 ≤ op) (hh : op ≤ 0x37) (hop : wOp w = op)
        (hf : s.fetches y w = true) : (.next (s.issue y w h) : Out) = .next ((s.atSlot y).illegal y w) :=
      congrArg _ (State.issue_control hcc hi hl hh hop hf h)
    have g3 {op m : Nat} (hl : 0x30 ≤ op) (hh : op ≤ 0x37) (hm : m < 2048) (r : GReg) {h : State → State} :=
      undef (h := h) hl hh (wOp_wG3 (by omega) 0 r 0 hm)
    exact ⟨undef (by decide) (by decide) (wOp_wGI (by decide) gd.isLt (by decide) sr),
      undef (by decide) (by decide) (wOp_wGI (by decide) (by decide) ga.isLt sr),
      undef (by decide) (by decide) (wOp_wBL (by decide) code),
      undef (by decide) (by decide) (wOp_wGI (by decide) (by decide) ga.isLt 0),
      g3 (by decide) (by decide) (by decide) 0, g3 (by decide) (by decide) (by decide) 0, g3 (by decide) (by decide) (by decide) 0,
      g3 (by decide) (by decide) (by decide) ga, g3 (by decide) (by decide) (by decide) ga, exec_brk_off hcc hi⟩

end Sys2Proof.Machine
end

section
/-! PROOFS. Time and the contexts of Spur: an epoch beginning leaves them, and a compare unit that fires on the way to an instant changes
only what is pending and who is READY (R38, R65, R136, R137). -/

namespace Sys2Proof.Machine

theorem State.spur_of_unsent {s t : State} (h : t.unsent = s.unsent) : t.spur = s.spur := State.eq_of_unsent State.spur (fun _ => rfl) h

theorem State.spur_ite {c : Prop} [Decidable c] {a b s : State} (ha : a.spur = s.spur) (hb : b.spur = s.spur) :
    (if c then a else b).spur = s.spur := by
  split
  · exact ha
  · exact hb

/-! ### The Crest's part of an epoch beginning (R45, R52, R53) -/

theorem State.mapEpoch_spur (s : State) : s.mapEpoch.spur = s.spur := by
  unfold State.mapEpoch
  dsimp only
  split <;> rfl

theorem State.copyRegs_spur (s : State) (rs : List RegName) (a b : Nat) : (s.copyRegs rs a b).spur = s.spur := by
  unfold State.copyRegs
  refine foldl_keeps State.spur (fun t r => ?_) rs s
  rfl

theorem State.holdAddend_spur (s : State) : s.holdAddend.spur = s.spur := by
  unfold State.holdAddend
  split <;> rfl

theorem State.bankSwapEffect_spur (s : State) : s.bankSwapEffect.spur = s.spur := by
  unfold State.bankSwapEffect
  extract_lets old u v c w
  have hv : v.spur = s.spur := State.spur_ite (u.copyRegs_spur _ _ _) rfl
  have hw : w.spur = s.spur := State.spur_ite hv hv
  exact State.spur_ite ((State.holdAddend_spur _).trans hw) rfl

theorem State.ptpBank_spur (s : State) (hops : Nat) (eb : Option Nat) : (s.ptpBank hops eb).spur = s.spur := by
  unfold State.ptpBank
  split
  · rfl
  extract_lets b p u v w
  have hv : v.spur = s.spur := (u.set_spur .crestTqCfgHops _ _).trans (State.copyRegs_spur _ _ _ _)
  have hw : w.spur = s.spur := by
    cases eb with
    | none => exact hv
    | some e => exact (v.set_spur .crestTqCfgEbBase _ _).trans hv
  exact (w.set_spur .crestSrvStaSwapPending 0 1).trans hw

theorem State.ptpWish_spur (s : State) : s.ptpWish.spur = s.spur := by
  unfold State.ptpWish
  split
  · exact s.ptpBank_spur _ _
  · rfl

theorem State.crestEpoch_spur (s : State) : s.crestEpoch.spur = s.spur := by
  have hdef : s.crestEpoch.spur =
      (((s.set .crestTqwTqwEpoch 0 s.tqwClose).set .crestEbFullEbEpoch 0 s.crest.ebMax).mapEpoch.bankSwapEffect.ptpWish).spur := rfl
  rw [hdef, State.ptpWish_spur, State.bankSwapEffect_spur, State.mapEpoch_spur]
  rfl

/-! ### Lanes, Col lists, the ledger and the fabric -/

theorem State.judgeLane_spur (s : State) (l : Nat) : (s.judgeLane l).spur = s.spur := (s.judgeLane_keepsBut l) .spur (by decide)

theorem State.laneEpoch_spur (s : State) (l : Nat) : (s.laneEpoch l).spur = s.spur := by
  unfold State.laneEpoch
  extract_lets c0 c u r d v
  have hv : v.spur = s.spur := State.spur_ite rfl rfl
  exact State.spur_ite ((v.judgeLane_spur l).trans hv) hv

theorem State.lanesEpoch_spur (s : State) : s.lanesEpoch.spur = s.spur :=
  State.spur_ite rfl (foldl_keeps State.spur State.laneEpoch_spur _ s)

theorem State.colEpoch_spur (s : State) : s.colEpoch.spur = s.spur := by
  unfold State.colEpoch
  refine foldl_keeps State.spur (fun t e => ?_) _ s
  rfl

theorem State.retSwap_spur (s : State) (l : Nat) : (s.retSwap l).spur = s.spur := by
  unfold State.retSwap
  extract_lets v b u1 u2 u3
  have h3 : u3.spur = s.spur := State.spur_ite rfl rfl
  exact State.spur_ite h3 rfl

theorem State.showSec_spur (s : State) : s.showSec.spur = s.spur := by
  unfold State.showSec
  dsimp only
  rw [foldl_keeps State.spur (fun t i => t.setReg_spur .secMeas i _), State.set_spur, State.set_spur, State.set_spur]

theorem State.takePair_spur (s : State) : s.takePair.spur = s.spur := State.spur_ite ((State.showSec_spur _).trans rfl) rfl

theorem State.ledEpoch_spur (s : State) : s.ledEpoch.spur = s.spur := by
  unfold State.ledEpoch
  extract_lets u e c v w
  have hu : u.spur = s.spur := foldl_keeps State.spur State.retSwap_spur _ s
  have hw : w.spur = s.spur := (foldl_keeps State.spur (fun t l => t.set_spur .ledLaneStaNNow l 0) _ v).trans hu
  exact State.spur_ite (State.spur_ite ((State.takePair_spur _).trans hw) hw) hu

theorem State.quarantine_spur (s : State) (th : Int) : (s.quarantine th).spur = s.spur := by
  unfold State.quarantine
  dsimp only
  rw [State.set_spur]
  exact State.spur_ite rfl (s.setReg_spur .zoaQuarEnd 0 _)

theorem State.zoaEpoch_spur (s : State) (th : Option Int) : (s.zoaEpoch th).spur = s.spur := by
  have hbeat : ∀ u : State, u.beat.spur = u.spur := fun u => by
    unfold State.beat
    split
    · split <;> rfl
    · rfl
  unfold State.zoaEpoch
  rw [hbeat]
  split
  · next v => exact s.quarantine_spur v
  · rfl

/-! ### The journal -/

theorem State.jFree_spur (s : State) (q tag : Nat) : (s.jFree q tag).spur = s.spur := by
  rcases s.jFree_cases (q := q) (tag := tag) with h | h <;> rw [h] <;> rfl

theorem State.jEnd_spur (s : State) (k status detail blocks : Nat) : (s.jEnd k status detail blocks).spur = s.spur := by
  have hcomplete : ∀ (u : State) (c : JCmd), (u.jComplete c status detail blocks).spur = u.spur := fun u c => by
    unfold State.jComplete
    extract_lets a n tail v w x
    have hv : v.spur = u.spur := State.spur_ite (State.spur_of_unsent (u.hostWrite_unsent _ _ _)) (State.spur_of_unsent (u.hostWrite_unsent _ _ _))
    rw [State.jFree_spur, State.spur_of_unsent (State.signal_unsent _ _ _), State.bump_spur]
    exact (State.spur_of_unsent (v.hostWrite_unsent _ _ _)).trans hv
  unfold State.jEnd
  split
  · rfl
  · next c _ => exact State.spur_ite ((hcomplete _ _).trans rfl) rfl

theorem State.jLose_spur (s : State) (b p status : Nat) : (s.jLose b p status).spur = s.spur := by
  unfold State.jLose
  extract_lets u was j v j' w x
  have hx : x.spur = s.spur := State.spur_ite rfl rfl
  exact State.spur_ite hx hx

theorem State.offerRep_spur (s : State) (k p : Nat) : (s.offerRep k p).spur = s.spur := by
  unfold State.offerRep
  split
  · rfl
  · refine State.spur_ite ?_ rfl
    extract_lets x st
    split
    · rfl
    · exact State.spur_ite rfl (State.jLose_spur _ _ _ _)

theorem State.offerFlush_spur (s : State) (k b p : Nat) : (s.offerFlush k b p).spur = s.spur := by
  unfold State.offerFlush
  split
  · rfl
  · extract_lets v x st
    refine State.spur_ite ?_ rfl
    split <;> rfl

theorem State.runFlush_spur (s : State) (k : Nat) : (s.runFlush k).spur = s.spur := by
  unfold State.runFlush
  split
  · rfl
  · refine State.spur_ite rfl (State.spur_ite (s.jEnd_spur _ _ _ _) (State.spur_ite rfl (State.spur_ite (s.jEnd_spur _ _ _ _) ?_)))
    exact foldl_keeps State.spur (fun t e => State.spur_ite (t.offerFlush_spur _ _ _) rfl) _ s

theorem State.runFua_spur (s : State) (k : Nat) : (s.runFua k).spur = s.spur := by
  unfold State.runFua
  split
  · rfl
  · exact State.spur_ite (State.spur_ite (s.jEnd_spur _ _ _ _) (State.spur_ite (s.jEnd_spur _ _ _ _) rfl)) rfl

theorem State.deliver_spur (c : JCmd) (haddr n : Nat) (s : State) (i : Nat) : (s.deliver c haddr n i).1.spur = s.spur := by
  induction n generalizing s i with
  | zero => rfl
  | succ n ih =>
    unfold State.deliver
    dsimp only
    split
    · exact State.spur_ite rfl rfl
    · split
      · exact State.spur_of_unsent (s.tryAts_unsent _ _ _)
      · exact (ih _ _).trans (State.spur_of_unsent (s.hostWrite_unsent _ _ _))

theorem State.runRead_spur (s : State) (k : Nat) : (s.runRead k).spur = s.spur := by
  unfold State.runRead
  split
  · rfl
  · exact State.spur_ite ((State.jEnd_spur _ _ _ _ _).trans (State.deliver_spur _ _ _ _ _)) rfl

theorem State.stageWrite_spur (s : State) (k : Nat) : (s.stageWrite k).spur = s.spur := by
  unfold State.stageWrite
  split
  · rfl
  · extract_lets a n t
    have hread : t.spur = s.spur := State.spur_of_unsent (s.readHost_unsent _ _ _)
    exact State.spur_ite (State.spur_ite hread ((t.jEnd_spur _ _ _ _).trans hread)) rfl

theorem State.noteReps_spur (s : State) (q : Nat) (c : JCmd) : (s.noteReps q c).spur = s.spur := by
  unfold State.noteReps
  refine foldl_keeps State.spur (fun t p => ?_) _ s
  rfl

theorem State.jSettle_spur (s : State) : s.jSettle.spur = s.spur := by
  have hforget : ∀ u : State, u.jForget.spur = u.spur := fun u => by
    unfold State.jForget
    refine foldl_keeps State.spur (fun t e => ?_) _ u
    exact State.spur_ite ((State.noteReps_spur _ _ _).trans (State.spur_ite rfl (t.noteReps_spur _ _))) rfl
  refine (hforget _).trans (foldl_keeps State.spur (fun t e => ?_) _ s)
  split
  · exact (State.stageWrite_spur _ _).trans (t.runFua_spur _)
  · exact t.runRead_spur _
  · exact t.runFlush_spur _
  · rfl

theorem State.jrnEpoch_spur (s : State) : s.jrnEpoch.spur = s.spur := by
  refine State.spur_ite rfl ((State.jSettle_spur _).trans (foldl_keeps State.spur (fun t e => ?_) _ s))
  refine State.spur_ite ?_ (State.spur_ite ?_ rfl)
  · exact foldl_keeps State.spur (fun u p => State.spur_ite (u.offerRep_spur _ _) rfl) _ t
  · exact foldl_keeps State.spur (fun u x => State.spur_ite (u.offerFlush_spur _ _ _) rfl) _ t

/-- An epoch beginning leaves Spur. -/
theorem State.epochBegin_spur (s : State) : s.epochBegin.spur = s.spur := by
  have hdef : s.epochBegin.spur = ((((s.noteTqw.crestEpoch.lanesEpoch.noteTqw).colEpoch).ledEpoch).zoaEpoch s.crest.step).jrnEpoch.spur := rfl
  have hnote : ∀ u : State, u.noteTqw.spur = u.spur := fun _ => rfl
  rw [hdef, State.jrnEpoch_spur, State.zoaEpoch_spur, State.ledEpoch_spur, State.colEpoch_spur, hnote, State.lanesEpoch_spur,
    State.crestEpoch_spur, hnote]

/-! ### Compare units, and time on the way to an instant (R65, R66) -/

/-- A context without what an input that occurs changes: what is pending, and whether it is READY. -/
def Thread.resting (t : Thread) : Thread := { t with pending := 0, st := 0 }

/-- The contexts without what inputs that occur change. -/
def State.resting (s : State) (k : Nat) : Thread := (s.thr k).resting

theorem State.resting_of_spur {s t : State} (h : t.spur = s.spur) : t.resting = s.resting :=
  funext (fun k => congrArg Thread.resting (State.thr_of_spur h k))

theorem State.raiseEvt_resting (s : State) (k i : Nat) : (s.raiseEvt k i).resting = s.resting := by
  funext j
  unfold State.resting
  by_cases hj : j = k
  · obtain ⟨st, h⟩ := s.thr_raiseEvt_self k i
    rw [hj, h]
    rfl
  · rw [s.thr_raiseEvt_of_ne k i hj]

theorem State.cmpAction_resting (s : State) (k : Nat) : (s.cmpAction k).resting = s.resting := by
  have hstale : (s.cmpStale k).resting = s.resting := State.resting_of_spur rfl
  unfold State.cmpAction
  extract_lets a j ref
  split
  · split <;> rfl
  split
  · split
    · split
      · rfl
      · exact hstale
    · split
      · exact State.resting_of_spur (State.spur_ite rfl rfl)
      · exact hstale
    · split
      · exact State.resting_of_spur (State.spur_ite rfl rfl)
      · exact hstale
    · exact hstale
  split
  · split
    · split
      · exact foldl_keeps State.resting (fun t k => t.raiseEvt_resting k 25) _ s
      · exact hstale
    · exact hstale
  split
  · exact State.resting_of_spur (State.spur_of_unsent (s.signal_unsent _ _))
  · rfl

theorem State.rearm_spur (s : State) (k : Nat) (t per : BitVec 64) : (s.rearm k t per).spur = s.spur := State.spur_ite rfl rfl

theorem State.fireIfDue_resting (s : State) (j : Nat) : (s.fireIfDue j).resting = s.resting := by
  unfold State.fireIfDue
  split
  · next hdue =>
    obtain ⟨t0, hfind, -⟩ := (s.cmpDue_iff j).1 hdue
    rw [s.fireUnit_of_some hfind, State.resting_of_spur (State.rearm_spur _ _ _ _), State.cmpAction_resting]
    rfl
  · rfl

theorem State.fireDue_resting (s : State) : s.fireDue.resting = s.resting := by
  rw [s.fireDue_eq_fireList]
  exact foldl_keeps State.resting State.fireIfDue_resting _ s

theorem State.setAcc_resting (s : State) (a : BitVec 112) : (s.setAcc a).resting = s.resting := rfl

theorem State.fireUntil_resting (n lim : Nat) (s : State) : (State.fireUntil n lim s).resting = s.resting := by
  induction n generalizing s with
  | zero => rfl
  | succ n ih =>
    unfold State.fireUntil
    split
    · split
      · rw [ih, State.fireDue_resting, State.setAcc_resting]
      · rfl
    · rfl

theorem State.passEpochs_resting (n : Nat) (s : State) : (State.passEpochs n s).resting = s.resting := by
  induction n generalizing s with
  | zero => rfl
  | succ n ih =>
    rw [State.passEpochs, ih, State.nextEpoch_eq, State.resting_of_spur (State.epochBegin_spur _), State.atNextEpoch, State.setAcc_resting,
      State.fireUntil_resting]

/-- Time that moves on changes of the contexts what is pending and who is READY. -/
theorem State.advance_resting (s : State) (d : Nat) : (s.advance d).resting = s.resting := by
  unfold State.advance
  split
  · rfl
  · rw [State.setAcc_resting, State.fireUntil_resting, State.passEpochs_resting]

end Sys2Proof.Machine
end

section
/-! PROOFS. Header-buffer and lookup instructions, and the statement O25 (R109, R169, R175-R178). -/

namespace Sys2Proof.Machine

/-! ### Words of these instructions -/

theorem permits_thr (c : Core) (t : Fin 16) {op low : Nat} (ho : op ≤ 0x2D) (hlow : low < 67108864) :
    permits (.thr c t) (wOp (BitVec.ofNat 32 (op * 67108864 + low))) = true := by
  rw [wOp_ofNat (by omega) hlow]
  simp [permits, ho]

theorem permits_wHdr (c : Core) (t : Fin 16) {op : Nat} (ho : op ≤ 0x2D) (gr ga : GReg) (w : Fin 4) (anchor : Fin 8) (off : BitVec 8) :
    permits (.thr c t) (wOp (wHdr op gr.val ga.val w.val anchor.val off)) = true := by
  have hoff := off.isLt
  rw [wHdr, Nat.add_assoc, Nat.add_assoc, Nat.add_assoc, Nat.add_assoc]
  exact permits_thr c t ho (by omega)

theorem permits_wLkp (c : Core) (t : Fin 16) (cl : Fin 16) (l : Fin 4) (ga gb : GReg) :
    permits (.thr c t) (wOp (wLkp cl.val l.val ga.val gb.val)) = true := by
  rw [wLkp, Nat.add_assoc, Nat.add_assoc, Nat.add_assoc]
  exact permits_thr c t (by decide) (by omega)

theorem permits_wLwt (c : Core) (t : Fin 16) (gd gs : GReg) (l : Fin 4) : permits (.thr c t) (wOp (wLwt gd.val gs.val l.val)) = true := by
  rw [wLwt, Nat.add_assoc, Nat.add_assoc]
  exact permits_thr c t (by decide) (by omega)

/-! ### The header buffer (R175, R176) -/

section Position
variable {s : State} {x : Ctx} {f : Frame} {ga : GReg} {anchor n : Nat} {off : BitVec 8}

theorem State.hdrPos_unanchored (h : f.anchors.getD anchor none = none) : s.hdrPos x f ga anchor off n = none := by
  rw [State.hdrPos, h]

variable {a : Nat} (h : f.anchors.getD anchor none = some a)
include h

theorem State.hdrPos_anchored : s.hdrPos x f ga anchor off n =
    if (BitVec.ofNat 64 (a + off.toNat) + s.gpr x ga).toNat + n ≤ f.depth then some (BitVec.ofNat 64 (a + off.toNat) + s.gpr x ga).toNat
    else none := by
  rw [State.hdrPos, h]

end Position

/-- A header-buffer instruction by its anchor and by where its bytes end. -/
theorem issueHdr_clauses {s : State} {x : Ctx} {word : BitVec 32} {ga : GReg} {anchor : Fin 8} {off : BitVec 8} {n : Nat}
    {h : State → Nat → Frame → Nat → State} (hp : permits x (wOp word) = true) (hi : s.canIssue x = true) (hf : s.fetches x word = true) :
    let t := s.atSlot x
    let u := s.issueHdr x word ga anchor off n h
    (4 < anchor.val → (.next u : Out) = .next (t.illegal x word)) ∧
    (∀ (fid : Nat) (f : Frame), anchor.val ≤ 4 → (t.thr (ctxKey x)).frame = some fid → t.frame? fid = some f →
      (∀ a, f.anchors.getD anchor.val none = some a →
        let e := (BitVec.ofNat 64 (a + off.toNat) + t.gpr x ga).toNat
        (e + n ≤ f.depth → (.next u : Out) = .next (h t fid f e)) ∧ (f.depth < e + n → (.next u : Out) = .next (t.faultAt x cHdr 1 0))) ∧
      (f.anchors.getD anchor.val none = none → (.next u : Out) = .next (t.faultAt x cHdr 1 0))) := by
  intro t u
  have hu : u = _ := State.issue_of hi hf hp _
  refine ⟨fun hbad => by rw [hu, if_pos hbad], fun fid f hok hheld hframe => ?_⟩
  rw [if_neg (Nat.not_lt.2 hok)] at hu
  simp only [show ((s.atSlot x).thr (ctxKey x)).frame = some fid from hheld, show (s.atSlot x).frame? fid = some f from hframe] at hu
  refine ⟨fun a ha => ⟨fun hin => ?_, fun hout => ?_⟩, fun ha => ?_⟩
  · rw [State.hdrPos_anchored ha, if_pos hin] at hu
    rw [hu]
  · rw [State.hdrPos_anchored ha, if_neg (Nat.not_le.2 hout)] at hu
    rw [hu]
  · rw [State.hdrPos_unanchored ha] at hu
    rw [hu]

/-! ### LKP (R177) -/

section Lkp
variable {s : State} {c : Core} {th : Fin 16} {cl : Fin 16} {l : Fin 4} {ga gb : GReg} {im : Image}
  (hi : s.canIssue (.thr c th) = true) (hf : s.fetches (.thr c th) (wLkp cl.val l.val ga.val gb.val) = true)
  (him : (s.atSlot (.thr c th)).imageOf (ctxKey (.thr c th)) = some im)
include hi hf him

theorem exec_lkp_issues {q : Claim} (hq : im.claim? 1 cl.val = some q)
    (hfree : SMap.find ((s.atSlot (.thr c th)).thr (ctxKey (.thr c th))).slots l.val = none) :
    let x : Ctx := .thr c th
    let t := s.atSlot x
    let i := bitsOf q.data.toNat 51 32 % 256
    let key := t.lkpKey i (t.gpr x ga) (t.gpr x gb)
    let r := t.lookup i key (refInc q.data)
    exec (.lkp x cl l ga gb) s = .next ((r.1.modThr (ctxKey x) (fun y => { y with slots := SMap.put y.slots l.val (some
      { table := i, key := key, inc := refInc q.data, issued := t.elapsed + slotUnits, latency := t.lkLatency i * unitsPerNs,
        ans := r.2 }) })).retire x) := by
  refine (congrArg Host.Outcome.next (State.issue_of hi hf (permits_wLkp c th cl l ga gb) _)).trans ?_
  simp only [him, Option.bind_some, hq, hfree]

theorem exec_lkp_faults (hno : im.claim? 1 cl.val = none ∨
      SMap.find ((s.atSlot (.thr c th)).thr (ctxKey (.thr c th))).slots l.val ≠ none) :
    exec (.lkp (.thr c th) cl l ga gb) s = .next ((s.atSlot (.thr c th)).faultAt (.thr c th) cLookup 1 0) := by
  refine (congrArg Host.Outcome.next (State.issue_of hi hf (permits_wLkp c th cl l ga gb) _)).trans ?_
  simp only [him, Option.bind_some]
  rcases hno with hno | hno
  · rw [hno]
  · obtain ⟨v, hv⟩ := Option.ne_none_iff_exists'.1 hno
    rw [hv]
    cases im.claim? 1 cl.val <;> rfl

end Lkp

/-! ### LWT (R169, R178) -/

/-- Time that moves on to a context's slot leaves every context's lookups. -/
theorem State.atSlot_slots (s : State) (x : Ctx) (k : Nat) : ((s.atSlot x).thr k).slots = (s.thr k).slots := by
  have hadvance : ∀ d, ((s.advance d).thr k).slots = (s.thr k).slots := fun d =>
    (congrArg Thread.slots (congrFun (s.advance_resting d) k) :)
  unfold State.atSlot
  split
  · rfl
  · rfl
  · next d _ _ =>
    dsimp only
    rw [State.thr_modThr]
    split
    · next hk => exact hk ▸ hadvance d
    · exact hadvance d

section Lwt
variable {s : State} {c : Core} {th : Fin 16} {gd gs : GReg} {l : Fin 4}
  (hf : s.fetches (.thr c th) (wLwt gd.val gs.val l.val) = true) (hend : (s.thr (ctxKey (.thr c th))).slotEnd ≤ s.elapsed)
include hf hend

theorem exec_lwt_faults (hi : s.canIssue (.thr c th) = true) (hfree : SMap.find (s.thr (ctxKey (.thr c th))).slots l.val = none) :
    exec (.lwt (.thr c th) gd gs l) s = .next ((s.atSlot (.thr c th)).faultAt (.thr c th) cLookup 1 0) := by
  have hno : (SMap.find (s.thr (ctxKey (.thr c th))).slots l.val).any (fun v => !s.lkBack v) = false := by rw [hfree]; rfl
  refine congrArg Host.Outcome.next ((State.issueWait_issues hend hno _ _).trans ((State.issue_of hi hf (permits_wLwt c th gd gs l) _).trans ?_))
  rw [State.atSlot_slots, hfree]

variable {v : LkSlot} (hslot : SMap.find (s.thr (ctxKey (.thr c th))).slots l.val = some v)
include hslot

theorem exec_lwt_takes (hi : s.canIssue (.thr c th) = true) (hback : v.back = true ∨ v.issued + v.latency ≤ s.elapsed) :
    exec (.lwt (.thr c th) gd gs l) s = .next (((((s.atSlot (.thr c th)).modThr (ctxKey (.thr c th))
      (fun y => { y with slots := SMap.put y.slots l.val none })).setGpr (.thr c th) gd v.ans.1).setGpr (.thr c th) gs
        (BitVec.ofNat 64 v.ans.2)).retire (.thr c th)) := by
  have hreturned : s.lkBack v = true := by rwa [State.lkBack, Bool.or_eq_true, decide_eq_true_iff]
  have hno : (SMap.find (s.thr (ctxKey (.thr c th))).slots l.val).any (fun v => !s.lkBack v) = false := by
    rw [hslot, Option.any_some, hreturned]
    rfl
  refine congrArg Host.Outcome.next ((State.issueWait_issues hend hno _ _).trans ((State.issue_of hi hf (permits_wLwt c th gd gs l) _).trans ?_))
  rw [State.atSlot_slots, hslot]

theorem exec_lwt_waits (hr : s.runs (.thr c th) = true) (hback : v.back = false) (hlate : s.elapsed < v.issued + v.latency) :
    exec (.lwt (.thr c th) gd gs l) s = .next ((s.modThr (ctxKey (.thr c th)) (fun t => { t with st := 3, waitSlot := l.val })).pauseBudget
      (ctxKey (.thr c th))) := by
  have hawaited : s.lkBack v = false := by rw [State.lkBack, hback, decide_eq_false (Nat.not_le.2 hlate)]; rfl
  have hwaits : (SMap.find (s.thr (ctxKey (.thr c th))).slots l.val).any (fun v => !s.lkBack v) = true := by
    rw [hslot, Option.any_some, hawaited]
    rfl
  exact congrArg Host.Outcome.next (State.issueWait_waits hend hr hf (permits_wLwt c th gd gs l) hwaits _ _)

end Lwt

/-- A budget timer that stops for a lookup changes what the budget is alone. -/
theorem State.pauseBudget_results (s : State) (k : Nat) : KeepsBut [.spur] s (s.pauseBudget k) ∧
    ((s.pauseBudget k).thr k).st = (s.thr k).st ∧ ((s.pauseBudget k).thr k).waitSlot = (s.thr k).waitSlot ∧
    ((s.pauseBudget k).thr k).index = (s.thr k).index := by
  unfold State.pauseBudget
  split
  · exact ⟨KeepsBut.refl _ s, rfl, rfl, rfl⟩
  · unfold State.stopBudget
    rw [State.thr_modThr_self, State.thr_modThr_self]
    exact ⟨(s.modThr_keepsBut k _).trans (State.modThr_keepsBut _ k _), rfl, rfl, rfl⟩

/-! ### The return of a lookup (R109, R169) -/

theorem State.resumeBudget_results (s : State) (k since : Nat) : KeepsBut [.spur] s (s.resumeBudget k since) ∧
    ((s.resumeBudget k since).thr k).st = (s.thr k).st ∧ ((s.resumeBudget k since).thr k).slots = (s.thr k).slots := by
  unfold State.resumeBudget
  rw [State.thr_modThr_self]
  refine ⟨s.modThr_keepsBut k _, ?_⟩
  split <;> exact ⟨rfl, rfl⟩

section Return
variable {s : State} {c : Core} {t : Fin 16} {l : Fin 4}

theorem exec_lookupResult_free (h : SMap.find (s.thr (thrKey c.val t.val)).slots l.val = none) : exec (.lookupResult c t l) s = .next s := by
  have hdef : exec (.lookupResult c t l) s = execLookupResult c t l s := rfl
  rw [hdef, execLookupResult]
  simp only [h]

/-- The state in which a lookup of a slot has returned. -/
def State.returnedTo (s : State) (k l : Nat) (v : LkSlot) : State :=
  s.modThr k (fun th => { th with slots := SMap.put th.slots l (some { v with back := true }) })

theorem State.returnedTo_results (s : State) (k l : Nat) (v : LkSlot) : KeepsBut [.spur] s (s.returnedTo k l v) ∧
    (s.returnedTo k l v).thr k = { s.thr k with slots := SMap.put (s.thr k).slots l (some { v with back := true }) } :=
  ⟨s.modThr_keepsBut k _, s.thr_modThr_self k _⟩

variable {v : LkSlot} (h : SMap.find (s.thr (thrKey c.val t.val)).slots l.val = some v) (hdue : v.issued + v.latency ≤ s.elapsed)
include h hdue

/-- A returned lookup marks its slot; a thread that waits for it is READY, or READY once a debugger lets it go on. -/
theorem exec_lookupResult_due : exec (.lookupResult c t l) s = .next (
    let k := thrKey c.val t.val
    let u := s.returnedTo k l.val v
    if (s.thr k).waitSlot = l.val ∧ (s.thr k).st = 3 then
      (u.modThr k (fun th => { th with st := 1, paused := false })).resumeBudget k (v.issued + v.latency)
    else if (s.thr k).waitSlot = l.val ∧ (s.thr k).st = 4 ∧ (s.thr k).back = 3 then
      u.modThr k (fun th => { th with back := 1, paused := false })
    else u) := by
  have hdef : exec (.lookupResult c t l) s = execLookupResult c t l s := rfl
  obtain ⟨-, hu⟩ := s.returnedTo_results (thrKey c.val t.val) l.val v
  rw [hdef, execLookupResult]
  simp only [h, s.advanceAt_of_reached hdue]
  rw [← State.returnedTo, hu]
  split
  · rfl
  · split <;> rfl

theorem completes_lookupResult : Completes (.lookupResult c t l) s (fun u =>
    SMap.find (u.thr (thrKey c.val t.val)).slots l.val = some { v with back := true } ∧ KeepsBut [.spur] s u ∧
    ((s.thr (thrKey c.val t.val)).waitSlot = l.val → (s.thr (thrKey c.val t.val)).st = 3 → (u.thr (thrKey c.val t.val)).st = 1) ∧
    ((s.thr (thrKey c.val t.val)).st ≠ 3 → (u.thr (thrKey c.val t.val)).st = (s.thr (thrKey c.val t.val)).st)) := by
  refine ⟨_, exec_lookupResult_due h hdue, ?_⟩
  dsimp only
  obtain ⟨hkeeps, hu⟩ := s.returnedTo_results (thrKey c.val t.val) l.val v
  have hfind : SMap.find ((s.returnedTo (thrKey c.val t.val) l.val v).thr (thrKey c.val t.val)).slots l.val = some { v with back := true } := by
    rw [hu]
    exact SMap.find_put_self (s.thr (thrKey c.val t.val)).slots l.val (some { v with back := true })
  have hst : ((s.returnedTo (thrKey c.val t.val) l.val v).thr (thrKey c.val t.val)).st = (s.thr (thrKey c.val t.val)).st := by rw [hu]
  generalize s.returnedTo (thrKey c.val t.val) l.val v = u at hkeeps hfind hst
  split
  · next hwaits =>
    obtain ⟨hkeeps', hst', hslots⟩ := State.resumeBudget_results
      (u.modThr (thrKey c.val t.val) (fun th => { th with st := 1, paused := false })) (thrKey c.val t.val) (v.issued + v.latency)
    rw [State.thr_modThr_self] at hst' hslots
    exact ⟨(congrArg (SMap.find · l.val) hslots).trans hfind, (hkeeps.trans (u.modThr_keepsBut _ _)).trans hkeeps', fun _ _ => hst',
      fun hno => absurd hwaits.2 hno⟩
  · next hother =>
    have hlate : (s.thr (thrKey c.val t.val)).waitSlot = l.val → (s.thr (thrKey c.val t.val)).st ≠ 3 := fun hw h3 => hother ⟨hw, h3⟩
    split
    · rw [State.thr_modThr_self]
      exact ⟨hfind, hkeeps.trans (u.modThr_keepsBut _ _), fun hw h3 => absurd h3 (hlate hw), fun _ => hst⟩
    · exact ⟨hfind, hkeeps, fun hw h3 => absurd h3 (hlate hw), fun _ => hst⟩

end Return

/-- Settles O25: HLD and HST by the position, LKP and LWT by the slot, and a lookup's return by who waits for it. -/
theorem headerLookupResults : Obligations.HeaderLookupResults := by
  unfold Obligations.HeaderLookupResults
  intro c th gr gs ga gb w anchor off cl l s x k n t wl ws slot
  refine ⟨fun hi hf => issueHdr_clauses (permits_wHdr c th (by decide) gr ga w anchor off) hi hf,
    fun hi hf => issueHdr_clauses (permits_wHdr c th (by decide) gr ga w anchor off) hi hf,
    fun hi hf im him => ⟨fun q hq hfree => ⟨_, rfl, rfl, rfl, rfl, rfl, exec_lkp_issues hi hf him hq hfree⟩, exec_lkp_faults hi hf him⟩,
    fun hf hend => ⟨fun hi hfree _ => exec_lwt_faults hf hend hi hfree, fun v hi hslot _ hback => exec_lwt_takes hf hend hslot hi hback,
      fun v hr hslot hback hlate => ⟨_, exec_lwt_waits hf hend hslot hr hback hlate, ?_⟩⟩,
    exec_lookupResult_free, fun v hslot hdue => completes_lookupResult hslot hdue⟩
  obtain ⟨hkeeps, hst, hwait, hindex⟩ := State.pauseBudget_results (s.modThr k (fun t => { t with st := 3, waitSlot := l.val })) k
  rw [State.thr_modThr_self] at hst hwait hindex
  exact ⟨hst, hwait, hindex, (s.modThr_keepsBut k _).trans hkeeps⟩

end Sys2Proof.Machine
end

section
/-! PROOFS. EMIT and LEAF, and the statement O27 (R145, R164, R180, R181, R184, R297). -/

namespace Sys2Proof.Machine

/-! ### Words of these instructions -/

theorem permits_wEmit (c : Core) (t : Fin 16) {kind : Nat} (hk : kind < 8) (ga gb : GReg) (ts lt : Bool) :
    permits (.thr c t) (wOp (wEmit kind ga.val gb.val ts lt)) = true := by
  have hts := bit_lt_two ts
  have hlt := bit_lt_two lt
  rw [wEmit, Nat.add_assoc, Nat.add_assoc, Nat.add_assoc, Nat.add_assoc]
  exact permits_thr c t (by decide) (by omega)

theorem permits_leaf (c : Core) (t : Fin 16) (ga : GReg) : permits (.thr c t) (wOp (wGI 0x2D 0 ga.val 0)) = true := by
  rw [wGI, Nat.add_assoc, Nat.add_assoc]
  exact permits_thr c t (by decide) (by have h0 : (0 : BitVec 16).toNat = 0 := rfl; omega)

/-! ### The slot of a thread's instruction (R131, R132) -/

/-- A thread's instruction takes the slot of 0.5 ns that begins now. -/
theorem State.slotOver_atSlot {s : State} {c : Core} {th : Fin 16} (hi : s.canIssue (.thr c th) = true) :
    (s.atSlot (.thr c th)).slotOver (ctxKey (.thr c th)) = (s.atSlot (.thr c th)).elapsed + 32768 := by
  rw [State.canIssue, Bool.and_eq_true] at hi
  obtain ⟨-, hslot⟩ := hi
  unfold State.atSlot
  cases hnext : s.nextSlot (.thr c th) with
  | none => simp [hnext] at hslot
  | some d =>
    dsimp only
    rw [State.slotOver, State.thr_modThr_self]
    exact Nat.max_eq_right (Nat.le_add_right _ _)

/-! ### EMIT (R180) -/

section Emit
variable {s : State} {c : Core} {th : Fin 16} {kind : Nat} {ga gb : GReg} {ts lt tsOk ltOk : Bool} {claim : Image → Option Claim}
  {dest : Frame → Claim → Frame} (hk : kind < 8) (hi : s.canIssue (.thr c th) = true)
  (hf : s.fetches (.thr c th) (wEmit kind ga.val gb.val ts lt) = true)
include hk hi hf

/-- A ts or lt bit that the kind of EMIT has not is an EMIT fault. -/
theorem State.issueEmit_unallowed (hbad : ((ts && !tsOk) || (lt && !ltOk)) = true) :
    s.issueEmit (.thr c th) kind ga gb ts lt tsOk ltOk claim dest = (s.atSlot (.thr c th)).faultAt (.thr c th) cEmit 1 0 :=
  (State.issue_of hi hf (permits_wEmit c th hk ga gb ts lt) _).trans (if_pos hbad)

variable (hok : ((ts && !tsOk) || (lt && !ltOk)) = false) {im : Image}
  (him : (s.atSlot (.thr c th)).imageOf (ctxKey (.thr c th)) = some im)
include hok him

theorem State.issueEmit_unclaimed (hno : claim im = none) :
    s.issueEmit (.thr c th) kind ga gb ts lt tsOk ltOk claim dest = (s.atSlot (.thr c th)).faultAt (.thr c th) cEmit 1 0 := by
  refine (State.issue_of hi hf (permits_wEmit c th hk ga gb ts lt) _).trans ?_
  simp only [hok, him, Option.bind_some, hno, Bool.false_eq_true, if_false]

variable {q : Claim} (hq : claim im = some q)
include hq

theorem State.issueEmit_stale (hold : (s.atSlot (.thr c th)).refCurrent q.data = false) :
    s.issueEmit (.thr c th) kind ga gb ts lt tsOk ltOk claim dest = (s.atSlot (.thr c th)).faultAt (.thr c th) cStale 1 0 := by
  refine (State.issue_of hi hf (permits_wEmit c th hk ga gb ts lt) _).trans ?_
  simp only [hok, him, Option.bind_some, hq, hold, Bool.false_eq_true, if_false, Bool.not_false, if_true]

/-- A claimed destination of current incarnation takes the frame at the end of the slot. -/
theorem State.issueEmit_sends (hcur : (s.atSlot (.thr c th)).refCurrent q.data = true) {fid : Nat} {f : Frame}
    (hheld : ((s.atSlot (.thr c th)).thr (ctxKey (.thr c th))).frame = some fid) (hframe : (s.atSlot (.thr c th)).frame? fid = some f) :
    s.issueEmit (.thr c th) kind ga gb ts lt tsOk ltOk claim dest =
      ((s.atSlot (.thr c th)).putFrame fid { dest f q with
        stage := .emitted, emitAt := (s.atSlot (.thr c th)).slotOver (ctxKey (.thr c th)) }).idleAfter (ctxKey (.thr c th)) := by
  refine (State.issue_of hi hf (permits_wEmit c th hk ga gb ts lt) _).trans ?_
  simp only [hok, him, Option.bind_some, hq, hcur, hheld, hframe, Bool.false_eq_true, if_false, Bool.not_true]

end Emit

section Clauses
variable {s : State} {c : Core} {th : Fin 16} {ga gb : GReg} {ts lt : Bool} {fid : Nat}

/-- A frame for the cipher engine joins its jobs after the EMIT. -/
theorem exec_emitCipher (hheld : (s.thr (ctxKey (.thr c th))).frame = some fid) : exec (.emitCipher (.thr c th) ga gb ts lt) s =
    .next ((s.issueEmit (.thr c th) 4 ga gb ts lt false false (fun i => i.claim? 6 ((s.gpr (.thr c th) ga).toNat % 256))
      (fun f q => { f with dest := .cipher q.ix })).addFrameJob fid) := by
  have hdef : exec (.emitCipher (.thr c th) ga gb ts lt) s = execEmitCipher (.thr c th) ga gb ts lt s := rfl
  rw [hdef, execEmitCipher]
  simp only [hheld]

variable (hi : s.canIssue (.thr c th) = true)
include hi

theorem exec_emitDrop_unallowed (hf : s.fetches (.thr c th) (wEmit 5 ga.val gb.val ts lt) = true) (hbad : (ts || lt) = true) :
    exec (.emitDrop (.thr c th) ga gb ts lt) s = .next ((s.atSlot (.thr c th)).faultAt (.thr c th) cEmit 1 0) :=
  congrArg Host.Outcome.next ((State.issue_of hi hf (permits_wEmit c th (by decide) ga gb ts lt) _).trans (if_pos hbad))

variable (hheld : ((s.atSlot (.thr c th)).thr (ctxKey (.thr c th))).frame = some fid)
include hheld

theorem exec_emitDrop_disposes (hf : s.fetches (.thr c th) (wEmit 5 ga.val gb.val false false) = true) :
    exec (.emitDrop (.thr c th) ga gb false false) s = .next (
      let t := s.atSlot (.thr c th)
      (t.disposeAt (t.slotOver (ctxKey (.thr c th))) fid dProgram).idleAfter (ctxKey (.thr c th))) := by
  refine congrArg Host.Outcome.next ((State.issue_of hi hf (permits_wEmit c th (by decide) ga gb false false) _).trans ?_)
  simp only [Bool.or_self, hheld, Bool.false_eq_true, if_false]

theorem exec_leaf_sets {f : Frame} (hframe : (s.atSlot (.thr c th)).frame? fid = some f)
    (hf : s.fetches (.thr c th) (wGI 0x2D 0 ga.val 0) = true) : exec (.leaf (.thr c th) ga) s = .next (
      let t := s.atSlot (.thr c th)
      (t.putFrame fid { f with annot := t.gpr (.thr c th) ga &&& 0x00FFFFFFFFFFFFFF }).retire (.thr c th)) := by
  refine congrArg Host.Outcome.next ((State.issue_of hi hf (permits_leaf c th ga) _).trans ?_)
  simp only [hheld, State.setAnnot, hframe]

end Clauses

/-- What the end of a thread's frame by DROP_PROGRAM leaves. -/
theorem State.dropped_results {t : State} {k at_ fid : Nat} {im : Image} (hheld : (t.thr k).frame = some fid)
    (him : t.imageOf k = some im) :
    let u := (t.disposeAt at_ fid dProgram).idleAfter k
    (u.thr k).lastEnd = t.slotOver k ∧ (u.thr k).frame = none ∧ (u.thr k).st = 2 ∧ (u.thr k).mask = 1 ∧ (u.thr k).index = im.entry ∧
      ∀ g, u.frame? fid = some g → g.stage = .done := by
  obtain ⟨hkeeps, hdone⟩ := t.disposeAt_results at_ fid dProgram
  have hspur : (t.disposeAt at_ fid dProgram).spur = t.spur := hkeeps .spur (by decide)
  have hover := State.slotOver_of hspur (hkeeps .crest (by decide)) k
  have himage := (State.imageOf_of_spur hspur k).trans him
  have hheld' : ((t.disposeAt at_ fid dProgram).thr k).frame = some fid := by rw [State.thr_of_spur hspur, hheld]
  intro u
  obtain ⟨hnone, hst, hmask, hindex, hend⟩ := State.idleAfter_results hheld'
  have hports : u.ports = (t.disposeAt at_ fid dProgram).ports := State.idleAfter_keepsBut _ k .ports (by decide)
  refine ⟨hend.trans hover, hnone, hst, hmask, hindex.trans (by rw [himage]; rfl), fun g hg => hdone g ?_⟩
  rwa [State.frame?, hports] at hg

/-- Settles O27: EMIT by its kind, its bits and its claim, and LEAF. -/
theorem emitAndLeafResults : Obligations.EmitAndLeafResults := by
  unfold Obligations.EmitAndLeafResults
  intro c th ga gb ts lt fid f im s x k t w req sent hi hheld0 hheld hframe him
  have hcipher {ts lt : Bool} := exec_emitCipher (ga := ga) (gb := gb) (ts := ts) (lt := lt) hheld0
  have next {a b : State} (h : a = b) : (.next a : Out) = .next b := congrArg _ h
  have job {a b : State} (h : a = b) : (.next (a.addFrameJob fid) : Out) = .next (b.addFrameJob fid) := h ▸ rfl
  have ok (b : Bool) : (b && !true) = false := Bool.and_false b
  refine ⟨fun h hc => next (State.issueEmit_unclaimed (by decide) hi h rfl him hc),
    fun q h hc hold => next (State.issueEmit_stale (by decide) hi h rfl him hc hold),
    fun h hc => next (State.issueEmit_unclaimed (by decide) hi h rfl him hc),
    fun q h hc hold => next (State.issueEmit_stale (by decide) hi h rfl him hc hold),
    fun h hc => next (State.issueEmit_unclaimed (by decide) hi h rfl him hc),
    fun q h hc hold => next (State.issueEmit_stale (by decide) hi h rfl him hc hold),
    fun h hc => next (State.issueEmit_unclaimed (by decide) hi h rfl him hc),
    fun q h hc hold => next (State.issueEmit_stale (by decide) hi h rfl him hc hold),
    fun h hc => hcipher.trans (job (State.issueEmit_unclaimed (by decide) hi h rfl him hc)),
    fun q h hc hold => hcipher.trans (job (State.issueEmit_stale (by decide) hi h rfl him hc hold)),
    fun q h hc hcur => next (State.issueEmit_sends (by decide) hi h (by rw [ok, ok]; rfl) him hc hcur hheld hframe),
    fun q h hc hcur => next (State.issueEmit_sends (by decide) hi h (by rw [ok]; rfl) him hc hcur hheld hframe),
    fun q h hc hcur => next (State.issueEmit_sends (by decide) hi h rfl him hc hcur hheld hframe),
    fun q h hc hcur => next (State.issueEmit_sends (by decide) hi h rfl him hc hcur hheld hframe),
    fun q h hc hcur => hcipher.trans (job (State.issueEmit_sends (by decide) hi h rfl him hc hcur hheld hframe)),
    fun hbit => ?_,
    fun h => next (State.issueEmit_unallowed (by decide) hi h (by rw [ok]; rfl)),
    fun h => exec_emitDrop_disposes hi hheld h,
    fun h => ⟨_, exec_leaf_sets hi hheld hframe h, rfl⟩, State.slotOver_atSlot hi, ?_⟩
  · have hbad : (ts || lt) = true := Bool.or_eq_true_iff.2 hbit
    have hno : ((ts && !false) || (lt && !false)) = true := by rw [Bool.not_false, Bool.and_true, Bool.and_true, hbad]
    exact ⟨fun h => next (State.issueEmit_unallowed (by decide) hi h hno), fun h => next (State.issueEmit_unallowed (by decide) hi h hno),
      fun h => hcipher.trans (job (State.issueEmit_unallowed (by decide) hi h hno)), fun h => exec_emitDrop_unallowed hi h hbad⟩
  · obtain ⟨hend, hrest⟩ := State.dropped_results (at_ := t.slotOver k) hheld him
    exact ⟨hend.trans (State.slotOver_atSlot hi), hrest⟩

end Sys2Proof.Machine
end

section
/-! PROOFS. What a change of the contract table leaves (R208-R210, R214, R230): the versions of contracts, the register that shows their
states, and the digest of the table. -/

namespace Sys2Proof.Machine

/-! ### Versions of contracts and their states -/

/-- The contracts, and the registers that show their states and incarnations. -/
def State.conView (s : State) : Contracts × (RegName → Nat → Option (BitVec 64)) := (s.con, s.regsAt (· == .ingConSta))

/-- The versions of a contract are stored, none leaving it out of the table. -/
def State.storeVers (s : State) (c : Nat) (vs : List ConVer) : State :=
  { s with con := { s.con with versions := SMap.setD s.con.versions c vs [] } }

section View
variable {s t : State}

theorem State.con_of_conView (h : t.conView = s.conView) : t.con = s.con := congrArg Prod.fst h

theorem State.conState_of_conView (h : t.conView = s.conView) (c : Nat) : t.conState c = s.conState c :=
  State.get_of_regsAt (f := .ingConStaState) (congrArg Prod.snd h) rfl c

theorem State.vers_of_con (h : t.con = s.con) (c : Nat) : t.vers c = s.vers c := by rw [State.vers, h, State.vers]

theorem State.vers_storeVers_self (s : State) (c : Nat) (vs : List ConVer) : (s.storeVers c vs).vers c = vs :=
  SMap.getD_setD_self s.con.versions c vs []

theorem State.vers_storeVers_of_ne (s : State) {c d : Nat} (vs : List ConVer) (h : d ≠ c) : (s.storeVers c vs).vers d = s.vers d :=
  SMap.getD_setD_of_ne s.con.versions vs [] [] h

theorem State.set_conView (s : State) {f : Fld} (hf : f.reg ≠ .ingConSta) (i v : Nat) : (s.set f i v).conView = s.conView :=
  Prod.ext rfl (s.regsAt_set (by simpa using hf) i v)

theorem State.setQueue_conView (s : State) (p q : Nat) (l : List QEnt) : (s.setQueue p q l).conView = s.conView := by
  unfold State.setQueue
  dsimp only
  rw [State.set_conView _ (by decide), State.set_conView _ (by decide), State.set_conView _ (by decide)]
  rfl

theorem State.countClamped_conView (s : State) (p q : Nat) : (s.countClamped p q).conView = s.conView := by
  unfold State.countClamped
  split
  · dsimp only
    rw [State.setQueue_conView]
    refine foldl_keeps State.conView (fun u e => ?_) _ s
    split
    · exact u.set_conView (by decide) _ _
    · rfl
  · rfl

theorem State.recount_conView (s : State) (gs : List Nat) : (s.recount gs).conView = s.conView := by
  unfold State.recount
  dsimp only
  rw [State.set_conView _ (by decide)]
  exact (foldl_keeps State.conView (fun u n => u.set_conView (f := .portStaContracts) (by decide) n _) _ _).trans
    (foldl_keeps State.conView (fun u g => u.set_conView (f := .spurGrpStaContracts) (by decide) g _) _ s)

theorem State.writeDly_conView (s : State) (ps : List Nat) : (s.writeDly ps).conView = s.conView := by
  unfold State.writeDly
  refine foldl_keeps State.conView (fun u p => foldl_keeps State.conView (fun w q => ?_) _ u) _ s
  rw [State.countClamped_conView, State.set_conView _ (by decide)]

/-- Of contracts and their states, what follows a change of the table leaves all but the versions stored. -/
theorem State.setVers_conView (s : State) (c : Nat) (vs : List ConVer) : (s.setVers c vs).conView = (s.storeVers c vs).conView := by
  unfold State.setVers
  dsimp only
  rw [State.showShort, State.set_conView _ (by decide), State.writeDly_conView, State.recount_conView]
  rfl

theorem State.vers_setVers_self (s : State) (c : Nat) (vs : List ConVer) : (s.setVers c vs).vers c = vs :=
  (State.vers_of_con (State.con_of_conView (s.setVers_conView c vs)) c).trans (s.vers_storeVers_self c vs)

theorem State.vers_setVers_of_ne (s : State) {c d : Nat} (vs : List ConVer) (h : d ≠ c) : (s.setVers c vs).vers d = s.vers d :=
  (State.vers_of_con (State.con_of_conView (s.setVers_conView c vs)) d).trans (s.vers_storeVers_of_ne vs h)

theorem State.conState_setVers (s : State) (c d : Nat) (vs : List ConVer) : (s.setVers c vs).conState d = s.conState d :=
  State.conState_of_conView (s.setVers_conView c vs) d

theorem State.clearMarks_conView (s : State) (r : ConRec) : (s.clearMarks r).conView = s.conView :=
  foldl_keeps State.conView (fun u n => u.set_conView (f := .tmPortStaChecked) (by decide) n 0) _ s

/-- The marks of the ports of several versions are cleared without a change to any contract. -/
theorem State.clearVers_conView (s : State) (vs : List ConVer) : (vs.foldl (fun s w => s.clearMarks w.body) s).conView = s.conView :=
  foldl_keeps State.conView (fun u w => u.clearMarks_conView w.body) vs s

theorem State.conState_set_self (s : State) (c : Nat) {v : Nat} (h : v < 4) : (s.set .ingConStaState c v).conState c = v :=
  (s.get_set_self .ingConStaState c v (by decide) (by decide)).trans (Nat.mod_eq_of_lt h)

end View

/-! ### The digest of the contract table (R214) -/

section Digest
variable {s t : State}

theorem State.spans_congr (hc : t.crest = s.crest) (v : ConVer) (a : BitVec 64) : t.spans v a = s.spans v a := by
  have hinst : t.instantOf a = s.instantOf a := by simp only [State.instantOf, State.elapsed, State.lt, hc]
  rw [State.spans, hinst, State.spans]

theorem State.conDigest_congr (hv : t.con.versions = s.con.versions) (hc : t.crest = s.crest) (a : BitVec 64) :
    t.conDigest a = s.conDigest a := by
  simp only [State.conDigest, State.spans_congr hc, hv]

/-- The registers of a digest and its instant are written. -/
def State.showDigest (s : State) (d : Bytes) (a : BitVec 64) : State :=
  ((List.range 6).foldl (fun s i => s.setReg .ingAdmDigest i (BitVec.ofNat 64 (leAt d (8 * i) 8))) s).setReg .ingAdmDigestAt 0 a

/-- The history of digests, without an entry of this instant and elapsed time. -/
def State.oldDigests (s : State) (a : BitVec 64) : List (BitVec 64 × Nat × Bytes) :=
  s.con.history.filter (fun x => !(x.1 == a && x.2.1 == s.elapsed))

theorem State.showDigest_keepsBut (s : State) (d : Bytes) (a : BitVec 64) : KeepsBut [.regs] s (s.showDigest d a) :=
  (foldl_keepsBut (fun u i => u.setReg_keepsBut .ingAdmDigest i _) _ s).trans (State.setReg_keepsBut _ _ 0 a)

theorem State.digestAt_eq (s : State) (a : BitVec 64) : s.digestAt a = (let u := s.showDigest (s.conDigest a) a
    { u with con := { u.con with history := u.oldDigests a ++ [(a, u.elapsed, s.conDigest a)] } }) := rfl

theorem State.showDigest_regsAt (s : State) {k : RegName → Bool} (hd : k .ingAdmDigest = false) (ha : k .ingAdmDigestAt = false)
    (d : Bytes) (a : BitVec 64) : (s.showDigest d a).regsAt k = s.regsAt k :=
  (State.regsAt_setReg _ ha 0 a).trans (foldl_keeps (State.regsAt k) (fun u i => u.regsAt_setReg hd i _) _ s)

theorem State.reg_digest_showDigest (s : State) (d : Bytes) (a : BitVec 64) {i : Nat} (hi : i < 6) :
    (s.showDigest d a).reg .ingAdmDigest i = BitVec.ofNat 64 (leAt d (8 * i) 8) := by
  rw [State.showDigest, State.reg_setReg_of_ne _ a (.inl (by decide))]
  refine foldl_establishes (P := fun i u => u.reg .ingAdmDigest i = BitVec.ofNat 64 (leAt d (8 * i) 8)) (fun u i => u.reg_setReg_self _ i _)
    (fun u j i h => ?_) _ s (List.mem_range.2 hi)
  by_cases hij : i = j
  · subst hij
    exact u.reg_setReg_self _ i _
  · rw [u.reg_setReg_of_ne _ (.inr hij), h]

theorem State.digestAt_versions (s : State) (a : BitVec 64) : (s.digestAt a).con.versions = s.con.versions :=
  congrArg Contracts.versions (a₁ := (s.showDigest (s.conDigest a) a).con) (s.showDigest_keepsBut (s.conDigest a) a .con (by decide))

theorem State.digestAt_crest (s : State) (a : BitVec 64) : (s.digestAt a).crest = s.crest :=
  s.showDigest_keepsBut (s.conDigest a) a .crest (by decide)

theorem State.digestAt_blkSt (s : State) (a : BitVec 64) : (s.digestAt a).blkSt = s.blkSt :=
  s.showDigest_keepsBut (s.conDigest a) a .blkSt (by decide)

theorem State.digestAt_regsAt (s : State) {k : RegName → Bool} (hd : k .ingAdmDigest = false) (ha : k .ingAdmDigestAt = false)
    (a : BitVec 64) : (s.digestAt a).regsAt k = s.regsAt k :=
  (State.regsAt_of_regs rfl).trans (s.showDigest_regsAt hd ha (s.conDigest a) a)

theorem State.digestAt_vers (s : State) (a : BitVec 64) (c : Nat) : (s.digestAt a).vers c = s.vers c := by
  rw [State.vers, s.digestAt_versions a, State.vers]

theorem State.digestAt_get (s : State) (a : BitVec 64) {f : Fld} (hd : f.reg ≠ .ingAdmDigest) (ha : f.reg ≠ .ingAdmDigestAt) (i : Nat) :
    (s.digestAt a).get f i = s.get f i :=
  State.get_of_regsAt (s.digestAt_regsAt (k := (· == f.reg)) (by simpa using hd.symm) (by simpa using ha.symm) a) (by simp) i

/-- An instant's digest stands last in the history, and in the registers with its instant. -/
theorem State.digestAt_results (s : State) (a : BitVec 64) : let t := s.digestAt a
    t.con.history.getLast? = some (a, s.elapsed, t.conDigest a) ∧ t.reg .ingAdmDigestAt 0 = a ∧
      ∀ i, i < 6 → t.reg .ingAdmDigest i = BitVec.ofNat 64 (leAt (t.conDigest a) (8 * i) 8) := by
  dsimp only
  rw [State.conDigest_congr (s.digestAt_versions a) (s.digestAt_crest a)]
  refine ⟨?_, State.reg_setReg_self _ .ingAdmDigestAt 0 a, fun i hi => s.reg_digest_showDigest (s.conDigest a) a hi⟩
  have hel : (s.showDigest (s.conDigest a) a).elapsed = s.elapsed := by
    rw [State.elapsed, s.showDigest_keepsBut (s.conDigest a) a .crest (by decide), State.elapsed]
  rw [State.digestAt_eq, ← hel]
  exact List.getLast?_concat

end Digest

end Sys2Proof.Machine
end

section
/-! PROOFS. The instants of contracts: activation, change, retirement and release, and the statement O35 (R208-R210, R214, R242). -/

namespace Sys2Proof.Machine

/-! ### Contracts and time stay while a block takes its next incarnation (R22, R24) -/

section Renew
variable (s : State) (b : Blk)

/-- The contracts and the Crest. -/
def State.conClock (s : State) : Contracts × Crest := (s.con, s.crest)

theorem State.purgeRefs_conClock : (s.purgeRefs b).conClock = s.conClock := by
  unfold State.purgeRefs
  extract_lets spur s1 s2 s3 tables ing threads spur' ciph wins wqs zoa
  have h2 : s2.conClock = s.conClock := by
    refine foldl_keeps State.conClock (fun u c => ?_) _ s1
    split <;> rfl
  repeat' split
  all_goals exact h2

theorem State.enterService_conClock : (s.enterService b).conClock = s.conClock := by
  have hwrap : (s.wrapped b).conClock = s.conClock := by
    unfold State.wrapped
    split
    · exact s.purgeRefs_conClock b
    · rfl
  have hinc : (s.renewInc b).conClock = s.conClock := by
    refine Eq.trans ?_ hwrap
    rw [State.renewInc_eq, State.setBlkInc]
    split <;> rfl
  refine Eq.trans ?_ hinc
  unfold State.enterService
  dsimp only
  split <;> rfl

end Renew

/-! ### A version comes into force (R22, R208, R209, R214) -/

section Force
variable {s t : State} {c : Nat} {v : ConVer}

/-- The versions of a contract once the waiting one, `v`, is in force. -/
def State.forced (s : State) (c : Nat) (v : ConVer) : List ConVer :=
  (s.vers c).map (fun w => if w.active then w else { w with active := true, from_ := v.from_, began := v.began })

theorem State.forced_active : ∀ x ∈ s.forced c v, x.active = true := by
  intro x hx
  obtain ⟨w, -, rfl⟩ := List.mem_map.1 hx
  by_cases hw : w.active = true
  · rw [if_pos hw, hw]
  · rw [if_neg hw]

/-- Version `v` of contract `c` has come into force: the contract's block and register show it, all its versions are active, and the
digest of its instant stands last in the history and in its registers. -/
structure State.InForceSince (s t : State) (c : Nat) (v : ConVer) : Prop where
  state : t.conState c = 2
  blk : t.blkState ⟨.contract, c⟩ = 2
  inc : t.blkInc ⟨.contract, c⟩ = incNext (s.blkInc ⟨.contract, c⟩)
  peak : t.get .ingConBoundPeak c = v.body.reqP % 2 ^ 32
  committed : t.get .ingConBoundCommitted c = v.body.reqC % 2 ^ 32
  active : ∀ x ∈ t.vers c, x.active = true
  history : t.con.history.getLast? = some (v.from_, s.elapsed, t.conDigest v.from_)
  digestAt : t.reg .ingAdmDigestAt 0 = v.from_
  digest : ∀ i, i < 6 → t.reg .ingAdmDigest i = BitVec.ofNat 64 (leAt (t.conDigest v.from_) (8 * i) 8)

/-- The contract's block in service, its new state and its bounds shown. -/
def State.showForce (s : State) (c : Nat) (v : ConVer) : State :=
  (((s.enterService ⟨.contract, c⟩).set .ingConStaState c 2).set .ingConBoundPeak c v.body.reqP).set .ingConBoundCommitted c v.body.reqC

theorem State.inForceNow_eq (s : State) (c : Nat) (v : ConVer) :
    s.inForceNow c v = ((s.storeVers c (s.forced c v)).showForce c v).digestAt v.from_ := rfl

theorem State.showForce_conClock (s : State) (c : Nat) (v : ConVer) : (s.showForce c v).conClock = s.conClock :=
  s.enterService_conClock ⟨.contract, c⟩

theorem State.showForce_results (s : State) (c : Nat) (v : ConVer) : let u := s.showForce c v
    u.conState c = 2 ∧ u.blkState ⟨.contract, c⟩ = 2 ∧ u.blkInc ⟨.contract, c⟩ = incNext (s.blkInc ⟨.contract, c⟩) ∧
      u.get .ingConBoundPeak c = v.body.reqP % 2 ^ 32 ∧ u.get .ingConBoundCommitted c = v.body.reqC % 2 ^ 32 := by
  refine ⟨?_, s.blkState_enterService_self ⟨.contract, c⟩, ?_, ?_, ?_⟩
  · rw [State.conState, State.showForce, State.get_set_of_ne _ _ (.inl (by decide)), State.get_set_of_ne _ _ (.inl (by decide))]
    exact State.conState_set_self _ c (by decide)
  · show (s.showForce c v).get .ingConStaInc c = _
    rw [State.showForce, State.get_set_of_ne _ _ (.inl (by decide)), State.get_set_of_ne _ _ (.inl (by decide)),
      State.get_set_apart _ _ _ _ (by decide) (by decide) (by decide)]
    exact (s.blkInc_enterService_self ⟨.contract, c⟩).trans (Nat.mod_eq_of_lt (incNext_lt (s.blkInc_lt _)))
  · rw [State.showForce, State.get_set_apart _ _ _ _ (by decide) (by decide) (by decide)]
    exact State.get_set_self _ .ingConBoundPeak c _ (by decide) (by decide)
  · exact State.get_set_self _ .ingConBoundCommitted c _ (by decide) (by decide)

theorem State.elapsed_of_crest (h : t.crest = s.crest) : t.elapsed = s.elapsed := by rw [State.elapsed, h, State.elapsed]

/-- A state that shows the contract in force, its digest taken. -/
theorem State.digestAt_inForceSince {u : State} (hshow : u.conState c = 2 ∧ u.blkState ⟨.contract, c⟩ = 2 ∧
    u.blkInc ⟨.contract, c⟩ = incNext (s.blkInc ⟨.contract, c⟩) ∧ u.get .ingConBoundPeak c = v.body.reqP % 2 ^ 32 ∧
    u.get .ingConBoundCommitted c = v.body.reqC % 2 ^ 32) (hvers : ∀ x ∈ u.vers c, x.active = true) (hel : u.elapsed = s.elapsed) :
    s.InForceSince (u.digestAt v.from_) c v := by
  obtain ⟨hstate, hblk, hinc, hpeak, hcommitted⟩ := hshow
  obtain ⟨hhistory, hat, hdigest⟩ := u.digestAt_results v.from_
  refine ⟨?_, (State.blkState_congr (u.digestAt_blkSt v.from_) _).trans hblk, ?_, ?_, ?_, ?_, hel ▸ hhistory, hat, hdigest⟩
  · exact (u.digestAt_get _ (f := .ingConStaState) (by decide) (by decide) c).trans hstate
  · exact (u.digestAt_get _ (f := .ingConStaInc) (by decide) (by decide) c).trans hinc
  · exact (u.digestAt_get _ (by decide) (by decide) c).trans hpeak
  · exact (u.digestAt_get _ (by decide) (by decide) c).trans hcommitted
  · rw [u.digestAt_vers]
    exact hvers

theorem State.inForceNow_inForceSince (s : State) (c : Nat) (v : ConVer) : s.InForceSince (s.inForceNow c v) c v := by
  have hclock := (s.storeVers c (s.forced c v)).showForce_conClock c v
  have hinc : (s.storeVers c (s.forced c v)).blkInc ⟨.contract, c⟩ = s.blkInc ⟨.contract, c⟩ :=
    State.get_of_regs (s := s) rfl .ingConStaInc c
  have hshow := (s.storeVers c (s.forced c v)).showForce_results c v
  dsimp only at hshow
  rw [hinc] at hshow
  rw [State.inForceNow_eq]
  refine State.digestAt_inForceSince hshow ?_ (State.elapsed_of_crest (congrArg Prod.snd hclock))
  rw [State.vers_of_con (congrArg Prod.fst hclock), State.vers_storeVers_self]
  exact s.forced_active

/-- A contract's policer is stored without a change to what its coming into force shows. -/
theorem State.InForceSince.setPol (h : s.InForceSince t c v) (p : Policer) : s.InForceSince (t.setPol c p) c v := by
  have hkeeps := t.setPol_keepsBut c p
  have hcon : (t.setPol c p).con = t.con := hkeeps .con (by decide)
  have hdig : (t.setPol c p).conDigest v.from_ = t.conDigest v.from_ :=
    State.conDigest_congr (congrArg Contracts.versions hcon) (hkeeps .crest (by decide)) _
  have hreg (q : RegName) (hq : q ≠ .ingConTok) (i : Nat) : (t.setPol c p).reg q i = t.reg q i := by
    rw [State.setPol, State.reg_set_of_ne _ _ (.inl hq), State.reg_set_of_ne _ _ (.inl hq)]
    rfl
  refine ⟨?_, ?_, ?_, ?_, ?_, ?_, ?_, ?_, fun i hi => ?_⟩
  · exact (t.setPol_get c p (f := .ingConStaState) (by decide) c).trans h.state
  · exact (State.blkState_congr (hkeeps .blkSt (by decide)) _).trans h.blk
  · exact (t.setPol_get c p (f := .ingConStaInc) (by decide) c).trans h.inc
  · exact (t.setPol_get c p (by decide) c).trans h.peak
  · exact (t.setPol_get c p (by decide) c).trans h.committed
  · rw [State.vers_of_con hcon]
    exact h.active
  · rw [hcon, hdig, h.history]
  · rw [hreg _ (by decide), h.digestAt]
  · rw [hreg _ (by decide), hdig, h.digest i hi]

end Force

/-! ### CONTRACT_ACTIVATE and CONTRACT_CHANGE_AT (R208, R209, R242) -/

section Start
variable {c : ConIx} {s : State} {v o : ConVer}

theorem exec_contractActivate_none (h : s.nextVer c.val = none) : exec (.contractActivate c) s = .next s := by
  have hdef : exec (.contractActivate c) s = execContractActivate c s := rfl
  rw [hdef, execContractActivate, h]

/-- A contract that waits for no first version, or one of a ledger that has not started, stays as it is. -/
theorem exec_contractActivate_waits (h : s.conState c.val ≠ 1 ∨ s.ledOn = false) : exec (.contractActivate c) s = .next s := by
  have hdef : exec (.contractActivate c) s = execContractActivate c s := rfl
  rw [hdef, execContractActivate]
  split
  · rfl
  · exact if_pos (h.imp_right (by simp))

/-- The full buckets of a version that comes into force. -/
def ConVer.fullPol (v : ConVer) : Policer := { tc := v.body.cbs * tokUnit, tp := v.body.pbs * tokUnit, last := v.from_ }

theorem exec_contractActivate_due (hv : s.nextVer c.val = some v) (hst : s.conState c.val = 1) (hled : s.ledOn = true)
    (hdue : (s.startOr v).began ≤ s.elapsed) :
    exec (.contractActivate c) s = .next ((s.inForceNow c.val (s.startOr v)).setPol c.val (s.startOr v).fullPol) := by
  have hdef : exec (.contractActivate c) s = execContractActivate c s := rfl
  have hgo : ¬(s.conState c.val ≠ 1 ∨ (!s.ledOn) = true) := by simp [hst, hled]
  rw [hdef, execContractActivate, hv]
  dsimp only
  rw [if_neg hgo, s.advanceAt_of_reached hdue, ConVer.fullPol]

theorem State.startOr_body (s : State) (v : ConVer) : (s.startOr v).body = v.body := by
  rw [State.startOr, apply_ite ConVer.body, ite_self]

theorem State.fullPol_startOr (s : State) (v : ConVer) : (s.startOr v).fullPol =
    { tc := v.body.cbs * tokUnit, tp := v.body.pbs * tokUnit, last := (s.startOr v).from_ } := by
  rw [ConVer.fullPol, State.startOr_body]

theorem exec_contractChangeAt_none (h : s.nextVer c.val = none) : exec (.contractChangeAt c) s = .next s := by
  have hdef : exec (.contractChangeAt c) s = execContractChangeAt c s := rfl
  rw [hdef, execContractChangeAt, h]

theorem exec_contractChangeAt_waits (h : s.conState c.val ≠ 2 ∨ s.inForce c.val = none) : exec (.contractChangeAt c) s = .next s := by
  have hdef : exec (.contractChangeAt c) s = execContractChangeAt c s := rfl
  rw [hdef, execContractChangeAt]
  split
  next ho => exact if_pos (h.resolve_right (by rw [ho]; exact Option.some_ne_none _))
  next => rfl

/-- A policer carried over to a changed version: accrued under the old record, and capped by the new one's bursts. -/
def Policer.carried (p : Policer) (o v : ConVer) : Policer :=
  let p := p.accrue o.body v.from_
  { p with tc := min p.tc (v.body.cbs * tokUnit), tp := min p.tp (v.body.pbs * tokUnit) }

theorem exec_contractChangeAt_due (hv : s.nextVer c.val = some v) (ho : s.inForce c.val = some o) (hst : s.conState c.val = 2)
    (hdue : v.began ≤ s.elapsed) :
    exec (.contractChangeAt c) s = .next ((s.inForceNow c.val v).setPol c.val ((s.pol c.val).carried o v)) := by
  have hdef : exec (.contractChangeAt c) s = execContractChangeAt c s := rfl
  rw [hdef, execContractChangeAt, hv, ho]
  dsimp only
  rw [if_neg (not_not_intro hst), s.advanceAt_of_reached hdue, Policer.carried]

end Start

/-! ### CHANGE_RELEASED, CONTRACT_RETIRE_AT and CONTRACT_RELEASED (R209, R210) -/

section Release
variable {c : ConIx} {s : State} {v w : ConVer} {l : List ConVer}

/-- Nothing is waited for once a version is gone. -/
theorem State.toRelease_of_verGone {n : Nat} (h : s.verGone n v = true) : s.toRelease n v = s := by
  unfold State.verGone at h
  unfold State.toRelease
  split
  next u hu =>
    rw [hu] at h
    simp only [Bool.and_eq_true, decide_eq_true_eq] at h
    split
    · rfl
    · exact s.advanceAt_of_reached h.1
  next => rfl

theorem exec_changeReleased_single (h : (s.vers c.val).length < 2) : exec (.changeReleased c) s = .next s := by
  have hdef : exec (.changeReleased c) s = execChangeReleased c s := rfl
  rw [hdef, execChangeReleased]
  split
  next hv =>
    rw [hv] at h
    simp only [List.length_cons] at h
    omega
  next => rfl

theorem exec_changeReleased_pair (hv : s.vers c.val = v :: w :: l) : exec (.changeReleased c) s =
    if w.active = true ∧ s.conState c.val ≠ 0 then
      .next (let u := s.toRelease c.val v
        if u.verGone c.val v then u.setVers c.val (w :: l) else u)
    else .next s := by
  have hdef : exec (.changeReleased c) s = execChangeReleased c s := rfl
  rw [hdef, execChangeReleased, hv]

theorem exec_contractRetireAt_idle (h : s.vers c.val = [] ∨ s.conState c.val ≠ 3) : exec (.contractRetireAt c) s = .next s := by
  have hdef : exec (.contractRetireAt c) s = execContractRetireAt c s := rfl
  rw [hdef, execContractRetireAt]
  split
  next hv =>
    have hst : s.conState c.val ≠ 3 := h.resolve_left (fun hnil => by rw [hnil] at hv; cases hv)
    split
    · exact if_pos (.inl hst)
    · rfl
  next => rfl

theorem exec_contractReleased_idle (h : s.vers c.val = [] ∨ s.conState c.val ≠ 3) : exec (.contractReleased c) s = .next s := by
  have hdef : exec (.contractReleased c) s = execContractReleased c s := rfl
  rw [hdef, execContractReleased]
  split
  next => rfl
  next hv => exact if_pos (h.resolve_left (fun hnil => by rw [hnil] at hv; cases hv))

theorem exec_contractRetireAt_ended {u : BitVec 64} (hv : (s.vers c.val).getLast? = some v) (hu : v.until_ = some u) (he : v.ended = true) :
    exec (.contractRetireAt c) s = .next s := by
  have hdef : exec (.contractRetireAt c) s = execContractRetireAt c s := rfl
  rw [hdef, execContractRetireAt, hv]
  dsimp only
  rw [hu]
  exact if_pos (.inr he)

theorem completes_contractRetireAt {u : BitVec 64} (hv : (s.vers c.val).getLast? = some v) (hu : v.until_ = some u)
    (hst : s.conState c.val = 3) (he : v.ended = false) (hdue : v.till.getD 0 ≤ s.elapsed) :
    Completes (.contractRetireAt c) s (fun t => t.conState c.val = 3 ∧ t.vers c.val = (s.vers c.val).map (fun w => { w with ended := true }) ∧
      t.con.history.getLast? = some (u, s.elapsed, t.conDigest u)) := by
  let x := s.storeVers c.val ((s.vers c.val).map (fun w => { w with ended := true }))
  have hx : exec (.contractRetireAt c) s = .next (x.digestAt u) := by
    have hdef : exec (.contractRetireAt c) s = execContractRetireAt c s := rfl
    rw [hdef, execContractRetireAt, hv]
    dsimp only
    rw [hu]
    dsimp only
    rw [if_neg (by simp [hst, he])]
    exact congrArg (fun y => Host.Outcome.next (State.digestAt y u)) (x.advanceAt_of_reached hdue)
  refine ⟨x.digestAt u, hx, ?_, ?_, (x.digestAt_results u).1⟩
  · exact (x.digestAt_get u (f := .ingConStaState) (by decide) (by decide) c.val).trans hst
  · exact (x.digestAt_vers u c.val).trans (s.vers_storeVers_self c.val _)

/-- A contract that is gone: its block out of service, its state and its bounds 0. -/
def State.retireCon (s : State) (c : Nat) : State :=
  ((((s.setVers c []).leaveService ⟨.contract, c⟩).set .ingConStaState c 0).set .ingConBoundPeak c 0).set .ingConBoundCommitted c 0

theorem State.retireCon_results (s : State) (c : Nat) : let t := s.retireCon c
    t.vers c = [] ∧ t.conState c = 0 ∧ t.blkState ⟨.contract, c⟩ = 1 ∧ t.get .ingConBoundPeak c = 0 ∧ t.get .ingConBoundCommitted c = 0 ∧
      ∀ d, d ≠ c → t.vers d = s.vers d := by
  refine ⟨s.vers_setVers_self c [], ?_, State.blkState_leaveService_self (s.setVers c []) ⟨.contract, c⟩, ?_, ?_,
    fun d hd => s.vers_setVers_of_ne [] hd⟩
  · rw [State.conState, State.retireCon, State.get_set_of_ne _ _ (.inl (by decide)), State.get_set_of_ne _ _ (.inl (by decide))]
    exact State.conState_set_self _ c (by decide)
  · rw [State.retireCon, State.get_set_apart _ _ _ _ (by decide) (by decide) (by decide)]
    exact State.get_set_self _ .ingConBoundPeak c 0 (by decide) (by decide)
  · exact State.get_set_self _ .ingConBoundCommitted c 0 (by decide) (by decide)

theorem exec_contractReleased_gone (hv : (s.vers c.val).getLast? = some v) (hst : s.conState c.val = 3)
    (hgone : ∀ w ∈ s.vers c.val, s.verGone c.val w = true) : exec (.contractReleased c) s = .next (s.retireCon c.val) := by
  have hdef : exec (.contractReleased c) s = execContractReleased c s := rfl
  rw [hdef, execContractReleased, hv]
  dsimp only
  rw [if_neg (not_not_intro hst), State.toRelease_of_verGone (hgone v (List.mem_of_getLast? hv)), if_pos (List.all_eq_true.2 hgone)]
  rfl

end Release

/-! ### The statement -/

/-- Settles O35: a version comes into force, ends or is released by the lemma of its instant, and nothing happens elsewhere. -/
theorem contractInstants : Obligations.ContractInstants := by
  unfold Obligations.ContractInstants
  intro c s
  refine ⟨fun h => ⟨exec_contractActivate_none h, exec_contractChangeAt_none h⟩, exec_contractActivate_waits,
    fun v hv hst hled hdue => ?_, exec_contractChangeAt_waits, fun v o hv ho hst hdue => ?_, exec_changeReleased_single,
    fun v w l hv => ⟨fun h => ?_, fun hw hst => ⟨fun hgone => ?_, fun hgone => ?_⟩⟩,
    fun h => ⟨exec_contractRetireAt_idle h, exec_contractReleased_idle h⟩,
    fun v u hv hu hst => ⟨exec_contractRetireAt_ended hv hu, completes_contractRetireAt hv hu hst⟩,
    fun v hv hst hgone => ⟨_, exec_contractReleased_gone hv hst hgone, s.retireCon_results c.val⟩⟩
  · obtain ⟨hstate, hblk, hinc, hpeak, hcommitted, hactive, hhistory, hat, hdigest⟩ :=
      (s.inForceNow_inForceSince c.val (s.startOr v)).setPol (s.startOr v).fullPol
    rw [State.startOr_body] at hpeak hcommitted
    have hpol := (State.pol_setPol_self (s.inForceNow c.val (s.startOr v)) c.val _).trans (s.fullPol_startOr v)
    exact ⟨_, exec_contractActivate_due hv hst hled hdue, hstate, hblk, hinc, hpeak, hcommitted, hpol, hactive, hhistory, hat, hdigest⟩
  · have hforce := (s.inForceNow_inForceSince c.val v).setPol ((s.pol c.val).carried o v)
    exact ⟨_, exec_contractChangeAt_due hv ho hst hdue, hforce.state, hforce.inc, State.pol_setPol_self _ _ _, hforce.active, hforce.history⟩
  · rw [exec_changeReleased_pair hv, if_neg (fun hboth => h.elim (fun hw => by rw [hw] at hboth; cases hboth.1) hboth.2)]
  · refine ⟨s.setVers c.val (w :: l), ?_, s.vers_setVers_self _ _, fun d hd => s.vers_setVers_of_ne _ hd, s.conState_setVers _ _ _⟩
    rw [exec_changeReleased_pair hv, if_pos ⟨hw, hst⟩]
    dsimp only
    rw [State.toRelease_of_verGone hgone, if_pos hgone]
  · rw [exec_changeReleased_pair hv, if_pos ⟨hw, hst⟩]
    dsimp only
    rw [if_neg (by rw [hgone]; decide)]

end Sys2Proof.Machine
end

section
/-! PROOFS. Emitted frames reach a host ring, the fabric, an egress queue or the replicator, and the statement O32 (R120, R195, R198, R232,
R235, R286, R343). -/

namespace Sys2Proof.Machine

/-! ### Handovers and enqueue, 16 ns after the emit (R195, R198, R286, R343) -/

section Handover
variable {fid : Nat} {s : State} {f : Frame}

theorem exec_emitted_none (oct : Octet) (h : s.frame? fid = none) : exec (.hostHandover fid) s = .next s ∧
    exec (.fabricHandover fid) s = .next s ∧ exec (.tmEnqueue fid) s = .next s ∧ exec (.mcCopy fid oct) s = .next s := by
  refine ⟨?_, ?_, ?_, ?_⟩
  · show execHostHandover fid s = _
    rw [execHostHandover, h]
  · show execFabricHandover fid s = _
    rw [execFabricHandover, h]
  · show execTmEnqueue fid s = _
    rw [execTmEnqueue, h]
  · show execMcCopy fid oct s = _
    rw [execMcCopy, h]

theorem exec_hostHandover_other (h : s.frame? fid = some f) (hst : f.stage ≠ .emitted) : exec (.hostHandover fid) s = .next s := by
  show execHostHandover fid s = _
  rw [execHostHandover, h]
  dsimp only
  split
  · exact if_neg hst
  · rfl

theorem exec_fabricHandover_other (h : s.frame? fid = some f) (hst : f.stage ≠ .emitted) : exec (.fabricHandover fid) s = .next s := by
  show execFabricHandover fid s = _
  rw [execFabricHandover, h]
  dsimp only
  split
  · exact if_neg hst
  · rfl

theorem exec_tmEnqueue_other (h : s.frame? fid = some f) (hst : f.stage ≠ .emitted) : exec (.tmEnqueue fid) s = .next s := by
  show execTmEnqueue fid s = _
  rw [execTmEnqueue, h]
  dsimp only
  split
  · exact if_neg hst
  · rfl

/-- The state in which an emitted frame has crossed to its destination. -/
def State.crossed (s : State) (f : Frame) : State := s.advanceAt (f.emitAt + 16 * 65536)

/-- The room a host ring needs for a frame: its contract's L_max, or its port's longest frame. -/
def State.rxNeed (u : State) (f : Frame) : Nat := ((u.frameVer f).map (·.body.lMax)).getD (u.get .portMacCfgMaxFrame (f.port.getD 0))

theorem exec_hostHandover_emitted {r : Nat} (h : s.frame? fid = some f) (hd : f.dest = .host r) (hst : f.stage = .emitted) :
    exec (.hostHandover fid) s = (let u := s.crossed f
      if u.rxOk r (u.rxNeed f) then .next (((u.noteLate f u.lt).leafDue f dToHost 0xFFFFFFFF 0x1FF).handRx fid r 0)
      else .next ((u.bump .ringLostLost r).dispose fid dHostFull)) := by
  show execHostHandover fid s = _
  rw [execHostHandover, h]
  dsimp only
  rw [hd]
  exact if_pos hst

theorem exec_tmEnqueue_emitted {p : Nat} (h : s.frame? fid = some f) (hd : f.dest = .queue p) (hst : f.stage = .emitted) :
    exec (.tmEnqueue fid) s = (let u := s.crossed f
      let g := { f with stage := .egress, copies := 1, onWire := 1 }
      let r := (u.putFrame fid g).enterQueue fid p (u.queueFor g) g
      .next (if r.2 then r.1 else if g.con.isSome then r.1.dispose fid dFault
        else (r.1.finishTx g (if u.portOn p then 3 else 4) 0).discard fid)) := by
  show execTmEnqueue fid s = _
  rw [execTmEnqueue, h]
  dsimp only
  rw [hd]
  exact if_pos hst

/-- The message of work queue `c` that a frame handed over with second operand `gb` becomes (R286). -/
def State.handMsg (u : State) (fid : Nat) (f : Frame) (w : Wq) (c : Nat) (gb : BitVec 64) : ZMsg :=
  { id := 0, session := 0, user := .prog, ctx := c, op := if gb.getLsbD 63 then 5 else 1, total := (u.frameOut f).length, wkey := w.defKey,
    woff := if gb.getLsbD 63 then 0 else bitsOf gb.toNat 47 0, psize := 0, dcode := 0, data := u.frameOut f,
    first := some (u.domainTime, u.elapsed), wait := if f.ended then none else some fid }

theorem exec_fabricHandover_refused {c st : Nat} {gb : BitVec 64} (h : s.frame? fid = some f) (hd : f.dest = .fabric c gb)
    (hst : f.stage = .emitted) (hr : (s.crossed f).refuseMsg c = st) (h0 : st ≠ 0) :
    exec (.fabricHandover fid) s = .next ((s.crossed f).dispose fid (if st = 3 then dUnfit else dFault)) := by
  have hu : s.advanceAt (f.emitAt + 16 * unitsPerNs) = s.crossed f := rfl
  show execFabricHandover fid s = _
  rw [execFabricHandover, h]
  dsimp only
  rw [hd]
  refine (if_pos hst).trans ?_
  rw [hu, hr]
  split
  · exact absurd rfl h0
  · rfl

theorem exec_fabricHandover_sends {c : Nat} {gb : BitVec 64} {w : Wq} (h : s.frame? fid = some f) (hd : f.dest = .fabric c gb)
    (hst : f.stage = .emitted) (hr : (s.crossed f).refuseMsg c = 0) (hw : (s.crossed f).ctx? c = some w)
    (hroom : (s.crossed f).sendFull c = false) : exec (.fabricHandover fid) s = (let u := s.crossed f
      .next ((((u.noteLate f u.lt).leafDue f dToFabric 0xFFFFFFFF 0x1FF).putFrame fid { f with stage := .done }).sendMsg w
        (u.handMsg fid f w c gb))) := by
  have hu : s.advanceAt (f.emitAt + 16 * unitsPerNs) = s.crossed f := rfl
  show execFabricHandover fid s = _
  rw [execFabricHandover, h]
  dsimp only
  rw [hd]
  refine (if_pos hst).trans ?_
  rw [hu, hr, hw]
  split
  next hsome =>
    cases hsome
    rw [hroom, if_neg Bool.false_ne_true, State.handMsg]
  next hother => exact absurd rfl (hother w rfl)

end Handover

/-! ### Entering a queue (R195, R235) -/

section Enter
variable {s : State} (fid p q : Nat) (f : Frame)

theorem length_insertStamp (before : QEnt → Bool) (e : QEnt) (l : List QEnt) : (insertStamp before e l).length = l.length + 1 := by
  induction l with
  | nil => rfl
  | cons x l ih =>
    unfold insertStamp
    split
    · rfl
    · rw [List.length_cons, ih, List.length_cons]

/-- Counting clamped entries changes no queue's length, and no other queue. -/
theorem State.countClamped_queue : ((s.countClamped p q).queue p q).length = (s.queue p q).length ∧
    ∀ r, r ≠ q → (s.countClamped p q).queue p r = s.queue p r := by
  unfold State.countClamped
  split
  · dsimp only
    refine ⟨by rw [State.queue_setQueue_self, List.length_map], fun r hr => ?_⟩
    rw [State.queue_setQueue_of_ne _ _ _ hr]
    refine State.queue_congr (foldl_keeps State.tm (fun u e => ?_) _ s) p r
    split <;> rfl
  · exact ⟨rfl, fun _ _ => rfl⟩

/-- A frame put into a queue lengthens it by one and leaves every other queue of its port. -/
theorem State.enqueue_queue : ((s.enqueue fid p q f).queue p q).length = (s.queue p q).length + 1 ∧
    ∀ r, r ≠ q → (s.enqueue fid p q f).queue p r = s.queue p r := by
  unfold State.enqueue
  extract_lets len limit e u v
  have hu : u.tm = s.tm := by
    show State.tm (if _ then _ else _) = _
    split <;> rfl
  have hv : (v.queue p q).length = (s.queue p q).length + 1 ∧ ∀ r, r ≠ q → v.queue p r = s.queue p r := by
    obtain ⟨hself, hother⟩ := State.countClamped_queue (s := u.setQueue p q (insertStamp _ e (u.queue p q))) p q
    refine ⟨hself.trans ?_, fun r hr => (hother r hr).trans ?_⟩
    · rw [State.queue_setQueue_self, length_insertStamp, State.queue_congr hu]
    · rw [State.queue_setQueue_of_ne _ _ _ hr, State.queue_congr hu]
  split
  · exact hv
  · exact hv

theorem State.enterQueue_room (hcon : f.con.isSome = true) (hroom : s.get .tmBufStaContract + s.frameLen f ≤ 50331648) :
    s.enterQueue fid p q f = (s.enqueue fid p q f, true) := by
  rw [State.enterQueue, if_pos hcon]
  exact if_neg (Nat.not_lt.2 hroom)

theorem State.enterQueue_full (hcon : f.con.isSome = true) (hfull : 50331648 < s.get .tmBufStaContract + s.frameLen f) :
    s.enterQueue fid p q f = (s.bufFull f p q, false) := by
  rw [State.enterQueue, if_pos hcon]
  exact if_pos hfull

theorem State.bufFull_raises : ∃ e : CairnEvt, (s.bufFull f p q).cairn.raised = s.cairn.raised ++ [e] ∧ e.code = .bufFault := by
  obtain ⟨e, he, hcode, -⟩ := (s.bump .tmBufFaultFrames).cairnRec_raised .bufFault (some ⟨.queue, p * 16 + q⟩)
    (leBytes ((f.con.map (·.1)).getD 0) 2 ++ [BitVec.ofNat 8 p])
  exact ⟨e, congrArg Cairn.raised he, hcode⟩

end Enter

/-! ### Replication (R120, R196, R232) -/

section Copy
variable {fid : Nat} {s : State} {f : Frame}

/-- The state in which copies are presented to the next octet, `left` octets being still to come after it (R232). -/
def State.presented (s : State) (fid : Nat) (f : Frame) (o left ports : Nat) : State :=
  (s.advanceAt (f.emitAt + (24 + 2 * ((octetsOf ports).length - left - 1)) * 65536)).presentOctet fid o ports

/-- After an octet the frame keeps the octets `l` to come, none if it has been judged. -/
def State.afterOctet (w : State) (fid g : Nat) (l : List Nat) (ports : Nat) : State :=
  match w.frame? fid with
  | some f => (w.putFrame fid { f with dest := .mcast g (some (if f.judged then [] else l, ports)) }).lastCopy fid
  | none => w

/-- Copies of a frame whose group has been read are presented to the next octet of the set alone. -/
theorem exec_mcCopy_read {g o : Nat} {l : List Nat} {ports : Nat} (oct : Octet) (h : s.frame? fid = some f)
    (hd : f.dest = .mcast g (some (o :: l, ports))) : exec (.mcCopy fid oct) s =
      if o = oct.val then .next ((s.presented fid f o l.length ports).afterOctet fid g l ports) else .next s := by
  show execMcCopy fid oct s = _
  rw [execMcCopy, h]
  dsimp only
  rw [hd]
  simp only [Option.isNone_some, Bool.false_and, Bool.false_eq_true, if_false]
  rw [h]
  dsimp only [Option.map]
  rw [hd]
  rfl

theorem State.afterOctet_held {w : State} {f' : Frame} (g : Nat) (l : List Nat) (ports : Nat) (h : w.frame? fid = some f') :
    w.afterOctet fid g l ports =
      (w.putFrame fid { f' with dest := .mcast g (some (if f'.judged then [] else l, ports)) }).lastCopy fid := by
  rw [State.afterOctet, h]

/-- A contract frame of which no copy was stamped is judged DROP_FAULT. -/
theorem State.lastCopy_unsent (h : s.frame? fid = some f) (hall : f.allStamped = true) (hw : f.worst = none) (hj : f.judged = false)
    (hcon : f.con.isSome = true) : s.lastCopy fid = s.dispose fid dFault := by
  rw [State.lastCopy, h]
  dsimp only
  rw [hall, hj, hw, hcon]
  rfl

theorem State.failCopies_mcast {g ports : Nat} {l : List Nat} (h : s.frame? fid = some f) (hd : f.dest = .mcast g (some (l, ports))) :
    s.failCopies fid = (s.leafDue f dFault 0xFFFFFFFF 0x1FF).putFrame fid
      { f with judged := true, worst := none, dest := .mcast g (some ([], ports)) } := by
  rw [State.failCopies, h]
  dsimp only
  rw [hd]

/-- Counters of some instances, each named once, take one each. -/
theorem State.get_foldl_bump {f : Fld} (hl : f.lo = 0) (hh : f.hi = 63) {l : List Nat} (hn : l.Nodup) (s : State) (p : Nat) :
    (l.foldl (fun s p => s.bump f p) s).get f p = (s.get f p + if p ∈ l then 1 else 0) % 2 ^ 64 := by
  induction l generalizing s with
  | nil =>
    have hlt : s.get f p < 2 ^ 64 := by simpa [Fld.width, hl, hh] using s.get_lt f p
    exact (Nat.mod_eq_of_lt hlt).symm
  | cons x l ih =>
    obtain ⟨hx, hn⟩ := List.nodup_cons.1 hn
    rw [List.foldl_cons, ih hn]
    by_cases hp : p = x
    · subst hp
      rw [(s.bump_results f p hl hh).1, if_neg hx, if_pos List.mem_cons_self, Nat.add_zero, Nat.mod_mod]
    · have hget : (s.bump f x).get f p = s.get f p := s.get_set_of_ne _ (.inr hp)
      simp only [hget, List.mem_cons, hp, false_or]

/-- The ports that a frame of contract version `v`, if any, may have copies for (R196). -/
def State.mayCopy (s : State) (f : Frame) (set : Nat) : Nat :=
  match s.frameVer f with
  | some v => v.body.mcPorts
  | none => set

/-- The reading of a group puts the copy set into the frame, and counts each port of the group outside it. -/
theorem State.readGroup_results (fid g : Nat) (f : Frame) : let t := s.readGroup fid g f
    let set := (SMap.getD s.ing.mc g {}).ports
    let may := s.mayCopy f set
    ∃ f', t.frame? fid = some f' ∧ f'.stage = .egress ∧ f'.dest = .mcast g (some (octetsOf (set &&& may), set &&& may)) ∧
      ∀ p, p < 256 → t.get .tmPortMcdisCopies p =
        (s.get .tmPortMcdisCopies p + (if bitOf set p = true ∧ bitOf may p = false then 1 else 0)) % 2 ^ 64 := by
  intro t set may
  let out := (List.range 256).filter (fun p => bitOf set p && !bitOf may p)
  have ht : t = (out.foldl (fun s p => s.bump .tmPortMcdisCopies p) s).putFrame fid
      { f with stage := .egress, dest := .mcast g (some (octetsOf (set &&& may), set &&& may)) } := rfl
  refine ⟨{ f with stage := .egress, dest := .mcast g (some (octetsOf (set &&& may), set &&& may)) }, ?_, rfl, rfl, fun p hp => ?_⟩
  · rw [ht, State.frame_putFrame_self, if_neg (fun h => by cases h.1)]
  · have hmem : p ∈ out ↔ bitOf set p = true ∧ bitOf may p = false := by simp [out, hp]
    have hget : t.get .tmPortMcdisCopies p = (out.foldl (fun s p => s.bump .tmPortMcdisCopies p) s).get .tmPortMcdisCopies p := by
      rw [ht]
      exact State.get_of_regs rfl _ p
    rw [hget, State.get_foldl_bump rfl rfl (List.nodup_range.filter _), if_congr hmem rfl rfl]

end Copy

/-! ### The statement -/

/-- Settles O32: handover and enqueue by the frame's destination and what refuses it, MC_COPY by the next octet, and the replicator's
operations by what each leaves. -/
theorem handoverAndEnqueue : Obligations.HandoverAndEnqueue := by
  unfold Obligations.HandoverAndEnqueue
  intro fid oct s
  refine ⟨exec_emitted_none oct, fun f h => ⟨fun hst => ⟨exec_hostHandover_other h hst, exec_fabricHandover_other h hst,
    exec_tmEnqueue_other h hst⟩, fun r hd hst => ?_, fun c gb hd hst => ?_, fun p hd hst => ?_, fun g o l ports hd => ?_⟩,
    fun f h hall hw hj hcon => State.lastCopy_unsent h hall hw hj hcon, fun f g l ports h hd => State.failCopies_mcast h hd,
    fun f p q _ hcon => ⟨fun hroom => ?_, fun hfull => ?_⟩, fun f g => s.readGroup_results fid g f⟩
  · have hexec := exec_hostHandover_emitted h hd hst
    exact ⟨fun hok => hexec.trans (if_pos hok), fun hno => hexec.trans (if_neg (by rw [State.rxNeed, State.crossed, hno]; decide))⟩
  · exact ⟨fun hr => exec_fabricHandover_refused h hd hst hr (by decide), fun hr => exec_fabricHandover_refused h hd hst hr (by decide),
      fun w hr hw hroom => ⟨(s.crossed f).handMsg fid f w c gb, rfl, rfl, rfl, rfl, exec_fabricHandover_sends h hd hst hr hw hroom⟩⟩
  · have hexec := exec_tmEnqueue_emitted h hd hst
    refine ⟨fun hin => hexec.trans (congrArg Host.Outcome.next (if_pos hin)), fun hout hcon => hexec.trans (congrArg Host.Outcome.next ?_),
      fun hout hcon => hexec.trans (congrArg Host.Outcome.next ?_)⟩
    · exact (if_neg (ne_true_of_eq_false hout)).trans (if_pos hcon)
    · exact (if_neg (ne_true_of_eq_false hout)).trans (if_neg (ne_true_of_eq_false hcon))
  · have hexec := exec_mcCopy_read oct h hd
    exact ⟨fun ho => hexec.trans (if_neg ho), fun ho f' h' => (hexec.trans (if_pos ho)).trans
      (congrArg Host.Outcome.next (State.afterOctet_held g l ports h'))⟩
  · rw [State.enterQueue_room fid p q f hcon hroom]
    obtain ⟨hself, hother⟩ := s.enqueue_queue fid p q f
    exact ⟨rfl, hself, fun r hr _ _ => hother r hr⟩
  · rw [State.enterQueue_full fid p q f hcon hfull]
    exact ⟨rfl, rfl, State.bufFull_raises p q f⟩

end Sys2Proof.Machine
end

section
/-! PROOFS. Contract requests: what starts one, and what ADMIT, CHANGE, RETIRE, QUERY and RECHECK answer and change, and the statement O34
(R191-R194, R202, R206, R208-R210, R359). -/

namespace Sys2Proof.Machine

/-! ### The request of a mailbox (R192, R359) -/

section Request
variable {f : Fn} {seq : BitVec 32} {code : Nat} {b : Bytes} {s : State}

theorem inRange_iff {i f n : Nat} : inRange i f n = true ↔ f ≤ i ∧ i < f + n := by simp [inRange]

/-- A body with the code of another request is no request of this one. -/
theorem State.conRequest_other (act : State → Bytes → State × Bytes) (h1 : 1 ≤ leAt b 0 1) (h5 : leAt b 0 1 ≤ 5) (hne : leAt b 0 1 ≠ code) :
    s.conRequest f seq code b act = s := by
  refine if_pos ?_
  rw [Bool.and_eq_true, inRange_iff, bne_iff_ne]
  exact ⟨⟨h1, Nat.lt_succ_of_le h5⟩, hne⟩

/-- An accepted request answers status 1 to a body of another shape or an unlisted code, and else what the act answers. -/
theorem State.conRequest_of_maySubmit (h : s.maySubmit f.val seq) (act : State → Bytes → State × Bytes)
    (hcode : leAt b 0 1 = 0 ∨ 5 < leAt b 0 1 ∨ leAt b 0 1 = code) : s.conRequest f seq code b act =
      (let u := s.accept f.val seq 0x10
       if b.length ≠ 168 ∨ leAt b 0 1 ≠ code ∨ (!zeroAt b 1 7) = true then u.reply f.val 0x10 1 0 []
       else (act u (b.drop 8)).1.reply f.val 0x10 0 0 (act u (b.drop 8)).2) := by
  have hmine : ¬(inRange (conCode b) 1 5 && conCode b != code) = true := by
    rw [Bool.and_eq_true, inRange_iff, bne_iff_ne, conCode]
    omega
  rw [State.conRequest, if_neg hmine, State.submit_of_maySubmit h]
  rfl

theorem State.conRequest_malformed (h : s.maySubmit f.val seq) (act : State → Bytes → State × Bytes) (h1 : 1 ≤ code) (h5 : code ≤ 5)
    (hbad : leAt b 0 1 = 0 ∨ 5 < leAt b 0 1 ∨ leAt b 0 1 = code ∧ (b.length ≠ 168 ∨ zeroAt b 1 7 = false)) :
    s.conRequest f seq code b act = (s.accept f.val seq 0x10).reply f.val 0x10 1 0 [] := by
  rw [State.conRequest_of_maySubmit h act (hbad.imp_right (Or.imp_right And.left))]
  refine if_pos ?_
  rcases hbad with h0 | hlarge | ⟨-, hlen | hzero⟩
  · exact .inr (.inl (by omega))
  · exact .inr (.inl (by omega))
  · exact .inl hlen
  · exact .inr (.inr (by rw [hzero, Bool.not_false]))

theorem State.conRequest_answers (h : s.maySubmit f.val seq) (act : State → Bytes → State × Bytes) (hcode : leAt b 0 1 = code)
    (hlen : b.length = 168) (hzero : zeroAt b 1 7 = true) : s.conRequest f seq code b act =
      (let u := s.accept f.val seq 0x10
       (act u (b.drop 8)).1.reply f.val 0x10 0 0 (act u (b.drop 8)).2) := by
  rw [State.conRequest_of_maySubmit h act (.inr (.inr hcode))]
  exact if_neg (by simp [hlen, hcode, hzero])

end Request

/-! ### Replies (R194) -/

theorem conReply_status (c inc st code im bc bp : Nat) (t : BitVec 64) : leAt (conReply c inc st code im bc bp t) 4 1 = st % 256 := by
  simp [conReply, leBytes, leAt, sliceB, leNat]

theorem conReply_code (c inc st code im bc bp : Nat) (t : BitVec 64) : leAt (conReply c inc st code im bc bp t) 5 1 = code % 256 := by
  simp [conReply, leBytes, leAt, sliceB, leNat]

section Answer
variable (s : State) (f : Nat) (r : ConRec)

theorem State.answered_conView (st : Nat) : (s.answered st).conView = s.conView := by
  have hcount : (s.bump .ingAdmReqAnswered).conView = s.conView := s.set_conView (by decide) 0 _
  unfold State.answered
  dsimp only
  split
  · exact (State.set_conView _ (f := .ingAdmRefusedRefused) (by decide) 0 _).trans hcount
  · exact hcount

theorem State.answered_con (st : Nat) : (s.answered st).con = s.con := State.con_of_conView (s.answered_conView st)

/-- An answer changes no field but the counts of answers. -/
theorem State.answered_get (st : Nat) {g : Fld} (hreq : g.reg ≠ .ingAdmReq) (href : g.reg ≠ .ingAdmRefused) (i : Nat) :
    (s.answered st).get g i = s.get g i := by
  have hcount : (s.bump .ingAdmReqAnswered).get g i = s.get g i := s.get_set_of_ne _ (.inl hreq)
  unfold State.answered
  dsimp only
  split
  · exact (State.get_set_of_ne _ _ (.inl href)).trans hcount
  · exact hcount

theorem State.conSay_status (inc st : Nat) : leAt (s.conSay r inc st).2 4 1 = st % 256 := conReply_status _ _ _ _ _ _ _ _

theorem State.conSay_con (inc st : Nat) : (s.conSay r inc st).1.con = s.con := s.answered_con st

theorem State.hideImpact_code (v : Verdict) : (s.hideImpact f v).code = v.code := by
  unfold State.hideImpact
  split <;> rfl

/-- The status that answers a judged request. -/
def ConRec.judged (r : ConRec) (v : Verdict) : Nat := if v.code ≠ 0 then 1 else if r.dryRun then 6 else 0

theorem ConRec.judged_lt (v : Verdict) : r.judged v < 256 := by
  unfold ConRec.judged
  repeat' split
  all_goals decide

theorem State.verdict_results (v : Verdict) (inc : Nat) : let a := s.verdict f r v inc
    leAt a.2 4 1 = r.judged v ∧ leAt a.2 5 1 = v.code % 256 ∧ a.1.conView = s.conView := by
  refine ⟨?_, ?_, s.answered_conView _⟩
  · exact (conReply_status _ _ _ _ _ _ _ _).trans (Nat.mod_eq_of_lt (r.judged_lt v))
  · refine (conReply_code _ _ _ _ _ _ _ _).trans ?_
    rw [State.hideImpact_code]

end Answer

/-! ### Versions written and ended (R208-R210) -/

section Write
variable (s : State)

/-- The versions of a contract before the one written. -/
def State.versBefore (s : State) (v : ConVer) (change : Bool) : List ConVer :=
  (s.vers v.body.contract).map (fun w => if change && w.until_.isNone then { w with until_ := some v.from_, till := some v.began } else w)

theorem State.versBefore_change (v : ConVer) : s.versBefore v true = (s.vers v.body.contract).map
    (fun w => if w.until_ = none then { w with until_ := some v.from_, till := some v.began } else w) := by
  simp only [State.versBefore, Bool.true_and, Option.isNone_iff_eq_none]

/-- The new version is stored behind those before it, and the marks of all their ports are cleared. -/
def State.putVer (s : State) (v : ConVer) (change : Bool) : State :=
  (s.versBefore v change).foldl (fun s w => s.clearMarks w.body)
    ((s.setVers v.body.contract (s.versBefore v change ++ [v])).clearMarks v.body)

theorem State.writeVer_eq (v : ConVer) (change : Bool) : s.writeVer v change =
    if change then s.putVer v change else (s.putVer v change).set .ingConStaState v.body.contract 1 := rfl

theorem State.putVer_conView (v : ConVer) (change : Bool) : (s.putVer v change).conView =
    (s.setVers v.body.contract (s.versBefore v change ++ [v])).conView :=
  (State.clearVers_conView _ _).trans (State.clearMarks_conView _ v.body)

theorem State.writeVer_con (v : ConVer) (change : Bool) : (s.writeVer v change).con =
    (s.setVers v.body.contract (s.versBefore v change ++ [v])).con := by
  have hput := State.con_of_conView (s.putVer_conView v change)
  rw [State.writeVer_eq]
  cases change
  · exact hput
  · exact hput

theorem State.writeVer_vers_self (v : ConVer) (change : Bool) :
    (s.writeVer v change).vers v.body.contract = s.versBefore v change ++ [v] :=
  (State.vers_of_con (s.writeVer_con v change) _).trans (s.vers_setVers_self _ _)

theorem State.writeVer_vers_of_ne (v : ConVer) (change : Bool) {d : Nat} (h : d ≠ v.body.contract) :
    (s.writeVer v change).vers d = s.vers d :=
  (State.vers_of_con (s.writeVer_con v change) d).trans (s.vers_setVers_of_ne _ h)

theorem State.conState_writeVer_admit (v : ConVer) : (s.writeVer v false).conState v.body.contract = 1 :=
  State.conState_set_self (s.putVer v false) v.body.contract (by decide)

theorem State.conState_writeVer_change (v : ConVer) (c : Nat) : (s.writeVer v true).conState c = s.conState c :=
  (State.conState_of_conView (s.putVer_conView v true) c).trans (s.conState_setVers _ c _)

/-- The versions of a contract, the latest ended at `t` (R210). -/
def State.versEnded (s : State) (c : Nat) (t : BitVec 64) : List ConVer :=
  (s.vers c).map (fun v => if v.until_.isNone then { v with until_ := some t, till := some (s.instantOf t).toNat } else v)

theorem State.versEnded_eq (c : Nat) (t : BitVec 64) : s.versEnded c t = (s.vers c).map
    (fun v => if v.until_ = none then { v with until_ := some t, till := some (s.instantOf t).toNat } else v) := by
  simp only [State.versEnded, Option.isNone_iff_eq_none]

theorem State.endCon_results (c : Nat) (t : BitVec 64) :
    (s.endCon c t).conState c = 3 ∧ (s.endCon c t).vers c = s.versEnded c t := by
  refine ⟨State.conState_set_self _ c (by decide), ?_⟩
  have hclear := State.con_of_conView (State.clearVers_conView (s.setVers c (s.versEnded c t)) (s.versEnded c t))
  have hcon : (s.endCon c t).con = (s.setVers c (s.versEnded c t)).con := hclear
  exact (State.vers_of_con hcon c).trans (s.vers_setVers_self c _)

end Write

/-! ### ADMIT and CHANGE (R191, R206, R208, R209) -/

section Judged
variable {s : State} {f : Nat} {d : Bytes}

theorem State.conAdmit_malformed (h : conMalformed d = true) :
    s.conAdmit f d false = s.conSay (parseCon d) (s.conInc f (parseCon d).contract) 2 := if_pos h

theorem State.conChange_malformed (imgs : Nat → List Image) (h : conMalformed d = true) :
    s.conChange f imgs d = s.conSay (parseCon d) (s.conInc f (parseCon d).contract) 2 := if_pos h

/-- A judged request's answer: a version accepted in earnest is written, and what is answered does not depend on that. -/
def State.settle (s : State) (f : Nat) (r : ConRec) (j : Verdict × ConVer) (change : Bool) : State × Bytes :=
  let a := s.verdict f r j.1 (if j.1.code = 0 then j.2.inc else s.conInc f r.contract)
  if j.1.code = 0 ∧ (!r.dryRun) = true then (a.1.writeVer j.2 change, a.2) else a

theorem State.conAdmit_judged (hm : conMalformed d = false) (hd : s.conDenied f (parseCon d) true = false)
    (hst : s.conState (parseCon d).contract = 0) (hv : s.vers (parseCon d).contract = []) :
    s.conAdmit f d false = s.settle f (parseCon d) (s.judgeCon s.liveImgs (parseCon d) false false) false := by
  rw [State.conAdmit]
  dsimp only
  rw [hm, if_neg Bool.false_ne_true, hd, if_neg Bool.false_ne_true, if_neg (by rw [hst]; decide),
    if_neg (not_or.2 ⟨not_not_intro hst, not_not_intro hv⟩)]
  rfl

theorem any_not_active {l : List ConVer} (h : ∀ v ∈ l, v.active = true) : l.any (fun v => !v.active) = false :=
  List.any_eq_false.2 (fun v hv => by rw [h v hv]; decide)

theorem State.conChange_judged (imgs : Nat → List Image) (hm : conMalformed d = false) (hd : s.conDenied f (parseCon d) true = false)
    (hst : s.conState (parseCon d).contract = 2) (hv : ∀ v ∈ s.vers (parseCon d).contract, v.active = true) :
    s.conChange f imgs d = s.settle f (parseCon d) (s.judgeCon imgs (parseCon d) true false) true := by
  rw [State.conChange]
  dsimp only
  rw [hm, if_neg Bool.false_ne_true, hd, if_neg (by rw [hst]; decide), any_not_active hv, if_neg (by rw [hst]; decide)]
  rfl

section Settle
variable (s : State) (f : Nat) (r : ConRec) (j : Verdict × ConVer) (change : Bool)

theorem State.settle_reply : (s.settle f r j change).2 =
    (s.verdict f r j.1 (if j.1.code = 0 then j.2.inc else s.conInc f r.contract)).2 := by
  unfold State.settle
  dsimp only
  split <;> rfl

theorem State.settle_status : leAt (s.settle f r j change).2 4 1 = r.judged j.1 ∧ leAt (s.settle f r j change).2 5 1 = j.1.code % 256 := by
  obtain ⟨hst, hcode, -⟩ := s.verdict_results f r j.1 (if j.1.code = 0 then j.2.inc else s.conInc f r.contract)
  rw [State.settle_reply]
  exact ⟨hst, hcode⟩

variable {r j}

theorem State.settle_refused (h : j.1.code ≠ 0 ∨ r.dryRun = true) : (s.settle f r j change).1.con = s.con := by
  rw [State.settle, if_neg (fun hboth => h.elim (fun hc => hc hboth.1) (fun hdry => by rw [hdry] at hboth; cases hboth.2))]
  exact State.con_of_conView (s.verdict_results f r j.1 _).2.2

/-- The state in which an accepted version is written is one with the same contracts. -/
theorem State.settle_accepted (hc : j.1.code = 0) (hdry : r.dryRun = false) : ∃ u : State, u.conView = s.conView ∧
    (s.settle f r j change).1 = u.writeVer j.2 change := by
  refine ⟨_, (s.verdict_results f r j.1 (if j.1.code = 0 then j.2.inc else s.conInc f r.contract)).2.2, ?_⟩
  rw [State.settle, if_pos ⟨hc, by rw [hdry]; rfl⟩]

theorem State.settle_admits (hc : j.1.code = 0) (hdry : r.dryRun = false) (hv : s.vers j.2.body.contract = []) :
    (s.settle f r j false).1.vers j.2.body.contract = [j.2] ∧ (s.settle f r j false).1.conState j.2.body.contract = 1 ∧
      ∀ d, d ≠ j.2.body.contract → (s.settle f r j false).1.vers d = s.vers d := by
  obtain ⟨u, hu, heq⟩ := s.settle_accepted f false hc hdry
  have hvers := State.vers_of_con (State.con_of_conView hu)
  rw [heq]
  refine ⟨?_, u.conState_writeVer_admit j.2, fun d hd => (u.writeVer_vers_of_ne j.2 false hd).trans (hvers d)⟩
  rw [u.writeVer_vers_self, State.versBefore, hvers, hv]
  rfl

theorem State.settle_changes (hc : j.1.code = 0) (hdry : r.dryRun = false) (c : Nat) :
    (s.settle f r j true).1.conState c = s.conState c ∧ (s.settle f r j true).1.vers j.2.body.contract =
      (s.vers j.2.body.contract).map (fun w => if w.until_ = none then { w with until_ := some j.2.from_, till := some j.2.began } else w) ++
        [j.2] := by
  obtain ⟨u, hu, heq⟩ := s.settle_accepted f true hc hdry
  rw [heq]
  refine ⟨(u.conState_writeVer_change j.2 c).trans (State.conState_of_conView hu c), ?_⟩
  rw [u.writeVer_vers_self, State.versBefore_change, State.vers_of_con (State.con_of_conView hu)]

end Settle

end Judged

/-! ### RETIRE and QUERY (R191, R194, R210) -/

section Retire
variable {s : State} {f : Nat} {d : Bytes}

theorem State.conRetire_reserved (h : conReserved d = true) :
    s.conRetire f d = s.conSay (parseCon d) (s.conInc f (parseCon d).contract) 2 := if_pos h

/-- A contract in force may be retired at a timely instant; a dry run ends nothing. -/
theorem State.conRetire_judged (hm : conReserved d = false) (hd : s.conDenied f (parseCon d) false = false)
    (hst : s.conState (parseCon d).contract = 2) (hv : ∀ v ∈ s.vers (parseCon d).contract, v.active = true) :
    s.conRetire f d = (let r := parseCon d
      let cur := s.conInc f r.contract
      if (!s.timingOk r.at_) = true then
        (s.answered 1, conReply r.contract cur 1 rcTiming 0 (s.boundsNow r.contract).1 (s.boundsNow r.contract).2 r.at_)
      else if r.dryRun = true then s.conSay r cur 6
      else ((s.endCon r.contract r.at_).answered 0, conReply r.contract cur 0 0 0 0 0 r.at_)) := by
  rw [State.conRetire]
  dsimp only
  rw [hm, if_neg Bool.false_ne_true, hd, if_neg (by rw [hst]; decide), any_not_active hv, if_neg (by rw [hst]; decide)]

theorem State.conRetire_clauses (hm : conReserved d = false) (hd : s.conDenied f (parseCon d) false = false)
    (hst : s.conState (parseCon d).contract = 2) (hv : ∀ v ∈ s.vers (parseCon d).contract, v.active = true) :
    let r := parseCon d
    let e := s.conRetire f d
    (s.timingOk r.at_ = true → r.dryRun = false → leAt e.2 4 1 = 0 ∧ e.1.conState r.contract = 3 ∧
      e.1.vers r.contract = (s.vers r.contract).map
        (fun w => if w.until_ = none then { w with until_ := some r.at_, till := some (s.instantOf r.at_).toNat } else w)) ∧
    (s.timingOk r.at_ = true → r.dryRun = true → leAt e.2 4 1 = 6 ∧ e.1.con = s.con) ∧
    (s.timingOk r.at_ = false → leAt e.2 4 1 = 1 ∧ leAt e.2 5 1 = rcTiming ∧ e.1.con = s.con) := by
  have heq := State.conRetire_judged hm hd hst hv
  dsimp only at heq ⊢
  rw [heq]
  refine ⟨fun htime hdry => ?_, fun htime hdry => ?_, fun htime => ?_⟩
  · obtain ⟨hstate, hvers⟩ := s.endCon_results (parseCon d).contract (parseCon d).at_
    rw [State.versEnded_eq] at hvers
    rw [htime, hdry, Bool.not_true, if_neg Bool.false_ne_true, if_neg Bool.false_ne_true]
    exact ⟨conReply_status _ _ _ _ _ _ _ _, (State.conState_of_conView (State.answered_conView _ 0) _).trans hstate,
      (State.vers_of_con (State.answered_con _ 0) _).trans hvers⟩
  · rw [htime, hdry, Bool.not_true, if_neg Bool.false_ne_true, if_pos rfl]
    exact ⟨s.conSay_status _ _ 6, s.conSay_con _ _ 6⟩
  · rw [htime, Bool.not_false, if_pos rfl]
    exact ⟨conReply_status _ _ _ _ _ _ _ _, conReply_code _ _ _ _ _ _ _ _, s.answered_con 1⟩

theorem State.conQuery_reserved (h : conReserved d = true) :
    s.conQuery f d = s.conSay (parseCon d) (s.conInc f (parseCon d).contract) 2 := if_pos h

/-- A query changes no contract. -/
theorem State.conQuery_con : (s.conQuery f d).1.con = s.con := by
  unfold State.conQuery
  extract_lets r cur vs shown
  clear_value shown
  split
  · exact s.conSay_con r cur 2
  · split
    · exact s.conSay_con r cur 3
    · split
      · exact s.conSay_con r cur 3
      · exact s.answered_con 0

theorem State.conQuery_absent (hm : conReserved d = false) (hv : s.vers (parseCon d).contract = []) :
    s.conQuery f d = s.conSay (parseCon d) (s.conInc f (parseCon d).contract) 3 := by
  rw [State.conQuery]
  dsimp only
  rw [hm, if_neg Bool.false_ne_true, hv]
  rfl

/-- A query of a contract in force answers its record, then the reply. -/
theorem State.conQuery_inForce {v : ConVer} (hm : conReserved d = false) (hv : s.inForce (parseCon d).contract = some v)
    (hd : s.conDenied f (parseCon d) false = false) :
    ∃ w : Bytes, (s.conQuery f d).2 = conBytes { v.body with inc := v.inc } ++ w ∧ leAt w 4 1 = 0 := by
  have hlast : ((s.vers (parseCon d).contract).filter (fun v => v.active)).getLast? = some v := hv
  refine ⟨_, ?_, conReply_status (parseCon d).contract v.inc 0 0 0
    (s.env.bounds v (fun p => [⟨s.tmBank p, .active⟩])).1 (s.env.bounds v (fun p => [⟨s.tmBank p, .active⟩])).2 v.body.at_⟩
  rw [State.conQuery]
  dsimp only
  rw [hm, if_neg Bool.false_ne_true, hlast]
  dsimp only
  rw [hd, if_neg Bool.false_ne_true]

end Retire

/-! ### RECHECK (R192, R202, R206, R231) -/

section Recheck
variable {s : State} {f : Nat} {d : Bytes}

/-- A RECHECK is answered a status other than ADMITTED without a change to more than the counts, or ADMITTED with the port's mark set. -/
theorem State.conRecheck_cases (s : State) (f : Nat) (d : Bytes) :
    (∃ c st code im bc bp t, st ≠ 0 ∧ st < 256 ∧ s.conRecheck f d = (s.answered st, conReply c 0 st code im bc bp t)) ∨
    s.conRecheck f d = ((s.set .tmPortStaChecked (leAt d 64 2) 1).answered 0, conReply (parseCon d).contract 0 0 0 0 0 0 (parseCon d).at_) := by
  unfold State.conRecheck
  extract_lets r p e bs need now code
  clear_value code
  split
  · exact .inl ⟨_, 2, _, _, _, _, _, by decide, by decide, rfl⟩
  · split
    · exact .inl ⟨_, 3, _, _, _, _, _, by decide, by decide, rfl⟩
    · split
      · exact .inl ⟨_, 1, _, _, _, _, _, by decide, by decide, rfl⟩
      · split
        · exact .inl ⟨_, 1, _, _, _, _, _, by decide, by decide, rfl⟩
        · split
          · exact .inl ⟨_, 6, _, _, _, _, _, by decide, by decide, rfl⟩
          · exact .inr rfl

theorem State.conRecheck_reserved (h : conReserved d = true) : s.conRecheck f d = s.conSay (parseCon d) 0 2 :=
  if_pos (by rw [h, Bool.true_or])

theorem State.conRecheck_results (s : State) (f : Nat) (d : Bytes) : let m := s.conRecheck f d
    m.1.con = s.con ∧ (leAt m.2 4 1 = 0 → m.1.get .tmPortStaChecked (leAt d 64 2) = 1) ∧
      (leAt m.2 4 1 ≠ 0 → ∀ p, m.1.get .tmPortStaChecked p = s.get .tmPortStaChecked p) := by
  dsimp only
  rcases s.conRecheck_cases f d with ⟨c, st, code, im, bc, bp, t, h0, hlt, heq⟩ | heq
  · rw [heq]
    refine ⟨s.answered_con st, fun h => ?_, fun _ p => s.answered_get st (by decide) (by decide) p⟩
    rw [conReply_status, Nat.mod_eq_of_lt hlt] at h
    exact absurd h h0
  · rw [heq]
    refine ⟨State.answered_con _ 0, fun _ => ?_, fun h => absurd (conReply_status _ _ 0 _ _ _ _ _) h⟩
    exact (State.answered_get _ 0 (by decide) (by decide) _).trans (s.get_set_self .tmPortStaChecked _ 1 (by decide) (by decide))

end Recheck

/-! ### The statement -/

/-- Settles O34: a request by the shape of its body, its answer by what is malformed, judged or refused. -/
theorem contractRequestResults : Obligations.ContractRequestResults := by
  unfold Obligations.ContractRequestResults
  intro f seq b d s
  have next {x y : State} (h : x = y) : (.next x : Out) = .next y := congrArg _ h
  have other {n : Nat} {act : State → Bytes → State × Bytes} (h1 : 1 ≤ leAt b 0 1) (h5 : leAt b 0 1 ≤ 5) (hne : leAt b 0 1 ≠ n) :
      (.next (s.conRequest f seq n b act) : Out) = .next s := next (State.conRequest_other act h1 h5 hne)
  refine ⟨other, other, other, other, other, fun h => ?_, ?_⟩
  · have bad {n : Nat} {act : State → Bytes → State × Bytes} (h1 : 1 ≤ n) (h5 : n ≤ 5)
        (hb : leAt b 0 1 = 0 ∨ 5 < leAt b 0 1 ∨ leAt b 0 1 = n ∧ (b.length ≠ 168 ∨ zeroAt b 1 7 = false)) :=
      next (State.conRequest_malformed h act h1 h5 hb)
    have answers {n : Nat} {act : State → Bytes → State × Bytes} (hc : leAt b 0 1 = n) (hl : b.length = 168) (hz : zeroAt b 1 7 = true) :=
      next (State.conRequest_answers h act hc hl hz)
    exact ⟨bad (by decide) (by decide), answers, bad (by decide) (by decide), answers, bad (by decide) (by decide), answers,
      bad (by decide) (by decide), answers, bad (by decide) (by decide), answers⟩
  · obtain ⟨hmcon, hmset, hmkept⟩ := s.conRecheck_results f.val d
    refine ⟨fun hm => ?_, fun hm => ?_, fun hm hd hst hv => ?_, fun hm hd hst hv => ?_,
      fun hm hd hst hv => State.conRetire_clauses hm hd hst hv, State.conQuery_con, fun hm hv => ?_,
      fun v hm hv hd => State.conQuery_inForce hm hv hd, hmcon, hmset, hmkept⟩
    · rw [State.conAdmit_malformed hm, State.conChange_malformed _ hm]
      exact ⟨s.conSay_status _ _ 2, s.conSay_con _ _ 2, s.conSay_status _ _ 2, s.conSay_con _ _ 2⟩
    · rw [State.conRetire_reserved hm, State.conQuery_reserved hm, State.conRecheck_reserved hm]
      exact ⟨s.conSay_status _ _ 2, s.conSay_con _ _ 2, s.conSay_status _ _ 2, s.conSay_status _ _ 2⟩
    · rw [State.conAdmit_judged hm hd hst hv]
      obtain ⟨hstatus, hcode⟩ := s.settle_status f.val (parseCon d) (s.judgeCon s.liveImgs (parseCon d) false false) false
      exact ⟨hstatus, hcode, fun hc hdry => s.settle_admits f.val hc hdry hv, s.settle_refused f.val false⟩
    · rw [State.conChange_judged _ hm hd hst hv]
      obtain ⟨hstatus, -⟩ := s.settle_status f.val (parseCon d) (s.judgeCon s.liveImgs (parseCon d) true false) true
      refine ⟨hstatus, fun hc hdry => ?_, s.settle_refused f.val true⟩
      obtain ⟨hstate, hvers⟩ := s.settle_changes f.val hc hdry (parseCon d).contract
      exact ⟨hstate.trans hst, hvers⟩
    · rw [State.conQuery_absent hm hv]
      exact s.conSay_status _ _ 3

end Sys2Proof.Machine
end

section
/-! PROOFS. The refutation of O33 (R85, R207): a stamp of a frame whose record is forgotten as it is stored counts no late frame. -/

namespace Sys2Proof.Machine

/-! ### A frame forgotten at its stamp -/

/-- Of a frame that is no longer stored there is no last copy to judge. -/
theorem State.lastCopy_of_absent {s : State} {fid : Nat} (h : s.frame? fid = none) : s.lastCopy fid = s := by
  rw [State.lastCopy, h]

/-- A frame that is done, wholly received, in no buffers and no longer heard is not stored again. -/
theorem State.frame_putFrame_forgotten (s : State) (fid : Nat) {f : Frame} (hdone : f.stage = .done) (hend : f.ended = true)
    (hrx : f.rx = none) (hhear : f.hearing = false) : (s.putFrame fid f).frame? fid = none := by
  rw [s.frame_putFrame_self, if_pos ⟨hdone, hend, by rw [hrx]; rfl, by rw [hhear]; rfl⟩]

/-- Time of a counter that has not started stands still (R36). -/
theorem State.advance_of_stopped {s : State} (h : s.crest.running = false) (d : Nat) : s.advance d = s := by
  rw [State.advance, if_pos (.inr h)]

/-- A lane with no calibration offsets reads a crossing at its own instant. -/
theorem State.txStamp_uncalibrated {s : State} {l : Nat} (h : s.lane l = {}) (n : Nat) (t : BitVec 64) : s.txStamp n l t = t := by
  rw [State.txStamp, h]
  simp [State.calStamp]

/-- A contract frame past its deadline at any instant after 0, its one copy still to be stamped, whose end has been received and whose
disposition has been decided. -/
def lateDone : Frame :=
  { stage := .done, ended := true, con := some (0, 1), deadline := some 0, dest := .queue 0, copies := 1 }

/-- The stamp of such a frame, while time stands still, writes no register: the frame is forgotten before it could be counted late. -/
theorem regs_of_egressStamp_lateDone {p : Port} {s t : State} {x : TxFrame}
    (hx : (s.inTx p.val).find? (fun x => x.stamp.isNone) = some x) (hf : s.frame? x.ent.fid = some lateDone) (hsealed : x.sealed = true)
    (hstop : s.crest.running = false) (h : exec (.egressStamp p) s = .next t) : t.regs = s.regs := by
  have hstill (c : BitVec 64) : s.useFree.advanceTo c = s.useFree := State.advance_of_stopped (s := s.useFree) hstop _
  change execEgressStamp p s = .next t at h
  simp only [execEgressStamp, hx, hf, hsealed, Bool.not_true, Bool.false_eq_true, if_false, hstill] at h
  rw [State.lastCopy_of_absent (State.frame_putFrame_forgotten _ _ rfl rfl rfl rfl)] at h
  rw [← Host.Outcome.next.inj h]
  rfl

/-! ### The statement -/

/-- Port 0 of the reset state is about to stamp such a frame, planned for instant 1. -/
def lateDoneInTx : State :=
  { State.reset with
    ports := { State.reset.ports with frames := [(0, lateDone)] }
    tm := { State.reset.tm with tx := [(0, [{ queue := 0, ent := { fid := 0, len := 64, wire := 84 }, plane := 1 }])] } }

/-- An instant less than 1 ns after instant 1 lies after instant 0. -/
theorem ltAfter_zero_of_near_one {c : BitVec 64} (h : (c - 1).toNat < 65536) : ltAfter c 0 = true := by
  have hc : c.toNat = (c - 1).toNat + 1 := by bv_omega
  have hpos : 0 < c.toInt := by
    rw [BitVec.toInt_eq_toNat_of_lt (by omega), hc]
    omega
  simpa [ltAfter, ltDiff] using hpos

/-- Refutes O33: the clause on late contract frames also speaks of a frame that is done and wholly received.  EGRESS_STAMP forgets
that frame's record as it stores it, so ING_CON_LATE does not count the frame, though every stamp in the next nanosecond is past its deadline. -/
theorem not_transmitResults : ¬ Obligations.TransmitResults := by
  unfold Obligations.TransmitResults
  intro h
  obtain ⟨-, -, -, -, hstamp, -⟩ := h 0 0 0 lateDoneInTx
  obtain ⟨t, ht, c, l, hnear, -, -, -, hlate⟩ := (hstamp _ lateDone rfl rfl).2 rfl
  have hregs : t.regs = lateDoneInTx.regs := regs_of_egressStamp_lateDone rfl rfl rfl rfl ht
  have hstill : lateDoneInTx.useFree.advanceTo c = lateDoneInTx.useFree := State.advance_of_stopped (s := lateDoneInTx.useFree) rfl _
  have hcount := hlate (0, 1) 0 0 rfl rfl rfl rfl rfl rfl
  rw [hstill, State.txStamp_uncalibrated rfl, ltAfter_zero_of_near_one hnear, State.get_of_regs hregs] at hcount
  exact absurd hcount (by decide)

end Sys2Proof.Machine
end

section
/-! PROOFS. What the rings of the ledger leave: an entry's start, a buffer filled and completed, a record posted and a receipt sent
(R254-R256, R335-R347). -/

namespace Sys2Proof.Machine

/-! ### Entries are started and fetched (R335, R339, R347) -/

section Start
variable (s : State) (r : Nat)

theorem State.startEntry_besideRings : (s.startEntry r).besideRings = s.besideRings :=
  State.set_besideRings _ (f := .ringIdxH) rfl r _

theorem State.serve_besideRings {x : State × Nat} (h : s.serve = some x) : x.1.besideRings = s.besideRings := by
  have visited (q : Nat) (hx : some (s.visit q, q) = some x) : x.1.besideRings = s.besideRings := by
    rw [← Option.some.inj hx]
    rfl
  have fresh (hx : (s.ringsOn.find? s.hasWork).map (fun q => (s.newRound.visit q, q)) = some x) : x.1.besideRings = s.besideRings := by
    obtain ⟨q, -, rfl⟩ := Option.map_eq_some_iff.1 hx
    rfl
  unfold State.serve at h
  dsimp only at h
  split at h
  · split at h
    · rw [← Option.some.inj h]
    · split at h
      · exact visited _ h
      · exact visited _ h
      · exact fresh h
  · split at h
    · exact visited _ h
    · exact fresh h

theorem State.turn_besideRings : (s.turn r).besideRings = s.besideRings := by
  unfold State.turn
  split
  next t q hserve => exact s.serve_besideRings hserve
  next => rfl

theorem State.beginEntry_besideRings : (s.beginEntry r).besideRings = s.besideRings :=
  (State.startEntry_besideRings _ r).trans (s.turn_besideRings r)

theorem State.reachBuf_besideRings : (s.reachBuf r).besideRings = s.besideRings := by
  unfold State.reachBuf
  split
  · rfl
  · split
    · rfl
    · exact s.ringError_besideRings r _ _

theorem State.tryAts_besideRings (f a n : Nat) : (s.tryAts f a n).besideRings = s.besideRings :=
  State.besideRings_of_unsent (s.tryAts_unsent f a n)

theorem State.fetch_besideRings : (s.fetch r).besideRings = s.besideRings := by
  unfold State.fetch
  extract_lets v f i a n0 n t u
  have hu : u.besideRings = s.besideRings := State.besideRings_of_unsent (s.useAts_unsent f a (64 * n))
  split
  · split
    · exact (State.ringError_besideRings _ r _ i).trans (s.tryAts_besideRings f a (64 * n))
    · exact hu
  · rfl

theorem State.abandon_besideRings (i : Nat) : (s.abandon r i).besideRings = s.besideRings :=
  (State.drainReady_besideRings _ r _).trans (s.retireEntry_besideRings r i)

/-- An entry that writes to its owner's memory changes what its completion changes. -/
theorem State.putThen_besideRings (i a : Nat) (d : Bytes) {h : State → State} (hh : ∀ u : State, (h u).besideRings = u.besideRings) :
    (s.putThen r i a d h).besideRings = s.besideRings := by
  unfold State.putThen
  dsimp only
  split
  · rw [State.abandon_besideRings, State.ringError_besideRings, State.tryAts_besideRings]
  · exact (hh _).trans (s.hostWriteFor_besideRings _ _ _ _)

end Start

/-! ### Buffers of records (R255, R256, R342) -/

section Buffer
variable (s : State) (r : Nat)

theorem State.closeExp_besideRings (status : Nat) : (s.closeExp r status).besideRings = s.besideRings := by
  unfold State.closeExp
  split
  · rfl
  · exact (State.complete_besideRings _ r _ _ _).trans (s.setRing_besideRings r _)

theorem State.closeFull_besideRings (n : Nat) : (s.closeFull r n).besideRings = s.besideRings := by
  unfold State.closeFull
  split
  · split
    · exact s.closeExp_besideRings r 0
    · rfl
  · rfl

theorem State.openExp_besideRings : (s.openExp r).besideRings = s.besideRings := by
  unfold State.openExp
  split
  · rfl
  · exact (State.fetch_besideRings _ r).trans ((State.reachBuf_besideRings _ r).trans (s.startEntry_besideRings r))

theorem State.expPut_besideRings (d : Bytes) (epoch : Nat) (close : Bool) : (s.expPut r d epoch close).besideRings = s.besideRings := by
  unfold State.expPut
  extract_lets fits u
  have hu : u.besideRings = s.besideRings := by
    show State.besideRings (if fits then s else (s.closeExp r 0).openExp r) = s.besideRings
    split
    · rfl
    · exact (State.openExp_besideRings _ r).trans (s.closeExp_besideRings r 0)
  split
  · exact hu
  next b _ =>
    split
    · exact (State.putThen_besideRings _ r _ _ d (fun _ => rfl)).trans hu
    · extract_lets v w x
      have hx : x.besideRings = s.besideRings := (u.hostWriteFor_besideRings _ _ _ _).trans hu
      split
      · exact (x.closeExp_besideRings r 0).trans hx
      · exact hx

theorem State.sendReceipt_besideRings (x : Receipt) : (s.sendReceipt r x).besideRings = s.besideRings := by
  unfold State.sendReceipt
  split
  · rfl
  next e _ _ =>
    split
    · rfl
    · extract_lets i d fits u done v
      have hdone (w : State) : (done w).besideRings = w.besideRings := w.complete_besideRings r i _ _
      have hu : u.besideRings = s.besideRings := s.startEntry_besideRings r
      have hv : v.besideRings = s.besideRings := by
        show State.besideRings (if fits then u.putThen r i (bufAddr e) d done else done u) = s.besideRings
        split
        · exact (u.putThen_besideRings r i _ d hdone).trans hu
        · exact (hdone u).trans hu
      exact (State.fetch_besideRings _ r).trans ((v.reachBuf_besideRings r).trans hv)

end Buffer

/-! ### Records posted to the rings (R254, R255) -/

/-- The state without what the posting of a record changes: the rings' part, and where stopped rings stand. -/
def State.besideExports (s : State) : State × (RegName → Nat → Option (BitVec 64)) :=
  ({ s with led := { s.led with exports := [] } } : State).besideRings

/-- The ledger without where stopped rings stand. -/
def State.ledUnexported (s : State) : Ledger := { s.led with exports := [] }

section Post
variable {s t : State}

theorem State.besideExports_of_besideRings (h : t.besideRings = s.besideRings) : t.besideExports = s.besideExports :=
  congrArg (fun x : State × (RegName → Nat → Option (BitVec 64)) =>
    (({ x.1 with led := { x.1.led with exports := [] } } : State), x.2)) h

theorem State.ledUnexported_of_besideExports (h : t.besideExports = s.besideExports) : t.ledUnexported = s.ledUnexported :=
  congrArg (fun x => x.1.led) h

theorem State.reg_of_besideExports (h : t.besideExports = s.besideExports) {q : RegName} (hq : q.info.dom ≠ 9) (i : Nat) :
    t.reg q i = s.reg q i :=
  State.reg_of_regsAt (k := fun q => q.info.dom != 9) (congrArg Prod.snd h) (by simp [hq]) i

theorem State.led_of_besideRings (h : t.besideRings = s.besideRings) : t.led = s.led := congrArg (fun x => x.1.led) h

theorem State.reg_of_besideRings (h : t.besideRings = s.besideRings) {q : RegName} (hq : q.info.dom ≠ 9) (i : Nat) :
    t.reg q i = s.reg q i :=
  State.reg_of_besideExports (State.besideExports_of_besideRings h) hq i

variable (s) (l r : Nat)

theorem State.setExp_besideExports (v : Option (Nat × Nat)) : (s.setExp l r v).besideExports = s.besideExports := rfl

theorem State.post_besideExports (d : Bytes) (epoch seq next : Nat) (close : Bool) :
    (s.post l r d epoch seq next close).besideExports = s.besideExports := by
  unfold State.post
  split
  · rfl
  · split
    · exact State.besideExports_of_besideRings (s.expPut_besideRings r d epoch close)
    · exact (State.setExp_besideExports _ l r _).trans (State.besideExports_of_besideRings (s.closeFull_besideRings r 128))

theorem State.postLeaf_besideExports (x : LeafRec) : (s.postLeaf l x).besideExports = s.besideExports :=
  foldl_keeps State.besideExports (fun u r => u.post_besideExports l r _ _ _ _ _) _ s

theorem State.postClose_besideExports (e : EpochEntry) : (s.postClose l e).besideExports = s.besideExports :=
  foldl_keeps State.besideExports (fun u r => u.post_besideExports l r _ _ _ _ _) _ s

end Post

end Sys2Proof.Machine
end

section
/-! PROOFS. Lanes of the ledger, and the leaves they write (R242-R245). -/

namespace Sys2Proof.Machine

/-! ### Lanes -/

theorem State.led?_of_lanes {s t : State} (h : t.led.lanes = s.led.lanes) (m : Nat) : t.led? m = s.led? m :=
  congrArg (fun x => SMap.getD x m ({} : LedLane)) h

theorem State.lanes_of_besideExports {s t : State} (h : t.besideExports = s.besideExports) : t.led.lanes = s.led.lanes :=
  congrArg (fun x => x.1.led.lanes) h

theorem State.led?_of_besideExports {s t : State} (h : t.besideExports = s.besideExports) (m : Nat) : t.led? m = s.led? m :=
  State.led?_of_lanes (State.lanes_of_besideExports h) m

theorem State.led?_setLed_same (s : State) (l m : Nat) : (s.setLed l (s.led? l)).led? m = s.led? m := by
  by_cases h : m = l
  · rw [h, State.led_setLed_self]
  · exact s.led_setLed_of_ne _ h

theorem State.retWrite_led (s : State) (base cap n : Nat) (x : LeafRec) : (s.retWrite base cap n x).led = s.led := by
  unfold State.retWrite
  split <;> rfl

theorem State.retWrite_regs (s : State) (base cap n : Nat) (x : LeafRec) : (s.retWrite base cap n x).regs = s.regs := by
  unfold State.retWrite
  split <;> rfl

/-! ### A leaf is written (R242-R245) -/

section Leaf
variable {s t : State} {l : Nat}

/-- The registers that number and count leaves. -/
def RegName.counts (q : RegName) : Bool := q == .ledLaneSeq || q == .ledLaneLeaves

/-- What a numbered leaf's way to retention and to the rings keeps: the numbers and counts, the lane's due and staged leaves, and every other
lane. -/
def State.numbered (s : State) (l : Nat) :
    (RegName → Nat → Option (BitVec 64)) × List LeafDue × List LeafRec × (Nat → Option LedLane) :=
  (s.regsAt RegName.counts, (s.led? l).due, (s.led? l).staged, fun m => if m = l then none else some (s.led? m))

/-- A lane that keeps its due and staged leaves is stored. -/
theorem State.setLed_numbered {v : LedLane} (hdue : v.due = (s.led? l).due) (hstaged : v.staged = (s.led? l).staged) :
    (s.setLed l v).numbered l = s.numbered l := by
  have hother : (fun m => if m = l then none else some ((s.setLed l v).led? m)) = fun m => if m = l then none else some (s.led? m) := by
    funext m
    split
    · rfl
    next hm => rw [s.led_setLed_of_ne v hm]
  simp only [State.numbered, State.led_setLed_self, hdue, hstaged, hother]
  rfl

theorem State.numbered_of_lanes (hregs : t.regsAt RegName.counts = s.regsAt RegName.counts) (hlanes : t.led.lanes = s.led.lanes) :
    t.numbered l = s.numbered l := by
  simp only [State.numbered, hregs, State.led?_of_lanes hlanes]

theorem State.set_numbered {f : Fld} (hf : f.reg.counts = false) (i v : Nat) : (s.set f i v).numbered l = s.numbered l :=
  State.numbered_of_lanes (s.regsAt_set hf i v) rfl

theorem State.stage_numbered : (s.stage l).numbered l = s.numbered l := by
  unfold State.stage
  extract_lets v u
  have hu : u.numbered l = s.numbered l := by
    show State.numbered (match v.stuck with
      | some n => s.setLed l { v with stuck := some (n + 1) }
      | none => s.setLed l { v with busy := max v.busy s.elapsed + leafUnits }) l = s.numbered l
    split <;> exact State.setLed_numbered rfl rfl
  exact (State.set_numbered (f := .ledLaneStaStaged) rfl l _).trans hu

/-- A record put into a region of a lane whose due and staged leaves stay. -/
theorem State.setLed_retWrite_numbered (base cap n : Nat) (x : LeafRec) {v : LedLane} (hdue : v.due = (s.led? l).due)
    (hstaged : v.staged = (s.led? l).staged) : ((s.retWrite base cap n x).setLed l v).numbered l = s.numbered l := by
  have hled : (s.retWrite base cap n x).led? l = s.led? l := State.led?_of_lanes (congrArg Ledger.lanes (s.retWrite_led base cap n x)) l
  have hwrite : (s.retWrite base cap n x).numbered l = s.numbered l :=
    State.numbered_of_lanes (State.regsAt_of_regs (s.retWrite_regs base cap n x)) (congrArg Ledger.lanes (s.retWrite_led base cap n x))
  rw [State.setLed_numbered (hdue.trans (by rw [hled])) (hstaged.trans (by rw [hled])), hwrite]

theorem State.retain_numbered (x : LeafRec) : (s.retain l x).numbered l = s.numbered l := by
  unfold State.retain
  extract_lets v b u
  have hu : u.numbered l = s.numbered l := by
    show State.numbered (if _ then _ else _) l = s.numbered l
    split <;> exact State.setLed_retWrite_numbered _ _ _ _ rfl rfl
  exact (State.set_numbered (f := .ledRetStaOldest) rfl l _).trans hu

theorem State.numbered_of_besideExports (h : t.besideExports = s.besideExports) : t.numbered l = s.numbered l := by
  refine State.numbered_of_lanes ?_ (State.lanes_of_besideExports h)
  refine State.regsAt_mono (k := fun q => q.info.dom != 9) (congrArg Prod.snd h) (fun q hq => ?_)
  simp only [RegName.counts, Bool.or_eq_true, beq_iff_eq] at hq
  rcases hq with rfl | rfl <;> rfl

/-- A written leaf takes the lane's next sequence number, is counted and is staged; the other lanes stay. -/
theorem State.putLeaf_results (s : State) (l : Nat) (mk : Nat → LeafRec) : let t := s.putLeaf l mk
    let q := s.reg .ledLaneSeq l
    t.reg .ledLaneSeq l = q + 1 ∧ (t.led? l).due = (s.led? l).due ∧
    t.get .ledLaneLeavesLeaves l = (s.get .ledLaneLeavesLeaves l + 1) % 2 ^ 64 ∧
    (t.led? l).staged = (s.led? l).staged ++ [mk q.toNat] ∧ ∀ m, m ≠ l → t.led? m = s.led? m := by
  unfold State.putLeaf
  extract_lets q' x u v firsts w z t q
  have ht : t.numbered l = w.numbered l := by
    refine (State.numbered_of_besideExports (State.postLeaf_besideExports _ l x)).trans (State.retain_numbered x |>.trans ?_)
    exact (State.set_numbered (f := .ledLaneStaNNow) rfl l _).trans State.stage_numbered
  simp only [State.numbered, Prod.mk.injEq] at ht
  obtain ⟨hregs, hdue, hstaged, hother⟩ := ht
  refine ⟨?_, ?_, ?_, ?_, fun m hm => ?_⟩
  · rw [State.reg_of_regsAt hregs rfl]
    show (State.set _ .ledLaneLeavesLeaves l _).reg .ledLaneSeq l = q + 1
    rw [State.reg_set_of_ne _ _ (.inl (by decide)), State.reg_setReg_self]
    simp [q', q, BitVec.ofNat_add]
  · rw [hdue, State.led_setLed_self]
    rfl
  · rw [State.get_of_regsAt hregs rfl]
    refine (State.get_bump_self _ .ledLaneLeavesLeaves l 1 (by decide) (by decide)).trans ?_
    rw [State.get, State.reg_setReg_of_ne _ _ (.inl (by decide))]
    rfl
  · rw [hstaged, State.led_setLed_self]
    rfl
  · have hm' := congrFun hother m
    simp only [if_neg hm, Option.some.injEq] at hm'
    rw [hm', State.led_setLed_of_ne _ _ hm]
    rfl

theorem State.flushSums_of_no_sums (h : (s.led? l).sums = []) (e : Nat) : s.flushSums l e = s.setLed l (s.led? l) := by
  simp only [State.flushSums, h, List.filter_nil]
  show s.setLed l { s.led? l with sums := [] } = _
  rw [← h]

theorem State.stagedNow_congr (hstuck : (t.led? l).stuck = (s.led? l).stuck) (hbusy : (t.led? l).busy = (s.led? l).busy)
    (hcrest : t.crest = s.crest) : t.stagedNow l = s.stagedNow l := by
  simp only [State.stagedNow, hstuck, hbusy, State.elapsed, hcrest]

/-- The record that a due leaf becomes. -/
def LeafDue.record (d : LeafDue) (q : Nat) : LeafRec :=
  { leaf := leafOf d q, annot := d.annot, epoch := epochOf d.at_, seq := q, con := d.con, tenant := d.tenant }

/-- Where no summary is being counted, a leaf that is no police leaf and has room in staging is written at once. -/
theorem State.writeDue_results {d : LeafDue} (hsums : (s.led? l).sums = []) (hd : d.dispo ≠ dPolice) (hroom : s.stagedNow l < 7168) :
    let t := s.writeDue l d
    let q := s.reg .ledLaneSeq l
    t.reg .ledLaneSeq l = q + 1 ∧ (t.led? l).due = (s.led? l).due ∧
    t.get .ledLaneLeavesLeaves l = (s.get .ledLaneLeavesLeaves l + 1) % 2 ^ 64 ∧
    (t.led? l).staged = (s.led? l).staged ++ [d.record q.toNat] ∧ ∀ m, m ≠ l → t.led? m = s.led? m := by
  unfold State.writeDue
  extract_lets e u k used w x t q
  have hu : u = s ∨ u = s.setLed l (s.led? l) := by
    by_cases he : e = 0
    · exact .inl (if_pos he)
    · exact .inr ((if_neg he).trans (State.flushSums_of_no_sums hsums _))
  have hled (m : Nat) : u.led? m = s.led? m := by
    rcases hu with h | h <;> rw [h]
    exact s.led?_setLed_same l m
  obtain ⟨hregs, hcrest⟩ : u.regs = s.regs ∧ u.crest = s.crest := by
    rcases hu with h | h <;> rw [h]
    · exact ⟨rfl, rfl⟩
    · exact ⟨rfl, rfl⟩
  have hstaged : u.stagedNow l = s.stagedNow l := State.stagedNow_congr (by rw [hled]) (by rw [hled]) hcrest
  have ht : t = u.putLeaf l d.record := by
    show (if d.dispo = dPolice ∧ d.allowance ≤ used then _ else if 7168 ≤ u.stagedNow l then _ else State.putLeaf _ l _) = _
    rw [if_neg (fun h => hd h.1), if_neg (by omega)]
    exact congrArg (fun x : State => x.putLeaf l d.record) (if_neg hd)
  have hput := u.putLeaf_results l d.record
  simp only [hled, State.reg_of_regs hregs, State.get_of_regs hregs] at hput
  rw [ht]
  exact hput

theorem exec_leafWrite (l : Lane) (s : State) : exec (.leafWrite l) s = .next (s.writeNext l.val) := rfl

theorem State.writeNext_of_none (h : firstDue (s.led? l).due = none) : s.writeNext l = s := by
  simp only [State.writeNext, h]

theorem State.writeNext_of_some {d : LeafDue} {rest : List LeafDue} (h : firstDue (s.led? l).due = some (d, rest)) :
    s.writeNext l = if s.leafAwaited l d.at_ then s else (s.setLed l { s.led? l with due := rest }).writeDue l d := by
  simp only [State.writeNext, h]

/-- The clauses of O36 on LEAF_WRITE. -/
theorem completes_leafWrite {l : Lane} {d : LeafDue} {rest : List LeafDue} (h : firstDue (s.led? l.val).due = some (d, rest))
    (hawait : s.leafAwaited l.val d.at_ = false) (hsums : (s.led? l.val).sums = []) (hd : d.dispo ≠ dPolice)
    (hroom : s.stagedNow l.val < 7168) : Completes (.leafWrite l) s (fun t =>
      t.reg .ledLaneSeq l.val = s.reg .ledLaneSeq l.val + 1 ∧ (t.led? l.val).due = rest ∧
      t.get .ledLaneLeavesLeaves l.val = (s.get .ledLaneLeavesLeaves l.val + 1) % 2 ^ 64 ∧
      (t.led? l.val).staged = (s.led? l.val).staged ++ [d.record (s.reg .ledLaneSeq l.val).toNat] ∧ ∀ m, m ≠ l.val → t.led? m = s.led? m) := by
  let u := s.setLed l.val { s.led? l.val with due := rest }
  have hu : u.led? l.val = { s.led? l.val with due := rest } := s.led_setLed_self _ _
  have hwrite := State.writeDue_results (s := u) (l := l.val) (d := d) (by rw [hu]; exact hsums) hd
    (by rw [State.stagedNow_congr (s := s) (t := u) (by rw [hu]) (by rw [hu]) rfl]; exact hroom)
  rw [hu] at hwrite
  obtain ⟨hseq, hdue, hcount, hstaged, hother⟩ := hwrite
  refine ⟨u.writeDue l.val d, ?_, hseq, hdue, hcount, hstaged, fun m hm => ?_⟩
  · rw [exec_leafWrite, State.writeNext_of_some h, hawait]
    rfl
  · rw [hother m hm, s.led_setLed_of_ne _ hm]

end Leaf

end Sys2Proof.Machine
end

section
/-! PROOFS. The ledger's start, and the roots of its epochs (R242, R248, R249, R254). -/

namespace Sys2Proof.Machine

/-! ### LEDGER_START (R242, R249) -/

section Service
variable (s : State) (b : Blk) (l : Nat)

theorem State.purgeRefs_led : (s.purgeRefs b).led = s.led := by
  unfold State.purgeRefs
  extract_lets spur s1 s2 s3 tables ing threads spur' ciph wins wqs zoa
  have h2 : s2.led = s.led := by
    refine foldl_keeps State.led (fun u c => ?_) _ s1
    split <;> rfl
  repeat' split
  all_goals exact h2

theorem State.wrapped_led : (s.wrapped b).led = s.led := by
  unfold State.wrapped
  split
  · exact s.purgeRefs_led b
  · rfl

theorem State.enterService_led : (s.enterService b).led = s.led := by
  have hinc : (s.renewInc b).led = s.led := by
    refine Eq.trans ?_ (s.wrapped_led b)
    rw [State.renewInc_eq, State.setBlkInc]
    split <;> rfl
  refine Eq.trans ?_ hinc
  unfold State.enterService
  dsimp only
  split <;> rfl

theorem State.blkInc_enterService_lane : (s.enterService ⟨.lane, l⟩).blkInc ⟨.lane, l⟩ = incNext (s.blkInc ⟨.lane, l⟩) :=
  (s.blkInc_enterService_self ⟨.lane, l⟩).trans (Nat.mod_eq_of_lt (incNext_lt (s.blkInc_lt _)))

theorem State.blkInc_enterService_other_lane {l m : Nat} (h : m ≠ l) :
    (s.enterService ⟨.lane, l⟩).blkInc ⟨.lane, m⟩ = s.blkInc ⟨.lane, m⟩ := by
  show (s.enterService ⟨.lane, l⟩).get .ledLaneStaInc m = s.get .ledLaneStaInc m
  rw [State.get_of_regs (s.enterService_regs ⟨.lane, l⟩)]
  show ((s.wrapped ⟨.lane, l⟩).set .ledLaneStaInc l _).get .ledLaneStaInc m = _
  rw [State.get_set_of_ne _ _ (.inr h)]
  exact State.get_of_regsAt (s.wrapped_regsAt (k := fun q => q != .crestCmpRef) ⟨.lane, l⟩ (by decide)) (by decide) m

/-- A lane enters service and shows the oldest epoch it retains. -/
def State.laneService (s : State) (l : Nat) : State := (s.enterService ⟨.lane, l⟩).showOldest l

theorem State.laneService_blkInc (m : Nat) :
    (s.laneService l).blkInc ⟨.lane, m⟩ = if m = l then incNext (s.blkInc ⟨.lane, m⟩) else s.blkInc ⟨.lane, m⟩ := by
  have hshow : (s.laneService l).blkInc ⟨.lane, m⟩ = (s.enterService ⟨.lane, l⟩).blkInc ⟨.lane, m⟩ :=
    State.get_set_of_ne _ (f := .ledRetStaOldest) (g := .ledLaneStaInc) _ (.inl (by decide))
  rw [hshow]
  split
  next h => rw [h, s.blkInc_enterService_lane]
  next h => exact s.blkInc_enterService_other_lane h

/-- The registers that no lane's entry into service writes. -/
def RegName.besideLanes (q : RegName) : Bool := q != .crestCmpRef && q != .ledLaneSta && q != .ledRetSta

/-- What a lane's entry into service keeps: the ledger, the contracts, time, and the registers of neither. -/
def State.besideLanes (s : State) : Ledger × (Contracts × Crest) × (RegName → Nat → Option (BitVec 64)) :=
  (s.led, s.conClock, s.regsAt RegName.besideLanes)

theorem State.laneService_besideLanes : (s.laneService l).besideLanes = s.besideLanes := by
  have hregs : (s.laneService l).regsAt RegName.besideLanes = s.regsAt RegName.besideLanes :=
    (State.regsAt_set _ (f := .ledRetStaOldest) rfl l _).trans
      (s.enterService_regsAt ⟨.lane, l⟩ rfl (fun f hf => by obtain rfl := Option.some.inj hf; rfl))
  have hled : (s.laneService l).led = s.led := s.enterService_led ⟨.lane, l⟩
  have hclock : (s.laneService l).conClock = s.conClock := s.enterService_conClock ⟨.lane, l⟩
  rw [State.besideLanes, hled, hclock, hregs, State.besideLanes]

theorem State.laneService_blkState_self : (s.laneService l).blkState ⟨.lane, l⟩ = 2 := s.blkState_enterService_self ⟨.lane, l⟩

theorem State.laneService_blkState_of_two (m : Nat) (h : s.blkState ⟨.lane, m⟩ = 2) : (s.laneService l).blkState ⟨.lane, m⟩ = 2 :=
  s.blkState_enterService_of_two ⟨.lane, l⟩ h

/-- Every lane enters service. -/
def State.lanesService (s : State) : State := (List.range 16).foldl State.laneService s

theorem State.lanesService_besideLanes : s.lanesService.besideLanes = s.besideLanes :=
  foldl_keeps State.besideLanes State.laneService_besideLanes _ s

theorem State.lanesService_blkState {k : Nat} (hk : k < 16) : s.lanesService.blkState ⟨.lane, k⟩ = 2 :=
  foldl_establishes (f := State.laneService) (P := fun k u => u.blkState ⟨.lane, k⟩ = 2) State.laneService_blkState_self
    State.laneService_blkState_of_two (List.range 16) s (List.mem_range.2 hk)

theorem foldl_laneService_blkInc (ls : List Nat) (hls : ls.Nodup) (s : State) (m : Nat) :
    (ls.foldl State.laneService s).blkInc ⟨.lane, m⟩ = if m ∈ ls then incNext (s.blkInc ⟨.lane, m⟩) else s.blkInc ⟨.lane, m⟩ := by
  induction ls generalizing s with
  | nil => rfl
  | cons l ls ih =>
    obtain ⟨hl, hls⟩ := List.nodup_cons.1 hls
    rw [List.foldl_cons, ih hls, State.laneService_blkInc]
    by_cases hm : m = l
    · subst hm
      simp [hl]
    · simp [hm]

theorem State.lanesService_blkInc {k : Nat} (hk : k < 16) : s.lanesService.blkInc ⟨.lane, k⟩ = incNext (s.blkInc ⟨.lane, k⟩) := by
  rw [State.lanesService, foldl_laneService_blkInc _ List.nodup_range, if_pos (List.mem_range.2 hk)]

end Service

section Start
variable {s u : State}

theorem State.get_setReg_of_ne (s : State) {f : Fld} {q : RegName} {i j : Nat} (v : BitVec 64) (h : f.reg ≠ q ∨ j ≠ i) :
    (s.setReg q i v).get f j = s.get f j := congrArg f.of (s.reg_setReg_of_ne v h)

/-- The session and start epoch that the ledger shows once it has started in the present epoch. -/
def State.ledgerShown (u : State) : State :=
  ((u.set .ledRcptStaStarted 0 1).set .ledRcptStaSession 0 u.cairn.pwrCyc.toNat).setReg .ledStartEpoch 0 (BitVec.ofNat 64 u.epoch)

/-- The ledger's first span begins in the present epoch. -/
def State.openSpan (s : State) : State := { s with led := { s.led with spanFirst := s.epoch, prev := zero48 } }

/-- The ledger started in the present epoch, its lanes not yet in service. -/
def State.ledgerOpened (u : State) : State := u.ledgerShown.openSpan

/-- The contract history begins with the digest in force. -/
def State.noteHistory (w : State) : State :=
  { w with con := { w.con with history := w.con.history ++ [(w.reg .ingAdmDigestAt 0, w.elapsed, w.ctdNow)] } }

theorem exec_ledgerStart (s : State) : exec .ledgerStart s = if !s.gateOpen || s.ledOn then .next s else
    .next (s.advanceAt ((s.epoch + 1) * epochUnits)).ledgerOpened.lanesService.noteHistory := by
  have hdef : exec .ledgerStart s = execLedgerStart s := rfl
  have hlanes (w : State) : (List.range 16).foldl (fun s l => (s.enterService ⟨.lane, l⟩).showOldest l) w = w.lanesService := rfl
  rw [hdef, execLedgerStart]
  dsimp only
  rw [hlanes]
  rfl

theorem State.ledgerOpened_sta (u : State) : u.ledgerOpened.ledOn = true ∧ u.ledgerOpened.get .ledRcptStaSession 0 = u.cairn.pwrCyc.toNat ∧
    u.ledgerOpened.reg .ledStartEpoch 0 = BitVec.ofNat 64 u.epoch := by
  have hshown : u.ledgerOpened.regs = u.ledgerShown.regs := rfl
  rw [State.ledOn, State.is_iff_get, State.get_of_regs hshown, State.get_of_regs hshown, State.reg_of_regs hshown, State.ledgerShown,
    State.get_setReg_of_ne _ _ (.inl (by decide)), State.get_setReg_of_ne _ _ (.inl (by decide))]
  refine ⟨?_, ?_, State.reg_setReg_self _ _ _ _⟩
  · rw [State.get_set_beside _ (f := .ledRcptStaSession) (g := .ledRcptStaStarted) _ rfl (by decide) (by decide) (.inl (by decide))]
    exact u.get_set_self .ledRcptStaStarted 0 1 (by decide) (by decide)
  · rw [State.get_set_self _ _ _ _ (by decide) (by decide)]
    exact Nat.mod_eq_of_lt u.cairn.pwrCyc.isLt

/-- The registers of other domains stay when the ledger starts. -/
theorem State.ledgerShown_reg (u : State) {q : RegName} (hq : q.info.dom ≠ 5) (i : Nat) : u.ledgerShown.reg q i = u.reg q i := by
  have hne (p : RegName) (hp : p.info.dom = 5) : q ≠ p := fun h => hq (h ▸ hp)
  rw [State.ledgerShown, State.reg_setReg_of_ne _ _ (.inl (hne _ rfl)), State.reg_set_of_ne _ _ (.inl (hne _ rfl)),
    State.reg_set_of_ne _ _ (.inl (hne _ rfl))]

theorem State.ledgerOpened_blkInc (u : State) (k : Nat) : u.ledgerOpened.blkInc ⟨.lane, k⟩ = u.blkInc ⟨.lane, k⟩ := by
  show u.ledgerShown.get .ledLaneStaInc k = u.get .ledLaneStaInc k
  rw [State.ledgerShown, State.get_setReg_of_ne _ _ (.inl (by decide)), State.get_set_of_ne _ _ (.inl (by decide)),
    State.get_set_of_ne _ _ (.inl (by decide))]

theorem State.ctdNow_congr {s t : State} (h : ∀ i, t.reg .ingAdmDigest i = s.reg .ingAdmDigest i) : t.ctdNow = s.ctdNow := by
  simp only [State.ctdNow, h]

/-- A ledger that starts: what it shows, its lanes in service under their next incarnations, and the contract history's first entry. -/
theorem State.ledgerStarted_results (u : State) : let t := u.ledgerOpened.lanesService.noteHistory
    t.ledOn = true ∧ t.led.spanFirst = u.epoch ∧ t.led.prev = zero48 ∧ t.reg .ledStartEpoch 0 = BitVec.ofNat 64 u.epoch ∧
      t.get .ledRcptStaSession 0 = u.cairn.pwrCyc.toNat ∧
      (∀ k, k < 16 → t.blkState ⟨.lane, k⟩ = 2 ∧ t.blkInc ⟨.lane, k⟩ = incNext (u.blkInc ⟨.lane, k⟩)) ∧
      t.con.history = u.con.history ++ [(u.reg .ingAdmDigestAt 0, u.elapsed, u.ctdNow)] ∧ t.crest = u.crest := by
  intro t
  let v := u.ledgerOpened
  have hview := v.lanesService_besideLanes
  simp only [State.besideLanes, State.conClock, Prod.mk.injEq] at hview
  obtain ⟨hled, ⟨hcon, hcrest⟩, hregs⟩ := hview
  obtain ⟨hon, hsession, hstart⟩ := u.ledgerOpened_sta
  have hreg (q : RegName) (hq : q.besideLanes = true) (i : Nat) : v.lanesService.reg q i = v.reg q i := State.reg_of_regsAt hregs hq i
  have hget (f : Fld) (hf : f.reg.besideLanes = true) : t.get f 0 = v.get f 0 := State.get_of_regsAt hregs hf 0
  refine ⟨?_, ?_, ?_, ?_, ?_, fun k hk => ⟨v.lanesService_blkState hk, ?_⟩, ?_, hcrest⟩
  · rw [State.ledOn, State.is, hget _ rfl, ← State.is, ← State.ledOn, hon]
  · exact congrArg Ledger.spanFirst hled
  · exact congrArg Ledger.prev hled
  · exact (hreg _ rfl 0).trans hstart
  · exact (hget _ rfl).trans hsession
  · exact (v.lanesService_blkInc hk).trans (congrArg incNext (u.ledgerOpened_blkInc k))
  · have hhist : v.lanesService.con.history = u.con.history := congrArg Contracts.history hcon
    have hat : v.lanesService.reg .ingAdmDigestAt 0 = u.reg .ingAdmDigestAt 0 := (hreg _ rfl 0).trans (u.ledgerShown_reg (by decide) 0)
    have hctd : v.lanesService.ctdNow = u.ctdNow := State.ctdNow_congr (fun i => (hreg _ rfl i).trans (u.ledgerShown_reg (by decide) i))
    have hel : v.lanesService.elapsed = u.elapsed := State.elapsed_of_crest hcrest
    show v.lanesService.con.history ++ [(v.lanesService.reg .ingAdmDigestAt 0, v.lanesService.elapsed, v.lanesService.ctdNow)] = _
    rw [hhist, hat, hctd, hel]

/-- Running time that moves on by a number of LT units moves on by just them. -/
theorem State.advance_acc {d : Nat} (hd : d ≠ 0) (hrun : s.crest.running = true) :
    (s.advance d).crest.acc = s.crest.acc + BitVec.ofNat 112 (d <<< 16) := by
  rw [State.advance, if_neg (by simp [hd, hrun])]
  exact State.setAcc_acc _ _

/-- Brought to the next epoch, running time is in it, unless the accumulator wraps on the way. -/
theorem State.advanceAt_nextEpoch (hrun : s.crest.running = true) (hwrap : s.elapsed + 2 ^ 37 < 2 ^ 96) :
    (s.advanceAt ((s.epoch + 1) * epochUnits)).epoch = s.epoch + 1 := by
  have hepoch : s.epoch = s.crest.acc.toNat / 2 ^ 52 := Nat.shiftRight_eq_div_pow _ _
  have helapsed : s.elapsed = s.crest.acc.toNat / 2 ^ 16 := Nat.shiftRight_eq_div_pow _ _
  have hunits : epochUnits = 2 ^ 36 := rfl
  have hahead : (s.epoch + 1) * epochUnits - s.elapsed ≠ 0 := by
    rw [hunits]
    omega
  rw [State.advanceAt, State.epoch, State.advance_acc hahead hrun, BitVec.toNat_add, BitVec.toNat_ofNat, Nat.shiftRight_eq_div_pow,
    Nat.shiftLeft_eq, hunits]
  omega

/-- The clauses of O36 on LEDGER_START. -/
theorem completes_ledgerStart (hgate : s.gateOpen = true) (hoff : s.ledOn = false) : Completes .ledgerStart s (fun t =>
    let u := s.advanceAt ((s.epoch + 1) * epochUnits)
    t.ledOn = true ∧ t.led.spanFirst = u.epoch ∧ t.led.prev = zero48 ∧ t.reg .ledStartEpoch 0 = BitVec.ofNat 64 u.epoch ∧
    t.get .ledRcptStaSession 0 = u.cairn.pwrCyc.toNat ∧
    (∀ k, k < 16 → t.blkState ⟨.lane, k⟩ = 2 ∧ t.blkInc ⟨.lane, k⟩ = incNext (u.blkInc ⟨.lane, k⟩)) ∧
    t.con.history = u.con.history ++ [(u.reg .ingAdmDigestAt 0, u.elapsed, u.ctdNow)] ∧
    (s.crest.running = true → s.elapsed + 2 ^ 37 < 2 ^ 96 → t.epoch = s.epoch + 1)) := by
  let u := s.advanceAt ((s.epoch + 1) * epochUnits)
  obtain ⟨hon, hfirst, hprev, hstart, hsession, hlanes, hhistory, hcrest⟩ := u.ledgerStarted_results
  refine ⟨_, ?_, hon, hfirst, hprev, hstart, hsession, hlanes, hhistory, fun hrun hwrap => ?_⟩
  · rw [exec_ledgerStart, hgate, hoff]
    rfl
  · rw [State.epoch, hcrest]
    exact State.advanceAt_nextEpoch hrun hwrap

end Start

/-! ### EPOCH_ROOT (R248, R254) -/

section Root
variable {s : State} {e : Nat}

/-- The records of an epoch that a lane has staged. -/
def State.stagedOf (s : State) (e k : Nat) : List LeafRec := (s.led? k).staged.filter (fun y => y.epoch == e)

theorem State.rootLane_stagedOf (s : State) (l e : Nat) {k : Nat} (h : k = l ∨ s.stagedOf e k = []) : (s.rootLane l e).1.stagedOf e k = [] := by
  by_cases hk : k = l
  · subst hk
    have hlane : (s.rootLane k e).1.led? k = { s.led? k with staged := (s.led? k).staged.filter (fun y => y.epoch != e) } :=
      s.led_setLed_self k _
    rw [State.stagedOf, hlane, List.filter_filter, List.filter_eq_nil_iff]
    intro y _
    simp
  · have hother : (s.rootLane l e).1.led? k = s.led? k := s.led_setLed_of_ne _ hk
    rw [State.stagedOf, hother]
    exact h.resolve_left hk

/-- Rooted lanes hold no record of the epoch, and each has given its root. -/
theorem State.rootLanes_results (e : Nat) (ls : List Nat) (s : State) : (s.rootLanes e ls).2.length = ls.length ∧
    ∀ k, k ∈ ls ∨ s.stagedOf e k = [] → (s.rootLanes e ls).1.stagedOf e k = [] := by
  induction ls generalizing s with
  | nil => exact ⟨rfl, fun k h => h.resolve_left (by simp)⟩
  | cons l ls ih =>
    obtain ⟨hlength, hstaged⟩ := ih (s.rootLane l e).1
    refine ⟨congrArg (· + 1) hlength, fun k h => hstaged k ?_⟩
    rw [List.mem_cons] at h
    rcases h with (hk | hk) | hk
    · exact .inr (s.rootLane_stagedOf l e (.inl hk))
    · exact .inl hk
    · exact .inr (s.rootLane_stagedOf l e (.inr hk))

/-- The newest entry is among those kept. -/
theorem State.addEpoch_getLast? (s : State) (x : EpochEntry) : (s.addEpoch x).getLast? = some x := by
  have hx : (decide (x.epoch < x.epoch / 1024 * 1024 + 1023 + 65536) || decide (s.led.spanFirst ≤ x.epoch)) = true := by
    rw [Bool.or_eq_true, decide_eq_true_eq]
    exact .inl (by omega)
  rw [State.addEpoch, List.filter_append, List.filter_singleton]
  simp [hx]

/-- The closes of an epoch are posted, and the lanes show the oldest epochs they retain. -/
def State.postCloses (s : State) (x : EpochEntry) : State := (List.range 16).foldl (fun s l => (s.postClose l x).showOldest l) s

theorem State.postCloses_led (s : State) (x : EpochEntry) : (s.postCloses x).ledUnexported = s.ledUnexported :=
  foldl_keeps (f := fun s l => (s.postClose l x).showOldest l) State.ledUnexported
    (fun u l => (State.ledUnexported_of_besideExports (u.postClose_besideExports l x) :)) (List.range 16) s

/-- Every leaf and summary leaf of epochs up to `e` is written. -/
def State.writeEpoch (s : State) (e : Nat) : State :=
  (List.range 16).foldl (fun s l => (s.writeAll l e ((s.led? l).due.length)).flushSums l e) s

/-- The entry of an epoch whose lanes give the roots `a`. -/
def rootEntry (e tqw eb : Nat) (a : List (Bytes × Nat × Nat)) : EpochEntry :=
  { epoch := e, lanes := a, tqw := tqw, root := epochRootOf e tqw (a.map (·.1)), eb := eb }

/-- An epoch's entry is stored and the epoch no longer waits. -/
def State.storeEpoch (s : State) (rest : List (Nat × Nat × Nat)) (x : EpochEntry) : State :=
  { s with led := { s.led with closed := rest, epochs := s.addEpoch x } }

theorem exec_epochRoot_of_nil (h : s.led.closed = []) : exec .epochRoot s = .next s := by
  have hdef : exec .epochRoot s = execEpochRoot s := rfl
  simp only [hdef, execEpochRoot, h]

theorem exec_epochRoot_of_cons {tqw eb : Nat} {rest : List (Nat × Nat × Nat)} (h : s.led.closed = (e, tqw, eb) :: rest) :
    exec .epochRoot s = if !s.rootReady e then .next s else
      let a := (s.writeEpoch e).rootLanes e (List.range 16)
      .next ((a.1.storeEpoch rest (rootEntry e tqw eb a.2)).postCloses (rootEntry e tqw eb a.2)) := by
  have hdef : exec .epochRoot s = execEpochRoot s := rfl
  simp only [hdef, execEpochRoot, h, State.writeEpoch, State.postCloses, State.storeEpoch, rootEntry]

/-- The clauses of O36 on EPOCH_ROOT. -/
theorem completes_epochRoot {tqw eb : Nat} {rest : List (Nat × Nat × Nat)} (h : s.led.closed = (e, tqw, eb) :: rest)
    (hready : s.rootReady e = true) : Completes .epochRoot s (fun t => t.led.closed = rest ∧ (∃ x : EpochEntry,
        t.led.epochs.getLast? = some x ∧ x.epoch = e ∧ x.tqw = tqw ∧ x.eb = eb ∧ x.lanes.length = 16 ∧
        x.root = epochRootOf e tqw (x.lanes.map (·.1))) ∧
        ∀ k, k < 16 → (t.led? k).staged.filter (fun y => y.epoch == e) = []) := by
  obtain ⟨hlength, hstaged⟩ := State.rootLanes_results e (List.range 16) (s.writeEpoch e)
  have hexec := exec_epochRoot_of_cons h
  generalize (s.writeEpoch e).rootLanes e (List.range 16) = a at hlength hstaged hexec
  let x := rootEntry e tqw eb a.2
  have hled := (a.1.storeEpoch rest x).postCloses_led x
  rw [hready] at hexec
  refine ⟨_, hexec, (congrArg Ledger.closed hled :), ⟨x, ?_, rfl, rfl, rfl, hlength.trans List.length_range, rfl⟩, fun k hk => ?_⟩
  · exact (congrArg (fun v : Ledger => v.epochs.getLast?) hled).trans (a.1.addEpoch_getLast? x)
  · rw [State.led?_of_lanes (congrArg Ledger.lanes hled :)]
    exact hstaged k (.inl (List.mem_range.2 hk))

end Root

end Sys2Proof.Machine
end

section
/-! PROOFS. Receipts signed and stopped rings taken up again, and the statement O36 (R249-R251, R255). -/

namespace Sys2Proof.Machine

/-! ### RECEIPT_SIGN (R249-R251) -/

section Sign
variable {s : State} {last g : Nat} {meas ctd : Bytes} {rest : List (Nat × Bytes × Bytes × Nat)}

theorem getLast?_lastN_concat {α : Type} {n : Nat} (hn : 0 < n) (l : List α) (x : α) : (lastN n (l ++ [x])).getLast? = some x := by
  have hlen : (l ++ [x]).length - n ≤ l.length := by
    rw [List.length_append, List.length_singleton]
    omega
  rw [lastN, List.drop_append_of_le_length hlen, List.getLast?_concat]

/-- The receipt of a span. -/
def State.receiptOf (s : State) (last g : Nat) (meas ctd : Bytes) : Receipt :=
  let m := 0x05 :: s.receiptBody s.led.spanFirst last g meas ctd
  { seq := (s.reg .ledRcptSeq 0).toNat, first := s.led.spanFirst, last := last, body := s.receiptBody s.led.spanFirst last g meas ctd,
    rsa := rsaSignBy (some g) (s.freeBytes 0 6) m, slh := slhSignBy (some g) (s.freeBytes 6 3) m,
    appendix := (s.chList (s.led.spanFirst * epochUnits) ((last + 1) * epochUnits)).flatten }

/-- What a span's receipt says, signed with both keys of the pair. -/
theorem State.receiptOf_results (s : State) (last g : Nat) (meas ctd : Bytes) :
    let x := s.receiptOf last g meas ctd
    let body := s.receiptBody s.led.spanFirst last g meas ctd
    x.seq = (s.reg .ledRcptSeq 0).toNat ∧ x.first = s.led.spanFirst ∧ x.last = last ∧ x.body = body ∧ x.slh.length = 35664 ∧
      x.rsa = rsaSignBy (some g) (s.freeBytes 0 6) (0x05 :: body) ∧ x.slh = slhSignBy (some g) (s.freeBytes 6 3) (0x05 :: body) := by
  simp only [State.receiptOf, Laws.length_slhSignBy, and_self]

/-- A receipt is retained and chained, and its span no longer waits. -/
def State.storeReceipt (s : State) (rest : List (Nat × Bytes × Bytes × Nat)) (x : Receipt) : State :=
  { s.useFree 9 with led := { s.led with
      receipts := lastN 1024 (s.led.receipts ++ [x]), spanEnds := rest, spanFirst := x.last + 1, prev := sha384 (0x05 :: x.body) } }

theorem State.storeReceipt_results (s : State) (rest : List (Nat × Bytes × Bytes × Nat)) (x : Receipt) : let t := s.storeReceipt rest x
    t.led.receipts.getLast? = some x ∧ t.led.prev = sha384 (0x05 :: x.body) ∧ t.led.spanEnds = rest ∧ t.led.spanFirst = x.last + 1 ∧
      t.regs = s.regs := by
  unfold State.storeReceipt
  dsimp only
  exact ⟨getLast?_lastN_concat (n := 1024) (by decide) s.led.receipts x, rfl, rfl, rfl, rfl⟩

/-- The next sequence number and the spans still to sign are shown; a late receipt is counted and recorded. -/
def State.countReceipt (s : State) (q : Nat) (pending late : Bool) : State :=
  let u := (s.setReg .ledRcptSeq 0 (BitVec.ofNat 64 (q + 1))).set .ledRcptStaSignPending 0 (bit pending)
  if late then (u.bump .ledRcptLateLate).cairnRec .rcptLate (some ⟨.hash, 0⟩) (leBytes q 8) else u

/-- A receipt goes to every ring that takes receipts. -/
def State.sendReceipts (s : State) (x : Receipt) : State := (s.exportRings 9).foldl (fun s r => s.sendReceipt r x) s

theorem exec_receiptSign_of_nil (h : s.led.spanEnds = []) : exec .receiptSign s = .next s := by
  have hdef : exec .receiptSign s = execReceiptSign s := rfl
  simp only [hdef, execReceiptSign, h]

theorem exec_receiptSign_of_cons (h : s.led.spanEnds = (last, meas, ctd, g) :: rest) : exec .receiptSign s =
    if s.is .ciphStaErased || (s.spanEntry last).isNone || s.led.closed.any (fun c => decide (c.1 ≤ last)) then .next s
    else .next (((s.storeReceipt rest (s.receiptOf last g meas ctd)).countReceipt (s.reg .ledRcptSeq 0).toNat (!rest.isEmpty)
      (s.signLate last)).sendReceipts (s.receiptOf last g meas ctd)) := by
  have hdef : exec .receiptSign s = execReceiptSign s := rfl
  simp only [hdef, execReceiptSign, h]
  rfl

/-- Signing waits while the keys are erased, the span's last epoch has no entry, or an epoch of it has no root. -/
theorem State.holdsReceipt_iff : (s.is .ciphStaErased || (s.spanEntry last).isNone || s.led.closed.any (fun c => decide (c.1 ≤ last))) = true ↔
    s.is .ciphStaErased = true ∨ s.spanEntry last = none ∨ ∃ c ∈ s.led.closed, c.1 ≤ last := by
  simp [or_assoc]

theorem State.countReceipt_led (s : State) (q : Nat) (pending late : Bool) : (s.countReceipt q pending late).led = s.led := by
  unfold State.countReceipt
  dsimp only
  split <;> rfl

/-- The ledger's registers after a receipt: the next sequence number, whether spans wait, and the count of late receipts. -/
theorem State.countReceipt_regs (s : State) (q : Nat) (pending late : Bool) : let t := s.countReceipt q pending late
    t.reg .ledRcptSeq 0 = BitVec.ofNat 64 (q + 1) ∧ t.get .ledRcptStaSignPending = bit pending ∧
      t.get .ledRcptLateLate = (s.get .ledRcptLateLate + bit late) % 2 ^ 64 := by
  let v := s.setReg .ledRcptSeq 0 (BitVec.ofNat 64 (q + 1))
  let u := v.set .ledRcptStaSignPending 0 (bit pending)
  have hseq : u.reg .ledRcptSeq 0 = BitVec.ofNat 64 (q + 1) := (v.reg_set_of_ne _ (.inl (by decide))).trans (s.reg_setReg_self _ _ _)
  have hpending : u.get .ledRcptStaSignPending = bit pending := by
    refine (v.get_set_self .ledRcptStaSignPending 0 _ (by decide) (by decide)).trans ?_
    cases pending <;> rfl
  have hcount : u.get .ledRcptLateLate = s.get .ledRcptLateLate :=
    (v.get_set_of_ne _ (.inl (by decide))).trans (congrArg (Fld.of .ledRcptLateLate) (s.reg_setReg_of_ne _ (.inl (by decide))))
  cases late with
  | false => exact ⟨hseq, hpending, hcount.trans (Nat.mod_eq_of_lt (s.get_lt .ledRcptLateLate 0)).symm⟩
  | true =>
    refine ⟨(u.reg_set_of_ne _ (.inl (by decide))).trans hseq, (u.get_set_of_ne _ (.inl (by decide))).trans hpending, ?_⟩
    refine (u.get_bump_self .ledRcptLateLate 0 1 (by decide) (by decide)).trans ?_
    rw [hcount]
    rfl

theorem State.sendReceipts_besideRings (s : State) (x : Receipt) : (s.sendReceipts x).besideRings = s.besideRings :=
  foldl_keeps State.besideRings (fun u r => u.sendReceipt_besideRings r x) _ s

/-- The clauses of O36 on RECEIPT_SIGN. -/
theorem completes_receiptSign (h : s.led.spanEnds = (last, meas, ctd, g) :: rest)
    (hgo : ¬(s.is .ciphStaErased = true ∨ s.spanEntry last = none ∨ ∃ c ∈ s.led.closed, c.1 ≤ last)) : Completes .receiptSign s (fun t =>
      let body := s.receiptBody s.led.spanFirst last g meas ctd
      (∃ x : Receipt, t.led.receipts.getLast? = some x ∧ x.seq = (s.reg .ledRcptSeq 0).toNat ∧ x.first = s.led.spanFirst ∧
        x.last = last ∧ x.body = body ∧ x.slh.length = 35664 ∧
        x.rsa = rsaSignBy (some g) (s.freeBytes 0 6) (0x05 :: body) ∧
        x.slh = slhSignBy (some g) (s.freeBytes 6 3) (0x05 :: body)) ∧
      t.led.prev = sha384 (0x05 :: body) ∧ t.led.spanEnds = rest ∧ t.led.spanFirst = last + 1 ∧
      t.reg .ledRcptSeq 0 = s.reg .ledRcptSeq 0 + 1 ∧ t.get .ledRcptStaSignPending = bit (!rest.isEmpty) ∧
      t.get .ledRcptLateLate = (s.get .ledRcptLateLate + bit (s.signLate last)) % 2 ^ 64) := by
  have hx := s.receiptOf_results last g meas ctd
  have hexec := exec_receiptSign_of_cons h
  rw [if_neg (fun hc => hgo (State.holdsReceipt_iff.1 hc))] at hexec
  generalize s.receiptOf last g meas ctd = x at hx hexec
  have ⟨_, _, hxlast, hxbody, _⟩ := hx
  obtain ⟨hlast, hprev, hends, hfirst, hregs⟩ := s.storeReceipt_results rest x
  rw [hxbody] at hprev
  rw [hxlast] at hfirst
  generalize s.storeReceipt rest x = v at hexec hlast hprev hends hfirst hregs
  let u := v.countReceipt (s.reg .ledRcptSeq 0).toNat (!rest.isEmpty) (s.signLate last)
  have hsent := u.sendReceipts_besideRings x
  have hled : (u.sendReceipts x).led = v.led := (State.led_of_besideRings hsent).trans (State.countReceipt_led _ _ _ _)
  obtain ⟨hseq, hpending, hlate⟩ := v.countReceipt_regs (s.reg .ledRcptSeq 0).toNat (!rest.isEmpty) (s.signLate last)
  rw [State.get_of_regs hregs] at hlate
  have hget (f : Fld) (hf : f.reg.info.dom ≠ 9) : (u.sendReceipts x).get f = u.get f :=
    congrArg f.of (State.reg_of_besideRings hsent hf 0)
  rw [← hled] at hlast hprev hends hfirst
  refine ⟨u.sendReceipts x, hexec, ⟨x, hlast, hx⟩, hprev, hends, hfirst, ?_, (hget _ (by decide)).trans hpending,
    (hget _ (by decide)).trans hlate⟩
  rw [State.reg_of_besideRings hsent (by decide), hseq, BitVec.ofNat_add, BitVec.ofNat_toNat, BitVec.setWidth_eq]
  rfl

end Sign

/-! ### EXPORT_RESUME (R255) -/

section Resume
variable {l : Lane} {r : RingIx} {s : State} {q e : Nat}

theorem exec_exportResume_idle (h : SMap.find s.led.exports (expKey l.val r.val) = none ∨ s.ringKind r.val ≠ 8 ∨ s.ringLive r.val = false) :
    exec (.exportResume l r) s = .next s := by
  have hdef : exec (.exportResume l r) s = execExportResume l r s := rfl
  rw [hdef, execExportResume]
  split
  · rfl
  next hfind =>
    refine if_neg (fun hgo => ?_)
    rcases h with hnone | hkind | hlive
    · rw [hfind] at hnone
      cases hnone
    · exact hkind hgo.1
    · rw [hlive] at hgo
      exact Bool.noConfusion hgo.2

theorem exec_exportResume (hfind : SMap.find s.led.exports (expKey l.val r.val) = some (q, e)) (hkind : s.ringKind r.val = 8)
    (hlive : s.ringLive r.val = true) :
    exec (.exportResume l r) s = .next (s.expDrain l.val r.val q e (s.expItems l.val r.val q e)) := by
  have hdef : exec (.exportResume l r) s = execExportResume l r s := rfl
  simp only [hdef, execExportResume, hfind]
  exact if_pos ⟨hkind, hlive⟩

/-- With everything posted the ring goes on. -/
theorem State.expDrain_nil_goes_on (s : State) (l r q n : Nat) : SMap.find (s.expDrain l r q n []).led.exports (expKey l r) = none := by
  rw [State.expDrain]
  exact SMap.find_put_self s.led.exports (expKey l r) none

/-- Without room the ring stays stopped where it stood. -/
theorem State.expDrain_of_no_room {s : State} {l r q n : Nat} {items : List ExpItem} (h : items ≠ []) (hroom : s.expRoom r 128 = false) :
    s.expDrain l r q n items = (s.closeFull r 128).setExp l r (some (q, n)) := by
  cases items with
  | nil => exact absurd rfl h
  | cons i t =>
    unfold State.expDrain
    exact if_neg (by rw [hroom]; decide)

end Resume

/-! ### The statement -/

/-- Settles O36: each event's clauses are its own lemma's, the idle ones read off its definition. -/
theorem ledgerEventResults : Obligations.LedgerEventResults := by
  unfold Obligations.LedgerEventResults
  intro l r s
  refine ⟨fun h => ?_, fun d rest h => ⟨fun hawait => ?_, fun hawait hsums hd hroom => completes_leafWrite h hawait hsums hd hroom⟩,
    fun h => ?_, completes_ledgerStart, exec_epochRoot_of_nil,
    fun e tqw eb rest h => ⟨fun hready => ?_, completes_epochRoot h⟩, exec_receiptSign_of_nil,
    fun last meas ctd g rest h => ⟨fun hold => ?_, completes_receiptSign h⟩, exec_exportResume_idle,
    fun q e hfind hkind hlive => ⟨exec_exportResume hfind hkind hlive, fun hitems => ?_, State.expDrain_of_no_room⟩⟩
  · rw [exec_leafWrite, State.writeNext_of_none h]
  · rw [exec_leafWrite, State.writeNext_of_some h, if_pos hawait]
  · refine (exec_ledgerStart s).trans (if_pos ?_)
    simpa using h
  · rw [exec_epochRoot_of_cons h, hready]
    rfl
  · rw [exec_receiptSign_of_cons h, if_pos (State.holdsReceipt_iff.2 hold)]
  · rw [hitems]
    exact s.expDrain_nil_goes_on _ _ _ _

end Sys2Proof.Machine
end

section
/-! PROOFS. The ledger's commands: retention banks, proofs and receipts asked for, and spared hash pipelines, and the statement O37
(R256-R259, R347, R456). -/

namespace Sys2Proof.Machine

/-! ### LED_RET_SWAP and LED_RET_RELEASE (R257) -/

section Retention
variable (l : Lane) (v : BitVec 32) (s : State)

theorem exec_ledRetSwap : exec (.ledRetSwap l v) s = .next (if v.getLsbD 0 then s.armRet l.val else s) := rfl

/-- The old region of a lane is released, before its registers show it. -/
def State.releaseOld (s : State) (l : Nat) : State := s.setLed l { s.led? l with oldRetained := [], oldUpTo := 0 }

theorem exec_ledRetRelease : exec (.ledRetRelease l v) s =
    if v.getLsbD 0 then .next (((s.releaseOld l.val).set .ledRetStaOldHeld l.val 0).showOldest l.val) else .next s := rfl

theorem State.setLed_keepsBut (l : Nat) (w : LedLane) : KeepsBut [.led] s (s.setLed l w) := by
  intro p hp
  cases p
  case led => exact absurd List.mem_cons_self hp
  all_goals rfl

theorem State.armRet_of_held {l : Nat} (h : s.is .ledRetStaOldHeld l = true) : (s.armRet l).get .ledRetStaRefused l = 1 ∧
    (s.armRet l).get .ledRetStaPending l = s.get .ledRetStaPending l ∧ RegsBut [(.ledRetSta, l)] s (s.armRet l) ∧
    KeepsBut [.regs] s (s.armRet l) := by
  have harm : s.armRet l = s.set .ledRetStaRefused l 1 := if_pos h
  rw [harm]
  exact ⟨s.get_set_self _ _ _ (by decide) (by decide), s.get_set_beside _ rfl (by decide) (by decide) (.inl (by decide)),
    s.set_regsBut .ledRetStaRefused l 1, s.set_keepsBut _ _ _⟩

theorem State.armRet_of_free {l : Nat} (h : s.is .ledRetStaOldHeld l = false) : (s.armRet l).get .ledRetStaRefused l = 0 ∧
    (s.armRet l).get .ledRetStaPending l = 1 ∧ RegsBut [(.ledRetSta, l)] s (s.armRet l) ∧ KeepsBut [.regs] s (s.armRet l) := by
  let u := s.set .ledRetStaPending l 1
  have harm : s.armRet l = u.set .ledRetStaRefused l 0 := if_neg (by rw [h]; decide)
  rw [harm]
  have hpending : u.get .ledRetStaPending l = 1 := s.get_set_self .ledRetStaPending l 1 (by decide) (by decide)
  have hregs : RegsBut [(.ledRetSta, l)] s u := s.set_regsBut .ledRetStaPending l 1
  have hkeeps : KeepsBut [.regs] s u := s.set_keepsBut _ _ _
  refine ⟨u.get_set_self _ _ _ (by decide) (by decide), ?_, hregs.trans (u.set_regsBut .ledRetStaRefused l 0),
    hkeeps.trans (u.set_keepsBut _ _ _)⟩
  exact (u.get_set_beside (f := .ledRetStaRefused) (g := .ledRetStaPending) _ rfl (by decide) (by decide) (.inl (by decide))).trans hpending

end Retention

/-- The clause of O37 on a release. -/
theorem completes_ledRetRelease {l : Lane} {v : BitVec 32} {s : State} (hv : v.getLsbD 0 = true) : Completes (.ledRetRelease l v) s (fun t => (t.led? l.val).oldRetained = [] ∧
    (t.led? l.val).retained = (s.led? l.val).retained ∧ t.get .ledRetStaOldHeld l.val = 0 ∧
    (∀ m, m ≠ l.val → t.led? m = s.led? m) ∧ RegsBut [(.ledRetSta, l.val)] s t ∧ KeepsBut [.regs, .led] s t) := by
  let u := s.releaseOld l.val
  let w := u.set .ledRetStaOldHeld l.val 0
  have hlane : (w.showOldest l.val).led? l.val = { s.led? l.val with oldRetained := [], oldUpTo := 0 } := s.led_setLed_self _ _
  have hregs : RegsBut [(.ledRetSta, l.val)] s u := fun _ _ _ => rfl
  have hkeeps : KeepsBut [.regs, .led] s u := (s.setLed_keepsBut l.val _).mono (by decide)
  refine ⟨w.showOldest l.val, ?_, by rw [hlane], by rw [hlane], ?_, fun m hm => s.led_setLed_of_ne _ hm, ?_, ?_⟩
  · rw [exec_ledRetRelease, if_pos hv]
  · refine (w.get_set_beside (f := .ledRetStaOldest) (g := .ledRetStaOldHeld) _ rfl (by decide) (by decide) (.inl (by decide))).trans ?_
    exact u.get_set_self .ledRetStaOldHeld l.val 0 (by decide) (by decide)
  · exact hregs.trans ((u.set_regsBut .ledRetStaOldHeld l.val 0).trans (w.set_regsBut .ledRetStaOldest l.val _))
  · exact hkeeps.trans (((u.set_keepsBut _ _ _).trans (w.set_keepsBut _ _ _)).mono (by decide))

/-! ### PROOF and RECEIPT (R256, R258, R259) -/

section Entry
variable {s : State} {r : RingIx} {e : Bytes}

theorem exec_proof (r : RingIx) (e : Bytes) (s : State) : exec (.proof r e) s = .next (if leAt e 0 2 = 1 then s.proofEntry r.val e else s) := rfl

theorem exec_receipt (r : RingIx) (e : Bytes) (s : State) :
    exec (.receipt r e) s = .next (if leAt e 0 2 = 2 then s.receiptEntry r.val e else s) := rfl

/-- What the ledger answers a function that asks for receipt `q`. -/
def State.receiptFor (s : State) (f q : Nat) : Nat × Bytes :=
  if !s.mayExport f then (5, [])
  else if (s.reg .ledRcptSeq 0).toNat ≤ q then (1, [])
  else match s.led.receipts.find? (fun x => x.seq == q) with
    | some x => (0, x.bytes)
    | none => (2, [])

theorem State.receiptEntry_eq (s : State) (r : Nat) (e : Bytes) : s.receiptEntry r e = s.takeEntry r 7 e (ledBad 2 e) (fun s i =>
    let a := s.receiptFor (s.ringOwner r) (leAt e 8 8)
    s.ledAnswer r i e a.1 a.2) := by
  unfold State.receiptEntry State.receiptFor
  congr 1
  funext s i
  dsimp only
  split
  · rfl
  · split
    · rfl
    · cases s.led.receipts.find? (fun x => x.seq == leAt e 8 8) <;> rfl

/-- A ring that may start nothing of a kind reaches no entry. -/
theorem State.takeEntry_of_not_start {s : State} {r kind : Nat} (h : s.canStart r kind = false) (e : Bytes) (bad : Option Nat)
    (act : State → Nat → State) : s.takeEntry r kind e bad act = s := by
  rw [State.takeEntry, State.reaches, h]
  rfl

theorem exec_proof_of_not_start (h : s.canStart r.val 7 = false) : exec (.proof r e) s = .next s := by
  rw [exec_proof, State.proofEntry, State.takeEntry_of_not_start h, ite_self]

theorem exec_receipt_of_not_start (h : s.canStart r.val 7 = false) : exec (.receipt r e) s = .next s := by
  rw [exec_receipt, State.receiptEntry, State.takeEntry_of_not_start h, ite_self]

variable (hgo : s.reaches r.val 7 e = true ∧ ledBad (leAt e 0 2) e = none ∧ s.passOk r.val (s.ringH r.val) e = true)
include hgo

/-- A well-formed PROOF entry is started and answered with the proof; one delivered is counted. -/
theorem exec_proof_started (hop : leAt e 0 2 = 1) : exec (.proof r e) s =
    let u := s.beginEntry r.val
    let a := u.proofOf (u.ringOwner r.val) (leAt e 2 1) (leAt e 8 8) (leAt e 16 8)
    .next (if a.1 = 0 ∧ a.2.length ≤ leAt e 4 4 then (u.ledAnswer r.val (s.ringH r.val) e a.1 a.2).bump .ledProofCntProofs
      else u.ledAnswer r.val (s.ringH r.val) e a.1 a.2) := by
  obtain ⟨hreach, hbad, hpass⟩ := hgo
  rw [hop] at hbad
  rw [exec_proof, if_pos hop, State.proofEntry, hbad, State.takeEntry_started hreach hpass]

theorem exec_proof_delivered (hop : leAt e 0 2 = 1) : let u := s.beginEntry r.val
    let a := u.proofOf (u.ringOwner r.val) (leAt e 2 1) (leAt e 8 8) (leAt e 16 8)
    a.1 = 0 → a.2.length ≤ leAt e 4 4 →
      exec (.proof r e) s = .next ((u.ledAnswer r.val (s.ringH r.val) e 0 a.2).bump .ledProofCntProofs) := by
  intro u a hstatus hfits
  refine (exec_proof_started hgo hop).trans (congrArg Host.Outcome.next ((if_pos ⟨hstatus, hfits⟩).trans ?_))
  rw [hstatus]

theorem exec_proof_undelivered (hop : leAt e 0 2 = 1) : let u := s.beginEntry r.val
    let a := u.proofOf (u.ringOwner r.val) (leAt e 2 1) (leAt e 8 8) (leAt e 16 8)
    (a.1 ≠ 0 ∨ leAt e 4 4 < a.2.length) → exec (.proof r e) s = .next (u.ledAnswer r.val (s.ringH r.val) e a.1 a.2) := by
  intro u a h
  refine (exec_proof_started hgo hop).trans (congrArg Host.Outcome.next (if_neg (fun hdone => ?_)))
  rcases h with hstatus | hlong
  · exact hstatus hdone.1
  · exact absurd hdone.2 (Nat.not_le.2 hlong)

/-- A well-formed RECEIPT entry is started and answered with what the ledger has of the receipt. -/
theorem exec_receipt_started (hop : leAt e 0 2 = 2) {a : Nat × Bytes}
    (ha : (s.beginEntry r.val).receiptFor ((s.beginEntry r.val).ringOwner r.val) (leAt e 8 8) = a) :
    exec (.receipt r e) s = .next ((s.beginEntry r.val).ledAnswer r.val (s.ringH r.val) e a.1 a.2) := by
  obtain ⟨hreach, hbad, hpass⟩ := hgo
  rw [hop] at hbad
  rw [exec_receipt, if_pos hop, State.receiptEntry_eq, hbad, State.takeEntry_started hreach hpass, ha]

end Entry

section Receipt
variable {s : State} {r : Nat} {f q : Nat}

theorem State.receiptFor_denied (h : s.mayExport f = false) : s.receiptFor f q = (5, []) := by
  rw [State.receiptFor, h]
  rfl

/-- The answers to a function that may have them, from the ledger `s` that the entry's start leaves as it was. -/
theorem State.receiptFor_beginEntry (h : (s.beginEntry r).mayExport f = true) : (s.beginEntry r).receiptFor f q =
    if (s.reg .ledRcptSeq 0).toNat ≤ q then (1, [])
    else match s.led.receipts.find? (fun x => x.seq == q) with
      | some x => (0, x.bytes)
      | none => (2, []) := by
  have hbegin := s.beginEntry_besideRings r
  rw [State.receiptFor, h, State.led_of_besideRings hbegin, State.reg_of_besideRings hbegin (by decide)]
  rfl

theorem State.receiptFor_unsigned (h : (s.beginEntry r).mayExport f = true) (hq : (s.reg .ledRcptSeq 0).toNat ≤ q) :
    (s.beginEntry r).receiptFor f q = (1, []) := (State.receiptFor_beginEntry h).trans (if_pos hq)

theorem State.receiptFor_gone (h : (s.beginEntry r).mayExport f = true) (hq : q < (s.reg .ledRcptSeq 0).toNat)
    (hgone : ∀ x ∈ s.led.receipts, x.seq ≠ q) : (s.beginEntry r).receiptFor f q = (2, []) := by
  have hfind : s.led.receipts.find? (fun x => x.seq == q) = none := List.find?_eq_none.2 (by simpa using hgone)
  rw [State.receiptFor_beginEntry h, if_neg (Nat.not_le.2 hq), hfind]

theorem State.receiptFor_retained (h : (s.beginEntry r).mayExport f = true) (hq : q < (s.reg .ledRcptSeq 0).toNat) {x : Receipt}
    (hfind : s.led.receipts.find? (fun y => y.seq == q) = some x) :
    (s.beginEntry r).receiptFor f q = (0, x.body ++ x.rsa ++ x.slh ++ x.appendix) := by
  rw [State.receiptFor_beginEntry h, if_neg (Nat.not_le.2 hq), hfind]
  rfl

end Receipt

section Proof
variable {s : State} {f lane epoch seq : Nat}

/-- Outside the session, or of no lane, there is no proof. -/
theorem State.proofOf_outside (h : s.ledOn = false ∨ epoch < (s.reg .ledStartEpoch 0).toNat ∨ 15 < lane) :
    s.proofOf f lane epoch seq = (3, []) := if_pos (by simpa using h)

/-- Of a span not yet signed the proof is still to come. -/
theorem State.proofOf_unsigned (hon : s.ledOn = true) (hstart : (s.reg .ledStartEpoch 0).toNat ≤ epoch) (hlane : lane ≤ 15)
    (hspan : s.led.spanFirst ≤ epoch) : s.proofOf f lane epoch seq = (1, []) := by
  have hin : ¬((!s.ledOn) = true ∨ epoch < (s.reg .ledStartEpoch 0).toNat ∨ 15 < lane) := by
    rw [hon]
    simp only [Bool.not_true, Bool.false_eq_true, false_or]
    omega
  rw [State.proofOf, if_neg hin, if_pos hspan]

end Proof

/-! ### HASH_SPARE (R242, R456) -/

section Spare
variable {l : Lane} {s : State}

theorem exec_hashSpare_idle (h : s.ledOn = false ∨ (s.led? l.val).stuck ≠ none) : exec (.hashSpare l) s = .next s := by
  have hdef : exec (.hashSpare l) s = execHashSpare l s := rfl
  refine hdef.trans (if_pos ?_)
  simpa [Option.isSome_iff_ne_none] using h

/-- A lane whose pipeline fails once the spare is used is left with its staging. -/
def State.pipelineLost (s : State) (l : Nat) : State :=
  (s.setLed l { s.led? l with stuck := some (s.stagedNow l) }).cairnRec .hashSpare (some ⟨.hash, 0⟩) [BitVec.ofNat 8 l, 1, 1]

/-- A lane whose pipeline fails takes the spare. -/
def State.pipelineSpared (s : State) (l : Nat) : State :=
  (({ s with led := { s.led with spareUsed := true } } : State).enterService ⟨.lane, l⟩).cairnRec .hashSpare (some ⟨.hash, 0⟩)
    [BitVec.ofNat 8 l, 1, 0]

theorem exec_hashSpare (hon : s.ledOn = true) (hstuck : (s.led? l.val).stuck = none) : exec (.hashSpare l) s =
    if s.led.spareUsed then .next (s.pipelineLost l.val) else .next (s.pipelineSpared l.val) := by
  have hdef : exec (.hashSpare l) s = execHashSpare l s := rfl
  refine hdef.trans (if_neg ?_)
  simp [hon, hstuck]

theorem State.pipelineLost_results (s : State) (l : Nat) : let t := s.pipelineLost l
    (t.led? l).stuck = some (s.stagedNow l) ∧ (∀ m, m ≠ l → t.led? m = s.led? m) ∧
      (∃ c, t.cairn.raised = s.cairn.raised ++ [c] ∧ c.code = .hashSpare) ∧ KeepsBut [.led, .cairn] s t := by
  let u := s.setLed l { s.led? l with stuck := some (s.stagedNow l) }
  obtain ⟨c, hcairn, hcode, -⟩ := u.cairnRec_raised .hashSpare (some ⟨.hash, 0⟩) [BitVec.ofNat 8 l, 1, 1]
  have hlane : (s.pipelineLost l).led? l = { s.led? l with stuck := some (s.stagedNow l) } := s.led_setLed_self l _
  refine ⟨by rw [hlane], fun m hm => s.led_setLed_of_ne _ hm, ⟨c, congrArg Cairn.raised hcairn, hcode⟩, fun p hp => ?_⟩
  cases p
  case led => exact absurd List.mem_cons_self hp
  case cairn => exact absurd (List.mem_cons_of_mem _ List.mem_cons_self) hp
  all_goals rfl

theorem State.pipelineSpared_results (s : State) (l : Nat) : let t := s.pipelineSpared l
    t.led.spareUsed = true ∧ t.led.lanes = s.led.lanes ∧ t.blkState ⟨.lane, l⟩ = 2 ∧
      t.blkInc ⟨.lane, l⟩ = incNext (s.blkInc ⟨.lane, l⟩) ∧ ∃ c ∈ t.cairn.raised, c.code = .hashSpare := by
  let u : State := { s with led := { s.led with spareUsed := true } }
  have hled : (s.pipelineSpared l).led = u.led := u.enterService_led ⟨.lane, l⟩
  obtain ⟨c, hcairn, hcode, -⟩ := (u.enterService ⟨.lane, l⟩).cairnRec_raised .hashSpare (some ⟨.hash, 0⟩) [BitVec.ofNat 8 l, 1, 0]
  have hraised : (s.pipelineSpared l).cairn.raised = (u.enterService ⟨.lane, l⟩).cairn.raised ++ [c] := congrArg Cairn.raised hcairn
  exact ⟨(congrArg Ledger.spareUsed hled :), (congrArg Ledger.lanes hled :), u.blkState_enterService_self ⟨.lane, l⟩,
    u.blkInc_enterService_lane l, c, by rw [hraised]; simp, hcode⟩

end Spare

/-! ### The statement -/

/-- Settles O37: each command's clauses are its own lemma's; an entry's start leaves the ledger it is answered from. -/
theorem ledgerCommandResults : Obligations.LedgerCommandResults := by
  unfold Obligations.LedgerCommandResults
  intro l v r e s
  refine ⟨fun hv => ⟨?_, ?_⟩, fun hv hheld => ⟨_, ?_, s.armRet_of_held hheld⟩, fun hv hfree => ⟨_, ?_, s.armRet_of_free hfree⟩,
    completes_ledRetRelease, fun hop => ?_, fun hop => ?_, fun h => ⟨exec_proof_of_not_start h, exec_receipt_of_not_start h⟩,
    fun hgo => ⟨fun hop => ⟨exec_proof_delivered hgo hop, exec_proof_undelivered hgo hop⟩, fun hop =>
      ⟨fun hdeny => exec_receipt_started hgo hop (State.receiptFor_denied hdeny),
        fun hmay => ⟨fun hq => exec_receipt_started hgo hop (State.receiptFor_unsigned hmay hq),
          fun hq hgone => exec_receipt_started hgo hop (State.receiptFor_gone hmay hq hgone),
          fun x hq hfind => exec_receipt_started hgo hop (State.receiptFor_retained hmay hq hfind)⟩⟩⟩,
    fun _ _ _ _ => ⟨State.proofOf_outside, State.proofOf_unsigned⟩, exec_hashSpare_idle,
    fun hon hstuck hused => ⟨_, ?_, s.pipelineLost_results l.val⟩, fun hon hstuck hfree => ⟨_, ?_, s.pipelineSpared_results l.val⟩⟩
  · rw [exec_ledRetSwap, if_neg (by rw [hv]; decide)]
  · rw [exec_ledRetRelease, if_neg (by rw [hv]; decide)]
  · rw [exec_ledRetSwap, if_pos hv]
  · rw [exec_ledRetSwap, if_pos hv]
  · rw [exec_proof, if_neg hop]
  · rw [exec_receipt, if_neg hop]
  · rw [exec_hashSpare hon hstuck, if_pos hused]
  · rw [exec_hashSpare hon hstuck, if_neg (by rw [hfree]; decide)]

end Sys2Proof.Machine
end

section
/-! PROOFS. What the fabric's operations share: an entry that reads host memory first, what a ring's operations and a block's entry into
service leave of the fabric, and the frames the fabric sends of its own (R22, R270, R312, R339, R347). -/

namespace Sys2Proof.Machine

/-! ### What the rings leave of the fabric -/

section Rings
variable {s t : State}

theorem State.zoa_of_besideRings (h : t.besideRings = s.besideRings) : t.zoa = s.zoa := congrArg (fun x => x.1.zoa) h

theorem State.get_of_besideRings (h : t.besideRings = s.besideRings) {f : Fld} (hf : f.reg.info.dom ≠ 9) (i : Nat) :
    t.get f i = s.get f i := by
  rw [State.get, State.reg_of_besideRings h hf, State.get]

end Rings

/-! ### An entry that begins with a read of host memory (R312, R339, R347) -/

section Read
variable {s : State}

/-- Which ring is served depends on nothing that sending to the host changes. -/
theorem State.served_unsent (s : State) (r : Nat) : s.unsent.served r = s.served r := by
  have hserve : s.unsent.serve.map Prod.snd = s.serve.map Prod.snd := by
    have hfresh : ((s.unsent.ringsOn.find? s.unsent.hasWork).map (fun q => (s.unsent.newRound.visit q, q))).map Prod.snd =
        ((s.ringsOn.find? s.hasWork).map (fun q => (s.newRound.visit q, q))).map Prod.snd := by
      rw [Option.map_map, Option.map_map]
      rfl
    have hlist : s.unsent.ringsOn.filter s.unsent.turnLeft = s.ringsOn.filter s.turnLeft := rfl
    have hsvc : s.unsent.host.svc = s.host.svc := rfl
    have hleft : s.unsent.host.svcLeft = s.host.svcLeft := rfl
    unfold State.serve
    dsimp only
    rw [hlist, hsvc, hleft]
    split
    · split
      · rfl
      · split
        · rfl
        · rfl
        · exact hfresh
    · split
      · rfl
      · exact hfresh
  have hany (x : Option (State × Nat)) : x.any (fun y => y.2 == r) = (x.map Prod.snd).any (· == r) := by cases x <;> rfl
  rw [State.served, State.served, hany, hany, hserve]

theorem State.reaches_unsent (s : State) (r kind : Nat) (e : Bytes) : s.unsent.reaches r kind e = s.reaches r kind e := by
  rw [State.reaches, State.canStart, s.served_unsent, State.reaches, State.canStart]
  rfl

variable {r kind a n got : Nat} {e : Bytes} (act : State → Nat → State)

theorem State.takeRead_nothing (bad : Option Nat) : s.takeRead r kind e bad a 0 got act = s.takeEntry r kind e bad act :=
  if_neg (by simp)

variable (hr : s.reaches r kind e = true) (hp : s.passOk r (s.ringH r) e = true) (hn : n ≠ 0)
include hr hp hn

/-- A well-formed entry is reached again once the read it begins with is issued. -/
theorem State.takeRead_issued : s.takeRead r kind e none a n got act = (s.readHost (s.ringOwner r) a n).takeEntry r kind e
    (if s.canReach (s.ringOwner r) a n && got == n then none else some ecAccess) act :=
  if_pos (by simp [hr, hp, hn])

/-- A read that fails leaves the entry unstarted and the ring in ERROR. -/
theorem State.takeRead_failed (h : ¬(s.canReach (s.ringOwner r) a n = true ∧ got = n)) :
    s.takeRead r kind e none a n got act = (s.readHost (s.ringOwner r) a n).ringError r ecAccess (s.ringH r) := by
  let x := s.readHost (s.ringOwner r) a n
  have hx : x.unsent = s.unsent := s.readHost_unsent _ a n
  have hreach : x.reaches r kind e = true := by rw [← x.reaches_unsent, hx, s.reaches_unsent, hr]
  have hH : x.ringH r = s.ringH r := State.get_of_regs (State.regs_of_unsent hx) .ringIdxH r
  have hpass : x.passOk r (s.ringH r) e = true :=
    (State.eq_of_unsent (fun u => u.passOk r (s.ringH r) e) (fun _ => rfl) hx).trans hp
  have hbad : (if s.canReach (s.ringOwner r) a n && got == n then none else some ecAccess) = some ecAccess := if_neg (by simpa using h)
  rw [State.takeRead_issued act hr hp hn, hbad]
  simp only [State.takeEntry, x, hreach, hH, hpass, if_true]
  rfl

/-- An entry whose read has come starts after it. -/
theorem State.takeRead_started (hreach : s.canReach (s.ringOwner r) a n = true) (hgot : got = n) :
    s.takeRead r kind e none a n got act = act ((s.readHost (s.ringOwner r) a n).beginEntry r) (s.ringH r) := by
  let x := s.readHost (s.ringOwner r) a n
  have hx : x.unsent = s.unsent := s.readHost_unsent _ a n
  have hreach' : x.reaches r kind e = true := by rw [← x.reaches_unsent, hx, s.reaches_unsent, hr]
  have hH : x.ringH r = s.ringH r := State.get_of_regs (State.regs_of_unsent hx) .ringIdxH r
  have hpass : x.passOk r (x.ringH r) e = true := by
    rw [hH]
    exact (State.eq_of_unsent (fun u => u.passOk r (s.ringH r) e) (fun _ => rfl) hx).trans hp
  have hbad : (if s.canReach (s.ringOwner r) a n && got == n then none else some ecAccess) = none :=
    if_pos (by simp [hreach, hgot])
  rw [State.takeRead_issued act hr hp hn, hbad, State.takeEntry_started hreach' hpass, hH]

end Read

/-! ### A window or a work queue enters service (R22, R24, R519) -/

section Enter
variable (s : State) {b : Blk} (hb : b.kind = .window ∨ b.kind = .workQueue)
include hb

theorem State.purgeRefs_keepsBut : KeepsBut [.regs, .spur, .rings] s (s.purgeRefs b) := by
  unfold State.purgeRefs
  extract_lets spur s1 s2 s3 tables ing threads spur' ciph wins wqs zoa
  have h1 : KeepsBut [.regs, .spur, .rings] s s1 := by
    intro p hp
    cases p
    case spur => exact absurd (by simp) hp
    all_goals rfl
  have h2 : KeepsBut [.regs, .spur, .rings] s1 s2 := by
    refine foldl_keepsBut (fun u c => ?_) _ s1
    split
    · exact (u.setReg_keepsBut _ c 0).mono (by simp)
    · exact KeepsBut.refl _ u
  have h3 : KeepsBut [.regs, .spur, .rings] s2 s3 := by
    intro p hp
    cases p
    case rings => exact absurd (by simp) hp
    all_goals rfl
  have hkind (k : BlkKind) (hw : k ≠ .window) (hq : k ≠ .workQueue) : b.kind ≠ k := by
    rintro rfl
    exact hb.elim hw hq
  rw [if_neg (hkind .port (by decide) (by decide)), if_neg (hkind .table (by decide) (by decide)),
    if_neg (hkind .key (by decide) (by decide)), if_neg (hkind .ring (by decide) (by decide))]
  exact (h1.trans h2).trans h3

/-- A block that no register shows the incarnation of enters service: apart from its own incarnation and state, and what a wrap or a first
enable has to correct, nothing changes. -/
theorem State.enterService_keepsBut : KeepsBut [.regs, .incs, .blkSt, .spur, .rings, .cairn] s (s.enterService b) := by
  have hwrap : KeepsBut [.regs, .incs, .blkSt, .spur, .rings, .cairn] s (s.wrapped b) := by
    unfold State.wrapped
    split
    · refine ((s.purgeRefs_keepsBut hb).mono (by simp)).trans ?_
      intro p hp
      cases p
      case cairn => exact absurd (by simp) hp
      all_goals rfl
    · exact KeepsBut.refl _ s
  have hrenew : KeepsBut [.regs, .incs, .blkSt, .spur, .rings, .cairn] (s.wrapped b) (s.renewInc b) := by
    rw [State.renewInc_eq, State.setBlkInc]
    split
    · exact (State.set_keepsBut _ _ _ _).mono (by simp)
    · intro p hp
      cases p
      case incs => exact absurd (by simp) hp
      all_goals rfl
  have hstate : KeepsBut [.regs, .incs, .blkSt, .spur, .rings, .cairn] (s.renewInc b) ((s.renewInc b).setBlkState b 2) := by
    intro p hp
    cases p
    case blkSt => exact absurd (by simp) hp
    all_goals rfl
  refine (hwrap.trans (hrenew.trans hstate)).trans ?_
  unfold State.enterService
  dsimp only
  split
  · intro p hp
    cases p
    case spur => exact absurd (by simp) hp
    all_goals rfl
  · exact KeepsBut.refl _ _

theorem State.enterService_zoa : (s.enterService b).zoa = s.zoa := s.enterService_keepsBut hb .zoa (by decide)

end Enter

/-! ### Messages (R265, R274) -/

section Messages
variable (s : State)

theorem State.find_putMsg_self (k : Nat) (m : Option ZMsg) : SMap.find (s.putMsg k m).zoa.msgs k = m := SMap.find_put_self _ _ _

end Messages

end Sys2Proof.Machine
end

section
/-! PROOFS. Work requests and window commands of the FABRIC rings (R265-R267, R270, R271, R282, R346), and the statement O38. -/

namespace Sys2Proof.Machine

/-! ### The entry of a work request (R271) -/

section Exec
variable (r : RingIx) (e d : Bytes) (s : State)

theorem exec_zoaWrite : exec (.zoaWrite r e d) s = .next (s.workCmd r.val 1 e d) := rfl
theorem exec_zoaRead : exec (.zoaRead r e) s = .next (s.workCmd r.val 2 e []) := rfl
theorem exec_fetchAdd : exec (.fetchAdd r e) s = .next (s.workCmd r.val 3 e []) := rfl
theorem exec_compareSwap : exec (.compareSwap r e) s = .next (s.workCmd r.val 4 e []) := rfl
theorem exec_zoaSend : exec (.zoaSend r e d) s = .next (s.workCmd r.val 5 e d) := rfl
theorem exec_zoaFlush : exec (.zoaFlush r e) s = .next (s.workCmd r.val 6 e []) := rfl
theorem exec_winOpen : exec (.winOpen r e) s = .next (s.winCmd r.val 0x10 e) := rfl
theorem exec_winSet : exec (.winSet r e) s = .next (s.winCmd r.val 0x11 e) := rfl
theorem exec_winClose : exec (.winClose r e) s = .next (s.winCmd r.val 0x12 e) := rfl

end Exec

section Work
variable {s : State} {r : Nat} {e d : Bytes}

theorem State.workCmd_of_ne {op : Nat} (h : leAt e 0 1 ≠ op) : s.workCmd r op e d = s := if_neg h

theorem State.workCmd_of_op {op : Nat} (h : leAt e 0 1 = op) : s.workCmd r op e d = s.workEntry r e d := if_pos h

theorem State.workEntry_full (hfull : s.sendFull (leAt e 2 2) = true) (hbad : zoaBad e = none) : s.workEntry r e d = s.passIf r 5 e :=
  if_pos ⟨hfull, by rw [hbad]; rfl⟩

/-- A request that only reads or flushes sends no bytes of host memory. -/
theorem workSrc_of_op (h1 : leAt e 0 1 ≠ 1) (h5 : leAt e 0 1 ≠ 5) : workSrc e = 0 := if_neg (fun h => h.1.elim h1 h5)

/-- A started request that is refused completes at once, its status noted for its work queue where its owner has one. -/
def State.refuseWork (s : State) (r i : Nat) (e : Bytes) (st : Nat) : State :=
  (if (SMap.find s.zoa.wqs (leAt e 2 2)).any (fun w => w.owner == s.ringOwner r) then s.noteFail (leAt e 2 2) st else s).complete r i
    (zoaEntry e 0 0) st

/-- What a started request does: it becomes a message, or is refused. -/
def State.workAct (e data : Bytes) (r st : Nat) (s : State) (i : Nat) : State :=
  match st, s.ctx? (leAt e 2 2) with
  | 0, some w => s.sendMsg w (workMsg r i (s.ringOwner r) e data)
  | _, _ => s.refuseWork r i e st

theorem State.workAct_refused {st : Nat} (h : st ≠ 0) (i : Nat) : State.workAct e d r st s i = s.refuseWork r i e st := by
  unfold State.workAct
  split
  · exact absurd rfl h
  · rfl

theorem State.workAct_sent {w : Wq} (h : s.ctx? (leAt e 2 2) = some w) (i : Nat) :
    State.workAct e d r 0 s i = s.sendMsg w (workMsg r i (s.ringOwner r) e d) := by
  simp only [State.workAct, h]

section Started
variable (hgo : s.reaches r 5 e = true ∧ zoaBad e = none ∧ s.passOk r (s.ringH r) e = true) (hroom : s.sendFull (leAt e 2 2) = false)
include hgo hroom

/-- With room in its send queue a well-formed request is started once the host memory it sends is read. -/
theorem State.workEntry_room : s.workEntry r e d = s.takeRead r 5 e none (leAt e 8 8) (if s.workRefuse r e = 0 then workSrc e else 0)
    d.length (State.workAct e d r (s.workRefuse r e)) := by
  obtain ⟨-, hbad, -⟩ := hgo
  refine (if_neg (fun h => absurd h.1 (by rw [hroom]; decide))).trans ?_
  rw [hbad]
  rfl

theorem State.workEntry_refused (hst : s.workRefuse r e ≠ 0) :
    s.workEntry r e d = (s.beginEntry r).refuseWork r (s.ringH r) e (s.workRefuse r e) := by
  rw [State.workEntry_room hgo hroom, if_neg hst, State.takeRead_nothing]
  obtain ⟨hreach, -, hpass⟩ := hgo
  rw [State.takeEntry_started hreach hpass, State.workAct_refused hst]

/-- The bytes a request sends are there: it sends none, or its read has brought them. -/
def State.gotSrc (s : State) (r : Nat) (e d : Bytes) : Prop :=
  workSrc e = 0 ∨ (s.canReach (s.ringOwner r) (leAt e 8 8) (workSrc e) = true ∧ d.length = workSrc e)

/-- The state after a request's read of host memory. -/
def State.readSrc (s : State) (r : Nat) (e : Bytes) : State :=
  if workSrc e = 0 then s else s.readHost (s.ringOwner r) (leAt e 8 8) (workSrc e)

theorem State.workEntry_failed (hst : s.workRefuse r e = 0) (hgot : ¬s.gotSrc r e d) :
    s.workEntry r e d = (s.readSrc r e).ringError r ecAccess (s.ringH r) := by
  obtain ⟨hsrc, hread⟩ := not_or.1 hgot
  rw [State.workEntry_room hgo hroom, if_pos hst, State.readSrc, if_neg hsrc]
  obtain ⟨hreach, -, hpass⟩ := hgo
  exact State.takeRead_failed _ hreach hpass hsrc hread

theorem State.workEntry_sent {w : Wq} (hst : s.workRefuse r e = 0) (hgot : s.gotSrc r e d)
    (hw : ((s.readSrc r e).beginEntry r).ctx? (leAt e 2 2) = some w) :
    let u := (s.readSrc r e).beginEntry r
    s.workEntry r e d = u.sendMsg w (workMsg r (s.ringH r) (u.ringOwner r) e d) := by
  rw [State.workEntry_room hgo hroom, if_pos hst, hst]
  obtain ⟨hreach, -, hpass⟩ := hgo
  refine Eq.trans ?_ (State.workAct_sent hw _)
  by_cases hsrc : workSrc e = 0
  · rw [hsrc, State.takeRead_nothing, State.takeEntry_started hreach hpass, State.readSrc, if_pos hsrc]
  · obtain ⟨hcan, hlen⟩ := hgot.resolve_left hsrc
    rw [State.takeRead_started _ hreach hpass hsrc hcan hlen, State.readSrc, if_neg hsrc]

end Started

/-- What a work request's entry comes to is what the command of its opcode answers; only WRITE and SEND bring bytes of host memory. -/
theorem exec_workRequests {r : RingIx} {t : Bytes → State} (hd : leAt e 0 1 = 1 ∨ leAt e 0 1 = 5 → s.workEntry r.val e d = t d)
    (hn : leAt e 0 1 ≠ 1 → leAt e 0 1 ≠ 5 → s.workEntry r.val e [] = t []) :
    (leAt e 0 1 = 1 → exec (.zoaWrite r e d) s = .next (t d)) ∧ (leAt e 0 1 = 2 → exec (.zoaRead r e) s = .next (t [])) ∧
    (leAt e 0 1 = 3 → exec (.fetchAdd r e) s = .next (t [])) ∧ (leAt e 0 1 = 4 → exec (.compareSwap r e) s = .next (t [])) ∧
    (leAt e 0 1 = 5 → exec (.zoaSend r e d) s = .next (t d)) ∧ (leAt e 0 1 = 6 → exec (.zoaFlush r e) s = .next (t [])) := by
  refine ⟨fun hop => ?_, fun hop => ?_, fun hop => ?_, fun hop => ?_, fun hop => ?_, fun hop => ?_⟩
  · rw [exec_zoaWrite, State.workCmd_of_op hop, hd (.inl hop)]
  · rw [exec_zoaRead, State.workCmd_of_op hop, hn (by omega) (by omega)]
  · rw [exec_fetchAdd, State.workCmd_of_op hop, hn (by omega) (by omega)]
  · rw [exec_compareSwap, State.workCmd_of_op hop, hn (by omega) (by omega)]
  · rw [exec_zoaSend, State.workCmd_of_op hop, hd (.inr hop)]
  · rw [exec_zoaFlush, State.workCmd_of_op hop, hn (by omega) (by omega)]

/-! ### What refuses a request, and the message it becomes (R265, R270, R282, R289) -/

theorem State.workRefuse_absent (h : SMap.find s.zoa.wqs (leAt e 2 2) = none) : s.workRefuse r e = 0x0B := by
  simp only [State.workRefuse, h]

theorem State.workRefuse_foreign {w : Wq} (h : SMap.find s.zoa.wqs (leAt e 2 2) = some w) (ho : w.owner ≠ s.ringOwner r) :
    s.workRefuse r e = 0x0B := by
  simp only [State.workRefuse, h]
  exact if_pos (.inl ho)

theorem State.ctx_of_wq {c : Nat} {w : Wq} (h : SMap.find s.zoa.wqs c = some w) (hc : c < 4096) (hen : w.en = true) :
    s.ctx? c = some w := by
  rw [State.ctx?, if_pos hc, h, Option.filter_some, if_pos hen]

/-- Through an unprotected context of a fabric that is on only fitness refuses a message. -/
theorem State.refuseMsg_plain {c : Nat} {w : Wq} (h : s.ctx? c = some w) (hprot : w.prot = false) (hon : s.is .zoaCfgEn = true) :
    s.refuseMsg c = if s.zoaUnfit s.deltaCode then 3 else 0 := by
  simp [State.refuseMsg, h, hprot, hon]

theorem State.workRefuse_own {w : Wq} (h : SMap.find s.zoa.wqs (leAt e 2 2) = some w) (ho : w.owner = s.ringOwner r)
    (hhost : bitOf (leAt e 1 1) 2 = false) : s.workRefuse r e = s.refuseMsg (leAt e 2 2) := by
  simp only [State.workRefuse, h]
  exact if_neg (by simp [ho, hhost])

/-- A message as it is submitted. -/
def State.submitted (s : State) (w : Wq) (m : ZMsg) : ZMsg :=
  { m with id := s.zoa.nextId, session := s.get .zoaStaSession, dcode := s.deltaCode, psize := (psizeCode w.psize).getD 0 }

theorem State.sendMsg_msgs (s : State) (w : Wq) (m : ZMsg) :
    (s.sendMsg w m).zoa.msgs = SMap.put s.zoa.msgs s.zoa.nextSeq (some (s.submitted w m)) := rfl

theorem State.sendMsg_results (s : State) (w : Wq) (m : ZMsg) : let t := s.sendMsg w m
    SMap.find t.zoa.msgs s.zoa.nextSeq = some (s.submitted w m) ∧
    t.zoa.nextId = (s.zoa.nextId + 1) % 2 ^ 48 ∧ t.zoa.nextSeq = s.zoa.nextSeq + 1 ∧
    (∀ k, k ≠ s.zoa.nextSeq → SMap.find t.zoa.msgs k = SMap.find s.zoa.msgs k) ∧ KeepsBut [.zoa] s t := by
  refine ⟨by rw [s.sendMsg_msgs w m, SMap.find_put_self], rfl, rfl,
    fun k hk => by rw [s.sendMsg_msgs w m, SMap.find_put_of_ne _ _ hk], fun p hp => ?_⟩
  cases p
  case zoa => exact absurd List.mem_cons_self hp
  all_goals rfl

end Work

/-! ### Window commands (R266, R267, R346) -/

section Windows
variable {s : State} {r op : Nat} {e : Bytes}

theorem State.winCmd_of_ne (h : leAt e 0 1 ≠ op) : s.winCmd r op e = s := if_neg h

theorem State.winCmd_of_op (h : leAt e 0 1 = op) : s.winCmd r op e = s.winEntry r e := if_pos h

/-- A target-3 record has to name an RX_FABRIC ring of the owner. -/
theorem State.winFault_ring (hop : leAt e 0 1 ≠ 0x12) (hbad : zoaBad e = none) (htarget : leAt e 40 1 = 3) {q : Blk}
    (hq : refBlk (BitVec.ofNat 64 (leAt e 24 8)) = some q)
    (hother : q.kind ≠ .ring ∨ s.ringOwner q.ix ≠ s.ringOwner r ∨ s.ringKind q.ix ≠ 3) : s.winFault r e = some ecRange := by
  simp only [State.winFault, hbad, hq]
  rw [if_pos ⟨hop, htarget⟩]
  refine if_neg (fun ⟨hkind, howner, hrx⟩ => ?_)
  exact hother.elim (absurd hkind) (fun h => h.elim (absurd howner) (absurd hrx))

theorem State.winEntry_malformed (hreach : s.reaches r 5 e = true) (hpass : s.passOk r (s.ringH r) e = true)
    (h : s.winFault r e = some ecRange) : s.winEntry r e = s.ringError r ecRange (s.ringH r) := by
  rw [State.winEntry, h]
  simp only [State.takeEntry, hreach, hpass, if_true]
  exact if_neg (by decide)

/-- A window command's completion with the key of its window. -/
def State.winAnswer (s : State) (r i : Nat) (e : Bytes) : State :=
  s.complete r i (sliceB e 0 16 ++ leBytes (winIx e * 256 + (s.win (winIx e)).gen) 4 ++ sliceB e 20 42) 0

section Started
variable (hgo : s.reaches r 5 e = true ∧ s.winFault r e = none ∧ s.passOk r (s.ringH r) e = true)
include hgo

/-- A well-formed window command is denied, or BUSY, or closes or renews its window. -/
theorem State.winEntry_started : let u := s.beginEntry r
    s.winEntry r e =
      if u.winDenied (u.ringOwner r) (leAt e 0 1) e then u.complete r (s.ringH r) (sliceB e 0 62) 0x0B
      else if leAt e 0 1 ≠ 0x12 ∧ u.genBusy (winIx e) then u.complete r (s.ringH r) (sliceB e 0 62) 2
      else (if leAt e 0 1 = 0x12 then u.closeWin (winIx e)
        else u.renewWin (winIx e) (winRec r (u.ringOwner r) e)).winAnswer r (s.ringH r) e := by
  obtain ⟨hreach, hfault, hpass⟩ := hgo
  rw [State.winEntry, hfault, State.takeEntry_started hreach hpass]
  rfl

variable {u : State} (hu : s.beginEntry r = u)
include hu

theorem State.winEntry_denied (h : u.winDenied (u.ringOwner r) (leAt e 0 1) e = true) :
    s.winEntry r e = u.complete r (s.ringH r) (sliceB e 0 62) 0x0B := by
  rw [State.winEntry_started hgo, hu]
  exact if_pos h

section May
variable (h : u.winDenied (u.ringOwner r) (leAt e 0 1) e = false)
include h

theorem State.winEntry_busy (hop : leAt e 0 1 ≠ 0x12) (hbusy : u.genBusy (winIx e) = true) :
    s.winEntry r e = u.complete r (s.ringH r) (sliceB e 0 62) 2 := by
  rw [State.winEntry_started hgo, hu]
  exact (if_neg (by rw [h]; decide)).trans (if_pos ⟨hop, hbusy⟩)

theorem State.winEntry_renewed (hop : leAt e 0 1 ≠ 0x12) (hbusy : u.genBusy (winIx e) = false) :
    s.winEntry r e = (u.renewWin (winIx e) (winRec r (u.ringOwner r) e)).winAnswer r (s.ringH r) e := by
  rw [State.winEntry_started hgo, hu, if_neg (by rw [h]; decide), if_neg (by rw [hbusy]; simp), if_neg hop]

theorem State.winEntry_closed (hop : leAt e 0 1 = 0x12) : s.winEntry r e = (u.closeWin (winIx e)).winAnswer r (s.ringH r) e := by
  rw [State.winEntry_started hgo, hu, if_neg (by rw [h]; decide), if_neg (fun hne => hne.1 hop), if_pos hop]

end May

end Started

/-! ### A window's record and generation (R267) -/

/-- A window with its record under the next generation, which is issued now. -/
def State.issueWin (s : State) (k : Nat) (w : Window) : State :=
  let t := s.setWin k { w with gen := genNext (s.win k).gen }
  { t with zoa := { t.zoa with issued := SMap.put t.zoa.issued (k * 256 + genNext (s.win k).gen) (some t.elapsed) } }

theorem State.renewWin_eq (s : State) (k : Nat) (w : Window) : s.renewWin k w =
    if w.opened ∧ (s.issueWin k w).blkInc ⟨.window, k⟩ = 0 then (s.issueWin k w).enterService ⟨.window, k⟩ else s.issueWin k w := rfl

theorem State.renewWin_zoa (s : State) (k : Nat) (w : Window) : (s.renewWin k w).zoa = (s.issueWin k w).zoa := by
  rw [State.renewWin_eq]
  split
  · exact State.enterService_zoa _ (.inl rfl)
  · rfl

theorem State.win_congr {s t : State} (h : t.zoa = s.zoa) (k : Nat) : t.win k = s.win k := by rw [State.win, h, State.win]

theorem State.win_renewWin_self (s : State) (k : Nat) (w : Window) : (s.renewWin k w).win k = { w with gen := genNext (s.win k).gen } :=
  (State.win_congr (s.renewWin_zoa k w) k).trans (s.win_setWin_self k _)

theorem State.win_renewWin_of_ne (s : State) {k j : Nat} (w : Window) (h : j ≠ k) : (s.renewWin k w).win j = s.win j :=
  (State.win_congr (s.renewWin_zoa k w) j).trans (s.win_setWin_of_ne _ h)

theorem State.win_closeWin_self (s : State) (k : Nat) : (s.closeWin k).win k =
    { owner := (s.win k).owner, ring := (s.win k).ring, gen := genNext (s.win k).gen } := s.win_renewWin_self k _

end Windows

/-! ### The statement -/

/-- Settles O38: a request's clauses by its refusal and its read, a window command's by its denial and its generation. -/
theorem workRequestResults : Obligations.WorkRequestResults := by
  unfold Obligations.WorkRequestResults
  intro r e d s op c i own n
  refine ⟨fun h => ?_, fun h => ?_, fun h => ?_, fun h => ?_, fun h => ?_, fun h => ?_, fun h => ?_, fun h => ?_, fun h => ?_,
    fun hfull hbad => ⟨fun hop => ?_, fun hop => ?_⟩, fun hgo hroom => ⟨fun hst => ?_, fun hst hgot => ?_, fun w hst hgot => ?_⟩,
    State.workRefuse_absent, fun w => State.workRefuse_foreign, fun w hw ho hhost hc hen hprot hon => ?_, s.sendMsg_results,
    fun q hreach hpass hbad htarget hq hother => ?_, fun hgo => ?_,
    fun k w => ⟨s.win_renewWin_self k w, fun j => s.win_renewWin_of_ne w, ?_, ?_⟩⟩
  · rw [exec_zoaWrite, State.workCmd_of_ne h]
  · rw [exec_zoaRead, State.workCmd_of_ne h]
  · rw [exec_fetchAdd, State.workCmd_of_ne h]
  · rw [exec_compareSwap, State.workCmd_of_ne h]
  · rw [exec_zoaSend, State.workCmd_of_ne h]
  · rw [exec_zoaFlush, State.workCmd_of_ne h]
  · rw [exec_winOpen, State.winCmd_of_ne h]
  · rw [exec_winSet, State.winCmd_of_ne h]
  · rw [exec_winClose, State.winCmd_of_ne h]
  · rw [exec_zoaWrite, State.workCmd_of_op hop, State.workEntry_full hfull hbad]
  · rw [exec_zoaFlush, State.workCmd_of_op hop, State.workEntry_full hfull hbad]
  · exact exec_workRequests (t := fun _ => (s.beginEntry r.val).refuseWork r.val i e (s.workRefuse r.val e))
      (fun _ => State.workEntry_refused hgo hroom hst) (fun _ _ => State.workEntry_refused hgo hroom hst)
  · refine ⟨fun hop => ?_, fun hop => ?_⟩
    · rw [exec_zoaWrite, State.workCmd_of_op hop]
      exact congrArg Host.Outcome.next (State.workEntry_failed hgo hroom hst hgot)
    · rw [exec_zoaSend, State.workCmd_of_op hop]
      exact congrArg Host.Outcome.next (State.workEntry_failed hgo hroom hst hgot)
  · intro u m hw
    exact exec_workRequests (t := fun b => u.sendMsg w (m b)) (fun _ => State.workEntry_sent hgo hroom hst hgot hw)
      (fun h1 h5 => State.workEntry_sent hgo hroom hst (.inl (workSrc_of_op h1 h5)) hw)
  · rw [State.workRefuse_own hw ho hhost]
    exact State.refuseMsg_plain (State.ctx_of_wq hw hc hen) hprot hon
  · have hfault (hop : leAt e 0 1 ≠ 0x12) : s.winEntry r.val e = s.ringError r.val ecRange i :=
      State.winEntry_malformed hreach hpass (State.winFault_ring hop hbad htarget hq hother)
    refine ⟨fun hop => ?_, fun hop => ?_⟩
    · rw [exec_winOpen, State.winCmd_of_op hop, hfault (by omega)]
    · rw [exec_winSet, State.winCmd_of_op hop, hfault (by omega)]
  · intro u ix f answer
    refine ⟨fun hdeny => ⟨fun hop => ?_, fun hop => ?_, fun hop => ?_⟩, fun hmay hbusy => ⟨fun hop => ?_, fun hop => ?_⟩,
      fun hmay hfree => ⟨fun hop => ?_, fun hop => ?_⟩, fun hmay hop => ?_⟩
    · rw [exec_winOpen, State.winCmd_of_op hop, State.winEntry_denied hgo rfl hdeny]
    · rw [exec_winSet, State.winCmd_of_op hop, State.winEntry_denied hgo rfl hdeny]
    · rw [exec_winClose, State.winCmd_of_op hop, State.winEntry_denied hgo rfl hdeny]
    · rw [exec_winOpen, State.winCmd_of_op hop, State.winEntry_busy hgo rfl hmay (by omega) hbusy]
    · rw [exec_winSet, State.winCmd_of_op hop, State.winEntry_busy hgo rfl hmay (by omega) hbusy]
    · rw [exec_winOpen, State.winCmd_of_op hop, State.winEntry_renewed hgo rfl hmay (by omega) hfree]
      rfl
    · rw [exec_winSet, State.winCmd_of_op hop, State.winEntry_renewed hgo rfl hmay (by omega) hfree]
      rfl
    · rw [exec_winClose, State.winCmd_of_op hop, State.winEntry_closed hgo rfl hmay hop]
      rfl
  · rw [s.win_closeWin_self k]
  · rw [s.win_closeWin_self k]

end Sys2Proof.Machine
end

section
/-! PROOFS. What the journal leaves as it acts on messages that have become final: the registers of every other domain, and the records
already raised (R381, R382, R384). -/

namespace Sys2Proof.Machine

/-- `t` differs from `s` in no register outside the journal's domain, and every record raised in `s` is raised in `t`. -/
structure JrnOnly (s t : State) : Prop where
  regs : t.regsAt (fun r => r.info.dom != 10) = s.regsAt (fun r => r.info.dom != 10)
  raised : s.cairn.raised ⊆ t.cairn.raised

namespace JrnOnly
variable {s t u : State}

theorem refl (s : State) : JrnOnly s s := ⟨rfl, List.Subset.refl _⟩

theorem trans (h : JrnOnly s t) (h' : JrnOnly t u) : JrnOnly s u := ⟨h'.regs.trans h.regs, List.Subset.trans h.raised h'.raised⟩

theorem of_regs_cairn (hr : t.regs = s.regs) (hc : t.cairn = s.cairn) : JrnOnly s t :=
  ⟨State.regsAt_of_regs hr, by rw [hc]; exact List.Subset.refl _⟩

theorem of_unsent (h : t.unsent = s.unsent) : JrnOnly s t :=
  of_regs_cairn (State.regs_of_unsent h) (State.eq_of_unsent State.cairn (fun _ => rfl) h)

theorem set (s : State) {f : Fld} (hf : f.reg.info.dom = 10) (i v : Nat) : JrnOnly s (s.set f i v) :=
  ⟨s.regsAt_set (by simp [hf]) i v, List.Subset.refl _⟩

theorem cairnRec (s : State) (c : CairnCode) (b : Option Blk) (d : Bytes) : JrnOnly s (s.cairnRec c b d) := by
  obtain ⟨e, he, -, -⟩ := s.cairnRec_raised c b d
  exact ⟨rfl, by rw [he]; exact List.subset_append_left _ _⟩

theorem ite {c : Prop} [Decidable c] (ht : JrnOnly s t) (hu : JrnOnly s u) : JrnOnly s (if c then t else u) := by
  split
  · exact ht
  · exact hu

theorem foldl {α : Type} {f : State → α → State} (h : ∀ v x, JrnOnly v (f v x)) (l : List α) (s : State) : JrnOnly s (l.foldl f s) :=
  foldl_inv (P := JrnOnly s) (fun v x hv => hv.trans (h v x)) l s (refl s)

theorem get (h : JrnOnly s t) {f : Fld} (hf : f.reg.info.dom ≠ 10) (i : Nat) : t.get f i = s.get f i :=
  State.get_of_regsAt h.regs (by simp [hf]) i

end JrnOnly

section Journal
variable (s : State)

theorem State.jFree_jrnOnly (q tag : Nat) : JrnOnly s (s.jFree q tag) := by
  have huntag : JrnOnly s (s.untag q tag) := JrnOnly.set s (f := .jrnQStaOutstanding) (by decide) q _
  rcases s.jFree_cases q tag with h | h <;> rw [h]
  · exact huntag
  · exact huntag.trans ((JrnOnly.set _ (f := .jrnQStaState) (by decide) q 0).trans (JrnOnly.of_regs_cairn rfl rfl))

theorem State.jComplete_jrnOnly (c : JCmd) (status detail blocks : Nat) : JrnOnly s (s.jComplete c status detail blocks) := by
  unfold State.jComplete
  extract_lets a u tail v w jrn x
  have hv : JrnOnly s v := JrnOnly.ite (.of_unsent (s.hostWrite_unsent _ _ _)) (.of_unsent (s.hostWrite_unsent _ _ _))
  have hx : JrnOnly s x := (hv.trans (.of_unsent (v.hostWrite_unsent _ _ _))).trans (.of_regs_cairn rfl rfl)
  exact ((hx.trans (JrnOnly.set x (f := .jrnQDoneDone) (by decide) _ _)).trans (.of_unsent (State.signal_unsent _ _ _))).trans
    (State.jFree_jrnOnly _ _ _)

theorem State.jEnd_jrnOnly (k status detail blocks : Nat) : JrnOnly s (s.jEnd k status detail blocks) := by
  unfold State.jEnd
  split
  · exact .refl s
  next c _ =>
    exact .ite ((JrnOnly.of_regs_cairn rfl rfl : JrnOnly s (s.putJ k _)).trans (State.jComplete_jrnOnly _ _ _ _ _)) (.refl s)

theorem State.jLose_jrnOnly (b p status : Nat) : JrnOnly s (s.jLose b p status) := by
  unfold State.jLose
  extract_lets u was lost v cmds w x
  have hw : JrnOnly s w := (JrnOnly.set s (f := .jrnPeerFailFails) (by decide) p _).trans (.of_regs_cairn rfl rfl)
  have hx : JrnOnly s x := .ite (hw.trans (JrnOnly.set w (f := .jrnPeerStaLost) (by decide) p 1)) hw
  exact .ite hx (hx.trans (.cairnRec x _ _ _))

theorem State.offerFlush_jrnOnly (k b p : Nat) : JrnOnly s (s.offerFlush k b p) := by
  unfold State.offerFlush
  split
  · exact .refl s
  · extract_lets v x st
    refine .ite ?_ (.refl s)
    split
    · exact .of_regs_cairn rfl rfl
    · exact .of_regs_cairn rfl rfl

theorem State.runFlush_jrnOnly (k : Nat) : JrnOnly s (s.runFlush k) := by
  unfold State.runFlush
  split
  · exact .refl s
  · refine .ite (.refl s) (.ite (s.jEnd_jrnOnly _ _ _ _) (.ite (.refl s) (.ite (s.jEnd_jrnOnly _ _ _ _) ?_)))
    exact .foldl (fun t e => .ite (t.offerFlush_jrnOnly _ _ _) (.refl t)) _ s

theorem State.runFua_jrnOnly (k : Nat) : JrnOnly s (s.runFua k) := by
  unfold State.runFua
  split
  · exact .refl s
  · exact .ite (.ite (s.jEnd_jrnOnly _ _ _ _) (.ite (s.jEnd_jrnOnly _ _ _ _) (.refl s))) (.refl s)

theorem State.extNote_jrnOnly (a n holder : Nat) : JrnOnly s (s.extNote a n holder) := .ite (.cairnRec s _ _ _) (.refl s)

theorem State.deliver_jrnOnly (c : JCmd) (haddr n : Nat) (s : State) (i : Nat) : JrnOnly s (s.deliver c haddr n i).1 := by
  induction n generalizing s i with
  | zero => exact .refl s
  | succ n ih =>
    unfold State.deliver
    dsimp only
    split
    · exact s.extNote_jrnOnly _ _ _
    · split
      · exact .of_unsent (s.tryAts_unsent _ _ _)
      · exact (JrnOnly.of_unsent (s.hostWrite_unsent _ _ _)).trans (ih _ _)

theorem State.runRead_jrnOnly (k : Nat) : JrnOnly s (s.runRead k) := by
  unfold State.runRead
  split
  · exact .refl s
  next c _ =>
    refine .ite ?_ (.refl s)
    exact ((JrnOnly.of_regs_cairn rfl rfl : JrnOnly s (s.putJ k _)).trans (State.deliver_jrnOnly _ _ _ _ _)).trans
      (State.jEnd_jrnOnly _ _ _ _ _)

theorem State.stageWrite_jrnOnly (k : Nat) : JrnOnly s (s.stageWrite k) := by
  unfold State.stageWrite
  split
  · exact .refl s
  · extract_lets a n t
    have hread : JrnOnly s t := .of_unsent (s.readHost_unsent _ _ _)
    exact .ite (.ite (hread.trans (.of_regs_cairn rfl rfl)) (hread.trans (t.jEnd_jrnOnly _ _ _ _))) (.refl s)

theorem State.settleOne_jrnOnly (e : Nat × JCmd) : JrnOnly s (s.settleOne e) := by
  unfold State.settleOne
  split
  · exact (s.runFua_jrnOnly _).trans (State.stageWrite_jrnOnly _ _)
  · exact s.runRead_jrnOnly _
  · exact s.runFlush_jrnOnly _
  · exact .refl s

theorem State.noteReps_jrnOnly (q : Nat) (c : JCmd) : JrnOnly s (s.noteReps q c) :=
  .foldl (fun t p => (.of_regs_cairn rfl rfl : JrnOnly t (t.noteCtx q (2 * c.bank + p) (if c.rep p = 4 then 2 else 1)))) _ s

theorem State.noteOver_jrnOnly (e : Nat × JCmd) : JrnOnly s (s.noteOver e) :=
  .ite (JrnOnly.trans (.ite (.refl s) (s.noteReps_jrnOnly _ _)) (State.noteReps_jrnOnly _ _ _)) (.refl s)

theorem State.jSettle_jrnOnly : JrnOnly s s.jSettle := by
  let t := s.jrn.cmds.foldl State.settleOne s
  have hnoted : JrnOnly t (t.jrn.cmds.foldl State.noteOver t) := .foldl State.noteOver_jrnOnly _ t
  rw [State.jSettle_eq, State.jForget_eq]
  exact ((JrnOnly.foldl State.settleOne_jrnOnly _ s).trans hnoted).trans (.of_regs_cairn rfl rfl)

theorem State.jFinal_jrnOnly (tok status : Nat) : JrnOnly s (s.jFinal tok status) := by
  unfold State.jFinal
  extract_lets k v
  split
  · exact .refl s
  next c _ =>
    have hput (d : JCmd) : JrnOnly s (s.putJ k (some d)) := .of_regs_cairn rfl rfl
    exact .ite (.ite (hput _) ((hput _).trans (State.jLose_jrnOnly _ _ _ _))) (.ite (hput _) (.refl s))

theorem State.jrnSettle_jrnOnly : JrnOnly s s.jrnSettle := by
  unfold State.jrnSettle
  refine .ite (.refl s) ?_
  extract_lets l done u
  have hfinal : JrnOnly u (l.foldl (fun v e => v.jFinal e.1 e.2) u) := .foldl (fun v e => v.jFinal_jrnOnly _ _) l u
  have hu : JrnOnly s u := .of_regs_cairn rfl rfl
  exact (hu.trans hfinal).trans (State.jSettle_jrnOnly _)

end Journal

end Sys2Proof.Machine
end

section
/-! PROOFS. The fabric's control: expiries, Δ swaps, sessions, work queues and the twin (R265, R270, R277, R284, R285, R288, R492), and
the statement O40. -/

namespace Sys2Proof.Machine

/-! ### Expiries (R277, R284) -/

section Expiry
variable {s : State} {k : Nat}

theorem State.setZoa_keepsBut (s : State) (z : Zoano) : KeepsBut [.zoa] s { s with zoa := z } := by
  intro p hp
  cases p
  case zoa => exact absurd List.mem_cons_self hp
  all_goals rfl

theorem exec_dedupExpire (src : BitVec 32) (msg : BitVec 48) (s : State) :
    exec (.dedupExpire src msg) s = match SMap.find s.zoa.dups (src.toNat * 2 ^ 48 + msg.toNat) with
      | none => .next s
      | some e => .next (((s.advanceAt e.expire).dropDup (src.toNat * 2 ^ 48 + msg.toNat) e).endBuf (src.toNat * 2 ^ 48 + msg.toNat) e 0x0A) := rfl

theorem State.find_dropDup_self (e : ZEntry) : SMap.find (s.dropDup k e).zoa.dups k = none :=
  SMap.find_put_self s.zoa.dups k none

theorem State.find_dropDup_of_ne (e : ZEntry) {j : Nat} (h : j ≠ k) : SMap.find (s.dropDup k e).zoa.dups j = SMap.find s.zoa.dups j :=
  SMap.find_put_of_ne s.zoa.dups none h

theorem State.get_drop_self (s : State) (f : Fld) (i n : Nat) (hl : f.lo ≤ f.hi) (hh : f.hi < 64) :
    (s.drop f i n).get f i = s.get f i - n := by
  rw [State.drop, s.get_set_self f i _ hl hh]
  exact Nat.mod_eq_of_lt (Nat.lt_of_le_of_lt (Nat.sub_le _ _) (s.get_lt f i))

theorem State.get_dedup_dropDup (s : State) (k : Nat) (e : ZEntry) : (s.dropDup k e).get .zoaStaDedup = s.get .zoaStaDedup - 1 := by
  refine (State.get_set_beside _ (f := .zoaStaAssembly) (g := .zoaStaDedup) _ rfl (by decide) (by decide) (by decide)).trans ?_
  exact State.get_drop_self (s.putDup k none) .zoaStaDedup 0 1 (by decide) (by decide)

theorem State.endBuf_besideRings (s : State) (k : Nat) (e : ZEntry) (st : Nat) : (s.endBuf k e st).besideRings = s.besideRings := by
  unfold State.endBuf
  split
  · rfl
  · exact s.complete_besideRings _ _ _ _

/-- What an entry's end leaves, its buffer's completion among it. -/
theorem State.expireDup_results (s : State) (k : Nat) (e : ZEntry) : let t := (s.dropDup k e).endBuf k e 0x0A
    SMap.find t.zoa.dups k = none ∧ t.get .zoaStaDedup = s.get .zoaStaDedup - 1 ∧
      ∀ j, j ≠ k → SMap.find t.zoa.dups j = SMap.find s.zoa.dups j := by
  have hend := (s.dropDup k e).endBuf_besideRings k e 0x0A
  dsimp only
  rw [State.zoa_of_besideRings hend, State.get_of_besideRings hend (f := .zoaStaDedup) (by decide)]
  exact ⟨s.find_dropDup_self e, s.get_dedup_dropDup k e, fun j => s.find_dropDup_of_ne e⟩

theorem exec_quarantineEnd_reached (hon : s.is .zoaStaQuarantine = true) (h : 0 ≤ ltDiff s.lt (s.reg .zoaQuarEnd 0)) :
    exec .quarantineEnd s = .next (s.set .zoaStaQuarantine 0 0) := by
  have hdef : exec .quarantineEnd s = execQuarantineEnd s := rfl
  rw [hdef, execQuarantineEnd, if_pos hon]
  dsimp only
  rw [s.advanceTo_of_reached h, ltReached, if_pos (decide_eq_true h)]

end Expiry

/-! ### Δ swaps (R285, R492) -/

section Delta
variable {s : State} {target : BitVec 64}

/-- A swap to the other bank's code may be armed: its instant is in range, none is pending, and the twin watch suits the code. -/
def State.deltaArms (s : State) (target : BitVec 64) : Prop :=
  65536000 ≤ ltDiff target s.lt ∧ ltDiff target s.lt < 2 ^ 62 ∧ s.is .zoaStaSwapPending = false ∧
    (s.is .zoaTwinCfgEn = false ∨
      s.get .zoaDeltaDelta (1 - s.get .zoaStaBank) * 20000 + 1000000 ≤ (s.get .zoaTwinCfgMiss - 1) * 1048576)

/-- A swap is armed. -/
def State.deltaArmed (s : State) (target : BitVec 64) : State :=
  let u := (s.set .zoaStaSwapPending 0 1).set .zoaStaSwapRefused 0 0
  { u with zoa := { u.zoa with deltaTarget := some target } }

theorem State.deltaArms_iff (s : State) (target : BitVec 64) : (s.armTime target true && !s.is .zoaStaSwapPending &&
    (!s.is .zoaTwinCfgEn || missOk (s.get .zoaTwinCfgMiss) (s.get .zoaDeltaDelta (1 - s.get .zoaStaBank)))) = true ↔
    s.deltaArms target := by
  simp [State.armTime, State.deltaArms, missOk, and_assoc]

theorem exec_zoaDeltaSwap_armed (h : s.deltaArms target) : exec (.zoaDeltaSwap target) s = .next (s.deltaArmed target) := by
  have hdef : exec (.zoaDeltaSwap target) s = .next (s.armDelta target) := rfl
  rw [hdef]
  exact congrArg Host.Outcome.next (if_pos ((s.deltaArms_iff target).2 h))

theorem exec_zoaDeltaSwap_refused (h : ¬s.deltaArms target) : exec (.zoaDeltaSwap target) s = .next (s.set .zoaStaSwapRefused 0 1) := by
  have hdef : exec (.zoaDeltaSwap target) s = .next (s.armDelta target) := rfl
  rw [hdef]
  exact congrArg Host.Outcome.next (if_neg (fun hc => h ((s.deltaArms_iff target).1 hc)))

theorem State.deltaArmed_results (s : State) (target : BitVec 64) : let t := s.deltaArmed target
    t.get .zoaStaSwapPending = 1 ∧ t.get .zoaStaSwapRefused = 0 ∧ t.zoa.deltaTarget = some target ∧ RegsBut [(.zoaSta, 0)] s t ∧
      KeepsBut [.regs, .zoa] s t := by
  let u := (s.set .zoaStaSwapPending 0 1).set .zoaStaSwapRefused 0 0
  have hpending : u.get .zoaStaSwapPending = 1 :=
    (State.get_set_beside _ (f := .zoaStaSwapRefused) (g := .zoaStaSwapPending) 0 rfl (by decide) (by decide) (by decide)).trans
      (s.get_set_self .zoaStaSwapPending 0 1 (by decide) (by decide))
  have hkeeps : KeepsBut [.regs] s u := State.set_keepsBut_of_mem _ _ _ (s.set_keepsBut .zoaStaSwapPending 0 1) (by decide)
  have hrefused : u.get .zoaStaSwapRefused = 0 := State.get_set_self _ .zoaStaSwapRefused 0 0 (by decide) (by decide)
  have hregs : RegsBut [(.zoaSta, 0)] s u := State.set_regsBut_of_mem 0 (s.set_regsBut .zoaStaSwapPending 0 1) (by decide)
  exact ⟨hpending, hrefused, rfl, hregs, (hkeeps.mono (by simp)).trans ((u.setZoa_keepsBut _).mono (by simp))⟩

/-- The Δ banks exchanged and no swap pending; with forerunner behaviour the code is copied. -/
def State.exchangeDelta (s : State) : State :=
  let u := (s.set .zoaStaBank 0 (1 - s.get .zoaStaBank)).set .zoaStaSwapPending 0 0
  if u.forerunner then u.copyRegs [.zoaDelta] (1 - s.get .zoaStaBank) (s.get .zoaStaBank) else u

/-- The old code is kept for 5/4 of it after the swap's instant. -/
def State.keepDelta (s : State) (code : Nat) (at_ : BitVec 64) : State :=
  { s with zoa := { s.zoa with deltaTarget := none,
                               oldDelta := s.zoa.oldDelta ++ [(code, s.elapsed - (ltDiff s.lt at_).toNat + fiveQuarters code)] } }

theorem exec_deltaSwapAt_none (h : s.zoa.deltaTarget = none) : exec .deltaSwapAt s = .next s := by
  have hdef : exec .deltaSwapAt s = execDeltaSwapAt s := rfl
  rw [hdef, execDeltaSwapAt, h]

theorem exec_deltaSwapAt_reached (h : s.zoa.deltaTarget = some target) (hreached : 0 ≤ ltDiff s.lt target) :
    exec .deltaSwapAt s = .next (s.exchangeDelta.keepDelta s.deltaCode target) := by
  have hdef : exec .deltaSwapAt s = execDeltaSwapAt s := rfl
  rw [hdef, execDeltaSwapAt, h]
  dsimp only
  rw [s.advanceTo_of_reached hreached]
  rfl

theorem State.exchangeDelta_results (s : State) : s.exchangeDelta.get .zoaStaBank = 1 - s.get .zoaStaBank ∧
    s.exchangeDelta.get .zoaStaSwapPending = 0 ∧ KeepsBut [.regs] s s.exchangeDelta := by
  let u := (s.set .zoaStaBank 0 (1 - s.get .zoaStaBank)).set .zoaStaSwapPending 0 0
  have hbank : u.get .zoaStaBank = 1 - s.get .zoaStaBank := by
    have hset : u.get .zoaStaBank = (1 - s.get .zoaStaBank) % 2 :=
      (State.get_set_beside _ (f := .zoaStaSwapPending) (g := .zoaStaBank) 0 rfl (by decide) (by decide) (by decide)).trans
        (s.get_set_self .zoaStaBank 0 (1 - s.get .zoaStaBank) (by decide) (by decide))
    omega
  have hpending : u.get .zoaStaSwapPending = 0 := State.get_set_self _ .zoaStaSwapPending 0 0 (by decide) (by decide)
  have hkeeps : KeepsBut [.regs] s u := State.set_keepsBut_of_mem _ _ _ (s.set_keepsBut .zoaStaBank 0 _) (by decide)
  unfold State.exchangeDelta
  dsimp only
  split
  · let y := u.copyRegs [.zoaDelta] (1 - s.get .zoaStaBank) (s.get .zoaStaBank)
    have hget (f : Fld) (hf : f.reg = .zoaSta) : y.get f = u.get f := by
      rw [State.get, State.get, hf, u.copyRegs_reg (rs := [.zoaDelta]) (by decide)]
    have hy : KeepsBut [.regs] u y := by
      unfold y State.copyRegs
      exact foldl_keepsBut (fun t r => t.setReg_keepsBut _ _ _) _ u
    exact ⟨(hget .zoaStaBank rfl).trans hbank, (hget .zoaStaSwapPending rfl).trans hpending, hkeeps.trans hy⟩
  · exact ⟨hbank, hpending, hkeeps⟩

theorem State.oldDelta_swapped (s : State) (at_ : BitVec 64) : (s.exchangeDelta.keepDelta s.deltaCode at_).zoa.oldDelta =
    s.zoa.oldDelta ++ [(s.deltaCode, s.elapsed - (ltDiff s.lt at_).toNat + fiveQuarters s.deltaCode)] := by
  obtain ⟨-, -, hkeeps⟩ := s.exchangeDelta_results
  have hzoa : s.exchangeDelta.zoa = s.zoa := hkeeps .zoa (by decide)
  have hcrest : s.exchangeDelta.crest = s.crest := hkeeps .crest (by decide)
  simp only [State.keepDelta, hzoa, State.elapsed, State.lt, hcrest]

/-- The first end of old codes comes no later than any one's. -/
theorem foldl_min_le (l : List (Nat × Nat)) (a : Nat) :
    l.foldl (fun a x => min a x.2) a ≤ a ∧ ∀ x ∈ l, l.foldl (fun a x => min a x.2) a ≤ x.2 := by
  induction l generalizing a with
  | nil => exact ⟨le_refl a, fun _ h => absurd h List.not_mem_nil⟩
  | cons x l ih =>
    obtain ⟨hhead, htail⟩ := ih (min a x.2)
    refine ⟨hhead.trans (min_le_left _ _), fun y hy => ?_⟩
    rcases List.mem_cons.1 hy with rfl | hy
    · exact hhead.trans (min_le_right _ _)
    · exact htail y hy

/-- The old codes whose time is up are no longer kept. -/
def State.dropOldDelta (s : State) : State :=
  { s with zoa := { s.zoa with oldDelta := s.zoa.oldDelta.filter (fun o => decide (s.elapsed < o.2)) } }

theorem exec_oldDeltaExpire_none (h : s.zoa.oldDelta = []) : exec .oldDeltaExpire s = .next s := by
  have hdef : exec .oldDeltaExpire s = execOldDeltaExpire s := rfl
  rw [hdef, execOldDeltaExpire, h]

theorem exec_oldDeltaExpire_due (h : ∃ y ∈ s.zoa.oldDelta, y.2 ≤ s.elapsed) : exec .oldDeltaExpire s = .next s.dropOldDelta := by
  have hdef : exec .oldDeltaExpire s = execOldDeltaExpire s := rfl
  obtain ⟨y, hy, hdue⟩ := h
  rw [hdef, execOldDeltaExpire]
  split
  next hnil => rw [hnil] at hy; exact absurd hy List.not_mem_nil
  next c t l hcons =>
    have hfirst : l.foldl (fun a x => min a x.2) t ≤ s.elapsed := by
      obtain ⟨hhead, htail⟩ := foldl_min_le l t
      rw [hcons] at hy
      rcases List.mem_cons.1 hy with rfl | hy
      · exact hhead.trans hdue
      · exact (htail y hy).trans hdue
    dsimp only
    rw [s.advanceAt_of_reached hfirst, State.dropOldDelta]

theorem State.deltaHonoured_dropOldDelta (s : State) (c : Nat) : s.dropOldDelta.deltaHonoured c = s.deltaHonoured c := by
  have hany : (s.zoa.oldDelta.filter (fun o => decide (s.elapsed < o.2))).any (fun o => c == o.1 && decide (s.elapsed < o.2)) =
      s.zoa.oldDelta.any (fun o => c == o.1 && decide (s.elapsed < o.2)) := by
    rw [List.any_filter]
    congr 1
    funext o
    cases decide (s.elapsed < o.2) <;> simp
  rw [State.deltaHonoured, State.deltaHonoured, ← hany]
  rfl

end Delta

/-! ### Sessions (R265) -/

section Session
variable {s : State}

/-- The fabric on with its next session. -/
def State.nextSession (s : State) : State :=
  let u : State := { s with zoa := { s.zoa with sessions := s.zoa.sessions + 1, nextId := 0 } }
  (u.set .zoaCfgEn 0 1).set .zoaStaSession 0 (s.zoa.sessions + 1)

theorem exec_zoaEnable (s : State) : exec .zoaEnable s = .next (if s.is .zoaCfgEn then s else s.nextSession) := rfl

theorem State.nextSession_results (s : State) : let t := s.nextSession
    t.get .zoaCfgEn = 1 ∧ t.zoa.nextId = 0 ∧ t.zoa.sessions = s.zoa.sessions + 1 ∧
      t.get .zoaStaSession = (s.zoa.sessions + 1) % 2 ^ 14 ∧ RegsBut [(.zoaCfg, 0), (.zoaSta, 0)] s t ∧ KeepsBut [.regs, .zoa] s t := by
  let u : State := { s with zoa := { s.zoa with sessions := s.zoa.sessions + 1, nextId := 0 } }
  have hen : (u.set .zoaCfgEn 0 1).get .zoaCfgEn = 1 := u.get_set_self .zoaCfgEn 0 1 (by decide) (by decide)
  have hkeeps : KeepsBut [.regs, .zoa] s u := (s.setZoa_keepsBut _).mono (by simp)
  have hregs : RegsBut [(.zoaCfg, 0), (.zoaSta, 0)] s u := fun _ _ _ => rfl
  exact ⟨(State.get_set_of_ne _ (f := .zoaStaSession) (g := .zoaCfgEn) _ (.inl (by decide))).trans hen, rfl, rfl,
    State.get_set_self _ .zoaStaSession 0 _ (by decide) (by decide),
    State.set_regsBut_of_mem _ (State.set_regsBut_of_mem _ hregs (by simp)) (by simp),
    State.set_keepsBut_of_mem _ _ _ (State.set_keepsBut_of_mem _ _ _ hkeeps (by simp)) (by simp)⟩

end Session

/-! ### Work queues (R270) -/

section Queue
variable {s : State} {f c : Nat} {b : Bytes}

/-- The status of WQ_CREATE from an open mailbox. -/
def State.wqStatus (s : State) (f : Nat) (b : Bytes) : Nat :=
  if wqShapeBad b ∨ 4096 ≤ leAt b 0 2 ∨ 4 ≤ leAt b 3 1 then 1
  else if !s.wqGranted f (leAt b 0 2) (wqOf b) then 2
  else if (SMap.find s.zoa.wqs (leAt b 0 2)).any (fun q => q.en) then 5
  else if !s.wqFits (wqOf b) then 6
  else 0

/-- A context is stored, and nothing is left of what its queue held before. -/
def State.storeWq (s : State) (c : Nat) (w : Wq) : State :=
  { s with zoa := { s.zoa with wqs := SMap.put s.zoa.wqs c (some w), cursor := SMap.put s.zoa.cursor c none,
                               pace := SMap.put s.zoa.pace c none, fails := SMap.put s.zoa.fails c none } }

theorem exec_wqCreate {f : Fn} {seq : BitVec 32} (h : s.maySubmit f.val seq) : exec (.wqCreate f seq b) s =
    let u := s.accept f.val seq 0x14
    .next (if u.wqStatus f.val b ≠ 0 then u.reply f.val 0x14 (u.wqStatus f.val b) 0 []
      else ((u.storeWq (leAt b 0 2) (wqOf b)).enterService ⟨.workQueue, leAt b 0 2⟩).reply f.val 0x14 0 0 []) := by
  have hdef := s.submit_of_maySubmit h 0x14 false
  have hexec : exec (.wqCreate f seq b) s = .next (s.submit f.val seq 0x14 false _) := rfl
  rw [hexec, hdef]
  rfl

theorem exec_wqCreate_refused {f : Fn} {seq : BitVec 32} (h : s.maySubmit f.val seq) {st : Nat}
    (hst : (s.accept f.val seq 0x14).wqStatus f.val b = st) (hne : st ≠ 0) :
    exec (.wqCreate f seq b) s = .next ((s.accept f.val seq 0x14).reply f.val 0x14 st 0 []) := by
  rw [exec_wqCreate h]
  dsimp only
  rw [hst, if_pos hne]

section Status
variable (hgood : ¬(wqShapeBad b = true ∨ 4096 ≤ leAt b 0 2 ∨ 4 ≤ leAt b 3 1))
include hgood

theorem State.wqStatus_denied (h : s.wqGranted f (leAt b 0 2) (wqOf b) = false) : s.wqStatus f b = 2 := by
  rw [State.wqStatus, if_neg hgood, h]
  rfl

variable (hgrant : s.wqGranted f (leAt b 0 2) (wqOf b) = true)
include hgrant

theorem State.wqStatus_used (h : (SMap.find s.zoa.wqs (leAt b 0 2)).any (fun q => q.en) = true) : s.wqStatus f b = 5 := by
  rw [State.wqStatus, if_neg hgood, if_neg (by rw [hgrant]; decide), if_pos h]

theorem State.wqStatus_fits (h : ¬(SMap.find s.zoa.wqs (leAt b 0 2)).any (fun q => q.en) = true) :
    s.wqStatus f b = if s.wqFits (wqOf b) then 0 else 6 := by
  rw [State.wqStatus, if_neg hgood, if_neg (by rw [hgrant]; decide), if_neg h]
  cases s.wqFits (wqOf b) <;> rfl

end Status

/-- What a stored context's queue is once it has entered service and the command is answered. -/
theorem State.createdWq_results {u : State} (hbox : (u.box f).pending = true) (w : Wq) :
    let t := ((u.storeWq c w).enterService ⟨.workQueue, c⟩).reply f 0x14 0 0 []
    SMap.find t.zoa.wqs c = some w ∧ t.blkState ⟨.workQueue, c⟩ = 2 ∧
      t.blkInc ⟨.workQueue, c⟩ = incNext (u.blkInc ⟨.workQueue, c⟩) % 2 ^ 16 ∧ (t.box f).pending = false ∧ leAt (t.box f).reply 2 1 = 0 := by
  let v := (u.storeWq c w).enterService ⟨.workQueue, c⟩
  have hv := (u.storeWq c w).enterService_keepsBut (b := ⟨.workQueue, c⟩) (.inr rfl)
  have hboxv : (v.box f).pending = true := by
    rw [State.box, (hv .ten (by decide) : v.ten = _)]
    exact hbox
  obtain ⟨hdone, -, hreply⟩ := v.box_reply f 0x14 0 0 [] hboxv
  have hkeeps := v.reply_keepsBut f 0x14 0 0 []
  refine ⟨?_, ?_, ?_, hdone, by rw [hreply]; decide⟩
  · rw [(hkeeps .zoa (by decide) : _ = v.zoa), (hv .zoa (by decide) : v.zoa = _)]
    exact SMap.find_put_self u.zoa.wqs c (some w)
  · rw [State.blkState_congr (hkeeps .blkSt (by decide))]
    exact State.blkState_enterService_self _ _
  · rw [State.blkInc_congr rfl (hkeeps .incs (by decide))]
    exact State.blkInc_enterService_self _ _

/-- A context is gone. -/
def State.removeWq (s : State) (c : Nat) : State := { s with zoa := { s.zoa with wqs := SMap.put s.zoa.wqs c none } }

/-- The status of WQ_DESTROY from an open mailbox. -/
def State.unwqStatus (s : State) (f : Nat) (b : Bytes) : Nat :=
  if b.length ≠ 2 ∨ 4096 ≤ leAt b 0 2 then 1
  else if s.ownerOf ⟨.workQueue, leAt b 0 2⟩ ≠ f then 2
  else if (SMap.find s.zoa.wqs (leAt b 0 2)).isNone then 5
  else if !(s.msgsOf (leAt b 0 2)).isEmpty then 3
  else 0

theorem exec_wqDestroy {f : Fn} {seq : BitVec 32} (h : s.maySubmit f.val seq) : exec (.wqDestroy f seq b) s =
    let u := s.accept f.val seq 0x15
    .next (if u.unwqStatus f.val b ≠ 0 then u.reply f.val 0x15 (u.unwqStatus f.val b) 0 []
      else ((u.removeWq (leAt b 0 2)).leaveService ⟨.workQueue, leAt b 0 2⟩).reply f.val 0x15 0 0 []) := by
  have hexec : exec (.wqDestroy f seq b) s = .next (s.submit f.val seq 0x15 false _) := rfl
  rw [hexec, s.submit_of_maySubmit h 0x15 false]
  dsimp only
  refine congrArg Host.Outcome.next ((if_neg (by simp)).trans ?_)
  unfold State.unwqStatus
  split
  · rfl
  · split
    · rfl
    · split
      · rfl
      · split
        · rfl
        · rfl

theorem exec_wqDestroy_refused {f : Fn} {seq : BitVec 32} (h : s.maySubmit f.val seq) {st : Nat}
    (hst : (s.accept f.val seq 0x15).unwqStatus f.val b = st) (hne : st ≠ 0) :
    exec (.wqDestroy f seq b) s = .next ((s.accept f.val seq 0x15).reply f.val 0x15 st 0 []) := by
  rw [exec_wqDestroy h]
  dsimp only
  rw [hst, if_pos hne]

section Unstatus
variable (hgood : ¬(b.length ≠ 2 ∨ 4096 ≤ leAt b 0 2))
include hgood

theorem State.unwqStatus_denied (h : s.ownerOf ⟨.workQueue, leAt b 0 2⟩ ≠ f) : s.unwqStatus f b = 2 := by
  rw [State.unwqStatus, if_neg hgood, if_pos h]

variable (hown : s.ownerOf ⟨.workQueue, leAt b 0 2⟩ = f)
include hown

theorem State.unwqStatus_absent (h : SMap.find s.zoa.wqs (leAt b 0 2) = none) : s.unwqStatus f b = 5 := by
  rw [State.unwqStatus, if_neg hgood, if_neg (not_not.2 hown), if_pos (by rw [h]; rfl)]

variable (hthere : SMap.find s.zoa.wqs (leAt b 0 2) ≠ none)
include hthere

theorem State.unwqStatus_busy (h : s.msgsOf (leAt b 0 2) ≠ []) : s.unwqStatus f b = 3 := by
  rw [State.unwqStatus, if_neg hgood, if_neg (not_not.2 hown), if_neg (by simpa using hthere), if_pos (by simpa using h)]

theorem State.unwqStatus_idle (h : s.msgsOf (leAt b 0 2) = []) : s.unwqStatus f b = 0 := by
  rw [State.unwqStatus, if_neg hgood, if_neg (not_not.2 hown), if_neg (by simpa using hthere), if_neg (by simp [h])]

end Unstatus

/-- What a removed context's queue is once it has left service and the command is answered. -/
theorem State.removedWq_results {u : State} (hbox : (u.box f).pending = true) :
    let t := ((u.removeWq c).leaveService ⟨.workQueue, c⟩).reply f 0x15 0 0 []
    SMap.find t.zoa.wqs c = none ∧ t.blkState ⟨.workQueue, c⟩ = 1 ∧ (t.box f).pending = false ∧ leAt (t.box f).reply 2 1 = 0 := by
  let v := (u.removeWq c).leaveService ⟨.workQueue, c⟩
  obtain ⟨hdone, -, hreply⟩ := v.box_reply f 0x15 0 0 [] hbox
  have hkeeps := v.reply_keepsBut f 0x15 0 0 []
  refine ⟨?_, ?_, hdone, by rw [hreply]; decide⟩
  · rw [(hkeeps .zoa (by decide) : _ = v.zoa)]
    exact SMap.find_put_self u.zoa.wqs c none
  · rw [State.blkState_congr (hkeeps .blkSt (by decide))]
    exact State.blkState_leaveService_self _ _

end Queue

/-! ### The twin (R288) -/

section Twin
variable {s : State}

/-- A window that is renewed changes no register but the compare units' references, which a wrap corrects. -/
theorem State.renewWin_regsAt (s : State) (k : Nat) (w : Window) :
    (s.renewWin k w).regsAt (fun r => r != .crestCmpRef) = s.regsAt (fun r => r != .crestCmpRef) := by
  rw [State.renewWin_eq]
  split
  · exact State.enterService_regsAt (s.issueWin k w) ⟨.window, k⟩ (by decide) (fun f hf => nomatch hf)
  · rfl

theorem State.get_renewWin (s : State) (k : Nat) (w : Window) {f : Fld} (hf : f.reg ≠ .crestCmpRef) (i : Nat) :
    (s.renewWin k w).get f i = s.get f i := State.get_of_regsAt (s.renewWin_regsAt k w) (by simpa using hf) i

/-- The twin window renewed: shown under its new key. -/
def State.showTwin (s : State) (i : Nat) : State := s.set .zoaTwinStaKey 0 (i * 256 + (s.win i).gen)

/-- Twin watch on: its window is open and clear, and its count of epochs begins. -/
def State.twinOn (s : State) (i : Nat) : State :=
  let u := (s.set .zoaTwinCfgEn 0 1).renewWin i twinRec
  ({ u with zoa := { u.zoa with twin := List.replicate 64 0, twinSeen := u.epoch } } : State).showTwin i

/-- Twin watch off: its window is closed. -/
def State.twinOff (s : State) (i : Nat) : State := ((s.set .zoaTwinCfgEn 0 0).closeWin i).showTwin i

theorem exec_twinWatchEnable_on (s : State) : exec (.twinWatchEnable true) s =
    .next (if s.is .zoaTwinCfgEn then s else if s.twinOk then s.twinOn (s.get .zoaTwinWinWin) else s.ignDomain 6) := rfl

theorem exec_twinWatchEnable_off (s : State) : exec (.twinWatchEnable false) s =
    .next (if s.is .zoaTwinCfgEn then s.twinOff (s.get .zoaTwinWinWin) else s) := rfl

theorem State.get_showTwin_self (s : State) (i : Nat) :
    (s.showTwin i).get .zoaTwinStaKey = (i * 256 + (s.win i).gen) % 2 ^ 32 := s.get_set_self .zoaTwinStaKey 0 _ (by decide) (by decide)

theorem State.get_showTwin_of_ne (s : State) (i : Nat) {f : Fld} (hf : f.reg ≠ .zoaTwinSta) : (s.showTwin i).get f = s.get f :=
  s.get_set_of_ne (f := .zoaTwinStaKey) _ (.inl hf)

theorem State.epoch_renewWin (s : State) (k : Nat) (w : Window) : (s.renewWin k w).epoch = s.epoch := by
  have hcrest : (s.renewWin k w).crest = s.crest := by
    rw [State.renewWin_eq]
    split
    · exact State.enterService_keepsBut (s.issueWin k w) (b := ⟨.window, k⟩) (.inl rfl) .crest (by decide)
    · rfl
  rw [State.epoch, hcrest, State.epoch]

theorem State.twinOn_results (s : State) (i : Nat) : let t := s.twinOn i
    t.get .zoaTwinCfgEn = 1 ∧ t.win i = { twinRec with gen := genNext (s.win i).gen } ∧ t.zoa.twin = List.replicate 64 0 ∧
      t.zoa.twinSeen = s.epoch ∧ t.get .zoaTwinStaKey = (i * 256 + genNext (s.win i).gen) % 2 ^ 32 := by
  let u := (s.set .zoaTwinCfgEn 0 1).renewWin i twinRec
  let v : State := { u with zoa := { u.zoa with twin := List.replicate 64 0, twinSeen := u.epoch } }
  have hwin : v.win i = { twinRec with gen := genNext (s.win i).gen } := (s.set .zoaTwinCfgEn 0 1).win_renewWin_self i twinRec
  have hen : v.get .zoaTwinCfgEn = 1 := ((s.set .zoaTwinCfgEn 0 1).get_renewWin i twinRec (by decide) 0).trans
    (s.get_set_self .zoaTwinCfgEn 0 1 (by decide) (by decide))
  refine ⟨(v.get_showTwin_of_ne i (by decide)).trans hen, hwin, rfl, (s.set .zoaTwinCfgEn 0 1).epoch_renewWin i twinRec, ?_⟩
  refine (v.get_showTwin_self i).trans ?_
  rw [hwin]

theorem State.twinOff_results (s : State) (i : Nat) : let t := s.twinOff i
    t.get .zoaTwinCfgEn = 0 ∧ (t.win i).opened = false ∧ (t.win i).gen = genNext (s.win i).gen ∧
      t.get .zoaTwinStaKey = (i * 256 + genNext (s.win i).gen) % 2 ^ 32 := by
  let u := (s.set .zoaTwinCfgEn 0 0).closeWin i
  have hwin : u.win i = { owner := (s.win i).owner, ring := (s.win i).ring, gen := genNext (s.win i).gen } :=
    (s.set .zoaTwinCfgEn 0 0).win_closeWin_self i
  have hshown : (s.twinOff i).win i = u.win i := rfl
  have hen : u.get .zoaTwinCfgEn = 0 := ((s.set .zoaTwinCfgEn 0 0).get_renewWin i _ (by decide) 0).trans
    (s.get_set_self .zoaTwinCfgEn 0 0 (by decide) (by decide))
  refine ⟨(u.get_showTwin_of_ne i (by decide)).trans hen, by rw [hshown, hwin], by rw [hshown, hwin], ?_⟩
  refine (u.get_showTwin_self i).trans ?_
  rw [hwin]

/-- The node that the twin context names. -/
def State.twinNode (s : State) : Nat :=
  match s.ctx? ctxTwin with
  | some w => w.node
  | none => 0

/-- The twin is lost: shown and recorded. -/
def State.noteTwinLost (s : State) : State :=
  (s.set .zoaTwinStaLost 0 1).cairnRec .twinLost (some ⟨.window, s.get .zoaTwinWinWin⟩) (leBytes s.twinNode 4)

theorem exec_twinLost_idle (h : s.is .zoaTwinCfgEn = false ∨ s.is .zoaTwinStaLost = true) : exec .twinLost s = .next s := by
  have hdef : exec .twinLost s = execTwinLost s := rfl
  rw [hdef, execTwinLost, if_neg (by rcases h with h | h <;> simp [h])]

theorem exec_twinLost_due (hon : s.is .zoaTwinCfgEn = true) (hheard : s.is .zoaTwinStaLost = false)
    (hdue : (s.zoa.twinSeen + s.get .zoaTwinCfgMiss) * epochUnits ≤ s.elapsed) :
    exec .twinLost s = .next ((s.noteTwinLost.signal 0 (s.noteTwinLost.get .zoaTwinWinVec)).jrnSettle) := by
  have hdef : exec .twinLost s = execTwinLost s := rfl
  rw [hdef, execTwinLost, if_pos (by rw [hon, hheard]; rfl)]
  dsimp only
  rw [s.advanceAt_of_reached hdue]
  rfl

/-- The signal and what the journal has to settle leave the twin lost and its record. -/
theorem State.noteTwinLost_settled (s : State) (vec : Nat) : let t := (s.noteTwinLost.signal 0 vec).jrnSettle
    t.get .zoaTwinStaLost = 1 ∧ ∃ e ∈ t.cairn.raised, e.code = .twinLost := by
  have hkeeps : JrnOnly s.noteTwinLost (s.noteTwinLost.signal 0 vec).jrnSettle :=
    (JrnOnly.of_unsent (s.noteTwinLost.signal_unsent 0 vec)).trans (State.jrnSettle_jrnOnly _)
  obtain ⟨e, hcairn, hcode, -⟩ := (s.set .zoaTwinStaLost 0 1).cairnRec_raised .twinLost (some ⟨.window, s.get .zoaTwinWinWin⟩)
    (leBytes s.twinNode 4)
  have hraised : e ∈ s.noteTwinLost.cairn.raised := by
    rw [(congrArg Cairn.raised hcairn : s.noteTwinLost.cairn.raised = _)]
    simp
  exact ⟨(hkeeps.get (f := .zoaTwinStaLost) (by decide) 0).trans (s.get_set_self .zoaTwinStaLost 0 1 (by decide) (by decide)),
    e, hkeeps.raised hraised, hcode⟩

end Twin

/-! ### The statement -/

/-- Settles O40: each command's clauses are its own lemmas'. -/
theorem fabricControlResults : Obligations.FabricControlResults := by
  unfold Obligations.FabricControlResults
  intro src msg target f seq b s k
  refine ⟨fun h => ?_, fun e h hdue => ?_, fun h => ?_, fun hon hdue => ?_, ⟨fun hok => ?_, fun hno => ?_⟩, exec_deltaSwapAt_none,
    fun x h hdue => ?_, exec_oldDeltaExpire_none, fun hdue => ?_, fun h => ?_, fun h => ?_, fun hgo => ⟨?_, ?_⟩, fun h => ?_, fun h => ?_,
    ⟨fun hoff hno => ?_, fun hoff hok => ?_, fun hon => ?_⟩, exec_twinLost_idle, fun hon hheard hdue => ?_⟩
  · rw [exec_dedupExpire, h]
  · refine ⟨(s.dropDup k e).endBuf k e 0x0A, ?_, ?_⟩
    · rw [exec_dedupExpire, h]
      dsimp only
      rw [s.advanceAt_of_reached hdue]
    · obtain ⟨hgone, hcount, hothers⟩ := s.expireDup_results k e
      exact ⟨hgone, hcount, hothers, rfl⟩
  · have hdef : exec .quarantineEnd s = execQuarantineEnd s := rfl
    rw [hdef, execQuarantineEnd, if_neg (by rw [h]; decide)]
  · exact ⟨_, exec_quarantineEnd_reached hon hdue, s.get_set_self .zoaStaQuarantine 0 0 (by decide) (by decide),
      s.set_regsBut .zoaStaQuarantine 0 0, s.set_keepsBut .zoaStaQuarantine 0 0⟩
  · exact ⟨_, exec_zoaDeltaSwap_armed hok, s.deltaArmed_results target⟩
  · exact ⟨_, exec_zoaDeltaSwap_refused hno, s.get_set_self .zoaStaSwapRefused 0 1 (by decide) (by decide),
      s.set_regsBut .zoaStaSwapRefused 0 1, s.set_keepsBut .zoaStaSwapRefused 0 1⟩
  · obtain ⟨hbank, hpending, -⟩ := s.exchangeDelta_results
    exact ⟨_, exec_deltaSwapAt_reached h hdue, hbank, hpending, rfl, s.oldDelta_swapped x⟩
  · exact ⟨_, exec_oldDeltaExpire_due hdue, rfl, s.deltaHonoured_dropOldDelta, s.setZoa_keepsBut _⟩
  · rw [exec_zoaEnable, if_pos h]
  · exact ⟨s.nextSession, by rw [exec_zoaEnable, if_neg (by rw [h]; decide)], s.nextSession_results⟩
  · intro u c w bad used
    refine ⟨fun hbad => ?_, fun hgood hdeny => ?_, fun hgood hgrant hused => ?_, fun hgood hgrant hfree hsmall => ?_,
      fun hgood hgrant hfree hfits => ?_⟩
    · exact exec_wqCreate_refused hgo (if_pos hbad) (by decide)
    · exact exec_wqCreate_refused hgo (State.wqStatus_denied hgood hdeny) (by decide)
    · exact exec_wqCreate_refused hgo (State.wqStatus_used hgood hgrant hused) (by decide)
    · exact exec_wqCreate_refused hgo ((State.wqStatus_fits hgood hgrant hfree).trans (if_neg (by rw [show u.wqFits w = _ from hsmall]; decide)))
        (by decide)
    · have hst : u.wqStatus f.val b = 0 := (State.wqStatus_fits hgood hgrant hfree).trans (if_pos hfits)
      refine ⟨_, (exec_wqCreate hgo).trans (congrArg Host.Outcome.next (if_neg (not_not.2 hst))), ?_⟩
      exact State.createdWq_results (s.box_accept f.val seq 0x14) w
  · intro u c bad
    refine ⟨fun hbad => ?_, fun hgood hdeny => ?_, fun hgood hown hnone => ?_, fun hgood hown hthere hbusy => ?_,
      fun hgood hown hthere hidle => ?_⟩
    · exact exec_wqDestroy_refused hgo (if_pos hbad) (by decide)
    · exact exec_wqDestroy_refused hgo (State.unwqStatus_denied hgood hdeny) (by decide)
    · exact exec_wqDestroy_refused hgo (State.unwqStatus_absent hgood hown hnone) (by decide)
    · exact exec_wqDestroy_refused hgo (State.unwqStatus_busy hgood hown hthere hbusy) (by decide)
    · have hst : u.unwqStatus f.val b = 0 := State.unwqStatus_idle hgood hown hthere hidle
      refine ⟨_, (exec_wqDestroy hgo).trans (congrArg Host.Outcome.next (if_neg (not_not.2 hst))), ?_⟩
      exact State.removedWq_results (s.box_accept f.val seq 0x15)
  · rw [exec_twinWatchEnable_on, if_pos h]
  · rw [exec_twinWatchEnable_off, if_neg (by rw [h]; decide)]
  · rw [exec_twinWatchEnable_on, if_neg (by rw [hoff]; decide), if_neg (by rw [hno]; decide)]
  · refine ⟨s.twinOn _, ?_, s.twinOn_results _⟩
    rw [exec_twinWatchEnable_on, if_neg (by rw [hoff]; decide), if_pos hok]
  · refine ⟨s.twinOff _, ?_, s.twinOff_results _⟩
    rw [exec_twinWatchEnable_off, if_pos hon]
  · exact ⟨_, exec_twinLost_due hon hheard hdue, s.noteTwinLost_settled _⟩

end Sys2Proof.Machine
end

section
/-! PROOFS. The packets of the fabric's sender: what a frame of the fabric's own leaves as it enters its egress queue, packets sent and sent
again, and the end of a message (R270, R274, R275, R280, R281). -/

namespace Sys2Proof.Machine

/-! ### A frame enters an egress queue (R77, R195, R197, R235) -/

/-- The state without what a frame's entry into an egress queue changes: the frames, the traffic manager with its registers, and the records
raised. -/
def State.besideQueues (s : State) : State × (RegName → Nat → Option (BitVec 64)) :=
  ({ s with regs := [], tm := {}, ports := {}, cairn := {} }, s.regsAt (fun r => r.info.dom != 4))

section Queues
variable {s t : State}

theorem State.zoa_of_besideQueues (h : t.besideQueues = s.besideQueues) : t.zoa = s.zoa := congrArg (fun x => x.1.zoa) h

theorem State.ciph_of_besideQueues (h : t.besideQueues = s.besideQueues) : t.ciph = s.ciph := congrArg (fun x => x.1.ciph) h

theorem State.mem_of_besideQueues (h : t.besideQueues = s.besideQueues) : t.mem = s.mem := congrArg (fun x => x.1.mem) h

theorem State.freeCtr_of_besideQueues (h : t.besideQueues = s.besideQueues) : t.freeCtr = s.freeCtr := congrArg (fun x => x.1.freeCtr) h

theorem State.get_of_besideQueues (h : t.besideQueues = s.besideQueues) {f : Fld} (hf : f.reg.info.dom ≠ 4) (i : Nat) :
    t.get f i = s.get f i := State.get_of_regsAt (congrArg Prod.snd h) (by simp [hf]) i

variable (s)

theorem State.set_besideQueues {f : Fld} (hf : f.reg.info.dom = 4) (i v : Nat) : (s.set f i v).besideQueues = s.besideQueues :=
  Prod.ext rfl (s.regsAt_set (by simp [hf]) i v)

theorem State.setQueue_besideQueues (p q : Nat) (l : List QEnt) : (s.setQueue p q l).besideQueues = s.besideQueues := by
  unfold State.setQueue
  dsimp only
  rw [State.set_besideQueues _ rfl, State.set_besideQueues _ rfl, State.set_besideQueues _ rfl]
  rfl

theorem State.countClamped_besideQueues (p q : Nat) : (s.countClamped p q).besideQueues = s.besideQueues := by
  unfold State.countClamped
  split
  · dsimp only
    rw [State.setQueue_besideQueues]
    refine foldl_keeps State.besideQueues (fun u e => ?_) _ s
    split
    · exact u.set_besideQueues (f := .tmQLaunchClampFrames) rfl _ _
    · rfl
  · rfl

theorem State.enqueue_besideQueues (fid p q : Nat) (f : Frame) : (s.enqueue fid p q f).besideQueues = s.besideQueues := by
  unfold State.enqueue
  extract_lets len limit e u v
  have hu : u.besideQueues = s.besideQueues := by
    by_cases h : (f.launch.isSome && !s.is .tmQCfgLaunchEn (qbIx p q (s.tmBank p))) = true
    · rw [show u = s.bump .tmQLaunchIgnFrames (p * 16 + q) from if_pos h]
      exact s.set_besideQueues (f := .tmQLaunchIgnFrames) rfl _ _
    · rw [show u = s from if_neg h]
  have hv : v.besideQueues = s.besideQueues :=
    (State.countClamped_besideQueues _ p q).trans ((u.setQueue_besideQueues p q _).trans hu)
  split
  · exact (v.set_besideQueues (f := .tmBufStaContract) rfl _ _).trans hv
  · exact (v.set_besideQueues (f := .tmBufStaOther) rfl _ _).trans hv

theorem State.enterQueue_besideQueues (fid p q : Nat) (f : Frame) : (s.enterQueue fid p q f).1.besideQueues = s.besideQueues := by
  unfold State.enterQueue
  dsimp only
  split
  · split
    · exact s.set_besideQueues (f := .tmBufFaultFrames) rfl _ _
    · exact s.enqueue_besideQueues fid p q f
  · split
    · exact s.set_besideQueues (f := .tmPortDiscFrames) rfl _ _
    · split
      · exact s.set_besideQueues (f := .tmQDropFrames) rfl _ _
      · exact s.enqueue_besideQueues fid p q f

theorem State.discard_besideQueues (fid : Nat) : (s.discard fid).besideQueues = s.besideQueues := by
  unfold State.discard
  split <;> rfl

theorem State.bump_besideQueues {t : State} (h : t.besideQueues = s.besideQueues) {f : Fld} (hf : f.reg.info.dom ≠ 4) (i n : Nat) :
    (t.bump f i n).besideQueues = (s.bump f i n).besideQueues := by
  refine Prod.ext (congrArg Prod.fst h :) ?_
  have hk : (fun r : RegName => r.info.dom != 4) f.reg = true := by simp [hf]
  have hget : t.get f i = s.get f i := State.get_of_besideQueues h hf i
  funext r j
  by_cases hr : (r.info.dom != 4) = true
  · have hreg : (t.bump f i n).reg r j = (s.bump f i n).reg r j := by
      rw [State.bump, State.bump, hget]
      exact State.reg_set_congr _ (State.reg_of_regsAt (congrArg Prod.snd h) hk i) (State.reg_of_regsAt (congrArg Prod.snd h) hr j)
    simp only [State.besideQueues, State.regsAt, hreg]
  · simp only [State.besideQueues, State.regsAt, if_neg hr]

/-- A frame of the fabric's own is counted, whether or not it enters its queue. -/
theorem State.sendFrame_besideQueues (p q : Nat) (b : Bytes) (last : Option Nat) (z : Option ZBuild) :
    (s.sendFrame p q b last z).besideQueues = (s.bump .zoaCntCount 0).besideQueues := by
  unfold State.sendFrame
  extract_lets f r e
  refine State.bump_besideQueues s ?_ (by decide) 0 1
  have he : e.1.besideQueues = s.besideQueues := r.1.enterQueue_besideQueues r.2 p q f
  split
  · exact he
  · exact (e.1.discard_besideQueues r.2).trans he

end Queues

/-! ### A request packet (R270, R275, R291) -/

section Send
variable (s : State) (k : Nat) (m : ZMsg) (w : Wq) (i : Nat) (again : Bool)

/-- What a request packet is built from: it goes by the next port of its context's set. -/
def State.nextBuild : ZBuild :=
  { msg := k, pkt := i, again := again, entry := (SMap.getD s.zoa.cursor m.ctx (w.ports.length - 1) + 1) % max 1 w.ports.length }

/-- The length of a request packet on the wire. -/
def State.wireLen : Nat := (s.reqFrame w m (s.nextBuild k m w i again) 0).length + 20 + (if w.prot then 16 else 0)

/-- A message with its packet `i` counted as sent at the elapsed time `t`. -/
def ZMsg.sending (m : ZMsg) (i t : Nat) : ZMsg := { m with next := max m.next (i + 1), sent := m.sent <|> some t }

/-- A packet's message and context with the packet counted as sent. -/
def State.noteSend : State :=
  let t := max (SMap.getD s.zoa.pace m.ctx 0) s.elapsed + paceUnits w.rate (s.wireLen k m w i again)
  let u := s.putMsg k (some (m.sending i s.elapsed))
  { u with zoa := { u.zoa with cursor := SMap.put u.zoa.cursor m.ctx (some (s.nextBuild k m w i again).entry),
                               pace := SMap.put u.zoa.pace m.ctx (some t) } }

theorem State.sendPkt_eq : s.sendPkt k m w i again =
    if w.prot then (s.noteSend k m w i again).addJob 2 (.zoaOut (s.nextBuild k m w i again)) w.keyIx (s.wireLen k m w i again)
    else (s.noteSend k m w i again).queuePkt (s.nextBuild k m w i again) := rfl

theorem State.noteSend_pace : (s.noteSend k m w i again).zoa.pace = SMap.put s.zoa.pace m.ctx
    (some (max (SMap.getD s.zoa.pace m.ctx 0) s.elapsed + paceUnits w.rate (s.wireLen k m w i again))) := rfl

theorem State.noteSend_results : let t := s.noteSend k m w i again
    SMap.find t.zoa.msgs k = some (m.sending i s.elapsed) ∧
    max (SMap.getD s.zoa.pace m.ctx 0) s.elapsed ≤ SMap.getD t.zoa.pace m.ctx 0 ∧ (∀ c, t.ctx? c = s.ctx? c) ∧
    KeepsBut [.zoa] s t := by
  refine ⟨?_, ?_, fun c => rfl, fun p hp => ?_⟩
  · exact s.find_putMsg_self k (some (m.sending i s.elapsed))
  · have hpace : SMap.getD (s.noteSend k m w i again).zoa.pace m.ctx 0 =
        max (SMap.getD s.zoa.pace m.ctx 0) s.elapsed + paceUnits w.rate (s.wireLen k m w i again) := by
      rw [s.noteSend_pace k m w i again, SMap.getD, SMap.find_put_self s.zoa.pace m.ctx _]
      rfl
    exact hpace ▸ Nat.le_add_right _ _
  · cases p
    case zoa => exact absurd List.mem_cons_self hp
    all_goals rfl

/-- A request packet of a message that its context may send is a frame of the fabric's own. -/
theorem State.queuePkt_besideQueues {s : State} {z : ZBuild} {m : ZMsg} {w : Wq} (hm : SMap.find s.zoa.msgs z.msg = some m)
    (hw : s.ctx? m.ctx = some w) : (s.queuePkt z).besideQueues = (s.useFree.bump .zoaCntCount 0).besideQueues := by
  simp only [State.queuePkt, hm, hw]
  exact State.sendFrame_besideQueues _ _ _ _ _ _

/-- A packet sent is counted in its message and its context; one in plain is a frame counted, a protected one a message of the engine. -/
theorem State.sendPkt_results {s : State} {w : Wq} (hw : s.ctx? m.ctx = some w) : let t := s.sendPkt k m w i again
    SMap.find t.zoa.msgs k = some (m.sending i s.elapsed) ∧
    max (SMap.getD s.zoa.pace m.ctx 0) s.elapsed ≤ SMap.getD t.zoa.pace m.ctx 0 ∧
    (w.prot = false → t.get .zoaCntCount 0 = (s.get .zoaCntCount 0 + 1) % 2 ^ 64 ∧ t.freeCtr = s.freeCtr + 1 ∧ t.ciph = s.ciph) ∧
    (w.prot = true → t.regs = s.regs ∧ ∃ j : CipherJob, t.ciph.jobs = s.ciph.jobs ++ [j] ∧ j.cls = 2 ∧ j.keyIx = w.keyIx) := by
  obtain ⟨hmsg, hpace, hctx, hkeeps⟩ := s.noteSend_results k m w i again
  let u := s.noteSend k m w i again
  rw [s.sendPkt_eq k m w i again]
  cases hprot : w.prot with
  | true => exact ⟨hmsg, hpace, nofun, fun _ => ⟨rfl, _, rfl, rfl, rfl⟩⟩
  | false =>
    have hsent : (u.queuePkt (s.nextBuild k m w i again)).besideQueues = (u.useFree.bump .zoaCntCount 0).besideQueues :=
      State.queuePkt_besideQueues hmsg ((hctx m.ctx).trans hw)
    have hzoa : (u.queuePkt (s.nextBuild k m w i again)).zoa = u.zoa := (State.zoa_of_besideQueues hsent :)
    have hcount : (u.useFree.bump .zoaCntCount 0).get .zoaCntCount 0 = (s.get .zoaCntCount 0 + 1) % 2 ^ 64 :=
      u.useFree.get_bump_self .zoaCntCount 0 1 (by decide) (by decide)
    refine ⟨(congrArg (fun z : Zoano => SMap.find z.msgs k) hzoa).trans hmsg,
      hpace.trans (le_of_eq (congrArg (fun z : Zoano => SMap.getD z.pace m.ctx 0) hzoa).symm), fun _ => ⟨?_, ?_, ?_⟩, nofun⟩
    · exact (State.get_of_besideQueues hsent (f := .zoaCntCount) (by decide) 0).trans hcount
    · exact (State.freeCtr_of_besideQueues hsent :)
    · exact (State.ciph_of_besideQueues hsent :)

end Send

/-! ### The sender's commands (R270, R275, R280, R281) -/

section Commands
variable {s : State}

theorem exec_zoaPacketSend_none {q : SendCtx} (h : s.nextMsg (ctxNum q) = none) : exec (.zoaPacketSend q) s = .next s := by
  have hdef : exec (.zoaPacketSend q) s = execZoaPacketSend q s := rfl
  simp only [hdef, execZoaPacketSend, h, Option.isSome_none, Bool.false_eq_true, if_false]

/-- The context's next packet goes if the fabric may send it. -/
theorem exec_zoaPacketSend_some {q : SendCtx} {k : Nat} {m : ZMsg} {w : Wq} (h : s.nextMsg (ctxNum q) = some (k, m))
    (hw : s.ctx? (ctxNum q) = some w) (hpace : SMap.getD s.zoa.pace (ctxNum q) 0 ≤ s.elapsed) : exec (.zoaPacketSend q) s =
      if s.is .zoaCfgEn && s.gateOpen && s.msgMay k m w then .next (s.sendPkt k m w m.next false) else .next s := by
  have hdef : exec (.zoaPacketSend q) s = execZoaPacketSend q s := rfl
  simp only [hdef, execZoaPacketSend, h, Option.isSome_some, if_true, s.advanceAt_of_reached hpace, hw]

section Message
variable {msg : BitVec 48} {ix : Nat} {h : Bytes}

theorem exec_zoaRetransmit_unknown (hid : s.msgById msg.toNat = none) : exec (.zoaRetransmit msg ⟨ix, h⟩) s = .next s := by
  have hdef : exec (.zoaRetransmit msg ⟨ix, h⟩) s = execZoaRetransmit msg ⟨ix, h⟩ s := rfl
  simp only [hdef, execZoaRetransmit, hid]

theorem exec_zoaMsgTimeout_unknown (hid : s.msgById msg.toNat = none) : exec (.zoaMsgTimeout msg) s = .next s := by
  have hdef : exec (.zoaMsgTimeout msg) s = execZoaMsgTimeout msg s := rfl
  simp only [hdef, execZoaMsgTimeout, hid]

variable {k : Nat} {m : ZMsg} (hid : s.msgById msg.toNat = some (k, m))
include hid

theorem exec_zoaRetransmit_unsent (hnone : s.msgBegan k m = none) : exec (.zoaRetransmit msg ⟨ix, h⟩) s = .next s := by
  have hdef : exec (.zoaRetransmit msg ⟨ix, h⟩) s = execZoaRetransmit msg ⟨ix, h⟩ s := rfl
  simp only [hdef, execZoaRetransmit, hid, hnone]

theorem exec_zoaMsgTimeout_unsent (hnone : s.msgBegan k m = none) : exec (.zoaMsgTimeout msg) s = .next s := by
  have hdef : exec (.zoaMsgTimeout msg) s = execZoaMsgTimeout msg s := rfl
  simp only [hdef, execZoaMsgTimeout, hid, hnone]

variable {f : Nat} (hbegan : s.msgBegan k m = some f)
include hbegan

theorem exec_zoaMsgTimeout_due (hdue : f + fiveQuarters m.dcode ≤ s.elapsed) : exec (.zoaMsgTimeout msg) s =
    .next ((s.finalMsg k (if m.soft = 0 then 0x0A else m.soft)).jrnSettle) := by
  have hdef : exec (.zoaMsgTimeout msg) s = execZoaMsgTimeout msg s := rfl
  simp only [hdef, execZoaMsgTimeout, hid, hbegan, s.advanceAt_of_reached hdue]

/-- The instant at which a packet of a message first sent at `f` is sent again, once its granted rate allows. -/
def State.resendAt (s : State) (m : ZMsg) (ix f : Nat) : Nat :=
  max (f + retransAt m.dcode (SMap.getD m.tries ix 0)) (SMap.getD s.zoa.pace m.ctx 0)

/-- A packet that was never sent or is acknowledged, or whose instant would come too late, is not sent again, nor any while the fabric is
off or the gate shut. -/
def State.noResend (s : State) (m : ZMsg) (ix f : Nat) : Prop :=
  m.next ≤ ix ∨ (m.op ≠ 2 ∧ bitOf m.acked ix = true) ∨ f + m.dcode * deltaUnit - 4 * deltaUnit < max (s.resendAt m ix f) s.elapsed ∨
    s.is .zoaCfgEn = false ∨ s.gateOpen = false

variable {w : Wq} (hw : s.ctx? m.ctx = some w)
include hw

theorem exec_zoaRetransmit_not (hno : s.noResend m ix f) : exec (.zoaRetransmit msg ⟨ix, h⟩) s = .next s := by
  have hdef : exec (.zoaRetransmit msg ⟨ix, h⟩) s = execZoaRetransmit msg ⟨ix, h⟩ s := rfl
  simp only [hdef, execZoaRetransmit, hid, hbegan, hw]
  exact if_pos (by simpa [State.noResend, State.resendAt, ZMsg.lastOf] using hno)

theorem exec_zoaRetransmit_again (hyes : ¬s.noResend m ix f) (hdue : s.resendAt m ix f ≤ s.elapsed) :
    exec (.zoaRetransmit msg ⟨ix, h⟩) s = .next ((s.bump .zoaCntCount 1).sendPkt k
      { m.reread ix h with tries := SMap.put m.tries ix (some (SMap.getD m.tries ix 0 + 1)) } w ix true) := by
  have hdef : exec (.zoaRetransmit msg ⟨ix, h⟩) s = execZoaRetransmit msg ⟨ix, h⟩ s := rfl
  simp only [hdef, execZoaRetransmit, hid, hbegan, hw]
  refine (if_neg (fun hno => hyes (by simpa [State.noResend, State.resendAt, ZMsg.lastOf] using hno))).trans ?_
  have hreached : max (f + retransAt m.dcode (SMap.getD m.tries ix 0)) (SMap.getD s.zoa.pace m.ctx 0) ≤ s.elapsed := hdue
  rw [s.advanceAt_of_reached hreached]

end Message

end Commands

/-! ### The end of a message (R274, R280, R281) -/

section Final
variable {s : State} {k : Nat} {m : ZMsg}

theorem State.wqNotify_zoa (s : State) (c typ : Nat) (body : Bytes) : (s.wqNotify c typ body).zoa = s.zoa := by
  unfold State.wqNotify
  repeat' split
  · rfl
  · exact State.zoa_of_besideRings (s.notify_besideRings _ _ _ _)
  · rfl
  · rfl

theorem State.noteFail_msgs (s : State) (c st : Nat) : (s.noteFail c st).zoa.msgs = s.zoa.msgs := by
  unfold State.noteFail
  split <;> rfl

/-- Whoever a final message is reported to, it alone is no longer among the messages. -/
theorem State.finalMsg_msgs (h : SMap.find s.zoa.msgs k = some m) (st : Nat) :
    (s.finalMsg k st).zoa.msgs = SMap.put s.zoa.msgs k none := by
  simp only [State.finalMsg, h]
  generalize hst : (if m.op = 6 ∧ SMap.getD s.zoa.fails m.ctx 0 ≠ 0 then SMap.getD s.zoa.fails m.ctx 0 else st) = st'
  have hgone : ((s.putMsg k none).noteFail m.ctx st').zoa.msgs = SMap.put s.zoa.msgs k none := State.noteFail_msgs _ _ _
  cases m.user with
  | ring r i e => exact (congrArg Zoano.msgs (State.zoa_of_besideRings (State.complete_besideRings _ _ _ _ _))).trans hgone
  | prog => exact (congrArg Zoano.msgs (State.wqNotify_zoa _ _ _ _)).trans hgone
  | twin => exact hgone
  | jrn t => exact hgone

theorem State.finalMsg_results (h : SMap.find s.zoa.msgs k = some m) (st : Nat) : SMap.find (s.finalMsg k st).zoa.msgs k = none ∧
    ∀ j, j ≠ k → SMap.find (s.finalMsg k st).zoa.msgs j = SMap.find s.zoa.msgs j := by
  rw [State.finalMsg_msgs h]
  exact ⟨SMap.find_put_self _ _ _, fun j hj => SMap.find_put_of_ne _ _ hj⟩

theorem State.progress_final (s : State) {k : Nat} {m : ZMsg} {b : Nat} (h : (m.acked ||| b) + 1 = 2 ^ m.parts) :
    SMap.find (s.progress k m b).zoa.msgs k = none := by
  have hfinal : s.progress k m b = (s.putMsg k (some { m with acked := m.acked ||| b })).finalMsg k 0 := if_pos h
  rw [hfinal]
  exact (State.finalMsg_results (s.find_putMsg_self k _) 0).1

theorem State.progress_open (s : State) {k : Nat} {m : ZMsg} {b : Nat} (h : (m.acked ||| b) + 1 ≠ 2 ^ m.parts) :
    s.progress k m b = s.putMsg k (some { m with acked := m.acked ||| b }) := if_neg h

end Final

end Sys2Proof.Machine
end

section
/-! PROOFS. The packets the fabric receives: what a frame brings, replies to a sender and requests to a receiver (R262-R264, R268, R272,
R274, R276, R277, R280, R283, R285), and the statement O39. -/

namespace Sys2Proof.Machine

/-! ### What a frame brings (R262-R264, R291) -/

section Exec
variable (n : Port) (pkt h : Bytes) (s : State)

theorem exec_zoaReqRx : exec (.zoaReqRx n pkt h) s = .next (s.zoaTake 1 n.val pkt h) := rfl
theorem exec_zoaAckRx : exec (.zoaAckRx n pkt) s = .next (s.zoaTake 2 n.val pkt []) := rfl
theorem exec_zoaNakRx : exec (.zoaNakRx n pkt) s = .next (s.zoaTake 3 n.val pkt []) := rfl
theorem exec_zoaRespRx : exec (.zoaRespRx n pkt) s = .next (s.zoaTake 4 n.val pkt []) := rfl

end Exec

section Take
variable {s : State} {n : Nat} {pkt : Bytes}

/-- Where a frame's effect depends on no kind of packet, the four commands have it alike. -/
theorem exec_packets_alike {n : Port} {t : State} (h : ∀ k host, s.zoaTake k n.val pkt host = t) (host : Bytes) :
    exec (.zoaReqRx n pkt host) s = .next t ∧ exec (.zoaAckRx n pkt) s = .next t ∧ exec (.zoaNakRx n pkt) s = .next t ∧
      exec (.zoaRespRx n pkt) s = .next t :=
  ⟨by rw [exec_zoaReqRx, h], by rw [exec_zoaAckRx, h], by rw [exec_zoaNakRx, h], by rw [exec_zoaRespRx, h]⟩

theorem State.zoaTake_none (h : s.zoaIn n pkt = .none) (k : Nat) (host : Bytes) : s.zoaTake k n pkt host = s := by
  simp only [State.zoaTake, h]

theorem State.zoaTake_malformed (h : s.zoaIn n pkt = .malformed) (k : Nat) (host : Bytes) :
    s.zoaTake k n pkt host = s.bump .zoaCntCount 9 := by
  simp only [State.zoaTake, h]

theorem State.zoaTake_badTag (h : s.zoaIn n pkt = .badTag) (k : Nat) (host : Bytes) :
    s.zoaTake k n pkt host = (s.bump .zoaCntCount 7).bump .ciphTagFailFails := by
  simp only [State.zoaTake, h, State.tagBad]

theorem State.zoaTake_sealed {p : ZPkt} {r : ZFrom} {tag : Bytes} (h : s.zoaIn n pkt = .sealed p r tag) (k : Nat) (host : Bytes) :
    s.zoaTake k n pkt host = if p.kind = k then s.addJob 2 (.zoaIn r p tag host) p.keyIx (56 + p.plen) else s := by
  simp only [State.zoaTake, h]

section Good
variable {p : ZPkt} {r : ZFrom} (h : s.zoaIn n pkt = .good p r)
include h

theorem State.zoaTake_other {k : Nat} (hk : p.kind ≠ k) (host : Bytes) : s.zoaTake k n pkt host = s := by
  simp only [State.zoaTake, h, if_neg hk]

theorem State.zoaTake_req (hk : p.kind = 1) (host : Bytes) : s.zoaTake 1 n pkt host = s.recvReq r p host := by
  simp only [State.zoaTake, h, State.zoaAct, if_pos hk]

theorem State.zoaTake_ack (hk : p.kind = 2) (host : Bytes) : s.zoaTake 2 n pkt host = s.takeAck p := by
  simp only [State.zoaTake, h, State.zoaAct, hk]
  rfl

theorem State.zoaTake_nak (hk : p.kind = 3) (host : Bytes) : s.zoaTake 3 n pkt host = s.takeNak p := by
  simp only [State.zoaTake, h, State.zoaAct, hk]
  rfl

theorem State.zoaTake_resp (hk : p.kind = 4) (host : Bytes) : s.zoaTake 4 n pkt host = s.takeResp p := by
  simp only [State.zoaTake, h, State.zoaAct, hk]
  rfl

end Good

end Take

/-! ### Replies to a sender (R272, R274, R280, R281) -/

section Replies
variable {s : State} {p : ZPkt} {k : Nat} {m : ZMsg}

theorem State.takeResp_unasked (h : s.zoaAnswered p = none) : s.takeResp p = s.bump .zoaCntCount 3 := by
  simp only [State.takeResp, h]

section Answered
variable (h : s.zoaAnswered p = some (k, m))
include h

theorem State.takeAck_answered (hop : m.op = 1 ∨ m.op = 5 ∨ m.op = 6) :
    s.takeAck p = (s.progress k m (m.cover p.off p.total)).jrnSettle := by
  simp only [State.takeAck, h]
  exact if_pos hop

theorem State.takeNak_soft (hst : p.status = 2 ∨ p.status = 3 ∨ p.status = 7) :
    s.takeNak p = s.putMsg k (some { m with soft := p.status }) := by
  simp only [State.takeNak, h]
  exact if_pos hst

theorem State.takeNak_fatal (h2 : p.status ≠ 2) (h3 : p.status ≠ 3) (h7 : p.status ≠ 7) :
    s.takeNak p = (s.finalMsg k p.status).jrnSettle := by
  simp only [State.takeNak, h]
  exact if_neg (by simp [h2, h3, h7])

theorem State.takeResp_read (hop : m.op = 2) :
    s.takeResp p = s.placeLocal k m p.off p.payload (fun u => u.progress k m (m.cover p.off p.plen)) := by
  simp only [State.takeResp, h]
  exact if_pos hop

end Answered

section Place
variable {q i : Nat} {y : Bytes} (hlocal : m.lext = false) (huser : m.user = .ring q i y) (hrun : i ∈ (s.ring q).running)
  (off : Nat) (d : Bytes) (g : State → State)
include hlocal huser hrun

/-- Reply bytes for a ring's entry that still runs go on through its ring; a write that fails takes the message first. -/
theorem State.placeLocal_ring : s.placeLocal k m off d g =
    (if s.wrFails m.owner (m.laddr + off) d.length then s.putMsg k none else s).putThen q i (m.laddr + off) d g := by
  have hcontains : (s.ring q).running.contains i = true := List.contains_iff_mem.2 hrun
  simp only [State.placeLocal, hlocal, huser, hcontains, if_true, Bool.false_eq_true, if_false]

theorem State.placeLocal_failed (hown : m.owner = s.ringOwner q) (hfails : s.wrFails m.owner (m.laddr + off) d.length = true) :
    SMap.find (s.placeLocal k m off d g).zoa.msgs k = none := by
  let a := m.laddr + off
  let u := s.putMsg k none
  have hput : s.placeLocal k m off d g = ((u.tryAts (u.ringOwner q) a d.length).ringError q ecAccess i).abandon q i := by
    rw [State.placeLocal_ring hlocal huser hrun, if_pos hfails, State.putThen]
    exact if_pos (hown ▸ hfails)
  have hzoa : (s.placeLocal k m off d g).zoa = u.zoa := by
    rw [hput]
    refine State.zoa_of_besideRings ?_
    rw [State.abandon_besideRings, State.ringError_besideRings, State.tryAts_besideRings]
  rw [hzoa]
  exact s.find_putMsg_self k none

theorem State.placeLocal_placed (hown : m.owner = s.ringOwner q) (hgood : s.wrFails (s.ringOwner q) (m.laddr + off) d.length = false) :
    s.placeLocal k m off d g = g (s.hostWriteFor (some (q, i)) m.owner (m.laddr + off) d) := by
  rw [State.placeLocal_ring hlocal huser hrun, hown, if_neg (by rw [hgood]; decide), State.putThen]
  exact if_neg (by rw [hgood]; decide)

end Place

end Replies

/-! ### A request to a receiver (R272, R276, R277, R283, R285) -/

section Requests
variable {s : State} {r : ZFrom} {p : ZPkt} {host : Bytes}

/-- The Δ code of a request, its Δ in LT units, and its age. -/
def ZPkt.code (p : ZPkt) : Nat := p.dst % 2 ^ 12
def ZPkt.life (p : ZPkt) : Int := (p.code * deltaUnit : Nat)
def State.reqAge (s : State) (p : ZPkt) : Int := ltDiff s.domainTime p.first

theorem ZPkt.life_nonneg (p : ZPkt) : 0 ≤ p.life := Int.natCast_nonneg _

theorem State.recvReq_dishonoured (h : s.deltaHonoured p.code = false) : s.recvReq r p host = (s.bump .zoaCntCount 8).nak r p 9 :=
  if_pos (by rw [show s.deltaHonoured (p.dst % 2 ^ 12) = false from h]; rfl)

section Honoured
variable (hcode : s.deltaHonoured p.code = true)
include hcode

/-- A packet of a message without an entry is judged by fitness and its age. -/
theorem State.recvReq_first (hnew : SMap.find s.zoa.dups p.dupKey = none) : s.recvReq r p host =
    if s.zoaUnfit p.code then (s.bump .zoaCntCount 8).nak r p 3
    else if p.life ≤ s.reqAge p then (s.bump .zoaCntCount 4).nak r p 1
    else if s.reqAge p < -(p.life / 4) then (s.bump .zoaCntCount 8).nak r p 3
    else s.newMsg r p (s.reqAge p) host := by
  unfold State.recvReq
  extract_lets c age d e again
  have hagain : again = false := by simp only [again, e, hnew]
  rw [if_neg (by rw [show s.deltaHonoured c = true from hcode]; decide), hagain]
  simp only [e, hnew, Bool.not_false, and_true]
  rfl

/-- A packet already placed, in time and of a message that has not failed, is counted, and answered again once what it placed can reach the
host. -/
theorem State.recvReq_placed {e : ZEntry} (hold : SMap.find s.zoa.dups p.dupKey = some e) (hgood : e.failed = 0)
    (hplaced : bitOf e.placed p.index = true) (hlate : s.reqAge p < p.life) (hearly : -(p.life / 4) ≤ s.reqAge p) (hop : p.op = 1) :
    s.recvReq r p host = if s.owes p then s.bump .zoaCntCount 2 else (s.bump .zoaCntCount 2).ack r p := by
  unfold State.recvReq
  extract_lets c age d e' again
  have hagain : again = true := by simp only [again, e', hold, hplaced]
  rw [if_neg (by rw [show s.deltaHonoured c = true from hcode]; decide), hagain, if_neg (by simp),
    if_neg (show ¬d ≤ age from not_le.2 hlate), if_neg (show ¬age < -(d / 4) from not_lt.2 hearly)]
  simp only [e', hold, hgood, hop]
  rfl

end Honoured

/-- An acknowledgement leaves every memory as it was. -/
theorem State.ack_mem (s : State) (r : ZFrom) (p : ZPkt) : (s.ack r p).mem = s.mem := by
  unfold State.ack State.zoaReply
  extract_lets a
  split
  · rfl
  · exact (State.mem_of_besideQueues (State.sendFrame_besideQueues _ _ _ _ _ _) :)

end Requests

/-! ### The statement -/

/-- Settles O39: the sender's clauses by its message and the instants, a frame's by what it brings, a request's by the checks in their order. -/
theorem fabricPacketResults : Obligations.FabricPacketResults := by
  unfold Obligations.FabricPacketResults
  intro q msg ix n pkt h s
  refine ⟨exec_zoaPacketSend_none, fun k m w hnext hw hpace => ⟨fun hmay => ?_, fun hnot => ?_⟩,
    fun k m w i again hw => State.sendPkt_results k m i again hw,
    fun hid => ⟨exec_zoaRetransmit_unknown hid, exec_zoaMsgTimeout_unknown hid⟩,
    fun k m hid => ⟨fun hnone => ⟨exec_zoaRetransmit_unsent hid hnone, exec_zoaMsgTimeout_unsent hid hnone⟩, fun f hf => ?_,
      fun hf hway => ?_, fun hf hway => ?_, fun f w hbegan hw => ⟨exec_zoaRetransmit_not hid hbegan hw,
        exec_zoaRetransmit_again hid hbegan hw⟩, fun f hbegan => exec_zoaMsgTimeout_due hid hbegan⟩,
    fun k m st hm => State.finalMsg_results hm st, fun hin => exec_packets_alike (State.zoaTake_none hin) h,
    fun hin => exec_packets_alike (State.zoaTake_malformed hin) h, fun hin => exec_packets_alike (State.zoaTake_badTag hin) h,
    fun p r tag hin => ⟨?_, ?_, ?_, ?_⟩, fun p r hin => ⟨fun hk => ?_, fun hk k m ha hop => ?_, fun hk k m ha => ⟨fun hst => ?_,
      fun h2 h3 h7 => ?_⟩, fun hk ha => ?_, fun hk k m ha hop => ?_, fun k m g hlocal q i y huser hrun => ⟨fun hfails hown => ?_,
      fun hgood hown => ?_⟩, fun hk => ?_, fun hk => ?_, fun hk => ?_, fun hk => ?_⟩,
    fun k m b => ⟨s.progress_final, s.progress_open⟩, fun r p => ⟨State.recvReq_dishonoured, fun hcode hnew => ⟨fun hunfit => ?_,
      fun hfit hlate => ?_, fun hfit hearly => ?_⟩, fun e hcode hold hgood hplaced hlate hearly hop => ?_⟩⟩
  · obtain ⟨hon, hgate, hmsg⟩ := hmay
    rw [exec_zoaPacketSend_some hnext hw hpace, if_pos (by rw [hon, hgate, hmsg]; rfl)]
  · rw [exec_zoaPacketSend_some hnext hw hpace, if_neg (by simpa [and_assoc] using hnot)]
  · simp only [State.msgBegan, hf]
  · simp only [State.msgBegan, hf, hway, if_true]
  · simp only [State.msgBegan, hf, hway, Bool.false_eq_true, if_false]
  · rw [exec_zoaReqRx, State.zoaTake_sealed hin]
  · rw [exec_zoaAckRx, State.zoaTake_sealed hin]
  · rw [exec_zoaNakRx, State.zoaTake_sealed hin]
  · rw [exec_zoaRespRx, State.zoaTake_sealed hin]
  · rw [exec_zoaReqRx, State.zoaTake_req hin hk]
  · rw [exec_zoaAckRx, State.zoaTake_ack hin hk, State.takeAck_answered ha hop]
  · rw [exec_zoaNakRx, State.zoaTake_nak hin hk, State.takeNak_soft ha hst]
  · rw [exec_zoaNakRx, State.zoaTake_nak hin hk, State.takeNak_fatal ha h2 h3 h7]
  · rw [exec_zoaRespRx, State.zoaTake_resp hin hk, State.takeResp_unasked ha]
  · rw [exec_zoaRespRx, State.zoaTake_resp hin hk, State.takeResp_read ha hop]
  · exact State.placeLocal_failed hlocal huser hrun p.off p.payload g hown hfails
  · exact State.placeLocal_placed hlocal huser hrun p.off p.payload g hown hgood
  · rw [exec_zoaReqRx, State.zoaTake_other hin hk]
  · rw [exec_zoaAckRx, State.zoaTake_other hin hk]
  · rw [exec_zoaNakRx, State.zoaTake_other hin hk]
  · rw [exec_zoaRespRx, State.zoaTake_other hin hk]
  · exact (State.recvReq_first hcode hnew).trans (if_pos hunfit)
  · refine (State.recvReq_first hcode hnew).trans ((if_neg ?_).trans (if_pos hlate))
    rw [show s.zoaUnfit p.code = false from hfit]
    decide
  · have hyoung : ¬p.life ≤ s.reqAge p := by
      have hlife := p.life_nonneg
      have hage : s.reqAge p < -(p.life / 4) := hearly
      omega
    refine (State.recvReq_first hcode hnew).trans ((if_neg ?_).trans ((if_neg hyoung).trans (if_pos hearly)))
    rw [show s.zoaUnfit p.code = false from hfit]
    decide
  · have hreq := State.recvReq_placed (r := r) (host := h) hcode hold hgood hplaced hlate hearly hop
    refine ⟨hreq, ?_⟩
    rw [hreq]
    split
    · rfl
    · exact State.ack_mem _ r p

end Sys2Proof.Machine
end
